-- ==== Sys2Proof/Word.lean ====
section
/-! DEFINITION. The words of the machine and their plainest arithmetic.

The G9 holds bytes (8 bits), registers and fabric words (64 bits, R4), local addresses (48 bits, R23) and fabric
addresses (60 bits, R27).  Register contents and memory bytes are bit vectors where the spec shifts, masks or encodes
them; counts, indexes and addresses under computation are plain naturals. -/

namespace Sys2Proof

/-- One byte of memory. -/
abbrev Byte := BitVec 8

/-- One 64-bit word (a register of R4, a VE scalar register, one lane word). -/
abbrev Word := BitVec 64

/-- `a` rounded up to a whole number of `b`. -/
abbrev ceilDiv (a b : Nat) : Nat := (a + b - 1) / b

end Sys2Proof
end

