-- ==== Sys2Proof/Syntax.lean ====
section
/-! DEFINITION. The commands of the module: one constructor for each row of the command table, with what the sender or the environment gives it. Units are
numbered module-wide: cluster 8 × die + cluster, group 8 × die + group, port 6 × die + port. -/

namespace Sys2Proof

/-- Outcome of an ECC check on the words that an agent reads: clean, corrected, uncorrectable. -/
inductive Ecc where
  | none | ce | ue
  deriving DecidableEq, Repr

/-- What the receiver's decoder made of a flit (R325, R326): whether every codeword that it touches could be corrected, the codewords that could not be and
that touched no earlier flit, the symbols corrected, and each lane's corrected symbols of the last millisecond in units of 1,024, eight bits a lane. -/
structure Fec where
  ok : Bool
  uncorrected : BitVec 8
  corrected : BitVec 32
  lanes : BitVec 64
  deriving DecidableEq, Repr

/-- A sum of a sweep that a hardware fault may strike (R94): output c(m, j), row reference s(m) of column group g, column
reference t(j). -/
inductive CellSum where
  | out (m j : Nat)
  | rowRef (m g : Nat)
  | colRef (j : Nat)
  deriving DecidableEq, Repr

/-- A difference between what was written to an access and what it now holds: group, stripe, member, and a 288-bit mask over the
32 data bytes (low) and the 32 metadata bits (high) of R302. -/
structure AccFault where
  grp : Fin 32
  stripe : Nat
  member : Nat
  mask : Nat
  deriving DecidableEq, Repr

/-- An agent of this device that names memory: its partition (none for the MC and the security island, R301) and its
die. -/
structure Agent where
  part : Option Nat
  die : Nat
  deriving DecidableEq, Repr

/-- How the read-back of a rebuilt access went (R314): passed, repaired its row, or found no repair resources left. -/
inductive ReadBack where
  | ok | repaired | exhausted
  deriving DecidableEq, Repr

/-- A shelf of a core or of a commons (R160); clusters are numbered module-wide. -/
inductive ShelfSel where
  | core (cl : Fin 32) (k : Fin 16) (n : Fin 64)
  | commons (cl : Fin 32) (n : Fin 256)
  deriving DecidableEq, Repr

/-- What SENSOR_REFRESH reads (R469): the input in 10 mV, 0.1 A and W with the energy since t0 in J; a cluster's junction, in 1/16 °C, or no
valid reading; a die's hottest LPDDR6 package; a cold-plate thermistor; or a sensor that the module computes from its own registers. -/
inductive SensorReading where
  | input (volts amps watts : BitVec 16) (joules : BitVec 64)
  | junction (cl : Fin 32) (t : Option (BitVec 16))
  | package (die : Fin 4) (t : BitVec 16)
  | coolant (outlet : Bool) (t : BitVec 16)
  | computed (id : Fin 256)
  deriving DecidableEq, Repr

/-- Who writes a register: the management core of a die, the security island, the sideband, the host through the PF, or software of a
partition (R4, R341, R365, R454). -/
inductive RegAgent where
  | mc (die : Fin 4)
  | island
  | sideband
  | pf
  | vf (n : Fin 16)
  | part (p : Fin 16)
  deriving DecidableEq, Repr

/-- The straps as the board connects them (R475, R476). -/
structure StrapPins where
  smbAddr : Fin 8
  feedId : Fin 16
  bridgeSel : Bool
  norMode : Bool
  testMode : Bool
  deriving DecidableEq, Repr

/-- What a bring-up stage finds (R417, R430, R434): whether every management core and die-to-die bridge started, members whose seeded training failed, members whose
training failed, and by die × 512 + cluster × 32 + physical core the cores, and the ports, that fail self-test. -/
structure StageFindings where
  diesGood : Bool
  seedFails : BitVec 256
  trainFails : BitVec 256
  coreFails : BitVec 2048
  portFails : BitVec 24
  deriving DecidableEq, Repr

/-- A word of SRAM in which an ECC error is found (R181): of a scratchpad, of a commons, or the tag of a cache line. -/
inductive SramSite where
  | scratch (cl : Fin 32) (k : Fin 16) (off : BitVec 22)
  | commons (cl : Fin 32) (off : BitVec 25)
  | tag (cl : Fin 32) (k : Fin 16) (way : Fin 16) (set : Fin 512)
  deriving DecidableEq, Repr

/-- An agent that waits on a sync counter (R280): a core sequencer, a VE thread, a DMA channel, a work queue, a step of a group
(backward or not), the arrivals of a collective at a step's place, or the seeds of a plan. -/
inductive WaitAgent where
  | seq (cl : Fin 32) (k : Fin 16)
  | ve (cl : Fin 32) (k : Fin 16) (t : Fin 8)
  | dma (cl : Fin 32) (n : Fin 32)
  | wq (n : Fin 64)
  | step (cl : Fin 32) (bwd : Bool)
  | arrivals (cl : Fin 32) (place : Fin 4)
  | seed (cl : Fin 32)
  deriving DecidableEq, Repr

/-- A command of the block: what arrives at the module from outside, or the next thing that one of its units does. -/
inductive Instr where
  /-- REG_WRITE (R6): A software write to a register that has no row of its own sets RW fields, clears W1C bits or starts nothing, as its access code lays down. -/
  | regWrite (who : RegAgent) (die : Fin 4) (off : BitVec 32) (size : Fin 9) (value : BitVec 64)
  /-- WINDOW_WRITE (R341): A write to a remote window register takes effect only when it comes from the MC or the security island, and otherwise sets WIN_WRITE_DENIED. -/
  | windowWrite (who : RegAgent) (die : Fin 4) (win : Fin 256) (word : Fin 4) (value : BitVec 64)
  /-- SEC_REG_WRITE (R454): A write to the SEC block takes effect only from the MC of D0, the sideband or REG_INIT, and otherwise sets SEC_STATUS.DENIED. -/
  | secRegWrite (who : RegAgent) (off : BitVec 22) (size : Fin 9) (value : BitVec 64)
  /-- CACHE_CONFIG_WRITE (R178): A write to SP_CACHE_CFG or SP_CACHE_OWNER first writes back and invalidates the ways that change, or it is refused with CACHE_REFUSED. -/
  | cacheConfigWrite (cl : Fin 32) (k : Fin 16) (who : RegAgent) (owner : Bool) (value : BitVec 64)
  /-- CACHE_WRITE_BACK (R177): SP_CACHE_OP with OP = 1 writes back the dirty lines of one cache context or of every context. -/
  | cacheWriteBack (cl : Fin 32) (k : Fin 16) (ctx : Fin 8) (all : Bool)
  /-- CACHE_INVALIDATE (R177): SP_CACHE_OP with OP = 2 invalidates the lines of one cache context or of every context. -/
  | cacheInvalidate (cl : Fin 32) (k : Fin 16) (ctx : Fin 8) (all : Bool)
  /-- CACHE_WRITE_BACK_INVALIDATE (R177): SP_CACHE_OP with OP = 3 writes back and then invalidates the lines of one cache context or of every context. -/
  | cacheWriteBackInvalidate (cl : Fin 32) (k : Fin 16) (ctx : Fin 8) (all : Bool)
  /-- RALLY_LOAD (R43): A work-queue command that has every RSEQ of the partition read and validate a rally plan and enter LOADED. -/
  | rallyLoad (n : Fin 64)
  /-- RALLY_RUN (R44): A work-queue command that moves the RSEQs to RUNNING so that they walk the loaded plan for one step. -/
  | rallyRun (n : Fin 64)
  /-- PASS_ADMIT (R51): The RSEQ admits the oldest waiting pass of a group once its dependencies have retired and its whole reservation can be granted at once. -/
  | passAdmit (p : Fin 16) (bwd : Bool) (await : BitVec 32)
  /-- PASS_RETIRE (R45): Once every write response of a closing pass has returned, the RSEQ releases the reservation, hands on the carry and increments DONE_SYNC. -/
  | passRetire (cl : Fin 32) (bwd : Bool) (high : Bool)
  /-- GROUP_SPLIT (R49): After the admitted passes have retired, the RSEQ divides the cores and pools into forward and backward groups. -/
  | groupSplit (cl : Fin 32)
  /-- GROUP_REJOIN (R49): When the backward pass that was running as the forward queue empties retires, the RSEQ rejoins the cores and pools. -/
  | groupRejoin (cl : Fin 32)
  /-- STEP_ISSUE (R38): Once its WAIT_SYNC and its gather piece are satisfied, a step record issues and the control core plans or expands its descriptor. -/
  | stepIssue (cl : Fin 32) (bwd : Bool) (gwait : BitVec 32) (cyc : BitVec 32)
  /-- PLAN_HALT_COMPLETE (R62): When the last independent admitted pass retires, the RSEQ enters HALTED and the RALLY_RUN completes with the halt code. -/
  | planHaltComplete (cl : Fin 32)
  /-- HALT_REQ (R66): A write of 1 to CL_RSEQ_CTRL.HALT_REQ while RUNNING halts the plan with reason 0xF0. -/
  | haltReq (cl : Fin 32)
  /-- RSEQ_STALL (R54): When no step issues in the cluster for longer than STALL_LIMIT while a pass is admitted or active, the RSEQ sets STALL. -/
  | rseqStall (cl : Fin 32)
  /-- STEP_COMPLETE (R213): When the LAST program of every core of a step has ended, the planner writes its amax and the RSEQ signals and releases for the step. -/
  | stepComplete (cl : Fin 32) (bwd : Bool) (noc : BitVec 32)
  /-- GATHER_PIECE_FETCH (R59): The gather prefetcher begins fetching the next piece of a group once the staging shelf has free space. -/
  | gatherPieceFetch (cl : Fin 32) (bwd : Bool)
  /-- PROGRAM_WRITE (R211): Once a program buffer is free, the planner writes the next tile program of a core, cut to the time and slot limits, and sets VALID last. -/
  | programWrite (cl : Fin 32) (k : Fin 16) (buf : Fin 2) (bytes : List Byte) (off : Fin 32768) (data : List Byte) (lim : BitVec 32)
  /-- TP_START (R209): A core starts its next tile program when the other program buffer holds a VALID header and its member's slice allows. -/
  | tpStart (cl : Fin 32) (k : Fin 16)
  /-- TP_END (R209): A tile program ends at END or on a stop once its issued commands have completed; TB tiles are discarded and the run time is recorded. -/
  | tpEnd (cl : Fin 32) (k : Fin 16) (core : BitVec 32) (noc : BitVec 32)
  /-- MMA (R70): An ME command that performs one weight-stationary sweep into a virtual accumulator tile. -/
  | mma (cl : Fin 32) (k : Fin 16)
  /-- CONV (R80): An ME command that performs one row-reuse convolution sweep from input line segments. -/
  | conv (cl : Fin 32) (k : Fin 16)
  /-- MMA_WSH (R78): An ME command that performs one wide-and-shallow sweep of 8 K-rows by 256 columns. -/
  | mmaWsh (cl : Fin 32) (k : Fin 16)
  /-- ACC_STORE (R87): An ME command that converts and writes a tile's rows from the accumulator, writes MAXABS and optionally releases the VT. -/
  | accStore (cl : Fin 32) (k : Fin 16)
  /-- SWEEP_START (R76): A sweep starts in the array once its weights have loaded and the previous sweep allows, after any wait for its TB tile. -/
  | sweepStart (cl : Fin 32) (k : Fin 16) (wait : BitVec 32)
  /-- SWEEP_VERDICT (R75): At the end of a sweep's checksum comparisons the ME reaches its verdict and commits or re-executes the sweep. -/
  | sweepVerdict (cl : Fin 32) (k : Fin 16) (faults : List (CellSum × Nat)) (slot : Ecc) (fails : List Nat) (busy : BitVec 32) (dry : BitVec 32)
  /-- VE_FALLBACK_DONE (R98): The VE fallback of a sweep ends, its result commits without comparison, CSUM_HARD is set and the discarded sweeps re-enter the array. -/
  | veFallbackDone (cl : Fin 32) (k : Fin 16) (busy : BitVec 32)
  /-- ACC_ECC_ERROR (R93): An accumulator ECC error is corrected, or an uncorrectable one replays the open VT, completes a read with COMP_MEM_LOST or retires the tile. -/
  | accEccError (cl : Fin 32) (k : Fin 16) (tile : Fin 32) (ecc : Ecc) (fails : List (List Nat)) (busy : BitVec 32)
  /-- TB_LOAD (R109): A tile-program command that takes a TB slot and transposes a scratchpad region into the A or W queue. -/
  | tbLoad (cl : Fin 32) (k : Fin 16)
  /-- TB_TILE_READY (R112): A TB tile becomes readable 6 core cycles after its last access, once every grain has passed its check. -/
  | tbTileReady (cl : Fin 32) (k : Fin 16) (fails : List Nat) (conflict : BitVec 32)
  /-- SP_MOVE (R156): A tile-program command that moves rows between commons and the core's scratchpad, with optional claim or release of a shelf entry. -/
  | spMove (cl : Fin 32) (k : Fin 16)
  /-- SP_MOVE_DONE (R159): An SP_MOVE completes when every write is acknowledged or every strip written, and a claimed entry is committed. -/
  | spMoveDone (cl : Fin 32) (k : Fin 16) (conflict : BitVec 32) (wait : BitVec 32)
  /-- WAIT (R206): A tile-program command that holds the core sequencer until a partition counter reaches its threshold. -/
  | wait (cl : Fin 32) (k : Fin 16)
  /-- SIGNAL (R206): A tile-program command that increments a partition counter after every earlier command of the program has completed. -/
  | signal (cl : Fin 32) (k : Fin 16)
  /-- LOOP (R207): A tile-program command that runs its body COUNT times with per-iteration increments applied to named command words. -/
  | loop (cl : Fin 32) (k : Fin 16)
  /-- END (R206): A tile-program command that ends the program. -/
  | progEnd (cl : Fin 32) (k : Fin 16)
  /-- SHELF_OPEN (R161): Writing OPEN = 1 opens a shelf when its region and fields are legal, and otherwise sets OPEN_REFUSED. -/
  | shelfOpen (who : RegAgent) (sel : ShelfSel) (value : BitVec 64)
  /-- SHELF_CLOSE (R167): Writing OPEN = 0 closes a shelf when no entry is live and no claim waits, and otherwise sets CLOSE_BUSY. -/
  | shelfClose (sel : ShelfSel) (value : BitVec 64)
  /-- SHELF_OP_CLAIM (R162): SP_SHELF_OP with OP = 1 claims an entry at once or is refused with RESULT = 1. -/
  | shelfOpClaim (sel : ShelfSel) (units : BitVec 20)
  /-- SHELF_OP_COMMIT (R162): SP_SHELF_OP with OP = 2 commits an entry and advances TAIL, signalling SIG_SYNC. -/
  | shelfOpCommit (sel : ShelfSel) (seq : BitVec 16)
  /-- SHELF_OP_RELEASE (R162): SP_SHELF_OP with OP = 3 adds a release to an entry and frees it at CONS releases. -/
  | shelfOpRelease (sel : ShelfSel) (seq : BitVec 16)
  /-- SHELF_CLAIM_GRANT (R162): A waiting claim is granted in arrival order once free space and entry count allow. -/
  | shelfClaimGrant (sel : ShelfSel)
  /-- SRAM_ECC_ERROR (R181): A scratchpad, commons or tag ECC error is corrected, or an uncorrectable one resets the owning partition. -/
  | sramEccError (site : SramSite) (ue : Bool)
  /-- VE_RUN (R231): A tile-program command that starts VE threads on a kernel with an argument block once the named contexts are idle. -/
  | veRun (cl : Fin 32) (k : Fin 16)
  /-- VE_RUN_DONE (R231): A VE run completes when every thread has exited or the run has stopped and every request has been acknowledged. -/
  | veRunDone (cl : Fin 32) (k : Fin 16) (starve : BitVec 32) (slots : BitVec 32) (cap : BitVec 32) (fallback : BitVec 32)
  /-- VE_REQUEST_RETURN (R217): The response to a VE request arrives, its slot is released and waiting threads may become ready. -/
  | veRequestReturn (cl : Fin 32) (k : Fin 16) (slot : Fin 128) (lat : BitVec 32)
  /-- VE_WATCHDOG_TIMEOUT (R232): A run that lasts longer than VE_CTRL.WATCHDOG stops with COMP_VE_TIMEOUT. -/
  | veWatchdogTimeout (cl : Fin 32) (k : Fin 16) (run : Fin 8)
  /-- VE_REG_ECC_ERROR (R233): A register-file ECC error is corrected, or an uncorrectable one resets the partition. -/
  | veRegEccError (cl : Fin 32) (k : Fin 16) (ue : Bool)
  /-- VADD (R228): A VE instruction that adds two vectors. -/
  | vadd (cl : Fin 32) (k : Fin 16)
  /-- VSUB (R228): A VE instruction that subtracts two vectors. -/
  | vsub (cl : Fin 32) (k : Fin 16)
  /-- VMUL (R228): A VE instruction that multiplies two vectors. -/
  | vmul (cl : Fin 32) (k : Fin 16)
  /-- VMAX (R228): A VE instruction that takes the lane maximum, NaN when either input is NaN. -/
  | vmax (cl : Fin 32) (k : Fin 16)
  /-- VMIN (R228): A VE instruction that takes the lane minimum, NaN when either input is NaN. -/
  | vmin (cl : Fin 32) (k : Fin 16)
  /-- VFMA (R228): A VE instruction that forms VA × VB + VC rounded once. -/
  | vfma (cl : Fin 32) (k : Fin 16)
  /-- VABSNEG (R228): A VE instruction that takes the absolute value and or negates. -/
  | vabsneg (cl : Fin 32) (k : Fin 16)
  /-- VCMP (R228): A VE instruction that compares two vectors into mask m1–m3. -/
  | vcmp (cl : Fin 32) (k : Fin 16)
  /-- VSEL (R228): A VE instruction that selects lanes between two vectors by mask. -/
  | vsel (cl : Fin 32) (k : Fin 16)
  /-- VBCAST (R228): A VE instruction that broadcasts a scalar register into every lane. -/
  | vbcast (cl : Fin 32) (k : Fin 16)
  /-- VEXP2 (R228): A VE instruction that computes 2 to the power of each lane. -/
  | vexp2 (cl : Fin 32) (k : Fin 16)
  /-- VLOG2 (R228): A VE instruction that computes the base-2 logarithm of each lane. -/
  | vlog2 (cl : Fin 32) (k : Fin 16)
  /-- VRCP (R228): A VE instruction that computes the reciprocal of each lane. -/
  | vrcp (cl : Fin 32) (k : Fin 16)
  /-- VRSQRT (R228): A VE instruction that computes the reciprocal square root of each lane. -/
  | vrsqrt (cl : Fin 32) (k : Fin 16)
  /-- VSQRT (R228): A VE instruction that computes the correctly rounded square root of each lane. -/
  | vsqrt (cl : Fin 32) (k : Fin 16)
  /-- VRSUM (R228): A VE instruction that sums active lanes in a fixed tree into every lane and a scalar register. -/
  | vrsum (cl : Fin 32) (k : Fin 16)
  /-- VRMAX (R228): A VE instruction that takes the maximum of active lanes. -/
  | vrmax (cl : Fin 32) (k : Fin 16)
  /-- VRMAXABS (R228): A VE instruction that takes the maximum absolute value of active lanes. -/
  | vrmaxabs (cl : Fin 32) (k : Fin 16)
  /-- VCVT (R228): A VE instruction that scales and converts lanes to a storage format with a rounding mode. -/
  | vcvt (cl : Fin 32) (k : Fin 16)
  /-- VDEC (R228): A VE instruction that decodes packed elements, including block scales, to the lane width. -/
  | vdec (cl : Fin 32) (k : Fin 16)
  /-- VSCL (R228): A VE instruction that multiplies each lane by 2^IMM. -/
  | vscl (cl : Fin 32) (k : Fin 16)
  /-- VLD (R224): A VE instruction that loads one 512-byte register from a fabric address, through the cache or a slot where needed. -/
  | vld (cl : Fin 32) (k : Fin 16)
  /-- VST (R224): A VE instruction that stores one 512-byte register to a fabric address. -/
  | vst (cl : Fin 32) (k : Fin 16)
  /-- VGATHER (R224): A VE instruction that loads one element per active lane at base plus index times IMM. -/
  | vgather (cl : Fin 32) (k : Fin 16)
  /-- VSCATTER (R225): A VE instruction that stores one element per active lane, the higher lane winning on a clash. -/
  | vscatter (cl : Fin 32) (k : Fin 16)
  /-- VSCATADD (R225): A VE instruction that atomically adds each lane's value to its target in scratchpad or commons. -/
  | vscatadd (cl : Fin 32) (k : Fin 16)
  /-- FENCE (R223): A VE instruction that waits until every earlier request of the thread has been acknowledged. -/
  | fence (cl : Fin 32) (k : Fin 16)
  /-- SHCLAIM (R226): A VE instruction that claims an entry in a core or commons shelf and returns its offset. -/
  | shclaim (cl : Fin 32) (k : Fin 16)
  /-- SHCOMMIT (R226): A VE instruction that commits a shelf entry. -/
  | shcommit (cl : Fin 32) (k : Fin 16)
  /-- SHRELEASE (R226): A VE instruction that releases a shelf entry. -/
  | shrelease (cl : Fin 32) (k : Fin 16)
  /-- SWAIT (R228): A VE instruction that holds the thread until a partition counter reaches a threshold. -/
  | swait (cl : Fin 32) (k : Fin 16)
  /-- SSIGNAL (R228): A VE instruction that increments a partition counter. -/
  | ssignal (cl : Fin 32) (k : Fin 16)
  /-- SADD (R228): A VE scalar instruction that adds two 64-bit integers. -/
  | sadd (cl : Fin 32) (k : Fin 16)
  /-- SSUB (R228): A VE scalar instruction that subtracts two 64-bit integers. -/
  | ssub (cl : Fin 32) (k : Fin 16)
  /-- SMUL (R228): A VE scalar instruction that multiplies two 64-bit integers. -/
  | smul (cl : Fin 32) (k : Fin 16)
  /-- SSHIFT (R228): A VE scalar instruction that shifts a 64-bit integer. -/
  | sshift (cl : Fin 32) (k : Fin 16)
  /-- SLOGIC (R228): A VE scalar instruction that performs a logical operation on 64-bit integers. -/
  | slogic (cl : Fin 32) (k : Fin 16)
  /-- SCMP (R228): A VE scalar instruction that compares 64-bit integers. -/
  | scmp (cl : Fin 32) (k : Fin 16)
  /-- SMOVI (R228): A VE scalar instruction that moves an immediate into a scalar register. -/
  | smovi (cl : Fin 32) (k : Fin 16)
  /-- SLD_SST (R228): A VE scalar instruction that loads or stores a scalar register, as IMM[23] selects. -/
  | sldSst (cl : Fin 32) (k : Fin 16)
  /-- BR (R228): A VE instruction that branches unconditionally. -/
  | br (cl : Fin 32) (k : Fin 16)
  /-- BRZ (R228): A VE instruction that branches when a scalar register is zero. -/
  | brz (cl : Fin 32) (k : Fin 16)
  /-- BRNZ (R228): A VE instruction that branches when a scalar register is not zero. -/
  | brnz (cl : Fin 32) (k : Fin 16)
  /-- EXIT (R228): A VE instruction that ends the thread. -/
  | exit (cl : Fin 32) (k : Fin 16)
  /-- DMA_CH_ENABLE (R240): Setting ENABLE in DMA_CH_CTRL makes the channel fetch descriptors from its ring. -/
  | dmaChEnable (who : RegAgent) (cl : Fin 32) (n : Fin 32)
  /-- DMA_STOP (R258): Writing STOP, or clearing ENABLE, makes the channel finish its descriptors in progress, fetch no more and clear ENABLE. -/
  | dmaStop (who : RegAgent) (cl : Fin 32) (n : Fin 32)
  /-- DMA_PROD_WRITE (R240): A write to DMA_CH_PROD posts descriptors, or is ignored with RING_OVER when it would overfill the ring. -/
  | dmaProdWrite (who : RegAgent) (cl : Fin 32) (n : Fin 32) (prod : BitVec 13)
  /-- DMA_DESC_FETCH (R240): A channel fetches the descriptor at CONS and checks it, or stops on an unreadable slot. -/
  | dmaDescFetch (cl : Fin 32) (n : Fin 32)
  /-- DMA_DESC_START (R252): A descriptor starts after its WAIT_SYNC, source entry commit and destination claim, and checks overlap of shelf-relative sides. -/
  | dmaDescStart (cl : Fin 32) (n : Fin 32)
  /-- DMA_SLOT_ARBITRATE (R247): In each core cycle the engine gives the read slot and the write slot to the competing channels of highest priority. -/
  | dmaSlotArbitrate (cl : Fin 32)
  /-- DMA_CHANNEL_AGE (R249): A channel that has won no slot for AGE_US competes at priority 3 for its next burst and sets AGED. -/
  | dmaChannelAge (cl : Fin 32) (n : Fin 32)
  /-- DMA_SEGMENT_ATTEMPT_END (R255): A segment attempt ends with its first failing code, and a transport failure is retried on the next path up to 4 times. -/
  | dmaSegmentAttemptEnd (cl : Fin 32) (n : Fin 32) (serial : Nat) (seg : Fin 64)
  /-- DMA_ATTEMPT_TIMEOUT (R255): The request with a tag that has had no response for ATTEMPT_MS ends its segment attempt with COMP_LINK_DOWN. -/
  | dmaAttemptTimeout (cl : Fin 32) (n : Fin 32) (serial : Nat) (seg : Fin 64) (tag : BitVec 16)
  /-- DMA_DESC_COMPLETE (R250): After every write acknowledgement the descriptor commits and releases its entries, writes COMP and signals SIGNAL_SYNC. -/
  | dmaDescComplete (cl : Fin 32) (n : Fin 32)
  /-- DMA_SIGNAL_FAIL (R250): A remote completion increment that fails sets SIGNAL_FAIL and is recorded in DMA_ERR. -/
  | dmaSignalFail (cl : Fin 32) (n : Fin 32)
  /-- DMA_BUF_ECC_ERROR (R260): A staging-buffer ECC error is corrected, or an uncorrectable one discards the beat and retries the segment. -/
  | dmaBufEccError (cl : Fin 32) (n : Fin 32) (ue : Bool)
  /-- WQ_PROD_WRITE (R269): A write to WQ_PROD posts work-queue entries, or is ignored with CMD_INVALID when illegal. -/
  | wqProdWrite (n : Fin 64) (prod : BitVec 13)
  /-- CQ_HEAD_WRITE (R274): A write to CQ_HEAD frees completion slots so that a held queue may dequeue again. -/
  | cqHeadWrite (n : Fin 64) (head : BitVec 13)
  /-- WQ_DEQUEUE (R272): Once its wait is met and a completion slot is free, the queue engine dequeues the head entry by round robin and checks it. -/
  | wqDequeue
  /-- WQ_ENTRY_COMPLETE (R272): When an entry has run, its completion is written, its interrupt raised and SIGNAL_SYNC incremented. -/
  | wqEntryComplete (n : Fin 64)
  /-- NOP (R271): A work-queue command that does nothing beyond its wait and signal. -/
  | nop (n : Fin 64)
  /-- OP_RUN (R271): A work-queue command that runs one matrix, vector or collective descriptor outside a rally on the named clusters. -/
  | opRun (n : Fin 64) (cyc : BitVec 32)
  /-- SYNC_SET (R271): A work-queue command that writes the value, the base or both of one partition counter. -/
  | syncSet (n : Fin 64)
  /-- WHISTLE (R288): A work-queue command that holds the partition's queues and starts draining the step. -/
  | whistle (n : Fin 64)
  /-- WHISTLE_DRAIN_DONE (R288): When the drain ends, the whistle empties shelves and caches, accounts, benches cores, resets counters and closes the step. -/
  | whistleDrainDone (p : Fin 16) (step : BitVec 32) (outside : BitVec 32) (length : BitVec 32) (cycles : BitVec 32)
  /-- WHISTLE_STUCK (R290): A drain phase longer than WHISTLE_LIMIT stops the whistle with COMP_WHISTLE_STUCK and keeps the queues held. -/
  | whistleStuck (p : Fin 16) (length : BitVec 32) (cycles : BitVec 32)
  /-- DRAIN (R360): A work-queue command that moves the partition to DRAINING and its RSEQs out of RUNNING. -/
  | drain (n : Fin 64)
  /-- QUIESCE_DONE (R360): When no queue, RSEQ or software DMA channel remains busy, the partition enters QUIESCED and DRAIN completes. -/
  | quiesceDone (p : Fin 16)
  /-- RESUME (R359): A work-queue command that returns a QUIESCED partition to ACTIVE. -/
  | resume (n : Fin 64)
  /-- SYNC_VALUE_SET (R295): A register write whose increment part is zero sets a counter's VALUE and wakes met waiters. -/
  | syncValueSet (ctr : Fin 16384) (value : BitVec 32)
  /-- SYNC_VALUE_INC (R295): A register write with a non-zero increment part increments a counter, saturating with OVERFLOW. -/
  | syncValueInc (ctr : Fin 16384) (inc : BitVec 32) (who : RegAgent)
  /-- SYNC_WAIT_MET (R280): A counter update reaches a waiter's threshold and the wait ends within its bound. -/
  | syncWaitMet (who : WaitAgent)
  /-- MEM_READ (R303): A group engine reads and checks the accesses of a read, rebuilding a single failed access from parity. -/
  | memRead (agent : Agent) (cls : Fin 4) (addr : BitVec 48) (len : Fin 129) (faults : List AccFault)
  /-- MEM_WRITE (R304): A group engine accepts a write into its stripe buffer, acknowledges it and updates data and parity with the fewest reads. -/
  | memWrite (agent : Agent) (cls : Fin 4) (addr : BitVec 48) (bytes : List Byte) (enable : BitVec 128) (faults : List AccFault)
  /-- STRIPE_BUFFER_FLUSH (R305): A write held 64 memory-controller cycles in the stripe buffer is issued as a combined stripe write. -/
  | stripeBufferFlush (g : Fin 32) (stripe : BitVec 32) (faults : List AccFault)
  /-- MEM_REQUEST_PROMOTE (R307): A request queued longer than 2 µs is promoted ahead of row-hit ordering. -/
  | memRequestPromote (g : Fin 32) (n : Fin 128)
  /-- MEM_REFRESH_DUE (R307): A per-bank refresh that reaches its postponement limit is served first. -/
  | memRefreshDue (g : Fin 32) (bank : Fin 16)
  /-- CAL_SESSION_START (R308): A member's calibration session starts at its interval and takes the member offline. -/
  | calSessionStart (g : Fin 32) (m : Fin 8)
  /-- CAL_SESSION_END (R312): A calibration session ends, keeping previous settings on failure, and the member begins replaying its write log. -/
  | calSessionEnd (g : Fin 32) (pass : Bool) (ns : BitVec 32)
  /-- CAL_LOG_REPLAY_DONE (R310): The member's write log is empty and the member returns to service. -/
  | calLogReplayDone (g : Fin 32)
  /-- MEM_GRP_CMD_FAIL (R313): A write of 1 to MEM_GRP_CMD.FAIL declares the named member failed. -/
  | memGrpCmdFail (g : Fin 32) (m : Fin 8) (recalled : Bool)
  /-- MEM_GRP_CMD_CAL_NOW (R308): A write of 1 to MEM_GRP_CMD.CAL_NOW runs the member's next session at the next free slot. -/
  | memGrpCmdCalNow (g : Fin 32) (m : Fin 8)
  /-- MEMBER_FAIL (R313): A member is declared failed by session failures, check failures, no response or command, and the group becomes degraded or loses stripes. -/
  | memberFail (g : Fin 32) (m : Fin 8) (checks : Bool) (recalled : Bool)
  /-- REBUILD_START (R314): A degraded group starts its rebuild when its die has a free slot, in place or as a parity takeover. -/
  | rebuildStart (g : Fin 32) (trained : Bool)
  /-- REBUILD_STRIPE (R314): The rebuild rebuilds the next stripe into the target within its share of access slots. -/
  | rebuildStripe (g : Fin 32) (back : ReadBack) (faults : List AccFault)
  /-- PORT_ENABLE (R323): Setting ENABLE in JLK_PORT_CTRL starts the port's training. -/
  | portEnable (p : Fin 24)
  /-- PORT_RETRAIN (R323): Writing RETRAIN restarts the port's training. -/
  | portRetrain (p : Fin 24)
  /-- PORT_FORCE_DOWN (R335): Setting FORCE_DOWN declares the port down. -/
  | portForceDown (p : Fin 24)
  /-- PORT_TRAIN_COMPLETE (R323): A training attempt passes its steps and the port becomes ACTIVE or DEGRADED. -/
  | portTrainComplete (p : Fin 24) (good : BitVec 8) (down : BitVec 32)
  /-- PORT_TRAIN_RETRY (R323): A failed training attempt is retried 1 ms later, until RETRAIN_MAX leaves the port DOWN with TRAIN_FAIL. -/
  | portTrainRetry (p : Fin 24)
  /-- PORT_DOWN (R335): A port is declared down on timeout, second lane failure or credit violation, and its buffers are refused and discarded. -/
  | portDown (p : Fin 24)
  /-- LANE_ERROR_LIMIT_EXCEEDED (R326): A lane that exceeds its error limit or loses lock makes the port send LANE_DROP. -/
  | laneErrorLimitExceeded (p : Fin 24) (lane : Fin 8) (word : BitVec 8)
  /-- REPLAY_TIMEOUT (R334): The oldest unacknowledged flit has waited 2 µs and the sender replays from it. -/
  | replayTimeout (p : Fin 24)
  /-- IDLE (R327): A received IDLE flit carries acknowledgement and credits only. -/
  | idleFlit (p : Fin 24) (bytes : List Byte) (fec : Fec)
  /-- MSG (R328): A received MSG flit is accepted in sequence and its message headers are delivered. -/
  | msgFlit (p : Fin 24) (bytes : List Byte) (fec : Fec)
  /-- DATA (R328): A received DATA flit delivers part of one virtual channel's data stream. -/
  | dataFlit (p : Fin 24) (bytes : List Byte) (fec : Fec)
  /-- NAK (R334): A received NAK makes the sender replay every flit after the named ACK_SEQ. -/
  | nakFlit (p : Fin 24) (bytes : List Byte) (fec : Fec)
  /-- LANE_DROP (R326): A received LANE_DROP flit switches both directions to 7 lanes at the named codeword. -/
  | laneDropFlit (p : Fin 24) (bytes : List Byte) (fec : Fec)
  /-- PARAM (R324): A received PARAM flit is checked against this device's ID and the expected peer during training. -/
  | paramFlit (p : Fin 24) (bytes : List Byte) (fec : Fec) (good : BitVec 8)
  /-- RD (R342): A received read request is checked against windows and limits and answered with RD_DATA or REFUSE. -/
  | rd (p : Fin 24)
  /-- WR (R342): A received write request is checked and performed, or a cabinet write on VC 4 is admitted by R399, and answered. -/
  | wr (p : Fin 24)
  /-- SYNC_INC (R340): A received remote increment is admitted once per sequence number and answered with SYNC_ACK. -/
  | syncInc (p : Fin 24)
  /-- RD_DATA (R330): Received read data completes a request and, with MIRROR, is copied into a cabinet. -/
  | rdData (p : Fin 24)
  /-- WR_ACK (R330): A received write acknowledgement completes a write request. -/
  | wrAck (p : Fin 24)
  /-- SYNC_ACK (R330): A received SYNC_ACK completes a remote increment. -/
  | syncAck (p : Fin 24)
  /-- REFUSE (R330): A received REFUSE ends a request with its COMP code. -/
  | refuse (p : Fin 24)
  /-- RETRY (R339): A received RETRY makes the requester resend after 1 µs. -/
  | retry (p : Fin 24)
  /-- RETRY_RESEND_TIMER (R339): A request answered with RETRY is resent after 1 µs, and ends with COMP_TARGET_RESET after 1 ms. -/
  | retryResendTimer (req : Nat) (expired : Bool)
  /-- RESP_TIMEOUT (R339): A non-DMA requester with no response for RESP_MS ends the request with COMP_LINK_DOWN. -/
  | respTimeout (req : Nat)
  /-- PERST_RELEASE (R346): Release of PERST# starts the bridge's PCIe link training. -/
  | perstRelease
  /-- PERST_ASSERT (R419): Assertion of PERST# resets only the host bridge's PCIe state. -/
  | perstAssert
  /-- RRS_TIMEOUT (R346): When bring-up has not ended 900 ms after PERST# release, the bridge stops answering with retry status. -/
  | rrsTimeout
  /-- PCIE_CONFIG_REQUEST (R346): A Configuration Request is answered with retry status until bring-up ends, and normally afterwards. -/
  | pcieConfigRequest (fn : Fin 17) (write : Bool) (dword : Fin 1024) (value : BitVec 32) (vfs : Option (Fin 17))
  /-- PCIE_MEM_READ (R349): A host read TLP to an aperture page enters the fabric and its completion maps fabric codes to PCIe status. -/
  | pcieMemRead (fn : Fin 17) (off : BitVec 36) (len : Fin 4097)
  /-- PCIE_MEM_WRITE (R349): A host posted write to an aperture page enters the fabric, and a failure is recorded in HBR_ERR. -/
  | pcieMemWrite (fn : Fin 17) (off : BitVec 36) (bytes : List Byte)
  /-- FLR_VF (R350): A Function Level Reset of VF n resets partition n and its MSI-X state. -/
  | flrVf (n : Fin 16)
  /-- FLR_PF (R350): A PF Function Level Reset resets configuration space, MSI-X state and the aperture table. -/
  | flrPf
  /-- PCIE_HOT_RESET (R350): A hot reset resets the function's configuration space, MSI-X state and aperture table. -/
  | pcieHotReset
  /-- PCIE_LINK_DOWN (R350): A PCIe link-down resets function state and sets LINK_DOWN. -/
  | pcieLinkDown
  /-- PART_RESET (R361): A write of 1 to PART_CTRL.RESET starts a partition reset that clears its clusters, shelves, DMA and counters. -/
  | partReset (p : Fin 16)
  /-- PART_RESET_DONE (R362): The partition reset ends, the partition announces ready, RESET_DONE is set and its queues resume. -/
  | partResetDone (p : Fin 16) (us : BitVec 32)
  /-- SLICE_TURN (R367): At a member's turn its debt is compared with SLICE_US and the slice is granted, shortened, skipped or passed over. -/
  | sliceTurn (p : Fin 16)
  /-- SLICE_GRANT_EXPIRE (R367): The granted slice time elapses and no further program of the member starts. -/
  | sliceGrantExpire (p : Fin 16)
  /-- SLICE_END (R367): The slice ends when every running program of the member has ended, and the overrun is added to DEBT_US. -/
  | sliceEnd (p : Fin 16) (late : BitVec 32) (run : BitVec 32)
  /-- SEQ_OPEN (R373): A serving command that takes the lowest FREE sequence context and writes its handle. -/
  | seqOpen (n : Fin 64)
  /-- SEQ_APPEND (R373): A serving command that adds tokens to a context's PENDING. -/
  | seqAppend (n : Fin 64)
  /-- SEQ_CLOSE (R374): A serving command that frees an unpinned context or marks a pinned one LEAVING. -/
  | seqClose (n : Fin 64)
  /-- BATCH_STEP (R375): A serving command that checks its body, selects a batch of sequences, writes the manifest and starts the op list. -/
  | batchStep (n : Fin 64) (cyc : BitVec 32)
  /-- BATCH_OP_DONE (R379): An op-list operator completes, the next starts, or the batch advances or unwinds its contexts and completes. -/
  | batchOpDone (n : Fin 64) (cyc : BitVec 32)
  /-- LAYOUT_SWITCH (R381): A command in module queue 0 that holds every queue, writes back caches, resets partitions and starts forming a new layout. -/
  | layoutSwitch (n : Fin 64)
  /-- LAYOUT_SWITCH_COMPLETE (R382): After write-back, reset, optional scrub and formation, the new partitions become ACTIVE and the switch completes. -/
  | layoutSwitchComplete
  /-- CAB_PLAN (R413): A copy command that installs the partition's cabinet plan and pairs the device. -/
  | cabPlan (n : Fin 64)
  /-- CAB_STATIC (R413): A copy command that copies the partition's STATIC regions to every accepted partner. -/
  | cabStatic (n : Fin 64)
  /-- CAB_RELEASE (R413): A copy command that removes the partition's cabinet plan. -/
  | cabRelease (n : Fin 64)
  /-- PAIRING_START (R390): When bring-up ends or a partner becomes reachable, the device sends PAIR to each configured partner. -/
  | pairingStart
  /-- SIDEBOARD_DRAIN_DONE (R398): The drain engine finishes copying DRAIN pairs to each partner and sends DRAIN_END. -/
  | sideboardDrainDone
  /-- CATCHUP_RETRY (R396): 1 ms after a failed catch-up read, the cabinet engine tries the missing lines again. -/
  | catchupRetry (j : Fin 4)
  /-- CAB_SEAL (R394): When a slot holds the whole snapshot, the cabinet engine writes its step and sends SEALED to the source. -/
  | cabSeal (j : Fin 4) (static : Bool)
  /-- HEARTBEAT_SEND (R401): Every 5 µs a device and each accepted partner send each other HEARTBEAT. -/
  | heartbeatSend
  /-- PARTNER_SILENT (R401): No heartbeat for 10 µs makes a partner silent, clears UP and sends SILENT to the other partner. -/
  | partnerSilent (dev : BitVec 12)
  /-- LOSS_DECLARE (R402): 20 µs after finding its source silent, the declaring partner broadcasts LOST and claims a spare. -/
  | lossDeclare (dev : BitVec 12)
  /-- HEARTBEAT (R401): A received heartbeat updates the partner's level, seal and UP state. -/
  | heartbeat (p : Fin 24)
  /-- PAIR (R390): A received PAIR is accepted or refused against HOSTS, membership and cabinet size. -/
  | pair (p : Fin 24)
  /-- PAIR_ACK (R390): A received PAIR_ACK records the partner as accepted or refused with a reason. -/
  | pairAck (p : Fin 24)
  /-- WSTATE (R395): A received WSTATE clears the fill map and points the mirror entry at the step's slot. -/
  | wstate (p : Fin 24)
  /-- DRAIN_END (R396): A received DRAIN_END lets the cabinet engine run catch-up for missing lines and seal. -/
  | drainEnd (p : Fin 24)
  /-- SEALED (R394): A received SEALED advances the source's SEALED_STEP and sends MEMBER_SEALED when it changes. -/
  | sealed (p : Fin 24)
  /-- MEMBER_SEALED (R394): A received MEMBER_SEALED updates GROUP_SEALED and increments SEAL_SYNC when it reaches the live step. -/
  | memberSealed (p : Fin 24)
  /-- CAB_LOST (R408): A received CAB_LOST sets RES_STATUS.CAB_LOST and restarts snapshot protection. -/
  | cabLost (p : Fin 24)
  /-- SILENT (R402): A received SILENT decides which partner declares the loss. -/
  | silent (p : Fin 24)
  /-- LOST (R403): A received LOST makes a member refuse the lost device, send FENCE to it and begin the rollback to step s. -/
  | lost (p : Fin 24)
  /-- MGMT_FENCE (R403): A received FENCE resets every partition, holds every queue and fences the device until power-on reset. -/
  | mgmtFence (p : Fin 24)
  /-- SPARE_CLAIM (R405): A received SPARE_CLAIM makes a free spare grant and enter loading, or answer busy. -/
  | spareClaim (p : Fin 24)
  /-- SPARE_GRANT (R405): A received SPARE_GRANT makes the declaring partner write the snapshot into the spare. -/
  | spareGrant (p : Fin 24)
  /-- SPARE_BUSY (R405): A received SPARE_BUSY makes the declaring partner try the next spare. -/
  | spareBusy (p : Fin 24)
  /-- SPARE_FREE (R409): A received SPARE_FREE lets a waiting position claim a spare again. -/
  | spareFree (p : Fin 24)
  /-- LOAD_DONE (R406): After loading, the spare sets its alias and members rewrite routes and answer ADOPTED. -/
  | loadDone (via : Option (Fin 24)) (plan : List Byte) (stage : List Byte)
  /-- ADOPTED (R406): A received ADOPTED counts toward broadcasting RESUME_GROUP once every member has answered. -/
  | adopted (p : Fin 24) (us : BitVec 32)
  /-- RESUME_GROUP (R404): A received RESUME_GROUP writes COMP_RESTORED to each queue and resumes the restored partition. -/
  | resumeGroup (p : Fin 24) (us : BitVec 32)
  /-- BOOT_DONE (R418): A received BOOT_DONE message is counted and nothing else is done. -/
  | bootDone (p : Fin 24)
  /-- POWER_ON_RESET_RELEASE (R456): Power-on reset is released at t0 once the always-on domains report power good and REF25 is present. -/
  | powerOnResetRelease (pins : StrapPins)
  /-- BRING_UP_STAGE (R417): The MC of D0 runs the next bring-up stage once the previous one has completed. -/
  | bringUpStage (us : BitVec 32) (found : StageFindings) (torn : Nat) (tree : Bool)
  /-- COMPUTE_RESET (R435): A write of 1 to BOOT_CTRL.COMPUTE_RESET holds the queues, resets the partitions' clusters and runs core self-test. -/
  | computeReset
  /-- COMPUTE_RESET_DONE (R435): Core self-test ends, the bench list is formed again and the partitions become ACTIVE or stay held as short. -/
  | computeResetDone (cores : BitVec 2048)
  /-- FLASH_REQ_ASSERT (R484): FLASH_REQ# low makes the module release the flash bus after bring-up and drive FLASH_GNT# low. -/
  | flashReqAssert
  /-- FLASH_REQ_DEASSERT (R484): FLASH_REQ# high makes the module release FLASH_GNT# and own the flash bus again. -/
  | flashReqDeassert (off : BitVec 25) (bytes : List Byte)
  /-- ATT_REQ (R450): An attestation request is admitted, queued and answered with a signed report or a certificate, or refused. -/
  | attReq (via : Option (Fin 24)) (nonce : List Byte) (kind : BitVec 8) (torn : Nat) (tree : Bool)
  /-- ATT_SIGNATURE_DONE (R447): The island finishes a signature and the next queued request starts. -/
  | attSignatureDone (us : BitVec 32) (torn : Nat) (tree : Bool)
  /-- ATT_TOKEN_GAIN (R450): Every RATE_S seconds the island gains one report token up to DEPTH. -/
  | attTokenGain
  /-- OWNER_ENROLL (R442): A sideband request that enrolls an owner key in a slot when its signature checks. -/
  | ownerEnroll (via : Option (Fin 24)) (slot : Fin 4) (key : List Byte) (sig : List Byte) (clean : Bool)
  /-- OWNER_REVOKE (R442): A sideband request that revokes an owner slot when another usable slot signs it. -/
  | ownerRevoke (via : Option (Fin 24)) (slot : Fin 4) (signer : Fin 4) (sig : List Byte) (clean : Bool)
  /-- SVN_COMMIT (R441): A sideband request that raises the SVN floor to the running image's SVN. -/
  | svnCommit (via : Option (Fin 24)) (clean : Bool)
  /-- MOD_EN_RISE (R477): MOD_EN high closes the input switch and charges the input capacitance at limited current. -/
  | modEnRise
  /-- INPUT_VALID (R477): The input charge completes at 40.0 V or more and the always-on domains ramp. -/
  | inputValid
  /-- MOD_EN_FALL (R477): MOD_EN low for 1 ms opens the input switch and removes power from every domain. -/
  | modEnFall
  /-- VIN_UNDERVOLTAGE (R478): VIN below 36.0 V for 10 µs causes a power-on reset. -/
  | vinUndervoltage
  /-- VIN_OVERVOLTAGE (R478): VIN above 62.0 V for 10 µs opens the input switch until it recovers. -/
  | vinOvervoltage (volts : BitVec 16)
  /-- INPUT_OVERCURRENT (R478): Input current above 120 A for 50 µs opens the switch until MOD_EN is cycled. -/
  | inputOvercurrent
  /-- INPUT_LOW (R459): Input below 40.0 V for 100 µs sets INPUT_LOW and limits every cluster to point 0. -/
  | inputLow
  /-- INPUT_LOW_CLEAR (R459): Input at or above 41.0 V for 10 ms lifts the point-0 limit. -/
  | inputLowClear
  /-- REF100_LOSS (R481): Loss of REF100 unlocks the PLLs and the dies are lost under R458. -/
  | ref100Loss
  /-- REF25_LOSS (R481): Loss of REF25 asserts power-on reset within 10 µs. -/
  | ref25Loss
  /-- DOMAIN_FAULT (R458): A domain that reports overcurrent, undervoltage, lost power good or lost PLL lock is switched off with the effects of its kind. -/
  | domainFault (n : Fin 64) (kind : Fin 3) (pll : Bool)
  /-- POWER_CAP_CHECK (R463): Every 100 µs the MC compares input power with CAP_W and lowers or raises the cap point. -/
  | powerCapCheck (watts : BitVec 16) (quiet : Bool)
  /-- SENSOR_REFRESH (R469): A sensor is read at its period and its value updated. -/
  | sensorRefresh (us : BitVec 64) (reading : SensorReading)
  /-- THERMAL_POINT_TICK (R464): A cluster's thermal point falls every 1 ms above THROTTLE_C or rises every 10 ms after cooling. -/
  | thermalPointTick (cl : Fin 32) (cooled : Bool)
  /-- OP_POINT_STEP (R462): A cluster starts moving one operating point toward its target by rail change and PLL switch. -/
  | opPointStep (cl : Fin 32)
  /-- OP_POINT_STEP_DONE (R462): An operating-point step completes and a pending target takes effect. -/
  | opPointStepDone (cl : Fin 32)
  /-- DROOP_DETECT (R465): A rail below the droop margin stretches the cluster's clock until it recovers. -/
  | droopDetect (cl : Fin 32)
  /-- PLDM_EVENT_RETRY (R471): An event not acknowledged within 100 ms is sent again, up to 3 times. -/
  | pldmEventRetry (pos : Fin 64)
  /-- GET_TID (R470): A PLDM type 0 command that returns the terminus ID. -/
  | getTid
  /-- SET_TID (R470): A PLDM type 0 command that sets the terminus ID. -/
  | setTid (tid : BitVec 8)
  /-- GET_PLDM_VERSION (R470): A PLDM type 0 command that returns the supported version. -/
  | getPldmVersion (typ : BitVec 8)
  /-- GET_PLDM_TYPES (R470): A PLDM type 0 command that returns the supported types. -/
  | getPldmTypes
  /-- GET_PLDM_COMMANDS (R470): A PLDM type 0 command that returns the supported commands. -/
  | getPldmCommands (typ : BitVec 8)
  /-- GET_PDR_REPOSITORY_INFO (R470): A PLDM type 2 command that returns repository information, or ERROR_NOT_READY before stage 2 ends. -/
  | getPdrRepositoryInfo
  /-- GET_PDR (R470): A PLDM type 2 command that returns a PDR from the repository. -/
  | getPdr (handle : BitVec 32)
  /-- GET_SENSOR_READING (R470): A PLDM type 2 command that returns a numeric sensor reading. -/
  | getSensorReading (id : BitVec 16)
  /-- GET_STATE_SENSOR_READINGS (R470): A PLDM type 2 command that returns state sensor readings. -/
  | getStateSensorReadings (id : BitVec 16)
  /-- SET_EVENT_RECEIVER (R470): A PLDM type 2 command that sets the receiver of platform events. -/
  | setEventReceiver (who : Option (BitVec 8))
  /-- BYPASS (R486): A TAP instruction that selects the one-bit bypass register. -/
  | bypass (d : Fin 4)
  /-- IDCODE (R486): A TAP instruction that selects the die's 32-bit IDCODE. -/
  | idcode (d : Fin 4)
  /-- SAMPLE_PRELOAD (R486): A TAP instruction that samples or preloads the boundary-scan register. -/
  | samplePreload (d : Fin 4) (pins : BitVec 64) (preload : BitVec 64)
  /-- EXTEST (R486): A TAP instruction, available only with TEST_MODE = 1, that drives and reads J1 pins. -/
  | extest (d : Fin 4) (pins : BitVec 64)
  /-- DROOP_STRETCH_END (R465): Once the rail has recovered and at least 64 core cycles have passed, the droop stretch of a cluster's clock ends and the clock returns to its operating point. -/
  | droopStretchEnd (cl : Fin 32)
  /-- VIN_OVERVOLTAGE_RECLOSE (R478): When VIN has stayed at or below 60.0 V for 10 ms after an overvoltage opening, the input switch recloses and recharges under R477. -/
  | vinOvervoltageReclose
  /-- PCIE_LINK_UP (R346): PCIe link training with the host completes and Data Link Layer Link Active is reached, setting HBR_STATE.DL_ACTIVE. -/
  | pcieLinkUp (wide : Bool) (speed : Fin 7)
  /-- PLATFORM_EVENT_ACK (R471): The event receiver acknowledges a PlatformEventMessage, which removes the event from the queue and stops its retries. -/
  | platformEventAck (pos : Fin 64)
  /-- CACHE_OP_DONE (R182): A cache write-back or invalidate operation finishes, SP_CACHE_OP.BUSY clears, and waiting cache operations or a pending cache setting proceed. -/
  | cacheOpDone (cl : Fin 32) (k : Fin 16)
  /-- TRST_ASSERT (R486): TRST# going low holds every TAP of the chain in Test-Logic-Reset. -/
  | trstAssert
  deriving DecidableEq, Repr

end Sys2Proof
end

