-- ==== Sys2Proof/Decode.lean ====
section
/-! DEFINITION. Commands that a word spells. The command table gives no row any bits: a command comes with operands, not as a word. -/

namespace Sys2Proof

/-- The command that the low `nbits` bits of a word spell by the command table: none, since no row of the table gives bits. -/
def decodeTableWord (_nbits _w : Nat) : Option Instr := none

end Sys2Proof
end

