-- ==== Sys2Proof/Machine/Bits.lean ====
section
/-! DEFINITION. Bit fields, byte order and sign extension (R3: bit 0 is the least significant bit; multi-byte values
are little-endian).  Everything here is structural recursion on lists or plain arithmetic on naturals. -/

namespace Sys2Proof.Machine

/-- Field of `w` bits starting at bit `lsb` of `v` (R3). -/
def field (v lsb w : Nat) : Nat := (v >>> lsb) % 2 ^ w

/-- Bit `n` of `v`. -/
def bit (v n : Nat) : Bool := v.testBit n

/-- A Boolean as one bit. -/
def b2n (b : Bool) : Nat := if b then 1 else 0

/-- Value `f` placed in a field of `w` bits at `lsb`. -/
def putField (f lsb w : Nat) : Nat := (f % 2 ^ w) <<< lsb

/-- Little-endian bytes to a number (R3). -/
def leNat : List Byte → Nat
  | [] => 0
  | b :: r => b.toNat + 256 * leNat r

/-- A number as `n` little-endian bytes (R3). -/
def leBytes : Nat → Nat → List Byte
  | 0, _ => []
  | n + 1, v => BitVec.ofNat 8 v :: leBytes n (v / 256)

/-- `n` bytes of a byte list from offset `o`, as a little-endian number; bytes past the end read 0. -/
def recNat (bs : List Byte) (o n : Nat) : Nat := leNat ((bs.drop o).take n)

/-- Two's complement reading of the low `w` bits. -/
def sextInt (w v : Nat) : Int :=
  let m := v % 2 ^ w
  if m < 2 ^ (w - 1) then (m : Int) else (m : Int) - (2 ^ w : Nat)

/-- An integer as `w` bits of two's complement. -/
def wrapInt (w : Nat) (x : Int) : Nat := (x % ((2 ^ w : Nat) : Int)).toNat

/-- Saturate a natural at `m`. -/
def satNat (m v : Nat) : Nat := if v ≤ m then v else m

/-- `0, 1, …, n - 1`. -/
def upto (n : Nat) : List Nat := List.range n

/-- All bytes of a list are zero (the Reserved checks of the record formats). -/
def allZero (bs : List Byte) : Bool := bs.all (· == 0)

/-- Replace element `i` of a list. -/
def setAt {α : Type} (l : List α) (i : Nat) (v : α) : List α := l.set i v

/-- Replace bytes of a list from offset `o`. -/
def splice (l : List Byte) (o : Nat) (v : List Byte) : List Byte := l.take o ++ v ++ l.drop (o + v.length)

/-- Apply `f` to element `i` of a list. -/
def modAt {α : Type} (l : List α) (i : Nat) (f : α → α) : List α := l.modify i f

/-- Apply a state change for every element of a list, left to right. -/
def forAll {α σ : Type} (l : List α) (s : σ) (f : σ → α → σ) : σ := l.foldl f s

/-- First element of a list that satisfies `p`, with its position. -/
def findIdxFrom {α : Type} (p : α → Bool) : Nat → List α → Option (Nat × α)
  | _, [] => none
  | n, a :: r => if p a then some (n, a) else findIdxFrom p (n + 1) r

end Sys2Proof.Machine
end

