-- ==== Sys2Proof/Machine/State.lean ====
section
/-! DEFINITION. The state of the module as plain data. -/

namespace Sys2Proof.Machine

/-- Access codes of R6. -/
inductive Access where
  | ro | rw | wo | w1c | rwl
  deriving DecidableEq, Repr

/-- One register field: offset of its register in the block, lowest bit, width, access code, power-on value, and
whether a compute reset keeps it (R9). -/
structure Field where
  off : Nat
  lsb : Nat
  width : Nat
  acc : Access
  por : Nat
  kept : Bool
  deriving DecidableEq, Repr

/-- A W1C status bit with the 16-bit saturating event count beside it (R287). -/
structure Status where
  flag : Field
  cnt : Field
  deriving DecidableEq, Repr

/-- A stored register field: its value, its width and whether compute reset keeps it (R9). -/
structure RegCell where
  val : Nat
  width : Nat
  kept : Bool
  deriving DecidableEq, Repr

/-- Sparse data by key: keys strictly rising, one entry a key. -/
abbrev KMap (α : Type) := List (Nat × α)

/-- Memory: (local address, byte) pairs, addresses strictly rising; an unlisted address reads 0 (log entry 3). -/
abbrev Mem := List Host.Cell

/-- Canonical form of memory: addresses strictly rising, no listed byte is 0. -/
abbrev Mem.wf (m : Mem) : Prop := (m.map Prod.fst).Pairwise (· < ·) ∧ ∀ c ∈ m, c.2 ≠ 0

/-- An agent whose claim waits at a shelf (R162). -/
inductive ClaimAgent where
  | spMove (cl k : Nat)
  | dma (cl n : Nat)
  | ve (cl k t : Nat)
  deriving DecidableEq, Repr

/-- A waiting claim: its size in 64-byte units and its agent (R162). -/
structure ShelfClaim where
  units : Nat
  agent : ClaimAgent
  deriving DecidableEq, Repr

/-- One entry of a shelf, from its claim until HEAD has passed it (R160, R162, R164). `start` is a position modulo
twice the region (offset and wrap bit in one number), `skip` the units passed over by a CONTIG claim. -/
structure ShelfEntry where
  start : Nat
  skip : Nat
  units : Nat
  committed : Bool
  rel : Nat
  deriving DecidableEq, Repr

/-- A shelf descriptor with its pointers, entries and waiting claims (R160, R184). The entries are listed oldest
first and are numbered `seqHead`, `seqHead + 1`, … modulo 65,536. -/
structure Shelf where
  opened : Bool := false
  contig : Bool := false
  cons : Nat := 1
  owner : Nat := 7
  base : Nat := 0
  size : Nat := 0
  sigSync : Nat := 0xFFFF
  seqHead : Nat := 0
  entries : List ShelfEntry := []
  waiting : List ShelfClaim := []
  opResult : Nat := 0
  opOffset : Nat := 0
  deriving DecidableEq, Repr

/-- A shelf of a core or of a commons (R160). -/
inductive ShelfRef where
  | core (cl k n : Nat)
  | commons (cl n : Nat)
  deriving DecidableEq, Repr

/-- An agent that waits on a sync counter (R278, R280, R282). -/
inductive Waiter where
  | seq (cl k : Nat)
  | ve (cl k t : Nat)
  | dma (cl n : Nat)
  | wq (n : Nat)
  | step (cl grp : Nat)
  | arrivals (cl grp : Nat)
  | seed (cl : Nat)
  deriving DecidableEq, Repr

/-- A registered wait: module counter, threshold, the waiter, and whether a value that reached the threshold has been
seen (R278: a later lower value does not undo the wake). -/
structure SyncWait where
  ctr : Nat
  threshold : Nat
  who : Waiter
  met : Bool
  deriving DecidableEq, Repr

/-- A tile in a transposing-buffer slot (R107, R111-R115): the TB_LOAD that fed it (after LOOP increments) with its
sequence number, uses left, sweeps that have taken a use and not committed, whether it is readable, and its elements and
block scales by stored row. -/
structure TbTile where
  cmd : List Byte
  seq : Nat
  uses : Nat
  readers : Nat
  ready : Bool
  rows : List (List Nat)
  scales : List (List Nat)
  deriving DecidableEq, Repr

/-- The transposing buffer of a core (R107, R119): the two queues, oldest first; the reserved slot (R119) is used only within a replay. -/
structure Tb where
  aq : List TbTile := []
  wq : List TbTile := []
  deriving DecidableEq, Repr

/-- A sweep issued to the matrix engine (R70-R98): its slot and command words, its sequence number (R208), the command
whose weight tile it uses (KEEP_W, R71), whether the weights were kept, whether it has entered the array, failed verdicts
in a row (R98), the non-finite positions of an earlier execution (R96), and the TB tiles it reads (R113). -/
structure Sweep where
  slot : Nat
  cmd : List Byte
  seq : Nat
  wcmd : List Byte
  kept : Bool
  started : Bool
  fails : Nat
  nonfin : Option (List Nat)
  aTile : Option TbTile
  wTile : Option TbTile
  deriving DecidableEq, Repr

/-- An open virtual accumulator tile (R86, R91, R93): window, number, one 32-bit mask a row of the positions committed
since its INIT sweep, and the committed sweeps, oldest first. -/
structure Vt where
  win : Nat
  v : Nat
  cover : List Nat
  history : List Sweep
  deriving DecidableEq, Repr

/-- The matrix engine of a core: sweeps without a verdict, oldest first; the VE fallback (R98); the mode of the newest
sweep; the newest issued sweep when it carries KEEP_W; open VTs; the captured maxima of spill slots (R86, R89); tiles that have had one uncorrectable error,
and those whose error the next read by another agent finds (R93). -/
structure Me where
  sweeps : List Sweep := []
  fallback : Bool := false
  mode : Nat := 0
  keep : Option Sweep := none
  vts : List Vt := []
  slotMax : KMap Nat := []
  ueOnce : List Nat := []
  ueFound : List Nat := []
  deriving DecidableEq, Repr

/-- One level of LOOP nesting (R207): slot of the LOOP, its body length, count, current iteration and its words. -/
structure LoopFrame where
  slot : Nat
  body : Nat
  count : Nat
  iter : Nat
  cmd : List Byte
  deriving DecidableEq, Repr

/-- An SP_MOVE in flight (R156-R159): its command words, slot, sequence number, partition, the entry it names
or has claimed, and whether it still waits for its claim. -/
structure Move where
  cmd : List Byte
  slot : Nat
  seq : Nat
  part : Nat
  entry : Option Nat
  waiting : Bool
  deriving DecidableEq, Repr

/-- A valid line of a core's cache (R174, R175): way, set, tag, dirty. Its data lie in the way's bytes of the scratchpad. -/
structure CacheLine where
  way : Nat
  set : Nat
  tag : Nat
  dirty : Bool
  deriving DecidableEq, Repr

/-- A cache operation or setting in progress or waiting (R177, R178, R182). -/
inductive CacheOp where
  | run (writeBack invalidate : Bool) (ctx : Option Nat)
  | setWays (v : Nat)
  | setOwner (v : Nat)
  deriving DecidableEq, Repr

/-- The cache of a core: valid lines, tree bits of each context and set (R175), and the operations in progress (first) and waiting. -/
structure Cache where
  lines : List CacheLine := []
  plru : KMap Nat := []
  ops : List CacheOp := []
  deriving DecidableEq, Repr

/-- Where the data of a VE load goes: bytes of a vector register's memory image, or lanes of a gather (lane,
offset in the request). -/
inductive VeDest where
  | image (off : Nat)
  | lanes (size : Nat) (l : List (Nat × Nat))
  deriving DecidableEq, Repr

/-- What a VE request does at its target (R224, R225): load, masked store, or atomic adds of FP32 or BF16 values at offsets
from its address. -/
inductive VeOp where
  | load (n : Nat) (d : VeDest)
  | store (en : Nat) (bytes : List Byte)
  | add (size : Nat) (l : List (Nat × Nat))
  deriving DecidableEq, Repr

/-- A request of a VE thread, within one aligned 128-byte line (R220, R224): fabric address, PC of its instruction. -/
structure VeReq where
  addr : Nat
  pc : Nat
  op : VeOp
  deriving DecidableEq, Repr

/-- Slots held by one request (R220, R221): its thread, how many shared and reserved slots it takes, the LPDDR6 banks that they count on,
the tags of its messages to another device, whether a reset has abandoned its thread (R233), and its request. -/
structure VeSlot where
  thread : Nat
  shared : Nat
  own : Nat
  banks : List (Nat × Nat)
  tags : List Nat
  dead : Bool
  req : VeReq
  deriving DecidableEq, Repr

/-- Why a thread waits (R216). -/
inductive VeWait where
  | ready | data | slot | bank | shelf | sync | fence
  deriving DecidableEq, Repr

/-- A VE thread context (R215, R216, R229, R231): registers, masks m1-m3, the run it belongs to, its PC, wait, requests of
the present instruction not yet issued, loads outstanding, the instruction's destination image with its format, width and
mask, VCVTs executed, and its place among the waiting threads. -/
structure VeCtx where
  vec : KMap (List Byte) := []
  sca : KMap Nat := []
  mask : KMap Nat := []
  run : Option Nat := none
  done : Bool := false
  pc : Nat := 0
  wait : VeWait := .ready
  todo : List VeReq := []
  loads : Nat := 0
  image : List Byte := []
  inst : Nat := 0
  cvts : Nat := 0
  age : Nat := 0
  deriving DecidableEq, Repr

/-- A VE_RUN in flight (R230-R232): sequence number, contexts, cache context, partition, and how it was stopped. -/
structure VeRun where
  seq : Nat
  threads : List Nat
  cctx : Nat
  part : Nat
  stop : Option Nat
  deriving DecidableEq, Repr

/-- The vector engine of a core (R215-R233): contexts, runs in issue order, slots held, the context that issued last, and
the next place among waiting threads. -/
structure Ve where
  ctxs : KMap VeCtx := []
  runs : List VeRun := []
  slots : List VeSlot := []
  last : Nat := 7
  ageCtr : Nat := 0
  deriving DecidableEq, Repr

/-- The core sequencer of a core (R205-R210): the running program's buffer, the buffer whose program starts next, the running program's header fields and partition, the slot to
issue, active LOOPs (innermost first), the next sequence number, moves in flight (oldest first), VE_RUNs in flight by
sequence number, the one that holds the sequencer (R231), and how the program ends. -/
structure CoreSeq where
  running : Bool := false
  buf : Nat := 0
  next : Nat := 0
  part : Nat := 0
  length : Nat := 0
  last : Bool := false
  step : Nat := 0
  prog : Nat := 0
  slot : Nat := 0
  loops : List LoopFrame := []
  seqNo : Nat := 0
  moves : List Move := []
  runs : List Nat := []
  veHold : Option Nat := none
  ended : Bool := false
  stop : Option Nat := none
  deriving DecidableEq, Repr

/-- A stripe of a group's stripe buffer (R305): stripe number, data accesses covered, and those covered only in part. -/
structure BufWrite where
  stripe : Nat
  cover : List (Nat × Nat)
  deriving DecidableEq, Repr

/-- A request held in a group's request queue (R306, R307, R311); `dead` says that a reset of its partition discards the response (R318). -/
structure MemReq where
  agent : Agent
  cls : Nat
  write : Bool
  addr : Nat
  bytes : List Byte
  enable : Nat
  promoted : Bool
  dead : Bool
  deriving DecidableEq, Repr

/-- What a group engine holds beside its registers (R303-R317): consecutive session failures and check failures of each
member, stripe buffer, write log (stripe, member), held requests, open row of each bank, the member whose session
CAL_NOW asks for, whether the log replay runs, the stripe
at which the rebuild ends, the place of the group in the order of failures, the stored accesses that differ from what was written to them, and whether
writes are being drained (R307). -/
structure Group where
  sess : List Nat := []
  fails : List Nat := []
  buf : List BufWrite := []
  log : List (Nat × Nat) := []
  queue : List MemReq := []
  openRow : KMap Nat := []
  calNow : Option Nat := none
  replay : Bool := false
  rbEnd : Nat := 0
  failOrder : Nat := 0
  faults : List AccFault := []
  drain : Bool := false
  deriving DecidableEq, Repr

/-- A 32-byte entry of the field bench log (R433); `good` says whether its tag verifies. -/
structure LogEntry where
  kind : Nat
  cause : Nat
  pos : Nat
  seq : Nat
  good : Bool
  deriving DecidableEq, Repr

/-- The parts of the NOR flash that the module writes (R422): the field bench log, and the BENCH_CLEAR entries (kind,
position, UP_TO_SEQ) of the running image. -/
structure BenchLog where
  entries : List LogEntry := []
  clears : List (Nat × Nat × Nat) := []
  deriving DecidableEq, Repr

/-- A Jalfo message: the header fields of R329 and its data. -/
structure Msg where
  opc : Nat
  vc : Nat
  mirror : Bool := false
  hops : Nat := 0
  host : Bool := false
  dst : Nat
  src : Nat
  part : Nat := 0
  pf : Bool := false
  tag : Nat := 0
  addr : Nat := 0
  len : Nat := 1
  data : List Byte := []
  deriving DecidableEq, Repr

/-- What the cabinet and drain engines ask another device for (R395-R399, R405, R407, R413): to keep the cabinet header, the stage of a whistle, a part
of a drain, a part of a static region for a queue's CAB_STATIC, to give a line of a hosted source, to take a part of a restored slot, or to give back a
lost part of this device's own regions. -/
inductive CabJob where
  | header
  | stage
  | drain
  | static (queue : Nat)
  | catchup (host line : Nat)
  | load
  | repair (addr : Nat)
  deriving DecidableEq, Repr

/-- Who waits for the response to a request to another device (R339): a DMA segment, a VE slot of a core, a host TLP (function, BAR2 offset),
a DMA completion signal (ring index), an engine of the recovery unit, or nobody any more, since a reset has taken the channel whose signal it was (R259). -/
inductive Requester where
  | dma (cl n serial seg : Nat)
  | ve (cl k : Nat)
  | host (fn : Nat) (write : Bool) (off : Nat)
  | signal (cl n idx : Nat)
  | cab (job : CabJob)
  | dropped
  deriving DecidableEq, Repr

/-- A request to another device that has not ended (R339, R340): its die, its message with the tag, its requester, the
response, whether a RETRY waits to be resent, how often it has been resent, and the port it went to last. -/
structure FabReq where
  die : Nat
  msg : Msg
  who : Requester
  resp : Option (Nat × List Byte) := none
  retry : Bool := false
  resends : Nat := 0
  port : Option Nat := none
  deriving DecidableEq, Repr

/-- An arbiter of classes (R285, R332): its place in the frame of 16, and the cycles for which management and sync must still wait. -/
structure Arb where
  pos : Nat := 0
  mgmt : Nat := 0
  sync : Nat := 0
  deriving DecidableEq, Repr

/-- An output port of the network on chip (R284, R285): its arbiter, and the flits of each class that wait in its buffer. -/
structure NocPort where
  arb : Arb := {}
  use : List Nat := [0, 0, 0, 0, 0, 0]
  deriving DecidableEq, Repr

/-- A MSG or DATA flit not yet acknowledged (R327, R334). -/
structure SentFlit where
  seq : Nat
  typ : Nat
  vc : Nat
  fill : Nat
  payload : List Byte
  deriving DecidableEq, Repr

/-- What a Jalfo port holds beside its registers (R322, R328, R331, R332, R334): messages waiting to be sent, of each VC the data units of its stream that follow sent headers
(as the flits that carry them), the arbiter, unacknowledged flits oldest first, the next SEQ, slots in use at the peer by VC, the SEQ expected next, whether flits are ignored after a NAK,
received headers oldest first, received data by VC, and slots not yet returned by VC; in training, the peer's good-lane mask once its PARAM flit has been taken and the mask
that this side's PARAM flits carry (R323), and whether this attempt has already been counted as failed (R324). -/
structure JPort where
  txq : List Msg := []
  data : KMap (List (Nat × List Byte)) := []
  arb : Arb := {}
  sent : List SentFlit := []
  txSeq : Nat := 0
  use : KMap Nat := []
  rxSeq : Nat := 0
  nak : Bool := false
  rx : List Msg := []
  streams : KMap (List Byte) := []
  ret : KMap Nat := []
  peerMask : Option Nat := none
  ownMask : Option Nat := none
  counted : Bool := false
  deriving DecidableEq, Repr

/-- What a PCIe function holds of its own (R345, R347, R348, R350): configuration dwords written by the host, the dwords of its MSI-X table, the
vectors in its pending-bit array, and whether it is in D3hot. -/
structure HostFn where
  cfg : KMap Nat := []
  msix : KMap Nat := []
  pending : List Nat := []
  d3hot : Bool := false
  deriving DecidableEq, Repr

/-- Increments admitted from one source device and die (R340): newest sequence number and the bitmap of the 64 newest,
bit 0 the newest. -/
structure SyncSeen where
  newest : Nat
  map : Nat
  deriving DecidableEq, Repr

/-- A staged piece of a DMA segment (R244, R247): its bytes, or the tag of the read that brings them. -/
structure DmaPiece where
  len : Nat
  tag : Option Nat
  bytes : List Byte
  deriving DecidableEq, Repr

/-- A segment of a descriptor (R254-R256): attempts made beyond the first, source bytes read and written so far, staged
pieces, tags of its outstanding requests and of those that earlier attempts left, the code of the first failing request, whether a write was issued, and how it
ended; the paths of the attempt to its source and to its destination, once its first request there has picked them (R254). -/
structure DmaSeg where
  tries : Nat := 0
  path : Option (Option Nat) := none
  wrPath : Option (Option Nat) := none
  rd : Nat := 0
  wr : Nat := 0
  pieces : List DmaPiece := []
  sent : List Nat := []
  stale : List Nat := []
  err : Option Nat := none
  wrote : Bool := false
  ended : Option Nat := none
  deriving DecidableEq, Repr

/-- Phases of a descriptor in progress (R251, R252). -/
inductive DmaPhase where
  | fetched | waitSync | waitEntry | waitClaim | waitTurn | moving | ended
  deriving DecidableEq, Repr

/-- A descriptor in progress (R241, R250-R256): serial number, ring index, its bytes, partition, phase, the code that ends
it without a move, the claimed entry, its segments, and retries that succeeded. -/
structure DmaDesc where
  serial : Nat
  idx : Nat
  bs : List Byte
  part : Nat
  phase : DmaPhase := .fetched
  code : Option Nat := none
  claim : Option Nat := none
  segs : List DmaSeg := []
  retries : Nat := 0
  deriving DecidableEq, Repr

/-- A descriptor in the store that feeds a channel inside the module (R58, R240): serial number, partition, bytes. -/
structure DmaStored where
  serial : Nat
  part : Nat
  bs : List Byte
  deriving DecidableEq, Repr

/-- A DMA channel beside its registers (R240, R249): descriptors in progress oldest first, descriptors that wait in the store, the next serial number, stopped,
beats left at priority 3 at the read slot and at the write slot, pre-empted, and the codes of descriptors that its owner has not yet taken (R58). -/
structure DmaCh where
  descs : List DmaDesc := []
  store : List DmaStored := []
  serial : Nat := 0
  stopped : Bool := false
  aged : Nat := 0
  agedWr : Nat := 0
  preempted : Bool := false
  results : List (Nat × Nat) := []
  deriving DecidableEq, Repr

/-- A slot of the shared data path (R247): the channel that holds it, the beats of its burst so far, and the last winner of
each priority. -/
structure DmaHold where
  ch : Nat := 0
  beats : Nat := 0
  held : Bool := false
  rot : KMap Nat := []
  deriving DecidableEq, Repr

/-- The DMA engine of a cluster: channels, and the holders of the read slot and the write slot. -/
structure DmaEng where
  chs : KMap DmaCh := []
  rdHold : DmaHold := {}
  wrHold : DmaHold := {}
  deriving DecidableEq, Repr

/-- A carry that a retired pass has left for the next pass of its micro-batch and group (R52, R170): the receiving pass,
the end it holds, its first KiB in commons and its size in KiB. -/
structure Carry where
  bwd : Bool
  rally : Nat
  mb : Nat
  high : Bool
  lo : Nat
  kib : Nat
  deriving DecidableEq, Repr

/-- A step of a pass's walk (R55): its index relative to FIRST_STEP, the part of the walk it belongs to (0 forward pass, 1
rally recompute, 2 sub-rally recompute, 3 backward), the run of steps that share one fetch of its gather piece (R59), and
whether it begins a sub-rally recompute. -/
structure WalkStep where
  idx : Nat
  mode : Nat
  piece : Option Nat
  mark : Bool
  deriving DecidableEq, Repr

/-- An output that a backward pass keeps in its reservation (R38, R55): the sub-rally with which it is released, its commons shelf and its entry. -/
structure Hold where
  sub : Nat
  shelf : Nat
  entry : Nat
  deriving DecidableEq, Repr

/-- An admitted pass in a cluster (R45, R51, R170): rally, micro-batch, end, commons share in KiB, shelf share, accumulator
tiles, steps not yet issued, the serial numbers of its checkpoint moves on channel 30 that have not completed, whether it
depends on failed work (R62), the boundary regions that it holds (sub-rally, BOUND_KIB) and the outputs that it keeps (R37, R55). -/
structure Pass where
  bwd : Bool
  rally : Nat
  mb : Nat
  high : Bool
  lo : Nat
  kib : Nat
  shelf : Nat
  acc : Nat
  steps : List WalkStep
  moves : List Nat := []
  failed : Bool := false
  bounds : List (Nat × Nat) := []
  holds : List Hold := []
  deriving DecidableEq, Repr

/-- A gather piece in a staging shelf (R59, R60): the pass and the run of steps it serves, its entry, the serial numbers of its
moves that have not completed, and the code of the first that failed. -/
structure Piece where
  rally : Nat
  mb : Nat
  run : Nat
  entry : Nat
  serials : List Nat
  code : Nat := 0
  deriving DecidableEq, Repr

/-- The gather prefetcher of a group (R59): staged pieces oldest first, and the next piece: position in the group's queue of
passes and run of steps. -/
structure Prefetch where
  staged : List Piece := []
  pos : Nat := 0
  run : Nat := 0
  deriving DecidableEq, Repr

/-- The rally sequencer of a cluster beside its registers (R33-R62): the plan it holds (header, rally descriptors, sub-rally
entries, counters that backward records signal and that forward records wait on, partition), admitted passes in order of
admission, carries, passes admitted from each queue, retired passes, whether the groups have been split in this step, the code of a
halt and whether this cluster has a cause of its own, the code of a finished RALLY_RUN, and the two prefetchers. -/
structure Rseq where
  hdr : List Byte := []
  rallies : List (List Byte) := []
  subs : List (List (List Byte)) := []
  bsig : List Nat := []
  fwait : List Nat := []
  part : Nat := 0
  passes : List Pass := []
  carries : List Carry := []
  fAdm : Nat := 0
  bAdm : Nat := 0
  fRet : List (Nat × Nat) := []
  bRet : List (Nat × Nat) := []
  splitDone : Bool := false
  halt : Option Nat := none
  cause : Bool := false
  done : Option Nat := none
  fwdPf : Prefetch := {}
  bwdPf : Prefetch := {}
  deriving DecidableEq, Repr

/-- A product that the planner gives a core (R195-R204): what it is (0 the operation itself, 1 the dX and 2 the dW product of a backward step whose units do not
fit), its group, output rows and columns (half open; for a convolution rows of 64-pixel tiles), reduction, array mode (1 WS, 2 RR, 3 WSH), whether K is the outer loop, the
band of output tiles, and the K tiles of a chunk. -/
structure Prod where
  kind : Nat := 0
  group : Nat := 0
  rows : Nat × Nat := (0, 0)
  cols : Nat × Nat := (0, 0)
  k : Nat := 0
  mode : Nat := 1
  ko : Bool := false
  bm : Nat := 0
  bn : Nat := 0
  chunk : Nat := 0
  deriving DecidableEq, Repr

/-- A core's part of a step (R198, R199, R202, R203): products in order; the k-slabs of a backward step with the token squares of each, and whether the slab
is shared; query blocks (sequence, block, head); n-squares of a block; the footprint F; whether a VE_RUN must follow its last store. -/
structure CorePlan where
  core : Nat
  prods : List Prod := []
  slabs : List (Nat × Nat × Nat × Bool) := []
  blocks : List (Nat × Nat × Nat) := []
  block : Nat := 0
  foot : Nat := 0
  needVe : Bool := false
  deriving DecidableEq, Repr

/-- A sequence of an ATTN operation (R203, R378): its queries, its keys, and the position of its first query. -/
structure AttnSeq where
  q : Nat
  len : Nat
  pos : Nat
  deriving DecidableEq, Repr

/-- What the planner has fixed for a step (R192, R193, R196, R198-R204): storage and conversion factors, whether the bias is added, the sequences of an ATTN operation, the
reference of the weights and the first row of each group of a GROUPED one, and the part of each core. -/
structure StepPlan where
  sA : Int := 0
  sW : Int := 0
  sO : Int := 0
  bias : Bool := false
  seqs : List AttnSeq := []
  groups : List (Nat × Nat) := []
  cores : List CorePlan := []
  deriving DecidableEq, Repr

/-- Bytes that the planner moves between a place in the cluster's commons and the place that a reference names (R188, R378): the place in commons, their number, the
other address. -/
structure Staged where
  cm : Nat
  len : Nat
  addr : Nat
  deriving DecidableEq, Repr

/-- Bytes of a core's scratchpad that a step's programs have written: from the commons address that an SP_MOVE pulled them from, or, with none, by an ACC_STORE. -/
structure Copy where
  off : Nat
  len : Nat
  addr : Option Nat
  deriving DecidableEq, Repr

/-- Bytes of a result that a program still has to push (R87, R199): where an ACC_STORE has written them in the scratchpad (none: a VE_RUN forms them), their number, the
commons addresses among which the push must reach, and the address to which the planner moves them on. -/
structure Owed where
  off : Option Nat
  len : Nat
  lo : Nat
  hi : Nat
  out : Option Nat
  deriving DecidableEq, Repr

/-- An order of a core's sweeps that the programs written so far agree with (R200), and its open tiles (tile, window × 32 + VT, whether the last sweep into it has
been written), the places of the tiles that are stored more than once (tile, offset, pitch), the results still to be pushed, and those that the planner moves on when the
step ends. -/
structure ProgAlt where
  alt : Nat
  opened : List (Nat × Nat × Bool) := []
  homes : List (Nat × Nat × Nat) := []
  owed : List Owed := []
  outs : List Staged := []
  deriving DecidableEq, Repr

/-- How far the programs of a core have been written (R205, R211): sweeps written, the orders still possible, offsets at which final ACC_STOREs write MAXABS,
what they have written to the scratchpad, newest first, what the planner has moved into commons for them, and whether a VE_RUN follows the last store. -/
structure CoreProg where
  done : Nat := 0
  alts : List ProgAlt := []
  maxes : List Nat := []
  copies : List Copy := []
  staged : List Staged := []
  ve : Bool := false
  deriving DecidableEq, Repr

/-- What KV_IN gives an ATTN operator (R378): POS and NEW of each sequence of the batch, the addresses of its pages, SLOT, the bytes of a key row, and the tokens of a
page. -/
structure KvRun where
  seqs : List (Nat × Nat)
  pages : List (List Nat)
  slot : Nat
  rowBytes : Nat
  tokens : Nat
  deriving DecidableEq, Repr

/-- A step, or an operator of OP_RUN, that a cluster runs (R185, R189, R213, R271): its queue (none in a rally), partition,
direction, end, rally, micro-batch, walk step, step record, descriptor, run-time shape, cores, the code of each core that has finished or
stopped (of each DMA descriptor for a collective), progress after each program written for each core, newest first, its plan, claimed output entry and claimed entry of
shelf 254, the phase of a collective, its members, its DMA descriptors in issue order, the first code of a program that was not COMP_OK, whether
the step writes nothing, the keys and values of a batch (R378), and the code with which it has ended. -/
structure StepRun where
  queue : Option Nat := none
  part : Nat := 0
  bwd : Bool := false
  high : Bool := false
  rally : Nat := 0
  mb : Nat := 0
  walk : WalkStep := ⟨0, 0, none, false⟩
  rcd : List Byte := []
  desc : List Byte := []
  m : Nat := 0
  n : Nat := 0
  k : Nat := 0
  cores : List Nat := []
  ends : KMap Nat := []
  progs : KMap (List CoreProg) := []
  plan : StepPlan := {}
  out : Option Nat := none
  grad : Option Nat := none
  phase : Nat := 0
  mem : List Nat := []
  posted : List Nat := []
  code : Nat := 0
  zero : Bool := false
  kv : Option KvRun := none
  ended : Option Nat := none
  deriving DecidableEq, Repr

/-- The current entry of a work queue (R272): its 64 bytes, its ring pointer, whether its action has begun, whether a check refused it, for
OP_RUN and BATCH_STEP the clusters on which it has begun with the code of each that has ended, and the code and DETAIL with
which it ended. -/
structure QEntry where
  bs : List Byte
  ptr : Nat
  started : Bool := false
  refused : Bool := false
  subs : KMap (Option Nat) := []
  code : Option Nat := none
  detail : Nat := 0
  deriving DecidableEq, Repr

/-- A work queue beside its registers: its current entry, and whether it holds on a full completion ring (R272, R274). -/
structure Queue where
  cur : Option QEntry := none
  cqHeld : Bool := false
  deriving DecidableEq, Repr

/-- A sequence context (R370). -/
structure SeqCtx where
  state : Nat := 0
  pinned : Bool := false
  gen : Nat := 0
  part : Nat := 0
  len : Nat := 0
  pending : Nat := 0
  pages : Nat := 0
  order : Nat := 0
  tag : Nat := 0
  deriving DecidableEq, Repr

/-- A sequence of a running batch (R376): its context in the partition, NEW, whether pass 2 took it, and the pages popped for it. -/
structure BatchSeq where
  ctx : Nat
  new : Nat
  prompt : Bool
  popped : Nat
  deriving DecidableEq, Repr

/-- A running BATCH_STEP (R375-R379): its queue, its sequences, its op-list entries, and the operator that runs. -/
structure Batch where
  queue : Nat
  seqs : List BatchSeq
  ops : List (List Byte)
  op : Nat := 0
  deriving DecidableEq, Repr

/-- A region of a cabinet plan (R413): METHOD, BASE and SIZE in bytes. -/
structure Region where
  method : Nat
  base : Nat
  size : Nat
  deriving DecidableEq, Repr

/-- A partition beside its registers: the next admission number (R370), the batches that have run operators (R377), its running batch, whether a stuck whistle or the MC
holds its queues (R290, R404, R435), and its cabinet plan (R413). -/
structure PartRun where
  order : Nat := 0
  batches : Nat := 0
  batch : Option Batch := none
  stuck : Bool := false
  held : Bool := false
  plan : List Region := []
  deriving DecidableEq, Repr

/-- A partition entry of a LAYOUT record (R355, R426). -/
structure LayoutPart where
  part : Nat
  baseSlice : Nat
  accBase : Nat
  accCount : Nat
  clusters : Nat
  groups : Nat
  rangeBase : Nat
  rangeSize : Nat
  ctxBase : Nat
  ctxCount : Nat
  poolBase : Nat
  ptBase : Nat
  poolPages : Nat
  page64k : Nat
  pageTokens : Nat
  maxPages : Nat
  sliceUs : Nat
  spBase : Nat
  spKib : Nat
  cmBase : Nat
  cmKib : Nat
  windows : Nat
  deriving DecidableEq, Repr

/-- A LAYOUT record: its number and its partitions (R426). -/
structure Layout where
  num : Nat
  parts : List LayoutPart
  deriving DecidableEq, Repr

/-- A hosted cabinet of the PROTECTION record: source, whether it is valid, CAB_BASE, CAB_SIZE (R426). -/
structure ProtHost where
  source : Nat
  valid : Bool
  base : Nat
  size : Nat
  deriving DecidableEq, Repr

/-- The PROTECTION record (R426). -/
structure Protection where
  members : Nat
  spares : Nat
  partners : List (Option Nat)
  cabGroups : Nat
  cabSlice : Nat
  protPart : Nat
  enable : Bool
  feed : Nat
  sealSync : Nat
  hosts : List ProtHost
  deriving DecidableEq, Repr

/-- The configuration image in use (R423-R426), as stage 4 has read and checked it: SVN, IDENTITY word, PORTS words, ROUTES (device, word),
WINDOWS (three words each), LAYOUT records, PROTECTION, REG_INIT (offset, die mask, value, mask), whether MEM_SEEDS is
valid for a rate, BENCH_CLEAR, firmware versions and its two digests' sources. -/
structure Image where
  svn : Nat
  identity : Nat
  ports : List Nat
  routes : List (Nat × Nat)
  windows : List (Nat × Nat × Nat)
  layouts : List Layout
  prot : Option Protection
  regInit : List (Nat × Nat × Nat × Nat)
  seeds : List Byte
  clears : List (Nat × Nat × Nat)
  header : List Byte
  fw : List Byte
  cfg : List Byte
  deriving DecidableEq, Repr

/-- What the RES stage records of a queue (R397): BASE, LOG2_ENTRIES, ENABLE, CQ_BASE, CQ_LOG2, VECTOR, the ring index to go on from,
CQ_TAIL and CQ_HEAD. -/
structure QStage where
  base : Nat
  log2 : Nat
  enable : Nat
  cqBase : Nat
  cqLog2 : Nat
  vector : Nat
  next : Nat
  tail : Nat
  head : Nat
  deriving DecidableEq, Repr

/-- The RES stage of a whistle (R397): the step, counter bases that are not zero, the four queues, PLAN_BASE and the RSEQ state, and LIVE, STEP0,
STEP1 of each pair. -/
structure Stage where
  step : Nat
  bases : List (Nat × Nat)
  queues : List QStage
  plan : Nat
  rseq : Nat
  pairs : List (Nat × Nat × Nat × Nat)
  deriving DecidableEq, Repr

/-- The declaring partner's work for a lost device (R402, R405, R406): the device, the step, the spare that is asked or loads, the
ranks of spares tried, whether the spare has granted, and the members that have answered ADOPTED. -/
structure Claim where
  dev : Nat
  step : Nat
  spare : Option Nat := none
  tried : List Nat := []
  granted : Bool := false
  adopted : List Nat := []
  deriving DecidableEq, Repr

/-- A LOST message that this device has taken (R403, R409): the lost device, the step, and the device that declared the loss. -/
structure Lost where
  dev : Nat
  step : Nat
  by_ : Nat
  deriving DecidableEq, Repr

/-- What the recovery unit holds beside the RES registers (R388-R412): the step whose drain runs, and the devices that it goes to; by partner (0, 1), the
steps of the present plan that it holds sealed, one a slot; hosted cabinets whose DRAIN_END has come since their newest WSTATE; partners that have told their feed; by rank, the step that each member last reported and the protection level that each partner last reported; what
this device last reported; whether SEAL_SYNC has been incremented for the live step; silent devices; by source, the step that the other partner reported
in SILENT; sources found silent that are not declared yet, and those of them whose 20 µs have ended; LOST messages taken; devices refused until ADOPTED; the step of a restore in progress
and whether it waits for RESUME_GROUP, and whether one has come before it did; work for lost devices; for a spare, the partner that loads it and the device it stands in for; ranks of spares that have reported themselves
free, and of spares that have left the list; partners that a new plan's header has yet to be written to; and the lost ranges (group, first and last stripe)
that are to be given back, and whether this device has declared its own loss and lets the group go on (R407); and the BOOT_DONE messages counted (R418). -/
structure Recov where
  drain : Option Nat := none
  drainDevs : List Nat := []
  seals : KMap (List Nat) := []
  drained : List Nat := []
  fed : List Nat := []
  memberSeal : KMap Nat := []
  memberLevel : KMap Nat := []
  reported : Option Nat := none
  synced : Bool := false
  silent : List Nat := []
  told : KMap Nat := []
  declare : List Nat := []
  due : List Nat := []
  losts : List Lost := []
  refused : List Nat := []
  restore : Option Nat := none
  waiting : Bool := false
  early : Bool := false
  claims : List Claim := []
  load : Option (Nat × Nat) := none
  free : List Nat := []
  gone : List Nat := []
  headers : List Nat := []
  repair : List (Nat × Nat × Nat) := []
  mending : Bool := false
  bootDones : Nat := 0
  deriving DecidableEq, Repr

/-- Straps of J1 (R475, R476). -/
structure Straps where
  smbAddr : Nat := 0
  feedId : Nat := 0
  bridgeSel : Bool := false
  norMode : Bool := false
  testMode : Bool := false
  deriving DecidableEq, Repr

/-- Input power, references and pins of J1 (R475-R481, R484, R486): MOD_EN, the input switch, input valid, opened by overcurrent until MOD_EN is
cycled, opened by overvoltage, the two references, TEST_MODE as the board holds it, FLASH_REQ# low, FLASH_GNT# low, TRST# low, and the pins that EXTEST
drives. -/
structure Board where
  modEn : Bool := false
  closed : Bool := false
  valid : Bool := false
  tripped : Bool := false
  overVolt : Bool := false
  ref25 : Bool := true
  ref100 : Bool := true
  testMode : Bool := false
  flashReq : Bool := false
  flashGnt : Bool := false
  trst : Bool := false
  driven : Option Nat := none
  deriving DecidableEq, Repr

/-- Instruction of a TAP (R486). -/
inductive TapIr where
  | bypass | idcode | sample | extest
  deriving DecidableEq, Repr

/-- A die's test access port (R486): whether it is held in Test-Logic-Reset, its instruction, and its boundary-scan register. -/
structure Tap where
  held : Bool := true
  ir : TapIr := .idcode
  boundary : Nat := 0
  deriving DecidableEq, Repr

/-- A half of the seed cache (R430, R431): module serial and rate of its header, whether its CRC passes, and which half was written later. -/
structure SeedHalf where
  serial : Nat
  rate : Nat
  good : Bool
  age : Nat
  deriving DecidableEq, Repr

/-- The parts of the NOR flash beside the bench log (R422): the bytes of the two image copies, and the two halves of the seed cache. -/
structure Flash where
  image : Mem := []
  seedA : Option SeedHalf := none
  seedB : Option SeedHalf := none
  deriving DecidableEq, Repr

/-- An attestation request that the island has admitted (R449, R450): its source device (none for the sideband), its NONCE, and its KIND; once its
signature has started, its leaf and the report body. -/
structure AttReq where
  source : Option Nat
  nonce : List Byte
  kind : Nat
  leaf : Option Nat := none
  body : List Byte := []
  deriving DecidableEq, Repr

/-- A request to change an owner slot that has come before stage 4 has ended and waits (R442); `clean` says that its burn will hold. -/
inductive OwnerCmd where
  | enroll (slot : Nat) (key sig : List Byte) (clean : Bool)
  | revoke (slot signer : Nat) (sig : List Byte) (clean : Bool)
  deriving DecidableEq, Repr

/-- The security island beside its registers (R438-R451): requests in order of arrival, the one at the front being served; owner commands that wait;
whether the stored tree failed its check. -/
structure Island where
  queue : List AttReq := []
  waiting : List OwnerCmd := []
  fault : Bool := false
  deriving DecidableEq, Repr

/-- A platform event (R471): what it reports (sensor 40-44, or 256 for a domain fault, 257 for a thermal trip, 258 for a local loss, 259 for a lost partner), its
value, and how often it has been sent. -/
structure PldmEvent where
  source : Nat
  value : Nat
  sent : Nat := 0
  deriving DecidableEq, Repr

/-- The PLDM terminus (R469-R471): its TID, the event receiver, events waiting for delivery, oldest first, whether the PDR repository exists, the
state sensors as last reported, the readings of the numeric sensors by sensor ID, and sensors without a valid reading. -/
structure Pldm where
  tid : Nat := 0
  receiver : Option Nat := none
  events : List PldmEvent := []
  pdrs : Bool := false
  states : List Nat := [0, 0, 0, 0, 0]
  readings : KMap Nat := []
  bad : List Nat := []
  deriving DecidableEq, Repr

/-- What the MC holds for power and clocks beside the registers (R459-R465): thermal points of clusters below 7, the limit of R459, dies without
temperatures, and clusters whose clock is stretched. -/
structure Power where
  thermal : KMap Nat := []
  inputLow : Bool := false
  blind : List Nat := []
  stretched : List Nat := []
  deriving DecidableEq, Repr

/-- What the module puts out: responses, messages, interrupts, sideband messages and test data, oldest first. -/
inductive OutMsg where
  | memResp (code : Nat) (bytes : List Byte)
  | flit (port : Nat) (bytes : List Byte)
  | msix (fn vector : Nat)
  | completion (fn status : Nat) (bytes : List Byte)
  | sideband (typ : Nat) (bytes : List Byte)
  | pldm (command code : Nat) (fields : List Nat)
  | event (source value : Nat)
  | tdo (die width value : Nat)
  deriving DecidableEq, Repr

/-- Everything the module holds outside its one-time-programmable store and the queue of waiting commands. `compReset` is 1 while a compute reset waits
for a layout switch and 2 while it runs or has found the variant short (R435); `coreFail` and `portFail` are the physical cores (die × 512 + cluster × 32 +
core) and ports that the last self-test failed, and `lanesOut` the lanes (8 × port + lane) that were excluded at the start (R434). -/
structure Chip where
  por : Bool := true
  board : Board := {}
  straps : Straps := {}
  flash : Flash := {}
  taps : KMap Tap := []
  island : Island := {}
  power : Power := {}
  pldm : Pldm := {}
  regs : KMap RegCell := []
  mem : Mem := []
  shelves : KMap Shelf := []
  waits : List SyncWait := []
  seqs : KMap CoreSeq := []
  mes : KMap Me := []
  tbs : KMap Tb := []
  caches : KMap Cache := []
  ves : KMap Ve := []
  keys : KMap Nat := []
  grps : KMap Group := []
  poison : List (Nat × Nat × Nat) := []
  losses : List (Nat × Nat × Nat) := []
  bench : BenchLog := {}
  ports : KMap JPort := []
  noc : KMap NocPort := []
  hostFns : KMap HostFn := []
  perst : Bool := true
  reqs : List FabReq := []
  tagCtr : Nat := 0
  syncTx : KMap Nat := []
  syncRx : KMap SyncSeen := []
  syncHeld : List FabReq := []
  dmas : KMap DmaEng := []
  rseqs : KMap Rseq := []
  steps : KMap StepRun := []
  rolled : List (Nat × Nat) := []
  spent : List Nat := []
  queues : KMap Queue := []
  wqLast : Nat := 63
  seqCtxs : KMap SeqCtx := []
  partRuns : KMap PartRun := []
  setTurn : KMap Nat := []
  image : Option Image := none
  stages : List Stage := []
  recov : Recov := {}
  cabGroups : Nat := 0
  cabSlice : Nat := 0
  failCtr : Nat := 0
  compReset : Nat := 0
  coreFail : Nat := 0
  portFail : Nat := 0
  lanesOut : Nat := 0
  out : List OutMsg := []
  freeCtr : Nat := 0
  deriving DecidableEq, Repr

/-- What wafer and module test burned for a die (R432): identity, and of the fuse bench map its absent clusters, benched physical cores of each
cluster, benched ports and benched package sites. -/
structure DieFuse where
  lot : Nat := 0
  wafer : Nat := 1
  dieX : Nat := 0
  dieY : Nat := 0
  testRev : Nat := 0
  dateCode : Nat := 0
  absent : Nat := 0
  cores : List Nat := [0, 0, 0, 0, 0, 0, 0, 0]
  ports : Nat := 0
  sites : Nat := 0
  deriving DecidableEq, Repr

/-- The fuse record (R432): serial, variant (0 TK-G9-1008, 1 TK-G9-0756, 2 TK-G9-0504), whether the part is binned for 14.4 Gb/s (R22), its dies, and the
manufacturing key's signature of each die's record. -/
structure FuseRecord where
  serial : Nat := 1
  variant : Nat := 0
  fast : Bool := true
  dies : List DieFuse := [{}, {}, {}, {}]
  sigs : List (List Byte) := [[], [], [], []]
  deriving DecidableEq, Repr

/-- An owner slot of the one-time-programmable array (R438, R442). -/
inductive OwnerSlot where
  | blank
  | enrolled (key : List Byte)
  | revoked (key : List Byte)
  | torn
  deriving DecidableEq, Repr

/-- The one-time-programmable array (R432, R438, R441, R443, R446): the fuse record, the owner slots, burnt bits of the SVN floor, bits of the block
counter that read 1, bits that read neither value cleanly, and whether an attestation key was stored. -/
structure Otp where
  fuse : FuseRecord := {}
  owners : List OwnerSlot := [.blank, .blank, .blank, .blank]
  svn : Nat := 0
  blocks : Nat := 0
  unclean : Nat := 0
  key : Bool := true
  deriving DecidableEq, Repr

/-- The module: what it holds, its one-time-programmable array, and the commands that wait, first in, first out. -/
structure State where
  chip : Chip := {}
  otp : Otp := {}
  pending : List Instr := []
  deriving DecidableEq, Repr

/-- Why the model stops. -/
inductive Fault where
  /-- Raised by a command whose operand takes the module beyond an absolute limit of R490, where no statement of the manual holds. Safe. -/
  | beyondAbsoluteLimits
  deriving DecidableEq, Repr

/-- Why the model refuses a command. -/
inductive Refusal where
  /-- Raised by a row of the command table that has no meaning here. Safe. -/
  | notModelled (mnemonic : String)
  deriving DecidableEq, Repr

/-- The module with power-on reset held, before MOD_EN rises (R9, R475-R477): registers at their power-on values, memory with nothing listed, no command
waiting (log entries 1 and 6). -/
def State.reset : State := {}

end Sys2Proof.Machine
end

