-- ==== Sys2Proof/Machine/Regs.lean ====
section
/-! DEFINITION. The register tables of the spec (R66, R102, R103, R125, R182-R184, R214, R238, R266, R267, R293-R296,
R319-R321, R351-R354, R384-R386, R415, R416, R436, R437, R455, R472-R474, R496-R498): every field with its offset in its
block, its place, its access code (R6), its power-on value and whether a compute reset keeps it (R9).  Reserved bits hold
no field, so they read zero and ignore writes (R5).  A Reset entry "fuse", "strap" or "fixed" is listed as 0 here: the
fuse record and the straps write the field at power-on (Machine/BringUp.lean). -/

namespace Sys2Proof.Machine


/-- Block RSEQ (R66, 02_rallies.md). -/
def R.RSEQ_CTRL_STALL_LIMIT : Field := ⟨0x0, 0, 16, .rw, 1000, true⟩
def R.RSEQ_CTRL_HALT_REQ : Field := ⟨0x0, 16, 1, .wo, 0, true⟩
def R.RSEQ_STATE : Field := ⟨0x8, 0, 3, .ro, 0, false⟩
def R.RSEQ_STATE_SPLIT : Field := ⟨0x8, 8, 4, .ro, 0, false⟩
def R.RSEQ_STATE_MB_F : Field := ⟨0x8, 16, 12, .ro, 0, false⟩
def R.RSEQ_STATE_MB_B : Field := ⟨0x8, 28, 12, .ro, 0, false⟩
def R.RSEQ_STATE_RALLY_F : Field := ⟨0x8, 40, 12, .ro, 0, false⟩
def R.RSEQ_STATE_RALLY_B : Field := ⟨0x8, 52, 12, .ro, 0, false⟩
def R.RSEQ_PLAN_PLAN_BASE : Field := ⟨0x10, 0, 48, .ro, 0, false⟩
def R.RSEQ_POOL_COMMONS_F_FREE : Field := ⟨0x18, 0, 16, .ro, 0, false⟩
def R.RSEQ_POOL_COMMONS_B_FREE : Field := ⟨0x18, 16, 16, .ro, 0, false⟩
def R.RSEQ_POOL_SHELF_F_FREE : Field := ⟨0x18, 32, 16, .ro, 0, false⟩
def R.RSEQ_POOL_SHELF_B_FREE : Field := ⟨0x18, 48, 16, .ro, 0, false⟩
def R.RSEQ_ERR_REASON : Field := ⟨0x20, 0, 8, .ro, 0, false⟩
def R.RSEQ_ERR_RALLY : Field := ⟨0x20, 16, 12, .ro, 0, false⟩
def R.RSEQ_ERR_STEP : Field := ⟨0x20, 28, 16, .ro, 0, false⟩
def R.RSEQ_ERR_MB : Field := ⟨0x20, 44, 12, .ro, 0, false⟩
def R.RSEQ_STATUS_PLAN_INVALID : Field := ⟨0x28, 0, 1, .w1c, 0, false⟩
def R.RSEQ_STATUS_SHAPE_OVER_PLAN : Field := ⟨0x28, 1, 1, .w1c, 0, false⟩
def R.RSEQ_STATUS_GATHER_PARTIAL : Field := ⟨0x28, 2, 1, .w1c, 0, false⟩
def R.RSEQ_STATUS_CKPT_PARTIAL : Field := ⟨0x28, 3, 1, .w1c, 0, false⟩
def R.RSEQ_STATUS_STALL : Field := ⟨0x28, 4, 1, .w1c, 0, false⟩
def R.RSEQ_STATUS_STATE_CONFLICT : Field := ⟨0x28, 5, 1, .w1c, 0, false⟩
def R.RSEQ_STATUS_HALTED : Field := ⟨0x28, 6, 1, .w1c, 0, false⟩
def R.RSEQ_CNT_0 : Field := ⟨0x30, 0, 16, .ro, 0, true⟩
def R.RSEQ_CNT_1 : Field := ⟨0x30, 16, 16, .ro, 0, true⟩
def R.RSEQ_CNT_2 : Field := ⟨0x30, 32, 16, .ro, 0, true⟩
def R.RSEQ_CNT_3 : Field := ⟨0x30, 48, 16, .ro, 0, true⟩
def R.RSEQ_CNT_4 : Field := ⟨0x38, 0, 16, .ro, 0, true⟩
def R.RSEQ_CNT_5 : Field := ⟨0x38, 16, 16, .ro, 0, true⟩
def R.RSEQ_CNT_6 : Field := ⟨0x38, 32, 16, .ro, 0, true⟩
def R.RSEQ_ACCT_FWD : Field := ⟨0x40, 0, 64, .ro, 0, false⟩
def R.RSEQ_ACCT_RECOMP : Field := ⟨0x48, 0, 64, .ro, 0, false⟩
def R.RSEQ_ACCT_BWD : Field := ⟨0x50, 0, 64, .ro, 0, false⟩
def R.RSEQ_ACCT_AWAIT : Field := ⟨0x58, 0, 64, .ro, 0, false⟩
def R.RSEQ_ACCT_GWAIT : Field := ⟨0x60, 0, 64, .ro, 0, false⟩
def R.RSEQ_PROGRESS_PASSES : Field := ⟨0x68, 0, 32, .ro, 0, false⟩
def R.RSEQ_PROGRESS_SUB_RECOMP : Field := ⟨0x68, 32, 32, .ro, 0, false⟩

/-- Block ME (R102, 03_matrix_engine.md). -/
def R.ME_STATE_MODE : Field := ⟨0x0, 0, 2, .ro, 0, false⟩
def R.ME_STATE_SWEEPS : Field := ⟨0x0, 2, 2, .ro, 0, false⟩
def R.ME_STATE_FALLBACK : Field := ⟨0x0, 4, 1, .ro, 0, false⟩
def R.ME_STATE_SPILL_HELD : Field := ⟨0x0, 5, 1, .ro, 0, false⟩
def R.ME_STATE_SPILL_WIN : Field := ⟨0x0, 6, 1, .ro, 0, false⟩
def R.ME_ACC_WIN_COUNT0 : Field := ⟨0x8, 0, 6, .rw, 32, false⟩
def R.ME_ACC_WIN_BASE0 : Field := ⟨0x8, 8, 5, .rw, 0, false⟩
def R.ME_ACC_WIN_COUNT1 : Field := ⟨0x8, 16, 6, .rw, 0, false⟩
def R.ME_ACC_WIN_BASE1 : Field := ⟨0x8, 24, 5, .rw, 0, false⟩
def R.ME_CSUM_TOL_REL_C1 : Field := ⟨0x10, 0, 6, .rwl, 7, true⟩
def R.ME_CSUM_TOL_ABS_C1 : Field := ⟨0x10, 8, 8, .rwl, 156, true⟩
def R.ME_CSUM_TOL_REL_C2 : Field := ⟨0x10, 16, 6, .rwl, 7, true⟩
def R.ME_CSUM_TOL_ABS_C2 : Field := ⟨0x10, 24, 8, .rwl, 156, true⟩
def R.ME_CSUM_TOL_REL_C4 : Field := ⟨0x10, 32, 6, .rwl, 7, true⟩
def R.ME_CSUM_TOL_ABS_C4 : Field := ⟨0x10, 40, 8, .rwl, 156, true⟩
def R.ME_ACC_RETIRED_RETIRED : Field := ⟨0x18, 0, 32, .ro, 0, true⟩
def R.ME_STATUS_CSUM_MISS : Field := ⟨0x20, 0, 1, .w1c, 0, false⟩
def R.ME_STATUS_CSUM_HARD : Field := ⟨0x20, 1, 1, .w1c, 0, false⟩
def R.ME_STATUS_CSUM_SKIP : Field := ⟨0x20, 2, 1, .w1c, 0, false⟩
def R.ME_STATUS_ACC_OVERCOMMIT : Field := ⟨0x20, 3, 1, .w1c, 0, false⟩
def R.ME_STATUS_ACC_CE : Field := ⟨0x20, 4, 1, .w1c, 0, false⟩
def R.ME_STATUS_ACC_UE : Field := ⟨0x20, 5, 1, .w1c, 0, false⟩
def R.ME_STATUS_CMD_INVALID : Field := ⟨0x20, 6, 1, .w1c, 0, false⟩
def R.ME_STATUS_ACC_OPEN_WRITE : Field := ⟨0x20, 7, 1, .w1c, 0, false⟩
def R.ME_CNT_0 : Field := ⟨0x28, 0, 16, .ro, 0, true⟩
def R.ME_CNT_1 : Field := ⟨0x28, 16, 16, .ro, 0, true⟩
def R.ME_CNT_2 : Field := ⟨0x28, 32, 16, .ro, 0, true⟩
def R.ME_CNT_3 : Field := ⟨0x28, 48, 16, .ro, 0, true⟩
def R.ME_CNT_4 : Field := ⟨0x30, 0, 16, .ro, 0, true⟩
def R.ME_CNT_5 : Field := ⟨0x30, 16, 16, .ro, 0, true⟩
def R.ME_CNT_6 : Field := ⟨0x30, 32, 16, .ro, 0, true⟩
def R.ME_CNT_7 : Field := ⟨0x30, 48, 16, .ro, 0, true⟩
def R.ME_CSUM_LOG_TILE : Field := ⟨0x38, 0, 5, .ro, 0, true⟩
def R.ME_CSUM_LOG_KIND : Field := ⟨0x38, 5, 1, .ro, 0, true⟩
def R.ME_CSUM_LOG_WIN : Field := ⟨0x38, 6, 1, .ro, 0, true⟩
def R.ME_CSUM_LOG_INDEX : Field := ⟨0x38, 8, 8, .ro, 0, true⟩
def R.ME_CSUM_LOG_FMT_A : Field := ⟨0x38, 16, 4, .ro, 0, true⟩
def R.ME_CSUM_LOG_FMT_W : Field := ⟨0x38, 20, 4, .ro, 0, true⟩
def R.ME_CSUM_LOG_MODE : Field := ⟨0x38, 24, 2, .ro, 0, true⟩
def R.ME_CSUM_LOG_SEQ : Field := ⟨0x38, 32, 16, .ro, 0, true⟩
def R.ME_CMD_ERR_REASON : Field := ⟨0x40, 0, 8, .ro, 0, false⟩
def R.ME_CMD_ERR_OP : Field := ⟨0x40, 8, 8, .ro, 0, false⟩
def R.ME_CMD_ERR_ADDR : Field := ⟨0x40, 16, 22, .ro, 0, false⟩
def R.ME_SWEEPS : Field := ⟨0x48, 0, 64, .ro, 0, true⟩
def R.ME_BUSY_CYC : Field := ⟨0x50, 0, 64, .ro, 0, true⟩
def R.ME_REEXEC_CYC : Field := ⟨0x58, 0, 64, .ro, 0, true⟩
def R.ME_SPILL_BYTES : Field := ⟨0x60, 0, 64, .ro, 0, true⟩
def R.ME_MAXABS_MAXABS_EVEN : Field := ⟨0x100, 0, 32, .ro, 0, false⟩
def R.ME_MAXABS_MAXABS_ODD : Field := ⟨0x100, 32, 32, .ro, 0, false⟩

/-- Block MECL (R103, 03_matrix_engine.md). -/
def R.MECL_SCORE0_SCORE_0 : Field := ⟨0x0, 0, 16, .ro, 0, true⟩
def R.MECL_SCORE0_SCORE_1 : Field := ⟨0x0, 16, 16, .ro, 0, true⟩
def R.MECL_SCORE0_SCORE_2 : Field := ⟨0x0, 32, 16, .ro, 0, true⟩
def R.MECL_SCORE0_SCORE_3 : Field := ⟨0x0, 48, 16, .ro, 0, true⟩
def R.MECL_SCORE1_SCORE_4 : Field := ⟨0x8, 0, 16, .ro, 0, true⟩
def R.MECL_SCORE1_SCORE_5 : Field := ⟨0x8, 16, 16, .ro, 0, true⟩
def R.MECL_SCORE1_SCORE_6 : Field := ⟨0x8, 32, 16, .ro, 0, true⟩
def R.MECL_SCORE1_SCORE_7 : Field := ⟨0x8, 48, 16, .ro, 0, true⟩
def R.MECL_SCORE2_SCORE_8 : Field := ⟨0x10, 0, 16, .ro, 0, true⟩
def R.MECL_SCORE2_SCORE_9 : Field := ⟨0x10, 16, 16, .ro, 0, true⟩
def R.MECL_SCORE2_SCORE_10 : Field := ⟨0x10, 32, 16, .ro, 0, true⟩
def R.MECL_SCORE2_SCORE_11 : Field := ⟨0x10, 48, 16, .ro, 0, true⟩
def R.MECL_SCORE3_SCORE_12 : Field := ⟨0x18, 0, 16, .ro, 0, true⟩
def R.MECL_SCORE3_SCORE_13 : Field := ⟨0x18, 16, 16, .ro, 0, true⟩
def R.MECL_SCORE3_SCORE_14 : Field := ⟨0x18, 32, 16, .ro, 0, true⟩
def R.MECL_SCORE3_SCORE_15 : Field := ⟨0x18, 48, 16, .ro, 0, true⟩
def R.MECL_SCORE4_SCORE_16 : Field := ⟨0x20, 0, 16, .ro, 0, true⟩
def R.MECL_BENCH_CTRL_BENCH_LIMIT : Field := ⟨0x28, 0, 16, .rwl, 32, true⟩
def R.MECL_BENCH_CTRL_MISS_WEIGHT : Field := ⟨0x28, 16, 8, .rwl, 1, true⟩
def R.MECL_BENCH_CTRL_HARD_WEIGHT : Field := ⟨0x28, 24, 8, .rwl, 16, true⟩
def R.MECL_BENCH_CTRL_RETRY : Field := ⟨0x28, 32, 2, .rwl, 2, true⟩
def R.MECL_STATUS_CORE_BENCHED : Field := ⟨0x30, 0, 1, .w1c, 0, false⟩
def R.MECL_STATUS_SPARE_NONE : Field := ⟨0x30, 1, 1, .w1c, 0, false⟩
def R.MECL_CNT_0 : Field := ⟨0x38, 0, 16, .ro, 0, true⟩
def R.MECL_CNT_1 : Field := ⟨0x38, 16, 16, .ro, 0, true⟩
def R.MECL_MAP0_PHYS_0 : Field := ⟨0x40, 0, 5, .ro, 0, true⟩
def R.MECL_MAP0_PHYS_1 : Field := ⟨0x40, 8, 5, .ro, 0, true⟩
def R.MECL_MAP0_PHYS_2 : Field := ⟨0x40, 16, 5, .ro, 0, true⟩
def R.MECL_MAP0_PHYS_3 : Field := ⟨0x40, 24, 5, .ro, 0, true⟩
def R.MECL_MAP0_PHYS_4 : Field := ⟨0x40, 32, 5, .ro, 0, true⟩
def R.MECL_MAP0_PHYS_5 : Field := ⟨0x40, 40, 5, .ro, 0, true⟩
def R.MECL_MAP0_PHYS_6 : Field := ⟨0x40, 48, 5, .ro, 0, true⟩
def R.MECL_MAP0_PHYS_7 : Field := ⟨0x40, 56, 5, .ro, 0, true⟩
def R.MECL_MAP1_PHYS_8 : Field := ⟨0x48, 0, 5, .ro, 0, true⟩
def R.MECL_MAP1_PHYS_9 : Field := ⟨0x48, 8, 5, .ro, 0, true⟩
def R.MECL_MAP1_PHYS_10 : Field := ⟨0x48, 16, 5, .ro, 0, true⟩
def R.MECL_MAP1_PHYS_11 : Field := ⟨0x48, 24, 5, .ro, 0, true⟩
def R.MECL_MAP1_PHYS_12 : Field := ⟨0x48, 32, 5, .ro, 0, true⟩
def R.MECL_MAP1_PHYS_13 : Field := ⟨0x48, 40, 5, .ro, 0, true⟩
def R.MECL_MAP1_PHYS_14 : Field := ⟨0x48, 48, 5, .ro, 0, true⟩
def R.MECL_MAP1_PHYS_15 : Field := ⟨0x48, 56, 5, .ro, 0, true⟩
def R.MECL_SPARE : Field := ⟨0x50, 0, 5, .ro, 31, true⟩
def R.MECL_SPARE_SPARE_FREE : Field := ⟨0x50, 5, 1, .ro, 0, true⟩
def R.MECL_SPARE_BENCHED : Field := ⟨0x50, 24, 17, .ro, 0, true⟩

/-- Block TB (R125, 04_backward_products.md). -/
def R.TB_STATE_W_TILES : Field := ⟨0x0, 0, 3, .ro, 0, false⟩
def R.TB_STATE_A_TILES : Field := ⟨0x0, 3, 3, .ro, 0, false⟩
def R.TB_STATE_FREE : Field := ⟨0x0, 6, 3, .ro, 6, false⟩
def R.TB_STATE_FILLING : Field := ⟨0x0, 9, 1, .ro, 0, false⟩
def R.TB_STATE_W_USES_LEFT : Field := ⟨0x0, 10, 4, .ro, 0, false⟩
def R.TB_STATE_A_USES_LEFT : Field := ⟨0x0, 14, 4, .ro, 0, false⟩
def R.TB_STATE_REPLAY : Field := ⟨0x0, 18, 1, .ro, 0, false⟩
def R.TB_CTRL_W_MAX : Field := ⟨0x8, 0, 3, .rw, 4, true⟩
def R.TB_CTRL_A_MAX : Field := ⟨0x8, 3, 3, .rw, 4, true⟩
def R.TB_CTRL_XRETRY : Field := ⟨0x8, 6, 2, .rwl, 1, true⟩
def R.TB_STATUS_CMD_INVALID : Field := ⟨0x10, 0, 1, .w1c, 0, false⟩
def R.TB_STATUS_MISMATCH : Field := ⟨0x10, 1, 1, .w1c, 0, false⟩
def R.TB_STATUS_XPOSE_MISS : Field := ⟨0x10, 2, 1, .w1c, 0, false⟩
def R.TB_STATUS_XPOSE_HARD : Field := ⟨0x10, 3, 1, .w1c, 0, false⟩
def R.TB_STATUS_SLOT_CE : Field := ⟨0x10, 4, 1, .w1c, 0, false⟩
def R.TB_STATUS_SLOT_UE : Field := ⟨0x10, 5, 1, .w1c, 0, false⟩
def R.TB_STATUS_LEFTOVER : Field := ⟨0x10, 6, 1, .w1c, 0, false⟩
def R.TB_CNT_0 : Field := ⟨0x18, 0, 16, .ro, 0, true⟩
def R.TB_CNT_1 : Field := ⟨0x18, 16, 16, .ro, 0, true⟩
def R.TB_CNT_2 : Field := ⟨0x18, 32, 16, .ro, 0, true⟩
def R.TB_CNT_3 : Field := ⟨0x18, 48, 16, .ro, 0, true⟩
def R.TB_CNT_4 : Field := ⟨0x20, 0, 16, .ro, 0, true⟩
def R.TB_CNT_5 : Field := ⟨0x20, 16, 16, .ro, 0, true⟩
def R.TB_CNT_6 : Field := ⟨0x20, 32, 16, .ro, 0, true⟩
def R.TB_ERR_REASON : Field := ⟨0x28, 0, 8, .ro, 0, false⟩
def R.TB_ERR_QUEUE : Field := ⟨0x28, 8, 1, .ro, 0, false⟩
def R.TB_ERR_SOURCE : Field := ⟨0x28, 9, 1, .ro, 0, false⟩
def R.TB_ERR_ADDR : Field := ⟨0x28, 16, 22, .ro, 0, false⟩
def R.TB_TILES : Field := ⟨0x30, 0, 64, .ro, 0, true⟩
def R.TB_ACCESSES : Field := ⟨0x38, 0, 64, .ro, 0, true⟩
def R.TB_CONFLICT_CYC : Field := ⟨0x40, 0, 64, .ro, 0, true⟩
def R.TB_WAIT_CYC : Field := ⟨0x48, 0, 64, .ro, 0, true⟩

/-- Block SP (R182, 06_scratchpad_and_shelves.md). -/
def R.SP_GRANT_BASE0 : Field := ⟨0x0, 0, 12, .ro, 0, false⟩
def R.SP_GRANT_SIZE0 : Field := ⟨0x0, 12, 12, .ro, 0, false⟩
def R.SP_GRANT_BASE1 : Field := ⟨0x0, 24, 12, .ro, 0, false⟩
def R.SP_GRANT_SIZE1 : Field := ⟨0x0, 36, 12, .ro, 0, false⟩
def R.SP_CACHE_CFG_WAYS : Field := ⟨0x8, 0, 5, .rw, 0, false⟩
def R.SP_CACHE_OWNER_OWNER_0 : Field := ⟨0x10, 0, 3, .rw, 0, false⟩
def R.SP_CACHE_OWNER_OWNER_1 : Field := ⟨0x10, 3, 3, .rw, 0, false⟩
def R.SP_CACHE_OWNER_OWNER_2 : Field := ⟨0x10, 6, 3, .rw, 0, false⟩
def R.SP_CACHE_OWNER_OWNER_3 : Field := ⟨0x10, 9, 3, .rw, 0, false⟩
def R.SP_CACHE_OWNER_OWNER_4 : Field := ⟨0x10, 12, 3, .rw, 0, false⟩
def R.SP_CACHE_OWNER_OWNER_5 : Field := ⟨0x10, 15, 3, .rw, 0, false⟩
def R.SP_CACHE_OWNER_OWNER_6 : Field := ⟨0x10, 18, 3, .rw, 0, false⟩
def R.SP_CACHE_OWNER_OWNER_7 : Field := ⟨0x10, 21, 3, .rw, 0, false⟩
def R.SP_CACHE_OWNER_OWNER_8 : Field := ⟨0x10, 24, 3, .rw, 0, false⟩
def R.SP_CACHE_OWNER_OWNER_9 : Field := ⟨0x10, 27, 3, .rw, 0, false⟩
def R.SP_CACHE_OWNER_OWNER_10 : Field := ⟨0x10, 30, 3, .rw, 0, false⟩
def R.SP_CACHE_OWNER_OWNER_11 : Field := ⟨0x10, 33, 3, .rw, 0, false⟩
def R.SP_CACHE_OWNER_OWNER_12 : Field := ⟨0x10, 36, 3, .rw, 0, false⟩
def R.SP_CACHE_OWNER_OWNER_13 : Field := ⟨0x10, 39, 3, .rw, 0, false⟩
def R.SP_CACHE_OWNER_OWNER_14 : Field := ⟨0x10, 42, 3, .rw, 0, false⟩
def R.SP_CACHE_OWNER_OWNER_15 : Field := ⟨0x10, 45, 3, .rw, 0, false⟩
def R.SP_CACHE_OP_OP : Field := ⟨0x18, 0, 2, .wo, 0, true⟩
def R.SP_CACHE_OP_CTX : Field := ⟨0x18, 2, 3, .wo, 0, true⟩
def R.SP_CACHE_OP_ALL : Field := ⟨0x18, 5, 1, .wo, 0, true⟩
def R.SP_CACHE_OP_BUSY : Field := ⟨0x18, 6, 1, .ro, 0, false⟩
def R.SP_STATUS_CE : Field := ⟨0x20, 0, 1, .w1c, 0, false⟩
def R.SP_STATUS_UE : Field := ⟨0x20, 1, 1, .w1c, 0, false⟩
def R.SP_STATUS_OPEN_REFUSED : Field := ⟨0x20, 2, 1, .w1c, 0, false⟩
def R.SP_STATUS_CLOSE_BUSY : Field := ⟨0x20, 3, 1, .w1c, 0, false⟩
def R.SP_STATUS_SHELF_SEQ : Field := ⟨0x20, 4, 1, .w1c, 0, false⟩
def R.SP_STATUS_CACHE_REFUSED : Field := ⟨0x20, 5, 1, .w1c, 0, false⟩
def R.SP_STATUS_CACHE_LOST_DIRTY : Field := ⟨0x20, 6, 1, .w1c, 0, false⟩
def R.SP_STATUS_MOVE_INVALID : Field := ⟨0x20, 7, 1, .w1c, 0, false⟩
def R.SP_CNT_0 : Field := ⟨0x28, 0, 16, .ro, 0, true⟩
def R.SP_CNT_1 : Field := ⟨0x28, 16, 16, .ro, 0, true⟩
def R.SP_CNT_2 : Field := ⟨0x28, 32, 16, .ro, 0, true⟩
def R.SP_CNT_3 : Field := ⟨0x28, 48, 16, .ro, 0, true⟩
def R.SP_CNT_4 : Field := ⟨0x30, 0, 16, .ro, 0, true⟩
def R.SP_CNT_5 : Field := ⟨0x30, 16, 16, .ro, 0, true⟩
def R.SP_CNT_6 : Field := ⟨0x30, 32, 16, .ro, 0, true⟩
def R.SP_CNT_7 : Field := ⟨0x30, 48, 16, .ro, 0, true⟩
def R.SP_ME_STALL_CYC : Field := ⟨0x38, 0, 64, .ro, 0, true⟩
def R.SP_CONFLICT_CYC : Field := ⟨0x40, 0, 64, .ro, 0, true⟩
def R.SP_CACHE_HIT : Field := ⟨0x48, 0, 64, .ro, 0, true⟩
def R.SP_CACHE_MISS : Field := ⟨0x50, 0, 64, .ro, 0, true⟩
def R.SP_CACHE_WB : Field := ⟨0x58, 0, 64, .ro, 0, true⟩
def R.SP_MOVE_BYTES : Field := ⟨0x60, 0, 64, .ro, 0, true⟩
def R.SP_MOVE_ERR_REASON : Field := ⟨0x68, 0, 8, .ro, 0, false⟩
def R.SP_MOVE_ERR_ADDR : Field := ⟨0x68, 16, 22, .ro, 0, false⟩

/-- Block CM (R183, 06_scratchpad_and_shelves.md). -/
def R.CM_GRANT0_BASE : Field := ⟨0x0, 0, 15, .ro, 0, false⟩
def R.CM_GRANT1_BASE : Field := ⟨0x8, 0, 15, .ro, 0, false⟩
def R.CM_GRANT2_BASE : Field := ⟨0x10, 0, 15, .ro, 0, false⟩
def R.CM_GRANT3_BASE : Field := ⟨0x18, 0, 15, .ro, 0, false⟩
def R.CM_GRANT0_SIZE : Field := ⟨0x0, 15, 15, .ro, 0, false⟩
def R.CM_GRANT1_SIZE : Field := ⟨0x8, 15, 15, .ro, 0, false⟩
def R.CM_GRANT2_SIZE : Field := ⟨0x10, 15, 15, .ro, 0, false⟩
def R.CM_GRANT3_SIZE : Field := ⟨0x18, 15, 15, .ro, 0, false⟩
def R.CM_GRANT0_CARRY : Field := ⟨0x0, 30, 16, .ro, 0, false⟩
def R.CM_GRANT1_CARRY : Field := ⟨0x8, 30, 16, .ro, 0, false⟩
def R.CM_GRANT2_CARRY : Field := ⟨0x10, 30, 16, .ro, 0, false⟩
def R.CM_GRANT3_CARRY : Field := ⟨0x18, 30, 16, .ro, 0, false⟩
def R.CM_STATUS_CE : Field := ⟨0x20, 0, 1, .w1c, 0, false⟩
def R.CM_STATUS_UE : Field := ⟨0x20, 1, 1, .w1c, 0, false⟩
def R.CM_STATUS_OPEN_REFUSED : Field := ⟨0x20, 2, 1, .w1c, 0, false⟩
def R.CM_STATUS_CLOSE_BUSY : Field := ⟨0x20, 3, 1, .w1c, 0, false⟩
def R.CM_STATUS_SHELF_SEQ : Field := ⟨0x20, 4, 1, .w1c, 0, false⟩
def R.CM_STATUS_RELOCATE : Field := ⟨0x20, 5, 1, .w1c, 0, false⟩
def R.CM_CNT_0 : Field := ⟨0x28, 0, 16, .ro, 0, true⟩
def R.CM_CNT_1 : Field := ⟨0x28, 16, 16, .ro, 0, true⟩
def R.CM_CNT_2 : Field := ⟨0x28, 32, 16, .ro, 0, true⟩
def R.CM_CNT_3 : Field := ⟨0x28, 48, 16, .ro, 0, true⟩
def R.CM_CNT_4 : Field := ⟨0x30, 0, 16, .ro, 0, true⟩
def R.CM_CNT_5 : Field := ⟨0x30, 16, 16, .ro, 0, true⟩
def R.CM_WAIT_CYC : Field := ⟨0x38, 0, 64, .ro, 0, true⟩
def R.CM_WORDS : Field := ⟨0x40, 0, 64, .ro, 0, true⟩
def R.CM_RELOC_BYTES : Field := ⟨0x48, 0, 64, .ro, 0, true⟩

/-- Block SHELF (R184, 06_scratchpad_and_shelves.md). -/
def R.SHELF_CFG_OPEN : Field := ⟨0x0, 0, 1, .rw, 0, false⟩
def R.SHELF_CFG_CONTIG : Field := ⟨0x0, 1, 1, .rw, 0, false⟩
def R.SHELF_CFG_CONS : Field := ⟨0x0, 4, 5, .rw, 1, false⟩
def R.SHELF_CFG_OWNER : Field := ⟨0x0, 9, 3, .rw, 7, false⟩
def R.SHELF_CFG_BASE : Field := ⟨0x0, 16, 15, .rw, 0, false⟩
def R.SHELF_CFG_SIZE : Field := ⟨0x0, 32, 15, .rw, 0, false⟩
def R.SHELF_CFG_SIG_SYNC : Field := ⟨0x0, 48, 16, .rw, 65535, false⟩
def R.SHELF_PTR_HEAD : Field := ⟨0x8, 0, 20, .ro, 0, false⟩
def R.SHELF_PTR_TAIL : Field := ⟨0x8, 20, 20, .ro, 0, false⟩
def R.SHELF_PTR_CLAIM : Field := ⟨0x8, 40, 20, .ro, 0, false⟩
def R.SHELF_STAT_ENTRIES : Field := ⟨0x10, 0, 5, .ro, 0, false⟩
def R.SHELF_STAT_SEQ_HEAD : Field := ⟨0x10, 5, 16, .ro, 0, false⟩
def R.SHELF_STAT_SEQ_NEXT : Field := ⟨0x10, 21, 16, .ro, 0, false⟩
def R.SHELF_STAT_CLAIM_WAIT : Field := ⟨0x10, 37, 1, .ro, 0, false⟩
def R.SHELF_STAT_READ_WAIT : Field := ⟨0x10, 38, 1, .ro, 0, false⟩
def R.SHELF_OP : Field := ⟨0x18, 0, 2, .wo, 0, true⟩
def R.SHELF_OP_UNITS : Field := ⟨0x18, 2, 20, .wo, 0, true⟩
def R.SHELF_OP_SEQ : Field := ⟨0x18, 22, 16, .wo, 0, true⟩
def R.SHELF_OP_RESULT : Field := ⟨0x18, 38, 1, .ro, 0, false⟩
def R.SHELF_OP_OFFSET : Field := ⟨0x18, 39, 20, .ro, 0, false⟩

/-- Block PLAN (R214, 07_tiling_planner.md). -/
def R.PLAN_CTRL_TP_LIMIT : Field := ⟨0x0, 0, 8, .rwl, 20, true⟩
def R.PLAN_CTRL_EST_PCT : Field := ⟨0x0, 8, 7, .rwl, 90, true⟩
def R.PLAN_CTRL_NO_WSH : Field := ⟨0x0, 16, 1, .rw, 0, true⟩
def R.PLAN_STATE_STEP : Field := ⟨0x8, 0, 16, .ro, 65535, false⟩
def R.PLAN_STATE_BUSY : Field := ⟨0x8, 16, 1, .ro, 0, false⟩
def R.PLAN_STATE_HELD : Field := ⟨0x8, 17, 1, .ro, 0, false⟩
def R.PLAN_ERR_REASON : Field := ⟨0x10, 0, 8, .ro, 0, false⟩
def R.PLAN_ERR_SOURCE : Field := ⟨0x10, 8, 1, .ro, 0, false⟩
def R.PLAN_ERR_CORE : Field := ⟨0x10, 9, 4, .ro, 0, false⟩
def R.PLAN_ERR_ADDR : Field := ⟨0x10, 16, 22, .ro, 0, false⟩
def R.PLAN_ERR_STEP : Field := ⟨0x10, 38, 16, .ro, 0, false⟩
def R.PLAN_STATUS_DESC_INVALID : Field := ⟨0x18, 0, 1, .w1c, 0, false⟩
def R.PLAN_STATUS_TP_INVALID : Field := ⟨0x18, 1, 1, .w1c, 0, false⟩
def R.PLAN_STATUS_SHAPE_OVER : Field := ⟨0x18, 2, 1, .w1c, 0, false⟩
def R.PLAN_STATUS_ZERO_SHAPE : Field := ⟨0x18, 3, 1, .w1c, 0, false⟩
def R.PLAN_STATUS_ACC_REORDER : Field := ⟨0x18, 4, 1, .w1c, 0, false⟩
def R.PLAN_STATUS_SCALE_KEPT : Field := ⟨0x18, 5, 1, .w1c, 0, false⟩
def R.PLAN_STATUS_TP_OVERRUN : Field := ⟨0x18, 6, 1, .w1c, 0, false⟩
def R.PLAN_CNT_0 : Field := ⟨0x20, 0, 16, .ro, 0, true⟩
def R.PLAN_CNT_1 : Field := ⟨0x20, 16, 16, .ro, 0, true⟩
def R.PLAN_CNT_2 : Field := ⟨0x20, 32, 16, .ro, 0, true⟩
def R.PLAN_CNT_3 : Field := ⟨0x20, 48, 16, .ro, 0, true⟩
def R.PLAN_CNT_4 : Field := ⟨0x28, 0, 16, .ro, 0, true⟩
def R.PLAN_CNT_5 : Field := ⟨0x28, 16, 16, .ro, 0, true⟩
def R.PLAN_CNT_6 : Field := ⟨0x28, 32, 16, .ro, 0, true⟩
def R.PLAN_PROGRAMS : Field := ⟨0x30, 0, 64, .ro, 0, true⟩
def R.PLAN_EST_CYC : Field := ⟨0x38, 0, 64, .ro, 0, true⟩
def R.PLAN_ACT_CYC : Field := ⟨0x40, 0, 64, .ro, 0, true⟩
def R.PLAN_PLAN_CYC : Field := ⟨0x48, 0, 64, .ro, 0, true⟩
def R.PLAN_CTR_SCALE_KEPT : Field := ⟨0x50, 0, 64, .ro, 0, true⟩
def R.PLAN_TP_MAX : Field := ⟨0x58, 0, 32, .ro, 0, false⟩

/-- Block VE (R238, 08_vector_engine_and_threads.md). -/
def R.VE_CTRL_WATCHDOG : Field := ⟨0x0, 0, 16, .rw, 1000, true⟩
def R.VE_CTRL_SHARED_MAX : Field := ⟨0x0, 16, 6, .rw, 16, true⟩
def R.VE_STATE_BUSY : Field := ⟨0x8, 0, 8, .ro, 0, false⟩
def R.VE_STATE_READY : Field := ⟨0x8, 8, 8, .ro, 0, false⟩
def R.VE_STATE_SLOTS : Field := ⟨0x8, 16, 6, .ro, 0, false⟩
def R.VE_STATE_SHARED : Field := ⟨0x8, 22, 6, .ro, 0, false⟩
def R.VE_STATE_FALLBACK : Field := ⟨0x8, 28, 1, .ro, 0, false⟩
def R.VE_WAIT_REASON_0 : Field := ⟨0x10, 0, 4, .ro, 0, false⟩
def R.VE_WAIT_REASON_1 : Field := ⟨0x10, 4, 4, .ro, 0, false⟩
def R.VE_WAIT_REASON_2 : Field := ⟨0x10, 8, 4, .ro, 0, false⟩
def R.VE_WAIT_REASON_3 : Field := ⟨0x10, 12, 4, .ro, 0, false⟩
def R.VE_WAIT_REASON_4 : Field := ⟨0x10, 16, 4, .ro, 0, false⟩
def R.VE_WAIT_REASON_5 : Field := ⟨0x10, 20, 4, .ro, 0, false⟩
def R.VE_WAIT_REASON_6 : Field := ⟨0x10, 24, 4, .ro, 0, false⟩
def R.VE_WAIT_REASON_7 : Field := ⟨0x10, 28, 4, .ro, 0, false⟩
def R.VE_STATUS_INST_INVALID : Field := ⟨0x18, 0, 1, .w1c, 0, false⟩
def R.VE_STATUS_FAULT : Field := ⟨0x18, 1, 1, .w1c, 0, false⟩
def R.VE_STATUS_TIMEOUT : Field := ⟨0x18, 2, 1, .w1c, 0, false⟩
def R.VE_STATUS_BANK_CAP : Field := ⟨0x18, 3, 1, .w1c, 0, false⟩
def R.VE_STATUS_IDX_RANGE : Field := ⟨0x18, 4, 1, .w1c, 0, false⟩
def R.VE_STATUS_REG_CE : Field := ⟨0x18, 5, 1, .w1c, 0, false⟩
def R.VE_STATUS_REG_UE : Field := ⟨0x18, 6, 1, .w1c, 0, false⟩
def R.VE_CNT_0 : Field := ⟨0x20, 0, 16, .ro, 0, true⟩
def R.VE_CNT_1 : Field := ⟨0x20, 16, 16, .ro, 0, true⟩
def R.VE_CNT_2 : Field := ⟨0x20, 32, 16, .ro, 0, true⟩
def R.VE_CNT_3 : Field := ⟨0x20, 48, 16, .ro, 0, true⟩
def R.VE_CNT_4 : Field := ⟨0x28, 0, 16, .ro, 0, true⟩
def R.VE_CNT_5 : Field := ⟨0x28, 16, 16, .ro, 0, true⟩
def R.VE_CNT_6 : Field := ⟨0x28, 32, 16, .ro, 0, true⟩
def R.VE_ERR_REASON : Field := ⟨0x30, 0, 8, .ro, 0, false⟩
def R.VE_ERR_THREAD : Field := ⟨0x30, 8, 3, .ro, 0, false⟩
def R.VE_ERR_PC : Field := ⟨0x30, 16, 22, .ro, 0, false⟩
def R.VE_FAULT_ADDR_ADDR : Field := ⟨0x38, 0, 60, .ro, 0, false⟩
def R.VE_INSTS : Field := ⟨0x40, 0, 64, .ro, 0, true⟩
def R.VE_ISSUE_CYC : Field := ⟨0x48, 0, 64, .ro, 0, true⟩
def R.VE_STARVE_CYC : Field := ⟨0x50, 0, 64, .ro, 0, true⟩
def R.VE_REQUESTS : Field := ⟨0x58, 0, 64, .ro, 0, true⟩
def R.VE_SLOT_CYC : Field := ⟨0x60, 0, 64, .ro, 0, true⟩
def R.VE_BANK_CAP_CYC : Field := ⟨0x68, 0, 64, .ro, 0, true⟩
def R.VE_FALLBACK_CYC : Field := ⟨0x70, 0, 64, .ro, 0, true⟩
def R.VE_MAX_LAT : Field := ⟨0x78, 0, 32, .ro, 0, false⟩

/-- Block DMA (R266, 09_dma_engines.md). -/
def R.DMA_CTRL_AGE_US : Field := ⟨0x0, 0, 16, .rw, 20, true⟩
def R.DMA_CTRL_ATTEMPT_MS : Field := ⟨0x0, 16, 16, .rw, 2, true⟩
def R.DMA_STATE_ACTIVE : Field := ⟨0x8, 0, 32, .ro, 0, false⟩
def R.DMA_STATE_WAITING : Field := ⟨0x8, 32, 32, .ro, 0, false⟩
def R.DMA_STATUS_DESC_INVALID : Field := ⟨0x10, 0, 1, .w1c, 0, false⟩
def R.DMA_STATUS_PARTIAL : Field := ⟨0x10, 1, 1, .w1c, 0, false⟩
def R.DMA_STATUS_RETRIED : Field := ⟨0x10, 2, 1, .w1c, 0, false⟩
def R.DMA_STATUS_CH_OWNED : Field := ⟨0x10, 3, 1, .w1c, 0, false⟩
def R.DMA_STATUS_AGED : Field := ⟨0x10, 4, 1, .w1c, 0, false⟩
def R.DMA_STATUS_RING_OVER : Field := ⟨0x10, 5, 1, .w1c, 0, false⟩
def R.DMA_STATUS_BUF_CE : Field := ⟨0x10, 6, 1, .w1c, 0, false⟩
def R.DMA_STATUS_BUF_UE : Field := ⟨0x10, 7, 1, .w1c, 0, false⟩
def R.DMA_STATUS_FETCH_FAIL : Field := ⟨0x10, 8, 1, .w1c, 0, false⟩
def R.DMA_STATUS_SIGNAL_FAIL : Field := ⟨0x10, 9, 1, .w1c, 0, false⟩
def R.DMA_CNT_0 : Field := ⟨0x18, 0, 16, .ro, 0, true⟩
def R.DMA_CNT_1 : Field := ⟨0x18, 16, 16, .ro, 0, true⟩
def R.DMA_CNT_2 : Field := ⟨0x18, 32, 16, .ro, 0, true⟩
def R.DMA_CNT_3 : Field := ⟨0x18, 48, 16, .ro, 0, true⟩
def R.DMA_CNT_4 : Field := ⟨0x20, 0, 16, .ro, 0, true⟩
def R.DMA_CNT_5 : Field := ⟨0x20, 16, 16, .ro, 0, true⟩
def R.DMA_CNT_6 : Field := ⟨0x20, 32, 16, .ro, 0, true⟩
def R.DMA_CNT_7 : Field := ⟨0x20, 48, 16, .ro, 0, true⟩
def R.DMA_ERR_REASON : Field := ⟨0x28, 0, 8, .ro, 0, false⟩
def R.DMA_ERR_CHANNEL : Field := ⟨0x28, 8, 5, .ro, 0, false⟩
def R.DMA_ERR_INDEX : Field := ⟨0x28, 16, 12, .ro, 0, false⟩
def R.DMA_ERR_CODE : Field := ⟨0x28, 28, 16, .ro, 0, false⟩
def R.DMA_READ_BYTES : Field := ⟨0x30, 0, 64, .ro, 0, true⟩
def R.DMA_WRITE_BYTES : Field := ⟨0x38, 0, 64, .ro, 0, true⟩
def R.DMA_SEG_RETRIES : Field := ⟨0x40, 0, 64, .ro, 0, true⟩
def R.DMA_SEG_FAILS : Field := ⟨0x48, 0, 64, .ro, 0, true⟩
def R.DMA_PREEMPTS : Field := ⟨0x50, 0, 64, .ro, 0, true⟩
def R.DMA_NARROW_BEATS : Field := ⟨0x58, 0, 64, .ro, 0, true⟩
def R.DMA_CNT_8 : Field := ⟨0x60, 0, 16, .ro, 0, true⟩
def R.DMA_CNT_9 : Field := ⟨0x60, 16, 16, .ro, 0, true⟩

/-- Block CH (R267, 09_dma_engines.md). -/
def R.CH_CTRL_ENABLE : Field := ⟨0x0, 0, 1, .rw, 0, false⟩
def R.CH_CTRL_PRIO : Field := ⟨0x0, 1, 2, .rw, 0, false⟩
def R.CH_CTRL_STOP : Field := ⟨0x0, 3, 1, .wo, 0, true⟩
def R.CH_CTRL_OWNED : Field := ⟨0x0, 4, 1, .ro, 0, false⟩
def R.CH_RING_BASE : Field := ⟨0x8, 6, 42, .rw, 0, true⟩
def R.CH_RING_LOG2_ENTRIES : Field := ⟨0x8, 48, 4, .rw, 1, true⟩
def R.CH_PROD : Field := ⟨0x10, 0, 13, .rw, 0, false⟩
def R.CH_CONS : Field := ⟨0x18, 0, 13, .ro, 0, false⟩
def R.CH_CONS_DONE : Field := ⟨0x18, 16, 13, .ro, 0, false⟩
def R.CH_STATE : Field := ⟨0x20, 0, 3, .ro, 0, false⟩
def R.CH_STATE_PREEMPTED : Field := ⟨0x20, 3, 1, .ro, 0, false⟩
def R.CH_STATE_BUF_BEATS : Field := ⟨0x20, 8, 5, .ro, 0, false⟩
def R.CH_STATE_LEFT : Field := ⟨0x20, 32, 32, .ro, 0, false⟩
def R.CH_LAST_COMP : Field := ⟨0x28, 0, 64, .ro, 0, false⟩
def R.CH_FAIL_INDEX : Field := ⟨0x30, 0, 12, .ro, 0, false⟩
def R.CH_FAIL_SEGMENT : Field := ⟨0x30, 16, 5, .ro, 0, false⟩
def R.CH_FAIL_CODE : Field := ⟨0x30, 32, 16, .ro, 0, false⟩
def R.CH_BYTES : Field := ⟨0x38, 0, 64, .ro, 0, true⟩

/-- Block WQ (R293, 10_queues_counters_whistle.md). -/
def R.WQ_RING_BASE : Field := ⟨0x0, 6, 42, .rw, 0, true⟩
def R.WQ_RING_LOG2_ENTRIES : Field := ⟨0x0, 48, 4, .rw, 1, true⟩
def R.WQ_RING_ENABLE : Field := ⟨0x0, 52, 1, .rw, 0, true⟩
def R.WQ_PROD : Field := ⟨0x8, 0, 13, .rw, 0, false⟩
def R.WQ_CONS : Field := ⟨0x10, 0, 13, .ro, 0, false⟩
def R.WQ_CONS_DONE : Field := ⟨0x10, 16, 13, .ro, 0, false⟩
def R.WQ_CQ_RING_CQ_BASE : Field := ⟨0x18, 4, 44, .rw, 0, true⟩
def R.WQ_CQ_RING_CQ_LOG2 : Field := ⟨0x18, 48, 4, .rw, 1, true⟩
def R.WQ_CQ_RING_VECTOR : Field := ⟨0x18, 52, 7, .rw, 0, true⟩
def R.WQ_CQ_PTR_CQ_TAIL : Field := ⟨0x20, 0, 13, .ro, 0, false⟩
def R.WQ_CQ_PTR_CQ_HEAD : Field := ⟨0x20, 16, 13, .rw, 0, false⟩
def R.WQ_Q_STATE_STATE : Field := ⟨0x28, 0, 2, .ro, 0, false⟩
def R.WQ_Q_STATE_HELD : Field := ⟨0x28, 2, 1, .ro, 0, false⟩
def R.WQ_Q_STATE_OP : Field := ⟨0x28, 8, 8, .ro, 0, false⟩
def R.WQ_Q_STATE_INDEX : Field := ⟨0x28, 16, 12, .ro, 0, false⟩

/-- Block WQP (R294, 10_queues_counters_whistle.md). -/
def R.WQP_CTRL_WHISTLE_LIMIT : Field := ⟨0x0, 0, 16, .rw, 2000, true⟩
def R.WQP_STEP : Field := ⟨0x8, 0, 64, .ro, 0, true⟩
def R.WQP_STATUS_CMD_INVALID : Field := ⟨0x10, 0, 1, .w1c, 0, false⟩
def R.WQP_STATUS_STATE_CONFLICT : Field := ⟨0x10, 1, 1, .w1c, 0, false⟩
def R.WQP_STATUS_CQ_FULL : Field := ⟨0x10, 2, 1, .w1c, 0, false⟩
def R.WQP_STATUS_WHISTLE_STUCK : Field := ⟨0x10, 3, 1, .w1c, 0, false⟩
def R.WQP_STATUS_WHISTLE_LEFTOVER : Field := ⟨0x10, 4, 1, .w1c, 0, false⟩
def R.WQP_CNT_0 : Field := ⟨0x18, 0, 16, .ro, 0, true⟩
def R.WQP_CNT_1 : Field := ⟨0x18, 16, 16, .ro, 0, true⟩
def R.WQP_CNT_2 : Field := ⟨0x18, 32, 16, .ro, 0, true⟩
def R.WQP_CNT_3 : Field := ⟨0x18, 48, 16, .ro, 0, true⟩
def R.WQP_CNT_4 : Field := ⟨0x20, 0, 16, .ro, 0, true⟩
def R.WQP_ERR_OP : Field := ⟨0x28, 0, 8, .ro, 0, false⟩
def R.WQP_ERR_QUEUE : Field := ⟨0x28, 8, 6, .ro, 0, false⟩
def R.WQP_ERR_INDEX : Field := ⟨0x28, 16, 12, .ro, 0, false⟩
def R.WQP_ERR_PART_STATE : Field := ⟨0x28, 28, 4, .ro, 0, false⟩
def R.WQP_WHISTLE_LOG_DURATION : Field := ⟨0x30, 0, 32, .ro, 0, false⟩
def R.WQP_WHISTLE_LOG_BLOCKER : Field := ⟨0x30, 32, 8, .ro, 0, false⟩
def R.WQP_WHISTLE_LOG_CLUSTER : Field := ⟨0x30, 40, 5, .ro, 0, false⟩
def R.WQP_WHISTLES_CYC : Field := ⟨0x38, 0, 64, .ro, 0, true⟩

/-- Block SYNC (R295, 10_queues_counters_whistle.md). -/
def R.SYNC_VALUE : Field := ⟨0x0, 0, 32, .rw, 0, true⟩
def R.SYNC_VALUE_INC : Field := ⟨0x0, 32, 32, .wo, 0, true⟩
def R.SYNC_CFG_BASE : Field := ⟨0x8, 0, 32, .rw, 0, true⟩
def R.SYNC_CFG_OWNER : Field := ⟨0x8, 32, 4, .ro, 0, true⟩
def R.SYNC_CFG_ASSIGNED : Field := ⟨0x8, 36, 1, .ro, 0, true⟩

/-- Block SYNCD (R296, 10_queues_counters_whistle.md). -/
def R.SYNCD_STATUS_OVERFLOW : Field := ⟨0x0, 0, 1, .w1c, 0, false⟩
def R.SYNCD_STATUS_RANGE : Field := ⟨0x0, 1, 1, .w1c, 0, false⟩
def R.SYNCD_STATUS_REMOTE_DENIED : Field := ⟨0x0, 2, 1, .w1c, 0, false⟩
def R.SYNCD_CNT_0 : Field := ⟨0x8, 0, 16, .ro, 0, true⟩
def R.SYNCD_CNT_1 : Field := ⟨0x8, 16, 16, .ro, 0, true⟩
def R.SYNCD_CNT_2 : Field := ⟨0x8, 32, 16, .ro, 0, true⟩
def R.SYNCD_ERR_COUNTER : Field := ⟨0x10, 0, 14, .ro, 0, false⟩
def R.SYNCD_ERR_SOURCE : Field := ⟨0x10, 16, 12, .ro, 0, false⟩
def R.SYNCD_ERR_PART : Field := ⟨0x10, 28, 4, .ro, 0, false⟩
def R.SYNCD_UPDATES : Field := ⟨0x18, 0, 64, .ro, 0, true⟩
def R.SYNCD_REMOTE_IN : Field := ⟨0x20, 0, 64, .ro, 0, true⟩

/-- Block MEM (R319, 11_lpddr6_memory.md). -/
def R.MEM_CTRL_CAL_INTERVAL_MS : Field := ⟨0x0, 0, 16, .rwl, 100, true⟩
def R.MEM_CTRL_CAL_US : Field := ⟨0x0, 16, 5, .rwl, 20, true⟩
def R.MEM_CTRL_RB_SHARE : Field := ⟨0x0, 21, 7, .rw, 25, true⟩
def R.MEM_CTRL_FAIL_LIMIT : Field := ⟨0x0, 32, 8, .rwl, 64, true⟩
def R.MEM_STATE_RATE : Field := ⟨0x8, 0, 1, .ro, 0, true⟩
def R.MEM_STATE_REBUILDS : Field := ⟨0x8, 1, 3, .ro, 0, true⟩
def R.MEM_STATE_PRESENT : Field := ⟨0x8, 4, 8, .ro, 0, true⟩
def R.MEM_STATE_CALIBRATING : Field := ⟨0x8, 12, 8, .ro, 0, true⟩
def R.MEM_STATUS_RATE_CLAMPED : Field := ⟨0x10, 0, 1, .w1c, 0, true⟩
def R.MEM_STATUS_CE : Field := ⟨0x10, 1, 1, .w1c, 0, true⟩
def R.MEM_STATUS_SUBCH_FAIL : Field := ⟨0x10, 2, 1, .w1c, 0, true⟩
def R.MEM_STATUS_REBUILD_DONE : Field := ⟨0x10, 3, 1, .w1c, 0, true⟩
def R.MEM_STATUS_LOCAL_LOSS : Field := ⟨0x10, 4, 1, .w1c, 0, true⟩
def R.MEM_STATUS_DENIED : Field := ⟨0x10, 5, 1, .w1c, 0, true⟩
def R.MEM_STATUS_CAL_FAIL : Field := ⟨0x10, 6, 1, .w1c, 0, true⟩
def R.MEM_STATUS_CAL_HELD : Field := ⟨0x10, 7, 1, .w1c, 0, true⟩
def R.MEM_STATUS_REBUILD_RESTART : Field := ⟨0x10, 8, 1, .w1c, 0, true⟩
def R.MEM_STATUS_LOSS_TABLE_FULL : Field := ⟨0x10, 9, 1, .w1c, 0, true⟩
def R.MEM_CNT_0 : Field := ⟨0x18, 0, 16, .ro, 0, true⟩
def R.MEM_CNT_1 : Field := ⟨0x18, 16, 16, .ro, 0, true⟩
def R.MEM_CNT_2 : Field := ⟨0x18, 32, 16, .ro, 0, true⟩
def R.MEM_CNT_3 : Field := ⟨0x18, 48, 16, .ro, 0, true⟩
def R.MEM_CNT_4 : Field := ⟨0x20, 0, 16, .ro, 0, true⟩
def R.MEM_CNT_5 : Field := ⟨0x20, 16, 16, .ro, 0, true⟩
def R.MEM_CNT_6 : Field := ⟨0x20, 32, 16, .ro, 0, true⟩
def R.MEM_CNT_7 : Field := ⟨0x20, 48, 16, .ro, 0, true⟩
def R.MEM_CNT_8 : Field := ⟨0x28, 0, 16, .ro, 0, true⟩
def R.MEM_CNT_9 : Field := ⟨0x28, 16, 16, .ro, 0, true⟩
def R.MEM_ERR_GROUP : Field := ⟨0x30, 0, 5, .ro, 0, true⟩
def R.MEM_ERR_MEMBER : Field := ⟨0x30, 5, 3, .ro, 0, true⟩
def R.MEM_ERR_STRIPE : Field := ⟨0x30, 8, 28, .ro, 0, true⟩
def R.MEM_ERR_KIND : Field := ⟨0x30, 36, 4, .ro, 0, true⟩
def R.MEM_READ_BYTES : Field := ⟨0x40, 0, 64, .ro, 0, true⟩
def R.MEM_WRITE_BYTES : Field := ⟨0x48, 0, 64, .ro, 0, true⟩
def R.MEM_RECON_BURSTS : Field := ⟨0x50, 0, 64, .ro, 0, true⟩
def R.MEM_RMW_READS : Field := ⟨0x58, 0, 64, .ro, 0, true⟩
def R.MEM_PROMOTED : Field := ⟨0x60, 0, 64, .ro, 0, true⟩
def R.MEM_LOG_BURSTS : Field := ⟨0x68, 0, 64, .ro, 0, true⟩

/-- Block PMAP (R320, 11_lpddr6_memory.md). -/
def R.PMAP_PART_MAP_GROUPS : Field := ⟨0x0, 0, 32, .ro, 0, true⟩
def R.PMAP_PART_MAP_BASE_SLICE : Field := ⟨0x0, 32, 5, .ro, 0, true⟩
def R.PMAP_PART_MAP_VALID : Field := ⟨0x0, 37, 1, .ro, 0, true⟩

/-- Block LOSS (R320, 11_lpddr6_memory.md). -/
def R.LOSS_FIRST : Field := ⟨0x0, 0, 28, .ro, 0, true⟩
def R.LOSS_LAST : Field := ⟨0x0, 28, 28, .ro, 0, true⟩
def R.LOSS_GROUP : Field := ⟨0x0, 56, 5, .ro, 0, true⟩
def R.LOSS_VALID : Field := ⟨0x0, 61, 1, .ro, 0, true⟩

/-- Block GRP (R321, 11_lpddr6_memory.md). -/
def R.GRP_STATE : Field := ⟨0x0, 0, 3, .ro, 0, true⟩
def R.GRP_STATE_PARITY : Field := ⟨0x0, 3, 3, .ro, 7, true⟩
def R.GRP_STATE_FAILED : Field := ⟨0x0, 6, 3, .ro, 0, true⟩
def R.GRP_STATE_CAL_MEMBER : Field := ⟨0x0, 9, 3, .ro, 0, true⟩
def R.GRP_STATE_CAL_ACTIVE : Field := ⟨0x0, 12, 1, .ro, 0, true⟩
def R.GRP_STATE_TAKEOVER : Field := ⟨0x0, 13, 1, .ro, 0, true⟩
def R.GRP_STATE_QUEUED : Field := ⟨0x0, 14, 1, .ro, 0, true⟩
def R.GRP_STATE_RB_PTR : Field := ⟨0x0, 32, 28, .ro, 0, true⟩
def R.GRP_LOG_LOG_ENTRIES : Field := ⟨0x8, 0, 15, .ro, 0, true⟩
def R.GRP_LOG_LOG_HIGH : Field := ⟨0x8, 16, 15, .ro, 0, true⟩
def R.GRP_CE0_CE_0 : Field := ⟨0x10, 0, 16, .ro, 0, true⟩
def R.GRP_CE0_CE_1 : Field := ⟨0x10, 16, 16, .ro, 0, true⟩
def R.GRP_CE0_CE_2 : Field := ⟨0x10, 32, 16, .ro, 0, true⟩
def R.GRP_CE0_CE_3 : Field := ⟨0x10, 48, 16, .ro, 0, true⟩
def R.GRP_CE1_CE_4 : Field := ⟨0x18, 0, 16, .ro, 0, true⟩
def R.GRP_CE1_CE_5 : Field := ⟨0x18, 16, 16, .ro, 0, true⟩
def R.GRP_CE1_CE_6 : Field := ⟨0x18, 32, 16, .ro, 0, true⟩
def R.GRP_CE1_CE_7 : Field := ⟨0x18, 48, 16, .ro, 0, true⟩
def R.GRP_CAL_SESSIONS : Field := ⟨0x20, 0, 32, .ro, 0, true⟩
def R.GRP_CAL_LAST_NS : Field := ⟨0x20, 32, 16, .ro, 0, true⟩
def R.GRP_CMD_MEMBER : Field := ⟨0x28, 0, 3, .wo, 0, true⟩
def R.GRP_CMD_FAIL : Field := ⟨0x28, 3, 1, .wo, 0, true⟩
def R.GRP_CMD_CAL_NOW : Field := ⟨0x28, 4, 1, .wo, 0, true⟩

/-- Block JLK (R351, 12_jalfo_links_and_host_bridge.md). -/
def R.JLK_CTRL_DEVICE_ID : Field := ⟨0x0, 0, 12, .rwl, 0, true⟩
def R.JLK_CTRL_ID_VALID : Field := ⟨0x0, 12, 1, .rwl, 0, true⟩
def R.JLK_CTRL_RESP_MS : Field := ⟨0x0, 16, 8, .rw, 2, true⟩
def R.JLK_CTRL_RETRAIN_MAX : Field := ⟨0x0, 24, 4, .rw, 8, true⟩
def R.JLK_CTRL_LANE_ERR_LIMIT : Field := ⟨0x0, 32, 16, .rwl, 64, true⟩
def R.JLK_STATUS_WIN_DENIED : Field := ⟨0x8, 0, 1, .w1c, 0, true⟩
def R.JLK_STATUS_NO_ROUTE : Field := ⟨0x8, 1, 1, .w1c, 0, true⟩
def R.JLK_STATUS_HOP_LIMIT : Field := ⟨0x8, 2, 1, .w1c, 0, true⟩
def R.JLK_STATUS_MIRROR_FAIL : Field := ⟨0x8, 3, 1, .w1c, 0, true⟩
def R.JLK_STATUS_WIN_WRITE_DENIED : Field := ⟨0x8, 4, 1, .w1c, 0, true⟩
def R.JLK_STATUS_SYNC_DUP : Field := ⟨0x8, 5, 1, .w1c, 0, true⟩
def R.JLK_STATUS_RESP_TIMEOUT : Field := ⟨0x8, 6, 1, .w1c, 0, true⟩
def R.JLK_STATUS_BAD_MSG : Field := ⟨0x8, 7, 1, .w1c, 0, true⟩
def R.JLK_CNT_0 : Field := ⟨0x10, 0, 16, .ro, 0, true⟩
def R.JLK_CNT_1 : Field := ⟨0x10, 16, 16, .ro, 0, true⟩
def R.JLK_CNT_2 : Field := ⟨0x10, 32, 16, .ro, 0, true⟩
def R.JLK_CNT_3 : Field := ⟨0x10, 48, 16, .ro, 0, true⟩
def R.JLK_CNT_4 : Field := ⟨0x18, 0, 16, .ro, 0, true⟩
def R.JLK_CNT_5 : Field := ⟨0x18, 16, 16, .ro, 0, true⟩
def R.JLK_CNT_6 : Field := ⟨0x18, 32, 16, .ro, 0, true⟩
def R.JLK_CNT_7 : Field := ⟨0x18, 48, 16, .ro, 0, true⟩
def R.JLK_WIN_ERR_SOURCE : Field := ⟨0x20, 0, 12, .ro, 0, true⟩
def R.JLK_WIN_ERR_PART : Field := ⟨0x20, 12, 4, .ro, 0, true⟩
def R.JLK_WIN_ERR_REASON : Field := ⟨0x20, 16, 4, .ro, 0, true⟩
def R.JLK_WIN_ERR_ADDR_ADDR : Field := ⟨0x28, 0, 48, .ro, 0, true⟩
def R.JLK_MIRROR_BYTES : Field := ⟨0x30, 0, 64, .ro, 0, true⟩
def R.JLK_MIRROR_MISS : Field := ⟨0x38, 0, 64, .ro, 0, true⟩
def R.JLK_WIN_ADMITS : Field := ⟨0x40, 0, 64, .ro, 0, true⟩
def R.JLK_TRANSIT_FLITS : Field := ⟨0x48, 0, 64, .ro, 0, true⟩
def R.JLK_PORT_UP : Field := ⟨0x50, 0, 24, .ro, 0, false⟩

/-- Block PORT (R352, 12_jalfo_links_and_host_bridge.md). -/
def R.PORT_CTRL_ENABLE : Field := ⟨0x0, 0, 1, .rw, 0, true⟩
def R.PORT_CTRL_RETRAIN : Field := ⟨0x0, 1, 1, .wo, 0, true⟩
def R.PORT_CTRL_FORCE_DOWN : Field := ⟨0x0, 2, 1, .rw, 0, true⟩
def R.PORT_CTRL_EXPECT_PEER : Field := ⟨0x0, 16, 12, .rwl, 0, true⟩
def R.PORT_CTRL_EXPECT_PORT : Field := ⟨0x0, 28, 5, .rwl, 0, true⟩
def R.PORT_CTRL_EXPECT_VALID : Field := ⟨0x0, 33, 1, .rwl, 0, true⟩
def R.PORT_STATE : Field := ⟨0x8, 0, 3, .ro, 0, true⟩
def R.PORT_STATE_STEP : Field := ⟨0x8, 3, 3, .ro, 0, true⟩
def R.PORT_STATE_LANES : Field := ⟨0x8, 6, 8, .ro, 0, true⟩
def R.PORT_STATE_PEER_ID : Field := ⟨0x8, 14, 12, .ro, 0, true⟩
def R.PORT_STATE_PEER_PORT : Field := ⟨0x8, 26, 5, .ro, 0, true⟩
def R.PORT_STATE_ATTEMPTS : Field := ⟨0x8, 31, 4, .ro, 0, true⟩
def R.PORT_STATUS_REPLAY : Field := ⟨0x10, 0, 1, .w1c, 0, true⟩
def R.PORT_STATUS_NAK_RX : Field := ⟨0x10, 1, 1, .w1c, 0, true⟩
def R.PORT_STATUS_LANE_DROP : Field := ⟨0x10, 2, 1, .w1c, 0, true⟩
def R.PORT_STATUS_PORT_DOWN : Field := ⟨0x10, 3, 1, .w1c, 0, true⟩
def R.PORT_STATUS_TRAIN_FAIL : Field := ⟨0x10, 4, 1, .w1c, 0, true⟩
def R.PORT_STATUS_ID_CONFLICT : Field := ⟨0x10, 5, 1, .w1c, 0, true⟩
def R.PORT_STATUS_PEER_MISMATCH : Field := ⟨0x10, 6, 1, .w1c, 0, true⟩
def R.PORT_STATUS_CREDIT_ERR : Field := ⟨0x10, 7, 1, .w1c, 0, true⟩
def R.PORT_CNT_0 : Field := ⟨0x18, 0, 16, .ro, 0, true⟩
def R.PORT_CNT_1 : Field := ⟨0x18, 16, 16, .ro, 0, true⟩
def R.PORT_CNT_2 : Field := ⟨0x18, 32, 16, .ro, 0, true⟩
def R.PORT_CNT_3 : Field := ⟨0x18, 48, 16, .ro, 0, true⟩
def R.PORT_CNT_4 : Field := ⟨0x20, 0, 16, .ro, 0, true⟩
def R.PORT_CNT_5 : Field := ⟨0x20, 16, 16, .ro, 0, true⟩
def R.PORT_CNT_6 : Field := ⟨0x20, 32, 16, .ro, 0, true⟩
def R.PORT_CNT_7 : Field := ⟨0x20, 48, 16, .ro, 0, true⟩
def R.PORT_TX_FLITS : Field := ⟨0x28, 0, 64, .ro, 0, true⟩
def R.PORT_RX_FLITS : Field := ⟨0x30, 0, 64, .ro, 0, true⟩
def R.PORT_REPLAY_FLITS : Field := ⟨0x38, 0, 64, .ro, 0, true⟩
def R.PORT_FEC_CORR : Field := ⟨0x40, 0, 64, .ro, 0, true⟩
def R.PORT_FEC_UNCORR : Field := ⟨0x48, 0, 64, .ro, 0, true⟩
def R.PORT_CRC_ERR : Field := ⟨0x50, 0, 64, .ro, 0, true⟩
def R.PORT_LANE_ERR_LANE_ERR_0 : Field := ⟨0x58, 0, 8, .ro, 0, false⟩
def R.PORT_LANE_ERR_LANE_ERR_1 : Field := ⟨0x58, 8, 8, .ro, 0, false⟩
def R.PORT_LANE_ERR_LANE_ERR_2 : Field := ⟨0x58, 16, 8, .ro, 0, false⟩
def R.PORT_LANE_ERR_LANE_ERR_3 : Field := ⟨0x58, 24, 8, .ro, 0, false⟩
def R.PORT_LANE_ERR_LANE_ERR_4 : Field := ⟨0x58, 32, 8, .ro, 0, false⟩
def R.PORT_LANE_ERR_LANE_ERR_5 : Field := ⟨0x58, 40, 8, .ro, 0, false⟩
def R.PORT_LANE_ERR_LANE_ERR_6 : Field := ⟨0x58, 48, 8, .ro, 0, false⟩
def R.PORT_LANE_ERR_LANE_ERR_7 : Field := ⟨0x58, 56, 8, .ro, 0, false⟩
def R.PORT_DOWN_US : Field := ⟨0x60, 0, 32, .ro, 0, true⟩

/-- Block ROUTE (R353, 12_jalfo_links_and_host_bridge.md). -/
def R.ROUTE_PORT_0 : Field := ⟨0x0, 0, 5, .rw, 0, true⟩
def R.ROUTE_PORT_1 : Field := ⟨0x0, 8, 5, .rw, 0, true⟩
def R.ROUTE_PORT_2 : Field := ⟨0x0, 16, 5, .rw, 0, true⟩
def R.ROUTE_PORT_3 : Field := ⟨0x0, 24, 5, .rw, 0, true⟩
def R.ROUTE_VALID_0 : Field := ⟨0x0, 5, 1, .rw, 0, true⟩
def R.ROUTE_VALID_1 : Field := ⟨0x0, 13, 1, .rw, 0, true⟩
def R.ROUTE_VALID_2 : Field := ⟨0x0, 21, 1, .rw, 0, true⟩
def R.ROUTE_VALID_3 : Field := ⟨0x0, 29, 1, .rw, 0, true⟩

/-- Block WIN (R353, 12_jalfo_links_and_host_bridge.md). -/
def R.WIN_ADDR_BASE : Field := ⟨0x0, 12, 36, .rw, 0, true⟩
def R.WIN_CFG_SIZE : Field := ⟨0x8, 0, 36, .rw, 0, true⟩
def R.WIN_CFG_READ : Field := ⟨0x8, 36, 1, .rw, 0, true⟩
def R.WIN_CFG_WRITE : Field := ⟨0x8, 37, 1, .rw, 0, true⟩
def R.WIN_CFG_SYNC : Field := ⟨0x8, 38, 1, .rw, 0, true⟩
def R.WIN_CFG_HOST : Field := ⟨0x8, 39, 1, .rw, 0, true⟩
def R.WIN_CFG_MATCH_PART : Field := ⟨0x8, 40, 1, .rw, 0, true⟩
def R.WIN_CFG_PART : Field := ⟨0x8, 41, 4, .rw, 0, true⟩
def R.WIN_CFG_SRC_GROUP : Field := ⟨0x8, 45, 6, .rw, 0, true⟩
def R.WIN_CFG_ALL_GROUPS : Field := ⟨0x8, 51, 1, .rw, 0, true⟩
def R.WIN_SRC_MEMBERS : Field := ⟨0x10, 0, 64, .rw, 0, true⟩
def R.WIN_HITS : Field := ⟨0x18, 0, 64, .ro, 0, true⟩

/-- Block MIR (R353, 12_jalfo_links_and_host_bridge.md). -/
def R.MIR_SRC_DEVICE : Field := ⟨0x0, 0, 12, .rw, 0, true⟩
def R.MIR_SRC_VALID : Field := ⟨0x0, 12, 1, .rw, 0, true⟩
def R.MIR_LO : Field := ⟨0x8, 0, 48, .rw, 0, true⟩
def R.MIR_HI : Field := ⟨0x10, 0, 48, .rw, 0, true⟩
def R.MIR_CAB : Field := ⟨0x18, 0, 48, .rw, 0, true⟩

/-- Block HBR (R354, 12_jalfo_links_and_host_bridge.md). -/
def R.HBR_CTRL_ENABLE : Field := ⟨0x0, 0, 1, .ro, 0, true⟩
def R.HBR_CTRL_VF_READY : Field := ⟨0x0, 1, 1, .ro, 0, false⟩
def R.HBR_STATE_LTSSM : Field := ⟨0x8, 0, 6, .ro, 0, true⟩
def R.HBR_STATE_WIDTH : Field := ⟨0x8, 6, 5, .ro, 0, true⟩
def R.HBR_STATE_SPEED : Field := ⟨0x8, 11, 3, .ro, 0, true⟩
def R.HBR_STATE_DL_ACTIVE : Field := ⟨0x8, 14, 1, .ro, 0, true⟩
def R.HBR_STATE_RRS : Field := ⟨0x8, 15, 1, .ro, 1, true⟩
def R.HBR_STATE_NUM_VFS : Field := ⟨0x8, 16, 5, .ro, 0, true⟩
def R.HBR_STATUS_ROLE_MISMATCH : Field := ⟨0x10, 0, 1, .w1c, 0, true⟩
def R.HBR_STATUS_UR_SENT : Field := ⟨0x10, 1, 1, .w1c, 0, true⟩
def R.HBR_STATUS_CA_SENT : Field := ⟨0x10, 2, 1, .w1c, 0, true⟩
def R.HBR_STATUS_POSTED_ERR : Field := ⟨0x10, 3, 1, .w1c, 0, true⟩
def R.HBR_STATUS_FLR_PF : Field := ⟨0x10, 4, 1, .w1c, 0, true⟩
def R.HBR_STATUS_FLR_VF : Field := ⟨0x10, 5, 1, .w1c, 0, true⟩
def R.HBR_STATUS_LINK_DOWN : Field := ⟨0x10, 6, 1, .w1c, 0, true⟩
def R.HBR_STATUS_RRS_TIMEOUT : Field := ⟨0x10, 7, 1, .w1c, 0, true⟩
def R.HBR_CNT_0 : Field := ⟨0x18, 0, 16, .ro, 0, true⟩
def R.HBR_CNT_1 : Field := ⟨0x18, 16, 16, .ro, 0, true⟩
def R.HBR_CNT_2 : Field := ⟨0x18, 32, 16, .ro, 0, true⟩
def R.HBR_CNT_3 : Field := ⟨0x18, 48, 16, .ro, 0, true⟩
def R.HBR_CNT_4 : Field := ⟨0x20, 0, 16, .ro, 0, true⟩
def R.HBR_CNT_5 : Field := ⟨0x20, 16, 16, .ro, 0, true⟩
def R.HBR_CNT_6 : Field := ⟨0x20, 32, 16, .ro, 0, true⟩
def R.HBR_CNT_7 : Field := ⟨0x20, 48, 16, .ro, 0, true⟩
def R.HBR_ERR_CODE : Field := ⟨0x28, 0, 16, .ro, 0, true⟩
def R.HBR_ERR_FUNCTION : Field := ⟨0x28, 16, 5, .ro, 0, true⟩
def R.HBR_ERR_WRITE : Field := ⟨0x28, 21, 1, .ro, 0, true⟩
def R.HBR_ERR_ADDR_OFFSET : Field := ⟨0x30, 0, 36, .ro, 0, true⟩
def R.HBR_RX_TLP_BYTES : Field := ⟨0x38, 0, 64, .ro, 0, true⟩
def R.HBR_TX_TLP_BYTES : Field := ⟨0x40, 0, 64, .ro, 0, true⟩
def R.HBR_ID_VENDOR : Field := ⟨0x48, 0, 16, .ro, 0, true⟩
def R.HBR_ID_DEVICE : Field := ⟨0x48, 16, 16, .ro, 2304, true⟩

/-- Block APT (R354, 12_jalfo_links_and_host_bridge.md). -/
def R.APT_DEVICE : Field := ⟨0x0, 0, 12, .rw, 0, false⟩
def R.APT_VALID : Field := ⟨0x0, 12, 1, .rw, 0, false⟩
def R.APT_READ : Field := ⟨0x0, 13, 1, .rw, 0, false⟩
def R.APT_WRITE : Field := ⟨0x0, 14, 1, .rw, 0, false⟩
def R.APT_LOCAL : Field := ⟨0x0, 30, 18, .rw, 0, false⟩

/-- Block LAYOUT (R384, 13_partitions_and_serving.md). -/
def R.LAYOUT_CURRENT : Field := ⟨0x0, 0, 3, .ro, 0, true⟩
def R.LAYOUT_COUNT : Field := ⟨0x0, 3, 4, .ro, 0, true⟩
def R.LAYOUT_VALID : Field := ⟨0x0, 7, 8, .ro, 0, true⟩
def R.LAYOUT_SWITCHING : Field := ⟨0x0, 15, 1, .ro, 0, false⟩
def R.LAYOUT_SWITCHES : Field := ⟨0x8, 0, 64, .ro, 0, true⟩

/-- Block PART (R385, 13_partitions_and_serving.md). -/
def R.PART_CTRL_RESET : Field := ⟨0x0, 0, 1, .wo, 0, true⟩
def R.PART_STATE : Field := ⟨0x8, 0, 3, .ro, 0, true⟩
def R.PART_STATE_MEMBER : Field := ⟨0x8, 3, 2, .ro, 0, true⟩
def R.PART_STATE_SET_SIZE : Field := ⟨0x8, 5, 2, .ro, 0, true⟩
def R.PART_STATE_IN_SLICE : Field := ⟨0x8, 7, 1, .ro, 0, false⟩
def R.PART_CLUSTERS : Field := ⟨0x10, 0, 32, .ro, 0, true⟩
def R.PART_SYNC_RANGE_BASE : Field := ⟨0x18, 0, 14, .ro, 0, true⟩
def R.PART_SYNC_RANGE_SIZE : Field := ⟨0x18, 14, 15, .ro, 0, true⟩
def R.PART_SEQ_CTX_BASE : Field := ⟨0x20, 0, 18, .ro, 0, true⟩
def R.PART_SEQ_CTX_COUNT : Field := ⟨0x20, 18, 19, .ro, 0, true⟩
def R.PART_SHARE_SP_BASE_KIB : Field := ⟨0x28, 0, 12, .ro, 0, true⟩
def R.PART_SHARE_SP_KIB : Field := ⟨0x28, 12, 12, .ro, 0, true⟩
def R.PART_SHARE_CM_BASE_KIB : Field := ⟨0x28, 24, 15, .ro, 0, true⟩
def R.PART_SHARE_CM_KIB : Field := ⟨0x28, 39, 15, .ro, 0, true⟩
def R.PART_SLICE_ACC_BASE : Field := ⟨0x30, 0, 5, .ro, 0, true⟩
def R.PART_SLICE_ACC_COUNT : Field := ⟨0x30, 5, 6, .ro, 0, true⟩
def R.PART_SLICE_SLICE_US : Field := ⟨0x30, 16, 16, .ro, 0, true⟩
def R.PART_SLICE_DEBT_US : Field := ⟨0x30, 32, 32, .ro, 0, false⟩
def R.PART_POOL_POOL_BASE : Field := ⟨0x38, 0, 48, .ro, 0, true⟩
def R.PART_POOL_PAGE_64K : Field := ⟨0x38, 48, 16, .ro, 0, true⟩
def R.PART_POOL2_POOL_PAGES : Field := ⟨0x40, 0, 21, .ro, 0, true⟩
def R.PART_POOL2_PAGE_TOKENS : Field := ⟨0x40, 21, 9, .ro, 0, true⟩
def R.PART_POOL2_MAX_PAGES : Field := ⟨0x40, 30, 16, .ro, 0, true⟩
def R.PART_PT_PT_BASE : Field := ⟨0x48, 0, 48, .ro, 0, true⟩
def R.PART_POOL_STATE_FREE : Field := ⟨0x50, 0, 21, .ro, 0, true⟩
def R.PART_POOL_STATE_OPEN : Field := ⟨0x50, 21, 19, .ro, 0, true⟩
def R.PART_STATUS_SLICE_OVERRUN : Field := ⟨0x58, 0, 1, .w1c, 0, false⟩
def R.PART_STATUS_DENIED : Field := ⟨0x58, 1, 1, .w1c, 0, false⟩
def R.PART_STATUS_SEQ_FULL : Field := ⟨0x58, 2, 1, .w1c, 0, false⟩
def R.PART_STATUS_PAGE_WAIT : Field := ⟨0x58, 3, 1, .w1c, 0, false⟩
def R.PART_STATUS_SEQ_LIMIT : Field := ⟨0x58, 4, 1, .w1c, 0, false⟩
def R.PART_STATUS_RESET_DONE : Field := ⟨0x58, 5, 1, .w1c, 0, false⟩
def R.PART_STATUS_RESET_IGNORED : Field := ⟨0x58, 6, 1, .w1c, 0, false⟩
def R.PART_CNT_0 : Field := ⟨0x60, 0, 16, .ro, 0, true⟩
def R.PART_CNT_1 : Field := ⟨0x60, 16, 16, .ro, 0, true⟩
def R.PART_CNT_2 : Field := ⟨0x60, 32, 16, .ro, 0, true⟩
def R.PART_CNT_3 : Field := ⟨0x60, 48, 16, .ro, 0, true⟩
def R.PART_CNT_4 : Field := ⟨0x68, 0, 16, .ro, 0, true⟩
def R.PART_CNT_5 : Field := ⟨0x68, 16, 16, .ro, 0, true⟩
def R.PART_CNT_6 : Field := ⟨0x68, 32, 16, .ro, 0, true⟩
def R.PART_SLICES : Field := ⟨0x70, 0, 64, .ro, 0, true⟩
def R.PART_RUN_US : Field := ⟨0x78, 0, 64, .ro, 0, true⟩
def R.PART_OVERRUN_US : Field := ⟨0x80, 0, 64, .ro, 0, true⟩
def R.PART_SKIPPED : Field := ⟨0x88, 0, 64, .ro, 0, true⟩
def R.PART_BATCHES : Field := ⟨0x90, 0, 64, .ro, 0, true⟩
def R.PART_BATCH_TOKENS : Field := ⟨0x98, 0, 64, .ro, 0, true⟩

/-- Block RES (R415, 14_partner_copies_and_recovery.md). -/
def R.RES_CTRL_PROT_PART : Field := ⟨0x0, 0, 4, .rwl, 0, true⟩
def R.RES_CTRL_ENABLE : Field := ⟨0x0, 4, 1, .rwl, 0, true⟩
def R.RES_CTRL_SEAL_SYNC : Field := ⟨0x0, 16, 16, .rw, 65535, true⟩
def R.RES_STATE_LEVEL : Field := ⟨0x8, 0, 2, .ro, 0, true⟩
def R.RES_STATE_GROUP_LEVEL : Field := ⟨0x8, 2, 2, .ro, 0, true⟩
def R.RES_STATE_ROLE : Field := ⟨0x8, 4, 3, .ro, 0, true⟩
def R.RES_STATE_FEED : Field := ⟨0x8, 7, 4, .ro, 0, true⟩
def R.RES_STATE_FEED_KNOWN : Field := ⟨0x8, 11, 1, .ro, 0, true⟩
def R.RES_STATE_ALIAS : Field := ⟨0x8, 12, 12, .ro, 0, true⟩
def R.RES_STATE_ALIAS_VALID : Field := ⟨0x8, 24, 1, .ro, 0, true⟩
def R.RES_SEAL_SEALED_STEP : Field := ⟨0x10, 0, 32, .ro, 0, true⟩
def R.RES_SEAL_GROUP_SEALED : Field := ⟨0x10, 32, 32, .ro, 0, true⟩
def R.RES_PARTNER_DEVICE : Field := ⟨0x18, 0, 12, .ro, 0, true⟩
def R.RES_PARTNER_CONFIGURED : Field := ⟨0x18, 12, 1, .ro, 0, true⟩
def R.RES_PARTNER_ACCEPTED : Field := ⟨0x18, 13, 1, .ro, 0, true⟩
def R.RES_PARTNER_COFED : Field := ⟨0x18, 14, 1, .ro, 0, true⟩
def R.RES_PARTNER_UP : Field := ⟨0x18, 15, 1, .ro, 0, true⟩
def R.RES_PARTNER_FEED : Field := ⟨0x18, 16, 4, .ro, 0, true⟩
def R.RES_PARTNER_REFUSED : Field := ⟨0x18, 20, 3, .ro, 0, true⟩
def R.RES_PARTNER_SEALED : Field := ⟨0x18, 32, 32, .ro, 0, true⟩
def R.RES_STATUS_PARTNER_LOST : Field := ⟨0x28, 0, 1, .w1c, 0, true⟩
def R.RES_STATUS_MEMBER_LOST : Field := ⟨0x28, 1, 1, .w1c, 0, true⟩
def R.RES_STATUS_LOCAL_LOSS : Field := ⟨0x28, 2, 1, .w1c, 0, true⟩
def R.RES_STATUS_SELF_FENCED : Field := ⟨0x28, 3, 1, .w1c, 0, true⟩
def R.RES_STATUS_SB_HELD : Field := ⟨0x28, 4, 1, .w1c, 0, true⟩
def R.RES_STATUS_PAIR_REFUSED : Field := ⟨0x28, 5, 1, .w1c, 0, true⟩
def R.RES_STATUS_CATCHUP : Field := ⟨0x28, 6, 1, .w1c, 0, true⟩
def R.RES_STATUS_STATE_LOST : Field := ⟨0x28, 7, 1, .w1c, 0, true⟩
def R.RES_STATUS_RESTORED : Field := ⟨0x28, 8, 1, .w1c, 0, true⟩
def R.RES_STATUS_CAB_LOST : Field := ⟨0x28, 9, 1, .w1c, 0, true⟩
def R.RES_CNT_0 : Field := ⟨0x30, 0, 16, .ro, 0, true⟩
def R.RES_CNT_1 : Field := ⟨0x30, 16, 16, .ro, 0, true⟩
def R.RES_CNT_2 : Field := ⟨0x30, 32, 16, .ro, 0, true⟩
def R.RES_CNT_3 : Field := ⟨0x30, 48, 16, .ro, 0, true⟩
def R.RES_CNT_4 : Field := ⟨0x38, 0, 16, .ro, 0, true⟩
def R.RES_CNT_5 : Field := ⟨0x38, 16, 16, .ro, 0, true⟩
def R.RES_CNT_6 : Field := ⟨0x38, 32, 16, .ro, 0, true⟩
def R.RES_CNT_7 : Field := ⟨0x38, 48, 16, .ro, 0, true⟩
def R.RES_CNT_8 : Field := ⟨0x40, 0, 16, .ro, 0, true⟩
def R.RES_CNT_9 : Field := ⟨0x40, 16, 16, .ro, 0, true⟩
def R.RES_LOST_DEVICE : Field := ⟨0x48, 0, 12, .ro, 0, true⟩
def R.RES_LOST_VALID : Field := ⟨0x48, 12, 1, .ro, 0, true⟩
def R.RES_LOST_STEP : Field := ⟨0x48, 32, 32, .ro, 0, true⟩
def R.RES_DRAIN_BYTES : Field := ⟨0x50, 0, 64, .ro, 0, true⟩
def R.RES_CATCHUP_BYTES : Field := ⟨0x58, 0, 64, .ro, 0, true⟩
def R.RES_LOAD_BYTES : Field := ⟨0x60, 0, 64, .ro, 0, true⟩
def R.RES_HB_MISSED : Field := ⟨0x68, 0, 64, .ro, 0, true⟩
def R.RES_RESTORES : Field := ⟨0x70, 0, 64, .ro, 0, true⟩
def R.RES_LAST_US : Field := ⟨0x78, 0, 32, .ro, 0, true⟩

/-- Block PAIR (R416, 14_partner_copies_and_recovery.md). -/
def R.PAIR_BASE : Field := ⟨0x0, 12, 36, .ro, 0, true⟩
def R.PAIR_CFG_SIZE : Field := ⟨0x8, 0, 36, .ro, 0, true⟩
def R.PAIR_CFG_METHOD : Field := ⟨0x8, 36, 1, .ro, 0, true⟩
def R.PAIR_CFG_LIVE : Field := ⟨0x8, 37, 1, .ro, 0, true⟩
def R.PAIR_CFG_WRITTEN : Field := ⟨0x8, 38, 1, .ro, 0, false⟩
def R.PAIR_CFG_VALID : Field := ⟨0x8, 39, 1, .ro, 0, true⟩
def R.PAIR_CFG_PART : Field := ⟨0x8, 40, 4, .ro, 0, true⟩
def R.PAIR_STEPS_STEP0 : Field := ⟨0x10, 0, 32, .ro, 0, true⟩
def R.PAIR_STEPS_STEP1 : Field := ⟨0x10, 32, 32, .ro, 0, true⟩

/-- Block HOST (R416, 14_partner_copies_and_recovery.md). -/
def R.HOST_SRC_SOURCE : Field := ⟨0x0, 0, 12, .ro, 0, true⟩
def R.HOST_SRC_VALID : Field := ⟨0x0, 12, 1, .ro, 0, true⟩
def R.HOST_SRC_ACCEPTED : Field := ⟨0x0, 13, 1, .ro, 0, true⟩
def R.HOST_SRC_SLOT : Field := ⟨0x0, 14, 1, .ro, 0, true⟩
def R.HOST_SRC_FILLING : Field := ⟨0x0, 15, 1, .ro, 0, true⟩
def R.HOST_BASE_CAB_BASE : Field := ⟨0x8, 0, 48, .ro, 0, true⟩
def R.HOST_SIZE_CAB_SIZE : Field := ⟨0x10, 0, 48, .ro, 0, true⟩
def R.HOST_SEALED_SEALED0 : Field := ⟨0x18, 0, 32, .ro, 4294967295, true⟩
def R.HOST_SEALED_SEALED1 : Field := ⟨0x18, 32, 32, .ro, 4294967295, true⟩
def R.HOST_MISSING : Field := ⟨0x20, 0, 32, .ro, 0, true⟩
def R.HOST_STEPS_WSTATE_STEP : Field := ⟨0x28, 0, 32, .ro, 0, true⟩
def R.HOST_STEPS_DRAIN_STEP : Field := ⟨0x28, 32, 32, .ro, 0, true⟩

/-- Block BOOT (R436, 15_bring_up_and_configuration.md). -/
def R.BOOT_STATE_STAGE : Field := ⟨0x0, 0, 4, .ro, 0, true⟩
def R.BOOT_STATE_CODE : Field := ⟨0x0, 8, 8, .ro, 0, true⟩
def R.BOOT_ID0_LOT : Field := ⟨0x8, 0, 32, .ro, 0, true⟩
def R.BOOT_ID0_WAFER : Field := ⟨0x8, 32, 5, .ro, 0, true⟩
def R.BOOT_ID0_DIE_X : Field := ⟨0x8, 40, 8, .ro, 0, true⟩
def R.BOOT_ID0_DIE_Y : Field := ⟨0x8, 48, 8, .ro, 0, true⟩
def R.BOOT_ID1_TEST_REV : Field := ⟨0x10, 0, 16, .ro, 0, true⟩
def R.BOOT_ID1_DATE_CODE : Field := ⟨0x10, 16, 16, .ro, 0, true⟩
def R.BOOT_BENCH_LANE_LANES : Field := ⟨0x18, 0, 48, .ro, 0, true⟩
def R.BOOT_BENCH_LANE_PORTS : Field := ⟨0x18, 48, 6, .ro, 0, true⟩
def R.BOOT_BENCH_SUB_SUBCH : Field := ⟨0x20, 0, 64, .ro, 0, true⟩
def R.BOOT_BENCH_CL_FUSED : Field := ⟨0x40, 0, 17, .ro, 0, true⟩
def R.BOOT_BENCH_CL_BENCHED : Field := ⟨0x40, 17, 17, .ro, 0, true⟩
def R.BOOT_BENCH_CL_ABSENT : Field := ⟨0x40, 34, 1, .ro, 0, true⟩
def R.BOOT_SERIAL : Field := ⟨0x80, 0, 64, .ro, 0, true⟩
def R.BOOT_CTRL_COMPUTE_RESET : Field := ⟨0x88, 0, 1, .wo, 0, true⟩
def R.BOOT_STATUS_TEST_FAIL : Field := ⟨0x90, 0, 1, .w1c, 0, true⟩
def R.BOOT_STATUS_FUSED_PASS : Field := ⟨0x90, 1, 1, .w1c, 0, true⟩
def R.BOOT_STATUS_LOG_APPLIED : Field := ⟨0x90, 2, 1, .w1c, 0, true⟩
def R.BOOT_STATUS_COMPUTE_RESET : Field := ⟨0x90, 3, 1, .w1c, 0, true⟩
def R.BOOT_CNT_0 : Field := ⟨0x98, 0, 16, .ro, 0, true⟩
def R.BOOT_CNT_1 : Field := ⟨0x98, 16, 16, .ro, 0, true⟩
def R.BOOT_CNT_2 : Field := ⟨0x98, 32, 16, .ro, 0, true⟩
def R.BOOT_CNT_3 : Field := ⟨0x98, 48, 16, .ro, 0, true⟩
def R.BOOT_TIME_END_US : Field := ⟨0xa0, 0, 32, .ro, 0, true⟩

/-- Block CFG (R437, 15_bring_up_and_configuration.md). -/
def R.CFG_STATE_COPY : Field := ⟨0x0, 0, 2, .ro, 0, true⟩
def R.CFG_STATE_LOCKED : Field := ⟨0x0, 2, 1, .ro, 0, true⟩
def R.CFG_STATE_SEED_SRC : Field := ⟨0x0, 3, 2, .ro, 0, true⟩
def R.CFG_STATE_SVN : Field := ⟨0x0, 32, 32, .ro, 0, true⟩
def R.CFG_STATUS_LOCKED_WRITE : Field := ⟨0x8, 0, 1, .w1c, 0, true⟩
def R.CFG_STATUS_PARTNER_COFED : Field := ⟨0x8, 1, 1, .w1c, 0, true⟩
def R.CFG_STATUS_FEED_MISMATCH : Field := ⟨0x8, 2, 1, .w1c, 0, true⟩
def R.CFG_STATUS_COPY_FAILED : Field := ⟨0x8, 3, 1, .w1c, 0, true⟩
def R.CFG_STATUS_LOG_FULL : Field := ⟨0x8, 4, 1, .w1c, 0, true⟩
def R.CFG_STATUS_LOG_TAG_BAD : Field := ⟨0x8, 5, 1, .w1c, 0, true⟩
def R.CFG_STATUS_SEED_REJECTED : Field := ⟨0x8, 6, 1, .w1c, 0, true⟩
def R.CFG_CNT_0 : Field := ⟨0x10, 0, 16, .ro, 0, true⟩
def R.CFG_CNT_1 : Field := ⟨0x10, 16, 16, .ro, 0, true⟩
def R.CFG_CNT_2 : Field := ⟨0x10, 32, 16, .ro, 0, true⟩
def R.CFG_CNT_3 : Field := ⟨0x10, 48, 16, .ro, 0, true⟩
def R.CFG_CNT_4 : Field := ⟨0x18, 0, 16, .ro, 0, true⟩
def R.CFG_CNT_5 : Field := ⟨0x18, 16, 16, .ro, 0, true⟩
def R.CFG_CNT_6 : Field := ⟨0x18, 32, 16, .ro, 0, true⟩
def R.CFG_ERR_REASON_A : Field := ⟨0x20, 0, 8, .ro, 0, true⟩
def R.CFG_ERR_REASON_B : Field := ⟨0x20, 8, 8, .ro, 0, true⟩
def R.CFG_ERR_RECORD : Field := ⟨0x20, 16, 16, .ro, 0, true⟩
def R.CFG_ERR_OFFSET : Field := ⟨0x20, 32, 32, .ro, 0, true⟩
def R.CFG_LOG_ENTRIES : Field := ⟨0x28, 0, 16, .ro, 0, true⟩
def R.CFG_LOG_LIVE : Field := ⟨0x28, 16, 16, .ro, 0, true⟩
def R.CFG_LOG_NEXT_SEQ : Field := ⟨0x28, 32, 32, .ro, 0, true⟩

/-- Block SEC (R455, 16_signatures_and_attestation.md). -/
def R.SEC_STATE_KEY : Field := ⟨0x0, 0, 2, .ro, 0, true⟩
def R.SEC_STATE_OWNER_SET : Field := ⟨0x0, 4, 4, .ro, 0, true⟩
def R.SEC_STATE_OWNER_OFF : Field := ⟨0x0, 8, 4, .ro, 0, true⟩
def R.SEC_STATE_CFG_SIGNER : Field := ⟨0x0, 12, 3, .ro, 7, true⟩
def R.SEC_STATE_SVN_FLOOR : Field := ⟨0x0, 16, 8, .ro, 0, true⟩
def R.SEC_INDEX_NEXT : Field := ⟨0x8, 0, 21, .ro, 0, true⟩
def R.SEC_INDEX_BLOCKS : Field := ⟨0x8, 32, 13, .ro, 0, true⟩
def R.SEC_INDEX_RESERVED : Field := ⟨0x8, 45, 1, .ro, 0, true⟩
def R.SEC_CTRL_RATE_S : Field := ⟨0x10, 0, 16, .rwl, 600, true⟩
def R.SEC_CTRL_DEPTH : Field := ⟨0x10, 16, 8, .rwl, 16, true⟩
def R.SEC_CTRL_FABRIC : Field := ⟨0x10, 24, 1, .rwl, 0, true⟩
def R.SEC_ATT_ALLOW_RANKS : Field := ⟨0x18, 0, 64, .rwl, 0, true⟩
def R.SEC_STATUS_SIG_FAIL : Field := ⟨0x20, 0, 1, .w1c, 0, true⟩
def R.SEC_STATUS_SVN_LOW : Field := ⟨0x20, 1, 1, .w1c, 0, true⟩
def R.SEC_STATUS_DENIED : Field := ⟨0x20, 2, 1, .w1c, 0, true⟩
def R.SEC_STATUS_BUSY : Field := ⟨0x20, 3, 1, .w1c, 0, true⟩
def R.SEC_STATUS_EXHAUSTED : Field := ⟨0x20, 4, 1, .w1c, 0, true⟩
def R.SEC_STATUS_OTP_TORN : Field := ⟨0x20, 5, 1, .w1c, 0, true⟩
def R.SEC_STATUS_TREE_BAD : Field := ⟨0x20, 6, 1, .w1c, 0, true⟩
def R.SEC_STATUS_OWNER_CHANGE : Field := ⟨0x20, 7, 1, .w1c, 0, true⟩
def R.SEC_CNT_0 : Field := ⟨0x28, 0, 16, .ro, 0, true⟩
def R.SEC_CNT_1 : Field := ⟨0x28, 16, 16, .ro, 0, true⟩
def R.SEC_CNT_2 : Field := ⟨0x28, 32, 16, .ro, 0, true⟩
def R.SEC_CNT_3 : Field := ⟨0x28, 48, 16, .ro, 0, true⟩
def R.SEC_CNT_4 : Field := ⟨0x30, 0, 16, .ro, 0, true⟩
def R.SEC_CNT_5 : Field := ⟨0x30, 16, 16, .ro, 0, true⟩
def R.SEC_CNT_6 : Field := ⟨0x30, 32, 16, .ro, 0, true⟩
def R.SEC_CNT_7 : Field := ⟨0x30, 48, 16, .ro, 0, true⟩
def R.SEC_TOKENS : Field := ⟨0x38, 0, 8, .ro, 16, true⟩
def R.SEC_SIGNATURES : Field := ⟨0x40, 0, 64, .ro, 0, true⟩
def R.SEC_CERTS : Field := ⟨0x48, 0, 64, .ro, 0, true⟩
def R.SEC_LAST_SIGN_US : Field := ⟨0x50, 0, 32, .ro, 0, true⟩

/-- Block PWR (R472, 17_power_clocks_telemetry.md). -/
def R.PWR_CTRL_CAP_W : Field := ⟨0x0, 0, 16, .rw, 3400, true⟩
def R.PWR_CTRL_CAP_HYST_W : Field := ⟨0x0, 16, 16, .rw, 100, true⟩
def R.PWR_CTRL_CAP_POINT : Field := ⟨0x0, 32, 3, .ro, 7, true⟩
def R.PWR_DOMAINS_ON : Field := ⟨0x8, 0, 64, .ro, 0, true⟩
def R.PWR_FAULTED : Field := ⟨0x10, 0, 64, .ro, 0, true⟩
def R.PWR_STATUS_DOMAIN_FAULT : Field := ⟨0x18, 0, 1, .w1c, 0, true⟩
def R.PWR_STATUS_CAP_ACTIVE : Field := ⟨0x18, 1, 1, .w1c, 0, true⟩
def R.PWR_STATUS_INPUT_LOW : Field := ⟨0x18, 2, 1, .w1c, 0, true⟩
def R.PWR_STATUS_THERMAL_TRIP : Field := ⟨0x18, 3, 1, .w1c, 0, true⟩
def R.PWR_CNT_0 : Field := ⟨0x20, 0, 16, .ro, 0, true⟩
def R.PWR_CNT_1 : Field := ⟨0x20, 16, 16, .ro, 0, true⟩
def R.PWR_CNT_2 : Field := ⟨0x20, 32, 16, .ro, 0, true⟩
def R.PWR_CNT_3 : Field := ⟨0x20, 48, 16, .ro, 0, true⟩
def R.PWR_FAULT_LOG_DOMAIN : Field := ⟨0x28, 0, 6, .ro, 0, true⟩
def R.PWR_FAULT_LOG_KIND : Field := ⟨0x28, 6, 2, .ro, 0, true⟩
def R.PWR_FAULT_LOG_TIME : Field := ⟨0x28, 32, 32, .ro, 0, true⟩
def R.PWR_ENERGY_J : Field := ⟨0x30, 0, 64, .ro, 0, true⟩

/-- Block CLK (R473, 17_power_clocks_telemetry.md). -/
def R.CLK_STATE_NOC_LOCK : Field := ⟨0x0, 0, 1, .ro, 0, true⟩
def R.CLK_STATE_MC_LOCK : Field := ⟨0x0, 1, 1, .ro, 0, true⟩
def R.CLK_STATUS_PLL_UNLOCK : Field := ⟨0x8, 0, 1, .w1c, 0, true⟩
def R.CLK_STATUS_DROOP : Field := ⟨0x8, 1, 1, .w1c, 0, true⟩
def R.CLK_CNT_0 : Field := ⟨0x10, 0, 16, .ro, 0, true⟩
def R.CLK_CNT_1 : Field := ⟨0x10, 16, 16, .ro, 0, true⟩
def R.CLK_DROOP_CTRL_DROOP_MV : Field := ⟨0x18, 0, 8, .rwl, 40, true⟩

/-- Block CLKCL (R473, 17_power_clocks_telemetry.md). -/
def R.CLKCL_CTRL_MAX_OP : Field := ⟨0x0, 0, 3, .rw, 7, true⟩
def R.CLKCL_STATE_OP : Field := ⟨0x8, 0, 3, .ro, 0, true⟩
def R.CLKCL_STATE_TARGET : Field := ⟨0x8, 3, 3, .ro, 0, true⟩
def R.CLKCL_STATE_STEPPING : Field := ⟨0x8, 6, 1, .ro, 0, true⟩
def R.CLKCL_STATE_LIMIT : Field := ⟨0x8, 7, 3, .ro, 0, true⟩
def R.CLKCL_DROOPS : Field := ⟨0x10, 0, 64, .ro, 0, true⟩
def R.CLKCL_STEPS : Field := ⟨0x18, 0, 64, .ro, 0, true⟩

/-- Block TEL (R474, 17_power_clocks_telemetry.md). -/
def R.TEL_TEMP_JMAX : Field := ⟨0x0, 0, 16, .ro, 0, true⟩
def R.TEL_TEMP_MEM_MAX : Field := ⟨0x0, 16, 16, .ro, 0, true⟩
def R.TEL_THERM_THROTTLE_C : Field := ⟨0x8, 0, 8, .rwl, 100, true⟩
def R.TEL_THERM_TRIP_C : Field := ⟨0x8, 8, 8, .rwl, 110, true⟩
def R.TEL_STATUS_THROTTLE : Field := ⟨0x10, 0, 1, .w1c, 0, true⟩
def R.TEL_STATUS_TRIP : Field := ⟨0x10, 1, 1, .w1c, 0, true⟩
def R.TEL_STATUS_SENSOR_FAIL : Field := ⟨0x10, 2, 1, .w1c, 0, true⟩
def R.TEL_STATUS_EVENT_DROP : Field := ⟨0x10, 3, 1, .w1c, 0, true⟩
def R.TEL_CNT_0 : Field := ⟨0x18, 0, 16, .ro, 0, true⟩
def R.TEL_CNT_1 : Field := ⟨0x18, 16, 16, .ro, 0, true⟩
def R.TEL_CNT_2 : Field := ⟨0x18, 32, 16, .ro, 0, true⟩
def R.TEL_CNT_3 : Field := ⟨0x18, 48, 16, .ro, 0, true⟩
def R.TEL_CL_TEMP_TEMP : Field := ⟨0x40, 0, 16, .ro, 0, true⟩
def R.TEL_TIME : Field := ⟨0x800, 0, 64, .ro, 0, true⟩
def R.TEL_INPUT_VOLTS : Field := ⟨0x808, 0, 16, .ro, 0, true⟩
def R.TEL_INPUT_AMPS : Field := ⟨0x808, 16, 16, .ro, 0, true⟩
def R.TEL_INPUT_WATTS : Field := ⟨0x808, 32, 16, .ro, 0, true⟩
def R.TEL_COOLANT_INLET : Field := ⟨0x810, 0, 16, .ro, 0, true⟩
def R.TEL_COOLANT_OUTLET : Field := ⟨0x810, 16, 16, .ro, 0, true⟩

/-- Block TELPT (R474, 17_power_clocks_telemetry.md). -/
def R.TELPT_PT_US : Field := ⟨0x0, 0, 32, .ro, 0, true⟩
def R.TELPT_PT_STEP : Field := ⟨0x0, 32, 32, .ro, 0, true⟩

/-- Block MGMT (R496, 19_codes_and_register_index.md). -/
def R.MGMT_STATUS_REG_BAD_ACCESS : Field := ⟨0x0, 0, 1, .w1c, 0, true⟩
def R.MGMT_STATUS_REG_UNMAPPED : Field := ⟨0x0, 1, 1, .w1c, 0, true⟩
def R.MGMT_CNT_0 : Field := ⟨0x8, 0, 16, .ro, 0, true⟩
def R.MGMT_CNT_1 : Field := ⟨0x8, 16, 16, .ro, 0, true⟩
def R.MGMT_ERR_OFFSET : Field := ⟨0x10, 0, 32, .ro, 0, true⟩

/-- Block NOC (R497, 19_codes_and_register_index.md). -/
def R.NOC_STATUS_ADDR_UNMAPPED : Field := ⟨0x0, 0, 1, .w1c, 0, true⟩
def R.NOC_CNT_0 : Field := ⟨0x8, 0, 16, .ro, 0, true⟩
def R.NOC_ERR_ADDR : Field := ⟨0x10, 0, 48, .ro, 0, true⟩

/-- Block CORE (R498, 19_codes_and_register_index.md). -/
def R.CORE_SEQ_STATE_RUNNING : Field := ⟨0x0, 0, 1, .ro, 0, false⟩
def R.CORE_SEQ_STATE_BUFFER : Field := ⟨0x0, 1, 1, .ro, 0, false⟩
def R.CORE_SEQ_STATE_SLOT : Field := ⟨0x0, 2, 11, .ro, 0, false⟩
def R.CORE_SEQ_STATE_PROG : Field := ⟨0x0, 16, 32, .ro, 0, false⟩
def R.CORE_SEQ_CMDS_COMMANDS : Field := ⟨0x8, 0, 64, .ro, 0, true⟩

/-! Status bits, each with its 16-bit saturating event count (R287). -/
def St.RSEQ_PLAN_INVALID : Status := ⟨R.RSEQ_STATUS_PLAN_INVALID, R.RSEQ_CNT_0⟩
def St.RSEQ_SHAPE_OVER_PLAN : Status := ⟨R.RSEQ_STATUS_SHAPE_OVER_PLAN, R.RSEQ_CNT_1⟩
def St.RSEQ_GATHER_PARTIAL : Status := ⟨R.RSEQ_STATUS_GATHER_PARTIAL, R.RSEQ_CNT_2⟩
def St.RSEQ_CKPT_PARTIAL : Status := ⟨R.RSEQ_STATUS_CKPT_PARTIAL, R.RSEQ_CNT_3⟩
def St.RSEQ_STALL : Status := ⟨R.RSEQ_STATUS_STALL, R.RSEQ_CNT_4⟩
def St.RSEQ_STATE_CONFLICT : Status := ⟨R.RSEQ_STATUS_STATE_CONFLICT, R.RSEQ_CNT_5⟩
def St.RSEQ_HALTED : Status := ⟨R.RSEQ_STATUS_HALTED, R.RSEQ_CNT_6⟩
def St.ME_CSUM_MISS : Status := ⟨R.ME_STATUS_CSUM_MISS, R.ME_CNT_0⟩
def St.ME_CSUM_HARD : Status := ⟨R.ME_STATUS_CSUM_HARD, R.ME_CNT_1⟩
def St.ME_CSUM_SKIP : Status := ⟨R.ME_STATUS_CSUM_SKIP, R.ME_CNT_2⟩
def St.ME_ACC_OVERCOMMIT : Status := ⟨R.ME_STATUS_ACC_OVERCOMMIT, R.ME_CNT_3⟩
def St.ME_ACC_CE : Status := ⟨R.ME_STATUS_ACC_CE, R.ME_CNT_4⟩
def St.ME_ACC_UE : Status := ⟨R.ME_STATUS_ACC_UE, R.ME_CNT_5⟩
def St.ME_CMD_INVALID : Status := ⟨R.ME_STATUS_CMD_INVALID, R.ME_CNT_6⟩
def St.ME_ACC_OPEN_WRITE : Status := ⟨R.ME_STATUS_ACC_OPEN_WRITE, R.ME_CNT_7⟩
def St.MECL_CORE_BENCHED : Status := ⟨R.MECL_STATUS_CORE_BENCHED, R.MECL_CNT_0⟩
def St.MECL_SPARE_NONE : Status := ⟨R.MECL_STATUS_SPARE_NONE, R.MECL_CNT_1⟩
def St.TB_CMD_INVALID : Status := ⟨R.TB_STATUS_CMD_INVALID, R.TB_CNT_0⟩
def St.TB_MISMATCH : Status := ⟨R.TB_STATUS_MISMATCH, R.TB_CNT_1⟩
def St.TB_XPOSE_MISS : Status := ⟨R.TB_STATUS_XPOSE_MISS, R.TB_CNT_2⟩
def St.TB_XPOSE_HARD : Status := ⟨R.TB_STATUS_XPOSE_HARD, R.TB_CNT_3⟩
def St.TB_SLOT_CE : Status := ⟨R.TB_STATUS_SLOT_CE, R.TB_CNT_4⟩
def St.TB_SLOT_UE : Status := ⟨R.TB_STATUS_SLOT_UE, R.TB_CNT_5⟩
def St.TB_LEFTOVER : Status := ⟨R.TB_STATUS_LEFTOVER, R.TB_CNT_6⟩
def St.SP_CE : Status := ⟨R.SP_STATUS_CE, R.SP_CNT_0⟩
def St.SP_UE : Status := ⟨R.SP_STATUS_UE, R.SP_CNT_1⟩
def St.SP_OPEN_REFUSED : Status := ⟨R.SP_STATUS_OPEN_REFUSED, R.SP_CNT_2⟩
def St.SP_CLOSE_BUSY : Status := ⟨R.SP_STATUS_CLOSE_BUSY, R.SP_CNT_3⟩
def St.SP_SHELF_SEQ : Status := ⟨R.SP_STATUS_SHELF_SEQ, R.SP_CNT_4⟩
def St.SP_CACHE_REFUSED : Status := ⟨R.SP_STATUS_CACHE_REFUSED, R.SP_CNT_5⟩
def St.SP_CACHE_LOST_DIRTY : Status := ⟨R.SP_STATUS_CACHE_LOST_DIRTY, R.SP_CNT_6⟩
def St.SP_MOVE_INVALID : Status := ⟨R.SP_STATUS_MOVE_INVALID, R.SP_CNT_7⟩
def St.CM_CE : Status := ⟨R.CM_STATUS_CE, R.CM_CNT_0⟩
def St.CM_UE : Status := ⟨R.CM_STATUS_UE, R.CM_CNT_1⟩
def St.CM_OPEN_REFUSED : Status := ⟨R.CM_STATUS_OPEN_REFUSED, R.CM_CNT_2⟩
def St.CM_CLOSE_BUSY : Status := ⟨R.CM_STATUS_CLOSE_BUSY, R.CM_CNT_3⟩
def St.CM_SHELF_SEQ : Status := ⟨R.CM_STATUS_SHELF_SEQ, R.CM_CNT_4⟩
def St.CM_RELOCATE : Status := ⟨R.CM_STATUS_RELOCATE, R.CM_CNT_5⟩
def St.PLAN_DESC_INVALID : Status := ⟨R.PLAN_STATUS_DESC_INVALID, R.PLAN_CNT_0⟩
def St.PLAN_TP_INVALID : Status := ⟨R.PLAN_STATUS_TP_INVALID, R.PLAN_CNT_1⟩
def St.PLAN_SHAPE_OVER : Status := ⟨R.PLAN_STATUS_SHAPE_OVER, R.PLAN_CNT_2⟩
def St.PLAN_ZERO_SHAPE : Status := ⟨R.PLAN_STATUS_ZERO_SHAPE, R.PLAN_CNT_3⟩
def St.PLAN_ACC_REORDER : Status := ⟨R.PLAN_STATUS_ACC_REORDER, R.PLAN_CNT_4⟩
def St.PLAN_SCALE_KEPT : Status := ⟨R.PLAN_STATUS_SCALE_KEPT, R.PLAN_CNT_5⟩
def St.PLAN_TP_OVERRUN : Status := ⟨R.PLAN_STATUS_TP_OVERRUN, R.PLAN_CNT_6⟩
def St.VE_INST_INVALID : Status := ⟨R.VE_STATUS_INST_INVALID, R.VE_CNT_0⟩
def St.VE_FAULT : Status := ⟨R.VE_STATUS_FAULT, R.VE_CNT_1⟩
def St.VE_TIMEOUT : Status := ⟨R.VE_STATUS_TIMEOUT, R.VE_CNT_2⟩
def St.VE_BANK_CAP : Status := ⟨R.VE_STATUS_BANK_CAP, R.VE_CNT_3⟩
def St.VE_IDX_RANGE : Status := ⟨R.VE_STATUS_IDX_RANGE, R.VE_CNT_4⟩
def St.VE_REG_CE : Status := ⟨R.VE_STATUS_REG_CE, R.VE_CNT_5⟩
def St.VE_REG_UE : Status := ⟨R.VE_STATUS_REG_UE, R.VE_CNT_6⟩
def St.DMA_DESC_INVALID : Status := ⟨R.DMA_STATUS_DESC_INVALID, R.DMA_CNT_0⟩
def St.DMA_PARTIAL : Status := ⟨R.DMA_STATUS_PARTIAL, R.DMA_CNT_1⟩
def St.DMA_RETRIED : Status := ⟨R.DMA_STATUS_RETRIED, R.DMA_CNT_2⟩
def St.DMA_CH_OWNED : Status := ⟨R.DMA_STATUS_CH_OWNED, R.DMA_CNT_3⟩
def St.DMA_AGED : Status := ⟨R.DMA_STATUS_AGED, R.DMA_CNT_4⟩
def St.DMA_RING_OVER : Status := ⟨R.DMA_STATUS_RING_OVER, R.DMA_CNT_5⟩
def St.DMA_BUF_CE : Status := ⟨R.DMA_STATUS_BUF_CE, R.DMA_CNT_6⟩
def St.DMA_BUF_UE : Status := ⟨R.DMA_STATUS_BUF_UE, R.DMA_CNT_7⟩
def St.DMA_FETCH_FAIL : Status := ⟨R.DMA_STATUS_FETCH_FAIL, R.DMA_CNT_8⟩
def St.DMA_SIGNAL_FAIL : Status := ⟨R.DMA_STATUS_SIGNAL_FAIL, R.DMA_CNT_9⟩
def St.WQP_CMD_INVALID : Status := ⟨R.WQP_STATUS_CMD_INVALID, R.WQP_CNT_0⟩
def St.WQP_STATE_CONFLICT : Status := ⟨R.WQP_STATUS_STATE_CONFLICT, R.WQP_CNT_1⟩
def St.WQP_CQ_FULL : Status := ⟨R.WQP_STATUS_CQ_FULL, R.WQP_CNT_2⟩
def St.WQP_WHISTLE_STUCK : Status := ⟨R.WQP_STATUS_WHISTLE_STUCK, R.WQP_CNT_3⟩
def St.WQP_WHISTLE_LEFTOVER : Status := ⟨R.WQP_STATUS_WHISTLE_LEFTOVER, R.WQP_CNT_4⟩
def St.SYNCD_OVERFLOW : Status := ⟨R.SYNCD_STATUS_OVERFLOW, R.SYNCD_CNT_0⟩
def St.SYNCD_RANGE : Status := ⟨R.SYNCD_STATUS_RANGE, R.SYNCD_CNT_1⟩
def St.SYNCD_REMOTE_DENIED : Status := ⟨R.SYNCD_STATUS_REMOTE_DENIED, R.SYNCD_CNT_2⟩
def St.MEM_RATE_CLAMPED : Status := ⟨R.MEM_STATUS_RATE_CLAMPED, R.MEM_CNT_0⟩
def St.MEM_CE : Status := ⟨R.MEM_STATUS_CE, R.MEM_CNT_1⟩
def St.MEM_SUBCH_FAIL : Status := ⟨R.MEM_STATUS_SUBCH_FAIL, R.MEM_CNT_2⟩
def St.MEM_REBUILD_DONE : Status := ⟨R.MEM_STATUS_REBUILD_DONE, R.MEM_CNT_3⟩
def St.MEM_LOCAL_LOSS : Status := ⟨R.MEM_STATUS_LOCAL_LOSS, R.MEM_CNT_4⟩
def St.MEM_DENIED : Status := ⟨R.MEM_STATUS_DENIED, R.MEM_CNT_5⟩
def St.MEM_CAL_FAIL : Status := ⟨R.MEM_STATUS_CAL_FAIL, R.MEM_CNT_6⟩
def St.MEM_CAL_HELD : Status := ⟨R.MEM_STATUS_CAL_HELD, R.MEM_CNT_7⟩
def St.MEM_REBUILD_RESTART : Status := ⟨R.MEM_STATUS_REBUILD_RESTART, R.MEM_CNT_8⟩
def St.MEM_LOSS_TABLE_FULL : Status := ⟨R.MEM_STATUS_LOSS_TABLE_FULL, R.MEM_CNT_9⟩
def St.JLK_WIN_DENIED : Status := ⟨R.JLK_STATUS_WIN_DENIED, R.JLK_CNT_0⟩
def St.JLK_NO_ROUTE : Status := ⟨R.JLK_STATUS_NO_ROUTE, R.JLK_CNT_1⟩
def St.JLK_HOP_LIMIT : Status := ⟨R.JLK_STATUS_HOP_LIMIT, R.JLK_CNT_2⟩
def St.JLK_MIRROR_FAIL : Status := ⟨R.JLK_STATUS_MIRROR_FAIL, R.JLK_CNT_3⟩
def St.JLK_WIN_WRITE_DENIED : Status := ⟨R.JLK_STATUS_WIN_WRITE_DENIED, R.JLK_CNT_4⟩
def St.JLK_SYNC_DUP : Status := ⟨R.JLK_STATUS_SYNC_DUP, R.JLK_CNT_5⟩
def St.JLK_RESP_TIMEOUT : Status := ⟨R.JLK_STATUS_RESP_TIMEOUT, R.JLK_CNT_6⟩
def St.JLK_BAD_MSG : Status := ⟨R.JLK_STATUS_BAD_MSG, R.JLK_CNT_7⟩
def St.PORT_REPLAY : Status := ⟨R.PORT_STATUS_REPLAY, R.PORT_CNT_0⟩
def St.PORT_NAK_RX : Status := ⟨R.PORT_STATUS_NAK_RX, R.PORT_CNT_1⟩
def St.PORT_LANE_DROP : Status := ⟨R.PORT_STATUS_LANE_DROP, R.PORT_CNT_2⟩
def St.PORT_PORT_DOWN : Status := ⟨R.PORT_STATUS_PORT_DOWN, R.PORT_CNT_3⟩
def St.PORT_TRAIN_FAIL : Status := ⟨R.PORT_STATUS_TRAIN_FAIL, R.PORT_CNT_4⟩
def St.PORT_ID_CONFLICT : Status := ⟨R.PORT_STATUS_ID_CONFLICT, R.PORT_CNT_5⟩
def St.PORT_PEER_MISMATCH : Status := ⟨R.PORT_STATUS_PEER_MISMATCH, R.PORT_CNT_6⟩
def St.PORT_CREDIT_ERR : Status := ⟨R.PORT_STATUS_CREDIT_ERR, R.PORT_CNT_7⟩
def St.HBR_ROLE_MISMATCH : Status := ⟨R.HBR_STATUS_ROLE_MISMATCH, R.HBR_CNT_0⟩
def St.HBR_UR_SENT : Status := ⟨R.HBR_STATUS_UR_SENT, R.HBR_CNT_1⟩
def St.HBR_CA_SENT : Status := ⟨R.HBR_STATUS_CA_SENT, R.HBR_CNT_2⟩
def St.HBR_POSTED_ERR : Status := ⟨R.HBR_STATUS_POSTED_ERR, R.HBR_CNT_3⟩
def St.HBR_FLR_PF : Status := ⟨R.HBR_STATUS_FLR_PF, R.HBR_CNT_4⟩
def St.HBR_FLR_VF : Status := ⟨R.HBR_STATUS_FLR_VF, R.HBR_CNT_5⟩
def St.HBR_LINK_DOWN : Status := ⟨R.HBR_STATUS_LINK_DOWN, R.HBR_CNT_6⟩
def St.HBR_RRS_TIMEOUT : Status := ⟨R.HBR_STATUS_RRS_TIMEOUT, R.HBR_CNT_7⟩
def St.PART_SLICE_OVERRUN : Status := ⟨R.PART_STATUS_SLICE_OVERRUN, R.PART_CNT_0⟩
def St.PART_DENIED : Status := ⟨R.PART_STATUS_DENIED, R.PART_CNT_1⟩
def St.PART_SEQ_FULL : Status := ⟨R.PART_STATUS_SEQ_FULL, R.PART_CNT_2⟩
def St.PART_PAGE_WAIT : Status := ⟨R.PART_STATUS_PAGE_WAIT, R.PART_CNT_3⟩
def St.PART_SEQ_LIMIT : Status := ⟨R.PART_STATUS_SEQ_LIMIT, R.PART_CNT_4⟩
def St.PART_RESET_DONE : Status := ⟨R.PART_STATUS_RESET_DONE, R.PART_CNT_5⟩
def St.PART_RESET_IGNORED : Status := ⟨R.PART_STATUS_RESET_IGNORED, R.PART_CNT_6⟩
def St.RES_PARTNER_LOST : Status := ⟨R.RES_STATUS_PARTNER_LOST, R.RES_CNT_0⟩
def St.RES_MEMBER_LOST : Status := ⟨R.RES_STATUS_MEMBER_LOST, R.RES_CNT_1⟩
def St.RES_LOCAL_LOSS : Status := ⟨R.RES_STATUS_LOCAL_LOSS, R.RES_CNT_2⟩
def St.RES_SELF_FENCED : Status := ⟨R.RES_STATUS_SELF_FENCED, R.RES_CNT_3⟩
def St.RES_SB_HELD : Status := ⟨R.RES_STATUS_SB_HELD, R.RES_CNT_4⟩
def St.RES_PAIR_REFUSED : Status := ⟨R.RES_STATUS_PAIR_REFUSED, R.RES_CNT_5⟩
def St.RES_CATCHUP : Status := ⟨R.RES_STATUS_CATCHUP, R.RES_CNT_6⟩
def St.RES_STATE_LOST : Status := ⟨R.RES_STATUS_STATE_LOST, R.RES_CNT_7⟩
def St.RES_RESTORED : Status := ⟨R.RES_STATUS_RESTORED, R.RES_CNT_8⟩
def St.RES_CAB_LOST : Status := ⟨R.RES_STATUS_CAB_LOST, R.RES_CNT_9⟩
def St.BOOT_TEST_FAIL : Status := ⟨R.BOOT_STATUS_TEST_FAIL, R.BOOT_CNT_0⟩
def St.BOOT_FUSED_PASS : Status := ⟨R.BOOT_STATUS_FUSED_PASS, R.BOOT_CNT_1⟩
def St.BOOT_LOG_APPLIED : Status := ⟨R.BOOT_STATUS_LOG_APPLIED, R.BOOT_CNT_2⟩
def St.BOOT_COMPUTE_RESET : Status := ⟨R.BOOT_STATUS_COMPUTE_RESET, R.BOOT_CNT_3⟩
def St.CFG_LOCKED_WRITE : Status := ⟨R.CFG_STATUS_LOCKED_WRITE, R.CFG_CNT_0⟩
def St.CFG_PARTNER_COFED : Status := ⟨R.CFG_STATUS_PARTNER_COFED, R.CFG_CNT_1⟩
def St.CFG_FEED_MISMATCH : Status := ⟨R.CFG_STATUS_FEED_MISMATCH, R.CFG_CNT_2⟩
def St.CFG_COPY_FAILED : Status := ⟨R.CFG_STATUS_COPY_FAILED, R.CFG_CNT_3⟩
def St.CFG_LOG_FULL : Status := ⟨R.CFG_STATUS_LOG_FULL, R.CFG_CNT_4⟩
def St.CFG_LOG_TAG_BAD : Status := ⟨R.CFG_STATUS_LOG_TAG_BAD, R.CFG_CNT_5⟩
def St.CFG_SEED_REJECTED : Status := ⟨R.CFG_STATUS_SEED_REJECTED, R.CFG_CNT_6⟩
def St.SEC_SIG_FAIL : Status := ⟨R.SEC_STATUS_SIG_FAIL, R.SEC_CNT_0⟩
def St.SEC_SVN_LOW : Status := ⟨R.SEC_STATUS_SVN_LOW, R.SEC_CNT_1⟩
def St.SEC_DENIED : Status := ⟨R.SEC_STATUS_DENIED, R.SEC_CNT_2⟩
def St.SEC_BUSY : Status := ⟨R.SEC_STATUS_BUSY, R.SEC_CNT_3⟩
def St.SEC_EXHAUSTED : Status := ⟨R.SEC_STATUS_EXHAUSTED, R.SEC_CNT_4⟩
def St.SEC_OTP_TORN : Status := ⟨R.SEC_STATUS_OTP_TORN, R.SEC_CNT_5⟩
def St.SEC_TREE_BAD : Status := ⟨R.SEC_STATUS_TREE_BAD, R.SEC_CNT_6⟩
def St.SEC_OWNER_CHANGE : Status := ⟨R.SEC_STATUS_OWNER_CHANGE, R.SEC_CNT_7⟩
def St.PWR_DOMAIN_FAULT : Status := ⟨R.PWR_STATUS_DOMAIN_FAULT, R.PWR_CNT_0⟩
def St.PWR_CAP_ACTIVE : Status := ⟨R.PWR_STATUS_CAP_ACTIVE, R.PWR_CNT_1⟩
def St.PWR_INPUT_LOW : Status := ⟨R.PWR_STATUS_INPUT_LOW, R.PWR_CNT_2⟩
def St.PWR_THERMAL_TRIP : Status := ⟨R.PWR_STATUS_THERMAL_TRIP, R.PWR_CNT_3⟩
def St.CLK_PLL_UNLOCK : Status := ⟨R.CLK_STATUS_PLL_UNLOCK, R.CLK_CNT_0⟩
def St.CLK_DROOP : Status := ⟨R.CLK_STATUS_DROOP, R.CLK_CNT_1⟩
def St.TEL_THROTTLE : Status := ⟨R.TEL_STATUS_THROTTLE, R.TEL_CNT_0⟩
def St.TEL_TRIP : Status := ⟨R.TEL_STATUS_TRIP, R.TEL_CNT_1⟩
def St.TEL_SENSOR_FAIL : Status := ⟨R.TEL_STATUS_SENSOR_FAIL, R.TEL_CNT_2⟩
def St.TEL_EVENT_DROP : Status := ⟨R.TEL_STATUS_EVENT_DROP, R.TEL_CNT_3⟩
def St.MGMT_REG_BAD_ACCESS : Status := ⟨R.MGMT_STATUS_REG_BAD_ACCESS, R.MGMT_CNT_0⟩
def St.MGMT_REG_UNMAPPED : Status := ⟨R.MGMT_STATUS_REG_UNMAPPED, R.MGMT_CNT_1⟩
def St.NOC_ADDR_UNMAPPED : Status := ⟨R.NOC_STATUS_ADDR_UNMAPPED, R.NOC_CNT_0⟩

/-! The fields of each block, in table order. -/
def Tbl.RSEQ : List Field :=
  [R.RSEQ_CTRL_STALL_LIMIT, R.RSEQ_CTRL_HALT_REQ, R.RSEQ_STATE, R.RSEQ_STATE_SPLIT, R.RSEQ_STATE_MB_F, R.RSEQ_STATE_MB_B, R.RSEQ_STATE_RALLY_F, R.RSEQ_STATE_RALLY_B, R.RSEQ_PLAN_PLAN_BASE, R.RSEQ_POOL_COMMONS_F_FREE, R.RSEQ_POOL_COMMONS_B_FREE, R.RSEQ_POOL_SHELF_F_FREE, R.RSEQ_POOL_SHELF_B_FREE, R.RSEQ_ERR_REASON, R.RSEQ_ERR_RALLY, R.RSEQ_ERR_STEP, R.RSEQ_ERR_MB, R.RSEQ_STATUS_PLAN_INVALID, R.RSEQ_STATUS_SHAPE_OVER_PLAN, R.RSEQ_STATUS_GATHER_PARTIAL] ++
  [R.RSEQ_STATUS_CKPT_PARTIAL, R.RSEQ_STATUS_STALL, R.RSEQ_STATUS_STATE_CONFLICT, R.RSEQ_STATUS_HALTED, R.RSEQ_CNT_0, R.RSEQ_CNT_1, R.RSEQ_CNT_2, R.RSEQ_CNT_3, R.RSEQ_CNT_4, R.RSEQ_CNT_5, R.RSEQ_CNT_6, R.RSEQ_ACCT_FWD, R.RSEQ_ACCT_RECOMP, R.RSEQ_ACCT_BWD, R.RSEQ_ACCT_AWAIT, R.RSEQ_ACCT_GWAIT, R.RSEQ_PROGRESS_PASSES, R.RSEQ_PROGRESS_SUB_RECOMP]
def Tbl.ME : List Field :=
  [R.ME_STATE_MODE, R.ME_STATE_SWEEPS, R.ME_STATE_FALLBACK, R.ME_STATE_SPILL_HELD, R.ME_STATE_SPILL_WIN, R.ME_ACC_WIN_COUNT0, R.ME_ACC_WIN_BASE0, R.ME_ACC_WIN_COUNT1, R.ME_ACC_WIN_BASE1, R.ME_CSUM_TOL_REL_C1, R.ME_CSUM_TOL_ABS_C1, R.ME_CSUM_TOL_REL_C2, R.ME_CSUM_TOL_ABS_C2, R.ME_CSUM_TOL_REL_C4, R.ME_CSUM_TOL_ABS_C4, R.ME_ACC_RETIRED_RETIRED, R.ME_STATUS_CSUM_MISS, R.ME_STATUS_CSUM_HARD, R.ME_STATUS_CSUM_SKIP, R.ME_STATUS_ACC_OVERCOMMIT] ++
  [R.ME_STATUS_ACC_CE, R.ME_STATUS_ACC_UE, R.ME_STATUS_CMD_INVALID, R.ME_STATUS_ACC_OPEN_WRITE, R.ME_CNT_0, R.ME_CNT_1, R.ME_CNT_2, R.ME_CNT_3, R.ME_CNT_4, R.ME_CNT_5, R.ME_CNT_6, R.ME_CNT_7, R.ME_CSUM_LOG_TILE, R.ME_CSUM_LOG_KIND, R.ME_CSUM_LOG_WIN, R.ME_CSUM_LOG_INDEX, R.ME_CSUM_LOG_FMT_A, R.ME_CSUM_LOG_FMT_W, R.ME_CSUM_LOG_MODE, R.ME_CSUM_LOG_SEQ] ++
  [R.ME_CMD_ERR_REASON, R.ME_CMD_ERR_OP, R.ME_CMD_ERR_ADDR, R.ME_SWEEPS, R.ME_BUSY_CYC, R.ME_REEXEC_CYC, R.ME_SPILL_BYTES, R.ME_MAXABS_MAXABS_EVEN, R.ME_MAXABS_MAXABS_ODD]
def Tbl.MECL : List Field :=
  [R.MECL_SCORE0_SCORE_0, R.MECL_SCORE0_SCORE_1, R.MECL_SCORE0_SCORE_2, R.MECL_SCORE0_SCORE_3, R.MECL_SCORE1_SCORE_4, R.MECL_SCORE1_SCORE_5, R.MECL_SCORE1_SCORE_6, R.MECL_SCORE1_SCORE_7, R.MECL_SCORE2_SCORE_8, R.MECL_SCORE2_SCORE_9, R.MECL_SCORE2_SCORE_10, R.MECL_SCORE2_SCORE_11, R.MECL_SCORE3_SCORE_12, R.MECL_SCORE3_SCORE_13, R.MECL_SCORE3_SCORE_14, R.MECL_SCORE3_SCORE_15, R.MECL_SCORE4_SCORE_16, R.MECL_BENCH_CTRL_BENCH_LIMIT, R.MECL_BENCH_CTRL_MISS_WEIGHT, R.MECL_BENCH_CTRL_HARD_WEIGHT] ++
  [R.MECL_BENCH_CTRL_RETRY, R.MECL_STATUS_CORE_BENCHED, R.MECL_STATUS_SPARE_NONE, R.MECL_CNT_0, R.MECL_CNT_1, R.MECL_MAP0_PHYS_0, R.MECL_MAP0_PHYS_1, R.MECL_MAP0_PHYS_2, R.MECL_MAP0_PHYS_3, R.MECL_MAP0_PHYS_4, R.MECL_MAP0_PHYS_5, R.MECL_MAP0_PHYS_6, R.MECL_MAP0_PHYS_7, R.MECL_MAP1_PHYS_8, R.MECL_MAP1_PHYS_9, R.MECL_MAP1_PHYS_10, R.MECL_MAP1_PHYS_11, R.MECL_MAP1_PHYS_12, R.MECL_MAP1_PHYS_13, R.MECL_MAP1_PHYS_14] ++
  [R.MECL_MAP1_PHYS_15, R.MECL_SPARE, R.MECL_SPARE_SPARE_FREE, R.MECL_SPARE_BENCHED]
def Tbl.TB : List Field :=
  [R.TB_STATE_W_TILES, R.TB_STATE_A_TILES, R.TB_STATE_FREE, R.TB_STATE_FILLING, R.TB_STATE_W_USES_LEFT, R.TB_STATE_A_USES_LEFT, R.TB_STATE_REPLAY, R.TB_CTRL_W_MAX, R.TB_CTRL_A_MAX, R.TB_CTRL_XRETRY, R.TB_STATUS_CMD_INVALID, R.TB_STATUS_MISMATCH, R.TB_STATUS_XPOSE_MISS, R.TB_STATUS_XPOSE_HARD, R.TB_STATUS_SLOT_CE, R.TB_STATUS_SLOT_UE, R.TB_STATUS_LEFTOVER, R.TB_CNT_0, R.TB_CNT_1, R.TB_CNT_2] ++
  [R.TB_CNT_3, R.TB_CNT_4, R.TB_CNT_5, R.TB_CNT_6, R.TB_ERR_REASON, R.TB_ERR_QUEUE, R.TB_ERR_SOURCE, R.TB_ERR_ADDR, R.TB_TILES, R.TB_ACCESSES, R.TB_CONFLICT_CYC, R.TB_WAIT_CYC]
def Tbl.SP : List Field :=
  [R.SP_GRANT_BASE0, R.SP_GRANT_SIZE0, R.SP_GRANT_BASE1, R.SP_GRANT_SIZE1, R.SP_CACHE_CFG_WAYS, R.SP_CACHE_OWNER_OWNER_0, R.SP_CACHE_OWNER_OWNER_1, R.SP_CACHE_OWNER_OWNER_2, R.SP_CACHE_OWNER_OWNER_3, R.SP_CACHE_OWNER_OWNER_4, R.SP_CACHE_OWNER_OWNER_5, R.SP_CACHE_OWNER_OWNER_6, R.SP_CACHE_OWNER_OWNER_7, R.SP_CACHE_OWNER_OWNER_8, R.SP_CACHE_OWNER_OWNER_9, R.SP_CACHE_OWNER_OWNER_10, R.SP_CACHE_OWNER_OWNER_11, R.SP_CACHE_OWNER_OWNER_12, R.SP_CACHE_OWNER_OWNER_13, R.SP_CACHE_OWNER_OWNER_14] ++
  [R.SP_CACHE_OWNER_OWNER_15, R.SP_CACHE_OP_OP, R.SP_CACHE_OP_CTX, R.SP_CACHE_OP_ALL, R.SP_CACHE_OP_BUSY, R.SP_STATUS_CE, R.SP_STATUS_UE, R.SP_STATUS_OPEN_REFUSED, R.SP_STATUS_CLOSE_BUSY, R.SP_STATUS_SHELF_SEQ, R.SP_STATUS_CACHE_REFUSED, R.SP_STATUS_CACHE_LOST_DIRTY, R.SP_STATUS_MOVE_INVALID, R.SP_CNT_0, R.SP_CNT_1, R.SP_CNT_2, R.SP_CNT_3, R.SP_CNT_4, R.SP_CNT_5, R.SP_CNT_6] ++
  [R.SP_CNT_7, R.SP_ME_STALL_CYC, R.SP_CONFLICT_CYC, R.SP_CACHE_HIT, R.SP_CACHE_MISS, R.SP_CACHE_WB, R.SP_MOVE_BYTES, R.SP_MOVE_ERR_REASON, R.SP_MOVE_ERR_ADDR]
def Tbl.CM : List Field :=
  [R.CM_GRANT0_BASE, R.CM_GRANT1_BASE, R.CM_GRANT2_BASE, R.CM_GRANT3_BASE, R.CM_GRANT0_SIZE, R.CM_GRANT1_SIZE, R.CM_GRANT2_SIZE, R.CM_GRANT3_SIZE, R.CM_GRANT0_CARRY, R.CM_GRANT1_CARRY, R.CM_GRANT2_CARRY, R.CM_GRANT3_CARRY, R.CM_STATUS_CE, R.CM_STATUS_UE, R.CM_STATUS_OPEN_REFUSED, R.CM_STATUS_CLOSE_BUSY, R.CM_STATUS_SHELF_SEQ, R.CM_STATUS_RELOCATE, R.CM_CNT_0, R.CM_CNT_1] ++
  [R.CM_CNT_2, R.CM_CNT_3, R.CM_CNT_4, R.CM_CNT_5, R.CM_WAIT_CYC, R.CM_WORDS, R.CM_RELOC_BYTES]
def Tbl.SHELF : List Field :=
  [R.SHELF_CFG_OPEN, R.SHELF_CFG_CONTIG, R.SHELF_CFG_CONS, R.SHELF_CFG_OWNER, R.SHELF_CFG_BASE, R.SHELF_CFG_SIZE, R.SHELF_CFG_SIG_SYNC, R.SHELF_PTR_HEAD, R.SHELF_PTR_TAIL, R.SHELF_PTR_CLAIM, R.SHELF_STAT_ENTRIES, R.SHELF_STAT_SEQ_HEAD, R.SHELF_STAT_SEQ_NEXT, R.SHELF_STAT_CLAIM_WAIT, R.SHELF_STAT_READ_WAIT, R.SHELF_OP, R.SHELF_OP_UNITS, R.SHELF_OP_SEQ, R.SHELF_OP_RESULT, R.SHELF_OP_OFFSET]
def Tbl.PLAN : List Field :=
  [R.PLAN_CTRL_TP_LIMIT, R.PLAN_CTRL_EST_PCT, R.PLAN_CTRL_NO_WSH, R.PLAN_STATE_STEP, R.PLAN_STATE_BUSY, R.PLAN_STATE_HELD, R.PLAN_ERR_REASON, R.PLAN_ERR_SOURCE, R.PLAN_ERR_CORE, R.PLAN_ERR_ADDR, R.PLAN_ERR_STEP, R.PLAN_STATUS_DESC_INVALID, R.PLAN_STATUS_TP_INVALID, R.PLAN_STATUS_SHAPE_OVER, R.PLAN_STATUS_ZERO_SHAPE, R.PLAN_STATUS_ACC_REORDER, R.PLAN_STATUS_SCALE_KEPT, R.PLAN_STATUS_TP_OVERRUN, R.PLAN_CNT_0, R.PLAN_CNT_1] ++
  [R.PLAN_CNT_2, R.PLAN_CNT_3, R.PLAN_CNT_4, R.PLAN_CNT_5, R.PLAN_CNT_6, R.PLAN_PROGRAMS, R.PLAN_EST_CYC, R.PLAN_ACT_CYC, R.PLAN_PLAN_CYC, R.PLAN_CTR_SCALE_KEPT, R.PLAN_TP_MAX]
def Tbl.VE : List Field :=
  [R.VE_CTRL_WATCHDOG, R.VE_CTRL_SHARED_MAX, R.VE_STATE_BUSY, R.VE_STATE_READY, R.VE_STATE_SLOTS, R.VE_STATE_SHARED, R.VE_STATE_FALLBACK, R.VE_WAIT_REASON_0, R.VE_WAIT_REASON_1, R.VE_WAIT_REASON_2, R.VE_WAIT_REASON_3, R.VE_WAIT_REASON_4, R.VE_WAIT_REASON_5, R.VE_WAIT_REASON_6, R.VE_WAIT_REASON_7, R.VE_STATUS_INST_INVALID, R.VE_STATUS_FAULT, R.VE_STATUS_TIMEOUT, R.VE_STATUS_BANK_CAP, R.VE_STATUS_IDX_RANGE] ++
  [R.VE_STATUS_REG_CE, R.VE_STATUS_REG_UE, R.VE_CNT_0, R.VE_CNT_1, R.VE_CNT_2, R.VE_CNT_3, R.VE_CNT_4, R.VE_CNT_5, R.VE_CNT_6, R.VE_ERR_REASON, R.VE_ERR_THREAD, R.VE_ERR_PC, R.VE_FAULT_ADDR_ADDR, R.VE_INSTS, R.VE_ISSUE_CYC, R.VE_STARVE_CYC, R.VE_REQUESTS, R.VE_SLOT_CYC, R.VE_BANK_CAP_CYC, R.VE_FALLBACK_CYC] ++
  [R.VE_MAX_LAT]
def Tbl.DMA : List Field :=
  [R.DMA_CTRL_AGE_US, R.DMA_CTRL_ATTEMPT_MS, R.DMA_STATE_ACTIVE, R.DMA_STATE_WAITING, R.DMA_STATUS_DESC_INVALID, R.DMA_STATUS_PARTIAL, R.DMA_STATUS_RETRIED, R.DMA_STATUS_CH_OWNED, R.DMA_STATUS_AGED, R.DMA_STATUS_RING_OVER, R.DMA_STATUS_BUF_CE, R.DMA_STATUS_BUF_UE, R.DMA_STATUS_FETCH_FAIL, R.DMA_STATUS_SIGNAL_FAIL, R.DMA_CNT_0, R.DMA_CNT_1, R.DMA_CNT_2, R.DMA_CNT_3, R.DMA_CNT_4, R.DMA_CNT_5] ++
  [R.DMA_CNT_6, R.DMA_CNT_7, R.DMA_ERR_REASON, R.DMA_ERR_CHANNEL, R.DMA_ERR_INDEX, R.DMA_ERR_CODE, R.DMA_READ_BYTES, R.DMA_WRITE_BYTES, R.DMA_SEG_RETRIES, R.DMA_SEG_FAILS, R.DMA_PREEMPTS, R.DMA_NARROW_BEATS, R.DMA_CNT_8, R.DMA_CNT_9]
def Tbl.CH : List Field :=
  [R.CH_CTRL_ENABLE, R.CH_CTRL_PRIO, R.CH_CTRL_STOP, R.CH_CTRL_OWNED, R.CH_RING_BASE, R.CH_RING_LOG2_ENTRIES, R.CH_PROD, R.CH_CONS, R.CH_CONS_DONE, R.CH_STATE, R.CH_STATE_PREEMPTED, R.CH_STATE_BUF_BEATS, R.CH_STATE_LEFT, R.CH_LAST_COMP, R.CH_FAIL_INDEX, R.CH_FAIL_SEGMENT, R.CH_FAIL_CODE, R.CH_BYTES]
def Tbl.WQ : List Field :=
  [R.WQ_RING_BASE, R.WQ_RING_LOG2_ENTRIES, R.WQ_RING_ENABLE, R.WQ_PROD, R.WQ_CONS, R.WQ_CONS_DONE, R.WQ_CQ_RING_CQ_BASE, R.WQ_CQ_RING_CQ_LOG2, R.WQ_CQ_RING_VECTOR, R.WQ_CQ_PTR_CQ_TAIL, R.WQ_CQ_PTR_CQ_HEAD, R.WQ_Q_STATE_STATE, R.WQ_Q_STATE_HELD, R.WQ_Q_STATE_OP, R.WQ_Q_STATE_INDEX]
def Tbl.WQP : List Field :=
  [R.WQP_CTRL_WHISTLE_LIMIT, R.WQP_STEP, R.WQP_STATUS_CMD_INVALID, R.WQP_STATUS_STATE_CONFLICT, R.WQP_STATUS_CQ_FULL, R.WQP_STATUS_WHISTLE_STUCK, R.WQP_STATUS_WHISTLE_LEFTOVER, R.WQP_CNT_0, R.WQP_CNT_1, R.WQP_CNT_2, R.WQP_CNT_3, R.WQP_CNT_4, R.WQP_ERR_OP, R.WQP_ERR_QUEUE, R.WQP_ERR_INDEX, R.WQP_ERR_PART_STATE, R.WQP_WHISTLE_LOG_DURATION, R.WQP_WHISTLE_LOG_BLOCKER, R.WQP_WHISTLE_LOG_CLUSTER, R.WQP_WHISTLES_CYC]
def Tbl.SYNC : List Field :=
  [R.SYNC_VALUE, R.SYNC_VALUE_INC, R.SYNC_CFG_BASE, R.SYNC_CFG_OWNER, R.SYNC_CFG_ASSIGNED]
def Tbl.SYNCD : List Field :=
  [R.SYNCD_STATUS_OVERFLOW, R.SYNCD_STATUS_RANGE, R.SYNCD_STATUS_REMOTE_DENIED, R.SYNCD_CNT_0, R.SYNCD_CNT_1, R.SYNCD_CNT_2, R.SYNCD_ERR_COUNTER, R.SYNCD_ERR_SOURCE, R.SYNCD_ERR_PART, R.SYNCD_UPDATES, R.SYNCD_REMOTE_IN]
def Tbl.MEM : List Field :=
  [R.MEM_CTRL_CAL_INTERVAL_MS, R.MEM_CTRL_CAL_US, R.MEM_CTRL_RB_SHARE, R.MEM_CTRL_FAIL_LIMIT, R.MEM_STATE_RATE, R.MEM_STATE_REBUILDS, R.MEM_STATE_PRESENT, R.MEM_STATE_CALIBRATING, R.MEM_STATUS_RATE_CLAMPED, R.MEM_STATUS_CE, R.MEM_STATUS_SUBCH_FAIL, R.MEM_STATUS_REBUILD_DONE, R.MEM_STATUS_LOCAL_LOSS, R.MEM_STATUS_DENIED, R.MEM_STATUS_CAL_FAIL, R.MEM_STATUS_CAL_HELD, R.MEM_STATUS_REBUILD_RESTART, R.MEM_STATUS_LOSS_TABLE_FULL, R.MEM_CNT_0, R.MEM_CNT_1] ++
  [R.MEM_CNT_2, R.MEM_CNT_3, R.MEM_CNT_4, R.MEM_CNT_5, R.MEM_CNT_6, R.MEM_CNT_7, R.MEM_CNT_8, R.MEM_CNT_9, R.MEM_ERR_GROUP, R.MEM_ERR_MEMBER, R.MEM_ERR_STRIPE, R.MEM_ERR_KIND, R.MEM_READ_BYTES, R.MEM_WRITE_BYTES, R.MEM_RECON_BURSTS, R.MEM_RMW_READS, R.MEM_PROMOTED, R.MEM_LOG_BURSTS]
def Tbl.PMAP : List Field :=
  [R.PMAP_PART_MAP_GROUPS, R.PMAP_PART_MAP_BASE_SLICE, R.PMAP_PART_MAP_VALID]
def Tbl.LOSS : List Field :=
  [R.LOSS_FIRST, R.LOSS_LAST, R.LOSS_GROUP, R.LOSS_VALID]
def Tbl.GRP : List Field :=
  [R.GRP_STATE, R.GRP_STATE_PARITY, R.GRP_STATE_FAILED, R.GRP_STATE_CAL_MEMBER, R.GRP_STATE_CAL_ACTIVE, R.GRP_STATE_TAKEOVER, R.GRP_STATE_QUEUED, R.GRP_STATE_RB_PTR, R.GRP_LOG_LOG_ENTRIES, R.GRP_LOG_LOG_HIGH, R.GRP_CE0_CE_0, R.GRP_CE0_CE_1, R.GRP_CE0_CE_2, R.GRP_CE0_CE_3, R.GRP_CE1_CE_4, R.GRP_CE1_CE_5, R.GRP_CE1_CE_6, R.GRP_CE1_CE_7, R.GRP_CAL_SESSIONS, R.GRP_CAL_LAST_NS] ++
  [R.GRP_CMD_MEMBER, R.GRP_CMD_FAIL, R.GRP_CMD_CAL_NOW]
def Tbl.JLK : List Field :=
  [R.JLK_CTRL_DEVICE_ID, R.JLK_CTRL_ID_VALID, R.JLK_CTRL_RESP_MS, R.JLK_CTRL_RETRAIN_MAX, R.JLK_CTRL_LANE_ERR_LIMIT, R.JLK_STATUS_WIN_DENIED, R.JLK_STATUS_NO_ROUTE, R.JLK_STATUS_HOP_LIMIT, R.JLK_STATUS_MIRROR_FAIL, R.JLK_STATUS_WIN_WRITE_DENIED, R.JLK_STATUS_SYNC_DUP, R.JLK_STATUS_RESP_TIMEOUT, R.JLK_STATUS_BAD_MSG, R.JLK_CNT_0, R.JLK_CNT_1, R.JLK_CNT_2, R.JLK_CNT_3, R.JLK_CNT_4, R.JLK_CNT_5, R.JLK_CNT_6] ++
  [R.JLK_CNT_7, R.JLK_WIN_ERR_SOURCE, R.JLK_WIN_ERR_PART, R.JLK_WIN_ERR_REASON, R.JLK_WIN_ERR_ADDR_ADDR, R.JLK_MIRROR_BYTES, R.JLK_MIRROR_MISS, R.JLK_WIN_ADMITS, R.JLK_TRANSIT_FLITS, R.JLK_PORT_UP]
def Tbl.PORT : List Field :=
  [R.PORT_CTRL_ENABLE, R.PORT_CTRL_RETRAIN, R.PORT_CTRL_FORCE_DOWN, R.PORT_CTRL_EXPECT_PEER, R.PORT_CTRL_EXPECT_PORT, R.PORT_CTRL_EXPECT_VALID, R.PORT_STATE, R.PORT_STATE_STEP, R.PORT_STATE_LANES, R.PORT_STATE_PEER_ID, R.PORT_STATE_PEER_PORT, R.PORT_STATE_ATTEMPTS, R.PORT_STATUS_REPLAY, R.PORT_STATUS_NAK_RX, R.PORT_STATUS_LANE_DROP, R.PORT_STATUS_PORT_DOWN, R.PORT_STATUS_TRAIN_FAIL, R.PORT_STATUS_ID_CONFLICT, R.PORT_STATUS_PEER_MISMATCH, R.PORT_STATUS_CREDIT_ERR] ++
  [R.PORT_CNT_0, R.PORT_CNT_1, R.PORT_CNT_2, R.PORT_CNT_3, R.PORT_CNT_4, R.PORT_CNT_5, R.PORT_CNT_6, R.PORT_CNT_7, R.PORT_TX_FLITS, R.PORT_RX_FLITS, R.PORT_REPLAY_FLITS, R.PORT_FEC_CORR, R.PORT_FEC_UNCORR, R.PORT_CRC_ERR, R.PORT_LANE_ERR_LANE_ERR_0, R.PORT_LANE_ERR_LANE_ERR_1, R.PORT_LANE_ERR_LANE_ERR_2, R.PORT_LANE_ERR_LANE_ERR_3, R.PORT_LANE_ERR_LANE_ERR_4, R.PORT_LANE_ERR_LANE_ERR_5] ++
  [R.PORT_LANE_ERR_LANE_ERR_6, R.PORT_LANE_ERR_LANE_ERR_7, R.PORT_DOWN_US]
def Tbl.ROUTE : List Field :=
  [R.ROUTE_PORT_0, R.ROUTE_PORT_1, R.ROUTE_PORT_2, R.ROUTE_PORT_3, R.ROUTE_VALID_0, R.ROUTE_VALID_1, R.ROUTE_VALID_2, R.ROUTE_VALID_3]
def Tbl.WIN : List Field :=
  [R.WIN_ADDR_BASE, R.WIN_CFG_SIZE, R.WIN_CFG_READ, R.WIN_CFG_WRITE, R.WIN_CFG_SYNC, R.WIN_CFG_HOST, R.WIN_CFG_MATCH_PART, R.WIN_CFG_PART, R.WIN_CFG_SRC_GROUP, R.WIN_CFG_ALL_GROUPS, R.WIN_SRC_MEMBERS, R.WIN_HITS]
def Tbl.MIR : List Field :=
  [R.MIR_SRC_DEVICE, R.MIR_SRC_VALID, R.MIR_LO, R.MIR_HI, R.MIR_CAB]
def Tbl.HBR : List Field :=
  [R.HBR_CTRL_ENABLE, R.HBR_CTRL_VF_READY, R.HBR_STATE_LTSSM, R.HBR_STATE_WIDTH, R.HBR_STATE_SPEED, R.HBR_STATE_DL_ACTIVE, R.HBR_STATE_RRS, R.HBR_STATE_NUM_VFS, R.HBR_STATUS_ROLE_MISMATCH, R.HBR_STATUS_UR_SENT, R.HBR_STATUS_CA_SENT, R.HBR_STATUS_POSTED_ERR, R.HBR_STATUS_FLR_PF, R.HBR_STATUS_FLR_VF, R.HBR_STATUS_LINK_DOWN, R.HBR_STATUS_RRS_TIMEOUT, R.HBR_CNT_0, R.HBR_CNT_1, R.HBR_CNT_2, R.HBR_CNT_3] ++
  [R.HBR_CNT_4, R.HBR_CNT_5, R.HBR_CNT_6, R.HBR_CNT_7, R.HBR_ERR_CODE, R.HBR_ERR_FUNCTION, R.HBR_ERR_WRITE, R.HBR_ERR_ADDR_OFFSET, R.HBR_RX_TLP_BYTES, R.HBR_TX_TLP_BYTES, R.HBR_ID_VENDOR, R.HBR_ID_DEVICE]
def Tbl.APT : List Field :=
  [R.APT_DEVICE, R.APT_VALID, R.APT_READ, R.APT_WRITE, R.APT_LOCAL]
def Tbl.LAYOUT : List Field :=
  [R.LAYOUT_CURRENT, R.LAYOUT_COUNT, R.LAYOUT_VALID, R.LAYOUT_SWITCHING, R.LAYOUT_SWITCHES]
def Tbl.PART : List Field :=
  [R.PART_CTRL_RESET, R.PART_STATE, R.PART_STATE_MEMBER, R.PART_STATE_SET_SIZE, R.PART_STATE_IN_SLICE, R.PART_CLUSTERS, R.PART_SYNC_RANGE_BASE, R.PART_SYNC_RANGE_SIZE, R.PART_SEQ_CTX_BASE, R.PART_SEQ_CTX_COUNT, R.PART_SHARE_SP_BASE_KIB, R.PART_SHARE_SP_KIB, R.PART_SHARE_CM_BASE_KIB, R.PART_SHARE_CM_KIB, R.PART_SLICE_ACC_BASE, R.PART_SLICE_ACC_COUNT, R.PART_SLICE_SLICE_US, R.PART_SLICE_DEBT_US, R.PART_POOL_POOL_BASE, R.PART_POOL_PAGE_64K] ++
  [R.PART_POOL2_POOL_PAGES, R.PART_POOL2_PAGE_TOKENS, R.PART_POOL2_MAX_PAGES, R.PART_PT_PT_BASE, R.PART_POOL_STATE_FREE, R.PART_POOL_STATE_OPEN, R.PART_STATUS_SLICE_OVERRUN, R.PART_STATUS_DENIED, R.PART_STATUS_SEQ_FULL, R.PART_STATUS_PAGE_WAIT, R.PART_STATUS_SEQ_LIMIT, R.PART_STATUS_RESET_DONE, R.PART_STATUS_RESET_IGNORED, R.PART_CNT_0, R.PART_CNT_1, R.PART_CNT_2, R.PART_CNT_3, R.PART_CNT_4, R.PART_CNT_5, R.PART_CNT_6] ++
  [R.PART_SLICES, R.PART_RUN_US, R.PART_OVERRUN_US, R.PART_SKIPPED, R.PART_BATCHES, R.PART_BATCH_TOKENS]
def Tbl.RES : List Field :=
  [R.RES_CTRL_PROT_PART, R.RES_CTRL_ENABLE, R.RES_CTRL_SEAL_SYNC, R.RES_STATE_LEVEL, R.RES_STATE_GROUP_LEVEL, R.RES_STATE_ROLE, R.RES_STATE_FEED, R.RES_STATE_FEED_KNOWN, R.RES_STATE_ALIAS, R.RES_STATE_ALIAS_VALID, R.RES_SEAL_SEALED_STEP, R.RES_SEAL_GROUP_SEALED, R.RES_PARTNER_DEVICE, R.RES_PARTNER_CONFIGURED, R.RES_PARTNER_ACCEPTED, R.RES_PARTNER_COFED, R.RES_PARTNER_UP, R.RES_PARTNER_FEED, R.RES_PARTNER_REFUSED, R.RES_PARTNER_SEALED] ++
  [R.RES_STATUS_PARTNER_LOST, R.RES_STATUS_MEMBER_LOST, R.RES_STATUS_LOCAL_LOSS, R.RES_STATUS_SELF_FENCED, R.RES_STATUS_SB_HELD, R.RES_STATUS_PAIR_REFUSED, R.RES_STATUS_CATCHUP, R.RES_STATUS_STATE_LOST, R.RES_STATUS_RESTORED, R.RES_STATUS_CAB_LOST, R.RES_CNT_0, R.RES_CNT_1, R.RES_CNT_2, R.RES_CNT_3, R.RES_CNT_4, R.RES_CNT_5, R.RES_CNT_6, R.RES_CNT_7, R.RES_CNT_8, R.RES_CNT_9] ++
  [R.RES_LOST_DEVICE, R.RES_LOST_VALID, R.RES_LOST_STEP, R.RES_DRAIN_BYTES, R.RES_CATCHUP_BYTES, R.RES_LOAD_BYTES, R.RES_HB_MISSED, R.RES_RESTORES, R.RES_LAST_US]
def Tbl.PAIR : List Field :=
  [R.PAIR_BASE, R.PAIR_CFG_SIZE, R.PAIR_CFG_METHOD, R.PAIR_CFG_LIVE, R.PAIR_CFG_WRITTEN, R.PAIR_CFG_VALID, R.PAIR_CFG_PART, R.PAIR_STEPS_STEP0, R.PAIR_STEPS_STEP1]
def Tbl.HOST : List Field :=
  [R.HOST_SRC_SOURCE, R.HOST_SRC_VALID, R.HOST_SRC_ACCEPTED, R.HOST_SRC_SLOT, R.HOST_SRC_FILLING, R.HOST_BASE_CAB_BASE, R.HOST_SIZE_CAB_SIZE, R.HOST_SEALED_SEALED0, R.HOST_SEALED_SEALED1, R.HOST_MISSING, R.HOST_STEPS_WSTATE_STEP, R.HOST_STEPS_DRAIN_STEP]
def Tbl.BOOT : List Field :=
  [R.BOOT_STATE_STAGE, R.BOOT_STATE_CODE, R.BOOT_ID0_LOT, R.BOOT_ID0_WAFER, R.BOOT_ID0_DIE_X, R.BOOT_ID0_DIE_Y, R.BOOT_ID1_TEST_REV, R.BOOT_ID1_DATE_CODE, R.BOOT_BENCH_LANE_LANES, R.BOOT_BENCH_LANE_PORTS, R.BOOT_BENCH_SUB_SUBCH, R.BOOT_BENCH_CL_FUSED, R.BOOT_BENCH_CL_BENCHED, R.BOOT_BENCH_CL_ABSENT, R.BOOT_SERIAL, R.BOOT_CTRL_COMPUTE_RESET, R.BOOT_STATUS_TEST_FAIL, R.BOOT_STATUS_FUSED_PASS, R.BOOT_STATUS_LOG_APPLIED, R.BOOT_STATUS_COMPUTE_RESET] ++
  [R.BOOT_CNT_0, R.BOOT_CNT_1, R.BOOT_CNT_2, R.BOOT_CNT_3, R.BOOT_TIME_END_US]
def Tbl.CFG : List Field :=
  [R.CFG_STATE_COPY, R.CFG_STATE_LOCKED, R.CFG_STATE_SEED_SRC, R.CFG_STATE_SVN, R.CFG_STATUS_LOCKED_WRITE, R.CFG_STATUS_PARTNER_COFED, R.CFG_STATUS_FEED_MISMATCH, R.CFG_STATUS_COPY_FAILED, R.CFG_STATUS_LOG_FULL, R.CFG_STATUS_LOG_TAG_BAD, R.CFG_STATUS_SEED_REJECTED, R.CFG_CNT_0, R.CFG_CNT_1, R.CFG_CNT_2, R.CFG_CNT_3, R.CFG_CNT_4, R.CFG_CNT_5, R.CFG_CNT_6, R.CFG_ERR_REASON_A, R.CFG_ERR_REASON_B] ++
  [R.CFG_ERR_RECORD, R.CFG_ERR_OFFSET, R.CFG_LOG_ENTRIES, R.CFG_LOG_LIVE, R.CFG_LOG_NEXT_SEQ]
def Tbl.SEC : List Field :=
  [R.SEC_STATE_KEY, R.SEC_STATE_OWNER_SET, R.SEC_STATE_OWNER_OFF, R.SEC_STATE_CFG_SIGNER, R.SEC_STATE_SVN_FLOOR, R.SEC_INDEX_NEXT, R.SEC_INDEX_BLOCKS, R.SEC_INDEX_RESERVED, R.SEC_CTRL_RATE_S, R.SEC_CTRL_DEPTH, R.SEC_CTRL_FABRIC, R.SEC_ATT_ALLOW_RANKS, R.SEC_STATUS_SIG_FAIL, R.SEC_STATUS_SVN_LOW, R.SEC_STATUS_DENIED, R.SEC_STATUS_BUSY, R.SEC_STATUS_EXHAUSTED, R.SEC_STATUS_OTP_TORN, R.SEC_STATUS_TREE_BAD, R.SEC_STATUS_OWNER_CHANGE] ++
  [R.SEC_CNT_0, R.SEC_CNT_1, R.SEC_CNT_2, R.SEC_CNT_3, R.SEC_CNT_4, R.SEC_CNT_5, R.SEC_CNT_6, R.SEC_CNT_7, R.SEC_TOKENS, R.SEC_SIGNATURES, R.SEC_CERTS, R.SEC_LAST_SIGN_US]
def Tbl.PWR : List Field :=
  [R.PWR_CTRL_CAP_W, R.PWR_CTRL_CAP_HYST_W, R.PWR_CTRL_CAP_POINT, R.PWR_DOMAINS_ON, R.PWR_FAULTED, R.PWR_STATUS_DOMAIN_FAULT, R.PWR_STATUS_CAP_ACTIVE, R.PWR_STATUS_INPUT_LOW, R.PWR_STATUS_THERMAL_TRIP, R.PWR_CNT_0, R.PWR_CNT_1, R.PWR_CNT_2, R.PWR_CNT_3, R.PWR_FAULT_LOG_DOMAIN, R.PWR_FAULT_LOG_KIND, R.PWR_FAULT_LOG_TIME, R.PWR_ENERGY_J]
def Tbl.CLK : List Field :=
  [R.CLK_STATE_NOC_LOCK, R.CLK_STATE_MC_LOCK, R.CLK_STATUS_PLL_UNLOCK, R.CLK_STATUS_DROOP, R.CLK_CNT_0, R.CLK_CNT_1, R.CLK_DROOP_CTRL_DROOP_MV]
def Tbl.CLKCL : List Field :=
  [R.CLKCL_CTRL_MAX_OP, R.CLKCL_STATE_OP, R.CLKCL_STATE_TARGET, R.CLKCL_STATE_STEPPING, R.CLKCL_STATE_LIMIT, R.CLKCL_DROOPS, R.CLKCL_STEPS]
def Tbl.TEL : List Field :=
  [R.TEL_TEMP_JMAX, R.TEL_TEMP_MEM_MAX, R.TEL_THERM_THROTTLE_C, R.TEL_THERM_TRIP_C, R.TEL_STATUS_THROTTLE, R.TEL_STATUS_TRIP, R.TEL_STATUS_SENSOR_FAIL, R.TEL_STATUS_EVENT_DROP, R.TEL_CNT_0, R.TEL_CNT_1, R.TEL_CNT_2, R.TEL_CNT_3, R.TEL_CL_TEMP_TEMP, R.TEL_TIME, R.TEL_INPUT_VOLTS, R.TEL_INPUT_AMPS, R.TEL_INPUT_WATTS, R.TEL_COOLANT_INLET, R.TEL_COOLANT_OUTLET]
def Tbl.TELPT : List Field :=
  [R.TELPT_PT_US, R.TELPT_PT_STEP]
def Tbl.MGMT : List Field :=
  [R.MGMT_STATUS_REG_BAD_ACCESS, R.MGMT_STATUS_REG_UNMAPPED, R.MGMT_CNT_0, R.MGMT_CNT_1, R.MGMT_ERR_OFFSET]
def Tbl.NOC : List Field :=
  [R.NOC_STATUS_ADDR_UNMAPPED, R.NOC_CNT_0, R.NOC_ERR_ADDR]
def Tbl.CORE : List Field :=
  [R.CORE_SEQ_STATE_RUNNING, R.CORE_SEQ_STATE_BUFFER, R.CORE_SEQ_STATE_SLOT, R.CORE_SEQ_STATE_PROG, R.CORE_SEQ_CMDS_COMMANDS]

end Sys2Proof.Machine
end

