-- ==== Sys2Proof/Machine/Blocks.lean ====
section
/-! DEFINITION. The register blocks of R494 and where each instance of a block lies: the die register space of die d
begins at 0x01F0_0000_0000 + d × 0x1_0000_0000, and a register is named here by its absolute offset
d × 0x1_0000_0000 + (offset in the die register space). -/

namespace Sys2Proof.Machine

/-- Clusters and cores are numbered module-wide here: cluster `cl` is 8 × die + cluster (naming table of chapter 00),
core `k` is the logical core of that cluster. -/
inductive Blk where
  | mgmt (d : Nat) | noc (d : Nat)
  | rseq (cl : Nat) | plan (cl : Nat) | core (cl k : Nat)
  | me (cl k : Nat) | mecl (cl : Nat) | tb (cl k : Nat)
  | sp (cl k : Nat) | cm (cl : Nat) | shelfK (cl k n : Nat) | shelfC (cl n : Nat)
  | ve (cl k : Nat) | dma (cl : Nat) | ch (cl n : Nat)
  | wqp (p : Nat) | wq (n : Nat) | sync (i : Nat) | syncd (d : Nat)
  | mem (d : Nat) | pmap (d p : Nat) | loss (d i : Nat) | grp (g : Nat)
  | jlk (d : Nat) | port (p : Nat) | route (d t : Nat) | win (d w : Nat) | mir (d e : Nat)
  | hbr | apt (i : Nat) | layout | part (p : Nat)
  | res | pair (i : Nat) | host (i : Nat) | boot (d : Nat) | cfg | sec | pwr
  | clk (d : Nat) | clkcl (cl : Nat) | tel (d : Nat) | telpt (d p ph : Nat)
  deriving DecidableEq, Repr

/-- Size of one die register space (R23). -/
def dieSpan : Nat := 0x100000000

/-- Absolute offset of the first register of a block instance (R494 and the register sections of each chapter). -/
def Blk.base : Blk → Nat
  | .mgmt d => d * dieSpan
  | .noc d => d * dieSpan + 0x100000
  | .rseq cl => (cl / 8) * dieSpan + 0x400000 + (cl % 8) * 0x1000
  | .plan cl => (cl / 8) * dieSpan + 0x480000 + (cl % 8) * 0x1000
  | .core cl k => (cl / 8) * dieSpan + 0x600000 + (cl % 8) * 0x4000 + k * 0x400
  | .me cl k => (cl / 8) * dieSpan + 0x800000 + (cl % 8) * 0x8000 + k * 0x400
  | .mecl cl => (cl / 8) * dieSpan + 0x800000 + (cl % 8) * 0x8000 + 0x4000
  | .tb cl k => (cl / 8) * dieSpan + 0xC00000 + (cl % 8) * 0x4000 + k * 0x400
  | .sp cl k => (cl / 8) * dieSpan + 0x1000000 + (cl % 8) * 0x40000 + k * 0x2000
  | .cm cl => (cl / 8) * dieSpan + 0x1000000 + (cl % 8) * 0x40000 + 0x20000
  | .shelfK cl k n => (cl / 8) * dieSpan + 0x1000000 + (cl % 8) * 0x40000 + k * 0x2000 + 0x1000 + n * 0x20
  | .shelfC cl n => (cl / 8) * dieSpan + 0x1000000 + (cl % 8) * 0x40000 + 0x21000 + n * 0x20
  | .ve cl k => (cl / 8) * dieSpan + 0x1400000 + (cl % 8) * 0x4000 + k * 0x400
  | .dma cl => (cl / 8) * dieSpan + 0x1800000 + (cl % 8) * 0x4000
  | .ch cl n => (cl / 8) * dieSpan + 0x1800000 + (cl % 8) * 0x4000 + 0x1000 + n * 0x80
  | .wqp p => 0x1C00000 + 0x400 + p * 0x40
  | .wq n => 0x1C00000 + 0x1000 + n * 0x40
  | .sync i => (i / 4096) * dieSpan + 0x2000000 + (i % 4096) * 0x10
  | .syncd d => d * dieSpan + 0x2010000
  | .mem d => d * dieSpan + 0x2400000
  | .pmap d p => d * dieSpan + 0x2400400 + p * 8
  | .loss d i => d * dieSpan + 0x2400800 + i * 8
  | .grp g => (g / 8) * dieSpan + 0x2401000 + (g % 8) * 0x100
  | .jlk d => d * dieSpan + 0x2800000
  | .port p => (p / 6) * dieSpan + 0x2801000 + (p % 6) * 0x400
  | .route d t => d * dieSpan + 0x2810000 + t * 8
  | .win d w => d * dieSpan + 0x2820000 + w * 0x20
  | .mir d e => d * dieSpan + 0x2822000 + e * 0x20
  | .hbr => 0x2C00000
  | .apt i => 0x2C01000 + i * 8
  | .layout => 0x3000000
  | .part p => 0x3000400 + p * 0x100
  | .res => 0x3400000
  | .pair i => 0x3400400 + i * 0x20
  | .host i => 0x3400800 + i * 0x40
  | .boot d => d * dieSpan + 0x3800000
  | .cfg => 0x3C00000
  | .sec => 0x4000000
  | .pwr => 0x4400000
  | .clk d => d * dieSpan + 0x4800000
  | .clkcl cl => (cl / 8) * dieSpan + 0x4800100 + (cl % 8) * 0x20
  | .tel d => d * dieSpan + 0x4C00000
  | .telpt d p ph => d * dieSpan + 0x4C01000 + p * 0x40 + ph * 8

/-- The same register block `i` registers further on (the numbered registers of R102, R415, R436 and R474). -/
def Field.nth (f : Field) (i : Nat) : Field := ⟨f.off + 8 * i, f.lsb, f.width, f.acc, f.por, f.kept⟩

/-- Copies of a field beyond the first, for `n` registers in all, 8 bytes apart. -/
def Field.copies (f : Field) (n : Nat) : List Field := ((upto n).drop 1).map f.nth

/-- Every field of a block, the numbered registers written out. -/
def Blk.fields : Blk → List Field
  | .mgmt _ => Tbl.MGMT
  | .noc _ => Tbl.NOC
  | .rseq _ => Tbl.RSEQ
  | .plan _ => Tbl.PLAN
  | .core _ _ => Tbl.CORE
  | .me _ _ => Tbl.ME ++ R.ME_MAXABS_MAXABS_EVEN.copies 16 ++ R.ME_MAXABS_MAXABS_ODD.copies 16
  | .mecl _ => Tbl.MECL
  | .tb _ _ => Tbl.TB
  | .sp _ _ => Tbl.SP
  | .cm _ => Tbl.CM
  | .shelfK _ _ _ => Tbl.SHELF
  | .shelfC _ _ => Tbl.SHELF
  | .ve _ _ => Tbl.VE
  | .dma _ => Tbl.DMA
  | .ch _ _ => Tbl.CH
  | .wqp _ => Tbl.WQP
  | .wq _ => Tbl.WQ
  | .sync _ => Tbl.SYNC
  | .syncd _ => Tbl.SYNCD
  | .mem _ => Tbl.MEM
  | .pmap _ _ => Tbl.PMAP
  | .loss _ _ => Tbl.LOSS
  | .grp _ => Tbl.GRP
  | .jlk _ => Tbl.JLK
  | .port _ => Tbl.PORT
  | .route _ _ => Tbl.ROUTE
  | .win _ _ => Tbl.WIN
  | .mir _ _ => Tbl.MIR
  | .hbr => Tbl.HBR
  | .apt _ => Tbl.APT
  | .layout => Tbl.LAYOUT
  | .part _ => Tbl.PART
  | .res => Tbl.RES ++ [R.RES_PARTNER_DEVICE.nth 1, R.RES_PARTNER_CONFIGURED.nth 1, R.RES_PARTNER_ACCEPTED.nth 1,
      R.RES_PARTNER_COFED.nth 1, R.RES_PARTNER_UP.nth 1, R.RES_PARTNER_FEED.nth 1, R.RES_PARTNER_REFUSED.nth 1,
      R.RES_PARTNER_SEALED.nth 1]
  | .pair _ => Tbl.PAIR
  | .host _ => Tbl.HOST
  | .boot d => (Tbl.BOOT ++ R.BOOT_BENCH_CL_FUSED.copies 8 ++ R.BOOT_BENCH_CL_BENCHED.copies 8 ++
      R.BOOT_BENCH_CL_ABSENT.copies 8 ++ R.BOOT_TIME_END_US.copies 9).filter (fun f => d == 0 || f.off < 0x80)
  | .cfg => Tbl.CFG
  | .sec => Tbl.SEC
  | .pwr => Tbl.PWR
  | .clk _ => Tbl.CLK
  | .clkcl _ => Tbl.CLKCL
  | .tel d => (Tbl.TEL ++ R.TEL_CL_TEMP_TEMP.copies 8).filter (fun f => d == 0 || f.off < 0x800)
  | .telpt _ _ _ => Tbl.TELPT

/-- The cluster to which a register block belongs, for the blocks of clusters and cores (R9, R494). -/
def Blk.cluster? : Blk → Option Nat
  | .rseq cl => some cl | .plan cl => some cl | .core cl _ => some cl | .me cl _ => some cl | .mecl cl => some cl
  | .tb cl _ => some cl | .sp cl _ => some cl | .cm cl => some cl | .shelfK cl _ _ => some cl | .shelfC cl _ => some cl
  | .ve cl _ => some cl | .dma cl => some cl | .ch cl _ => some cl
  | _ => none

/-- The block instance that holds die-register offset `off` of die `d` (R494), when one does, before variants and fuses
are looked at. -/
def decodeReg (d off : Nat) : Option Blk :=
  let o (b : Nat) : Nat := off - b
  if off < 0x100000 then some (.mgmt d)
  else if off < 0x400000 then some (.noc d)
  else if off < 0x480000 then if o 0x400000 < 0x8000 then some (.rseq (8 * d + o 0x400000 / 0x1000)) else none
  else if off < 0x600000 then if o 0x480000 < 0x8000 then some (.plan (8 * d + o 0x480000 / 0x1000)) else none
  else if off < 0x800000 then
    if o 0x600000 < 0x20000 then some (.core (8 * d + o 0x600000 / 0x4000) (o 0x600000 % 0x4000 / 0x400)) else none
  else if off < 0xC00000 then
    let r := o 0x800000
    if r < 0x40000 then
      if r % 0x8000 < 0x4000 then some (.me (8 * d + r / 0x8000) (r % 0x8000 / 0x400))
      else if r % 0x8000 < 0x4080 then some (.mecl (8 * d + r / 0x8000)) else none
    else none
  else if off < 0x1000000 then
    if o 0xC00000 < 0x20000 then some (.tb (8 * d + o 0xC00000 / 0x4000) (o 0xC00000 % 0x4000 / 0x400)) else none
  else if off < 0x1400000 then
    let r := o 0x1000000
    if r < 0x200000 then
      let cl := 8 * d + r / 0x40000
      let q := r % 0x40000
      if q < 0x20000 then
        if q % 0x2000 < 0x1000 then some (.sp cl (q / 0x2000))
        else if q % 0x2000 < 0x1800 then some (.shelfK cl (q / 0x2000) ((q % 0x2000 - 0x1000) / 0x20)) else none
      else if q < 0x21000 then some (.cm cl)
      else if q < 0x23000 then some (.shelfC cl ((q - 0x21000) / 0x20)) else none
    else none
  else if off < 0x1800000 then
    if o 0x1400000 < 0x20000 then some (.ve (8 * d + o 0x1400000 / 0x4000) (o 0x1400000 % 0x4000 / 0x400)) else none
  else if off < 0x1C00000 then
    let r := o 0x1800000
    if r < 0x20000 then
      if r % 0x4000 < 0x1000 then some (.dma (8 * d + r / 0x4000))
      else if r % 0x4000 < 0x2000 then some (.ch (8 * d + r / 0x4000) ((r % 0x4000 - 0x1000) / 0x80)) else none
    else none
  else if off < 0x2000000 then
    let r := o 0x1C00000
    if d ≠ 0 then none
    else if r < 0x400 then none
    else if r < 0x800 then some (.wqp ((r - 0x400) / 0x40))
    else if r < 0x1000 then none
    else if r < 0x2000 then some (.wq ((r - 0x1000) / 0x40)) else none
  else if off < 0x2400000 then
    let r := o 0x2000000
    if r < 0x10000 then some (.sync (4096 * d + r / 0x10))
    else if r < 0x10028 then some (.syncd d) else none
  else if off < 0x2800000 then
    let r := o 0x2400000
    if r < 0x400 then some (.mem d)
    else if r < 0x480 then some (.pmap d ((r - 0x400) / 8))
    else if r < 0x800 then none
    else if r < 0x1000 then some (.loss d ((r - 0x800) / 8))
    else if r < 0x1800 then some (.grp (8 * d + (r - 0x1000) / 0x100)) else none
  else if off < 0x2C00000 then
    let r := o 0x2800000
    if r < 0x1000 then some (.jlk d)
    else if r < 0x2800 then some (.port (6 * d + (r - 0x1000) / 0x400))
    else if r < 0x10000 then none
    else if r < 0x20000 then some (.route d ((r - 0x10000) / 8))
    else if r < 0x22000 then some (.win d ((r - 0x20000) / 0x20))
    else if r < 0x22080 then some (.mir d ((r - 0x22000) / 0x20)) else none
  else if off < 0x3000000 then
    let r := o 0x2C00000
    if d ≠ 0 then none
    else if r < 0x1000 then some .hbr
    else if r < 0x1400 then some (.apt ((r - 0x1000) / 8)) else none
  else if off < 0x3400000 then
    let r := o 0x3000000
    if d ≠ 0 then none
    else if r < 0x400 then some .layout
    else if r < 0x1400 then some (.part ((r - 0x400) / 0x100)) else none
  else if off < 0x3800000 then
    let r := o 0x3400000
    if d ≠ 0 then none
    else if r < 0x400 then some .res
    else if r < 0x600 then some (.pair ((r - 0x400) / 0x20))
    else if r < 0x800 then none
    else if r < 0x900 then some (.host ((r - 0x800) / 0x40)) else none
  else if off < 0x3C00000 then some (.boot d)
  else if off < 0x4000000 then if d = 0 then some .cfg else none
  else if off < 0x4400000 then if d = 0 then some .sec else none
  else if off < 0x4800000 then if d = 0 then some .pwr else none
  else if off < 0x4C00000 then
    let r := o 0x4800000
    if r < 0x100 then some (.clk d) else if r < 0x200 then some (.clkcl (8 * d + (r - 0x100) / 0x20)) else none
  else if off < 0x5000000 then
    let r := o 0x4C00000
    if r < 0x1000 then some (.tel d)
    else if d = 0 ∧ r < 0x1400 then some (.telpt d ((r - 0x1000) / 0x40) (r % 0x40 / 8)) else none
  else none

end Sys2Proof.Machine
end

