-- ==== Sys2Proof/Config.lean ====
section
/-! DEFINITION. What an implementation fixes and the spec leaves open: free values, as opaque constants with no body.
Nothing can be proved about their values, so a statement about them holds for every part. -/

namespace Sys2Proof

/-- A free bit pattern: the `n`-th one the machine took, `w` bits wide (log entry 2). -/
opaque Config.freeBits : (n w : Nat) → Nat

/-- A free byte of SRAM whose contents the spec calls undefined: the `n`-th undefined region, byte `o` (log entry 2). -/
opaque Config.freeByte : (n o : Nat) → BitVec 8

/-- Core cycles that an access waits at a port of a scratchpad or a commons beyond its own cost (R149, R154): the `n`-th such access. Where accesses meet
in time is no part of the model (log entry 104). -/
opaque Config.waitCycles : (n : Nat) → BitVec 32

/-- The slice of a checkpoint that the operator descriptors of a cluster's steps name (R57): first 64-byte unit in the checkpoint, units, first unit in the
pass's region. The spec does not say which field of a descriptor names it, so it is a free function of the descriptors' bytes (log entry 101). -/
opaque Config.ckptSlice : (descriptors : List (List Byte)) → Nat × Nat × Nat

/-- The 16-bit draw of stochastic rounding (R140): key number, logical core (module-wide), conversion path
(0 ACC_STORE, 1 A_CVT, 2 TB, 3 VE), sequence number, element position (log entry 4). -/
opaque Config.srDraw : (key core path seq pos : Nat) → BitVec 16

/-- The sequence number of the VE_RUN that works on element `col` of row `row` of vector operation `op`, and the element's place in it (R208, R229): the
kernels are firmware's. Each operation carried out has a number of its own, so that the draws of two of them are independent (R140). -/
opaque Config.vopPlace : (op row col : Nat) → Nat × Nat

/-- Where the shape slots of a DISPATCH lie on a cluster that holds no plan (R235 names no table outside a rally; log entry 46). -/
opaque Config.shapeTable : (cluster : Nat) → Nat

/-- Where a COMBINE finds what it adds into row `t` (R235, log entry 111): columns of the weight row with the expert output row that each weighs. -/
opaque Config.combineRows : (run t : Nat) → List (Nat × Nat)

/-- Core cycles that the planner counts for a VE_RUN in the estimate of a program (R211 names no rule for one): from the command (log entry 117). -/
opaque Config.veEstimate : (cmd : List Byte) → Nat

/-- Bytes of the kernel of a KERNEL operation (R235), from its descriptor: the spec gives a kernel a place and no length (log entry 150). -/
opaque Config.kernelBytes : (desc : List Byte) → Nat

/-- Where in the planner's data area the VE_RUN that ends a product reports its largest magnitude (R197, R200): from the core and the step (log entry 118). -/
opaque Config.reportPlace : (core step : Nat) → Nat

/-- Payload of a management message of R412 and R418, whose layout the spec does not give: the bytes that carry its fields (log entry 55). -/
opaque Config.mgmtBytes (typ : Nat) (fields : List Nat) : List Byte

/-- Field `i` of a received management message's payload (log entry 55). -/
opaque Config.mgmtField (typ i : Nat) (bs : List Byte) : Nat

/-- The whistle stage as bytes, and back; the spec gives its contents and its length of 128 KiB, not its layout (log entry 56). -/
opaque Config.stageBytes (words : List Nat) : List Byte
opaque Config.stageWords (bs : List Byte) : List Nat

/-- The 4 KiB header of a cabinet (R393), whose layout the spec does not give: from the plan entries (method, base, size), back to
them, and with a slot's sealed step written into it (log entry 56). -/
opaque Config.cabHeader (entries : List (Nat × Nat × Nat)) : List Byte
opaque Config.cabEntries (header : List Byte) : List (Nat × Nat × Nat)
opaque Config.cabMark (slot step : Nat) (header : List Byte) : List Byte

/-- The protection level of the group member of a rank, of which no message tells this device (R410; log entry 142). -/
opaque Config.memberLevel : (n rank : Nat) → Nat

/-- Where the declaring partner of lost device `dev` puts the cabinet header and the stage that a loading spare applies (R405; log entry 141). -/
opaque Config.loadPlace (dev : Nat) : Nat

/-- Where a partner keeps this device's cabinet and how large it may be; the spec does not say how the source learns either (log
entry 57). -/
opaque Config.cabBaseAt (dev : Nat) : Nat
opaque Config.cabSizeAt (dev : Nat) : Nat

/-- The payload of a PARAM flit, whose layout the spec does not give: from device ID, module port and good-lane mask, and field `i` of a received one
(0 device, 1 port, 2 version, 3 mask) (log entry 59). -/
opaque Config.paramBytes (dev port mask : Nat) : List Byte
opaque Config.paramField (i : Nat) (bs : List Byte) : Nat

/-- A dword of a function's PCIe configuration space before anybody has written it, beyond what R347 fixes (log entry 60). -/
opaque Config.pcieConfig (fn dword : Nat) : BitVec 32

/-- The dword at which a function's capability lies (R347 names the capabilities and gives no place for them): by its PCI Express identity, extended
ones from 0x10000; and the bits of a dword that a configuration write can change (log entry 60). -/
opaque Config.pcieCapAt (fn cap : Nat) : Nat
opaque Config.pcieWritable (fn dword : Nat) : BitVec 32

/-- Tlankober's PCI-SIG Vendor ID, whose value the spec does not give (log entry 60). -/
opaque Config.vendorId : BitVec 16

/-- What the protection record gives another device: its partners, and the cabinets it hosts (source, base, size); the spec does not say how the
spare that takes a device's place learns them (log entry 57). -/
opaque Config.partnersOf (dev : Nat) : List Nat
opaque Config.hostsOf (dev : Nat) : List (Nat × Nat × Nat)

/-- The PLDM version that the terminus reports for a type, and the bytes of a PDR, which the spec leaves to DSP0240 and DSP0248 (log entry 62). -/
opaque Config.pldmVersion (typ : Nat) : Nat
opaque Config.pdrBytes (typ what : Nat) : List Byte

/-- Does an XMSS-SHAKE256_20_256 signature over a message verify with a public key (R438)? The scheme is that of RFC 8391 and SP 800-208 (log entry
63). -/
opaque Config.xmssOk (key msg sig : List Byte) : Bool

/-- Byte `i` of the attestation key's signature of a message with a leaf, and of the manufacturing key's signature of a certificate (R438, R443) (log
entry 63). -/
opaque Config.signByte : (leaf : Nat) → (msg : List Byte) → (i : Nat) → Byte
opaque Config.certByte : (body : List Byte) → (i : Nat) → Byte

/-- The attestation key's signature of a message with a leaf, and the manufacturing key's signature of a certificate: 2,820 bytes (R423, R438). -/
def Config.xmssSign (leaf : Nat) (msg : List Byte) : List Byte := (List.range 2820).map (Config.signByte leaf msg)
def Config.certSign (body : List Byte) : List Byte := (List.range 2820).map (Config.certByte body)

/-- Byte `i` of the SHAKE256 digest of a message (log entry 63). -/
opaque Config.shakeByte : (msg : List Byte) → (i : Nat) → Byte

/-- The SHAKE256 digest of a message, 256 bits of output (R439). -/
def Config.shake256 (msg : List Byte) : List Byte := (List.range 32).map (Config.shakeByte msg)

/-- Byte `i` of the attestation public key, which R438 makes 68 bytes, and the manufacturing key's generation (R445) (log entry 63). -/
opaque Config.attKeyByte : (i : Nat) → Byte
opaque Config.mfgKeyId : BitVec 32

/-- The public keys in the island's ROM (R438), and the ROM itself (R448) (log entry 63). -/
opaque Config.mfgKey : List Byte
opaque Config.fwKey : List Byte
opaque Config.islandRom : List Byte

/-- A die's fuse record as it was signed; the spec does not give its layout (log entry 63). -/
opaque Config.fuseBytes (fields : List Nat) : List Byte

/-- Tlankober's JEDEC manufacturer identity, and the version field of the IDCODE (R486), whose values the spec does not give (log entry 64). -/
opaque Config.jedecId : BitVec 11
opaque Config.tapVersion : BitVec 4

end Sys2Proof
end

