-- ==== Sys2Proof/Machine/Arith.lean ====
section
/-! DEFINITION. Number formats and arithmetic (R126-R139): decoding, exact sums and products, one rounding, conversions
with special values.  A finite value is a signed dyadic number held exactly. -/

namespace Sys2Proof.Machine

/-- A decoded number: NaN (payloads are not kept, R126), an infinity, or (-1)^neg × m × 2^e exactly. -/
inductive FVal where
  | nan
  | inf (neg : Bool)
  | fin (neg : Bool) (m : Nat) (e : Int)
  deriving DecidableEq, Repr

/-- How a format spells infinities and NaNs (R126). -/
inductive Specials where
  | ieee      -- top exponent: infinity at mantissa 0, NaN above
  | e4m3      -- only mantissa all ones at the top exponent is NaN, no infinity
  | none      -- neither
  deriving DecidableEq, Repr

/-- An element encoding (R126): exponent bits, mantissa bits, bias, special values. -/
structure Fmt where
  ebits : Nat
  mbits : Nat
  bias : Nat
  special : Specials
  deriving DecidableEq, Repr

def Fmt.bf16 : Fmt := ⟨8, 7, 127, .ieee⟩
def Fmt.e4m3 : Fmt := ⟨4, 3, 7, .e4m3⟩
def Fmt.e5m2 : Fmt := ⟨5, 2, 15, .ieee⟩
def Fmt.e3m2 : Fmt := ⟨3, 2, 3, .none⟩
def Fmt.e2m3 : Fmt := ⟨2, 3, 1, .none⟩
def Fmt.e2m1 : Fmt := ⟨2, 1, 1, .none⟩
def Fmt.fp32 : Fmt := ⟨8, 23, 127, .ieee⟩

/-- Bits of an element. -/
def Fmt.width (f : Fmt) : Nat := 1 + f.ebits + f.mbits

/-- Magnitude code of the largest finite value (R126). -/
def Fmt.maxFinite (f : Fmt) : Nat :=
  match f.special with
  | .ieee => (2 ^ f.ebits - 1) * 2 ^ f.mbits - 1
  | .e4m3 => 2 ^ (f.ebits + f.mbits) - 2
  | .none => 2 ^ (f.ebits + f.mbits) - 1

/-- Magnitude code of the canonical NaN (R126); formats without NaN have none and give 0. -/
def Fmt.nanCode (f : Fmt) : Nat :=
  match f.special with
  | .ieee => if f.ebits = 5 then 0x7F else (2 ^ f.ebits - 1) * 2 ^ f.mbits + 2 ^ (f.mbits - 1)
  | .e4m3 => 0x7F
  | .none => 0

/-- Exponent of the least significant bit of a subnormal. -/
def Fmt.qmin (f : Fmt) : Int := 1 - (f.bias : Int) - f.mbits

/-- Sign bit at the top of an element. -/
def Fmt.signBit (f : Fmt) (neg : Bool) : Nat := b2n neg * 2 ^ (f.ebits + f.mbits)

/-- Element encoding to value (R126). -/
def Fmt.decode (f : Fmt) (v : Nat) : FVal :=
  let neg := bit v (f.ebits + f.mbits)
  let mag := v % 2 ^ (f.ebits + f.mbits)
  if f.maxFinite < mag then
    match f.special with
    | .ieee => if mag = (2 ^ f.ebits - 1) * 2 ^ f.mbits then .inf neg else .nan
    | _ => .nan
  else
    let e := mag / 2 ^ f.mbits
    let m := mag % 2 ^ f.mbits
    if e = 0 then .fin neg m f.qmin else .fin neg (2 ^ f.mbits + m) (f.qmin + (e - 1 : Nat))

/-- Rounding modes of R133. -/
inductive Rnd where
  | rne | rtz | rdn | rup
  | sr (draw : Nat)
  deriving DecidableEq, Repr

/-- Rounding mode code (R133); codes 5-7 are reserved. -/
def rndOf (code draw : Nat) : Option Rnd :=
  match code with
  | 0 => some .rne | 1 => some .rtz | 2 => some .rdn | 3 => some .rup | 4 => some (.sr (draw % 65536))
  | _ => none

/-- Does a discarded part `d` of `r` bits below the last kept bit round the magnitude away from zero (R133, R139)?
`odd` is the kept magnitude's last bit. -/
def roundsUp (mode : Rnd) (neg odd : Bool) (d r : Nat) : Bool :=
  match mode with
  | .rne => decide (2 ^ r < 2 * d) || (decide (2 * d = 2 ^ r) && odd)
  | .rtz => false
  | .rdn => neg && decide (0 < d)
  | .rup => !neg && decide (0 < d)
  | .sr u => decide (65536 ≤ (if 16 ≤ r then d >>> (r - 16) else d <<< (16 - r)) + u)

/-- Magnitude code of m × 2^e rounded into the format with the exponent unbounded above (R134, R139). -/
def Fmt.magCode (f : Fmt) (mode : Rnd) (neg : Bool) (m : Nat) (e : Int) : Nat :=
  if m = 0 then 0 else
  let top : Int := (Nat.log2 m : Int) + e
  let q : Int := max (top - f.mbits) f.qmin
  let kept : Nat :=
    if q ≤ e then m <<< (e - q).toNat
    else
      let r := (q - e).toNat
      let k := m >>> r
      if roundsUp mode neg (k % 2 = 1) (m % 2 ^ r) r then k + 1 else k
  (q - f.qmin).toNat * 2 ^ f.mbits + kept

/-- Code that a finite result beyond the range takes (R134): FP32 and BF16 follow IEEE 754 for the mode, every FP8, FP6
and FP4 target takes its largest finite value. -/
def Fmt.overflowCode (f : Fmt) (mode : Rnd) (neg : Bool) : Nat :=
  if f.ebits = 8 then
    let infCode := (2 ^ f.ebits - 1) * 2 ^ f.mbits
    match mode with
    | .rne => infCode
    | .sr _ => infCode
    | .rtz => f.maxFinite
    | .rup => if neg then f.maxFinite else infCode
    | .rdn => if neg then infCode else f.maxFinite
  else f.maxFinite

/-- Value to element encoding (R134, R135). A NaN becomes the canonical NaN; FP6 and FP4 have none and give +0 (the block
scale then carries the NaN, R135). -/
def Fmt.encode (f : Fmt) (mode : Rnd) : FVal → Nat
  | .nan => f.nanCode
  | .inf neg =>
    match f.special with
    | .ieee => f.signBit neg + (2 ^ f.ebits - 1) * 2 ^ f.mbits
    | .e4m3 => 0x7F
    | .none => 0
  | .fin neg m e =>
    let c := f.magCode mode neg m e
    f.signBit neg + (if f.maxFinite < c then f.overflowCode mode neg else c)

/-- Multiply by 2^k exactly. -/
def FVal.scale (k : Int) : FVal → FVal
  | .fin n m e => .fin n m (e + k)
  | v => v

/-- Negate. -/
def FVal.neg : FVal → FVal
  | .nan => .nan
  | .inf n => .inf (!n)
  | .fin n m e => .fin (!n) m e

/-- Absolute value. -/
def FVal.abs : FVal → FVal
  | .nan => .nan
  | .inf _ => .inf false
  | .fin _ m e => .fin false m e

/-- Is the value finite? -/
def FVal.isFin : FVal → Bool
  | .fin _ _ _ => true
  | _ => false

/-- Exact product (R131). -/
def FVal.mul : FVal → FVal → FVal
  | .nan, _ => .nan
  | _, .nan => .nan
  | .inf a, .inf b => .inf (a != b)
  | .inf a, .fin b m _ => if m = 0 then .nan else .inf (a != b)
  | .fin a m _, .inf b => if m = 0 then .nan else .inf (a != b)
  | .fin a m e, .fin b n f => .fin (a != b) (m * n) (e + f)

/-- Signed integer value of a finite number in units of 2^q, for q at most its exponent. -/
def FVal.units (q : Int) : FVal → Int
  | .fin n m e => let v : Int := (m <<< (e - q).toNat : Nat); if n then -v else v
  | _ => 0

/-- Exact sum (R131): +0 and -0 give +0, infinity minus infinity gives NaN. -/
def FVal.add : FVal → FVal → FVal
  | .nan, _ => .nan
  | _, .nan => .nan
  | .inf a, .inf b => if a = b then .inf a else .nan
  | .inf a, .fin _ _ _ => .inf a
  | .fin _ _ _, .inf b => .inf b
  | .fin a m e, .fin b n f =>
    let q := min e f
    let t := FVal.units q (.fin a m e) + FVal.units q (.fin b n f)
    if t = 0 then .fin (a && b) 0 q else .fin (decide (t < 0)) t.natAbs q

/-- Exact sum of a list; the empty sum is +0. -/
def FVal.sum : List FVal → FVal
  | [] => .fin false 0 0
  | v :: r => r.foldl FVal.add v

/-- Round to FP32 to nearest, ties to even (R131, R132). -/
def FVal.r32 (v : FVal) : FVal := Fmt.fp32.decode (Fmt.fp32.encode .rne v)

/-- Sum rounded once to FP32. -/
def add32 (a b : FVal) : FVal := (a.add b).r32

/-- Strict order on numbers that are not NaN; +0 and -0 are equal. -/
def FVal.lt : FVal → FVal → Bool
  | .nan, _ => false
  | _, .nan => false
  | .inf a, .inf b => a && !b
  | .inf a, .fin _ _ _ => a
  | .fin _ _ _, .inf b => !b
  | .fin a m e, .fin b n f =>
    let q := min e f
    decide (FVal.units q (.fin a m e) < FVal.units q (.fin b n f))

/-- Equality on numbers; NaN equals nothing. -/
def FVal.eqv : FVal → FVal → Bool
  | .nan, _ => false
  | _, .nan => false
  | a, b => !a.lt b && !b.lt a

/-- Positive or negative zero. -/
def FVal.zero : FVal := .fin false 0 0

/-- floor(log2 |v|) of a finite non-zero value. -/
def FVal.log2 : FVal → Int
  | .fin _ m e => (Nat.log2 m : Int) + e
  | _ => 0

/-- FP32 bits of a value rounded to nearest. -/
def FVal.to32 (v : FVal) : Nat := Fmt.fp32.encode .rne v

/-- Value of FP32 bits. -/
def of32 (n : Nat) : FVal := Fmt.fp32.decode n

/-! Format codes of R68. -/

/-- Element encoding of a format code 0x0-0x8 (R68, R126). -/
def fmtOf (code : Nat) : Option Fmt :=
  match code with
  | 0 => some .bf16 | 1 => some .e4m3 | 2 => some .e5m2 | 3 => some .e4m3 | 4 => some .e5m2
  | 5 => some .e3m2 | 6 => some .e2m3 | 7 => some .e2m1 | 8 => some .fp32
  | _ => none

/-- Packing class of a format code (R68); 0 for FP32 and reserved codes. -/
def packClass (code : Nat) : Nat :=
  match code with
  | 0 => 1 | 1 => 2 | 2 => 2 | 3 => 2 | 4 => 2 | 5 => 2 | 6 => 2 | 7 => 4 | _ => 0

/-- Is the code an MX format (R68)? -/
def isMx (code : Nat) : Bool := decide (3 ≤ code) && decide (code ≤ 7)

/-- Bits of an element of a format code. -/
def elemBits (code : Nat) : Nat :=
  match code with
  | 0 => 16 | 5 => 6 | 6 => 6 | 7 => 4 | 8 => 32 | _ => 8

/-- Data bytes of one MX block (R128): 32 for MXFP8, 24 for MXFP6, 16 for MXFP4. -/
def blockBytes (code : Nat) : Nat := 32 * elemBits code / 8

/-- emax of an MX element format (R136). -/
def emaxOf (code : Nat) : Int :=
  match code with
  | 1 => 8 | 2 => 15 | 3 => 8 | 4 => 15 | 5 => 4 | 6 => 2 | 7 => 2 | _ => 127

/-- Bytes that hold the first `n` elements of a row (R127): FP6 in groups of four, FP4 in pairs. -/
def rowBytes (code n : Nat) : Nat :=
  match elemBits code with
  | 6 => (n + 3) / 4 * 3
  | 4 => (n + 1) / 2
  | b => n * (b / 8)

/-- Raw bits of element `i` of a stored row (R127): the packings of R127 are all "element i at bits i × width" of the
little-endian row. -/
def rawElem (code : Nat) (row : List Byte) (i : Nat) : Nat :=
  let w := elemBits code
  let b0 := i * w / 8
  (recNat row b0 5 >>> (i * w % 8)) % 2 ^ w

/-- Element `i` of a stored row as a value, before any block scale. -/
def elemAt (code : Nat) (row : List Byte) (i : Nat) : FVal :=
  match fmtOf code with
  | some f => f.decode (rawElem code row i)
  | none => .nan

/-- Replace the raw bits of element `i` of a stored row. -/
def setElem (code : Nat) (row : List Byte) (i v : Nat) : List Byte :=
  let w := elemBits code
  let b0 := i * w / 8
  let sh := i * w % 8
  let n := ceilDiv (sh + w) 8
  let old := recNat row b0 n
  let new := old - putField (old >>> sh) sh w + putField v sh w
  splice row b0 (leBytes n new)

/-- An MX element under its block's scale code (R130). -/
def underScale (v : FVal) (scale : Nat) : FVal :=
  if scale = 0xFF then .nan else v.scale ((scale : Int) - 127)

/-- Scale code of a block from its values (R136). -/
def blockScale (code : Nat) (vs : List FVal) : Nat :=
  if vs.all FVal.isFin then
    let amax := vs.foldl (fun a v => if a.lt v.abs then v.abs else a) FVal.zero
    match amax with
    | .fin _ m _ => if m = 0 then 0 else (127 + max (-127) (min 127 (amax.log2 - emaxOf code))).toNat
    | _ => 0xFF
  else 0xFF

/-- One element of an MX block under a scale code: with scale 0xFF every finite value is written as +0 (R136). -/
def encodeMx (code : Nat) (mode : Rnd) (scale : Nat) (v : FVal) : Nat :=
  match fmtOf code with
  | none => 0
  | some f =>
    if scale = 0xFF then (if v.isFin then 0 else f.encode mode v)
    else f.encode mode (v.scale (127 - (scale : Int)))

end Sys2Proof.Machine
end

