-- ==== Sys2Proof/Machine/Noc.lean ====
section
/-! DEFINITION. Arbitration between classes, on the links and in the network on chip, and the way of a message through a die (R283-R286, R332). Classes are the
virtual channels of R283: 0 request, 1 response, 2 bulk, 3 sync, 4 mirror, 5 management. -/

namespace Sys2Proof.Machine

/-! Weighted round robin (R285, R332). -/

/-- The order in which a share that its class cannot use is offered (R285, R332). -/
def shareOrder : List Nat := [1, 0, 2, 4]

/-- The class whose share a place of the frame is: response 4, request 4, bulk 6 and mirror 2 of 16, spread so that every class has a place in each half (DESIGN
CHOICE: log entry 120). -/
def shareAt (pos : Nat) : Nat := [1, 2, 0, 2, 1, 2, 0, 4].getD (pos % 8) 1

/-- The class that sends: management and sync first, each at most one flit in 4; then the class whose share it is, or the first that can use it. -/
def Arb.pick (a : Arb) (ready : Nat → Bool) : Option Nat :=
  if a.mgmt = 0 && ready 5 then some 5
  else if a.sync = 0 && ready 3 then some 3
  else if ready (shareAt a.pos) then some (shareAt a.pos)
  else shareOrder.find? ready

/-- A flit time or NoC cycle passes in which class `k` has sent; `none` where no class could. Management and sync take no share. -/
def Arb.next (a : Arb) (k : Option Nat) : Arb :=
  let prio := k == some 5 || k == some 3
  { pos := if prio then a.pos else (a.pos + 1) % 16
    mgmt := if k == some 5 then 3 else a.mgmt - 1
    sync := if k == some 3 then 3 else a.sync - 1 }

/-! Buffers of a NoC router input and of a bridge endpoint (R284). -/

/-- Reserved flits of a class. -/
def flitReserve (bridge : Bool) (k : Nat) : Nat :=
  if bridge then [8, 8, 16, 2, 4, 2].getD k 0 else [4, 4, 4, 2, 2, 2].getD k 0

/-- Flits of the shared pool; bulk may hold half of them. -/
def flitPool (bridge : Bool) : Nat := if bridge then 56 else 30

/-- Flits that a class holds of the shared pool. -/
def flitShared (bridge : Bool) (use : List Nat) (k : Nat) : Nat := use.getD k 0 - flitReserve bridge k

/-- Do the flits in a buffer keep to the reserves and the pool? -/
def bufferHolds (bridge : Bool) (use : List Nat) : Bool :=
  decide (((upto 6).map (flitShared bridge use)).sum ≤ flitPool bridge) && decide (flitShared bridge use 2 ≤ flitPool bridge / 2)

/-! The way of a message (R16, R283, R286): its flits and the output ports that it meets. -/

/-- 128-byte flits of a message with `n` bytes of data: one for its header, and its data. -/
def nocFlits (n : Nat) : Nat := 1 + ceilDiv n 128

/-- Flits of a Jalfo message on the network. -/
def Msg.nocFlits (m : Msg) : Nat := Machine.nocFlits m.data.length

/-- Output ports of a die's NoC: toward another die, toward its own units, toward a Jalfo port. -/
def nocToDie (d e : Nat) : Nat := d * 64 + e
def nocToUnit (d : Nat) : Nat := d * 64 + 4
def nocToPort (d p : Nat) : Nat := d * 64 + 8 + p

/-- Is the buffer of an output port a bridge endpoint's: that toward another die? -/
def nocBridge (port : Nat) : Bool := decide (port % 64 < 4)

/-- One NoC cycle of an output port (R285): the class that its arbiter picks among those with a flit sends one. -/
def NocPort.cycle (x : NocPort) : NocPort :=
  match x.arb.pick (fun k => x.use.getD k 0 != 0) with
  | some k => { arb := x.arb.next (some k), use := x.use.set k (x.use.getD k 0 - 1) }
  | none => { x with arb := x.arb.next none }

/-- Cycles of an output port until a flit of class `k` fits its buffer (R284), at most `fuel`. -/
def NocPort.room (bridge : Bool) (k : Nat) : Nat → NocPort → NocPort
  | 0, x => x
  | fuel + 1, x => if bufferHolds bridge (x.use.set k (x.use.getD k 0 + 1)) then x else room bridge k fuel x.cycle

/-- A flit of class `k` enters an output port's buffer as soon as there is room for it; every class that holds a flit sends within 16 cycles (R285). -/
def NocPort.put (bridge : Bool) (k : Nat) (x : NocPort) : NocPort :=
  let x := x.room bridge k 64
  { x with use := x.use.set k (x.use.getD k 0 + 1) }

/-- The cycles in which no command waits: the flits that a port holds leave it. -/
def NocPort.drain (x : NocPort) : NocPort := Nat.repeat NocPort.cycle (4 * x.use.sum) x

end Sys2Proof.Machine
end

