-- ==== Sys2Proof/Machine/Ops.lean ====
section
/-! DEFINITION. The named operations over the state: sparse maps, memory bytes, register fields, status bits with their
event counts, and the look-ups that more than one unit makes. -/

namespace Sys2Proof.Machine

/-! Sparse maps. -/

/-- The entry of key `k`. -/
def KMap.find? {α : Type} : KMap α → Nat → Option α
  | [], _ => none
  | (k', v) :: r, k => if k' = k then some v else KMap.find? r k

/-- The entry of key `k`, or `d` where the map lists none. -/
def KMap.getD {α : Type} (m : KMap α) (k : Nat) (d : α) : α := (m.find? k).getD d

/-- Set the entry of key `k`, keeping the keys rising. -/
def KMap.insert {α : Type} : KMap α → Nat → α → KMap α
  | [], k, v => [(k, v)]
  | (k', v') :: r, k, v =>
    if k < k' then (k, v) :: (k', v') :: r
    else if k = k' then (k, v) :: r
    else (k', v') :: KMap.insert r k v

/-- Remove the entry of key `k`. -/
def KMap.erase {α : Type} (m : KMap α) (k : Nat) : KMap α := m.filter (fun e => e.1 != k)

/-- Keep the entries whose key satisfies `p`. -/
def KMap.keep {α : Type} (m : KMap α) (p : Nat → Bool) : KMap α := m.filter (fun e => p e.1)

/-! Memory bytes. -/

/-- One byte of memory; an unlisted address reads 0 (log entry 3). -/
def Mem.read (m : Mem) (a : Nat) : Byte := KMap.getD m a 0

/-- Write one byte; writing 0 removes the entry, so that equal memories are equal lists. -/
def Mem.write (m : Mem) (a : Nat) (b : Byte) : Mem := if b = 0 then KMap.erase m a else KMap.insert m a b

/-- `n` bytes from `a`. -/
def Mem.readN (m : Mem) : Nat → Nat → List Byte
  | _, 0 => []
  | a, n + 1 => m.read a :: Mem.readN m (a + 1) n

/-- Write a list of bytes from `a`. -/
def Mem.writeN (m : Mem) (a : Nat) : List Byte → Mem
  | [] => m
  | b :: r => Mem.writeN (m.write a b) (a + 1) r

/-- Zero the bytes `lo … hi - 1`. -/
def Mem.zeroRange (m : Mem) (lo hi : Nat) : Mem := KMap.keep m (fun a => a < lo || hi ≤ a)

/-- Byte-masked write: byte `i` of `bs` is written when bit `i` of `en` is set. -/
def Mem.writeMasked (m : Mem) (a en : Nat) : List Byte → Mem
  | [] => m
  | b :: r => Mem.writeMasked (if en % 2 = 1 then m.write a b else m) (a + 1) (en / 2) r

/-- Replace memory. -/
def Chip.setMem (c : Chip) (m : Mem) : Chip := { c with mem := m }

/-- Little-endian number of `n` bytes at `a` (R3). -/
def Chip.memNat (c : Chip) (a n : Nat) : Nat := leNat (c.mem.readN a n)

/-- Store bytes at a local address, with no check. -/
def Chip.poke (c : Chip) (a : Nat) (bs : List Byte) : Chip := c.setMem (c.mem.writeN a bs)

/-! Register fields. -/

/-- Key of a field in the register file: its absolute register offset and its lowest bit. -/
def fkey (b : Blk) (f : Field) : Nat := (b.base + f.off) * 64 + f.lsb

/-- Value of a field: what was stored last, or its power-on value (R9). -/
def Chip.getF (c : Chip) (b : Blk) (f : Field) : Nat :=
  match c.regs.find? (fkey b f) with
  | some r => r.val
  | none => f.por

/-- Store a field, cut to its width. -/
def Chip.setF (c : Chip) (b : Blk) (f : Field) (v : Nat) : Chip :=
  { c with regs := c.regs.insert (fkey b f) ⟨v % 2 ^ f.width, f.width, f.kept⟩ }

/-- A one-bit field as a Boolean. -/
def Chip.on (c : Chip) (b : Blk) (f : Field) : Bool := c.getF b f != 0

/-- Store a one-bit field. -/
def Chip.setB (c : Chip) (b : Blk) (f : Field) (v : Bool) : Chip := c.setF b f (b2n v)

/-- Add to a counter register; it wraps at its width. -/
def Chip.addF (c : Chip) (b : Blk) (f : Field) (n : Nat) : Chip := c.setF b f (c.getF b f + n)

/-- Add to a saturating counter. -/
def Chip.satF (c : Chip) (b : Blk) (f : Field) (n : Nat) : Chip :=
  c.setF b f (satNat (2 ^ f.width - 1) (c.getF b f + n))

/-- Store several fields of one block. -/
def Chip.setFs (c : Chip) (b : Blk) (l : List (Field × Nat)) : Chip := forAll l c (fun c p => c.setF b p.1 p.2)

/-- Raise a status bit and count the event (R7, R287). -/
def Chip.raise (c : Chip) (b : Blk) (s : Status) : Chip := (c.setB b s.flag true).satF b s.cnt 1

/-- Raise when a condition holds. -/
def Chip.raiseIf (c : Chip) (p : Bool) (b : Blk) (s : Status) : Chip := if p then c.raise b s else c

/-- Take the next free value's number (the model's own counter, log entry 2). -/
def Chip.tick (c : Chip) : Chip := { c with freeCtr := c.freeCtr + 1 }

/-! The way of a message (R16, R283, R286). -/

/-- `n` flits of class `k` come to an output port. -/
def Chip.nocHop (c : Chip) (port k n : Nat) : Chip :=
  { c with noc := c.noc.insert port (Nat.repeat (NocPort.put (nocBridge port) k) n (KMap.getD c.noc port {})) }

/-- A message goes from die `d` to output port `out` of die `e`: by the bridge link that joins them where they differ, and by no third die (R16, R286). It arrives in the
command that sends it; its flits stay in the buffers of its way until others need their room or no command waits (log entry 121). -/
def Chip.nocCross (c : Chip) (d e out k n : Nat) : Chip := (if d = e then c else c.nocHop (nocToDie d e) k n).nocHop out k n

/-- A request of class `k` from a unit of die `d` to one of die `e`, with `n` bytes, and its response with `r` (R283). -/
def Chip.nocTrip (c : Chip) (d e k n r : Nat) : Chip :=
  (c.nocCross d e (nocToUnit e) k (nocFlits n)).nocCross e d (nocToUnit d) 1 (nocFlits r)

/-- The flits that the network holds leave it. -/
def Chip.nocDrain (c : Chip) : Chip := { c with noc := c.noc.map (fun x => (x.1, x.2.drain)) }

/-! Sync counters (R277, R278). -/

/-- VALUE of a module counter. -/
def Chip.syncVal (c : Chip) (i : Nat) : Nat := c.getF (.sync i) R.SYNC_VALUE

/-- Die of an agent that waits on a counter: its cluster's; the work queues are the MC's. -/
def Waiter.die : Waiter → Nat
  | .seq cl _ => cl / 8
  | .ve cl _ _ => cl / 8
  | .dma cl _ => cl / 8
  | .wq _ => 0
  | .step cl _ => cl / 8
  | .arrivals cl _ => cl / 8
  | .seed cl => cl / 8

/-- The wake messages of counter `i` to the waits that its present value newly meets (R278, R283). -/
def Chip.wakeMsgs (c : Chip) (i : Nat) : Chip :=
  (c.waits.filter (fun w => w.ctr == i && decide (w.threshold ≤ c.syncVal i) && !w.met)).foldl
    (fun c w => c.nocCross (i / 4096) w.who.die (nocToUnit w.who.die) 3 1) c

/-- Latch the waits on counter `i` that its present value meets (R278). -/
def Chip.latchWaits (c : Chip) (i : Nat) : Chip :=
  { c with waits := c.waits.map (fun w =>
      if w.ctr = i ∧ w.threshold ≤ c.syncVal i then { w with met := true } else w) }

/-- `k` updates on the die of module counter `i` (R296). -/
def Chip.syncCount (c : Chip) (i k : Nat) : Chip := c.addF (.syncd (i / 4096)) R.SYNCD_UPDATES k

/-- Write VALUE of a module counter: one update, counted on its die, and waiters are woken (R278, R295). -/
def Chip.syncStore (c : Chip) (i v : Nat) : Chip :=
  (((c.setF (.sync i) R.SYNC_VALUE v).addF (.syncd (i / 4096)) R.SYNCD_UPDATES 1).wakeMsgs i).latchWaits i

/-- Record a counter and the device and partition that named it in SYNC_ERR of a die (R296). -/
def Chip.syncErr (c : Chip) (die n src p : Nat) : Chip :=
  c.setFs (.syncd die) [(R.SYNCD_ERR_COUNTER, n), (R.SYNCD_ERR_SOURCE, src), (R.SYNCD_ERR_PART, p)]

/-- Increment module counter `i` by `k` for device `src` and partition `p`; a sum beyond 0xFFFF_FFFF leaves 0xFFFF_FFFF, sets OVERFLOW and is recorded (R278, R296). -/
def Chip.syncAdd (c : Chip) (i k src p : Nat) : Chip :=
  let sum := c.syncVal i + k
  let c := if 0xFFFFFFFF < sum then (c.raise (.syncd (i / 4096)) St.SYNCD_OVERFLOW).syncErr (i / 4096) i src p else c
  c.syncStore i (satNat 0xFFFFFFFF sum)

/-- Size of a partition's counter range (R277). -/
def Chip.syncRange (c : Chip) (p : Nat) : Nat := c.getF (.part p) R.PART_SYNC_RANGE_SIZE

/-- Module counter of partition-relative number `n` (R277). -/
def Chip.syncIndex (c : Chip) (p n : Nat) : Nat := c.getF (.part p) R.PART_SYNC_RANGE_BASE + n

/-- The ID that this device sends with: its own (R338), or that of the device it has adopted (R406). -/
def Chip.deviceId (c : Chip) : Nat :=
  if c.on .res R.RES_STATE_ALIAS_VALID then c.getF .res R.RES_STATE_ALIAS else c.getF (.jlk 0) R.JLK_CTRL_DEVICE_ID

/-- Is a device ID this device's own, or that of the device it has adopted (R338, R406)? -/
def Chip.isSelf (c : Chip) (dev : Nat) : Bool := dev == c.getF (.jlk 0) R.JLK_CTRL_DEVICE_ID || dev == c.deviceId

/-- Record a counter number out of range, in the SYNC block of the agent's die (R277). -/
def Chip.syncRangeErr (c : Chip) (die src p n : Nat) : Chip :=
  (c.raise (.syncd die) St.SYNCD_RANGE).syncErr die n src p

/-- Completion codes of R491. -/
abbrev Code := Nat

def COMP_OK : Code := 0x0000
def COMP_PARTIAL : Code := 0x0001
def COMP_STATE_CONFLICT : Code := 0x0002
def COMP_DRAINED : Code := 0x0003
def COMP_RESTORED : Code := 0x0004
def COMP_WHISTLE_STUCK : Code := 0x0005
def COMP_HALTED : Code := 0x0006
def COMP_PLAN_INVALID : Code := 0x0100
def COMP_SHAPE_OVER_PLAN : Code := 0x0101
def COMP_OP_INVALID : Code := 0x0102
def COMP_TP_CMD_INVALID : Code := 0x0103
def COMP_ME_CMD_INVALID : Code := 0x0104
def COMP_TB_CMD_INVALID : Code := 0x0105
def COMP_TB_MISMATCH : Code := 0x0106
def COMP_SP_CMD_INVALID : Code := 0x0107
def COMP_SHELF_CLOSED : Code := 0x0108
def COMP_SHELF_OVER : Code := 0x0109
def COMP_SHELF_SEQ : Code := 0x010A
def COMP_VE_INST_INVALID : Code := 0x010B
def COMP_VE_FAULT : Code := 0x010C
def COMP_VE_TIMEOUT : Code := 0x010D
def COMP_DMA_DESC_INVALID : Code := 0x010E
def COMP_WQ_CMD_INVALID : Code := 0x010F
def COMP_SYNC_RANGE : Code := 0x0110
def COMP_ADDR_UNMAPPED : Code := 0x0200
def COMP_MEM_DENIED : Code := 0x0201
def COMP_MEM_LOST : Code := 0x0202
def COMP_LINK_DOWN : Code := 0x0203
def COMP_WINDOW_DENIED : Code := 0x0204
def COMP_TARGET_RESET : Code := 0x0205
def COMP_SIDEBOARD_HELD : Code := 0x0206
def COMP_SEQ_STALE : Code := 0x0300
def COMP_SEQ_FULL : Code := 0x0301
def COMP_SEQ_LONG : Code := 0x0302
def COMP_BATCH_INVALID : Code := 0x0303
def COMP_LAYOUT_INVALID : Code := 0x0304
def COMP_CAB_PLAN_INVALID : Code := 0x0400
def COMP_NO_PARTNER : Code := 0x0401
def COMP_ATT_DENIED : Code := 0x0500
def COMP_ATT_BUSY : Code := 0x0501
def COMP_ATT_EXHAUSTED : Code := 0x0502
def COMP_ATT_FAULT : Code := 0x0503

/-- Increment partition counter `n` of partition `p` by `k` on behalf of an agent of `die`; the code is
COMP_SYNC_RANGE, with nothing changed but the record, when the number is out of range (R277). -/
def Chip.syncInc (c : Chip) (die p n k : Nat) : Chip × Code :=
  let i := c.syncIndex p n
  if n < c.syncRange p then ((c.nocCross die (i / 4096) (nocToUnit (i / 4096)) 3 1).syncAdd i k c.deviceId p, COMP_OK)
  else (c.syncRangeErr die c.deviceId p n, COMP_SYNC_RANGE)

/-- Start a wait of `who` on module counter `i`: met at once when the value is there (R278). -/
def Chip.addWait (c : Chip) (i threshold : Nat) (who : Waiter) : Chip :=
  { c with waits := c.waits ++ [⟨i, threshold, who, decide (threshold ≤ c.syncVal i)⟩] }

/-- Is the wait of `who` met? -/
def Chip.waitMet (c : Chip) (who : Waiter) : Bool := c.waits.any (fun w => w.who == who && w.met)

/-- Does `who` wait at all? -/
def Chip.waitsOn (c : Chip) (who : Waiter) : Bool := c.waits.any (fun w => w.who == who)

/-- End the waits of `who`. -/
def Chip.dropWaits (c : Chip) (who : Waiter) : Chip := { c with waits := c.waits.filter (fun w => w.who != who) }

/-! Partitions and clusters. -/

/-- Does partition `p` hold module cluster `cl`? (PART_CLUSTERS, R385) -/
def Chip.partHas (c : Chip) (p cl : Nat) : Bool := bit (c.getF (.part p) R.PART_CLUSTERS) cl

/-- The partition whose work runs on cluster `cl`: its owner, or in a share set the member whose slice is running. -/
def Chip.partOf (c : Chip) (cl : Nat) : Option Nat :=
  (upto 16).find? (fun p => c.partHas p cl &&
    (c.getF (.part p) R.PART_STATE_SET_SIZE == 0 || c.on (.part p) R.PART_STATE_IN_SLICE))

/-- The clusters of partition `p`, lowest first: cluster at position q is element q. -/
def Chip.clustersOf (c : Chip) (p : Nat) : List Nat := (upto 32).filter (c.partHas p)

/-- Partition states of R359. -/
def PS_ACTIVE : Nat := 1
def PS_RESETTING : Nat := 4

end Sys2Proof.Machine
end

