-- ==== Sys2Proof/Machine/Shelf.lean ====
section
/-! DEFINITION. Shelves (R160-R169, R184): circular regions with hardware pointers, opened and closed by software,
claimed, committed and released by commands, and the grants that placements write (R161, R171). -/

namespace Sys2Proof.Machine

/-- Region size in 64-byte units (R160). -/
def Shelf.span (s : Shelf) : Nat := s.size * 16

/-- Position after an entry, modulo twice the region. -/
def ShelfEntry.stop (n : Nat) (e : ShelfEntry) : Nat := (e.start + e.skip + e.units) % (2 * n)

/-- Units the live part of the region holds, skipped bytes included (R164). -/
def Shelf.used (s : Shelf) : Nat := (s.entries.map (fun e => e.skip + e.units)).sum

/-- Position of the newest claim's end; 0 when the shelf is empty (R160, R165). -/
def Shelf.claimPos (s : Shelf) : Nat :=
  match s.entries.getLast? with
  | some e => e.stop s.span
  | none => 0

/-- Position of the oldest live entry's start; 0 when the shelf is empty. -/
def Shelf.headPos (s : Shelf) : Nat :=
  match s.entries.head? with
  | some e => e.start
  | none => 0

/-- End of the committed entries at the head, in sequence order (R162). -/
def Shelf.tailPos (s : Shelf) : Nat :=
  match (s.entries.takeWhile (·.committed)).getLast? with
  | some e => e.stop s.span
  | none => s.headPos

/-- A pointer as the 20-bit register shows it: offset in [18:0], wrap bit in [19] (R160, R184). -/
def shelfPtr (n pos : Nat) : Nat := if n = 0 then 0 else pos % n + (pos / n % 2) * 2 ^ 19

/-- Is an entry freed (its releases have reached CONS)? -/
def Shelf.freed (s : Shelf) (e : ShelfEntry) : Bool := s.cons ≤ e.rel

/-- Live entries: claimed and not yet freed (R160). -/
def Shelf.live (s : Shelf) : Nat := (s.entries.filter (fun e => !s.freed e)).length

/-- Sequence number of the next claim. -/
def Shelf.seqNext (s : Shelf) : Nat := (s.seqHead + s.entries.length) % 65536

/-- Index in the entry list of live sequence number `q`. -/
def Shelf.index? (s : Shelf) (q : Nat) : Option Nat :=
  let i := (q + 65536 - s.seqHead) % 65536
  match s.entries[i]? with
  | some e => if s.freed e then none else some i
  | none => none

/-- The live entry of sequence number `q`. -/
def Shelf.entry? (s : Shelf) (q : Nat) : Option ShelfEntry := (s.index? q).bind (fun i => s.entries[i]?)

/-- Units passed over by a claim of `u` units: with CONTIG, a claim that does not fit before the end of the region goes
to BASE (R164). -/
def Shelf.skipFor (s : Shelf) (u : Nat) : Nat :=
  let p := s.claimPos % s.span
  if s.contig && decide (s.span < p + u) then s.span - p else 0

/-- Can a claim of `u` units be placed now (R162)? -/
def Shelf.fits (s : Shelf) (u : Nat) : Bool := decide (s.live < 16) && decide (s.used + s.skipFor u + u ≤ s.span)

/-- Place a claim of `u` units at CLAIM (R162). -/
def Shelf.place (s : Shelf) (u : Nat) : Shelf :=
  { s with entries := s.entries ++ [⟨s.claimPos, s.skipFor u, u, false, 0⟩] }

/-- Offset from BASE, in 64-byte units, of an entry's first claimed byte. -/
def Shelf.entryOff (s : Shelf) (e : ShelfEntry) : Nat := if s.span = 0 then 0 else (e.start + e.skip) % s.span

/-- Answer of a claim. -/
inductive ClaimRes where
  | granted (seq off : Nat)
  | waits
  | refused (code : Code)
  deriving DecidableEq, Repr

/-- CLAIM by a command (R162, R165, R169): refused when closed or larger than the region, granted at once when no claim
waits and it fits, otherwise it joins the waiting claims in arrival order. -/
def Shelf.claim (s : Shelf) (u : Nat) (who : ClaimAgent) : Shelf × ClaimRes :=
  if !s.opened then (s, .refused COMP_SHELF_CLOSED)
  else if s.span < u then (s, .refused COMP_SHELF_OVER)
  else if s.waiting.isEmpty && s.fits u then
    let t := s.place u
    (t, .granted s.seqNext (match t.entries.getLast? with | some e => t.entryOff e | none => 0))
  else ({ s with waiting := s.waiting ++ [⟨u, who⟩] }, .waits)

/-- Drop freed entries from the head; the last one freed returns the pointers to BASE (R162, R165). -/
def Shelf.advance (s : Shelf) : Shelf :=
  let gone := (s.entries.takeWhile s.freed).length
  { s with entries := s.entries.drop gone, seqHead := (s.seqHead + gone) % 65536 }

/-- COMMIT seq (R162, R169). -/
def Shelf.commit (s : Shelf) (q : Nat) : Shelf × Code :=
  if !s.opened then (s, COMP_SHELF_CLOSED)
  else match s.index? q with
    | none => (s, COMP_SHELF_SEQ)
    | some i =>
      match s.entries[i]? with
      | some e => if e.committed then (s, COMP_SHELF_SEQ)
                  else ({ s with entries := modAt s.entries i (fun e => { e with committed := true }) }, COMP_OK)
      | none => (s, COMP_SHELF_SEQ)

/-- RELEASE seq (R162, R169). -/
def Shelf.release (s : Shelf) (q : Nat) : Shelf × Code :=
  if !s.opened then (s, COMP_SHELF_CLOSED)
  else match s.index? q with
    | none => (s, COMP_SHELF_SEQ)
    | some i => ((Shelf.advance { s with entries := modAt s.entries i (fun e => { e with rel := e.rel + 1 }) }), COMP_OK)

/-- Free a live entry whatever its release count: its place in a reservation is given back (R55, R52). -/
def Shelf.free (s : Shelf) (q : Nat) : Shelf :=
  match s.index? q with
  | none => s
  | some i => Shelf.advance { s with entries := modAt s.entries i (fun e => { e with rel := s.cons }) }

/-- Set a shelf to BASE with no entries (the Empty phase of a whistle, R288). -/
def Shelf.emptied (s : Shelf) : Shelf := { s with entries := [], waiting := [], seqHead := s.seqNext }

/-! Shelves in the module. -/

/-- The shelf that a command's operand names. -/
def refOf : ShelfSel → ShelfRef
  | .core cl k n => .core cl.val k.val n.val
  | .commons cl n => .commons cl.val n.val

/-- Key of a shelf: cores first, then commons (R160). -/
def ShelfRef.key : ShelfRef → Nat
  | .core cl k n => (cl * 16 + k) * 64 + n
  | .commons cl n => 0x8000 + cl * 256 + n

/-- Cluster of a shelf. -/
def ShelfRef.cluster : ShelfRef → Nat
  | .core cl _ _ => cl
  | .commons cl _ => cl

/-- Shelf 63 of a core: fixed descriptor, refused to every shelf operation as a closed shelf (R168). -/
def ShelfRef.isSpill : ShelfRef → Bool
  | .core _ _ n => n == 63
  | .commons _ _ => false

/-- The descriptor that shelf 63 always reads (R168). -/
def spillShelf : Shelf := { opened := true, contig := true, cons := 1, owner := 7, base := 2816, size := 256 }

/-- State of a shelf as operations see it; shelf 63 counts as closed (R168). -/
def Chip.shelf (c : Chip) (r : ShelfRef) : Shelf := if r.isSpill then {} else KMap.getD c.shelves r.key {}

/-- Store a shelf; shelf 63 has no claims and no entries (R168). -/
def Chip.setShelf (c : Chip) (r : ShelfRef) (s : Shelf) : Chip :=
  if r.isSpill then c else { c with shelves := c.shelves.insert r.key s }

/-- RESULT of SP_SHELF_OP, which shelf 63 has too: 1 where the last register operation was refused (R168, R184). -/
def Chip.setOpResult (c : Chip) (r : ShelfRef) (refused : Bool) : Chip :=
  { c with shelves := c.shelves.insert r.key { KMap.getD c.shelves r.key {} with opResult := b2n refused } }

/-- Raise the shelf status bits of the scratchpad that holds the shelf. -/
def Chip.shelfSeqErr (c : Chip) : ShelfRef → Chip
  | .core cl k _ => c.raise (.sp cl k) St.SP_SHELF_SEQ
  | .commons cl _ => c.raise (.cm cl) St.CM_SHELF_SEQ

/-- Record a shelf operation's code: COMP_SHELF_SEQ sets the SHELF_SEQ bit (R169). -/
def Chip.shelfNote (c : Chip) (r : ShelfRef) (code : Code) : Chip :=
  if code = COMP_SHELF_SEQ then c.shelfSeqErr r else c

/-- Local address of byte `o` of the scratchpad or commons that holds a shelf (R24). -/
def ShelfRef.memBase : ShelfRef → Nat
  | .core cl k _ => 0x010000000000 + (cl / 8) * 0x1000000000 + (cl % 8) * 0x100000000 + 0x10000000 + k * 0x400000
  | .commons cl _ => 0x010000000000 + (cl / 8) * 0x1000000000 + (cl % 8) * 0x100000000

/-- Byte offset within its scratchpad of byte `o` of an entry; entries of a CONTIG = 0 shelf wrap (R164). -/
def Shelf.byteAt (s : Shelf) (e : ShelfEntry) (o : Nat) : Nat :=
  s.base * 1024 + (if s.span = 0 then 0 else (s.entryOff e * 64 + o) % (s.span * 64))

/-- CLAIM by a command on behalf of an agent. -/
def Chip.shelfClaim (c : Chip) (r : ShelfRef) (u : Nat) (who : ClaimAgent) : Chip × ClaimRes :=
  let (s, a) := (c.shelf r).claim u who
  (c.setShelf r s, a)

/-- COMMIT by an agent of partition `p`: the entry is committed and SIG_SYNC, when set, is incremented; a counter out of
range refuses the increment only (R162, R166). -/
def Chip.shelfCommit (c : Chip) (r : ShelfRef) (p q : Nat) : Chip × Code :=
  let (s, code) := (c.shelf r).commit q
  let c := (c.setShelf r s).shelfNote r code
  if code = COMP_OK && s.sigSync != 0xFFFF then c.syncInc (r.cluster / 8) p s.sigSync 1 else (c, code)

/-- RELEASE by an agent (R162, R169). -/
def Chip.shelfRelease (c : Chip) (r : ShelfRef) (q : Nat) : Chip × Code :=
  let (s, code) := (c.shelf r).release q
  ((c.setShelf r s).shelfNote r code, code)

/-- Free an entry that a pass has kept (R55). -/
def Chip.shelfFree (c : Chip) (r : ShelfRef) (q : Nat) : Chip := c.setShelf r ((c.shelf r).free q)

/-- Oldest waiting claim placed, when it fits now (R162, R165): the agent it was granted to, its sequence number and its
offset. -/
def Shelf.grantOldest (s : Shelf) : Option (Shelf × ShelfClaim × Nat × Nat) :=
  match s.waiting with
  | [] => none
  | w :: r =>
    if s.fits w.units then
      let t := { s with waiting := r }.place w.units
      some (t, w, s.seqNext, match t.entries.getLast? with | some e => t.entryOff e | none => 0)
    else none

/-- Partition whose counter range SIG_SYNC of a shelf belongs to when the register path commits: the cluster's owner, in
a share set the member that holds the shelf's number (R166, R364). -/
def Chip.shelfPart (c : Chip) (r : ShelfRef) : Nat :=
  let owners := (upto 16).filter (fun p => c.partHas p r.cluster)
  let m := match r with | .core _ _ n => n / 15 | .commons _ n => n / 63
  (owners.find? (fun p => owners.length = 1 || c.getF (.part p) R.PART_STATE_MEMBER = m)).getD 0

/-! Opening and closing (R161, R167). -/

/-- Do two byte ranges [a, a + n) and [b, b + m) overlap? -/
def overlaps (a n b m : Nat) : Bool := decide (a < b + m) && decide (b < a + n) && decide (0 < n) && decide (0 < m)

/-- Region [a, a + n) inside [b, b + m). -/
def inside (a n b m : Nat) : Bool := decide (b ≤ a) && decide (a + n ≤ b + m)

/-- The grants of a scratchpad, as (OWNER, first KiB, KiB) (R161, R182, R183). -/
def Chip.grants (c : Chip) : ShelfRef → List (Nat × Nat × Nat)
  | .core cl k _ =>
    [(0, c.getF (.sp cl k) R.SP_GRANT_BASE0, c.getF (.sp cl k) R.SP_GRANT_SIZE0),
     (1, c.getF (.sp cl k) R.SP_GRANT_BASE1, c.getF (.sp cl k) R.SP_GRANT_SIZE1)]
  | .commons cl _ =>
    [(0, c.getF (.cm cl) R.CM_GRANT0_BASE, c.getF (.cm cl) R.CM_GRANT0_SIZE),
     (1, c.getF (.cm cl) R.CM_GRANT1_BASE, c.getF (.cm cl) R.CM_GRANT1_SIZE),
     (2, c.getF (.cm cl) R.CM_GRANT2_BASE, c.getF (.cm cl) R.CM_GRANT2_SIZE),
     (3, c.getF (.cm cl) R.CM_GRANT3_BASE, c.getF (.cm cl) R.CM_GRANT3_SIZE)]

/-- Regions (first KiB, KiB) of the open shelves of the same scratchpad, except `r` itself and, for a commons, numbered
as `only` allows. -/
def Chip.openRegions (c : Chip) (r : ShelfRef) (only : Nat → Bool) : List (Nat × Nat) :=
  match r with
  | .core cl k n => ((upto 63).filter (fun i => i != n && only i)).filterMap (fun i =>
      let s := c.shelf (.core cl k i)
      if s.opened then some (s.base, s.size) else none)
  | .commons cl n => ((upto 256).filter (fun i => i != n && only i)).filterMap (fun i =>
      let s := c.shelf (.commons cl i)
      if s.opened then some (s.base, s.size) else none)

/-- Cache ways in use of a core; values above 16 act as 16 (R182). -/
def Chip.cacheWays (c : Chip) (cl k : Nat) : Nat := satNat 16 (c.getF (.sp cl k) R.SP_CACHE_CFG_WAYS)

/-- The open conditions of R161. OWNER = 4 (RSEQ staging) names no grant that software can open in: the RSEQ opens
shelves 252-254 itself (R155). -/
def Chip.openOk (c : Chip) (r : ShelfRef) (s : Shelf) : Bool :=
  let total := match r with | .core _ _ _ => 3072 | .commons _ _ => 24576
  let regionOk := decide (1 ≤ s.size) && decide (s.base + s.size ≤ total)
  let coreOk := match r with
    | .core cl k _ => decide (s.base + s.size ≤ 2816) &&
        !overlaps s.base s.size (2560 - 64 * c.cacheWays cl k) (64 * c.cacheWays cl k)
    | .commons _ _ => true
  let apart := (c.openRegions r (fun _ => true)).all (fun g => !overlaps s.base s.size g.1 g.2)
  let consOk := decide (1 ≤ s.cons) && decide (s.cons ≤ 18)
  let grants := c.grants r
  let ownerOk :=
    if s.owner = 7 then
      grants.all (fun g => !overlaps s.base s.size g.2.1 g.2.2) &&
      (match r with
       | .commons _ _ => (c.openRegions r (fun i => decide (252 ≤ i) && decide (i ≤ 254))).all
           (fun g => !overlaps s.base s.size g.1 g.2)
       | .core _ _ _ => true)
    else match r with
      | .core _ _ _ => grants.any (fun g => g.1 == s.owner && inside s.base s.size g.2.1 g.2.2)
      | .commons _ _ => grants.any (fun g => g.1 == s.owner && inside s.base s.size g.2.1 g.2.2)
  regionOk && coreOk && apart && consOk && ownerOk

/-- In a share set of more than one member, the shelf numbers and the share that member `p` may open in (R364, R365). -/
def Chip.shareOk (c : Chip) (p : Nat) (r : ShelfRef) (s : Shelf) : Bool :=
  if c.getF (.part p) R.PART_STATE_SET_SIZE = 0 then true
  else
    let m := c.getF (.part p) R.PART_STATE_MEMBER
    match r with
    | .core _ _ n => decide (15 * m ≤ n) && decide (n ≤ 15 * m + 14) &&
        inside s.base s.size (c.getF (.part p) R.PART_SHARE_SP_BASE_KIB) (c.getF (.part p) R.PART_SHARE_SP_KIB)
    | .commons _ n => decide (63 * m ≤ n) && decide (n ≤ 63 * m + 62) && decide (n < 252) &&
        inside s.base s.size (c.getF (.part p) R.PART_SHARE_CM_BASE_KIB) (c.getF (.part p) R.PART_SHARE_CM_KIB)

/-- The descriptor that a 64-bit write of SP_SHELF_CFG describes (R184). -/
def shelfOfCfg (v : Nat) : Shelf :=
  { opened := true, contig := bit v 1, cons := field v 4 5, owner := field v 9 3, base := field v 16 15,
    size := field v 32 15, sigSync := field v 48 16 }

/-- SP_SHELF_CFG as it reads (R184). -/
def Shelf.cfgWord (s : Shelf) : Nat :=
  b2n s.opened + putField (b2n s.contig) 1 1 + putField s.cons 4 5 + putField s.owner 9 3 + putField s.base 16 15 +
    putField s.size 32 15 + putField s.sigSync 48 16

/-- Refuse an open: OPEN stays 0, nothing else changes, OPEN_REFUSED is set (R161). -/
def Chip.openRefused (c : Chip) : ShelfRef → Chip
  | .core cl k _ => c.raise (.sp cl k) St.SP_OPEN_REFUSED
  | .commons cl _ => c.raise (.cm cl) St.CM_OPEN_REFUSED

/-- Refuse a close: CLOSE_BUSY is set (R167). -/
def Chip.closeBusy (c : Chip) : ShelfRef → Chip
  | .core cl k _ => c.raise (.sp cl k) St.SP_CLOSE_BUSY
  | .commons cl _ => c.raise (.cm cl) St.CM_CLOSE_BUSY

/-- Open a shelf from a descriptor: numbering starts at 0 (R160, R161); SP_SHELF_OP keeps what it shows. A write to an open shelf's descriptor, and any
write to shelf 63, is ignored (R161, R168). `share` says whether the opening member may open it (R365). -/
def Chip.shelfOpen (c : Chip) (share : Bool) (r : ShelfRef) (s : Shelf) : Chip :=
  if r.isSpill || (c.shelf r).opened then c
  else if share && c.openOk r s then 
    let o := c.shelf r
    c.setShelf r { s with opened := true, seqHead := 0, entries := [], waiting := [], opResult := o.opResult, opOffset := o.opOffset }
  else c.openRefused r

/-- A write of OPEN = 0 with descriptor fields `d`: an open shelf closes (R167); the fields of a closed one take the
write (R161, R184). -/
def Chip.shelfClose (c : Chip) (r : ShelfRef) (d : Shelf) : Chip :=
  let s := c.shelf r
  if !s.opened then c.setShelf r { s with
    contig := d.contig, cons := d.cons, owner := d.owner, base := d.base, size := d.size, sigSync := d.sigSync }
  else if s.live = 0 && s.waiting.isEmpty then c.setShelf r { s with opened := false, entries := [] }
  else c.closeBusy r

/-- CLAIM through SP_SHELF_OP: refused instead of waiting, RESULT and OFFSET report (R162, R184). OFFSET has the form of the pointers: it counts from
BASE, with the wrap bit on top (DEDUCED: log entry 33). -/
def Chip.shelfOpClaim (c : Chip) (r : ShelfRef) (units : Nat) : Chip :=
  let s := c.shelf r
  if s.opened && decide (1 ≤ units) && decide (units ≤ s.span) && s.waiting.isEmpty && s.fits units then
    let t := s.place units
    (c.setShelf r { t with opOffset := shelfPtr t.span (match t.entries.getLast? with | some e => e.start + e.skip | none => 0) }).setOpResult r false
  else c.setOpResult r true

/-- COMMIT through SP_SHELF_OP: RESULT = 0 when the commit took effect, even where SIG_SYNC was refused (R166). The
register path shows refusals in RESULT alone (R169, R184). -/
def Chip.shelfOpCommit (c : Chip) (r : ShelfRef) (q : Nat) : Chip :=
  let (s, code) := (c.shelf r).commit q
  let c := (c.setShelf r s).setOpResult r (code != COMP_OK)
  if code = COMP_OK && s.sigSync != 0xFFFF then (c.syncInc (r.cluster / 8) (c.shelfPart r) s.sigSync 1).1 else c

/-- RELEASE through SP_SHELF_OP. -/
def Chip.shelfOpRelease (c : Chip) (r : ShelfRef) (q : Nat) : Chip :=
  let (s, code) := (c.shelf r).release q
  (c.setShelf r s).setOpResult r (code != COMP_OK)

end Sys2Proof.Machine
end

