-- ==== Sys2Proof/Machine/Space.lean ====
section
/-! DEFINITION. The local address space (R23, R24): where scratchpads, commons and accumulators lie, and reads of the
64-byte records that sequencers fetch. -/

namespace Sys2Proof.Machine

/-- First local address of a cluster window (R23). -/
def clusterBase (cl : Nat) : Nat := 0x010000000000 + (cl / 8) * 0x1000000000 + (cl % 8) * 0x100000000

/-- Commons of a cluster (R24). -/
def cmBase (cl : Nat) : Nat := clusterBase cl

/-- Scratchpad of a logical core (R24). -/
def spBase (cl k : Nat) : Nat := clusterBase cl + 0x10000000 + k * 0x400000

/-- Accumulator memory of a logical core (R24). -/
def accBase (cl k : Nat) : Nat := clusterBase cl + 0x20000000 + k * 0x40000

/-- Size of a core scratchpad. -/
def spSize : Nat := 0x300000

/-- First byte of shelf 63 (R152). -/
def spillBase : Nat := 0x2C0000

/-- Size of a commons. -/
def cmSize : Nat := 0x1800000

/-- What a 48-bit local address names (R23, R24). -/
inductive Place where
  | lpddr
  | commons (cl off : Nat)
  | scratch (cl k off : Nat)
  | acc (cl k off : Nat)
  | regs (d off : Nat)
  | nothing
  deriving DecidableEq, Repr

/-- Decode a local address, before variants and removed clusters are looked at (R23, R24). -/
def placeOf (a : Nat) : Place :=
  if a < 0xFC00000000 then .lpddr
  else if a < 0x010000000000 then .nothing
  else if a < 0x014000000000 then
    let r := a - 0x010000000000
    let d := r / 0x1000000000
    let q := r % 0x1000000000
    if q < 0x800000000 then
      let cl := 8 * d + q / 0x100000000
      let o := q % 0x100000000
      if o < cmSize then .commons cl o
      else if o < 0x10000000 then .nothing
      else if o < 0x14000000 then
        let k := (o - 0x10000000) / 0x400000
        let x := (o - 0x10000000) % 0x400000
        if x < spSize then .scratch cl k x else .nothing
      else if o < 0x20000000 then .nothing
      else if o < 0x20400000 then .acc cl ((o - 0x20000000) / 0x40000) ((o - 0x20000000) % 0x40000)
      else .nothing
    else .nothing
  else if a < 0x01F000000000 then .nothing
  else if a < 0x01F400000000 then .regs ((a - 0x01F000000000) / dieSpan) ((a - 0x01F000000000) % dieSpan)
  else .nothing

/-- An access at port 2, 3, 5 or 6 of a scratchpad, or at the DMA or control-core port of a commons, has waited for a free number of core cycles (R149, R154). -/
def Chip.portWait (c : Chip) (a : Nat) : Chip :=
  match placeOf a with
  | .scratch cl k _ => (c.addF (.sp cl k) R.SP_CONFLICT_CYC (Config.waitCycles c.freeCtr).toNat).tick
  | .commons cl _ => (c.addF (.cm cl) R.CM_WAIT_CYC (Config.waitCycles c.freeCtr).toNat).tick
  | _ => c

/-- Module-wide core number, the key of per-core state. -/
def coreKey (cl k : Nat) : Nat := cl * 16 + k

/-- Bytes of a core's scratchpad. -/
def Chip.spRead (c : Chip) (cl k off n : Nat) : List Byte := c.mem.readN (spBase cl k + off) n

/-- Write bytes of a core's scratchpad. -/
def Chip.spWrite (c : Chip) (cl k off : Nat) (bs : List Byte) : Chip := c.poke (spBase cl k + off) bs

/-- Key number of the stochastic-rounding key that a cluster's partition holds (R140). -/
def Chip.srKey (c : Chip) (cl : Nat) : Nat :=
  match c.partOf cl with
  | some p => KMap.getD c.keys p 0
  | none => 0

/-- Physical core that holds logical core `k` of cluster `cl` (R12, R103). -/
def mapField (k : Nat) : Field := ⟨0x40 + 8 * (k / 8), 8 * (k % 8), 5, .ro, 0, true⟩

/-- Score of physical core `p` (R99, R103). -/
def scoreField (p : Nat) : Field := ⟨8 * (p / 4), 16 * (p % 4), 16, .ro, 0, true⟩

/-- Physical core behind a logical one. -/
def Chip.physOf (c : Chip) (cl k : Nat) : Nat := c.getF (.mecl cl) (mapField k)

/-- Add a weight to the score of the physical core behind a logical core; it saturates (R97-R99, R120). -/
def Chip.addScore (c : Chip) (cl k w : Nat) : Chip := c.satF (.mecl cl) (scoreField (c.physOf cl k)) w

/-- MISS_WEIGHT and HARD_WEIGHT of a cluster (R103). -/
def Chip.missWeight (c : Chip) (cl : Nat) : Nat := c.getF (.mecl cl) R.MECL_BENCH_CTRL_MISS_WEIGHT
def Chip.hardWeight (c : Chip) (cl : Nat) : Nat := c.getF (.mecl cl) R.MECL_BENCH_CTRL_HARD_WEIGHT

/-! Per-core state. -/

def Chip.seqOf (c : Chip) (cl k : Nat) : CoreSeq := KMap.getD c.seqs (coreKey cl k) {}
def Chip.setSeq (c : Chip) (cl k : Nat) (q : CoreSeq) : Chip := { c with seqs := c.seqs.insert (coreKey cl k) q }
def Chip.meOf (c : Chip) (cl k : Nat) : Me := KMap.getD c.mes (coreKey cl k) {}
def Chip.setMe (c : Chip) (cl k : Nat) (m : Me) : Chip := { c with mes := c.mes.insert (coreKey cl k) m }
def Chip.tbOf (c : Chip) (cl k : Nat) : Tb := KMap.getD c.tbs (coreKey cl k) {}
def Chip.setTb (c : Chip) (cl k : Nat) (t : Tb) : Chip := { c with tbs := c.tbs.insert (coreKey cl k) t }

end Sys2Proof.Machine
end

