-- ==== Sys2Proof/Machine/CoreSeq.lean ====
section
/-! DEFINITION. The core sequencer (R205-R210, R498): program buffers, command slots with LOOP increments, the checks of
LOOP, WAIT, SIGNAL, END and unknown opcodes, and how a program stops. -/

namespace Sys2Proof.Machine

/-- Scratchpad offset of a program buffer (R205). -/
def bufOff (b : Nat) : Nat := if b = 0 then 0x280000 else 0x29C000

/-- Command slots that the sequencer reads: LENGTH above 1,791 is taken as 1,791 (R205). -/
def CoreSeq.limit (q : CoreSeq) : Nat := satNat 1791 q.length

/-- Scratchpad offset of a command slot (R205). -/
def CoreSeq.slotOff (q : CoreSeq) (slot : Nat) : Nat := bufOff q.buf + 64 + 64 * slot

/-- Increment that one LOOP entry gives in the frame's present iteration (R207). -/
def loopIncrement (f : LoopFrame) (entry : Nat) : Nat :=
  let e := f.cmd.drop (4 + 8 * entry)
  let period := recNat e 2 2
  let step := sextInt 32 (recNat e 4 4)
  let n := if period = 0 then f.iter else f.iter % period
  wrapInt 32 (step * (n : Int))

/-- One LOOP entry applied to the words of the command in `slot` (R207). -/
def loopPatch (f : LoopFrame) (slot : Nat) (bs : List Byte) (entry : Nat) : List Byte :=
  let e := f.cmd.drop (4 + 8 * entry)
  let target := recNat e 0 1
  let word := recNat e 1 1 % 16
  if target != 0xFF && f.slot + 1 + target == slot then
    splice bs (4 * word) (leBytes 4 (recNat bs (4 * word) 4 + loopIncrement f entry))
  else bs

/-- The words of the command in `slot` with every active LOOP's increments added (R207). -/
def CoreSeq.patched (q : CoreSeq) (slot : Nat) (bs : List Byte) : List Byte :=
  q.loops.foldl (fun bs f => (upto 6).foldl (loopPatch f slot) bs) bs

/-- The command that the sequencer of a core is at. -/
def Chip.seqCmd (c : Chip) (cl k : Nat) : List Byte :=
  let q := c.seqOf cl k
  q.patched q.slot (c.spRead cl k (q.slotOff q.slot) 64)

/-- Opcodes of R206. -/
def knownTpOp (op : Nat) : Bool :=
  (decide (1 ≤ op) && decide (op ≤ 4)) || op == 8 || (decide (0xA ≤ op) && decide (op ≤ 0xF))

/-- Count a completed command (R498). -/
def Chip.cmdDone (c : Chip) (cl k : Nat) (n : Nat) : Chip := c.addF (.core cl k) R.CORE_SEQ_CMDS_COMMANDS n

/-- Stop the program with a code: it issues no further command (R209). -/
def Chip.seqStop (c : Chip) (cl k : Nat) (code : Code) : Chip :=
  (c.dropWaits (.seq cl k)).setSeq cl k { c.seqOf cl k with stop := some code }

/-- A check of R210 fails: TP_INVALID is set, CL_PLAN_ERR records the reason, the program stops. -/
def Chip.tpRefuse (c : Chip) (cl k reason : Nat) : Chip :=
  let q := c.seqOf cl k
  ((c.raise (.plan cl) St.PLAN_TP_INVALID).setFs (.plan cl)
    [(R.PLAN_ERR_REASON, reason), (R.PLAN_ERR_SOURCE, 1), (R.PLAN_ERR_CORE, k),
     (R.PLAN_ERR_ADDR, q.slotOff q.slot), (R.PLAN_ERR_STEP, q.step)]).seqStop cl k COMP_TP_CMD_INVALID

/-- Leave the loop bodies that end before `slot`: the frames still active, the next slot, and the LOOPs completed
(R207). -/
def loopBack : List LoopFrame → Nat → Nat → List LoopFrame × Nat × Nat
  | [], slot, n => ([], slot, n)
  | f :: r, slot, n =>
    if slot = f.slot + f.body + 1 then
      if f.iter + 1 < f.count then ({ f with iter := f.iter + 1 } :: r, f.slot + 1, n)
      else loopBack r slot (n + 1)
    else (f :: r, slot, n)

/-- What the sequencer finds at the slot it has reached: the end of the buffer without END, or an unknown opcode, stops
the program (R210). -/
def Chip.seqSettle (c : Chip) (cl k : Nat) : Chip :=
  let q := c.seqOf cl k
  if q.limit ≤ q.slot then c.tpRefuse cl k 0x24
  else if knownTpOp (recNat (c.seqCmd cl k) 0 1) then c
  else c.tpRefuse cl k 0x20

/-- Go on to the next slot, closing loop bodies; each LOOP that ends counts once (R207, R498). -/
def Chip.seqAdvance (c : Chip) (cl k : Nat) : Chip :=
  let q := c.seqOf cl k
  let (loops, slot, n) := loopBack q.loops (q.slot + 1) 0
  ((c.setSeq cl k { q with loops := loops, slot := slot }).cmdDone cl k n).seqSettle cl k

/-- Take the next sequence number (R208). -/
def Chip.seqNumber (c : Chip) (cl k : Nat) : Chip × Nat :=
  let q := c.seqOf cl k
  (c.setSeq cl k { q with seqNo := q.seqNo + 1 }, q.seqNo)

/-- The shelf that an SP_MOVE names; 0xFF names an absolute commons offset (R156). -/
def moveShelf (cl : Nat) (bs : List Byte) : Option ShelfRef :=
  if recNat bs 6 1 = 0xFF then none else some (.commons cl (recNat bs 6 1))

/-- Does a move in flight hold the sequencer (R157): its claim waits, or its pull names an entry not yet committed? -/
def Chip.moveHeld (c : Chip) (cl : Nat) (m : Move) : Bool :=
  m.waiting || (!bit (recNat m.cmd 1 1) 0 && match moveShelf cl m.cmd, m.entry with
    | some r, some q => (match (c.shelf r).entry? q with | some e => !e.committed | none => false)
    | _, _ => false)

/-- Core-side region of an SP_MOVE: first byte and first byte beyond (R156, R159). -/
def moveRegion (bs : List Byte) : Nat × Nat :=
  let off := field (recNat bs 0x14 4) 0 22
  (off, off + (recNat bs 2 2 - 1) * recNat bs 0x18 4 + recNat bs 4 2)

/-- Does a region of the core's scratchpad overlap the core side of a move in flight (R159)? -/
def Chip.moveClash (c : Chip) (cl k : Nat) (lo hi : Nat) : Bool :=
  (c.seqOf cl k).moves.any (fun m => let r := moveRegion m.cmd; decide (r.1 < hi) && decide (lo < r.2) && decide (lo < hi))

/-- Is the sequencer free to issue: a program runs, it has neither ended nor stopped, no WAIT and no move holds it? -/
def Chip.seqFree (c : Chip) (cl k : Nat) : Bool :=
  let q := c.seqOf cl k
  q.running && !q.ended && q.stop.isNone && !c.waitsOn (.seq cl k) && q.veHold.isNone && !q.moves.any (c.moveHeld cl)

/-- The command to issue when the sequencer is free and stands at opcode `op`. -/
def Chip.seqAt (c : Chip) (cl k op : Nat) : Option (List Byte) :=
  if c.seqFree cl k then
    let bs := c.seqCmd cl k
    if recNat bs 0 1 = op then some bs else none
  else none

/-- Have all commands issued so far completed (R206, R209)? -/
def Chip.seqQuiet (c : Chip) (cl k : Nat) : Bool :=
  let q := c.seqOf cl k
  (c.meOf cl k).sweeps.isEmpty && q.moves.isEmpty && q.runs.isEmpty &&
    (c.tbOf cl k).aq.all (·.ready) && (c.tbOf cl k).wq.all (·.ready)

/-- Partition whose program the core runs. -/
def Chip.seqPart (c : Chip) (cl k : Nat) : Nat := (c.seqOf cl k).part

/-- Is partition `p` a member of a share set of more than one (R364)? -/
def Chip.shared (c : Chip) (p : Nat) : Bool := c.getF (.part p) R.PART_STATE_SET_SIZE != 0

/-- Is offset `off` of a scratchpad, commons or accumulator inside member `p`'s share (R364)? Its planner data are; the program buffers and the spill shelf belong to the
member whose slice is running. -/
def Chip.shareHas (c : Chip) (p : Nat) : Place → Bool
  | .scratch cl _ o => inside' (o / 1024) (c.getF (.part p) R.PART_SHARE_SP_BASE_KIB) (c.getF (.part p) R.PART_SHARE_SP_KIB) ||
      inside' o (0x2B8000 + 0x2000 * c.getF (.part p) R.PART_STATE_MEMBER) 0x2000 ||
      (c.partOf cl == some p && (inside' o 0x280000 0x38000 || inside' o 0x2C0000 0x40000))
  | .commons _ o => inside' (o / 1024) (c.getF (.part p) R.PART_SHARE_CM_BASE_KIB) (c.getF (.part p) R.PART_SHARE_CM_KIB)
  | .acc _ _ o => inside' (o / 0x2000) (c.getF (.part p) R.PART_SLICE_ACC_BASE) (c.getF (.part p) R.PART_SLICE_ACC_COUNT)
  | _ => false
where
  inside' (x b n : Nat) : Bool := decide (b ≤ x) && decide (x < b + n)

/-- In a share set, does a command of member `p` on core `k` name scratchpad bytes outside what R364 gives the member (R358)? Ranges are first byte and first byte beyond. -/
def Chip.spDenied (c : Chip) (cl k p : Nat) (l : List (Nat × Nat)) : Bool :=
  c.shared p && l.any (fun r => decide (r.1 < r.2) && !(c.shareHas p (.scratch cl k r.1) && c.shareHas p (.scratch cl k (r.2 - 1))))

/-- A command names bytes outside its member's share (R358): it has no effect, DENIED is set and the program stops. -/
def Chip.seqDenied (c : Chip) (cl k : Nat) : Chip := (c.raise (.part (c.seqPart cl k)) St.PART_DENIED).seqStop cl k COMP_MEM_DENIED

/-! WAIT, SIGNAL, LOOP and END (R206, R207). -/

/-- WAIT: checked, then met at once or registered as a wait that holds the sequencer. -/
def Chip.tpWait (c : Chip) (cl k : Nat) : Chip :=
  match c.seqAt cl k 0xC with
  | none => c
  | some bs =>
    if recNat bs 1 1 ≠ 0 || !allZero (bs.drop 8) then c.tpRefuse cl k 0x25
    else
      let p := c.seqPart cl k
      let n := recNat bs 2 2
      let thr := recNat bs 4 4
      if c.syncRange p ≤ n then
        (c.syncRangeErr (cl / 8) c.deviceId p n).seqStop cl k COMP_SYNC_RANGE
      else if thr ≤ c.syncVal (c.syncIndex p n) then (c.cmdDone cl k 1).seqAdvance cl k
      else c.addWait (c.syncIndex p n) thr (.seq cl k)

/-- SIGNAL: performed once every earlier command of the program has completed. -/
def Chip.tpSignal (c : Chip) (cl k : Nat) : Chip :=
  match c.seqAt cl k 0xD with
  | none => c
  | some bs =>
    if recNat bs 4 4 = 0 then c.tpRefuse cl k 0x26
    else if recNat bs 1 1 ≠ 0 || !allZero (bs.drop 8) then c.tpRefuse cl k 0x25
    else if !c.seqQuiet cl k then c
    else
      let (c, code) := c.syncInc (cl / 8) (c.seqPart cl k) (recNat bs 2 2) (recNat bs 4 4)
      if code = COMP_OK then (c.cmdDone cl k 1).seqAdvance cl k else c.seqStop cl k code

/-- The checks of a LOOP in slot `i` of a program (R207, R210): the failing reason, if any. `opAt` gives the opcode byte
of a slot. -/
def loopReason (q : CoreSeq) (opAt : Nat → Nat) (bs : List Byte) : Option Nat :=
  let body := recNat bs 1 1
  let count := recNat bs 2 2
  let entry (e : Nat) : List Byte := bs.drop (4 + 8 * e)
  let used (e : Nat) : Bool := recNat (entry e) 0 1 != 0xFF
  let badTarget (e : Nat) : Bool :=
    let t := recNat (entry e) 0 1
    used e && (decide (body ≤ t) || opAt (q.slot + 1 + t) == 0xE || opAt (q.slot + 1 + t) == 0xF)
  let badReserved (e : Nat) : Bool :=
    if used e then decide (16 ≤ recNat (entry e) 1 1) else !allZero (((entry e).drop 1).take 7)
  let pastOuter : Bool := match q.loops.head? with
    | some f => decide (f.slot + f.body < q.slot + body)
    | none => false
  if body = 0 || 32 < body || count = 0 || q.limit ≤ q.slot + body || pastOuter then some 0x21
  else if 3 ≤ q.loops.length then some 0x22
  else if (upto 6).any badTarget then some 0x23
  else if (upto 6).any badReserved || !allZero (bs.drop 0x34) then some 0x25
  else none

/-- LOOP: checked, then its body begins with iteration 0. -/
def Chip.tpLoop (c : Chip) (cl k : Nat) : Chip :=
  match c.seqAt cl k 0xE with
  | none => c
  | some bs =>
    let q := c.seqOf cl k
    match loopReason q (fun i => recNat (c.spRead cl k (q.slotOff i) 1) 0 1) bs with
    | some r => c.tpRefuse cl k r
    | none =>
      (c.setSeq cl k { q with
        loops := ⟨q.slot, recNat bs 1 1, recNat bs 2 2, 0, bs⟩ :: q.loops, slot := q.slot + 1 }).seqSettle cl k

/-- END: the program ends once every command before it has completed (R209). -/
def Chip.tpEndCmd (c : Chip) (cl k : Nat) : Chip :=
  match c.seqAt cl k 0xF with
  | none => c
  | some bs =>
    if !allZero (bs.drop 1) then c.tpRefuse cl k 0x25
    else c.setSeq cl k { c.seqOf cl k with ended := true }

/-- The threshold of a WAIT is met: the command completes and the sequencer goes on (R206, R280). -/
def Chip.seqWaitMet (c : Chip) (cl k : Nat) : Chip :=
  ((c.dropWaits (.seq cl k)).cmdDone cl k 1).seqAdvance cl k

/-! Program buffers (R205). -/

/-- Header of a program buffer: 64 bytes. -/
def Chip.header (c : Chip) (cl k b : Nat) : Nat := leNat (c.spRead cl k (bufOff b) 16)

/-- Does a buffer hold a VALID header? -/
def Chip.headerValid (c : Chip) (cl k b : Nat) : Bool := bit (c.header cl k b) 16

/-- Clear VALID of a buffer. -/
def Chip.clearValid (c : Chip) (cl k b : Nat) : Chip :=
  let v := recNat (c.spRead cl k (bufOff b) 4) 0 4
  c.spWrite cl k (bufOff b) (leBytes 4 (v - putField (v >>> 16) 16 1))

/-- The buffer from which the next program starts, when it is VALID: the one that the last program did not run from (R209), buffer 0 after a
reset (DESIGN CHOICE: log entry 82). -/
def Chip.nextBuffer (c : Chip) (cl k : Nat) : Option Nat :=
  let b := (c.seqOf cl k).next
  if c.headerValid cl k b then some b else none

/-- May the planner write a program into buffer `b`: it holds no VALID program, it is not the one in use, and a program there follows those
already written (R205, R209)? -/
def Chip.bufferFree (c : Chip) (cl k b : Nat) : Bool :=
  let q := c.seqOf cl k
  !c.headerValid cl k b && !(q.running && q.buf == b) && (q.next == b || c.headerValid cl k q.next)

/-- Start the program of buffer `b` for partition `p` (R205, R208, R209, R498). -/
def Chip.seqStart (c : Chip) (cl k b p : Nat) : Chip :=
  let h := c.header cl k b
  let q : CoreSeq := { running := true, buf := b, next := 1 - b, part := p, length := field h 0 16, last := bit h 17,
                       step := field h 32 32, prog := field h 64 32 }
  (c.setSeq cl k q).seqSettle cl k

end Sys2Proof.Machine
end

