-- ==== Sys2Proof/Machine/TransposeBuffer.lean ====
section
/-! DEFINITION. The transposing buffer (R104-R122): the checks of TB_LOAD, slots and queues, transposition with
conversion, the checks of a sweep's read, and the release of slots. -/

namespace Sys2Proof.Machine

/-! Fields of a TB_LOAD command (R109). -/

def tbQueueW (bs : List Byte) : Bool := bit (recNat bs 1 1) 0
def tbCvt (bs : List Byte) : Bool := bit (recNat bs 1 1) 1
def tbSrcFmt (bs : List Byte) : Nat := field (recNat bs 2 1) 0 4
def tbDstFmt (bs : List Byte) : Nat := field (recNat bs 2 1) 4 4
def tbUses (bs : List Byte) : Nat := field (recNat bs 3 1) 0 4
def tbRows (bs : List Byte) : Nat := recNat bs 4 2
def tbCols (bs : List Byte) : Nat := recNat bs 6 2
def tbSrcOff (bs : List Byte) : Nat := field (recNat bs 8 4) 0 22
def tbPitch (bs : List Byte) : Nat := recNat bs 0xC 4
def tbScOff (bs : List Byte) : Nat := recNat bs 0x10 4
def tbScPitch (bs : List Byte) : Nat := recNat bs 0x14 4
def tbScale (bs : List Byte) : Int := sextInt 8 (recNat bs 0x18 1)
def tbRnd (bs : List Byte) : Nat := field (recNat bs 0x19 1) 0 3
def tbDown (bs : List Byte) : Bool := bit (recNat bs 0x1A 1) 0

/-- Bytes that the data of a source region reaches beyond SRC_OFF. -/
def tbDataSpan (bs : List Byte) : Nat := (tbRows bs - 1) * tbPitch bs + rowBytes (tbSrcFmt bs) (tbCols bs)

/-- Bytes that the scales of a source region reach beyond SC_OFF (R115). -/
def tbScaleSpan (bs : List Byte) : Nat :=
  if tbDown bs then (ceilDiv (tbRows bs) 32 - 1) * tbScPitch bs + tbCols bs
  else (tbRows bs - 1) * tbScPitch bs + ceilDiv (tbCols bs) 32

/-- Offset of the region within its stored row, and the number of the stored row it begins on, counted from the start of
the scratchpad in rows of SRC_PITCH (log entry 21). -/
def tbInRow (bs : List Byte) : Nat := if tbPitch bs = 0 then tbSrcOff bs else tbSrcOff bs % tbPitch bs
def tbFirstRow (bs : List Byte) : Nat := if tbPitch bs = 0 then 0 else tbSrcOff bs / tbPitch bs

/-- The checks of R110 except OVERFILL, as (reason, failing). -/
def tbChecks (bs : List Byte) : List (Nat × Bool) :=
  let src := tbSrcFmt bs
  let dst := tbDstFmt bs
  let p := packClass dst
  let r := tbRows bs
  let n := tbCols bs
  [(0x01, decide (8 ≤ src) || decide (8 ≤ dst) || (!tbCvt bs && src != dst) ||
      (tbCvt bs && !(src == 0 && (dst == 1 || dst == 2)))),
   (0x02, r == 0 || n == 0 || (if tbQueueW bs then decide (32 < r) || decide (64 * p < n)
      else decide (64 < n) || decide (64 * p < r))),
   (0x03, tbSrcOff bs % 16 != 0 || tbPitch bs % 16 != 0 || tbScPitch bs % 16 != 0),
   (0x04, decide (spillBase < tbSrcOff bs + tbDataSpan bs) ||
      (isMx src && decide (spillBase < tbScOff bs + tbScaleSpan bs))),
   (0x05, isMx src && ((if tbDown bs then tbFirstRow bs % 32 != 0 else tbInRow bs % blockBytes src != 0) ||
      (packClass src == 2 && elemBits src == 6 && tbInRow bs % 48 != 0))),
   (0x06, tbUses bs == 0 || decide (8 < tbUses bs))]

/-- Reserved fields of a TB_LOAD (R109, R133). -/
def tbReserved (bs : List Byte) : Bool :=
  field (recNat bs 1 1) 2 6 != 0 || field (recNat bs 3 1) 4 4 != 0 || field (recNat bs 8 4) 22 10 != 0 ||
    field (recNat bs 0x19 1) 3 5 != 0 || decide (4 < tbRnd bs) || field (recNat bs 0x1A 1) 1 7 != 0 ||
    !allZero (bs.drop 0x1B)

/-! Slots (R107, R111, R114). -/

/-- Limit of a queue: 0 and values above 4 act as 4 (R125). -/
def Chip.tbMax (c : Chip) (cl k : Nat) (w : Bool) : Nat :=
  let v := c.getF (.tb cl k) (if w then R.TB_CTRL_W_MAX else R.TB_CTRL_A_MAX)
  if v = 0 || 4 < v then 4 else v

/-- Queue of a TB. -/
def Tb.queue (t : Tb) (w : Bool) : List TbTile := if w then t.wq else t.aq
def Tb.setQueue (t : Tb) (w : Bool) (l : List TbTile) : Tb := if w then { t with wq := l } else { t with aq := l }

/-- Is a slot free for a new tile of this queue (R107, R111)? -/
def Chip.tbRoom (c : Chip) (cl k : Nat) (w : Bool) : Bool :=
  let t := c.tbOf cl k
  decide (t.aq.length + t.wq.length < 5) && decide ((t.queue w).length < c.tbMax cl k w)

/-- Head of a queue: the oldest tile with uses left (R114). -/
def Tb.head (t : Tb) (w : Bool) : Option TbTile := (t.queue w).find? (fun x => decide (0 < x.uses))

/-- Does an issued sweep read a tile of a held slot, or will it (R111)? One that has not started does where its queue holds a tile with uses left; a sweep with kept
weights reads nothing from the W queue (R105). -/
def Sweep.readsTb (t : Tb) (s : Sweep) : Bool :=
  s.aTile.isSome || (!s.kept && s.wTile.isSome) || (bit (recNat s.cmd 1 1) 5 && (t.head false).isSome) ||
    (bit (recNat s.cmd 1 1) 6 && !s.kept && (t.head true).isSome)

/-- Record a TB refusal (R110, R113). -/
def Chip.tbErr (c : Chip) (cl k : Nat) (st : Status) (reason : Nat) (w src : Bool) (addr : Nat) : Chip :=
  (c.raise (.tb cl k) st).setFs (.tb cl k)
    [(R.TB_ERR_REASON, reason), (R.TB_ERR_QUEUE, b2n w), (R.TB_ERR_SOURCE, b2n src), (R.TB_ERR_ADDR, addr)]

/-- TB_LOAD (R109-R111): refused with the first reason of R110 in table order (DESIGN CHOICE where several fail at once: log entry 135), waits for a slot, or takes one at issue. -/
def Chip.tbLoad (c : Chip) (cl k : Nat) : Chip :=
  match c.seqAt cl k 0x8 with
  | none => c
  | some bs =>
    let w := tbQueueW bs
    let overfill := !c.tbRoom cl k w && !(c.meOf cl k).sweeps.any (Sweep.readsTb (c.tbOf cl k))
    match (tbChecks bs ++ [(0x07, overfill), (0x08, tbReserved bs)]).find? (fun (e : Nat × Bool) => e.2) with
    | some (reason, _) =>
      (c.tbErr cl k St.TB_CMD_INVALID reason w false ((c.seqOf cl k).slotOff (c.seqOf cl k).slot)).seqStop cl k
        COMP_TB_CMD_INVALID
    | none =>
      if c.spDenied cl k (c.seqPart cl k) ((tbSrcOff bs, tbSrcOff bs + tbDataSpan bs) ::
          (if isMx (tbSrcFmt bs) then [(tbScOff bs, tbScOff bs + tbScaleSpan bs)] else [])) then c.seqDenied cl k
      else if !c.tbRoom cl k w || c.moveClash cl k (tbSrcOff bs) (tbSrcOff bs + tbDataSpan bs) ||
          (isMx (tbSrcFmt bs) && c.moveClash cl k (tbScOff bs) (tbScOff bs + tbScaleSpan bs)) then c
      else
        let (c, n) := c.seqNumber cl k
        let t := c.tbOf cl k
        let tile : TbTile := ⟨bs, n, tbUses bs, 0, false, [], []⟩
        (c.setTb cl k (t.setQueue w (t.queue w ++ [tile]))).seqAdvance cl k

/-! Transposition (R108, R115, R116, R120). -/

/-- Column and scale accesses of a tile (R108, R115). -/
def tbAccesses (bs : List Byte) : Nat :=
  let src := tbSrcFmt bs
  let rows := ceilDiv (tbRows bs) 32
  let perGrain := if elemBits src = 6 then 3 else 1
  let width := match elemBits src with | 16 => 8 | 8 => 16 | 6 => 64 | _ => 32
  rows * ceilDiv (tbCols bs) width * perGrain + (if isMx src then rows else 0)

/-- Element (r, n) of the source region, converted as the slot holds it (R116); the draw is the same at every reading
(R140). -/
def Chip.tbElem (c : Chip) (cl k : Nat) (bs : List Byte) (seq r n : Nat) : Nat :=
  let src := tbSrcFmt bs
  let row := c.spRead cl k (tbSrcOff bs + r * tbPitch bs) (rowBytes src (tbCols bs))
  let raw := rawElem src row n
  if tbCvt bs then
    let draw := (Config.srDraw (c.srKey cl) (coreKey cl k) 2 seq (r * 256 + n)).toNat
    match fmtOf (tbDstFmt bs), rndOf (tbRnd bs) draw with
    | some f, some m => f.encode m ((Fmt.bf16.decode raw).scale (tbScale bs))
    | _, _ => raw
  else raw

/-- Block scale code of element (r, n) (R115); 127 where the format carries none. -/
def Chip.tbScaleOf (c : Chip) (cl k : Nat) (bs : List Byte) (r n : Nat) : Nat :=
  if isMx (tbSrcFmt bs) then
    let o := if tbDown bs then tbScOff bs + (r / 32) * tbScPitch bs + n else tbScOff bs + r * tbScPitch bs + n / 32
    leNat (c.spRead cl k o 1)
  else 127

/-- Fill a tile from its source (R112, R115, R116). -/
def Chip.tbFill (c : Chip) (cl k : Nat) (t : TbTile) : TbTile :=
  let grid (f : Nat → Nat → Nat) : List (List Nat) :=
    (upto (tbRows t.cmd)).map (fun r => (upto (tbCols t.cmd)).map (fun n => f r n))
  { t with ready := true, rows := grid (c.tbElem cl k t.cmd t.seq), scales := grid (c.tbScaleOf cl k t.cmd) }

/-- Accesses of one grain of a tile (R108). -/
def tbGrainAccesses (bs : List Byte) : Nat := if elemBits (tbSrcFmt bs) = 6 then 3 else 1

/-- What the failed checks of a tile's grains do (R120): each failure sets XPOSE_MISS, adds MISS_WEIGHT and reads the
grain again; XRETRY + 1 failures in a row send the grain through the serial path, which reads the grain once more and counts that access (DESIGN CHOICE: log entry
100). -/
def Chip.tbGrains (c : Chip) (cl k : Nat) (grain : Nat) (fails : List Nat) : Chip :=
  let lim := c.getF (.tb cl k) R.TB_CTRL_XRETRY + 1
  forAll fails c (fun c f =>
    let n := satNat lim f
    let c := forAll (upto n) c (fun c _ => ((c.raise (.tb cl k) St.TB_XPOSE_MISS).addScore cl k (c.missWeight cl)).addF
      (.tb cl k) R.TB_ACCESSES grain)
    if n = lim then (c.raise (.tb cl k) St.TB_XPOSE_HARD).addScore cl k (c.hardWeight cl) else c)

/-- Replace the tile of sequence number `n` in a queue. -/
def tileSet (l : List TbTile) (n : Nat) (f : TbTile → TbTile) : List TbTile := l.map (fun t => if t.seq = n then f t else t)

/-- The tile whose accesses are performed next: the oldest in issue order that is not readable (R112). -/
def Tb.filling (t : Tb) : Option (Bool × TbTile) :=
  match t.aq.find? (fun x => !x.ready), t.wq.find? (fun x => !x.ready) with
  | none, none => none
  | some a, none => some (false, a)
  | none, some w => some (true, w)
  | some a, some w => if a.seq < w.seq then some (false, a) else some (true, w)

/-- A TB tile becomes readable (R112, R120): `fails` gives, per grain, how many times in a row its check fails, `conflict` the core cycles that bank
conflicts took (R125, R147). The TB_LOAD completes. -/
def Chip.tbTileReady (c : Chip) (cl k : Nat) (fails : List Nat) (conflict : Nat) : Chip :=
  match (c.tbOf cl k).filling with
  | none => c
  | some (w, tile) =>
    let t := c.tbOf cl k
    let full := c.tbFill cl k tile
    let c := c.setTb cl k (t.setQueue w (tileSet (t.queue w) tile.seq (fun _ => full)))
    let c := (((c.addF (.tb cl k) R.TB_TILES 1).addF (.tb cl k) R.TB_ACCESSES (tbAccesses tile.cmd)).addF (.tb cl k) R.TB_CONFLICT_CYC conflict).addF
      (.sp cl k) R.SP_CONFLICT_CYC conflict
    (c.tbGrains cl k (tbGrainAccesses tile.cmd) fails).cmdDone cl k 1

/-! Reads by sweeps (R105, R113, R114). -/

/-- First failing reason of R113, in table order (DESIGN CHOICE where several fail at once: log entry 135), for a sweep with the given command words; `kept` sweeps read nothing from the W queue
(R105). -/
def tbReadReason (t : Tb) (bs : List Byte) (kept : Bool) : Option Nat :=
  let f := recNat bs 1 1
  let aTb := bit f 5
  let wTb := bit f 6
  let wRead := wTb && !kept
  let a := if aTb then t.head false else none
  let w := if wRead then t.head true else none
  let m := recNat bs 4 2
  let kT := recNat bs 6 2
  let n := recNat bs 8 2
  ([(0x10, (aTb && a.isNone) || (wRead && w.isNone)),
    (0x11, (match a with | some x => tbDstFmt x.cmd != field (recNat bs 2 1) 0 4 | none => false) ||
           (match w with | some x => tbDstFmt x.cmd != field (recNat bs 2 1) 4 4 | none => false)),
    (0x12, (match a with | some x => tbCols x.cmd != m || tbRows x.cmd != kT | none => false) ||
           (match w with | some x => tbCols x.cmd != kT || tbRows x.cmd != n | none => false)),
    (0x13, aTb && bit f 4),
    (0x14, (aTb || wTb) && (recNat bs 0 1 != 1 || (aTb && wTb)))].find? (·.2)).map (·.1)

/-- Take one use of the head tile of a queue for a sweep (R114). -/
def Tb.take (t : Tb) (w : Bool) (tile : TbTile) : Tb :=
  t.setQueue w (tileSet (t.queue w) tile.seq (fun x => { x with uses := x.uses - 1, readers := x.readers + 1 }))

/-- A sweep that read a tile has committed: the slot is released when no use and no reader is left (R114). -/
def Tb.give (t : Tb) (w : Bool) (seq : Nat) : Tb :=
  t.setQueue w ((tileSet (t.queue w) seq (fun x => { x with readers := x.readers - 1 })).filter
    (fun x => !(x.seq == seq && x.uses == 0 && x.readers == 0)))

/-- The program ends: every tile is discarded, LEFTOVER set when any had uses left (R122). -/
def Chip.tbDiscard (c : Chip) (cl k : Nat) : Chip :=
  let t := c.tbOf cl k
  (c.raiseIf ((t.aq ++ t.wq).any (fun x => decide (0 < x.uses))) (.tb cl k) St.TB_LEFTOVER).setTb cl k {}

end Sys2Proof.Machine
end

