-- ==== Sys2Proof/Machine/MatrixEngine.lean ====
section
/-! DEFINITION. The matrix engine (R67-R101, R128-R138): the checks of its commands, the sums of a sweep and of its
checksums, verdicts, commits into virtual accumulator tiles, stores, and the handling of accumulator errors. -/

namespace Sys2Proof.Machine

/-! Fields of an ME command (R70, R71, R128). -/

def meOp (bs : List Byte) : Nat := recNat bs 0 1
def meFlag (bs : List Byte) (n : Nat) : Bool := bit (recNat bs 1 1) n
def meFmtA (bs : List Byte) : Nat := field (recNat bs 2 1) 0 4
def meFmtW (bs : List Byte) : Nat := field (recNat bs 2 1) 4 4
def meVt (bs : List Byte) : Nat := field (recNat bs 3 1) 0 5
def meWin (bs : List Byte) : Nat := field (recNat bs 3 1) 5 1
def meM (bs : List Byte) : Nat := recNat bs 4 2
def meK (bs : List Byte) : Nat := recNat bs 6 2
def meN (bs : List Byte) : Nat := recNat bs 8 2
def meKh (bs : List Byte) : Nat := field (recNat bs 0xA 2) 0 3 + 1
def meKw (bs : List Byte) : Nat := field (recNat bs 0xA 2) 3 3 + 1
def meStride (bs : List Byte) : Nat := field (recNat bs 0xA 2) 6 1 + 1
def meCh (bs : List Byte) : Nat := field (recNat bs 0xA 2) 7 6
def meTaps (bs : List Byte) : Nat := meKh bs * meKw bs * meCh bs
def meScale (bs : List Byte) : Int := sextInt 8 (recNat bs 0xC 1)
def meRnd (bs : List Byte) : Nat := field (recNat bs 0xD 1) 0 3
def meAOff (bs : List Byte) : Nat := field (recNat bs 0x10 4) 0 22
def meAPitch (bs : List Byte) : Nat := recNat bs 0x14 4
def meChPitch (bs : List Byte) : Nat := recNat bs 0x18 4
def meWOff (bs : List Byte) : Nat := field (recNat bs 0x1C 4) 0 22
def meWPitch (bs : List Byte) : Nat := recNat bs 0x20 4
def meASc (bs : List Byte) : Nat := recNat bs 0x24 4
def meWSc (bs : List Byte) : Nat := recNat bs 0x28 4
def meBias (bs : List Byte) : Nat := field (recNat bs 0x2C 4) 0 22
def meMaxOff (bs : List Byte) : Nat := recNat bs 0x30 4

/-- Mode code of an OP: 1 WS, 2 RR, 3 WSH (R67, R102). -/
def meIsStore (bs : List Byte) : Bool := meOp bs == 4
def meCvt (bs : List Byte) : Bool := !meIsStore bs && meFlag bs 4
def meInit (bs : List Byte) : Bool := meFlag bs 0
def meBiased (bs : List Byte) : Bool := meFlag bs 0 && meFlag bs 1
def meKeepW (bs : List Byte) : Bool := meFlag bs 3
def meATb (bs : List Byte) : Bool := meFlag bs 5
def meWTb (bs : List Byte) : Bool := meFlag bs 6

/-- Packing factor of a sweep (R68). -/
def meP (bs : List Byte) : Nat := packClass (meFmtA bs)

/-- Cell rows that hold a K position each, and the distance along K between the element slots of one cell row: 64 in WS
(R104), 8 in WSH (R78), the number of kernel taps in RR (R80). -/
def meRows (bs : List Byte) : Nat := if meOp bs = 3 then 8 else 64
def meSlotStep (bs : List Byte) : Nat :=
  match meOp bs with | 3 => 8 | 2 => meTaps bs | _ => 64

/-- Is the streamed operand read from memory in an MX format (R129)? -/
def meMxA (bs : List Byte) : Bool := isMx (meFmtA bs) && !meCvt bs

/-! The checks of R72. -/

/-- First byte beyond a region of `n` items at `off`, `pitch` apart and `len` bytes each; an empty region reaches
nothing. -/
def reach (off n pitch len : Nat) : Nat := if n = 0 || len = 0 then 0 else off + (n - 1) * pitch + len

/-- First byte beyond the streamed operand of a sweep (R70, R81). -/
def meAReach (bs : List Byte) : Nat :=
  let fmt := if meCvt bs then 0 else meFmtA bs
  if meOp bs = 2 then
    let seg := if meStride bs = 1 then meM bs + meKw bs - 1 else 2 * meM bs + meKw bs - 2
    reach (meAOff bs + (meKh bs - 1) * meAPitch bs) (meCh bs * meP bs) (meChPitch bs) (rowBytes fmt seg)
  else reach (meAOff bs) (meM bs) (meAPitch bs) (rowBytes fmt (meK bs))

/-- The scratchpad regions that a command reads or writes: first byte, first byte beyond. -/
def meRegions (bs : List Byte) (kept : Bool) : List (Nat × Nat) :=
  let asc := field (meASc bs) 0 22
  let wsc := field (meWSc bs) 0 22
  let scA (n : Nat) : Nat × Nat := (asc, reach asc (meM bs) (meAPitch bs / blockBytes (meFmtA bs)) n)
  if meIsStore bs then
    let data := if isMx (meFmtA bs) then blockBytes (meFmtA bs) else rowBytes (meFmtA bs) (meN bs)
    (if meN bs = 0 then [] else (meAOff bs, reach (meAOff bs) (meM bs) (meAPitch bs) data) ::
      (if isMx (meFmtA bs) then [scA 1] else [])) ++
    (if meMaxOff bs = 0xFFFFFFFF then [] else [(field (meMaxOff bs) 0 22, field (meMaxOff bs) 0 22 + 4)])
  else if meM bs = 0 || meN bs = 0 then []
  else
    (if meATb bs || meK bs = 0 then [] else (meAOff bs, meAReach bs) ::
      (if meMxA bs then [scA (ceilDiv (field (meASc bs) 22 5 + meK bs) 32)] else [])) ++
    (if meWTb bs || kept || meK bs = 0 then [] else
      (meWOff bs, reach (meWOff bs) (meK bs) (meWPitch bs) (rowBytes (meFmtW bs) (meN bs))) ::
      (if isMx (meFmtW bs) then [(wsc, reach wsc (ceilDiv (field (meWSc bs) 22 5 + meK bs) 32)
        (meWPitch bs * 8 / elemBits (meFmtW bs)) (meN bs))] else [])) ++
    (if meBiased bs then [(meBias bs, meBias bs + 4 * meN bs)] else [])

/-- Everything a command reads or writes in scratchpad ends by this offset (R72 RANGE). -/
def meReach (bs : List Byte) (kept : Bool) : Nat := (meRegions bs kept).foldl (fun a r => max a r.2) 0

/-- Must a command wait for a move in flight (R159)? -/
def Chip.meClash (c : Chip) (cl k : Nat) (bs : List Byte) (kept : Bool) : Bool :=
  (meRegions bs kept).any (fun r => c.moveClash cl k r.1 r.2)

/-- Alignments of R70, R129 and R136. Those of R129 bind the operands of a sweep, not the destination of an ACC_STORE. BIAS_OFF counts only where the sweep adds a
bias; A_OFF, A_PITCH, W_OFF and W_PITCH count also where the operand comes from the TB or the weights are kept (DESIGN CHOICE: log entry 95). -/
def meMisaligned (bs : List Byte) : Bool :=
  let six (v : Nat) : Bool := v % 48 != 0
  let a := meAOff bs % 16 != 0 || meAPitch bs % 16 != 0
  let mxA := meMxA bs && ((elemBits (meFmtA bs) == 8 && meAPitch bs % 32 != 0) ||
    (elemBits (meFmtA bs) == 6 && (six (meAOff bs) || six (meAPitch bs))))
  if meIsStore bs then a || (isMx (meFmtA bs) && field (meASc bs) 22 5 != 0)
  else a || mxA || meWOff bs % 16 != 0 || meWPitch bs % 16 != 0 ||
    (meOp bs == 2 && meChPitch bs % 16 != 0) || (meBiased bs && meBias bs % 16 != 0) ||
    (elemBits (meFmtW bs) == 6 && (six (meWOff bs) || six (meWPitch bs)))

/-- Reserved fields and reserved values (R70, R71, R129, R133, R138). -/
def meReserved (bs : List Byte) : Bool :=
  let top (o : Nat) : Bool := field (recNat bs o 4) 22 10 != 0
  field (recNat bs 3 1) 6 2 != 0 || (meOp bs == 2 && field (recNat bs 0xA 2) 13 3 != 0) ||
    field (recNat bs 0xD 1) 3 5 != 0 || decide (4 < meRnd bs) || recNat bs 0xE 2 != 0 ||
    top 0x10 || top 0x1C || top 0x2C || !allZero (bs.drop 0x34) ||
    (if meIsStore bs then field (recNat bs 1 1) 1 6 != 0 || (meMaxOff bs != 0xFFFFFFFF && top 0x30) ||
        (isMx (meFmtA bs) && field (meASc bs) 27 5 != 0)
     else meFlag bs 7 || (meMxA bs && field (meASc bs) 27 5 != 0) || (isMx (meFmtW bs) && field (meWSc bs) 27 5 != 0) ||
        (meCvt bs && isMx (meFmtA bs) && meScale bs == -128))

/-- First failing check of R72, in the order of its table (DESIGN CHOICE where several fail at once: log entry 135); `prev` is the sweep before when it carries
KEEP_W. -/
def meReason (bs : List Byte) (prev : Option Sweep) : Option Nat :=
  let store := meIsStore bs
  let p := meP bs
  let conv := meOp bs == 2
  ([(0x02, if store then decide (8 < meFmtA bs)
      else decide (7 < meFmtA bs) || decide (7 < meFmtW bs) || packClass (meFmtA bs) != packClass (meFmtW bs) ||
        (conv && (isMx (meFmtA bs) || isMx (meFmtW bs)))),
    (0x03, if store then decide (64 < meM bs) || decide (32 < meN bs)
      else decide ((if meOp bs = 3 then 8 else 64) < meM bs) || decide (meRows bs * p < meK bs) ||
        decide ((if meOp bs = 3 then 256 else 32) < meN bs)),
    (0x04, conv && (decide (64 < meTaps bs) || meK bs != meTaps bs * p)),
    (0x05, meMisaligned bs),
    (0x06, decide (spillBase < meReach bs (!store && prev.isSome))),
    (0x07, !store && (match prev with
      | some s => meOp s.cmd != meOp bs || meFmtW s.cmd != meFmtW bs || meK s.cmd != meK bs || meN s.cmd != meN bs
      | none => false)),
    (0x08, meReserved bs)].find? (fun (e : Nat × Bool) => e.2)).map (·.1)

/-- Refuse an ME command (R72). -/
def Chip.meRefuse (c : Chip) (cl k : Nat) (bs : List Byte) (reason : Nat) : Chip :=
  let q := c.seqOf cl k
  ((c.raise (.me cl k) St.ME_CMD_INVALID).setFs (.me cl k)
    [(R.ME_CMD_ERR_REASON, reason), (R.ME_CMD_ERR_OP, meOp bs), (R.ME_CMD_ERR_ADDR, q.slotOff q.slot)]).seqStop cl k
      COMP_ME_CMD_INVALID

/-! Virtual accumulator tiles (R88-R91). -/

/-- The window in which the open VTs of a member of a share set stand while another member's slice runs (R88, R366): its accumulator share. -/
def parkedWin (p : Nat) : Nat := 2 + p

/-- BASE and COUNT of a window; those of a parked one are its member's share (R88, R364). -/
def Chip.winSpan (c : Chip) (cl k w : Nat) : Nat × Nat :=
  match w with
  | 0 => (c.getF (.me cl k) R.ME_ACC_WIN_BASE0, c.getF (.me cl k) R.ME_ACC_WIN_COUNT0)
  | 1 => (c.getF (.me cl k) R.ME_ACC_WIN_BASE1, c.getF (.me cl k) R.ME_ACC_WIN_COUNT1)
  | p + 2 => (c.getF (.part p) R.PART_SLICE_ACC_BASE, c.getF (.part p) R.PART_SLICE_ACC_COUNT)

/-- Physical tiles of a window that remain in service, in tile order (R88). -/
def Chip.winTiles (c : Chip) (cl k w : Nat) : List Nat :=
  let (base, count) := c.winSpan cl k w
  ((upto count).map (base + ·)).filter (fun t => decide (t < 32) && !bit (c.getF (.me cl k) R.ME_ACC_RETIRED_RETIRED) t)

/-- Where a VT's rows lie: a physical tile, or a slot of shelf 63 (R88, R89). -/
inductive TileHome where
  | resident (t : Nat)
  | spill (slot : Nat)
  deriving DecidableEq, Repr

/-- Home of VT `v` of window `w`. -/
def Chip.tileHome (c : Chip) (cl k w v : Nat) : TileHome :=
  let ts := c.winTiles cl k w
  match ts[v]? with
  | some t => .resident t
  | none => .spill (v - ts.length)

/-- Is VT (w, v) spilled? -/
def Chip.spilled (c : Chip) (cl k w v : Nat) : Bool := decide ((c.winTiles cl k w).length ≤ v)

/-- Local address of row `r`, column `j` of a tile (R24, R89). -/
def TileHome.addr (cl k r j : Nat) : TileHome → Nat
  | .resident t => accBase cl k + t * 0x2000 + r * 128 + j * 4
  | .spill s => spBase cl k + spillBase + s * 0x2000 + r * 128 + j * 4

/-- Open VT record. -/
def Me.vt? (m : Me) (w v : Nat) : Option Vt := m.vts.find? (fun t => t.win == w && t.v == v)
def Me.dropVt (m : Me) (w v : Nat) : Me := { m with vts := m.vts.filter (fun t => !(t.win == w && t.v == v)) }
def Me.putVt (m : Me) (t : Vt) : Me := { (m.dropVt t.win t.v) with vts := (m.dropVt t.win t.v).vts ++ [t] }

/-- The window that holds spilled VTs (R90, R102). -/
def Chip.spillHeld (c : Chip) (cl k : Nat) : Option Nat :=
  ((c.meOf cl k).vts.find? (fun t => c.spilled cl k t.win t.v)).map (·.win)

/-- A window whose COUNT is 0 holds no VT (R88, R90). -/
def Chip.closeWindows (c : Chip) (cl k : Nat) : Chip :=
  let m := c.meOf cl k
  let shut (w : Nat) : Bool := decide (w < 2) && (c.winSpan cl k w).2 == 0
  c.setMe cl k { m with vts := m.vts.filter (fun v => !shut v.win) }

/-- Move the open VTs of window `v` to window `w`. -/
def Chip.moveVts (c : Chip) (cl k v w : Nat) : Chip :=
  let m := c.meOf cl k
  c.setMe cl k { m with vts := m.vts.map (fun t => if t.win = v then { t with win := w } else t) }

/-- Close every VT of window `w`. -/
def Chip.closeVts (c : Chip) (cl k w : Nat) : Chip :=
  let m := c.meOf cl k
  c.setMe cl k { m with vts := m.vts.filter (fun t => t.win != w) }

/-- Is a physical tile open (R91)? -/
def Chip.tileOpen (c : Chip) (cl k t : Nat) : Bool :=
  (c.meOf cl k).vts.any (fun x => c.tileHome cl k x.win x.v == .resident t)

/-! Operands of a sweep. A position is (cell row i, element slot e). -/

/-- K position of a slot, when it is below K_T (R77, R78, R80, R104). -/
def meLive (bs : List Byte) (i e : Nat) : Option Nat :=
  if meOp bs = 2 && meTaps bs ≤ i then none
  else
    let q := i + meSlotStep bs * e
    if q < meK bs then some q else none

/-- Position of an operand element within its command, for the draw of A_CVT (R140): in RR mode the element of its line segment, which is read and converted once
and passed on from slot to slot (R81). -/
def meDrawPos (bs : List Byte) (m i e q : Nat) : Nat :=
  if meOp bs = 2 then
    ((i / (meKw bs * meKh bs) + e * meCh bs) * meKh bs + i / meKw bs % meKh bs) * 256 + (m * meStride bs + i % meKw bs)
  else m * 256 + q

/-- Value of operand element (m, slot (i, e)) as it enters the cell, its scale included (R69, R81, R115, R128, R138). -/
def Chip.meA (c : Chip) (cl k : Nat) (s : Sweep) (m i e : Nat) : FVal :=
  let bs := s.cmd
  match meLive bs i e with
  | none => FVal.zero
  | some q =>
    match s.aTile with
    | some t =>
      match fmtOf (meFmtA bs) with
      | some f =>
        let v := f.decode ((t.rows.getD q []).getD m 0)
        if isMx (meFmtA bs) then underScale v ((t.scales.getD q []).getD m 127) else v
      | none => .nan
    | none =>
      let fmt := if meCvt bs then 0 else meFmtA bs
      let (off, idx) : Nat × Nat :=
        if meOp bs = 2 then
          let dx := i % meKw bs
          let dy := i / meKw bs % meKh bs
          let ch := i / (meKw bs * meKh bs) + e * meCh bs
          (meAOff bs + ch * meChPitch bs + dy * meAPitch bs, m * meStride bs + dx)
        else (meAOff bs + m * meAPitch bs, q)
      let v := elemAt fmt (c.spRead cl k off (rowBytes fmt (idx + 1))) idx
      if meCvt bs then
        let draw := (Config.srDraw (c.srKey cl) (coreKey cl k) 1 s.seq (meDrawPos bs m i e q)).toNat
        match fmtOf (meFmtA bs), rndOf (meRnd bs) draw with
        | some f, some r =>
          if isMx (meFmtA bs) then
            if v.isFin then (f.decode (f.encode r (v.scale (meScale bs)))).scale (-(meScale bs)) else .nan
          else f.decode (f.encode r (v.scale (meScale bs)))
        | _, _ => .nan
      else if isMx fmt then
        underScale v (leNat (c.spRead cl k (field (meASc bs) 0 22 + m * (meAPitch bs / blockBytes fmt) +
          (field (meASc bs) 22 5 + q) / 32) 1))
      else v

/-- Value of weight element (slot (i, e), column j), its scale included (R69, R104, R115, R128); with KEEP_W on the sweep
before, the tile is the one that sweep used (R71). -/
def Chip.meW (c : Chip) (cl k : Nat) (s : Sweep) (i e j : Nat) : FVal :=
  let bs := s.wcmd
  match meLive s.cmd i e with
  | none => FVal.zero
  | some q =>
    match s.wTile with
    | some t =>
      match fmtOf (meFmtW bs) with
      | some f =>
        let v := f.decode ((t.rows.getD j []).getD q 0)
        if isMx (meFmtW bs) then underScale v ((t.scales.getD j []).getD q 127) else v
      | none => .nan
    | none =>
      let fmt := meFmtW bs
      let v := elemAt fmt (c.spRead cl k (meWOff bs + q * meWPitch bs) (rowBytes fmt (j + 1))) j
      if isMx fmt then
        underScale v (leNat (c.spRead cl k (field (meWSc bs) 0 22 +
          (field (meWSc bs) 22 5 + q) / 32 * (meWPitch bs * 8 / elemBits fmt) + j) 1))
      else v

/-! Sums (R94, R131). -/

/-- One column of cells: each cell adds its products and the incoming sum exactly and rounds once to FP32. -/
def cellChain (rows p : Nat) (prod : Nat → Nat → FVal) : FVal :=
  (upto rows).foldl (fun s i => (FVal.sum (s :: (upto p).map (prod i))).r32) FVal.zero

/-- An exact sum rounded once to FP32. -/
def exact32 (l : List FVal) : FVal := (FVal.sum l).r32

/-- Product sum c(m, j) of a sweep (R74, R78, R80, R131). -/
def Chip.meSum (c : Chip) (cl k : Nat) (s : Sweep) (m j : Nat) : FVal :=
  cellChain (meRows s.cmd) (meP s.cmd) (fun i e => (c.meA cl k s m i e).mul (c.meW cl k s i e j))

/-- The sums of a sweep that a hardware fault may change: an output, a row reference of a column group, a column
reference. `mask` is the difference in the FP32 bits. -/
def faulty (faults : List (CellSum × Nat)) (w : CellSum) (v : FVal) : FVal :=
  let mask := (faults.filter (fun f => f.1 == w)).foldl (fun a f => Nat.xor a f.2) 0
  if mask % 2 ^ 32 = 0 then v else of32 (Nat.xor v.to32 (mask % 2 ^ 32))

/-- Columns of group `g` (R78): 32 a group in WSH, all of them otherwise. -/
def meGroups (bs : List Byte) : Nat := if meOp bs = 3 then ceilDiv (meN bs) 32 else 1
def meGroupCols (bs : List Byte) (g : Nat) : List Nat :=
  if meOp bs = 3 then (upto (min 32 (meN bs - 32 * g))).map (32 * g + ·) else upto (meN bs)

/-- Outcome of one comparison (R95, R96). -/
inductive Cmp where
  | pass | fail | skip
  deriving DecidableEq, Repr

/-- Two's complement tolerance exponents of a packing class (R95, R102). -/
def Chip.meTol (c : Chip) (cl k p : Nat) : Nat × Int :=
  match p with
  | 1 => (c.getF (.me cl k) R.ME_CSUM_TOL_REL_C1, sextInt 8 (c.getF (.me cl k) R.ME_CSUM_TOL_ABS_C1))
  | 2 => (c.getF (.me cl k) R.ME_CSUM_TOL_REL_C2, sextInt 8 (c.getF (.me cl k) R.ME_CSUM_TOL_ABS_C2))
  | _ => (c.getF (.me cl k) R.ME_CSUM_TOL_REL_C4, sextInt 8 (c.getF (.me cl k) R.ME_CSUM_TOL_ABS_C4))

/-- |total - reference| > 2^(-REL) × A + 2^ABS fails; a total or reference that is not finite is not compared. -/
def compareSums (tol : Nat × Int) (total ref mag : FVal) : Cmp :=
  if !total.isFin || !ref.isFin then .skip
  else if ((mag.scale (-(tol.1 : Int))).add (.fin false 1 tol.2)).lt (total.add ref.neg).abs then .fail else .pass

/-- The verdict's inputs: committed values by (m, j), the comparisons by row and group, and by column. -/
structure SweepSums where
  out : List (List FVal)
  rowCmp : List (Nat × Cmp)
  colCmp : List (Nat × Cmp)
  deriving DecidableEq, Repr

/-- All sums and comparisons of a sweep, with the faults that struck them (R94-R96). The sum of a weight K-row over its columns and the sum of the values that
enter a cell row are exact sums rounded once to FP32: R94 gives neither their order nor their rounding (DESIGN CHOICE: log entry 93). -/
def Chip.sweepSums (c : Chip) (cl k : Nat) (s : Sweep) (faults : List (CellSum × Nat)) : SweepSums :=
  let bs := s.cmd
  let p := meP bs
  let rows := meRows bs
  let tol := c.meTol cl k p
  let out := (upto (meM bs)).map (fun m => (upto (meN bs)).map (fun j => faulty faults (.out m j) (c.meSum cl k s m j)))
  let at' (m j : Nat) : FVal := (out.getD m []).getD j FVal.zero
  let wBar (g i e : Nat) : FVal := exact32 ((meGroupCols bs g).map (c.meW cl k s i e))
  let aBar (i e : Nat) : FVal :=
    Fmt.bf16.decode (Fmt.bf16.encode .rne (exact32 ((upto (meM bs)).map (fun m => c.meA cl k s m i e))))
  let rowCmp := ((upto (meM bs)).map (fun m => (upto (meGroups bs)).map (fun g =>
    let prod (i e : Nat) : FVal := (c.meA cl k s m i e).mul (wBar g i e)
    (m, compareSums tol (exact32 ((meGroupCols bs g).map (at' m))) (faulty faults (.rowRef m g) (cellChain rows p prod))
      (cellChain rows p (fun i e => (prod i e).abs)))))).flatten
  let colCmp := (upto (meN bs)).map (fun j =>
    let prod (i e : Nat) : FVal := (aBar i e).mul (c.meW cl k s i e j)
    (j, compareSums tol (exact32 ((upto (meM bs)).map (fun m => at' m j))) (faulty faults (.colRef j) (cellChain rows p prod))
      (cellChain rows p (fun i e => (prod i e).abs))))
  ⟨out, rowCmp, colCmp⟩

/-- Positions of the comparisons that were not made (R96): rows first, then columns. -/
def SweepSums.skipped (x : SweepSums) : List Nat :=
  (((x.rowCmp ++ x.colCmp).zipIdx).filter (fun e => e.1.2 == .skip)).map (·.2)

/-- Index of the first failing comparison with KIND (R97): the lowest failing row, else the lowest failing column. -/
def SweepSums.failing (x : SweepSums) : Option (Nat × Nat) :=
  match x.rowCmp.find? (fun e => e.2 == .fail), x.colCmp.find? (fun e => e.2 == .fail) with
  | some r, _ => some (0, r.1)
  | none, some j => some (1, j.1)
  | none, none => none

/-! Commit (R78, R85, R86, R89). -/

/-- Tile row and column of output (m, j) (R78). -/
def mePlace (bs : List Byte) (m j : Nat) : Nat × Nat := if meOp bs = 3 then (8 * (j / 32) + m, j % 32) else (m, j)

/-- A sweep with M_T = 0 or N_T = 0, or with K_T = 0 and no INIT, changes no tile (R85). -/
def meNoCommit (bs : List Byte) : Bool := meM bs == 0 || meN bs == 0 || (meK bs == 0 && !meInit bs)

/-- Tile rows that a sweep commits (R89). -/
def meRowsCommitted (bs : List Byte) : Nat := if meOp bs = 3 then meM bs * ceilDiv (meN bs) 32 else meM bs

/-- Values a sweep leaves in its tile: replaced, or replaced with the bias added, or added in FP32 (R85, R132). -/
def Chip.commitValues (c : Chip) (cl k w : Nat) (bs : List Byte) (out : List (List FVal)) : Chip :=
  let h := c.tileHome cl k w (meVt bs)
  forAll (upto (meM bs)) c (fun c m => forAll (upto (meN bs)) c (fun c j =>
    let (r, col) := mePlace bs m j
    let a := h.addr cl k r col
    let v := (out.getD m []).getD j FVal.zero
    let base := if meBiased bs then of32 (leNat (c.spRead cl k (meBias bs + 4 * j) 4)) else of32 (c.memNat a 4)
    c.poke a (leBytes 4 (if meInit bs && !meBiased bs then v else add32 v base).to32)))

/-- Mask of the columns of tile row `r` that a sweep commits. -/
def coverRow (bs : List Byte) (r : Nat) : Nat :=
  forAll (upto (meM bs)) 0 (fun a m => forAll (upto (meN bs)) a (fun a j =>
    if (mePlace bs m j).1 = r then a ||| 2 ^ (mePlace bs m j).2 else a))

/-- Largest absolute value among the covered positions of a tile: NaN when there is one (R86). -/
def Chip.tileMax (c : Chip) (cl k : Nat) (h : TileHome) (cover : List Nat) : Nat :=
  let vs := (cover.zipIdx.map (fun (mask, r) => ((upto 32).filter (bit mask)).map (fun j =>
    of32 (c.memNat (h.addr cl k r j) 4)))).flatten
  if vs.any (fun v => v == .nan) then Fmt.fp32.nanCode
  else (vs.foldl (fun a v => if a.lt v.abs then v.abs else a) FVal.zero).to32

/-- Bookkeeping of the VT after a commit: opened by INIT, positions and history collected (R86, R91, R93). -/
def Chip.commitVt (c : Chip) (cl k w : Nat) (s : Sweep) : Chip :=
  let bs := s.cmd
  let v := meVt bs
  let me := c.meOf cl k
  let add (old : List Nat) : List Nat := (upto 64).map (fun r => (old.getD r 0) ||| coverRow bs r)
  let t : Option Vt :=
    if meInit bs then some ⟨w, v, add [], [s]⟩
    else (me.vt? w v).map (fun t => { t with cover := add t.cover, history := t.history ++ [s] })
  match t with
  | some t => c.setMe cl k (me.putVt t)
  | none => c

/-- LAST: the maximum of the tile is captured (R86), for a spilled VT beside its spill slot as in the register of a resident tile (R89). -/
def Chip.captureMax (c : Chip) (cl k w : Nat) (s : Sweep) : Chip :=
  let bs := s.cmd
  let h := c.tileHome cl k w (meVt bs)
  let vt := (c.meOf cl k).vt? w (meVt bs)
  let mx := c.tileMax cl k h (match vt with | some t => t.cover | none => (upto 64).map (coverRow bs))
  match h with
  | .resident t =>
    c.setF (.me cl k) ((if t % 2 = 0 then R.ME_MAXABS_MAXABS_EVEN else R.ME_MAXABS_MAXABS_ODD).nth (t / 2)) mx
  | .spill n => let m := c.meOf cl k
    c.setMe cl k { m with slotMax := m.slotMax.insert n mx }

/-- An INIT sweep into a resident tile ends the undefined contents that an error left there (R93). -/
def Chip.tileFresh (c : Chip) (cl k w : Nat) (bs : List Byte) : Chip :=
  match meInit bs, c.tileHome cl k w (meVt bs) with
  | true, .resident t => let m := c.meOf cl k
    c.setMe cl k { m with ueFound := m.ueFound.filter (· != t) }
  | _, _ => c

/-- What a commit to a VT of window `w` does to the accumulator: the tile's values, the VT's record, a spill's counts and the maximum (R85, R86, R89). ME_SWEEPS counts every sweep that
has passed its verdict, also one with M_T = 0 or N_T = 0, which changes no tile (DESIGN CHOICE: log entry 97). -/
def Chip.commitTile (c : Chip) (cl k w : Nat) (s : Sweep) (out : List (List FVal)) : Chip :=
  let bs := s.cmd
  let c := if meNoCommit bs then c else
    let spill := c.spilled cl k w (meVt bs)
    let c := ((c.commitValues cl k w bs out).commitVt cl k w s).tileFresh cl k w bs
    if spill then ((c.raise (.me cl k) St.ME_ACC_OVERCOMMIT).addF (.me cl k) R.ME_SPILL_BYTES
      (meRowsCommitted bs * 128 * (if meInit bs then 1 else 2))).portWait (spBase cl k) else c
  let c := if meFlag bs 2 && meM bs != 0 && meN bs != 0 then c.captureMax cl k w s else c
  c.addF (.me cl k) R.ME_SWEEPS 1

/-- Commit of a sweep whose verdict has passed or whose fallback has ended (R85, R86, R89, R114, R208). -/
def Chip.commitSweep (c : Chip) (cl k : Nat) (s : Sweep) (out : List (List FVal)) : Chip :=
  let c := c.commitTile cl k (meWin s.cmd) s out
  let t := c.tbOf cl k
  let t := match s.aTile with | some x => t.give false x.seq | none => t
  let t := match s.kept, s.wTile with | false, some x => t.give true x.seq | _, _ => t
  (c.setTb cl k t).cmdDone cl k 1

/-! Commands (R70-R73, R76, R83, R90). -/

/-- An MMA, CONV or MMA_WSH command: refused by R72, or issued to the engine. -/
def Chip.meSweep (c : Chip) (cl k op : Nat) : Chip :=
  match c.seqAt cl k op with
  | none => c
  | some bs =>
    let me := c.meOf cl k
    match meReason bs me.keep with
    | some r => c.meRefuse cl k bs r
    | none =>
      if c.spDenied cl k (c.seqPart cl k) (meRegions bs me.keep.isSome) then c.seqDenied cl k
      else if me.sweeps.any (fun s => !s.started) || c.meClash cl k bs me.keep.isSome then c
      else
        let (c, n) := c.seqNumber cl k
        let s : Sweep := match me.keep with
          | some p => ⟨(c.seqOf cl k).slot, bs, n, p.wcmd, true, false, 0, none, none, p.wTile⟩
          | none => ⟨(c.seqOf cl k).slot, bs, n, bs, false, false, 0, none, none, none⟩
        (c.setMe cl k { me with
          sweeps := me.sweeps ++ [s], keep := if meKeepW bs then some s else none, mode := op }).seqAdvance cl k

/-- The oldest sweep that has not entered the array, with its position. -/
def Me.nextStart (m : Me) : Option (Nat × Sweep) := findIdxFrom (fun s => !s.started) 0 m.sweeps

/-- May a sweep start now: the array is not computing on the VE, a change of mode waits for every earlier verdict (R83),
at most three sweeps are in flight, and the other window holds no spilled VT when this one would spill (R90)? -/
def Chip.mayStart (c : Chip) (cl k i : Nat) (s : Sweep) : Bool :=
  let me := c.meOf cl k
  let before := me.sweeps.take i
  let tiles := [s.aTile, s.wTile].all (fun t => match t with | some x => x.ready | none => true)
  !me.fallback && decide (i < 3) && before.all (fun b => meOp b.cmd == meOp s.cmd) && tiles &&
    (!c.spilled cl k (meWin s.cmd) (meVt s.cmd) ||
      before.all (fun b => meWin b.cmd == meWin s.cmd || !c.spilled cl k (meWin b.cmd) (meVt b.cmd)) &&
      match c.spillHeld cl k with | some w => w == meWin s.cmd | none => true)

/-- The TB tiles a sweep names, once they are readable (R112, R113): none while one is not yet readable. -/
def sweepTiles (t : Tb) (s : Sweep) : Option (Option TbTile × Option TbTile) :=
  let a := if meATb s.cmd then t.head false else none
  let w := if meWTb s.cmd && !s.kept then t.head true else none
  let ok (x : Option TbTile) : Bool := match x with | some y => y.ready | none => true
  if ok a && ok w then some (a, w) else none

/-- A sweep starts in the array (R76, R83, R90, R112-R114); where a refused sweep sets both A_TB and W_TB, TB_ERR names the W queue (DESIGN CHOICE: log entry 99), `wait` core cycles after it first stood still for a TB tile. A sweep that re-enters after a
failed verdict keeps the tiles it has read. -/
def Chip.sweepStart (c : Chip) (cl k wait : Nat) : Chip :=
  match (c.meOf cl k).nextStart with
  | none => c
  | some (i, s) =>
    let me := c.meOf cl k
    let entered (s : Sweep) : Me := { me with
      sweeps := setAt me.sweeps i s,
      keep := match me.keep with | some p => if p.seq = s.seq then some s else some p | none => none }
    if !c.mayStart cl k i s then c
    else if s.aTile.isSome || (!s.kept && s.wTile.isSome) then c.setMe cl k (entered { s with started := true })
    else match tbReadReason (c.tbOf cl k) s.cmd s.kept with
      | some r =>
        ((c.tbErr cl k St.TB_MISMATCH r (meWTb s.cmd) true ((c.seqOf cl k).slotOff s.slot)).setMe cl k
          { me with sweeps := me.sweeps.take i, keep := none }).seqStop cl k COMP_TB_MISMATCH
      | none =>
        match sweepTiles (c.tbOf cl k) s with
        | none => c
        | some (a, w) =>
          let t := c.tbOf cl k
          let t := match a with | some x => t.take false x | none => t
          let t := match w with | some x => t.take true x | none => t
          ((c.setTb cl k t).setMe cl k (entered { s with
            started := true, aTile := a, wTile := if s.kept then s.wTile else w })).addF (.tb cl k) R.TB_WAIT_CYC
            (if a.isSome || w.isSome then wait else 0)

/-! Verdicts (R95-R98, R121). -/

/-- Core cycles lost to one re-execution (R97): to the verdict of R75 or R79 and the reload of the weights. -/
def meLostCycles (bs : List Byte) : Nat := if meOp bs = 3 then meM bs + 10 + 8 else meM bs + 97 + 64

/-- Put every sweep back before the array, the first one with the given change (R96, R97). -/
def Me.rewind (m : Me) (f : Sweep → Sweep) : Me :=
  { m with sweeps := match m.sweeps with
      | [] => []
      | s :: r => (f { s with started := false }) :: r.map (fun x => { x with started := false }) }

/-- A failed verdict (R97, R98): logged and scored; the sweep re-enters the array, or goes to the VE once it has failed
RETRY + 1 times in a row. -/
def Chip.verdictFail (c : Chip) (cl k : Nat) (s : Sweep) (kind index : Nat) : Chip :=
  let bs := s.cmd
  let tile := match c.tileHome cl k (meWin bs) (meVt bs) with | .resident t => t | .spill _ => meVt bs
  let c := ((c.raise (.me cl k) St.ME_CSUM_MISS).setFs (.me cl k)
    [(R.ME_CSUM_LOG_TILE, tile), (R.ME_CSUM_LOG_KIND, kind), (R.ME_CSUM_LOG_WIN, meWin bs),
     (R.ME_CSUM_LOG_INDEX, index), (R.ME_CSUM_LOG_FMT_A, meFmtA bs), (R.ME_CSUM_LOG_FMT_W, meFmtW bs),
     (R.ME_CSUM_LOG_MODE, meOp bs), (R.ME_CSUM_LOG_SEQ, c.getF (.me cl k) R.ME_SWEEPS % 65536)]).addScore cl k
       (c.missWeight cl)
  let stop := decide (c.getF (.mecl cl) R.MECL_BENCH_CTRL_RETRY < s.fails + 1)
  let me := (c.meOf cl k).rewind (fun s => { s with fails := s.fails + 1, nonfin := none })
  if stop then c.setMe cl k { me with fallback := true }
  else (c.setMe cl k me).addF (.me cl k) R.ME_REEXEC_CYC (meLostCycles bs)

/-- Reload of a tile from its source (R119, R121). -/
def Chip.tbReload (c : Chip) (cl k : Nat) (t : Option TbTile) : Option TbTile :=
  t.map (fun t => c.tbFill cl k t)

/-- The TB tile that a sweep reads (R105): a sweep with kept weights reads none of the W queue. -/
def Sweep.tbTile (s : Sweep) : Option TbTile := match s.aTile with | some t => some t | none => if s.kept then none else s.wTile

/-- The accesses of a reload, with the core cycles that they wait (R149) and the failed checks of its grains (R120, R121). -/
def Chip.reloadCount (c : Chip) (cl k : Nat) (t : TbTile) (fails : List Nat) : Chip :=
  (((c.addF (.tb cl k) R.TB_ACCESSES (tbAccesses t.cmd)).addF (.tb cl k) R.TB_CONFLICT_CYC (Config.waitCycles c.freeCtr).toNat).portWait (spBase cl k)).tbGrains cl k (tbGrainAccesses t.cmd) fails

/-- An uncorrectable error in a TB slot word that the sweep read (R121): SLOT_UE, the verdict is forced to fail and the
tile is reloaded before the re-execution; `fails` are the failed checks of its grains (R120). No comparison failed, so ME_CSUM_LOG records KIND 0 and INDEX 0 (DESIGN
CHOICE: log entry 94). -/
def Chip.slotUe (c : Chip) (cl k : Nat) (s : Sweep) (fails : List Nat) : Chip :=
  match s.tbTile with
  | none => c
  | some t =>
    let c := ((c.raise (.tb cl k) St.TB_SLOT_UE).reloadCount cl k t fails).verdictFail cl k s 0 0
    let me := c.meOf cl k
    let again (x : Option TbTile) : Option TbTile := if x.map (·.seq) = some t.seq then c.tbReload cl k x else x
    c.setMe cl k { me with sweeps := me.sweeps.map (fun x => { x with aTile := again x.aTile, wTile := again x.wTile }) }

/-- The head sweep commits and leaves the engine. -/
def Chip.sweepPass (c : Chip) (cl k : Nat) (s : Sweep) (out : List (List FVal)) : Chip :=
  let me := c.meOf cl k
  (c.setMe cl k { me with sweeps := me.sweeps.drop 1 }).commitSweep cl k s out

/-- End of a sweep's comparisons (R75, R79, R95-R98): `faults` are the hardware faults that struck its sums, `slot` the
ECC outcome of its reads of TB slots with the failed checks `fails` of a reload, `busy` the core cycles with a sweep in flight since the last verdict (R102), `dry` those in which the
read-ahead buffer ran dry (R150). When the second execution's non-finite positions differ and no comparison has failed, ME_CSUM_LOG records KIND and INDEX as 0
(DESIGN CHOICE: log entry 94). -/
def Chip.sweepVerdict (c : Chip) (cl k : Nat) (faults : List (CellSum × Nat)) (slot : Ecc) (fails : List Nat) (busy dry : Nat) : Chip :=
  match (c.meOf cl k).sweeps.head? with
  | none => c
  | some s =>
    if !s.started || (c.meOf cl k).fallback then c
    else
      let c := (c.addF (.me cl k) R.ME_BUSY_CYC busy).addF (.sp cl k) R.SP_ME_STALL_CYC dry
      let c := if slot = .ce && s.tbTile.isSome then c.raise (.tb cl k) St.TB_SLOT_CE else c
      if slot = .ue && s.tbTile.isSome then c.slotUe cl k s fails
      else if meNoCommit s.cmd || meK s.cmd = 0 then c.sweepPass cl k s []
      else
        let x := c.sweepSums cl k s faults
        match x.failing with
        | some (kind, index) => c.verdictFail cl k s kind index
        | none =>
          match s.nonfin with
          | none =>
            if x.skipped = [] then c.sweepPass cl k s x.out
            else (c.setMe cl k ((c.meOf cl k).rewind (fun s => { s with nonfin := some x.skipped }))).addF (.me cl k)
              R.ME_REEXEC_CYC (meLostCycles s.cmd)
          | some l => if x.skipped = l then (c.raise (.me cl k) St.ME_CSUM_SKIP).sweepPass cl k s x.out else c.verdictFail cl k s 0 0

/-- FP32 additions in an order that the bits of `choice` fix: each step adds two of the values that are left, rounded to nearest (R132); every order of additions is
some choice's. -/
def orderedSum : Nat → Nat → List FVal → FVal
  | 0, _, l => l.headD FVal.zero
  | n + 1, choice, l =>
    match l with
    | [] => FVal.zero
    | [a] => a
    | _ =>
      let i := choice % 65536 % l.length
      let r := l.eraseIdx i
      let j := choice / 65536 % 65536 % r.length
      orderedSum n (choice / 2 ^ 32) (add32 (l.getD i FVal.zero) (r.getD j FVal.zero) :: r.eraseIdx j)

/-- Product sum of the VE fallback (R98, R132, R143): the products of the decoded operands in FP32, added to +0 in an order that the spec leaves open. -/
def Chip.fallbackSum (c : Chip) (cl k : Nat) (s : Sweep) (choice m j : Nat) : FVal :=
  let l := (upto (meRows s.cmd)).flatMap (fun i => (upto (meP s.cmd)).filterMap (fun e =>
    if (meLive s.cmd i e).isSome then some ((c.meA cl k s m i e).mul (c.meW cl k s i e j)).r32 else none))
  orderedSum (l.length + 1) choice (FVal.zero :: l)

/-- The VE fallback ends (R98): its result, the order of whose additions the spec leaves open (R143), commits without a
comparison. Its K_T × M_T × N_T ÷ 128 core cycles are rounded up (DESIGN CHOICE: log entry 98). `busy` as in a verdict. -/
def Chip.fallbackDone (c : Chip) (cl k busy : Nat) : Chip :=
  match (c.meOf cl k).sweeps.head? with
  | none => c
  | some s =>
    if !(c.meOf cl k).fallback then c
    else
      let bs := s.cmd
      let out := (upto (meM bs)).map (fun m => (upto (meN bs)).map (fun j =>
        c.fallbackSum cl k s (Config.freeBits (c.freeCtr + m * 256 + j) (32 * 256)) m j))
      let c := { c with freeCtr := c.freeCtr + 64 * 256 }.addF (.me cl k) R.ME_BUSY_CYC busy
      let c := c.setMe cl k { c.meOf cl k with fallback := false }
      let cyc := satNat 4096 (ceilDiv (meK bs * meM bs * meN bs) 128)
      let c := (((c.raise (.me cl k) St.ME_CSUM_HARD).addScore cl k (c.hardWeight cl)).addF (.me cl k) R.ME_REEXEC_CYC cyc).addF (.ve cl k)
        R.VE_FALLBACK_CYC cyc
      c.sweepPass cl k s out

/-! ACC_STORE (R73, R87, R134-R137). -/

/-- Bytes of one stored row that is not MX: elements in order. -/
def packRow (code : Nat) (vs : List Nat) : List Byte := (vs.map (leBytes (elemBits code / 8))).flatten

/-- One row of an ACC_STORE (R87, R134-R137). -/
def Chip.storeRow (c : Chip) (cl k : Nat) (bs : List Byte) (seq : Nat) (h : TileHome) (m : Nat) : Chip :=
  let code := meFmtA bs
  let n := meN bs
  let add := meFlag bs 0
  let dst := meAOff bs + m * meAPitch bs
  let mode (j : Nat) : Rnd := (rndOf (meRnd bs) (Config.srDraw (c.srKey cl) (coreKey cl k) 0 seq (m * 32 + j)).toNat).getD .rne
  let v (j : Nat) : FVal := (of32 (c.memNat (h.addr cl k m j) 4)).scale (meScale bs)
  if isMx code then
    let scAddr := field (meASc bs) 0 22 + m * (meAPitch bs / blockBytes code)
    let row := c.spRead cl k dst (blockBytes code)
    let sc := leNat (c.spRead cl k scAddr 1)
    let old (j : Nat) : FVal := (underScale (elemAt code row j) sc).r32
    let val (j : Nat) : FVal :=
      if j < n then (if add then add32 (old j) (v j) else v j) else (if add then old j else FVal.zero)
    let scale := blockScale code ((upto (if add then 32 else n)).map val)
    let row := forAll (upto 32) row (fun row j => setElem code row j (encodeMx code (mode j) scale (val j)))
    (c.spWrite cl k dst row).spWrite cl k scAddr [BitVec.ofNat 8 scale]
  else match fmtOf code with
    | none => c
    | some f =>
      let row := c.spRead cl k dst (rowBytes code n)
      let val (j : Nat) : FVal := if add then add32 (elemAt code row j) (v j) else v j
      c.spWrite cl k dst (packRow code ((upto n).map (fun j => f.encode (mode j) (val j))))

/-- MAXABS of a tile's home (R86, R89). -/
def Chip.maxOf (c : Chip) (cl k w v : Nat) : Nat :=
  match c.tileHome cl k w v with
  | .resident t =>
    c.getF (.me cl k) ((if t % 2 = 0 then R.ME_MAXABS_MAXABS_EVEN else R.ME_MAXABS_MAXABS_ODD).nth (t / 2))
  | .spill n => KMap.getD (c.meOf cl k).slotMax n 0

/-- ACC_STORE: refused by R72, waits for every earlier sweep into its VT and every earlier TB_LOAD (R73, R117), or
stores. -/
def Chip.accStore (c : Chip) (cl k : Nat) : Chip :=
  match c.seqAt cl k 0x4 with
  | none => c
  | some bs =>
    let me := c.meOf cl k
    let w := meWin bs
    let v := meVt bs
    match meReason bs none with
    | some r => c.meRefuse cl k bs r
    | none =>
      if c.spDenied cl k (c.seqPart cl k) (meRegions bs false) then c.seqDenied cl k
      else if me.sweeps.any (fun s => meWin s.cmd == w && meVt s.cmd == v) ||
          (c.tbOf cl k).filling.isSome || c.meClash cl k bs false then c
      else
        let (c, n) := c.seqNumber cl k
        let h := c.tileHome cl k w v
        let c := if meN bs = 0 then c else forAll (upto (meM bs)) c (fun c m => c.storeRow cl k bs n h m)
        let c := match h with
          | .spill _ => c.addF (.me cl k) R.ME_SPILL_BYTES (if meN bs = 0 then 0 else meM bs * 128)
          | .resident _ => c
        let c := if meMaxOff bs = 0xFFFFFFFF then c
          else c.spWrite cl k (field (meMaxOff bs) 0 22) (leBytes 4 (c.maxOf cl k w v))
        let c := c.portWait (spBase cl k)
        let c := if meFlag bs 7 then c.setMe cl k ((c.meOf cl k).dropVt w v) else c
        (c.cmdDone cl k 1).seqAdvance cl k

/-! Accumulator errors (R93, R119). -/

/-- Re-run of a VT's sweeps from its INIT sweep, into the window in which the VT stands (R93, R366): the same operands give the same values (R92, R140), and each sweep commits again; sweeps
that read TB tiles have them reloaded (R119), with the failed checks `fails` of the grains of each reload in turn (R120). -/
def Chip.replayVt (c : Chip) (cl k : Nat) (t : Vt) (fails : List (List Nat)) : Chip :=
  (t.history.foldl (fun (x : Chip × List (List Nat)) s =>
    let c := x.1
    let (c, left) := match s.tbTile with
      | some y => (c.reloadCount cl k y (x.2.headD []), x.2.drop 1)
      | none => (c, x.2)
    let s := { s with aTile := c.tbReload cl k s.aTile, wTile := c.tbReload cl k s.wTile }
    let out := if meK s.cmd = 0 then [] else (c.sweepSums cl k s []).out
    (c.commitTile cl k t.win s out, left)) (c, fails)).1

/-- `n` bytes of undefined contents, as free values (R93, R28; log entry 2). -/
def Chip.freeRegion (c : Chip) (a n : Nat) : Chip :=
  ({ c with mem := c.mem.writeN a ((upto n).map (Config.freeByte c.freeCtr)) }).tick

/-- An ECC error in physical tile `t` of a core's accumulator memory (R93): a tile that is retired is left before its VT is run again (R88). In a tile without an open
VT the contents become undefined, and the read of another agent that finds the error completes with COMP_MEM_LOST. `fails` as in a replay, `busy` the core cycles of
its sweeps (R102). -/
def Chip.accEcc (c : Chip) (cl k t : Nat) (e : Ecc) (fails : List (List Nat)) (busy : Nat) : Chip :=
  match e with
  | .none => c
  | .ce => c.raise (.me cl k) St.ME_ACC_CE
  | .ue =>
    let c := c.raise (.me cl k) St.ME_ACC_UE
    let me := c.meOf cl k
    let open? := me.vts.find? (fun x => c.tileHome cl k x.win x.v == .resident t)
    let c := if me.ueOnce.contains t then
        c.setF (.me cl k) R.ME_ACC_RETIRED_RETIRED (c.getF (.me cl k) R.ME_ACC_RETIRED_RETIRED ||| 2 ^ t)
      else c.setMe cl k { me with ueOnce := t :: me.ueOnce }
    match open? with
    | some vt => ((c.replayVt cl k vt fails).addScore cl k (c.hardWeight cl)).addF (.me cl k) R.ME_BUSY_CYC busy
    | none => let m := c.meOf cl k
      (c.setMe cl k { m with ueFound := t :: m.ueFound.filter (· != t) }).freeRegion (accBase cl k + t * 0x2000) 0x2000

end Sys2Proof.Machine
end

