-- ==== Sys2Proof/Machine/Memory.lean ====
section
/-! DEFINITION. The local address space as agents reach it: ownership and mapping of LPDDR6 (R300, R301), views of
sideboard pairs (R391, R392), lost stripes (R317), SRAM ownership (R358, R364), unassigned addresses (R25), and the stripe
buffers through which writes pass (R304, R305). -/

namespace Sys2Proof.Machine

/-! Channel groups and slices (R299-R301). -/

/-- Bytes of a slice (R300). -/
def sliceSize : Nat := 0x7E0000000

/-- Stripes of a group. -/
def groupStripes : Nat := 150994944

/-- Set bits of a 32-bit map, lowest first. -/
def bitsOf (v n : Nat) : List Nat := (upto n).filter (bit v)

/-- Is module group `g` present (R299, R319)? -/
def Chip.grpPresent (c : Chip) (g : Nat) : Bool := bit (c.getF (.mem (g / 8)) R.MEM_STATE_PRESENT) (g % 8)

/-- Number of slices, which is the number of present groups (R18, R300). -/
def Chip.slices (c : Chip) : Nat := ((upto 32).filter c.grpPresent).length

/-- First address above LPDDR6 (R18). -/
def Chip.lpddrTop (c : Chip) : Nat := c.slices * sliceSize

/-- Groups of partition `p` (MEM_PART_MAP, R320). -/
def Chip.groupsOf (c : Chip) (p : Nat) : List Nat :=
  if c.on (.pmap 0 p) R.PMAP_PART_MAP_VALID then bitsOf (c.getF (.pmap 0 p) R.PMAP_PART_MAP_GROUPS) 32 else []

/-- First slice of partition `p`. -/
def Chip.baseSlice (c : Chip) (p : Nat) : Nat := c.getF (.pmap 0 p) R.PMAP_PART_MAP_BASE_SLICE

/-- Partition that owns slice `i`. -/
def Chip.sliceOwner (c : Chip) (i : Nat) : Option Nat :=
  (upto 16).find? (fun p => decide (c.baseSlice p ≤ i) && decide (i < c.baseSlice p + (c.groupsOf p).length))

/-- Cabinet slices and groups (R300, R388). -/
def Chip.cabSet (c : Chip) : List Nat := bitsOf c.cabGroups 32
def Chip.inCab (c : Chip) (i : Nat) : Bool := decide (c.cabSlice ≤ i) && decide (i < c.cabSlice + c.cabSet.length)

/-- The slices and the groups that nobody owns (R300). -/
def Chip.freeSlices (c : Chip) : List Nat := (upto c.slices).filter (fun i => (c.sliceOwner i).isNone && !c.inCab i)
def Chip.freeGroups (c : Chip) : List Nat :=
  (upto 32).filter (fun g => c.grpPresent g && !c.cabSet.contains g && (upto 16).all (fun p => !(c.groupsOf p).contains g))

/-- Position of `x` in a list. -/
def posOf (l : List Nat) (x : Nat) : Nat := (l.takeWhile (· != x)).length

/-- The groups over which an address maps, and its offset in the space that they form (R300). -/
def Chip.memSpace (c : Chip) (a : Nat) : List Nat × Nat :=
  let i := a / sliceSize
  match c.sliceOwner i with
  | some p => (c.groupsOf p, a - c.baseSlice p * sliceSize)
  | none =>
    if c.inCab i then (c.cabSet, a - c.cabSlice * sliceSize)
    else (c.freeGroups, posOf c.freeSlices i * sliceSize + a % sliceSize)

/-- Where a local LPDDR6 byte lies: group, stripe, data index, byte (R300). -/
structure MemPos where
  grp : Nat
  stripe : Nat
  di : Nat
  byte : Nat
  deriving DecidableEq, Repr

/-- The mapping of R300. -/
def Chip.memMap (c : Chip) (a : Nat) : MemPos :=
  let (gs, o) := c.memSpace a
  let k := gs.length
  let j := o / 3584
  if k = 0 then ⟨0, 0, 0, 0⟩
  else ⟨gs.getD (j % k) 0, (j / k) * 16 + (o % 3584) / 224, (o % 224) / 32, o % 32⟩

/-- Local address of byte `b` of data index `di` of a stripe in a space of groups `gs` whose first byte is `base`. -/
def stripeAddr (gs : List Nat) (base grp stripe di b : Nat) : Nat :=
  base + ((stripe / 16) * gs.length + posOf gs grp) * 3584 + (stripe % 16) * 224 + di * 32 + b

/-- Owner of a group: the partition, the cabinet, or nobody; with the first address of its space. -/
def Chip.grpSpace (c : Chip) (g : Nat) : List Nat × Nat :=
  match (upto 16).find? (fun p => (c.groupsOf p).contains g) with
  | some p => (c.groupsOf p, c.baseSlice p * sliceSize)
  | none => if c.cabSet.contains g then (c.cabSet, c.cabSlice * sliceSize) else (c.freeGroups, 0)

/-- Local address (before sideboard views) of a byte of a stripe of group `g`. In the space that nobody owns, slices are
taken in ascending order. -/
def Chip.unmap (c : Chip) (g stripe di b : Nat) : Nat :=
  let (gs, base) := c.grpSpace g
  let o := stripeAddr gs 0 g stripe di b
  if (c.cabSet.contains g) || (upto 16).any (fun p => (c.groupsOf p).contains g) then base + o
  else c.freeSlices.getD (o / sliceSize) 0 * sliceSize + o % sliceSize

/-! Lost stripes (R316, R317). -/

def Chip.grpState (c : Chip) (g : Nat) : Nat := c.getF (.grp g) R.GRP_STATE
def Chip.grpOf (c : Chip) (g : Nat) : Group := KMap.getD c.grps g {}
def Chip.setGrp (c : Chip) (g : Nat) (x : Group) : Chip := { c with grps := c.grps.insert g x }

/-- Is a stripe lost: its group is out of service, or a mark covers it (R317)? Ranges of the loss table are also poison
marks, so the marks alone decide. -/
def Chip.stripeLost (c : Chip) (g t : Nat) : Bool :=
  c.grpState g == 5 || c.poison.any (fun r => r.1 == g && decide (r.2.1 ≤ t) && decide (t ≤ r.2.2))

/-! Sideboard views (R391, R392). -/

/-- Bytes of a view of pair `i`. -/
def Chip.pairSize (c : Chip) (i : Nat) : Nat := c.getF (.pair i) R.PAIR_CFG_SIZE * 4096
def Chip.pairBase (c : Chip) (i : Nat) : Nat := c.getF (.pair i) R.PAIR_BASE * 4096

/-- The pair whose views hold local address `a`. -/
def Chip.pairAt (c : Chip) (a : Nat) : Option Nat :=
  (upto 16).find? (fun i => c.on (.pair i) R.PAIR_CFG_VALID && decide (c.pairBase i ≤ a) &&
    decide (a < c.pairBase i + 2 * c.pairSize i))

/-- Physical local address behind a view (R391). -/
def Chip.viewAddr (c : Chip) (a : Nat) : Nat :=
  match c.pairAt a with
  | none => a
  | some i =>
    let o := a - c.pairBase i
    let n := c.pairSize i
    let live := c.getF (.pair i) R.PAIR_CFG_LIVE
    let buf := if o < n then live else 1 - live
    c.pairBase i + buf * n + o % n

/-- STEP of the live buffer of a pair (R391). -/
def Chip.pairStep (c : Chip) (i : Nat) : Nat :=
  c.getF (.pair i) (if c.getF (.pair i) R.PAIR_CFG_LIVE = 0 then R.PAIR_STEPS_STEP0 else R.PAIR_STEPS_STEP1)

/-- Is a write at `a` into a next view that is not admitted (R392)? -/
def Chip.sideHeld (c : Chip) (a : Nat) : Bool :=
  match c.pairAt a with
  | none => false
  | some i => decide (c.pairSize i ≤ a - c.pairBase i) && c.on .res R.RES_CTRL_ENABLE &&
      decide (c.getF .res R.RES_SEAL_GROUP_SEALED < c.pairStep i)

/-- Mark a written next view (R391). -/
def Chip.sideMark (c : Chip) (a : Nat) : Chip :=
  match c.pairAt a with
  | none => c
  | some i => if c.pairSize i ≤ a - c.pairBase i then c.setB (.pair i) R.PAIR_CFG_WRITTEN true else c

/-! Who may reach what. -/

/-- Partition state (R359). -/
def Chip.partState (c : Chip) (p : Nat) : Nat := c.getF (.part p) R.PART_STATE

/-- Is a cluster removed by the variant (R18, R19)? -/
def Chip.clusterGone (c : Chip) (cl : Nat) : Bool := c.on (.boot (cl / 8)) (R.BOOT_BENCH_CL_ABSENT.nth (cl % 8))

/-- Has a cluster no cores to work with: removed by the variant, or every core fused or benched (R18, R19, R458)? -/
def Chip.clusterOff (c : Chip) (cl : Nat) : Bool :=
  c.clusterGone cl || c.getF (.boot (cl / 8)) (R.BOOT_BENCH_CL_FUSED.nth (cl % 8)) ||| c.getF (.boot (cl / 8)) (R.BOOT_BENCH_CL_BENCHED.nth (cl % 8)) == 0x1FFFF

/-- The partition that a local address belongs to (R301, R358, R364). -/
def Chip.addressee (c : Chip) (a : Nat) : Option Nat :=
  let sram (cl : Nat) (pl : Place) : Option Nat := (upto 16).find? (fun p => c.partHas p cl && (!c.shared p || c.shareHas p pl))
  match placeOf a with
  | .lpddr => c.sliceOwner (a / sliceSize)
  | .commons cl o => sram cl (.commons cl o)
  | .scratch cl k o => sram cl (.scratch cl k o)
  | .acc cl k o => sram cl (.acc cl k o)
  | _ => none

/-- Is a request answered with a retry: an agent of another partition addresses one under reset (R259, R362)? -/
def Chip.retryAt (c : Chip) (ag : Agent) (a : Nat) : Bool :=
  match ag.part, c.addressee a with
  | some q, some p => q != p && c.partState p == PS_RESETTING
  | _, _ => false

/-- First failing check of a request for byte `a`: COMP_OK when there is none (R25, R93, R301, R317, R358, R392). -/
def Chip.byteCode (c : Chip) (ag : Agent) (write : Bool) (a : Nat) : Code :=
  let sram (cl : Nat) (pl : Place) : Code :=
    if c.clusterOff cl then COMP_ADDR_UNMAPPED
    else match ag.part with
      | none => COMP_OK
      | some p => if c.partHas p cl && (!c.shared p || c.shareHas p pl) then COMP_OK else COMP_MEM_DENIED
  match placeOf a with
  | .lpddr =>
    if c.lpddrTop ≤ a then COMP_ADDR_UNMAPPED
    else
      let owned := match ag.part with | none => true | some p => c.sliceOwner (a / sliceSize) == some p
      if !owned then COMP_MEM_DENIED
      else if write && c.sideHeld a then COMP_SIDEBOARD_HELD
      else
        let m := c.memMap (c.viewAddr a)
        if c.stripeLost m.grp m.stripe then COMP_MEM_LOST else COMP_OK
  | .commons cl o => sram cl (.commons cl o)
  | .scratch cl k o => sram cl (.scratch cl k o)
  | .acc cl k o =>
    let code := sram cl (.acc cl k o)
    if code = COMP_OK && !write && (c.meOf cl k).ueFound.contains (o / 0x2000) then COMP_MEM_LOST else code
  | .regs _ _ => COMP_OK
  | .nothing => COMP_ADDR_UNMAPPED

/-- Positions of a request at which a check can change: its first byte, its last, and every 32-byte boundary between. -/
def probes (a n : Nat) : List Nat :=
  if n = 0 then [] else a :: (a + n - 1) :: (upto ((a + n - 1) / 32 - a / 32)).map (fun i => (a / 32 + 1 + i) * 32)

/-- Order in which codes are decided: unassigned and denied before lost and held. -/
def codeRank (k : Code) : Nat :=
  if k = COMP_ADDR_UNMAPPED then 0 else if k = COMP_MEM_DENIED then 1 else if k = COMP_SIDEBOARD_HELD then 2 else 3

/-- The code of a request for `n` bytes at `a`. -/
def Chip.accessCode (c : Chip) (ag : Agent) (write : Bool) (a n : Nat) : Code :=
  let codes := ((probes a n).map (c.byteCode ag write)).filter (· != COMP_OK)
  codes.foldl (fun x y => if x = COMP_OK || codeRank y < codeRank x then y else x) COMP_OK

/-- What a refused request leaves behind (R25, R93, R301, R358, R392). -/
def Chip.noteRefusal (c : Chip) (ag : Agent) (a : Nat) (code : Code) : Chip :=
  if code = COMP_ADDR_UNMAPPED then
    (c.raise (.noc ag.die) St.NOC_ADDR_UNMAPPED).setF (.noc ag.die) R.NOC_ERR_ADDR a
  else if code = COMP_MEM_DENIED then
    match placeOf a with
    | .lpddr => (c.raise (.mem ag.die) St.MEM_DENIED).setFs (.mem ag.die)
        [(R.MEM_ERR_GROUP, 0), (R.MEM_ERR_MEMBER, 0), (R.MEM_ERR_STRIPE, 0), (R.MEM_ERR_KIND, 4)]
    | _ => match ag.part with | some p => c.raise (.part p) St.PART_DENIED | none => c
  else if code = COMP_SIDEBOARD_HELD then c.raise .res St.RES_SB_HELD
  else match placeOf a with
    | .acc cl k o => let m := c.meOf cl k
      c.setMe cl k { m with ueFound := m.ueFound.filter (· != o / 0x2000) }
    | _ => c

end Sys2Proof.Machine
end

