-- ==== Sys2Proof/Machine/RegStore.lean ====
section
/-! DEFINITION. What a write to a register stores, and accesses that reach no register (R4-R10). -/

namespace Sys2Proof.Machine

/-- The die of a module port. -/
def portDie (p : Nat) : Nat := p / 6

/-- Is a port absent from the part: fused, benched (R434, R10)? -/
def Chip.portAbsent (c : Chip) (p : Nat) : Bool := bit (c.getF (.boot (portDie p)) R.BOOT_BENCH_LANE_PORTS) (p % 6)

/-! What a write stores (R5, R6, R8). -/

/-- Is the unit of a block absent: removed by fuses, the variant or, for a cluster, the bench list (R10, R495)? -/
def Chip.blkGone (c : Chip) (b : Blk) : Bool :=
  match b with
  | .port p => c.portAbsent p
  | .grp g => !c.grpPresent g
  | .clkcl cl => c.clusterOff cl
  | b => match b.cluster? with
    | some cl => c.clusterOff cl
    | none => false

/-- Bits of a register that an access of 4 or 8 bytes at a die-register offset covers. -/
def accessBits (off size : Nat) : Nat × Nat := if size = 8 then (0, 64) else (off % 8 * 8, off % 8 * 8 + 32)

/-- The fields of a register that lie, in part or whole, in the bits of an access. -/
def Blk.covered (b : Blk) (d off size : Nat) : List Field :=
  let (lo, hi) := accessBits off size
  b.fields.filter (fun f => b.base + f.off == d * dieSpan + off / 8 * 8 && decide (f.lsb < hi) && decide (lo < f.lsb + f.width))

/-- A field's value after an access that writes bits lo to hi - 1 of its register; `v` is the register word with the written bits in place. -/
def Field.merged (f : Field) (old v lo hi : Nat) : Nat :=
  ((upto f.width).map (fun i =>
    let n := f.lsb + i
    if lo ≤ n ∧ n < hi then (if bit v n then 2 ^ i else 0) else (if bit old i then 2 ^ i else 0))).sum

/-- One field of an access, by its access code (R6). -/
def Chip.storeField (c : Chip) (b : Blk) (f : Field) (v lo hi : Nat) : Chip :=
  match f.acc with
  | .rw => c.setF b f (f.merged (c.getF b f) v lo hi)
  | .rwl => if c.on .cfg R.CFG_STATE_LOCKED then c else c.setF b f (f.merged (c.getF b f) v lo hi)
  | .w1c => if bit v f.lsb then c.setF b f 0 else c
  | .ro => c
  | .wo => c

/-- Store an access in the fields that `pick` admits; a change to a locked field sets LOCKED_WRITE once (R8). -/
def Chip.regStore (c : Chip) (b : Blk) (d off size value : Nat) (pick : Field → Bool) : Chip :=
  let (lo, hi) := accessBits off size
  let v := value % 2 ^ (hi - lo) * 2 ^ lo
  let fs := b.covered d off size
  let locked := c.on .cfg R.CFG_STATE_LOCKED && fs.any (fun f => f.acc == .rwl && f.merged (c.getF b f) v lo hi != c.getF b f)
  forAll (fs.filter pick) (c.raiseIf locked .cfg St.CFG_LOCKED_WRITE) (fun c f => c.storeField b f v lo hi)

/-- Fields that a row of their own writes: REG_WRITE leaves them as they are. -/
def ownRow (b : Blk) (f : Field) : Bool :=
  match b with
  | .rseq _ => f == R.RSEQ_CTRL_HALT_REQ
  | .sp _ _ => f.off == R.SP_CACHE_CFG_WAYS.off || f.off == R.SP_CACHE_OWNER_OWNER_0.off || f.off == R.SP_CACHE_OP_OP.off
  | .shelfK _ _ _ => true
  | .shelfC _ _ => true
  | .ch _ _ => f == R.CH_CTRL_ENABLE || f == R.CH_CTRL_STOP || f == R.CH_PROD
  | .wq _ => f == R.WQ_PROD || f == R.WQ_CQ_PTR_CQ_HEAD
  | .sync _ => f == R.SYNC_VALUE || f == R.SYNC_VALUE_INC
  | .grp _ => f.acc == .wo
  | .port _ => f == R.PORT_CTRL_RETRAIN
  | .win _ _ => true
  | .part _ => f == R.PART_CTRL_RESET
  | .boot _ => f == R.BOOT_CTRL_COMPUTE_RESET
  | .sec => true
  | _ => false

/-- Count an access of illegal size or alignment, or to an unassigned address (R4, R10). -/
def Chip.badAccess (c : Chip) (d off : Nat) : Chip := (c.raise (.mgmt d) St.MGMT_REG_BAD_ACCESS).setF (.mgmt d) R.MGMT_ERR_OFFSET off
def Chip.unmapped (c : Chip) (d off : Nat) : Chip := (c.raise (.mgmt d) St.MGMT_REG_UNMAPPED).setF (.mgmt d) R.MGMT_ERR_OFFSET off

/-- The sequence context and its word that a die's read-only view shows at an offset (13, PART registers). -/
def ctxView (d off : Nat) : Option (Nat × Nat) :=
  if 0x3200000 ≤ off ∧ off < 0x3400000 then some (65536 * d + (off - 0x3200000) / 32, off % 32 / 8) else none

/-- An access of `n` bytes at a die-register offset: the register block that it reaches, or what it leaves behind where it reaches none (R4, R10). -/
def Chip.findReg (c : Chip) (d off n : Nat) : Except Chip Blk :=
  if !((n == 8 && off % 8 == 0) || (n == 4 && off % 4 == 0)) then .error (c.badAccess d off)
  else match decodeReg d off with
  | none => .error (if (ctxView d off).isSome then c else c.unmapped d off)
  | some b =>
    if c.blkGone b || !b.fields.any (fun x => b.base + x.off == d * dieSpan + off / 8 * 8) then .error (c.unmapped d off) else .ok b

/-- A register's stored fields in place, reserved bits and write-only fields zero (R5, R6). -/
def Chip.storedWord (c : Chip) (b : Blk) (word : Nat) : Nat :=
  ((b.fields.filter (fun f => b.base + f.off == word && f.acc != .wo)).map (fun f => putField (c.getF b f) f.lsb f.width)).sum

end Sys2Proof.Machine
end

