-- ==== Sys2Proof/Machine/Access.lean ====
section
/-! DEFINITION. How an agent's requests are performed (R300-R305, R309): stripe buffers, check bits and rebuilt accesses, and the reads and writes of
local addresses. -/

namespace Sys2Proof.Machine

/-! Stripe buffers (R304, R305). -/

/-- The accesses of a stripe that a buffered write covers, and those of them that it changes only in part (R304). -/
def BufWrite.covered (b : BufWrite) : List Nat := b.cover.map (·.1)
def BufWrite.narrow (b : BufWrite) : List Nat := (b.cover.filter (·.2 != 2 ^ 32 - 1)).map (·.1)

/-- Does the buffer hold the bytes `mask` of an access (R305)? -/
def bufHolds (buf : List BufWrite) (stripe m mask : Nat) : Bool :=
  buf.any (fun b => b.stripe == stripe && b.cover.any (fun e => e.1 == m && e.2 &&& mask == mask))

/-- Add the bytes `mask` of one access to a group's stripe buffer, combining writes of one stripe (R305). -/
def bufAdd (buf : List BufWrite) (stripe di mask : Nat) : List BufWrite :=
  if buf.any (fun b => b.stripe = stripe) then
    buf.map (fun b => if b.stripe = stripe then
      ⟨stripe, if b.covered.contains di then b.cover.map (fun e => if e.1 = di then (di, e.2 ||| mask) else e)
        else b.cover ++ [(di, mask)]⟩ else b)
  else buf ++ [⟨stripe, [(di, mask)]⟩]

/-- Accesses that the write of a stripe reads (R304, R315): the covered ones and the parity, or the others and the narrow ones, whichever are fewer. -/
def stripeReadSet (exposed : Bool) (b : BufWrite) : List Nat :=
  if exposed then b.narrow
  else if b.covered.length + 1 ≤ 7 - b.covered.length + b.narrow.length then b.covered ++ [7]
  else (upto 7).filter (fun d => !b.covered.contains d) ++ b.narrow

/-- Reads that the write of a stripe needs (R304, R315). -/
def stripeReads (exposed : Bool) (b : BufWrite) : Nat :=
  let w := b.covered.length
  let n := b.narrow.length
  if exposed then n
  else min (w + 1) (7 - w + n)

/-- Is a stripe of group `g` without parity: exposed, or passed by a takeover (R314, R315)? -/
def Chip.noParity (c : Chip) (g t : Nat) : Bool :=
  c.grpState g == 4 ||
    (c.grpState g == 3 && c.on (.grp g) R.GRP_STATE_TAKEOVER && decide (t < c.getF (.grp g) R.GRP_STATE_RB_PTR))

/-- Member that is offline for a session (R308, R309). -/
def Chip.offline (c : Chip) (g : Nat) : Option Nat :=
  if c.on (.grp g) R.GRP_STATE_CAL_ACTIVE && c.grpState g == 1 then some (c.getF (.grp g) R.GRP_STATE_CAL_MEMBER) else none

/-! Check bits (R302). -/

/-- One bit of CRC-24 with polynomial 0x864CFB. -/
def crc24Bit (crc : Nat) (b : Bool) : Nat :=
  let top := bit crc 23 != b
  let s := (crc * 2) % 2 ^ 24
  if top then Nat.xor s 0x864CFB else s

/-- CRC-24 of a byte list, most significant bit first (log entry 22). -/
def crc24 (bs : List Byte) : Nat :=
  bs.foldl (fun crc b => [7, 6, 5, 4, 3, 2, 1, 0].foldl (fun crc i => crc24Bit crc (bit b.toNat i)) crc) 0xFFFFFF

/-- CRC of an access (R302): its 32 bytes, the group, the member, the stripe and metadata byte 3. -/
def accessCrc (g m t : Nat) (data : List Byte) (meta3 : Nat) : Nat :=
  crc24 (data ++ [BitVec.ofNat 8 g, BitVec.ofNat 8 m] ++ leBytes 4 t ++ [BitVec.ofNat 8 meta3])

/-- Exclusive OR of byte lists. -/
def xorBytes (a b : List Byte) : List Byte := List.zipWith (· ^^^ ·) a b

/-- What a member stores at a stripe: a data access, or the parity of the seven (R299). -/
def Chip.accessData (c : Chip) (g t m : Nat) : List Byte :=
  let data (d : Nat) : List Byte := c.mem.readN (c.unmap g t d 0) 32
  if m = 7 then (upto 7).foldl (fun x d => xorBytes x (data d)) (List.replicate 32 0) else data m

/-- The member that holds an access: the parity member where a takeover has passed (R314). -/
def Chip.holder (c : Chip) (g t m : Nat) : Nat :=
  if c.noParity g t && c.on (.grp g) R.GRP_STATE_TAKEOVER && c.getF (.grp g) R.GRP_STATE_FAILED == m then 7 else m

/-- How an access as it is read differs from what was written to it. -/
def Chip.faultMask (c : Chip) (g t m : Nat) : Nat :=
  ((c.grpOf g).faults.filter (fun f => f.stripe == t && f.member == c.holder g t m)).foldl (fun a f => Nat.xor a f.mask) 0

/-- Read one access of a member and check it: the data as it arrives, and whether the check passes (R302, R303). -/
def Chip.fetchAccess (c : Chip) (g t m : Nat) : List Byte × Bool :=
  let data := c.accessData g t m
  let mask := c.faultMask g t m
  if mask = 0 then (data, true)
  else
    let pos := c.holder g t m
    let got := leBytes 32 (Nat.xor (leNat data) (mask % 2 ^ 256))
    let mdw := Nat.xor (accessCrc g pos t data 0) (mask / 2 ^ 256 % 2 ^ 32)
    (got, accessCrc g pos t got (mdw / 2 ^ 24) == mdw % 2 ^ 24)

/-- Errors that have come into stored accesses; they stay until the access is written (log entry 123). -/
def Chip.addFaults (c : Chip) (l : List AccFault) : Chip :=
  forAll l c (fun c f => c.setGrp f.grp { c.grpOf f.grp with faults := (c.grpOf f.grp).faults ++ [f] })

/-- An access is written: what it holds is right again. -/
def Chip.clearFault (c : Chip) (g t m : Nat) : Chip :=
  let x := c.grpOf g
  c.setGrp g { x with faults := x.faults.filter (fun f => !(f.stripe == t && f.member == c.holder g t m)) }

/-! Loss (R316, R317). -/

/-- The sub-channel of a member (R299). -/
def subchOf (g m : Nat) : Nat := 16 * (g / 2) + 2 * m + g % 2

/-- A loss has been found: the MC is told of it (R317). -/
def Chip.reportLoss (c : Chip) (g first last : Nat) : Chip :=
  ({ c with losses := c.losses ++ [(g, first, last)] }).raise (.mem (g / 8)) St.MEM_LOCAL_LOSS

/-- One stripe is lost: POISON alone records it (R303, R317). -/
def Chip.loseStripe (c : Chip) (g m t : Nat) : Chip :=
  (({ c with poison := (g, t, t) :: c.poison }).setFs (.mem (g / 8))
    [(R.MEM_ERR_GROUP, g), (R.MEM_ERR_MEMBER, m), (R.MEM_ERR_STRIPE, t), (R.MEM_ERR_KIND, 2)]).reportLoss g t t

/-! Reads (R303, R309, R311). -/

/-- The member whose access of stripe `t` is missing (R309, R313, R315). -/
def Chip.missing (c : Chip) (g t : Nat) : Option Nat :=
  let f := c.getF (.grp g) R.GRP_STATE_FAILED
  match c.grpState g with
  | 1 => c.offline g
  | 2 => some f
  | 3 => if c.getF (.grp g) R.GRP_STATE_RB_PTR ≤ t then some f else none
  | _ => none

/-- Count a check failure of a member (R313). -/
def Chip.noteFail (c : Chip) (g m : Nat) : Chip :=
  let x := c.grpOf g
  let l := if x.fails.length = 8 then x.fails else List.replicate 8 0
  c.setGrp g { x with fails := modAt l m (· + 1) }

/-- Register of a member's rebuilt-access count (R321). -/
def ceField (m : Nat) : Field := ⟨0x10 + 8 * (m / 4), 16 * (m % 4), 16, .ro, 0, true⟩

/-- The other seven accesses of a stripe: their exclusive OR, and the members among them that fail. -/
def Chip.others (c : Chip) (g t m : Nat) : List Byte × List Nat :=
  let ms := (upto 8).filter (· != m)
  (ms.foldl (fun x i => xorBytes x (c.fetchAccess g t i).1) (List.replicate 32 0),
   ms.filter (fun i => !(c.fetchAccess g t i).2))

/-- Access `m` of a stripe has been rebuilt from the other seven and is written back (R303). -/
def Chip.rebuiltAccess (c : Chip) (g t m : Nat) : Chip :=
  let d := g / 8
  ((((c.clearFault g t m).satF (.grp g) (ceField m) 1).raise (.mem d) St.MEM_CE).addF (.mem d) R.MEM_RECON_BURSTS 1).setFs (.mem d)
    [(R.MEM_ERR_GROUP, g), (R.MEM_ERR_MEMBER, m), (R.MEM_ERR_STRIPE, t), (R.MEM_ERR_KIND, 1)]

/-- Read of the bytes `mask` of access `m` of a stripe (R303, R305, R309): the access, or none when the stripe is lost. What the stripe buffer or the
write log holds is read there; an access that fails its check is rebuilt and written back. A healthy group whose offline member is needed to rebuild
another's access does so once the member is back (DEDUCED: log entry 139). -/
def Chip.readAccess (c : Chip) (g t m mask : Nat) : Chip × Option (List Byte) :=
  let d := g / 8
  let x := c.grpOf g
  if c.stripeLost g t then (c, none)
  else if bufHolds x.buf t m mask then (c, some (c.accessData g t m))
  else if c.missing g t = some m then
    if x.log.contains (t, m) then (c, some (c.accessData g t m))
    else
      let (sum, bad) := c.others g t m
      let noted := forAll bad c (fun c i => c.noteFail g i)
      match bad with
      | [] => (c.addF (.mem d) R.MEM_RECON_BURSTS 1, some sum)
      | [b] => if c.grpState g = 1 && (c.fetchAccess g t m).2 then (noted.rebuiltAccess g t b, some (c.accessData g t m))
        else (noted.loseStripe g b t, none)
      | b :: _ => (noted.loseStripe g b t, none)
  else match c.fetchAccess g t m with
  | (data, true) => (c, some data)
  | (_, false) =>
    let (sum, bad) := c.others g t m
    let pos := c.holder g t m
    let c := c.noteFail g pos
    let lacks := c.noParity g t || (c.grpState g != 1 && (c.missing g t).isSome)
    if !lacks && bad.isEmpty then (c.rebuiltAccess g t m, some sum)
    else ((forAll (if lacks then [] else bad) c (fun c i => c.noteFail g i)).loseStripe g pos t, none)

/-- Set or clear the CALIBRATING bit of a group in its die's MEM_STATE (R319). -/
def Chip.setCal (c : Chip) (g : Nat) (on : Bool) : Chip :=
  let d := g / 8
  let v := c.getF (.mem d) R.MEM_STATE_CALIBRATING
  let v' := if on then v ||| 2 ^ (g % 8) else if bit v (g % 8) then v - 2 ^ (g % 8) else v
  (c.setF (.mem d) R.MEM_STATE_CALIBRATING v').setB (.grp g) R.GRP_STATE_CAL_ACTIVE on

/-- End a session at once, with the log replayed (R312). -/
def Chip.endSession (c : Chip) (g : Nat) : Chip :=
  if c.on (.grp g) R.GRP_STATE_CAL_ACTIVE then
    ((c.setGrp g { c.grpOf g with replay := false, log := [] }).setF (.grp g) R.GRP_LOG_LOG_ENTRIES 0).setCal g false
  else c

/-- Log one access to an offline member (R309, R310). A log that holds its 16,384 accesses takes no more: the session ends, the log replays, and the
access goes to the member (DESIGN CHOICE: log entry 140). -/
def Chip.logAccess (c : Chip) (g t m : Nat) : Chip :=
  if c.offline g == some m && decide (16384 ≤ (c.grpOf g).log.length) then c.endSession g
  else if c.offline g == some m then
    let x := c.grpOf g
    let n := x.log.length + 1
    let c := c.setGrp g { x with log := x.log ++ [(t, m)] }
    let c := c.setF (.grp g) R.GRP_LOG_LOG_ENTRIES n
    let c := if c.getF (.grp g) R.GRP_LOG_LOG_HIGH < n then c.setF (.grp g) R.GRP_LOG_LOG_HIGH n else c
    c.addF (.mem (g / 8)) R.MEM_LOG_BURSTS 1
  else c

/-- Issue one buffered stripe write to the members: the reads it needs are made and counted, and accesses of an offline member go to the write log
(R303-R305, R309). -/
def Chip.issueStripe (c : Chip) (g : Nat) (b : BufWrite) : Chip :=
  let bare := c.noParity g b.stripe
  let c := c.addF (.mem (g / 8)) R.MEM_RMW_READS (stripeReads bare b)
  let c := forAll (stripeReadSet bare b) c (fun c m => (c.readAccess g b.stripe m (2 ^ 32 - 1)).1)
  forAll (if bare then b.covered else b.covered ++ [7]) c (fun c m => (c.clearFault g b.stripe m).logAccess g b.stripe m)

/-- Note the row that an access leaves open in its bank (R307). -/
def Chip.openBank (c : Chip) (g t : Nat) : Chip :=
  let x := c.grpOf g
  c.setGrp g { x with openRow := x.openRow.insert (t / 64 % 16) (t / 1024) }

/-- Writes that a group holds in its stripe buffer and its queue (R307). -/
def Group.writes (x : Group) : Nat := x.buf.length + (x.queue.filter (·.write)).length

/-- Does a group drain its writes: from 48 writes held until 16 are left (R307)? -/
def Group.drains (x : Group) : Bool := if x.drain then decide (16 < x.writes) else decide (48 ≤ x.writes)

/-- Drain the stripe buffer, oldest stripe first, until 16 writes are held (R307). -/
def Chip.drainBuf (c : Chip) (g : Nat) : Chip :=
  let x := c.grpOf g
  let k := if x.drains then x.writes - 16 else 0
  let c := forAll (x.buf.take k) (c.setGrp g { x with buf := x.buf.drop k, drain := x.drains }) (fun c b => c.issueStripe g b)
  c.setGrp g { c.grpOf g with drain := (c.grpOf g).drains }

/-- Take the write of one access into the buffer (R305), which drains at 48 writes (R307). -/
def Chip.bufWrite (c : Chip) (m : MemPos) (mask : Nat) : Chip :=
  let x := c.grpOf m.grp
  ((c.setGrp m.grp { x with buf := bufAdd x.buf m.stripe m.di mask }).openBank m.grp m.stripe).drainBuf m.grp

/-! Data. -/

/-- Is an address in LPDDR6? -/
def isLpddr (a : Nat) : Bool := decide (a < 0xFC00000000)

/-- Bytes as an agent reads them, views translated (R391). -/
def Chip.locBytes (c : Chip) (a n : Nat) : List Byte :=
  if isLpddr a then (upto n).map (fun i => c.mem.read (c.viewAddr (a + i))) else c.mem.readN a n

/-- Is a write of `n` bytes at `a` ignored because one of them falls in an open accumulator tile (R91)? -/
def Chip.openTile (c : Chip) (a n : Nat) : Bool := (probes a n).any (fun x => openAt x)
where
  openAt (a : Nat) : Bool :=
    match placeOf a with
    | .acc cl k o => c.tileOpen cl k (o / 0x2000)
    | _ => false

/-- The accesses that `n` bytes at `a` touch: (first byte, bytes). -/
def accessRuns (a n : Nat) : List (Nat × Nat) :=
  (upto (ceilDiv (a % 32 + n) 32)).map (fun i =>
    let lo := max a ((a / 32 + i) * 32)
    (lo, min (a + n) ((a / 32 + i + 1) * 32) - lo))

/-- All `n` enables. -/
def ones (n : Nat) : Nat := 2 ^ n - 1

/-- One access of a write: its enabled bytes `mask` go to the stripe buffer and are counted where the group lies (R300, R304). -/
def Chip.storeAccess (c : Chip) (a mask : Nat) : Chip :=
  if mask = 0 then c
  else
    let m := c.memMap (c.viewAddr a)
    (c.bufWrite m (mask * 2 ^ (a % 32))).addF (.mem (m.grp / 8)) R.MEM_WRITE_BYTES (bitsOf mask 32).length

/-- Store bytes under an enable mask as an agent does (bit i of `en` enables byte i). -/
def Chip.locStore (c : Chip) (a en : Nat) (bs : List Byte) : Chip :=
  if isLpddr a then
    let m := (bs.zipIdx).foldl (fun m (b, i) => if bit en i then m.write (c.viewAddr (a + i)) b else m) c.mem
    let c := c.sideMark a |>.sideMark (a + bs.length - 1)
    let c := { c with mem := m }
    forAll (accessRuns a bs.length) c (fun c r => c.storeAccess r.1 (field en (r.1 - a) r.2))
  else c.setMem (c.mem.writeMasked a en bs)

/-- Read of LPDDR6: every access is read and checked where its group lies; no bytes where a stripe is lost (R300, R303). The bytes returned are counted
where their groups lie (R319). -/
def Chip.lpRead (c : Chip) (a n : Nat) : Chip × Option (List Byte) :=
  let (c, bs) := (accessRuns a n).foldl (fun (s : Chip × Option (List Byte)) r =>
    let p := s.1.memMap (s.1.viewAddr r.1)
    match (s.1.openBank p.grp p.stripe).readAccess p.grp p.stripe p.di (ones r.2 * 2 ^ p.byte) with
    | (c, some b) => (c, s.2.map (fun l => l ++ (b.drop p.byte).take r.2))
    | (c, none) => (c, none)) (c, some [])
  if bs.isNone then (c, bs)
  else (forAll (accessRuns a n) c (fun c r => c.addF (.mem ((c.memMap (c.viewAddr r.1)).grp / 8)) R.MEM_READ_BYTES r.2), bs)

/-- Commons words that an access touches are counted (R183). -/
def Chip.noteWords (c : Chip) (a n : Nat) : Chip :=
  match placeOf a with
  | .commons cl _ => c.addF (.cm cl) R.CM_WORDS (if n = 0 then 0 else (a + n - 1) / 64 - a / 64 + 1)
  | _ => c

/-- What an agent's access to SRAM leaves in the counters. -/
def Chip.noteSram (c : Chip) (a n : Nat) : Chip := (c.noteWords a n).portWait a

/-- An ignored write to an open tile is noted by its ME (R91). -/
def Chip.noteOpen (c : Chip) (a : Nat) : Chip :=
  match placeOf a with
  | .acc cl k _ => c.raise (.me cl k) St.ME_ACC_OPEN_WRITE
  | _ => c

/-! Registers among the local addresses (R4, R10, R25). -/

/-- Agent of a register access that an agent of this device makes. -/
def regAgent (ag : Agent) : RegAgent :=
  match ag.part with
  | some p => .part (Fin.ofNat 16 p)
  | none => .mc (Fin.ofNat 4 ag.die)

/-- Runs of enabled bytes: (first, length). -/
def enabledRuns (en n : Nat) : List (Nat × Nat) :=
  ((upto n).filter (fun i => bit en i && (i = 0 || !bit en (i - 1)))).map (fun i =>
    (i, ((upto (n - i)).takeWhile (fun j => bit en (i + j))).length))

/-- How register accesses are performed: `read` answers the state and the value, from die, offset and size. -/
structure RegIo where
  read : Chip → Nat → Nat → Nat → Chip × Nat
  write : Chip → RegAgent → Nat → Nat → Nat → Nat → Chip

/-- The register accesses of an engine's own reads and writes: stored fields, and what an access of illegal size or to no register leaves behind (log
entry 124). -/
def plainIo : RegIo where
  read c d off n := match c.findReg d off n with
    | .error c => (c, 0)
    | .ok b => (c, field (c.storedWord b (d * dieSpan + off / 8 * 8)) (accessBits off n).1 (8 * n))
  write c _ d off n v := match c.findReg d off n with
    | .error c => c
    | .ok b => c.regStore b d off n v (fun f => !ownRow b f)

/-- Are requests to a group held by a session (R311)? -/
def Chip.grpHeld (c : Chip) (g : Nat) : Bool :=
  c.on (.grp g) R.GRP_STATE_CAL_ACTIVE && !(c.grpOf g).replay && decide (2 ≤ c.grpState g) && decide (c.grpState g ≤ 4)

/-- Agent of the queue engine and of the other engines of the management core: the MC of D0 (R268, R301). -/
def mcAgent : Agent := ⟨none, 0⟩

/-! Requests of agents (R300-R305). -/

/-- Perform a read of an agent of this device: its code, and the bytes when the code is COMP_OK. -/
def Chip.readBy (c : Chip) (io : RegIo) (ag : Agent) (a n : Nat) : Chip × Code × List Byte :=
  let code := c.accessCode ag false a n
  if code != COMP_OK then (c.noteRefusal ag a code, code, [])
  else if isLpddr a then match c.lpRead a n with
    | (c, some bs) => (c, COMP_OK, bs)
    | (c, none) => (c, COMP_MEM_LOST, [])
  else match placeOf a with
    | .regs d off => let (c, v) := io.read c d off n; (c, COMP_OK, leBytes n v)
    | _ => (c.noteSram a n, COMP_OK, c.locBytes a n)

/-- Perform a write of an agent of this device. A write to an open accumulator tile completes without effect (R91). -/
def Chip.writeBy (c : Chip) (io : RegIo) (ag : Agent) (a en : Nat) (bs : List Byte) : Chip × Code :=
  let code := c.accessCode ag true a bs.length
  if code != COMP_OK then (c.noteRefusal ag a code, code)
  else if c.openTile a bs.length then (c.noteOpen a, COMP_OK)
  else match placeOf a with
    | .regs d off => (forAll (enabledRuns en bs.length) c (fun c r =>
        io.write c (regAgent ag) d (off + r.1) r.2 (leNat ((bs.drop r.1).take r.2))), COMP_OK)
    | .lpddr => (c.locStore a en bs, COMP_OK)
    | _ => ((c.locStore a en bs).noteSram a bs.length, COMP_OK)

/-- Do two ranges touch the same access (R305)? -/
def sameAccess (a n b m : Nat) : Bool := decide (a / 32 ≤ (b + m - 1) / 32) && decide (b / 32 ≤ (a + n - 1) / 32)

/-- Groups that a request touches. -/
def Chip.reqGroups (c : Chip) (a n : Nat) : List Nat := ((accessRuns a n).map (fun r => (c.memMap (c.viewAddr r.1)).grp)).dedup

/-- Does a session hold a request of `n` bytes at `a` (R311)? -/
def Chip.heldAt (c : Chip) (a n : Nat) : Bool := isLpddr a && (c.reqGroups a n).any c.grpHeld

/-- Perform a request and answer it; the response of a partition that has been reset meanwhile is discarded (R305, R318). -/
def Chip.perform (c : Chip) (io : RegIo) (r : MemReq) : Chip :=
  if r.write then
    let (c, code) := c.writeBy io r.agent r.addr r.enable r.bytes
    { c with out := c.out ++ (if r.dead then [] else [.memResp code []]) }
  else
    let (c, code, bs) := c.readBy io r.agent r.addr r.bytes.length
    { c with out := c.out ++ (if r.dead then [] else [.memResp code bs]) }

/-- Requests to the same access are performed in the order in which they reached the group engine: those that a queue holds come first (R305; log entry
125). -/
def Chip.serveOlder (c : Chip) (a n : Nat) : Chip :=
  if !isLpddr a then c
  else forAll (c.reqGroups a n) c (fun c g =>
    let q := (c.grpOf g).queue
    let later := q.reverse.takeWhile (fun r => !sameAccess a n r.addr r.bytes.length)
    let k := q.length - later.length
    if k = 0 then c else forAll (q.take k) (c.setGrp g { c.grpOf g with queue := q.drop k }) (fun c r => c.perform plainIo r))

/-- Read by an agent of this device. -/
def Chip.agentReadIo (c : Chip) (io : RegIo) (ag : Agent) (a n : Nat) : Chip × Code × List Byte :=
  (if c.accessCode ag false a n = COMP_OK then c.serveOlder a n else c).readBy io ag a n
def Chip.agentRead (c : Chip) (ag : Agent) (a n : Nat) : Chip × Code × List Byte := c.agentReadIo plainIo ag a n

/-- Read by the management core of bytes that it goes on with: what is there where it is lost (log entry 127). -/
def Chip.mcRead (c : Chip) (a n : Nat) : Chip × List Byte :=
  match c.agentRead mcAgent a n with
  | (c, 0, bs) => (c, bs)
  | (c, _, _) => (c, c.locBytes a n)

/-- Reads one after another, the first that fails being the last: its code. -/
def Chip.readAll (c : Chip) (ag : Agent) : List (Nat × Nat) → Chip × Code
  | [] => (c, COMP_OK)
  | x :: r =>
    let (c, code, _) := c.agentRead ag x.1 x.2
    if code = COMP_OK then c.readAll ag r else (c, code)

/-- Write by an agent of this device. -/
def Chip.agentWriteIo (c : Chip) (io : RegIo) (ag : Agent) (a en : Nat) (bs : List Byte) : Chip × Code :=
  (if c.accessCode ag true a bs.length = COMP_OK then c.serveOlder a bs.length else c).writeBy io ag a en bs
def Chip.agentWrite (c : Chip) (ag : Agent) (a en : Nat) (bs : List Byte) : Chip × Code := c.agentWriteIo plainIo ag a en bs

/-- Zeros written by the management core, in requests of 128 bytes (R306). -/
def Chip.mcZero (c : Chip) (a n : Nat) : Chip :=
  forAll (upto (ceilDiv n 128)) c (fun c i =>
    let k := min 128 (n - 128 * i)
    (c.agentWrite mcAgent (a + 128 * i) (ones k) (List.replicate k 0)).1)

/-- A whole data access written by a restore that rewrites its stripe (R317): the bytes at the access's own address, behind every view. -/
def Chip.storePhys (c : Chip) (p : MemPos) (bs : List Byte) : Chip :=
  ((c.setMem (c.mem.writeN (c.unmap p.grp p.stripe p.di 0) bs)).bufWrite p (2 ^ 32 - 1)).addF (.mem (p.grp / 8)) R.MEM_WRITE_BYTES 32

end Sys2Proof.Machine
end

