-- ==== Sys2Proof/Machine/Telemetry.lean ====
section
/-! DEFINITION. Sensors, platform events and the PLDM terminus (R468-R471). -/

namespace Sys2Proof.Machine

/-! State sensors and events (R469, R471). -/

/-- Has a power domain faulted (R458)? -/
def Chip.faulted (c : Chip) (n : Nat) : Bool := bit (c.getF .pwr R.PWR_FAULTED) n

/-- Is the uncore or the management of D0 lost, so that the module is silent (R458)? -/
def Chip.silentDie (c : Chip) : Bool := c.faulted 8 || c.faulted 14

/-- Is a power domain on? -/
def Chip.domainOn (c : Chip) (n : Nat) : Bool := bit (c.getF .pwr R.PWR_DOMAINS_ON) n

/-- The power domain of a module cluster (R13). -/
def clusterDomain (cl : Nat) : Nat := 15 * (cl / 8) + cl % 8

/-- Thermal point of a cluster (R464); a cluster whose sensor gives no reading is held at 0 (R474). -/
def Chip.thermalPoint (c : Chip) (cl : Nat) : Nat :=
  if c.power.blind.contains cl then 0 else KMap.getD c.power.thermal cl 7

/-- Throttle cause (R469): 0 none, 1 cap, 2 thermal, 3 input. -/
def Chip.throttleCause (c : Chip) : Nat :=
  if c.power.inputLow then 3
  else if (upto 32).any (fun cl => decide (c.thermalPoint cl < 7)) then 2
  else if c.getF .pwr R.PWR_CTRL_CAP_POINT < 7 then 1 else 0

/-- The state sensors 40 to 44: BOOT code, protection level, group level, layout in force, throttle cause (R469). -/
def Chip.stateSensors (c : Chip) : List Nat :=
  [c.getF (.boot 0) R.BOOT_STATE_CODE, c.getF .res R.RES_STATE_LEVEL, c.getF .res R.RES_STATE_GROUP_LEVEL,
    c.getF .layout R.LAYOUT_CURRENT, c.throttleCause]

/-- Queue an event once a receiver is set, and send it; a full queue drops its oldest (R471). -/
def Chip.pldmEvent (c : Chip) (source value : Nat) : Chip :=
  match c.pldm.receiver with
  | none => c
  | some _ =>
    let full := decide (64 ≤ c.pldm.events.length)
    let c := c.raiseIf full (.tel 0) St.TEL_EVENT_DROP
    let l := if full then c.pldm.events.drop 1 else c.pldm.events
    { c with pldm := { c.pldm with events := l ++ [⟨source, value, 1⟩] }, out := c.out ++ [.event source value] }

/-- Report the state sensors that have changed since they were last reported (R471). -/
def Chip.watch (c : Chip) : Chip :=
  let l := c.stateSensors
  if l = c.pldm.states then c
  else
    let old := c.pldm.states
    let c := { c with pldm := { c.pldm with states := l } }
    forAll l.zipIdx c (fun c e => if old.getD e.2 0 = e.1 then c else c.pldmEvent (40 + e.2) e.1)

/-- PLDM_EVENT_RETRY (R471): an event not acknowledged is sent again, up to 3 times. -/
def Chip.eventRetry (c : Chip) (i : Nat) : Chip :=
  match c.pldm.events[i]? with
  | none => c
  | some e =>
    if 4 ≤ e.sent then c
    else { c with pldm := { c.pldm with events := c.pldm.events.set i { e with sent := e.sent + 1 } }, out := c.out ++ [.event e.source e.value] }

/-- PLATFORM_EVENT_ACK (R471). -/
def Chip.eventAck (c : Chip) (i : Nat) : Chip := { c with pldm := { c.pldm with events := c.pldm.events.eraseIdx i } }

/-! Sensor values (R469). -/

/-- Core clock of an operating point in MHz (R460). -/
def pointMHz (p : Nat) : Nat := [1000, 1500, 2000, 2400, 2800, 3200, 3600, 4000].getD p 0

/-- Core clock of a cluster in MHz: that of its point, or while a droop stretches it max(f ÷ 2, 1.0 GHz) (R460, R465). -/
def Chip.clockMHz (c : Chip) (cl : Nat) : Nat :=
  let f := pointMHz (c.getF (.clkcl cl) R.CLKCL_STATE_OP)
  if c.power.stretched.contains cl then max (f / 2) 1000 else f

/-- Sum of a field over every core of present clusters. -/
def Chip.sumCores (c : Chip) (f : Nat → Nat → Nat) : Nat :=
  ((upto 32).map (fun cl => if c.clusterGone cl then 0 else ((upto 16).map (f cl)).sum)).sum

/-- Present clusters of a die whose domain is on. -/
def Chip.dieClusters (c : Chip) (d : Nat) : List Nat :=
  ((upto 8).map (8 * d + ·)).filter (fun cl => !c.clusterGone cl && c.domainOn (clusterDomain cl))

/-- Bits set in a mask of `n` bits. -/
def popCount (v n : Nat) : Nat := (bitsOf v n).length

/-- The module's present value of a numeric sensor (R469). -/
def Chip.sensorNow (c : Chip) (id : Nat) : Nat :=
  if id = 1 then c.getF (.tel 0) R.TEL_INPUT_VOLTS
  else if id = 2 then c.getF (.tel 0) R.TEL_INPUT_AMPS
  else if id = 3 then c.getF (.tel 0) R.TEL_INPUT_WATTS
  else if id = 4 then c.getF .pwr R.PWR_CTRL_CAP_W
  else if 10 ≤ id ∧ id < 14 then c.getF (.tel (id - 10)) R.TEL_TEMP_JMAX
  else if 14 ≤ id ∧ id < 18 then c.getF (.tel (id - 14)) R.TEL_TEMP_MEM_MAX
  else if id = 18 then c.getF (.tel 0) R.TEL_COOLANT_INLET
  else if id = 19 then c.getF (.tel 0) R.TEL_COOLANT_OUTLET
  else if 20 ≤ id ∧ id < 24 then
    (c.dieClusters (id - 20)).foldl (fun m cl => min m (c.clockMHz cl)) 4000
  else if id = 60 then c.sumCores (fun cl k => c.getF (.me cl k) St.ME_CSUM_MISS.cnt)
  else if id = 61 then c.sumCores (fun cl k => c.getF (.me cl k) St.ME_CSUM_HARD.cnt)
  else if id = 62 then ((upto 32).map (fun cl => if c.clusterGone cl then 0 else
    popCount (c.getF (.boot (cl / 8)) (R.BOOT_BENCH_CL_BENCHED.nth (cl % 8))) 17)).sum
  else if id = 63 then ((upto 32).map (fun g => ((upto 8).map (fun m =>
    c.getF (.grp g) ⟨0x10 + 8 * (m / 4), 16 * (m % 4), 16, .ro, 0, true⟩)).sum)).sum
  else if id = 64 then ((upto 32).filter (fun g => decide (2 ≤ c.grpState g))).length
  else if id = 65 then ((upto 4).map (fun d => popCount (c.getF (.boot d) R.BOOT_BENCH_LANE_LANES) 48)).sum
  else if id = 66 then ((upto 24).filter (fun p => c.getF (.port p) R.PORT_STATE == 4)).length
  else if id = 67 then ((upto 24).map (fun p => c.getF (.port p) R.PORT_REPLAY_FLITS)).sum
  else if id = 68 then ((upto 32).map (fun cl => c.getF (.dma cl) R.DMA_SEG_RETRIES)).sum
  else if 128 ≤ id ∧ id < 256 then c.getF (.telpt 0 ((id - 128) / 8) ((id - 128) % 8)) R.TELPT_PT_US
  else 0

/-- Sensors whose value follows every change; the others keep what their last refresh read (R469). -/
def sensorLive (id : Nat) : Bool := id == 4 || id == 62 || id == 64 || id == 65 || id == 66 || decide (128 ≤ id)

/-- The numeric sensors and the state sensors of R469. -/
def numericSensors : List Nat :=
  [1, 2, 3, 4] ++ (upto 4).map (10 + ·) ++ (upto 4).map (14 + ·) ++ [18, 19] ++ (upto 4).map (20 + ·) ++ (upto 9).map (60 + ·) ++
    (upto 128).map (128 + ·)
def stateSensorIds : List Nat := [40, 41, 42, 43, 44]

/-- Is a sensor's domain on (R469)? Input, junction and coolant sensors are read through domain 62, packages and clocks through their own. -/
def Chip.sensorUp (c : Chip) (id : Nat) : Bool :=
  if id < 4 || id == 18 || id == 19 then c.domainOn 62
  else if 10 ≤ id ∧ id < 14 then c.domainOn 62 && c.domainOn (15 * (id - 10) + 14)
  else if 14 ≤ id ∧ id < 18 then c.domainOn (15 * (id - 14) + 9) || c.domainOn (15 * (id - 14) + 10)
  else if 20 ≤ id ∧ id < 24 then !(c.dieClusters (id - 20)).isEmpty
  else true

/-- Does the repository describe a numeric sensor: is its unit present (R470)? A die's junctions and clock need a cluster of the variant, its package
temperature a package. -/
def Chip.sensorThere (c : Chip) (id : Nat) : Bool :=
  if 14 ≤ id ∧ id < 18 then c.getF (.mem (id - 14)) R.MEM_STATE_PRESENT != 0
  else if (10 ≤ id ∧ id < 14) ∨ (20 ≤ id ∧ id < 24) then (upto 8).any (fun k => !c.clusterGone (8 * (id % 10) + k))
  else numericSensors.contains id

/-- A refresh of a numeric sensor stores its present value. -/
def Chip.sensorStore (c : Chip) (id : Nat) : Chip :=
  { c with pldm := { c.pldm with readings := c.pldm.readings.insert id (c.sensorNow id) } }

/-- What a reading of a numeric sensor gives. -/
def Chip.sensorRead (c : Chip) (id : Nat) : Nat := if sensorLive id then c.sensorNow id else KMap.getD c.pldm.readings id 0

/-! PLDM commands (R470). -/

/-- Does the terminus answer: stage 1 has ended, and the MC of D0 is not lost (R458, R470, R485)? -/
def Chip.sidebandUp (c : Chip) : Bool := decide (2 ≤ c.getF (.boot 0) R.BOOT_STATE_STAGE) && !c.silentDie

/-- Answer a PLDM command, named by its type × 256 + its code, with a completion code and fields. -/
def Chip.pldmReply (c : Chip) (cmd code : Nat) (fields : List Nat) : Chip :=
  if c.sidebandUp then { c with out := c.out ++ [.pldm cmd code fields] } else c

/-- Completion codes of PLDM (log entry 62). -/
def PLDM_ERROR_INVALID_DATA : Nat := 2
def PLDM_ERROR_NOT_READY : Nat := 4

def Chip.getTid (c : Chip) : Chip := c.pldmReply 0x0002 0 [c.pldm.tid]

def Chip.setTid (c : Chip) (tid : Nat) : Chip :=
  if c.sidebandUp then { c with pldm := { c.pldm with tid := tid } }.pldmReply 0x0001 0 [] else c

/-- The types that the terminus supports, and the commands of each (log entry 62 for the numbers). -/
def pldmTypes : List Nat := [0, 2]
def pldmCommands (typ : Nat) : List Nat :=
  if typ = 0 then [1, 2, 3, 4, 5] else if typ = 2 then [0x04, 0x11, 0x21, 0x50, 0x51] else []

def Chip.getPldmVersion (c : Chip) (typ : Nat) : Chip :=
  if pldmTypes.contains typ then c.pldmReply 0x0003 0 [Config.pldmVersion typ] else c.pldmReply 0x0003 0x83 []

def Chip.getPldmTypes (c : Chip) : Chip := c.pldmReply 0x0004 0 pldmTypes

def Chip.getPldmCommands (c : Chip) (typ : Nat) : Chip :=
  if pldmTypes.contains typ then c.pldmReply 0x0005 0 (pldmCommands typ) else c.pldmReply 0x0005 0x83 []

/-- A type 2 command completes with ERROR_NOT_READY before the repository exists (R470). -/
def Chip.type2 (c : Chip) (cmd : Nat) (f : Chip → Chip) : Chip :=
  if !c.sidebandUp then c else if c.pldm.pdrs then f c else c.pldmReply cmd PLDM_ERROR_NOT_READY []

/-- The records of the repository, as (PDR type, sensor or container): the terminus locator (1), numeric (2) sensors of units that are present and state
(4) sensors, and the entity associations (15) of dies, package sites and cold plate (R470). Presence is the fuses', so the records stay as they are. -/
def Chip.pdrRecords (c : Chip) : List (Nat × Nat) :=
  [(1, 0)] ++ (numericSensors.filter c.sensorThere).map (fun i => (2, i)) ++ stateSensorIds.map (fun i => (4, i)) ++ [(15, 0), (15, 1), (15, 2)]

def Chip.getPdrInfo (c : Chip) : Chip :=
  c.type2 0x0250 (fun c => c.pldmReply 0x0250 0 [c.pdrRecords.length])

/-- GetPDR: a record by its handle, 1 for the first; handle 0 names the first too. The reply carries the next handle, the record's type, what it
describes, and its bytes, whose contents the spec leaves to DSP0248. -/
def Chip.getPdr (c : Chip) (handle : Nat) : Chip :=
  c.type2 0x0251 (fun c =>
    let i := if handle = 0 then 0 else handle - 1
    match c.pdrRecords[i]? with
    | some e => c.pldmReply 0x0251 0 ([if i + 1 < c.pdrRecords.length then i + 2 else 0, e.1, e.2] ++ (Config.pdrBytes e.1 e.2).map (·.toNat))
    | none => c.pldmReply 0x0251 0x82 [])

/-- GetSensorReading: operational state (0 enabled, 2 unavailable) and value. -/
def Chip.getSensor (c : Chip) (id : Nat) : Chip :=
  c.type2 0x0211 (fun c =>
    if !c.sensorThere id then c.pldmReply 0x0211 0x80 []
    else if !c.sensorUp id || c.pldm.bad.contains id then c.pldmReply 0x0211 0 [2, 0]
    else c.pldmReply 0x0211 0 [0, c.sensorRead id])

/-- GetStateSensorReadings. -/
def Chip.getStateSensor (c : Chip) (id : Nat) : Chip :=
  c.type2 0x0221 (fun c =>
    if stateSensorIds.contains id then c.pldmReply 0x0221 0 [0, c.stateSensors.getD (id - 40) 0] else c.pldmReply 0x0221 0x80 [])

/-- SetEventReceiver: a receiver's endpoint, or none. -/
def Chip.setReceiver (c : Chip) (who : Option Nat) : Chip :=
  c.type2 0x0204 (fun c => { c with pldm := { c.pldm with receiver := who, states := c.stateSensors } }.pldmReply 0x0204 0 [])

end Sys2Proof.Machine
end

