-- ==== Sys2Proof/Machine/Fabric.lean ====
section
/-! DEFINITION. Requests to other devices and what carries them (R27, R327-R340): routes, message headers, flits, credits,
the sending side of a Jalfo port, and the requests that wait for a response. -/

namespace Sys2Proof.Machine

/-! Ports and routes (R338). -/

def Chip.portOf (c : Chip) (p : Nat) : JPort := KMap.getD c.ports p {}
def Chip.setPort (c : Chip) (p : Nat) (x : JPort) : Chip := { c with ports := c.ports.insert p x }

/-- Is a port ACTIVE or DEGRADED (R338)? -/
def Chip.portUp (c : Chip) (p : Nat) : Bool :=
  let s := c.getF (.port p) R.PORT_STATE
  s == 2 || s == 3

/-- The routes to a device that die `d` lists, in order of preference (R338); none to this device itself (R27). -/
def Chip.routesTo (c : Chip) (d dev : Nat) : List Nat :=
  if c.isSelf dev then [] else
  ([(R.ROUTE_PORT_0, R.ROUTE_VALID_0), (R.ROUTE_PORT_1, R.ROUTE_VALID_1), (R.ROUTE_PORT_2, R.ROUTE_VALID_2),
    (R.ROUTE_PORT_3, R.ROUTE_VALID_3)].filter (fun e => c.on (.route d dev) e.2)).map (fun e => c.getF (.route d dev) e.1)

/-- May a route be taken: its port is one of the 24 and up (R338)? -/
def Chip.routeUp (c : Chip) (p : Nat) : Bool := decide (p < 24) && c.portUp p

/-- The routes to a device that are up (R338). -/
def Chip.routesUp (c : Chip) (d dev : Nat) : List Nat := (c.routesTo d dev).filter c.routeUp

/-- The route of bulk segment `n` to a device: route n mod R of the R that are up (R254). -/
def Chip.bulkRoute (c : Chip) (d dev n : Nat) : Option Nat :=
  let rs := c.routesUp d dev
  if rs.isEmpty then none else rs[n % rs.length]?

/-- The next route that is up after the one by port `p`, in the order of the table and round to its start (R340). -/
def Chip.routeAfter (c : Chip) (d dev : Nat) (p : Option Nat) : Option Nat :=
  let l := c.routesTo d dev
  let i := (l.takeWhile (fun q => some q != p)).length + 1
  (l.drop i ++ l.take i).find? c.routeUp

/-! TLPs and MSI-X of the host bridge (R348, R350, R354). -/

/-- A TLP received, and one sent: its length is PCI Express's (log entry 60). -/
def Chip.tlpRx (c : Chip) : Chip := c.tick.addF .hbr R.HBR_RX_TLP_BYTES (Config.freeBits c.freeCtr 16 % 2 ^ 16)
def Chip.tlpTx (c : Chip) : Chip := c.tick.addF .hbr R.HBR_TX_TLP_BYTES (Config.freeBits c.freeCtr 16 % 2 ^ 16)

def Chip.hostFn (c : Chip) (fn : Nat) : HostFn := KMap.getD c.hostFns fn {}
def Chip.setHostFn (c : Chip) (fn : Nat) (x : HostFn) : Chip := { c with hostFns := c.hostFns.insert fn x }

/-- Vectors of a function's MSI-X table (R348). -/
def msixVectors (fn : Nat) : Nat := if fn = 0 then 72 else 8

/-- Is a vector held back: its entry is masked, or its function is in D3hot (R345, R348; log entry 60)? -/
def HostFn.holds (x : HostFn) (v : Nat) : Bool := x.d3hot || bit (KMap.getD x.msix (4 * v + 3) 0) 0

/-- An MSI-X message of a function's vector, or its pending bit while the vector is held back. -/
def Chip.msixSend (c : Chip) (fn v : Nat) : Chip :=
  let x := c.hostFn fn
  if x.holds v then c.setHostFn fn { x with pending := if x.pending.contains v then x.pending else x.pending ++ [v] }
  else let c := c.tlpTx; { c with out := c.out ++ [.msix fn v] }

/-- Pending vectors that are no longer held back are sent. -/
def Chip.msixPoll (c : Chip) (fn : Nat) : Chip :=
  let x := c.hostFn fn
  forAll (x.pending.filter (fun v => !x.holds v)) (c.setHostFn fn { x with pending := x.pending.filter x.holds }) (fun c v => c.msixSend fn v)

/-- A write to a dword of the MSI-X table. -/
def Chip.msixWrite (c : Chip) (fn i v : Nat) : Chip :=
  let x := c.hostFn fn
  (c.setHostFn fn { x with msix := x.msix.insert i (v % 2 ^ 32) }).msixPoll fn

/-! Headers and flits (R327, R329). -/

/-- A message header as 16 bytes (R329). -/
def Msg.header (m : Msg) : List Byte :=
  leBytes 8 (putField m.opc 0 8 + putField m.vc 8 3 + putField (b2n m.mirror) 11 1 + putField m.hops 12 3 +
    putField (b2n m.host) 15 1 + putField m.dst 16 12 + putField m.src 28 12 + putField m.part 40 4 +
    putField (b2n m.pf) 44 1 + putField m.tag 48 16) ++
  leBytes 8 (putField m.addr 0 48 + putField (m.len - 1) 48 12)

/-- A message header read from 16 bytes (R329). -/
def msgOf (bs : List Byte) : Msg :=
  let a := recNat bs 0 8
  let b := recNat bs 8 8
  { opc := field a 0 8, vc := field a 8 3, mirror := bit a 11, hops := field a 12 3, host := bit a 15, dst := field a 16 12,
    src := field a 28 12, part := field a 40 4, pf := bit a 44, tag := field a 48 16, addr := field b 0 48,
    len := field b 48 12 + 1 }

/-- Does an opcode carry data (R330)? -/
def opcHasData (o : Nat) : Bool := o == 2 || o == 0x10 || o == 0x30

/-- 16-byte units of a message's data, aligned to the target address (R328). -/
def Msg.units (m : Msg) : Nat := if opcHasData m.opc then ceilDiv (m.addr % 16 + m.len) 16 else 0

/-- Slots of the receiver's buffer that a message takes (R331). -/
def Msg.slots (m : Msg) : Nat := 1 + m.units

/-- A message's data as units of its VC's data stream (R328). -/
def Msg.stream (m : Msg) : List Byte :=
  let pre := List.replicate (m.addr % 16) (0 : Byte) ++ m.data.take m.len
  (pre ++ List.replicate (16 * m.units - pre.length) 0).take (16 * m.units)

/-- CRC-32 of IEEE 802.3 over bytes (R327). -/
def crc32 (bs : List Byte) : Nat :=
  (bs.foldl (fun c b => (upto 8).foldl (fun c _ => if c % 2 = 1 then (c / 2) ^^^ 0xEDB88320 else c / 2) (c ^^^ b.toNat))
    0xFFFFFFFF) ^^^ 0xFFFFFFFF

/-- The bytes of a flit (R327). -/
def flitBytes (typ seq ack : Nat) (ackValid : Bool) (crVc crSlots dataVc fill : Nat) (payload : List Byte) : List Byte :=
  let body := leBytes 8 (putField seq 0 12 + putField typ 12 4 + putField ack 16 12 + putField (b2n ackValid) 28 1 +
      putField crVc 29 3 + putField crSlots 32 12 + putField dataVc 44 3) ++
    (payload ++ List.replicate (240 - payload.length) 0) ++ leBytes 4 (putField fill 0 4)
  body ++ leBytes 4 (crc32 body)

/-- The credit return that the next flit carries: a VC with slots to return, and how many (R327, R331, R332). -/
def JPort.credit (x : JPort) : Nat × Nat :=
  match List.find? (fun (e : Nat × Nat) => e.2 != 0) x.ret with
  | some (vc, n) => (vc, min n 4095)
  | none => (0, 0)

/-- Put a flit on a port's lanes; it carries the newest ACK_SEQ and one credit return (R332). -/
def Chip.emitFlit (c : Chip) (p typ seq vc fill : Nat) (payload : List Byte) : Chip :=
  let x := c.portOf p
  let ack := (x.rxSeq + 4095) % 4096
  let (v, n) := x.credit
  let c := c.setPort p { x with ret := x.ret.map (fun e => if e.1 = v then (e.1, e.2 - n) else e) }
  { c with out := c.out ++ [.flit p (flitBytes typ seq ack true v n (if typ = 2 then vc else 0) fill payload)] }

/-- Slots freed in the receive buffer go back to their VC (R331). -/
def Chip.freeSlots (c : Chip) (p vc n : Nat) : Chip :=
  let x := c.portOf p
  c.setPort p { x with ret := x.ret.insert vc (KMap.getD x.ret vc 0 + n) }

/-! Credits and sending (R331, R332, R334). -/

/-- Reserved slots of a VC (R331). -/
def vcReserve (vc : Nat) : Nat :=
  match vc with
  | 0 => 512 | 1 => 1024 | 2 => 1024 | 3 => 256 | 4 => 512 | 5 => 256 | _ => 0

/-- Slots that a VC takes from the shared pool. -/
def vcShared (use : KMap Nat) (vc : Nat) : Nat := KMap.getD use vc 0 - vcReserve vc

/-- Do slots in use keep to the pools of R331? -/
def creditsHold (use : KMap Nat) : Bool :=
  decide (((upto 8).map (vcShared use)).sum ≤ 12800) && decide (vcShared use 2 ≤ 6400)

/-- Slots in use after a message. -/
def addUse (use : KMap Nat) (vc n : Nat) : KMap Nat := use.insert vc (KMap.getD use vc 0 + n)

/-- The data of a message as DATA flits carry it, 15 units a flit (R328). -/
def Msg.chunks (m : Msg) : List (Nat × List Byte) :=
  (upto (ceilDiv m.units 15)).map (fun i => (min 15 (m.units - 15 * i), (m.stream.drop (240 * i)).take 240))

/-- Can a VC use a flit time: its data stream, or else a header, has credits, and at most 2,048 flits are unacknowledged (R331, R332, R334)? -/
def JPort.canSend (x : JPort) (vc : Nat) : Bool :=
  decide (x.sent.length < 2048) && (match KMap.getD x.data vc [] with
    | u :: _ => creditsHold (addUse x.use vc u.1)
    | [] => x.txq.any (fun m => m.vc == vc) && creditsHold (addUse x.use vc 1))

/-- Headers for a MSG flit granted to a VC: its own, oldest first, then those of other VCs in the order of R332, as far as 15 slots and credits go. -/
def JPort.headers (x : JPort) (vc : Nat) : List Msg :=
  let order := vc :: ([5, 3] ++ shareOrder).filter (· != vc)
  ((order.flatMap (fun v => x.txq.filter (fun m => m.vc == v))).foldl (fun (s : List Msg × KMap Nat) m =>
    if s.1.length < 15 && creditsHold (addUse s.2 m.vc 1) then (s.1 ++ [m], addUse s.2 m.vc 1) else s) ([], x.use)).1

/-- A sent flit takes the next sequence number and stays until it is acknowledged (R334). -/
def Chip.sendFlit (c : Chip) (p typ vc fill : Nat) (payload : List Byte) : Chip :=
  let x := c.portOf p
  let c := c.setPort p { x with txSeq := (x.txSeq + 1) % 4096, sent := x.sent ++ [⟨x.txSeq, typ, vc, fill, payload⟩] }
  (c.emitFlit p typ x.txSeq vc fill payload).addF (.port p) R.PORT_TX_FLITS 1

/-- The flit of a VC that has been granted a flit time: of its data stream when it holds data, otherwise its headers (R332). -/
def Chip.sendVc (c : Chip) (p vc : Nat) : Chip :=
  let x := c.portOf p
  match KMap.getD x.data vc [] with
  | u :: r => (c.setPort p { x with data := x.data.insert vc r, use := addUse x.use vc u.1, arb := x.arb.next (some vc) }).sendFlit p 2 vc u.1 u.2
  | [] =>
    let hs := x.headers vc
    let data := hs.foldl (fun d m => if m.chunks.isEmpty then d else KMap.insert d m.vc (KMap.getD d m.vc [] ++ m.chunks)) x.data
    (c.setPort p { x with
      txq := hs.foldl (fun l m => l.erase m) x.txq, data := data, use := hs.foldl (fun u m => addUse u m.vc 1) x.use
      arb := x.arb.next (some vc) }).sendFlit p 1 vc hs.length (hs.flatMap Msg.header)

/-- Send what credits allow, a flit time at a step (R332). -/
def Chip.pump (c : Chip) (p : Nat) : Nat → Chip
  | 0 => c
  | fuel + 1 =>
    let x := c.portOf p
    match x.arb.pick x.canSend with
    | some vc => (c.sendVc p vc).pump p fuel
    | none => if x.canSend 5 || x.canSend 3 then (c.setPort p { x with arb := x.arb.next none }).pump p fuel else c

/-- Flit times in which a port can send all that it holds. -/
def JPort.work (x : JPort) : Nat := 4 * ((x.txq.map (fun m => 1 + m.chunks.length)).sum + (x.data.map (fun e => e.2.length)).sum)

/-- Send what credits allow of all that a port holds. -/
def Chip.pumpPort (c : Chip) (p : Nat) : Chip := c.pump p (c.portOf p).work

/-- Queue a message at a port and send what credits allow. -/
def Chip.enqueue (c : Chip) (p : Nat) (m : Msg) : Chip :=
  let x := c.portOf p
  (c.setPort p { x with txq := x.txq ++ [m] }).pumpPort p

/-- Die of a unit that a local address names: the cluster's, the register space's, or that of the channel group. -/
def Chip.dieOf (c : Chip) (a : Nat) : Nat :=
  match placeOf a with
  | .commons cl _ => cl / 8
  | .scratch cl _ _ => cl / 8
  | .acc cl _ _ => cl / 8
  | .regs d _ => d
  | _ => (c.memMap a).grp / 8

/-- A message of die `d` goes through the NoC, across the bridge where the port is another die's, to a port (R283, R286, R338). -/
def Chip.toPort (c : Chip) (d p : Nat) (m : Msg) : Chip :=
  (c.nocCross d (portDie p) (nocToPort (portDie p) p) m.vc m.nocFlits).enqueue p { m with hops := m.hops + 1 }

/-- What a fenced device still sends (R403): heartbeats and management replies, which are answers to PAIR, to SPARE_CLAIM, to LOAD_DONE and to what is no part of
recovery (R412). -/
def fencedSends (m : Msg) : Bool := m.opc == 0x30 && (m.addr / 256 != 1 || [0x101, 0x103, 0x124, 0x125, 0x128].contains m.addr)

/-- Send a message from die `d` by a route that is up: the one given, or the first (R338). With none, NO_ROUTE is set and
the code is COMP_LINK_DOWN (R339). -/
def Chip.fabSend (c : Chip) (d : Nat) (via : Option Nat) (m : Msg) : Chip × Code :=
  if c.getF .res R.RES_STATE_ROLE = 4 ∧ !fencedSends m ∨ c.silentDie then (c, COMP_LINK_DOWN)
  else match via with
  | some p => if c.portUp p then (c.toPort d p m, COMP_OK)
              else (c.raise (.jlk d) St.JLK_NO_ROUTE, COMP_LINK_DOWN)
  | none => match c.routesUp d m.dst with
    | p :: _ => (c.toPort d p m, COMP_OK)
    | [] => (c.raise (.jlk d) St.JLK_NO_ROUTE, COMP_LINK_DOWN)

/-! Requests that wait for a response (R339). -/

/-- A tag that no outstanding request of this device uses. -/
def Chip.newTag (c : Chip) : Nat :=
  (((upto (c.reqs.length + 1)).map (fun i => (c.tagCtr + i) % 65536)).find? (fun t =>
    c.reqs.all (fun r => r.msg.opc = 8 || r.msg.tag != t))).getD c.tagCtr

/-- Send a request and hold it until its response; one that finds no route up ends at once (R339). -/
def Chip.fabRequest (c : Chip) (d : Nat) (who : Requester) (via : Option Nat) (m : Msg) : Chip × Nat :=
  let t := c.newTag
  let m := { m with src := c.deviceId, tag := t }
  let (c, code) := { c with tagCtr := (t + 1) % 65536 }.fabSend d via m
  ({ c with reqs := c.reqs ++ [{ die := d, msg := m, who := who, port := via, resp := if code = COMP_OK then none else some (code, []) }] }, t)

/-- The response to the request with a tag, once it is there. -/
def Chip.fabAnswer (c : Chip) (t : Nat) : Option (Nat × List Byte) :=
  (c.reqs.find? (fun r => r.msg.opc != 8 && r.msg.tag == t)).bind (·.resp)

/-- Forget the request with a tag. -/
def Chip.fabEnd (c : Chip) (t : Nat) : Chip := { c with reqs := c.reqs.filter (fun r => r.msg.opc == 8 || r.msg.tag != t) }

/-! Remote increments (R340). -/

/-- Key of the numbering of one die's increments to one device. -/
def syncKey (dev die : Nat) : Nat := dev * 4 + die

/-- Increments of die `d` to a device that are outstanding. -/
def Chip.syncOpen (c : Chip) (d dev : Nat) : Nat :=
  (c.reqs.filter (fun r => r.msg.opc == 8 && r.die == d && r.msg.dst == dev)).length

/-- Send an increment by a route; a send that finds it down is itself sent again, as often as `fuel` allows (R340). -/
def Chip.syncTry (c : Chip) (r : FabReq) (via : Option Nat) : Nat → Chip × FabReq
  | 0 => (c, { r with retry := false, port := via, resp := some (COMP_LINK_DOWN, []) })
  | fuel + 1 =>
    let (c, k) := c.fabSend r.die via { r.msg with hops := 0 }
    if k = COMP_OK then (c, { r with retry := false, port := via, resp := none })
    else c.syncTry { r with resends := r.resends + 1 } via fuel

/-- Send an increment that has its turn: at most 64 of a die's to one target are outstanding. -/
def Chip.syncSend (c : Chip) (r : FabReq) : Chip :=
  let k := syncKey r.msg.dst r.die
  let seq := KMap.getD c.syncTx k 0
  let m := { r.msg with src := c.deviceId, tag := putField r.die 14 2 + seq }
  let (c, r) := { c with syncTx := c.syncTx.insert k ((seq + 1) % 16384) }.syncTry { r with msg := m } (c.routesUp r.die m.dst).head? 5
  if r.who == .dropped && r.resp.isSome then c else { c with reqs := c.reqs ++ [r] }

/-- A remote increment of counter `n` of device `dev` by `k` on behalf of partition `part` (R281, R330, R340). -/
def Chip.syncRemote (c : Chip) (d dev n k part : Nat) (who : Requester) : Chip :=
  let r : FabReq := { die := d, who := who,
                      msg := { opc := 8, vc := 3, dst := dev, src := 0, part := part, addr := n + k * 2 ^ 16 } }
  if 64 ≤ c.syncOpen d dev then { c with syncHeld := c.syncHeld ++ [r] } else c.syncSend r

/-- Held increments that now have their turn. -/
def Chip.syncRelease (c : Chip) (d dev : Nat) : Chip :=
  match findIdxFrom (fun (r : FabReq) => r.die == d && r.msg.dst == dev) 0 c.syncHeld with
  | some (i, r) => if c.syncOpen d dev < 64 then ({ c with syncHeld := c.syncHeld.eraseIdx i }).syncSend r else c
  | none => c

end Sys2Proof.Machine
end

