-- ==== Sys2Proof/Machine/Ring.lean ====
section
/-! DEFINITION. 13-bit ring pointers (R240, R269): slot index in [11:0], wrap bit in [12]. -/

namespace Sys2Proof.Machine

/-- Entries of a ring: LOG2 0 acts as 1, values above 12 act as 12. -/
def ringSize (log2 : Nat) : Nat := 2 ^ (if log2 = 0 then 1 else satNat 12 log2)

/-- Slot index of a pointer. -/
def ringIdx (p : Nat) : Nat := p % 4096

/-- The pointer after `p`: past the last slot the index returns to 0 and the wrap bit toggles. -/
def ringNext (size p : Nat) : Nat :=
  if ringIdx p + 1 < size then p + 1 else if p < 4096 then 4096 else 0

/-- Position of a pointer, modulo twice the ring. -/
def ringPos (size p : Nat) : Nat := (if p < 4096 then 0 else size) + ringIdx p

/-- Entries from pointer `a` up to pointer `b`. -/
def ringDist (size a b : Nat) : Nat := (ringPos size b + 2 * size - ringPos size a) % (2 * size)

/-- May a producer pointer be written (R240, R269)? `done` is the next entry to complete. -/
def ringPostOk (size done prod : Nat) : Bool := decide (ringIdx prod < size) && decide (ringDist size done prod ≤ size)

end Sys2Proof.Machine
end

