-- ==== Sys2Proof/Machine/Dma.lean ====
section
/-! DEFINITION. The DMA engine of a cluster (R239-R260): rings, descriptor checks, waits and claims, the shared data path,
beats, segments and their retries, and completion. -/

namespace Sys2Proof.Machine

def Chip.dmaOf (c : Chip) (cl : Nat) : DmaEng := KMap.getD c.dmas cl {}
def Chip.setDma (c : Chip) (cl : Nat) (e : DmaEng) : Chip := { c with dmas := c.dmas.insert cl e }
def Chip.chanOf (c : Chip) (cl n : Nat) : DmaCh := KMap.getD (c.dmaOf cl).chs n {}
def Chip.setChan (c : Chip) (cl n : Nat) (h : DmaCh) : Chip :=
  let e := c.dmaOf cl
  c.setDma cl { e with chs := e.chs.insert n h }

/-- Does the RSEQ own a channel (R58, R257)? -/
def Chip.dmaOwned (c : Chip) (cl n : Nat) : Bool := c.on (.ch cl n) R.CH_CTRL_OWNED

/-- Replace a descriptor in progress. -/
def Chip.setDesc (c : Chip) (cl n : Nat) (d : DmaDesc) : Chip :=
  let h := c.chanOf cl n
  c.setChan cl n { h with descs := h.descs.map (fun x => if x.serial = d.serial then d else x) }

/-! Descriptor fields (R241, R242). -/

namespace Desc
def op (b : List Byte) : Nat := recNat b 0 1
def flags (b : List Byte) : Nat := recNat b 1 1
def dstClaim (b : List Byte) : Bool := bit (flags b) 0
def srcRelease (b : List Byte) : Bool := bit (flags b) 1
def fence (b : List Byte) : Bool := bit (flags b) 2
def mirror (b : List Byte) : Bool := bit (flags b) 3
def fmtS (b : List Byte) : Nat := recNat b 2 1 % 16
def fmtD (b : List Byte) : Nat := recNat b 2 1 / 16
def rowBytes (b : List Byte) : Nat := recNat b 4 4
def rows (b : List Byte) : Nat := recNat b 8 2
def waitSync (b : List Byte) : Nat := recNat b 0xA 2
def waitValue (b : List Byte) : Nat := recNat b 0xC 4
def src (b : List Byte) : Nat := recNat b 0x10 8
def dst (b : List Byte) : Nat := recNat b 0x18 8
def srcPitch (b : List Byte) : Nat := recNat b 0x20 4
def dstPitch (b : List Byte) : Nat := recNat b 0x24 4
def srcShelf (b : List Byte) : Nat := recNat b 0x28 2
def srcSeq (b : List Byte) : Nat := recNat b 0x2A 2
def dstShelf (b : List Byte) : Nat := recNat b 0x2C 2
def signal (b : List Byte) : Nat := recNat b 0x2E 2
def claimUnits (b : List Byte) : Nat := recNat b 0x30 4
def sigDev (b : List Byte) : Nat := recNat b 0x34 2
def srcValid (b : List Byte) : Bool := bit (srcShelf b) 15

/-- The shelf that a shelf field names. -/
def shelf (cl f : Nat) : ShelfRef :=
  if bit f 12 then .commons cl (f % 256) else .core cl (field f 8 4) (f % 64)

/-- Bytes of an element of a REDUCE; 1 for the other operations. -/
def sizeS (b : List Byte) : Nat := if op b = 3 then (if fmtS b = 8 then 4 else 2) else 1
def sizeD (b : List Byte) : Nat := if op b = 3 then (if fmtD b = 8 then 4 else 2) else 1

/-- Destination bytes that `n` source bytes give (R243). -/
def toDst (b : List Byte) (n : Nat) : Nat := n / sizeS b * sizeD b

/-- Does the descriptor read a source, and write a destination? -/
def hasSrc (b : List Byte) : Bool := op b == 1 || op b == 3
def hasDst (b : List Byte) : Bool := op b == 1 || op b == 2 || op b == 3

/-- Source bytes moved in all; a FILL counts its destination bytes. -/
def total (b : List Byte) : Nat := rowBytes b * rows b

/-- Segment size (R254). -/
def segSize (b : List Byte) : Nat := max 4096 (ceilDiv (ceilDiv (total b) 32) 4096 * 4096)

/-- Number of segments. -/
def segCount (b : List Byte) : Nat := ceilDiv (total b) (segSize b)

/-- Is SIGNAL_SYNC a counter of another device? -/
def remoteSignal (self : Nat → Bool) (b : List Byte) : Bool := bit (sigDev b) 15 && !self (sigDev b % 4096)
end Desc

/-! Addresses of the two sides. -/

/-- First and last byte, as local addresses, of row `r` of an absolute side. -/
def sideRow (b : List Byte) (dstSide : Bool) (r : Nat) : Nat × Nat :=
  let base := (if dstSide then Desc.dst b else Desc.src b) % 2 ^ 48
  let a := base + r * (if dstSide then Desc.dstPitch b else Desc.srcPitch b)
  (a, a + (if dstSide then Desc.toDst b (Desc.rowBytes b) else Desc.rowBytes b) - 1)

/-- Is a side given as an absolute address, and used? -/
def sideAbs (b : List Byte) (dstSide : Bool) : Bool :=
  if dstSide then Desc.hasDst b && !Desc.dstClaim b else Desc.hasSrc b && !Desc.srcValid b

/-- Is an absolute side in this device (R27, R406)? -/
def Chip.sideLocal (c : Chip) (b : List Byte) (dstSide : Bool) : Bool :=
  c.isSelf (field (if dstSide then Desc.dst b else Desc.src b) 48 12)

/-- The entry to which a side is relative. -/
def DmaDesc.sideEntry (d : DmaDesc) (cl : Nat) (dstSide : Bool) : Option (ShelfRef × Nat) :=
  let b := d.bs
  if dstSide then (if Desc.dstClaim b then some (Desc.shelf cl (Desc.dstShelf b), d.claim.getD 0) else none)
  else (if Desc.srcValid b then some (Desc.shelf cl (Desc.srcShelf b), Desc.srcSeq b) else none)

/-- Address of byte `rel` of a side of a descriptor whose entries are known: its fabric address, or this device's local
address (R243, R252). -/
def Chip.sideAddr (c : Chip) (cl : Nat) (d : DmaDesc) (dstSide : Bool) (rel : Nat) : Option Nat × Nat :=
  let b := d.bs
  let base := (if dstSide then Desc.dst b else Desc.src b) % 2 ^ 60
  match d.sideEntry cl dstSide with
  | some (r, q) => match (c.shelf r).entry? q with
    | some e => (none, r.memBase + (c.shelf r).byteAt e (base + rel))
    | none => (none, r.memBase)
  | none =>
    let a := (base + rel) % 2 ^ 60
    if c.isSelf (field a 48 12) then (none, a % 2 ^ 48) else (some (field a 48 12), a % 2 ^ 48)

/-- Bytes `lo … hi` of an entry as ranges of addresses: an entry that wraps gives two (R164). -/
def Chip.entryRanges (c : Chip) (r : ShelfRef) (q lo hi : Nat) : List (Nat × Nat) :=
  let s := c.shelf r
  match s.entry? q with
  | none => []
  | some e =>
    let z := s.span * 64
    let base := r.memBase + s.base * 1024
    let x := (s.entryOff e * 64 + lo) % z
    let y := (s.entryOff e * 64 + hi) % z
    if z ≤ hi - lo then [(base, base + z - 1)]
    else if x ≤ y then [(base + x, base + y)]
    else [(base + x, base + z - 1), (base, base + y)]

/-- The byte ranges [first, last] of a side from its first to its last byte, when it is local and known. -/
def Chip.sideRange (c : Chip) (cl : Nat) (d : DmaDesc) (dstSide : Bool) : List (Nat × Nat) :=
  let b := d.bs
  let used := if dstSide then Desc.hasDst b else Desc.hasSrc b
  let known := sideAbs b dstSide || (if dstSide then d.claim.isSome else d.phase == .moving || d.phase == .ended)
  if !used || !known then []
  else
    let n := if dstSide then Desc.toDst b (Desc.rowBytes b) else Desc.rowBytes b
    let reach := (Desc.rows b - 1) * (if dstSide then Desc.dstPitch b else Desc.srcPitch b) + n - 1
    let base := (if dstSide then Desc.dst b else Desc.src b) % 2 ^ 60
    match d.sideEntry cl dstSide with
    | some (r, q) => c.entryRanges r q base (base + reach)
    | none => if c.sideLocal b dstSide then [(base % 2 ^ 48, base % 2 ^ 48 + reach)] else []

/-- Do ranges of two sides meet? -/
def rangesMeet (a b : List (Nat × Nat)) : Bool := a.any (fun x => b.any (fun y => decide (x.1 ≤ y.2) && decide (y.1 ≤ x.2)))

/-! Checks at fetch (R246). -/

/-- Places that the bytes `lo … hi` touch: every region of R23 and R24 begins and ends on a multiple of 256 KiB. -/
def spanPlaces (lo hi : Nat) : List Place :=
  placeOf lo :: (upto (hi / 0x40000 - lo / 0x40000)).map (fun i => placeOf ((lo / 0x40000 + i + 1) * 0x40000))

/-- Places that an absolute side touches. -/
def sidePlaces (b : List Byte) (dstSide : Bool) : List Place :=
  if sideAbs b dstSide then (upto (Desc.rows b)).flatMap (fun r =>
    let e := sideRow b dstSide r
    spanPlaces e.1 e.2) else []

def Place.isRegs : Place → Bool | .regs _ _ => true | _ => false
def Place.isAcc : Place → Bool | .acc _ _ _ => true | _ => false
def Place.isSpillPart : Place → Bool | .scratch _ _ o => decide (spillBase ≤ o) | _ => false

/-- May a REDUCE update this place: the cluster's commons or one of its core scratchpads? -/
def Place.reduces (cl : Nat) : Place → Bool
  | .commons x _ => x == cl
  | .scratch x _ _ => x == cl
  | _ => false

/-- The alignment rules of R245. -/
def descMisaligned (b : List Byte) : Bool :=
  let all (n : Nat) (l : List Nat) : Bool := l.all (fun x => x % n == 0)
  match Desc.op b with
  | 1 => (sidePlaces b false).any Place.isAcc && !all 4 [Desc.src b, Desc.srcPitch b, Desc.rowBytes b]
  | 2 => !all 4 [Desc.dst b, Desc.dstPitch b, Desc.rowBytes b]
  | 3 => !all (max (Desc.sizeS b) (Desc.sizeD b))
      [Desc.dst b, Desc.src b, Desc.srcPitch b, Desc.dstPitch b, Desc.rowBytes b]
  | _ => false

/-- First failing check of R246, in the table's order; the overlap of a shelf-relative side is checked later. -/
def Chip.descReason (c : Chip) (cl : Nat) (b : List Byte) : Option Nat :=
  let op := Desc.op b
  let sp := sidePlaces b false
  let dp := sidePlaces b true
  let elem (f : Nat) : Bool := f == 0 || f == 8
  let shelfBits (f : Nat) : Bool := field f 13 2 != 0
  let spill (f : Nat) : Bool := !bit f 12 && f % 256 == 63
  if op < 1 || 4 < op then some 1
  else if Desc.rowBytes b < 1 || 16777216 < Desc.rowBytes b || Desc.rows b = 0 || (Desc.dstClaim b && Desc.claimUnits b = 0)
    then some 2
  else if (op != 3 || (elem (Desc.fmtS b) && elem (Desc.fmtD b))) && descMisaligned b then some 3
  else if (sp ++ dp).any (fun p => p.isRegs || p.isSpillPart) || dp.any Place.isAcc ||
      (op == 3 && sideAbs b true && !(c.sideLocal b true && dp.all (Place.reduces cl))) ||
      (Desc.srcValid b && spill (Desc.srcShelf b)) || (Desc.dstClaim b && spill (Desc.dstShelf b)) then some 4
  else if shelfBits (Desc.srcShelf b) || shelfBits (Desc.dstShelf b) || (Desc.dstClaim b && !bit (Desc.dstShelf b) 15) ||
      (Desc.srcRelease b && !Desc.srcValid b) then some 5
  else if sideAbs b false && sideAbs b true && c.sideLocal b false && c.sideLocal b true &&
      rangesMeet (c.sideRange cl { serial := 0, idx := 0, bs := b, part := 0 } false)
        (c.sideRange cl { serial := 0, idx := 0, bs := b, part := 0 } true) then some 6
  else if (op != 3 && recNat b 2 1 != 0) || (op == 3 && !(elem (Desc.fmtS b) && elem (Desc.fmtD b))) then some 7
  else if field (Desc.flags b) 4 4 != 0 || recNat b 3 1 != 0 || recNat b 0x36 2 != 0 || field (Desc.dst b) 60 4 != 0 ||
      field (Desc.sigDev b) 12 3 != 0 || (if op = 2 then field (Desc.src b) 32 32 != 0 else field (Desc.src b) 60 4 != 0)
    then some 8
  else none

/-- Agent of a channel's requests. -/
def dmaAgent (cl part : Nat) : Agent := ⟨some part, cl / 8⟩

/-- DMA_ERR (R266). -/
def Chip.dmaErr (c : Chip) (cl n reason idx code : Nat) : Chip :=
  c.setFs (.dma cl) [(R.DMA_ERR_REASON, reason), (R.DMA_ERR_CHANNEL, n), (R.DMA_ERR_INDEX, ringIdx idx), (R.DMA_ERR_CODE, code)]

/-- Take a fetched descriptor with its serial number into progress: refused ones keep only their code (R246). -/
def Chip.dmaTake (c : Chip) (cl n serial idx part : Nat) (b : List Byte) : Chip :=
  let d : DmaDesc := { serial := serial, idx := idx, bs := b, part := part }
  let add (c : Chip) (d : DmaDesc) : Chip :=
    let h := c.chanOf cl n
    c.setChan cl n { h with descs := h.descs ++ [d] }
  let counters := [Desc.waitSync b] ++ (if Desc.remoteSignal c.isSelf b then [] else [Desc.signal b])
  match c.descReason cl b with
  | some r => add ((c.raise (.dma cl) St.DMA_DESC_INVALID).dmaErr cl n r idx 0)
      { d with phase := .ended, code := some COMP_DMA_DESC_INVALID }
  | none =>
    match counters.find? (fun x => x != 0xFFFF && decide (c.syncRange part ≤ x)) with
    | some x => add (c.syncRangeErr (cl / 8) c.deviceId part x) { d with phase := .ended, code := some COMP_SYNC_RANGE }
    | none => add c d

/-- Was a descriptor refused at its fetch, so that its completion has no effect beyond the record (R246)? -/
def DmaDesc.refused (d : DmaDesc) : Bool := d.phase == .ended && d.segs.isEmpty && d.claim.isNone && d.code.isSome &&
  (d.code == some COMP_DMA_DESC_INVALID || d.code == some COMP_SYNC_RANGE)

/-! Feeding a channel (R240, R257, R258). -/

/-- Ring size of a channel. -/
def Chip.chanSize (c : Chip) (cl n : Nat) : Nat := ringSize (c.getF (.ch cl n) R.CH_RING_LOG2_ENTRIES)

/-- Address of a ring slot. -/
def Chip.slotAddr (c : Chip) (cl n idx : Nat) : Nat := c.getF (.ch cl n) R.CH_RING_BASE * 64 + 64 * ringIdx idx

/-- Setting ENABLE (R240, R257). -/
def Chip.dmaEnable (c : Chip) (cl n : Nat) : Chip :=
  if c.dmaOwned cl n then c.raise (.dma cl) St.DMA_CH_OWNED
  else (c.setB (.ch cl n) R.CH_CTRL_ENABLE true).setChan cl n { c.chanOf cl n with stopped := false }

/-- STOP, or clearing ENABLE (R257, R258): descriptors in progress finish, no other is fetched. -/
def Chip.dmaStop (c : Chip) (cl n : Nat) : Chip :=
  if c.dmaOwned cl n then c.raise (.dma cl) St.DMA_CH_OWNED
  else (c.setB (.ch cl n) R.CH_CTRL_ENABLE false).setChan cl n { c.chanOf cl n with stopped := true }

/-- A write of PROD (R240, R257). -/
def Chip.dmaProdWrite (c : Chip) (cl n v : Nat) : Chip :=
  if c.dmaOwned cl n then c.raise (.dma cl) St.DMA_CH_OWNED
  else if ringPostOk (c.chanSize cl n) (c.getF (.ch cl n) R.CH_CONS_DONE) (v % 8192) then c.setF (.ch cl n) R.CH_PROD v
  else c.raise (.dma cl) St.DMA_RING_OVER

/-- The partition that a channel belongs to: the cluster's, or the member of its share set that holds the channel (R364). -/
def Chip.chanPart (c : Chip) (cl n : Nat) : Option Nat :=
  (upto 16).find? (fun p => c.partHas p cl && (!c.shared p || c.getF (.part p) R.PART_STATE_MEMBER == n / 8))

/-- Fetch the descriptor at CONS (R240, R246). -/
def Chip.dmaFetch (c : Chip) (cl n : Nat) : Chip :=
  let h := c.chanOf cl n
  let cons := c.getF (.ch cl n) R.CH_CONS
  match c.chanPart cl n with
  | none => c
  | some part =>
    if c.dmaOwned cl n || !c.on (.ch cl n) R.CH_CTRL_ENABLE || cons = c.getF (.ch cl n) R.CH_PROD || 2 ≤ h.descs.length then c
    else
      let (c, code, b) := c.agentRead (dmaAgent cl part) (c.slotAddr cl n cons) 64
      if code = COMP_OK then
        ((c.setF (.ch cl n) R.CH_CONS (ringNext (c.chanSize cl n) cons)).setChan cl n { c.chanOf cl n with serial := h.serial + 1 }).dmaTake
          cl n h.serial cons part b
      else
        let c := (c.raise (.dma cl) St.DMA_FETCH_FAIL).dmaErr cl n 9 cons code
        (c.setB (.ch cl n) R.CH_CTRL_ENABLE false).setChan cl n { c.chanOf cl n with stopped := true }

/-! Starting a descriptor (R251, R252). -/

/-- Source bytes of segment `s`. -/
def segLen (b : List Byte) (s : Nat) : Nat := min (Desc.segSize b) (Desc.total b - s * Desc.segSize b)

/-- Has a descriptor issued its last write beat? -/
def DmaDesc.issued (d : DmaDesc) : Bool :=
  d.phase == .ended || (d.phase == .moving && (d.segs.zipIdx).all (fun e => e.1.ended.isSome || e.1.wr == segLen d.bs e.2))

/-- May the descriptor start, given those before it in progress (R251)? -/
def Chip.dmaTurn (c : Chip) (cl : Nat) (before : List DmaDesc) (d : DmaDesc) : Bool :=
  let dr := c.sideRange cl d true
  if Desc.fence d.bs || before.any (fun p => rangesMeet dr (c.sideRange cl p true) || rangesMeet dr (c.sideRange cl p false))
  then before.isEmpty else before.all (·.issued)

/-- End a descriptor with a code and no move. -/
def DmaDesc.stopWith (d : DmaDesc) (code : Code) : DmaDesc := { d with phase := .ended, code := some code }

/-- The bytes of an entry become undefined: free values (R246; log entry 2). -/
def Chip.freeEntry (c : Chip) (r : ShelfRef) (q : Nat) : Chip :=
  match (c.shelf r).entry? q with
  | none => c
  | some e => (c.setMem ((upto (e.units * 64)).foldl (fun m o =>
      m.write (r.memBase + (c.shelf r).byteAt e o) (Config.freeByte c.freeCtr o)) c.mem)).tick

/-- The waits are over and the claim is made: the late overlap check, then the move begins (R246, R252). A destination that is known only now, and that meets a
side of a descriptor still in progress, waits as if the descriptor carried FENCE (R251). -/
def Chip.dmaBegin (c : Chip) (cl n : Nat) (d : DmaDesc) : Chip :=
  let before := (c.chanOf cl n).descs.takeWhile (fun x => x.serial != d.serial)
  let d := { d with phase := .moving }
  let b := d.bs
  if Desc.dstClaim b && before.any (fun p => rangesMeet (c.sideRange cl d true) (c.sideRange cl p true) ||
      rangesMeet (c.sideRange cl d true) (c.sideRange cl p false)) then c.setDesc cl n { d with phase := .waitTurn }
  else if (Desc.srcValid b || Desc.dstClaim b) && rangesMeet (c.sideRange cl d false) (c.sideRange cl d true) then
    let c := match d.sideEntry cl true with
      | some (r, q) => c.freeEntry r q
      | none => c
    ((c.raise (.dma cl) St.DMA_DESC_INVALID).dmaErr cl n 6 d.idx 0).setDesc cl n
      { d with phase := .ended, code := some COMP_DMA_DESC_INVALID, segs := [{ ended := some COMP_OK }] }
  else c.setDesc cl n { d with segs := if Desc.op b = 4 then [] else List.replicate (Desc.segCount b) {} }

/-- The claim, after the waits (R252). -/
def Chip.dmaClaim (c : Chip) (cl n : Nat) (d : DmaDesc) : Chip :=
  if !Desc.dstClaim d.bs then c.dmaBegin cl n d
  else match c.shelfClaim (Desc.shelf cl (Desc.dstShelf d.bs)) (Desc.claimUnits d.bs) (.dma cl n) with
    | (c, .granted q _) => c.dmaBegin cl n { d with claim := some q }
    | (c, .waits) => c.setDesc cl n { d with phase := .waitClaim }
    | (c, .refused code) => c.setDesc cl n (d.stopWith code)

/-- The wait for the source entry (R252, R169). -/
def Chip.dmaEntry (c : Chip) (cl n : Nat) (d : DmaDesc) : Chip :=
  if !Desc.srcValid d.bs then c.dmaClaim cl n d
  else
    let r := Desc.shelf cl (Desc.srcShelf d.bs)
    let s := c.shelf r
    if !s.opened then c.setDesc cl n (d.stopWith COMP_SHELF_CLOSED)
    else match s.entry? (Desc.srcSeq d.bs) with
      | none => (c.shelfNote r COMP_SHELF_SEQ).setDesc cl n (d.stopWith COMP_SHELF_SEQ)
      | some e => if e.committed then c.dmaClaim cl n d else c.setDesc cl n { d with phase := .waitEntry }

/-- The wait on a counter (R252). -/
def Chip.dmaSync (c : Chip) (cl n : Nat) (d : DmaDesc) : Chip :=
  let w := Desc.waitSync d.bs
  if w = 0xFFFF || Desc.waitValue d.bs ≤ c.syncVal (c.syncIndex d.part w) then c.dmaEntry cl n d
  else (c.addWait (c.syncIndex d.part w) (Desc.waitValue d.bs) (.dma cl n)).setDesc cl n { d with phase := .waitSync }

/-- The oldest descriptor that has not begun to move starts, or goes on with its waits (R251, R252). -/
def Chip.dmaStart (c : Chip) (cl n : Nat) : Chip :=
  let ds := (c.chanOf cl n).descs
  match findIdxFrom (fun (d : DmaDesc) => d.phase != .moving && d.phase != .ended) 0 ds with
  | none => c
  | some (i, d) =>
    match d.phase with
    | .fetched => if c.dmaTurn cl (ds.take i) d then c.dmaSync cl n d else c
    | .waitEntry => c.dmaEntry cl n d
    | .waitTurn => c.dmaBegin cl n d
    | _ => c

/-- The threshold of a channel's wait is met (R280). -/
def Chip.dmaSyncMet (c : Chip) (cl n : Nat) : Chip :=
  let c := c.dropWaits (.dma cl n)
  match (c.chanOf cl n).descs.find? (fun d => d.phase == .waitSync) with
  | some d => c.dmaEntry cl n d
  | none => c

/-- A waiting claim of a channel is granted entry `q` (R162). -/
def Chip.dmaGranted (c : Chip) (cl n q : Nat) : Chip :=
  match (c.chanOf cl n).descs.find? (fun d => d.phase == .waitClaim) with
  | some d => c.dmaBegin cl n { d with claim := some q }
  | none => c

/-! Beats (R243, R244, R253). -/

/-- Relative offset, in the bytes of a side, of source byte `pos`. -/
def sideRel (b : List Byte) (dstSide : Bool) (pos : Nat) : Nat :=
  let row := pos / Desc.rowBytes b
  let off := pos % Desc.rowBytes b
  if dstSide then row * Desc.dstPitch b + Desc.toDst b off else row * Desc.srcPitch b + off

/-- Bytes of a side from source byte `pos` to the end of its row, of its segment `s`, or of its 128-byte beat at address
`a`. -/
def beatLen (b : List Byte) (dstSide : Bool) (s pos a : Nat) : Nat :=
  let left := min (Desc.rowBytes b - pos % Desc.rowBytes b) (s * Desc.segSize b + segLen b s - pos)
  min (if dstSide then Desc.toDst b left else left) (128 - a % 128)

/-- Position in the descriptor's byte order of byte `x` of segment `s`. -/
def segPos (b : List Byte) (s x : Nat) : Nat := s * Desc.segSize b + x

/-- Staged bytes at the front of a segment that have arrived. -/
def DmaSeg.ready (g : DmaSeg) : List Byte :=
  ((g.pieces.takeWhile (fun p => p.tag.isNone)).map (·.bytes)).flatten

/-- Drop `n` staged bytes from the front. -/
def dropStaged : List DmaPiece → Nat → List DmaPiece
  | [], _ => []
  | p :: r, n =>
    if n = 0 then p :: r
    else if p.len ≤ n then dropStaged r (n - p.len)
    else { p with len := p.len - n, bytes := p.bytes.drop n } :: r

/-- Staged beats of a channel (R267). -/
def DmaCh.beats (h : DmaCh) : Nat := ((h.descs.flatMap (·.segs)).map (fun g => g.pieces.length)).sum

/-- Is a segment's attempt still issuing? -/
def DmaSeg.issuing (g : DmaSeg) : Bool := g.ended.isNone && g.err.isNone

/-- The segment whose next read beat the channel would issue: (descriptor, segment). -/
def DmaCh.nextRead (h : DmaCh) : Option (DmaDesc × Nat) :=
  if 16 ≤ h.beats then none
  else (h.descs.filter (fun d => d.phase == .moving && Desc.hasSrc d.bs)).findSome? (fun d =>
    (findIdxFrom (fun e => e.1.issuing && decide (e.1.rd < segLen d.bs e.2)) 0 d.segs.zipIdx).map (fun e => (d, e.1)))

/-- Bytes of the next destination beat of segment `s`, with its address. -/
def Chip.writeBeat (c : Chip) (cl : Nat) (d : DmaDesc) (s : Nat) (g : DmaSeg) : Option Nat × Nat × Nat :=
  let pos := segPos d.bs s g.wr
  let a := c.sideAddr cl d true (sideRel d.bs true pos)
  (a.1, a.2, beatLen d.bs true s pos a.2)

/-- Source bytes behind `n` destination bytes. -/
def toSrc (b : List Byte) (n : Nat) : Nat := n / Desc.sizeD b * Desc.sizeS b

/-- May a segment's writes be issued, given the segments before it: the elements of a REDUCE are added in the descriptor's byte order (R253)? -/
def DmaDesc.inOrder (d : DmaDesc) (s : Nat) : Bool :=
  Desc.op d.bs != 3 || ((d.segs.take s).zipIdx).all (fun e => e.1.ended.isSome || e.1.wr == segLen d.bs e.2)

/-- The segment whose next destination beat is complete. -/
def Chip.nextWrite (c : Chip) (cl : Nat) (h : DmaCh) : Option (DmaDesc × Nat) :=
  (h.descs.filter (fun d => d.phase == .moving)).findSome? (fun d =>
    (findIdxFrom (fun (e : DmaSeg × Nat) =>
      let g := e.1
      g.issuing && decide (g.wr < segLen d.bs e.2) && d.inOrder e.2 &&
        (!Desc.hasSrc d.bs || decide (toSrc d.bs (c.writeBeat cl d e.2 g).2.2 ≤ g.ready.length))) 0 d.segs.zipIdx).map
      (fun e => (d, e.1)))

/-- Store a segment of a descriptor. -/
def Chip.setSeg (c : Chip) (cl n : Nat) (d : DmaDesc) (s : Nat) (g : DmaSeg) : Chip :=
  c.setDesc cl n { d with segs := setAt d.segs s g }

/-- The path of a segment's attempt: route (s + tries) of those that are up (R254, R255). -/
def Chip.segRoute (c : Chip) (cl dev s tries : Nat) : Option Nat := c.bulkRoute (cl / 8) dev (s + tries)

/-- The path of a segment's attempt to its source, or to its destination, stays the one that it was issued on; the first request there picks it (R254). -/
def Chip.segPath (c : Chip) (cl dev s : Nat) (wr : Bool) (g : DmaSeg) : DmaSeg :=
  let pick (p : Option (Option Nat)) : Option (Option Nat) := p.orElse (fun _ => some (c.segRoute cl dev s g.tries))
  if wr then { g with wrPath := pick g.wrPath } else { g with path := pick g.path }

/-- Send a request of a segment to another device, by the path of its side. -/
def Chip.segSend (c : Chip) (cl n : Nat) (d : DmaDesc) (s : Nat) (g : DmaSeg) (m : Msg) : Chip × Option Nat × Nat :=
  let (c, t) := c.fabRequest (cl / 8) (.dma cl n d.serial s) ((if m.opc = 2 then g.wrPath else g.path).getD none) m
  match c.fabAnswer t with
  | some (code, _) => (c.fabEnd t, some code, t)
  | none => (c, none, t)

/-- Does the next read beat of a segment find the room in the bulk class that it needs (R247): at the port of its path no bulk message waits for credits, or on this
device no session holds its group (R311)? -/
def Chip.readRoom (c : Chip) (cl : Nat) (d : DmaDesc) (s : Nat) : Bool :=
  let g := d.segs.getD s {}
  let pos := segPos d.bs s g.rd
  let (dev, a) := c.sideAddr cl d false (sideRel d.bs false pos)
  match dev with
  | none => !c.heldAt a (beatLen d.bs false s pos a)
  | some dev => (((c.segPath cl dev s false g).path.getD none).map (fun p => !(c.portOf p).txq.any (fun m => m.vc == 2))).getD true

/-- Issue one read beat (R244, R247); one that a partition under reset answers with a retry is issued again (R255, R362). -/
def Chip.dmaReadBeat (c : Chip) (cl n : Nat) (d : DmaDesc) (s : Nat) : Chip :=
  let g := d.segs.getD s {}
  let pos := segPos d.bs s g.rd
  let (dev, a) := c.sideAddr cl d false (sideRel d.bs false pos)
  let len := beatLen d.bs false s pos a
  match dev with
  | none =>
    if c.retryAt (dmaAgent cl d.part) a then c else
    let (c, code, bs) := (c.nocTrip (cl / 8) (c.dieOf a) 2 0 len).agentRead (dmaAgent cl d.part) a len
    if code = COMP_OK then
      (c.addF (.dma cl) R.DMA_READ_BYTES len).setSeg cl n d s
        { g with rd := g.rd + len, pieces := g.pieces ++ [⟨len, none, bs⟩] }
    else c.setSeg cl n d s { g with err := some code }
  | some dev =>
    let g := c.segPath cl dev s false g
    let (c, err, t) := c.segSend cl n d s g
      { opc := 1, vc := 2, mirror := Desc.mirror d.bs, dst := dev, src := 0, part := d.part, addr := a, len := len }
    match err with
    | some code => c.setSeg cl n d s { g with err := some code }
    | none => (c.addF (.dma cl) R.DMA_READ_BYTES len).setSeg cl n d s
        { g with rd := g.rd + len, pieces := g.pieces ++ [⟨len, some t, []⟩], sent := g.sent ++ [t] }

/-- Is a destination beat narrow: the first or last of its row, not on a 128-byte boundary (R244)? -/
def narrowBeat (b : List Byte) (pos a len : Nat) : Bool :=
  let off := Desc.toDst b (pos % Desc.rowBytes b)
  (off == 0 && a % 128 != 0) || (off + len == Desc.toDst b (Desc.rowBytes b) && (a + len) % 128 != 0)

/-- The bytes that a destination beat takes: the pattern of a FILL, or staged source bytes. -/
def beatBytes (b : List Byte) (pos len : Nat) (staged : List Byte) : List Byte :=
  if Desc.op b = 2 then (upto len).map (fun i => (leBytes 4 (Desc.src b)).getD ((pos % Desc.rowBytes b + i) % 4) 0)
  else staged

/-- One REDUCE update at the bank: FP32 sums with RNE, written back in the destination format with RNE (R253, R132). -/
def reduceBytes (b : List Byte) (src dst : List Byte) : List Byte :=
  let val (f : Nat) (x : Nat) : FVal := if f = 8 then of32 x else Fmt.bf16.decode x
  ((upto (dst.length / Desc.sizeD b)).map (fun i =>
    let sum := add32 (val (Desc.fmtS b) (recNat src (i * Desc.sizeS b) (Desc.sizeS b)))
      (val (Desc.fmtD b) (recNat dst (i * Desc.sizeD b) (Desc.sizeD b)))
    leBytes (Desc.sizeD b) (if Desc.fmtD b = 8 then sum.to32 else Fmt.bf16.encode .rne sum))).flatten

/-- Issue one destination beat (R244, R247, R253); a session that holds its group, or a reset of the partition addressed, makes it wait (R311, R362). -/
def Chip.dmaWriteBeat (c : Chip) (cl n : Nat) (d : DmaDesc) (s : Nat) : Chip :=
  let g := d.segs.getD s {}
  let pos := segPos d.bs s g.wr
  let (dev, a, len) := c.writeBeat cl d s g
  let need := if Desc.hasSrc d.bs then toSrc d.bs len else len
  let data := beatBytes d.bs pos len (g.ready.take need)
  let g := match dev with
    | some dev => c.segPath cl dev s true g
    | none => g
  let done := { g with wr := g.wr + need, pieces := dropStaged g.pieces (if Desc.hasSrc d.bs then need else 0), wrote := true }
  let count (c : Chip) : Chip :=
    let c := (c.addF (.dma cl) R.DMA_WRITE_BYTES len).addF (.ch cl n) R.CH_BYTES len
    if narrowBeat d.bs pos a len then c.addF (.dma cl) R.DMA_NARROW_BEATS 1 else c
  match dev with
  | none =>
    let ag := dmaAgent cl d.part
    if c.retryAt ag a || c.heldAt a len then c else
    let c := c.nocTrip (cl / 8) (c.dieOf a) 2 data.length 0
    let (c, code) :=
      if Desc.op d.bs = 3 then
        let (c, code, old) := c.agentRead ag a len
        if code = COMP_OK then c.agentWrite ag a (ones len) (reduceBytes d.bs data old) else (c, code)
      else c.agentWrite ag a (ones len) data
    if code = COMP_OK then (count c).setSeg cl n d s done else c.setSeg cl n d s { g with err := some code }
  | some dev =>
    let (c, err, t) := c.segSend cl n d s g
      { opc := 2, vc := 2, dst := dev, src := 0, part := d.part, addr := a, len := len, data := data }
    match err with
    | some code => c.setSeg cl n d s { g with err := some code }
    | none => (count c).setSeg cl n d s { done with sent := g.sent ++ [t] }

/-- The response to a request of a segment (R255): data fill their piece; the first failing code ends the attempt's
issue. -/
def Chip.dmaResponse (c : Chip) (cl n serial s t code : Nat) (bs : List Byte) : Chip :=
  let c := c.fabEnd t
  match (c.chanOf cl n).descs.find? (fun d => d.serial = serial) with
  | none => c
  | some d =>
    match d.segs[s]? with
    | none => c
    | some g =>
      let late := g.stale.contains t
      let g := { g with sent := g.sent.filter (· != t), stale := g.stale.filter (· != t) }
      let g := if late then g else if code = COMP_OK then
          { g with pieces := g.pieces.map (fun p => if p.tag = some t then ⟨p.len, none, (bs ++ List.replicate p.len 0).take p.len⟩ else p) }
        else { g with err := g.err.orElse (fun _ => some code) }
      c.setSeg cl n d s g

/-! The shared data path (R247-R249). -/

/-- Beats of its promoted burst that a channel has left at a slot (R249). -/
def DmaCh.promo (h : DmaCh) (wr : Bool) : Nat := if wr then h.agedWr else h.aged

/-- Priority at which a channel competes for a slot (R58, R247, R249). -/
def Chip.dmaPrio (c : Chip) (cl n : Nat) (wr : Bool) : Nat :=
  if 0 < (c.chanOf cl n).promo wr then 3 else if c.dmaOwned cl n then 2 else c.getF (.ch cl n) R.CH_CTRL_PRIO

/-- Does a channel compete for the read slot, and for the write slot? -/
def Chip.competes (c : Chip) (cl n : Nat) (wr : Bool) : Bool :=
  let h := c.chanOf cl n
  if wr then (c.nextWrite cl h).isSome else h.nextRead.any (fun e => c.readRoom cl e.1 e.2)

/-- The winner of a slot: the holder within its burst while no competing channel has a higher priority; otherwise the next
competing channel of the highest priority, in channel order after that priority's last winner. -/
def Chip.slotWinner (c : Chip) (cl : Nat) (hold : DmaHold) (wr : Bool) : Option Nat :=
  let cs := (upto 32).filter (fun n => c.competes cl n wr)
  let top := (cs.map (fun n => c.dmaPrio cl n wr)).foldl max 0
  let best := cs.filter (fun n => c.dmaPrio cl n wr = top)
  if hold.held && best.contains hold.ch && hold.beats < 16 then some hold.ch
  else
    let last := KMap.getD hold.rot top 31
    (best.find? (fun n => decide (last < n))).orElse (fun _ => best.head?)

/-- Award one slot: the hold after the cycle, and whether its holder was pre-empted inside a burst (R248). -/
def Chip.award (c : Chip) (cl : Nat) (hold : DmaHold) (wr : Bool) (w : Nat) : DmaHold × Bool :=
  let same := hold.held && hold.ch == w && decide (hold.beats < 16)
  ({ ch := w, beats := if same then hold.beats + 1 else 1, held := true, rot := hold.rot.insert (c.dmaPrio cl w wr) w },
   hold.held && hold.ch != w && decide (hold.beats < 16) && c.competes cl hold.ch wr)

/-- Who holds a slot. -/
def Chip.holdOf (c : Chip) (cl : Nat) (wr : Bool) : DmaHold := if wr then (c.dmaOf cl).wrHold else (c.dmaOf cl).rdHold

/-- The award of a slot in this core cycle: the winner, the hold after it, the channel that it pre-empts. -/
def Chip.dmaPick (c : Chip) (cl : Nat) (wr : Bool) : Option (Nat × DmaHold × Option Nat) :=
  let hold := c.holdOf cl wr
  (c.slotWinner cl hold wr).map (fun w => (w, (c.award cl hold wr w).1, if (c.award cl hold wr w).2 then some hold.ch else none))

/-- An awarded slot: one beat of its winner. -/
def Chip.dmaGive (c : Chip) (cl : Nat) (wr : Bool) (w : Nat) (hold : DmaHold) (pre : Option Nat) : Chip :=
  let e := c.dmaOf cl
  let c := c.setDma cl (if wr then { e with wrHold := hold } else { e with rdHold := hold })
  let c := match pre with
    | some x => (c.addF (.dma cl) R.DMA_PREEMPTS 1).setChan cl x { c.chanOf cl x with preempted := true }
    | none => c
  let h := c.chanOf cl w
  let h := if wr then { h with preempted := false, agedWr := h.agedWr - 1 } else { h with preempted := false, aged := h.aged - 1 }
  let c := c.setChan cl w h
  match (if wr then c.nextWrite cl h else h.nextRead) with
  | none => c
  | some (d, s) => if wr then c.dmaWriteBeat cl w d s else c.dmaReadBeat cl w d s

/-- One core cycle of one slot, as it was awarded. -/
def Chip.dmaSlot (c : Chip) (cl : Nat) (wr : Bool) (x : Option (Nat × DmaHold × Option Nat)) : Chip :=
  match x with
  | none => c
  | some (w, hold, pre) => c.dmaGive cl wr w hold pre

/-- One core cycle of the data path: the write slot and the read slot, each awarded from the state before it. A
channel may win both. -/
def Chip.dmaArbitrate (c : Chip) (cl : Nat) : Chip :=
  (c.dmaSlot cl true (c.dmaPick cl true)).dmaSlot cl false (c.dmaPick cl false)

/-- A channel that has competed for AGE_US and won neither slot is promoted for its next burst at the slots for which it competes (R249). -/
def Chip.dmaAge (c : Chip) (cl n : Nat) : Chip :=
  let h := c.chanOf cl n
  let rd := c.competes cl n false
  let wr := c.competes cl n true
  if (rd || wr) && (!rd || h.aged = 0) && (!wr || h.agedWr = 0) then
    (c.raise (.dma cl) St.DMA_AGED).setChan cl n { h with aged := if rd then 16 else 0, agedWr := if wr then 16 else 0 }
  else c

/-! Attempts, retries and completion (R250, R255, R256, R260). -/

/-- Is a code a transport failure (R255)? -/
def isTransport (code : Code) : Bool := code == COMP_LINK_DOWN

/-- End the attempt of segment `s` of descriptor `serial` with its first failing code (R255, R256). -/
def Chip.dmaAttemptEnd (c : Chip) (cl n serial s : Nat) : Chip :=
  match (c.chanOf cl n).descs.find? (fun d => d.serial = serial && d.phase == .moving) with
  | none => c
  | some d =>
    match d.segs[s]? with
    | none => c
    | some g =>
      if g.ended.isSome then c
      else match g.err with
        | none =>
          if g.wr = segLen d.bs s && g.sent.isEmpty then
            let c := if 0 < g.tries then c.raise (.dma cl) St.DMA_RETRIED else c
            c.setDesc cl n { d with segs := setAt d.segs s { g with ended := some COMP_OK },
                                    retries := d.retries + b2n (decide (0 < g.tries)) }
          else c
        | some code =>
          if isTransport code && g.tries < 4 && !(Desc.op d.bs = 3 && g.wrote) then
            (c.addF (.dma cl) R.DMA_SEG_RETRIES 1).setSeg cl n d s
              { tries := g.tries + 1, stale := g.stale ++ g.sent, wrote := g.wrote }
          else (c.addF (.dma cl) R.DMA_SEG_FAILS 1).setSeg cl n d s { g with ended := some code, pieces := [] }

/-- The request with tag `t` of a segment has had no response for ATTEMPT_MS: its attempt ends with COMP_LINK_DOWN (R255). The other requests of the attempt are
still waited for (R256). -/
def Chip.dmaAttemptTimeout (c : Chip) (cl n serial s t : Nat) : Chip :=
  match (c.chanOf cl n).descs.find? (fun d => d.serial = serial) with
  | none => c
  | some d =>
    match d.segs[s]? with
    | none => c
    | some g =>
      if g.stale.contains t then (c.fabEnd t).setSeg cl n d s { g with stale := g.stale.filter (· != t) }
      else if g.sent.contains t then
        let g := { g with sent := g.sent.filter (· != t), err := g.err.orElse (fun _ => some COMP_LINK_DOWN) }
        ((c.fabEnd t).setSeg cl n d s g).dmaAttemptEnd cl n serial s
      else c

/-- A staging-buffer error (R260): corrected, or the beat is discarded and its segment's attempt fails as transport. -/
def Chip.dmaBufEcc (c : Chip) (cl n : Nat) (ue : Bool) : Chip :=
  if !ue then c.raise (.dma cl) St.DMA_BUF_CE
  else
    let c := c.raise (.dma cl) St.DMA_BUF_UE
    match (c.chanOf cl n).descs.findSome? (fun d =>
      (findIdxFrom (fun (g : DmaSeg) => g.issuing && !g.pieces.isEmpty) 0 d.segs).map (fun e => (d, e.1, e.2))) with
    | some (d, s, g) => c.setSeg cl n d s { g with err := some COMP_LINK_DOWN, pieces := [] }
    | none => c

/-- Ring index that marks a descriptor posted inside the module (by the RSEQ or a control core): it lies in no ring slot, and its
code goes to the channel's results. -/
def internalIdx : Nat := 8192

def DmaDesc.internal (d : DmaDesc) : Bool := decide (internalIdx ≤ d.idx)

/-- A channel takes the next descriptor of the store that feeds it inside the module, while it has fewer than two in progress (R58, R239, R240). -/
def Chip.dmaFeed (c : Chip) (cl n : Nat) : Chip :=
  let h := c.chanOf cl n
  match h.store with
  | x :: r => if 2 ≤ h.descs.length then c
    else (c.setChan cl n { h with store := r }).dmaTake cl n x.serial (internalIdx + x.serial) x.part x.bs
  | [] => c

/-- Post a descriptor inside the module (R58, R261): its serial number. -/
def Chip.dmaPost (c : Chip) (cl n part : Nat) (b : List Byte) : Chip × Nat :=
  let h := c.chanOf cl n
  ((c.setChan cl n { h with store := h.store ++ [⟨h.serial, part, b⟩], serial := h.serial + 1 }).dmaFeed cl n, h.serial)

/-- May the oldest descriptor complete: it ended without a move, or every segment has ended and every write of every attempt
has been answered (R250, R256)? -/
def DmaDesc.over (d : DmaDesc) : Bool :=
  d.phase == .ended || (d.phase == .moving && d.segs.all (fun g => g.ended.isSome && g.sent.isEmpty && g.stale.isEmpty))

/-- Bitmap of finally failed segments. -/
def DmaDesc.failed (d : DmaDesc) : Nat :=
  ((d.segs.zipIdx).map (fun e => if e.1.ended.isSome && e.1.ended != some COMP_OK then 2 ^ e.2 else 0)).sum

/-- COMP of R250. -/
def compWord (code segs retries failed : Nat) : Nat :=
  putField code 0 16 + putField 1 16 1 + putField (segs - 1) 17 5 + putField (satNat 7 retries) 22 3 + putField failed 32 32

/-- Step 2 of R250: the claimed entry is committed and the source entry released; the first refusal becomes the code of a
descriptor that had none (R166, R252). -/
def Chip.dmaEntries (c : Chip) (cl : Nat) (d : DmaDesc) (code : Code) : Chip × Code :=
  let (c, code) := match d.claim with
    | some q =>
      let (c, k) := c.shelfCommit (Desc.shelf cl (Desc.dstShelf d.bs)) d.part q
      (c, if code = COMP_OK then k else code)
    | none => (c, code)
  if Desc.srcRelease d.bs && !(code == COMP_SHELF_SEQ && d.segs.isEmpty) then
    let (c, k) := c.shelfRelease (Desc.shelf cl (Desc.srcShelf d.bs)) (Desc.srcSeq d.bs)
    (c, if code = COMP_OK then k else code)
  else (c, code)

/-- Code of a descriptor as its owner inside the module takes it: COMP_PARTIAL carries the FAILED bitmap above the 16 bits of the
code (R250, R274). -/
def resultWord (code failed : Nat) : Nat := if code = COMP_PARTIAL then code + 65536 * failed else code

/-- The code in a result word. -/
def wordCode (w : Nat) : Code := w % 65536

/-- The oldest descriptor completes, in the order of R250. -/
def Chip.dmaComplete (c : Chip) (cl n : Nat) : Chip :=
  let h := c.chanOf cl n
  match h.descs with
  | [] => c
  | d :: rest =>
    if !d.over then c
    else
      let refused := d.refused
      let failed := d.failed
      let code := d.code.getD (if failed = 0 then COMP_OK else COMP_PARTIAL)
      let (c, code) := if refused then (c, code) else c.dmaEntries cl d code
      let c := if failed = 0 then c else
        let s := ((upto 32).find? (bit failed)).getD 0
        (c.raise (.dma cl) St.DMA_PARTIAL).setFs (.ch cl n)
          [(R.CH_FAIL_INDEX, ringIdx d.idx), (R.CH_FAIL_SEGMENT, s),
           (R.CH_FAIL_CODE, ((d.segs[s]?).bind (·.ended)).getD 0)]
      let word := compWord code (if d.code.isSome then 0 else d.segs.length) d.retries failed
      let owned := d.internal
      let c := if owned then c
        else (c.agentWrite (dmaAgent cl d.part) (c.slotAddr cl n d.idx + 0x38) (ones 8) (leBytes 8 word)).1.setF (.ch cl n)
          R.CH_CONS_DONE (ringNext (c.chanSize cl n) d.idx)
      let c := c.setF (.ch cl n) R.CH_LAST_COMP word
      let c := (c.setChan cl n { h with
        descs := rest, aged := if rest.isEmpty then 0 else h.aged, agedWr := if rest.isEmpty then 0 else h.agedWr, results := if owned then h.results ++ [(d.serial, resultWord code failed)] else h.results }).dmaFeed cl n
      let sig := Desc.signal d.bs
      if sig = 0xFFFF || refused || (d.code == some COMP_DMA_DESC_INVALID) then c
      else if Desc.remoteSignal c.isSelf d.bs then
        c.syncRemote (cl / 8) (Desc.sigDev d.bs % 4096) sig 1 d.part (.signal cl n d.idx)
      else (c.syncInc (cl / 8) d.part sig 1).1

/-- A remote completion signal ended with a code other than COMP_OK (R250). -/
def Chip.dmaSignalFail (c : Chip) (cl n : Nat) : Chip :=
  let mine (r : FabReq) : Bool := match r.who, r.resp with
    | .signal x y _, some (code, _) => x == cl && y == n && code != COMP_OK
    | _, _ => false
  match findIdxFrom mine 0 c.reqs with
  | none => c
  | some (i, r) =>
    let idx := match r.who with | .signal _ _ k => k | _ => 0
    let code := match r.resp with | some (k, _) => k | none => 0
    let h := c.chanOf cl n
    let c := if internalIdx ≤ idx then c.setChan cl n { h with results := h.results ++ [(idx - internalIdx, code)] } else c
    ((({ c with reqs := c.reqs.eraseIdx i }).raise (.dma cl) St.DMA_SIGNAL_FAIL).dmaErr cl n 0xA idx code).syncRelease
      r.die r.msg.dst

/-- Bytes of a segment's writes that another device has not acknowledged. -/
def Chip.unacked (c : Chip) (g : DmaSeg) : Nat :=
  ((c.reqs.filter (fun r => r.msg.opc == 2 && g.sent.contains r.msg.tag)).map (·.msg.len)).sum

/-- Bytes of the oldest descriptor not yet acknowledged, saturating (R267). -/
def Chip.chanLeft (c : Chip) (h : DmaCh) : Nat :=
  match h.descs.head? with
  | none => 0
  | some d =>
    if d.phase == .ended || Desc.op d.bs = 4 then 0
    else if d.segs.isEmpty then satNat 0xFFFFFFFF (Desc.toDst d.bs (Desc.total d.bs))
    else satNat 0xFFFFFFFF (((d.segs.zipIdx).map (fun e =>
      (if e.1.ended.isSome then 0 else Desc.toDst d.bs (segLen d.bs e.2 - e.1.wr)) + c.unacked e.1)).sum)

/-- Is a fetch of the channel due (R240)? -/
def Chip.fetchDue (c : Chip) (cl n : Nat) : Bool :=
  !c.dmaOwned cl n && c.on (.ch cl n) R.CH_CTRL_ENABLE && c.getF (.ch cl n) R.CH_CONS != c.getF (.ch cl n) R.CH_PROD

/-- DMA_CH_STATE.STATE (R267): that of the oldest descriptor. A channel is fetching while a fetch is due and nothing is in progress, and while the oldest descriptor
has been fetched and not begun (DESIGN CHOICE: log entry 105). -/
def Chip.chanState (c : Chip) (cl n : Nat) : Nat :=
  let h := c.chanOf cl n
  match h.descs.head? with
  | none => if h.stopped then 6 else b2n (c.fetchDue cl n)
  | some d => match d.phase with
    | .fetched => 1
    | .waitTurn => 3
    | .waitSync => 2
    | .waitEntry => 3
    | .waitClaim => 3
    | .moving => if d.issued then 5 else 4
    | .ended => 5

/-- What channels that a reset takes have asked for (R259): responses to their moves are discarded, and a signal that is on its way is no longer theirs. -/
def Chip.dropChannels (c : Chip) (f : Nat → Nat → Bool) : Chip :=
  let free (r : FabReq) : FabReq := match r.who with
    | .signal x n _ => if f x n then { r with who := .dropped } else r
    | _ => r
  { c with
    reqs := ((c.reqs.filter (fun r => match r.who with | .dma x n _ _ => !f x n | _ => true)).map free).filter (fun r => r.who != .dropped || r.resp.isNone)
    syncHeld := c.syncHeld.map free }

/-- A partition reset of the cluster: channels drop their descriptors and staging buffers (R259). -/
def Chip.dmaReset (c : Chip) (cl : Nat) : Chip :=
  let c := forAll (upto 32) c (fun c n => c.dropWaits (.dma cl n))
  let c := c.dropChannels (fun x _ => x == cl)
  let c := forAll (upto 32) c (fun c n => if c.dmaOwned cl n then c.setB (.ch cl n) R.CH_CTRL_OWNED false else
    c.setFs (.ch cl n) [(R.CH_CTRL_ENABLE, 0), (R.CH_PROD, 0), (R.CH_CONS, 0), (R.CH_CONS_DONE, 0)])
  c.setDma cl {}

end Sys2Proof.Machine
end

