-- ==== Sys2Proof/Machine/Bench.lean ====
section
/-! DEFINITION. The field bench log (R433): entries appended for failed units, and which entries are live. -/

namespace Sys2Proof.Machine

/-- Is an entry live: its tag verifies and no BENCH_CLEAR entry of the running image names it (R433)? -/
def BenchLog.live (b : BenchLog) (e : LogEntry) : Bool :=
  e.good && !b.clears.any (fun x => x.1 == e.kind && x.2.1 == e.pos && decide (e.seq ≤ x.2.2))

/-- Entries that the 1 MiB log holds (R422). -/
def logCapacity : Nat := 32768

/-- CFG_LOG at a start: the entries in the log, and how many are live under the running image (R437). -/
def Chip.logCount (c : Chip) : Chip :=
  c.setFs .cfg [(R.CFG_LOG_ENTRIES, c.bench.entries.length),
    (R.CFG_LOG_LIVE, (c.bench.entries.filter c.bench.live).length)]

/-- Can an entry be written: there is room, the flash interface has power, and the flash bus has not been released (R433, R458, R484)? -/
def Chip.logWritable (c : Chip) : Bool :=
  decide (c.bench.entries.length < logCapacity) && !bit (c.getF .pwr R.PWR_FAULTED) 63 && !c.board.flashGnt

/-- Append an entry, unless the unit already has a live entry; a full log sets LOG_FULL and the bench holds for this boot
only (R433). -/
def Chip.benchAppend (c : Chip) (kind cause pos : Nat) : Chip :=
  if c.bench.entries.any (fun e => e.kind == kind && e.pos == pos && c.bench.live e) then c
  else if !c.logWritable then c.raise .cfg St.CFG_LOG_FULL
  else
    let n := c.getF .cfg R.CFG_LOG_NEXT_SEQ
    let b : BenchLog := { c.bench with entries := c.bench.entries ++ [⟨kind, cause, pos, n, true⟩] }
    ({ c with bench := b }).setFs .cfg [(R.CFG_LOG_NEXT_SEQ, n + 1), (R.CFG_LOG_ENTRIES, b.entries.length)]

end Sys2Proof.Machine
end

