-- ==== Sys2Proof/Machine/Lpddr.lean ====
section
/-! DEFINITION. The group engines (R306-R317): request queues, calibration sessions, failures, rebuilds and losses. -/

namespace Sys2Proof.Machine

/-- A range of stripes is lost: it is recorded in the lowest free entry of the die's loss table, or by POISON alone when
there is none (R317, R320). The loss is the newest event of MEM_ERR, with its first stripe (DEDUCED: log entry 83). -/
def Chip.loseRange (c : Chip) (g first last : Nat) : Chip :=
  let d := g / 8
  let c := ({ c with poison := (g, first, last) :: c.poison }).setFs (.mem d)
    [(R.MEM_ERR_GROUP, g), (R.MEM_ERR_STRIPE, first), (R.MEM_ERR_KIND, 2)]
  let c := match (upto 256).find? (fun i => !c.on (.loss d i) R.LOSS_VALID) with
    | some i => c.setFs (.loss d i) [(R.LOSS_FIRST, first), (R.LOSS_LAST, last), (R.LOSS_GROUP, g), (R.LOSS_VALID, 1)]
    | none => c.raise (.mem d) St.MEM_LOSS_TABLE_FULL
  c.reportLoss g first last

/-- Marks of a range are cleared by the restore that rewrites it (R317, R407). -/
def Chip.clearMarks (c : Chip) (g first last : Nat) : Chip :=
  let inside (x : Nat × Nat × Nat) : Bool := x.1 == g && decide (first ≤ x.2.1) && decide (x.2.2 ≤ last)
  let c := { c with poison := c.poison.filter (fun x => !inside x) }
  forAll (upto 256) c (fun c i =>
    let b := Blk.loss (g / 8) i
    if c.on b R.LOSS_VALID && inside (c.getF b R.LOSS_GROUP, c.getF b R.LOSS_FIRST, c.getF b R.LOSS_LAST)
    then c.setF b R.LOSS_VALID 0 else c)

/-- Reserved entries of each class in a request queue, and the limits of the shared pool (R306). Classes: 0 request,
1 bulk, 2 mirror, 3 management. -/
def queueRoom (q : List MemReq) (cls : Nat) : Bool :=
  let reserved (k : Nat) : Nat := match k with | 0 => 16 | 1 => 16 | 2 => 8 | _ => 4
  let held (k : Nat) : Nat := (q.filter (fun r => r.cls = k)).length
  let pooled (k : Nat) : Nat := held k - reserved k
  decide (held cls < reserved cls) ||
    (decide ((upto 4).foldl (fun s k => s + pooled k) 0 < 84) && (cls != 1 || decide (pooled 1 < 42)))

/-- MEM_READ and MEM_WRITE (R301, R306, R311): refused before any access, answered with a retry (the sender sends again), performed at once, or held in
the queue of the first held group it touches. A request that finds no entry of its class stays with its sender. -/
def Chip.memRequest (c : Chip) (io : RegIo) (faults : List AccFault) (r : MemReq) : Chip :=
  let n := r.bytes.length
  let c := c.addFaults faults
  let code := c.accessCode r.agent r.write r.addr n
  if n = 0 || 128 < n || c.retryAt r.agent r.addr then c
  else if code != COMP_OK && code != COMP_MEM_LOST then c.perform io r
  else match (if isLpddr r.addr then (c.reqGroups r.addr n).find? c.grpHeld else none) with
    | some g =>
      let x := c.grpOf g
      if queueRoom x.queue r.cls then c.setGrp g { x with queue := x.queue ++ [r] } else c
    | none => (c.serveOlder r.addr n).perform io r

/-- A stripe buffer entry is issued (R304, R305). -/
def Chip.flushStripe (c : Chip) (g t : Nat) (faults : List AccFault) : Chip :=
  let c := c.addFaults faults
  let x := c.grpOf g
  match x.buf.find? (fun b => b.stripe = t) with
  | none => c
  | some b => (c.setGrp g { x with buf := x.buf.filter (fun b => b.stripe != t) }).issueStripe g b

/-- A request that has been in the queue longer than 2 µs is promoted (R307). -/
def Chip.promote (c : Chip) (g n : Nat) : Chip :=
  let x := c.grpOf g
  match x.queue[n]? with
  | some r =>
    if r.promoted then c
    else (c.setGrp g { x with queue := setAt x.queue n { r with promoted := true } }).addF (.mem (g / 8)) R.MEM_PROMOTED 1
  | none => c

/-- A per-bank refresh at its postponement limit is served first: it closes the bank's open row (R307; log entry 23). -/
def Chip.refreshDue (c : Chip) (g bank : Nat) : Chip :=
  let x := c.grpOf g
  c.setGrp g { x with openRow := x.openRow.erase bank }

/-- Bank and row of a request's first access (R300). -/
def Chip.reqBank (c : Chip) (r : MemReq) : Nat × Nat :=
  let m := c.memMap (c.viewAddr r.addr)
  (m.stripe / 64 % 16, m.stripe / 1024)

/-- Place in the queue of the request served next (R307): management, promoted, then reads before writes, or while writes are drained the oldest write;
reads, and writes that are not drained, hitting the open row first, each oldest first. A request never passes an older one to the same access (R305), nor a
promoted one to its bank (log entry 126). -/
def Chip.nextReq (c : Chip) (g : Nat) : Nat :=
  let x := c.grpOf g
  let free (i : Nat) (r : MemReq) : Bool := (x.queue.take i).all (fun s =>
    !sameAccess r.addr r.bytes.length s.addr s.bytes.length && !(s.promoted && (c.reqBank s).1 == (c.reqBank r).1))
  let hit (r : MemReq) : Bool := x.openRow.find? (c.reqBank r).1 == some (c.reqBank r).2
  let pick (p : MemReq → Bool) : Option Nat :=
    ((x.queue.zipIdx).find? (fun e => p e.1 && free e.2 e.1)).map (·.2)
  let order : List (MemReq → Bool) := [fun r => r.cls == 3, (·.promoted)] ++ (if x.drains then [(·.write)] else []) ++
    [fun r => !r.write && hit r, fun r => !r.write, hit]
  (order.findSome? pick).getD 0

/-- Serve the held requests of a group, `fuel` of them. -/
def Chip.serveQueue (c : Chip) (g : Nat) : Nat → Chip
  | 0 => c
  | fuel + 1 =>
    let c := c.drainBuf g
    let x := c.grpOf g
    let i := c.nextReq g
    match x.queue[i]? with
    | none => c
    | some r => ((c.setGrp g { x with queue := x.queue.eraseIdx i }).perform plainIo r).serveQueue g fuel

/-! Calibration (R308-R312). -/

/-- A session of member `m` starts (R308, R311, R313): none is running in the group, fewer than two groups of the die have
a member offline, the member has not failed, and no other member's session has been asked for. -/
def Chip.calStart (c : Chip) (g m : Nat) : Chip :=
  let s := c.grpState g
  let busy := ((upto 8).filter (bit (c.getF (.mem (g / 8)) R.MEM_STATE_CALIBRATING))).length
  let x := c.grpOf g
  let failed := decide (2 ≤ s) && c.getF (.grp g) R.GRP_STATE_FAILED == m
  if s = 0 || s = 5 || c.on (.grp g) R.GRP_STATE_CAL_ACTIVE || 2 ≤ busy || failed then c
  else if x.calNow.isSome && x.calNow != some m then c
  else
    let c := (c.setCal g true).setF (.grp g) R.GRP_STATE_CAL_MEMBER m
    let c := c.setGrp g { x with calNow := none, replay := false }
    if 2 ≤ s then c.raise (.mem (g / 8)) St.MEM_CAL_HELD else c

/-- CAL_NOW (R308): the member's next session is the group's next one; a failed member has none (R313). -/
def Chip.calNow (c : Chip) (g m : Nat) : Chip :=
  if c.grpState g = 0 || (2 ≤ c.grpState g && c.getF (.grp g) R.GRP_STATE_FAILED == m) then c else c.setGrp g { c.grpOf g with calNow := some m }

/-- The write log is empty and the member returns to service (R310). -/
def Chip.calReplayDone (c : Chip) (g : Nat) : Chip :=
  let x := c.grpOf g
  if !c.on (.grp g) R.GRP_STATE_CAL_ACTIVE || !x.replay then c
  else ((c.setGrp g { x with replay := false, log := [] }).setF (.grp g) R.GRP_LOG_LOG_ENTRIES 0).setCal g false

/-! Failures (R312, R313, R316). -/

/-- Rebuilds running on a die (R319). -/
def Chip.rebuilds (c : Chip) (d : Nat) : Nat := c.getF (.mem d) R.MEM_STATE_REBUILDS

/-- End a running rebuild of a group without its result. -/
def Chip.stopRebuild (c : Chip) (g : Nat) : Chip :=
  if c.grpState g = 3 then c.setF (.mem (g / 8)) R.MEM_STATE_REBUILDS (c.rebuilds (g / 8) - 1) else c

/-- The degraded groups of a die, by who failed before whom: does `b` wait ahead of `g` (R314)? -/
def Chip.ahead (c : Chip) (g b : Nat) : Bool :=
  b / 8 == g / 8 && c.grpState b == 2 && decide ((c.grpOf b).failOrder < (c.grpOf g).failOrder)

/-- QUEUED of every group of a die (R314): a degraded group waits when the running rebuilds and the groups ahead of it take the die's four slots. -/
def Chip.markQueued (c : Chip) (d : Nat) : Chip :=
  forAll ((upto 8).map (8 * d + ·)) c (fun c g =>
    c.setB (.grp g) R.GRP_STATE_QUEUED (c.grpState g == 2 && decide (4 ≤ c.rebuilds d + ((upto 32).filter (c.ahead g)).length)))

/-- The group loses every stripe and goes out of service (R316). -/
def Chip.grpOut (c : Chip) (g : Nat) : Chip :=
  ((c.stopRebuild g).setF (.grp g) R.GRP_STATE 5).loseRange g 0 (groupStripes - 1)

/-- The group becomes degraded with member `m` out; its rebuild is due (R313, R314, R316). -/
def Chip.grpDegrade (c : Chip) (g m rbEnd : Nat) : Chip :=
  let c := c.setFs (.grp g) [(R.GRP_STATE, 2), (R.GRP_STATE_FAILED, m), (R.GRP_STATE_TAKEOVER, 0), (R.GRP_STATE_RB_PTR, 0)]
  let x := c.grpOf g
  { c.setGrp g { x with rbEnd := rbEnd, failOrder := c.failCtr, calNow := if x.calNow = some m then none else x.calNow } with failCtr := c.failCtr + 1 }

/-- What every declaration of a failed member records (R313): SUBCH_FAIL, MEM_ERR, the bench list and the field log. -/
def Chip.noteMember (c : Chip) (g m : Nat) : Chip :=
  let d := g / 8
  let s := subchOf g m
  let c := (c.raise (.mem d) St.MEM_SUBCH_FAIL).setFs (.mem d)
    [(R.MEM_ERR_GROUP, g), (R.MEM_ERR_MEMBER, m), (R.MEM_ERR_STRIPE, 0), (R.MEM_ERR_KIND, 3)]
  let c := c.setF (.boot (s / 64)) R.BOOT_BENCH_SUB_SUBCH (c.getF (.boot (s / 64)) R.BOOT_BENCH_SUB_SUBCH ||| 2 ^ (s % 64))
  c.benchAppend 2 3 s

/-- Member `m` of a group is out: what becomes of the group (R313, R316). -/
def Chip.memberOut (c : Chip) (g m : Nat) : Chip :=
  let ptr := c.getF (.grp g) R.GRP_STATE_RB_PTR
  match c.grpState g with
  | 1 => c.grpDegrade g m groupStripes
  | 3 =>
    if c.on (.grp g) R.GRP_STATE_TAKEOVER then c.grpOut g
    else if c.getF (.grp g) R.GRP_STATE_FAILED = m then
      (c.setFs (.grp g) [(R.GRP_STATE_TAKEOVER, 1), (R.GRP_STATE_RB_PTR, 0)]).raise (.mem (g / 8)) St.MEM_REBUILD_RESTART
    else if ptr = 0 then c.grpOut g
    else ((c.stopRebuild g).loseRange g ptr (groupStripes - 1)).grpDegrade g m ptr
  | 5 => c
  | _ => c.grpOut g

/-- Serve every request that a group holds. -/
def Chip.serveAll (c : Chip) (g : Nat) : Chip := c.serveQueue g (c.grpOf g).queue.length

/-- Member `m` is declared failed (R312, R313, R316). A session in progress ends; when its member cannot be brought back (`recalled` is false), both have
failed. What the session held is served, by a group that is out of service with COMP_MEM_LOST (R317). -/
def Chip.memberFail (c : Chip) (g m : Nat) (recalled : Bool) : Chip :=
  let s := c.grpState g
  let f := c.getF (.grp g) R.GRP_STATE_FAILED
  let o := c.getF (.grp g) R.GRP_STATE_CAL_MEMBER
  if s = 0 || s = 5 || (2 ≤ s && f = m && !(s = 3 && !c.on (.grp g) R.GRP_STATE_TAKEOVER)) then c
  else
    let out := if c.on (.grp g) R.GRP_STATE_CAL_ACTIVE && o != m && !recalled then [m, o] else [m]
    let c := (forAll out c (fun c i => c.noteMember g i)).endSession g
    ((forAll out c (fun c i => c.memberOut g i)).markQueued (g / 8)).serveAll g

/-- Why a member is declared failed by the engine itself (R313): FAIL_LIMIT check failures, or no response. -/
def Chip.memberFailBy (c : Chip) (g m : Nat) (checks recalled : Bool) : Chip :=
  if checks && (c.grpOf g).fails.getD m 0 < c.getF (.mem (g / 8)) R.MEM_CTRL_FAIL_LIMIT then c
  else
    let c := c.memberFail g m recalled
    let x := c.grpOf g
    c.setGrp g { x with fails := x.fails.set m 0 }

/-- A session ends (R310, R311, R312): counted, a failure noted, two in a row declare the member failed; the log then
replays, and requests held by the session are served. -/
def Chip.calEnd (c : Chip) (g : Nat) (pass : Bool) (ns : Nat) : Chip :=
  let x := c.grpOf g
  let m := c.getF (.grp g) R.GRP_STATE_CAL_MEMBER
  if !c.on (.grp g) R.GRP_STATE_CAL_ACTIVE || x.replay then c
  else
    let l := if x.sess.length = 8 then x.sess else List.replicate 8 0
    let again := !pass && decide (1 ≤ l.getD m 0)
    let c := (c.addF (.grp g) R.GRP_CAL_SESSIONS 1).setF (.grp g) R.GRP_CAL_LAST_NS (ns / 16)
    let c := c.setGrp g { x with sess := setAt l m (if pass then 0 else l.getD m 0 + 1), replay := true }
    let c := if pass then c else (c.raise (.mem (g / 8)) St.MEM_CAL_FAIL).setFs (.mem (g / 8))
      [(R.MEM_ERR_GROUP, g), (R.MEM_ERR_MEMBER, m), (R.MEM_ERR_STRIPE, 0), (R.MEM_ERR_KIND, 5)]
    let c := if again then c.memberFail g m true else c
    c.serveAll g

/-! Rebuilds (R314, R315). -/

/-- The degraded group of a die whose turn it is: the one that failed first (R314). -/
def Chip.rebuildTurn (c : Chip) (d : Nat) : Option Nat :=
  let gs := (upto 8).map (8 * d + ·) |>.filter (fun g => c.grpState g == 2)
  gs.foldl (fun best g => match best with
    | none => some g
    | some b => if (c.grpOf g).failOrder < (c.grpOf b).failOrder then some g else some b) none

/-- A rebuild starts: in place when the retraining of the failed member passes, else as a parity takeover (R314). The
parity member itself cannot be taken over by itself: its group then rebuilds as a takeover that has nothing to move. -/
def Chip.rebuildStart (c : Chip) (g : Nat) (trained : Bool) : Chip :=
  let d := g / 8
  if c.grpState g != 2 || 4 ≤ c.rebuilds d || c.rebuildTurn d != some g then c
  else
    ((c.setFs (.grp g) [(R.GRP_STATE, 3), (R.GRP_STATE_TAKEOVER, b2n !trained), (R.GRP_STATE_RB_PTR, 0)]).addF (.mem d) R.MEM_STATE_REBUILDS 1).markQueued d

/-- The rebuild passes the next stripe (R314, R315). -/
def Chip.rebuildStripe (c : Chip) (g : Nat) (back : ReadBack) (faults : List AccFault) : Chip :=
  let ptr := c.getF (.grp g) R.GRP_STATE_RB_PTR
  let take := c.on (.grp g) R.GRP_STATE_TAKEOVER
  let f := c.getF (.grp g) R.GRP_STATE_FAILED
  let c := c.addFaults faults
  if c.grpState g != 3 || c.grpHeld g then c
  else if back = .exhausted && !take then
    (c.setFs (.grp g) [(R.GRP_STATE_TAKEOVER, 1), (R.GRP_STATE_RB_PTR, 0)]).raise (.mem (g / 8)) St.MEM_REBUILD_RESTART
  else
    let (_, bad) := c.others g ptr f
    let c := if c.stripeLost g ptr then c
      else if bad.isEmpty then c.clearFault g ptr (if take then 7 else f)
      else (forAll bad c (fun c i => c.noteFail g i)).loseStripe g (bad.headD f) ptr
    let stop := (c.grpOf g).rbEnd
    if ptr + 1 < stop then c.setF (.grp g) R.GRP_STATE_RB_PTR (ptr + 1)
    else
      let c := (c.stopRebuild g).setFs (.grp g)
        [(R.GRP_STATE, if take then 4 else 1), (R.GRP_STATE_RB_PTR, 0), (R.GRP_STATE_TAKEOVER, b2n take)]
      (c.markQueued (g / 8)).raise (.mem (g / 8)) St.MEM_REBUILD_DONE

end Sys2Proof.Machine
end

