-- ==== Sys2Proof/Machine/Scratch.lean ====
section
/-! DEFINITION. Moves between commons and a core (R156-R159) and the cache mode of a core scratchpad (R173-R178). -/

namespace Sys2Proof.Machine

/-! SP_MOVE (R156-R159). -/

def mvPush (bs : List Byte) : Bool := bit (recNat bs 1 1) 0
def mvClaim (bs : List Byte) : Bool := bit (recNat bs 1 1) 1
def mvRelease (bs : List Byte) : Bool := bit (recNat bs 1 1) 2
def mvRows (bs : List Byte) : Nat := recNat bs 2 2
def mvRowBytes (bs : List Byte) : Nat := recNat bs 4 2
def mvSeq (bs : List Byte) : Nat := recNat bs 8 2
def mvCmOff (bs : List Byte) : Nat := recNat bs 0xC 4
def mvCmPitch (bs : List Byte) : Nat := recNat bs 0x10 4
def mvCoreOff (bs : List Byte) : Nat := field (recNat bs 0x14 4) 0 22
def mvCorePitch (bs : List Byte) : Nat := recNat bs 0x18 4
def mvClaimBytes (bs : List Byte) : Nat := recNat bs 0x1C 4

/-- Commons bytes that a move reaches beyond its commons base. -/
def mvCmReach (bs : List Byte) : Nat := mvCmOff bs + (mvRows bs - 1) * mvCmPitch bs + mvRowBytes bs

/-- First failing check of R158; `len` is the claimed length of the entry that the move names, when it names one. -/
def mvReason (bs : List Byte) (len : Option Nat) : Option Nat :=
  let abs := recNat bs 6 1 == 0xFF
  let cmLimit := if abs then some cmSize else if mvClaim bs then some (mvClaimBytes bs) else len
  ([(0x01, (mvClaim bs && !mvPush bs) || (mvRelease bs && mvPush bs) || (abs && (mvClaim bs || mvRelease bs))),
    (0x02, mvRows bs == 0 || decide (4096 < mvRows bs) || decide (mvRowBytes bs < 16) || decide (16384 < mvRowBytes bs) ||
      mvRowBytes bs % 16 != 0 || (mvClaim bs && (mvClaimBytes bs % 64 != 0 || decide (mvClaimBytes bs < 64)))),
    (0x03, mvCmOff bs % 16 != 0 || mvCmPitch bs % 16 != 0 || mvCoreOff bs % 16 != 0 || mvCorePitch bs % 16 != 0),
    (0x04, decide (spillBase < (moveRegion bs).2) ||
      (match cmLimit with | some l => decide (l < mvCmReach bs) | none => false)),
    (0x05, field (recNat bs 1 1) 3 5 != 0 || recNat bs 7 1 != 0 || recNat bs 0xA 2 != 0 ||
      field (recNat bs 0x14 4) 22 10 != 0 || !allZero (bs.drop 0x20))].find? (fun (e : Nat × Bool) => e.2)).map (·.1)

/-- Refuse a move (R158). -/
def Chip.mvRefuse (c : Chip) (cl k reason : Nat) : Chip :=
  let q := c.seqOf cl k
  ((c.raise (.sp cl k) St.SP_MOVE_INVALID).setFs (.sp cl k)
    [(R.SP_MOVE_ERR_REASON, reason), (R.SP_MOVE_ERR_ADDR, q.slotOff q.slot)]).seqStop cl k COMP_SP_CMD_INVALID

/-- Code of the shelf that a move names, before it is issued (R169). -/
def Chip.mvShelfCode (c : Chip) (cl : Nat) (bs : List Byte) : Code :=
  match moveShelf cl bs with
  | none => COMP_OK
  | some r =>
    let s := c.shelf r
    if !s.opened then COMP_SHELF_CLOSED
    else if mvClaim bs then (if s.span * 64 < mvClaimBytes bs then COMP_SHELF_OVER else COMP_OK)
    else if (s.entry? (mvSeq bs)).isNone then COMP_SHELF_SEQ else COMP_OK

/-- In a share set, does a move leave the member's share (R358, R364)? The working area serves the running member. -/
def Chip.mvDenied (c : Chip) (cl k p : Nat) (bs : List Byte) : Bool :=
  c.shared p && (((moveShelf cl bs).isNone && !(c.shareHas p (.commons cl (mvCmOff bs)) &&
      c.shareHas p (.commons cl (mvCmReach bs - 1)))) || c.spDenied cl k p [moveRegion bs])

/-- SP_MOVE (R156-R159): refused, failed with a shelf code, held while four moves are in flight or its core side overlaps
one, or issued; a push with CLAIM claims its entry, and waits when it is not granted at once. -/
def Chip.spMove (c : Chip) (cl k : Nat) : Chip :=
  match c.seqAt cl k 0xA with
  | none => c
  | some bs =>
    let p := c.seqPart cl k
    let len := (moveShelf cl bs).bind (fun r => ((c.shelf r).entry? (mvSeq bs)).map (fun e => e.units * 64))
    match mvReason bs len with
    | some r => c.mvRefuse cl k r
    | none =>
      let code := c.mvShelfCode cl bs
      let reg := moveRegion bs
      if code = COMP_SHELF_SEQ then
        (match moveShelf cl bs with | some r => c.shelfSeqErr r | none => c).seqStop cl k code
      else if code != COMP_OK then c.seqStop cl k code
      else if c.mvDenied cl k p bs then c.seqDenied cl k
      else if 4 ≤ (c.seqOf cl k).moves.length || c.moveClash cl k reg.1 reg.2 then c
      else
        let (c, n) := c.seqNumber cl k
        let slot := (c.seqOf cl k).slot
        let put (c : Chip) (m : Move) : Chip :=
          let q := c.seqOf cl k
          (c.setSeq cl k { q with moves := q.moves ++ [m] }).seqAdvance cl k
        match moveShelf cl bs with
        | none => put c ⟨bs, slot, n, p, none, false⟩
        | some r =>
          if mvClaim bs then
            match c.shelfClaim r (mvClaimBytes bs / 64) (.spMove cl k) with
            | (c, .granted q _) => put c ⟨bs, slot, n, p, some q, false⟩
            | (c, _) => put c ⟨bs, slot, n, p, none, true⟩
          else put c ⟨bs, slot, n, p, some (mvSeq bs), false⟩

/-- A waiting claim of a core's move has been granted (R162, R157). -/
def Chip.mvGranted (c : Chip) (cl k seq : Nat) : Chip :=
  let q := c.seqOf cl k
  c.setSeq cl k { q with moves := q.moves.map (fun m => if m.waiting then { m with entry := some seq, waiting := false } else m) }

/-- Local address of byte `o` of the commons side of a move (R157, R164). -/
def Chip.mvCmAddr (c : Chip) (cl : Nat) (m : Move) (o : Nat) : Nat :=
  match moveShelf cl m.cmd, m.entry with
  | some r, some q => (match (c.shelf r).entry? q with
      | some e => cmBase cl + (c.shelf r).byteAt e o
      | none => cmBase cl + o)
  | _, _ => cmBase cl + o

/-- Carry one row of a move (R157). -/
def Chip.mvRow (c : Chip) (cl k : Nat) (m : Move) (i : Nat) : Chip :=
  let bs := m.cmd
  let core := spBase cl k + mvCoreOff bs + i * mvCorePitch bs
  let cm (j : Nat) : Nat := c.mvCmAddr cl m (mvCmOff bs + i * mvCmPitch bs + j)
  let mem := (upto (mvRowBytes bs)).foldl (fun mem j =>
    if mvPush bs then mem.write (cm j) (mem.read (core + j)) else mem.write (core + j) (mem.read (cm j))) c.mem
  (c.setMem mem).noteWords (cm 0) (mvRowBytes bs)

/-- The oldest move in flight completes (R157, R159): its bytes move, a claimed entry is committed, a released one
released; an entry that is no longer live gives COMP_SHELF_SEQ. -/
def Chip.spMoveDone (c : Chip) (cl k conflict wait : Nat) : Chip :=
  let q := c.seqOf cl k
  match q.moves with
  | [] => c
  | m :: rest =>
    if c.moveHeld cl m then c
    else
      let c := ((c.setSeq cl k { q with moves := rest }).addF (.sp cl k) R.SP_CONFLICT_CYC conflict).addF (.cm cl) R.CM_WAIT_CYC wait
      let gone := match moveShelf cl m.cmd, m.entry with
        | some r, some e => ((c.shelf r).entry? e).isNone
        | _, _ => false
      match moveShelf cl m.cmd with
      | some r =>
        if gone then (c.shelfSeqErr r).seqStop cl k COMP_SHELF_SEQ
        else
          let c := forAll (upto (mvRows m.cmd)) c (fun c i => c.mvRow cl k m i)
          let c := c.addF (.sp cl k) R.SP_MOVE_BYTES (mvRows m.cmd * mvRowBytes m.cmd)
          let (c, code) := if mvClaim m.cmd then c.shelfCommit r m.part (m.entry.getD 0)
            else if mvRelease m.cmd then c.shelfRelease r (mvSeq m.cmd) else (c, COMP_OK)
          if code = COMP_OK then c.cmdDone cl k 1 else c.seqStop cl k code
      | none =>
        let c := forAll (upto (mvRows m.cmd)) c (fun c i => c.mvRow cl k m i)
        (c.addF (.sp cl k) R.SP_MOVE_BYTES (mvRows m.cmd * mvRowBytes m.cmd)).cmdDone cl k 1

/-! Cache mode (R173-R178). -/

def Chip.cacheOf (c : Chip) (cl k : Nat) : Cache := KMap.getD c.caches (coreKey cl k) {}
def Chip.setCache (c : Chip) (cl k : Nat) (x : Cache) : Chip := { c with caches := c.caches.insert (coreKey cl k) x }

/-- Owner of way `j` (R175). -/
def ownerField (j : Nat) : Field := ⟨0x10, 3 * j, 3, .rw, 0, false⟩
def Chip.wayOwner (c : Chip) (cl k j : Nat) : Nat := c.getF (.sp cl k) (ownerField j)

/-- Ways that a context owns, among those in use (R174, R175). -/
def Chip.ctxWays (c : Chip) (cl k ctx : Nat) : List Nat := (upto (c.cacheWays cl k)).filter (fun j => c.wayOwner cl k j = ctx)

/-- Set and tag of an LPDDR6 address (R174). -/
def lineSet (a : Nat) : Nat := field a 7 9
def lineTag (a : Nat) : Nat := field a 16 24

/-- LPDDR6 address of a line. -/
def CacheLine.addr (l : CacheLine) : Nat := l.tag * 65536 + l.set * 128

/-- Local address of a line's data (R174). -/
def lineHome (cl k way set : Nat) : Nat := spBase cl k + (0x280000 - (way + 1) * 0x10000) + set * 128

/-- The line that holds an address, among a context's ways (R175). -/
def Chip.cacheHit (c : Chip) (cl k ctx a : Nat) : Option CacheLine :=
  let ws := c.ctxWays cl k ctx
  (c.cacheOf cl k).lines.find? (fun l => ws.contains l.way && l.set = lineSet a && l.tag = lineTag a)

/-- Tree bits after a use of way `w`: at each of the four levels the bit points away from it (R175). -/
def plruTouch (t w : Nat) : Nat :=
  [(1, 3), (2, 2), (4, 1), (8, 0)].foldl (fun t (base, sh) =>
    let node := base + w / 2 ^ (sh + 1)
    let away := 1 - w / 2 ^ sh % 2
    let cleared := if bit t node then t - 2 ^ node else t
    cleared + away * 2 ^ node) t

/-- Victim among the allowed ways: at each level the pointed half, or the other half when the pointed one holds no allowed
way (R175; log entry 24). -/
def plruVictim (t : Nat) (allowed : List Nat) : Nat :=
  let step (x : Nat × Nat) (lv : Nat × Nat) : Nat × Nat :=
    let (pre, _) := x
    let want := b2n (bit t (lv.1 + pre))
    let has (h : Nat) : Bool := allowed.any (fun w => w / 2 ^ lv.2 = 2 * pre + h)
    (2 * pre + (if has want then want else 1 - want), 0)
  ([(1, 3), (2, 2), (4, 1), (8, 0)].foldl step (0, 0)).1

/-- Agent that writes lines back and fills them: the partition that runs on the core (R176). -/
def Chip.coreAgent (c : Chip) (cl : Nat) : Agent := ⟨c.partOf cl, cl / 8⟩

/-- Key of the tree bits of a set as one context has them: a context's uses and evictions do not show in another's (R175). -/
def plruKey (ctx set : Nat) : Nat := ctx * 512 + set

/-- Write one dirty line back to LPDDR6 (R176). -/
def Chip.writeBack (c : Chip) (cl k : Nat) (l : CacheLine) : Chip :=
  if !l.dirty then c
  else
    let data := c.mem.readN (lineHome cl k l.way l.set) 128
    let (c, _) := c.agentWrite (c.coreAgent cl) l.addr (ones 128) data
    c.addF (.sp cl k) R.SP_CACHE_WB 1

/-- Write back and, when asked, invalidate the lines of some ways. -/
def Chip.cacheClean (c : Chip) (cl k : Nat) (sel : Nat → Bool) (wb inv : Bool) : Chip :=
  let x := c.cacheOf cl k
  let c := if wb then forAll (x.lines.filter (fun l => sel l.way)) c (fun c l => c.writeBack cl k l) else c
  let x := c.cacheOf cl k
  let lines := if inv then x.lines.filter (fun l => !sel l.way)
    else if wb then x.lines.map (fun l => if sel l.way then { l with dirty := false } else l) else x.lines
  c.setCache cl k { x with lines := lines }

/-- The way of a context that a line of set `set` goes into: one that holds no line of the set, or the victim of the context's tree (R175). -/
def Chip.fillWay (c : Chip) (cl k ctx set : Nat) : Nat :=
  let ws := c.ctxWays cl k ctx
  let x := c.cacheOf cl k
  (ws.find? (fun w => !x.lines.any (fun l => l.way = w && l.set = set))).getD (plruVictim (KMap.getD x.plru (plruKey ctx set) 0) ws)

/-- The line that a fill of a set evicts (R175, R176). -/
def Chip.fillVictim (c : Chip) (cl k ctx set : Nat) : Option CacheLine :=
  (c.cacheOf cl k).lines.find? (fun l => l.way = c.fillWay cl k ctx set && l.set = set)

/-- A miss: the line of an address comes into a way of the context; the victim is written back, the line filled unless the store
covers it whole (R175, R176). The code is that of the fill. -/
def Chip.cacheFill (c : Chip) (cl k ctx a : Nat) (fill : Bool) : Chip × Code :=
  let set := lineSet a
  let way := c.fillWay cl k ctx set
  let victim := c.fillVictim cl k ctx set
  let c := c.addF (.sp cl k) R.SP_CACHE_MISS 1
  let (c, code, data) := if fill then c.agentRead (c.coreAgent cl) (a / 128 * 128) 128 else (c, COMP_OK, [])
  if code != COMP_OK then (c, code)
  else
    let c := match victim with
      | some l => c.writeBack cl k l
      | none => c
    let x := c.cacheOf cl k
    let c := c.setCache cl k { x with
      lines := x.lines.filter (fun l => !(l.way = way && l.set = set)) ++ [⟨way, set, lineTag a, false⟩] }
    (if fill then c.poke (lineHome cl k way set) data else c, COMP_OK)

/-- Note a use of a line by a context (R175). -/
def Chip.cacheTouch (c : Chip) (cl k ctx : Nat) (l : CacheLine) : Chip :=
  let x := c.cacheOf cl k
  c.setCache cl k { x with plru := x.plru.insert (plruKey ctx l.set) (plruTouch (KMap.getD x.plru (plruKey ctx l.set) 0) l.way) }

/-- Load within one line through the cache; a context that owns no way goes to LPDDR6 (R175, R176). -/
def Chip.cacheLoad (c : Chip) (cl k ctx : Nat) (ag : Agent) (a n : Nat) : Chip × Code × List Byte :=
  if (c.ctxWays cl k ctx).isEmpty then c.agentRead ag a n
  else
    let (c, code) := match c.cacheHit cl k ctx a with
      | some _ => (c.addF (.sp cl k) R.SP_CACHE_HIT 1, COMP_OK)
      | none => c.cacheFill cl k ctx a true
    match code, c.cacheHit cl k ctx a with
    | 0, some l => (c.cacheTouch cl k ctx l, COMP_OK, c.mem.readN (lineHome cl k l.way l.set + a % 128) n)
    | 0, none => (c, COMP_OK, [])
    | e, _ => (c, e, [])

/-- Store within one line through the cache (R176). -/
def Chip.cacheStore (c : Chip) (cl k ctx : Nat) (ag : Agent) (a en : Nat) (bs : List Byte) : Chip × Code :=
  if (c.ctxWays cl k ctx).isEmpty then c.agentWrite ag a en bs
  else
    let whole := a % 128 = 0 && bs.length = 128 && en % 2 ^ 128 = ones 128
    let (c, code) := match c.cacheHit cl k ctx a with
      | some _ => (c.addF (.sp cl k) R.SP_CACHE_HIT 1, COMP_OK)
      | none => c.cacheFill cl k ctx a (!whole)
    match code, c.cacheHit cl k ctx a with
    | 0, some l =>
      let c := c.setMem (c.mem.writeMasked (lineHome cl k l.way l.set + a % 128) en bs)
      let x := c.cacheOf cl k
      ((c.setCache cl k { x with lines := x.lines.map (fun m =>
          if m.way = l.way && m.set = l.set then { m with dirty := true } else m) }).cacheTouch cl k ctx l, COMP_OK)
    | e, _ => (c, e)

/-- Does a setting of `ways` ways overlap an open shelf of the core (R178)? -/
def Chip.waysOverlap (c : Chip) (cl k ways : Nat) : Bool :=
  (c.openRegions (.core cl k 63) (fun _ => true)).any (fun g => overlaps g.1 g.2 (2560 - 64 * ways) (64 * ways))

/-- Clusters of the largest partition of the module (R173). -/
def Chip.largestPart (c : Chip) : Nat := (upto 16).foldl (fun m p => max m (c.clustersOf p).length) 0

/-- Ways that a pending operation acts on: the context's, every way, or those whose owner or presence changes (R177,
R178). -/
def Chip.cacheSel (c : Chip) (cl k : Nat) : CacheOp → Nat → Bool
  | .run _ _ none, _ => true
  | .run _ _ (some ctx), j => c.wayOwner cl k j == ctx
  | .setWays v, j => decide (satNat 16 v ≤ j)
  | .setOwner v, j => c.wayOwner cl k j != field v (3 * j) 3

/-- May the cores of a cluster have `ways` ways enabled: its partition holds at most 4 clusters, and none of the module more than 8 (R173)? -/
def Chip.mayCache (c : Chip) (cl ways : Nat) : Bool :=
  ways == 0 || ((c.partOf cl).all (fun p => decide ((c.clustersOf p).length ≤ 4)) && decide (c.largestPart ≤ 8))

/-- Carry out a cache operation (R177, R178). A setting that has waited for the operations before it is held to R173 again. -/
def Chip.cacheDo (c : Chip) (cl k : Nat) (op : CacheOp) : Chip :=
  let sel := c.cacheSel cl k op
  match op with
  | .run wb inv _ => c.cacheClean cl k sel wb inv
  | .setWays v =>
    if c.mayCache cl (satNat 16 v) then (c.cacheClean cl k sel true true).setF (.sp cl k) R.SP_CACHE_CFG_WAYS v
    else c.raise (.sp cl k) St.SP_CACHE_REFUSED
  | .setOwner v => forAll (upto 16) (c.cacheClean cl k sel true true) (fun c j => c.setF (.sp cl k) (ownerField j) (field v (3 * j) 3))

/-- Take an operation: it begins at once or waits for those before it; a setting that changes no valid line takes effect at
once when none is in progress (R178, R182; log entry 25). -/
def Chip.cacheTake (c : Chip) (cl k : Nat) (op : CacheOp) : Chip :=
  let x := c.cacheOf cl k
  let quiet := match op with
    | .run _ _ _ => false
    | _ => x.ops.isEmpty && x.lines.all (fun l => !c.cacheSel cl k op l.way)
  if quiet then c.cacheDo cl k op else c.setCache cl k { x with ops := x.ops ++ [op] }

/-- SP_CACHE_OP (R177, R182). -/
def Chip.cacheOp (c : Chip) (cl k : Nat) (wb inv : Bool) (ctx : Nat) (all : Bool) : Chip :=
  c.cacheTake cl k (.run wb inv (if all then none else some ctx))

/-- The operation in progress finishes; the next one begins (R182). -/
def Chip.cacheOpDone (c : Chip) (cl k : Nat) : Chip :=
  match (c.cacheOf cl k).ops with
  | [] => c
  | op :: r => (c.cacheDo cl k op).setCache cl k { (c.cacheDo cl k op).cacheOf cl k with ops := r }

/-- A write to SP_CACHE_CFG or SP_CACHE_OWNER (R173, R178, R365): denied to members of a share set, refused, or taken. -/
def Chip.cacheConfig (c : Chip) (cl k : Nat) (who : Option Nat) (owner : Bool) (v : Nat) : Chip :=
  let ways := satNat 16 (field v 0 5)
  match who.filter c.shared with
  | some p => c.raise (.part p) St.PART_DENIED
  | none =>
    if owner then c.cacheTake cl k (.setOwner v)
    else if !c.mayCache cl ways || c.waysOverlap cl k ways then c.raise (.sp cl k) St.SP_CACHE_REFUSED
    else c.cacheTake cl k (.setWays (field v 0 5))

/-- Empty a core's cache, dirty lines written back (R173, R178). -/
def Chip.cacheEmpty (c : Chip) (cl k : Nat) : Chip := c.cacheClean cl k (fun _ => true) true true

end Sys2Proof.Machine
end

