-- ==== Sys2Proof/Machine/RallyPlan.lean ====
section
/-! DEFINITION. Rally plans (R33-R41, R47, R55, R57, R59): the records of a plan, their validation against the partition, the
walk of a pass, and the queues of passes. -/

namespace Sys2Proof.Machine

/-- What an agent reads at an address, with no trace left: the code, and the bytes when the code is COMP_OK. -/
def Chip.peek (c : Chip) (ag : Agent) (a n : Nat) : Code × List Byte := (c.agentRead ag a n).2

/-- What reads one after another leave behind, the first that is refused being the last (R301, R319): counts and refusals. -/
def Chip.noteReads (c : Chip) (ag : Agent) (l : List (Nat × Nat)) : Chip := (c.readAll ag l).1

/-- The agent that reads plan records for a partition: the RSEQ and the control core of a cluster (R33, R185). -/
def rseqAgent (cl part : Nat) : Agent := ⟨some part, cl / 8⟩

/-! Plan header (R35). -/
namespace Hdr
def rallies (b : List Byte) : Nat := recNat b 6 2
def mbs (b : List Byte) : Nat := recNat b 8 2
def depth (b : List Byte) : Nat := recNat b 0xA 1
def split (b : List Byte) : Nat := recNat b 0xB 1
def bwd (b : List Byte) : Bool := bit (recNat b 0xC 1) 0
def clusters (b : List Byte) : Nat := recNat b 0xD 1
def seedStep (b : List Byte) : Nat := recNat b 0xE 2
def rallyTable (b : List Byte) : Nat := recNat b 0x10 8
def ckptBase (b : List Byte) : Nat := recNat b 0x18 8
def ckptStride (b : List Byte) : Nat := recNat b 0x20 8
def shelfKib (b : List Byte) : Nat := recNat b 0x28 2
def commonsF (b : List Byte) : Nat := recNat b 0x2A 2
def commonsB (b : List Byte) : Nat := recNat b 0x2C 2
def gstage (b : List Byte) : Nat := recNat b 0x30 2
def dstage (b : List Byte) : Nat := recNat b 0x32 2
def seedSync (b : List Byte) : Nat := recNat b 0x38 2
def doneSync (b : List Byte) : Nat := recNat b 0x3A 2
def shapeTable (b : List Byte) : Nat := recNat b 0x3C 4
/-- First failing check of the header alone, in the order of the table (R41; DESIGN CHOICE: log entry 89); `ways` is the largest number of cache ways of a core (R174). -/
def reason (b : List Byte) (base ncl ways : Nat) : Nat :=
  if recNat b 0 4 != 0x52414C47 || recNat b 4 2 != 1 then 1
  else if rallies b < 1 || 4096 < rallies b || mbs b < 1 || 4096 < mbs b || 15 < depth b || (bwd b && seedStep b == 0) then 2
  else if base % 64 != 0 || rallyTable b % 64 != 0 || ckptBase b % 4096 != 0 || ckptStride b % 4096 != 0 ||
      shapeTable b % 16 != 0 then 3
  else if 2560 - 64 * ways < shelfKib b || 24576 < commonsF b + commonsB b + 2 * gstage b + dstage b then 4
  else if clusters b != ncl then 0xA
  else if 15 < split b || (split b != 0 && (depth b == 0 || !bwd b)) then 0xB
  else if field (recNat b 0xC 1) 1 7 != 0 || recNat b 0x2E 2 != 0 || recNat b 0x34 4 != 0 then 0xD
  else 0
end Hdr

/-! Rally descriptor (R36). -/
namespace Rly
def first (b : List Byte) : Nat := recNat b 0 2
def fwdSteps (b : List Byte) : Nat := recNat b 2 2
def bwdSteps (b : List Byte) : Nat := recNat b 4 2
def subCount (b : List Byte) : Nat := recNat b 6 1
def tailKeep (b : List Byte) : Bool := bit (recNat b 7 1) 0
def stepTable (b : List Byte) : Nat := recNat b 8 8
def subTable (b : List Byte) : Nat := recNat b 0x10 8
def ckptOffset (b : List Byte) : Nat := recNat b 0x18 4
def ckptBytes (b : List Byte) : Nat := recNat b 0x1C 4 * 64
def shelfKib (b : List Byte) (bwd : Bool) : Nat := recNat b (if bwd then 0x24 else 0x20) 2
def commonsKib (b : List Byte) (bwd : Bool) : Nat := recNat b (if bwd then 0x26 else 0x22) 2
def acc (b : List Byte) (bwd : Bool) : Nat := recNat b (if bwd then 0x29 else 0x28) 1
def carryKib (b : List Byte) : Nat := recNat b 0x2A 2
def gatherFirst (b : List Byte) : Nat := recNat b 0x2C 4
def gatherTable (b : List Byte) : Nat := recNat b 0x30 8
/-- Address of the step record at an index relative to FIRST_STEP. -/
def stepAddr (b : List Byte) (idx : Nat) : Nat := stepTable b + 64 * (first b + idx)
/-- Does a pass's reservation not fit the pools taken as empty (R41, PASS_OVER)? -/
def passOver (b h : List Byte) : Bool :=
  let beyond (bwd : Bool) (own : Nat) : Bool :=
    decide (Hdr.shelfKib h < shelfKib b bwd) || decide (Hdr.commonsF h + Hdr.commonsB h < commonsKib b bwd) ||
    (Hdr.split h != 0 && decide (own < commonsKib b bwd)) || decide (commonsKib b bwd < carryKib b)
  beyond false (Hdr.commonsF h) || (Hdr.bwd h && beyond true (Hdr.commonsB h))
/-- Is the reserved space of the descriptor not zero? -/
def reserved (b : List Byte) : Bool := field (recNat b 7 1) 1 7 != 0 || recNat b 0x38 8 != 0
end Rly

/-- Address of the checkpoint of a rally for a micro-batch (R57). -/
def ckptAddr (h r : List Byte) (mb : Nat) : Nat :=
  Hdr.ckptBase h + (mb % (Hdr.depth h + 1)) * Hdr.ckptStride h + 4096 * Rly.ckptOffset r

/-- Does a partition own every slice of an LPDDR6 range (R41, CKPT_RANGE)? -/
def Chip.ownsRange (c : Chip) (p a n : Nat) : Bool :=
  n == 0 || (decide (a + n ≤ c.lpddrTop) &&
    (upto ((a + n - 1) / sliceSize + 1 - a / sliceSize)).all (fun i => c.sliceOwner (a / sliceSize + i) == some p))

/-- Does a checkpoint slot of a plan with backward passes lie outside LPDDR6 that the partition owns (R41, CKPT_RANGE)? The plan has DEPTH + 1 slots of
CKPT_STRIDE bytes (R35, R48). -/
def Chip.slotsOutside (c : Chip) (p : Nat) (h : List Byte) : Bool :=
  Hdr.bwd h && (upto (Hdr.depth h + 1)).any (fun s => !c.ownsRange p (Hdr.ckptBase h + s * Hdr.ckptStride h) (Hdr.ckptStride h))

/-- First failing check of rally descriptor `i`, in the order of the table (R41; DESIGN CHOICE: log entry 89). -/
def Chip.rallyReason (c : Chip) (p : Nat) (h : List Byte) (i : Nat) (b : List Byte) : Nat :=
  if Rly.fwdSteps b < 1 || 4096 < Rly.fwdSteps b || 4096 < Rly.bwdSteps b || (Rly.bwdSteps b == 0) == Hdr.bwd h ||
      Rly.subCount b < 1 || 16 < Rly.subCount b || (Hdr.bwd h && i != 0 && Rly.ckptBytes b == 0) then 2
  else if Rly.stepTable b % 64 != 0 || Rly.subTable b % 16 != 0 || Rly.gatherTable b % 64 != 0 then 3
  else if Rly.passOver b h then 5
  else if 32 < Rly.acc b false || 32 < Rly.acc b true then 6
  else if Rly.subCount b == 1 && !Rly.tailKeep b then 7
  else if Hdr.bwd h && (upto (min (Hdr.depth h) (Hdr.mbs h - 1) + 1)).any (fun s =>
      !c.ownsRange p (ckptAddr h b s) (Rly.ckptBytes b)) then 0xC
  else if Rly.reserved b then 0xD
  else 0

/-! Sub-rally entry (R37). -/
namespace Sub
def fwdFirst (b : List Byte) : Nat := recNat b 0 2
def fwdCount (b : List Byte) : Nat := recNat b 2 2
def bwdFirst (b : List Byte) : Nat := recNat b 4 2
def bwdCount (b : List Byte) : Nat := recNat b 6 2
def boundKib (b : List Byte) : Nat := recNat b 8 2
/-- First failing check of the sub-rally entries of a rally, from entry `s` on, with the first steps they must have. -/
def reason (r : List Byte) : Nat → Nat → List (List Byte) → Nat
  | f, b, [] => if f = Rly.fwdSteps r && b = Rly.fwdSteps r + Rly.bwdSteps r then 0 else 7
  | f, b, e :: l =>
    if fwdFirst e != f || bwdFirst e != b then 7
    else if recNat e 0xA 6 != 0 then 0xD
    else reason r (f + fwdCount e) (b + bwdCount e) l
/-- First failing check of an entry that is read again: its step ranges follow those of the entries found at RALLY_LOAD only where they are the ones found there
(R41). -/
def againReason (old e : List Byte) : Nat :=
  if fwdFirst e != fwdFirst old || fwdCount e != fwdCount old || bwdFirst e != bwdFirst old || bwdCount e != bwdCount old then 7
  else if recNat e 0xA 6 != 0 then 0xD
  else 0
end Sub

/-! Step record (R38). -/
namespace Stp
def kind (b : List Byte) : Nat := recNat b 0 1
def sub (b : List Byte) : Nat := recNat b 1 1
def keep (b : List Byte) : Bool := bit (recNat b 2 1) 0
def boundary (b : List Byte) : Bool := bit (recNat b 2 1) 1
def accum (b : List Byte) : Bool := bit (recNat b 2 1) 2
def bias (b : List Byte) : Bool := bit (recNat b 2 1) 3
def piece (b : List Byte) : Nat := recNat b 4 2
def waitSync (b : List Byte) : Nat := recNat b 6 2
def waitValue (b : List Byte) : Nat := recNat b 8 4
def signal (b : List Byte) : Nat := recNat b 0xC 2
def shapeSlot (b : List Byte) : Nat := recNat b 0xE 2
def maxM (b : List Byte) : Nat := recNat b 0x10 4
def maxN (b : List Byte) : Nat := recNat b 0x14 4
def maxK (b : List Byte) : Nat := recNat b 0x18 4
def stride (b : List Byte) : Nat := recNat b 0x1C 4
def program (b : List Byte) : Nat := recNat b 0x20 8
/-- Input A, input B and output shelf numbers, 0xFF for none. -/
def shelf (b : List Byte) (i : Nat) : Nat := recNat b (0x28 + i) 1
/-- Does a record that names an operator descriptor place one off its 64-byte alignment (R41 BAD_ALIGN, R187)? The stride counts where the plan has more than
one cluster. -/
def misaligned (h b : List Byte) : Bool :=
  decide (1 ≤ kind b) && decide (kind b ≤ 3) && (program b % 64 != 0 || (decide (1 < Hdr.clusters h) && stride b % 64 != 0))
/-- First failing check of a step record (R41, R171); among several it is the first of the table (DESIGN CHOICE: log entry 89). -/
def reason (h r : List Byte) (bsig fwait : List Nat) (idx : Nat) (b : List Byte) : Nat :=
  let fwd := decide (idx < Rly.fwdSteps r)
  if misaligned h b then 3
  else if boundary b && sub b + 1 == Rly.subCount r then 7
  else if (fwd && waitSync b != 0xFFFF && bsig.contains (waitSync b)) ||
      (!fwd && signal b != 0xFFFF && fwait.contains (signal b)) then 8
  else if kind b < 1 || 4 < kind b || Rly.subCount r ≤ sub b || field (recNat b 2 1) 4 4 != 0 || recNat b 3 1 != 0 ||
      !allZero ((b.drop 0x2B).take 21) || (upto 3).any (fun i => decide (63 ≤ shelf b i) && decide (shelf b i ≤ 254)) then 0xD
  else 0
end Stp

/-! Gather piece records (R40). -/
namespace Pce
def segs (b : List Byte) : Nat := recNat b 0 1
def bytes (b : List Byte) : Nat := recNat b 4 4 * 64
def segDev (b : List Byte) : Nat := field (recNat b 0 2) 0 12
def segMirror (b : List Byte) : Bool := bit (recNat b 0 2) 15
def segLen (b : List Byte) : Nat := recNat b 4 4 * 64
def segAddr (b : List Byte) : Nat := recNat b 8 8
def segStride (b : List Byte) : Nat := recNat b 0x10 4
/-- First failing check of a piece record with its segment entries; a SEG_COUNT outside 1-64 is taken under BAD_COUNT (log
entry 37). -/
def reason (h b : List Byte) (l : List (List Byte)) : Nat :=
  if segs b < 1 || 64 < segs b then 2
  else if 1024 * Hdr.gstage h < bytes b || (l.map segLen).sum != bytes b then 9
  else if recNat b 1 3 != 0 || !allZero (b.drop 8) ||
      l.any (fun s => field (recNat s 0 2) 12 3 != 0 || recNat s 2 2 != 0 || recNat s 0x14 12 != 0) then 0xD
  else 0
/-- Bytes from one piece record to the next. -/
def span (b : List Byte) : Nat := 64 + ceilDiv (32 * segs b) 64 * 64
end Pce

/-- What reading and validating found wrong: a reason, a code and the record (rally, step); with the address and length of a record that could
not be read (R33, R41). -/
structure PlanFault where
  reason : Nat
  code : Code
  rally : Nat := 0
  step : Nat := 0
  read : List (Nat × Nat) := []
  deriving DecidableEq, Repr

/-- Read records one after another; the first that cannot be read gives its code and its position. -/
def Chip.readRecs (c : Chip) (ag : Agent) (n : Nat) : List Nat → Nat → Except (Code × Nat) (List (List Byte))
  | [], _ => .ok []
  | a :: r, i =>
    match c.peek ag a n with
    | (code, bs) =>
      if code != COMP_OK then .error (code, i)
      else match c.readRecs ag n r (i + 1) with
        | .ok l => .ok (bs :: l)
        | .error e => .error e

/-- Check every element of a list in turn; the first non-zero reason with its position. -/
def firstBad {α : Type} (f : Nat → α → Nat) : Nat → List α → Option (Nat × Nat)
  | _, [] => none
  | i, a :: r => if f i a = 0 then firstBad f (i + 1) r else some (f i a, i)

/-- A plan that passed validation. -/
structure PlanRecs where
  hdr : List Byte
  rallies : List (List Byte)
  subs : List (List (List Byte))
  bsig : List Nat
  fwait : List Nat
  deriving DecidableEq, Repr

/-- Sub-rally tables of every rally, read and checked in order (R37, R41). -/
def Chip.readSubs (c : Chip) (ag : Agent) : List (List Byte) → Nat → Except PlanFault (List (List (List Byte)))
  | [], _ => .ok []
  | r :: l, i =>
    match c.readRecs ag 16 ((upto (Rly.subCount r)).map (fun s => Rly.subTable r + 16 * s)) 0 with
    | .error (code, s) => .error { reason := 0xFA, code := code, rally := i, read := [(Rly.subTable r + 16 * s, 16)] }
    | .ok es =>
      let bad := Sub.reason r 0 (Rly.fwdSteps r) es
      if bad != 0 then .error { reason := bad, code := COMP_PLAN_INVALID, rally := i }
      else match c.readSubs ag l (i + 1) with
        | .ok t => .ok (es :: t)
        | .error e => .error e

/-- The sub-rally entries of a rally as a pass that begins its walk reads them again, each judged against what RALLY_LOAD found (R33, R41). -/
def Chip.rereadSubs (c : Chip) (ag : Agent) (r : List Byte) (old : List (List Byte)) (i : Nat) : Except PlanFault (List (List Byte)) :=
  match c.readRecs ag 16 ((upto (Rly.subCount r)).map (fun s => Rly.subTable r + 16 * s)) 0 with
  | .error (code, s) => .error { reason := 0xFA, code := code, rally := i, read := [(Rly.subTable r + 16 * s, 16)] }
  | .ok es => match firstBad (fun _ x => Sub.againReason x.1 x.2) 0 (old.zip es) with
    | some (bad, _) => .error { reason := bad, code := COMP_PLAN_INVALID, rally := i }
    | none => .ok es

/-- Step records of every rally, read in order (R33). -/
def Chip.readSteps (c : Chip) (ag : Agent) : List (List Byte) → Nat → Except PlanFault (List (List (List Byte)))
  | [], _ => .ok []
  | r :: l, i =>
    match c.readRecs ag 64 ((upto (Rly.fwdSteps r + Rly.bwdSteps r)).map (Rly.stepAddr r)) 0 with
    | .error (code, s) => .error { reason := 0xFA, code := code, rally := i, step := s, read := [(Rly.stepAddr r s, 64)] }
    | .ok es => match c.readSteps ag l (i + 1) with
      | .ok t => .ok (es :: t)
      | .error e => .error e

/-- Largest number of cache ways of a cluster's cores (R174). -/
def Chip.mostWays (c : Chip) (cl : Nat) : Nat := (upto 16).foldl (fun m k => max m (c.cacheWays cl k)) 0

/-- Read and validate a plan for a cluster of partition `p` (R33, R41): header, rally table, sub-rally tables, step records. R41 does not order its checks;
when several fail, the reason and the record are those of the first in this order: the header, the rally descriptors, the sub-rally tables, the step records, each
by rising index, and within a record the order of the table (DESIGN CHOICE: log entry 89). -/
def Chip.validatePlan (c : Chip) (cl p base : Nat) : Except PlanFault PlanRecs :=
  let ag := rseqAgent cl p
  match c.peek ag base 64 with
  | (hcode, h) =>
    if hcode != COMP_OK then .error { reason := 0xFA, code := hcode, read := [(base, 64)] }
    else
      let bad := Hdr.reason h base (c.clustersOf p).length (c.mostWays cl)
      let bad := if bad = 0 && c.slotsOutside p h then 0xC else bad
      if bad != 0 then .error { reason := bad, code := COMP_PLAN_INVALID }
      else match c.readRecs ag 64 ((upto (Hdr.rallies h)).map (fun i => Hdr.rallyTable h + 64 * i)) 0 with
      | .error (code, i) => .error { reason := 0xFA, code := code, rally := i, read := [(Hdr.rallyTable h + 64 * i, 64)] }
      | .ok rs => match firstBad (c.rallyReason p h) 0 rs with
        | some (bad, i) => .error { reason := bad, code := COMP_PLAN_INVALID, rally := i }
        | none => match c.readSubs ag rs 0 with
          | .error e => .error e
          | .ok subs => match c.readSteps ag rs 0 with
            | .error e => .error e
            | .ok steps =>
              let pairs := rs.zip steps
              let bsig := pairs.flatMap (fun x => ((x.2.drop (Rly.fwdSteps x.1)).map Stp.signal).filter (· != 0xFFFF))
              let fwait := pairs.flatMap (fun x => ((x.2.take (Rly.fwdSteps x.1)).map Stp.waitSync).filter (· != 0xFFFF))
              match (pairs.zipIdx).findSome? (fun x =>
                  (firstBad (Stp.reason h x.1.1 bsig fwait) 0 x.1.2).map (fun y => (y.1, x.2, y.2))) with
              | some (bad, i, s) => .error { reason := bad, code := COMP_PLAN_INVALID, rally := i, step := s }
              | none => .ok { hdr := h, rallies := rs, subs := subs, bsig := bsig, fwait := fwait }

/-- The reads of a plan that passed validation (R33). -/
def PlanRecs.reads (p : PlanRecs) (base : Nat) : List (Nat × Nat) :=
  (base, 64) :: (upto p.rallies.length).map (fun i => (Hdr.rallyTable p.hdr + 64 * i, 64)) ++
    p.rallies.flatMap (fun r => (upto (Rly.subCount r)).map (fun s => (Rly.subTable r + 16 * s, 16))) ++
    p.rallies.flatMap (fun r => (upto (Rly.fwdSteps r + Rly.bwdSteps r)).map (fun s => (Rly.stepAddr r s, 64)))

/-! The walk (R47, R55, R59). -/

/-- The steps of a pass in order (R55): (index, part of the walk, first of a sub-rally recompute). -/
def walkOrder (r : List Byte) (subs : List (List Byte)) (bwd : Bool) : List (Nat × Nat × Bool) :=
  let fwd (e : List Byte) (mode : Nat) : List (Nat × Nat × Bool) :=
    (upto (Sub.fwdCount e)).map (fun i => (Sub.fwdFirst e + i, mode, mode == 2 && i == 0))
  if !bwd then (upto (Rly.fwdSteps r)).map (fun i => (i, 0, false))
  else subs.flatMap (fun e => fwd e 1) ++ ((subs.zipIdx).reverse.flatMap (fun x =>
    (if x.2 + 1 == subs.length && Rly.tailKeep r then [] else fwd x.1 2) ++
    (upto (Sub.bwdCount x.1)).map (fun i => (Sub.bwdFirst x.1 + i, 3, false))))

/-- Number the runs of steps that share one fetch of a piece: neighbouring steps of one part of the walk that name the same piece,
steps that name none left aside (R59, log entry 38). -/
def numberRuns : List (Nat × Nat × Bool × Nat) → Option (Nat × Nat) → Nat → List WalkStep
  | [], _, _ => []
  | (idx, mode, mark, p) :: l, last, n =>
    if p = 0xFFFF then ⟨idx, mode, none, mark⟩ :: numberRuns l last n
    else if last = some (mode, p) then ⟨idx, mode, some (n - 1), mark⟩ :: numberRuns l last n
    else ⟨idx, mode, some n, mark⟩ :: numberRuns l (some (mode, p)) (n + 1)

/-- The walk of a pass, with PIECE read from the step records; a record that cannot be read names no piece here and is judged when
it issues. -/
def Chip.walkOf (c : Chip) (cl : Nat) (q : Rseq) (bwd : Bool) (rally : Nat) : List WalkStep :=
  let r := q.rallies.getD rally []
  let order := walkOrder r (q.subs.getD rally []) bwd
  let piece (idx : Nat) : Nat :=
    let (code, b) := c.peek (rseqAgent cl q.part) (Rly.stepAddr r idx) 64
    if code = COMP_OK then Stp.piece b else 0xFFFF
  numberRuns (order.map (fun x => (x.1, x.2.1, x.2.2, piece x.1))) none 0

/-- Number of runs that a walk has. -/
def runsOf (w : List WalkStep) : Nat := w.foldl (fun m s => match s.piece with | some n => max m (n + 1) | none => m) 0

/-- The pass at a position of a group's queue (R47): (rally, micro-batch). -/
def queuePass (n : Nat) (bwd : Bool) (pos : Nat) : Nat × Nat :=
  (if bwd then n - 1 - pos % n else pos % n, pos / n)

/-- Passes in a group's queue. -/
def queueLen (h : List Byte) (bwd : Bool) : Nat := if bwd && !Hdr.bwd h then 0 else Hdr.rallies h * Hdr.mbs h

/-- Address of gather piece record `n` of a rally: records have varying length, so they are walked from record 0 (R40). -/
def Chip.pieceAddr (c : Chip) (ag : Agent) : Nat → Nat → Except Code Nat
  | a, 0 => .ok a
  | a, n + 1 =>
    let (code, b) := c.peek ag a 64
    if code = COMP_OK then c.pieceAddr ag (a + Pce.span b) n else .error code

/-- Read and validate a gather piece record with its segments (R33, R40). -/
def Chip.readPiece (c : Chip) (ag : Agent) (h r : List Byte) (piece : Nat) :
    Except (Nat × Code) (List Byte × List (List Byte)) :=
  match c.pieceAddr ag (Rly.gatherTable r) (Rly.gatherFirst r + piece) with
  | .error code => .error (0xFA, code)
  | .ok a =>
    match c.peek ag a 64 with
    | (code, b) =>
      if code != COMP_OK then .error (0xFA, code)
      else match c.readRecs ag 32 ((upto (Pce.segs b)).map (fun i => a + 64 + 32 * i)) 0 with
        | .error (code, _) => .error (0xFA, code)
        | .ok l =>
          let bad := Pce.reason h b l
          if bad != 0 then .error (bad, COMP_PLAN_INVALID) else .ok (b, l)

/-- The reads of a gather piece record: the records before it, which are walked, then it and its segments, as far as they can be read (R40). -/
def Chip.pieceReads (c : Chip) (ag : Agent) (r : List Byte) (piece : Nat) : List (Nat × Nat) :=
  let at0 := fun n => c.pieceAddr ag (Rly.gatherTable r) n
  let n := Rly.gatherFirst r + piece
  let recs := (upto (n + 1)).filterMap (fun i => match at0 i with | .ok a => some (a, 64) | .error _ => none)
  match at0 n with
  | .error _ => recs
  | .ok a =>
    let (code, b) := c.peek ag a 64
    if code = COMP_OK then recs ++ (upto (Pce.segs b)).map (fun i => (a + 64 + 32 * i, 32)) else recs

end Sys2Proof.Machine
end

