-- ==== Sys2Proof/Machine/VeArith.lean ====
section
/-! DEFINITION. Lane arithmetic of the vector engine (R215, R228): lanes of a register, results of each width, and the
functions that R228 bounds to 2 ulp. -/

namespace Sys2Proof.Machine

/-- Lanes of a register at width code W (R227): 128 of 4 bytes, or 256 of 2 bytes for BF16. -/
def laneCount (w : Nat) : Nat := if w = 1 then 256 else 128
def laneBytes (w : Nat) : Nat := if w = 1 then 2 else 4

/-- Raw lane `i` of a register. -/
def rawLane (w : Nat) (v : List Byte) (i : Nat) : Nat := recNat v (i * laneBytes w) (laneBytes w)

/-- Lane as a number: FP32, BF16, or an exact integer (INT32, two's complement). -/
def laneVal (w raw : Nat) : FVal :=
  match w with
  | 0 => of32 raw
  | 1 => Fmt.bf16.decode raw
  | _ => let x := sextInt 32 raw; .fin (decide (x < 0)) x.natAbs 0

/-- An FP32 or BF16 result: formed in FP32, then rounded to BF16 for width 1 (R228). -/
def laneFp (w : Nat) (v : FVal) : Nat := if w = 1 then Fmt.bf16.encode .rne v.r32 else v.to32

/-- An INT32 result; one outside the format is not stated by the spec and is a free value (log entry 26). -/
def laneInt (x : Int) (free : Nat) : Nat := if -(2 ^ 31) ≤ x ∧ x < 2 ^ 31 then wrapInt 32 x else free % 2 ^ 32

/-! Functions of R228. -/

/-- Scale used by the fixed-point evaluations below. -/
def fxOne : Nat := 2 ^ 127

/-- 2^(n / 2^b) for 0 ≤ n < 2^b in fixed point of scale `fxOne`, by products of repeated square roots of 2. -/
def exp2Frac (n : Nat) : (b : Nat) → Nat
  | b => ((upto b).foldl (fun (s : Nat × Nat) i =>
      let root := Nat.sqrt (s.2 * fxOne)
      (if bit n (b - 1 - i) then s.1 * root / fxOne else s.1, root)) (fxOne, 2 * fxOne)).1

/-- 2^v for a finite v, to more than 90 bits where |v| is at least 2^-30; below that the result lies beside 1. -/
def exp2Fin (neg : Bool) (m : Nat) (e : Int) : FVal :=
  if m = 0 then .fin false 1 0
  else if Nat.log2 m + e < -30 then .fin false (if neg then 2 ^ 100 - 1 else 2 ^ 100 + 1) (-100)
  else
    let b := (-e).toNat
    let x : Int := if neg then -((m <<< e.toNat : Nat) : Int) else ((m <<< e.toNat : Nat) : Int)
    let ip := x.fdiv (2 ^ b : Nat)
    let f := (x.fmod (2 ^ b : Nat)).toNat
    .fin false (exp2Frac f b) (ip - 127)

/-- log2 of m × 2^e, to 60 fractional bits, by repeated squaring. -/
def log2Fin (m : Nat) (e : Int) : FVal :=
  let k := Nat.log2 m
  let y := if k ≤ 127 then m <<< (127 - k) else m >>> (k - 127)
  let r := (upto 60).foldl (fun (s : Nat × Nat) _ =>
    let q := s.1 * s.1 / fxOne
    if 2 * fxOne ≤ q then (q / 2, 2 * s.2 + 1) else (q, 2 * s.2)) (y, 0)
  let t : Int := ((k : Int) + e) * (2 ^ 60 : Nat) + (r.2 : Nat)
  .fin (decide (t < 0)) t.natAbs (-60)

/-- 1 / (m × 2^e) to 120 bits and a sticky bit. -/
def rcpFin (neg : Bool) (m : Nat) (e : Int) : FVal :=
  let sh := Nat.log2 m + 120
  let q := 2 ^ sh / m
  .fin neg (2 * q + b2n (2 ^ sh % m != 0)) (-(sh : Int) - e - 1)

/-- Square root of m × 2^e with enough bits and a sticky bit. -/
def sqrtFin (m : Nat) (e : Int) : FVal :=
  let sh := 120 + (if (e - 120) % 2 = 0 then 0 else 1)
  let n := m <<< sh
  let s := Nat.sqrt n
  .fin false (2 * s + b2n (s * s != n)) ((e - sh) / 2 - 1)

/-- One ulp of FP32 at a finite value: the least subnormal at 0. -/
def ulp32 (m : Nat) (e : Int) : FVal := .fin false 1 (if m = 0 then -149 else max ((Nat.log2 m : Int) + e - 23) (-149))

/-- The FP32 value whose magnitude code is |z|, with z's sign. -/
def of32Code (z : Int) : FVal := Fmt.fp32.decode (Fmt.fp32.signBit (decide (z < 0)) + z.natAbs)

/-- A finite FP32 result within 2 ulp of `v`: a free choice among the finite values no further than 2 ulp from it (R228, log entry
27). -/
def within2 (v : FVal) (free : Nat) : FVal :=
  match v, v.r32 with
  | .fin n m e, .fin _ m' e' =>
    let code : Int := Fmt.fp32.encode .rne (.fin false m' e')
    let z := if n then -code else code
    let l := ((upto 9).map (fun i => z + i - 4)).filter (fun x =>
      decide (x.natAbs ≤ Fmt.fp32.maxFinite) &&
        !((ulp32 m e).scale 1).lt ((of32Code x).add (FVal.fin n m e).neg).abs)
    match l[free % l.length]? with
    | some x => if x = 0 then .fin n 0 0 else of32Code x
    | none => v.r32
  | _, w => w

/-- VEXP2, VLOG2, VRCP, VRSQRT on one value (R228): IEEE 754 results for special inputs. `op` counts from 0x10. -/
def veFun (op : Nat) (v : FVal) (free : Nat) : FVal :=
  match op, v with
  | _, .nan => .nan
  | 0, .inf neg => if neg then FVal.zero else .inf false
  | 0, .fin neg m e =>
    if m = 0 then .fin false 1 0
    else if !neg && !(FVal.fin false m e).lt (.fin false 128 0) then .inf false
    else if neg && !(FVal.fin false m e).lt (.fin false 160 0) then within2 (.fin false 1 (-160)) free
    else within2 (exp2Fin neg m e) free
  | 1, .inf neg => if neg then .nan else .inf false
  | 1, .fin neg m e => if m = 0 then .inf true else if neg then .nan else within2 (log2Fin m e) free
  | 2, .inf neg => .fin neg 0 0
  | 2, .fin neg m e => if m = 0 then .inf neg else within2 (rcpFin neg m e) free
  | _, .inf neg => if neg then .nan else FVal.zero
  | _, .fin neg m e =>
    if m = 0 then .inf neg else if neg then .nan else
      match rcpFin false m e with
      | .fin _ q f => within2 (sqrtFin q f) free
      | w => w

/-- VSQRT, correctly rounded (R228). -/
def veSqrt : FVal → FVal
  | .nan => .nan
  | .inf neg => if neg then .nan else .inf false
  | .fin neg m e => if m = 0 then .fin neg 0 0 else if neg then .nan else (sqrtFin m e).r32

/-- Maximum with NaN when either is NaN (R228). Of two zeros of unlike sign the spec does not say which: `z` chooses. -/
def fmax (z : Bool) (a b : FVal) : FVal :=
  if a == .nan || b == .nan then .nan else if a.lt b then b else if b.lt a then a else if z then a else b
def fmin (z : Bool) (a b : FVal) : FVal := (fmax z a.neg b.neg).neg

/-- Pairwise tree over the values of the active lanes, adjacent pairs first (R228; log entry 28). -/
def pairTree {α : Type} (op : α → α → α) : Nat → List α → Option α
  | _, [] => none
  | _, [x] => some x
  | 0, x :: _ => some x
  | fuel + 1, l => pairTree op fuel (pairs l)
where
  pairs : List α → List α
    | a :: b :: r => op a b :: pairs r
    | l => l

/-- Merge of two lanes of which either may be inactive. -/
def laneMerge {α : Type} (op : α → α → α) : Option α → Option α → Option α
  | some a, some b => some (op a b)
  | none, y => y
  | x, none => x

/-- The fixed tree over lane positions: its shape is the same whatever the mask; an inactive lane adds nothing (R228; log entry 28). -/
def laneTree {α : Type} (op : α → α → α) (l : List (Option α)) : Option α := (pairTree (laneMerge op) 9 l).join

/-- Comparison codes of VCMP (R228): eq, ne, lt, le, gt, ge, unordered. -/
def veCmp (rel : Nat) (a b : FVal) : Bool :=
  let un := a == .nan || b == .nan
  match rel with
  | 0 => a.eqv b
  | 1 => un || !a.eqv b
  | 2 => a.lt b
  | 3 => !un && !b.lt a
  | 4 => b.lt a
  | 5 => !un && !a.lt b
  | 6 => un
  | _ => false

end Sys2Proof.Machine
end

