-- ==== Sys2Proof/Machine/VeCore.lean ====
section
/-! DEFINITION. The vector engine's threads and requests (R215-R226, R230-R233): contexts, round robin, slots and the bank
cap, requests and their return, failures of a run. -/

namespace Sys2Proof.Machine

/-! Instruction fields (R227). -/

def viOpc (i : Nat) : Nat := field i 0 8
def viD (i : Nat) : Nat := field i 8 5
def viA (i : Nat) : Nat := field i 13 5
def viB (i : Nat) : Nat := field i 18 5
def viC (i : Nat) : Nat := field i 23 5
def viW (i : Nat) : Nat := field i 28 2
def viMask (i : Nat) : Nat := field i 30 2
def viRnd (i : Nat) : Nat := field i 32 3
def viFmt (i : Nat) : Nat := field i 35 4
def viImmU (i : Nat) : Nat := field i 40 24
def viImm (i : Nat) : Int := sextInt 24 (viImmU i)

/-- Opcodes of R228. -/
def knownVeOp (o : Nat) : Bool :=
  (decide (1 ≤ o) && decide (o ≤ 0xA)) || (decide (0x10 ≤ o) && decide (o ≤ 0x14)) ||
  (decide (0x18 ≤ o) && decide (o ≤ 0x1A)) || (decide (0x20 ≤ o) && decide (o ≤ 0x22)) ||
  (decide (0x28 ≤ o) && decide (o ≤ 0x2D)) || (decide (0x30 ≤ o) && decide (o ≤ 0x32)) || o == 0x38 || o == 0x39 ||
  (decide (0x40 ≤ o) && decide (o ≤ 0x4A)) || o == 0x4F

/-- The RESERVED check of R232, except VCMP's own rule. -/
def viReserved (i : Nat) : Bool :=
  bit i 39 || viW i == 3 || (viOpc i == 0x20 && decide (4 < viRnd i)) || (viOpc i != 0x20 && viRnd i != 0)

/-! Contexts. -/

def Chip.veOf (c : Chip) (cl k : Nat) : Ve := KMap.getD c.ves (coreKey cl k) {}
def Chip.setVe (c : Chip) (cl k : Nat) (v : Ve) : Chip := { c with ves := c.ves.insert (coreKey cl k) v }
def Ve.ctx (v : Ve) (t : Nat) : VeCtx := KMap.getD v.ctxs t {}
def Chip.ctx (c : Chip) (cl k t : Nat) : VeCtx := (c.veOf cl k).ctx t
def Chip.setCtx (c : Chip) (cl k t : Nat) (x : VeCtx) : Chip :=
  let v := c.veOf cl k
  c.setVe cl k { v with ctxs := v.ctxs.insert t x }

def VeCtx.v (x : VeCtx) (r : Nat) : List Byte := KMap.getD x.vec r (List.replicate 512 0)
def VeCtx.s (x : VeCtx) (r : Nat) : Nat := KMap.getD x.sca r 0
def VeCtx.setV (x : VeCtx) (r : Nat) (b : List Byte) : VeCtx := { x with vec := x.vec.insert r b }
def VeCtx.setS (x : VeCtx) (r n : Nat) : VeCtx := { x with sca := x.sca.insert r (n % 2 ^ 64) }

/-- Is a lane active under the instruction's mask; m0 reads all ones (R215)? -/
def VeCtx.active (x : VeCtx) (i lane : Nat) : Bool := viMask i == 0 || bit (KMap.getD x.mask (viMask i) 0) lane

/-- The run that a context belongs to, while it is not stopped. -/
def Ve.liveRun (v : Ve) (x : VeCtx) : Option VeRun :=
  x.run.bind (fun n => v.runs.find? (fun r => r.seq = n && r.stop.isNone))

/-- Is a context ready to issue (R216, R219)? -/
def Ve.ready (v : Ve) (t : Nat) : Bool :=
  let x := v.ctx t
  (v.liveRun x).isSome && !x.done && x.wait == .ready

/-- The thread that issues next: round robin from the one after the last (R215); none during a fallback (R219). -/
def Chip.vePick (c : Chip) (cl k : Nat) : Option Nat :=
  let v := c.veOf cl k
  if (c.meOf cl k).fallback then none
  else ((upto 8).map (fun i => (v.last + 1 + i) % 8)).find? v.ready

/-! Failures (R232). -/

/-- Drop what a stopped run's threads still wait for: counters and shelf claims. -/
def Chip.veUnwait (c : Chip) (cl k t : Nat) : Chip :=
  let c := c.dropWaits (.ve cl k t)
  let drop (s : Shelf) : Shelf := { s with waiting := s.waiting.filter (fun w => w.agent != .ve cl k t) }
  { c with shelves := c.shelves.map (fun e => (e.1, drop e.2)) }

/-- Is a request a load? -/
def VeReq.isLoad (r : VeReq) : Bool := match r.op with | .load _ _ => true | _ => false

/-- A thread of a run fails: the run stops with a code, VE_STATUS and VE_ERR record why (R232). The stores already issued keep the requests that
they have not sent yet. -/
def Chip.veFail (c : Chip) (cl k t reason pc : Nat) (code : Code) (addr : Option Nat) : Chip :=
  let v := c.veOf cl k
  match v.liveRun (v.ctx t) with
  | none => c
  | some r =>
    let st := if reason = 9 then St.VE_TIMEOUT
      else if reason = 4 || reason = 5 || reason = 7 || reason = 8 then St.VE_FAULT else St.VE_INST_INVALID
    let ctxs := forAll r.threads v.ctxs (fun m u =>
      let x := v.ctx u
      let todo := x.todo.filter (fun q => !q.isLoad)
      m.insert u { x with todo := todo, wait := if todo.isEmpty then .ready else x.wait })
    let runs := v.runs.map (fun x => if x.seq = r.seq then { x with stop := some code } else x)
    let c := c.setVe cl k { v with ctxs := ctxs, runs := runs }
    let c := forAll r.threads c (fun c u => c.veUnwait cl k u)
    let c := (c.raise (.ve cl k) st).setFs (.ve cl k)
      [(R.VE_ERR_REASON, reason), (R.VE_ERR_THREAD, t), (R.VE_ERR_PC, pc)]
    match addr with
    | some a => c.setF (.ve cl k) R.VE_FAULT_ADDR_ADDR a
    | none => c

/-- Go on at `pc`; a negative target lies far beyond the scratchpad. -/
def Chip.veGoto (c : Chip) (cl k t : Nat) (pc : Int) : Chip := c.setCtx cl k t { c.ctx cl k t with pc := wrapInt 64 pc }

/-- Go on to the next instruction. -/
def Chip.veNext (c : Chip) (cl k t : Nat) : Chip := c.veGoto cl k t ((c.ctx cl k t).pc + 8 : Nat)

/-- Wait for a reason, behind every thread that waits already. -/
def Chip.veHold (c : Chip) (cl k t : Nat) (w : VeWait) : Chip :=
  let v := c.veOf cl k
  let x := v.ctx t
  c.setVe cl k { v with ctxs := v.ctxs.insert t { x with wait := w, age := v.ageCtr }, ageCtr := v.ageCtr + 1 }

/-! Addresses (R224-R226). -/

/-- Local address behind a fabric address of this device; none for another device (R27). -/
def Chip.localOf (c : Chip) (a : Nat) : Option Nat :=
  if c.isSelf (field a 48 12) then some (a % 2 ^ 48) else none

/-- Offset in the core's own scratchpad stride. -/
def ownOff (cl k a : Nat) : Option Nat :=
  if spBase cl k ≤ a ∧ a < spBase cl k + 0x400000 then some (a - spBase cl k) else none

/-- May the VE write byte `a` (R226): not shelf 63, not the cache ways, in the working area only the planner data? -/
def Chip.veWritable (c : Chip) (a : Nat) : Bool :=
  match placeOf a with
  | .scratch cl k o =>
    !(decide (spillBase ≤ o)) && !(decide (0x280000 ≤ o) && decide (o < 0x2B8000)) &&
      !(decide (0x280000 - 0x10000 * c.cacheWays cl k ≤ o) && decide (o < 0x280000))
  | _ => true

/-- Bytes that a request covers. -/
def VeOp.len : VeOp → Nat
  | .load n _ => n
  | .store _ bs => bs.length
  | .add size l => (l.map (fun e => e.1 + size)).foldl max 0

/-- Does a request break R225 or R226, or name an offset beyond 3 MiB of the core's own scratchpad? -/
def Chip.veOutOfRange (c : Chip) (cl k : Nat) (r : VeReq) : Bool :=
  match c.localOf r.addr with
  | none => match r.op with | .add _ _ => true | _ => false
  | some a =>
    let last := a + r.op.len - 1
    let beyond := match ownOff cl k a with | some o => decide (spSize < o + r.op.len) | none => false
    let writes := match r.op with | .load _ _ => false | _ => !(c.veWritable a && c.veWritable last)
    let addBad := match r.op with
      | .add _ _ => (match placeOf a with | .commons _ _ => false | .scratch x y _ => !(x == cl && y == k) | _ => true)
      | _ => false
    beyond || writes || addBad

/-- Split [a, a + n) at 128-byte boundaries: (address, length). -/
def lines (a n : Nat) : List (Nat × Nat) :=
  (upto (if n = 0 then 0 else (a + n - 1) / 128 - a / 128 + 1)).map (fun i =>
    let lo := max a ((a / 128 + i) * 128)
    (lo, min (a + n) ((a / 128 + i + 1) * 128) - lo))

/-! Slots (R220, R221). -/

/-- Most shared slots of one thread (R238). -/
def Chip.sharedMax (c : Chip) (cl k : Nat) : Nat :=
  let v := c.getF (.ve cl k) R.VE_CTRL_SHARED_MAX
  if v = 0 then 16 else satNat 32 v

/-- Cache context of a thread's run (R223). -/
def Ve.cctx (v : Ve) (x : VeCtx) : Nat := match x.run.bind (fun n => v.runs.find? (fun r => r.seq = n)) with
  | some r => r.cctx | none => 0

/-- Does a request need no slot: the core's own scratchpad, or a hit in its own ways, with no older request of the thread
to the same line outstanding (R217, R223)? -/
def Chip.veDirect (c : Chip) (cl k t : Nat) (r : VeReq) : Bool :=
  let v := c.veOf cl k
  match c.localOf r.addr with
  | none => false
  | some a =>
    if v.slots.any (fun s => !s.dead && s.thread = t && s.req.addr / 128 = r.addr / 128) then false
    else if (ownOff cl k a).isSome then true
    else isLpddr a && (c.cacheHit cl k (v.cctx (v.ctx t)) a).isSome

/-- Bank of an address of this device's LPDDR6 (R221). -/
def Chip.bankOf (c : Chip) (a : Nat) : Option (Nat × Nat) :=
  if isLpddr a && decide (a < c.lpddrTop) then (let m := c.memMap (c.viewAddr a); some (m.grp, m.stripe / 64 % 16)) else none

/-- Does a store cover its whole line, so that a miss needs no fill (R176)? -/
def VeReq.wholeLine (r : VeReq) : Bool := match r.op with
  | .store en bs => r.addr % 128 = 0 && bs.length = 128 && en % 2 ^ 128 = ones 128
  | _ => false

/-- Addresses of the LPDDR6 accesses that a request's slots carry: the request itself; in a context with ways its fill, if it needs one, and the
write-back of a dirty victim (R176, R220). -/
def Chip.veAccesses (c : Chip) (cl k t : Nat) (r : VeReq) : List Nat :=
  let v := c.veOf cl k
  match c.localOf r.addr with
  | none => []
  | some a =>
    if !isLpddr a then []
    else
      let ctx := v.cctx (v.ctx t)
      if (c.ctxWays cl k ctx).isEmpty then [a]
      else (if r.wholeLine then [] else [a]) ++ (match c.fillVictim cl k ctx (lineSet a) with
        | some l => if l.dirty then [l.addr] else []
        | none => [])

/-- Slots that a request takes: two for a fill whose victim is dirty (R220). -/
def Chip.veNeeds (c : Chip) (cl k t : Nat) (r : VeReq) : Nat := max 1 (c.veAccesses cl k t r).length

/-- Banks on which a request's slots count: each access on its own bank (R221). -/
def Chip.veBanks (c : Chip) (cl k t : Nat) (r : VeReq) : List (Nat × Nat) := (c.veAccesses cl k t r).filterMap c.bankOf

/-- Slots that hold requests to a bank. -/
def Ve.bankUse (v : Ve) (b : Nat × Nat) : Nat := (v.slots.map (fun s => s.banks.count b)).sum

/-- The banks of a request to which it would be the 17th (R221). -/
def Chip.veFullBanks (c : Chip) (cl k t : Nat) (r : VeReq) : List (Nat × Nat) :=
  let bs := c.veBanks cl k t r
  bs.filter (fun b => decide (16 < (c.veOf cl k).bankUse b + bs.count b))

/-- Shared slots that thread `t` needs for `n` slots once its free reserved ones are taken, and those it would then hold (R220). -/
def Ve.sharedNeed (v : Ve) (t n : Nat) : Nat × Nat :=
  let mine := v.slots.filter (fun s => s.thread = t)
  let sh := n - min n (2 - (mine.map (·.own)).sum)
  (sh, (mine.map (·.shared)).sum + sh)

/-- Does an older thread wait for reason `w` with a next request of which `f` holds? A thread whose wait begins now has no age and is the youngest. -/
def Chip.veAhead (c : Chip) (cl k t : Nat) (age : Option Nat) (w : VeWait) (f : Nat → VeReq → Bool) : Bool :=
  (upto 8).any (fun u =>
    let x := (c.veOf cl k).ctx u
    u != t && x.wait == w && (match age with | some a => decide (x.age < a) | none => true) && x.todo.head?.elim false (f u))

/-- Does an older thread wait for shared slots that it may hold (R220)? -/
def Chip.veOlder (c : Chip) (cl k t : Nat) (age : Option Nat) : Bool :=
  c.veAhead cl k t age .slot (fun u r => decide (((c.veOf cl k).sharedNeed u (c.veNeeds cl k u r)).2 ≤ c.sharedMax cl k))

/-- Must a request wait for a bank: it would be the 17th there, or an older thread waits on that bank and issues first (R221, R222)? -/
def Chip.veBankFull (c : Chip) (cl k t : Nat) (age : Option Nat) (r : VeReq) : Bool :=
  !(c.veFullBanks cl k t r).isEmpty ||
    c.veAhead cl k t age .bank (fun u q => (c.veFullBanks cl k u q).any (c.veBanks cl k t r).contains)

/-- Grant of `n` slots to a thread: from its reserved ones first, then shared ones, which waiting threads receive oldest first (R220):
(shared, own). Two slots are granted together: the older thread keeps the pool for both (log entry 110). -/
def Chip.veGrant (c : Chip) (cl k t n : Nat) (age : Option Nat) : Option (Nat × Nat) :=
  let v := c.veOf cl k
  let (sh, held) := v.sharedNeed t n
  if sh = 0 || (decide ((v.slots.map (·.shared)).sum + sh ≤ 32) && decide (held ≤ c.sharedMax cl k) && !c.veOlder cl k t age)
  then some (sh, n - sh) else none

/-- A request cannot be issued: the thread waits, in its place when it waited for the same reason before. A stall at the bank cap is noted once
(R221). -/
def Chip.veStall (c : Chip) (cl k t : Nat) (w was : VeWait) (age : Option Nat) : Chip :=
  match (if w == was then age else none) with
  | some a => c.setCtx cl k t { c.ctx cl k t with wait := w, age := a }
  | none => (c.raiseIf (w == .bank) (.ve cl k) St.VE_BANK_CAP).veHold cl k t w

/-! Performing a request. -/

/-- Agent of a thread's run. -/
def Chip.veAgent (c : Chip) (cl k t : Nat) : Agent :=
  let v := c.veOf cl k
  ⟨(v.ctx t).run.bind (fun n => (v.runs.find? (fun r => r.seq = n)).map (·.part)), cl / 8⟩

/-- Put loaded bytes where they belong. -/
def VeCtx.deliver (x : VeCtx) (d : VeDest) (bs : List Byte) : VeCtx :=
  match d with
  | .image off => { x with image := splice x.image off bs }
  | .lanes size l => { x with image := l.foldl (fun im e => splice im (4 * e.1) ((bs.drop e.2).take size)) x.image }

/-- One atomic addition at a local address, in FP32 or BF16 with RNE (R225). -/
def Chip.veAddAt (c : Chip) (io : RegIo) (ag : Agent) (a size raw : Nat) : Chip × Code :=
  let w := if size = 2 then 1 else 0
  let (c, code, old) := c.agentReadIo io ag a size
  if code != COMP_OK then (c, code)
  else c.agentWriteIo io ag a (ones size) (leBytes size (laneFp w ((laneVal w (leNat old)).add (laneVal w raw))))

/-- Perform a request of this device at its target (R175, R224, R225): its code; a load of a run that still lives delivers
its bytes. -/
def Chip.vePerform (c : Chip) (io : RegIo) (cl k t : Nat) (live : Bool) (r : VeReq) : Chip × Code :=
  let ag := c.veAgent cl k t
  let v := c.veOf cl k
  let ctx := v.cctx (v.ctx t)
  let a := r.addr % 2 ^ 48
  match r.op with
  | .load n d =>
    let (c, code, bs) := if isLpddr a then c.cacheLoad cl k ctx ag a n else c.agentReadIo io ag a n
    if code = COMP_OK && live then (c.setCtx cl k t ((c.ctx cl k t).deliver d bs), code) else (c, code)
  | .store en bs => if isLpddr a then c.cacheStore cl k ctx ag a en bs else c.agentWriteIo io ag a en bs
  | .add size l => l.foldl (fun (s : Chip × Code) e =>
      if s.2 != COMP_OK then s else s.1.veAddAt io ag (a + e.1) size e.2) (c, COMP_OK)

/-- A request to another device as messages (R330): a write names one run of bytes (R328), so a store with gaps takes several. Source and tag are
filled in when they are sent. -/
def VeReq.toMsgs (r : VeReq) (part : Nat) : List Msg :=
  let m : Msg := { opc := 1, vc := 0, dst := field r.addr 48 12, src := 0, part := part, addr := r.addr % 2 ^ 48, len := r.op.len }
  match r.op with
  | .store en bs => (enabledRuns en bs.length).map (fun e =>
      { m with opc := 2, addr := r.addr % 2 ^ 48 + e.1, len := e.2, data := (bs.drop e.1).take e.2 })
  | _ => [m]

/-- Send a request on its way: on this device through the network on chip, with its response (R283); to another as messages, with their tags in order. -/
def Chip.veSend (c : Chip) (cl k t : Nat) (r : VeReq) : Chip × List Nat :=
  match c.localOf r.addr with
  | some a => match r.op with
    | .load n _ => (c.nocTrip (cl / 8) (c.dieOf a) 0 0 n, [])
    | .store _ bs => (c.nocTrip (cl / 8) (c.dieOf a) 0 bs.length 0, [])
    | .add size l => (c.nocTrip (cl / 8) (c.dieOf a) 0 (size * l.length) 0, [])
  | none => (r.toMsgs ((c.veAgent cl k t).part.getD 0)).foldl (fun s m =>
      let (c, tag) := s.1.fabRequest (cl / 8) (.ve cl k) none m
      (c, s.2 ++ [tag])) (c, [])

/-- Issue the requests of a thread in order, as far as slots allow (R220-R222, R224). `was` and `age` are the wait that this attempt ends, and its
place. -/
def Chip.veIssueReqs (c : Chip) (cl k t : Nat) (was : VeWait) (age : Option Nat) : Nat → Chip
  | 0 => c
  | fuel + 1 =>
    let x := c.ctx cl k t
    match x.todo with
    | [] => c
    | r :: rest =>
      if c.veDirect cl k t r then
        let (c, code) := (c.setCtx cl k t { x with todo := rest }).vePerform plainIo cl k t true r
        let c := if code != COMP_OK then c.veFail cl k t 7 r.pc code (some r.addr) else c
        c.veIssueReqs cl k t .ready none fuel
      else if c.veBankFull cl k t age r then c.veStall cl k t .bank was age
      else match c.veGrant cl k t (c.veNeeds cl k t r) age with
        | none => c.veStall cl k t .slot was age
        | some (sh, own) =>
          let x := { x with todo := rest, loads := x.loads + b2n r.isLoad }
          let banks := c.veBanks cl k t r
          let (c, tags) := c.veSend cl k t r
          let v := c.veOf cl k
          let c := c.setVe cl k { v with ctxs := v.ctxs.insert t x, slots := v.slots ++ [⟨t, sh, own, banks, tags, false, r⟩] }
          (c.addF (.ve cl k) R.VE_REQUESTS (sh + own)).veIssueReqs cl k t .ready none fuel

/-- Register bytes after a load: each active lane takes its element of the image, decoded from FMT to the lane width,
unchanged where FMT is the lane's own format (R224, R228; log entry 30); a gather's image holds one element every four bytes. -/
def VeCtx.loaded (x : VeCtx) : VeCtx :=
  let i := x.inst
  let w := viW i
  let raw (lane : Nat) : Nat :=
    if viOpc i = 0x2A then recNat x.image (4 * lane) 4 % 2 ^ elemBits (viFmt i) else rawElem (viFmt i) x.image lane
  let val (lane : Nat) : Nat :=
    if w = 2 || (w = 0 && viFmt i = 8) || (w = 1 && viFmt i = 0) then raw lane
    else match fmtOf (viFmt i) with | some f => laneFp w (f.decode (raw lane)) | none => 0
  let old := x.v (viD i)
  x.setV (viD i) (((upto (laneCount w)).map (fun lane =>
    leBytes (laneBytes w) (if x.active i lane then val lane else rawLane w old lane))).flatten)

/-- An instruction's requests have all been issued, and its loads returned: a load writes its register; the thread is ready
again (R216, R217). -/
def Chip.veFinish (c : Chip) (cl k t : Nat) : Chip :=
  let v := c.veOf cl k
  let x := v.ctx t
  if (v.liveRun x).isNone || !x.todo.isEmpty then c
  else if 0 < x.loads then (if x.wait = .data then c else c.setCtx cl k t { x with wait := .data })
  else
    let o := viOpc x.inst
    let x := if x.image.isEmpty then x
      else if o = 0x28 || o = 0x2A then x.loaded
      else if o = 0x47 then x.setS (viD x.inst) (leNat x.image) else x
    let x := { x with image := [] }
    c.setCtx cl k t { x with wait := .ready, inst := 0 }

/-- Start the requests of an instruction: RANGE is checked first (R232), then they issue in order. -/
def Chip.veStart (c : Chip) (cl k t inst : Nat) (image : List Byte) (reqs : List VeReq) : Chip :=
  let x := c.ctx cl k t
  if reqs.any (c.veOutOfRange cl k) then c.veFail cl k t 5 x.pc COMP_VE_FAULT none
  else
    let c := c.setCtx cl k t { x with todo := reqs, image := image, inst := inst, pc := x.pc + 8 }
    (c.veIssueReqs cl k t .ready none reqs.length).veFinish cl k t

/-- Let the waiting threads go on, oldest first: slots and banks (R220, R221), fences (R223). -/
def Chip.veWake (c : Chip) (cl k : Nat) : Chip :=
  let v := c.veOf cl k
  let ws := (upto 8).filter (fun t => (v.ctx t).wait == .slot || (v.ctx t).wait == .bank)
  let ordered := (upto 8).filterMap (fun n =>
    ws.find? (fun t => (ws.filter (fun u => (v.ctx u).age < (v.ctx t).age)).length = n))
  let c := forAll ordered c (fun c t =>
    let x := c.ctx cl k t
    let c := (c.setCtx cl k t { x with wait := .ready }).veIssueReqs cl k t x.wait (some x.age) x.todo.length
    if (c.ctx cl k t).todo.isEmpty then c.veFinish cl k t else c)
  forAll (upto 8) c (fun c t =>
    let x := c.ctx cl k t
    if x.wait == .fence && (c.veOf cl k).slots.all (fun s => s.dead || s.thread != t) then c.setCtx cl k t { x with wait := .ready } else c)

/-- The answer to a request's messages once all of them have answered: the first code that is not COMP_OK, and the bytes of a load. -/
def Chip.veAnswer (c : Chip) (tags : List Nat) : Option (Code × List Byte) :=
  let l := tags.filterMap c.fabAnswer
  if l.length < tags.length then none
  else some (((l.map (·.1)).find? (· != COMP_OK)).getD COMP_OK, (l.map (·.2)).flatten)

/-- Does a request of this device get a retry response, so that it is sent again and its slots stay held (R362)? -/
def Chip.veRetried (c : Chip) (cl k : Nat) (s : VeSlot) : Bool :=
  !s.dead && (match c.localOf s.req.addr with
    | some a => c.retryAt (c.veAgent cl k s.thread) a
    | none => false)

/-- Does a session hold a request to this device's LPDDR6 (R311)? -/
def Chip.veHeld (c : Chip) (s : VeSlot) : Bool :=
  s.tags.isEmpty && (match c.localOf s.req.addr with
    | some a => c.heldAt a s.req.op.len
    | none => false)

/-- The response to request `n` of those that hold slots arrives (R217, R220, R223): its slots are released; a request of this
device is performed now, one to another device has had its response. A response to an abandoned thread is discarded (R233). -/
def Chip.veReturn (c : Chip) (io : RegIo) (cl k n lat : Nat) : Chip :=
  let v := c.veOf cl k
  match v.slots[n]? with
  | none => c
  | some s =>
    let t := s.thread
    let answer := c.veAnswer s.tags
    if answer.isNone || c.veRetried cl k s || c.veHeld s ||
      (v.slots.take n).any (fun o => !o.dead && o.thread = t && o.req.addr / 128 = s.req.addr / 128) then c
    else
      let live := !s.dead && (v.liveRun (v.ctx t)).isSome
      let x := v.ctx t
      let ctxs := if s.dead then v.ctxs else v.ctxs.insert t { x with loads := x.loads - b2n s.req.isLoad }
      let c := c.setVe cl k { v with slots := v.slots.eraseIdx n, ctxs := ctxs }
      let c := forAll s.tags c (fun c g => c.fabEnd g)
      let c := if c.getF (.ve cl k) R.VE_MAX_LAT < lat then c.setF (.ve cl k) R.VE_MAX_LAT lat else c
      let (c, code) := if s.dead then (c, COMP_OK)
        else if s.tags.isEmpty then c.vePerform io cl k t live s.req
        else match answer, s.req.op with
          | some (code, bs), .load _ d => (if code = COMP_OK && live then c.setCtx cl k t ((c.ctx cl k t).deliver d bs) else c, code)
          | a, _ => (c, (a.map (·.1)).getD COMP_OK)
      let c := if code != COMP_OK then c.veFail cl k t 7 s.req.pc code (some s.req.addr) else c
      let c := if (c.ctx cl k t).wait == .data then c.veFinish cl k t else c
      c.veWake cl k

/-- A reset abandons the threads of a core (R233): the requests of this device that are in the NoC are performed at their targets, but for those
of a context with cache ways, whose lines are lost (R178); the slots stay held until the responses arrive. What the runs and a fallback have added to the cycle counters of R238
until then is a free number of cycles. -/
def Chip.veAbandon (c : Chip) (cl k : Nat) : Chip :=
  let v := c.veOf cl k
  let spent := (if v.runs.isEmpty then [] else [R.VE_STARVE_CYC, R.VE_SLOT_CYC, R.VE_BANK_CAP_CYC]) ++
    (if (c.meOf cl k).fallback then [R.VE_FALLBACK_CYC] else [])
  let c := forAll spent c (fun c f => (c.addF (.ve cl k) f (Config.waitCycles c.freeCtr).toNat).tick)
  let c := forAll v.slots c (fun c s =>
    if s.dead || !s.tags.isEmpty || s.req.isLoad || (isLpddr (s.req.addr % 2 ^ 48) && !(c.ctxWays cl k (v.cctx (v.ctx s.thread))).isEmpty) then c
    else (c.vePerform plainIo cl k s.thread false s.req).1)
  let slots := v.slots.map (fun s => { s with dead := true })
  if slots.isEmpty then { c with ves := c.ves.erase (coreKey cl k) } else c.setVe cl k { slots := slots }

/-! Runs (R230-R232). -/

/-- Does a VE_RUN break R230, or R365 in a share set? -/
def veBadRun (bs : List Byte) (shared : Bool) : Bool :=
  field (recNat bs 1 1) 1 7 != 0 || recNat bs 2 1 == 0 || field (recNat bs 3 1) 3 5 != 0 ||
    field (recNat bs 4 4) 22 10 != 0 || field (recNat bs 8 4) 22 10 != 0 || recNat bs 4 4 % 8 != 0 ||
    recNat bs 8 4 % 16 != 0 || !allZero (bs.drop 0xC) || (shared && field (recNat bs 3 1) 1 2 != 0)

/-- A VE_RUN that fails before any thread starts (R232). -/
def Chip.veRunRefuse (c : Chip) (cl k reason : Nat) (code : Code) : Chip :=
  let q := c.seqOf cl k
  ((c.raise (.ve cl k) (if reason = 5 then St.VE_FAULT else St.VE_INST_INVALID)).setFs (.ve cl k)
    [(R.VE_ERR_REASON, reason), (R.VE_ERR_THREAD, 0), (R.VE_ERR_PC, q.slotOff q.slot)]).seqStop cl k code

/-- VE_RUN (R230, R231): refused, held until the named contexts are idle, or started. -/
def Chip.veRun (c : Chip) (cl k : Nat) : Chip :=
  match c.seqAt cl k 0xB with
  | none => c
  | some bs =>
    let p := c.seqPart cl k
    let ts := (upto 8).filter (bit (recNat bs 2 1))
    let args := field (recNat bs 8 4) 0 22
    if veBadRun bs (c.shared p) then c.veRunRefuse cl k 0xA COMP_VE_INST_INVALID
    else if spSize < args + 240 then c.veRunRefuse cl k 5 COMP_VE_FAULT
    else if c.spDenied cl k p [(args, args + 240), (field (recNat bs 4 4) 0 22, field (recNat bs 4 4) 0 22 + 8)] then c.seqDenied cl k
    else if ts.any (fun t => (c.ctx cl k t).run.isSome) then c
    else
      let (c, n) := c.seqNumber cl k
      let ctx := field (recNat bs 3 1) 0 3
      let cctx := if c.shared p then 2 * c.getF (.part p) R.PART_STATE_MEMBER + ctx % 2 else ctx
      let v := c.veOf cl k
      let start (x : VeCtx) (i : Nat) : VeCtx :=
        let x := { x with run := some n, done := false, pc := field (recNat bs 4 4) 0 22, wait := .ready, todo := [],
                          loads := 0, image := [], inst := 0, cvts := 0 }
        forAll (upto 30) ((x.setS 0 i).setS 1 ts.length) (fun x j => x.setS (2 + j) (leNat (c.spRead cl k (args + 8 * j) 8)))
      let ctxs := forAll ts.zipIdx v.ctxs (fun m e => m.insert e.1 (start (v.ctx e.1) e.2))
      let c := c.setVe cl k { v with ctxs := ctxs, runs := v.runs ++ [⟨n, ts, cctx, p, none⟩] }
      let c := c.seqAdvance cl k
      let q := c.seqOf cl k
      let c := c.setSeq cl k { q with runs := q.runs ++ [n], veHold := if bit (recNat bs 1 1) 0 then none else some n }
      c

/-- Has a run ended: every thread has exited or the run has stopped, and no slot is held for it (R231, R232)? -/
def Ve.runEnded (v : Ve) (r : VeRun) : Bool :=
  (r.stop.isSome || r.threads.all (fun t => (v.ctx t).done)) &&
    v.slots.all (fun s => s.dead || !r.threads.contains s.thread) && r.threads.all (fun t => (v.ctx t).todo.isEmpty)

/-- The oldest run that has ended completes (R231, R232). The operands are the core cycles that the counters of R238 gained while it ran: a context
busy and none ready, slots held, threads at wait code 3. Those of a fallback are counted where it ends (R98, R219). -/
def Chip.veRunDone (c : Chip) (cl k starve slots cap : Nat) : Chip :=
  let v := c.veOf cl k
  match v.runs.find? v.runEnded with
  | none => c
  | some r =>
    let ctxs := forAll r.threads v.ctxs (fun m t => m.insert t { v.ctx t with run := none, wait := .ready, todo := [] })
    let c := forAll [(R.VE_STARVE_CYC, starve), (R.VE_SLOT_CYC, slots), (R.VE_BANK_CAP_CYC, cap)] c
      (fun c e => c.addF (.ve cl k) e.1 e.2)
    let c := c.setVe cl k { v with ctxs := ctxs, runs := v.runs.filter (fun x => x.seq != r.seq) }
    let q := c.seqOf cl k
    let c := c.setSeq cl k { q with
      runs := q.runs.filter (· != r.seq), veHold := if q.veHold = some r.seq then none else q.veHold }
    match r.stop with
    | none => c.cmdDone cl k 1
    | some code => c.seqStop cl k code

/-- A run has lasted longer than the watchdog allows (R219, R232): it is counted from no fallback. -/
def Chip.veTimeout (c : Chip) (cl k n : Nat) : Chip :=
  match (c.veOf cl k).runs[n]? with
  | none => c
  | some r =>
    if c.getF (.ve cl k) R.VE_CTRL_WATCHDOG = 0 || (c.meOf cl k).fallback || r.stop.isSome then c
    else
      let t := (r.threads.find? (fun t => !(c.ctx cl k t).done)).getD (r.threads.headD 0)
      c.veFail cl k t 9 (c.ctx cl k t).pc COMP_VE_TIMEOUT none

/-- A waiting claim of a thread has been granted: the entry's offset is returned and the thread goes on (R226, R162). -/
def Chip.veGranted (c : Chip) (cl k t off : Nat) : Chip :=
  let x := c.ctx cl k t
  (c.setCtx cl k t { (x.setS (viD x.inst) off) with wait := .ready, inst := 0 }).veNext cl k t

/-- The threshold of an SWAIT is met (R216, R280). -/
def Chip.veSyncMet (c : Chip) (cl k t : Nat) : Chip :=
  ((c.dropWaits (.ve cl k t)).setCtx cl k t { c.ctx cl k t with wait := .ready }).veNext cl k t

end Sys2Proof.Machine
end

