-- ==== Sys2Proof/Machine/Planner.lean ====
section
/-! DEFINITION. The tiling planner (R185-R204, R211): operator descriptors and their checks, scale records, zero shapes, the
division of work, modes and loop orders, and the expansion of collectives (R261-R265). PROGRAM_WRITE carries the programs that the planner writes; which it may write
is in Machine/Programs.lean. -/

namespace Sys2Proof.Machine

/-! Steps in progress. A cluster has a place for a step of the forward group or of all cores (0) and one for the backward
group (1); in a share set each member has a place of its own, its member number (R366). -/

def stepKey (cl g : Nat) : Nat := cl * 4 + g
def Chip.stepOf (c : Chip) (cl g : Nat) : Option StepRun := c.steps.find? (stepKey cl g)
def Chip.setStep (c : Chip) (cl g : Nat) (s : StepRun) : Chip := { c with steps := c.steps.insert (stepKey cl g) s }
def Chip.dropStep (c : Chip) (cl g : Nat) : Chip := { c with steps := c.steps.erase (stepKey cl g) }

/-- The place of a partition's operators outside a rally (R271, R366). -/
def Chip.opPlace (c : Chip) (p : Nat) : Nat := if c.shared p then c.getF (.part p) R.PART_STATE_MEMBER else 0

/-- The steps of a cluster with their places. -/
def Chip.stepsOn (c : Chip) (cl : Nat) : List (Nat × StepRun) := (upto 4).filterMap (fun g => (c.stepOf cl g).map (fun s => (g, s)))

def Chip.rseqOf (c : Chip) (cl : Nat) : Rseq := KMap.getD c.rseqs cl {}
def Chip.setRseq (c : Chip) (cl : Nat) (q : Rseq) : Chip := { c with rseqs := c.rseqs.insert cl q }

/-- Position of a cluster in a partition. -/
def Chip.posIn (c : Chip) (p cl : Nat) : Nat := ((c.clustersOf p).takeWhile (· != cl)).length

/-- Low 32 bits of WQ_STEP of a partition: the step number w (R190, R291). -/
def Chip.stepNo (c : Chip) (p : Nat) : Nat := c.getF (.wqp p) R.WQP_STEP % 2 ^ 32

/-! Matrix descriptor (R187). -/
namespace Mat
def cls (b : List Byte) : Nat := recNat b 0 1
def transA (b : List Byte) : Bool := bit (recNat b 1 1) 0
def transW (b : List Byte) : Bool := bit (recNat b 1 1) 1
def aCvt (b : List Byte) : Bool := bit (recNat b 1 1) 2
def dscale (b : List Byte) : Bool := bit (recNat b 1 1) 3
def margin (b : List Byte) : Nat := field (recNat b 1 1) 4 2
def noWsh (b : List Byte) : Bool := bit (recNat b 1 1) 6
def fmtA (b : List Byte) : Nat := field (recNat b 2 1) 0 4
def fmtW (b : List Byte) : Nat := field (recNat b 2 1) 4 4
def fmtOut (b : List Byte) : Nat := field (recNat b 3 1) 0 4
def rnd (b : List Byte) : Nat := field (recNat b 3 1) 4 3
def split (b : List Byte) : Nat := field (recNat b 4 1) 0 2
def groups (b : List Byte) : Nat := recNat b 5 1
def scaleInit (b : List Byte) : Int := sextInt 8 (recNat b 6 1)
def maxM (b : List Byte) : Nat := recNat b 8 4
def maxN (b : List Byte) : Nat := recNat b 0xC 4
def maxK (b : List Byte) : Nat := recNat b 0x10 4
def totalM (b : List Byte) : Nat := recNat b 0x14 4
def nLo (b : List Byte) : Nat := recNat b 0x18 4
def nHi (b : List Byte) : Nat := recNat b 0x1C 4
def aRef (b : List Byte) : Nat := recNat b 0x20 8
def wRef (b : List Byte) : Nat := recNat b 0x28 8
def outRef (b : List Byte) : Nat := recNat b 0x30 8
def auxRef (b : List Byte) : Nat := recNat b 0x38 8
def aPitch (b : List Byte) : Nat := recNat b 0x40 4
def wPitch (b : List Byte) : Nat := recNat b 0x44 4
def outPitch (b : List Byte) : Nat := recNat b 0x48 4
def param (b : List Byte) : Nat := recNat b 0x4C 4
def scA (b : List Byte) : Nat := recNat b 0x50 8
def scW (b : List Byte) : Nat := recNat b 0x58 8
def scO (b : List Byte) : Nat := recNat b 0x60 8
def aScRef (b : List Byte) : Nat := recNat b 0x68 8
def wScRef (b : List Byte) : Nat := recNat b 0x70 8
def listRef (b : List Byte) : Nat := recNat b 0x78 8
/-- Packing factor of the operation. -/
def p (b : List Byte) : Nat := packClass (fmtA b)
/-- CONV parameters. -/
def cIn (b : List Byte) : Nat := field (param b) 12 10
def kh (b : List Byte) : Nat := field (param b) 22 3 + 1
def kw (b : List Byte) : Nat := field (param b) 25 3 + 1
def imgW (b : List Byte) : Nat := field (param b) 0 12
def stride2 (b : List Byte) : Bool := bit (param b) 28
/-- ATTN parameters. -/
def headFirst (b : List Byte) : Nat := field (param b) 0 8
def causal (b : List Byte) : Bool := bit (param b) 23
def headCount (b : List Byte) : Nat := field (param b) 8 8
def headDim (b : List Byte) : Nat := field (param b) 16 7 * 8
end Mat

/-- Source code and value of a reference field (R188). -/
def refCode (r : Nat) : Nat := field r 56 8
def refOff (r : Nat) : Nat := field r 0 48

/-- What a step offers to references (R188): whether it is a step of a rally, its input shelves, output shelf and piece. -/
structure RefCtx where
  rally : Bool
  a : Option Nat
  b : Option Nat
  o : Option Nat
  piece : Bool
  deriving DecidableEq, Repr

/-- Does a reference break R188 (R189, BAD_REF)? -/
def badRef (x : RefCtx) (r : Nat) : Bool :=
  match refCode r with
  | 0 => false
  | 1 => !x.rally || x.a.isNone
  | 2 => !x.rally || x.b.isNone
  | 3 => !x.rally || x.o.isNone
  | 4 => !x.rally || !x.piece
  | 5 => !x.rally
  | _ => true

/-- Are reserved bits [55:48] of a reference not zero? -/
def refReserved (r : Nat) : Bool := field r 48 8 != 0

/-- Commons shelf number that a SHELVES value names in quarter `q` (R171). -/
def shelfNo (q v : Nat) : Option Nat := if v = 0xFF then none else some (63 * q + v)

/-- What a record gives the references of its step, in quarter `q`. -/
def refCtx (rally : Bool) (q : Nat) (rcd : List Byte) : RefCtx :=
  if rally then ⟨true, shelfNo q (Stp.shelf rcd 0), shelfNo q (Stp.shelf rcd 1), shelfNo q (Stp.shelf rcd 2),
    Stp.piece rcd != 0xFFFF⟩
  else ⟨false, none, none, none, false⟩

/-! Checks of a matrix descriptor (R189), in the order of the table. -/

/-- The reference fields of a matrix descriptor (R187, R188); a field that the operation does not use must keep R188 too. -/
def matRefs (b : List Byte) : List Nat :=
  [Mat.aRef b, Mat.wRef b, Mat.outRef b, Mat.auxRef b, Mat.aScRef b, Mat.wScRef b, Mat.listRef b]

/-- Formats of a matrix descriptor that R68 or the TB refuse. -/
def matBadFmt (b : List Byte) : Bool :=
  let a := Mat.fmtA b
  let w := Mat.fmtW b
  decide (8 ≤ a) || decide (8 ≤ w) || packClass a != packClass w || decide (8 < Mat.fmtOut b) ||
    (Mat.transA b && Mat.aCvt b && !(a == 1 || a == 2))

/-- PARAM or GROUPS out of range for the class. -/
def matBadParam (b : List Byte) : Bool :=
  (if Mat.cls b = 4 then Mat.groups b < 1 || 64 < Mat.groups b else Mat.groups b != 1) ||
    (Mat.cls b == 3 && (Mat.cIn b == 0 || Mat.imgW b == 0)) ||
    (Mat.cls b == 5 && (Mat.headCount b == 0 || Mat.headDim b == 0))

/-- Reserved fields of a matrix descriptor. -/
def matReserved (b : List Byte) : Bool :=
  bit (recNat b 1 1) 7 || bit (recNat b 3 1) 7 || field (recNat b 4 1) 2 6 != 0 || recNat b 7 1 != 0 ||
    (Mat.cls b != 4 && Mat.totalM b != 0) ||
    (if Mat.cls b = 3 then field (Mat.param b) 29 3 != 0 else if Mat.cls b = 5 then field (Mat.param b) 24 8 != 0
      else Mat.param b != 0) ||
    (matRefs b ++ [Mat.scA b, Mat.scW b, Mat.scO b]).any refReserved

/-- First failing check of a matrix descriptor other than NO_FIT and UNREADABLE; `mx` is the step record of a rally. -/
def matReason (x : RefCtx) (mx : Option (List Byte)) (b : List Byte) : Nat :=
  if Mat.cls b < 1 || 5 < Mat.cls b then 1
  else if matBadFmt b then 2
  else if (match mx with
      | some r => Mat.maxM b != Stp.maxM r || Mat.maxN b != Stp.maxN r || Mat.maxK b != Stp.maxK r
      | none => false) then 3
  else if Mat.split b = 3 || (Mat.split b = 0 && (Mat.nHi b ≤ Mat.nLo b || Mat.maxN b < Mat.nHi b)) then 4
  else if (matRefs b).any (badRef x) || [Mat.scA b, Mat.scW b, Mat.scO b].any (fun r => refCode r != 0) then 5
  else if matBadParam b then 6
  else if matReserved b then 8
  else 0

/-! Vector operation descriptor (R234, R237). -/
namespace Vop
def vop (b : List Byte) : Nat := recNat b 1 1
def fmtIn (b : List Byte) : Nat := field (recNat b 2 1) 0 4
def fmtOut (b : List Byte) : Nat := field (recNat b 2 1) 4 4
def rnd (b : List Byte) : Nat := field (recNat b 3 1) 0 3
def dscale (b : List Byte) : Bool := bit (recNat b 3 1) 3
def margin (b : List Byte) : Nat := field (recNat b 3 1) 4 2
def accum (b : List Byte) : Bool := bit (recNat b 3 1) 6
def maxRows (b : List Byte) : Nat := recNat b 8 4
def maxCols (b : List Byte) : Nat := recNat b 0xC 4
def inRef (b : List Byte) (i : Nat) : Nat := recNat b (0x10 + 8 * i) 8
def outRef (b : List Byte) (i : Nat) : Nat := recNat b (0x28 + 8 * i) 8
def idxRef (b : List Byte) : Nat := recNat b 0x40 8
def scO (b : List Byte) : Nat := recNat b 0x48 8
def inPitch (b : List Byte) : Nat := recNat b 0x50 4
def outPitch (b : List Byte) : Nat := recNat b 0x54 4
def kernel (b : List Byte) : Nat := recNat b 0x58 8
def param (b : List Byte) (i : Nat) : Nat := recNat b (0x60 + 4 * i) 4
def known (v : Nat) : Bool := (decide (1 ≤ v) && decide (v ≤ 0xA)) || v == 0xF
/-- References that an operation reads or writes (R235). -/
def refs (b : List Byte) : List Nat :=
  (if dscale b then [scO b] else []) ++ match vop b with
  | 0x01 => [inRef b 0, inRef b 1, outRef b 0]
  | 0x02 => [inRef b 0, outRef b 0]
  | 0x03 => [inRef b 0, inRef b 1, outRef b 0]
  | 0x04 => [inRef b 0, inRef b 1, inRef b 2, outRef b 0]
  | 0x05 => [inRef b 0, outRef b 0]
  | 0x06 => [inRef b 0, inRef b 1, inRef b 2, idxRef b, outRef b 0, outRef b 1, outRef b 2]
  | 0x07 => [inRef b 0, idxRef b, outRef b 0]
  | 0x08 => [inRef b 0, idxRef b, outRef b 0]
  | 0x09 => [inRef b 0, idxRef b, outRef b 0]
  | 0x0A => [inRef b 0, inRef b 1, outRef b 0]
  | _ => []
def all (b : List Byte) : List Nat :=
  [inRef b 0, inRef b 1, inRef b 2, outRef b 0, outRef b 1, outRef b 2, idxRef b, scO b]
end Vop

/-- First failing check of a vector operation descriptor (R237); the shape slots of a DISPATCH are those that a step record can name (R38). -/
def vopReason (x : RefCtx) (mx : Option (List Byte)) (b : List Byte) : Nat :=
  let v := Vop.vop b
  let elem (f : Nat) : Bool := f == 0 || f == 8
  if recNat b 0 1 != 0x10 then 1
  else if 8 < Vop.fmtIn b || 8 < Vop.fmtOut b || 4 < Vop.rnd b || (v == 8 && !elem (Vop.fmtOut b)) then 2
  else if (match mx with | some r => Vop.maxRows b != Stp.maxM r || Vop.maxCols b != Stp.maxN r | none => false) then 3
  else if (Vop.all b).any (badRef x) || (Vop.refs b).any (· == 0) || refCode (Vop.scO b) != 0 then 5
  else if !Vop.known v || (v == 2 && 2 < Vop.param b 0) || (v == 9 && (Vop.param b 0 == 0 || decide (0xFFFF < Vop.param b 1 + Vop.param b 0))) || (v == 0xF && Vop.kernel b == 0) then 6
  else if bit (recNat b 3 1) 7 || recNat b 4 4 != 0 || (Vop.all b).any refReserved then 8
  else 0

/-! Collective descriptor (R261, R265). -/
namespace Col
def coll (b : List Byte) : Nat := recNat b 1 1
def fmtC (b : List Byte) : Nat := field (recNat b 2 1) 0 4
def fmtR (b : List Byte) : Nat := field (recNat b 2 1) 4 4
def mirror (b : List Byte) : Bool := bit (recNat b 3 1) 0
def accum (b : List Byte) : Bool := bit (recNat b 3 1) 1
def members (b : List Byte) : Nat := recNat b 4 1
def rank (b : List Byte) : Nat := recNat b 5 1
def channel (b : List Byte) : Nat := recNat b 6 1
def maxBytes (b : List Byte) : Nat := recNat b 8 4
def arriveSync (b : List Byte) : Nat := recNat b 0xC 2
def arriveValue (b : List Byte) : Nat := recNat b 0x10 4
def slotPitch (b : List Byte) : Nat := recNat b 0x14 4
def srcRef (b : List Byte) : Nat := recNat b 0x18 8
def dstRef (b : List Byte) : Nat := recNat b 0x20 8
def slotRef (b : List Byte) : Nat := recNat b 0x28 8
def memberRef (b : List Byte) : Nat := recNat b 0x30 8
def refs (b : List Byte) : List Nat := [srcRef b, dstRef b, memberRef b, slotRef b]
/-- Does a collective read the oldest piece of shelf 254, which it releases once the piece has left (R155, R188)? -/
def staged (b : List Byte) : Bool := field (srcRef b) 56 8 == 5
end Col

/-- First failing check of a collective descriptor (R265); `mem` are the MEMBER_REF entries, `slotOk` says whether the landing slots lie
in the cluster, `owned` whether the RSEQ owns the channel. -/
def colReason (x : RefCtx) (mx : Option (List Byte)) (dev : Nat) (mem : List Nat) (slotOk owned : Bool) (b : List Byte) : Nat :=
  if recNat b 0 1 != 0x20 then 1
  else if (Col.coll b == 2 && !((Col.fmtC b == 0 || Col.fmtC b == 8) && (Col.fmtR b == 0 || Col.fmtR b == 8))) ||
      (Col.coll b == 1 && recNat b 2 1 != 0) then 2
  else if (match mx with
      | some r => Col.maxBytes b != Stp.maxM r * Stp.maxN r || Stp.maxK r != 1
      | none => false) then 3
  else if (Col.refs b).any (badRef x) || (Col.coll b == 2 && !slotOk) then 5
  else if (Col.coll b != 1 && Col.coll b != 2) || Col.members b < 2 || 64 < Col.members b || Col.members b ≤ Col.rank b ||
      mem.getD (Col.rank b) 0xFFFF != dev || !decide mem.Nodup || mem.any (fun e => decide (4096 ≤ e)) ||
      (if x.rally then Col.channel b != 31 else 31 < Col.channel b || owned) ||
      (Col.mirror b && Col.coll b == 2) || (Col.accum b && Col.coll b == 1) then 6
  else if field (recNat b 3 1) 2 6 != 0 || recNat b 7 1 != 0 || recNat b 0xE 2 != 0 || !allZero ((b.drop 0x38).take 72) ||
      (Col.refs b).any refReserved then 8
  else 0

/-! Where references lead. -/

/-- A place that a reference names: an absolute local address, or an offset within an entry of a shelf. -/
inductive Loc where
  | abs (a : Nat)
  | entry (r : ShelfRef) (q off : Nat)
  deriving DecidableEq, Repr

/-- Local address of byte `i` of a place. -/
def Chip.locAddr (c : Chip) (l : Loc) (i : Nat) : Nat :=
  match l with
  | .abs a => a + i
  | .entry r q off => match (c.shelf r).entry? q with
    | some e => r.memBase + (c.shelf r).byteAt e (off + i)
    | none => r.memBase

/-- The place further on by `n` bytes. -/
def Loc.plus : Loc → Nat → Loc
  | .abs a, n => .abs (a + n)
  | .entry r q off, n => .entry r q (off + n)

/-- Oldest committed entry of a shelf that has not been freed: its number. -/
def Shelf.oldest (s : Shelf) : Option Nat :=
  (s.entries.zipIdx).findSome? (fun e => if e.1.committed && !s.freed e.1 then some ((s.seqHead + e.2) % 65536) else none)

/-- The place that a reference of a step names (R188); a step that claims nothing in shelf 254 reads the oldest committed piece there (R155;
DEDUCED: log entry 106). -/
def Chip.refLoc (c : Chip) (cl : Nat) (s : StepRun) (x : RefCtx) (stage : Option (Nat × Nat)) (r : Nat) : Loc :=
  let inShelf (n : Option Nat) : Loc := match n with
    | some n => .entry (.commons cl n) ((c.shelf (.commons cl n)).oldest.getD 0) (refOff r)
    | none => .abs 0
  match refCode r with
  | 1 => inShelf x.a
  | 2 => inShelf x.b
  | 3 => match x.o with
    | some n => .entry (.commons cl n) (s.out.getD 0) (refOff r)
    | none => .abs 0
  | 4 => match stage with
    | some (n, q) => .entry (.commons cl n) q (refOff r)
    | none => .abs 0
  | 5 => .entry (.commons cl 254) (s.grad.getD ((c.shelf (.commons cl 254)).oldest.getD 0)) (refOff r)
  | _ => .abs (refOff r)

/-! Scale records (R190-R192). -/

/-- The larger of two amaxes; a NaN stays (R191, R192). -/
def amaxOf (a b : FVal) : FVal :=
  match a, b with
  | .nan, _ => .nan
  | _, .nan => .nan
  | a, b => if a.lt b then b else a

/-- Roll the cluster's own record of a set, once in a step (R191). -/
def Chip.rollSet (c : Chip) (cl p set : Nat) : Chip :=
  if c.rolled.contains (cl, set) then c
  else
    let w := c.stepNo p
    let prev := (w + 2 ^ 32 - 1) % 2 ^ 32
    let ag := rseqAgent cl p
    let vals := (upto (c.clustersOf p).length).filterMap (fun q =>
      let (_, b) := c.peek ag (set + 16 * q) 16
      if recNat b 12 4 = prev || recNat b 12 4 = w then some (of32 (recNat b (4 * (prev % 2)) 4)) else none)
    let top := vals.foldl amaxOf .zero
    let own := set + 16 * c.posIn p cl
    let c := { c with rolled := (cl, set) :: c.rolled }
    let c := match top with
      | .fin _ (_ + 1) _ => (c.agentWrite ag (own + 8) (ones 4) (leBytes 4 top.to32)).1
      | _ => (c.raise (.plan cl) St.PLAN_SCALE_KEPT).addF (.plan cl) R.PLAN_CTR_SCALE_KEPT 1
    let c := (c.agentWrite ag (own + 4 * (w % 2)) (ones 4) (leBytes 4 0)).1
    (c.agentWrite ag (own + 12) (ones 4) (leBytes 4 w)).1

/-- Conversion factor of a tensor in a format (R191); `cvt` says that it enters through A_CVT. -/
def Chip.scaleFactor (c : Chip) (cl p set fmt margin : Nat) (init : Int) (cvt : Bool) : Int :=
  if set = 0 || fmt = 0 || fmt = 8 || (isMx fmt && !cvt) then 0
  else
    let (_, b) := c.peek (rseqAgent cl p) (set + 16 * c.posIn p cl) 16
    match of32 (recNat b 8 4) with
    | .fin s (m + 1) e => max (-127) (min 127 (emaxOf fmt - (FVal.fin s (m + 1) e).log2 - margin))
    | _ => init

/-- Raise the cluster's own AMAX of a set (R192). -/
def Chip.raiseAmax (c : Chip) (cl p set : Nat) (v : FVal) : Chip :=
  if set = 0 then c
  else
    let a := set + 16 * c.posIn p cl + 4 * (c.stepNo p % 2)
    let ag := rseqAgent cl p
    let (_, b) := c.peek ag a 4
    (c.agentWrite ag a (ones 4) (leBytes 4 (amaxOf (of32 (recNat b 0 4)) v).to32)).1

/-! Division of work (R195-R199, R202-R204). -/

/-- Part `i` of `n` things among `c` cores: lower-numbered cores receive the extra ones (R198). -/
def partOfN (n c i : Nat) : Nat × Nat :=
  let lo := i * (n / c) + min i (n % c)
  (lo, lo + n / c + (if i < n % c then 1 else 0))

/-- Rows and columns of a cluster (R198). -/
def clusterShare (b : List Byte) (m n q ncl : Nat) : (Nat × Nat) × (Nat × Nat) :=
  match Mat.split b with
  | 0 => ((0, m), (Mat.nLo b, min (Mat.nHi b) n))
  | 1 => ((q * m / ncl, (q + 1) * m / ncl), (0, n))
  | _ => ((0, m), (0, n))

/-- Length of a half-open range. -/
def spanLen (r : Nat × Nat) : Nat := r.2 - r.1

/-- Tiles `[lo, hi)` of size `t` cut from a range. -/
def tileRange (r : Nat × Nat) (t : Nat) (x : Nat × Nat) : Nat × Nat := (min r.2 (r.1 + x.1 * t), min r.2 (r.1 + x.2 * t))

/-- Rows and columns of `n` cores (R198): column tiles of 32, else row tiles of 64, else both, columns first: each column tile gets as many row parts as whole sets of
column tiles divide the cores, and the cores left over are idle (DESIGN CHOICE: log entry 136). -/
def gemmShares (rows cols : Nat × Nat) (n : Nat) : List ((Nat × Nat) × (Nat × Nat)) :=
  let nt := ceilDiv (spanLen cols) 32
  let mt := ceilDiv (spanLen rows) 64
  (upto n).map (fun i =>
    if n ≤ nt then (rows, tileRange cols 32 (partOfN nt n i))
    else if n ≤ mt then (tileRange rows 64 (partOfN mt n i), cols)
    else
      let per := min mt (n / max nt 1)
      if i < nt * per then (tileRange rows 64 (partOfN mt per (i / max nt 1)), tileRange cols 32 (i % max nt 1, i % max nt 1 + 1))
      else ((0, 0), (0, 0)))

/-- Slabs of core `i` of `n` in a backward step (R199): whole slabs, then the shared slabs of the core's set, each with its token squares. -/
def slabShare (nslab squares n i : Nat) : List (Nat × Nat × Nat × Bool) :=
  let whole := if n = 0 then 0 else nslab / n
  let r := if n = 0 then 0 else nslab % n
  let g := Nat.gcd n r
  let perSet := if g = 0 then 1 else n / g
  let slabsPer := if g = 0 then 0 else r / g
  let sq := partOfN squares perSet (i % perSet)
  (upto whole).map (fun j => (i * whole + j, 0, squares, false)) ++ (if r = 0 then [] else
    (upto slabsPer).map (fun j => (whole * n + i / perSet * slabsPer + j, sq.1, sq.2, true)))

/-- Is core `i` of `n` the lowest of its set (R199)? -/
def lowestOfSet (nslab n i : Nat) : Bool :=
  let g := Nat.gcd n (nslab % n)
  i % (if g = 0 then 1 else n / g) == 0

/-- Give work items, longest first, each to the core with the smallest total so far (R202). Items are (cycles, item). -/
def giveItems {α : Type} (items : List (Nat × α)) (l : List (Nat × List α)) : List (Nat × List α) :=
  items.foldl (fun l it =>
    let best := l.foldl (fun m x => min m x.1) (match l with | x :: _ => x.1 | [] => 0)
    match findIdxFrom (fun x : Nat × List α => x.1 = best) 0 l with
    | some (i, x) => l.set i (x.1 + it.1, x.2 ++ [it.2])
    | none => l) l

/-- Insert an item behind every item at least as long: longest first, ties in order. -/
def insertItem {α : Type} (it : Nat × α) : List (Nat × α) → List (Nat × α)
  | [] => [it]
  | x :: r => if x.1 < it.1 then it :: x :: r else x :: insertItem it r

/-- Items of each of `n` cores (R202). -/
def divideItems {α : Type} (items : List (Nat × α)) (n : Nat) : List (List α) :=
  (giveItems (items.foldl (fun l it => insertItem it l) []) (List.replicate n (0, []))).map (·.2)

/-! Mode and loop order (R196, R200, R201). -/

/-- Last verdict of a WS product of at most 64 rows with no contention, in core cycles (R75, R76, R196): a sweep follows the one before it after the 64 cycles of its load, or after
its rows and the check slot where they take longer. -/
def wsEstimate (m n k p : Nat) : Nat := (ceilDiv k (64 * p) * ceilDiv n 32 - 1) * max (m + 1) 64 + m + 97

/-- Last verdict of a WSH product with no contention (R75, R76, R79, R196). -/
def wshEstimate (m n k p : Nat) : Nat :=
  let full := (m - 1) / 8
  let last := m - 8 * full
  (ceilDiv k (8 * p) * ceilDiv n 256 - 1) * (9 * full + max (last + 1) 8) + 9 * full + last + 10

/-- Bytes of `n` elements of a format, with their block scales (R127, R128). -/
def bytesOf (fmt n : Nat) : Nat := ceilDiv (n * elemBits fmt) 8 + (if isMx fmt then ceilDiv n 32 else 0)

/-- Bytes of `n` elements of the streamed operand as it is stored: BF16 before a conversion on entry. -/
def aBytes (b : List Byte) (n : Nat) : Nat := bytesOf (if Mat.aCvt b then 0 else Mat.fmtA b) n

/-- Buffers of an output band in a core's shelf share (R201): two K tiles of its operands and the band as it is stored (DESIGN CHOICE: log entry 114). -/
def bandBytes (b : List Byte) (bm bn : Nat) : Nat :=
  let t := 64 * Mat.p b
  2 * (aBytes b (64 * bm * t) + bytesOf (Mat.fmtW b) (32 * bn * t)) + bytesOf (Mat.fmtOut b) (64 * bm * (32 * bn))

/-- Buffers of the backward units in a core's shelf share, as the spec's worked example lists them (R201; DESIGN CHOICE: log entry 114): for each slab its slices of dX and
X and its rows of W, two dY squares, two stages of dW, and two of partial sums where a slab is shared. -/
def unitBytes (b : List Byte) (m n k : Nat) (slabs : List (Nat × Nat × Nat × Bool)) : Nat :=
  let p := Mat.p b
  let kw (s : Nat) : Nat := min 64 (n - 64 * s)
  let tok (lo hi : Nat) : Nat := min m (64 * p * hi) - 64 * p * lo
  (slabs.map (fun s => bytesOf (Mat.fmtOut b) (tok s.2.1 s.2.2.1 * kw s.1) + aBytes b (tok s.2.1 s.2.2.1 * kw s.1) +
      2 * bytesOf (Mat.fmtW b) (kw s.1 * k / 2))).sum +
    2 * bytesOf (Mat.fmtW b) (64 * p * (64 * p)) + 2 * bytesOf 0 (64 * (64 * p)) + (if slabs.any (·.2.2.2) then 2 * bytesOf 8 (64 * (64 * p)) else 0)

/-- The band of OB (R200): least commons reads with Bm × Bn ≤ COUNT − 2 among those whose buffers fit, the larger Bm on a tie, and of those the least Bn (DESIGN CHOICE: log
entry 137). `wa` and `ww` are the bytes of A and W, 0 where they do not lie in commons. -/
def bestBand (count mt nt wa ww : Nat) (fits : Nat → Nat → Bool) : Nat × Nat :=
  let cand := (upto count).flatMap (fun i => (upto count).map (fun j => (i + 1, j + 1)))
  let ok := cand.filter (fun x => decide (x.1 * x.2 + 2 ≤ count) && decide (x.1 ≤ max mt 1) && decide (x.2 ≤ max nt 1) && fits x.1 x.2)
  let cost (x : Nat × Nat) : Nat := ceilDiv nt x.2 * wa + ceilDiv mt x.1 * ww
  ok.foldl (fun best x =>
    if best.1 = 0 || cost x < cost best || (cost x = cost best && best.1 < x.1) then x else best) (0, 0)

/-- K tiles of a KO chunk (R200): the most whose A and W slabs fit beside the FP32 partial region; 0 when not even one does. `t` is the K tile. -/
def koChunk (b : List Byte) (m n k t space : Nat) : Nat :=
  let fits (i : Nat) : Bool := decide (aBytes b (m * min k (t * i)) + bytesOf (Mat.fmtW b) (n * min k (t * i)) + bytesOf 8 (m * n) ≤ space)
  (upto (ceilDiv k t + 1)).foldl (fun best i => if i != 0 && fits i then max best i else best) 0

/-- The K tile of a product (R67, R204): 64p, and in RR mode the taps of the channels of a sweep. -/
def kTile (b : List Byte) (mode : Nat) : Nat :=
  if mode = 2 then Mat.kh b * Mat.kw b * min (Mat.cIn b) (64 / (Mat.kh b * Mat.kw b)) * Mat.p b else 64 * Mat.p b

/-- Buffers of a WSH product in a core's shelf share: two weight tiles with their rows of A, and the panels (R197, R201; DESIGN CHOICE: log entry 114). -/
def shallowBytes (b : List Byte) (m n : Nat) : Nat :=
  let t := 8 * Mat.p b
  2 * (aBytes b (m * t) + bytesOf (Mat.fmtW b) (256 * t)) + ceilDiv m 8 * ceilDiv n 256 * bytesOf 8 (64 * 32)

/-- Buffers of an ATTN block in a core's shelf share: a query block, two key and two value blocks, the scores, and the output in FP32 (R201, R203; DESIGN CHOICE: log
entry 114). -/
def blockBufs (b : List Byte) (k : Nat) : Nat :=
  aBytes b (64 * k) + 4 * bytesOf (Mat.fmtW b) (64 * k) + bytesOf 8 (64 * 64) + aBytes b (64 * 64) + bytesOf 8 (64 * k)

/-- Does a reference lead to commons? -/
def inCommons (l : Loc) : Bool :=
  match l with
  | .abs a => (match placeOf a with | .commons _ _ => true | _ => false)
  | .entry (.commons _ _) _ _ => true
  | _ => false

/-- Bytes of a core's scratchpad that a step may use (R201): in a rally the pass's grant; outside one the firmware shelf range, which in a share set is the member's share
(R152, R364). -/
def Chip.coreSpace (c : Chip) (cl k : Nat) (s : StepRun) : Nat :=
  1024 * (if s.queue.isNone then c.getF (.sp cl k) (if s.high then R.SP_GRANT_SIZE1 else R.SP_GRANT_SIZE0)
    else if c.shared s.part then c.getF (.part s.part) R.PART_SHARE_SP_KIB
    else 2560 - 64 * c.cacheWays cl k - Hdr.shelfKib (c.rseqOf cl).hdr)

/-- Bytes of the cluster's commons that a step may use (R155, R201): the pass's share, or the firmware shelf range. -/
def Chip.commonsSpace (c : Chip) (cl : Nat) (s : StepRun) : Nat :=
  let h := (c.rseqOf cl).hdr
  1024 * (if s.queue.isNone then (((c.rseqOf cl).passes.find? (fun x => x.bwd == s.bwd && x.rally == s.rally && x.mb == s.mb)).map (·.kib)).getD 0
    else if c.shared s.part then c.getF (.part s.part) R.PART_SHARE_CM_KIB
    else 24576 - (Hdr.commonsF h + Hdr.commonsB h + 2 * Hdr.gstage h + Hdr.dstage h))

/-- What the planner needs to plan products of a step on a cluster: the descriptor, where its operands lie, whether WSH may be taken, and each core's space and
effective window count (R88, R196, R200, R201). -/
structure PlanCtx where
  b : List Byte
  aCm : Bool
  wCm : Bool
  wsh : Bool
  space : Nat → Nat
  count : Nat → Nat
  win : Nat

/-- Array mode of a product (R196, R204). In an MX format a WSH tile of 8p elements along K must end on a block boundary (R195). -/
def PlanCtx.mode (x : PlanCtx) (m n k : Nat) : Nat :=
  let p := Mat.p x.b
  if Mat.cls x.b = 3 then (if Mat.fmtA x.b ≤ 2 && Mat.fmtW x.b ≤ 2 && Mat.kh x.b * Mat.kw x.b ≤ 64 && k != 0 then 2 else 1)
  else if x.wsh && decide (0 < m) && decide (m ≤ 63) && k != 0 && !((isMx (Mat.fmtA x.b) || isMx (Mat.fmtW x.b)) && 8 * p % 32 != 0) &&
      decide (wshEstimate m n k p < wsEstimate m n k p) then 3 else 1

/-- Plan one product on a core: mode, then OB with its band, else KO (R196, R200, R201): the product, its footprint and whether the order was changed. A WSH product opens
2 × ceil(M ÷ 8) VTs, which is its F; where F or its buffers do not fit, the product is planned in WS, a changed order (DESIGN CHOICE: log entry 151). -/
def PlanCtx.product (x : PlanCtx) (core : Nat) (q : Prod) : Option (Prod × Nat × Bool) :=
  let m := spanLen q.rows
  let n := spanLen q.cols
  let count := x.count core
  if m = 0 || n = 0 then some (q, 0, false)
  else
    let first := if q.kind = 0 then x.mode m n q.k else 1
    if first = 3 && decide (2 * ceilDiv m 8 ≤ count) && decide (shallowBytes x.b m n ≤ x.space core) then some ({ q with mode := 3 }, 2 * ceilDiv m 8, false)
    else
      let mode := if first = 3 then 1 else first
      let band := bestBand count (ceilDiv m 64) (ceilDiv n 32) (aBytes x.b (m * q.k) * b2n x.aCm) (bytesOf (Mat.fmtW x.b) (n * q.k) * b2n x.wCm)
        (fun i j => decide (bandBytes x.b i j ≤ x.space core))
      if band.1 != 0 then some ({ q with mode := mode, bm := band.1, bn := band.2 }, band.1 * band.2 + 2, first == 3)
      else
        let chunk := koChunk x.b m n q.k (kTile x.b mode) (x.space core)
        if 2 ≤ count && chunk != 0 then some ({ q with mode := mode, ko := true, bm := 1, bn := 1, chunk := chunk }, 2, true) else none

/-- Plan the products of a core; none when one of them does not fit. -/
def PlanCtx.core (x : PlanCtx) (core : Nat) (l : List Prod) : Option (CorePlan × Bool) :=
  (l.foldl (fun r q => r.bind (fun (y : CorePlan × Bool) => (x.product core q).map (fun z =>
    ({ y.1 with prods := y.1.prods ++ [z.1], foot := max y.1.foot z.2.1, needVe := y.1.needVe || z.1.ko || z.1.mode == 3 }, y.2 || z.2.2))))
    (some ({ core := core }, false)))

/-- Plan every core; none when one does not fit. -/
def PlanCtx.all (x : PlanCtx) (l : List (Nat × List Prod)) : Option (List CorePlan × Bool) :=
  l.foldl (fun r e => r.bind (fun (y : List CorePlan × Bool) => (x.core e.1 e.2).map (fun z => (y.1 ++ [z.1], y.2 || z.2)))) (some ([], false))

/-- Pixels of an output line: IMG_W is the width of an input line without its padding (R81, R82, R187; DEDUCED: log entry 115). -/
def Mat.outW (b : List Byte) : Nat := ceilDiv (Mat.imgW b) (if Mat.stride2 b then 2 else 1)

/-- Key blocks of query block `i` of a sequence (R203): with CAUSAL, none that lies wholly after its last query, which stands at its place behind POS (R378). -/
def keyBlocks (causal : Bool) (s : AttnSeq) (i : Nat) : List Nat :=
  (upto (ceilDiv s.len 64)).filter (fun j => !causal || decide (64 * j < s.pos + min s.q (64 * (i + 1))))

/-- Query blocks of ATTN with their estimated cycles (R198, R203): for each head and each sequence among the cluster's columns the blocks of 64 queries that begin among its
rows. -/
def attnItems (b : List Byte) (rows cols : Nat × Nat) (seqs : List AttnSeq) (k p : Nat) : List (Nat × (Nat × Nat × Nat)) :=
  let starts := (seqs.foldl (fun (s : Nat × List Nat) l => (s.1 + l.q, s.2 ++ [s.1])) (0, [])).2
  (upto (Mat.headCount b)).flatMap (fun h => ((seqs.zip starts).zipIdx.filter (fun e => decide (cols.1 ≤ e.2) && decide (e.2 < cols.2))).flatMap (fun e =>
    ((upto (ceilDiv e.1.1.q 64)).filter (fun i => decide (rows.1 ≤ e.1.2 + 64 * i) && decide (e.1.2 + 64 * i < rows.2))).map (fun i =>
      let m := min 64 (e.1.1.q - 64 * i)
      let kb := keyBlocks (Mat.causal b) e.1.1 i
      ((kb.map (fun j => wsEstimate m (min 64 (e.1.1.len - 64 * j)) k p + wsEstimate m k (min 64 (e.1.1.len - 64 * j)) p)).sum, (e.2, i, h)))))

/-- Bytes of FP32 partial sums that a core pushes for the shared slabs of a backward step (R199). -/
def partialBytes (n k : Nat) (slabs : List (Nat × Nat × Nat × Bool)) : Nat :=
  ((slabs.filter (fun s => s.2.2.2 && decide (s.2.1 < s.2.2.1))).map (fun s => 4 * min 64 (n - 64 * s.1) * k)).sum

/-- A backward step (R199-R201): units on whole and shared slabs where every core fits them and the partial sums fit the `commons`, else a dX product and a dW product, each
planned as a GEMM. With K = 0 only the output is written (R193). -/
def PlanCtx.backward (x : PlanCtx) (rows cols : Nat × Nat) (k commons : Nat) (cores : List Nat) : Option (List CorePlan × Bool) :=
  let p := Mat.p x.b
  let nslab := ceilDiv (spanLen cols) 64
  let n := cores.length
  let blk (core : Nat) : Nat := min ((x.count core - 4 * p) / (2 * p)) (ceilDiv k (64 * p))
  let one (e : Nat × Nat) : CorePlan :=
    let slabs := slabShare nslab (ceilDiv (spanLen rows) (64 * p)) n e.2
    { core := e.1, slabs := slabs, block := blk e.1, foot := 2 * p * (blk e.1 + 2), needVe := nslab % n != 0 && lowestOfSet nslab n e.2 }
  let plans := cores.zipIdx.map one
  if k = 0 then x.all (cores.zipIdx.map (fun e => (e.1, [{ rows := ((gemmShares rows cols n).getD e.2 default).1, cols := ((gemmShares rows cols n).getD e.2 default).2 }])))
  else if decide ((plans.map (fun y => partialBytes (spanLen cols) k y.slabs)).sum ≤ commons) && plans.all (fun y => decide (1 ≤ y.block) && decide (y.foot ≤ x.count y.core) &&
      decide (unitBytes x.b (spanLen rows) (spanLen cols) k y.slabs ≤ x.space y.core)) then some (plans, false)
  else
    let dX := gemmShares rows cols n
    let dW := gemmShares cols (0, k) n
    (x.all (cores.zipIdx.map (fun e => (e.1, [({ kind := 1, rows := (dX.getD e.2 default).1, cols := (dX.getD e.2 default).2, k := k } : Prod),
      { kind := 2, rows := (dW.getD e.2 default).1, cols := (dW.getD e.2 default).2, k := spanLen rows }])))).map (fun y => (y.1, true))

/-- The parts of the cores in a matrix operation (R195-R204), and whether the order was changed to fit; none when nothing fits (R201). `gs` are the shapes (M, N, K) of a
GROUPED operation's groups, `seqs` the sequences of an ATTN operation. A group with K = 0 and ACCUM has no item (R193). The footprint of ATTN is two tiles of scores
and those of the output (DESIGN CHOICE: log entry 114). -/
def Chip.planMatrix (c : Chip) (cl : Nat) (s : StepRun) (aCm wCm : Bool) (gs : List (Nat × Nat × Nat)) (seqs : List AttnSeq) : Option (List CorePlan × Bool) :=
  let b := s.desc
  let x : PlanCtx :=
    { b := b, aCm := aCm, wCm := wCm, space := fun k => c.coreSpace cl k s, win := b2n s.high
      count := fun k => (c.winTiles cl k (b2n s.high)).length
      wsh := (Mat.cls b == 1 || Mat.cls b == 4) && !Mat.transA b && !Mat.transW b && !Mat.noWsh b && !c.on (.plan cl) R.PLAN_CTRL_NO_WSH }
  let n := s.cores.length
  let share (m nn : Nat) := clusterShare b m nn (c.posIn s.part cl) (c.clustersOf s.part).length
  let (rows, cols) := share s.m s.n
  let zip (l : List (List Prod)) : List (Nat × List Prod) := s.cores.zipIdx.map (fun e => (e.1, l.getD e.2 []))
  match Mat.cls b with
  | 2 => x.backward rows cols s.k (c.commonsSpace cl s) s.cores
  | 3 =>
    let tiles := ceilDiv (Mat.outW b) 64
    x.all (zip ((gemmShares (64 * tiles * rows.1, 64 * tiles * rows.2) cols n).map (fun e => [{ rows := e.1, cols := e.2, k := s.k }])))
  | 4 =>
    let items := (gs.zipIdx).flatMap (fun g =>
      let (r, cs) := share g.1.1 g.1.2.1
      if spanLen cs = 0 || (g.1.2.2 = 0 && Stp.accum s.rcd) then []
      else (upto (ceilDiv (spanLen r) 64)).map (fun t =>
        let m := min 64 (spanLen r - 64 * t)
        let ws := wsEstimate m (spanLen cs) g.1.2.2 (Mat.p b)
        let wsh := wshEstimate m (spanLen cs) g.1.2.2 (Mat.p b)
        (if x.mode m (spanLen cs) g.1.2.2 = 3 then wsh else ws,
          ({ group := g.2, rows := (r.1 + 64 * t, r.1 + 64 * t + m), cols := cs, k := g.1.2.2 } : Prod))))
    x.all (zip (divideItems items n))
  | 5 =>
    let l := divideItems (attnItems b rows cols seqs s.k (Mat.p b)) n
    let foot := 2 + ceilDiv s.k 32
    if s.cores.all (fun k => decide (foot ≤ x.count k) && decide (blockBufs b s.k ≤ x.space k)) then
      some (s.cores.zipIdx.map (fun e => { core := e.1, blocks := l.getD e.2 [], foot := foot }), false)
    else none
  | _ => x.all (zip ((gemmShares rows cols n).map (fun e => [{ rows := e.1, cols := e.2, k := s.k }])))

/-! Collectives (R262, R263). -/

/-- A DMA descriptor (R241). -/
def dmaDesc (op flags fmt rowBytes src dst signal sigDev : Nat) : List Byte :=
  leBytes 1 op ++ leBytes 1 flags ++ leBytes 1 fmt ++ leBytes 1 0 ++ leBytes 4 rowBytes ++ leBytes 2 1 ++ leBytes 2 0xFFFF ++ leBytes 4 0 ++
    leBytes 8 src ++ leBytes 8 dst ++ leBytes 4 0 ++ leBytes 4 0 ++ leBytes 2 0 ++ leBytes 2 0 ++ leBytes 2 0 ++ leBytes 2 signal ++
    leBytes 4 0 ++ leBytes 2 sigDev ++ leBytes 2 0 ++ leBytes 8 0

/-- Fabric address (R27). -/
def fabAddr (dev a : Nat) : Nat := dev * 2 ^ 48 + a

/-- Bytes from byte `i` of a place that lie at rising addresses. -/
def Chip.contiguous (c : Chip) (l : Loc) (i : Nat) : Nat :=
  match l with
  | .abs _ => 2 ^ 48
  | .entry r q off => match (c.shelf r).entry? q with
    | some e => let z := (c.shelf r).size * 1024; z - (c.shelf r).byteAt e (off + i) % z
    | none => 2 ^ 48

/-- Cut `n` bytes from byte `i` on into pieces that are contiguous on both sides and at most 16 MiB: (first byte, length). -/
def Chip.cutMove (c : Chip) (src dst : Loc) : Nat → Nat → Nat → List (Nat × Nat)
  | 0, _, _ => []
  | fuel + 1, i, n =>
    if n = 0 then []
    else
      let z := min n (min 16777216 (min (max 1 (c.contiguous src i)) (max 1 (c.contiguous dst i))))
      (i, z) :: c.cutMove src dst fuel (i + z) (n - z)

/-- COPY descriptors for `n` bytes; `sdev` and `ddev` are the devices of the sides. The last one signals. -/
def Chip.copyDescs (c : Chip) (mirror : Bool) (sdev ddev : Nat) (src dst : Loc) (n signal sigDev : Nat) : List (List Byte) :=
  let cuts := c.cutMove src dst (n / 4096 + 600) 0 n
  (cuts.zipIdx).map (fun x =>
    let last := decide (x.2 + 1 = cuts.length)
    dmaDesc 1 (8 * b2n mirror) 0 x.1.2 (fabAddr sdev (c.locAddr src x.1.1)) (fabAddr ddev (c.locAddr dst x.1.1))
      (if last then signal else 0xFFFF) (if last then sigDev else 0))

/-- A place in a member device: slots and sources lie at the same local addresses in every member (R261). -/
def remoteSignalOf (dev : Nat) : Nat := 0x8000 + dev

/-- A descriptor that moves nothing and, once every earlier one of its channel has completed, releases entry `q` of shelf 254 (R155, R242). -/
def releaseDesc (q : Nat) : List Byte :=
  leBytes 1 4 ++ leBytes 1 6 ++ leBytes 2 0 ++ leBytes 4 1 ++ leBytes 2 1 ++ leBytes 2 0xFFFF ++ leBytes 4 0 ++ leBytes 8 0 ++ leBytes 8 0 ++
    leBytes 8 0 ++ leBytes 2 0x90FE ++ leBytes 2 q ++ leBytes 2 0 ++ leBytes 2 0xFFFF ++ leBytes 16 0

/-- The release that ends a collective which reads a gradient piece (R155). -/
def Chip.colRelease (c : Chip) (cl : Nat) (b : List Byte) (n : Nat) : List (List Byte) :=
  if Col.staged b && n != 0 then [releaseDesc ((c.shelf (.commons cl 254)).oldest.getD 0)] else []

/-- First descriptors of a collective: all of an ALL_GATHER, the pushes of a REDUCE_SCATTER (R262, R263, R264). -/
def Chip.colFirst (c : Chip) (b : List Byte) (mem : List Nat) (src dst slot : Loc) (n : Nat) : List (List Byte) :=
  let me := c.deviceId
  if Col.coll b = 1 then
    (mem.zipIdx).flatMap (fun x => c.copyDescs (Col.mirror b && x.1 != me) x.1 me src (dst.plus (x.2 * n)) n 0xFFFF 0)
  else
    (mem.zipIdx).flatMap (fun x =>
      if x.2 = Col.rank b then []
      else if n = 0 then [dmaDesc 4 0 0 1 0 0 (Col.arriveSync b) (remoteSignalOf x.1)]
      else c.copyDescs false me x.1 (src.plus (x.2 * n)) (slot.plus (Col.rank b * Col.slotPitch b)) n (Col.arriveSync b)
        (remoteSignalOf x.1))

/-- Cut `n` source bytes from byte `i` of a REDUCE into pieces contiguous on both sides; elements of `a` bytes become elements of `d`. -/
def Chip.cutReduce (c : Chip) (src dst : Loc) (a d : Nat) : Nat → Nat → Nat → List (Nat × Nat)
  | 0, _, _ => []
  | fuel + 1, i, n =>
    if n = 0 then []
    else
      let z := min n (min 16777216 (min (max a (c.contiguous src i)) (max a (c.contiguous dst (i / a * d) / d * a))))
      (i, z) :: c.cutReduce src dst a d fuel (i + z) (n - z)

/-- Element sizes of a collective. -/
def Col.szC (b : List Byte) : Nat := if fmtC b = 8 then 4 else 2
def Col.szR (b : List Byte) : Nat := if fmtR b = 8 then 4 else 2

/-- The addends of a REDUCE_SCATTER in member order (R263). -/
def colAddends (b : List Byte) (mem : List Nat) (src slot : Loc) (n : Nat) : List Loc :=
  (upto mem.length).map (fun j => if j = Col.rank b then src.plus (j * n) else slot.plus (j * Col.slotPitch b))

/-- Descriptors of the sum, in member order, each behind a fence: a COPY of the first addend where neither ACCUM nor a conversion is asked
for, and REDUCEs (R263). -/
def Chip.colSum (c : Chip) (b : List Byte) (mem : List Nat) (src dst slot : Loc) (n : Nat) : List (List Byte) :=
  let me := c.deviceId
  let add (l : Loc) : List (List Byte) :=
    (c.cutReduce l dst (Col.szC b) (Col.szR b) (n / 4096 + 600) 0 n).map (fun x =>
      dmaDesc 3 4 (Col.fmtC b + 16 * Col.fmtR b) x.2 (fabAddr me (c.locAddr l x.1))
        (fabAddr me (c.locAddr dst (x.1 / Col.szC b * Col.szR b))) 0xFFFF 0)
  if n = 0 then []
  else match colAddends b mem src slot n with
    | [] => []
    | f :: r =>
      (if Col.accum b then add f else if Col.fmtC b = Col.fmtR b then c.copyDescs false me me f dst n 0xFFFF 0 else []) ++ r.flatMap add

/-- One element of the first addend converted into DST with RNE; the code is that of the access that fails (R263). -/
def Chip.colElement (c : Chip) (ag : Agent) (b : List Byte) (f dst : Loc) (i : Nat) : Chip × Code :=
  let (c, code, raw) := c.agentRead ag (c.locAddr f (Col.szC b * i)) (Col.szC b)
  if code != COMP_OK then (c, code)
  else
    let v := if Col.fmtC b = 8 then of32 (leNat raw) else Fmt.bf16.decode (leNat raw)
    let out := if Col.fmtR b = 8 then v.to32 else Fmt.bf16.encode .rne v
    c.agentWrite ag (c.locAddr dst (Col.szR b * i)) (ones (Col.szR b)) (leBytes (Col.szR b) out)

/-- Without ACCUM, a first addend in another format enters DST converted with RNE (R263). No descriptor of R241 converts: the control core does it, as one move
that ends with COMP_PARTIAL when an access fails (DESIGN CHOICE: log entry 107). -/
def Chip.colConvert (c : Chip) (cl part : Nat) (b : List Byte) (mem : List Nat) (src dst slot : Loc) (n : Nat) : Chip × Code :=
  if Col.accum b || Col.fmtC b = Col.fmtR b then (c, COMP_OK)
  else match colAddends b mem src slot n with
    | [] => (c, COMP_OK)
    | f :: _ => forAll (upto (n / Col.szC b)) (c, COMP_OK) (fun x i =>
        let y := x.1.colElement (rseqAgent cl part) b f dst i
        (y.1, if y.2 = COMP_OK then x.2 else COMP_PARTIAL))

/-- Post descriptors on a channel: their serial numbers. -/
def Chip.dmaPostAll (c : Chip) (cl n part : Nat) : List (List Byte) → Chip × List Nat
  | [] => (c, [])
  | b :: r =>
    let (c, s) := c.dmaPost cl n part b
    let (c, l) := c.dmaPostAll cl n part r
    (c, s :: l)

end Sys2Proof.Machine
end

