-- ==== Sys2Proof/Machine/Trail.lean ====
section
/-! DEFINITION. The trail of a step's data (R123, R187, R188, R199, R200, R378): whether the scratchpad bytes that a program's commands read are those that the descriptor
names, and where the bytes that they write must go. An SP_MOVE brings them from commons and takes them there; what a reference names elsewhere the planner moves
into and out of commons (R378; DESIGN CHOICE: log entry 148). -/

namespace Sys2Proof.Machine

/-- The rows that a command reads or writes: for a format and a row, the reference field that names them and a byte from its place. -/
abbrev Src := Nat → Nat → Nat × Nat

/-- Rows from `row` on at a pitch, from element `elem` of each on. -/
def affine (ref pitch row elem : Nat) : Src := fun fmt r => (ref, (row + r) * pitch + rowBytes fmt elem)

/-- The scale bytes of rows at a pitch, one for every 32 elements (R128). -/
def scaleRows (ref pitch row elem : Nat) : Src := fun fmt r => (ref, (row + r) * (pitch / blockBytes fmt) + elem / 32)

/-- The scale bytes of the columns from `col` on of a stored weight tile, a row of them for every 32 K-rows (R128). -/
def scaleCols (ref pitch k col : Nat) : Src := fun fmt r => (ref, (k / 32 + r) * (pitch * 8 / elemBits fmt) + col)

/-- A core whose programs are compared, and the place that each reference of its step names. -/
structure Trail where
  c : Chip
  cl : Nat
  k : Nat
  loc : Nat → Loc

/-- Does an address lie in the commons of the trail's cluster? -/
def Trail.near (x : Trail) (a : Nat) : Bool := decide (cmBase x.cl ≤ a) && decide (a < cmBase x.cl + cmSize)

/-- Does an address lie in the trail's own scratchpad? -/
def Trail.own (x : Trail) (a : Nat) : Bool := decide (spBase x.cl x.k ≤ a) && decide (a < spBase x.cl x.k + 0x400000)

/-- The local addresses of `n` bytes of a place from byte `i` on: (first of them counted from `i`, number, address). -/
def Trail.pieces (x : Trail) (l : Loc) (i n : Nat) : List (Nat × Nat × Nat) :=
  (x.c.cutMove l l 3 i n).map (fun p => (p.1 - i, p.2, x.c.locAddr l p.1))

/-- Do `n` scratchpad bytes hold those at address `a`: by lying there, by the newest SP_MOVE over them, or, where no command of the step has written them, by what they hold
already (R200: what a core holds from one piece to the next is not read again)? What the planner must move into commons first. -/
def Trail.holds (x : Trail) (p : CoreProg) (a off n : Nat) : Option (List Staged) :=
  if x.own a then (if a = spBase x.cl x.k + off then some [] else none)
  else match p.copies.find? (fun y => overlaps y.off y.len off n) with
    | none => if x.c.spRead x.cl x.k off n == x.c.locBytes a n then some [] else none
    | some y => match y.addr with
      | none => none
      | some cm =>
        let at' := cm + (off - y.off)
        if !inside off n y.off y.len then none
        else if x.near a then (if at' = a then some [] else none)
        else some [⟨at', n, a⟩]

/-- Collect what several checks ask for; none when one fails. -/
def allOf {α : Type} (l : List (Option (List α))) : Option (List α) := l.foldr (fun a r => a.bind (fun x => r.map (x ++ ·))) (some [])

/-- Do the rows of a scratchpad region hold those that a reference names? -/
def Trail.rows (x : Trail) (p : CoreProg) (f : Option Src) (fmt off pitch n count : Nat) : Option (List Staged) :=
  match f with
  | none => some []
  | some f => if n = 0 then some [] else allOf ((upto count).map (fun r =>
      let s := f fmt r
      allOf ((x.pieces (x.loc s.1) s.2 n).map (fun q => x.holds p q.2.2 (off + r * pitch + q.1) q.2.1))))

/-- Where the rows of a result must go: a place in commons, or, from any place in commons, on to one elsewhere. What lies in the own scratchpad is stored there at
once; `src` is the region that an ACC_STORE writes, none for one that a VE_RUN forms. -/
def Trail.owes (x : Trail) (f : Src) (fmt : Nat) (src : Option (Nat × Nat)) (n count : Nat) : Option (List Owed) :=
  if n = 0 then some [] else allOf ((upto count).map (fun r =>
    let s := f fmt r
    allOf ((x.pieces (x.loc s.1) s.2 n).map (fun q =>
      let off := src.map (fun o => o.1 + r * o.2 + q.1)
      if x.own q.2.2 then (if off.all (fun o => decide (q.2.2 = spBase x.cl x.k + o)) then some [] else none)
      else if x.near q.2.2 then some [⟨off, q.2.1, q.2.2, q.2.2 + q.2.1, none⟩]
      else some [⟨off, q.2.1, cmBase x.cl, cmBase x.cl + cmSize, some q.2.2⟩]))))

/-- Partial sums that an ACC_STORE writes go to some place in commons (R199). -/
def Trail.partials (x : Trail) (off pitch n count : Nat) : List Owed :=
  (upto count).map (fun r => ⟨some (off + r * pitch), n, cmBase x.cl, cmBase x.cl + cmSize, none⟩)

/-- The place in commons to which a pushed row takes an owed one; `ve` says that a VE_RUN has formed the results. A claimed entry has no place yet: it takes what may go
anywhere. -/
def Owed.paid (o : Owed) (ve : Bool) (off len : Nat) (cm : Option Nat) : Option Nat :=
  match o.off, cm with
  | some s, some a => if inside s o.len off len && inside (a + (s - off)) o.len o.lo (o.hi - o.lo) then some (a + (s - off)) else none
  | some s, none => if inside s o.len off len && o.out.isNone && o.hi - o.lo == cmSize then some 0 else none
  | none, some a => if !ve then none
      else if o.hi - o.lo = o.len then (if inside o.lo o.len a len then some o.lo else none) else if o.len ≤ len then some a else none
  | none, none => none

/-- A pushed row pays what it owes; of the results that a VE_RUN forms and the planner moves on, one. `free` says that it has not yet done so. -/
def payRow (ve : Bool) (off len : Nat) (cm : Option Nat) : Bool → List Owed → List Owed × List Staged
  | _, [] => ([], [])
  | free, o :: r =>
    let one := o.off.isNone && o.out.isSome
    match (if one && !free then none else o.paid ve off len cm) with
    | none => let (l, s) := payRow ve off len cm free r; (o :: l, s)
    | some a =>
      let (l, s) := payRow ve off len cm (free && !one) r
      (l, match o.out with | some t => ⟨a, o.len, t⟩ :: s | none => s)

/-- The commons bytes of row `i` of an SP_MOVE: (first of them in the row, number, address); with CLAIM the address is not known yet. -/
def Trail.moveRow (x : Trail) (bs : List Byte) (i : Nat) : List (Nat × Nat × Option Nat) :=
  let at' := mvCmOff bs + i * mvCmPitch bs
  if mvClaim bs then [(0, mvRowBytes bs, none)]
  else
    let l : Loc := match moveShelf x.cl bs with
      | some r => .entry r (mvSeq bs) 0
      | none => .abs (cmBase x.cl)
    (x.pieces l at' (mvRowBytes bs)).map (fun q => (q.1, q.2.1, some q.2.2))

/-- An SP_MOVE (R156, R157): a pull writes the scratchpad, where no owed result may stand; a push pays what it carries. -/
def Trail.move (x : Trail) (p : CoreProg) (a : ProgAlt) (bs : List Byte) : Option (CoreProg × ProgAlt) :=
  let rows := (upto (mvRows bs)).flatMap (fun i => (x.moveRow bs i).map (fun q => (mvCoreOff bs + i * mvCorePitch bs + q.1, q.2)))
  if mvPush bs then
    let y := rows.foldl (fun (s : List Owed × List Staged) r => let (l, o) := payRow p.ve r.1 r.2.1 r.2.2 true s.1; (l, s.2 ++ o)) (a.owed, a.outs)
    some (p, { a with owed := y.1, outs := y.2 })
  else if rows.any (fun r => a.owed.any (fun o => o.off.any (fun s => overlaps s o.len r.1 r.2.1))) then none
  else some ({ p with copies := rows.reverse.map (fun r => ⟨r.1, r.2.1, r.2.2⟩) ++ p.copies }, a)

/-- What the planner moves into commons has one place there for each of its bytes: nothing else is moved to it in the step. -/
def stagedOk (l : List Staged) : Bool :=
  l.all (fun a => l.all (fun b => !overlaps a.cm a.len b.cm b.len || a.addr + b.cm == b.addr + a.cm))

/-- The planner's moves into commons (R378). -/
def Chip.stageIn (c : Chip) (cl part : Nat) (l : List Staged) : Chip :=
  forAll l c (fun c s => (c.noteReads (rseqAgent cl part) [(s.addr, s.len)]).poke s.cm (c.locBytes s.addr s.len))

/-- The planner's moves of results out of commons, when their step has completed. -/
def Chip.stageOut (c : Chip) (cl part : Nat) (l : List Staged) : Chip :=
  forAll l c (fun c s => (c.agentWrite (rseqAgent cl part) s.addr (ones s.len) (c.locBytes s.cm s.len)).1)

end Sys2Proof.Machine
end

