-- ==== Sys2Proof/Machine/Programs.lean ====
section
/-! DEFINITION. The tile programs that the planner writes (R106, R192-R204, R211): the sweeps of a core's part of a step in the order of its loops, how they are cut into
programs, and whether a program that PROGRAM_WRITE brings is one of them, with operands and results where the descriptor has them. Which scratchpad bytes a command
names, and where moves, waits and signals stand, is firmware's (log entry 40). -/

namespace Sys2Proof.Machine

/-! What a program must hold. -/

/-- The ACC_STORE of a tile (R192, R197, R199, R200): rows, columns, and what is fixed of format, ADD and SCALE; whether it is a final one, which writes MAXABS; the
tile that must have been stored before; the tile whose place it shares; whether its partial sums go to commons; the rows of the result, and whether a VE_RUN forms them from
what is stored, with its format, rows and columns. -/
structure StoreSpec where
  rows : Nat := 0
  cols : Nat := 0
  fmt : Option Nat := none
  add : Option Bool := none
  scale : Option Int := none
  max : Bool := false
  after : Option Nat := none
  home : Option Nat := none
  part : Bool := false
  out : Option Src := none
  ve : Option (Nat × Nat × Nat) := none

/-- The TB_LOAD behind a sweep that reads a tile of the TB (R106, R109): queue, stored rows and columns, format, conversion, a key that the sweeps of one tile share, its
stored rows, and the uses where they are fixed. -/
structure LoadSpec where
  w : Bool
  rows : Nat
  cols : Nat
  fmt : Nat
  cvt : Bool
  key : Nat
  src : Src
  uses : Option Nat := none

/-- A sweep: opcode, sizes, output tile with its first and last sweep, flags, the weight tile it reads (column tile and K tile), formats where they are fixed, its TB tile,
the store of its tile, whether a VE_RUN must precede it, whether its VT is left to firmware, its unit, the rows of its operands and of their scales, the place of its bias,
and the result rows that a VE_RUN forms once it has run. -/
structure SweepSpec where
  op : Nat := 1
  m : Nat := 0
  n : Nat := 0
  k : Nat := 0
  tile : Nat := 0
  first : Bool := false
  last : Bool := false
  bias : Bool := false
  cvt : Bool := false
  aTb : Bool := false
  wTb : Bool := false
  keep : Bool := false
  wid : Nat × Nat := (0, 0)
  aFmt : Option Nat := none
  wFmt : Option Nat := none
  load : Option LoadSpec := none
  store : StoreSpec := {}
  ve : Bool := false
  free : Bool := false
  unit : Nat := 0
  a : Option Src := none
  w : Option Src := none
  aSc : Option Src := none
  wSc : Option Src := none
  biasAt : Nat × Nat := (0, 0)
  done : Option (Src × Nat) := none

/-- Core cycles from a sweep's start to the earliest start of the next with other weights (R75, R76, R79). -/
def SweepSpec.cycles (s : SweepSpec) : Nat := if s.keep then s.m + 1 else max (s.m + 1) (if s.op = 3 then 8 else 64)

/-- Core cycles of sweeps that follow one another. -/
def sweepCycles (l : List SweepSpec) : Nat := (l.map SweepSpec.cycles).sum

/-- The TB tiles that a program's sweeps read, each with its first reader and its uses (R106). -/
def loadsOf (l : List SweepSpec) (w : Bool) : List (LoadSpec × Nat × Nat) :=
  (l.zipIdx).foldl (fun acc s => match s.1.load with
    | some d => if d.w != w then acc
      else match acc.getLast? with
        | some (e, f, u) => if e.key = d.key && u < 8 then acc.dropLast ++ [(e, f, u + 1)] else acc ++ [(d, s.2, 1)]
        | none => [(d, s.2, 1)]
    | none => acc) []

/-- Column and scale accesses of a tile (R108, R115). -/
def LoadSpec.accesses (d : LoadSpec) : Nat :=
  let src := if d.cvt then 0 else d.fmt
  let rows := ceilDiv d.rows 32
  let width := match elemBits src with | 16 => 8 | 8 => 16 | 6 => 64 | _ => 32
  rows * ceilDiv d.cols width * (if elemBits src = 6 then 3 else 1) + (if isMx src then rows else 0)

/-- Estimate of consecutive sweeps (R211): the busiest of the array, the ACC_STOREs at a row a cycle, and the TB. -/
def estSweeps (l : List SweepSpec) : Nat :=
  max (max (sweepCycles l) ((l.filter (·.last)).map (·.store.rows)).sum)
    ((loadsOf l true ++ loadsOf l false).map (fun e => e.1.accesses)).sum

/-! Loops (R197, R199-R204). -/

/-- Sizes of the tiles of a dimension (R195); a dimension of 0 along K is one tile of 0 (R193). -/
def tileSizes (d t : Nat) : List Nat := (upto (ceilDiv d t)).map (fun i => min t (d - t * i))
def kTiles (k t : Nat) : List Nat := if k = 0 then [0] else tileSizes k t

/-- The pairs of two counters, either one outermost. -/
def gridOrder (rowsFirst : Bool) (a b : Nat) : List (Nat × Nat) :=
  if rowsFirst then (upto a).flatMap (fun i => (upto b).map (fun j => (i, j))) else (upto b).flatMap (fun j => (upto a).map (fun i => (i, j)))

/-- The tiles of a product: sizes along M, N and K, the band, the number of its first tile, the sweep that all of them share, and what a sweep reads and writes from its
first row, column and K position on. -/
structure Tiling where
  ms : List Nat
  ns : List Nat
  ks : List Nat
  bm : Nat
  bn : Nat
  id : Nat
  base : SweepSpec
  place : Nat → Nat → Nat → SweepSpec → SweepSpec

def Tiling.tile (x : Tiling) (i j : Nat) : Nat := x.id + i * x.ns.length + j

/-- What the sweep of tiles `i`, `j` and `q` reads and writes. -/
def Tiling.at (x : Tiling) (i j q : Nat) (s : SweepSpec) : SweepSpec := x.place (x.ms.take i).sum (x.ns.take j).sum (x.ks.take q).sum s

/-- The sweep of output tile (i, j) and K tile `q` of those from `lo` to `hi`. -/
def Tiling.sweep (x : Tiling) (lo hi : Nat) (i j q : Nat) : SweepSpec :=
  x.at i j q { x.base with
    m := x.ms.getD i 0, n := x.ns.getD j 0, k := x.ks.getD q 0, tile := x.tile i j, first := q == lo, last := q + 1 == hi, bias := x.base.bias && q == 0
    wid := (j, q), store := { x.base.store with rows := x.ms.getD i 0, cols := x.ns.getD j 0 } }

/-- Output band (R200): bands; K tiles; tiles of the band. Bits 0 and 1 of `alt` choose whether rows or columns are outermost (log entry 116). -/
def Tiling.band (x : Tiling) (alt : Nat) : List (List (List SweepSpec)) :=
  let mt := x.ms.length
  let nt := x.ns.length
  (gridOrder (bit alt 0) (ceilDiv mt x.bm) (ceilDiv nt x.bn)).map (fun b =>
    (upto x.ks.length).map (fun q =>
      (gridOrder (bit alt 1) (min x.bm (mt - b.1 * x.bm)) (min x.bn (nt - b.2 * x.bn))).map (fun t =>
        x.sweep 0 x.ks.length (b.1 * x.bm + t.1) (b.2 * x.bn + t.2) q)))

/-- K outermost (R200): chunks of K; output tiles; sweeps of the chunk, stored in FP32 with ADD after the first chunk, at the tile's place in the partial region. A VE_RUN forms
the result from the last chunk's. -/
def Tiling.outerK (x : Tiling) (alt perChunk : Nat) : List (List (List SweepSpec)) :=
  let tiles := x.ms.length * x.ns.length
  (upto (ceilDiv x.ks.length (max 1 perChunk))).map (fun ch =>
    let lo := ch * max 1 perChunk
    let hi := min x.ks.length (lo + max 1 perChunk)
    (gridOrder (bit alt 0) x.ms.length x.ns.length).map (fun t =>
      (upto (hi - lo)).map (fun q =>
        let s := { x with id := x.id + ch * tiles }.sweep lo hi t.1 t.2 (lo + q)
        { s with store := { s.store with
          fmt := some 8, add := some (ch != 0), scale := none, max := false, home := some (x.tile t.1 t.2)
          out := if hi = x.ks.length then s.store.out else none, ve := some (s.store.fmt.getD 0, s.m, s.n) } })))

/-- Wide-and-shallow (R197): column tiles of 256; weight tiles of 8p; row groups of 8. The weight tiles go to two chains by turns, each with its VTs; all but the last row
group keep the weights; each VT is stored as 64 rows by 32 columns in FP32, the second chain with ADD on the first one's panel. A VE_RUN forms the result from the
last. -/
def Tiling.shallow (x : Tiling) : List (List (List SweepSpec)) :=
  let g := x.ms.length
  (upto x.ns.length).map (fun j =>
    (upto x.ks.length).map (fun q =>
      (upto g).map (fun i =>
        let id := x.id + (j * g + i) * 2
        let s := x.at i j q { x.base with
          op := 3, m := x.ms.getD i 0, n := x.ns.getD j 0, k := x.ks.getD q 0, tile := id + q % 2, first := decide (q < 2), last := decide (x.ks.length ≤ q + 2)
          bias := x.base.bias && q == 0, keep := decide (i + 1 < g), wid := (j, q)
          store := { rows := 64, cols := 32, fmt := some 8, add := some (q % 2 == 1), after := if q % 2 = 1 then some id else none, home := some id
                     ve := some (x.base.store.fmt.getD 0, x.ms.getD i 0, x.ns.getD j 0) } }
        { s with store := { s.store with out := if q % 2 = 1 || x.ks.length < 2 then s.store.out else none } })))

/-- What every sweep and store of a step's own product has (R70, R187, R192). `f` is the step's plan. -/
def baseSweep (b : List Byte) (accum : Bool) (f : StepPlan) : SweepSpec :=
  let sA := if isMx (Mat.fmtA b) then 0 else f.sA
  { cvt := Mat.aCvt b && !Mat.transA b, aTb := Mat.transA b, wTb := Mat.transW b, aFmt := some (Mat.fmtA b), wFmt := some (Mat.fmtW b)
    bias := f.bias
    store := { fmt := some (Mat.fmtOut b), add := some accum, scale := some (f.sO - sA - f.sW), max := Mat.dscale b } }

/-- K of the sweeps of a convolution in RR mode (R204): CH_T channels of each of the p elements of a cell, the last sweep the channels that are left. -/
def convKs (b : List Byte) : List Nat :=
  let p := Mat.p b
  let taps := Mat.kh b * Mat.kw b
  (tileSizes (Mat.cIn b) (p * min (Mat.cIn b) (64 / taps))).map (fun ch => taps * ceilDiv ch p * p)

/-- Rows of the output tiles of a product: 64 at most; those of a convolution are pixels of one line (R204). -/
def prodRows (b : List Byte) (q : Prod) : List Nat :=
  if Mat.cls b = 3 then
    let tiles := ceilDiv (Mat.outW b) 64
    (upto (ceilDiv (spanLen q.rows) 64)).map (fun i => min 64 (Mat.outW b - 64 * ((q.rows.1 / 64 + i) % tiles)))
  else tileSizes (spanLen q.rows) 64

/-- Bytes between the rows of a dW matrix: its rows are those of W, K elements of BF16 each (DESIGN CHOICE: log entry 149). -/
def dwPitch (k : Nat) : Nat := rowBytes 0 k

/-- What a sweep of a product reads and writes, from output row, output column and K position on (R187, R201, R202). `org` are the first row and column of the cluster's
share and the step's K. Rows of dY lie W_PITCH apart (DESIGN CHOICE: log entry 149); the lines of a convolution are left to firmware (log entry 115). -/
def prodPlace (b : List Byte) (f : StepPlan) (org : Nat × Nat × Nat) (q : Prod) (row col k : Nat) (s : SweepSpec) : SweepSpec :=
  let r := q.rows.1 + row
  let c := q.cols.1 + col
  let store (out : Src) : StoreSpec := { s.store with out := some out }
  if Mat.cls b = 3 then s
  else match q.kind with
    | 1 => { s with
        a := some (affine (Mat.auxRef b) (Mat.wPitch b) r k), store := store (affine (Mat.outRef b) (Mat.outPitch b) r c)
        load := some ⟨true, s.n, s.k, Mat.fmtW b, false, c * 2 ^ 32 + k, affine (Mat.wRef b) (Mat.wPitch b) c k, none⟩ }
    | 2 => { s with
        w := some (affine (Mat.auxRef b) (Mat.wPitch b) (org.1 + k) c), store := store (affine (Mat.listRef b) (dwPitch org.2.2) (r - org.2.1) c)
        load := some ⟨false, s.k, s.m, Mat.fmtA b, Mat.aCvt b, r * 2 ^ 32 + k, affine (Mat.aRef b) (Mat.aPitch b) (org.1 + k) r, none⟩ }
    | _ =>
      let g := if Mat.cls b = 4 then f.groups.getD q.group (0, 0) else (Mat.wRef b, 0)
      { s with
        a := some (affine (Mat.aRef b) (Mat.aPitch b) (g.2 + r) k), w := some (affine g.1 (Mat.wPitch b) k c)
        aSc := some (scaleRows (Mat.aScRef b) (Mat.aPitch b) (g.2 + r) k), wSc := some (scaleCols (Mat.wScRef b) (Mat.wPitch b) k c)
        biasAt := (Mat.auxRef b, 4 * c), store := store (affine (Mat.outRef b) (Mat.outPitch b) (g.2 + r) c)
        load := if Mat.transA b then some ⟨false, s.k, s.m, Mat.fmtA b, Mat.aCvt b, r * 2 ^ 32 + k, affine (Mat.aRef b) (Mat.aPitch b) k (g.2 + r), none⟩
          else if Mat.transW b then some ⟨true, s.n, s.k, Mat.fmtW b, false, c * 2 ^ 32 + k, affine g.1 (Mat.wPitch b) c k, none⟩ else none }

/-- The sweeps of a product (R195-R201, R204); a product of kind 1 or 2 stands in for the units of a backward step, with the TB queue that R201 names. -/
def prodSweeps (b : List Byte) (accum : Bool) (f : StepPlan) (org : Nat × Nat × Nat) (id alt : Nat) (q : Prod) : List (List (List SweepSpec)) :=
  let p := Mat.p b
  let base := baseSweep b accum f
  let base := match q.kind with
    | 1 => { base with aTb := false, wTb := true, cvt := false, aFmt := none }
    | 2 => { base with aTb := true, wTb := false, cvt := false, wFmt := none, store := { fmt := some 0, add := some false } }
    | _ => base
  let ms := prodRows b q
  let ns := tileSizes (spanLen q.cols) 32
  let ks := if q.mode = 2 then convKs b else kTiles q.k (64 * p)
  let place := prodPlace b f org q
  if q.mode = 3 then
    Tiling.shallow { ms := tileSizes (spanLen q.rows) 8, ns := tileSizes (spanLen q.cols) 256, ks := kTiles q.k (8 * p), bm := 1, bn := 1, id := id, base := base, place := place }
  else
    let x : Tiling :=
      { ms := ms, ns := ns, ks := ks, bm := max 1 q.bm, bn := max 1 q.bn, id := id, base := { base with op := if q.mode = 2 then 2 else 1 }, place := place }
    if q.ko then x.outerK alt q.chunk else x.band alt

/-- Two lists by turns, the first one first; what is left of the longer one follows. -/
def alternate {α : Type} : List α → List α → List α
  | [], r => r
  | a :: l, [] => a :: l
  | a :: l, b :: r => a :: b :: alternate l r

/-- One unit of a backward step (R106): the dX sweeps of its token groups for each k half, reading Wᵀ tiles, by turns with the dW sweeps of its n groups, reading the Xᵀ
tile. `u` numbers the unit, `kw` is the slab's k width, `tok` and `nk` the square's tokens and n, `ids` the first dX and dW tile, `pos` the square's first token, the
slab's first k, of the cluster's and of all, and the square's first n. A dX tile stays in its core; `low` says that the core sums a shared slab's dW (R199). -/
def unitSweeps (b : List Byte) (accum : Bool) (f : StepPlan) (u kw tok nk ntot : Nat) (ids : Nat × Nat) (pos : Nat × Nat × Nat × Nat)
    (firstN lastN lastBlock block0 firstT lastT shared low : Bool) : List SweepSpec :=
  let base := { baseSweep b accum f with bias := false, cvt := false, unit := u }
  let groups := tileSizes tok 64
  let (t0, k0, kAbs, n0) := pos
  let dX := ((tileSizes kw 32).zipIdx).flatMap (fun h => (groups.zipIdx).map (fun t =>
    { base with
      m := t.1, n := h.1, k := nk, tile := ids.1 + 2 * t.2 + h.2, first := firstN, last := lastN, aTb := false, wTb := true, aFmt := none
      wid := (u, h.2), a := some (affine (Mat.auxRef b) (Mat.wPitch b) (t0 + 64 * t.2) n0)
      load := some ⟨true, h.1, nk, Mat.fmtW b, false, 3 * u + h.2, affine (Mat.wRef b) (Mat.wPitch b) (kAbs + 32 * h.2) n0, some groups.length⟩
      store := { base.store with
        rows := t.1, cols := h.1, add := some (if block0 then accum else true), max := Mat.dscale b && lastBlock, home := some ((t0 / 64 + t.2) * 2 ^ 20 + k0 / 32 + h.2) } }))
  let nGroups := tileSizes nk 32
  let dW := (nGroups.zipIdx).map (fun g =>
    { base with
      m := kw, n := g.1, k := tok, tile := ids.2 + g.2, first := firstT, last := lastT, aTb := true, wTb := false, wFmt := none
      wid := (u, 2 + g.2), w := some (affine (Mat.auxRef b) (Mat.wPitch b) t0 (n0 + 32 * g.2))
      load := some ⟨false, tok, kw, Mat.fmtA b, Mat.aCvt b, 3 * u + 2, affine (Mat.aRef b) (Mat.aPitch b) t0 kAbs, some nGroups.length⟩
      store :=
        { rows := kw, cols := g.1, fmt := some (if shared then 8 else 0), add := some false, part := shared, ve := if shared then some (0, kw, g.1) else none
          out := if shared && !low then none else some (affine (Mat.listRef b) (dwPitch ntot) k0 (n0 + 32 * g.2)) } })
  alternate dX dW

/-- The units of one slab (R199, R200): blocks of n-squares; token squares; n-squares of the block; unit. `m`, `n` and `k` are the cluster's tokens, dX columns and
reduction, `org` its first token and column. -/
def slabSweeps (b : List Byte) (accum : Bool) (f : StepPlan) (org : Nat × Nat × Nat) (m n k block : Nat) (low : Bool) (slab : Nat × Nat × Nat × Bool) :
    List (List (List (List SweepSpec))) :=
  let sq := 64 * Mat.p b
  let nsq := ceilDiv k sq
  let tsq := ceilDiv m sq
  let kw := min 64 (n - 64 * slab.1)
  let blocks := ceilDiv nsq (max 1 block)
  (upto blocks).map (fun bl =>
    let lo := bl * max 1 block
    let hi := min nsq (lo + max 1 block)
    (upto (slab.2.2.1 - slab.2.1)).map (fun dt =>
      let t := slab.2.1 + dt
      (upto (hi - lo)).map (fun dj =>
        let j := lo + dj
        let u := (slab.1 * tsq + t) * nsq + j
        unitSweeps b accum f u kw (min sq (m - sq * t)) (min sq (k - sq * j)) k
          (2 * (((slab.1 * tsq + t) * blocks + bl) * 16), 2 * ((slab.1 * nsq + j) * 16) + 1) (org.1 + sq * t, 64 * slab.1, org.2.1 + 64 * slab.1, sq * j)
          (dj == 0) (j + 1 == hi) (bl + 1 == blocks) (bl == 0) (dt == 0) (t + 1 == slab.2.2.1) slab.2.2.2 low)))

/-- Row `r` of the keys (`v` = 0) or values (1) of sequence `i` (R203, R378): in its pages where the batch gives them, else behind those of the sequences before it, W_PITCH apart
(DESIGN CHOICE for the values: log entry 149); from element `elem` of the row on. -/
def kvRows (b : List Byte) (kv : Option KvRun) (start i v first elem : Nat) : Src := fun fmt r =>
  match kv with
  | none => affine (if v = 0 then Mat.wRef b else Mat.auxRef b) (Mat.wPitch b) (start + first) elem fmt r
  | some x =>
    let t := max 1 x.tokens
    ((x.pages.getD i []).getD ((first + r) / t) 0 + ((x.slot + v) * t + (first + r) % t) * x.rowBytes + rowBytes fmt elem, 0)

/-- One query block against one key block (R203): the scores, reading Kᵀ from the W queue, then, after a VE_RUN of the softmax update, the product with V. VTs and
stores are firmware's. Heads lie side by side in a row (DESIGN CHOICE: log entry 149); `rows` are the first row of the query block in Q and in the output and that of the sequence's
keys. After the `last` key block the block's output is formed. -/
def blockSweeps (b : List Byte) (f : StepPlan) (kv : Option KvRun) (alt : Nat) (i h : Nat) (rows : Nat × Nat) (key m keys k : Nat) (last : Bool) : List SweepSpec :=
  let p := Mat.p b
  let base := { baseSweep b false f with free := true, bias := false }
  let head := (Mat.headFirst b + h) * Mat.headDim b
  let ns := tileSizes keys 32
  let ks := kTiles k (64 * p)
  let vs := tileSizes k 32
  let vk := kTiles keys (64 * p)
  let score := (gridOrder (bit alt 0) ns.length ks.length).map (fun t =>
    { base with
      m := m, n := ns.getD t.1 0, k := ks.getD t.2 0, aTb := false, wTb := true, wid := t, a := some (affine (Mat.aRef b) (Mat.aPitch b) rows.1 (head + 64 * p * t.2))
      load := some ⟨true, ns.getD t.1 0, ks.getD t.2 0, Mat.fmtW b, false, ((rows.1 * 256 + h) * 2 ^ 32 + key + 32 * t.1) * 2 ^ 20 + t.2, kvRows b kv rows.2 i 0 (key + 32 * t.1) (head + 64 * p * t.2), none⟩ })
  let out := (gridOrder (bit alt 1) vs.length vk.length).map (fun t =>
    { base with
      m := m, n := vs.getD t.1 0, k := vk.getD t.2 0, aTb := false, wTb := false, cvt := false, wid := t, aFmt := none, wFmt := none
      w := some (kvRows b kv rows.2 i 1 (key + 64 * p * t.2) (head + 32 * t.1)) })
  let out := match out with | x :: r => { x with ve := true } :: r | [] => []
  let ends (s : SweepSpec) : SweepSpec := { s with done := some (affine (Mat.outRef b) (Mat.outPitch b) rows.1 head, k) }
  score ++ (if last then out.dropLast ++ out.getLast?.toList.map ends else out)

/-- The query block `q` (sequence, block, head) of an ATTN operation: its key blocks, each with its sweeps. -/
def queryBlock (b : List Byte) (f : StepPlan) (kv : Option KvRun) (k alt : Nat) (q : Nat × Nat × Nat) : List (List (List (List SweepSpec))) :=
  let s := f.seqs.getD q.1 ⟨0, 0, 0⟩
  let before := f.seqs.take q.1
  let kb := keyBlocks (Mat.causal b) s q.2.1
  kb.map (fun j => [[blockSweeps b f kv alt q.1 q.2.2 ((before.map (·.q)).sum + 64 * q.2.1, (before.map (·.len)).sum) (64 * j) (min 64 (s.q - 64 * q.2.1))
    (min 64 (s.len - 64 * j)) k (j + 1 == kb.length)]])

/-- The sweeps of a core's part of a step as a nest of loops: products, slabs or query blocks; the loops within; sweeps. -/
def CorePlan.nest (x : CorePlan) (b : List Byte) (accum : Bool) (f : StepPlan) (kv : Option KvRun) (org : Nat × Nat × Nat) (m n k alt : Nat) :
    List (List (List (List (List SweepSpec)))) :=
  if Mat.cls b = 5 then x.blocks.map (queryBlock b f kv k alt)
  else if !x.slabs.isEmpty then x.slabs.map (slabSweeps b accum f org m n k x.block x.needVe)
  else x.prods.zipIdx.map (fun q => [prodSweeps b accum f org (q.2 * 2 ^ 40) alt q.1])

/-! Cutting into programs (R211). -/

/-- The fewest consecutive groups of iterations that fit `lim`, as even as whole iterations allow, earlier groups longer. -/
def evenGroups (lim : Nat) (its : List (List SweepSpec)) : List (List SweepSpec) :=
  let n := its.length
  let groups (g : Nat) : List (List SweepSpec) := (upto g).map (fun i =>
    let r := partOfN n g i
    ((its.drop r.1).take (r.2 - r.1)).flatten)
  match (upto n).find? (fun g => (groups (g + 1)).all (fun l => decide (estSweeps l ≤ lim))) with
  | some g => groups (g + 1)
  | none => its

/-- Cut one loop: whole where it fits, in even groups where each iteration fits, else each iteration by itself. -/
def cutLoop {α : Type} (flat : α → List SweepSpec) (cut : α → List (List SweepSpec)) (lim : Nat) (l : List α) : List (List SweepSpec) :=
  let its := l.map flat
  if estSweeps its.flatten ≤ lim then [its.flatten]
  else if its.all (fun i => decide (estSweeps i ≤ lim)) then evenGroups lim its
  else l.flatMap cut

/-- The sweeps of each program of a core (R211). -/
def cutNest (lim : Nat) (l : List (List (List (List (List SweepSpec))))) : List (List SweepSpec) :=
  let c1 (l : List SweepSpec) := cutLoop (fun s => [s]) (fun s => [[s]]) lim l
  let c2 (l : List (List SweepSpec)) := cutLoop id c1 lim l
  let c3 (l : List (List (List SweepSpec))) := cutLoop List.flatten c2 lim l
  let c4 (l : List (List (List (List SweepSpec)))) := cutLoop (fun x => x.flatten.flatten) c3 lim l
  cutLoop (fun x => x.flatten.flatten.flatten) c4 lim l

/-- The sweeps of the next program once `done` have been written: those of the program that begins there, or what is left of the one that holds them when the limit has
changed meanwhile. -/
def nextSweeps : Nat → List (List SweepSpec) → List SweepSpec
  | _, [] => []
  | done, p :: r => if done < p.length || (done = 0 && r.isEmpty) then p.drop done else nextSweeps (done - p.length) r

/-! Reading a program. -/

/-- The commands that a program's slots execute, LOOPs carried out, up to its END (R207); none when it runs past its slots or beyond `fuel` slots. -/
def runSlots (slots : List (List Byte)) : Nat → CoreSeq → Option (List (List Byte))
  | 0, _ => none
  | fuel + 1, q =>
    match slots[q.slot]? with
    | none => none
    | some raw =>
      let bs := q.patched q.slot raw
      let next (loops : List LoopFrame) : CoreSeq := let (l, s, _) := loopBack loops (q.slot + 1) 0; { q with loops := l, slot := s }
      match recNat bs 0 1 with
      | 0xF => some []
      | 0xE => runSlots slots fuel { q with loops := ⟨q.slot, recNat bs 1 1, recNat bs 2 2, 0, bs⟩ :: q.loops, slot := q.slot + 1 }
      | _ => (runSlots slots fuel (next q.loops)).map (bs :: ·)

/-- The slots of a program. -/
def slotsOf (bs : List Byte) : List (List Byte) := (upto (recNat bs 0 2)).map (fun i => (bs.drop (64 + 64 * i)).take 64)

/-- The commands that a program executes: the planner writes none of more than 2^20 slots executed (log entry 116). -/
def programCmds (bs : List Byte) : Option (List (List Byte)) := runSlots (slotsOf bs) (2 ^ 20) {}

/-- Opcode of a command slot. -/
def tpOp (bs : List Byte) : Nat := recNat bs 0 1

/-- Is a command a sweep? -/
def tpSweep (bs : List Byte) : Bool := decide (1 ≤ tpOp bs) && decide (tpOp bs ≤ 3)

/-- Bytes that an SP_MOVE carries, and its core cycles on the commons port (R156, R157). -/
def moveSize (bs : List Byte) : Nat := recNat bs 2 2 * recNat bs 4 2
def moveCycles (bs : List Byte) : Nat := recNat bs 2 2 * ceilDiv (recNat bs 4 2) 128

/-- Least core cycles of a program (R211): the busiest of the array, the stores at a row a cycle, the commons port and the TB, with no contention. -/
def estLow (cmds : List (List Byte)) : Nat :=
  let total (p : List Byte → Bool) (f : List Byte → Nat) : Nat := ((cmds.filter p).map f).sum
  max (max (total tpSweep (fun b => if meKeepW b then meM b + 1 else max (meM b + 1) (if meOp b = 3 then 8 else 64))) (total (fun b => tpOp b == 4) meM))
    (max (total (fun b => tpOp b == 0xA) moveCycles) (total (fun b => tpOp b == 8) tbAccesses))

/-- The planner's estimate of a program (R211): the busiest of its resources, and what its VE_RUNs take (DESIGN CHOICE: log entry 117). -/
def estProgram (cmds : List (List Byte)) : Nat := estLow cmds + ((cmds.filter (fun b => tpOp b == 0xB)).map Config.veEstimate).sum

/-! Comparing. -/

/-- What a step's programs are compared with: descriptor, plan, the planner's data area (R205, R364), window and its effective count, whether the step adds to its
destination, the core's data, a batch's keys and values, and the first row and column of the cluster's share with the step's K. -/
structure ProgCtx where
  b : List Byte
  f : StepPlan
  area : Nat × Nat
  win : Nat
  count : Nat
  accum : Bool
  trail : Trail
  kv : Option KvRun
  org : Nat × Nat × Nat

/-- A tile of the TB that a program has loaded: its TB_LOAD, the uses left, the sweeps before it, and the scratchpad as the program had written it. -/
structure Loaded where
  cmd : List Byte
  uses : Nat
  pos : Nat
  copies : List Copy

/-- Where the comparison stands: sweeps to come, whether the sweep before keeps its weights, whether a VE_RUN has come since the last sweep, the order with its tiles and
results, the tiles in the A and W queues, the sweeps so far, the unit with its first sweep and that of the unit before, and the progress. -/
structure ProgAt where
  todo : List SweepSpec
  keep : Bool := false
  ve : Bool := false
  alt : ProgAlt
  aQ : List Loaded := []
  wQ : List Loaded := []
  pos : Nat := 0
  unit : Option (Nat × Nat × Nat) := none
  prog : CoreProg

/-- Note what the planner must move into commons; none when a check has failed. -/
def ProgAt.stage (w : ProgAt) (r : Option (List Staged)) : Option ProgAt :=
  r.map (fun l => { w with prog := { w.prog with staged := w.prog.staged ++ l.filter (fun x => !w.prog.staged.contains x) } })

/-- Does a sweep command do what a sweep of the plan says (R70, R71, R187, R192)? `next` is the plan's sweep after it. -/
def ProgCtx.sweepOk (x : ProgCtx) (s : SweepSpec) (next : Option SweepSpec) (keepBefore : Bool) (bs : List Byte) : Bool :=
  let sameW := match next with | some t => t.wid == s.wid && t.op == s.op && t.k == s.k | none => false
  meOp bs == s.op && meM bs == s.m && meN bs == s.n && meK bs == s.k && meCvt bs == s.cvt && meATb bs == s.aTb && (keepBefore || meWTb bs == s.wTb) &&
    (match s.aFmt with | some f => meFmtA bs == f | none => true) && (match s.wFmt with | some f => meFmtW bs == f | none => true) &&
    (!s.cvt || meScale bs == x.f.sA) && (if s.op = 3 then meKeepW bs == s.keep else !meKeepW bs || sameW) &&
    (s.op != 2 || (meKh bs == Mat.kh x.b && meKw bs == Mat.kw x.b && meStride bs == (if Mat.stride2 x.b then 2 else 1) && meTaps bs * Mat.p x.b == s.k)) &&
    (s.free || (meInit bs == s.first && meBiased bs == s.bias && (if meFlag bs 2 then s.last else !(s.last && s.store.max)) &&
      meWin bs == x.win && decide (meVt bs < x.count)))

/-- Do the operands that a sweep reads from the scratchpad, their scales and its bias stand where the descriptor has them (R104, R128, R187)? -/
def ProgCtx.operands (x : ProgCtx) (s : SweepSpec) (w : ProgAt) (bs : List Byte) : Option (List Staged) :=
  let t := x.trail
  let p := w.prog
  let a := meFmtA bs
  let f := meFmtW bs
  if s.m = 0 || s.n = 0 then some []
  else allOf (
    (if meATb bs then [] else
      [t.rows p s.a (if meCvt bs then 0 else a) (meAOff bs) (meAPitch bs) (rowBytes (if meCvt bs then 0 else a) s.k) s.m] ++
        if meMxA bs then [t.rows p s.aSc a (meASc bs % 2 ^ 27) (meAPitch bs / blockBytes a) (ceilDiv s.k 32) s.m] else []) ++
    (if w.keep || meWTb bs then [] else
      [t.rows p s.w f (meWOff bs) (meWPitch bs) (rowBytes f s.n) s.k] ++
        if isMx f then [t.rows p s.wSc f (meWSc bs % 2 ^ 27) (meWPitch bs * 8 / elemBits f) s.n (ceilDiv s.k 32)] else []) ++
    (if s.bias then [t.rows p (some (fun _ _ => s.biasAt)) 8 (meBias bs) 0 (4 * s.n) 1] else []))

/-- Does a tile of the TB hold what a sweep reads (R106, R109, R123, R141)? The tiles of a unit are loaded one unit ahead and used as R106 says; the sources of a backward
step stand at a pitch of 512 bytes (R123; DEDUCED: log entry 156). -/
def ProgCtx.tileOk (x : ProgCtx) (d : LoadSpec) (unit : Option (Nat × Nat × Nat)) (w : ProgAt) (e : Loaded) : Option (List Staged) :=
  let bs := e.cmd
  if tbRows bs == d.rows && tbCols bs == d.cols && tbDstFmt bs == d.fmt && tbCvt bs == d.cvt && (!d.cvt || tbScale bs == x.f.sA) &&
      (Mat.cls x.b != 2 || tbPitch bs == 512) &&
      (match d.uses, unit with
        | some n, some u => tbUses bs == n && decide (u.2.2 ≤ e.pos) && decide (e.pos ≤ u.2.1)
        | _, _ => true) then
    x.trail.rows { w.prog with copies := e.copies } (some d.src) (tbSrcFmt bs) (tbSrcOff bs) (tbPitch bs) (rowBytes (tbSrcFmt bs) d.cols) d.rows
  else none

/-- A sweep takes a use of the tile at the head of a queue; the tile goes with its last use (R113). -/
def ProgCtx.take (x : ProgCtx) (d : LoadSpec) (w : ProgAt) (q : List Loaded) : Option (List Loaded × List Staged) :=
  match q with
  | [] => none
  | e :: r => (x.tileOk d w.unit w e).map (fun l => (if e.uses ≤ 1 then r else { e with uses := e.uses - 1 } :: r, l))

/-- The TB's part of a sweep (R113): its tile, where it reads one. -/
def ProgCtx.readTb (x : ProgCtx) (s : SweepSpec) (w : ProgAt) (bs : List Byte) : Option ProgAt :=
  match s.load with
  | none => some w
  | some d =>
    if s.m = 0 || s.n = 0 || s.k = 0 || (d.w && w.keep) then some w
    else if d.w then (if meWTb bs then (x.take d w w.wQ).bind (fun r => { w with wQ := r.1 }.stage (some r.2)) else some w)
    else (x.take d w w.aQ).bind (fun r => { w with aQ := r.1 }.stage (some r.2))

/-- A sweep command against the plan: its tile is opened by its first sweep on a VT of its own and keeps it; its operands stand where they should. -/
def ProgCtx.sweep (x : ProgCtx) (w : ProgAt) (bs : List Byte) : Option ProgAt :=
  match w.todo with
  | [] => none
  | s :: r =>
    let vt := 32 * meWin bs + meVt bs
    let home := w.alt.opened.find? (fun o => o.1 == s.tile)
    let rest := w.alt.opened.filter (fun o => o.1 != s.tile)
    let homeOk := if s.first then home.isNone && w.alt.opened.all (fun o => o.2.1 != vt) else (match home with | some o => o.2.1 == vt | none => false)
    if !x.sweepOk s r.head? w.keep bs || (s.ve && !w.ve) || !(s.free || homeOk) then none
    else
      let unit := match w.unit with
        | some u => if u.1 = s.unit then u else (s.unit, w.pos, u.2.1)
        | none => (s.unit, w.pos, w.pos)
      ((w.stage (x.operands s w bs)).bind (fun w => x.readTb s { w with unit := some unit } bs)).bind (fun w =>
        (match s.done with | some d => x.trail.owes d.1 (Mat.fmtOut x.b) none (rowBytes (Mat.fmtOut x.b) d.2) s.m | none => some []).map (fun o => { w with
          todo := r, keep := meKeepW bs, ve := false, pos := w.pos + 1
          alt := { w.alt with opened := if s.free then w.alt.opened else rest ++ [(s.tile, vt, s.last)], owed := w.alt.owed ++ o }
          prog := { w.prog with done := w.prog.done + 1, ve := w.prog.ve && s.done.isNone } }))

/-- What an ACC_STORE writes goes where the tile's result must go (R192, R199, R200): to the place that the tile shares, over no result still to be pushed, with ADD on what the
destination holds. -/
def ProgCtx.storeAt (x : ProgCtx) (s : StoreSpec) (w : ProgAt) (bs : List Byte) : Option ProgAt :=
  let t := x.trail
  let n := rowBytes (meFmtA bs) s.cols
  let at' := (meAOff bs, meAPitch bs)
  let rows := if s.cols = 0 then [] else (upto s.rows).map (fun r => meAOff bs + r * meAPitch bs)
  let home := match s.home.bind (fun h => w.alt.homes.find? (fun e => e.1 == h)) with | some e => e.2 == at' | none => true
  let direct := s.ve.isNone
  let old := if meInit bs && direct then t.rows w.prog s.out (meFmtA bs) at'.1 at'.2 n s.rows else some []
  let owed := match s.out, s.ve with
    | some f, none => t.owes f (meFmtA bs) (some at') n s.rows
    | some f, some v => t.owes f v.1 none (rowBytes v.1 v.2.2) v.2.1
    | none, _ => some []
  let partials := if s.part then t.partials at'.1 at'.2 n s.rows else []
  if !home || w.alt.owed.any (fun o => o.off.any (fun a => rows.any (fun r => overlaps a o.len r n))) then none
  else (w.stage old).bind (fun w => owed.map (fun o => { w with
    alt := { w.alt with
      homes := (match s.home with | some h => [(h, at')] | none => []) ++ w.alt.homes
      owed := w.alt.owed ++ o ++ partials }
    prog := { w.prog with copies := rows.map (fun r => ⟨r, n, none⟩) ++ w.prog.copies, ve := false } }))

/-- Is MAX_OFF in the planner's area (R192, R205)? -/
def ProgCtx.inArea (x : ProgCtx) (bs : List Byte) : Bool := decide (x.area.1 ≤ meMaxOff bs) && decide (meMaxOff bs + 4 ≤ x.area.1 + x.area.2)

/-- SCALE of an ACC_STORE of the output (R192). -/
def StepPlan.storeScale (f : StepPlan) (b : List Byte) : Int := f.sO - (if isMx (Mat.fmtA b) then 0 else f.sA) - f.sW

/-- An ACC_STORE of an ATTN step (R192, R203): one in FMT_OUT stores the output, and with FP32 as FMT_OUT one that writes MAXABS; every other holds scores or partial sums in
FP32. -/
def ProgCtx.storeBlock (x : ProgCtx) (w : ProgAt) (bs : List Byte) : Option ProgAt :=
  let final := meFmtA bs == Mat.fmtOut x.b && (meFmtA bs != 8 || meMaxOff bs != 0xFFFFFFFF)
  if final && !(meScale bs == x.f.storeScale x.b && meRnd bs == Mat.rnd x.b && (!Mat.dscale x.b || x.inArea bs)) || !final && meFmtA bs != 8 then none
  else
    let n := rowBytes (meFmtA bs) (meN bs)
    some { w with prog := { w.prog with
      copies := (upto (meM bs)).map (fun r => ⟨meAOff bs + r * meAPitch bs, n, none⟩) ++ w.prog.copies
      maxes := if final && Mat.dscale x.b then w.prog.maxes ++ [meMaxOff bs] else w.prog.maxes } }

/-- An ACC_STORE against the plan: it stores a tile whose last sweep has been written, as R87, R192, R197, R199 and R200 have it. `specs` are the stores of the tiles. -/
def ProgCtx.store (x : ProgCtx) (specs : Nat → Option StoreSpec) (w : ProgAt) (bs : List Byte) : Option ProgAt :=
  if Mat.cls x.b = 5 then x.storeBlock w bs
  else match w.alt.opened.find? (fun o => o.2.1 == 32 * meWin bs + meVt bs) with
    | none => none
    | some o => match specs o.1 with
      | none => none
      | some s =>
        let ok := o.2.2 && meM bs == s.rows && meN bs == s.cols && (match s.fmt with | some f => meFmtA bs == f | none => true) &&
          (match s.add with | some a => meInit bs == a | none => true) && (match s.scale with | some v => meScale bs == v | none => true) &&
          (s.fmt != some (Mat.fmtOut x.b) || meRnd bs == Mat.rnd x.b) && (!s.max || x.inArea bs) &&
          (match s.after with | some t => w.alt.opened.all (fun p => p.1 != t) | none => true)
        if !ok then none
        else x.storeAt s { w with
          alt := { w.alt with opened := w.alt.opened.filter (fun p => p.1 != o.1) }
          prog := { w.prog with maxes := if s.max then w.prog.maxes ++ [meMaxOff bs] else w.prog.maxes } } bs

/-- One command against the plan (R206, R211): no SP_MOVE carries more than 256 KiB. -/
def ProgCtx.cmd (x : ProgCtx) (specs : Nat → Option StoreSpec) (w : ProgAt) (bs : List Byte) : Option ProgAt :=
  if tpSweep bs then x.sweep w bs
  else match tpOp bs with
    | 4 => x.store specs w bs
    | 0xA => if 262144 < moveSize bs then none
      else (x.trail.move w.prog w.alt bs).map (fun r => { w with prog := r.1, alt := r.2 })
    | 0xB => some { w with ve := true, prog := { w.prog with ve := true } }
    | 8 =>
      let t : Loaded := ⟨bs, tbUses bs, w.pos, w.prog.copies⟩
      some (if tbQueueW bs then { w with wQ := w.wQ ++ [t] } else { w with aQ := w.aQ ++ [t] })
    | 0xC => some w
    | 0xD => some w
    | _ => none

/-- One possible order compared with a program's commands: where it leaves its tiles and results, and the progress; none when the program is not of this order. `core` is the
core's part; `sweeps` gives the sweeps of the next program; a LAST program leaves nothing to do, and every program leaves the TB empty (R122). -/
def ProgCtx.alt (x : ProgCtx) (core : CorePlan) (m n k lim : Nat) (last : Bool) (cmds : List (List Byte)) (p : CoreProg) (a : ProgAlt) : Option (ProgAlt × CoreProg) :=
  let nest := core.nest x.b x.accum x.f x.kv x.org m n k a.alt
  let all := (nest.map (fun l => l.flatten.flatten.flatten)).flatten
  let sweeps := nextSweeps p.done (cutNest lim nest)
  let specs (t : Nat) : Option StoreSpec := (all.find? (fun s => s.tile == t)).map (·.store)
  match cmds.foldlM (x.cmd specs) { todo := sweeps, alt := a, prog := p } with
  | none => none
  | some w =>
    let ends := p.done + sweeps.length == all.length
    if !w.todo.isEmpty || last != ends || !w.aQ.isEmpty || !w.wQ.isEmpty ||
        (last && (!w.alt.opened.isEmpty || (core.needVe && !w.prog.ve) || !w.alt.owed.isEmpty)) then none
    else some (w.alt, w.prog)

/-- Is the room that a program leaves for its sweeps as large as the limit lets it be (R211): all of it, or so little that the program which the next larger cut would give
passes the limit or 1,791 slots, its moves and other commands growing as its sweeps do (DESIGN CHOICE: log entry 117)? -/
def ProgCtx.roomOk (x : ProgCtx) (core : CorePlan) (m n k lim top : Nat) (cmds : List (List Byte)) (len done : Nat) : Bool :=
  let nest := core.nest x.b x.accum x.f x.kv x.org m n k 0
  let small := (nextSweeps done (cutNest lim nest)).length
  let big := (nextSweeps done (cutNest top nest)).length
  lim == top || small == big || decide (1791 * small < len * big) || decide (top * small < estProgram cmds * big)

/-- Compare a program of a matrix step with the plan of its core: the progress after it; none when the planner writes no such program. -/
def ProgCtx.matrix (x : ProgCtx) (core : CorePlan) (m n k lim : Nat) (last : Bool) (cmds : List (List Byte)) (p : CoreProg) : Option CoreProg :=
  let l := p.alts.filterMap (x.alt core m n k lim last cmds p)
  match l with
  | [] => none
  | (_, q) :: _ => some { q with alts := l.map (·.1) }

/-- A program of a KERNEL operation (R235): VE_RUNs, moves, waits and signals; every VE_RUN's argument block begins with PARAMS, and its kernel is the one that KERNEL
names, in its place or moved to the core; Config.kernelBytes is its length, which the spec does not give. The last program of a core follows at least one VE_RUN. -/
def kernelOk (b : List Byte) (t : Trail) (last : Bool) (cmds : List (List Byte)) (p : CoreProg) : Option CoreProg :=
  let start : CoreProg × ProgAlt := (p, p.alts.headD { alt := 0 })
  let one (s : CoreProg × ProgAlt) (c : List Byte) : Option (CoreProg × ProgAlt) := match tpOp c with
    | 0xB =>
      if (t.c.spRead t.cl t.k (field (recNat c 8 4) 0 22) 32).take 32 == (b.drop 0x60).take 32 then
        (t.rows s.1 (some (fun _ _ => (Vop.kernel b, 0))) 0 (field (recNat c 4 4) 0 22) 0 (Config.kernelBytes b) 1).map (fun l =>
          ({ s.1 with ve := true, staged := s.1.staged ++ l }, s.2))
      else none
    | 0xA => if 262144 < moveSize c then none else t.move s.1 s.2 c
    | 0xC => some s
    | 0xD => some s
    | _ => none
  (cmds.foldlM one start).bind (fun s => if !last || s.1.ve then some s.1 else none)

end Sys2Proof.Machine
end

