-- ==== Sys2Proof/Machine/VectorOps.lean ====
section
/-! DEFINITION. Vector operations (R234-R236): what a vector operation writes when its step completes in a cluster. The kernels that carry
one out are firmware; the model applies the result that R235 lays down (log entry 41). Where R235 gives a formula and no rounding, each operation of
the formula is rounded once to FP32, as the vector engine rounds (R228), and what the spec leaves open (the order of a sum's additions, how a quotient
or a root is formed, the functions' last 2 ulp) is free (log entry 42). -/

namespace Sys2Proof.Machine

/-- Bytes of a row of `n` elements; the block scales of an MX row follow its elements (log entry 32). -/
def vopRowBytes (fmt n : Nat) : Nat := rowBytes fmt n + (if isMx fmt then ceilDiv n 32 else 0)

/-- Bytes of a place. -/
def Chip.locRead (c : Chip) (l : Loc) (o n : Nat) : List Byte := (upto n).flatMap (fun j => c.locBytes (c.locAddr l (o + j)) 1)

/-- Elements of a row of bytes as values. -/
def vopVals (fmt n : Nat) (row : List Byte) : List FVal :=
  (upto n).map (fun j =>
    let v := elemAt fmt row j
    if isMx fmt then underScale v (recNat row (rowBytes fmt n + j / 32) 1) else v)

/-- A row of values encoded in a format. -/
def vopEncode (fmt n : Nat) (mode : Nat → Rnd) (vs : List FVal) : List Byte :=
  let blank : List Byte := List.replicate (vopRowBytes fmt n) 0
  if isMx fmt then
    (upto (ceilDiv n 32)).foldl (fun row b =>
      let blk := (vs.drop (32 * b)).take 32
      let sc := blockScale fmt blk
      let row := (blk.zipIdx).foldl (fun row x => setElem fmt row (32 * b + x.2) (encodeMx fmt (mode (32 * b + x.2)) sc x.1)) row
      splice row (rowBytes fmt n + b) [BitVec.ofNat 8 sc]) blank
  else match fmtOf fmt with
    | none => blank
    | some f => (vs.zipIdx).foldl (fun row x => setElem fmt row x.2 (f.encode (mode x.2) x.1)) blank

/-- What a vector operation works on: its number among all operations, its descriptor, the cluster, the partition, the run-time shape, its places, and where its shape
slots lie. -/
structure VopRun where
  num : Nat
  b : List Byte
  cl : Nat
  part : Nat
  m : Nat
  n : Nat
  k : Nat
  loc : Nat → Loc
  cores : List Nat
  table : Nat

/-- The core that works on row `i`: the row rule of R198 over the cores of the step. -/
def VopRun.coreOf (r : VopRun) (i : Nat) : Nat :=
  (((r.cores.zipIdx).find? (fun x => decide (i < (x.2 + 1) * r.m / r.cores.length))).map (·.1)).getD 0

/-- Rounding of element `j` of row `i` (R139, R140, R229, R236). -/
def VopRun.mode (r : VopRun) (c : Chip) (i j : Nat) : Rnd :=
  let at_ := Config.vopPlace r.num i j
  (rndOf (Vop.rnd r.b) (Config.srDraw (c.srKey r.cl) (coreKey r.cl (r.coreOf i)) 3 at_.1 at_.2).toNat).getD .rne

/-- A row of an operand in FMT_IN: operand 0-2 are IN-IN3. -/
def VopRun.row (r : VopRun) (c : Chip) (o i : Nat) : List FVal :=
  vopVals (Vop.fmtIn r.b) r.n (c.locRead (r.loc (Vop.inRef r.b o)) (i * Vop.inPitch r.b) (vopRowBytes (Vop.fmtIn r.b) r.n))

/-- Index `i` of IDX_REF. -/
def VopRun.idx (r : VopRun) (c : Chip) (i : Nat) : Nat := leNat (c.locRead (r.loc (Vop.idxRef r.b)) (4 * i) 4)

/-- Write bytes of a place as the cluster's agent. -/
def Chip.locWrite (c : Chip) (cl part : Nat) (l : Loc) (o : Nat) (bs : List Byte) : Chip :=
  forAll (bs.zipIdx) c (fun c x => (c.agentWrite (rseqAgent cl part) (c.locAddr l (o + x.2)) 1 [x.1]).1)

/-- Write a row of the output: scaled by 2^s, with ACCUM added to what stands there, in FMT_OUT (R137, R236). -/
def VopRun.putRow (r : VopRun) (c : Chip) (s : Int) (accum : Bool) (i : Nat) (vs : List FVal) : Chip :=
  let fmt := Vop.fmtOut r.b
  let l := r.loc (Vop.outRef r.b 0)
  let vs := vs.map (FVal.scale s)
  let vs := if accum then
    List.zipWith (fun a v => add32 a v) (vopVals fmt r.n (c.locRead l (i * Vop.outPitch r.b) (vopRowBytes fmt r.n))) vs else vs
  c.locWrite r.cl r.part l (i * Vop.outPitch r.b) (vopEncode fmt r.n (r.mode c i) vs)

/-- Free bits number `u` of element `j` of row `i`; those of the row itself stand at `j` = N. -/
def VopRun.free (r : VopRun) (c : Chip) (i j u : Nat) : Nat := Config.freeBits (c.freeCtr + (i * (r.n + 1) + j) * 16 + u) (32 * (r.n + 1))

/-- The state after the free bits of a whole operation have been used. -/
def VopRun.used (r : VopRun) (c : Chip) : Chip := { c with freeCtr := c.freeCtr + r.m * (r.n + 1) * 16 }

/-! The operations of the formulas in FP32 (R228; log entry 42). -/

/-- Quotient to more than FP32 precision, with a sticky bit; special cases as IEEE 754. -/
def FVal.div : FVal → FVal → FVal
  | .nan, _ => .nan
  | _, .nan => .nan
  | .inf _, .inf _ => .nan
  | .inf a, .fin b _ _ => .inf (a != b)
  | .fin a _ _, .inf b => .fin (a != b) 0 0
  | .fin a m e, .fin b n f =>
    if n = 0 then (if m = 0 then .nan else .inf (a != b))
    else
      let sh := Nat.log2 n + 64
      let q := (m <<< sh) / n
      .fin (a != b) (2 * q + b2n ((m <<< sh) % n != 0)) (e - f - sh - 1)

def mul32 (a b : FVal) : FVal := (a.mul b).r32
def sub32 (a b : FVal) : FVal := (a.add b.neg).r32

/-- A quotient: rounded once, or the product with a reciprocal. -/
def div32 (a b : FVal) (free : Nat) : FVal := if free % 2 = 0 then (a.div b).r32 else mul32 a (veFun 2 b (free / 2))

/-- `a` divided by the square root of `x`: by the root, by the root's reciprocal or by the reciprocal root. -/
def divRoot32 (a x : FVal) (free : Nat) : FVal :=
  if free % 2 = 0 then div32 a (veSqrt x) (free / 2) else mul32 a (veFun 3 x (free / 2))

/-- e^x as 2^(x × log2 e). -/
def exp32 (x : FVal) (free : Nat) : FVal := veFun 0 (mul32 x (of32 0x3FB8AA3B)) free

def one32 : FVal := .fin false 1 0

/-- GELU in tanh form (R235): x ÷ 2 × (1 + tanh(√(2/π) × (x + 0.044715 x³))), tanh u = 1 - 2 ÷ (1 + e^2u). -/
def gelu32 (x : FVal) (f : Nat → Nat) : FVal :=
  let u := mul32 (of32 0x3F4C422A) (add32 x (mul32 (of32 0x3D372713) (mul32 x (mul32 x x))))
  let th := sub32 one32 (div32 (one32.scale 1) (add32 one32 (exp32 (u.scale 1) (f 0))) (f 1))
  mul32 (x.scale (-1)) (add32 one32 th)

/-- SiLU: x ÷ (1 + e^-x). -/
def silu32 (x : FVal) (f : Nat → Nat) : FVal := div32 x (add32 one32 (exp32 x.neg (f 0))) (f 1)

/-- Sum of a row in an order that the spec leaves open. -/
def rowSum (l : List FVal) (choice : Nat) : FVal := orderedSum l.length choice l

/-- Mean of a row. -/
def rowMean (l : List FVal) (choice free : Nat) : FVal := div32 (rowSum l choice) (.fin false l.length 0) free

/-- A row divided by the square root of the mean of another row's squares plus an offset. -/
def normRow (row sq : List FVal) (p0 : FVal) (f : Nat → Nat) : List FVal :=
  let d := add32 (rowMean (sq.map (fun x => mul32 x x)) (f 0) (f 1)) p0
  row.map (fun x => divRoot32 x d (f 2))

/-- Row softmax (R235); the row's largest value is taken from each first. -/
def softmaxRow (row : List FVal) (f : Nat → Nat) (g : Nat → Nat) : List FVal :=
  let top := row.foldl (fmax false) (row.headD .zero)
  let es := (row.zipIdx).map (fun x => exp32 (sub32 x.1 top) (g x.2))
  let s := rowSum es (f 0)
  es.map (fun e => div32 e s (f 1))

/-- One element of AdamW (R235): P, m and v after the update. -/
def adamwStep (p : Nat → FVal) (w m v g : FVal) (free : Nat) : FVal × FVal × FVal :=
  let m' := add32 (mul32 (p 1) m) (mul32 (sub32 one32 (p 1)) g)
  let v' := add32 (mul32 (p 2) v) (mul32 (sub32 one32 (p 2)) (mul32 g g))
  let d := div32 (mul32 m' (p 5)) (add32 (veSqrt (mul32 v' (p 6))) (p 3)) free
  (sub32 w (mul32 (p 0) (add32 d (mul32 (p 4) w))), m', v')

/-- P0 × a + P1 × b in FP32: one of the roundings of the formula (log entry 42). -/
def axpby (p0 p1 a b : FVal) (free : Nat) : FVal :=
  match free % 4 with
  | 0 => add32 (p0.mul a).r32 (p1.mul b).r32
  | 1 => ((p0.mul a).add (p1.mul b).r32).r32
  | 2 => ((p0.mul a).r32.add (p1.mul b)).r32
  | _ => ((p0.mul a).add (p1.mul b)).r32

/-- Values of row `i` of an operation that computes row by row (R235). -/
def VopRun.rowOut (r : VopRun) (c : Chip) (i : Nat) : List FVal :=
  let p (x : Nat) : FVal := of32 (Vop.param r.b x)
  let f := r.free c i r.n
  let x := r.row c 0 i
  match Vop.vop r.b with
  | 0x01 => ((List.zip x (r.row c 1 i)).zipIdx).map (fun e => axpby (p 0) (p 1) e.1.1 e.1.2 (r.free c i e.2 0))
  | 0x02 =>
    let gate := if Vop.inRef r.b 1 = 0 then none else some (r.row c 1 i)
    (x.zipIdx).map (fun e =>
      let v := match Vop.param r.b 0 with
        | 0 => fmax false e.1 .zero
        | 1 => gelu32 e.1 (r.free c i e.2)
        | _ => silu32 e.1 (r.free c i e.2)
      match gate with
      | some g => mul32 v (g.getD e.2 .zero)
      | none => v)
  | 0x03 =>
    let g := r.row c 1 0
    if bit (f 3) 0 then List.zipWith mul32 (normRow x x (p 0) f) g else normRow (List.zipWith mul32 x g) x (p 0) f
  | 0x04 =>
    let mean := rowMean x (f 4) (f 5)
    let d := x.map (fun e => sub32 e mean)
    List.zipWith add32 (List.zipWith mul32 (normRow d d (p 0) f) (r.row c 1 0)) (r.row c 2 0)
  | 0x05 => softmaxRow (x.map (mul32 (p 0))) f (fun j => r.free c i j 0)
  | 0x07 => if r.idx c i < r.k then r.row c 0 (r.idx c i) else List.replicate r.n .zero
  | 0x0A =>
    let w := r.row c 1 i
    let terms := (Config.combineRows c.freeCtr i).filter (fun e => decide (e.1 < r.n) && decide (e.2 < r.k))
    (upto r.n).map (fun j => rowSum (terms.map (fun e => mul32 (w.getD e.1 .zero) ((r.row c 0 e.2).getD j .zero))) (r.free c i j 0))
  | _ => []

/-- Rows whose index is not below K (R236). -/
def VopRun.outOfRange (r : VopRun) (c : Chip) : Option Nat := (upto r.m).find? (fun i => decide (r.k ≤ r.idx c i))

/-- Set IDX_RANGE once, at the core that works on the row (R198, R236). -/
def VopRun.noteIdx (r : VopRun) (c : Chip) : Chip :=
  match r.outOfRange c with
  | none => c
  | some i => c.raise (.ve r.cl (r.coreOf i)) St.VE_IDX_RANGE

/-- Conversion factor of the output (R191, R236). -/
def VopRun.scale (r : VopRun) (c : Chip) : Int :=
  if Vop.dscale r.b then c.scaleFactor r.cl r.part (Vop.scO r.b) (Vop.fmtOut r.b) (Vop.margin r.b) 0 false else 0

/-- SCATTER_ADD_ROWS: row i is added into output row idx[i], in FP32 or BF16 with RNE (R225, R235, R236). Rows that share an output row
are added in row order (log entry 43). -/
def VopRun.scatter (r : VopRun) (c : Chip) (s : Int) : Chip :=
  let size := if Vop.fmtOut r.b = 8 then 4 else 2
  let w := if size = 2 then 1 else 0
  forAll (upto r.m) c (fun c i =>
    let t := r.idx c i
    if r.k ≤ t then c
    else forAll ((r.row c 0 i).zipIdx) c (fun c x =>
      let o := t * Vop.outPitch r.b + size * x.2
      let old := leNat (c.locRead (r.loc (Vop.outRef r.b 0)) o size)
      c.locWrite r.cl r.part (r.loc (Vop.outRef r.b 0)) o (leBytes size (laneFp w ((laneVal w old).add (x.1.scale s))))))

/-- Rows that DISPATCH sends to expert `e`, in token order (R235). -/
def VopRun.tokens (r : VopRun) (c : Chip) (e : Nat) : List Nat := (upto r.m).filter (fun i => r.idx c i = e)

/-- Address of the shape slot of expert `e` (R39, R235). -/
def VopRun.slotAt (r : VopRun) (e : Nat) : Nat := r.table + 16 * (Vop.param r.b 1 + e)

/-- DISPATCH: rows in expert order, each expert's rows in token order; counts, N, K and SEQ into the shape slots (R235). A row whose index names
no expert goes to none (log entry 44). -/
def VopRun.dispatch (r : VopRun) (c : Chip) (s : Int) (seq : Nat) : Chip :=
  let experts := Vop.param r.b 0
  let fmt := Vop.fmtIn r.b
  let rows := ((upto experts).flatMap (r.tokens c)).map (fun i =>
    if Vop.fmtOut r.b = fmt && s = 0 then c.locRead (r.loc (Vop.inRef r.b 0)) (i * Vop.inPitch r.b) (vopRowBytes fmt r.n)
    else vopEncode (Vop.fmtOut r.b) r.n (r.mode c i) ((r.row c 0 i).map (FVal.scale s)))
  let counts := (upto experts).map (fun e => (r.tokens c e).length)
  let c := forAll (rows.zipIdx) c (fun c x => c.locWrite r.cl r.part (r.loc (Vop.outRef r.b 0)) (x.2 * Vop.outPitch r.b) x.1)
  forAll (counts.zipIdx) c (fun c x => (c.agentWrite (rseqAgent r.cl r.part) (r.slotAt x.2) (ones 16)
    (leBytes 4 x.1 ++ leBytes 4 (Vop.param r.b 2) ++ leBytes 4 (Vop.param r.b 3) ++ leBytes 4 seq)).1)

/-- Row `i` of ADAMW after the update: P, m and v (R235). P is IN in FMT_IN; m and v are IN2 and IN3 in BF16, at the input pitch; the
gradient is IDX_REF in FP32, row after row (log entry 112). -/
def VopRun.adamwRow (r : VopRun) (c : Chip) (i : Nat) : List (FVal × FVal × FVal) :=
  let bf (o : Nat) : List FVal := vopVals 0 r.n (c.locRead (r.loc (Vop.inRef r.b o)) (i * Vop.inPitch r.b) (2 * r.n))
  let g := vopVals 8 r.n (c.locRead (r.loc (Vop.idxRef r.b)) (i * 4 * r.n) (4 * r.n))
  let p (x : Nat) : FVal := of32 (Vop.param r.b x)
  (((r.row c 0 i).zip ((bf 1).zip ((bf 2).zip g))).zipIdx).map (fun e =>
    adamwStep p e.1.1 e.1.2.1 e.1.2.2.1 e.1.2.2.2 (r.free c i e.2 0))

/-- ADAMW: P in FMT_OUT, m and v in BF16, written to OUT, OUT2 and OUT3 with RND (R235, R236). -/
def VopRun.adamw (r : VopRun) (c : Chip) (s : Int) (rows : List (List (FVal × FVal × FVal))) : Chip :=
  forAll (rows.zipIdx) c (fun c x =>
    let put (c : Chip) (o : Nat) (l : List FVal) : Chip := c.locWrite r.cl r.part (r.loc (Vop.outRef r.b o)) (x.2 * Vop.outPitch r.b)
      (vopEncode 0 r.n (fun j => r.mode c x.2 (r.n * o + j)) l)
    put (put (r.putRow c s false x.2 (x.1.map (·.1))) 1 (x.1.map (·.2.1))) 2 (x.1.map (·.2.2)))

/-- An access of a vector operation: the row of the output it is made for, its address and its bytes. -/
structure VopAccess where
  row : Nat
  addr : Nat
  len : Nat

/-- Rows of operand `o` that the operation reads, each with the row of the output that it is read for. -/
def VopRun.inRows (r : VopRun) (c : Chip) (o : Nat) : List (Nat × Nat) :=
  let all := (upto r.m).map (fun i => (i, i))
  match Vop.vop r.b with
  | 0x03 => if o = 0 then all else [(0, 0)]
  | 0x04 => if o = 0 then all else [(0, 0)]
  | 0x07 => ((upto r.m).map (fun i => (i, r.idx c i))).filter (fun t => decide (t.2 < r.k))
  | 0x0A =>
    if o = 0 then ((upto r.m).flatMap (fun i => (Config.combineRows c.freeCtr i).map (fun e => (i, e.2)))).filter (fun t => decide (t.2 < r.k)) else all
  | _ => all

/-- Bytes of a row of operand or output `o`: ADAMW's m and v are BF16 (R235). -/
def VopRun.rowLen (r : VopRun) (fmt o : Nat) : Nat := if Vop.vop r.b = 6 && o != 0 then 2 * r.n else vopRowBytes fmt r.n

/-- Reads of the index array, or of ADAMW's gradient (R234, R235). -/
def VopRun.idxReads (r : VopRun) (c : Chip) : List VopAccess :=
  let n := match Vop.vop r.b with
    | 0x06 => 4 * r.n
    | 0x07 => 4
    | 0x08 => 4
    | 0x09 => 4
    | _ => 0
  if n = 0 then [] else (upto r.m).map (fun i => ⟨i, c.locAddr (r.loc (Vop.idxRef r.b)) (i * n), n⟩)

/-- Rows of output `o` that the operation writes; those of a SCATTER_ADD_ROWS it reads too (R225). -/
def VopRun.outRows (r : VopRun) (c : Chip) (o : Nat) : List VopAccess :=
  let rows := if Vop.vop r.b = 8 then ((upto r.m).map (fun i => (i, r.idx c i))).filter (fun t => decide (t.2 < r.k)) else (upto r.m).map (fun i => (i, i))
  if Vop.outRef r.b o = 0 then []
  else rows.map (fun t => ⟨t.1, c.locAddr (r.loc (Vop.outRef r.b o)) (t.2 * Vop.outPitch r.b), r.rowLen (Vop.fmtOut r.b) o⟩)

/-- Everything the operation reads: indices, the rows of its inputs, and with ACCUM those it adds to. -/
def VopRun.reads (r : VopRun) (c : Chip) : List VopAccess :=
  r.idxReads c ++ (upto 3).flatMap (fun o => if Vop.inRef r.b o = 0 then [] else (r.inRows c o).map (fun t =>
    ⟨t.1, c.locAddr (r.loc (Vop.inRef r.b o)) (t.2 * Vop.inPitch r.b), r.rowLen (Vop.fmtIn r.b) o⟩)) ++
  (if Vop.accum r.b then r.outRows c 0 else [])

/-- Everything the operation writes: the rows of its outputs, and the shape slots of a DISPATCH. -/
def VopRun.writes (r : VopRun) (c : Chip) : List VopAccess :=
  (upto 3).flatMap (r.outRows c) ++ (if Vop.vop r.b = 9 then (upto (Vop.param r.b 0)).map (fun e => ⟨0, r.slotAt e, 16⟩) else [])

/-- Does a session hold a group that the operation uses (R311)? -/
def VopRun.held (r : VopRun) (c : Chip) : Bool := (r.reads c ++ r.writes c).any (fun x => decide (0 < x.len) && c.heldAt x.addr x.len)

/-- Access check of a vector operation before it writes: the first access whose code is not COMP_OK (R232). -/
def VopRun.check (r : VopRun) (c : Chip) : Option (VopAccess × Code) :=
  let ag := rseqAgent r.cl r.part
  let code (wr : Bool) (x : VopAccess) : Option (VopAccess × Code) :=
    if x.len = 0 then none
    else
      let a := c.accessCode ag wr x.addr 1
      let a := if a = COMP_OK then c.accessCode ag wr (x.addr + x.len - 1) 1 else a
      if a = COMP_OK then none else some (x, a)
  ((r.reads c).map (code false) ++ (r.writes c).map (code true)).findSome? id

/-- Make reads of LPDDR6 one after another, the first that fails being the last (R303). -/
def Chip.vopReads (c : Chip) (ag : Agent) : List VopAccess → Chip × Option (VopAccess × Code)
  | [] => (c, none)
  | x :: l =>
    if !isLpddr x.addr || x.len = 0 then c.vopReads ag l
    else
      let (c, code, _) := c.agentRead ag x.addr x.len
      if code = COMP_OK then c.vopReads ag l else (c, some (x, code))

/-- A request of an operation has failed (R232): VE_STATUS, VE_ERR and VE_FAULT_ADDR of the core that works on its row; which thread and which instruction of the
firmware's kernel made it is free (log entry 41). -/
def VopRun.fail (r : VopRun) (c : Chip) (x : VopAccess) : Chip :=
  let b := Blk.ve r.cl (r.coreOf x.row)
  (((c.raise b St.VE_FAULT).setFs b [(R.VE_ERR_REASON, 7), (R.VE_ERR_THREAD, Config.freeBits c.freeCtr 3), (R.VE_ERR_PC, Config.freeBits (c.freeCtr + 1) 22)]).setF b
    R.VE_FAULT_ADDR_ADDR (c.deviceId * 2 ^ 48 + x.addr % 2 ^ 48)).tick.tick

/-- Largest magnitude of the rows written, for the output's amax (R192, R236). -/
def rowsMax (l : List (List FVal)) : FVal := (l.flatten.map FVal.abs).foldl amaxOf .zero

/-- Write the output of an operation whose descriptor and accesses are in order: the state, and the values whose largest magnitude the amax
takes (R235, R236). A GATHER row out of range is written as zeros, with ACCUM too. -/
def VopRun.write (r : VopRun) (c : Chip) (seq : Nat) : Chip × List (List FVal) :=
  let s := r.scale c
  match Vop.vop r.b with
  | 0x06 =>
    let rows := (upto r.m).map (r.adamwRow c)
    (r.adamw c s rows, rows.map (·.map (·.1)))
  | 0x08 => (r.scatter c s, ((upto r.m).filter (fun i => decide (r.idx c i < r.k))).map (r.row c 0))
  | 0x09 => (r.dispatch c s seq, ((upto (Vop.param r.b 0)).flatMap (r.tokens c)).map (r.row c 0))
  | v =>
    let rows := (upto r.m).map (r.rowOut c)
    let accum (i : Nat) : Bool := Vop.accum r.b && !(v = 7 && decide (r.k ≤ r.idx c i))
    (forAll (rows.zipIdx) c (fun d x => r.putRow d s (accum x.2) x.2 x.1), rows)

/-- Carry out a vector operation other than KERNEL: the state after it and its code (R232, R235, R236). `seq` is the SEQ that a DISPATCH writes; with M = 0 it writes its
zero counts alone. -/
def VopRun.run (r : VopRun) (c : Chip) (seq : Nat) : Chip × Code :=
  let v := Vop.vop r.b
  if (r.m = 0 && v != 9) || (r.m != 0 && r.n = 0) then (c, COMP_OK)
  else match r.check c with
    | some (x, code) => (r.fail c x, code)
    | none => match c.vopReads (rseqAgent r.cl r.part) (r.reads c) with
      | (c, some (x, code)) => (r.fail c x, code)
      | (c, none) =>
        let c := if v = 7 || v = 8 then r.noteIdx c else c
        let (c, rows) := r.write c seq
        (r.used (if Vop.dscale r.b then c.raiseAmax r.cl r.part (Vop.scO r.b) (rowsMax rows) else c), COMP_OK)

end Sys2Proof.Machine
end

