-- ==== Sys2Proof/Machine/Steps.lean ====
section
/-! DEFINITION. Steps and operators in a cluster (R185, R189, R193, R194, R205-R213, R261-R265): how one begins, the programs that carry it
out, and how it ends. The rally sequencer and the work queues share them. -/

namespace Sys2Proof.Machine

/-- What beginning a step comes to: it must wait for a claim, it fails with a REASON of R62 and a code, or it is under way. -/
inductive StepRes where
  | waits
  | fails (reason : Nat) (code : Code)
  | runs (s : StepRun)
  deriving DecidableEq, Repr

/-- A descriptor is refused (R189): DESC_INVALID, CL_PLAN_ERR, and in a rally a halt under R62. -/
def Chip.descFail (c : Chip) (cl : Nat) (s : StepRun) (reason : Nat) (code : Code) : Chip × StepRes :=
  ((c.raise (.plan cl) St.PLAN_DESC_INVALID).setFs (.plan cl)
    [(R.PLAN_ERR_REASON, reason), (R.PLAN_ERR_SOURCE, 0), (R.PLAN_ERR_STEP, if s.queue.isNone then s.walk.idx else 0xFFFF)],
   .fails (if reason = 9 then 0xFA else 0xF5)
    (if reason = 9 then code else if s.queue.isNone then COMP_PLAN_INVALID else COMP_OP_INVALID))

/-- Quarter of the pass that runs a step (R171). -/
def StepRun.quarter (s : StepRun) : Nat := 2 * b2n s.bwd + b2n s.high

/-- What references of a step may name. -/
def StepRun.refs (s : StepRun) : RefCtx := refCtx s.queue.isNone s.quarter s.rcd

/-- The staged piece that a step consumes: its shelf and entry. -/
def Chip.stagedFor (c : Chip) (cl : Nat) (s : StepRun) : Option (Nat × Nat) :=
  let pf := if s.bwd then (c.rseqOf cl).bwdPf else (c.rseqOf cl).fwdPf
  (pf.staged.find? (fun x => x.rally == s.rally && x.mb == s.mb && some x.run == s.walk.piece)).map (fun x =>
    (if s.bwd then 253 else 252, x.entry))

/-- The place that a reference of a step names (R188). -/
def Chip.stepLoc (c : Chip) (cl : Nat) (s : StepRun) (r : Nat) : Loc := c.refLoc cl s s.refs (c.stagedFor cl s) r

/-- Kind of work that an OPCLASS byte names (R186). -/
def kindOf (cls : Nat) : Nat := if 1 ≤ cls ∧ cls ≤ 5 then 1 else if cls = 0x10 then 2 else if cls = 0x20 then 3 else 0

/-- Records that a descriptor names and that are read before planning: (reference, bytes) (R189). -/
def namedRecords (b : List Byte) (ncl n : Nat) : List (Nat × Nat) :=
  match kindOf (recNat b 0 1) with
  | 1 =>
    (if Mat.dscale b then ([Mat.scA b, Mat.scW b, Mat.scO b].filter (· != 0)).map (fun r => (r, 16 * ncl)) else []) ++
      (if Mat.cls b = 4 then [(Mat.listRef b, 8 * Mat.groups b)] else if Mat.cls b = 5 then [(Mat.listRef b, 4 * n)] else [])
  | 2 => if Vop.dscale b && Vop.scO b != 0 then [(Vop.scO b, 16 * ncl)] else []
  | 3 => [(Col.memberRef b, 2 * Col.members b)]
  | _ => []

/-- The reads of the named records; a reference that R188 refuses is left to the checks. -/
def Chip.recordReads (c : Chip) (cl : Nat) (s : StepRun) (l : List (Nat × Nat)) : List (Nat × Nat) :=
  (l.filter (fun x => !badRef s.refs x.1 && x.2 != 0)).map (fun x => (c.locAddr (c.stepLoc cl s x.1) 0, x.2))

/-- First code of the named records that is not COMP_OK. -/
def Chip.recordsCode (c : Chip) (cl : Nat) (s : StepRun) (l : List (Nat × Nat)) : Code :=
  (((c.recordReads cl s l).map (fun x => (c.peek (rseqAgent cl s.part) x.1 x.2).1)).find? (· != COMP_OK)).getD COMP_OK

/-- Do the landing slots of a REDUCE_SCATTER lie in this cluster's commons or core scratchpads (R265)? -/
def Chip.slotsOk (c : Chip) (cl : Nat) (s : StepRun) (b : List Byte) : Bool :=
  match c.stepLoc cl s (Col.slotRef b) with
  | .abs a => (upto (Col.members b)).all (fun j =>
      let lo := a + j * Col.slotPitch b
      (spanPlaces lo (lo + (s.m * s.n - 1))).all (Place.reduces cl))
  | .entry (.commons x _) _ _ => x == cl
  | .entry (.core x _ _) _ _ => x == cl

/-- First failing check of a matrix descriptor, the references of a GROUPED operation's groups, `s.mem`, included (R188, R189). -/
def StepRun.matReason (s : StepRun) (mx : Option (List Byte)) (b : List Byte) : Nat :=
  let r := Machine.matReason s.refs mx b
  let bad := Mat.cls b == 4 && s.mem.any (badRef s.refs)
  let reserved := Mat.cls b == 4 && s.mem.any refReserved
  if bad && (r = 0 || 5 < r) then 5 else if reserved && r = 0 then 8 else r

/-- First failing check of a step's descriptor (R189, R237, R265). -/
def Chip.stepReason (c : Chip) (cl : Nat) (s : StepRun) (b : List Byte) : Nat :=
  let mx := if s.queue.isNone then some s.rcd else none
  let kind := kindOf (recNat b 0 1)
  if kind = 0 || (s.queue.isNone && kind != Stp.kind s.rcd) then 1
  else match kind with
    | 1 => s.matReason mx b
    | 2 => vopReason s.refs mx b
    | _ => colReason s.refs mx c.deviceId s.mem (c.slotsOk cl s b) (c.dmaOwned cl (Col.channel b)) b

/-- The entries of the shape table that a GROUPED step of a walk reads (R194). -/
def Chip.groupReads (c : Chip) (cl : Nat) (s : StepRun) (b : List Byte) : List (Nat × Nat) :=
  if s.queue.isSome || Stp.shapeSlot s.rcd = 0xFFFF then []
  else
    let t := c.getF (.rseq cl) R.RSEQ_PLAN_PLAN_BASE + Hdr.shapeTable (c.rseqOf cl).hdr
    (upto (Mat.groups b)).map (fun g => (t + 16 * (Stp.shapeSlot s.rcd + g), 16))

/-- Run-time shapes of a GROUPED operator: entries SHAPE_SLOT on, or the planned shape for each group (R194, R202). -/
def Chip.groupShapes (c : Chip) (cl : Nat) (s : StepRun) (b : List Byte) : Except Code (List (List Byte)) :=
  if s.queue.isSome || Stp.shapeSlot s.rcd = 0xFFFF then
    .ok (List.replicate (Mat.groups b) (leBytes 4 s.m ++ leBytes 4 s.n ++ leBytes 4 s.k ++ leBytes 4 0))
  else match c.readRecs (rseqAgent cl s.part) 16 ((c.groupReads cl s b).map (·.1)) 0 with
    | .ok l => .ok l
    | .error e => .error e.1

/-- SEQ of R39 for a micro-batch. -/
def Chip.shapeSeq (c : Chip) (cl p mb : Nat) : Nat :=
  (c.getF (.wqp p) R.WQP_STEP * Hdr.mbs (c.rseqOf cl).hdr + mb) % 2 ^ 32

/-- Bytes that a step writes from byte 0 of the place a reference names, for the entry that the planner claims (log entry 45). -/
def outReach (b : List Byte) (s : StepRun) (code : Nat) : Nat :=
  let reach (r n : Nat) : Nat := if refCode r = code && r != 0 then refOff r + n else 0
  match kindOf (recNat b 0 1) with
  | 1 =>
    let out := reach (Mat.outRef b) (if s.m = 0 then 0 else (s.m - 1) * Mat.outPitch b + rowBytes (Mat.fmtOut b) s.n)
    let dw := if Mat.cls b = 2 then reach (Mat.listRef b) ((if Mat.split b = 0 then Mat.nHi b - Mat.nLo b else s.n) * s.k * 2) else 0
    max out dw
  | 2 => (upto 3).foldl (fun m i => max m (reach (Vop.outRef b i) (s.m * Vop.outPitch b))) 0
  | _ => reach (Col.dstRef b) (s.m * s.n * (if Col.coll b = 1 then Col.members b else 1))

/-- Claim an entry for a step in a commons shelf, at once or not at all. -/
def Chip.stepClaim (c : Chip) (cl shelf bytes : Nat) : Except Code (Option (Chip × Nat)) :=
  let r : ShelfRef := .commons cl shelf
  let sh := c.shelf r
  let u := max 1 (ceilDiv bytes 64)
  if !sh.opened then .error COMP_SHELF_CLOSED
  else if sh.span < u then .error COMP_SHELF_OVER
  else if !sh.waiting.isEmpty || !sh.fits u then .ok none
  else .ok (some (c.setShelf r (sh.place u), sh.seqNext))

/-- The claims of a step: output shelf and shelf 254 (R188). -/
def Chip.stepClaims (c : Chip) (cl : Nat) (s : StepRun) (b : List Byte) : Except Code (Option (Chip × StepRun)) :=
  let n3 := outReach b s 3
  let n5 := outReach b s 5
  let one (c : Chip) (s : StepRun) : Except Code (Option (Chip × StepRun)) :=
    if n5 = 0 then .ok (some (c, s))
    else match c.stepClaim cl 254 n5 with
      | .error e => .error e
      | .ok none => .ok none
      | .ok (some (c, q)) => .ok (some (c, { s with grad := some q }))
  match s.refs.o with
  | some sh =>
    if n3 = 0 then one c s
    else match c.stepClaim cl sh n3 with
      | .error e => .error e
      | .ok none => .ok none
      | .ok (some (c, q)) => one c { s with out := some q }
  | none => one c s

/-- A step with no output still gives its output shelf an entry of 64 undefined bytes, free values (R193). -/
def Chip.emptyEntry (c : Chip) (cl : Nat) (s : StepRun) : Except Code (Option (Chip × StepRun)) :=
  match s.refs.o with
  | none => .ok (some (c, s))
  | some sh => match c.stepClaim cl sh 64 with
    | .error e => .error e
    | .ok none => .ok none
    | .ok (some (c, q)) =>
      .ok (some ((c.locWrite cl s.part (.entry (.commons cl sh) q 0) 0 ((upto 64).map (Config.freeByte c.freeCtr))).tick, { s with out := some q }))

/-- A claim that a shelf refuses is a step command refused by its checks (R62, R169). -/
def claimRes (x : Except Code (Option (Chip × StepRun))) (c : Chip) (queue : Bool) : Chip × StepRes :=
  match x with
  | .error e => (c, .fails 0xF5 (if queue then e else COMP_PLAN_INVALID))
  | .ok none => (c, .waits)
  | .ok (some (c, s)) => (c, .runs s)

/-- Begin a step or an operator whose record, shape and cores are known (R189-R194, R201): read and check the descriptor, roll the scale
record sets, handle zero shapes, plan, claim. A matrix descriptor off its 64-byte alignment is refused with BAD_PARAM (DESIGN CHOICE: log entry 119). -/
def Chip.stepBegin (c : Chip) (cl descAddr : Nat) (s : StepRun) : Chip × StepRes :=
  let c0 := c
  let ag := rseqAgent cl s.part
  let (c, code, b) := c.agentRead ag descAddr 128
  if code != COMP_OK then c.descFail cl s 9 code
  else
    let s := { s with desc := b }
    let named := namedRecords b (c.clustersOf s.part).length s.n
    let rcode := c.recordsCode cl s named
    let c := c.noteReads ag (c.recordReads cl s named)
    if rcode != COMP_OK then c.descFail cl s 9 rcode
    else
      let list (r n z : Nat) : List Nat :=
        let bs := c.locRead (c.stepLoc cl s r) 0 (z * n)
        (upto n).map (fun i => recNat bs (z * i) z)
      let mem := if kindOf (recNat b 0 1) = 3 then list (Col.memberRef b) (Col.members b) 2
        else if Mat.cls b = 4 && !badRef s.refs (Mat.listRef b) then list (Mat.listRef b) (Mat.groups b) 8 else []
      let s := { s with mem := mem }
      let bad := c.stepReason cl s b
      let bad := if bad = 0 && kindOf (recNat b 0 1) == 1 && descAddr % 64 != 0 then 6 else bad
      if bad != 0 then c.descFail cl s bad COMP_OK
      else
        let kind := kindOf (recNat b 0 1)
        let grouped := kind == 1 && Mat.cls b == 4
        let shapes := if grouped then c.groupShapes cl s b else .ok []
        let c := if grouped then c.noteReads ag (c.groupReads cl s b) else c
        match shapes with
        | .error e => (c, .fails 0xFA e)
        | .ok gs =>
          let ms := gs.map (fun g => recNat g 0 4)
          let stale := grouped && s.queue.isNone && Stp.shapeSlot s.rcd != 0xFFFF &&
            gs.any (fun g => recNat g 0xC 4 != c.shapeSeq cl s.part s.mb)
          let tooBig := match kind with
            | 1 => decide (Mat.maxM b < s.m) || decide (Mat.maxN b < s.n) || decide (Mat.maxK b < s.k) ||
                gs.any (fun g => decide (Mat.maxM b < recNat g 0 4) || decide (Mat.maxN b < recNat g 4 4) ||
                  decide (Mat.maxK b < recNat g 8 4)) ||
                (grouped && decide (Mat.totalM b < ms.sum))
            | 2 => decide (Vop.maxRows b < s.m) || decide (Vop.maxCols b < s.n)
            | _ => decide (Col.maxBytes b < s.m * s.n)
          if stale then (c, .fails 0xF9 COMP_PLAN_INVALID)
          else if tooBig then (c.raise (.plan cl) St.PLAN_SHAPE_OVER, .fails 0xF1 COMP_SHAPE_OVER_PLAN)
          else
            let sets := if kind = 1 && Mat.dscale b then [Mat.scA b, Mat.scW b, Mat.scO b].filter (· != 0)
              else if kind = 2 && Vop.dscale b && Vop.scO b != 0 then [Vop.scO b] else []
            let c := forAll sets c (fun c r => c.rollSet cl s.part r)
            let shapes := if grouped then gs.map (fun g => (recNat g 0 4, recNat g 4 4, recNat g 8 4)) else [(s.m, s.n, s.k)]
            let none' := shapes.all (fun g => g.1 == 0 || g.2.1 == 0)
            let zeroK := kind == 1 && shapes.all (fun g => g.1 == 0 || g.2.1 == 0 || g.2.2 == 0)
            let someK := kind == 1 && shapes.any (fun g => g.1 != 0 && g.2.1 != 0 && g.2.2 == 0)
            if kind != 3 && (none' || zeroK) && (none' || Stp.accum s.rcd) then
              let (c1, r) := claimRes (c.emptyEntry cl s) c s.queue.isSome
              match r with
              | .runs s => (c1.raise (.plan cl) St.PLAN_ZERO_SHAPE, .runs
                  (if kind = 2 && Vop.vop b = 9 then { s with zero := true } else { s with zero := true, ended := some COMP_OK }))
              | .waits => (c0, .waits)
              | r => (c1, r)
            else
              let c := c.raiseIf someK (.plan cl) St.PLAN_ZERO_SHAPE
              let mk (plan : StepPlan) (reorder : Bool) : Chip × StepRes :=
                let (c1, r) := claimRes (c.stepClaims cl { s with plan := plan } b) c s.queue.isSome
                match r with
                | .waits => (c0, .waits)
                | r => (c1.raiseIf reorder (.plan cl) St.PLAN_ACC_REORDER, r)
              if kind = 1 then
                let seqs : List AttnSeq := if Mat.cls b != 5 then [] else match s.kv with
                  | some x => x.seqs.map (fun y => ⟨y.2, y.1 + y.2, y.1⟩)
                  | none => (list (Mat.listRef b) s.n 4).map (fun l => ⟨l, l, 0⟩)
                match c.planMatrix cl s (inCommons (c.stepLoc cl s (Mat.aRef b))) (inCommons (c.stepLoc cl s (Mat.wRef b)))
                  shapes seqs with
                | none => c.descFail cl s 7 COMP_OK
                | some (cores, reorder) =>
                  let f (set fmt : Nat) (cvt : Bool) : Int :=
                    if Mat.dscale b then c.scaleFactor cl s.part set fmt (Mat.margin b) (Mat.scaleInit b) cvt else 0
                  mk { sA := f (Mat.scA b) (Mat.fmtA b) (Mat.aCvt b), sW := f (Mat.scW b) (Mat.fmtW b) false
                       sO := f (Mat.scO b) (Mat.fmtOut b) false, seqs := seqs, cores := cores
                       bias := Mat.auxRef b != 0 && (s.queue.isSome || Stp.bias s.rcd) && Mat.cls b != 2 && Mat.cls b != 5
                       groups := mem.zipIdx.map (fun g => (g.1, (ms.take g.2).sum)) } reorder
              else mk {} false

/-! Collectives (R262-R264). -/

/-- Post the first descriptors of a collective that has just begun. -/
def Chip.colStart (c : Chip) (cl : Nat) (s : StepRun) : Chip × StepRun :=
  if kindOf (recNat s.desc 0 1) = 3 && s.ended.isNone then
    let b := s.desc
    let l := c.colFirst b s.mem (c.stepLoc cl s (Col.srcRef b)) (c.stepLoc cl s (Col.dstRef b)) (c.stepLoc cl s (Col.slotRef b)) (s.m * s.n)
    let l := (if s.m * s.n = 0 && Col.coll b = 1 then [] else l) ++ (if Col.coll b = 1 then c.colRelease cl b (s.m * s.n) else [])
    let (c, p) := c.dmaPostAll cl (Col.channel b) s.part l
    (c, { s with posted := p })
  else (c, s)

/-- Take the results of a collective's descriptors from its channel. -/
def Chip.colCollect (c : Chip) (cl : Nat) (s : StepRun) : Chip × StepRun :=
  let n := Col.channel s.desc
  let h := c.chanOf cl n
  let mine := h.results.filter (fun r => s.posted.contains r.1)
  let ends := mine.foldl (fun e r => if KMap.getD e r.1 COMP_OK = COMP_OK then KMap.insert e r.1 r.2 else e) s.ends
  (c.setChan cl n { h with results := h.results.filter (fun r => !s.posted.contains r.1) }, { s with ends := ends })

/-- Have all descriptors of a collective completed, and all their remote signals been answered? -/
def Chip.colQuiet (c : Chip) (cl : Nat) (s : StepRun) : Bool :=
  s.posted.all (fun x => (s.ends.find? x).isSome) &&
    !(c.reqs ++ c.syncHeld).any (fun r => match r.who with
      | .signal x n i => x == cl && n == Col.channel s.desc && decide (internalIdx ≤ i) && s.posted.contains (i - internalIdx)
      | _ => false)

/-- The place of the control core's conversion among a collective's moves (R263): it follows every descriptor posted before it. -/
def convertMove : Nat := 2 ^ 32

/-- Code of a collective (R264): COMP_OK with BYTES = 0; otherwise that of the first descriptor in issue order that did not complete with COMP_OK. -/
def StepRun.colCode (s : StepRun) : Code := if s.m * s.n = 0 then COMP_OK else ((s.posted.map (fun x => KMap.getD s.ends x COMP_OK)).find? (· != COMP_OK)).getD COMP_OK

/-- Move a collective on as far as it goes: pushes and copies done, arrivals awaited, the sum formed (R262-R264). -/
def Chip.colPoll (c : Chip) (cl g : Nat) : Chip :=
  match c.stepOf cl g with
  | none => c
  | some s =>
    if kindOf (recNat s.desc 0 1) != 3 || s.ended.isSome then c
    else
      let b := s.desc
      let (c, s) := c.colCollect cl s
      let finish (c : Chip) (s : StepRun) : Chip := c.setStep cl g { s with ended := some s.colCode, phase := 3 }
      let sum (c : Chip) (s : StepRun) : Chip :=
        let src := c.stepLoc cl s (Col.srcRef b)
        let dst := c.stepLoc cl s (Col.dstRef b)
        let slot := c.stepLoc cl s (Col.slotRef b)
        let (c, code) := (c.dropWaits (.arrivals cl g)).colConvert cl s.part b s.mem src dst slot (s.m * s.n)
        let (c, p) := c.dmaPostAll cl (Col.channel b) s.part (c.colSum b s.mem src dst slot (s.m * s.n) ++ c.colRelease cl b (s.m * s.n))
        c.setStep cl g { s with posted := s.posted ++ convertMove :: p, ends := s.ends.insert convertMove code, phase := 2 }
      if !c.colQuiet cl s then c.setStep cl g s
      else match s.phase with
        | 0 =>
          if Col.coll b = 1 || s.m * s.n = 0 then finish c s
          else if c.syncRange s.part ≤ Col.arriveSync b then
            (c.syncRangeErr (cl / 8) c.deviceId s.part (Col.arriveSync b)).setStep cl g { s with ended := some COMP_SYNC_RANGE, phase := 3 }
          else if Col.arriveValue b ≤ c.syncVal (c.syncIndex s.part (Col.arriveSync b)) then sum c s
          else (c.addWait (c.syncIndex s.part (Col.arriveSync b)) (Col.arriveValue b) (.arrivals cl g)).setStep cl g { s with phase := 1 }
        | 1 => if c.waitMet (.arrivals cl g) then sum c s else c.setStep cl g s
        | 2 => finish c s
        | _ => c

/-! Tile programs (R205, R209, R211-R213). -/

/-- The step that a core of a cluster works for: that of its group, in a share set of the member whose slice is running (R364, R366). -/
def Chip.stepAt (c : Chip) (cl k : Nat) : Option (Nat × StepRun) :=
  (c.stepsOn cl).find? (fun x => x.2.cores.contains k && (!c.shared x.2.part || c.partOf cl == some x.2.part))

/-- Do programs carry a step out: a matrix product, or a KERNEL operation (R185, R235)? -/
def StepRun.byPrograms (s : StepRun) : Bool :=
  s.ended.isNone && (kindOf (recNat s.desc 0 1) == 1 || (kindOf (recNat s.desc 0 1) == 2 && Vop.vop s.desc == 0xF))

/-- Core clock of a cluster in MHz (R460). -/
def Chip.coreMhz (c : Chip) (cl : Nat) : Nat := pointMHz (c.getF (.clkcl cl) R.CLKCL_STATE_OP)

/-- TP_LIMIT in µs and EST_PCT as they act (R214). -/
def Chip.tpLimit (c : Chip) (cl : Nat) : Nat :=
  let v := c.getF (.plan cl) R.PLAN_CTRL_TP_LIMIT
  if v = 0 || 20 < v then 20 else v
def Chip.estPct (c : Chip) (cl : Nat) : Nat :=
  let v := c.getF (.plan cl) R.PLAN_CTRL_EST_PCT
  if v < 50 || 100 < v then 90 else v

/-- Largest estimate of a program in core cycles (R211). -/
def Chip.estLimit (c : Chip) (cl : Nat) : Nat := c.tpLimit cl * c.estPct cl * c.coreMhz cl / 100

/-- The planner's data area in a core of a partition: offset and bytes (R205, R364). -/
def Chip.planArea (c : Chip) (p : Nat) : Nat × Nat :=
  if c.shared p then (0x2B8000 + 0x2000 * c.getF (.part p) R.PART_STATE_MEMBER, 0x2000) else (0x2B8000, 0x8000)

/-- Rows and columns of a cluster in a matrix step (R198). -/
def Chip.stepShare (c : Chip) (cl : Nat) (s : StepRun) : (Nat × Nat) × (Nat × Nat) :=
  clusterShare s.desc s.m s.n (c.posIn s.part cl) (c.clustersOf s.part).length

/-- The data of a step's programs on core `k`. -/
def Chip.trail (c : Chip) (cl k : Nat) (s : StepRun) : Trail := ⟨c, cl, k, c.stepLoc cl s⟩

/-- What the programs of a matrix step are compared with on core `k`. -/
def Chip.progCtx (c : Chip) (cl k : Nat) (s : StepRun) : ProgCtx :=
  { b := s.desc, f := s.plan, area := c.planArea s.part, win := b2n s.high, count := (c.winTiles cl k (b2n s.high)).length, accum := Stp.accum s.rcd
    trail := c.trail cl k s, kv := s.kv, org := ((c.stepShare cl s).1.1, (c.stepShare cl s).2.1, s.k) }

/-- The progress before a core's first program: every order of its sweeps is possible. -/
def CoreProg.start : CoreProg := { alts := (upto 4).map (fun i => { alt := i }) }

/-- Is a program one that the planner writes for core `k` of a step? The progress after it. `lim` is the room for sweeps that the planner leaves in a program. -/
def Chip.progNext (c : Chip) (cl k : Nat) (s : StepRun) (lim : Nat) (bs : List Byte) (cmds : List (List Byte)) : Option CoreProg :=
  let p := ((s.progs.find? k).bind (·.head?)).getD CoreProg.start
  let last := bit (recNat bs 2 1) 1
  if kindOf (recNat s.desc 0 1) = 1 then
    let m := spanLen (c.stepShare cl s).1
    let n := spanLen (c.stepShare cl s).2
    let x := c.progCtx cl k s
    match s.plan.cores.find? (fun x => x.core == k) with
    | none => none
    | some y => if x.roomOk y m n s.k lim (c.estLimit cl) cmds (recNat bs 0 2) p.done then x.matrix y m n s.k lim last cmds p else none
  else kernelOk s.desc (c.trail cl k s) last cmds p

/-- Does the header of a program hold what R205 and R211 say: its length, VALID, LAST, the step (0 outside a rally, DESIGN CHOICE: log entry 138), its number, and
an estimate within the limit? -/
def Chip.progHeaderOk (c : Chip) (cl k : Nat) (s : StepRun) (bs : List Byte) : Bool :=
  let len := recNat bs 0 2
  bs.length == 64 + 64 * len && decide (len ≤ 1791) && field (recNat bs 2 2) 0 1 == 1 && field (recNat bs 2 2) 2 14 == 0 && allZero ((bs.drop 0x10).take 48) &&
    recNat bs 4 4 == (if s.queue.isNone then s.walk.idx else 0) && recNat bs 8 4 == (KMap.getD s.progs k []).length && decide (recNat bs 0xC 4 ≤ c.estLimit cl)

/-- May the planner write the next program of a core: the step runs by programs and has not stopped, its partition holds the cluster's slice, the core still owes a program, the
buffer is free, and every core has its first program before any has a second (R192, R205, R213, R366)? -/
def Chip.mayWrite (c : Chip) (cl k b : Nat) (s : StepRun) : Bool :=
  s.byPrograms && s.code == 0 && c.partOf cl == some s.part && (s.ends.find? k).isNone && (s.ends.find? (100 + k)).isNone && c.bufferFree cl k b &&
    ((KMap.getD s.progs k []).isEmpty || s.cores.all (fun j => (s.progs.find? j).isSome))

/-- What the planner has moved into commons for the programs of a step's cores. -/
def StepRun.staged (s : StepRun) : List Staged := (s.cores.filterMap (fun k => (s.progs.find? k).bind (·.head?))).flatMap (·.staged)

/-- PROGRAM_WRITE: the planner writes the next program of a core into a free buffer, VALID last (R205, R211, R213), and moves into commons what its pulls bring from elsewhere
(R378). `bs` is the header with its command slots; `data` goes to byte `off` of the planner's data area first; `lim` is the room for sweeps in the program. What the planner
would not write is not written. -/
def Chip.programWrite (c : Chip) (cl k b : Nat) (bs : List Byte) (off : Nat) (data : List Byte) (lim : Nat) : Chip :=
  match c.stepAt cl k with
  | none => c
  | some (g, s) =>
    let area := c.planArea s.part
    if !c.mayWrite cl k b s || !c.progHeaderOk cl k s bs || area.2 < off + data.length || c.estLimit cl < lim then c
    else match programCmds bs with
      | none => c
      | some cmds =>
        let est := recNat bs 0xC 4
        let d := c.spWrite cl k (area.1 + off) data
        match d.progNext cl k s lim bs cmds with
        | none => c
        | some p =>
          if est != estProgram cmds || !stagedOk (s.staged ++ p.staged) then c
          else
            let d := d.stageIn cl s.part (p.staged.filter (fun x => !s.staged.contains x))
            let s := { s with
              progs := s.progs.insert k (p :: KMap.getD s.progs k [])
              ends := if bit (recNat bs 2 1) 1 then s.ends.insert (100 + k) COMP_OK else s.ends }
            (((d.spWrite cl k (bufOff b) bs).setStep cl g s).addF (.plan cl) R.PLAN_PROGRAMS 1).addF (.plan cl) R.PLAN_EST_CYC est

/-- May a program of partition `p` start on a cluster: its partition holds the cluster's slice, and the slice's time has not run out (R209,
R367)? -/
def Chip.sliceAllows (c : Chip) (cl p : Nat) : Bool := c.partOf cl == some p && !c.spent.contains p

/-- TP_START: the next program of a core starts; one of a step that has stopped is discarded instead (R209, R213). -/
def Chip.tpStart (c : Chip) (cl k : Nat) : Chip :=
  if (c.seqOf cl k).running then c
  else match c.nextBuffer cl k with
    | none => c
    | some b => match c.stepAt cl k with
      | some (_, s) =>
        if s.code != 0 then (c.clearValid cl k b).clearValid cl k (1 - b)
        else if c.sliceAllows cl s.part then c.seqStart cl k b s.part else c
      | none => match c.partOf cl with
        | some p => if c.sliceAllows cl p then c.seqStart cl k b p else c
        | none => c

/-- TP_END: the program of a core ends once every command it has issued has completed, and its END counts (R122, R209, R212, R498); `core` and `noc` are its run time in
core cycles and NoC cycles. -/
def Chip.tpEnd (c : Chip) (cl k core noc : Nat) : Chip :=
  let q := c.seqOf cl k
  if !q.running || !(q.ended || q.stop.isSome) || !c.seqQuiet cl k then c
  else
    let c := (c.clearValid cl k q.buf).tbDiscard cl k
    let c := c.addF (.plan cl) R.PLAN_ACT_CYC core
    let c := if c.getF (.plan cl) R.PLAN_TP_MAX < noc then c.setF (.plan cl) R.PLAN_TP_MAX noc else c
    let c := c.raiseIf (decide (c.tpLimit cl * 2000 < noc)) (.plan cl) St.PLAN_TP_OVERRUN
    let c := c.cmdDone cl k (b2n (q.ended && q.stop.isNone))
    let c := c.setSeq cl k { q with running := false, ended := false, stop := none, loops := [], moves := [], runs := [], veHold := none }
    match c.stepAt cl k with
    | none => c
    | some (g, s) =>
      match q.stop with
      | some code =>
        let ends := s.ends.insert k code
        let first := (s.cores.filterMap (fun j => ends.find? j)).find? (· != COMP_OK)
        c.setStep cl g { s with ends := ends, code := first.getD code }
      | none => if q.last then c.setStep cl g { s with ends := s.ends.insert k COMP_OK } else c

/-- Has a step come to its end in the cluster (R213, R264), and with which code? Operations other than KERNEL end when they are carried
out. -/
def Chip.stepCode (c : Chip) (cl : Nat) (s : StepRun) : Option Code :=
  match s.ended with
  | some code => some code
  | none =>
    if s.byPrograms then
      if s.code != 0 then (if s.cores.any (fun k => (c.seqOf cl k).running) then none else some s.code)
      else if s.cores.all (fun k => (s.ends.find? k).isSome) then some COMP_OK else none
    else none

/-- Shape table that a DISPATCH writes: that of the plan which the cluster holds; with none, it lies at a free place (log entry 46). -/
def Chip.shapeTableOf (c : Chip) (cl : Nat) : Nat :=
  let q := c.rseqOf cl
  if q.hdr.isEmpty then Config.shapeTable cl else c.getF (.rseq cl) R.RSEQ_PLAN_PLAN_BASE + Hdr.shapeTable q.hdr

/-- Carry out a vector operation that is due (R235, R236), unless a session holds its accesses (R311). -/
def Chip.vopPoll (c : Chip) (cl g : Nat) : Chip :=
  match c.stepOf cl g with
  | none => c
  | some s =>
    if s.ended.isSome || s.byPrograms || kindOf (recNat s.desc 0 1) != 2 then c
    else
      let r : VopRun := ⟨c.freeCtr, s.desc, cl, s.part, s.m, s.n, s.k, c.stepLoc cl s, s.cores, c.shapeTableOf cl⟩
      if r.held c then c
      else
        let (c, code) := r.run c (if s.queue.isNone then c.shapeSeq cl s.part s.mb else 0)
        c.setStep cl g { s with ended := some code }

/-- Where a VE_RUN of a step reports a magnitude on core `k`: Config.reportPlace names it in the planner's area (log entry 118). -/
def Chip.reportAt (c : Chip) (s : StepRun) (k : Nat) : Nat :=
  let area := c.planArea s.part
  area.1 + Config.reportPlace k s.walk.idx % (area.2 - 3)

/-- The places at which a step's programs report magnitudes, as (core, offset): those of its final ACC_STOREs and, where a VE_RUN forms the result (a WSH or KO product, an ATTN
block, a KERNEL operation), the one that it reports at (R192, R197, R200, R236). -/
def Chip.amaxPlaces (c : Chip) (s : StepRun) : List (Nat × Nat) :=
  if kindOf (recNat s.desc 0 1) = 2 then s.cores.map (fun k => (k, c.reportAt s k))
  else s.plan.cores.flatMap (fun x =>
    (((s.progs.find? x.core).bind (·.head?)).elim [] (·.maxes)).map (fun o => (x.core, o)) ++
      (if x.prods.any (fun q => q.ko || q.mode == 3) || !x.blocks.isEmpty then [(x.core, c.reportAt s x.core)] else []))

/-- The largest magnitude that a step's programs reported. -/
def Chip.reported (c : Chip) (cl : Nat) (s : StepRun) : FVal :=
  ((c.amaxPlaces s).map (fun x => of32 (leNat (c.spRead cl x.1 x.2 4)))).foldl amaxOf .zero

/-- The amax of a step (R192, R236): the largest magnitude that its programs reported; a KERNEL reports that of its own results. -/
def Chip.stepAmax (c : Chip) (cl : Nat) (s : StepRun) : Chip :=
  let b := s.desc
  if s.zero || (c.amaxPlaces s).isEmpty then c
  else match kindOf (recNat b 0 1) with
    | 1 =>
      let sA := if isMx (Mat.fmtA b) then 0 else s.plan.sA
      if Mat.dscale b then c.raiseAmax cl s.part (Mat.scO b) ((c.reported cl s).scale (-(sA + s.plan.sW))).r32 else c
    | 2 => if Vop.vop b = 0xF && Vop.dscale b then c.raiseAmax cl s.part (Vop.scO b) (c.reported cl s) else c
    | _ => c

/-- The programs of a stopped step that have not started are discarded without running (R213). -/
def Chip.dropPrograms (c : Chip) (cl : Nat) (s : StepRun) : Chip :=
  if s.byPrograms && s.code != 0 && c.partOf cl == some s.part then forAll s.cores c (fun c k => (c.clearValid cl k 0).clearValid cl k 1) else c

/-- Does the pass of a step keep an entry (R55)? -/
def Chip.entryKept (c : Chip) (cl : Nat) (s : StepRun) (n q : Nat) : Bool :=
  s.queue.isNone && (c.rseqOf cl).passes.any (fun x => x.bwd == s.bwd && x.rally == s.rally && x.mb == s.mb &&
    x.holds.any (fun h => h.shelf == n && h.entry == q))

/-- The results of a step that the planner moves out of commons. -/
def StepRun.outs (s : StepRun) : List Staged :=
  (s.cores.filterMap (fun k => (s.progs.find? k).bind (·.head?))).flatMap (fun p => (p.alts.head?.map (·.outs)).getD [])

/-- What a completed step gives back (R193, R213): its results leave commons for where the descriptor has them, claimed entries are committed and the input entries released; an
entry that the pass keeps stays until its sub-rally has run (R55). Its code is that of the first commit that was refused: a shelf's SIG_SYNC out of range (R166, R277). -/
def Chip.stepRelease (c : Chip) (cl : Nat) (s : StepRun) : Chip × Code :=
  let c := c.stageOut cl s.part s.outs
  let (c, code) := match s.refs.o, s.out with
    | some n, some q => c.shelfCommit (.commons cl n) s.part q
    | _, _ => (c, COMP_OK)
  let (c, code) := match s.grad with
    | some q => let (c, e) := c.shelfCommit (.commons cl 254) s.part q; (c, if code = COMP_OK then e else code)
    | none => (c, code)
  let give (c : Chip) (n : Option Nat) : Chip := match n with
    | some n => match (c.shelf (.commons cl n)).oldest with
      | some q => if c.entryKept cl s n q then c else (c.shelfRelease (.commons cl n) q).1
      | none => c
    | none => c
  (give (give c s.refs.a) s.refs.b, code)

end Sys2Proof.Machine
end

