-- ==== Sys2Proof/Machine/Rseq.lean ====
section
/-! DEFINITION. The rally sequencer (R31-R66, R155, R170-R172): loading and running a plan, admission and placement of passes, checkpoints,
the change of grouping, the issue and end of steps, the gather prefetcher, halts, drains and reset. -/

namespace Sys2Proof.Machine

/-! Sequencer states (R42). -/
def RS_IDLE : Nat := 0
def RS_LOADED : Nat := 1
def RS_RUNNING : Nat := 2
def RS_DRAINING : Nat := 3
def RS_HALTED : Nat := 4

def Chip.rsState (c : Chip) (cl : Nat) : Nat := c.getF (.rseq cl) R.RSEQ_STATE
def Chip.setRs (c : Chip) (cl v : Nat) : Chip := c.setF (.rseq cl) R.RSEQ_STATE v

/-- A walk is on: RUNNING or DRAINING. -/
def Chip.walking (c : Chip) (cl : Nat) : Bool := c.rsState cl == RS_RUNNING || c.rsState cl == RS_DRAINING

/-- CL_RSEQ_ERR (R66). -/
def Chip.rsErr (c : Chip) (cl reason rally step mb : Nat) : Chip :=
  c.setFs (.rseq cl) [(R.RSEQ_ERR_REASON, reason), (R.RSEQ_ERR_RALLY, rally), (R.RSEQ_ERR_STEP, step), (R.RSEQ_ERR_MB, mb)]

/-- Are the groups split (R49)? -/
def Chip.groupsSplit (c : Chip) (cl : Nat) : Bool := c.getF (.rseq cl) R.RSEQ_STATE_SPLIT != 0

/-- Logical cores of a group (R47, R49). -/
def Chip.groupCores (c : Chip) (cl : Nat) (bwd : Bool) : List Nat :=
  let s := c.getF (.rseq cl) R.RSEQ_STATE_SPLIT
  if s = 0 then upto 16 else if bwd then (upto 16).filter (fun k => decide (s ≤ k)) else upto s

/-! Registers that follow the placement (R66, R88, R170, R171). -/

def cmGrant (q : Nat) : Field × Field × Field :=
  match q with
  | 0 => (R.CM_GRANT0_BASE, R.CM_GRANT0_SIZE, R.CM_GRANT0_CARRY)
  | 1 => (R.CM_GRANT1_BASE, R.CM_GRANT1_SIZE, R.CM_GRANT1_CARRY)
  | 2 => (R.CM_GRANT2_BASE, R.CM_GRANT2_SIZE, R.CM_GRANT2_CARRY)
  | _ => (R.CM_GRANT3_BASE, R.CM_GRANT3_SIZE, R.CM_GRANT3_CARRY)

/-- SP_CM_GRANT of a quarter. -/
def Chip.setCmGrant (c : Chip) (cl q base size carry : Nat) : Chip :=
  c.setFs (.cm cl) [((cmGrant q).1, base), ((cmGrant q).2.1, size), ((cmGrant q).2.2, carry)]

/-- SP_GRANT of a core: its low-end or high-end shelf share. -/
def Chip.setSpGrant (c : Chip) (cl k : Nat) (high : Bool) (base size : Nat) : Chip :=
  c.setFs (.sp cl k) (if high then [(R.SP_GRANT_BASE1, base), (R.SP_GRANT_SIZE1, size)] else [(R.SP_GRANT_BASE0, base), (R.SP_GRANT_SIZE0, size)])

/-- ME_ACC_WIN of a core; a window set to COUNT = 0 holds no VT any longer (R88). -/
def Chip.setWin (c : Chip) (cl k : Nat) (high : Bool) (base count : Nat) : Chip :=
  let c := c.setFs (.me cl k) (if high then [(R.ME_ACC_WIN_BASE1, base), (R.ME_ACC_WIN_COUNT1, count)] else
    [(R.ME_ACC_WIN_BASE0, base), (R.ME_ACC_WIN_COUNT0, count)])
  if count = 0 then c.closeWindows cl k else c

/-- The setting of a core's windows outside rally work (R88). -/
def Chip.outsideWin (c : Chip) (cl k : Nat) : Chip :=
  let p := (c.partOf cl).getD 0
  let c := (c.setWin cl k false 0 0).setWin cl k true 0 0
  if (c.partOf cl).isNone || !c.shared p then c.setWin cl k false 0 32
  else c.setWin cl k false (c.getF (.part p) R.PART_SLICE_ACC_BASE) (c.getF (.part p) R.PART_SLICE_ACC_COUNT)

/-- The commons pool that a pass draws on, in KiB (R172). -/
def Chip.poolOf (c : Chip) (cl : Nat) (bwd : Bool) : Nat × Nat :=
  let h := (c.rseqOf cl).hdr
  let f := Hdr.commonsF h
  let t := f + Hdr.commonsB h
  if c.groupsSplit cl then (if bwd then (f, t) else (0, f)) else (0, t)

/-- Do passes and carries of kind `x` stand in the pool of kind `bwd`? -/
def Chip.samePool (c : Chip) (cl : Nat) (bwd x : Bool) : Bool := !c.groupsSplit cl || x == bwd

/-- Commons, shelf and accumulator that stand at an end of a pool; none when the end is free (R171). -/
def Chip.endHolds (c : Chip) (cl : Nat) (bwd high : Bool) : Option (Nat × Nat × Nat) :=
  let q := c.rseqOf cl
  match q.passes.find? (fun p => c.samePool cl bwd p.bwd && p.high == high) with
  | some p => some (p.kib, p.shelf, p.acc)
  | none => (q.carries.find? (fun x => c.samePool cl bwd x.bwd && x.high == high)).map (fun x => (x.kib, 0, 0))

/-- CL_RSEQ_POOL (R66); while the groups are joined the F fields show the one pool and the B fields 0 (DESIGN CHOICE: log entry 47). -/
def Chip.setPoolRegs (c : Chip) (cl : Nat) : Chip :=
  let h := (c.rseqOf cl).hdr
  let free (bwd : Bool) : Nat × Nat :=
    if h.isEmpty || bwd && !c.groupsSplit cl then (0, 0)
    else
      let p := c.poolOf cl bwd
      let a := (c.endHolds cl bwd false).getD (0, 0, 0)
      let b := (c.endHolds cl bwd true).getD (0, 0, 0)
      (p.2 - p.1 - a.1 - b.1, Hdr.shelfKib h - a.2.1 - b.2.1)
  c.setFs (.rseq cl) [(R.RSEQ_POOL_COMMONS_F_FREE, (free false).1), (R.RSEQ_POOL_COMMONS_B_FREE, (free true).1),
    (R.RSEQ_POOL_SHELF_F_FREE, (free false).2), (R.RSEQ_POOL_SHELF_B_FREE, (free true).2)]

/-- Clear the grants and return the windows to their outside-rally setting. -/
def Chip.clearGrants (c : Chip) (cl : Nat) : Chip :=
  let c := forAll (upto 4) c (fun c q => c.setCmGrant cl q 0 0 0)
  forAll (upto 16) c (fun c k => ((c.setSpGrant cl k false 0 0).setSpGrant cl k true 0 0).outsideWin cl k)

/-! Loading a plan (R33, R41, R43, R58, R155). -/

/-- Close shelves 252-254 of a cluster, discarding what they hold (R155, R167). -/
def Chip.closeStaging (c : Chip) (cl : Nat) : Chip :=
  forAll [252, 253, 254] c (fun c n => c.setShelf (.commons cl n) { (c.shelf (.commons cl n)).emptied with opened := false })

/-- Open shelves 252-254 as the header lays them out (R155); SP_SHELF_OP keeps what it shows (R184). -/
def Chip.openStaging (c : Chip) (cl : Nat) (h : List Byte) : Chip :=
  let at0 := Hdr.commonsF h + Hdr.commonsB h
  forAll [(252, at0, Hdr.gstage h), (253, at0 + Hdr.gstage h, Hdr.gstage h), (254, at0 + 2 * Hdr.gstage h, Hdr.dstage h)] c
    (fun c x =>
      let o := c.shelf (.commons cl x.1)
      c.setShelf (.commons cl x.1) { opened := true, cons := 1, owner := 4, base := x.2.1, size := x.2.2, opResult := o.opResult, opOffset := o.opOffset })

/-- Take or give back DMA channels 28-31 (R58). -/
def Chip.ownChannels (c : Chip) (cl : Nat) (own : Bool) : Chip :=
  forAll [28, 29, 30, 31] c (fun c n => c.setB (.ch cl n) R.CH_CTRL_OWNED own)

/-- RALLY_LOAD in one cluster: its code (R33, R41, R43). -/
def Chip.rseqLoad (c : Chip) (cl p base : Nat) : Chip × Code :=
  if c.walking cl then (c.raise (.rseq cl) St.RSEQ_STATE_CONFLICT, COMP_STATE_CONFLICT)
  else match c.validatePlan cl p base with
    | .error e =>
      ((((c.noteReads (rseqAgent cl p) e.read).raise (.rseq cl) St.RSEQ_PLAN_INVALID).rsErr cl e.reason e.rally e.step 0), e.code)
    | .ok r =>
      let c := c.noteReads (rseqAgent cl p) (r.reads base)
      let c := if (c.rseqOf cl).hdr.isEmpty then c else c.closeStaging cl
      let c := ((c.openStaging cl r.hdr).ownChannels cl true).setF (.rseq cl) R.RSEQ_PLAN_PLAN_BASE base
      let c := c.setRseq cl { hdr := r.hdr, rallies := r.rallies, subs := r.subs, bsig := r.bsig, fwait := r.fwait, part := p }
      ((c.clearGrants cl).setRs cl RS_LOADED |>.setPoolRegs cl, COMP_OK)

/-! Running (R44, R46, R47). -/

/-- Wait for the seed gradient of a micro-batch (R46); the range is checked where the counter is named (R277). -/
def Chip.seedWait (c : Chip) (cl mb : Nat) : Chip :=
  let q := c.rseqOf cl
  let n := Hdr.seedSync q.hdr
  let i := c.syncIndex q.part n
  let c := c.dropWaits (.seed cl)
  if !Hdr.bwd q.hdr || Hdr.mbs q.hdr ≤ mb then c
  else c.addWait i (c.getF (.sync i) R.SYNC_CFG_BASE + (mb + 1) * Hdr.seedStep q.hdr) (.seed cl)

/-- Stop the plan (R62): admission stops in every cluster that walks it; this cluster records the first cause of its own. -/
def Chip.rseqHalt (c : Chip) (cl reason code rally step mb : Nat) : Chip :=
  let q := c.rseqOf cl
  if q.halt.isSome && q.cause || !c.walking cl then c
  else
    let c := (c.setRseq cl { q with halt := some code, cause := true }).rsErr cl reason rally step mb
    let c := c.raiseIf (decide (reason ≤ 0x0D) || reason == 0xF5 || reason == 0xF9 || reason == 0xFA) (.rseq cl) St.RSEQ_PLAN_INVALID
    let c := c.raiseIf (reason == 0xF1) (.rseq cl) St.RSEQ_SHAPE_OVER_PLAN
    let c := c.raiseIf (reason == 0xF2) (.rseq cl) St.RSEQ_GATHER_PARTIAL
    let c := c.raiseIf (reason == 0xF3 || reason == 0xF4) (.rseq cl) St.RSEQ_CKPT_PARTIAL
    forAll (c.clustersOf q.part) c (fun c x =>
      let t := c.rseqOf x
      if c.walking x && t.halt.isNone then c.setRseq x { t with halt := some code } else c)

/-- RALLY_RUN in one cluster (R43, R44): the walk begins. -/
def Chip.rseqRun (c : Chip) (cl : Nat) : Chip :=
  if c.rsState cl != RS_LOADED then c
  else
    let q := c.rseqOf cl
    let c := c.setRseq cl { q with
      passes := [], carries := [], fAdm := 0, bAdm := 0, fRet := [], bRet := [], splitDone := false, halt := none, cause := false, done := none,
      fwdPf := {}, bwdPf := {} }
    let c := forAll (upto 16) c (fun c k => (c.setWin cl k false 0 0).setWin cl k true 0 0)
    let c := (c.setRs cl RS_RUNNING).setPoolRegs cl
    if Hdr.bwd q.hdr && c.syncRange q.part ≤ Hdr.seedSync q.hdr then
      (c.syncRangeErr (cl / 8) c.deviceId q.part (Hdr.seedSync q.hdr)).rseqHalt cl 0xF7 COMP_SYNC_RANGE 0 0 0
    else c.seedWait cl 0

/-- End a RALLY_RUN in a cluster: the state it enters, the code it reports; reservations and grouping end with it. -/
def Chip.rseqEnd (c : Chip) (cl state code : Nat) : Chip :=
  let q := c.rseqOf cl
  let c := c.dropWaits (.seed cl)
  let give (c : Chip) (n : Nat) (l : List Piece) : Chip :=
    forAll l c (fun c x => (c.shelfRelease (.commons cl n) x.entry).1)
  let c := give (give c 252 q.fwdPf.staged) 253 q.bwdPf.staged
  let c := c.setRseq cl { q with passes := [], carries := [], fwdPf := {}, bwdPf := {}, splitDone := false, done := some code }
  let c := ((c.setF (.rseq cl) R.RSEQ_STATE_SPLIT 0).setRs cl state).clearGrants cl
  c.setPoolRegs cl

/-! Admission (R45-R53, R88, R170, R171). -/

/-- Have the forward passes of the first DEPTH micro-batches, which precede the first backward pass, retired (R35, R47)? -/
def Rseq.filled (q : Rseq) : Bool :=
  decide (Hdr.rallies q.hdr * min (Hdr.depth q.hdr) (Hdr.mbs q.hdr) ≤ (q.fRet.filter (fun x => decide (x.2 < Hdr.depth q.hdr))).length)

/-- Has a pass's every dependency retired (R45, R48), and for a backward pass the fill (R35, R47)? -/
def Chip.passReady (c : Chip) (cl : Nat) (bwd : Bool) (r i : Nat) : Bool :=
  let q := c.rseqOf cl
  let n := Hdr.rallies q.hdr
  let p := Hdr.depth q.hdr
  if bwd then
    q.filled && q.fRet.contains (r, i) && (if r + 1 < n then q.bRet.contains (r + 1, i) else c.waitMet (.seed cl))
  else
    (r == 0 || q.fRet.contains (r - 1, i)) && (!Hdr.bwd q.hdr || i < p + 1 || q.bRet.contains (0, i - p - 1))

/-- The oldest waiting pass of a group (R47): (rally, micro-batch). With DEPTH = 0 the two queues form one. -/
def Chip.nextPass (c : Chip) (cl : Nat) (bwd : Bool) : Option (Nat × Nat) :=
  let q := c.rseqOf cl
  let n := Hdr.rallies q.hdr
  let pos := if bwd then q.bAdm else q.fAdm
  let turn := !(Hdr.bwd q.hdr && Hdr.depth q.hdr == 0) ||
    (if bwd then decide (n * (pos / n + 1) ≤ q.fAdm) else decide (n * (pos / n) ≤ q.bAdm))
  if pos < queueLen q.hdr bwd && turn then some (queuePass n bwd pos) else none

/-- Is the first backward pass ready while the groups have still to be divided (R49)? Where the forward queue is already empty at that moment (m ≤ p), the
groups are divided all the same and rejoin before the backward pass is admitted (DESIGN CHOICE: log entry 90). -/
def Chip.splitDue (c : Chip) (cl : Nat) : Bool :=
  let q := c.rseqOf cl
  Hdr.split q.hdr != 0 && !c.groupsSplit cl && !q.splitDone &&
    (match c.nextPass cl true with | some (r, i) => c.passReady cl true r i | none => false)

/-- Is the forward queue empty while the groups are split (R49)? It is once its last pass has been admitted, and from then on no pass is admitted until that pass too has
retired and the groups have rejoined (DESIGN CHOICE: log entry 133). -/
def Chip.rejoinDue (c : Chip) (cl : Nat) : Bool :=
  let q := c.rseqOf cl
  c.groupsSplit cl && decide (queueLen q.hdr false ≤ q.fAdm)

/-- Where a pass would be placed in a cluster (R170, R171): (end, first KiB, KiB). -/
def Chip.placePass (c : Chip) (cl : Nat) (bwd : Bool) (r i : Nat) : Option (Bool × Nat × Nat) :=
  let q := c.rseqOf cl
  let d := q.rallies.getD r []
  let pool := c.poolOf cl bwd
  let carry := q.carries.find? (fun x => x.bwd == bwd && x.rally == r && x.mb == i)
  let side := match carry with
    | some x => some x.high
    | none => if (c.endHolds cl bwd false).isNone then some false
      else if (c.endHolds cl bwd true).isNone then some true else none
  match side with
  | none => none
  | some high =>
    let kib := max (Rly.commonsKib d bwd) (match carry with | some x => x.kib | none => 0)
    let other := (c.endHolds cl bwd (!high)).getD (0, 0, 0)
    if kib + other.1 ≤ pool.2 - pool.1 && Rly.shelfKib d bwd + other.2.1 ≤ Hdr.shelfKib q.hdr && Rly.acc d bwd + other.2.2 ≤ 32 then
      some (high, if high then pool.2 - kib else pool.1, kib)
    else none

/-- May the next pass of a group be admitted in a cluster, and which? -/
def Chip.mayAdmit (c : Chip) (cl : Nat) (bwd : Bool) : Option (Nat × Nat × Bool × Nat × Nat) :=
  let q := c.rseqOf cl
  if c.rsState cl != RS_RUNNING || q.halt.isSome || c.rejoinDue cl || c.splitDue cl then none
  else match c.nextPass cl bwd with
    | some (r, i) =>
      if c.passReady cl bwd r i then (c.placePass cl bwd r i).map (fun x => (r, i, x.1, x.2.1, x.2.2)) else none
    | none => none

/-- Region of a pass's share that holds the checkpointed value, in bytes of the share (R52, R57): a forward pass's carry-in region; where it has none, as in rally 0, and for a
backward pass the whole share (DESIGN CHOICE: log entry 101). -/
def ckptRegion (bwd high : Bool) (kib carry : Nat) : Nat × Nat :=
  (if !bwd && carry != 0 && high then (kib - carry) * 1024 else 0, if !bwd && carry != 0 && !high then carry * 1024 else kib * 1024)

/-- A value brought into `[lo, hi]`. -/
def within (lo hi v : Nat) : Nat := lo + v % (hi - lo + 1)

/-- The slice of a checkpoint of `units` 64-byte units that a free choice names, of at most `room` units (R57): first unit in the checkpoint, and units, at least one
wherever there is room. The pass has no part in it: what is written is what is read. -/
def sliceOf (units room : Nat) (x : Nat × Nat × Nat) : Nat × Nat :=
  let n := if units = 0 || room = 0 then 0 else within 1 (min units room) x.2.1
  (within 0 (units - n) x.1, n)

/-- Units of 64 bytes that both passes of a rally have for its checkpoint (R36, R52): the region from which the forward pass writes it and the backward pass's share. -/
def ckptRoom (q : Rseq) (r : Nat) : Nat :=
  let d := q.rallies.getD r []
  let carry := if r = 0 then 0 else Rly.carryKib (q.rallies.getD (r - 1) [])
  16 * min (if carry = 0 then Rly.commonsKib d false else carry) (Rly.commonsKib d true)

/-- The descriptors of a rally's steps for a cluster, as far as they can be read (R38). -/
def Chip.rallyDescs (c : Chip) (cl : Nat) (q : Rseq) (r : List Byte) : List (List Byte) :=
  let ag := rseqAgent cl q.part
  (upto (Rly.fwdSteps r + Rly.bwdSteps r)).map (fun i =>
    let s := (c.peek ag (Rly.stepAddr r i) 64).2
    (c.peek ag (Stp.program s + Stp.stride s * c.posIn q.part cl) 128).2)

/-- The slice of a pass's checkpoint that the operator descriptors of the cluster name, in bytes: offset in the checkpoint, length, offset in the share (R57;
DESIGN CHOICE: log entry 101). -/
def Chip.ckptSlice (c : Chip) (cl : Nat) (p : Pass) (carry : Nat) : Nat × Nat × Nat :=
  let q := c.rseqOf cl
  let d := q.rallies.getD p.rally []
  let g := ckptRegion p.bwd p.high p.kib carry
  let x := Config.ckptSlice (c.rallyDescs cl q d)
  let s := sliceOf (Rly.ckptBytes d / 64) (ckptRoom q p.rally) x
  (64 * s.1, 64 * s.2, 64 * within (g.1 / 64) (g.2 / 64 - s.2) x.2.2)

/-- Checkpoint move of a pass in a cluster (R57): the slice (offset and length in the checkpoint, offset in the share, all in bytes) that
the cluster's operator descriptors name. -/
def Chip.ckptMove (c : Chip) (cl : Nat) (p : Pass) (carry : Nat) : Chip :=
  let q := c.rseqOf cl
  let d := q.rallies.getD p.rally []
  if !Hdr.bwd q.hdr || Rly.ckptBytes d = 0 then c
  else
    let slice := c.ckptSlice cl p carry
    let mem : Loc := .abs (ckptAddr q.hdr d p.mb + slice.1)
    let chip : Loc := .abs (cmBase cl + p.lo * 1024 + slice.2.2)
    let (c, l) := c.dmaPostAll cl 30 q.part (c.copyDescs false c.deviceId c.deviceId (if p.bwd then mem else chip)
      (if p.bwd then chip else mem) slice.2.1 0xFFFF 0)
    let q := c.rseqOf cl
    c.setRseq cl { q with passes := q.passes.map (fun x =>
      if x.bwd == p.bwd && x.rally == p.rally && x.mb == p.mb then { x with moves := l } else x) }

/-- The sub-rally tables as a pass of rally `r` finds them, and the reads that it makes (R33, R55). -/
def Chip.walkSubs (c : Chip) (cl r : Nat) : Except PlanFault (List (List Byte)) :=
  let q := c.rseqOf cl
  c.rereadSubs (rseqAgent cl q.part) (q.rallies.getD r []) (q.subs.getD r []) r

/-- Addresses and lengths of a rally's sub-rally entries. -/
def subReads (d : List Byte) : List (Nat × Nat) := (upto (Rly.subCount d)).map (fun s => (Rly.subTable d + 16 * s, 16))

/-- Admit a pass in one cluster: its sub-rally entries are read again (R33) and its reservation is granted in one step (R51, R88, R170, R171). A backward pass
holds the boundary region of sub-rally 0, which its checkpoint fills (R37, R55). -/
def Chip.admitIn (c : Chip) (cl : Nat) (bwd : Bool) (a : Nat × Nat × Bool × Nat × Nat) (await : Nat) : Chip :=
  let (r, i, high, lo, kib) := a
  let subs := c.walkSubs cl r
  let c := c.noteReads (rseqAgent cl (c.rseqOf cl).part) (subReads ((c.rseqOf cl).rallies.getD r []))
  let q := c.rseqOf cl
  let q := match subs with | .ok l => { q with subs := q.subs.set r l } | .error _ => q
  let d := q.rallies.getD r []
  let carry := match q.carries.find? (fun x => x.bwd == bwd && x.rally == r && x.mb == i) with | some x => x.kib | none => 0
  let p : Pass := { bwd := bwd, rally := r, mb := i, high := high, lo := lo, kib := kib, shelf := Rly.shelfKib d bwd,
                    acc := Rly.acc d bwd, steps := c.walkOf cl q bwd r,
                    bounds := if bwd then [(0, Sub.boundKib ((q.subs.getD r []).headD []))] else [] }
  let c := c.setRseq cl { q with
    passes := q.passes ++ [p], carries := q.carries.filter (fun x => !(x.bwd == bwd && x.rally == r && x.mb == i)),
    fAdm := q.fAdm + b2n (!bwd), bAdm := q.bAdm + b2n bwd }
  let c := c.setCmGrant cl (2 * b2n bwd + b2n high) lo kib carry
  let c := forAll (c.groupCores cl bwd) c (fun c k =>
    (c.setWin cl k high (if high then 32 - p.acc else 0) p.acc).setSpGrant cl k high (if high then Hdr.shelfKib q.hdr - p.shelf else 0) p.shelf)
  let c := c.setFs (.rseq cl) (if bwd then [(R.RSEQ_STATE_MB_B, i), (R.RSEQ_STATE_RALLY_B, r)]
    else [(R.RSEQ_STATE_MB_F, i), (R.RSEQ_STATE_RALLY_F, r)])
  let c := c.addF (.rseq cl) R.RSEQ_ACCT_AWAIT await
  let c := if bwd && r + 1 == Hdr.rallies q.hdr then c.seedWait cl (i + 1) else c
  (c.ckptMove cl p carry).setPoolRegs cl

/-- A record of a pass fails when it is read again (R33): the plan halts with the record. -/
def Chip.walkFault (c : Chip) (cl mb : Nat) (e : PlanFault) : Chip :=
  (c.noteReads (rseqAgent cl (c.rseqOf cl).part) e.read).rseqHalt cl e.reason e.code e.rally e.step mb

/-- The fault of the sub-rally entries that a pass to be admitted in a cluster finds, if any. -/
def Chip.admitFault (c : Chip) (cl : Nat) (bwd : Bool) : Option (Nat × PlanFault) :=
  match c.mayAdmit cl bwd with
  | some (r, i, _) => (match c.walkSubs cl r with | .error e => some (i, e) | .ok _ => none)
  | none => none

/-- Does an admissible pass of a group wait for pool space in a cluster (R54)? -/
def Chip.awaitsPool (c : Chip) (cl : Nat) (bwd : Bool) : Bool :=
  c.rsState cl == RS_RUNNING && (c.rseqOf cl).halt.isNone && !c.rejoinDue cl && !c.splitDue cl &&
    (match c.nextPass cl bwd with | some (r, i) => c.passReady cl bwd r i && (c.placePass cl bwd r i).isNone | none => false)

/-- PASS_ADMIT: the oldest waiting pass of a group is admitted when its whole reservation can be granted at once in every cluster (R50,
R51). `await` are the NoC cycles that the pass has waited for pool space since the last PASS_ADMIT; they count whether the pass is admitted now or waits on (R54).
A sub-rally entry that fails when it is read again halts the plan, and nothing is admitted (R33). -/
def Chip.passAdmit (c : Chip) (p : Nat) (bwd : Bool) (await : Nat) : Chip :=
  let cls := c.clustersOf p
  let grants := cls.map (fun cl => (cl, c.mayAdmit cl bwd))
  let first := bwd || cls.any (fun cl => (c.mayAdmit cl true).isNone)
  if cls.isEmpty || !first || grants.any (fun x => x.2.isNone) then
    forAll cls c (fun c cl => if c.awaitsPool cl bwd then c.addF (.rseq cl) R.RSEQ_ACCT_AWAIT await else c)
  else match cls.filterMap (fun cl => (c.admitFault cl bwd).map (fun e => (cl, e))) with
    | [] => forAll grants c (fun c x => match x.2 with
      | some a => c.admitIn x.1 bwd a await
      | none => c)
    | l => forAll l c (fun c x => c.walkFault x.1 x.2.1 x.2.2)

/-! Checkpoint moves and retirement (R45, R52, R57). -/

/-- REASON and code of R62 for a command of a step that completed with a code (a result word of Machine/Dma.lean). -/
def haltCause (word : Nat) : Nat × Nat :=
  let code := wordCode word
  if code = COMP_SHAPE_OVER_PLAN then (0xF1, code)
  else if code = COMP_SYNC_RANGE then (0xF7, code)
  else if code = COMP_SIDEBOARD_HELD then (0xF8, code)
  else if code = COMP_PLAN_INVALID || (COMP_OP_INVALID ≤ code && code ≤ COMP_VE_INST_INVALID) || code = COMP_DMA_DESC_INVALID then
    (0xF5, COMP_PLAN_INVALID)
  else (0xF6, word)

def Rseq.pf (q : Rseq) (bwd : Bool) : Prefetch := if bwd then q.bwdPf else q.fwdPf
def Rseq.setPf (q : Rseq) (bwd : Bool) (p : Prefetch) : Rseq := if bwd then { q with bwdPf := p } else { q with fwdPf := p }

/-- Does a pass depend on failed work? -/
def Rseq.isFailed (q : Rseq) (bwd : Bool) (r i : Nat) : Bool := q.passes.any (fun x => x.bwd == bwd && x.rally == r && x.mb == i && x.failed)

/-- The staged pieces of a failed pass that have landed are freed, since no step of it will run, so that the passes that go on get theirs (R59, R62; DESIGN CHOICE:
log entry 102). -/
def Chip.dropPieces (c : Chip) (cl : Nat) (bwd : Bool) : Chip :=
  let q := c.rseqOf cl
  let pf := q.pf bwd
  let gone (x : Piece) : Bool := q.isFailed bwd x.rally x.mb && x.serials.isEmpty
  forAll (pf.staged.filter gone) (c.setRseq cl (q.setPf bwd { pf with staged := pf.staged.filter (fun x => !gone x) }))
    (fun c x => (c.shelfRelease (.commons cl (if bwd then 253 else 252)) x.entry).1)

/-- Mark a pass as depending on failed work (R62). -/
def Chip.failPass (c : Chip) (cl : Nat) (bwd : Bool) (r i : Nat) : Chip :=
  let q := c.rseqOf cl
  (c.setRseq cl { q with passes := q.passes.map (fun x => if x.bwd == bwd && x.rally == r && x.mb == i then { x with failed := true } else x) }).dropPieces
    cl bwd

/-- Take the results of channel 30; a move that failed halts the plan (R57, R62); STEP is recorded as 0, since no step is at fault (DESIGN CHOICE: log entry
92). -/
def Chip.ckptPoll (c : Chip) (cl : Nat) : Chip :=
  let h := c.chanOf cl 30
  let q := c.rseqOf cl
  forAll h.results (c.setChan cl 30 { h with results := [] }) (fun c r =>
    match q.passes.find? (fun p => p.moves.contains r.1) with
    | none => c
    | some p =>
      let t := c.rseqOf cl
      let c := c.setRseq cl { t with passes := t.passes.map (fun x => { x with moves := x.moves.filter (· != r.1) }) }
      if r.2 = COMP_OK then c
      else
        let cause := if wordCode r.2 = COMP_PARTIAL then (0xF3, r.2) else haltCause r.2
        (c.rseqHalt cl cause.1 cause.2 p.rally 0 p.mb).failPass cl p.bwd p.rally p.mb)

/-- Does a step of a pass run? -/
def Chip.passBusy (c : Chip) (cl : Nat) (p : Pass) : Bool :=
  (c.stepsOn cl).any (fun x => x.2.queue.isNone && x.2.bwd == p.bwd && x.2.rally == p.rally && x.2.mb == p.mb)

/-- The next pass of the same micro-batch and group, which receives the carry (R52). -/
def carryTo (n : Nat) (bwd : Bool) (r : Nat) : Option Nat :=
  if bwd then (if r = 0 then none else some (r - 1)) else (if r + 1 < n then some (r + 1) else none)

/-- PASS_RETIRE: a closing pass of a cluster retires (R44, R45, R52, R88). -/
def Chip.passRetire (c : Chip) (cl : Nat) (bwd high : Bool) : Chip :=
  let q := c.rseqOf cl
  match q.passes.find? (fun p => p.bwd == bwd && p.high == high) with
  | none => c
  | some p =>
    if p.failed || !p.steps.isEmpty || !p.moves.isEmpty || c.passBusy cl p then c
    else
      let d := q.rallies.getD p.rally []
      let kib := min p.kib (Rly.carryKib d)
      let carry := match carryTo (Hdr.rallies q.hdr) bwd p.rally with
        | some r => if kib = 0 then [] else [(⟨bwd, r, p.mb, high, if high then p.lo + p.kib - kib else p.lo, kib⟩ : Carry)]
        | none => []
      let fRet := if bwd then q.fRet else q.fRet ++ [(p.rally, p.mb)]
      let bRet := if bwd then q.bRet ++ [(p.rally, p.mb)] else q.bRet
      let q' := { q with
        passes := q.passes.filter (fun x => !(x.bwd == bwd && x.high == high)), carries := q.carries ++ carry, fRet := fRet, bRet := bRet }
      let c := forAll p.holds (c.setRseq cl q') (fun c h => c.shelfFree (.commons cl h.shelf) h.entry)
      let c := match carry with
        | x :: _ => c.setCmGrant cl (2 * b2n bwd + b2n high) x.lo x.kib x.kib
        | [] => c.setCmGrant cl (2 * b2n bwd + b2n high) 0 0 0
      let c := forAll (c.groupCores cl bwd) c (fun c k => (c.setWin cl k high 0 0).setSpGrant cl k high 0 0)
      let c := (c.addF (.rseq cl) R.RSEQ_PROGRESS_PASSES 1).setPoolRegs cl
      let (c, code) := c.syncInc (cl / 8) q.part (Hdr.doneSync q.hdr) 1
      let c := if code = COMP_OK then c else c.rseqHalt cl 0xF7 COMP_SYNC_RANGE p.rally 0 p.mb
      let all := fRet.length + bRet.length == queueLen q.hdr false + queueLen q.hdr true
      if c.rsState cl == RS_RUNNING && all && (c.rseqOf cl).halt.isNone then c.rseqEnd cl RS_LOADED COMP_OK
      else if c.rsState cl == RS_DRAINING && q'.passes.isEmpty && (c.rseqOf cl).halt.isNone then c.rseqEnd cl RS_LOADED COMP_DRAINED
      else c

/-- PLAN_HALT_COMPLETE: the last admitted pass that does not depend on failed work has retired; the RSEQ enters HALTED (R62), from DRAINING too, a change that
R44 does not list (DESIGN CHOICE: log entry 91). -/
def Chip.planHaltComplete (c : Chip) (cl : Nat) : Chip :=
  let q := c.rseqOf cl
  match q.halt with
  | none => c
  | some code =>
    if c.walking cl && q.passes.all (·.failed) && !(q.passes.any (c.passBusy cl)) then
      (c.rseqEnd cl RS_HALTED code).raise (.rseq cl) St.RSEQ_HALTED
    else c

/-- HALT_REQ (R62, R66). No step is at fault, so CL_RSEQ_ERR records RALLY, STEP and MB as 0 (DESIGN CHOICE: log entry 92). -/
def Chip.haltReq (c : Chip) (cl : Nat) : Chip :=
  if c.rsState cl == RS_RUNNING && (c.rseqOf cl).halt.isNone then c.rseqHalt cl 0xF0 COMP_HALTED 0 0 0 else c

/-- Is a pass ADMITTED or ACTIVE (R45)? It has steps left or runs one, and is neither CLOSING nor failed. -/
def Chip.passActive (c : Chip) (cl : Nat) (p : Pass) : Bool := !p.failed && (!p.steps.isEmpty || c.passBusy cl p)

/-- RSEQ_STALL: no step has issued for longer than STALL_LIMIT while a pass is ADMITTED or ACTIVE (R54). -/
def Chip.rseqStall (c : Chip) (cl : Nat) : Chip :=
  if c.walking cl && (c.rseqOf cl).passes.any (c.passActive cl) && c.getF (.rseq cl) R.RSEQ_CTRL_STALL_LIMIT != 0 then
    c.raise (.rseq cl) St.RSEQ_STALL
  else c

/-- The partition begins to drain: admission stops, admitted passes run on (R44). -/
def Chip.rseqDrain (c : Chip) (cl : Nat) : Chip :=
  if c.rsState cl != RS_RUNNING then c
  else
    let c := c.setRs cl RS_DRAINING
    if (c.rseqOf cl).passes.isEmpty && (c.rseqOf cl).halt.isNone then c.rseqEnd cl RS_LOADED COMP_DRAINED else c

/-! The change of grouping (R49, R172). -/

/-- Copy commons to commons in a cluster, in KiB. -/
def Chip.moveCommons (c : Chip) (cl src dst kib : Nat) : Chip :=
  c.setMem (c.mem.writeN (cmBase cl + dst * 1024) (c.mem.readN (cmBase cl + src * 1024) (kib * 1024)))

/-- Place a carry at an end of its new pool, moving it when it does not sit at one (R172). -/
def Chip.placeCarry (c : Chip) (cl : Nat) (x : Carry) : Chip :=
  let pool := c.poolOf cl x.bwd
  let free (high : Bool) : Bool := (c.endHolds cl x.bwd high).isNone
  let put (c : Chip) (y : Carry) : Chip :=
    let q := c.rseqOf cl
    (c.setRseq cl { q with carries := q.carries ++ [y] }).setCmGrant cl (2 * b2n y.bwd + b2n y.high) y.lo y.kib y.kib
  if x.lo = pool.1 && free false then put c { x with high := false }
  else if x.lo + x.kib = pool.2 && free true then put c { x with high := true }
  else
    let dLo := (x.lo - pool.1) + (pool.1 - x.lo)
    let dHi := (x.lo + x.kib - pool.2) + (pool.2 - x.lo - x.kib)
    let high := if free false && free true then decide (dHi < dLo) else free true
    let lo := if high then pool.2 - x.kib else pool.1
    ((((put (c.moveCommons cl x.lo lo x.kib) { x with high := high, lo := lo }).raise (.cm cl) St.CM_RELOCATE).addF (.cm cl) R.CM_RELOC_BYTES
      (x.kib * 1024)).addF (.cm cl) R.CM_WORDS (2 * (x.kib * 16)))

/-- Change the grouping: carries that already sit at an end of their new pool are placed first. -/
def Chip.regroup (c : Chip) (cl split : Nat) : Chip :=
  let q := c.rseqOf cl
  let c := forAll (upto 4) c (fun c n => c.setCmGrant cl n 0 0 0)
  let c := (c.setRseq cl { q with carries := [] }).setF (.rseq cl) R.RSEQ_STATE_SPLIT split
  let sits (x : Carry) : Bool := let p := c.poolOf cl x.bwd; x.lo == p.1 || x.lo + x.kib == p.2
  let c := forAll (q.carries.filter sits ++ q.carries.filter (fun x => !sits x)) c (fun c x => c.placeCarry cl x)
  c.setPoolRegs cl

/-- GROUP_SPLIT (R49). -/
def Chip.groupSplit (c : Chip) (cl : Nat) : Chip :=
  let q := c.rseqOf cl
  if c.rsState cl == RS_RUNNING && q.halt.isNone && q.passes.isEmpty && c.splitDue cl then c.regroup cl (Hdr.split q.hdr) else c

/-- GROUP_REJOIN (R49). -/
def Chip.groupRejoin (c : Chip) (cl : Nat) : Chip :=
  let q := c.rseqOf cl
  if c.rsState cl == RS_RUNNING && q.halt.isNone && q.passes.isEmpty && c.rejoinDue cl then
    (c.regroup cl 0).setRseq cl { (c.regroup cl 0).rseqOf cl with splitDone := true }
  else c

/-! The gather prefetcher (R59-R61). -/

/-- Passes of a group's queue whose pieces are fetched: all of it, and once admission has stopped for good those already admitted (R59, R62). -/
def Chip.pieceLimit (c : Chip) (cl : Nat) (q : Rseq) (bwd : Bool) : Nat :=
  if q.halt.isSome || c.rsState cl == RS_DRAINING then (if bwd then q.bAdm else q.fAdm) else queueLen q.hdr bwd

/-- The next piece to fetch of a pass that does not depend on failed work, from position `pos` and run `run` on: (position, run, rally, micro-batch, piece index, first step that names it). -/
def Chip.nextPiece (c : Chip) (cl : Nat) (q : Rseq) (bwd : Bool) : Nat → Nat → Nat → Option (Nat × Nat × Nat × Nat × Nat × Nat)
  | 0, _, _ => none
  | fuel + 1, pos, run =>
    if c.pieceLimit cl q bwd ≤ pos then none
    else if q.isFailed bwd (queuePass (Hdr.rallies q.hdr) bwd pos).1 (queuePass (Hdr.rallies q.hdr) bwd pos).2 then
      c.nextPiece cl q bwd fuel (pos + 1) 0
    else
      let (r, i) := queuePass (Hdr.rallies q.hdr) bwd pos
      let w := c.walkOf cl q bwd r
      match w.find? (fun s => s.piece == some run) with
      | some s =>
        let (_, b) := c.peek (rseqAgent cl q.part) (Rly.stepAddr (q.rallies.getD r []) s.idx) 64
        some (pos, run, r, i, Stp.piece b, s.idx)
      | none => c.nextPiece cl q bwd fuel (pos + 1) 0

/-- GATHER_PIECE_FETCH: the prefetcher of a group claims space for its next piece and pulls every segment (R40, R58-R61). -/
def Chip.pieceFetch (c : Chip) (cl : Nat) (bwd : Bool) : Chip :=
  let q := c.rseqOf cl
  let pf := q.pf bwd
  if !c.walking cl then c
  else match c.nextPiece cl q bwd (queueLen q.hdr bwd - pf.pos + 1) pf.pos pf.run with
    | none => c
    | some (pos, run, r, i, piece, idx) =>
      let d := q.rallies.getD r []
      let keep (c : Chip) (x : Piece) : Chip :=
        let q := c.rseqOf cl
        c.setRseq cl (q.setPf bwd { staged := (q.pf bwd).staged ++ [x], pos := pos, run := run + 1 })
      match c.readPiece (rseqAgent cl q.part) q.hdr d piece with
      | .error (reason, code) =>
        ((c.noteReads (rseqAgent cl q.part) (c.pieceReads (rseqAgent cl q.part) d piece)).rseqHalt cl reason code r idx i).failPass cl bwd r i
      | .ok (rec, segs) =>
        let n := if bwd then 253 else 252
        let ch := if bwd then 29 else 28
        match c.stepClaim cl n (Pce.bytes rec) with
        | .error code => (c.rseqHalt cl (haltCause code).1 (haltCause code).2 r idx i).failPass cl bwd r i
        | .ok none => c
        | .ok (some (c, e)) =>
          let at0 := (segs.foldl (fun (acc : List Nat × Nat) s => (acc.1 ++ [acc.2], acc.2 + Pce.segLen s)) ([], 0)).1
          let descs := (List.zip segs at0).flatMap (fun x =>
            let s := x.1
            let dev := Pce.segDev s
            c.copyDescs (Pce.segMirror s && dev != c.deviceId) dev c.deviceId (.abs (Pce.segAddr s + Pce.segStride s * c.posIn q.part cl))
              (.entry (.commons cl n) e x.2) (Pce.segLen s) 0xFFFF 0)
          let c := c.noteReads (rseqAgent cl q.part) (c.pieceReads (rseqAgent cl q.part) d piece)
          let (c, l) := c.dmaPostAll cl ch q.part descs
          keep c { rally := r, mb := i, run := run, entry := e, serials := l }

/-- Take the results of a gather channel: a piece whose moves have all completed is committed (R60). -/
def Chip.gatherPoll (c : Chip) (cl : Nat) (bwd : Bool) : Chip :=
  let ch := if bwd then 29 else 28
  let h := c.chanOf cl ch
  let c := c.setChan cl ch { h with results := [] }
  forAll h.results c (fun c r =>
    let q := c.rseqOf cl
    let pf := q.pf bwd
    let hit (x : Piece) : Bool := x.serials.contains r.1
    let staged := pf.staged.map (fun x => if hit x then
      { x with serials := x.serials.filter (· != r.1), code := if x.code = COMP_OK then r.2 else x.code } else x)
    let c := c.setRseq cl (q.setPf bwd { pf with staged := staged })
    match pf.staged.find? hit with
    | some x => if x.serials.length = 1 then ((c.shelfCommit (.commons cl (if bwd then 253 else 252)) q.part x.entry).1).dropPieces cl bwd else c
    | none => c)

/-- Free a piece once every step that names it has completed (R59). -/
def Chip.pieceDone (c : Chip) (cl : Nat) (s : StepRun) : Chip :=
  let q := c.rseqOf cl
  let later := q.passes.any (fun p => p.bwd == s.bwd && p.rally == s.rally && p.mb == s.mb && p.steps.any (fun w => w.piece == s.walk.piece))
  match s.walk.piece with
  | none => c
  | some run =>
    if later then c
    else
      let pf := q.pf s.bwd
      let hit (x : Piece) : Bool := x.rally == s.rally && x.mb == s.mb && x.run == run
      let c := c.setRseq cl (q.setPf s.bwd { pf with staged := pf.staged.filter (fun x => !hit x) })
      match pf.staged.find? hit with
      | some x => (c.shelfRelease (.commons cl (if s.bwd then 253 else 252)) x.entry).1
      | none => c

/-! Steps of the walk (R33, R38, R39, R60, R213). -/

/-- The pass whose step is next in a group: the oldest admitted pass of the group that has steps left and does not depend on failed work (R62, log entry
39). -/
def Chip.activePass (c : Chip) (cl : Nat) (bwd : Bool) : Option Pass :=
  (c.rseqOf cl).passes.find? (fun p => p.bwd == bwd && !p.failed && !p.steps.isEmpty)

/-- A step fails: the plan halts and its pass does not retire (R62). -/
def Chip.stepFail (c : Chip) (cl : Nat) (p : Pass) (idx reason code : Nat) : Chip :=
  (c.rseqHalt cl reason code p.rally idx p.mb).failPass cl p.bwd p.rally p.mb

/-- STEP_ISSUE: the next step of a group is read (a step that must still wait changes nothing but its wait), its wait and its piece are satisfied, its shape is checked, and the planner begins it (R33,
R38, R39, R60). `gwait` and `cyc` are NoC cycles: the wait for the piece and the planning. -/
def Chip.stepIssue (c : Chip) (cl : Nat) (bwd : Bool) (gwait cyc : Nat) : Chip :=
  match c.activePass cl bwd with
  | none => c
  | some p => match p.steps with
    | [] => c
    | w :: rest =>
      let q : Rseq := c.rseqOf cl
      let cores := c.groupCores cl bwd
      let ag := rseqAgent cl q.part
      let d := q.rallies.getD p.rally []
      let loading := p.bwd && !p.moves.isEmpty
      let taken := cores.any (fun k => (c.stepAt cl k).isSome)
      if !c.walking cl || loading || taken then c
      else
        let before := c
        let (c, code, b) := c.agentRead ag (Rly.stepAddr d w.idx) 64
        if code != COMP_OK then c.stepFail cl p w.idx 0xFA code
        else
          let bad := Stp.reason q.hdr d q.bsig q.fwait w.idx b
          let ws := Stp.waitSync b
          if bad != 0 then c.stepFail cl p w.idx bad COMP_PLAN_INVALID
          else if ws != 0xFFFF && c.syncRange q.part ≤ ws then
            (c.syncRangeErr (cl / 8) c.deviceId q.part ws).stepFail cl p w.idx 0xF7 COMP_SYNC_RANGE
          else if ws != 0xFFFF && !c.waitMet (.step cl (b2n bwd)) && c.syncVal (c.syncIndex q.part ws) < Stp.waitValue b then
            if c.waitsOn (.step cl (b2n bwd)) then before
            else before.addWait (c.syncIndex q.part ws) (Stp.waitValue b) (.step cl (b2n bwd))
          else
            let piece := match w.piece with
              | none => some COMP_OK
              | some run => match (q.pf bwd).staged.find? (fun (x : Piece) => x.rally == p.rally && x.mb == p.mb && x.run == run) with
                | some x => if x.serials.isEmpty then some x.code else none
                | none => none
            match piece with
            | none => before
            | some gcode =>
              let c := (c.dropWaits (.step cl (b2n bwd))).addF (.rseq cl) R.RSEQ_ACCT_GWAIT gwait
              if gcode != COMP_OK then
                let cause := if wordCode gcode = COMP_PARTIAL then (0xF2, gcode) else haltCause gcode
                c.stepFail cl p w.idx cause.1 cause.2
              else
                let slot := Stp.shapeSlot b
                let (c, scode, sh) := if slot = 0xFFFF then (c, COMP_OK, ([] : List Byte))
                  else c.agentRead ag (c.getF (.rseq cl) R.RSEQ_PLAN_PLAN_BASE + Hdr.shapeTable q.hdr + 16 * slot) 16
                let dim (i planned : Nat) : Nat := if slot = 0xFFFF then planned else recNat sh (4 * i) 4
                let m := dim 0 (Stp.maxM b)
                let n := dim 1 (Stp.maxN b)
                let k := dim 2 (Stp.maxK b)
                if scode != COMP_OK then c.stepFail cl p w.idx 0xFA scode
                else if slot != 0xFFFF && recNat sh 0xC 4 != c.shapeSeq cl q.part p.mb then c.stepFail cl p w.idx 0xF9 COMP_PLAN_INVALID
                else if Stp.maxM b < m || Stp.maxN b < n || Stp.maxK b < k then
                  (c.raise (.plan cl) St.PLAN_SHAPE_OVER).stepFail cl p w.idx 0xF1 COMP_SHAPE_OVER_PLAN
                else
                  let s : StepRun := { part := q.part, bwd := bwd, high := p.high, rally := p.rally, mb := p.mb, walk := w, rcd := b,
                                       m := m, n := n, k := k, cores := cores }
                  let (c1, res) := if Stp.kind b = 4 then (c, StepRes.runs { s with ended := some COMP_OK })
                    else c.stepBegin cl (Stp.program b + Stp.stride b * c.posIn q.part cl) s
                  match res with
                  | .waits => before
                  | .fails reason code => (c1.addF (.plan cl) R.PLAN_PLAN_CYC cyc).stepFail cl p w.idx reason code
                  | .runs s =>
                    let q1 : Rseq := c1.rseqOf cl
                    let c1 := c1.setRseq cl { q1 with passes := q1.passes.map (fun (x : Pass) =>
                      if x.bwd == bwd && x.rally == p.rally && x.mb == p.mb then { x with steps := rest } else x) }
                    let c1 := (c1.addF (.plan cl) R.PLAN_PLAN_CYC cyc).addF (.rseq cl) R.RSEQ_PROGRESS_SUB_RECOMP (b2n w.mark)
                    let (c1, s) := c1.colStart cl s
                    (c1.setStep cl (b2n bwd) s).colPoll cl (b2n bwd)

/-- The sub-rally of a step of a rally (R37): its position among the entries. -/
def subOf (subs : List (List Byte)) (idx : Nat) : Nat :=
  subs.findIdx (fun e => (decide (Sub.fwdFirst e ≤ idx) && decide (idx < Sub.fwdFirst e + Sub.fwdCount e)) ||
    (decide (Sub.bwdFirst e ≤ idx) && decide (idx < Sub.bwdFirst e + Sub.bwdCount e)))

/-- Does a step of a backward pass's walk run with "keep" (R55): in a sub-rally recompute, and in the rally recompute of the last sub-rally with TAIL_KEEP? -/
def keepsOutputs (r : List Byte) (mode sub : Nat) : Bool := mode == 2 || (mode == 1 && sub + 1 == Rly.subCount r && Rly.tailKeep r)

/-- Change a pass of a cluster. -/
def Chip.modPass (c : Chip) (cl : Nat) (s : StepRun) (f : Pass → Pass) : Chip :=
  let q := c.rseqOf cl
  c.setRseq cl { q with passes := q.passes.map (fun x => if x.bwd == s.bwd && x.rally == s.rally && x.mb == s.mb then f x else x) }

/-- The output of a recompute step that has completed is stored in the pass's reservation where R55 says so: a KEEP output with the internals of its sub-rally, or
a BOUNDARY output as the input of the next, in a boundary region of BOUND_KIB (R37, R38). While it is kept no step of the pass releases it (DESIGN CHOICE: log entry
103). -/
def Chip.storeOutput (c : Chip) (cl : Nat) (s : StepRun) : Chip :=
  let q := c.rseqOf cl
  let r := q.rallies.getD s.rally []
  let subs := q.subs.getD s.rally []
  let sub := subOf subs s.walk.idx
  let keeps := keepsOutputs r s.walk.mode sub
  let bound := s.walk.mode == 1 && !keeps && Stp.boundary s.rcd
  let put (x : Pass) (n : Nat) : Pass := match s.refs.o, s.out with
    | some sh, some e => { x with holds := x.holds ++ [⟨n, sh, e⟩] }
    | _, _ => x
  if keeps && Stp.keep s.rcd then c.modPass cl s (fun x => put x sub)
  else if bound then c.modPass cl s (fun x => { put x (sub + 1) with
    bounds := if x.bounds.any (·.1 == sub + 1) then x.bounds else x.bounds ++ [(sub + 1, Sub.boundKib (subs.getD (sub + 1) []))] })
  else c

/-- release_within_pass of R55: what a pass keeps with the sub-rallies from `sub` on is freed. -/
def Chip.releaseWithin (c : Chip) (cl : Nat) (s : StepRun) (sub : Nat) : Chip :=
  match (c.rseqOf cl).passes.find? (fun x => x.bwd == s.bwd && x.rally == s.rally && x.mb == s.mb) with
  | none => c
  | some p => forAll (p.holds.filter (fun h => decide (sub ≤ h.sub)))
      (c.modPass cl s (fun x => { x with holds := x.holds.filter (fun h => decide (h.sub < sub)), bounds := x.bounds.filter (fun b => decide (b.1 < sub)) }))
      (fun c h => c.shelfFree (.commons cl h.shelf) h.entry)

/-- Once the last backward step of a sub-rally has completed, its internals and its boundary are released (R55). -/
def Chip.subDone (c : Chip) (cl : Nat) (s : StepRun) : Chip :=
  let q := c.rseqOf cl
  let subs := q.subs.getD s.rally []
  let sub := subOf subs s.walk.idx
  let left := q.passes.any (fun x => x.bwd == s.bwd && x.rally == s.rally && x.mb == s.mb &&
    x.steps.any (fun w => w.mode == 3 && subOf subs w.idx == sub))
  if s.walk.mode = 3 && !left then c.releaseWithin cl s sub else c

/-- The accounting counter of a part of the walk (R65). -/
def acctField (mode : Nat) : Field :=
  match mode with
  | 0 => R.RSEQ_ACCT_FWD | 3 => R.RSEQ_ACCT_BWD | _ => R.RSEQ_ACCT_RECOMP

/-- STEP_COMPLETE: a step of the walk completes in the cluster (R192, R193, R213). `noc` are the NoC cycles in which a core worked for the step. -/
def Chip.stepComplete (c : Chip) (cl : Nat) (bwd : Bool) (noc : Nat) : Chip :=
  let g := b2n bwd
  let c := (c.vopPoll cl g).colPoll cl g
  match c.stepOf cl g with
  | none => c
  | some s =>
    if s.queue.isSome then c
    else match c.stepCode cl s with
      | none => c
      | some code =>
        let c := ((c.dropPrograms cl s).dropStep cl g).addF (.rseq cl) (acctField s.walk.mode) noc
        let fail (c : Chip) (reason code : Nat) : Chip :=
          ((c.rseqHalt cl reason code s.rally s.walk.idx s.mb).failPass cl s.bwd s.rally s.mb).pieceDone cl s
        if code = COMP_OK then
          let (c, kept) := (c.stepAmax cl s).stepRelease cl s
          let c := ((c.storeOutput cl s).subDone cl s).pieceDone cl s
          let sig := Stp.signal s.rcd
          if kept != COMP_OK then fail c (haltCause kept).1 (haltCause kept).2
          else if sig = 0xFFFF then c
          else
            let (c, sc) := c.syncInc (cl / 8) s.part sig 1
            if sc = COMP_OK then c else fail c 0xF7 COMP_SYNC_RANGE
        else if wordCode code = COMP_PARTIAL then fail c 0xF3 code
        else fail c (haltCause code).1 (haltCause code).2

/-- TP_END within a rally: a program that stopped halts the plan at once (R62, R210). -/
def Chip.tpEndHalt (c : Chip) (cl k : Nat) : Chip :=
  match c.stepAt cl k with
  | some (_, s) =>
    if s.queue.isNone && s.code != 0 then
      (c.rseqHalt cl (haltCause s.code).1 (haltCause s.code).2 s.rally s.walk.idx s.mb).failPass cl s.bwd s.rally s.mb
    else c
  | none => c

/-- A loss in LPDDR6 that a held checkpoint occupies halts the plan (R62, 0xF4). Held are the checkpoints of admitted or retired forward
passes whose backward pass has not retired. -/
def Chip.ckptLoss (c : Chip) (cl : Nat) : Chip :=
  let q := c.rseqOf cl
  if !c.walking cl || !Hdr.bwd q.hdr then c
  else
    let held := (q.fRet ++ (q.passes.filter (fun p => !p.bwd)).map (fun p => (p.rally, p.mb))).filter (fun x => !q.bRet.contains x)
    let lost (x : Nat × Nat) : Bool :=
      let d := q.rallies.getD x.1 []
      Rly.ckptBytes d != 0 && (c.peek (rseqAgent cl q.part) (ckptAddr q.hdr d x.2) (Rly.ckptBytes d)).1 == COMP_MEM_LOST
    match held.find? lost with
    | some (r, i) => c.rseqHalt cl 0xF4 COMP_MEM_LOST r 0 i
    | none => c

/-- A partition reset of the cluster: the plan is discarded and the RSEQ enters IDLE (R44, R63, R155). -/
def Chip.rseqReset (c : Chip) (cl : Nat) : Chip :=
  let c := forAll [Waiter.seed cl, .step cl 0, .step cl 1, .arrivals cl 0, .arrivals cl 1] c (fun c w => c.dropWaits w)
  let c := if (c.rseqOf cl).hdr.isEmpty then c else c.closeStaging cl
  let c := { c with rseqs := c.rseqs.erase cl, steps := (c.steps.erase (stepKey cl 0)).erase (stepKey cl 1) }
  let c := (c.setFs (.rseq cl) [(R.RSEQ_STATE, RS_IDLE), (R.RSEQ_STATE_SPLIT, 0), (R.RSEQ_PLAN_PLAN_BASE, 0)]).ownChannels cl false
  (c.clearGrants cl).setPoolRegs cl

end Sys2Proof.Machine
end

