-- ==== Sys2Proof/Machine/Wq.lean ====
section
/-! DEFINITION. The work-queue engine (R268-R276, R293, R294): rings, the wait at the head, dequeue with its checks, the queue commands that
need no other unit, and completions. -/

namespace Sys2Proof.Machine

/-! Entries (R270, R271, R373, R375, R413). -/

namespace Wqe
def op (b : List Byte) : Nat := recNat b 0 1
def irq (b : List Byte) : Bool := bit (recNat b 1 1) 0
def quiet (b : List Byte) : Bool := bit (recNat b 1 1) 1
def tag (b : List Byte) : Nat := recNat b 4 4
def waitSync (b : List Byte) : Nat := recNat b 8 2
def signal (b : List Byte) : Nat := recNat b 0xA 2
def waitValue (b : List Byte) : Nat := recNat b 0xC 4
def plan (b : List Byte) : Nat := recNat b 0x18 8
def desc (b : List Byte) : Nat := recNat b 0x18 8
def stride (b : List Byte) : Nat := recNat b 0x20 4
def m (b : List Byte) : Nat := recNat b 0x24 4
def n (b : List Byte) : Nat := recNat b 0x28 4
def k (b : List Byte) : Nat := recNat b 0x2C 4
def clusters (b : List Byte) : Nat := recNat b 0x30 4
def counter (b : List Byte) : Nat := recNat b 0x18 2
def setValue (b : List Byte) : Bool := bit (recNat b 0x1A 1) 0
def setBase (b : List Byte) : Bool := bit (recNat b 0x1A 1) 1
def value (b : List Byte) : Nat := recNat b 0x1C 4
def base (b : List Byte) : Nat := recNat b 0x20 4
def seqTag (b : List Byte) : Nat := recNat b 0x18 4
def initLen (b : List Byte) : Nat := recNat b 0x1C 4
def handleRef (b : List Byte) : Nat := recNat b 0x20 8
def handle (b : List Byte) : Nat := recNat b 0x18 4
def count (b : List Byte) : Nat := recNat b 0x1C 4
def manifest (b : List Byte) : Nat := recNat b 0x18 8
def oplist (b : List Byte) : Nat := recNat b 0x20 8
def ops (b : List Byte) : Nat := recNat b 0x28 2
def maxSeqs (b : List Byte) : Nat := recNat b 0x2A 2
def maxTokens (b : List Byte) : Nat := recNat b 0x2C 4
def layout (b : List Byte) : Nat := recNat b 0x18 1
def scrub (b : List Byte) : Bool := bit (recNat b 0x19 1) 0
def cabPlan (b : List Byte) : Nat := recNat b 0x18 8
def entries (b : List Byte) : Nat := recNat b 0x20 2

/-- Length of the body fields of an opcode, from 0x18 on; none where the opcode is reserved (R271, R373, R413). -/
def bodyLen (op : Nat) : Option Nat :=
  match op with
  | 0x01 => some 0 | 0x02 => some 8 | 0x03 => some 0 | 0x04 => some 28 | 0x05 => some 12
  | 0x09 => some 0 | 0x0A => some 0 | 0x0B => some 0
  | 0x20 => some 16 | 0x21 => some 8 | 0x22 => some 4 | 0x24 => some 24 | 0x2F => some 2
  | 0x30 => some 10 | 0x31 => some 0 | 0x32 => some 0
  | _ => none

/-- Are the fields of a body formed as its opcode asks: reserved parts zero, alignments kept, lengths in range (log entry 48)? -/
def bodyOk (b : List Byte) : Bool :=
  match op b with
  | 0x02 => plan b % 64 == 0
  | 0x05 => recNat b 0x1A 1 < 4 && recNat b 0x1B 1 == 0
  | 0x20 => handleRef b % 4 == 0 && initLen b != 0
  | 0x21 => field (handle b) 26 6 == 0 && count b != 0
  | 0x22 => field (handle b) 26 6 == 0
  | 0x24 => manifest b % 64 == 0 && oplist b % 32 == 0
  | 0x2F => recNat b 0x19 1 < 2
  | 0x30 => cabPlan b % 64 == 0 && entries b != 0 && entries b ≤ 64
  | _ => true

/-- Check 1 of R273 for queue `n`. -/
def formed (n : Nat) (b : List Byte) : Bool :=
  match bodyLen (op b) with
  | none => false
  | some l => recNat b 1 1 < 4 && recNat b 2 2 == 0 && recNat b 0x10 8 == 0 && allZero (b.drop (0x18 + l)) && bodyOk b &&
      (op b != 0x2F || n == 0)

/-- Counters that an entry names (check 2 of R273). -/
def counters (b : List Byte) : List Nat :=
  ([waitSync b, signal b].filter (· != 0xFFFF)) ++ (if op b = 0x05 then [counter b] else [])
end Wqe

/-! Queues and rings (R269, R274, R293). -/

def Chip.queueOf (c : Chip) (n : Nat) : Queue := KMap.getD c.queues n {}
def Chip.setQueue (c : Chip) (n : Nat) (q : Queue) : Chip := { c with queues := c.queues.insert n q }
def Chip.partRun (c : Chip) (p : Nat) : PartRun := KMap.getD c.partRuns p {}
def Chip.setPartRun (c : Chip) (p : Nat) (r : PartRun) : Chip := { c with partRuns := c.partRuns.insert p r }
def Chip.setPartState (c : Chip) (p v : Nat) : Chip := c.setF (.part p) R.PART_STATE v

def PS_NONE : Nat := 0
def PS_DRAINING : Nat := 2
def PS_QUIESCED : Nat := 3

/-- The partition of a module queue (R268). -/
def queuePart (n : Nat) : Nat := n / 4

def Chip.qSize (c : Chip) (n : Nat) : Nat := ringSize (c.getF (.wq n) R.WQ_RING_LOG2_ENTRIES)
def Chip.cqSize (c : Chip) (n : Nat) : Nat := ringSize (c.getF (.wq n) R.WQ_CQ_RING_CQ_LOG2)

/-- Does a queue act: its ring is enabled and its partition formed (R357)? -/
def Chip.qEnabled (c : Chip) (n : Nat) : Bool :=
  c.on (.wq n) R.WQ_RING_ENABLE && c.partState (queuePart n) != PS_NONE

/-- Address of the entry at the head of a ring. -/
def Chip.wqHeadAddr (c : Chip) (n : Nat) : Nat := c.getF (.wq n) R.WQ_RING_BASE * 64 + 64 * ringIdx (c.getF (.wq n) R.WQ_CONS)

/-- The entry at the head of a ring; one that cannot be read is taken as zeros, which check 1 refuses (log entry 49). -/
def Chip.wqHead (c : Chip) (n : Nat) : List Byte :=
  let r := c.peek mcAgent (c.wqHeadAddr n) 64
  if r.1 = COMP_OK then r.2 else List.replicate 64 0

/-- Does a queue have an entry at its head and no current entry? -/
def Chip.wqHeadReady (c : Chip) (n : Nat) : Bool :=
  c.qEnabled n && (c.queueOf n).cur.isNone && c.getF (.wq n) R.WQ_PROD != c.getF (.wq n) R.WQ_CONS

/-- Let the entry at the head of a queue begin its wait (R272, R278). A counter number out of range is left to check 2. -/
def Chip.wqArm (c : Chip) (n : Nat) : Chip :=
  if c.wqHeadReady n && !c.waitsOn (.wq n) then
    let b := c.wqHead n
    let p := queuePart n
    if Wqe.waitSync b = 0xFFFF || c.syncRange p ≤ Wqe.waitSync b then c
    else c.addWait (c.syncIndex p (Wqe.waitSync b)) (Wqe.waitValue b) (.wq n)
  else c

/-- Arm every queue. -/
def Chip.wqArmAll (c : Chip) : Chip := forAll (upto 64) c Chip.wqArm

/-- Is the wait of the head entry over? -/
def Chip.wqReady (c : Chip) (n : Nat) : Bool := c.wqHeadReady n && (!c.waitsOn (.wq n) || c.waitMet (.wq n))

/-- Does a queue have WHISTLE as its current entry, past its checks (R288)? -/
def Chip.whistling (c : Chip) (n : Nat) : Bool :=
  match (c.queueOf n).cur with
  | some e => Wqe.op e.bs == 0x09 && !e.refused
  | none => false

/-- Queues of a partition. -/
def queuesOf (p : Nat) : List Nat := (upto 4).map (fun q => 4 * p + q)

/-- Is a queue held: by a whistle, a stuck whistle, the MC, a partition reset, a layout switch, or a fenced device (R276, R288, R290, R382,
R403)? -/
def Chip.wqHeld (c : Chip) (n : Nat) : Bool :=
  let p := queuePart n
  (queuesOf p).any c.whistling || (c.partRun p).stuck || (c.partRun p).held || c.partState p == PS_RESETTING ||
    c.on .layout R.LAYOUT_SWITCHING || c.getF .res R.RES_STATE_ROLE == 4

/-- Has the completion ring a free slot (R274)? -/
def Chip.cqFree (c : Chip) (n : Nat) : Bool :=
  decide (ringDist (c.cqSize n) (c.getF (.wq n) R.WQ_CQ_PTR_CQ_HEAD) (c.getF (.wq n) R.WQ_CQ_PTR_CQ_TAIL) < c.cqSize n)

/-- Note queues that hold on a full completion ring (R274): one event when the hold begins. -/
def Chip.wqNoteFull (c : Chip) : Chip :=
  forAll (upto 64) c (fun c n =>
    let full := c.wqReady n && !c.wqHeld n && !c.cqFree n
    let q := c.queueOf n
    if full == q.cqHeld then c
    else (c.raiseIf full (.wqp (queuePart n)) St.WQP_CQ_FULL).setQueue n { q with cqHeld := full })

/-! Dequeue checks (R273, R360, R365, R373, R381, R413). -/

/-- Has a queue of the partition a RALLY_RUN as its current entry that has passed its checks and not begun? Its RSEQs count as RUNNING until the partition drains: contention
between queues is settled at dequeue (R43, R272, R360). -/
def Chip.runClaimed (c : Chip) (p : Nat) : Bool :=
  c.partState p == PS_ACTIVE && (queuesOf p).any (fun m => match (c.queueOf m).cur with
    | some e => Wqe.op e.bs == 0x03 && !e.refused && !e.started && e.code.isNone
    | none => false)

/-- State of an RSEQ of partition `p` as the checks at dequeue see it. -/
def Chip.rsAtDequeue (c : Chip) (p cl : Nat) : Nat := if c.runClaimed p then RS_RUNNING else c.rsState cl

/-- Is an RSEQ RUNNING, DRAINING or HALTED at dequeue? -/
def Chip.rseqBusy (c : Chip) (p cl : Nat) : Bool := decide (RS_RUNNING ≤ c.rsAtDequeue p cl)

/-- Does another queue of the partition have a current entry that `f` picks? -/
def Chip.otherCurrent (c : Chip) (n : Nat) (f : Nat → Bool) : Bool :=
  (queuesOf (queuePart n)).any (fun m => m != n && (match (c.queueOf m).cur with | some e => f (Wqe.op e.bs) | none => false))

/-- Clusters that an OP_RUN names (R271); bits beyond the partition name none. -/
def Chip.namedClusters (c : Chip) (p mask : Nat) : List Nat :=
  ((c.clustersOf p).zipIdx.filter (fun e => bit mask e.2)).map (·.1)

/-- The clusters whose RSEQ stands in the way of a command (check 3 of R273). -/
def Chip.conflicts (c : Chip) (p : Nat) (b : List Byte) : List Nat :=
  match Wqe.op b with
  | 0x02 => (c.clustersOf p).filter (fun cl => c.rsAtDequeue p cl == RS_RUNNING || c.rsAtDequeue p cl == RS_DRAINING)
  | 0x03 => (c.clustersOf p).filter (fun cl => c.rsAtDequeue p cl != RS_LOADED)
  | 0x04 => (c.namedClusters p (Wqe.clusters b)).filter (c.rseqBusy p)
  | 0x09 => (c.clustersOf p).filter (c.rseqBusy p)
  | 0x24 => (c.clustersOf p).filter (c.rseqBusy p)
  | 0x2F => (c.clustersOf p).filter (c.rseqBusy p)
  | 0x30 => (c.clustersOf p).filter (c.rseqBusy p)
  | 0x32 => (c.clustersOf p).filter (c.rseqBusy p)
  | _ => []

/-- Does a condition other than an RSEQ's state stand in the way (check 3 of R273)? -/
def Chip.stateRefuses (c : Chip) (n : Nat) (b : List Byte) : Bool :=
  let p := queuePart n
  let inactive := c.partState p != PS_ACTIVE
  match Wqe.op b with
  | 0x01 => false
  | 0x05 => false
  | 0x22 => false
  | 0x0B => c.partState p != PS_QUIESCED
  | 0x02 => inactive || c.shared p
  | 0x09 => inactive || c.otherCurrent n (fun _ => true)
  | 0x24 => inactive || c.otherCurrent n (· == 0x24)
  | 0x30 => inactive || c.otherCurrent n (fun _ => true)
  | 0x32 => inactive || c.otherCurrent n (fun _ => true)
  | 0x2F => !(c.partState p == PS_ACTIVE || (c.partState p == PS_QUIESCED && (c.clustersOf p).isEmpty)) || c.otherCurrent n (fun _ => true) ||
      (upto 16).any (fun x => x != 0 && c.partState x != PS_NONE && c.partState x != PS_QUIESCED)
  | _ => inactive

/-- A refused entry is recorded (R273). -/
def Chip.wqErr (c : Chip) (n idx : Nat) (b : List Byte) : Chip :=
  c.setFs (.wqp (queuePart n)) [(R.WQP_ERR_OP, Wqe.op b), (R.WQP_ERR_QUEUE, n), (R.WQP_ERR_INDEX, ringIdx idx),
    (R.WQP_ERR_PART_STATE, c.partState (queuePart n))]

/-- The checks of R273, in order: the code and DETAIL of the first that fails. -/
def Chip.wqCheck (c : Chip) (n idx : Nat) (b : List Byte) : Chip × Option (Code × Nat) :=
  let p := queuePart n
  if !Wqe.formed n b then ((c.raise (.wqp p) St.WQP_CMD_INVALID).wqErr n idx b, some (COMP_WQ_CMD_INVALID, 0))
  else match (Wqe.counters b).find? (fun k => decide (c.syncRange p ≤ k)) with
    | some k => ((c.syncRangeErr 0 c.deviceId p k).wqErr n idx b, some (COMP_SYNC_RANGE, 0))
    | none =>
      let cls := c.conflicts p b
      let other := c.stateRefuses n b
      if other || !cls.isEmpty then
        let asked := Wqe.op b == 0x02 || Wqe.op b == 0x03
        let c := if asked then forAll cls c (fun c cl => c.raise (.rseq cl) St.RSEQ_STATE_CONFLICT) else c
        let rs := match cls with | cl :: _ => c.rsAtDequeue p cl | [] => 0
        ((c.raise (.wqp p) St.WQP_STATE_CONFLICT).wqErr n idx b, some (COMP_STATE_CONFLICT, c.partState p + 16 * rs))
      else (c, none)

/-- The queue that the engine serves next (R275). -/
def Chip.wqNext (c : Chip) : Option Nat :=
  ((upto 64).map (fun k => (c.wqLast + 1 + k) % 64)).find? (fun n => c.wqReady n && !c.wqHeld n && c.cqFree n)

/-- The partition begins to drain, and its RSEQs leave RUNNING (R44, R360). -/
def Chip.drainBegin (c : Chip) (p : Nat) : Chip := forAll (c.clustersOf p) (c.setPartState p PS_DRAINING) Chip.rseqDrain

/-- WQ_DEQUEUE: the head entry of the next ready queue becomes its current entry and is checked (R272, R273, R275). A DRAIN that passes acts at once (R360). -/
def Chip.wqDequeue (c : Chip) : Chip :=
  let c := (c.wqArmAll).wqNoteFull
  match c.wqNext with
  | none => c
  | some n =>
    let idx := c.getF (.wq n) R.WQ_CONS
    let b := c.wqHead n
    let c := c.noteReads mcAgent [(c.wqHeadAddr n, 64)]
    let c := ({ c with wqLast := n }.dropWaits (.wq n)).setF (.wq n) R.WQ_CONS (ringNext (c.qSize n) idx)
    let (c, bad) := c.wqCheck n idx b
    let q := c.queueOf n
    match bad with
    | some (code, detail) => c.setQueue n { q with cur := some { bs := b, ptr := idx, refused := true, code := some code, detail := detail } }
    | none =>
      let c := c.setQueue n { q with cur := some { bs := b, ptr := idx } }
      if Wqe.op b = 0x0A then c.drainBegin (queuePart n) else c

/-- WQ_PROD_WRITE (R269). -/
def Chip.wqProdWrite (c : Chip) (n v : Nat) : Chip :=
  let v := v % 8192
  if ringPostOk (c.qSize n) (c.getF (.wq n) R.WQ_CONS_DONE) v then (c.setF (.wq n) R.WQ_PROD v).wqArm n
  else c.raise (.wqp (queuePart n)) St.WQP_CMD_INVALID

/-- CQ_HEAD_WRITE (R269, R274). -/
def Chip.cqHeadWrite (c : Chip) (n v : Nat) : Chip :=
  let v := v % 8192
  if ringIdx v < c.cqSize n then (c.setF (.wq n) R.WQ_CQ_PTR_CQ_HEAD v).wqNoteFull
  else c.raise (.wqp (queuePart n)) St.WQP_CMD_INVALID

/-! Running an entry (R271). -/

/-- Run the action of a queue's current entry when it carries opcode `op` and has not begun. -/
def Chip.wqStart (c : Chip) (n op : Nat) (f : Chip → QEntry → Chip × Option Code) : Chip :=
  match (c.queueOf n).cur with
  | none => c
  | some e =>
    if Wqe.op e.bs != op || e.started || e.code.isSome then c
    else
      let (c, code) := f c e
      let q := c.queueOf n
      match q.cur with
      | some e => c.setQueue n { q with cur := some { e with started := true, code := code } }
      | none => c

/-- End the running entry of a queue with a code. -/
def Chip.wqEnd (c : Chip) (n : Nat) (code : Code) : Chip :=
  let q := c.queueOf n
  match q.cur with
  | some e => c.setQueue n { q with cur := some { e with code := some code } }
  | none => c

/-- NOP (R271). -/
def Chip.wqNop (c : Chip) (n : Nat) : Chip := c.wqStart n 0x01 (fun c _ => (c, some COMP_OK))

/-- The code of the first cluster that does not report COMP_OK (R34). -/
def firstCode (l : List Nat) : Nat := (l.find? (fun k => k != COMP_OK)).getD COMP_OK

/-- RALLY_LOAD (R34, R41, R43). -/
def Chip.wqRallyLoad (c : Chip) (n : Nat) : Chip :=
  c.wqStart n 0x02 (fun c e =>
    let p := queuePart n
    let (c, codes) := (c.clustersOf p).foldl (fun (x : Chip × List Nat) cl =>
      let (c, k) := x.1.rseqLoad cl p (Wqe.plan e.bs)
      (c, x.2 ++ [k])) (c, [])
    (c, some (firstCode codes)))

/-- RALLY_RUN (R34, R43, R44). One whose partition has begun to drain since its dequeue admits no pass and ends as drained (R360). -/
def Chip.wqRallyRun (c : Chip) (n : Nat) : Chip :=
  c.wqStart n 0x03 (fun c _ =>
    if c.partState (queuePart n) == PS_DRAINING then (c, some COMP_DRAINED) else (forAll (c.clustersOf (queuePart n)) c Chip.rseqRun, none))

/-- Begin an operator outside a rally on one cluster, when the partition has no other there (R185, R271, R366); `cyc` are the NoC cycles of planning (R214). Core slices, reservations and groups are those
of an undivided cluster. -/
def Chip.opBegin (c : Chip) (cl n desc m nn k cyc : Nat) (kv : Option KvRun) : Chip × Option (Option Nat) :=
  let g := c.opPlace (queuePart n)
  if (c.stepsOn cl).any (fun x => x.1 == g || !c.shared (queuePart n)) then (c, none)
  else
    let s : StepRun := { queue := some n, part := queuePart n, m := m, n := nn, k := k, cores := upto 16, kv := kv }
    match c.stepBegin cl desc s with
    | (_, .waits) => (c, none)
    | (c, .fails _ code) => (c.addF (.plan cl) R.PLAN_PLAN_CYC cyc, some (some code))
    | (c, .runs s) =>
      let (c, s) := (c.addF (.plan cl) R.PLAN_PLAN_CYC cyc).colStart cl s
      ((c.setStep cl g s).colPoll cl g, some none)

/-- Begin an operator on each of the clusters where it has not begun (R271, R378). -/
def Chip.opBeginOn (c : Chip) (n : Nat) (cls : List Nat) (desc : Nat → Nat) (shape : Nat → Nat × Nat × Nat) (cyc : Nat)
    (kv : Option KvRun) : Chip :=
  forAll cls c (fun c cl =>
    match (c.queueOf n).cur with
    | none => c
    | some e =>
      if (KMap.find? e.subs cl).isSome then c
      else
        let (c, r) := c.opBegin cl n (desc cl) (shape cl).1 (shape cl).2.1 (shape cl).2.2 cyc kv
        match r, (c.queueOf n).cur with
        | some x, some e => c.setQueue n { c.queueOf n with cur := some { e with started := true, subs := e.subs.insert cl x } }
        | _, _ => c)

/-- OP_RUN (R271): the operator begins on the named clusters that are free; the rest begin when the command is carried out again. -/
def Chip.wqOpRun (c : Chip) (n cyc : Nat) : Chip :=
  match (c.queueOf n).cur with
  | none => c
  | some e =>
    if Wqe.op e.bs != 0x04 || e.code.isSome then c
    else
      let p := queuePart n
      let cls := c.namedClusters p (Wqe.clusters e.bs)
      let c := c.opBeginOn n cls (fun cl => (Wqe.desc e.bs + Wqe.stride e.bs * c.posIn p cl) % 2 ^ 64)
        (fun _ => (Wqe.m e.bs, Wqe.n e.bs, Wqe.k e.bs)) cyc none
      match (c.queueOf n).cur with
      | some e => if cls.isEmpty then c.setQueue n { c.queueOf n with cur := some { e with started := true, code := some COMP_OK } } else c
      | none => c

/-- Take the ends of an operator that runs outside a rally (R192, R213, R271). -/
def Chip.opCollect (c : Chip) (n : Nat) : Chip :=
  match (c.queueOf n).cur with
  | none => c
  | some e =>
    forAll ((e.subs.filter (fun x => x.2.isNone)).map (·.1)) c (fun c cl =>
      let g := c.opPlace (queuePart n)
      let c := (c.vopPoll cl g).colPoll cl g
      match c.stepOf cl g with
      | none => c
      | some s =>
        if s.queue != some n then c
        else match c.stepCode cl s with
          | none => c
          | some code =>
            let (c, code) := if code = COMP_OK then (c.stepAmax cl s).stepRelease cl s else (c, code)
            let c := (c.dropPrograms cl s).dropStep cl g
            match (c.queueOf n).cur with
            | some e => c.setQueue n { c.queueOf n with cur := some { e with subs := e.subs.insert cl (some code) } }
            | none => c)

/-- Codes of an operator on every cluster of a list, once all have ended. -/
def QEntry.subCodes (e : QEntry) (cls : List Nat) : Option (List Nat) :=
  cls.mapM (fun cl => (KMap.find? e.subs cl).join)

/-- SYNC_SET (R271, R278): one update on the counter's die, whichever of VALUE and BASE it sets. -/
def Chip.wqSyncSet (c : Chip) (n : Nat) : Chip :=
  c.wqStart n 0x05 (fun c e =>
    let i := c.syncIndex (queuePart n) (Wqe.counter e.bs)
    let c := if Wqe.setBase e.bs then c.setF (.sync i) R.SYNC_CFG_BASE (Wqe.base e.bs) else c
    (if Wqe.setValue e.bs then c.syncStore i (Wqe.value e.bs) else c.syncCount i (b2n (Wqe.setBase e.bs)), some COMP_OK))

/-- SYNC_VALUE_SET (R295): a register write whose increment part is zero. -/
def Chip.syncValueSet (c : Chip) (i v : Nat) : Chip := c.syncStore i (v % 2 ^ 32)

/-- SYNC_VALUE_INC (R295): a register write with an increment part, on behalf of partition `part` (0 for an agent that is none); one of zero has no effect. -/
def Chip.syncValueInc (c : Chip) (i k part : Nat) : Chip := if k % 2 ^ 32 = 0 then c else c.syncAdd i (k % 2 ^ 32) c.deviceId part

/-! Completion (R272, R274). -/

/-- The code and DETAIL with which a current entry has ended, once it has. -/
def Chip.wqOutcome (c : Chip) (n : Nat) (e : QEntry) : Option (Code × Nat) :=
  let split (w : Nat) : Code × Nat := (wordCode w, if wordCode w = COMP_PARTIAL then w / 65536 else e.detail)
  match e.code with
  | some w => some (split w)
  | none =>
    if !e.started then none
    else match Wqe.op e.bs with
      | 0x03 => ((c.clustersOf (queuePart n)).mapM (fun cl => (c.rseqOf cl).done)).map (fun l => split (firstCode l))
      | 0x04 => (e.subCodes (c.namedClusters (queuePart n) (Wqe.clusters e.bs))).map (fun l => split (firstCode l))
      | _ => none

/-- Raise the interrupt of a queue (R270, R348, R350). -/
def Chip.queueIrq (c : Chip) (n : Nat) : Chip :=
  if !c.on .hbr R.HBR_STATE_DL_ACTIVE then c
  else if queuePart n < c.getF .hbr R.HBR_STATE_NUM_VFS then
    c.msixSend (queuePart n + 1) (c.getF (.wq n) R.WQ_CQ_RING_VECTOR)
  else c.msixSend 0 (8 + n)

/-- Write a completion entry (R274). -/
def Chip.cqWrite (c : Chip) (n code tag idx detail : Nat) : Chip :=
  let tail := c.getF (.wq n) R.WQ_CQ_PTR_CQ_TAIL
  let w := leBytes 8 (putField code 0 16 + putField (if tail < 4096 then 1 else 0) 16 1 + putField n 17 6 + putField tag 32 32) ++
    leBytes 8 (putField idx 0 12 + putField detail 32 32)
  (c.agentWrite mcAgent (c.getF (.wq n) R.WQ_CQ_RING_CQ_BASE * 16 + 16 * ringIdx tail) (ones 16) w).1.setF (.wq n)
    R.WQ_CQ_PTR_CQ_TAIL (ringNext (c.cqSize n) tail)

/-- WQ_ENTRY_COMPLETE: the current entry of a queue has run; its completion is written, its interrupt raised, and SIGNAL_SYNC incremented
(R272, R273, R274). -/
def Chip.wqComplete (c : Chip) (n : Nat) : Chip :=
  let c := c.opCollect n
  match (c.queueOf n).cur with
  | none => c
  | some e => match c.wqOutcome n e with
    | none => c
    | some (code, detail) =>
      let shown := e.refused || !Wqe.quiet e.bs || code != COMP_OK
      let c := if shown then
        let c := c.cqWrite n code (Wqe.tag e.bs) (ringIdx e.ptr) detail
        if Wqe.irq e.bs then c.queueIrq n else c else c
      let c := if e.refused || Wqe.signal e.bs = 0xFFFF then c else (c.syncInc 0 (queuePart n) (Wqe.signal e.bs) 1).1
      let c := (c.setQueue n { c.queueOf n with cur := none }).setF (.wq n) R.WQ_CONS_DONE (ringNext (c.qSize n) e.ptr)
      c.wqArm n

/-- The current entries of a partition's queues end without a completion (R276); `keep` names a queue whose entry goes on. -/
def Chip.wqReset (c : Chip) (p : Nat) (keep : Option Nat) : Chip :=
  forAll (queuesOf p) c (fun c n =>
    match (c.queueOf n).cur with
    | none => c
    | some e => if keep = some n then c
      else (c.setQueue n { c.queueOf n with cur := none }).setF (.wq n) R.WQ_CONS_DONE (ringNext (c.qSize n) e.ptr))

/-! Drain (R360). -/

/-- Member number of a partition in its share set (R364). -/
def Chip.memberOf (c : Chip) (p : Nat) : Nat := c.getF (.part p) R.PART_STATE_MEMBER

/-- DMA channels of a partition on each of its clusters (R364). -/
def Chip.channelsOf (c : Chip) (p : Nat) : List Nat := if c.shared p then (upto 8).map (fun i => 8 * c.memberOf p + i) else upto 32

/-- Has every software-posted descriptor of a partition's channels on a cluster completed, DONE = PROD (R288)? -/
def Chip.dmaDrained (c : Chip) (p cl : Nat) : Bool :=
  (c.channelsOf p).all (fun n => c.dmaOwned cl n || ((c.chanOf cl n).descs.isEmpty &&
    c.getF (.ch cl n) R.CH_CONS_DONE == c.getF (.ch cl n) R.CH_PROD))

/-- Is every software-posted channel of a partition idle on a cluster (R360)? A channel that is not enabled is idle once its descriptors in
progress have completed. -/
def Chip.dmaQuiet (c : Chip) (p cl : Nat) : Bool :=
  (c.channelsOf p).all (fun n => c.dmaOwned cl n || ((c.chanOf cl n).descs.isEmpty &&
    (!c.on (.ch cl n) R.CH_CTRL_ENABLE || c.getF (.ch cl n) R.CH_CONS_DONE == c.getF (.ch cl n) R.CH_PROD)))

/-- DRAIN (R360): it goes on from what its dequeue has begun. -/
def Chip.wqDrain (c : Chip) (n : Nat) : Chip := c.wqStart n 0x0A (fun c _ => (c.drainBegin (queuePart n), none))

/-- QUIESCE_DONE (R360). -/
def Chip.quiesceDone (c : Chip) (p : Nat) : Chip :=
  let mine := (queuesOf p).find? (fun n => match (c.queueOf n).cur with
    | some e => Wqe.op e.bs == 0x0A && e.started && e.code.isNone
    | none => false)
  match mine with
  | none => c
  | some n =>
    if c.partState p == PS_DRAINING && !c.otherCurrent n (fun _ => true) &&
        (c.clustersOf p).all (fun cl => !c.walking cl && c.dmaQuiet p cl) then
      (c.setPartState p PS_QUIESCED).wqEnd n COMP_OK
    else c

/-- RESUME (R359, R360). -/
def Chip.wqResume (c : Chip) (n : Nat) : Chip :=
  c.wqStart n 0x0B (fun c _ => (c.setPartState (queuePart n) PS_ACTIVE, some COMP_OK))

end Sys2Proof.Machine
end

