-- ==== Sys2Proof/Machine/Serving.lean ====
section
/-! DEFINITION. Serving (R369-R380): sequence contexts, page tables and the free stack, the sequence commands, and continuous batching. -/

namespace Sys2Proof.Machine

/-! Contexts and pages (R369-R372). -/

def Chip.ctxCount (c : Chip) (p : Nat) : Nat := c.getF (.part p) R.PART_SEQ_CTX_COUNT
def Chip.ctxKey (c : Chip) (p i : Nat) : Nat := c.getF (.part p) R.PART_SEQ_CTX_BASE + i
def Chip.seqCtx (c : Chip) (p i : Nat) : SeqCtx := KMap.getD c.seqCtxs (c.ctxKey p i) {}
def Chip.setSeqCtx (c : Chip) (p i : Nat) (x : SeqCtx) : Chip := { c with seqCtxs := c.seqCtxs.insert (c.ctxKey p i) x }

def Chip.maxPages (c : Chip) (p : Nat) : Nat := c.getF (.part p) R.PART_POOL2_MAX_PAGES
def Chip.pageTokens (c : Chip) (p : Nat) : Nat := c.getF (.part p) R.PART_POOL2_PAGE_TOKENS

/-- Most tokens of a sequence (R371). -/
def Chip.seqLimit (c : Chip) (p : Nat) : Nat := c.maxPages p * c.pageTokens p

/-- Address of entry `e` of a context's page table (R372). -/
def Chip.ptAddr (c : Chip) (p i e : Nat) : Nat := c.getF (.part p) R.PART_PT_PT_BASE + 4 * c.maxPages p * i + 4 * e

/-- Address of entry `j` of the free stack (R372). -/
def Chip.stackAddr (c : Chip) (p j : Nat) : Nat := c.getF (.part p) R.PART_PT_PT_BASE + 4 * c.maxPages p * c.ctxCount p + 4 * j

def Chip.freePages (c : Chip) (p : Nat) : Nat := c.getF (.part p) R.PART_POOL_STATE_FREE

/-- A 32-bit word that the MC reads or writes in a partition's LPDDR6. -/
def Chip.word32 (c : Chip) (a : Nat) : Nat := leNat (c.locBytes a 4)
def Chip.setWord32 (c : Chip) (a v : Nat) : Chip := (c.agentWrite mcAgent a (ones 4) (leBytes 4 v)).1

/-- Push a page onto the free stack. -/
def Chip.pushPage (c : Chip) (p page : Nat) : Chip :=
  (c.setWord32 (c.stackAddr p (c.freePages p)) page).setF (.part p) R.PART_POOL_STATE_FREE (c.freePages p + 1)

/-- Pop the top page of the free stack into entry `e` of a context's table. -/
def Chip.popPage (c : Chip) (p i e : Nat) : Chip :=
  let c := c.noteReads mcAgent [(c.stackAddr p (c.freePages p - 1), 4)]
  let c := c.setWord32 (c.ptAddr p i e) (c.word32 (c.stackAddr p (c.freePages p - 1)))
  c.setF (.part p) R.PART_POOL_STATE_FREE (c.freePages p - 1)

/-- Push the pages of entries `lo … hi - 1` of a context's table, in table order (log entry 51). -/
def Chip.pushPages (c : Chip) (p i lo hi : Nat) : Chip :=
  forAll (upto (hi - lo)) c (fun c e => (c.noteReads mcAgent [(c.ptAddr p i (lo + e), 4)]).pushPage p (c.word32 (c.ptAddr p i (lo + e))))

/-- Free a context (R371, R374): its pages return, GEN rises. -/
def Chip.freeCtx (c : Chip) (p i : Nat) : Chip :=
  let x := c.seqCtx p i
  let c := c.pushPages p i 0 x.pages
  let open' := c.getF (.part p) R.PART_POOL_STATE_OPEN
  (c.setSeqCtx p i { part := x.part, gen := (x.gen + 1) % 256 }).setF (.part p) R.PART_POOL_STATE_OPEN (open' - 1)

/-- The handle of a context (R369). -/
def Chip.handleOf (c : Chip) (p i : Nat) : Nat := i + (c.seqCtx p i).gen * 2 ^ 18

/-- The context that a handle names, unless it is stale (R369). -/
def Chip.ctxOf (c : Chip) (p h : Nat) : Option Nat :=
  let i := field h 0 18
  if i < c.ctxCount p && (c.seqCtx p i).gen == field h 18 8 && (c.seqCtx p i).state != 0 then some i else none

/-! Sequence commands (R373, R374). -/

/-- SEQ_OPEN. -/
def Chip.seqOpen (c : Chip) (n : Nat) : Chip :=
  c.wqStart n 0x20 (fun c e =>
    let p := queuePart n
    match (upto (c.ctxCount p)).find? (fun i => (c.seqCtx p i).state == 0) with
    | none => (c.raise (.part p) St.PART_SEQ_FULL, some COMP_SEQ_FULL)
    | some i =>
      if c.seqLimit p < Wqe.initLen e.bs then (c, some COMP_SEQ_LONG)
      else
        let (c1, code) := c.agentWrite ⟨some p, 0⟩ (Wqe.handleRef e.bs) (ones 4) (leBytes 4 (c.handleOf p i))
        if code != COMP_OK then (c1, some code)
        else
          let r := c1.partRun p
          let x : SeqCtx := { state := 1, gen := (c.seqCtx p i).gen, part := p, pending := Wqe.initLen e.bs, order := r.order,
                              tag := Wqe.seqTag e.bs }
          (((c1.setSeqCtx p i x).setPartRun p { r with order := r.order + 1 }).addF (.part p) R.PART_POOL_STATE_OPEN 1, some COMP_OK))

/-- SEQ_APPEND. -/
def Chip.seqAppend (c : Chip) (n : Nat) : Chip :=
  c.wqStart n 0x21 (fun c e =>
    let p := queuePart n
    match c.ctxOf p (Wqe.handle e.bs) with
    | none => (c, some COMP_SEQ_STALE)
    | some i =>
      let x := c.seqCtx p i
      if x.state = 3 then (c, some COMP_SEQ_STALE)
      else if c.seqLimit p < x.len + x.pending + Wqe.count e.bs then (c, some COMP_SEQ_LONG)
      else (c.setSeqCtx p i { x with pending := x.pending + Wqe.count e.bs }, some COMP_OK))

/-- SEQ_CLOSE. -/
def Chip.seqClose (c : Chip) (n : Nat) : Chip :=
  c.wqStart n 0x22 (fun c e =>
    let p := queuePart n
    match c.ctxOf p (Wqe.handle e.bs) with
    | none => (c, some COMP_SEQ_STALE)
    | some i =>
      let x := c.seqCtx p i
      (if x.pinned then c.setSeqCtx p i { x with state := 3 } else c.freeCtx p i, some COMP_OK))

/-! Continuous batching (R375-R380). -/

namespace Ope
def desc (b : List Byte) : Nat := recNat b 0 8
def stride (b : List Byte) : Nat := recNat b 8 4
def mSrc (b : List Byte) : Nat := recNat b 0xC 1
def kvIn (b : List Byte) : Bool := bit (recNat b 0xD 1) 0
def kvOut (b : List Byte) : Bool := bit (recNat b 0xD 1) 1
def slot (b : List Byte) : Nat := recNat b 0xE 1
def rowBytes (b : List Byte) : Nat := 16 * recNat b 0x10 2
def reserved (b : List Byte) : Bool := 4 ≤ recNat b 0xD 1 || recNat b 0xF 1 != 0 || !allZero (b.drop 0x12)
end Ope

/-- Descriptor of an op-list entry for cluster `cl` (R378). -/
def Chip.opeDesc (c : Chip) (p : Nat) (o : List Byte) (cl : Nat) : Nat := (Ope.desc o + Ope.stride o * c.posIn p cl) % 2 ^ 64

/-- Address of the manifest's LENGTH array (R377). -/
def lengthsAt (body : List Byte) : Nat := Wqe.manifest body + 0x40 + 16 * Wqe.maxSeqs body

/-- MAX_M of a descriptor (R375): MAX_ROWS for a vector descriptor. -/
def descMaxM (b : List Byte) : Nat := if recNat b 0 1 = 0x10 then Vop.maxRows b else Mat.maxM b

/-- Is an op-list entry, with the descriptors it names, as R375 and R378 ask? -/
def Chip.opeOk (c : Chip) (p : Nat) (body o : List Byte) : Bool :=
  let descs := (c.clustersOf p).map (fun cl => c.peek (rseqAgent cl p) (c.opeDesc p o cl) 128)
  let good (r : Code × List Byte) : Bool :=
    let b := r.2
    let cls := recNat b 0 1
    let need := if Ope.mSrc o = 1 then Wqe.maxSeqs body else Wqe.maxTokens body
    r.1 == COMP_OK && ((1 ≤ cls && cls ≤ 5) || cls == 0x10) && decide (need ≤ descMaxM b) && (!Ope.kvIn o || cls == 5) &&
      (cls != 5 || (refCode (Mat.listRef b) == 0 && refOff (Mat.listRef b) == lengthsAt body))
  let kv := Ope.kvIn o || Ope.kvOut o
  Ope.mSrc o ≤ 2 && !Ope.reserved o && descs.all good &&
    (!kv || decide ((Ope.slot o + 2) * c.pageTokens p * Ope.rowBytes o ≤ c.getF (.part p) R.PART_POOL_PAGE_64K * 65536))

/-- The op list of a BATCH_STEP, when every check of R375 holds. -/
def Chip.batchOps (c : Chip) (p : Nat) (b : List Byte) : Option (List (List Byte)) :=
  let ok := 1 ≤ Wqe.ops b && Wqe.ops b ≤ 256 && 1 ≤ Wqe.maxSeqs b && Wqe.maxSeqs b ≤ 4096 && Wqe.maxSeqs b ≤ Wqe.maxTokens b &&
    Wqe.maxTokens b ≤ 262144
  if !ok then none
  else
    let recs := (upto (Wqe.ops b)).map (fun i => c.peek ⟨some p, 0⟩ (Wqe.oplist b + 32 * i) 32)
    if recs.all (fun r => r.1 == COMP_OK && c.opeOk p b r.2) then some (recs.map (·.2)) else none

/-- The reads of an op list and of the descriptors it names (R301, R375). -/
def Chip.noteBatch (c : Chip) (p : Nat) (b : List Byte) : Chip :=
  if Wqe.ops b = 0 || 256 < Wqe.ops b then c
  else
    let recs := (upto (Wqe.ops b)).map (fun i => (Wqe.oplist b + 32 * i, 32))
    let c1 := c.noteReads ⟨some p, 0⟩ recs
    forAll recs c1 (fun c1 r => match c.peek ⟨some p, 0⟩ r.1 r.2 with
      | (code, o) => if code != COMP_OK then c1 else
        forAll (c.clustersOf p) c1 (fun c1 cl => c1.noteReads (rseqAgent cl p) [(c.opeDesc p o cl, 128)]))

/-- Progress of the selection of R376. -/
structure Picked where
  chip : Chip
  seqs : List BatchSeq := []
  tokens : Nat := 0

/-- Contexts of a partition that are not FREE, oldest first (R376). -/
def Chip.byOrder (c : Chip) (p : Nat) : List Nat :=
  let put (l : List Nat) (i : Nat) : List Nat :=
    l.takeWhile (fun j => decide ((c.seqCtx p j).order < (c.seqCtx p i).order)) ++
      i :: l.dropWhile (fun j => decide ((c.seqCtx p j).order < (c.seqCtx p i).order))
  ((upto (c.ctxCount p)).filter (fun i => (c.seqCtx p i).state != 0)).foldl put []

/-- Offer a context with `new` tokens to a batch; those of a prompt are first reduced to what the free pages allow (R376). -/
def Picked.offer (x : Picked) (p i new : Nat) (prompt : Bool) : Picked :=
  let c := x.chip
  let s := c.seqCtx p i
  let pt := c.pageTokens p
  let new := if prompt then min new ((s.pages + c.freePages p) * pt - s.len) else new
  let need := ceilDiv (s.len + new) pt - s.pages
  if new = 0 then { x with chip := c.raise (.part p) St.PART_PAGE_WAIT }
  else if c.seqLimit p < s.len + new then { x with chip := c.raise (.part p) St.PART_SEQ_LIMIT }
  else
    if c.freePages p < need then { x with chip := c.raise (.part p) St.PART_PAGE_WAIT }
    else
      let c := forAll (upto need) c (fun c e => c.popPage p i (s.pages + e))
      { chip := c.setSeqCtx p i { s with pinned := true, pages := s.pages + need }, seqs := x.seqs ++ [⟨i, new, prompt, need⟩],
        tokens := x.tokens + new }

/-- BATCH_SELECT (R376). -/
def Chip.batchSelect (c : Chip) (p maxSeqs maxTokens : Nat) : Picked :=
  let l := c.byOrder p
  let prompts := l.filter (fun i => (c.seqCtx p i).pending != 0)
  let top := if prompts.isEmpty then maxSeqs else maxSeqs - 1
  let one := (l.filter (fun i => (c.seqCtx p i).state == 2 && (c.seqCtx p i).pending == 0)).foldl
    (fun (x : Picked) i => if x.seqs.length < top then x.offer p i 1 false else x) { chip := c }
  prompts.foldl (fun (x : Picked) i =>
    let room := maxTokens - x.tokens
    if room = 0 || maxSeqs ≤ x.seqs.length then x else x.offer p i (min (c.seqCtx p i).pending room) true) one

/-- The manifest of a batch (R377). -/
def Chip.manifestBytes (c : Chip) (p batch maxSeqs : Nat) (l : List BatchSeq) : List (Nat × List Byte) :=
  let rows := l.zipIdx.map (fun e => ((l.take e.2).map (·.new)).sum)
  (0, leBytes 4 l.length ++ leBytes 4 ((l.map (·.new)).sum) ++ leBytes 8 batch ++ leBytes 2 0xFFFF ++ List.replicate 46 0) ::
    ((l.zip rows).zipIdx.flatMap (fun e =>
      let s := e.1.1
      let pos := (c.seqCtx p s.ctx).len
      [(0x40 + 16 * e.2, leBytes 4 (c.handleOf p s.ctx) ++ leBytes 4 pos ++ leBytes 4 s.new ++ leBytes 4 e.1.2),
       (0x40 + 16 * maxSeqs + 4 * e.2, leBytes 4 (pos + s.new))]))

/-- Shape of an operator of a batch on a cluster (R378); with no sequence it is zero (R379). -/
def Chip.opeShape (c : Chip) (p : Nat) (t : Batch) (o : List Byte) (cl : Nat) : Nat × Nat × Nat :=
  let b := (c.peek (rseqAgent cl p) (c.opeDesc p o cl) 128).2
  let m := match Ope.mSrc o with
    | 0 => (t.seqs.map (·.new)).sum
    | 1 => t.seqs.length
    | _ => descMaxM b
  if t.seqs.isEmpty then (0, 0, 0)
  else if recNat b 0 1 = 0x10 then (m, Vop.maxCols b, 0)
  else (m, if Mat.cls b = 5 then t.seqs.length else Mat.maxN b, Mat.maxK b)

/-- Address of a page of a context's table: entry `e` (R372). -/
def Chip.pageAddr (c : Chip) (p i e : Nat) : Nat :=
  c.getF (.part p) R.PART_POOL_POOL_BASE + c.word32 (c.ptAddr p i e) * c.getF (.part p) R.PART_POOL_PAGE_64K * 65536

/-- The keys and values that an operator with KV_IN reads (R378). -/
def Chip.kvRun (c : Chip) (p : Nat) (t : Batch) (o : List Byte) : Option KvRun :=
  if !Ope.kvIn o then none
  else some
    { seqs := t.seqs.map (fun x => ((c.seqCtx p x.ctx).len, x.new))
      pages := t.seqs.map (fun x => (upto (c.seqCtx p x.ctx).pages).map (c.pageAddr p x.ctx))
      slot := Ope.slot o, rowBytes := Ope.rowBytes o, tokens := c.pageTokens p }

/-- Begin the present operator of a batch where it has not begun (R378). -/
def Chip.batchBegin (c : Chip) (p : Nat) (t : Batch) (cyc : Nat) : Chip :=
  match t.ops[t.op]? with
  | none => c
  | some o => c.opBeginOn t.queue (c.clustersOf p) (c.opeDesc p o) (c.opeShape p t o) cyc (c.kvRun p t o)

/-- BATCH_STEP (R375-R378). -/
def Chip.batchStep (c : Chip) (n cyc : Nat) : Chip :=
  let p := queuePart n
  let c := c.wqStart n 0x24 (fun c e =>
    let b := e.bs
    let ops := c.batchOps p b
    let c := c.noteBatch p b
    match ops with
    | none => (c, some COMP_BATCH_INVALID)
    | some ops =>
      let code := c.accessCode ⟨some p, 0⟩ true (Wqe.manifest b) (0x40 + 20 * Wqe.maxSeqs b)
      if code != COMP_OK then (c.noteRefusal ⟨some p, 0⟩ (Wqe.manifest b) code, some code)
      else
        let x := c.batchSelect p (Wqe.maxSeqs b) (Wqe.maxTokens b)
        let c := x.chip
        let r := c.partRun p
        let c := forAll (c.manifestBytes p r.batches (Wqe.maxSeqs b) x.seqs) c (fun c w =>
          (c.agentWrite ⟨some p, 0⟩ (Wqe.manifest b + w.1) (ones w.2.length) w.2).1)
        (c.setPartRun p { r with batches := r.batches + 1, batch := some { queue := n, seqs := x.seqs, ops := ops } }, none))
  match (c.partRun p).batch with
  | some t => if t.queue = n && t.op = 0 then c.batchBegin p t cyc else c
  | none => c

/-- What an operator with KV_OUT wrote goes to the pages of the batch's sequences (R378); the output is named as cluster position 0 names it
(log entry 53). -/
def Chip.kvOut (c : Chip) (p : Nat) (t : Batch) (o : List Byte) : Chip :=
  match c.clustersOf p with
  | [] => c
  | cl :: _ =>
    let b := (c.peek (rseqAgent cl p) (c.opeDesc p o cl) 128).2
    let vec := recNat b 0 1 == 0x10
    let s : StepRun := { queue := some t.queue, part := p, desc := b }
    let l := c.stepLoc cl s (if vec then Vop.outRef b 0 else Mat.outRef b)
    let pitch := if vec then Vop.outPitch b else Mat.outPitch b
    let bl := Ope.rowBytes o
    let pt := c.pageTokens p
    let rows := t.seqs.flatMap (fun x => (upto x.new).map (fun j => (x.ctx, (c.seqCtx p x.ctx).len + j)))
    forAll rows.zipIdx c (fun c e =>
      let a := c.pageAddr p e.1.1 (e.1.2 / pt) + e.1.2 % pt * bl
      let c := c.noteReads mcAgent [(c.ptAddr p e.1.1 (e.1.2 / pt), 4)]
      let row := c.locRead l (e.2 * pitch) (2 * bl)
      let put (c : Chip) (slot : Nat) (v : List Byte) : Chip :=
        (c.agentWrite ⟨some p, 0⟩ (a + slot * pt * bl) (ones bl) v).1
      put (put c (Ope.slot o) (row.take bl)) (Ope.slot o + 1) (row.drop bl))

/-- Unpin the contexts of a batch and free the LEAVING ones (R379). -/
def Chip.unpin (c : Chip) (p : Nat) (t : Batch) : Chip :=
  forAll t.seqs c (fun c s =>
    let x := c.seqCtx p s.ctx
    let c := c.setSeqCtx p s.ctx { x with pinned := false }
    if x.state = 3 then c.freeCtx p s.ctx else c)

/-- A batch ends without advancing: pages popped for it return (R379, R380). -/
def Chip.batchUnwind (c : Chip) (p : Nat) : Chip :=
  match (c.partRun p).batch with
  | none => c
  | some t =>
    let c := forAll t.seqs c (fun c s =>
      let x := c.seqCtx p s.ctx
      (c.pushPages p s.ctx (x.pages - s.popped) x.pages).setSeqCtx p s.ctx { x with pages := x.pages - s.popped })
    (c.unpin p t).setPartRun p { c.partRun p with batch := none }

/-- Every included context advances (R379). -/
def Chip.batchAdvance (c : Chip) (p : Nat) (t : Batch) : Chip :=
  let c := forAll t.seqs c (fun c s =>
    let x := c.seqCtx p s.ctx
    let pend := if s.prompt then x.pending - s.new else x.pending
    c.setSeqCtx p s.ctx { x with len := x.len + s.new, pending := pend, state := if pend = 0 && x.state = 1 then 2 else x.state })
  let c := (c.addF (.part p) R.PART_BATCHES 1).addF (.part p) R.PART_BATCH_TOKENS (t.seqs.map (·.new)).sum
  (c.unpin p t).setPartRun p { c.partRun p with batch := none }

/-- BATCH_OP_DONE: an operator of a batch has ended on every cluster; the next begins, or the batch ends (R378, R379). -/
def Chip.batchOpDone (c : Chip) (n cyc : Nat) : Chip :=
  let p := queuePart n
  match (c.partRun p).batch with
  | none => c
  | some t =>
    if t.queue != n then c
    else
      let c := (c.batchBegin p t cyc).opCollect n
      match (c.queueOf n).cur with
      | none => c
      | some e => match e.subCodes (c.clustersOf p) with
        | none => c
        | some codes =>
          let code := firstCode codes
          if code != COMP_OK then
            let c := (c.agentWrite ⟨some p, 0⟩ (Wqe.manifest e.bs + 0x10) (ones 2) (leBytes 2 t.op)).1
            (c.batchUnwind p).wqEnd n code
          else
            let o := t.ops.getD t.op []
            let c := if Ope.kvOut o then c.kvOut p t o else c
            let c := c.setQueue n { c.queueOf n with cur := some { e with subs := [] } }
            if t.ops.length ≤ t.op + 1 then (c.batchAdvance p t).wqEnd n COMP_OK
            else
              let t := { t with op := t.op + 1 }
              (c.setPartRun p { c.partRun p with batch := some t }).batchBegin p t cyc

end Sys2Proof.Machine
end

