-- ==== Sys2Proof/Machine/Partition.lean ====
section
/-! DEFINITION. Partition resets (R63, R122, R167, R178, R259, R276, R361-R363) and time slices (R364-R368). -/

namespace Sys2Proof.Machine

/-! What a partition reset does to clusters and counters. -/

/-- The block whose register a key of the register file names. -/
def keyBlk (k : Nat) : Option Blk := decodeReg (k / 64 / dieSpan) (k / 64 % dieSpan)

/-- The cluster whose register a key of the register file names. -/
def keyCluster (k : Nat) : Option Nat := (keyBlk k).bind Blk.cluster?

/-- Registers of the blocks that `f` picks take their compute-reset values (R9). -/
def Chip.blocksReset (c : Chip) (f : Blk → Bool) : Chip :=
  { c with regs := c.regs.filter (fun e => e.2.kept || !((keyBlk e.1).map f).getD false) }

/-- Registers of a cluster and its cores take their compute-reset values (R9). -/
def Chip.regsReset (c : Chip) (cl : Nat) : Chip :=
  { c with regs := c.regs.filter (fun e => e.2.kept || keyCluster e.1 != some cl) }

/-- The waiter's cluster, for agents inside a cluster. -/
def Waiter.cluster? : Waiter → Option Nat
  | .seq cl _ => some cl | .ve cl _ _ => some cl | .dma cl _ => some cl | .step cl _ => some cl | .arrivals cl _ => some cl
  | .seed cl => some cl | .wq _ => none

/-- The program of a core ends at once, with its commands, tiles and VE runs (R63, R122, R361): LEFTOVER is left to a program that ends by itself. -/
def Chip.coreReset (c : Chip) (cl k : Nat) : Chip :=
  let c := c.veAbandon cl k
  let key := coreKey cl k
  { c with
    seqs := c.seqs.erase key, mes := c.mes.insert key { ueOnce := (c.meOf cl k).ueOnce }, tbs := c.tbs.erase key
    waits := c.waits.filter (fun w => match w.who with
      | .seq x y => !(x == cl && y == k) | .ve x y _ => !(x == cl && y == k) | _ => true) }

/-- Every open shelf of a cluster that `f` picks closes; live entries and waiting claims are discarded (R167). -/
def Chip.shelvesReset (c : Chip) (f : Nat → Bool) : Chip := { c with shelves := c.shelves.filter (fun e => !f e.1) }

/-- Keys of a core's shelves and of a commons' shelves. -/
def isCoreShelf (cl key : Nat) (lo n : Nat) : Bool :=
  (upto 16).any (fun k => decide ((ShelfRef.core cl k lo).key ≤ key) && decide (key < (ShelfRef.core cl k lo).key + n))
def isCommonsShelf (cl key lo n : Nat) : Bool :=
  decide ((ShelfRef.commons cl lo).key ≤ key) && decide (key < (ShelfRef.commons cl lo).key + n)

/-- A whole cluster is reset (R361); dirty lines are lost with their caches, and CACHE_LOST_DIRTY says so afterwards (R178). -/
def Chip.clusterReset (c : Chip) (cl : Nat) : Chip :=
  let c := (c.rseqReset cl).dmaReset cl
  let lost := (upto 16).filter (fun k => (c.cacheOf cl k).lines.any (·.dirty))
  let c := forAll (upto 16) c (fun c k => c.coreReset cl k)
  let c := { c.shelvesReset (fun key => isCoreShelf cl key 0 64 || isCommonsShelf cl key 0 256) with
             caches := c.caches.keep (fun key => key / 16 != cl) }
  let c := forAll (upto 16) c (fun c k =>
    c.setMem ((c.mem.zeroRange (spBase cl k) (spBase cl k + spSize)).zeroRange (accBase cl k) (accBase cl k + 0x40000)))
  let c := c.setMem (c.mem.zeroRange (cmBase cl) (cmBase cl + cmSize))
  let c := { c with waits := c.waits.filter (fun w => Waiter.cluster? w.who != some cl),
                    rolled := c.rolled.filter (fun r => r.1 != cl) }.regsReset cl
  forAll lost c (fun c k => c.raise (.sp cl k) St.SP_CACHE_LOST_DIRTY)

/-- Fields of a block that a compute reset does not keep take their reset values (R9). -/
def Chip.blockReset (c : Chip) (b : Blk) : Chip := forAll (b.fields.filter (fun f => !f.kept)) c (fun c f => c.setF b f f.por)

/-- A channel drops its descriptors and its registers take their reset values (R9, R259). -/
def Chip.channelReset (c : Chip) (cl n : Nat) : Chip :=
  let c := (c.dropWaits (.dma cl n)).dropChannels (fun x m => x == cl && m == n)
  (c.setChan cl n {}).blockReset (.ch cl n)

/-- A member of a share set is reset on one cluster: only what R364 gives it, its planner data among it, and in its slice the program buffers and the spill shelf (R9,
R361, R363). -/
def Chip.memberReset (c : Chip) (p cl : Nat) : Chip :=
  let s := c.memberOf p
  let c := ((c.dropStep cl s).dropWaits (.step cl s)).dropWaits (.arrivals cl s)
  let c := forAll ((upto 8).map (fun i => 8 * s + i)) c (fun c n => c.channelReset cl n)
  let inSlice := c.partOf cl == some p
  let c := forAll (upto 16) c (fun c k =>
    let ctx (x : Nat) : Bool := x / 2 == s
    let lost := (c.cacheOf cl k).lines.any (fun l => l.dirty && ctx (c.wayOwner cl k l.way))
    let c := (c.cacheClean cl k ctx false true).raiseIf lost (.sp cl k) St.SP_CACHE_LOST_DIRTY
    let others := (c.meOf cl k).vts.filter (fun t => decide (2 ≤ t.win) && t.win != parkedWin p)
    let c := if inSlice then
      let c := c.coreReset cl k
      ((c.setMe cl k { c.meOf cl k with vts := others }).clearValid cl k 0).clearValid cl k 1
      else c.closeVts cl k (parkedWin p)
    let sp := c.getF (.part p) R.PART_SHARE_SP_BASE_KIB * 1024
    let acc := c.getF (.part p) R.PART_SLICE_ACC_BASE * 0x2000
    let ranges := [(spBase cl k + sp, c.getF (.part p) R.PART_SHARE_SP_KIB * 1024), (accBase cl k + acc, c.getF (.part p) R.PART_SLICE_ACC_COUNT * 0x2000),
      (spBase cl k + (c.planArea p).1, (c.planArea p).2)] ++ (if inSlice then [(spBase cl k + 0x280000, 0x38000), (spBase cl k + 0x2C0000, 0x40000)] else [])
    c.setMem (ranges.foldl (fun m r => m.zeroRange r.1 (r.1 + r.2)) c.mem))
  let cm := cmBase cl + c.getF (.part p) R.PART_SHARE_CM_BASE_KIB * 1024
  let c := c.setMem (c.mem.zeroRange cm (cm + c.getF (.part p) R.PART_SHARE_CM_KIB * 1024))
  c.shelvesReset (fun key => isCoreShelf cl key (15 * s) 15 || isCommonsShelf cl key (63 * s) 63)

/-- Indexes of a partition's counters whose VALUE or BASE the register file lists; every other counter is at BASE already. -/
def Chip.listedCounters (c : Chip) (p : Nat) : List Nat :=
  let b := c.getF (.part p) R.PART_SYNC_RANGE_BASE
  let n := c.syncRange p
  c.regs.filterMap (fun e =>
    let a := e.1 / 64
    match decodeReg (a / dieSpan) (a % dieSpan) with
    | some (.sync i) => if b ≤ i ∧ i < b + n ∧ e.1 % 64 = 0 then some i else none
    | _ => none)

/-- Every counter of a partition's range takes its BASE (R288, R361), an update of each on its die (R296); the values that waits meet are
latched (R278). -/
def Chip.countersToBase (c : Chip) (p : Nat) : Chip :=
  let b := c.getF (.part p) R.PART_SYNC_RANGE_BASE
  let n := c.syncRange p
  let c := forAll (c.listedCounters p) c (fun c i => c.setF (.sync i) R.SYNC_VALUE (c.getF (.sync i) R.SYNC_CFG_BASE))
  let c := forAll (upto 4) c (fun c d => c.syncCount (4096 * d) (min (b + n) (4096 * (d + 1)) - max b (4096 * d)))
  { c with waits := c.waits.map (fun w =>
      if b ≤ w.ctr ∧ w.ctr < b + n ∧ w.threshold ≤ c.syncVal w.ctr then { w with met := true } else w) }

/-- Draw a new stochastic-rounding key for a partition (R140): the number of a key nobody has used. -/
def Chip.newKey (c : Chip) (p : Nat) : Chip := { c with keys := c.keys.insert p (c.freeCtr + 1) }.tick

/-! Partition reset (R361, R362). -/

/-- Requests of a partition that wait at the channel groups complete, and their responses are discarded (R259, R318). -/
def Chip.memAbandon (c : Chip) (p : Nat) : Chip :=
  { c with grps := c.grps.map (fun e => (e.1, { e.2 with queue := e.2.queue.map (fun r => if r.agent.part == some p then { r with dead := true } else r) })) }

/-- Begin the reset of a partition. `keep` names a queue whose current entry goes on (a layout switch, R382). `counters` is false in a compute
reset (R435). -/
def Chip.partResetWith (c : Chip) (p : Nat) (keep : Option Nat) (counters : Bool) : Chip :=
  if c.partState p == PS_NONE then c
  else if c.partState p == PS_RESETTING then c.raise (.part p) St.PART_RESET_IGNORED
  else
    let c := c.setPartState p PS_RESETTING
    let c := ((c.batchUnwind p).wqReset p keep).memAbandon p
    let c := c.setPartRun p { c.partRun p with stuck := false }
    let c := forAll (c.clustersOf p) c (fun c cl => if c.shared p then c.memberReset p cl else c.clusterReset cl)
    let c := { c with spent := c.spent.filter (· != p) }
    if counters then c.countersToBase p else c

/-- PART_RESET (R361). -/
def Chip.partReset (c : Chip) (p : Nat) : Chip := c.partResetWith p none true

/-- Is a die lost, so that no queue of the module resumes (R458)? -/
def Chip.dieLost (c : Chip) : Bool := (upto 4).any (fun d => bit (c.getF .pwr R.PWR_FAULTED) (15 * d + 8) || bit (c.getF .pwr R.PWR_FAULTED) (15 * d + 14))

/-- A partition whose reset ends enters ACTIVE; a faulted cluster has left it, and one that has lost its only cluster enters QUIESCED (R458). -/
def Chip.partEnter (c : Chip) (p : Nat) : Chip :=
  let l := (c.clustersOf p).filter (fun cl => !bit (c.getF .pwr R.PWR_FAULTED) (15 * (cl / 8) + cl % 8))
  let c := if l = c.clustersOf p then c else c.setF (.part p) R.PART_CLUSTERS ((l.map (2 ^ ·)).sum)
  let c := c.setPartState p (if l.isEmpty then PS_QUIESCED else PS_ACTIVE)
  forAll (l.filter (fun cl => !c.shared p || c.partOf cl == some p)) c (fun c cl => forAll (upto 16) c (fun c k => c.outsideWin cl k))

/-- PART_RESET_DONE (R362, R458): the partition announces ready, and its queues resume. -/
def Chip.partReady (c : Chip) (p : Nat) : Chip :=
  if c.partState p != PS_RESETTING || c.on .layout R.LAYOUT_SWITCHING || c.dieLost || c.compReset != 0 then c
  else ((c.partEnter p).raise (.part p) St.PART_RESET_DONE).wqArmAll

/-! Time slices (R364-R368). -/

/-- The members of a partition's share set, in member order. -/
def Chip.shareSet (c : Chip) (p : Nat) : List Nat :=
  (upto 16).filter (fun x => c.partState x != PS_NONE && c.getF (.part x) R.PART_CLUSTERS == c.getF (.part p) R.PART_CLUSTERS)

/-- Key of a share set: its lowest cluster. -/
def Chip.setKey (c : Chip) (p : Nat) : Nat := (c.clustersOf p).headD 0

/-- The member whose turn is next. -/
def Chip.turnOf (c : Chip) (p : Nat) : Nat := KMap.getD c.setTurn (c.setKey p) 0

/-- The turn passes to the next member. -/
def Chip.passTurn (c : Chip) (p : Nat) : Chip :=
  let n := (c.shareSet p).length
  { c with setTurn := c.setTurn.insert (c.setKey p) (if c.memberOf p + 1 < n then c.memberOf p + 1 else 0) }

/-- Has a member programs to run on a cluster: one VALID, or a step whose programs have not all been written (R368)? -/
def Chip.hasWork (c : Chip) (p cl : Nat) : Bool :=
  (c.stepsOn cl).any (fun x => x.2.part == p && x.2.byPrograms && (c.stepCode cl x.2).isNone)

/-- Does a core of a cluster run a program or a VE run? -/
def Chip.coresBusy (c : Chip) (cl : Nat) : Bool :=
  (upto 16).any (fun k => (c.seqOf cl k).running || !(c.veOf cl k).runs.isEmpty)

/-- SLICE_TURN (R367, R368): the debt of the member whose turn it is is compared with its slice; the slice is skipped, passed over or granted. -/
def Chip.sliceTurn (c : Chip) (p : Nat) : Chip :=
  let set := c.shareSet p
  let ok := c.shared p && (c.partState p == PS_ACTIVE || c.partState p == PS_DRAINING || c.partState p == PS_QUIESCED ||
    c.partState p == PS_RESETTING) && c.turnOf p == c.memberOf p && set.all (fun x => !c.on (.part x) R.PART_STATE_IN_SLICE)
  let debt := c.getF (.part p) R.PART_SLICE_DEBT_US
  let slice := c.getF (.part p) R.PART_SLICE_SLICE_US
  if !ok then c
  else if slice ≤ debt then ((c.setF (.part p) R.PART_SLICE_DEBT_US (debt - slice)).addF (.part p) R.PART_SKIPPED 1).passTurn p
  else if !(c.clustersOf p).any (c.hasWork p) then c.passTurn p
  else
    let c := (c.setFs (.part p) [(R.PART_SLICE_DEBT_US, 0), (R.PART_STATE_IN_SLICE, 1)]).addF (.part p) R.PART_SLICES 1
    forAll (c.clustersOf p) c (fun c cl => forAll (upto 16) c (fun c k => (c.outsideWin cl k).moveVts cl k (parkedWin p) 0))

/-- SLICE_GRANT_EXPIRE (R367). -/
def Chip.sliceExpire (c : Chip) (p : Nat) : Chip :=
  if c.shared p && c.on (.part p) R.PART_STATE_IN_SLICE && !c.spent.contains p then { c with spent := p :: c.spent } else c

/-- Discard a VALID program of a member that has not started; its planner writes it again (R367). -/
def Chip.discardReady (c : Chip) (p cl k b : Nat) : Chip :=
  if !c.headerValid cl k b || ((c.seqOf cl k).running && (c.seqOf cl k).buf == b) then c
  else
    let last := bit (c.header cl k b) 17
    let c := c.clearValid cl k b
    match c.stepAt cl k with
    | some (g, s) =>
      if s.part != p then c
      else
        let l := (KMap.getD s.progs k []).drop 1
        c.setStep cl g { s with
          progs := if l.isEmpty then s.progs.erase k else s.progs.insert k l
          ends := if last then s.ends.erase (100 + k) else s.ends }
    | none => c

/-- SLICE_END (R367, R368): `late` is the time from the scheduled to the actual end, `run` the length of the slice, in µs. -/
def Chip.sliceEnd (c : Chip) (p late run : Nat) : Chip :=
  let cls := c.clustersOf p
  let expired := c.spent.contains p
  let spill := cls.any (fun cl => (upto 16).any (fun k => (c.meOf cl k).vts.any (fun t => c.spilled cl k t.win t.v)))
  let ok := c.shared p && c.on (.part p) R.PART_STATE_IN_SLICE && !cls.any c.coresBusy && !spill && (expired || !cls.any (c.hasWork p))
  if !ok then c
  else
    let late := if expired then late else 0
    let c := if late = 0 then c else
      (((c.addF (.part p) R.PART_SLICE_DEBT_US late).addF (.part p) R.PART_OVERRUN_US late)).raise (.part p) St.PART_SLICE_OVERRUN
    let c := c.addF (.part p) R.PART_RUN_US run
    let c := forAll cls c (fun c cl => forAll (upto 16) c (fun c k => ((c.discardReady p cl k 0).discardReady p cl k 1).moveVts cl k 0 (parkedWin p)))
    ({ c with spent := c.spent.filter (· != p) }.setF (.part p) R.PART_STATE_IN_SLICE 0).passTurn p

end Sys2Proof.Machine
end

