-- ==== Sys2Proof/Machine/Seal.lean ====
section
/-! DEFINITION. Partners, seals and protection levels (R388-R394, R410, R412): management messages, the partner registers, which
step the device and its group have sealed, and the protection level. -/

namespace Sys2Proof.Machine

/-! The stage (R397). -/

/-- Numbers of a stage, in the order of R397, for its bytes (log entry 56). -/
def Stage.words (s : Stage) : List Nat :=
  [s.step, s.plan, s.rseq, s.bases.length, s.queues.length, s.pairs.length] ++ s.bases.flatMap (fun e => [e.1, e.2]) ++
  s.queues.flatMap (fun q => [q.base, q.log2, q.enable, q.cqBase, q.cqLog2, q.vector, q.next, q.tail, q.head]) ++
  s.pairs.flatMap (fun e => [e.1, e.2.1, e.2.2.1, e.2.2.2])

/-! Management messages (R412). -/

def MT_HEARTBEAT : Nat := 0x0101
def MT_PAIR : Nat := 0x0102
def MT_PAIR_ACK : Nat := 0x0103
def MT_WSTATE : Nat := 0x0110
def MT_DRAIN_END : Nat := 0x0111
def MT_SEALED : Nat := 0x0112
def MT_MEMBER_SEALED : Nat := 0x0113
def MT_CAB_LOST : Nat := 0x0114
def MT_SILENT : Nat := 0x0120
def MT_LOST : Nat := 0x0121
def MT_FENCE : Nat := 0x0122
def MT_SPARE_CLAIM : Nat := 0x0123
def MT_SPARE_GRANT : Nat := 0x0124
def MT_SPARE_BUSY : Nat := 0x0125
def MT_SPARE_FREE : Nat := 0x0126
def MT_LOAD_DONE : Nat := 0x0127
def MT_ADOPTED : Nat := 0x0128
def MT_RESUME_GROUP : Nat := 0x0129

/-- Send a management message to a device (R330, R412). -/
def Chip.mgmtSend (c : Chip) (dev typ : Nat) (fields : List Nat) : Chip :=
  let bs := Config.mgmtBytes typ fields
  (c.fabSend 0 none { opc := 0x30, vc := 5, dst := dev, src := c.deviceId, addr := typ, len := max 1 (min 4096 bs.length), data := bs }).1

/-! The group (R338, R388). -/

/-- The ranks of the group's members and spares (protection record, R426). -/
def Chip.memberRanks (c : Chip) : List Nat := match c.image.bind (·.prot) with | some p => bitsOf p.members 64 | none => []
def Chip.spareRanks (c : Chip) : List Nat := match c.image.bind (·.prot) with | some p => bitsOf p.spares 64 | none => []

/-- The device of a rank of this device's group, and the rank of a device (R338). -/
def Chip.rankDev (c : Chip) (r : Nat) : Nat := c.deviceId / 64 * 64 + r
def rankOf (dev : Nat) : Nat := dev % 64

/-- Is a device a member of this device's group (R390)? -/
def Chip.isMember (c : Chip) (dev : Nat) : Bool := dev / 64 == c.deviceId / 64 && c.memberRanks.contains (rankOf dev)

/-- Send to every other member, and to every spare when asked. -/
def Chip.broadcast (c : Chip) (spares : Bool) (typ : Nat) (fields : List Nat) : Chip :=
  let ranks := c.memberRanks ++ (if spares then c.spareRanks.filter (fun r => !c.memberRanks.contains r) else [])
  forAll (ranks.filter (fun r => !c.isSelf (c.rankDev r))) c (fun c r => c.mgmtSend (c.rankDev r) typ fields)

/-- The lowest-ranked spare that has reported itself free (R405, R409). -/
def Chip.freeSpare (c : Chip) (tried : List Nat) : Option Nat :=
  c.spareRanks.find? (fun r => c.recov.free.contains r && !c.recov.gone.contains r && !tried.contains r && !c.isSelf (c.rankDev r))

/-! Partner registers (R390, R415). -/

def Chip.partner (c : Chip) (i : Nat) (f : Field) : Nat := c.getF .res (f.nth i)
def Chip.setPartner (c : Chip) (i : Nat) (f : Field) (v : Nat) : Chip := c.setF .res (f.nth i) v

/-- The partner numbers (0, 1) that are accepted. -/
def Chip.acceptedPartners (c : Chip) : List Nat := [0, 1].filter (fun i => c.partner i R.RES_PARTNER_ACCEPTED != 0)

/-- The configured partner that a device is. -/
def Chip.partnerNo (c : Chip) (dev : Nat) : Option Nat :=
  [0, 1].find? (fun i => c.partner i R.RES_PARTNER_CONFIGURED != 0 && c.partner i R.RES_PARTNER_DEVICE == dev)

/-- The hosted cabinet of a source (R388). -/
def Chip.hostNo (c : Chip) (dev : Nat) : Option Nat :=
  (upto 4).find? (fun j => c.on (.host j) R.HOST_SRC_VALID && c.getF (.host j) R.HOST_SRC_SOURCE == dev)

/-- Raise or keep CFG_PARTNER_COFED while every configured partner is co-fed (R390). -/
def Chip.noteCofed (c : Chip) : Chip :=
  let l := [0, 1].filter (fun i => c.partner i R.RES_PARTNER_CONFIGURED != 0)
  c.raiseIf (!l.isEmpty && !c.acceptedPartners.isEmpty && l.all (fun i => c.partner i R.RES_PARTNER_COFED != 0)) .cfg St.CFG_PARTNER_COFED

/-! Levels and seals (R392, R394, R410). -/

/-- The protected partition (R388). -/
def Chip.protPart (c : Chip) : Nat := c.getF .res R.RES_CTRL_PROT_PART

/-- Low 32 bits of the protected partition's WQ_STEP. -/
def Chip.protStep (c : Chip) : Nat := c.getF (.wqp c.protPart) R.WQP_STEP % 2 ^ 32

/-- The steps of the present plan that partner `i` holds sealed. -/
def Chip.sealsOf (c : Chip) (i : Nat) : List Nat := KMap.getD c.recov.seals i []

/-- Partners that are accepted, up, and hold a sealed snapshot no older than WQ_STEP - 1 (R410). -/
def Chip.holders (c : Chip) : List Nat :=
  c.acceptedPartners.filter (fun i => c.partner i R.RES_PARTNER_UP != 0 && !(c.sealsOf i).isEmpty &&
    decide (c.protStep ≤ c.partner i R.RES_PARTNER_SEALED + 1))

/-- The protection level (R410). -/
def Chip.level (c : Chip) : Nat :=
  if c.holders.isEmpty then 0
  else if c.holders.any (fun i => c.partner i R.RES_PARTNER_COFED == 0) && (c.freeSpare []).isSome then 2 else 1

/-- The protection level of the member of a rank: what it last reported in a heartbeat, else a free value, since no message of R412 brings it here
(log entry 142). -/
def Chip.levelOf (c : Chip) (r : Nat) : Nat :=
  match c.recov.memberLevel.find? r with
  | some v => v
  | none => if c.isSelf (c.rankDev r) then c.level else Config.memberLevel c.freeCtr r % 3

/-- The group's level: the least over its members; 1 while a position waits for a spare (R409, R410). -/
def Chip.groupLevel (c : Chip) : Nat :=
  if c.recov.claims.any (fun x => x.spare.isNone) then 1
  else c.memberRanks.foldl (fun m r => min m (c.levelOf r)) c.level

/-- The pairs in use. -/
def Chip.pairs (c : Chip) : List Nat := (upto 16).filter (fun i => c.on (.pair i) R.PAIR_CFG_VALID)

/-- Increment SEAL_SYNC once in a step, when GROUP_SEALED has reached the STEP of every live buffer (R392). -/
def Chip.sealSync (c : Chip) : Chip :=
  let n := c.getF .res R.RES_CTRL_SEAL_SYNC
  if c.recov.synced || n = 0xFFFF || c.pairs.isEmpty ||
      c.pairs.any (fun i => decide (c.getF .res R.RES_SEAL_GROUP_SEALED < c.pairStep i)) then c
  else { (c.syncInc 0 c.protPart n 1).1 with recov := { c.recov with synced := true } }

/-- GROUP_SEALED is the least step over the members, spares left out (R394). While a restore runs it does not change (R409). -/
def Chip.groupSeal (c : Chip) : Chip :=
  if c.recov.restore.isSome then c
  else match c.memberRanks with
    | [] => c
    | r :: l =>
      let v (x : Nat) : Nat := KMap.getD c.recov.memberSeal x 0
      (c.setF .res R.RES_SEAL_GROUP_SEALED (l.foldl (fun m x => min m (v x)) (v r))).sealSync

/-- Bring the levels up to date, and report this device's step to the group when what it reports has changed: its SEALED_STEP, or WQ_STEP at
level 0 (R394, R410). -/
def Chip.relevel (c : Chip) : Chip :=
  let c := c.setF .res R.RES_STATE_LEVEL c.level
  let c := c.setF .res R.RES_STATE_GROUP_LEVEL c.groupLevel
  if !c.isMember c.deviceId || c.recov.restore.isSome then c
  else
    let v := if c.level = 0 then c.protStep else c.getF .res R.RES_SEAL_SEALED_STEP
    if c.recov.reported = some v then c
    else
      let c := { c with recov := { c.recov with reported := some v, memberSeal := c.recov.memberSeal.insert (rankOf c.deviceId) v } }
      (c.broadcast false MT_MEMBER_SEALED [v]).groupSeal

/-- SEALED_STEP is the newest step that every accepted partner that is up has sealed (R394). -/
def Chip.sealStep (c : Chip) : Chip :=
  let c := match c.acceptedPartners.filter (fun i => c.partner i R.RES_PARTNER_UP != 0) with
    | [] => c
    | i :: r => match (c.sealsOf i).filter (fun w => r.all (fun x => (c.sealsOf x).contains w)) with
      | [] => c
      | w :: l => c.setF .res R.RES_SEAL_SEALED_STEP (l.foldl max w)
  c.relevel

/-! Pairing (R390). -/

/-- Bytes of a cabinet (R393): header, fill map, two slots with their stages, static area. -/
def rideBytes (l : List Region) : Nat := ((l.filter (fun r => r.method == 0)).map (·.size)).sum
def pairBytes (l : List Region) : Nat := ((l.filter (fun r => decide (r.method < 2))).map (·.size)).sum
def staticBytes (l : List Region) : Nat := ((l.filter (fun r => r.method == 2)).map (·.size)).sum
def fillBytes (l : List Region) : Nat := ceilDiv (ceilDiv (rideBytes l) 1024) 4096 * 4096
def stageLen : Nat := 131072
def cabBytes (l : List Region) : Nat := 4096 + fillBytes l + 2 * (pairBytes l + stageLen) + staticBytes l

/-- Offset of a slot, and of the static area, in a cabinet. -/
def slotOff (l : List Region) (slot : Nat) : Nat := 4096 + fillBytes l + slot * (pairBytes l + stageLen)
def staticOff (l : List Region) : Nat := slotOff l 2

/-- Offset of entry `i` of a plan among the entries that `f` picks. -/
def regionOff (l : List Region) (f : Region → Bool) (i : Nat) : Nat := (((l.take i).filter f).map (·.size)).sum

/-- The plan that cabinets hold for this device: the regions of every partition, the protected partition's first. -/
def Chip.devPlan (c : Chip) : List Region :=
  let p := c.protPart
  (c.partRun p).plan ++ ((upto 16).filter (· != p)).flatMap (fun x => (c.partRun x).plan)

/-- Send PAIR to each configured partner (R390). -/
def Chip.sendPair (c : Chip) (i : Nat) : Chip :=
  if c.partner i R.RES_PARTNER_CONFIGURED = 0 then c
  else c.mgmtSend (c.partner i R.RES_PARTNER_DEVICE) MT_PAIR
    [c.getF .res R.RES_STATE_FEED, c.getF .res R.RES_STATE_FEED_KNOWN, cabBytes c.devPlan]

/-- A spare that is free says so to the group (R405, R412; log entry 141). -/
def Chip.sendFree (c : Chip) : Chip := if c.getF .res R.RES_STATE_ROLE = 1 then c.broadcast false MT_SPARE_FREE [c.deviceId] else c

/-- PAIRING_START (R390): bring-up has ended with partitions, or a partner has become reachable. -/
def Chip.pairingStart (c : Chip) : Chip := ((c.sendPair 0).sendPair 1).sendFree

/-- Write bytes into the cabinet of this device at every accepted partner, in requests that cross no 4 KiB boundary (R397-R399). -/
def cabPieces (addr : Nat) : Nat → List Byte → List (Nat × List Byte)
  | 0, _ => []
  | _, [] => []
  | fuel + 1, bs =>
    let n := 4096 - addr % 4096
    (addr, bs.take n) :: cabPieces (addr + n) fuel (bs.drop n)

def Chip.cabWrite (c : Chip) (dev : Nat) (job : CabJob) (off : Nat) (bs : List Byte) : Chip :=
  forAll (cabPieces (Config.cabBaseAt dev + off) (bs.length / 4096 + 2) bs) c (fun c x =>
    (c.fabRequest 0 (.cab job) none { opc := 2, vc := 4, dst := dev, src := 0, part := c.protPart, addr := x.1 % 2 ^ 48, len := x.2.length,
                                      data := x.2 }).1)

/-- Does a request of the recovery unit to a device still wait for its response? -/
def Chip.cabOpen (c : Chip) (f : CabJob → Bool) : Bool :=
  c.reqs.any (fun r => r.resp.isNone && (match r.who with | .cab j => f j | _ => false))

/-- Forget requests of the recovery unit, and take back those not yet sent. -/
def Chip.cabDrop (c : Chip) (f : CabJob → Bool) : Chip :=
  let tags := (c.reqs.filter (fun r => match r.who with | .cab j => f j | _ => false)).map (·.msg.tag)
  let c := { c with reqs := c.reqs.filter (fun r => match r.who with | .cab j => !f j | _ => true) }
  { c with ports := c.ports.map (fun e => (e.1, { e.2 with txq := e.2.txq.filter (fun m =>
      !(m.vc == 4 && c.isSelf m.src && tags.contains m.tag)) })) }

/-- Which jobs belong to a snapshot in progress: its stage and its drain. -/
def CabJob.snapshot : CabJob → Bool
  | .stage => true
  | .drain => true
  | _ => false

end Sys2Proof.Machine
end

