-- ==== Sys2Proof/Machine/Cabinet.lean ====
section
/-! DEFINITION. Cabinets (R393-R399, R413, R414): what a source sends to its partners, how a partner fills, checks and seals a cabinet, and the
copy commands. -/

namespace Sys2Proof.Machine

/-! The source: stage, drain, static regions (R397, R398, R413). -/

/-- Write the regions that `f` picks into the part of this device's cabinet at `dev` that begins at `off`. -/
def Chip.sendRegions (c : Chip) (dev : Nat) (job : CabJob) (off : Nat) (kind send : Region → Bool) : Chip :=
  forAll (c.devPlan.zipIdx.filter (fun e => kind e.1 && send e.1)) c (fun c e =>
    let (c, bs) := c.mcRead e.1.base e.1.size
    c.cabWrite dev job (off + regionOff c.devPlan kind e.2) bs)

/-- The drain to one partner (R398): every DRAIN pair's live view into the slot of step `w`. -/
def Chip.drainTo (c : Chip) (dev w : Nat) : Chip :=
  c.sendRegions dev .drain (slotOff c.devPlan (w % 2)) (fun r => decide (r.method < 2)) (fun r => r.method == 1)

/-- Send the stage of step `w` to one partner. -/
def Chip.stageTo (c : Chip) (dev w : Nat) (bytes : List Byte) : Chip :=
  c.cabWrite dev .stage (slotOff c.devPlan (w % 2) + pairBytes c.devPlan) ((bytes ++ List.replicate (stageLen - bytes.length) 0).take stageLen)

/-- Send the stage of step `w` to every accepted partner; an unfinished drain is abandoned (R397, R398). A partner joins the drain once its stage has
been acknowledged. -/
def Chip.stageSend (c : Chip) (w : Nat) (bytes : List Byte) : Chip :=
  let c := c.cabDrop CabJob.snapshot
  let c := { c with recov := { c.recov with drain := some w, drainDevs := [] } }
  forAll c.acceptedPartners c (fun c i => c.stageTo (c.partner i R.RES_PARTNER_DEVICE) w bytes)

/-- SIDEBOARD_DRAIN_DONE (R398): every write of the drain is acknowledged; DRAIN_END goes to each partner that was sent it and holds all of it. -/
def Chip.drainDone (c : Chip) : Chip :=
  match c.recov.drain with
  | none => c
  | some w =>
    if c.cabOpen CabJob.snapshot || c.acceptedPartners.isEmpty then c
    else
      let n := ((c.devPlan.filter (fun r => r.method == 1)).map (·.size)).sum
      let bad (dev : Nat) : Bool := c.reqs.any (fun r => r.who == Requester.cab .drain && r.msg.dst == dev)
      let c := forAll c.acceptedPartners c (fun c i =>
        let dev := c.partner i R.RES_PARTNER_DEVICE
        if bad dev || !c.recov.drainDevs.contains dev then c else (c.mgmtSend dev MT_DRAIN_END [w, n]).addF .res R.RES_DRAIN_BYTES n)
      { c.cabDrop CabJob.snapshot with recov := { c.recov with drain := none, drainDevs := [] } }

/-! The partner: slots, fill map, seals (R393-R396). -/

def Chip.cabBase (c : Chip) (j : Nat) : Nat := c.getF (.host j) R.HOST_BASE_CAB_BASE

/-- What the cabinet engine holds of its slices, and what it writes there as the MC does (R301, R388; log entry 127). -/
def Chip.cabRead (c : Chip) (a n : Nat) : List Byte := c.locBytes a n
def Chip.cabStore (c : Chip) (a : Nat) (bs : List Byte) : Chip := (c.agentWrite mcAgent a (ones bs.length) bs).1

/-- The source's plan, from the header of its cabinet (R393). -/
def Chip.hostPlan (c : Chip) (j : Nat) : List Region :=
  (Config.cabEntries (c.cabRead (c.cabBase j) 4096)).map (fun e => ⟨e.1, e.2.1, e.2.2⟩)

/-- Number of 128-byte lines of the RIDE live views. -/
def rideLines (l : List Region) : Nat := rideBytes l / 128

/-- The line of the fill map that holds an address of the source: its number, when the address lies in a RIDE live view. -/
def rideLine (l : List Region) (a : Nat) : Option Nat :=
  match findIdxFrom (fun (r : Region) => r.method == 0 && decide (r.base ≤ a) && decide (a < r.base + r.size)) 0 l with
  | some (i, r) => some ((regionOff l (fun r => r.method == 0) i + (a - r.base)) / 128)
  | none => none

/-- Where line `n` of the RIDE live views lies: its address at the source and its offset in a slot. -/
def ridePlace (l : List Region) (n : Nat) : Option (Nat × Nat) :=
  match findIdxFrom (fun (e : Region × Nat) => e.1.method == 0 &&
      decide (regionOff l (fun r => r.method == 0) e.2 ≤ n * 128) &&
      decide (n * 128 < regionOff l (fun r => r.method == 0) e.2 + e.1.size)) 0 l.zipIdx with
  | some (_, e) =>
    let o := n * 128 - regionOff l (fun r => r.method == 0) e.2
    some (e.1.base + o, regionOff l (fun r => decide (r.method < 2)) e.2 + o)
  | none => none

/-- Is the bit of a line set in the fill map? -/
def Chip.lineHere (c : Chip) (j n : Nat) : Bool :=
  bit (leNat (c.cabRead (c.cabBase j + 4096 + n / 8) 1)) (n % 8)

/-- Set the bit of a line (R395). -/
def Chip.lineSet (c : Chip) (j n : Nat) : Chip :=
  let a := c.cabBase j + 4096 + n / 8
  let (c, b) := c.mcRead a 1
  c.cabStore a (leBytes 1 (leNat b ||| 2 ^ (n % 8)))

/-- Lines that the fill map does not attest. -/
def Chip.missingLines (c : Chip) (j : Nat) : List Nat := (upto (rideLines (c.hostPlan j))).filter (fun n => !c.lineHere j n)

/-- Clear the fill map. -/
def Chip.fillClear (c : Chip) (j : Nat) : Chip :=
  c.mcZero (c.cabBase j + 4096) (fillBytes (c.hostPlan j))

/-- Write the mirror entry of a hosted source on every die (R343, R395). -/
def Chip.setMirror (c : Chip) (j : Nat) (valid : Bool) : Chip :=
  let l := (c.hostPlan j).filter (fun r => r.method == 0)
  let lo := match l with | r :: t => t.foldl (fun m x => min m x.base) r.base | [] => 0
  let hi := l.foldl (fun m x => max m (x.base + x.size)) 0
  let first := regionOff (c.hostPlan j) (fun r => decide (r.method < 2)) (((c.hostPlan j).takeWhile (fun r => r.method != 0)).length)
  let slot := c.getF (.host j) R.HOST_SRC_SLOT
  let c := c.setB (.host j) R.HOST_SRC_FILLING valid
  forAll (upto 4) c (fun c d => c.setFs (.mir d j) [(R.MIR_SRC_DEVICE, c.getF (.host j) R.HOST_SRC_SOURCE), (R.MIR_SRC_VALID, b2n valid),
    (R.MIR_LO, lo), (R.MIR_HI, hi), (R.MIR_CAB, c.cabBase j + slotOff (c.hostPlan j) slot + first)])

/-- SEALED word of a slot of a hosted cabinet. -/
def sealedField (slot : Nat) : Field := if slot = 0 then R.HOST_SEALED_SEALED0 else R.HOST_SEALED_SEALED1
def NO_STEP : Nat := 0xFFFFFFFF

/-- Write the sealed step of a slot, `NO_STEP` for none, into the HOST registers and into the cabinet's header (R393, R394). -/
def Chip.markSlot (c : Chip) (j slot w : Nat) : Chip :=
  let (c, head) := (c.setF (.host j) (sealedField slot) w).mcRead (c.cabBase j) 4096
  c.cabStore (c.cabBase j) ((Config.cabMark slot w head).take 4096)

/-- WSTATE(w) from a source (R395). -/
def Chip.wstateRx (c : Chip) (src w : Nat) : Chip :=
  match c.hostNo src with
  | none => c
  | some j =>
    if !c.on (.host j) R.HOST_SRC_ACCEPTED then c
    else
      let slot := w % 2
      let c := { c with recov := { c.recov with drained := c.recov.drained.filter (· != j) } }
      let c := (c.setFs (.host j) [(R.HOST_SRC_SLOT, slot), (R.HOST_STEPS_WSTATE_STEP, w)]).fillClear j
      if c.getF (.host j) (sealedField slot) = w then c.setMirror j false
      else (c.markSlot j slot NO_STEP).setMirror j true

/-- Ask the source for the lines that are missing (R396). -/
def Chip.catchup (c : Chip) (j : Nat) : Chip :=
  let l := c.missingLines j
  let c := c.setF (.host j) R.HOST_MISSING l.length
  if l.isEmpty then c
  else
    let c := c.raise .res St.RES_CATCHUP
    let src := c.getF (.host j) R.HOST_SRC_SOURCE
    forAll l.zipIdx c (fun c e => match ridePlace (c.hostPlan j) e.1 with
      | some (a, _) => (c.fabRequest 0 (.cab (.catchup j e.1)) (c.bulkRoute 0 src e.2)
          { opc := 1, vc := 2, dst := src, src := 0, addr := a, len := 128 }).1
      | none => c)

/-- DRAIN_END(w) from a source (R396). -/
def Chip.drainEndRx (c : Chip) (src w : Nat) : Chip :=
  match c.hostNo src with
  | none => c
  | some j =>
    if !c.on (.host j) R.HOST_SRC_ACCEPTED then c
    else
      let d := if w = c.getF (.host j) R.HOST_STEPS_WSTATE_STEP then j :: c.recov.drained.filter (· != j) else c.recov.drained
      ({ c with recov := { c.recov with drained := d } }.setF (.host j) R.HOST_STEPS_DRAIN_STEP w).catchup j

/-- Is a slot of a hosted cabinet being filled, its drain ended since the WSTATE and not sealed? -/
def Chip.hostFilling (c : Chip) (j : Nat) : Bool :=
  c.on (.host j) R.HOST_SRC_ACCEPTED && c.on (.host j) R.HOST_SRC_FILLING && c.recov.drained.contains j

def isCatchup (j : Nat) : CabJob → Bool
  | .catchup k _ => k == j
  | _ => false

/-- CATCHUP_RETRY (R396): 1 ms after a catch-up read failed, the lines that are missing are asked for again. -/
def Chip.catchupRetry (c : Chip) (j : Nat) : Chip :=
  if c.hostFilling j && !c.cabOpen (isCatchup j) then c.catchup j else c

/-- CAB_SEAL (R394, R395): the slot holds the whole snapshot; its step is written into the header and SEALED goes to the source. `static` says
that the static area is complete for the source's last CAB_STATIC (log entry 58). -/
def Chip.cabSeal (c : Chip) (j : Nat) (static : Bool) : Chip :=
  let w := c.getF (.host j) R.HOST_STEPS_WSTATE_STEP
  let l := c.missingLines j
  if !c.hostFilling j || !static || c.cabOpen (isCatchup j) || !l.isEmpty then c
  else
    let c := ((c.setF (.host j) R.HOST_MISSING 0).markSlot j (w % 2) w).setMirror j false
    (c.mgmtSend (c.getF (.host j) R.HOST_SRC_SOURCE) MT_SEALED [w]).relevel

/-- Newest step sealed in a hosted cabinet. -/
def Chip.newestSealed (c : Chip) (j : Nat) : Option Nat :=
  match [c.getF (.host j) R.HOST_SEALED_SEALED0, c.getF (.host j) R.HOST_SEALED_SEALED1].filter (· != NO_STEP) with
  | [] => none
  | a :: l => some (l.foldl max a)

/-- A write on VC 4 that a hosted source sends into its cabinet (R399): the host entry whose cabinet holds the whole range. -/
def Chip.cabAdmits (c : Chip) (m : Msg) : Option Nat :=
  match c.hostNo m.src with
  | some j =>
    if c.on (.host j) R.HOST_SRC_ACCEPTED && inside m.addr m.len (c.cabBase j) (c.getF (.host j) R.HOST_SIZE_CAB_SIZE) then some j else none
  | none => none

/-- Perform such a write. A new header begins the cabinet anew: neither slot is sealed (R393, R414). -/
def Chip.cabAccept (c : Chip) (j : Nat) (m : Msg) : Chip :=
  let c := c.cabStore m.addr (m.data.take m.len)
  if m.addr < c.cabBase j + 4096 then
    ((c.setFs (.host j) [(R.HOST_SEALED_SEALED0, NO_STEP), (R.HOST_SEALED_SEALED1, NO_STEP)]).setMirror j false).fillClear j
  else c

/-- Where a mirror copy of address `a` of source `j` goes: CAB + (ADDR - LO) (R343); with several RIDE pairs, the address's place in the slot (R393), and
nowhere when it is in none of their live views (log entry 130). -/
def Chip.mirrorPlace (c : Chip) (d j a : Nat) : Option Nat :=
  let l := c.hostPlan j
  if (l.filter (fun r => r.method == 0)).length ≤ 1 then some (c.getF (.mir d j) R.MIR_CAB + (a - c.getF (.mir d j) R.MIR_LO))
  else ((rideLine l a).bind (ridePlace l)).map (fun p => c.cabBase j + slotOff l (c.getF (.host j) R.HOST_SRC_SLOT) + p.2 + (a - p.1))

/-- The bytes of a mirror copy of [addr, addr + n) from a source, written at `dst`: the lines of the RIDE live view that it covers wholly are
attested (R395), where `dst` is their place in the slot (R393; log entry 130). -/
def Chip.fillMark (c : Chip) (j addr n dst : Nat) : Chip :=
  let l := c.hostPlan j
  let slot := c.cabBase j + slotOff l (c.getF (.host j) R.HOST_SRC_SLOT)
  let here (a k : Nat) : Bool := (ridePlace l k).any (fun p => slot + p.2 == dst + (a - addr))
  forAll (upto (n / 128 + 1)) c (fun c i =>
    let a := ceilDiv addr 128 * 128 + 128 * i
    if a + 128 ≤ addr + n then (match rideLine l a with | some k => if here a k then c.lineSet j k else c | none => c) else c)

/-! Pairing (R390). -/

/-- PAIR from a source: whether this device takes its cabinet. -/
def Chip.pairRx (c : Chip) (src size : Nat) : Chip :=
  let reply (c : Chip) (reason : Nat) : Chip :=
    c.mgmtSend src MT_PAIR_ACK [reason, c.getF .res R.RES_STATE_FEED, c.getF .res R.RES_STATE_FEED_KNOWN]
  match c.hostNo src with
  | none => reply c 2
  | some j =>
    if !c.isMember src then reply c 4
    else if c.getF (.host j) R.HOST_SIZE_CAB_SIZE < size then reply (c.setB (.host j) R.HOST_SRC_ACCEPTED false) 3
    else reply (c.setB (.host j) R.HOST_SRC_ACCEPTED true) 0

/-- A pairing is refused. -/
def Chip.refusePair (c : Chip) (i reason : Nat) : Chip :=
  ((c.setPartner i R.RES_PARTNER_ACCEPTED 0).setPartner i R.RES_PARTNER_REFUSED reason).raise .res St.RES_PAIR_REFUSED

/-- Write the header of this device's cabinet at a partner (R393). -/
def Chip.headerSend (c : Chip) (dev : Nat) : Chip :=
  let h := Config.cabHeader (c.devPlan.map (fun r => (r.method, r.base, r.size)))
  c.cabWrite dev .header 0 ((h ++ List.replicate (4096 - h.length) 0).take 4096)

/-- PAIR_ACK from a partner: accepted or refused; the source decides on feeds, of which every PAIR_ACK tells (R390; log entry 143). A new plan's header is written to a partner that is
accepted. -/
def Chip.pairAckRx (c : Chip) (src reason feed known : Nat) : Chip :=
  match c.partnerNo src with
  | none => c
  | some i =>
    let cofed := !c.on .res R.RES_STATE_FEED_KNOWN || known == 0 || feed == c.getF .res R.RES_STATE_FEED
    let other := 1 - i
    let otherFull := c.partner other R.RES_PARTNER_CONFIGURED != 0 && c.recov.fed.contains other && c.partner other R.RES_PARTNER_COFED == 0
    let otherCofed := c.partner other R.RES_PARTNER_ACCEPTED != 0 && c.partner other R.RES_PARTNER_COFED != 0
    let c := { c with recov := { c.recov with fed := if c.recov.fed.contains i then c.recov.fed else i :: c.recov.fed } }
    let c := (c.setPartner i R.RES_PARTNER_FEED feed).setPartner i R.RES_PARTNER_COFED (b2n cofed)
    let c := if !cofed && otherCofed then c.refusePair other 1 else c
    if reason != 0 then (c.refusePair i reason).noteCofed.relevel
    else
      if cofed && otherFull then (c.refusePair i 1).relevel
      else
        let c := ((c.setPartner i R.RES_PARTNER_ACCEPTED 1).setPartner i R.RES_PARTNER_REFUSED 0).setPartner i R.RES_PARTNER_UP 1
        let c := if c.recov.headers.contains i then
          { c with recov := { c.recov with headers := c.recov.headers.filter (· != i) } }.headerSend src
          else c
        c.noteCofed.sealStep

/-! Copy commands (R413, R414). -/

/-- A plan entry of 32 bytes; none where METHOD is none of the four or a reserved bit is set (R413). R414 does not list these cases; the plan is invalid
there (log entry 157). -/
def planEntry (b : List Byte) : Option Region :=
  let r : Region := ⟨recNat b 0 1, recNat b 8 8, recNat b 16 8⟩
  if 3 < r.method || !allZero ((b.drop 1).take 7) || !allZero (b.drop 24) then none else some r

/-- Bytes of LPDDR6 that a region takes: both buffers of a pair. -/
def Region.extent (r : Region) : Nat := if r.method < 2 then 2 * r.size else r.size

/-- The cases of R414. -/
def Chip.planBad (c : Chip) (p : Nat) (l : List Region) : Bool :=
  l.any (fun r => r.base % 4096 != 0 || r.size % 4096 != 0) ||
  l.any (fun r => !c.ownsRange p r.base r.extent) ||
  (upto l.length).any (fun i => (upto i).any (fun k =>
    let a := l.getD i ⟨0, 0, 0⟩; let b := l.getD k ⟨0, 0, 0⟩
    overlaps a.base a.extent b.base b.extent)) ||
  (p != c.protPart && l.any (fun r => decide (r.method < 2))) ||
  decide (16 < (l.filter (fun r => decide (r.method < 2))).length +
    (c.pairs.filter (fun i => c.getF (.pair i) R.PAIR_CFG_PART != p)).length) ||
  c.acceptedPartners.any (fun i => decide (Config.cabSizeAt (c.partner i R.RES_PARTNER_DEVICE) <
    cabBytes (l ++ ((upto 16).filter (· != p)).flatMap (fun x => (c.partRun x).plan))))

/-- A partition's pairs become ordinary memory, with buffer LIVE at BASE (R413). -/
def Chip.dropPairs (c : Chip) (p : Nat) : Chip :=
  forAll (c.pairs.filter (fun i => c.getF (.pair i) R.PAIR_CFG_PART == p)) c (fun c i =>
    let a := c.pairBase i
    let n := c.pairSize i
    let c := if c.getF (.pair i) R.PAIR_CFG_LIVE = 0 then c else
      let b0 := c.mem.readN a n
      let b1 := c.mem.readN (a + n) n
      c.setMem ((c.mem.writeN a b1).writeN (a + n) b0)
    c.setFs (.pair i) [(R.PAIR_CFG_VALID, 0), (R.PAIR_CFG_LIVE, 0), (R.PAIR_CFG_WRITTEN, 0)])

/-- No snapshot of this device counts any more; its level falls (R414). -/
def Chip.dropSeals (c : Chip) : Chip :=
  ({ c.cabDrop CabJob.snapshot with recov := { c.recov with seals := [], drain := none, headers := [0, 1] } }).relevel

/-- Remove a partition's cabinet plan. -/
def Chip.dropPlan (c : Chip) (p : Nat) : Chip :=
  let c := c.dropPairs p
  c.setPartRun p { c.partRun p with plan := [] }

/-- CAB_PLAN (R413, R414). -/
def Chip.cabPlanCmd (c : Chip) (n : Nat) : Chip :=
  c.wqStart n 0x30 (fun c e =>
    let p := queuePart n
    let (c, code, bs) := c.agentRead ⟨some p, 0⟩ (Wqe.cabPlan e.bs) (32 * Wqe.entries e.bs)
    if code != COMP_OK then (c, some code)
    else match (upto (Wqe.entries e.bs)).mapM (fun i => planEntry ((bs.drop (32 * i)).take 32)) with
      | none => (c, some COMP_CAB_PLAN_INVALID)
      | some l =>
        if c.planBad p l then (c, some COMP_CAB_PLAN_INVALID)
        else
          let c := c.dropPlan p
          let c := c.setPartRun p { c.partRun p with plan := l }
          let w := c.getF (.wqp p) R.WQP_STEP % 2 ^ 32
          let c := forAll (l.filter (fun r => decide (r.method < 2))) c (fun c r =>
            match (upto 16).find? (fun i => !c.on (.pair i) R.PAIR_CFG_VALID) with
            | some i => c.setFs (.pair i) [(R.PAIR_BASE, r.base / 4096), (R.PAIR_CFG_SIZE, r.size / 4096), (R.PAIR_CFG_METHOD, r.method),
                (R.PAIR_CFG_LIVE, 0), (R.PAIR_CFG_WRITTEN, 0), (R.PAIR_CFG_VALID, 1), (R.PAIR_CFG_PART, p), (R.PAIR_STEPS_STEP0, w),
                (R.PAIR_STEPS_STEP1, w)]
            | none => c)
          (c.dropSeals.pairingStart, some COMP_OK))

/-- CAB_STATIC (R413, R414): the partition's STATIC regions are copied to every accepted partner. -/
def Chip.cabStaticCmd (c : Chip) (n : Nat) : Chip :=
  c.wqStart n 0x31 (fun c _ =>
    let p := queuePart n
    let mine := (c.partRun p).plan.filter (fun r => r.method == 2)
    if c.acceptedPartners.isEmpty then (c, some COMP_NO_PARTNER)
    else if mine.all (fun r => r.size == 0) then (c, some COMP_OK)
    else
      (forAll c.acceptedPartners c (fun c i =>
        c.sendRegions (c.partner i R.RES_PARTNER_DEVICE) (.static n) (staticOff c.devPlan) (fun r => r.method == 2) mine.contains), none))

/-- CAB_RELEASE (R413). The plan entries in the cabinets' headers change with the plan (R393): they are written again, and as with a new plan no snapshot
counts until the next seal (DEDUCED: log entry 144). -/
def Chip.cabReleaseCmd (c : Chip) (n : Nat) : Chip :=
  c.wqStart n 0x32 (fun c _ =>
    if (c.partRun (queuePart n)).plan.isEmpty then (c, some COMP_OK)
    else
      let c := (c.dropPlan (queuePart n)).dropSeals
      (forAll c.acceptedPartners { c with recov := { c.recov with headers := [] } } (fun c i => c.headerSend (c.partner i R.RES_PARTNER_DEVICE)), some COMP_OK))

/-- When every write of a queue's CAB_STATIC is answered, it ends with COMP_OK or the code of the first write that failed (R413). -/
def Chip.staticPoll (c : Chip) (n : Nat) : Chip :=
  let job := CabJob.static n
  if c.cabOpen (· == job) then c
  else
    let bad := c.reqs.find? (fun r => r.who == Requester.cab job)
    let code := match bad.bind (·.resp) with | some (k, _) => k | none => COMP_OK
    match (c.queueOf n).cur with
    | some e => if Wqe.op e.bs == 0x31 && e.started && e.code.isNone then (c.cabDrop (· == job)).wqEnd n code else c
    | none => c

/-- A source learns which slots of its cabinet a host has lost, bit k for slot k (R408, R409). A lost seal counts no more. When one slot is lost
and the newest snapshot was still filling it, its stage and its drain are sent again; when both are lost, the header is written again and protection
restarts at the next whistle. -/
def Chip.cabLostRx (c : Chip) (src slots : Nat) : Chip :=
  match c.partnerNo src with
  | none => c
  | some i =>
    let c := c.raise .res St.RES_CAB_LOST
    let w := match c.recov.drain with | some w => w | none => (c.stages.map (·.step)).foldl max 0
    let held := (c.sealsOf i).contains w
    let staged := c.reqs.any (fun r => r.who == Requester.cab .stage && r.msg.dst == src)
    let c := { c with recov := { c.recov with seals := c.recov.seals.insert i ((c.sealsOf i).filter (fun s => !bit slots (s % 2))) } }
    let c := if c.partner i R.RES_PARTNER_ACCEPTED = 0 then c
      else if slots % 4 = 3 then c.headerSend src
      else if !bit slots (w % 2) || held || staged then c
      else match c.stages.find? (fun x => x.step == w) with
        | none => c
        | some st => { c with reqs := c.reqs.filter (fun r => !(r.who == Requester.cab .drain && r.msg.dst == src)),
                              recov := { c.recov with drain := some w, drainDevs := c.recov.drainDevs.erase src } }.stageTo src w (Config.stageBytes st.words)
    c.sealStep

end Sys2Proof.Machine
end

