-- ==== Sys2Proof/Machine/Layout.lean ====
section
/-! DEFINITION. Partition layouts (R355-R357, R381-R383): validity, forming the partitions of a layout, and the layout switch. -/

namespace Sys2Proof.Machine

/-! Validity (R356, R364, R388). -/

def LayoutPart.clusterSet (x : LayoutPart) : List Nat := bitsOf x.clusters 32
def LayoutPart.groupSet (x : LayoutPart) : List Nat := bitsOf x.groups 32

/-- Partitions of a layout with the same clusters, in the order of partition numbers (R356, R364). -/
def Layout.sharers (l : Layout) (x : LayoutPart) : List Nat :=
  (upto 16).filter (fun p => l.parts.any (fun y => y.part == p && y.clusters == x.clusters))

/-- Address range of a partition's slices. -/
def LayoutPart.space (x : LayoutPart) : Nat × Nat := (x.baseSlice * sliceSize, x.groupSet.length * sliceSize)

/-- Page tables with the free stack, and the pool, as (base, size) (R372). -/
def LayoutPart.tables (x : LayoutPart) : Nat × Nat := (x.ptBase, 4 * x.maxPages * x.ctxCount + 4 * x.poolPages)
def LayoutPart.pool (x : LayoutPart) : Nat × Nat := (x.poolBase, x.poolPages * x.page64k * 65536)

/-- Does the share of a member keep to R364? -/
def LayoutPart.shareOk (x : LayoutPart) : Bool :=
  decide (x.spBase + x.spKib ≤ 2560) && decide (x.cmBase + x.cmKib ≤ 24576) && decide (1 ≤ x.accCount) &&
    decide (x.accBase + x.accCount ≤ 32) && decide (20 ≤ x.sliceUs) && decide (x.sliceUs ≤ 10000)

/-- Does one partition of a layout keep to R356 and R388? -/
def Chip.layoutPartOk (c : Chip) (l : Layout) (x : LayoutPart) : Bool :=
  x.clusterSet.any (fun cl => !c.clusterGone cl) &&
  x.groupSet.any (fun g => c.grpPresent g && c.grpState g != 5) &&
  decide (x.baseSlice + x.groupSet.length ≤ c.slices) &&
  x.groupSet.all (fun g => !(c.cabSet).contains g) &&
  !overlaps x.baseSlice x.groupSet.length c.cabSlice c.cabSet.length &&
  x.rangeBase % 64 == 0 && x.rangeSize % 64 == 0 && decide (64 ≤ x.rangeSize) && decide (x.rangeBase + x.rangeSize ≤ 16384) &&
  x.ctxBase % 1024 == 0 && x.ctxCount % 1024 == 0 && decide (x.ctxBase + x.ctxCount ≤ 262144) &&
  (x.ctxCount == 0 || (inside x.tables.1 x.tables.2 x.space.1 x.space.2 && inside x.pool.1 x.pool.2 x.space.1 x.space.2 &&
    !overlaps x.tables.1 x.tables.2 x.pool.1 x.pool.2)) &&
  ((l.sharers x).length == 1 || (decide ((l.sharers x).length ≤ 4) && decide (x.clusterSet.length ≤ 4) && x.shareOk))

/-- Do two partitions of a layout keep apart (R356)? -/
def layoutPairOk (x y : LayoutPart) : Bool :=
  x.part != y.part &&
  (x.clusters == y.clusters || (x.clusters &&& y.clusters) == 0) &&
  (x.groups &&& y.groups) == 0 &&
  !overlaps x.baseSlice x.groupSet.length y.baseSlice y.groupSet.length &&
  !overlaps x.rangeBase x.rangeSize y.rangeBase y.rangeSize &&
  !overlaps x.ctxBase x.ctxCount y.ctxBase y.ctxCount &&
  (x.clusters != y.clusters || (!overlaps x.spBase x.spKib y.spBase y.spKib && !overlaps x.cmBase x.cmKib y.cmBase y.cmKib &&
    !overlaps x.accBase x.accCount y.accBase y.accCount))

/-- Is the window number in force under a layout (R355)? -/
def Layout.inForce (l : Layout) (w : Nat) : Bool := l.parts.any (fun x => bit x.windows w)

/-- SIZE, PART of a window of the image (R353). -/
def winSize (w : Nat × Nat × Nat) : Nat := field w.2.1 0 36
def winPart (w : Nat × Nat × Nat) : Nat := field w.2.1 41 4

/-- Is a layout valid (R356, R388)? -/
def Chip.layoutOk (c : Chip) (wins : List (Nat × Nat × Nat)) (l : Layout) : Bool :=
  l.parts.any (fun x => x.part == 0) &&
  l.parts.all (c.layoutPartOk l) &&
  (upto l.parts.length).all (fun i => (upto i).all (fun k =>
    match l.parts[i]?, l.parts[k]? with
    | some x, some y => layoutPairOk x y
    | _, _ => true)) &&
  wins.zipIdx.all (fun e => !l.inForce e.2 || winSize e.1 == 0 || l.parts.any (fun x => x.part == winPart e.1))

/-! Forming (R382 step 5). -/

/-- Store a field only when that changes it. -/
def Chip.putF (c : Chip) (b : Blk) (f : Field) (v : Nat) : Chip := if c.getF b f = v % 2 ^ f.width then c else c.setF b f v

/-- Store a whole register word, field by field. -/
def Chip.putWord (c : Chip) (b : Blk) (off w : Nat) : Chip :=
  forAll (b.fields.filter (fun f => f.off == off)) c (fun c f => c.putF b f (field w f.lsb f.width))

/-- Does a key of the register file name a sync counter? -/
def isSyncKey (k : Nat) : Bool :=
  match decodeReg (k / 64 / dieSpan) (k / 64 % dieSpan) with
  | some (.sync _) => true
  | _ => false

/-- The windows of a layout, on every die; those it does not put in force have SIZE = 0 (R426). -/
def Chip.formWindows (c : Chip) (wins : List (Nat × Nat × Nat)) (l : Layout) : Chip :=
  forAll wins.zipIdx c (fun c e => forAll (upto 4) c (fun c d =>
    let b := Blk.win d e.2
    let c := ((c.putWord b 0 e.1.1).putWord b 8 e.1.2.1).putWord b 0x10 e.1.2.2
    if l.inForce e.2 then c else c.putF b R.WIN_CFG_SIZE 0))

/-- The registers of a partition, formed or not. -/
def Chip.formPart (c : Chip) (l : Layout) (p : Nat) : Chip :=
  let b := Blk.part p
  let c := { c.setPartRun p {} with keys := c.keys.erase p, spent := c.spent.filter (· != p) }.putF (.wqp p) R.WQP_STEP 0
  match l.parts.find? (fun x => x.part == p) with
  | none =>
    let c := forAll [R.PART_STATE, R.PART_STATE_MEMBER, R.PART_STATE_SET_SIZE, R.PART_STATE_IN_SLICE, R.PART_CLUSTERS, R.PART_SYNC_RANGE_BASE,
      R.PART_SYNC_RANGE_SIZE, R.PART_SEQ_CTX_BASE, R.PART_SEQ_CTX_COUNT, R.PART_SHARE_SP_BASE_KIB, R.PART_SHARE_SP_KIB,
      R.PART_SHARE_CM_BASE_KIB, R.PART_SHARE_CM_KIB, R.PART_SLICE_ACC_BASE, R.PART_SLICE_ACC_COUNT, R.PART_SLICE_SLICE_US,
      R.PART_SLICE_DEBT_US, R.PART_POOL_POOL_BASE, R.PART_POOL_PAGE_64K, R.PART_POOL2_POOL_PAGES, R.PART_POOL2_PAGE_TOKENS,
      R.PART_POOL2_MAX_PAGES, R.PART_PT_PT_BASE, R.PART_POOL_STATE_FREE, R.PART_POOL_STATE_OPEN] c (fun c f => c.putF b f 0)
    forAll (upto 4) c (fun c d => ((c.putF (.pmap d p) R.PMAP_PART_MAP_GROUPS 0).putF (.pmap d p) R.PMAP_PART_MAP_BASE_SLICE 0).putF
      (.pmap d p) R.PMAP_PART_MAP_VALID 0)
  | some x =>
    let set := l.sharers x
    let pool := if x.ctxCount = 0 then 0 else x.poolPages
    let c := forAll [(R.PART_STATE, PS_ACTIVE), (R.PART_STATE_MEMBER, posOf set p), (R.PART_STATE_SET_SIZE, set.length - 1),
      (R.PART_STATE_IN_SLICE, 0), (R.PART_CLUSTERS, x.clusters), (R.PART_SYNC_RANGE_BASE, x.rangeBase),
      (R.PART_SYNC_RANGE_SIZE, x.rangeSize), (R.PART_SEQ_CTX_BASE, x.ctxBase), (R.PART_SEQ_CTX_COUNT, x.ctxCount),
      (R.PART_SHARE_SP_BASE_KIB, x.spBase), (R.PART_SHARE_SP_KIB, x.spKib), (R.PART_SHARE_CM_BASE_KIB, x.cmBase),
      (R.PART_SHARE_CM_KIB, x.cmKib), (R.PART_SLICE_ACC_BASE, x.accBase), (R.PART_SLICE_ACC_COUNT, x.accCount),
      (R.PART_SLICE_SLICE_US, x.sliceUs), (R.PART_SLICE_DEBT_US, 0), (R.PART_POOL_POOL_BASE, x.poolBase),
      (R.PART_POOL_PAGE_64K, x.page64k), (R.PART_POOL2_POOL_PAGES, x.poolPages), (R.PART_POOL2_PAGE_TOKENS, x.pageTokens),
      (R.PART_POOL2_MAX_PAGES, x.maxPages), (R.PART_PT_PT_BASE, x.ptBase), (R.PART_POOL_STATE_FREE, pool),
      (R.PART_POOL_STATE_OPEN, 0)] c (fun c (e : Field × Nat) => c.putF b e.1 e.2)
    let c := forAll (upto 4) c (fun c d => ((c.putF (.pmap d p) R.PMAP_PART_MAP_GROUPS x.groups).putF (.pmap d p)
      R.PMAP_PART_MAP_BASE_SLICE x.baseSlice).putF (.pmap d p) R.PMAP_PART_MAP_VALID 1)
    c.newKey p

/-- Ways of a shared cluster's caches that lie inside a member's scratchpad share belong to context 2s (R174, R364). -/
def Chip.formWays (c : Chip) (p : Nat) : Chip :=
  if !c.shared p then c
  else
    let lo := c.getF (.part p) R.PART_SHARE_SP_BASE_KIB * 1024
    let n := c.getF (.part p) R.PART_SHARE_SP_KIB * 1024
    forAll (c.clustersOf p) c (fun c cl => forAll (upto 16) c (fun c k => forAll (upto 16) c (fun c j =>
      if inside (0x280000 - (j + 1) * 0x10000) 0x10000 lo n then c.putF (.sp cl k) (ownerField j) (2 * c.memberOf p) else c)))

/-- Fill the free stack of a partition that has contexts (R372). -/
def Chip.formStack (c : Chip) (p : Nat) : Chip :=
  if c.ctxCount p = 0 then c else forAll (upto (c.freePages p)) c (fun c i => c.setWord32 (c.stackAddr p i) i)

/-- LPDDR6 keeps its contents where they are: each listed byte takes the address that the new map gives its place (R300, R383). -/
def Chip.remap (old new : Chip) (scrub : Bool) : Mem :=
  old.mem.foldl (fun m (e : Host.Cell) =>
    if !isLpddr e.1 then KMap.insert m e.1 e.2
    else
      let q := old.memMap e.1
      let moved := (upto 17).any (fun p =>
        (if p = 16 then old.cabSet.contains q.grp else (old.groupsOf p).contains q.grp) !=
        (if p = 16 then new.cabSet.contains q.grp else (new.groupsOf p).contains q.grp))
      if scrub && moved then m else KMap.insert m (new.unmap q.grp q.stripe q.di q.byte) e.2) []

/-- A partition of more than 8 clusters has been formed: every core of the module has its cache empty and cache mode disabled (R173); a setting that still waited comes
to nothing. -/
def Chip.cachesOff (c : Chip) : Chip :=
  forAll (upto 32) c (fun c cl => forAll (upto 16) c (fun c k =>
    let c := (if c.clusterGone cl then c else c.cacheEmpty cl k).putF (.sp cl k) R.SP_CACHE_CFG_WAYS 0
    let x := c.cacheOf cl k
    let kept := x.ops.filter (fun o => match o with | .setWays _ => false | _ => true)
    if kept == x.ops then c else c.setCache cl k { x with ops := kept }))

/-- Caches and free stacks of the partitions of a new layout (R173, R174, R364, R372). -/
def Chip.formCaches (c : Chip) : Chip :=
  let d := forAll (upto 16) c (fun c p => (c.formWays p).formStack p)
  match decide (8 < d.largestPart) with
  | true => d.cachesOff
  | false => d

/-- Form the partitions of a layout (R357, R382). -/
def Chip.formLayout (c : Chip) (wins : List (Nat × Nat × Nat)) (l : Layout) (scrub : Bool) : Chip :=
  let new := forAll (upto 16) { c with regs := c.regs.filter (fun e => !isSyncKey e.1) } (fun c p => c.formPart l p)
  let c := new.setMem (c.remap new scrub)
  let c := { c.formWindows wins l with setTurn := [] }
  let c := c.formCaches
  let c := forAll (upto 16) c (fun c p => if c.partState p = PS_NONE then c else
    forAll (c.clustersOf p) c (fun c cl => forAll (upto 16) c (fun c k => c.outsideWin cl k)))
  c.setF .layout R.LAYOUT_CURRENT l.num

/-! The switch (R381, R382). -/

/-- A layout of the image by number. -/
def Chip.layoutNo (c : Chip) (n : Nat) : Option Layout := c.image.bind (fun i => i.layouts.find? (fun l => l.num == n))

/-- Has a cluster's power domain faulted (R458)? Domains of a die: bits 15 d to 15 d + 7 are its clusters. -/
def Chip.clusterFaulted (c : Chip) (cl : Nat) : Bool := bit (c.getF .pwr R.PWR_FAULTED) (15 * (cl / 8) + cl % 8)

/-- May a switch go to layout `n` (R381)? -/
def Chip.layoutUsable (c : Chip) (n : Nat) : Bool :=
  bit (c.getF .layout R.LAYOUT_VALID) n &&
    match c.layoutNo n with
    | none => false
    | some l => l.parts.all (fun x => x.groupSet.all (fun g => c.grpState g != 5) && x.clusterSet.all (fun cl => !c.clusterFaulted cl))

/-- LAYOUT_SWITCH (R381, R382 steps 1 to 3): every queue is held, caches are written back, partitions are reset and contexts freed; plans go, and
the sources whose cabinets this device hosts are told (R414). -/
def Chip.layoutSwitch (c : Chip) (n : Nat) : Chip :=
  c.wqStart n 0x2F (fun c e =>
    if !c.layoutUsable (Wqe.layout e.bs) then (c, some COMP_LAYOUT_INVALID)
    else
      let c := c.setB .layout R.LAYOUT_SWITCHING true
      let formed := (upto 16).filter (fun p => c.partState p != PS_NONE)
      let c := forAll (upto 32) c (fun c cl => if c.clusterGone cl then c else forAll (upto 16) c (fun c k => c.cacheEmpty cl k))
      let c := forAll formed c (fun c p => c.partResetWith p (some n) true)
      let c := forAll formed c (fun c p => forAll (upto (c.ctxCount p)) c (fun c i => if (c.seqCtx p i).state = 0 then c else c.freeCtx p i))
      let c := forAll (upto 16) c (fun c p => c.dropPlan p)
      let c := c.dropSeals
      let c := forAll (upto 4) c (fun c j =>
        if c.on (.host j) R.HOST_SRC_ACCEPTED then c.mgmtSend (c.getF (.host j) R.HOST_SRC_SOURCE) MT_CAB_LOST [3] else c)
      (c, none))

/-- The heads of the queues wait for nothing any longer: the counters that they named belong to the old layout (R382 step 5). -/
def Chip.dropHeads (c : Chip) : Chip := forAll (upto 64) c (fun c n => c.dropWaits (.wq n))

/-- LAYOUT_SWITCH_COMPLETE (R382 steps 4 to 6). -/
def Chip.layoutComplete (c : Chip) : Chip :=
  match (c.queueOf 0).cur, c.image with
  | some e, some img =>
    if !c.on .layout R.LAYOUT_SWITCHING || Wqe.op e.bs != 0x2F || !e.started || e.code.isSome then c
    else match c.layoutNo (Wqe.layout e.bs) with
      | none => c
      | some l =>
        let c := c.dropHeads.formLayout img.windows l (Wqe.scrub e.bs)
        let c := (c.setB .layout R.LAYOUT_SWITCHING false).addF .layout R.LAYOUT_SWITCHES 1
        (c.wqEnd 0 COMP_OK).wqArmAll
  | _, _ => c

end Sys2Proof.Machine
end

