-- ==== Sys2Proof/Machine/Whistle.lean ====
section
/-! DEFINITION. The whistle (R288-R292) with what other chapters hang on it: core benching (R99-R101), phase timers (R466, R467),
sideboard flips (R391) and the recorded stage (R397). -/

namespace Sys2Proof.Machine

/-- WHISTLE (R271, R288 phase 1): from now on the partition's other queues are held. -/
def Chip.wqWhistle (c : Chip) (n : Nat) : Chip := c.wqStart n 0x09 (fun c _ => (c, none))

/-- The queue of a partition whose WHISTLE drains. -/
def Chip.whistleQueue (c : Chip) (p : Nat) : Option Nat :=
  (queuesOf p).find? (fun n => match (c.queueOf n).cur with
    | some e => Wqe.op e.bs == 0x09 && e.started && e.code.isNone
    | none => false)

/-! What a drain waits for (R288 phase 2, R290). -/

/-- Do the cores of a cluster run work of partition `p`? In a share set, only in its slice. -/
def Chip.ownsCores (c : Chip) (p cl : Nat) : Bool := c.partOf cl == some p

/-- Does a request of partition `p` wait in the queue of a channel group? Its message names no cluster: it counts for the first one (DESIGN CHOICE: log entry 122). -/
def Chip.memWaits (c : Chip) (p : Nat) : Bool := (upto 32).any (fun g => (c.grpOf g).queue.any (fun r => !r.dead && r.agent.part == some p))

/-- The unit of a cluster that still holds work of partition `p`: 1 DMA, 2 tile program, 3 VE run, 4 outstanding request. -/
def Chip.blocker (c : Chip) (p cl : Nat) : Option Nat :=
  if !c.dmaDrained p cl then some 1
  else if c.ownsCores p cl && (upto 16).any (fun k => (c.seqOf cl k).running) then some 2
  else if c.ownsCores p cl && (upto 16).any (fun k => !(c.veOf cl k).runs.isEmpty) then some 3
  else if (c.reqs ++ c.syncHeld).any (fun r => match r.who with
      | .dma x n _ _ => x == cl && (c.channelsOf p).contains n
      | .ve x _ => x == cl && c.ownsCores p cl
      | .signal x n _ => x == cl && (c.channelsOf p).contains n
      | _ => false) then some 4
  else if (c.clustersOf p).head? == some cl && c.memWaits p then some 4
  else none

/-- The first unit that holds a drain, with its cluster's position. -/
def Chip.firstBlocker (c : Chip) (p : Nat) : Option (Nat × Nat) :=
  ((c.clustersOf p).zipIdx.filterMap (fun e => (c.blocker p e.1).map (fun b => (b, e.2)))).head?

/-! Emptying (R288 phase 3, R289). -/

/-- Empty the open shelves of a partition on a cluster; a live entry that is discarded sets WHISTLE_LEFTOVER. -/
def Chip.emptyShelves (c : Chip) (p cl : Nat) : Chip :=
  let s := c.memberOf p
  let mine (key : Nat) : Bool :=
    if c.shared p then isCoreShelf cl key (15 * s) 15 || isCommonsShelf cl key (63 * s) 63
    else isCoreShelf cl key 0 64 || isCommonsShelf cl key 0 256
  let c := c.raiseIf (c.shelves.any (fun e => mine e.1 && e.2.live != 0)) (.wqp p) St.WQP_WHISTLE_LEFTOVER
  { c with shelves := c.shelves.map (fun e => if mine e.1 then (e.1, e.2.emptied) else e) }

/-- Empty what a partition holds on a cluster. -/
def Chip.whistleEmpty (c : Chip) (p cl : Nat) : Chip :=
  let c := c.emptyShelves p cl
  let ctx (x : Nat) : Bool := !c.shared p || x / 2 == c.memberOf p
  forAll (upto 16) c (fun c k =>
    let c := if c.shared p then c.cacheClean cl k (fun j => ctx (c.wayOwner cl k j)) true true else c.cacheEmpty cl k
    if c.ownsCores p cl then
      (((c.closeVts cl k 0).closeVts cl k 1).closeVts cl k (parkedWin p)).outsideWin cl k
    else c.closeVts cl k (parkedWin p))

/-! Accounting (R288 phase 4). -/

/-- Largest value of an RSEQ counter over a partition's clusters, in µs of the 2,000 MHz NoC (R466). -/
def Chip.acctUs (c : Chip) (p : Nat) (f : Field) : Nat :=
  satNat 0xFFFFFFFF (((c.clustersOf p).foldl (fun m cl => max m (c.getF (.rseq cl) f)) 0) / 2000)

/-- The phase timers of a partition (R466, R467): `step` and `outside` are the times of phases 0 and 6 in µs. -/
def Chip.phaseReport (c : Chip) (p step outside : Nat) : Chip :=
  let l := [step, c.acctUs p R.RSEQ_ACCT_FWD, c.acctUs p R.RSEQ_ACCT_RECOMP, c.acctUs p R.RSEQ_ACCT_BWD, c.acctUs p R.RSEQ_ACCT_AWAIT,
    c.acctUs p R.RSEQ_ACCT_GWAIT, outside, c.getF (.wqp p) R.WQP_WHISTLE_LOG_DURATION]
  let w := c.getF (.wqp p) R.WQP_STEP
  forAll l.zipIdx c (fun c e => c.setFs (.telpt 0 p e.2) [(R.TELPT_PT_US, satNat 0xFFFFFFFF e.1), (R.TELPT_PT_STEP, w)])

/-- Position of a core in the field bench log (R433): die, cluster, physical core. -/
def corePos (cl phys : Nat) : Nat := (cl / 8) * 512 + (cl % 8) * 32 + phys

/-- The ME registers of a logical core describe another physical core from now on: they hold their reset values, but for ME_ACC_WIN and
ME_CSUM_TOL, which were written for the logical core (R102). -/
def Chip.meRegsNew (c : Chip) (cl k : Nat) : Chip :=
  let lo := Blk.base (.me cl k)
  { c with regs := c.regs.filter (fun e =>
      let a := e.1 / 64
      decide (a < lo) || decide (lo + 0x400 ≤ a) || a == lo + R.ME_ACC_WIN_COUNT0.off || a == lo + R.ME_CSUM_TOL_REL_C1.off) }

/-- Bench or decay one logical core at a whistle (R99-R102). -/
def Chip.benchCore (c : Chip) (cl k : Nat) : Chip :=
  let b := Blk.mecl cl
  let phys := c.physOf cl k
  let score := c.getF b (scoreField phys)
  if score < c.getF b R.MECL_BENCH_CTRL_BENCH_LIMIT then c.setF b (scoreField phys) (score / 2)
  else if !c.on b R.MECL_SPARE_SPARE_FREE then c.raise b St.MECL_SPARE_NONE
  else
    let spare := c.getF b R.MECL_SPARE
    let c := (c.setFs b [(mapField k, spare), (R.MECL_SPARE_SPARE_FREE, 0), (R.MECL_SPARE, 0x1F),
      (R.MECL_SPARE_BENCHED, c.getF b R.MECL_SPARE_BENCHED ||| 2 ^ phys), (scoreField spare, 0)]).raise b St.MECL_CORE_BENCHED
    let f := R.BOOT_BENCH_CL_BENCHED.nth (cl % 8)
    let c := c.setF (.boot (cl / 8)) f (c.getF (.boot (cl / 8)) f ||| 2 ^ phys)
    let c := c.benchAppend 1 2 (corePos cl phys)
    let c := (c.setMe cl k {}).meRegsNew cl k
    c.setMem ((c.mem.zeroRange (spBase cl k) (spBase cl k + spSize)).zeroRange (accBase cl k) (accBase cl k + 0x40000))

/-- Account for one cluster: RSEQ counters and maxima are cleared (R65, R66, R288), cores are benched (R99), by rising logical number, so that the lowest of several
that meet the condition gets the only spare (DESIGN CHOICE: log entry 96). In a share set the cores are the
running member's. -/
def Chip.whistleAccount (c : Chip) (p cl : Nat) : Chip :=
  let c := c.setFs (.rseq cl) [(R.RSEQ_ACCT_FWD, 0), (R.RSEQ_ACCT_RECOMP, 0), (R.RSEQ_ACCT_BWD, 0), (R.RSEQ_ACCT_AWAIT, 0), (R.RSEQ_ACCT_GWAIT, 0),
    (R.RSEQ_PROGRESS_PASSES, 0), (R.RSEQ_PROGRESS_SUB_RECOMP, 0)]
  let c := c.setF (.plan cl) R.PLAN_TP_MAX 0
  let c := forAll (upto 16) c (fun c k => c.setF (.ve cl k) R.VE_MAX_LAT 0)
  let c := if c.ownsCores p cl then forAll (upto 16) c (fun c k => c.benchCore cl k) else c
  { c with rolled := c.rolled.filter (fun r => !(r.1 == cl && c.ownsRange p r.2 1)) }

/-! Closing (R288 phase 6, R391, R397). -/

/-- Flip each pair whose next view was written; the new live buffer's STEP is `w` (R391). -/
def Chip.flipPairs (c : Chip) (p w : Nat) : Chip :=
  forAll (c.pairs.filter (fun i => c.getF (.pair i) R.PAIR_CFG_PART == p)) c (fun c i =>
    let b := Blk.pair i
    if !c.on b R.PAIR_CFG_WRITTEN then c
    else
      let live := 1 - c.getF b R.PAIR_CFG_LIVE
      c.setFs b [(R.PAIR_CFG_LIVE, live), (R.PAIR_CFG_WRITTEN, 0), (if live = 0 then R.PAIR_STEPS_STEP0 else R.PAIR_STEPS_STEP1, w)])

/-- Counters of a partition whose BASE the register file lists, with it. -/
def Chip.listedBases (c : Chip) (p : Nat) : List (Nat × Nat) :=
  c.regs.filterMap (fun e =>
    let a := e.1 / 64
    match decodeReg (a / dieSpan) (a % dieSpan) with
    | some (.sync i) =>
      if c.getF (.part p) R.PART_SYNC_RANGE_BASE ≤ i ∧ i < c.getF (.part p) R.PART_SYNC_RANGE_BASE + c.syncRange p ∧
          a % 16 = 8 ∧ e.1 % 64 = 0 then some (i, c.getF (.sync i) R.SYNC_CFG_BASE) else none
    | _ => none)

/-- The stage of a whistle (R397). WQ_CONS has passed the WHISTLE entry. -/
def Chip.stageOf (c : Chip) (p w : Nat) : Stage :=
  let cl := (c.clustersOf p).headD 0
  let bases := (c.listedBases p).filter (fun e => e.2 != 0)
  { step := w, bases := bases
    queues := (queuesOf p).map (fun q =>
      let g (f : Field) : Nat := c.getF (.wq q) f
      { base := g R.WQ_RING_BASE, log2 := g R.WQ_RING_LOG2_ENTRIES, enable := g R.WQ_RING_ENABLE, cqBase := g R.WQ_CQ_RING_CQ_BASE,
        cqLog2 := g R.WQ_CQ_RING_CQ_LOG2, vector := g R.WQ_CQ_RING_VECTOR, next := g R.WQ_CONS, tail := g R.WQ_CQ_PTR_CQ_TAIL,
        head := g R.WQ_CQ_PTR_CQ_HEAD })
    plan := c.getF (.rseq cl) R.RSEQ_PLAN_PLAN_BASE
    rseq := c.rsState cl
    pairs := c.pairs.map (fun i => (i, c.getF (.pair i) R.PAIR_CFG_LIVE, c.getF (.pair i) R.PAIR_STEPS_STEP0, c.getF (.pair i) R.PAIR_STEPS_STEP1)) }
/-- A stage from its numbers. -/
def stageOfWords (l : List Nat) : Stage :=
  let g (i : Nat) : Nat := l.getD i 0
  let nb := g 3
  let nq := min 4 (g 4)
  let np := min 16 (g 5)
  let q0 := 6 + 2 * nb
  let p0 := q0 + 9 * nq
  { step := g 0, plan := g 1, rseq := g 2
    bases := (upto (min 16384 nb)).map (fun i => (g (6 + 2 * i), g (7 + 2 * i)))
    queues := (upto nq).map (fun i =>
      let o := q0 + 9 * i
      ⟨g o, g (o + 1), g (o + 2), g (o + 3), g (o + 4), g (o + 5), g (o + 6), g (o + 7), g (o + 8)⟩)
    pairs := (upto np).map (fun i => (g (p0 + 4 * i), g (p0 + 4 * i + 1), g (p0 + 4 * i + 2), g (p0 + 4 * i + 3))) }

/-- WHISTLE_DRAIN_DONE (R288 phases 3 to 6): `step`, `outside`, `length` are times in µs, `cycles` the length in management cycles. -/
def Chip.whistleDone (c : Chip) (p step outside length cycles : Nat) : Chip :=
  match c.whistleQueue p with
  | none => c
  | some n =>
    if (c.firstBlocker p).isSome then c
    else
      let cls := c.clustersOf p
      let c := forAll cls c (fun c cl => c.whistleEmpty p cl)
      let c := c.phaseReport p step outside
      let c := forAll cls c (fun c cl => c.whistleAccount p cl)
      let c := (c.newKey p).countersToBase p
      let w := c.getF (.wqp p) R.WQP_STEP + 1
      let prot := p == c.protPart
      let c := if prot then c.flipPairs p (w % 2 ^ 32) else c
      let c := if prot then { c with recov := { c.recov with synced := false } }.sealSync else c
      let c := c.setF (.wqp p) R.WQP_STEP w
      let c := if prot then
          { c with stages := c.stageOf p (w % 2 ^ 32) :: c.stages.take 1 }.noteCofed.relevel
        else c
      let c := (c.setFs (.wqp p) [(R.WQP_WHISTLE_LOG_DURATION, satNat 0xFFFFFFFF length), (R.WQP_WHISTLE_LOG_BLOCKER, 0),
        (R.WQP_WHISTLE_LOG_CLUSTER, 0)]).addF (.wqp p) R.WQP_WHISTLES_CYC cycles
      c.wqEnd n COMP_OK

/-- WHISTLE_STUCK (R290): the drain has lasted longer than WHISTLE_LIMIT. -/
def Chip.whistleStuck (c : Chip) (p length cycles : Nat) : Chip :=
  match c.whistleQueue p, c.firstBlocker p with
  | some n, some (unit, pos) =>
    let c := (c.raise (.wqp p) St.WQP_WHISTLE_STUCK).setFs (.wqp p) [(R.WQP_WHISTLE_LOG_DURATION, satNat 0xFFFFFFFF length),
      (R.WQP_WHISTLE_LOG_BLOCKER, unit), (R.WQP_WHISTLE_LOG_CLUSTER, pos)]
    let c := (c.addF (.wqp p) R.WQP_WHISTLES_CYC cycles).setPartRun p { c.partRun p with stuck := true }
    c.wqEnd n COMP_WHISTLE_STUCK
  | _, _ => c

/-- WQ_ENTRY_COMPLETE (R272, R397): after a whistle of the protected partition its stage goes to the partners. -/
def Chip.entryComplete (c : Chip) (n : Nat) : Chip :=
  let was := match (c.queueOf n).cur with
    | some e => Wqe.op e.bs == 0x09 && e.code == some COMP_OK && queuePart n == c.protPart
    | none => false
  let c := c.wqComplete n
  match was, c.stages with
  | true, s :: _ => c.stageSend s.step (Config.stageBytes s.words)
  | _, _ => c

end Sys2Proof.Machine
end

