-- ==== Sys2Proof/Machine/Recovery.lean ====
section
/-! DEFINITION. Loss of contact, restore, spares and local losses (R400-R409): heartbeats, LOST, the rollback to a snapshot, what a spare does,
and the recovery of stripes that this device has lost. -/

namespace Sys2Proof.Machine

/-- Replace what the recovery unit holds. -/
def Chip.setRecov (c : Chip) (x : Recov) : Chip := { c with recov := x }

/-- Change the claim for a lost device. -/
def Chip.mapClaim (c : Chip) (dev : Nat) (f : Claim → Claim) : Chip :=
  c.setRecov { c.recov with claims := c.recov.claims.map (fun (y : Claim) => if y.dev = dev then f y else y) }

/-- A spare is no longer free. -/
def Chip.noteBusy (c : Chip) (rank : Nat) : Chip := c.setRecov { c.recov with free := c.recov.free.filter (· != rank) }

/-! Heartbeats (R401). -/

/-- Devices with which this device exchanges heartbeats: its accepted partners, and the accepted sources that it hosts. -/
def Chip.heartPeers (c : Chip) : List Nat :=
  (c.acceptedPartners.map (fun i => c.partner i R.RES_PARTNER_DEVICE) ++
    ((upto 4).filter (fun j => c.on (.host j) R.HOST_SRC_VALID && c.on (.host j) R.HOST_SRC_ACCEPTED)).map
      (fun j => c.getF (.host j) R.HOST_SRC_SOURCE)).eraseDups

/-- HEARTBEAT_SEND (R401). -/
def Chip.heartbeatSend (c : Chip) : Chip :=
  forAll c.heartPeers c (fun c d => c.mgmtSend d MT_HEARTBEAT [c.getF .res R.RES_STATE_LEVEL, c.getF .res R.RES_SEAL_SEALED_STEP])

/-- HEARTBEAT (R401): the sender's level and seal, and that it is there. -/
def Chip.heartbeatRx (c : Chip) (src level sealed : Nat) : Chip :=
  let x := c.recov
  let c := { c with recov := { x with
    silent := x.silent.filter (· != src), declare := x.declare.filter (· != src), due := x.due.filter (· != src), told := x.told.erase src
    memberLevel := if c.isMember src then x.memberLevel.insert (rankOf src) (level % 4) else x.memberLevel
    memberSeal := if c.isMember src && level % 4 != 0 && x.restore.isNone then x.memberSeal.insert (rankOf src) sealed else x.memberSeal } }
  let c := match c.partnerNo src with
    | some i => if c.partner i R.RES_PARTNER_ACCEPTED = 0 then c else c.setPartner i R.RES_PARTNER_UP 1
    | none => c
  c.groupSeal.sealStep

/-- PARTNER_SILENT (R401, R402): no heartbeat from a device for 10 µs. -/
def Chip.partnerSilent (c : Chip) (dev : Nat) : Chip :=
  if !c.heartPeers.contains dev || c.recov.silent.contains dev then c
  else
    let c := { c with recov := { c.recov with silent := dev :: c.recov.silent } }
    let c := match c.partnerNo dev with
      | some i =>
        if c.partner i R.RES_PARTNER_ACCEPTED = 0 then c
        else (((c.setPartner i R.RES_PARTNER_UP 0).raise .res St.RES_PARTNER_LOST).addF .res R.RES_HB_MISSED 1).pldmEvent 259 dev
      | none => c
    let c := match c.hostNo dev with
      | some j =>
        let w := (c.newestSealed j).getD NO_STEP
        let c := forAll ((Config.partnersOf dev).filter (fun d => !c.isSelf d)) c (fun c d => c.mgmtSend d MT_SILENT [dev, w, 0])
        { c with recov := { c.recov with declare := dev :: c.recov.declare.filter (· != dev), due := c.recov.due.filter (· != dev) } }
      | none => c
    c.sealStep

/-! The rollback (R403, R404). -/

/-- No restorable snapshot: the group stays held (R404, R409). -/
def Chip.stateLost (c : Chip) : Chip := c.raise .res St.RES_STATE_LOST

/-- Begin the rollback of the protected partition to step `s` (R404 step 1). A fenced device stays as it is (R403). -/
def Chip.restoreBegin (c : Chip) (dev s : Nat) : Chip :=
  if c.getF .res R.RES_STATE_ROLE = 4 then c else
  let p := c.protPart
  let s' := match c.recov.restore with
    | some t => if c.recov.waiting then t else min s t
    | none => s
  let again := c.recov.restore.isSome
  let c := { c with recov := { c.recov with restore := some s' } }
  let c := c.setFs .res [(R.RES_LOST_DEVICE, dev), (R.RES_LOST_VALID, 1), (R.RES_LOST_STEP, s')]
  if again then c
  else
    let c := { c.setF .res R.RES_STATE_ROLE 3 with recov := { c.recov with waiting := false, early := false, restore := some s' } }
    (c.setPartRun p { c.partRun p with held := true }).partReset p

/-- Put a pair back to step `s` (R404 step 2). -/
def Chip.restorePair (c : Chip) (s i : Nat) : Chip :=
  let b := Blk.pair i
  let live := c.getF b R.PAIR_CFG_LIVE
  let step (x : Nat) : Nat := c.getF b (if x = 0 then R.PAIR_STEPS_STEP0 else R.PAIR_STEPS_STEP1)
  c.setFs b [(R.PAIR_CFG_LIVE, if step live ≤ s then live else 1 - live), (R.PAIR_CFG_WRITTEN, 0)]

/-- Write ZERO regions (R404 step 2). -/
def Chip.zeroRegions (c : Chip) (p : Nat) : Chip :=
  forAll ((c.partRun p).plan.filter (fun r => r.method == 3)) c (fun c r => c.mcZero r.base r.size)

/-- Put a queue back to its stage (R404 step 3). -/
def Chip.restoreQueue (c : Chip) (n : Nat) (q : QStage) : Chip :=
  let c := c.setQueue n {}
  (c.dropWaits (.wq n)).setFs (.wq n) [(R.WQ_RING_BASE, q.base), (R.WQ_RING_LOG2_ENTRIES, q.log2), (R.WQ_RING_ENABLE, q.enable),
    (R.WQ_CQ_RING_CQ_BASE, q.cqBase), (R.WQ_CQ_RING_CQ_LOG2, q.cqLog2), (R.WQ_CQ_RING_VECTOR, q.vector), (R.WQ_PROD, q.next),
    (R.WQ_CONS, q.next), (R.WQ_CONS_DONE, q.next), (R.WQ_CQ_PTR_CQ_TAIL, q.tail), (R.WQ_CQ_PTR_CQ_HEAD, q.head)]

/-- Steps 2 to 4 of a restore from a stage (R404): whether every cluster took the plan. -/
def Chip.restoreApply (c : Chip) (st : Stage) : Chip × Bool :=
  let p := c.protPart
  let c := forAll (c.pairs.filter (fun i => c.getF (.pair i) R.PAIR_CFG_PART == p)) c (fun c i => c.restorePair st.step i)
  let c := forAll (c.listedBases p) c (fun c e => c.setF (.sync e.1) R.SYNC_CFG_BASE 0)
  let c := forAll st.bases c (fun c e => c.setF (.sync e.1) R.SYNC_CFG_BASE e.2)
  let c := (c.countersToBase p).setF (.wqp p) R.WQP_STEP st.step
  let c := c.zeroRegions p
  let c := forAll ((queuesOf p).zip st.queues) c (fun c e => c.restoreQueue e.1 e.2)
  let c := c.newKey p
  if st.rseq = RS_IDLE then (c, true)
  else (c.clustersOf p).foldl (fun (x : Chip × Bool) cl =>
    let (c, code) := x.1.rseqLoad cl p st.plan
    (c, x.2 && code == COMP_OK)) (c, true)

/-- Step 5 of a restore: RESUME_GROUP has come (R404); one that comes before steps 1 to 4 have ended waits for them. `us` is the duration of the restore. -/
def Chip.resumeGroup (c : Chip) (us : Nat) : Chip :=
  match c.recov.restore with
  | none => c
  | some s =>
    if !c.recov.waiting || (c.recov.mending && !c.recov.repair.isEmpty) then { c with recov := { c.recov with early := true } }
    else
      let p := c.protPart
      let c := forAll (queuesOf p) c (fun c n => (c.cqWrite n COMP_RESTORED 0 (ringIdx (c.getF (.wq n) R.WQ_CONS)) (s % 2 ^ 32)).queueIrq n)
      let c := c.setPartRun p { c.partRun p with held := false }
      let c := { c with recov := { c.recov with restore := none, waiting := false, early := false, mending := false, reported := none, synced := false } }
      let c := (c.raise .res St.RES_RESTORED).addF .res R.RES_RESTORES 1
      let c := c.setFs .res [(R.RES_LAST_US, satNat 0xFFFFFFFF us), (R.RES_STATE_ROLE, if c.getF .res R.RES_STATE_ROLE = 4 then 4 else 0)]
      c.relevel.groupSeal.wqArmAll

/-! Local losses (R317, R407, R408). -/

/-- The partner on whose behalf this device declares its own loss: the first accepted partner that is up and holds a seal (R407). -/
def Chip.sealPartner (c : Chip) : Option Nat :=
  c.acceptedPartners.find? (fun i => c.partner i R.RES_PARTNER_UP != 0 && !(c.sealsOf i).isEmpty)

/-- The partners from which this device takes lost data: accepted, up, and holding the step of the restore sealed; without a restore only the static area
is read, which needs no seal (R407, R408). -/
def Chip.repairPartners (c : Chip) (s : Option Nat) : List Nat :=
  c.acceptedPartners.filter (fun i => c.partner i R.RES_PARTNER_UP != 0 && s.all (fun w => (c.sealsOf i).contains w))

/-- Offset in a cabinet of a physical byte of a restored region: a pair's live buffer when a step is restored, else a STATIC region. -/
def Chip.cabOffset (c : Chip) (s : Option Nat) (a : Nat) : Option Nat :=
  let l := c.devPlan
  let hit (e : Region × Nat) : Option Nat :=
    if e.1.method < 2 then
      match c.pairAt a, s with
      | some i, some s =>
        let lo := c.pairBase i + c.getF (.pair i) R.PAIR_CFG_LIVE * c.pairSize i
        if e.1.base = c.pairBase i ∧ lo ≤ a ∧ a < lo + c.pairSize i then
          some (slotOff l (s % 2) + regionOff l (fun r => decide (r.method < 2)) e.2 + (a - lo)) else none
      | _, _ => none
    else if e.1.method = 2 ∧ e.1.base ≤ a ∧ a < e.1.base + e.1.size then
      some (staticOff l + regionOff l (fun r => r.method == 2) e.2 + (a - e.1.base)) else none
  (l.zipIdx.filterMap hit).head?

/-- Rewrite data accesses of a lost range: `f` gives for each its bytes, or none to leave it for now (R317, R407). -/
def Chip.rewrite (c : Chip) (r : Nat × Nat × Nat) (f : Nat → Option (List Byte)) : Chip :=
  forAll (upto (r.2.2 + 1 - r.2.1)) c (fun c t => forAll (upto 7) c (fun c di =>
    match f (c.unmap r.1 (r.2.1 + t) di 0) with
    | some bs => c.storePhys ⟨r.1, r.2.1 + t, di, 0⟩ bs
    | none => c))

def isRepair : CabJob → Bool
  | .repair _ => true
  | _ => false

/-- Does an address lie in a lost range? -/
def Chip.inRange (c : Chip) (r : Nat × Nat × Nat) (a : Nat) : Bool :=
  let m := c.memMap a
  m.grp == r.1 && decide (r.2.1 ≤ m.stripe) && decide (m.stripe ≤ r.2.2)

/-- A lost range that no request still asks for has been rewritten whole: its marks are cleared (R317, R407). -/
def Chip.repairEnd (c : Chip) (r : Nat × Nat × Nat) : Chip :=
  let asks (x : FabReq) : Bool := match x.who with
    | .cab (.repair a) => c.inRange r a
    | _ => false
  if c.reqs.any asks then c
  else (c.setRecov { c.recov with repair := c.recov.repair.filter (· != r) }).clearMarks r.1 r.2.1 r.2.2

/-- Ask partner `i` for an access of a lost range (R407, R408). -/
def Chip.askRepair (c : Chip) (i a o : Nat) : Chip :=
  let dev := c.partner i R.RES_PARTNER_DEVICE
  (c.fabRequest 0 (.cab (.repair a)) none { opc := 1, vc := 2, dst := dev, src := 0, addr := (Config.cabBaseAt dev + o) % 2 ^ 48, len := 32 }).1

/-- Give back one lost range (R407, R408): what a partner's cabinet holds of it is asked for, the rest is written as zero. Its marks stay until the whole range has
been rewritten. A group that is out of service cannot be rewritten (R317). `s` is the step of a restore; without one only STATIC regions are asked
for. -/
def Chip.repairRange (c : Chip) (s : Option Nat) (r : Nat × Nat × Nat) : Chip :=
  if c.grpState r.1 == 5 then c.setRecov { c.recov with repair := c.recov.repair.filter (· != r) } else
  match c.repairPartners s with
  | [] => (c.rewrite r (fun _ => some (List.replicate 32 0))).repairEnd r
  | i :: _ =>
    let held := c.cabOffset s
    let c := c.rewrite r (fun a => if (held a).isSome then none else some (List.replicate 32 0))
    (forAll (upto (r.2.2 + 1 - r.2.1)) c (fun c t => forAll (upto 7) c (fun c di =>
      let a := c.unmap r.1 (r.2.1 + t) di 0
      match held a with
      | some o => c.askRepair i a o
      | none => c))).repairEnd r

/-- A member that has declared its own loss, restored, and given back what it lost lets the group go on (R407). -/
def Chip.repairPoll (c : Chip) (us : Nat) : Chip :=
  match c.recov.restore with
  | some s =>
    if !c.recov.mending || !c.recov.waiting || c.recov.repair.any (fun r => (c.groupsOf c.protPart).contains r.1) then c
    else (c.broadcast false MT_RESUME_GROUP [s]).resumeGroup us
  | none => c

/-- Every partition is reset, every queue held, and the device says nothing but heartbeats and management replies until power-on reset (R403). -/
def Chip.fenceSelf (c : Chip) : Chip :=
  let c := forAll (upto 16) c (fun c p => if c.partState p = PS_NONE then c else c.partReset p)
  (c.setF .res R.RES_STATE_ROLE 4).raise .res St.RES_SELF_FENCED

/-- The device cannot go on with its protected partition: LOST(self, s) on behalf of a partner, and the fence (R407, R458; log entry 67). -/
def Chip.selfLost (c : Chip) : Chip :=
  match c.sealPartner with
  | none => c.stateLost
  | some i => (c.broadcast true MT_LOST [c.deviceId, c.partner i R.RES_PARTNER_SEALED, c.partner i R.RES_PARTNER_DEVICE + 1]).fenceSelf

/-- The partition, or the cabinet (16), that owns a group. -/
def Chip.groupOwner (c : Chip) (g : Nat) : Option Nat :=
  match (upto 16).find? (fun p => (c.groupsOf p).contains g) with
  | some p => some p
  | none => if c.cabSet.contains g then some 16 else none

/-- Is a partition protected (R392, R415)? -/
def Chip.isProtected (c : Chip) (p : Nat) : Bool := c.on .res R.RES_CTRL_ENABLE && p == c.protPart

/-- Which slots of hosted cabinet `j` a lost range of stripes takes, bit k for slot k; both, where it takes bytes outside the slots (R408). -/
def Chip.slotsHit (c : Chip) (r : Nat × Nat × Nat) (j : Nat) : Nat :=
  let l := c.hostPlan j
  let n := pairBytes l + stageLen
  let hits (lo len : Nat) : Bool := (upto (r.2.2 + 1 - r.2.1)).any (fun t => overlaps (c.unmap r.1 (r.2.1 + t) 0 0) 224 lo len)
  let b := c.cabBase j
  if hits b (slotOff l 0) || hits (b + staticOff l) (staticBytes l) then 3
  else b2n (hits (b + slotOff l 0) n) + 2 * b2n (hits (b + slotOff l 1) n)

/-- Hosted cabinet `j` has lost slots: neither is sealed any more, the slot that was filling begins again, its DRAIN_END to come anew (R409), and
the source is told (R408). -/
def Chip.cabLoseSlots (c : Chip) (j slots : Nat) : Chip :=
  let c := forAll ((upto 2).filter (bit slots)) c (fun c k => c.markSlot j k NO_STEP)
  let c := if bit slots (c.getF (.host j) R.HOST_SRC_SLOT) && c.on (.host j) R.HOST_SRC_FILLING then
    { c with recov := { c.recov with drained := c.recov.drained.filter (· != j) } }.fillClear j else c
  c.mgmtSend (c.getF (.host j) R.HOST_SRC_SOURCE) MT_CAB_LOST [slots]

/-- One loss that the MC has been told of (R317, R407, R408). A cabinet's range is rewritten as zero, to be filled again by its source. -/
def Chip.lossOne (c : Chip) (r : Nat × Nat × Nat) : Chip :=
  let c := (c.raise .res St.RES_LOCAL_LOSS).pldmEvent 258 r.1
  match c.groupOwner r.1 with
  | none => c
  | some 16 =>
    let slots := (upto 4).map (fun j => (j, if c.on (.host j) R.HOST_SRC_ACCEPTED then c.slotsHit r j else 0))
    let c := if c.grpState r.1 == 5 then c else (c.rewrite r (fun _ => some (List.replicate 32 0))).clearMarks r.1 r.2.1 r.2.2
    forAll (slots.filter (fun e => e.2 != 0)) c (fun c e => c.cabLoseSlots e.1 e.2)
  | some p =>
    if c.isProtected p then
      match c.sealPartner with
      | none => c.stateLost
      | some i =>
        if c.grpState r.1 = 5 then c.selfLost
        else
          let s := c.partner i R.RES_PARTNER_SEALED
          let c := c.broadcast true MT_LOST [c.deviceId, s, 0]
          let c := { c with recov := { c.recov with repair := c.recov.repair ++ [r], mending := true, losts := ⟨c.deviceId, s, c.deviceId⟩ :: c.recov.losts } }
          let c := (c.raise .res St.RES_MEMBER_LOST).restoreBegin c.deviceId s
          if c.recov.waiting then c.repairRange c.recov.restore r else c
    else
      let c := c.partReset p
      let c := forAll (upto (c.ctxCount p)) c (fun c k => if (c.seqCtx p k).state = 0 then c else c.freeCtx p k)
      (c.setRecov { c.recov with repair := c.recov.repair ++ [r] }).repairRange none r

/-- LOCAL_LOSS_RECOVERY (R407, R408), and what lost checkpoints do to a plan (R62). A loss in a partition that R407 or R408 resets ends its plan by that
reset, before R62 would halt it with 0xF4 and COMP_MEM_LOST (DESIGN CHOICE: log entry 134). -/
def Chip.lossPoll (c : Chip) : Chip :=
  let l := c.losses
  if l.isEmpty then c
  else
    let c := forAll l { c with losses := [] } Chip.lossOne
    forAll (upto 32) c Chip.ckptLoss

/-! Lost devices (R402, R403, R405, R406, R409). -/

/-- Ask the next spare to stand in for a lost device (R405). -/
def Chip.claimSpare (c : Chip) (dev : Nat) : Chip :=
  match c.recov.claims.find? (fun x => x.dev == dev) with
  | none => c
  | some x =>
    let next := c.freeSpare x.tried
    let c := c.mapClaim dev (fun y => { y with spare := next, granted := false })
    let c := match next with
      | some r => c.mgmtSend (c.rankDev r) MT_SPARE_CLAIM [dev]
      | none => c
    c.setF .res R.RES_STATE_GROUP_LEVEL c.groupLevel

/-- What a member does on LOST(X, s) (R403, R409); a member that names itself, and is not fenced, stays in the group (R407). -/
def Chip.takeLost (c : Chip) (dev s from_ : Nat) (fenced : Bool) : Chip :=
  if c.recov.losts.any (fun x => x.dev == dev && x.step == s) then c
  else
    let stays := from_ == dev && !fenced
    let refused := if stays || c.recov.refused.contains dev then c.recov.refused else dev :: c.recov.refused
    let c := c.setRecov { c.recov with losts := ⟨dev, s, from_⟩ :: c.recov.losts, refused := refused }
    let c := c.raise .res St.RES_MEMBER_LOST
    let c := if stays then c else c.mgmtSend dev MT_FENCE [dev]
    if c.isMember c.deviceId then c.restoreBegin dev s else c

/-- The partner that stands for a lost source claims a spare for it (R405). -/
def Chip.openClaim (c : Chip) (dev s : Nat) : Chip :=
  if c.recov.claims.any (fun x => x.dev == dev) then c
  else
    let x : Claim := { dev := dev, step := s }
    (c.setRecov { c.recov with claims := c.recov.claims ++ [x] }).claimSpare dev

/-- What SILENT says when its sender is no accepted partner of the source (log entry 147). -/
def NO_PARTNER : Nat := NO_STEP + 1

/-- Declare a source lost once it has been silent for 20 µs and every accepted partner of it finds it silent: the partner that holds the greater sealed step does, or
the lower device ID (R402). With no sealed snapshot the LOST names no step, and the group stays held (R409; log entry 147). -/
def Chip.tryDeclare (c : Chip) (dev : Nat) : Chip :=
  match c.hostNo dev with
  | none => c
  | some j =>
    let others := (Config.partnersOf dev).filter (fun d => !c.isSelf d)
    let heard := c.recov.told.find? dev
    if !c.recov.declare.contains dev || !c.recov.due.contains dev || (!others.isEmpty && heard.isNone) then c
    else
      let c := { c with recov := { c.recov with declare := c.recov.declare.filter (· != dev), due := c.recov.due.filter (· != dev) } }
      let first := heard == some NO_PARTNER || others.all (fun d => decide (c.deviceId < d))
      let w := (c.newestSealed j).getD NO_STEP
      let win := match heard.filter (· < NO_STEP), c.newestSealed j with
        | some v, some w => decide (v < w) || (v == w && first)
        | some _, none => false
        | none, some _ => true
        | none, none => first
      if !win then c
      else
        let c := (c.broadcast true MT_LOST [dev, w, 0]).takeLost dev w c.deviceId true
        if w = NO_STEP then c.stateLost else c.openClaim dev w

/-- LOSS_DECLARE (R402): 20 µs after a source was found silent. -/
def Chip.lossDeclare (c : Chip) (dev : Nat) : Chip :=
  if !c.recov.declare.contains dev then c
  else ({ c with recov := { c.recov with due := dev :: c.recov.due.filter (· != dev) } }).tryDeclare dev

/-- SILENT from another partner of a source (R402). A device that is no accepted partner of the source says so, since the sender waits for accepted ones only
(log entry 147). -/
def Chip.silentRx (c : Chip) (src source w foreign : Nat) : Chip :=
  if (c.hostNo source).any (fun j => c.on (.host j) R.HOST_SRC_ACCEPTED) then
    ({ c with recov := { c.recov with told := c.recov.told.insert source (if foreign = 0 then w else NO_PARTNER) } }).tryDeclare source
  else if foreign = 0 then c.mgmtSend src MT_SILENT [source, NO_STEP, 1] else c

/-- The declaring partner of a loss that still waits for its spare is itself lost (R409): another partner that holds the sealed step loads from the
start; when none does, the state is lost. -/
def Chip.takeOver (c : Chip) (x : Lost) : Chip :=
  match c.hostNo x.dev with
  | some j => if [c.getF (.host j) R.HOST_SEALED_SEALED0, c.getF (.host j) R.HOST_SEALED_SEALED1].contains x.step then c.openClaim x.dev x.step
    else c.stateLost
  | none => if (Config.partnersOf x.dev).all (· == x.by_) then c.stateLost else c

/-- LOST from the fabric (R403, R409). A device that has fenced itself names the partner on whose behalf it speaks, which claims a spare for it (R407; log
entry 67). -/
def Chip.lostRx (c : Chip) (src dev s fenced : Nat) : Chip :=
  if c.isSelf dev || c.recov.losts.any (fun x => x.dev == dev && x.step == s) then c
  else
    let c := c.takeLost dev s (if fenced = 0 then src else fenced - 1) (fenced != 0)
    let left := c.recov.losts.filter (fun x => x.by_ == dev && x.dev != dev && c.recov.refused.contains x.dev)
    let c := if c.recov.refused.contains dev then forAll left c Chip.takeOver else c
    if fenced ≠ 0 ∧ c.isSelf (fenced - 1) ∧ (c.hostNo dev).any (fun j => (c.newestSealed j).isSome) then c.openClaim dev s else c

/-- FENCE (R403). -/
def Chip.fenceRx (c : Chip) (dev : Nat) : Chip := if c.isSelf dev && c.getF .res R.RES_STATE_ROLE != 4 then c.fenceSelf else c

/-! Spares (R405, R406, R409). -/

/-- SPARE_CLAIM at a spare: a free one grants, and so does one that loads for the same lost device, whose other partner now loads from the start
(R409). -/
def Chip.spareClaimRx (c : Chip) (src dev : Nat) : Chip :=
  let role := c.getF .res R.RES_STATE_ROLE
  if role = 1 ∨ (role = 2 ∧ (c.recov.load.map (·.2)) = some dev) then
    { c.setF .res R.RES_STATE_ROLE 2 with recov := { c.recov with load := some (src, dev) } }.mgmtSend src MT_SPARE_GRANT [dev]
  else c.mgmtSend src MT_SPARE_BUSY [dev]

/-- Write a hosted source's slot and static area into its spare, at the source's addresses (R405): pairs go into buffer 0. The stage of the slot, and the header
that lists the regions, go to a place of their own (log entry 141). -/
def Chip.loadSpare (c : Chip) (j dst w : Nat) : Chip :=
  let l := c.hostPlan j
  let send (c : Chip) (cab addr n : Nat) : Chip :=
    let (c, bs) := c.mcRead (c.cabBase j + cab) n
    forAll (cabPieces addr (n / 4096 + 2) bs) c (fun c x =>
      (c.fabRequest 0 (.cab .load) none { opc := 2, vc := 2, dst := dst, src := 0, addr := x.1 % 2 ^ 48, len := x.2.length, data := x.2 }).1)
  let dest := Config.loadPlace (c.getF (.host j) R.HOST_SRC_SOURCE)
  let c := send (send c 0 dest 4096) (slotOff l (w % 2) + pairBytes l) (dest + 4096) stageLen
  forAll l.zipIdx c (fun c e =>
    if e.1.method < 2 then send c (slotOff l (w % 2) + regionOff l (fun r => decide (r.method < 2)) e.2) e.1.base e.1.size
    else if e.1.method = 2 then send c (staticOff l + regionOff l (fun r => r.method == 2) e.2) e.1.base e.1.size
    else c)

/-- The spare that was asked cannot serve: the next is tried (R405, R409). -/
def Chip.spareOut (c : Chip) (dev rank : Nat) : Chip :=
  ((c.noteBusy rank).mapClaim dev (fun y => { y with tried := rank :: y.tried })).claimSpare dev

/-- SPARE_GRANT at the declaring partner; a spare to which no route is up has failed (R339, R409). -/
def Chip.spareGrantRx (c : Chip) (src dev : Nat) : Chip :=
  match c.recov.claims.find? (fun x => x.dev == dev && x.spare == some (rankOf src) && !x.granted), c.hostNo dev with
  | some x, some j =>
    let c := ((c.mapClaim dev (fun y => { y with granted := true })).noteBusy (rankOf src)).loadSpare j src x.step
    if c.reqs.any (fun r => r.who == Requester.cab .load && r.msg.dst == src && r.resp.isSome) then (c.cabDrop (· == .load)).spareOut dev (rankOf src) else c
  | _, _ => c

/-- SPARE_BUSY at the declaring partner. -/
def Chip.spareBusyRx (c : Chip) (src dev : Nat) : Chip :=
  if c.recov.claims.any (fun x => x.dev == dev && x.spare == some (rankOf src) && !x.granted) then c.spareOut dev (rankOf src) else c

/-- SPARE_FREE (R405, R409): the spare is free, and positions that wait claim again. -/
def Chip.spareFreeRx (c : Chip) (src : Nat) : Chip :=
  let r := rankOf src
  if !c.spareRanks.contains r then c else
  let claims := c.recov.claims.map (fun (y : Claim) => { y with tried := y.tried.filter (· != r) })
  let c := c.setRecov { c.recov with free := r :: c.recov.free.filter (· != r), claims := claims }
  (forAll ((c.recov.claims.filter (fun x => x.spare.isNone)).map (·.dev)) c Chip.claimSpare).relevel

/-- The spare has been loaded (R405, R406): it zeroes ZERO regions, applies the stage, takes the lost device's place and says so. `plan` and
`stage` must be what the partner has written of the cabinet's header and of the slot's stage. -/
def Chip.loadDoneHere (c : Chip) (plan stage : List Byte) : Chip :=
  match c.recov.load with
  | none => c
  | some (by_, dev) =>
    let at_ := Config.loadPlace dev
    if plan ≠ c.locBytes at_ 4096 ∨ stage ≠ c.locBytes (at_ + 4096) stageLen then c else
    let p := c.protPart
    let l := (Config.cabEntries plan).map (fun e => (⟨e.1, e.2.1, e.2.2⟩ : Region))
    let st := stageOfWords (Config.stageWords stage)
    let c := c.setPartRun p { c.partRun p with plan := l, held := true }
    let c := forAll ((l.filter (fun r => decide (r.method < 2))).take 16).zipIdx c (fun c e =>
      c.setFs (.pair e.2) [(R.PAIR_BASE, e.1.base / 4096), (R.PAIR_CFG_SIZE, e.1.size / 4096), (R.PAIR_CFG_METHOD, e.1.method),
        (R.PAIR_CFG_LIVE, 0), (R.PAIR_CFG_WRITTEN, 0), (R.PAIR_CFG_VALID, 1), (R.PAIR_CFG_PART, p), (R.PAIR_STEPS_STEP0, st.step),
        (R.PAIR_STEPS_STEP1, st.step)])
    let (c, ok) := c.restoreApply st
    let c := { c with stages := [st] }
    if !ok then c.stateLost
    else
      let c := c.mgmtSend by_ MT_LOAD_DONE [dev, st.step]
      let c := forAll ((c.memberRanks.map c.rankDev).filter (fun d => d != by_ && d != dev && !c.isSelf d)) c
        (fun c d => c.mgmtSend d MT_LOAD_DONE [dev, st.step])
      let c := c.setFs .res [(R.RES_STATE_ALIAS, dev), (R.RES_STATE_ALIAS_VALID, 1), (R.RES_STATE_ROLE, 3)]
      let c := forAll ((Config.partnersOf dev).take 2).zipIdx c (fun c e =>
        ((c.setPartner e.2 R.RES_PARTNER_DEVICE e.1).setPartner e.2 R.RES_PARTNER_CONFIGURED 1).setPartner e.2 R.RES_PARTNER_ACCEPTED 0)
      let c := forAll ((Config.hostsOf dev).take 4).zipIdx c (fun c e =>
        c.setFs (.host e.2) [(R.HOST_SRC_SOURCE, e.1.1), (R.HOST_SRC_VALID, 1), (R.HOST_SRC_ACCEPTED, 1), (R.HOST_SRC_FILLING, 0),
          (R.HOST_BASE_CAB_BASE, e.1.2.1), (R.HOST_SIZE_CAB_SIZE, e.1.2.2), (R.HOST_SEALED_SEALED0, NO_STEP),
          (R.HOST_SEALED_SEALED1, NO_STEP)])
      { c with recov := { c.recov with load := none, restore := some st.step, waiting := true, headers := [0, 1] } }

/-- Let the group go on once every member has adopted the spare (R406). -/
def Chip.adoptPoll (c : Chip) (dev us : Nat) : Chip :=
  match c.recov.claims.find? (fun x => x.dev == dev && x.granted) with
  | none => c
  | some x =>
    let need := c.memberRanks.filter (fun r => !c.isSelf (c.rankDev r) && c.rankDev r != dev)
    if need.all x.adopted.contains then
      let c := { c with recov := { c.recov with claims := c.recov.claims.filter (fun y => y.dev != dev) } }
      (c.broadcast false MT_RESUME_GROUP [x.step]).resumeGroup us
    else c

/-- LOAD_DONE from a spare (R406): the route to the lost device becomes the route to the spare, on every die, and the declaring partner is answered; that
partner itself lets the group go on when no other member has to answer. How long the restore took is a free value there. -/
def Chip.loadDoneRx (c : Chip) (src dev s : Nat) : Chip :=
  let c := forAll (upto 4) c (fun c d =>
    forAll Tbl.ROUTE c (fun c f => c.setF (.route d dev) f (c.getF (.route d src) f)))
  let c := { c with recov := { c.recov with gone := if c.recov.gone.contains (rankOf src) then c.recov.gone else rankOf src :: c.recov.gone } }
  match c.recov.losts.find? (fun x => x.dev == dev && x.step == s) with
  | none => c
  | some x => if c.isSelf x.by_ then c.tick.adoptPoll dev (Config.freeBits c.freeCtr 32 % 2 ^ 32) else c.mgmtSend x.by_ MT_ADOPTED [dev]

/-- ADOPTED (R403, R406): messages of the device are taken again; the declaring partner counts the members. -/
def Chip.adoptedRx (c : Chip) (src dev us : Nat) : Chip :=
  let c := c.setRecov { c.recov with refused := c.recov.refused.filter (· != dev) }
  (c.mapClaim dev (fun y => { y with adopted := if y.adopted.contains (rankOf src) then y.adopted else rankOf src :: y.adopted })).adoptPoll dev us

/-- RESUME_GROUP from the fabric (R404): the group is whole again. -/
def Chip.resumeGroupRx (c : Chip) (us : Nat) : Chip :=
  ({ c with recov := { c.recov with refused := [] } }).resumeGroup us

/-- SEALED from a partner (R394, R409): its slot w mod 2 now holds step w. -/
def Chip.sealedRx (c : Chip) (src w : Nat) : Chip :=
  match c.partnerNo src with
  | none => c
  | some i =>
    if c.recov.restore.isSome || c.partner i R.RES_PARTNER_ACCEPTED = 0 then c
    else
      ((c.setPartner i R.RES_PARTNER_SEALED w).setRecov { c.recov with
        seals := c.recov.seals.insert i (w :: (c.sealsOf i).filter (fun x => x % 2 != w % 2)) }).sealStep

/-- MEMBER_SEALED from a member (R394, R409). -/
def Chip.memberSealedRx (c : Chip) (src w : Nat) : Chip :=
  if c.recov.restore.isSome || !c.isMember src then c
  else ({ c with recov := { c.recov with memberSeal := c.recov.memberSeal.insert (rankOf src) w } }).groupSeal.relevel

/-- PART_RESET_DONE (R362, R404 steps 2 to 4). -/
def Chip.resetDone (c : Chip) (p us : Nat) : Chip :=
  let was := c.partState p == PS_RESETTING
  let c := c.partReady p
  match c.recov.restore with
  | some s =>
    if !was || p != c.protPart || c.recov.waiting || c.partState p == PS_RESETTING then c
    else match c.stages.find? (fun x => x.step == s) with
      | none => c.stateLost
      | some st =>
        let (c, ok) := c.restoreApply st
        if !ok then c.stateLost
        else
          let c := { c with recov := { c.recov with waiting := true } }
          let c := forAll (c.recov.repair.filter (fun r => (c.groupsOf p).contains r.1)) c (fun c r => c.repairRange (some s) r)
          if c.recov.early then c.resumeGroup us else c.repairPoll us
  | none => c

/-! Answers to the recovery unit's requests. -/

/-- A catch-up read has failed: one that failed in transport is made again on the next route, up to 4 times (R255, R396). -/
def Chip.catchupAgain (c : Chip) (r : FabReq) (j n : Nat) (code : Code) : Chip :=
  if code != COMP_LINK_DOWN || 4 ≤ r.resends then c
  else
    let (c, t) := c.fabRequest r.die (.cab (.catchup j n)) (c.routeAfter r.die r.msg.dst r.port) { r.msg with hops := 0 }
    { c with reqs := c.reqs.map (fun x => if x.msg.tag = t ∧ x.msg.opc = 1 then { x with resends := r.resends + 1 } else x) }

/-- A response to a request of the recovery unit has come, or the request has ended (R395-R398, R405, R407, R413). -/
def Chip.cabResponse (c : Chip) (r : FabReq) (job : CabJob) (code : Code) (bs : List Byte) : Chip :=
  let gone : Chip := { c with reqs := c.reqs.filter (fun x => !(x.msg.tag == r.msg.tag && x.msg.opc == r.msg.opc && x.msg.dst == r.msg.dst)) }
  let kept : Chip := { c with reqs := c.reqs.map (fun x =>
    if x.msg.tag = r.msg.tag ∧ x.msg.opc = r.msg.opc ∧ x.msg.dst = r.msg.dst then { x with resp := some (code, []) } else x) }
  let done := if code = COMP_OK then gone else kept
  match job with
  | .header => gone
  | .stage =>
    let left := done.reqs.any (fun x => x.who == Requester.cab .stage && x.msg.dst == r.msg.dst)
    match done.recov.drain with
    | some w => if left then done
      else (({ done with recov := { done.recov with drainDevs := r.msg.dst :: done.recov.drainDevs.erase r.msg.dst } }).mgmtSend r.msg.dst MT_WSTATE
        [w, stageLen]).drainTo r.msg.dst w
    | none => done
  | .drain => done
  | .static n => done.staticPoll n
  | .catchup j n =>
    if code != COMP_OK then gone.catchupAgain r j n code
    else match ridePlace (gone.hostPlan j) n with
      | some (_, o) =>
        let slot := gone.getF (.host j) R.HOST_SRC_SLOT
        ((gone.cabStore (gone.cabBase j + slotOff (gone.hostPlan j) slot + o) bs).lineSet j n).addF .res R.RES_CATCHUP_BYTES 128
      | none => gone
  | .load =>
    if code = COMP_OK then
      if gone.recov.claims.any (fun x => inside r.msg.addr r.msg.len (Config.loadPlace x.dev) 4096) then gone else gone.addF .res R.RES_LOAD_BYTES r.msg.len
    else match gone.recov.claims.find? (fun x => x.spare.map gone.rankDev == some r.msg.dst && x.granted) with
      | some x => (gone.cabDrop (fun j => j == .load)).spareOut x.dev (rankOf r.msg.dst)
      | none => gone
  | .repair a =>
    if code = COMP_OK then
      let c := forAll (gone.recov.repair.filter (fun x => gone.inRange x a)) (gone.storePhys (gone.memMap a) bs).tick Chip.repairEnd
      c.repairPoll (Config.freeBits gone.freeCtr 32 % 2 ^ 32)
    else match (gone.repairPartners gone.recov.restore).find? (fun i => gone.partner i R.RES_PARTNER_DEVICE != r.msg.dst), r.resends with
      | some i, 0 => match gone.cabOffset gone.recov.restore a with
        | some o =>
          let c := gone.askRepair i a o
          { c with reqs := c.reqs.map (fun x => if x.who == Requester.cab (.repair a) then { x with resends := 1 } else x) }
        | none => kept
      | _, _ => if kept.recov.mending then kept.stateLost else kept

end Sys2Proof.Machine
end

