-- ==== Sys2Proof/Machine/Jalfo.lean ====
section
/-! DEFINITION. Jalfo ports (R322-R343): training, flits, credits, replay and port failure; what a device does with each message that reaches it:
windows, mirror copies, remote increments, responses and transit. -/

namespace Sys2Proof.Machine

/-! Ports (R323, R324, R335, R338). -/

/-- May a port train: present, not a PCIe port, enabled, with the device ID valid (R323, R344)? -/
def Chip.mayTrain (c : Chip) (p : Nat) : Bool :=
  !c.portAbsent p && c.getF (.port p) R.PORT_STATE != 5 && c.on (.port p) R.PORT_CTRL_ENABLE && c.on (.jlk (portDie p)) R.JLK_CTRL_ID_VALID

/-- Mark a port up or down in JLK_PORT_UP of every die (R335, R338). -/
def Chip.markPort (c : Chip) (p : Nat) (up : Bool) : Chip :=
  forAll (upto 4) c (fun c d =>
    let v := c.getF (.jlk d) R.JLK_PORT_UP
    c.setF (.jlk d) R.JLK_PORT_UP (if bit v p == up then v else if up then v + 2 ^ p else v - 2 ^ p))

/-- Begin a training attempt (R323). -/
def Chip.trainStart (c : Chip) (p : Nat) : Chip :=
  if !c.mayTrain p then c else
    (c.setPort p {}).setFs (.port p) [(R.PORT_STATE, 1), (R.PORT_STATE_STEP, 1), (R.PORT_STATE_LANES, 0)]

/-- Refuse a request message with a code (R330, R339, R342): the answer goes to its source. -/
def Chip.refuseMsg (c : Chip) (d : Nat) (m : Msg) (code : Code) : Chip :=
  if m.opc == 1 || m.opc == 2 || m.opc == 8 then
    (c.fabSend d none { opc := 0x13, vc := 1, dst := m.src, src := c.deviceId, part := m.part, tag := m.tag, addr := code }).1
  else c

/-! Answers to this device's own requests (R330, R339, R340). -/

/-- Record a failed host request (R349). -/
def Chip.hostErr (c : Chip) (fn : Nat) (write : Bool) (off code : Nat) : Chip :=
  c.setFs .hbr [(R.HBR_ERR_CODE, code), (R.HBR_ERR_FUNCTION, fn), (R.HBR_ERR_WRITE, b2n write), (R.HBR_ERR_ADDR_OFFSET, off)]

/-- Completion status of PCI Express for a fabric code (R349): 0 successful, 1 Unsupported Request, 4 Completer Abort. -/
def pcieStatus (code : Code) : Nat :=
  if code = COMP_OK then 0
  else if code = COMP_WINDOW_DENIED ∨ code = COMP_ADDR_UNMAPPED ∨ code = COMP_MEM_DENIED then 1 else 4

/-- Answer a host read with a status; the length of its TLP is PCI Express's (log entry 60). -/
def Chip.hostComplete (c : Chip) (fn off code status : Nat) (bs : List Byte) : Chip :=
  let c := c.tlpTx
  let c := { c with out := c.out ++ [.completion fn status (if status = 0 then bs else [])] }
  if status = 0 then c
  else (c.raise .hbr (if status = 1 then St.HBR_UR_SENT else St.HBR_CA_SENT)).hostErr fn false off code

/-- The end of a host request in the fabric (R349). -/
def Chip.hostAnswer (c : Chip) (fn : Nat) (write : Bool) (off code : Nat) (bs : List Byte) : Chip :=
  if write then (if code = COMP_OK then c else (c.raise .hbr St.HBR_POSTED_ERR).hostErr fn true off code)
  else c.hostComplete fn off code (pcieStatus code) bs

/-- A request of this device ends with a code and data; `i` is its place. An increment that ends with COMP_LINK_DOWN is sent again up to 4 times
(R340). -/
def Chip.endRequest (c : Chip) (i : Nat) (code : Code) (bs : List Byte) : Chip :=
  match c.reqs[i]? with
  | none => c
  | some r =>
    let answered := { c with reqs := c.reqs.set i { r with resp := some (code, bs), retry := false } }
    let freed := ({ c with reqs := c.reqs.eraseIdx i }).syncRelease r.die r.msg.dst
    let resent (r : FabReq) : Chip × Bool :=
      let (c, r) := c.syncTry { r with resends := r.resends + 1 } (c.routeAfter r.die r.msg.dst r.port) (4 - r.resends)
      ({ c with reqs := c.reqs.set i r }, r.resp.isNone)
    match r.who with
    | .dma cl n serial s => c.dmaResponse cl n serial s r.msg.tag code bs
    | .cab job => c.cabResponse r job code bs
    | .ve _ _ => answered
    | .signal _ _ _ => if code = COMP_OK then freed else if code = COMP_LINK_DOWN ∧ r.resends < 4 then (resent r).1 else answered
    | .dropped => if code = COMP_LINK_DOWN ∧ r.resends < 4 ∧ (resent r).2 then (resent r).1 else freed
    | .host fn write off => { c with reqs := c.reqs.eraseIdx i }.hostAnswer fn write off code bs

/-- The place of the request that a response answers: its target, its tag and its opcode agree, and no response has come. A REFUSE or RETRY that
could name two is taken to answer the one that is not an increment (log entry 61). -/
def Chip.requestOf (c : Chip) (dev tag : Nat) (opc : Nat → Bool) : Option Nat :=
  let hit (sync : Bool) (r : FabReq) : Bool :=
    r.msg.dst == dev && r.msg.tag == tag && r.resp.isNone && opc r.msg.opc && ((r.msg.opc == 8) == sync)
  match findIdxFrom (hit false) 0 c.reqs with
  | some (i, _) => some i
  | none => (findIdxFrom (hit true) 0 c.reqs).map (·.1)

/-- End a request by its place after a while without an answer (R339): DMA channels time their own. -/
def Chip.respTimeout (c : Chip) (i : Nat) : Chip :=
  match c.reqs[i]? with
  | none => c
  | some r =>
    match r.who, r.resp with
    | .dma _ _ _ _, _ => c
    | _, some _ => c
    | _, none => (c.raise (.jlk r.die) St.JLK_RESP_TIMEOUT).endRequest i COMP_LINK_DOWN []

/-- RETRY_RESEND_TIMER (R339): 1 µs after a RETRY the request is sent again, a bulk segment's by its path (R254, R338); once 1 ms has passed it ends with COMP_TARGET_RESET. -/
def Chip.retryResend (c : Chip) (i : Nat) (expired : Bool) : Chip :=
  match c.reqs[i]? with
  | none => c
  | some r =>
    if !r.retry then c
    else if expired then c.endRequest i COMP_TARGET_RESET []
    else
      let c := { c with reqs := c.reqs.set i { r with retry := false } }
      let (c, k) := c.fabSend r.die (if r.msg.vc = 2 then r.port else none) { r.msg with hops := 0 }
      if k = COMP_OK then c else c.endRequest i k []

/-! Port failure (R335). -/

/-- The request messages whose headers a port holds: sent and not acknowledged, waiting to be sent, and received. -/
def JPort.requests (x : JPort) : List Msg :=
  ((x.sent.filter (fun f => f.typ == 1)).flatMap (fun f => (upto f.fill).map (fun i => msgOf ((f.payload.drop (16 * i)).take 16))) ++ x.txq ++ x.rx).filter
    (fun m => m.opc == 1 || m.opc == 2 || m.opc == 8)

/-- A request message is lost with its port: this device's own ends, any other is refused to its source (R335). -/
def Chip.loseMsg (c : Chip) (d : Nat) (m : Msg) : Chip :=
  if c.isSelf m.src then
    match c.requestOf m.dst m.tag (· == m.opc) with
    | some i => c.endRequest i COMP_LINK_DOWN []
    | none => c
  else c.refuseMsg d m COMP_LINK_DOWN

/-- Discard what a port holds and refuse the requests in it (R335 step 2). -/
def Chip.flushPort (c : Chip) (p : Nat) : Chip :=
  let l := (c.portOf p).requests
  forAll l (c.setPort p {}) (fun c m => c.loseMsg (portDie p) m)

/-- Declare a port down (R335): routes skip it, what it holds is refused, and it trains again. -/
def Chip.portDown (c : Chip) (p : Nat) : Chip :=
  if !c.portUp p then c
  else
    let c := (c.setFs (.port p) [(R.PORT_STATE, 4), (R.PORT_STATE_LANES, 0)]).markPort p false
    ((c.flushPort p).raise (.port p) St.PORT_PORT_DOWN).trainStart p

/-- PORT_ENABLE (R323). -/
def Chip.portEnable (c : Chip) (p : Nat) : Chip :=
  if c.portAbsent p then c.raise (.mgmt (portDie p)) St.MGMT_REG_UNMAPPED
  else
    let was := c.on (.port p) R.PORT_CTRL_ENABLE
    let c := c.setB (.port p) R.PORT_CTRL_ENABLE true
    if was && c.getF (.port p) R.PORT_STATE != 0 then c else c.trainStart p

/-- PORT_RETRAIN (R323): training starts again; an active port leaves its routes and discards what it holds. -/
def Chip.portRetrain (c : Chip) (p : Nat) : Chip :=
  if c.portAbsent p then c.raise (.mgmt (portDie p)) St.MGMT_REG_UNMAPPED
  else if !c.mayTrain p then c
  else
    let c := if c.portUp p then ((c.setF (.port p) R.PORT_STATE 1).markPort p false).flushPort p else c
    (c.setF (.port p) R.PORT_STATE_ATTEMPTS 0).trainStart p

/-- PORT_FORCE_DOWN (R335). -/
def Chip.portForceDown (c : Chip) (p : Nat) : Chip :=
  if c.portAbsent p then c.raise (.mgmt (portDie p)) St.MGMT_REG_UNMAPPED
  else (c.setB (.port p) R.PORT_CTRL_FORCE_DOWN true).portDown p

/-- Lanes set in an 8-bit mask. -/
def portLanes (m : Nat) : Nat := (bitsOf m 8).length

/-- PORT_TRAIN_COMPLETE (R323): `good` are the lanes that are good here; a lane that was excluded at the start is not used (R434), one that was dropped since
rejoins (R326). The port runs on the lanes good at both
ends, at least 7; `down` is how many microseconds it was down before. -/
def Chip.trainComplete (c : Chip) (p good down : Nat) : Chip :=
  match (c.portOf p).peerMask with
  | none => c
  | some peer =>
    let out := field c.lanesOut (8 * p) 8
    let m := (good &&& peer &&& (255 - out)) % 256
    if c.getF (.port p) R.PORT_STATE != 1 || portLanes m < 7 then c
    else
      let c := c.setPort p {}
      (c.setFs (.port p) [(R.PORT_STATE, if portLanes m = 8 then 2 else 3), (R.PORT_STATE_STEP, 6), (R.PORT_STATE_LANES, m),
        (R.PORT_STATE_ATTEMPTS, 0), (R.PORT_DOWN_US, c.getF (.port p) R.PORT_DOWN_US + down)]).markPort p true

/-- PORT_TRAIN_RETRY (R323, R324): an attempt has failed; 1 ms later the port tries again, until RETRAIN_MAX attempts have failed. -/
def Chip.trainRetry (c : Chip) (p : Nat) : Chip :=
  let x := c.portOf p
  let s := c.getF (.port p) R.PORT_STATE
  if !(s == 1 || (s == 4 && x.counted)) then c
  else
    let c := if x.counted then c else c.satF (.port p) R.PORT_STATE_ATTEMPTS 1
    if c.getF (.jlk (portDie p)) R.JLK_CTRL_RETRAIN_MAX ≤ c.getF (.port p) R.PORT_STATE_ATTEMPTS then
      ((c.setPort p {}).setF (.port p) R.PORT_STATE 4).raise (.port p) St.PORT_TRAIN_FAIL
    else c.trainStart p

/-! Lanes (R326). -/

/-- A lane leaves a port (R326, R433): the port runs on 7 lanes and the lane is recorded, or the port goes down when it was on 7 already. -/
def Chip.laneLeave (c : Chip) (p lane : Nat) : Chip :=
  let m := c.getF (.port p) R.PORT_STATE_LANES
  if !c.portUp p || !bit m lane then c
  else if c.getF (.port p) R.PORT_STATE = 3 then c.portDown p
  else
    let c := ((c.setFs (.port p) [(R.PORT_STATE, 3), (R.PORT_STATE_LANES, m - 2 ^ lane)]).raise (.port p) St.PORT_LANE_DROP).benchAppend 3 4 (8 * p + lane)
    let f := R.BOOT_BENCH_LANE_LANES
    c.setF (.boot (portDie p)) f (c.getF (.boot (portDie p)) f ||| 2 ^ (8 * (p % 6) + lane))

/-- LANE_ERROR_LIMIT_EXCEEDED (R326): this side names the lane in a LANE_DROP flit. -/
def Chip.laneError (c : Chip) (p lane word : Nat) : Chip :=
  if c.getF (.port p) R.PORT_STATE != 2 || !bit (c.getF (.port p) R.PORT_STATE_LANES) lane then c.laneLeave p lane
  else (c.emitFlit p 4 0 0 0 (List.replicate 8 0 ++ leBytes 1 lane ++ leBytes 1 word)).laneLeave p lane

/-! Flits (R327, R328, R331, R334). -/

/-- IDLE flits of a port that is up, as long as slots are left to be returned (R332). -/
def Chip.idleOut (c : Chip) (p : Nat) : Nat → Chip
  | 0 => c
  | fuel + 1 => if c.portUp p && (c.portOf p).credit.2 != 0 then (c.emitFlit p 0 0 0 0 []).idleOut p fuel else c

/-- A flit time in which a port has nothing else to send: an IDLE flit acknowledges what has come, and more return the slots that are free (R332). -/
def Chip.emitIdle (c : Chip) (p : Nat) : Chip := if c.portUp p then (c.emitFlit p 0 0 0 0 []).idleOut p 8 else c

/-- Resend every unacknowledged flit, oldest first (R334). -/
def Chip.replay (c : Chip) (p : Nat) : Chip :=
  let l := (c.portOf p).sent
  if l.isEmpty then c
  else
    let c := forAll l c (fun c f => c.emitFlit p f.typ f.seq f.vc f.fill f.payload)
    (c.raise (.port p) St.PORT_REPLAY).addF (.port p) R.PORT_REPLAY_FLITS l.length

/-- REPLAY_TIMEOUT (R334). -/
def Chip.replayTimeout (c : Chip) (p : Nat) : Chip := if c.portUp p then c.replay p else c

/-- A flit is lost or out of sequence: a NAK names the last good one, and flits are ignored until the next arrives (R334). -/
def Chip.flitLost (c : Chip) (p : Nat) : Chip :=
  let x := c.portOf p
  if x.nak then c else (c.setPort p { x with nak := true }).emitFlit p 3 0 0 0 []

/-- Take the acknowledgement and the credits of a flit (R327, R331). -/
def Chip.takeAck (c : Chip) (p header : Nat) : Chip :=
  let x := c.portOf p
  let ack := field header 16 12
  let acked := match findIdxFrom (fun (f : SentFlit) => f.seq == ack) 0 x.sent with
    | some (i, _) => if bit header 28 then i + 1 else 0
    | none => 0
  let vc := field header 29 3
  let use := x.use.insert vc (KMap.getD x.use vc 0 - field header 32 12)
  c.setPort p { x with sent := x.sent.drop acked, use := use }

/-- Slots of the receive buffer in use, by VC (R331). -/
def JPort.held (x : JPort) : KMap Nat :=
  (upto 8).foldl (fun m vc =>
    let n := (x.rx.filter (fun h => h.vc == vc)).length + (KMap.getD x.streams vc []).length / 16
    if n = 0 then m else m.insert vc n) []

/-- Is an opcode on a VC that R330 gives it? -/
def opcOnVc (m : Msg) : Bool :=
  match m.opc with
  | 0x01 => (m.vc == 0 && !m.mirror) || m.vc == 2
  | 0x02 => m.vc == 0 || m.vc == 2 || m.vc == 4
  | 0x08 => m.vc == 3
  | 0x10 => m.vc == 1
  | 0x11 => m.vc == 1
  | 0x12 => m.vc == 1
  | 0x13 => m.vc == 1
  | 0x14 => m.vc == 1
  | 0x30 => m.vc == 5
  | _ => false

/-- The oldest received message of each VC may be taken; the first that `f` picks, its data complete, with its place. -/
def JPort.ready (x : JPort) (f : Msg → Bool) : Option (Nat × Msg) :=
  ((upto 8).filterMap (fun vc => findIdxFrom (fun (m : Msg) => m.vc == vc) 0 x.rx)).find? (fun e =>
    f e.2 && decide (16 * e.2.units ≤ (KMap.getD x.streams e.2.vc []).length))

/-- Take the message at place `i` out of a port's receive buffer, with its data; its slots are free again (R328, R331). -/
def Chip.pullMsg (c : Chip) (p i : Nat) (h : Msg) : Chip × Msg :=
  let x := c.portOf p
  let s := KMap.getD x.streams h.vc []
  ((c.setPort p { x with rx := x.rx.eraseIdx i, streams := x.streams.insert h.vc (s.drop (16 * h.units)) }).freeSlots p h.vc h.slots,
   { h with data := ((s.take (16 * h.units)).drop (h.addr % 16)).take (if opcHasData h.opc then h.len else 0) })

/-- A message that carries a reserved opcode, or an opcode on the wrong VC, is refused, with its data (R330). -/
def Chip.dropBad (c : Chip) (p : Nat) : Nat → Chip
  | 0 => c
  | fuel + 1 => match (c.portOf p).ready (fun m => !opcOnVc m) with
    | none => c
    | some (i, h) =>
      let (c, m) := c.pullMsg p i h
      (((c.raise (.jlk (portDie p)) St.JLK_BAD_MSG).fabSend (portDie p) none
        { opc := 0x13, vc := 1, dst := m.src, src := c.deviceId, part := m.part, tag := m.tag, addr := COMP_LINK_DOWN }).1).dropBad p fuel

/-- Accept the payload of a flit that is next in sequence. -/
def Chip.acceptFlit (c : Chip) (p typ vc fill : Nat) (payload : List Byte) : Chip :=
  let x := c.portOf p
  let hs := if typ = 1 then (upto (min 15 fill)).map (fun i => msgOf ((payload.drop (16 * i)).take 16)) else []
  let streams := if typ = 2 then x.streams.insert vc (KMap.getD x.streams vc [] ++ payload.take (16 * min 15 fill)) else x.streams
  let c := (c.setPort p { x with rxSeq := (x.rxSeq + 1) % 4096, nak := false, rx := x.rx ++ hs, streams := streams }).addF
    (.port p) R.PORT_RX_FLITS 1
  if creditsHold (c.portOf p).held then c.dropBad p (c.portOf p).rx.length
  else (c.raise (.port p) St.PORT_CREDIT_ERR).portDown p

/-- Error reading of a lane of a port (R352). -/
def laneErrField (l : Nat) : Field := ⟨0x58, 8 * l, 8, .ro, 0, false⟩

/-- What the decoder has found on the way of a flit: corrected symbols, codewords that could not be corrected, and each lane's present error reading (R326, R352). -/
def Chip.fecNote (c : Chip) (p : Nat) (f : Fec) : Chip :=
  forAll (upto 8) ((c.addF (.port p) R.PORT_FEC_CORR f.corrected.toNat).addF (.port p) R.PORT_FEC_UNCORR f.uncorrected.toNat) (fun c l =>
    c.setF (.port p) (laneErrField l) (field f.lanes.toNat (8 * l) 8))

/-- What a device does with any received flit of type `typ`: FEC and CRC, then acknowledgement and credits, then `f` on its header and payload; replays and
NAKs go ahead of new flits, which are sent last (R332, R334). A flit whose CRC fails, or that touches a codeword that could not be corrected, is lost
(R325, R327, R334). -/
def Chip.rxFlit (c : Chip) (p typ : Nat) (bytes : List Byte) (fec : Fec) (f : Chip → Nat → Nat → List Byte → Chip) : Chip :=
  let c := if c.portUp p then c.fecNote p fec else c
  if bytes.length ≠ 256 ∨ !c.portUp p then c
  else if !fec.ok then c.flitLost p
  else if crc32 (bytes.take 252) ≠ recNat bytes 252 4 then (c.addF (.port p) R.PORT_CRC_ERR 1).flitLost p
  else
    let h := recNat bytes 0 8
    if 5 < field h 12 4 then c.flitLost p
    else if field h 12 4 ≠ typ then c
    else (f (c.takeAck p h) h (field (recNat bytes 248 8) 0 4) ((bytes.drop 8).take 240)).pumpPort p

/-- IDLE. -/
def Chip.idleFlit (c : Chip) (p : Nat) (b : List Byte) (fec : Fec) : Chip := c.rxFlit p 0 b fec (fun c _ _ _ => c)

/-- MSG and DATA flits are taken in sequence (R328, R334); flits sent in answer carry the acknowledgement, or else an IDLE flit does (R332). -/
def Chip.seqFlit (c : Chip) (p typ : Nat) (b : List Byte) (fec : Fec) : Chip :=
  let d := c.rxFlit p typ b fec (fun c h fill payload =>
    if field h 0 12 = (c.portOf p).rxSeq then c.acceptFlit p typ (field h 44 3) fill payload else c.flitLost p)
  if (d.portOf p).rxSeq = (c.portOf p).rxSeq || c.out.length < d.out.length then d else d.emitIdle p

/-- NAK (R334). -/
def Chip.nakFlit (c : Chip) (p : Nat) (b : List Byte) (fec : Fec) : Chip :=
  c.rxFlit p 3 b fec (fun c _ _ _ => (c.raise (.port p) St.PORT_NAK_RX).replay p)

/-- LANE_DROP (R326). -/
def Chip.laneDropFlit (c : Chip) (p : Nat) (b : List Byte) (fec : Fec) : Chip :=
  c.rxFlit p 4 b fec (fun c _ _ payload => c.laneLeave p (recNat payload 8 1 % 8))

/-- Send a PARAM flit (R323 step 5); `good` are the lanes good here, which stay those of this side's first PARAM flit of the attempt. -/
def Chip.sendParam (c : Chip) (p good : Nat) : Chip :=
  let x := c.portOf p
  let m := x.ownMask.getD good
  (c.setPort p { x with ownMask := some m }).emitFlit p 5 0 0 0 (Config.paramBytes (c.getF (.jlk (portDie p)) R.JLK_CTRL_DEVICE_ID) p m)

/-- A port in training goes on to its next step while no command comes; at step 5 it sends its parameters, with the lanes that it has found good, a free
value (R323; DESIGN CHOICE: log entry 145). -/
def Chip.trainTick (c : Chip) (p : Nat) : Chip :=
  let n := c.getF (.port p) R.PORT_STATE_STEP
  if c.getF (.port p) R.PORT_STATE != 1 || n = 0 || 5 ≤ n then c
  else
    let c := c.setF (.port p) R.PORT_STATE_STEP (n + 1)
    if n = 4 then c.tick.sendParam p (Config.freeBits c.freeCtr 8 % 256) else c

/-- What the module does while no command waits: ports in training go on, and the network delivers its flits. -/
def Chip.idle (c : Chip) : Chip := (forAll (upto 24) c Chip.trainTick).nocDrain

/-- PARAM (R323 step 5, R324): the peer is checked; this side's parameters are sent. `good` are the lanes good here. -/
def Chip.paramFlit (c : Chip) (p : Nat) (b : List Byte) (fec : Fec) (good : Nat) : Chip :=
  let h := recNat b 0 8
  let c := if c.getF (.port p) R.PORT_STATE = 1 then c.fecNote p fec else c
  if b.length ≠ 256 ∨ c.getF (.port p) R.PORT_STATE ≠ 1 then c
  else if !fec.ok then c
  else if crc32 (b.take 252) ≠ recNat b 252 4 then c.addF (.port p) R.PORT_CRC_ERR 1
  else if field h 12 4 ≠ 5 then c
  else
    let payload := (b.drop 8).take 240
    let dev := Config.paramField 0 payload % 4096
    let port := Config.paramField 1 payload % 32
    let x := c.portOf p
    let own := c.getF (.jlk (portDie p)) R.JLK_CTRL_DEVICE_ID
    let conflict := dev == own
    let mismatch := c.on (.port p) R.PORT_CTRL_EXPECT_VALID &&
      (dev != c.getF (.port p) R.PORT_CTRL_EXPECT_PEER || port != c.getF (.port p) R.PORT_CTRL_EXPECT_PORT)
    let c := c.setFs (.port p) [(R.PORT_STATE_STEP, 5), (R.PORT_STATE_PEER_ID, dev), (R.PORT_STATE_PEER_PORT, port)]
    if conflict || mismatch then
      let c := (c.raiseIf conflict (.port p) St.PORT_ID_CONFLICT).raiseIf mismatch (.port p) St.PORT_PEER_MISMATCH
      ((c.setPort p { x with counted := true }).setF (.port p) R.PORT_STATE 4).satF (.port p) R.PORT_STATE_ATTEMPTS 1
    else (c.setPort p { x with peerMask := some (Config.paramField 3 payload % 256) }).sendParam p good

/-! Taking messages (R328, R339). -/

/-- Forward a message of another device (R338, R339). -/
def Chip.transit (c : Chip) (d : Nat) (m : Msg) : Chip :=
  if m.hops = 7 then (c.raise (.jlk d) St.JLK_HOP_LIMIT).refuseMsg d m COMP_LINK_DOWN
  else
    let (c, code) := c.fabSend d none m
    if code = COMP_OK then c.addF (.jlk d) R.JLK_TRANSIT_FLITS (1 + m.chunks.length) else c.refuseMsg d m code

/-- A response goes from its port to the die of its request, a management message to the MC's (R283, R286). -/
def Chip.toSink (c : Chip) (p : Nat) (m : Msg) : Chip :=
  let d := if m.vc = 1 then ((c.reqs.find? (fun r => r.msg.tag == m.tag)).map (·.die)).getD (portDie p) else 0
  if m.vc = 1 || m.vc = 5 then c.nocCross (portDie p) d (nocToUnit d) m.vc m.nocFlits else c

/-- Take a message from a port and do `f` with it; one for another device goes on, and one from a device that is refused is refused (R403). The slots it
held are returned to its VC (R331). -/
def Chip.takeMsg (c : Chip) (p : Nat) (f : Msg → Bool) (g : Chip → Msg → Chip) : Chip :=
  match (c.portOf p).ready f with
  | none => c
  | some (i, h) =>
    let (c, m) := c.pullMsg p i h
    let c := c.dropBad p (c.portOf p).rx.length
    let c := if !c.isSelf m.dst then c.transit (portDie p) m
      else if c.recov.refused.contains m.src then c.refuseMsg (portDie p) m COMP_LINK_DOWN
      else g (c.toSink p m) m
    c.idleOut p 8

/-! Requests from other devices (R179, R341, R342). -/

/-- Does window `w` of a die admit a request (R341)? -/
def Chip.winAdmits (c : Chip) (d w : Nat) (m : Msg) : Bool :=
  let b := Blk.win d w
  let size := c.getF b R.WIN_CFG_SIZE
  let lo := c.getF b R.WIN_ADDR_BASE * 4096
  size != 0 &&
  (m.opc == 8 || inside m.addr m.len lo (size * 4096)) &&
  bit (c.getF b R.WIN_SRC_MEMBERS) (m.src % 64) && (c.on b R.WIN_CFG_ALL_GROUPS || c.getF b R.WIN_CFG_SRC_GROUP == m.src / 64) &&
  (match m.opc with
    | 1 => c.on b R.WIN_CFG_READ
    | 2 => c.on b R.WIN_CFG_WRITE
    | _ => c.on b R.WIN_CFG_SYNC) &&
  (!m.host || (c.on b R.WIN_CFG_HOST && (m.pf || (c.on b R.WIN_CFG_MATCH_PART && c.getF b R.WIN_CFG_PART == m.part))))

/-- Does an access respect the SRAM limits of R179? -/
def Chip.sramOk (c : Chip) (write : Bool) (a n : Nat) : Bool :=
  (probes a n).all (fun x => match placeOf x with
    | .scratch cl k o => decide (o < 0x280000 - c.cacheWays cl k * 0x10000)
    | .acc _ _ _ => !write
    | _ => true)

/-- How a request is answered: with data, with a code and the check of R342 that failed, or with a retry. -/
inductive Served where
  | ok (bytes : List Byte)
  | refuse (code reason : Nat)
  | retry
  deriving DecidableEq, Repr

/-- An increment that arrives is applied once (R340): the record of a source after sequence number `seq`, and whether it is new. -/
def SyncSeen.note (s : SyncSeen) (seq : Nat) : SyncSeen × Bool :=
  let ahead := (seq + 16384 - s.newest) % 16384
  let behind := (s.newest + 16384 - seq) % 16384
  if ahead = 0 then (s, false)
  else if ahead < 8192 then (⟨seq, (s.map <<< ahead) % 2 ^ 64 ||| 1⟩, true)
  else if 64 ≤ behind || bit s.map behind then (s, false)
  else ({ s with map := s.map ||| 2 ^ behind }, true)

/-- Admit a remote increment on a counter's die (R281, R340). -/
def Chip.syncAdmit (c : Chip) (d part : Nat) (m : Msg) : Chip :=
  let i := c.syncIndex part (m.addr % 2 ^ 14)
  let k := (m.src * 4 + m.tag / 2 ^ 14) * 4 + i / 4096
  let (s, new) := match KMap.find? c.syncRx k with
    | some s => s.note (m.tag % 2 ^ 14)
    | none => (⟨m.tag % 2 ^ 14, 1⟩, true)
  let c := { c with syncRx := c.syncRx.insert k s }
  let c := c.nocCross d (i / 4096) (nocToUnit (i / 4096)) 3 1
  if new then (c.syncAdd i (m.addr / 2 ^ 16 % 2 ^ 32) m.src m.part).addF (.syncd (i / 4096)) R.SYNCD_REMOTE_IN 1
  else c.raise (.jlk (i / 4096)) St.JLK_SYNC_DUP

/-- A request that no window admits, or that is refused in the same way: WIN_DENIED, and REMOTE_DENIED for an increment (R179, R281, R341). -/
def Chip.winDenied (c : Chip) (d : Nat) (m : Msg) : Chip :=
  let c := c.raise (.jlk d) St.JLK_WIN_DENIED
  if m.opc = 8 then (c.raise (.syncd d) St.SYNCD_REMOTE_DENIED).syncErr d (m.addr % 2 ^ 14) m.src m.part else c

/-- Does an access name a sync counter's registers, which another device can neither read nor set (R281; DEDUCED: log entry 146)? -/
def namesCounter (a n : Nat) : Bool :=
  (probes a n).any (fun x => match placeOf x with
    | .regs _ off => decide (0x2000000 ≤ off) && decide (off < 0x2010000)
    | _ => false)

/-- Perform a request that reaches this device, in the order of R342. -/
def Chip.serve (c : Chip) (io : RegIo) (d : Nat) (m : Msg) : Chip × Served :=
  if c.on .layout R.LAYOUT_SWITCHING then (c, .retry)
  else match (upto 256).find? (fun w => c.winAdmits d w m) with
  | none => (c.winDenied d m, .refuse COMP_WINDOW_DENIED 1)
  | some w =>
    let part := c.getF (.win d w) R.WIN_CFG_PART
    let c := (c.addF (.jlk d) R.JLK_WIN_ADMITS 1).addF (.win d w) R.WIN_HITS 1
    if m.opc != 8 && !c.isSelf m.src && namesCounter m.addr m.len then (c.winDenied d m, .refuse COMP_WINDOW_DENIED 2)
    else if m.opc != 8 && !c.sramOk (m.opc == 2) m.addr m.len then (c.winDenied d m, .refuse COMP_WINDOW_DENIED 2)
    else if c.partState part == PS_RESETTING then (c, .retry)
    else if m.opc = 8 then
      let n := m.addr % 2 ^ 14
      if c.syncRange part ≤ n then (c.syncRangeErr d m.src m.part n, .refuse COMP_SYNC_RANGE 6)
      else (c.syncAdmit d part m, .ok [])
    else
      let ag : Agent := ⟨some part, d⟩
      let reason (code : Code) : Nat := if code = COMP_ADDR_UNMAPPED then 4 else if code = COMP_MEM_DENIED then 5 else 7
      if m.opc = 1 then
        let (c, code, bs) := c.agentReadIo io ag m.addr m.len
        if code = COMP_OK then (c, .ok bs) else (c, .refuse code (reason code))
      else
        let (c, code) := c.agentWriteIo io ag m.addr (ones m.len) (m.data.take m.len)
        if code = COMP_OK then (c, .ok []) else (c, .refuse code (reason code))

/-- Record a refused request (JLK_WIN_ERR, R342). -/
def Chip.winErr (c : Chip) (d : Nat) (m : Msg) (reason : Nat) : Chip :=
  c.setFs (.jlk d) [(R.JLK_WIN_ERR_SOURCE, m.src), (R.JLK_WIN_ERR_PART, m.part), (R.JLK_WIN_ERR_REASON, reason),
    (R.JLK_WIN_ERR_ADDR_ADDR, m.addr)]

/-- Answer a request with the response that its opcode has (R330). -/
def Chip.reply (c : Chip) (d : Nat) (m : Msg) (s : Served) : Chip :=
  let r : Msg := { opc := 0x14, vc := 1, dst := m.src, src := c.deviceId, part := m.part, tag := m.tag }
  match s with
  | .retry => (c.fabSend d none r).1
  | .refuse code reason => (((c.winErr d m reason)).fabSend d none { r with opc := 0x13, addr := code }).1
  | .ok bs =>
    if m.opc = 1 then (c.fabSend d none { r with opc := 0x10, mirror := m.mirror, addr := if m.mirror then m.addr else 0, len := m.len, data := bs }).1
    else if m.opc = 2 then (c.fabSend d none { r with opc := 0x11 }).1
    else (c.fabSend d none { r with opc := 0x12 }).1

/-- A request that reaches a device in service; a fenced device answers nothing (R403), and a spare that is loading takes only the writes of
the partner that loads it (R405). -/
def Chip.serveMsg (c : Chip) (io : RegIo) (d : Nat) (m : Msg) : Chip :=
  let c := if m.opc = 8 then c else c.nocCross d (c.dieOf m.addr) (nocToUnit (c.dieOf m.addr)) m.vc m.nocFlits
  if c.getF .res R.RES_STATE_ROLE = 4 then c
  else if c.getF .res R.RES_STATE_ROLE = 2 then
    if m.opc = 2 ∧ m.vc = 2 ∧ c.recov.load.map (·.1) = some m.src ∧ isLpddr m.addr then
      let (c, code) := c.agentWrite ⟨none, d⟩ m.addr (ones m.len) (m.data.take m.len)
      c.reply d m (if code = COMP_OK then .ok [] else .refuse code 4)
    else (c.winDenied d m).reply d m (.refuse COMP_WINDOW_DENIED 1)
  else
    let (c, s) := c.serve io d m
    c.reply d m s

/-- Does a session hold a request of a port: it waits in its VC (R311)? -/
def Chip.msgHeld (c : Chip) (m : Msg) : Bool := c.isSelf m.dst && c.heldAt m.addr m.len

/-- RD (R342). -/
def Chip.rdMsg (c : Chip) (io : RegIo) (p : Nat) : Chip := c.takeMsg p (fun m => m.opc == 1 && !c.msgHeld m) (fun c m => c.serveMsg io (portDie p) m)

/-- WR (R342, R399): on VC 4 only into a hosted cabinet. -/
def Chip.wrMsg (c : Chip) (io : RegIo) (p : Nat) : Chip :=
  c.takeMsg p (fun m => m.opc == 2 && !c.msgHeld m) (fun c m =>
    let d := portDie p
    if m.vc != 4 then c.serveMsg io d m
    else if c.on .layout R.LAYOUT_SWITCHING then c.reply d m .retry
    else match c.cabAdmits m with
      | some j => (c.cabAccept j m).reply d m (.ok [])
      | none => (c.raise (.jlk d) St.JLK_WIN_DENIED).reply d m (.refuse COMP_WINDOW_DENIED 1))

/-- SYNC_INC (R340). -/
def Chip.syncIncMsg (c : Chip) (p : Nat) : Chip := c.takeMsg p (fun m => m.opc == 8) (fun c m => c.serveMsg plainIo (portDie p) m)

/-! Responses (R330, R343). -/

/-- Copy gathered data into the cabinet of its source (R343, R395). -/
def Chip.mirrorCopy (c : Chip) (d : Nat) (m : Msg) : Chip :=
  let hits := (upto 4).filterMap (fun e =>
    let b := Blk.mir d e
    let lo := max m.addr (c.getF b R.MIR_LO)
    let hi := min (m.addr + m.len) (c.getF b R.MIR_HI)
    if c.on b R.MIR_SRC_VALID && c.getF b R.MIR_SRC_DEVICE == m.src && decide (lo < hi) then some (e, lo, hi) else none)
  let covered := (upto m.len).filter (fun i => hits.any (fun h => decide (h.2.1 ≤ m.addr + i) && decide (m.addr + i < h.2.2)))
  let c := c.addF (.jlk d) R.JLK_MIRROR_MISS (m.len - covered.length)
  forAll hits c (fun c h =>
    let n := h.2.2 - h.2.1
    match c.mirrorPlace d h.1 h.2.1 with
    | none => c.addF (.jlk d) R.JLK_MIRROR_MISS n
    | some dst =>
      let (c, code) := c.agentWrite ⟨none, d⟩ dst (ones n) ((m.data.drop (h.2.1 - m.addr)).take n)
      if code = COMP_OK then (c.addF (.jlk d) R.JLK_MIRROR_BYTES n).fillMark h.1 h.2.1 n dst
      else (c.raise (.jlk d) St.JLK_MIRROR_FAIL).winErr d { m with addr := h.2.1 } 8)

/-- RD_DATA (R330, R343). -/
def Chip.rdDataMsg (c : Chip) (p : Nat) : Chip :=
  c.takeMsg p (fun m => m.opc == 0x10) (fun c m =>
    let c := if m.mirror then c.mirrorCopy (portDie p) m else c
    match c.requestOf m.src m.tag (· == 1) with
    | some i => c.endRequest i COMP_OK (m.data.take m.len)
    | none => c)

/-- WR_ACK. -/
def Chip.wrAckMsg (c : Chip) (p : Nat) : Chip :=
  c.takeMsg p (fun m => m.opc == 0x11) (fun c m => match c.requestOf m.src m.tag (· == 2) with
    | some i => c.endRequest i COMP_OK []
    | none => c)

/-- SYNC_ACK (R340). -/
def Chip.syncAckMsg (c : Chip) (p : Nat) : Chip :=
  c.takeMsg p (fun m => m.opc == 0x12) (fun c m => match c.requestOf m.src m.tag (· == 8) with
    | some i => c.endRequest i COMP_OK []
    | none => c)

/-- REFUSE (R330): the request ends with its code. -/
def Chip.refuseRx (c : Chip) (p : Nat) : Chip :=
  c.takeMsg p (fun m => m.opc == 0x13) (fun c m => match c.requestOf m.src m.tag (fun _ => true) with
    | some i => c.endRequest i (m.addr % 65536) []
    | none => c)

/-- RETRY (R339): the request is to be sent again after 1 µs. -/
def Chip.retryMsg (c : Chip) (p : Nat) : Chip :=
  c.takeMsg p (fun m => m.opc == 0x14) (fun c m => match c.requestOf m.src m.tag (fun _ => true) with
    | some i => match c.reqs[i]? with
      | some r => { c with reqs := c.reqs.set i { r with retry := true } }
      | none => c
    | none => c)

/-! Management messages (R330, R412). -/

/-- Take a management message of a type from a port. -/
def Chip.mgmtMsg (c : Chip) (p typ : Nat) (f : Chip → Nat → (Nat → Nat) → Chip) : Chip :=
  c.takeMsg p (fun m => m.opc == 0x30 && m.addr % 65536 == typ) (fun c m =>
    f c m.src (fun i => Config.mgmtField typ i m.data))

end Sys2Proof.Machine
end

