-- ==== Sys2Proof/Machine/Host.lean ====
section
/-! DEFINITION. The host bridge (R344-R350, R419): the PCIe link, configuration requests, aperture requests and function resets. -/

namespace Sys2Proof.Machine

/-- Does the module act as the bridge device: its strap says so and the bridge has power (R344, R417)? -/
def Chip.bridgeUp (c : Chip) : Bool := c.on .hbr R.HBR_CTRL_ENABLE && bit (c.getF .pwr R.PWR_DOMAINS_ON) 60

/-- Is the PCIe link active? -/
def Chip.linkUp (c : Chip) : Bool := c.bridgeUp && c.on .hbr R.HBR_STATE_DL_ACTIVE

/-- Has bring-up ended (R418)? -/
def Chip.bootEnded (c : Chip) : Bool := c.getF (.boot 0) R.BOOT_STATE_STAGE == 10

/-- LTSSM shows a training state, whose numbers are not given (log entry 60). -/
def Chip.ltssm (c : Chip) : Chip := c.tick.setF .hbr R.HBR_STATE_LTSSM (Config.freeBits c.freeCtr 6)

/-- Functions lose their configuration space and MSI-X state, and the aperture table its entries (R350, R354); host requests in the fabric have
nobody to answer to. -/
def Chip.pcieReset (c : Chip) : Chip :=
  let c := { c with hostFns := [], reqs := c.reqs.filter (fun r => match r.who with | .host _ _ _ => false | _ => true) }
  let c := forAll (upto 128) c (fun c i => if c.getF (.apt i) R.APT_VALID = 0 ∧ c.getF (.apt i) R.APT_LOCAL = 0 ∧ c.getF (.apt i) R.APT_DEVICE = 0 ∧
      c.getF (.apt i) R.APT_READ = 0 ∧ c.getF (.apt i) R.APT_WRITE = 0 then c
    else c.setFs (.apt i) (Tbl.APT.map (fun f => (f, 0))))
  c.setF .hbr R.HBR_STATE_NUM_VFS 0

/-- PERST_RELEASE (R346). -/
def Chip.perstRelease (c : Chip) : Chip :=
  if !c.perst then c
  else
    let c := { c with perst := false }
    if c.bridgeUp then c.ltssm else c

/-- The link goes down (R350). -/
def Chip.pcieLinkDown (c : Chip) : Chip :=
  if !c.on .hbr R.HBR_STATE_DL_ACTIVE then c
  else ((c.pcieReset.setF .hbr R.HBR_STATE_DL_ACTIVE 0).raise .hbr St.HBR_LINK_DOWN).ltssm

/-- PERST_ASSERT (R419): the host bridge's PCIe state is reset; bring-up goes on. -/
def Chip.perstAssert (c : Chip) : Chip :=
  if c.perst then c
  else
    let c := { c with perst := true }
    if c.bridgeUp then (c.pcieLinkDown.pcieReset).setB .hbr R.HBR_STATE_RRS (!c.bootEnded) else c

/-- RRS_TIMEOUT (R346 step 4). -/
def Chip.rrsTimeout (c : Chip) : Chip :=
  if !c.bridgeUp || c.perst || c.bootEnded || !c.on .hbr R.HBR_STATE_RRS then c
  else (c.setF .hbr R.HBR_STATE_RRS 0).raise .hbr St.HBR_RRS_TIMEOUT

/-- PCIE_LINK_UP (R345, R346): 16 or 8 lanes, speed 1 to 6. -/
def Chip.pcieLinkUp (c : Chip) (wide : Bool) (speed : Nat) : Chip :=
  if !c.bridgeUp || c.perst || c.on .hbr R.HBR_STATE_DL_ACTIVE then c
  else (c.setFs .hbr [(R.HBR_STATE_WIDTH, if wide then 16 else 8), (R.HBR_STATE_SPEED, speed), (R.HBR_STATE_DL_ACTIVE, 1)]).ltssm

/-- PCIE_HOT_RESET (R350). -/
def Chip.pcieHotReset (c : Chip) : Chip := if c.linkUp then c.pcieReset.ltssm else c

/-- Is function `fn` there: 0 the PF, n + 1 the VF n that the host has enabled (R347, R354)? -/
def Chip.fnThere (c : Chip) (fn : Nat) : Bool := fn == 0 || decide (fn ≤ c.getF .hbr R.HBR_STATE_NUM_VFS)

/-- Capabilities of a function (R347) by their PCI Express identities (PRESUMED: log entry 60), extended ones from 0x10000: Power Management, PCI
Express and MSI-X; AER, serial number, ARI, DVSEC, Data Link Feature, Physical Layer 16.0, Lane Margining, Physical Layer 32.0 and 64.0, Flit Logging;
SR-IOV in the PF. -/
def pcieCaps (fn : Nat) : List Nat :=
  [0x01, 0x10, 0x11, 0x10001, 0x10003, 0x1000E, 0x10023, 0x10025, 0x10026, 0x10027, 0x1002A, 0x10031, 0x10032] ++ (if fn = 0 then [0x10010] else [])

/-- Is a dword the `i`-th of a capability of the function? -/
def capDword (fn cap i dword : Nat) : Bool := (pcieCaps fn).contains cap && dword == Config.pcieCapAt fn cap + i

/-- HBR_STATE as it reads, which the DVSEC mirrors. -/
def Chip.hbrState (c : Chip) : Nat := c.storedWord .hbr (Blk.hbr.base + R.HBR_STATE_LTSSM.off)

/-- Dwords whose value R347 fixes, whatever the host has written: identity and class; TotalVFs, the VFs enabled, VF offset and stride, the VF Device
ID; the module serial; the DVSEC's mirror of HBR_STATE; the power state. -/
def Chip.cfgFixed (c : Chip) (fn dword : Nat) : Option Nat :=
  let raw := KMap.getD (c.hostFn fn).cfg dword (Config.pcieConfig fn dword).toNat
  if dword = 0 then some (Config.vendorId.toNat + (if fn = 0 then 0x0900 else 0x0901) * 2 ^ 16)
  else if dword = 2 then some (0x120000 * 256 + (Config.pcieConfig fn 2).toNat % 256)
  else if capDword fn 0x10010 3 dword then some (16 + 16 * 2 ^ 16)
  else if capDword fn 0x10010 4 dword then some (c.getF .hbr R.HBR_STATE_NUM_VFS + raw / 2 ^ 16 % 2 ^ 16 * 2 ^ 16)
  else if capDword fn 0x10010 5 dword then some (1 + 2 ^ 16)
  else if capDword fn 0x10010 6 dword then some (raw % 2 ^ 16 + 0x0901 * 2 ^ 16)
  else if capDword fn 0x10003 1 dword then some (c.getF (.boot 0) R.BOOT_SERIAL % 2 ^ 32)
  else if capDword fn 0x10003 2 dword then some (c.getF (.boot 0) R.BOOT_SERIAL / 2 ^ 32)
  else if capDword fn 0x10023 3 dword then some (c.hbrState % 2 ^ 32)
  else if capDword fn 0x10023 4 dword then some (c.hbrState / 2 ^ 32)
  else if capDword fn 0x01 1 dword then some (raw / 4 * 4 + (if (c.hostFn fn).d3hot then 3 else 0))
  else match (pcieCaps fn).find? (fun cap => capDword fn cap 0 dword) with
    | some cap => if cap < 0x10000 then some ((Config.pcieConfig fn dword).toNat / 256 * 256 + cap)
      else some ((Config.pcieConfig fn dword).toNat / 2 ^ 16 * 2 ^ 16 + cap % 2 ^ 16)
    | none => none

/-- A dword of a function's configuration space (R347); what R347 does not fix is PCI Express's (log entry 60). -/
def Chip.cfgRead (c : Chip) (fn dword : Nat) : Nat :=
  (c.cfgFixed fn dword).getD (KMap.getD (c.hostFn fn).cfg dword (Config.pcieConfig fn dword).toNat)

/-- What a configuration write leaves in its function: the bits that can be written, and the power state D0 or D3hot (R345). -/
def Chip.cfgWrite (c : Chip) (fn dword value : Nat) : Chip :=
  let x := c.hostFn fn
  let m := (Config.pcieWritable fn dword).toNat
  let old := KMap.getD x.cfg dword (Config.pcieConfig fn dword).toNat
  let d3 := if capDword fn 0x01 1 dword then (if value % 4 = 3 then true else if value % 4 = 0 then false else x.d3hot) else x.d3hot
  (c.setHostFn fn { x with cfg := x.cfg.insert dword ((value &&& m) ||| (old &&& (2 ^ 32 - 1 - m))), d3hot := d3 }).msixPoll fn

/-- PCIE_CONFIG_REQUEST (R346): retry status (2) while RRS reads 1; a write to the SR-IOV capability may set the VFs enabled. -/
def Chip.pcieConfig (c : Chip) (fn : Nat) (write : Bool) (dword value : Nat) (vfs : Option Nat) : Chip :=
  let answer (c : Chip) (status : Nat) (bs : List Byte) : Chip := let c := c.tlpTx; { c with out := c.out ++ [.completion fn status bs] }
  if !c.linkUp then c
  else if c.on .hbr R.HBR_STATE_RRS then answer c.tlpRx 2 []
  else if !c.fnThere fn then answer c.tlpRx 1 []
  else if !write then answer c.tlpRx 0 (leBytes 4 (c.cfgRead fn dword))
  else
    let c := c.tlpRx.cfgWrite fn dword value
    let c := match vfs with
      | some n => if fn = 0 then c.setF .hbr R.HBR_STATE_NUM_VFS n else c
      | none => c
    answer c 0 []

/-! Aperture requests (R349). -/

/-- The aperture page of a BAR2 offset (R348). -/
def aptPage (fn off : Nat) : Option Nat :=
  let i := off / 2 ^ 30
  if fn = 0 then (if i < 64 then some i else none) else if i < 4 then some (60 + 4 * fn + i) else none

/-- A host request to this device itself passes its own windows (R27, R349). One that a session holds waits as one that is to be sent again does (R311). -/
def Chip.hostServe (c : Chip) (io : RegIo) (m : Msg) (fn : Nat) (write : Bool) (off : Nat) : Chip :=
  match if c.heldAt m.addr m.len then (c, .retry) else c.serve io 0 m with
  | (c, .ok bs) => c.hostAnswer fn write off COMP_OK bs
  | (c, .refuse code reason) => (c.winErr 0 m reason).hostAnswer fn write off code []
  | (c, .retry) => { c with reqs := c.reqs ++ [{ die := 0, msg := m, who := .host fn write off, retry := true }] }

/-- The fields of a host's request message (R349). -/
def hostMsg (fn dev addr len : Nat) (write : Bool) (bs : List Byte) : Msg :=
  { opc := if write then 2 else 1, vc := 0, host := true, pf := fn == 0, part := if fn = 0 then 0 else fn - 1, dst := dev, src := 0,
    addr := addr, len := len, data := bs }

/-- A TLP to an aperture page, within a 4 KiB boundary: a read of up to 4 KiB, a write of up to the Max Payload Size, 512 bytes (R345, R349). A function
in D3hot takes it as one to an invalid page. -/
def Chip.hostRequest (c : Chip) (io : RegIo) (fn : Nat) (write : Bool) (off len : Nat) (bs : List Byte) : Chip :=
  if !c.linkUp || !c.fnThere fn || len = 0 || 4096 < off % 4096 + len || (write && decide (512 < len)) then c
  else match aptPage fn off with
  | none => c
  | some i =>
    let c := c.tlpRx
    let dev := c.getF (.apt i) R.APT_DEVICE
    if (c.hostFn fn).d3hot || !c.on (.apt i) R.APT_VALID || !c.on (.apt i) (if write then R.APT_WRITE else R.APT_READ) then
      if write then (c.raise .hbr St.HBR_POSTED_ERR).hostErr fn true off COMP_ADDR_UNMAPPED
      else c.hostComplete fn off COMP_ADDR_UNMAPPED 1 []
    else
      let m := hostMsg fn dev (c.getF (.apt i) R.APT_LOCAL * 2 ^ 30 + off % 2 ^ 30) len write bs
      if c.isSelf dev then c.hostServe io { m with src := c.deviceId } fn write off
      else
        let (c, t) := c.fabRequest 0 (.host fn write off) none m
        match c.fabAnswer t with
        | some (code, _) => (c.fabEnd t).hostAnswer fn write off code []
        | none => c

/-- RETRY_RESEND_TIMER (R339), for a host request to this device too. -/
def Chip.retryTimer (c : Chip) (io : RegIo) (i : Nat) (expired : Bool) : Chip :=
  match c.reqs[i]? with
  | none => c
  | some r =>
    match r.who with
    | .host fn write off =>
      if !r.retry || (expired && !c.heldAt r.msg.addr r.msg.len) || !c.isSelf r.msg.dst then c.retryResend i expired
      else { c with reqs := c.reqs.eraseIdx i }.hostServe io r.msg fn write off
    | _ => c.retryResend i expired

/-! Function Level Resets (R350). -/

/-- FLR_VF. -/
def Chip.flrVf (c : Chip) (n : Nat) : Chip :=
  if !c.linkUp || !c.fnThere (n + 1) then c
  else
    let c := c.setHostFn (n + 1) { c.hostFn (n + 1) with msix := [], pending := [], d3hot := false }
    (c.raise .hbr St.HBR_FLR_VF).partReset n

/-- FLR_PF. -/
def Chip.flrPf (c : Chip) : Chip := if c.linkUp then c.pcieReset.raise .hbr St.HBR_FLR_PF else c

end Sys2Proof.Machine
end

