-- ==== Sys2Proof/Machine/Power.lean ====
section
/-! DEFINITION. Power domains, the input, operating points and sensors (R456-R465, R469, R477-R481). -/

namespace Sys2Proof.Machine

/-! Power-on reset and the input (R456, R477, R478, R481). -/

/-- Domains whose own regulators switch them on at input valid: always-on management of each die, 61, 62, 63 (R456). -/
def alwaysOn : List Nat := [14, 29, 44, 59, 61, 62, 63]

/-- Power-on reset: everything returns to its power-on value but what is not volatile, the pins, and the count of free values (R9, R456). -/
def Chip.powerOnReset (c : Chip) : Chip :=
  { por := true, board := { c.board with flashGnt := false, flashReq := c.board.flashReq }, flash := c.flash, taps := c.taps,
    bench := { entries := c.bench.entries }, perst := c.perst, out := c.out, freeCtr := c.freeCtr }

/-- The input switch opens and every domain loses power. -/
def Chip.powerOff (c : Chip) : Chip :=
  let c := c.powerOnReset
  { c with board := { c.board with closed := false, valid := false }, taps := [] }

/-- MOD_EN_RISE (R477, R480): the board has supplied both references, and the switch charges the input capacitance. -/
def Chip.modEnRise (c : Chip) : Chip :=
  if c.board.modEn then c
  else { c with board := { c.board with modEn := true, closed := !c.board.overVolt, tripped := false, ref25 := true, ref100 := true } }

/-- INPUT_VALID (R456, R477): the charge is complete at 40.0 V or more, and the domains that start on their own ramp. -/
def Chip.inputValid (c : Chip) : Chip :=
  if !c.board.modEn || !c.board.closed || c.board.valid then c
  else { c.setF .pwr R.PWR_DOMAINS_ON ((alwaysOn.map (2 ^ ·)).sum) with board := { c.board with valid := true } }

/-- MOD_EN_FALL (R477). -/
def Chip.modEnFall (c : Chip) : Chip :=
  if !c.board.modEn then c
  else
    let c := c.powerOff
    { c with board := { c.board with modEn := false, tripped := false } }

/-- VIN_UNDERVOLTAGE (R478): power-on reset; the module starts again from input valid. -/
def Chip.vinUnder (c : Chip) : Chip :=
  if !c.board.closed || !c.board.valid then c
  else
    let c := c.powerOnReset
    { c.setF .pwr R.PWR_DOMAINS_ON ((alwaysOn.map (2 ^ ·)).sum) with board := { c.board with valid := false } }

/-- VIN_OVERVOLTAGE (R478): the switch opens. -/
def Chip.vinOver (c : Chip) : Chip :=
  let c := if c.board.closed then c.powerOff else c
  { c with board := { c.board with overVolt := true } }

/-- VIN_OVERVOLTAGE_RECLOSE (R478). -/
def Chip.vinReclose (c : Chip) : Chip :=
  if !c.board.overVolt then c
  else { c with board := { c.board with overVolt := false, closed := c.board.modEn && !c.board.tripped } }

/-- INPUT_OVERCURRENT (R478): the switch opens until MOD_EN is cycled. -/
def Chip.inputOver (c : Chip) : Chip :=
  if !c.board.closed then c
  else
    let c := c.powerOff
    { c with board := { c.board with tripped := true } }

/-- REF25_LOSS (R481): power-on reset is asserted; without the reference t0 never comes. -/
def Chip.ref25Loss (c : Chip) : Chip :=
  let c := if c.board.valid then
      c.powerOnReset.setF .pwr R.PWR_DOMAINS_ON ((alwaysOn.map (2 ^ ·)).sum) else c
  { c with board := { c.board with ref25 := false } }

/-! Operating points (R459-R465). -/

/-- Target point of a cluster and the limit that governs it (R461): 0 none, 1 MAX_OP, 2 cap, 3 thermal, 4 input. Of equal limits the first in R461's order
governs (log entry 159). -/
def Chip.targetOf (c : Chip) (cl : Nat) : Nat × Nat :=
  let l := [(c.getF (.clkcl cl) R.CLKCL_CTRL_MAX_OP, 1), (c.getF .pwr R.PWR_CTRL_CAP_POINT, 2), (c.thermalPoint cl, 3),
    (if c.power.inputLow then 0 else 7, 4)]
  let m := l.foldl (fun m e => min m e.1) 7
  (m, if 7 ≤ m then 0 else ((l.find? (fun e => e.1 == m)).map (·.2)).getD 0)

/-- Bring the targets up to date; one that changes during a step takes effect after it (R462). -/
def Chip.retarget (c : Chip) : Chip :=
  forAll (upto 32) c (fun c cl =>
    let t := c.targetOf cl
    if c.clusterGone cl || !c.domainOn (clusterDomain cl) || c.on (.clkcl cl) R.CLKCL_STATE_STEPPING then c
    else if c.getF (.clkcl cl) R.CLKCL_STATE_TARGET = t.1 ∧ c.getF (.clkcl cl) R.CLKCL_STATE_LIMIT = t.2 then c
    else c.setFs (.clkcl cl) [(R.CLKCL_STATE_TARGET, t.1), (R.CLKCL_STATE_LIMIT, t.2)])

/-- OP_POINT_STEP (R462): the cluster starts to move one point toward its target. -/
def Chip.opStep (c : Chip) (cl : Nat) : Chip :=
  let b := Blk.clkcl cl
  if !c.domainOn (clusterDomain cl) || c.on b R.CLKCL_STATE_STEPPING || c.getF b R.CLKCL_STATE_OP = c.getF b R.CLKCL_STATE_TARGET then c
  else c.setF b R.CLKCL_STATE_STEPPING 1

/-- OP_POINT_STEP_DONE (R462). -/
def Chip.opStepDone (c : Chip) (cl : Nat) : Chip :=
  let b := Blk.clkcl cl
  let op := c.getF b R.CLKCL_STATE_OP
  if !c.on b R.CLKCL_STATE_STEPPING then c
  else
    let c := (c.setFs b [(R.CLKCL_STATE_OP, if op < c.getF b R.CLKCL_STATE_TARGET then op + 1 else op - 1), (R.CLKCL_STATE_STEPPING, 0)]).addF b
      R.CLKCL_STEPS 1
    c.retarget

/-- A write of MAX_OP (R461). -/
def Chip.setMaxOp (c : Chip) (cl v : Nat) : Chip := (c.setF (.clkcl cl) R.CLKCL_CTRL_MAX_OP v).retarget

/-- POWER_CAP_CHECK (R463): `quiet` says that the input has stayed below CAP_W - CAP_HYST_W for 1 ms. -/
def Chip.capCheck (c : Chip) (watts : Nat) (quiet : Bool) : Chip :=
  let cap := min 3400 (max 1000 (c.getF .pwr R.PWR_CTRL_CAP_W))
  let p := c.getF .pwr R.PWR_CTRL_CAP_POINT
  let busy := (upto 32).any (fun cl => c.on (.clkcl cl) R.CLKCL_STATE_STEPPING)
  let q := if busy then p else if cap < watts then p - 1
    else if quiet && decide (watts + c.getF .pwr R.PWR_CTRL_CAP_HYST_W < cap) then min 7 (p + 1) else p
  let c := if q = p then c else (c.setF .pwr R.PWR_CTRL_CAP_POINT q).retarget
  c.raiseIf (decide (q < 7) && !c.on .pwr R.PWR_STATUS_CAP_ACTIVE) .pwr St.PWR_CAP_ACTIVE

/-- INPUT_LOW (R459). -/
def Chip.lowInput (c : Chip) : Chip :=
  if c.power.inputLow then c
  else ({ c.raise .pwr St.PWR_INPUT_LOW with power := { c.power with inputLow := true } }).retarget

/-- INPUT_LOW_CLEAR (R459). -/
def Chip.lowInputClear (c : Chip) : Chip :=
  if c.power.inputLow then ({ c with power := { c.power with inputLow := false } }).retarget else c

/-- A signed temperature of 16 bits in 1/16 °C (R474). -/
def degrees (v : Nat) : Int := sextInt 16 v

/-- DROOP_DETECT (R465): at point 0 the clock is not stretched. -/
def Chip.droopDetect (c : Chip) (cl : Nat) : Chip :=
  if c.clusterGone cl || !c.domainOn (clusterDomain cl) then c
  else
    let c := (c.addF (.clkcl cl) R.CLKCL_DROOPS 1).raise (.clk (cl / 8)) St.CLK_DROOP
    if c.getF (.clkcl cl) R.CLKCL_STATE_OP = 0 || c.power.stretched.contains cl then c
    else { c with power := { c.power with stretched := cl :: c.power.stretched } }

/-- DROOP_STRETCH_END (R465). -/
def Chip.droopEnd (c : Chip) (cl : Nat) : Chip := { c with power := { c.power with stretched := c.power.stretched.filter (· != cl) } }

/-! Faulted domains (R458). -/

/-- The effect of a faulted cluster. -/
def Chip.clusterFault (c : Chip) (cl : Nat) : Chip :=
  let f := R.BOOT_BENCH_CL_BENCHED.nth (cl % 8)
  let c := (c.setF (.boot (cl / 8)) f 0x1FFFF).setFs (.mecl cl) [(R.MECL_SPARE_BENCHED, 0x1FFFF), (R.MECL_SPARE, 0x1F), (R.MECL_SPARE_SPARE_FREE, 0)]
  let ps := (upto 16).filter (fun p => c.partState p != PS_NONE && c.partHas p cl)
  if ps.any c.isProtected && c.sealPartner.isSome then c.selfLost
  else
    let c := if ps.any c.isProtected then c.stateLost else c
    forAll ps c Chip.partReset

/-- The effect of a lost die: every partition resets, and no queue resumes. -/
def Chip.dieFault (c : Chip) (d : Nat) : Chip :=
  let c := forAll (upto 16) c (fun c p => if c.partState p = PS_NONE then c else c.partReset p)
  if d = 0 || !c.on .res R.RES_CTRL_ENABLE then c else c.selfLost

/-- A memory PHY half fails with all its members (R13, R316): half 0 has channels 0 to 15 of the die. -/
def Chip.halfFault (c : Chip) (d half : Nat) : Chip :=
  let gs := (upto 8).map (8 * d + ·)
  let ms := gs.flatMap (fun g => (upto 8).map (fun m => (g, m)))
  let c := forAll (ms.filter (fun e => subchOf e.1 e.2 / 32 == 2 * d + half)) c (fun c e => c.memberFail e.1 e.2 false)
  c.lossPoll

/-- A domain is switched off with the effects of its kind (R458). -/
def Chip.domainOff (c : Chip) (n kind : Nat) : Chip :=
  if !c.domainOn n then c
  else
    let on := c.getF .pwr R.PWR_DOMAINS_ON
    let c := c.setFs .pwr [(R.PWR_DOMAINS_ON, on - 2 ^ n), (R.PWR_FAULTED, c.getF .pwr R.PWR_FAULTED ||| 2 ^ n), (R.PWR_FAULT_LOG_DOMAIN, n),
      (R.PWR_FAULT_LOG_KIND, kind), (R.PWR_FAULT_LOG_TIME, c.getF (.tel 0) R.TEL_TIME)]
    let c := (c.raise .pwr St.PWR_DOMAIN_FAULT).pldmEvent 256 n
    if n = 60 then c.pcieLinkDown
    else if n = 61 then c
    else if n = 62 then ({ c with power := { c.power with blind := upto 32 } }).retarget
    else if n = 63 then c.raise .cfg St.CFG_LOG_FULL
    else
      let d := n / 15
      let k := n % 15
      if k < 8 then c.clusterFault (8 * d + k)
      else if k = 9 ∨ k = 10 then c.halfFault d (k - 9)
      else if 11 ≤ k ∧ k ≤ 13 then (c.portDown (6 * d + 2 * (k - 11))).portDown (6 * d + 2 * (k - 11) + 1)
      else c.dieFault d

/-- DOMAIN_FAULT (R458): 1 overcurrent, 2 undervoltage, 3 power good lost or PLL. A PLL that has lost lock sets PLL_UNLOCK. -/
def Chip.domainFault (c : Chip) (n kind : Nat) (pll : Bool) : Chip :=
  if !c.domainOn n then c
  else
    let c := if pll && decide (n < 60) then
        let c := c.raise (.clk (n / 15)) St.CLK_PLL_UNLOCK
        if n % 15 = 8 then c.setF (.clk (n / 15)) R.CLK_STATE_NOC_LOCK 0
        else if n % 15 = 9 ∨ n % 15 = 10 then c.setF (.clk (n / 15)) R.CLK_STATE_MC_LOCK 0 else c
      else c
    c.domainOff n (if pll then 3 else kind)

/-- REF100_LOSS (R481): every PLL that it drives loses lock, and the dies are lost. -/
def Chip.ref100Loss (c : Chip) : Chip :=
  if !c.board.ref100 then c
  else
    let c := { c with board := { c.board with ref100 := false } }
    forAll (upto 4) c (fun c d =>
      if !c.domainOn (15 * d + 8) then c
      else
        let c := (c.raise (.clk d) St.CLK_PLL_UNLOCK).setFs (.clk d) [(R.CLK_STATE_NOC_LOCK, 0), (R.CLK_STATE_MC_LOCK, 0)]
        c.domainOff (15 * d + 8) 3)

/-! Sensors (R464, R469). -/

/-- A sensor of a die reads TRIP_C or more: every cluster domain of the die is switched off (R464). -/
def Chip.tripCheck (c : Chip) (d : Nat) (t : Int) : Chip :=
  let lim : Int := min 110 (c.getF (.tel d) R.TEL_THERM_TRIP_C)
  let ns := ((upto 8).map (15 * d + ·)).filter c.domainOn
  if t < 16 * lim || ns.isEmpty then c
  else
    let c := ((c.raise (.tel d) St.TEL_TRIP).raise .pwr St.PWR_THERMAL_TRIP).pldmEvent 257 d
    forAll ns c (fun c n => c.domainOff n 0)

/-- THERMAL_POINT_TICK (R464): 1 ms above THROTTLE_C, or, once the sensor has read below THROTTLE_C - 5 °C for 10 ms (`cooled`), 10 ms more. -/
def Chip.thermalTick (c : Chip) (cl : Nat) (cooled : Bool) : Chip :=
  let t := degrees (c.getF (.tel (cl / 8)) (R.TEL_CL_TEMP_TEMP.nth (cl % 8)))
  let lim : Int := c.getF (.tel (cl / 8)) R.TEL_THERM_THROTTLE_C
  let p := KMap.getD c.power.thermal cl 7
  let set (c : Chip) (v : Nat) : Chip :=
    ({ c with power := { c.power with thermal := if v = 7 then c.power.thermal.erase cl else c.power.thermal.insert cl v } }).retarget
  if c.clusterGone cl || !c.domainOn (clusterDomain cl) then c
  else if 16 * lim < t then (if p = 0 then c else (set c (p - 1)).raise (.tel (cl / 8)) St.TEL_THROTTLE).tripCheck (cl / 8) t
  else if cooled && decide (t < 16 * (lim - 5)) && decide (p < 7) then set c (p + 1)
  else c

/-- The hottest of a die's junctions. -/
def Chip.hottest (c : Chip) (d : Nat) : Nat :=
  match c.dieClusters d with
  | [] => 0
  | cl :: r =>
    let v (x : Nat) : Nat := c.getF (.tel d) (R.TEL_CL_TEMP_TEMP.nth (x % 8))
    r.foldl (fun m x => if degrees m < degrees (v x) then v x else m) (v cl)

/-- A cluster's junction has been read, or its sensor gave no valid reading, which holds the cluster at point 0 (R464, R474). -/
def Chip.junction (c : Chip) (cl : Nat) (t : Option Nat) : Chip :=
  let d := cl / 8
  if c.clusterGone cl || !c.domainOn (clusterDomain cl) || !c.domainOn 62 then c
  else match t with
  | none =>
    let c := c.raise (.tel d) St.TEL_SENSOR_FAIL
    if c.power.blind.contains cl then c else ({ c with power := { c.power with blind := cl :: c.power.blind } }).retarget
  | some v =>
    let c := c.setF (.tel d) (R.TEL_CL_TEMP_TEMP.nth (cl % 8)) v
    let c := c.setF (.tel d) R.TEL_TEMP_JMAX (c.hottest d)
    let c := ({ c with power := { c.power with blind := c.power.blind.filter (· != cl) } }).retarget
    (c.sensorStore (10 + d)).tripCheck d (degrees v)

/-- SENSOR_REFRESH (R469): `us` is the time since t0. -/
def Chip.sensorRefresh (c : Chip) (us : Nat) (r : SensorReading) : Chip :=
  let c := c.setF (.tel 0) R.TEL_TIME us
  match r with
  | .input cV dA w j =>
    if !c.domainOn 62 then c
    else
      let c := (c.setFs (.tel 0) [(R.TEL_INPUT_VOLTS, cV.toNat), (R.TEL_INPUT_AMPS, dA.toNat), (R.TEL_INPUT_WATTS, w.toNat)]).setF .pwr
        R.PWR_ENERGY_J j.toNat
      ((c.sensorStore 1).sensorStore 2).sensorStore 3
  | .junction cl t => c.junction cl.val (t.map (·.toNat))
  | .package d t =>
    if !c.sensorUp (14 + d.val) then c
    else ((c.setF (.tel d.val) R.TEL_TEMP_MEM_MAX t.toNat).sensorStore (14 + d.val)).tripCheck d.val (degrees t.toNat)
  | .coolant outlet t =>
    if !c.domainOn 62 then c
    else (c.setF (.tel 0) (if outlet then R.TEL_COOLANT_OUTLET else R.TEL_COOLANT_INLET) t.toNat).sensorStore (if outlet then 19 else 18)
  | .computed id => if numericSensors.contains id.val then c.sensorStore id.val else c

end Sys2Proof.Machine
end

