-- ==== Sys2Proof/Machine/Image.lean ====
section
/-! DEFINITION. The configuration image (R422-R428, R439, R440): reading a copy from the NOR flash, verifying it, and checking its records. -/

namespace Sys2Proof.Machine

/-- BOOT codes of R420. -/
def BOOT_OK : Nat := 0x01
def BOOT_DIE_FAIL : Nat := 0x20
def BOOT_FUSEMAP_BAD : Nat := 0x21
def BOOT_IMAGE_ABSENT : Nat := 0x30
def BOOT_FW_BAD : Nat := 0x31
def BOOT_CFG_BAD : Nat := 0x32
def BOOT_CFG_INVALID : Nat := 0x33
def BOOT_VARIANT_SHORT : Nat := 0x50

/-- Why a copy fails: BOOT code, reason of R428, record index, byte offset, and which status bits of the island it sets (0 none, 1 SIG_FAIL,
2 SVN_LOW). -/
structure CopyFail where
  code : Nat
  reason : Nat
  record : Nat := 0
  off : Nat := 0
  sec : Nat := 0
  deriving DecidableEq, Repr

/-- A record of a section (R424): type, index in the image, byte offset in the image, body. -/
structure ImgRec where
  typ : Nat
  idx : Nat
  off : Nat
  body : List Byte
  deriving DecidableEq, Repr

/-- The records of a section from offset `o`, and where they fail (R424). The section ends with its END record. -/
def takeRecords (sec : List Byte) (base : Nat) : Nat → Nat → Nat → List ImgRec × Option (Nat × Nat)
  | 0, o, i => ([], some (i, base + o))
  | fuel + 1, o, i =>
    let typ := recNat sec o 2
    let len := recNat sec (o + 4) 4
    if sec.length < o + 8 ∨ recNat sec (o + 2) 2 ≠ 0 then ([], some (i, base + o))
    else if typ = 0 then ([], if len = 0 ∧ o + 8 = sec.length then none else some (i, base + o))
    else if len % 8 ≠ 0 ∨ sec.length < o + 8 + len then ([], some (i, base + o))
    else
      let r := takeRecords sec base fuel (o + 8 + len) (i + 1)
      (⟨typ, i, base + o, (sec.drop (o + 8)).take len⟩ :: r.1, r.2)

/-- Does LEN fit the body of a record of a type, in its section (R424)? -/
def recFits (cfg : Bool) (r : ImgRec) : Bool :=
  let n := r.body.length
  match cfg, r.typ with
  | false, 0x0100 => decide (8 ≤ n)
  | false, 0x0101 => decide (8 ≤ n)
  | true, 0x0001 => n == 8
  | true, 0x0002 => n == 192
  | true, 0x0003 => true
  | true, 0x0004 => n == 8192
  | true, 0x0005 => decide (1 ≤ recNat r.body 1 1) && decide (recNat r.body 1 1 ≤ 16) && n == 8 + 128 * recNat r.body 1 1 &&
      decide (recNat r.body 0 1 < 8)
  | true, 0x0006 => n == 128
  | true, 0x0007 => n % 24 == 0
  | true, 0x0008 => n == 16400
  | true, 0x0009 => true
  | _, _ => false

/-- Is the number of records of each type what R424 allows? -/
def recCounts (l : List ImgRec) : Bool :=
  let n (t : Nat) : Nat := (l.filter (fun r => r.typ == t)).length
  [0x0100, 0x0101, 1, 2, 3, 4].all (fun t => n t == 1) && decide (1 ≤ n 5) && decide (n 5 ≤ 8) && decide (n 6 ≤ 1) && decide (n 8 ≤ 1) && decide (n 9 ≤ 1)

/-- The first record that is one too many of its type: a second one, or a ninth LAYOUT (R424, R428). -/
def recExtra (l : List ImgRec) : Option ImgRec :=
  l.find? (fun r => r.typ != 7 && decide ((if r.typ = 5 then 8 else 1) ≤ (l.filter (fun q => q.typ == r.typ && decide (q.idx < r.idx))).length))

/-- The body of the first record of a type. -/
def recBody (l : List ImgRec) (t : Nat) : List Byte := ((l.find? (fun r => r.typ == t)).map (·.body)).getD []

/-- Pieces of `n` bytes of a body. -/
def pieces (n : Nat) (bs : List Byte) : List (List Byte) := (upto (bs.length / n)).map (fun i => (bs.drop (n * i)).take n)

/-- A partition entry of a LAYOUT body (R426). -/
def layoutPart (e : List Byte) : LayoutPart :=
  { part := field (recNat e 0 1) 0 4, baseSlice := recNat e 1 1, accBase := recNat e 2 1, accCount := recNat e 3 1, clusters := recNat e 4 4,
    groups := recNat e 8 4, rangeBase := recNat e 0xC 2, rangeSize := recNat e 0xE 2, ctxBase := recNat e 0x10 4, ctxCount := recNat e 0x14 4,
    poolBase := recNat e 0x18 8, ptBase := recNat e 0x20 8, poolPages := recNat e 0x28 4, page64k := recNat e 0x2C 2,
    pageTokens := recNat e 0x2E 2, maxPages := recNat e 0x30 2, sliceUs := recNat e 0x32 2, spBase := recNat e 0x34 2, spKib := recNat e 0x36 2,
    cmBase := recNat e 0x38 2, cmKib := recNat e 0x3A 2, windows := recNat e 0x40 32 }

/-- A LAYOUT body (R426). -/
def layoutOf (b : List Byte) : Layout := ⟨recNat b 0 1, (pieces 128 (b.drop 8)).map layoutPart⟩

/-- A device field with its valid bit. -/
def devField (v : Nat) : Option Nat := if bit v 15 then some (field v 0 12) else none

/-- A PROTECTION body (R426). -/
def protOf (b : List Byte) : Protection :=
  { members := recNat b 0 8, spares := recNat b 8 8, partners := [devField (recNat b 0x10 2), devField (recNat b 0x12 2)],
    cabGroups := recNat b 0x14 4, cabSlice := recNat b 0x18 1, protPart := field (recNat b 0x19 1) 0 4, enable := bit (recNat b 0x19 1) 7,
    feed := field (recNat b 0x1A 1) 0 4, sealSync := recNat b 0x1C 2,
    hosts := (upto 4).map (fun h => ⟨field (recNat b (0x20 + 24 * h) 2) 0 12, bit (recNat b (0x20 + 24 * h) 2) 15,
      recNat b (0x20 + 24 * h + 8) 8, recNat b (0x20 + 24 * h + 16) 8⟩) }

/-- The entries of a REG_INIT body: offset, die mask, value, mask (R424). -/
def regEntries (b : List Byte) : List (Nat × Nat × Nat × Nat) :=
  (pieces 24 b).map (fun e => (recNat e 0 4, field (recNat e 4 4) 0 4, recNat e 8 8, recNat e 16 8))

/-- The image that the records of a copy give (R424-R426). -/
def imageOf (header fw cfg : List Byte) (l : List ImgRec) : Image :=
  { svn := recNat header 0x30 4, identity := recNat (recBody l 1) 0 8, ports := (pieces 8 (recBody l 2)).map leNat,
    routes := (pieces 8 (recBody l 3)).map (fun e => (field (leNat e) 0 12, leNat e / 2 ^ 32)),
    windows := (pieces 32 (recBody l 4)).map (fun e => (recNat e 0 8, recNat e 8 8, recNat e 0x10 8)),
    layouts := (l.filter (fun r => r.typ == 5)).map (fun r => layoutOf r.body),
    prot := (l.find? (fun r => r.typ == 6)).map (fun r => protOf r.body),
    regInit := (l.filter (fun r => r.typ == 7)).flatMap (fun r => regEntries r.body),
    seeds := recBody l 8, clears := (pieces 8 (recBody l 9)).map (fun e => (recNat e 0 1, recNat e 1 2, recNat e 4 4)),
    header := header, fw := fw, cfg := cfg }

/-! Record checks (R428). -/

/-- Is a block configured by image: does it hold a field that the configuration lock protects (R428, log entry 65)? -/
def Blk.byImage (b : Blk) : Bool := b.fields.any (fun f => f.acc == .rwl)

/-- Does a REG_INIT entry touch only RW and RWL fields of a block that is configured by image (R428)? -/
def regInitOk (e : Nat × Nat × Nat × Nat) : Bool :=
  (upto 4).all (fun d => !bit e.2.1 d || (e.1 % 8 == 0 && (match decodeReg d e.1 with
    | some b =>
      let fs := b.fields.filter (fun f => b.base + f.off == d * dieSpan + e.1 && (f.acc == .rw || f.acc == .rwl))
      let ok := fs.foldl (fun m f => m ||| ((2 ^ f.width - 1) <<< f.lsb)) 0
      b.byImage && (e.2.2.2 ||| ok) == ok
    | none => false)))

/-- Rank in the group of the device that an image names, and its group (R338, R425). -/
def Image.device (i : Image) : Nat := field i.identity 0 12

/-- Is the PROTECTION record sound (R428 reason 0x08)? -/
def Image.protOk (i : Image) (p : Protection) (present : Nat → Bool) (slices : Nat) : Bool :=
  let dev := i.device
  let member (x : Nat) : Bool := x / 64 == dev / 64 && bit p.members (x % 64)
  let k := popCount p.cabGroups 32
  (bit p.members (dev % 64) != bit p.spares (dev % 64)) &&
  p.partners.all (fun o => match o with | some x => x != dev && member x | none => true) &&
  p.hosts.all (fun h => !h.valid || (member h.source && decide (k ≠ 0) &&
    inside h.base h.size (p.cabSlice * sliceSize) (k * sliceSize))) &&
  (bitsOf p.cabGroups 32).all present && decide (p.cabSlice + k ≤ slices) &&
  (p.sealSync == 0xFFFF || i.layouts.any (fun l => l.num == 0 && l.parts.any (fun x => x.part == p.protPart && decide (p.sealSync < x.rangeSize))))

/-- Does a list hold an element twice? -/
def twice (l : List Nat) : Bool := match l with | [] => false | x :: r => r.contains x || twice r

/-- The first check of R428 that an image fails beyond its records' form, in the order of the reasons: reason and record type. -/
def Chip.imageReason (c : Chip) (f : FuseRecord) (i : Image) : Option (Nat × Nat) :=
  let h := i.header
  let serial := recNat h 0x10 8
  let cab := match i.prot with | some p => (p.cabGroups, p.cabSlice) | none => (0, 0)
  let c := { c with cabGroups := cab.1, cabSlice := cab.2 }
  if serial ≠ 0 ∧ serial ≠ f.serial then some (0x02, 0)
  else if !bit (recNat h 0xC 1) f.variant then some (0x03, 0)
  else if i.ports.zipIdx.any (fun e => bit e.1 R.PORT_CTRL_ENABLE.lsb && c.portAbsent e.2) then some (0x05, 2)
  else if twice (i.routes.map (·.1)) || i.routes.any (fun e => (upto 4).any (fun r => bit e.2 (8 * r + 5) && decide (23 < field e.2 (8 * r) 5))) then
    some (0x06, 3)
  else if !i.layouts.any (fun l => l.num == 0) || twice (i.layouts.map (·.num)) ||
      i.layouts.any (fun l => l.num == 0 && !c.layoutOk i.windows l) then some (0x07, 5)
  else if (match i.prot with | some p => !i.protOk p c.grpPresent c.slices | none => false) then some (0x08, 6)
  else if !i.regInit.all regInitOk then some (0x09, 7)
  else if !i.clears.isEmpty && serial == 0 then some (0x0A, 9)
  else none

/-- The record of a type that a check of R428 refuses: of several, the first that fails it by itself. -/
def Chip.failingRec (c : Chip) (i : Image) (l : List ImgRec) (t : Nat) : Option ImgRec :=
  let cab := match i.prot with | some p => (p.cabGroups, p.cabSlice) | none => (0, 0)
  let c := { c with cabGroups := cab.1, cabSlice := cab.2 }
  l.find? (fun r => r.typ == t && (match t with
    | 5 =>
      let y := layoutOf r.body
      (y.num == 0 && !c.layoutOk i.windows y) || l.any (fun q => q.typ == 5 && decide (q.idx < r.idx) && (layoutOf q.body).num == y.num)
    | 7 => !(regEntries r.body).all regInitOk
    | _ => true))

/-! Reading a copy (R423, R427, R440). -/

/-- Is an owner slot usable, and its key (R440)? -/
def OwnerSlot.key? : OwnerSlot → Option (List Byte)
  | .enrolled k => some k
  | _ => none

/-- The usable owner slots with their keys, in slot order. -/
def Otp.usable (o : Otp) : List (Nat × List Byte) := o.owners.zipIdx.filterMap (fun e => e.1.key?.map (fun k => (e.2, k)))

/-- The SVN floor: how many bits of the field are burnt (R441). -/
def Otp.svnFloor (o : Otp) : Nat := popCount o.svn 255

/-- Are the header's lengths and reserved fields well formed (R423, R428 reason 0x01)? -/
def headerOk (h : List Byte) : Bool :=
  let total := recNat h 8 4
  let fits (o n : Nat) : Bool := decide (o + n ≤ total)
  decide (total ≤ 2 ^ 24) && fits 0 64 && recNat h 6 2 == 0 && recNat h 0xD 3 == 0 && recNat h 0x34 12 == 0 && recNat h 0xC 1 / 8 == 0 &&
    fits (recNat h 0x18 4) (recNat h 0x1C 4) && fits (recNat h 0x20 4) (recNat h 0x24 4) && fits (recNat h 0x28 4) 2820 &&
    fits (recNat h 0x2C 4) 2820

/-- Length of a signature (R423). -/
def sigBytes : Nat := 2820

/-- Read and check the copy at a flash offset (R427, R440): the image with the key that signed its configuration, or why it fails. -/
def Chip.readCopy (c : Chip) (o : Otp) (base : Nat) : Except CopyFail (Image × Nat) :=
  let m := c.flash.image
  let h := m.readN base 64
  let part (off len : Nat) : List Byte := m.readN (base + off) len
  if recNat h 0 4 ≠ 0x47394346 ∨ recNat h 4 2 ≠ 1 then .error { code := BOOT_IMAGE_ABSENT, reason := 0xF1 }
  else if !headerOk h then .error { code := BOOT_CFG_INVALID, reason := 0x01 }
  else
    let fw := part (recNat h 0x18 4) (recNat h 0x1C 4)
    let cfg := part (recNat h 0x20 4) (recNat h 0x24 4)
    let signer : Option Nat :=
      let msg := h ++ Config.shake256 fw ++ cfg
      let sig := part (recNat h 0x2C 4) sigBytes
      if o.usable.isEmpty then (if Config.xmssOk Config.fwKey msg sig then some 4 else none)
      else (o.usable.find? (fun e => Config.xmssOk e.2 msg sig)).map (·.1)
    if !Config.xmssOk Config.fwKey (leBytes 4 (recNat h 0x30 4) ++ fw) (part (recNat h 0x28 4) sigBytes) then
      .error { code := BOOT_FW_BAD, reason := 0xF0, sec := 1 }
    else if recNat h 0x30 4 < o.svnFloor then .error { code := BOOT_FW_BAD, reason := 0, sec := 2 }
    else match signer with
    | none => .error { code := BOOT_CFG_BAD, reason := 0xF0, sec := 1 }
    | some k =>
      let a := takeRecords fw (recNat h 0x18 4) (fw.length / 8 + 1) 0 0
      let b := takeRecords cfg (recNat h 0x20 4) (cfg.length / 8 + 1) 0 a.1.length
      let l := a.1 ++ b.1
      let bad := ((a.1.find? (fun r => !recFits false r)).orElse fun _ => b.1.find? (fun r => !recFits true r)).map (fun r => (r.idx, r.off))
      match (a.2.orElse fun _ => b.2).orElse fun _ => bad with
      | some (i, off) => .error { code := BOOT_CFG_INVALID, reason := 0x04, record := i, off := off }
      | none =>
        if !recCounts l then
          let x := (recExtra l).getD ⟨0, l.length, recNat h 0x20 4, []⟩
          .error { code := BOOT_CFG_INVALID, reason := 0x04, record := x.idx, off := x.off }
        else
          let img := imageOf h fw cfg l
          match c.imageReason o.fuse img with
          | some (reason, t) =>
            let r := c.failingRec img l t
            .error { code := BOOT_CFG_INVALID, reason := reason, record := (r.map (·.idx)).getD 0, off := (r.map (·.off)).getD 0 }
          | none => .ok (img, k)

end Sys2Proof.Machine
end

