-- ==== Sys2Proof/Machine/BringUp.lean ====
section
/-! DEFINITION. Bring-up and the bench list (R417-R437), the release of power-on reset, compute reset, and the flash bus (R484). -/

namespace Sys2Proof.Machine

/-- Write a field of the BOOT block on every die. -/
def Chip.bootAll (c : Chip) (f : Field) (v : Nat) : Chip := forAll (upto 4) c (fun c d => c.setF (.boot d) f v)

/-- Switch power domains on (R456). -/
def Chip.switchOn (c : Chip) (l : List Nat) : Chip :=
  c.setF .pwr R.PWR_DOMAINS_ON (l.foldl (fun m n => m ||| 2 ^ n) (c.getF .pwr R.PWR_DOMAINS_ON))

/-! The release of power-on reset (R456, R476, R486). -/

/-- Bits of the block counter that count as burnt (R446). -/
def Otp.blocksUsed (o : Otp) : Nat := popCount (o.blocks ||| o.unclean) 4096

/-- OTP as the SEC block shows it (R455). -/
def Chip.showOtp (c : Chip) (o : Otp) : Chip :=
  let mask (f : OwnerSlot → Bool) : Nat := (o.owners.zipIdx.map (fun e => if f e.1 then 2 ^ e.2 else 0)).sum
  c.setFs .sec [(R.SEC_STATE_OWNER_SET, mask (fun x => x != .blank)),
    (R.SEC_STATE_OWNER_OFF, mask (fun x => match x with | .revoked _ => true | .torn => true | _ => false)),
    (R.SEC_STATE_SVN_FLOOR, o.svnFloor), (R.SEC_INDEX_BLOCKS, o.blocksUsed),
    (R.SEC_STATE_KEY, if !o.key then 0 else if c.island.fault then 3
      else if c.getF .sec R.SEC_INDEX_RESERVED = 0 ∧ o.blocksUsed = 4096 then 2 else 1)]

/-- POWER_ON_RESET_RELEASE: t0, once the seven domains with regulators of their own report power good (R456, R476). With TEST_MODE = 1 it never comes
(R486). -/
def Chip.t0 (c : Chip) (o : Otp) (s : StrapPins) : Chip :=
  let c := { c with board := { c.board with testMode := s.testMode } }
  if !c.por || !c.board.closed || !c.board.valid || !c.board.ref25 || s.testMode || !alwaysOn.all c.domainOn then c
  else
    let c := { c with por := false, straps := ⟨s.smbAddr.val, s.feedId.val, s.bridgeSel, s.norMode, s.testMode⟩ }
    let c := c.bootAll R.BOOT_STATE_STAGE 1
    let c := (c.showOtp o).setF .sec R.SEC_INDEX_NEXT 0x100000
    let c := c.setFs .hbr [(R.HBR_CTRL_ENABLE, b2n s.bridgeSel), (R.HBR_ID_VENDOR, Config.vendorId.toNat)]
    let c := c.raiseIf (o.owners.contains .torn) .sec St.SEC_OTP_TORN
    let c : Chip := { c with bench := { c.bench with clears := [] } }
    c.logCount.setF .cfg R.CFG_LOG_NEXT_SEQ ((c.bench.entries.foldl (fun m e => max m (e.seq + 1)) 0))

/-! The end of bring-up (R418, R420). -/

/-- The variant, by the clusters present on a die (R18). -/
def Chip.variantNo (c : Chip) : Nat := 8 - ((upto 8).filter (fun cl => !c.clusterGone cl)).length

/-- Grant the flash bus once bring-up has ended (R484). -/
def Chip.flashPoll (c : Chip) : Chip :=
  if c.board.flashReq && c.getF (.boot 0) R.BOOT_STATE_STAGE == 10 && !c.por then { c with board := { c.board with flashGnt := true } } else c

/-- Bring-up ends with a code: the host bridge ends retry status, and BOOT_DONE is sent (R418). -/
def Chip.bootEnd (c : Chip) (code : Nat) : Chip :=
  let c := (c.bootAll R.BOOT_STATE_CODE code).bootAll R.BOOT_STATE_STAGE 10
  let c := c.setFs .hbr [(R.HBR_STATE_RRS, 0), (R.HBR_CTRL_VF_READY, b2n (code == BOOT_OK))]
  let ranks := (c.memberRanks ++ c.spareRanks).eraseDups
  (forAll (ranks.filter (fun r => !c.isSelf (c.rankDev r))) c (fun c r =>
    c.mgmtSend (c.rankDev r) 0x0010 [code, c.variantNo, c.sensorNow 62])).flashPoll

/-- A stage has ended. -/
def Chip.stageEnd (c : Chip) (n us : Nat) : Chip :=
  ((c.setF (.boot 0) (R.BOOT_TIME_END_US.nth (n - 1)) us).setF (.tel 0) R.TEL_TIME us).bootAll R.BOOT_STATE_STAGE (n + 1)

/-! Stages 2 to 7. -/

/-- Ports and package sites present on a die in a variant, and clusters a die (R18). -/
def variantPorts (v : Nat) : Nat := [6, 4, 3].getD v 0
def variantSites (v : Nat) : Nat := [4, 3, 2].getD v 0
def variantClusters (v : Nat) : Nat := [8, 7, 6].getD v 0
def variantGroups (v : Nat) : Nat := [32, 24, 16].getD v 0

/-- The words of a die's fuse record that its signature covers. -/
def FuseRecord.words (f : FuseRecord) (d : DieFuse) : List Nat :=
  [f.serial, f.variant, b2n f.fast, d.lot, d.wafer, d.dieX, d.dieY, d.testRev, d.dateCode, d.absent] ++ d.cores ++ [d.ports, d.sites]

/-- Does the record verify (R432)? -/
def FuseRecord.verifies (f : FuseRecord) : Bool :=
  decide (f.variant < 3) && f.dies.length == 4 && f.sigs.length == 4 &&
    (f.dies.zip f.sigs).all (fun e => Config.xmssOk Config.mfgKey (Config.fuseBytes (f.words e.1)) e.2)

/-- The fuse record as registers show it (R432, R436), with the units that the variant removes (R10, R18); group 2 i and group 2 i + 1 lie in package i. -/
def Chip.showFuses (c : Chip) (f : FuseRecord) : Chip :=
  let c := c.setF (.boot 0) R.BOOT_SERIAL f.serial
  forAll f.dies.zipIdx c (fun c e =>
    let d := e.2
    let x := e.1
    let sites := (upto 4).filter (fun i => decide (i < variantSites f.variant) && !bit x.sites i)
    let present := ((sites.flatMap (fun i => [2 * i, 2 * i + 1])).map (2 ^ ·)).sum
    let ports := ((upto 6).filter (fun j => decide (variantPorts f.variant ≤ j) || bit x.ports j)).map (2 ^ ·)
    let gone := ((upto 64).filter (fun s => !sites.contains (s / 16))).map (2 ^ ·)
    let c := c.setFs (.boot d) [(R.BOOT_ID0_LOT, x.lot), (R.BOOT_ID0_WAFER, x.wafer), (R.BOOT_ID0_DIE_X, x.dieX), (R.BOOT_ID0_DIE_Y, x.dieY),
      (R.BOOT_ID1_TEST_REV, x.testRev), (R.BOOT_ID1_DATE_CODE, x.dateCode), (R.BOOT_BENCH_LANE_PORTS, ports.sum), (R.BOOT_BENCH_SUB_SUBCH, gone.sum)]
    let c := c.setF (.mem d) R.MEM_STATE_PRESENT present
    forAll (upto 8) c (fun c k => c.setFs (.boot d) [(R.BOOT_BENCH_CL_FUSED.nth k, x.cores.getD k 0), (R.BOOT_BENCH_CL_ABSENT.nth k, b2n (bit x.absent k))]))

/-- Stage 3: on the bridge device, domains 60 and 11 are switched on, and ports 0 and 1 become the PCIe endpoint (R344, R456). -/
def Chip.stageHost (c : Chip) : Chip :=
  if !c.straps.bridgeSel then c
  else ((c.switchOn [60, 11]).setF (.port 0) R.PORT_STATE 5).setF (.port 1) R.PORT_STATE 5

/-- Stage 4 with a copy that has passed: its number, the image, and the key that signed it (R427, R440). -/
def Chip.takeImage (c : Chip) (copy : Nat) (e : Image × Nat) : Chip :=
  let c := { c with image := some e.1, bench := { c.bench with clears := e.1.clears } }.logCount
  (c.setFs .cfg [(R.CFG_STATE_COPY, copy), (R.CFG_STATE_SVN, e.1.svn)]).setF .sec R.SEC_STATE_CFG_SIGNER e.2

/-- What a failed copy records. -/
def Chip.noteCopy (c : Chip) (f : CopyFail) (field : Field) : Chip :=
  let c := c.setF .cfg field f.reason
  (c.raiseIf (f.sec == 1) .sec St.SEC_SIG_FAIL).raiseIf (f.sec == 2) .sec St.SEC_SVN_LOW

/-- Stage 4 (R427): copy A, and copy B only when A fails. The code of a failure is that of copy A. -/
def Chip.stageImage (c : Chip) (o : Otp) : Chip × Nat :=
  match c.readCopy o 0 with
  | .ok e => (c.takeImage 1 e, 0)
  | .error a =>
    let c := c.noteCopy a R.CFG_ERR_REASON_A
    let c := (c.setFs .cfg [(R.CFG_ERR_RECORD, a.record), (R.CFG_ERR_OFFSET, a.off)]).raise .cfg St.CFG_COPY_FAILED
    match c.readCopy o 0x1000000 with
    | .ok e => (c.takeImage 2 e, 0)
    | .error b => (c.noteCopy b R.CFG_ERR_REASON_B, a.code)

/-- Stage 5 (R22): the PLLs lock, and the memory rate is what the image asks for and the part is binned for. -/
def Chip.stageClocks (c : Chip) (fast : Bool) : Chip :=
  let want := match c.image with | some i => bit i.identity 17 | none => false
  forAll (upto 4) c (fun c d =>
    let c := (c.setFs (.clk d) [(R.CLK_STATE_NOC_LOCK, 1), (R.CLK_STATE_MC_LOCK, 1)]).setF (.mem d) R.MEM_STATE_RATE (b2n (want && fast))
    c.raiseIf (want && !fast) (.mem d) St.MEM_RATE_CLAMPED)

/-- Is a half of the seed cache, or MEM_SEEDS, valid for a serial and a rate (R430, R431)? The CRC covers the block but the CRC itself. -/
def SeedHalf.valid (h : SeedHalf) (serial rate : Nat) : Bool := h.good && h.serial == serial && h.rate == rate
def seedsValid (bs : List Byte) (serial rate : Nat) : Bool :=
  recNat bs 0 8 == serial && field (recNat bs 8 4) 0 1 == rate && recNat bs 12 4 == crc32 (bs.take 12 ++ bs.drop 16)

/-- The seed cache as newer and older half. -/
def Flash.halves (f : Flash) : List SeedHalf :=
  let l := f.seedA.toList ++ f.seedB.toList
  match l with
  | [a, b] => if a.age < b.age then [b, a] else [a, b]
  | l => l

/-- The trained results go into the older half (R430). -/
def Flash.store (f : Flash) (serial rate : Nat) : Flash :=
  let h (age : Nat) : SeedHalf := ⟨serial, rate, true, age⟩
  match f.seedA, f.seedB with
  | none, none => { f with seedA := some (h 1) }
  | some a, none => { f with seedB := some (h (a.age + 1)) }
  | none, some b => { f with seedA := some (h (b.age + 1)) }
  | some a, some b => if a.age < b.age then { f with seedA := some (h (b.age + 1)) } else { f with seedB := some (h (a.age + 1)) }

/-- The log is read: each entry whose tag fails is ignored and noted (R433). -/
def Chip.readLog (c : Chip) : Chip := forAll (c.bench.entries.filter (fun e => !e.good)) c (fun c _ => c.raise .cfg St.CFG_LOG_TAG_BAD)

/-- Stage 6 (R430, R456): each present member starts from the first seed that is valid, or is trained in full; a member that fails is declared failed. -/
def Chip.stageMemory (c : Chip) (r : StageFindings) : Chip :=
  let c := c.readLog
  let serial := c.getF (.boot 0) R.BOOT_SERIAL
  let rate := c.getF (.mem 0) R.MEM_STATE_RATE
  let half (d h : Nat) : Bool := (upto 4).any (fun i => c.grpPresent (8 * d + 4 * h + i))
  let c := c.switchOn ((upto 4).flatMap (fun d => (if half d 0 then [15 * d + 9] else []) ++ (if half d 1 then [15 * d + 10] else [])))
  let gs := (upto 32).filter c.grpPresent
  let c := forAll gs c (fun c g => c.setFs (.grp g) [(R.GRP_STATE, 1), (R.GRP_STATE_PARITY, 7)])
  let cache := c.flash.halves
  let seeds := match c.image with | some i => i.seeds | none => []
  let useCache := cache.any (fun h => h.valid serial rate)
  let useRecord := !useCache && !seeds.isEmpty && seedsValid seeds serial rate
  let refused := cache.any (fun h => !h.valid serial rate) || (!useCache && !seeds.isEmpty && !useRecord)
  let ms := gs.flatMap (fun g => (upto 8).map (fun m => (g, m)))
  let full (s : Nat) : Bool := bit r.seedFails.toNat s ||
    c.bench.entries.any (fun e => e.kind == 2 && e.pos == s && c.bench.live e)
  let nFull := (ms.filter (fun e => (!useCache && !useRecord) || full (subchOf e.1 e.2))).length
  let src := if ms.length < 2 * nFull ∨ (!useCache ∧ !useRecord) then 3 else if useCache then 1 else 2
  let c := (c.setF .cfg R.CFG_STATE_SEED_SRC src).raiseIf refused .cfg St.CFG_SEED_REJECTED
  let c := forAll (ms.filter (fun e => bit r.trainFails.toNat (subchOf e.1 e.2))) c (fun c e => c.memberFail e.1 e.2 false)
  if c.faulted 63 || c.board.flashGnt then c.raise .cfg St.CFG_LOG_FULL
  else { c with flash := c.flash.store serial rate }

/-- Lanes with a live log entry are excluded (R434). -/
def Chip.excludeLanes (c : Chip) : Chip :=
  let l := c.bench.entries.filter (fun e => e.kind == 3 && decide (e.pos < 192) && c.bench.live e)
  forAll l c (fun c e =>
    let p := e.pos / 8
    let f := R.BOOT_BENCH_LANE_LANES
    let v := c.getF (.boot (portDie p)) f
    let n := 8 * (p % 6) + e.pos % 8
    let c := { c with lanesOut := c.lanesOut ||| 2 ^ e.pos }
    if bit v n then c else (c.setF (.boot (portDie p)) f (v + 2 ^ n)).raise (.boot 0) St.BOOT_LOG_APPLIED)

/-- Stage 7 (R338, R341, R344, R389, R417, R425, R456): identity, feed, ports, routes and windows; then the ports train on their own. -/
def Chip.stageLinks (c : Chip) : Chip :=
  match c.image with
  | none => c
  | some i =>
    let pairs := (upto 12).filter (fun q => [2 * q, 2 * q + 1].any (fun p => bit (i.ports.getD p 0) R.PORT_CTRL_ENABLE.lsb))
    let c := c.switchOn (pairs.map (fun q => 15 * (q / 3) + 11 + q % 3))
    let c := forAll (upto 4) c (fun c d => c.setFs (.jlk d) [(R.JLK_CTRL_DEVICE_ID, i.device), (R.JLK_CTRL_ID_VALID, 1)])
    let feed := field i.identity 12 4
    let known := feed == c.straps.feedId
    let c := (c.setFs .res [(R.RES_STATE_FEED, feed), (R.RES_STATE_FEED_KNOWN, b2n known)]).raiseIf (!known) .cfg St.CFG_FEED_MISMATCH
    let c := c.raiseIf (bit i.identity 16 != c.straps.bridgeSel) .hbr St.HBR_ROLE_MISMATCH
    let c := c.excludeLanes
    let c := forAll i.ports.zipIdx c (fun c e => if c.portAbsent e.2 then c else c.putWord (.port e.2) 0 (field e.1 0 1 + field e.1 16 18 * 2 ^ 16))
    let c := forAll i.routes c (fun c e => forAll (upto 4) c (fun c d => c.putWord (.route d e.1) 0 e.2))
    let c := forAll i.windows.zipIdx c (fun c e => forAll (upto 4) c (fun c d =>
      ((c.putWord (.win d e.2) 0 e.1.1).putWord (.win d e.2) 8 e.1.2.1).putWord (.win d e.2) 0x10 e.1.2.2))
    forAll (upto 24) c Chip.trainStart

/-! The bench list (R434). -/

/-- Does a live log entry name a unit (R433)? -/
def Chip.logged (c : Chip) (kind pos : Nat) : Bool := c.bench.entries.any (fun e => e.kind == kind && e.pos == pos && c.bench.live e)

/-- One core's standing: benched or not; `held` are cores benched already (R434, R435). -/
def Chip.benchCoreAt (c : Chip) (cl p held : Nat) : Chip × Bool :=
  let pos := cl / 8 * 512 + cl % 8 * 32 + p
  let fused := bit (c.getF (.boot (cl / 8)) (R.BOOT_BENCH_CL_FUSED.nth (cl % 8))) p
  let log := c.logged 1 pos
  let fails := bit c.coreFail pos
  let c := c.raiseIf (fused && !fails) (.boot 0) St.BOOT_FUSED_PASS
  let c := c.raiseIf (log && !fused) (.boot 0) St.BOOT_LOG_APPLIED
  let new := fails && !fused && !log && !bit held p
  let c := if new then (c.raise (.boot 0) St.BOOT_TEST_FAIL).benchAppend 1 1 pos else c
  (c, fused || log || fails || bit held p)

/-- The cores of a cluster: the list, the logical numbers and the spare (R434). `keep` says that benches already held stay (R435). -/
def Chip.benchCluster (c : Chip) (cl : Nat) (keep : Bool) : Chip :=
  let f := R.BOOT_BENCH_CL_BENCHED.nth (cl % 8)
  let held := if keep then c.getF (.boot (cl / 8)) f else 0
  let held := if c.faulted (clusterDomain cl) then 0x1FFFF else held
  let r := (upto 17).foldl (fun (x : Chip × Nat) p =>
    let (c, b) := x.1.benchCoreAt cl p held
    (c, if b then x.2 + 2 ^ p else x.2)) (c, 0)
  let c := r.1.setF (.boot (cl / 8)) f r.2
  let good := (upto 17).filter (fun p => !bit r.2 p)
  let c := forAll (good.take 16).zipIdx c (fun c e => c.setF (.mecl cl) (mapField e.2) e.1)
  c.setFs (.mecl cl) [(R.MECL_SPARE, good.getD 16 0x1F), (R.MECL_SPARE_SPARE_FREE, b2n (decide (17 ≤ good.length))), (R.MECL_SPARE_BENCHED, r.2)]

/-- The ports: benched by fuse or variant already, by the log, by two lanes in it, or by self-test (R434). -/
def Chip.benchPort (c : Chip) (p : Nat) : Chip :=
  let f := R.BOOT_BENCH_LANE_PORTS
  let d := portDie p
  let fails := bit c.portFail p
  if c.portAbsent p then c.raiseIf (!fails && decide (p % 6 < variantPorts c.variantNo)) (.boot 0) St.BOOT_FUSED_PASS
  else
    let log := c.logged 4 p || decide (2 ≤ ((upto 8).filter (fun l => c.logged 3 (8 * p + l))).length)
    let c := c.raiseIf log (.boot 0) St.BOOT_LOG_APPLIED
    let c := if fails && !log then (c.raise (.boot 0) St.BOOT_TEST_FAIL).benchAppend 4 1 p else c
    if !log && !fails then c
    else
      let c := c.portDown p
      ((c.setPort p {}).setFs (.port p) [(R.PORT_STATE, 0)]).setF (.boot d) f (c.getF (.boot d) f + 2 ^ (p % 6))

/-- Does the module fall short of its variant (R434)? -/
def Chip.variantShort (c : Chip) (v : Nat) : Bool :=
  (upto 4).any (fun d => decide (((upto 8).filter (fun k => !c.clusterGone (8 * d + k))).length < variantClusters v)) ||
  (upto 32).any (fun cl => !c.clusterGone cl &&
    decide (17 - popCount (c.getF (.boot (cl / 8)) (R.BOOT_BENCH_CL_BENCHED.nth (cl % 8))) 17 < 16)) ||
  decide (((upto 32).filter (fun g => c.grpPresent g && c.grpState g != 5)).length < variantGroups v)

/-- Form the bench list (R434). A compute reset (`keep`) tests cores alone, and leaves links as they are (R435). -/
def Chip.benchForm (c : Chip) (keep : Bool) : Chip :=
  let c := forAll ((upto 32).filter (fun cl => !c.clusterGone cl)) c (fun c cl => c.benchCluster cl keep)
  if keep then c else forAll (upto 24) c Chip.benchPort

/-! Stages 8 and 9. -/

/-- Stage 8: every group is zeroed, and self-test runs (R417). -/
def Chip.stageTest (c : Chip) (r : StageFindings) : Chip :=
  let c := c.switchOn (((upto 32).filter (fun cl => !c.clusterGone cl)).map clusterDomain)
  let c := c.setMem (c.mem.zeroRange 0 0xFC00000000)
  ({ c with coreFail := r.coreFails.toNat, portFail := r.portFails.toNat }).retarget

/-- One REG_INIT entry on one die (R429): (old & ~mask) | (value & mask), field by field. -/
def Chip.regInit (c : Chip) (d : Nat) (e : Nat × Nat × Nat × Nat) : Chip :=
  match decodeReg d e.1 with
  | none => c
  | some b =>
    forAll (b.fields.filter (fun f => b.base + f.off == d * dieSpan + e.1 && (f.acc == .rw || f.acc == .rwl))) c (fun c f =>
      let m := field e.2.2.2 f.lsb f.width
      let v := field e.2.2.1 f.lsb f.width
      let old := c.getF b f
      c.putF b f ((old &&& (2 ^ f.width - 1 - m)) ||| (v &&& m)))

/-- The registers that the protection record governs (R388, R415, R416, R426). -/
def Chip.protect (c : Chip) (i : Image) : Chip :=
  match i.prot with
  | none => c
  | some p =>
    let c := { c with cabGroups := p.cabGroups, cabSlice := p.cabSlice }
    let c := c.setFs .res [(R.RES_CTRL_PROT_PART, p.protPart), (R.RES_CTRL_ENABLE, b2n p.enable), (R.RES_CTRL_SEAL_SYNC, p.sealSync),
      (R.RES_STATE_ROLE, b2n (bit p.spares (i.device % 64)))]
    let c := forAll p.partners.zipIdx c (fun c e => match e.1 with
      | some x => (c.setPartner e.2 R.RES_PARTNER_DEVICE x).setPartner e.2 R.RES_PARTNER_CONFIGURED 1
      | none => c)
    forAll p.hosts.zipIdx c (fun c e => if e.1.valid then
        c.setFs (.host e.2) [(R.HOST_SRC_SOURCE, e.1.source), (R.HOST_SRC_VALID, 1), (R.HOST_BASE_CAB_BASE, e.1.base), (R.HOST_SIZE_CAB_SIZE, e.1.size)]
      else c)

/-- Stage 9 after the bench list (R417, R429): layout 0, register initialisation, the locks, pairing. -/
def Chip.computeForm (c : Chip) : Chip :=
  match c.image with
  | none => c
  | some i =>
    let ok := ((i.layouts.filter (c.layoutOk i.windows)).map (fun l => 2 ^ l.num)).sum
    let c := c.setFs .layout [(R.LAYOUT_COUNT, i.layouts.length), (R.LAYOUT_VALID, ok)]
    let c := match c.layoutNo 0 with | some l => c.formLayout i.windows l false | none => c
    let c := forAll i.regInit c (fun c e => forAll ((upto 4).filter (bit e.2.1)) c (fun c d => c.regInit d e))
    let c := (c.setF .cfg R.CFG_STATE_LOCKED 1).retarget
    c.pairingStart.relevel

/-- Stage 9 (R417, R434). Cabinets stay up when the variant falls short (R420), so the protection record is in force either way. -/
def Chip.stageCompute (c : Chip) (v : Nat) : Chip × Nat :=
  let c := c.benchForm false
  let c := match c.image with | some i => c.protect i | none => c
  if c.variantShort v then (c, BOOT_VARIANT_SHORT) else (c.computeForm, BOOT_OK)

/-- BRING_UP_STAGE (R417, R418, R420): the stage in progress runs and ends at `us`, or bring-up stops with a code. R420 keeps the host bridge up after
every stop, so one before stage 3 powers it too (log entry 81). Without D0's management core no stage runs (R17, R458). -/
def Chip.bringUp (c : Chip) (o : Otp) (us : Nat) (r : StageFindings) : Chip :=
  let go (c : Chip) (n : Nat) : Chip := c.stageEnd n us
  let stop (c : Chip) (n code : Nat) : Chip := ((if n < 3 then c.stageHost else c).stageEnd n us).bootEnd code
  if c.por || c.silentDie then c
  else match c.getF (.boot 0) R.BOOT_STATE_STAGE with
  | 1 => if r.diesGood then go (c.switchOn [8, 23, 38, 53]) 1 else stop (c.switchOn [8, 23, 38, 53]) 1 BOOT_DIE_FAIL
  | 2 => if o.fuse.verifies then
      let c := c.showFuses o.fuse
      go { c with pldm := { c.pldm with pdrs := true } } 2
    else stop { c with pldm := { c.pldm with pdrs := true } } 2 BOOT_FUSEMAP_BAD
  | 3 => go c.stageHost 3
  | 4 =>
    let (c, code) := c.stageImage o
    if code = 0 then go c 4 else stop c 4 code
  | 5 => go (c.stageClocks o.fuse.fast) 5
  | 6 => go (c.stageMemory r) 6
  | 7 => go c.stageLinks 7
  | 8 => go (c.stageTest r) 8
  | 9 =>
    let (c, code) := c.stageCompute o.fuse.variant
    stop c 9 code
  | _ => c

/-! Compute reset (R435). -/

/-- Blocks of partitions and queues, which the effects of the reset still look at. -/
def Blk.partitionBlk : Blk → Bool
  | .part _ => true | .wq _ => true | .wqp _ => true
  | _ => false

/-- The compute reset begins (R9, R435): queues are held, every register takes the compute-reset value of its table's Reset column, every formed partition takes the cluster effects of
a partition reset, and the queues' rings start again at their first entries (log entry 129). -/
def Chip.compStart (c : Chip) : Chip :=
  let ps := (upto 16).filter (fun p => c.partState p != PS_NONE)
  let c := ({ c with compReset := 2 }).blocksReset (fun b => !b.partitionBlk)
  let c := forAll ps c (fun c p => if c.partState p = PS_RESETTING then c else c.partResetWith p none false)
  { c.blocksReset Blk.partitionBlk with queues := [], waits := c.waits.filter (fun w => match w.who with | .wq _ => false | _ => true) }

/-- COMPUTE_RESET (R435). -/
def Chip.computeReset (c : Chip) : Chip :=
  if !c.bootEnded || (c.compReset == 2 && c.getF (.boot 0) R.BOOT_STATE_CODE == BOOT_OK) then c
  else if c.on .layout R.LAYOUT_SWITCHING then { c with compReset := 1 }
  else c.compStart

/-- A compute reset that waited for a layout switch (R435). -/
def Chip.compPoll (c : Chip) : Chip := if c.compReset = 1 ∧ !c.on .layout R.LAYOUT_SWITCHING then c.compStart else c

/-- COMPUTE_RESET_DONE (R435): self-test has ended; the bench list is formed again, and the partitions become ACTIVE or stay held. A start that
ended with BOOT_VARIANT_SHORT forms its layout now; one that ended with another code has no cores to reset. -/
def Chip.computeDone (c : Chip) (v cores : Nat) : Chip :=
  let code := c.getF (.boot 0) R.BOOT_STATE_CODE
  if c.compReset != 2 then c
  else if code != BOOT_OK && code != BOOT_VARIANT_SHORT then ({ c with compReset := 0 }).raise (.boot 0) St.BOOT_COMPUTE_RESET
  else
    let c := ({ c with coreFail := cores }).benchForm true
    if c.variantShort v then c.bootAll R.BOOT_STATE_CODE BOOT_VARIANT_SHORT
    else
      let c := { c with compReset := 0 }
      let c := if c.getF .layout R.LAYOUT_COUNT = 0 then c.computeForm
        else if c.dieLost then c
        else forAll ((upto 16).filter (fun p => c.partState p == PS_RESETTING)) c (fun c p => c.partEnter p)
      let c := (c.bootAll R.BOOT_STATE_CODE BOOT_OK).setF .hbr R.HBR_CTRL_VF_READY 1
      (c.raise (.boot 0) St.BOOT_COMPUTE_RESET).wqArmAll

/-! The flash bus (R484). -/

/-- FLASH_REQ_ASSERT. -/
def Chip.flashAssert (c : Chip) : Chip := { c with board := { c.board with flashReq := true } }.flashPoll

/-- FLASH_REQ_DEASSERT: what the board has written of the image copies while it held the bus (R422) stands from here on. -/
def Chip.flashDeassert (c : Chip) (off : Nat) (bs : List Byte) : Chip :=
  let image := if c.board.flashGnt ∧ off + bs.length ≤ 0x2000000 then c.flash.image.writeN off bs else c.flash.image
  { c with flash := { c.flash with image := image }, board := { c.board with flashReq := false, flashGnt := false } }

/-! Pins (R475, R485). -/

/-- PWRGD is released, FAULT# is low, SMB_ALERT# is low. -/
def Chip.pwrgd (c : Chip) : Bool := !c.por
def Chip.faultPin (c : Chip) : Bool := c.getF .pwr R.PWR_FAULTED != 0 || c.getF .res R.RES_STATE_ROLE == 4
def Chip.alertPin (c : Chip) : Bool := !c.pldm.events.isEmpty
def Chip.smbAddress (c : Chip) : Nat := 0x30 + c.straps.smbAddr

end Sys2Proof.Machine
end

