-- ==== Sys2Proof/Machine/Security.lean ====
section
/-! DEFINITION. The security island (R438-R455): attestation requests and reports, leaf blocks, owner slots and the SVN floor. What touches the one-time-programmable
array works on the chip and the array together. -/

namespace Sys2Proof.Machine

/-! Messages (R449). -/

def MT_ATT_REQ : Nat := 0x0200
def MT_ATT_DATA : Nat := 0x0201
def MT_ATT_REFUSE : Nat := 0x0202
def MT_OWNER_ENROLL : Nat := 0x0208
def MT_OWNER_REVOKE : Nat := 0x0209
def MT_SVN_COMMIT : Nat := 0x020A
def MT_SEC_RESULT : Nat := 0x020B

/-- Send a message of the island: to a device over Jalfo, or on the sideband. -/
def Chip.secSend (c : Chip) (to_ : Option Nat) (typ : Nat) (bs : List Byte) : Chip :=
  match to_ with
  | none => { c with out := c.out ++ [.sideband typ bs] }
  | some dev => (c.fabSend 0 none { opc := 0x30, vc := 5, dst := dev, src := c.deviceId, addr := typ, len := max 1 bs.length, data := bs }).1

/-- Refuse a request with its COMP code. -/
def Chip.attRefuse (c : Chip) (to_ : Option Nat) (nonce : List Byte) (code : Code) : Chip :=
  c.secSend to_ MT_ATT_REFUSE (leBytes 2 code ++ nonce.take 4)

/-- Answer a request in chunks of up to 4,088 bytes (R449). -/
def Chip.attData (c : Chip) (to_ : Option Nat) (nonce bs : List Byte) : Chip :=
  forAll (upto (ceilDiv bs.length 4088)) c (fun c i =>
    c.secSend to_ MT_ATT_DATA (leBytes 2 (4088 * i) ++ leBytes 2 bs.length ++ nonce.take 4 ++ (bs.drop (4088 * i)).take 4088))

/-- The result of an owner command or SVN_COMMIT. -/
def Chip.secResult (c : Chip) (code : Code) : Chip := c.secSend none MT_SEC_RESULT (leBytes 2 code)

/-! Admission (R450). -/

/-- Admit a request that has come to die `d`, or refuse it. -/
def Chip.attAdmit (c : Chip) (d : Nat) (source : Option Nat) (nonce : List Byte) (kind : Nat) : Chip :=
  let allowed := match source with
    | none => true
    | some dev => c.on .sec R.SEC_CTRL_FABRIC && dev / 64 == c.deviceId / 64 && bit (c.getF .sec R.SEC_ATT_ALLOW_RANKS) (dev % 64)
  if !allowed then (c.raise .sec St.SEC_DENIED).attRefuse source nonce COMP_ATT_DENIED
  else if c.faulted 61 then c.attRefuse source nonce COMP_ATT_FAULT
  else if 1 < kind then c.raise (.jlk d) St.JLK_BAD_MSG
  else if 8 ≤ c.island.queue.length then (c.raise .sec St.SEC_BUSY).attRefuse source nonce COMP_ATT_BUSY
  else { c with island := { c.island with queue := c.island.queue ++ [{ source := source, nonce := nonce, kind := kind }] } }

/-- A security message from a port of the fabric (R449): reserved types are ignored and count as BAD_MSG at the port's die. -/
def Chip.secMessage (p : Nat) (c : Chip) (m : Msg) : Chip :=
  let t := m.addr % 65536
  if t = MT_ATT_REQ then c.attAdmit (portDie p) (some m.src) (m.data.take 32) (recNat m.data 32 1)
  else if t = MT_OWNER_ENROLL ∨ t = MT_OWNER_REVOKE ∨ t = MT_SVN_COMMIT then
    (c.raise .sec St.SEC_DENIED).attRefuse (some m.src) [] COMP_ATT_DENIED
  else if t = MT_ATT_DATA ∨ t = MT_ATT_REFUSE ∨ t = MT_SEC_RESULT then c
  else c.raise (.jlk (portDie p)) St.JLK_BAD_MSG

/-- Is a message one of the island's (R449)? -/
def isSecMsg (m : Msg) : Bool := m.opc == 0x30 && m.addr % 65536 / 256 == 2

/-! Reports (R448). -/

/-- A mask of bits as bytes. -/
def maskBytes (n : Nat) (f : Nat → Bool) : List Byte :=
  (upto n).map (fun i => BitVec.ofNat 8 (((upto 8).map (fun b => if f (8 * i + b) then 2 ^ b else 0)).sum))

/-- The body of the FW_MC record, and the version of a firmware record (R424). -/
def Image.fwRecord (i : Image) (t : Nat) : List Byte := recBody (takeRecords i.fw 0 (i.fw.length / 8 + 1) 0 0).1 t

/-- The body of a report on a leaf (R448). -/
def Chip.report (c : Chip) (o : Otp) (r : AttReq) (leaf : Nat) : List Byte :=
  let f := o.fuse
  let img (g : Image → List Byte) (n : Nat) : List Byte := match c.image with | some i => g i | none => List.replicate n 0
  let core (fld : Field) (n : Nat) : Bool :=
    bit (c.getF (.boot (n / 136)) (fld.nth (n % 136 / 17))) (n % 17)
  let fused := (upto 4).flatMap (fun d => match f.dies[d]? with
    | some x => leBytes 4 x.lot ++ leBytes 1 x.wafer ++ leBytes 1 x.dieX ++ leBytes 1 x.dieY ++ [0] ++ leBytes 2 x.testRev ++ leBytes 2 x.dateCode ++
        leBytes 4 0
    | none => List.replicate 16 0)
  leBytes 4 0x47394154 ++ leBytes 2 1 ++ leBytes 2 512 ++ leBytes 8 f.serial ++ (r.nonce ++ List.replicate 32 0).take 32 ++ leBytes 4 leaf ++
  leBytes 2 (match r.source with | some d => d | none => 2 ^ 15) ++ leBytes 1 f.variant ++ leBytes 1 (c.getF (.boot 0) R.BOOT_STATE_CODE) ++
  leBytes 4 (c.getF .cfg R.CFG_STATE_SVN) ++ leBytes 4 o.svnFloor ++ fused ++ Config.shake256 Config.islandRom ++
  img (fun i => Config.shake256 i.header) 32 ++ img (fun i => Config.shake256 i.fw) 32 ++ img (fun i => Config.shake256 i.cfg) 32 ++
  img (fun i => Config.shake256 (i.fwRecord 0x0100)) 32 ++
  leBytes 1 (c.getF .cfg R.CFG_STATE_COPY) ++ leBytes 1 (c.getF .sec R.SEC_STATE_CFG_SIGNER) ++ leBytes 1 (c.getF .layout R.LAYOUT_CURRENT) ++
  leBytes 1 (c.getF .res R.RES_STATE_LEVEL) ++ img (fun i => leBytes 4 (recNat (i.fwRecord 0x0100) 0 4)) 4 ++
  img (fun i => leBytes 4 (recNat (i.fwRecord 0x0101) 0 4)) 4 ++ leBytes 4 0 ++
  maskBytes 68 (core R.BOOT_BENCH_CL_FUSED) ++ maskBytes 68 (core R.BOOT_BENCH_CL_BENCHED) ++
  maskBytes 4 (fun n => c.clusterGone n) ++ maskBytes 4 (fun n => decide (n < 24) && c.portAbsent n) ++
  maskBytes 24 (fun n => bit (c.getF (.boot (n / 48)) R.BOOT_BENCH_LANE_LANES) (n % 48)) ++
  maskBytes 32 (fun n => bit (c.getF (.boot (n / 64)) R.BOOT_BENCH_SUB_SUBCH) (n % 64)) ++ leBytes 8 0

/-! The certificate (R445). -/

/-- The body of the certificate: 128 bytes, with the attestation key of 68 bytes and the digest of the fuse records in die order. -/
def FuseRecord.certBody (f : FuseRecord) : List Byte :=
  leBytes 4 0x47394345 ++ leBytes 2 1 ++ leBytes 2 0 ++ leBytes 8 f.serial ++ (upto 68).map Config.attKeyByte ++
    Config.shake256 (f.dies.flatMap (fun d => Config.fuseBytes (f.words d))) ++ leBytes 4 Config.mfgKeyId.toNat ++ leBytes 8 0

/-- The certificate as the island returns it: the body, then the manufacturing key's signature. -/
def FuseRecord.certificate (f : FuseRecord) : List Byte := f.certBody ++ Config.certSign f.certBody

/-! Leaf blocks (R446). -/

/-- The lowest bit of the block counter that reads 0. -/
def Otp.freeBlock (o : Otp) : Option Nat := (upto 4096).find? (fun b => !bit o.blocks b && !bit o.unclean b)

/-- Burn the next block's bit; `torn` burns fail their read-back first, each counted as burnt. The block, and how many failed. -/
def Otp.reserve (o : Otp) : Nat → Otp × Option Nat × Nat
  | 0 => match o.freeBlock with
    | none => (o, none, 0)
    | some b => ({ o with blocks := o.blocks ||| 2 ^ b }, some b, 0)
  | torn + 1 => match o.freeBlock with
    | none => (o, none, 0)
    | some b =>
      let r := Otp.reserve { o with unclean := o.unclean ||| 2 ^ b } torn
      (r.1, r.2.1, r.2.2 + 1)

/-- Is a reserved block with a leaf left at hand? -/
def Chip.leafReady (c : Chip) : Bool := c.on .sec R.SEC_INDEX_RESERVED && c.getF .sec R.SEC_INDEX_NEXT != 0x100000

/-- Take the next leaf for a signature: it is consumed now, and with the 256th the block is spent. -/
def Chip.takeLeaf (c : Chip) : Chip × Nat :=
  let k := c.getF .sec R.SEC_INDEX_NEXT
  if k % 256 = 255 then (c.setFs .sec [(R.SEC_INDEX_NEXT, 0x100000), (R.SEC_INDEX_RESERVED, 0)], k)
  else (c.setF .sec R.SEC_INDEX_NEXT (k + 1), k)

/-- Bits of the block counter below `b` that read neither value cleanly, and so are skipped (R446). -/
def Otp.skipped (o : Otp) (b : Nat) : Nat := popCount o.unclean b

/-- Has the attestation key no leaf left: none reserved, and no bit that reads 0 (R446)? -/
def Chip.exhausted (c : Chip) (o : Otp) : Bool := !c.leafReady && o.freeBlock.isNone

/-- Replace the queue. -/
def Chip.setQ (c : Chip) (l : List AttReq) : Chip := { c with island := { c.island with queue := l } }

/-- A report request at the head of the queue: refused, or its signature starts (R444, R446, R450). `torn` and `tree` are what the array and the stored
tree do; the tree is checked before a signature, so after the block is reserved (log entry 158). The flag says whether it was refused. -/
def Chip.reportStart (c : Chip) (o : Otp) (r : AttReq) (torn : Nat) (tree : Bool) : Chip × Otp × Bool :=
  let refuse (c : Chip) (o : Otp) (code : Code) : Chip × Otp × Bool := (c.attRefuse r.source r.nonce code, o, true)
  let spent (c : Chip) (o : Otp) : Chip × Otp × Bool := refuse ((c.showOtp o).raise .sec St.SEC_EXHAUSTED) o COMP_ATT_EXHAUSTED
  if c.island.fault || !o.key then refuse c o COMP_ATT_FAULT
  else if c.exhausted o then spent c o
  else if c.getF .sec R.SEC_TOKENS = 0 then refuse (c.raise .sec St.SEC_BUSY) o COMP_ATT_BUSY
  else
    let sign (c : Chip) (o : Otp) : Chip × Otp × Bool :=
      if !tree then
        let c := ({ c with island := { c.island with fault := true } }).raise .sec St.SEC_TREE_BAD
        refuse ((c.showOtp o).setF .sec R.SEC_STATE_KEY 3) o COMP_ATT_FAULT
      else
        let (c, leaf) := c.takeLeaf
        let c := (c.setF .sec R.SEC_TOKENS (c.getF .sec R.SEC_TOKENS - 1)).showOtp o
        let q : AttReq := { r with leaf := some leaf, body := c.report o r leaf }
        (c.setQ (q :: c.island.queue.drop 1), o, false)
    if c.leafReady then sign c o
    else
      let (o, b, _) := o.reserve torn
      let c := forAll (upto (o.skipped (b.getD 4096))) c (fun c _ => c.raise .sec St.SEC_OTP_TORN)
      match b with
      | none => spent c o
      | some b => sign (c.setFs .sec [(R.SEC_INDEX_NEXT, 256 * b), (R.SEC_INDEX_RESERVED, 1)]) o

/-- Serve the queue until a signature runs or it is empty (R447, R450, R451); before stage 2 has ended, requests wait. -/
def Chip.islandServe (c : Chip) (o : Otp) (torn : Nat) (tree : Bool) : Nat → Chip × Otp
  | 0 => (c, o)
  | fuel + 1 =>
    if c.getF (.boot 0) R.BOOT_STATE_STAGE < 3 || c.faulted 61 || c.silentDie then (c, o)
    else match c.island.queue with
    | [] => (c, o)
    | r :: l =>
      if r.leaf.isSome then (c, o)
      else if r.kind = 1 then
        let c := ((c.setQ l).addF .sec R.SEC_CERTS 1).attData r.source r.nonce o.fuse.certificate
        c.islandServe o torn tree fuel
      else
        let (c, o, refused) := c.reportStart o r torn tree
        if refused then (c.setQ l).islandServe o torn tree fuel else (c, o)

/-- ATT_REQ (R449, R450): from a port, or on the sideband. -/
def Chip.attReq (c : Chip) (o : Otp) (via : Option Nat) (nonce : List Byte) (kind torn : Nat) (tree : Bool) : Chip × Otp :=
  let c := match via with
    | some p => c.takeMsg p isSecMsg (Chip.secMessage p)
    | none => if c.sidebandUp then c.attAdmit 0 none nonce kind else c
  c.islandServe o torn tree 9

/-- ATT_SIGNATURE_DONE (R447): the report goes out, and the next request starts. -/
def Chip.attDone (c : Chip) (o : Otp) (us torn : Nat) (tree : Bool) : Chip × Otp :=
  match c.island.queue with
  | [] => (c, o)
  | r :: l => match r.leaf with
    | none => (c, o)
    | some leaf =>
      let c := ((c.setQ l).addF .sec R.SEC_SIGNATURES 1).setF .sec R.SEC_LAST_SIGN_US us
      (c.attData r.source r.nonce (r.body ++ Config.xmssSign leaf r.body)).islandServe o torn tree 9

/-- The most tokens that the island holds (R455). -/
def Chip.tokenDepth (c : Chip) : Nat :=
  let d := c.getF .sec R.SEC_CTRL_DEPTH
  if d = 0 then 16 else d

/-- The tokens keep to their limit when it falls (R450). -/
def Chip.tokenCap (c : Chip) : Chip :=
  if c.tokenDepth < c.getF .sec R.SEC_TOKENS then c.setF .sec R.SEC_TOKENS c.tokenDepth else c

/-- ATT_TOKEN_GAIN (R450). -/
def Chip.tokenGain (c : Chip) : Chip := c.setF .sec R.SEC_TOKENS (min c.tokenDepth (c.getF .sec R.SEC_TOKENS + 1))

/-! Owner slots and the SVN floor (R441, R442). -/

/-- Has stage 4 ended (R442)? -/
def Chip.stage4Ended (c : Chip) : Bool :=
  let code := c.getF (.boot 0) R.BOOT_STATE_CODE
  decide (5 ≤ c.getF (.boot 0) R.BOOT_STATE_STAGE) && code != BOOT_DIE_FAIL && code != BOOT_FUSEMAP_BAD

/-- An accepted request has burnt a slot (R442). -/
def Chip.slotBurnt (c : Chip) (o : Otp) (slot : Nat) (v : OwnerSlot) (clean : Bool) : Chip × Otp :=
  let o := { o with owners := o.owners.set slot (if clean then v else .torn) }
  let c := ((c.raise .sec St.SEC_OWNER_CHANGE).raiseIf (!clean) .sec St.SEC_OTP_TORN).showOtp o
  (c.secResult (if clean then COMP_OK else COMP_ATT_FAULT), o)

/-- Refuse an owner command. -/
def Chip.ownerDenied (c : Chip) (o : Otp) : Chip × Otp := ((c.raise .sec St.SEC_DENIED).secResult COMP_ATT_DENIED, o)

/-- Enrol a key (R442). -/
def Chip.enroll (c : Chip) (o : Otp) (slot : Nat) (key sig : List Byte) (clean : Bool) : Chip × Otp :=
  let serial := leBytes 8 o.fuse.serial
  let ok := o.owners[slot]? == some .blank &&
    (if slot = 0 then Config.xmssOk key (serial ++ key) sig
     else (o.usable.filter (fun e => e.1 != slot)).any (fun e => Config.xmssOk e.2 (serial ++ leBytes 1 slot ++ key) sig))
  if ok then c.slotBurnt o slot (.enrolled key) clean else c.ownerDenied o

/-- Revoke a slot (R442). -/
def Chip.revoke (c : Chip) (o : Otp) (slot signer : Nat) (sig : List Byte) (clean : Bool) : Chip × Otp :=
  let serial := leBytes 8 o.fuse.serial
  match o.usable.find? (fun e => e.1 == slot), o.usable.find? (fun e => e.1 == signer && e.1 != slot) with
  | some e, some s =>
    if Config.xmssOk s.2 (serial ++ leBytes 1 slot) sig then c.slotBurnt o slot (.revoked e.2) clean else c.ownerDenied o
  | _, _ => c.ownerDenied o

/-- Carry out an owner command, or let it wait until stage 4 has ended. -/
def Chip.ownerCmd (c : Chip) (o : Otp) (x : OwnerCmd) : Chip × Otp :=
  if c.faulted 61 then (c.secResult COMP_ATT_FAULT, o)
  else if !c.stage4Ended then ({ c with island := { c.island with waiting := c.island.waiting ++ [x] } }, o)
  else match x with
  | .enroll slot key sig clean => c.enroll o slot key sig clean
  | .revoke slot signer sig clean => c.revoke o slot signer sig clean

/-- An owner command on the sideband, or one that has come over Jalfo and is refused (R449). -/
def Chip.ownerReq (c : Chip) (o : Otp) (via : Option Nat) (x : OwnerCmd) : Chip × Otp :=
  match via with
  | some p => (c.takeMsg p isSecMsg (Chip.secMessage p), o)
  | none => if c.sidebandUp then c.ownerCmd o x else (c, o)

/-- Owner commands that have waited for stage 4 (R442). -/
def Chip.ownerPoll (c : Chip) (o : Otp) : Chip × Otp :=
  if !c.stage4Ended then (c, o)
  else
    let l := c.island.waiting
    l.foldl (fun (x : Chip × Otp) w => x.1.ownerCmd x.2 w) ({ c with island := { c.island with waiting := [] } }, o)

/-- Burn `n` bits upward from the lowest unburnt one (R441). -/
def burnUp (v n : Nat) : Nat := ((upto 255).filter (fun b => !bit v b)).take n |>.foldl (fun v b => v ||| 2 ^ b) v

/-- SVN_COMMIT (R441). -/
def Chip.svnCommit (c : Chip) (o : Otp) (via : Option Nat) (clean : Bool) : Chip × Otp :=
  match via with
  | some p => (c.takeMsg p isSecMsg (Chip.secMessage p), o)
  | none =>
    let want := min 255 (c.getF .cfg R.CFG_STATE_SVN)
    if !c.sidebandUp then (c, o)
    else if c.faulted 61 then (c.secResult COMP_ATT_FAULT, o)
    else if c.getF (.boot 0) R.BOOT_STATE_CODE ≠ BOOT_OK then c.ownerDenied o
    else if want ≤ o.svnFloor then (c.secResult COMP_OK, o)
    else if !clean then (c.secResult COMP_ATT_FAULT, o)
    else
      let o := { o with svn := burnUp o.svn (want - o.svnFloor) }
      ((c.showOtp o).secResult COMP_OK, o)

end Sys2Proof.Machine
end

