-- ==== Sys2Proof/Machine/RegWrite.lean ====
section
/-! DEFINITION. Register writes (R4-R10, R257, R341, R349, R365, R454), and the test access ports (R486). -/

namespace Sys2Proof.Machine

/-- Does software of a partition in a share set write to a DMA channel of another member (R365)? -/
def Chip.otherMember (c : Chip) (who : RegAgent) (n : Nat) : Option Nat :=
  match who with
  | .part p => if c.shared p.val && n / 8 != c.memberOf p.val then some p.val else none
  | _ => none

/-- A write to a channel's registers that the channel's owner refuses (R257, R365). -/
def Chip.chanRefused (c : Chip) (who : RegAgent) (cl n : Nat) : Option Chip :=
  match c.otherMember who n with
  | some p => some (c.raise (.part p) St.PART_DENIED)
  | none => if c.dmaOwned cl n then some (c.raise (.dma cl) St.DMA_CH_OWNED) else none

/-- What follows from the stored fields `fs` beyond their value (R269, R461; a set of a counter's BASE is an update, R278, R296; a window cleared
to COUNT = 0 holds no VT, R90). -/
def Chip.regAfter (c : Chip) (b : Blk) (fs : List Field) : Chip :=
  match b with
  | .sync i => c.syncCount i (b2n (fs.contains R.SYNC_CFG_BASE))
  | .wq n => c.wqArm n
  | .clkcl _ => c.retarget
  | .me cl k => if fs.any (fun f => f == R.ME_ACC_WIN_COUNT0 || f == R.ME_ACC_WIN_COUNT1) then c.closeWindows cl k else c
  | _ => c

/-- Find the register of an access and do `f` with its block (R4, R10, R354). -/
def Chip.atReg (c : Chip) (d off size : Nat) (f : Chip → Blk → Chip) : Chip :=
  match c.findReg d off size with
  | .error c => c
  | .ok b => match b with
    | .hbr => if c.on .hbr R.HBR_CTRL_ENABLE then f c b else c
    | .apt _ => if c.on .hbr R.HBR_CTRL_ENABLE then f c b else c
    | _ => f c b

/-- The partition of a register agent, for the rules that name partitions. -/
def agentPart : RegAgent → Option Nat
  | .part p => some p.val
  | .vf n => some n.val
  | _ => none

/-- The function through whose BAR0 an agent reaches registers; none for an agent inside the module. -/
def hostOf : RegAgent → Option Nat
  | .pf => some 0
  | .vf n => some (n + 1)
  | _ => none

/-- What a BAR0 offset names (R348): a register of D0 by its die offset, a dword of the MSI-X table, its pending bits, or nothing. -/
inductive BarPlace where
  | reg (off : Nat)
  | msix (dword : Nat)
  | pba (dword : Nat)
  | none
  deriving DecidableEq, Repr

/-- The layout of BAR0 (R348): of the PF the HBR registers, the WQ block of all queues, the MSI-X table and its PBA; of VF n the registers of queues
4n to 4n + 3, of partition n, the MSI-X table and its PBA. -/
def barPlace (fn off : Nat) : BarPlace :=
  let table (at_ pba : Nat) : BarPlace :=
    if at_ ≤ off ∧ off < at_ + 16 * msixVectors fn then .msix ((off - at_) / 4)
    else if pba ≤ off ∧ off < pba + 8 * ceilDiv (msixVectors fn) 64 then .pba ((off - pba) / 4) else .none
  if fn = 0 then
    if off < 0x100000 then .reg (0x2C00000 + off)
    else if off < 0x500000 then .reg (0x1C00000 + (off - 0x100000))
    else table 0x800000 0x801000
  else if off < 0x100 then .reg (0x1C01000 + 0x100 * (fn - 1) + off)
  else if 0x400 ≤ off ∧ off < 0x440 then .reg (0x1C00400 + 0x40 * (fn - 1) + (off - 0x400))
  else table 0x8000 0x9000

/-- Where an agent's access lies: a host names an offset in its BAR0, any other agent a die's register offset. -/
def regPlace (who : RegAgent) (off : Nat) : BarPlace :=
  match hostOf who with
  | some fn => barPlace fn off
  | .none => .reg off

/-- May the agent reach the place: a host only through BAR0 of a function that is there and in D0, while the link is up (R27, R345, R348)? -/
def Chip.barReaches (c : Chip) (who : RegAgent) (d : Nat) : Bool :=
  match hostOf who with
  | some fn => c.linkUp && c.fnThere fn && !(c.hostFn fn).d3hot && d == 0
  | .none => true

/-- May the agent name registers of the module other than those that BAR0 lays out (R27)? -/
def inModule (who : RegAgent) : Bool := (hostOf who).isNone

/-- A write to a register that BAR0 does not show: no host reaches it (R27). -/
def Chip.inside (c : Chip) (who : RegAgent) (f : Chip → Chip) : Chip := if inModule who then f c else c

/-- A write of 4 or 8 bytes to SYNC_VALUE (R295): its upper half increments, and the lower half sets where there is no upper half or that is zero. -/
def Chip.syncWrite (c : Chip) (who : RegAgent) (i off size value : Nat) : Chip :=
  let part := (agentPart who).getD 0
  if size = 4 then (if off % 8 = 4 then c.syncValueInc i value part else c.syncValueSet i value)
  else if value / 2 ^ 32 % 2 ^ 32 = 0 then c.syncValueSet i value
  else c.syncValueInc i (value / 2 ^ 32) part

/-- A write of 4 or 8 bytes to the MSI-X table of a host's function (R348). -/
def Chip.msixStore (c : Chip) (who : RegAgent) (i off size value : Nat) : Chip :=
  let fn := (hostOf who).getD 0
  if size = 4 ∧ off % 4 = 0 then c.msixWrite fn i value
  else if size = 8 ∧ off % 8 = 0 then (c.msixWrite fn i value).msixWrite fn (i + 1) (value / 2 ^ 32)
  else c.badAccess 0 off

/-- A write to a register, by its die and offset. A port's ENABLE and FORCE_DOWN are cleared here and set by rows of their own; only the PF writes the
aperture table (R349). -/
def Chip.regWriteAt (c : Chip) (who : RegAgent) (d off size value : Nat) : Chip :=
  c.atReg d off size (fun c b =>
    let store (c : Chip) : Chip := (c.regStore b d off size value (fun f => !ownRow b f)).regAfter b (b.covered d off size)
    match b with
    | .apt _ => if who = .pf then store c else c
    | .sync i => if off % 16 < 8 then c.syncWrite who i off size value else store c
    | .ch cl n => match c.chanRefused who cl n with
      | some c => c
      | none => store c
    | .port _ =>
      let (lo, _) := accessBits off size
      let keep (f : Field) : Bool := (f == R.PORT_CTRL_ENABLE || f == R.PORT_CTRL_FORCE_DOWN) && bit (value * 2 ^ lo) f.lsb
      c.regStore b d off size value (fun f => !ownRow b f && !keep f)
    | _ => store c)

/-- REG_WRITE: a host's is a TLP to its BAR0, whose counter and offsets are its own (R348, R354). -/
def Chip.regWrite (c : Chip) (who : RegAgent) (d off size value : Nat) : Chip :=
  if !c.barReaches who d then c
  else
    let c := if inModule who then c else c.tlpRx
    match regPlace who off with
    | .reg o => c.regWriteAt who d o size value
    | .msix i => c.msixStore who i off size value
    | _ => c

/-- WINDOW_WRITE (R341). -/
def Chip.windowWrite (c : Chip) (who : RegAgent) (d w word value : Nat) : Chip :=
  let ok := match who with | .mc _ => true | .island => true | _ => false
  if ok then c.regStore (.win d w) d ((Blk.win d w).base - d * dieSpan + 8 * word) 8 value (fun _ => true)
  else c.raise (.jlk d) St.JLK_WIN_WRITE_DENIED

/-- SEC_REG_WRITE (R454). -/
def Chip.secWrite (c : Chip) (who : RegAgent) (off size value : Nat) : Chip :=
  let ok := match who with | .mc d => d.val == 0 | .sideband => true | _ => false
  c.atReg 0 (0x4000000 + off) size (fun c b =>
    if ok then (c.regStore b 0 (0x4000000 + off) size value (fun _ => true)).tokenCap else c.raise .sec St.SEC_DENIED)

/-- A write to a DMA channel register that has a row of its own (R257, R365). -/
def Chip.chanWrite (c : Chip) (who : RegAgent) (cl n : Nat) (f : Chip → Chip) : Chip :=
  match c.chanRefused who cl n with
  | some c => c
  | none => f c

/-! Test access (R486). -/

/-- Positions of J1 that boundary scan covers: every signal position but REF100, REF25 and NOR_VCC. -/
def scanMask : Nat := 2 ^ 64 - 1 - (1 + 2 + 2 ^ 4 + 2 ^ 30)

/-- A TAP instruction is loaded: TRST# is high, and pins that EXTEST drove are released. The module's own state is not disturbed. -/
def Chip.tapLoad (c : Chip) (d : Nat) (t : Tap) (width value : Nat) : Chip :=
  if !c.board.valid then c
  else { c with taps := c.taps.insert d t, board := { c.board with trst := false, driven := none }, out := c.out ++ [.tdo d width value] }

def Chip.tapOf (c : Chip) (d : Nat) : Tap := KMap.getD c.taps d {}

/-- BYPASS: the one-bit bypass register. -/
def Chip.tapBypass (c : Chip) (d : Nat) : Chip := c.tapLoad d { c.tapOf d with held := false, ir := .bypass } 1 0

/-- The IDCODE of a die: version, part number 0x0900 + die, manufacturer, 1. -/
def idcode (d : Nat) : Nat := Config.tapVersion.toNat * 2 ^ 28 + (0x0900 + d) * 2 ^ 12 + Config.jedecId.toNat * 2 + 1

def Chip.tapIdcode (c : Chip) (d : Nat) : Chip := c.tapLoad d { c.tapOf d with held := false, ir := .idcode } 32 (idcode d)

/-- SAMPLE/PRELOAD: the pins are sampled, and the boundary-scan register is loaded. -/
def Chip.tapSample (c : Chip) (d pins preload : Nat) : Chip :=
  c.tapLoad d { c.tapOf d with held := false, ir := .sample, boundary := preload &&& scanMask } 64 (pins &&& scanMask)

/-- EXTEST, with TEST_MODE = 1: the boundary-scan register drives the pins; otherwise it acts as BYPASS. -/
def Chip.tapExtest (c : Chip) (d pins : Nat) : Chip :=
  if !c.board.testMode then c.tapBypass d
  else
    let t := c.tapOf d
    let x := c.tapLoad d { t with held := false, ir := .extest } 64 (pins &&& scanMask)
    if c.board.valid then { x with board := { x.board with driven := some t.boundary } } else x

/-- TRST# low holds every TAP in Test-Logic-Reset. -/
def Chip.trstAssert (c : Chip) : Chip :=
  { c with taps := (upto 4).foldl (fun m d => KMap.insert m d { held := true, ir := .idcode, boundary := (c.tapOf d).boundary }) [],
           board := { c.board with trst := true, driven := none } }

end Sys2Proof.Machine
end

