-- ==== Sys2Proof/Machine/Vector.lean ====
section
/-! DEFINITION. The instructions of the vector engine (R224-R229). A command names a core and an opcode row: the thread that
round robin picks issues, when the instruction at its PC has that opcode; otherwise nothing issues (log entry 5). A picked thread whose PC has left
the scratchpad or whose opcode is unknown fails its run at its turn, whatever opcode the command names (R232; log entry 109). -/

namespace Sys2Proof.Machine

/-- Issue one instruction (R215): its PC and opcode are checked, it is counted, checked for reserved fields (R232), then carried out. -/
def Chip.veIssue (c : Chip) (cl k op : Nat) (body : Chip → Nat → Nat → Chip) : Chip :=
  match c.vePick cl k with
  | none => c
  | some t =>
    let pc := (c.ctx cl k t).pc
    let i := leNat (c.spRead cl k pc 8)
    if spillBase < pc + 8 then c.veFail cl k t 6 pc COMP_VE_INST_INVALID none
    else if !knownVeOp (viOpc i) then c.veFail cl k t 1 pc COMP_VE_INST_INVALID none
    else if viOpc i ≠ op then c
    else
      let v := c.veOf cl k
      let c := (((c.setVe cl k { v with last := t }).addF (.ve cl k) R.VE_INSTS 1).addF (.ve cl k) R.VE_ISSUE_CYC 1)
      if viReserved i then c.veFail cl k t 2 pc COMP_VE_INST_INVALID none else body c t i

/-- A run fails at the instruction of thread `t`. -/
def Chip.veBad (c : Chip) (cl k t reason : Nat) (code : Code) : Chip := c.veFail cl k t reason (c.ctx cl k t).pc code none

/-- Active lanes of VD take `f lane`, the others are unchanged (R215); then the thread goes on. -/
def Chip.vePutLanes (c : Chip) (cl k t i : Nat) (f : Nat → Nat) : Chip :=
  let x := c.ctx cl k t
  let w := viW i
  let old := x.v (viD i)
  (c.setCtx cl k t (x.setV (viD i) (((upto (laneCount w)).map (fun lane =>
    leBytes (laneBytes w) (if x.active i lane then f lane else rawLane w old lane))).flatten))).veNext cl k t

/-- The free value of one lane (log entry 2). -/
def Chip.freeLane (c : Chip) (lane : Nat) : Nat := field (Config.freeBits c.freeCtr 8192) (32 * lane) 32

/-- A lane of source register `r`. -/
def VeCtx.lane (x : VeCtx) (i r lane : Nat) : Nat := rawLane (viW i) (x.v r) lane

/-- An operation on two sources, in floating point or in integers (R228; log entry 26). -/
def Chip.veBinary (c : Chip) (cl k op : Nat) (fop : Bool → FVal → FVal → FVal) (iop : Int → Int → Int) : Chip :=
  c.veIssue cl k op (fun c t i =>
    let x := c.ctx cl k t
    let w := viW i
    c.tick.vePutLanes cl k t i (fun lane =>
      let a := x.lane i (viA i) lane
      let b := x.lane i (viB i) lane
      let free := c.freeLane lane
      if w = 2 then laneInt (iop (sextInt 32 a) (sextInt 32 b)) free
      else laneFp w (fop (bit free 0) (laneVal w a) (laneVal w b))))

def Chip.vadd (c : Chip) (cl k : Nat) : Chip := c.veBinary cl k 0x01 (fun _ => FVal.add) (· + ·)
def Chip.vsub (c : Chip) (cl k : Nat) : Chip := c.veBinary cl k 0x02 (fun _ a b => a.add b.neg) (· - ·)
def Chip.vmul (c : Chip) (cl k : Nat) : Chip := c.veBinary cl k 0x03 (fun _ => FVal.mul) (· * ·)
def Chip.vmax (c : Chip) (cl k : Nat) : Chip := c.veBinary cl k 0x04 fmax max
def Chip.vmin (c : Chip) (cl k : Nat) : Chip := c.veBinary cl k 0x05 fmin min

/-- VFMA: rounded once (R228). -/
def Chip.vfma (c : Chip) (cl k : Nat) : Chip :=
  c.veIssue cl k 0x06 (fun c t i =>
    let x := c.ctx cl k t
    let w := viW i
    c.tick.vePutLanes cl k t i (fun lane =>
      let a := x.lane i (viA i) lane
      let b := x.lane i (viB i) lane
      let d := x.lane i (viC i) lane
      if w = 2 then laneInt (sextInt 32 a * sextInt 32 b + sextInt 32 d) (c.freeLane lane)
      else laneFp w (((laneVal w a).mul (laneVal w b)).add (laneVal w d))))

/-- VABSNEG: IMM[0] takes the absolute value, then IMM[1] negates (R228). -/
def Chip.vabsneg (c : Chip) (cl k : Nat) : Chip :=
  c.veIssue cl k 0x07 (fun c t i =>
    let x := c.ctx cl k t
    let w := viW i
    let imm := viImmU i
    c.tick.vePutLanes cl k t i (fun lane =>
      let a := x.lane i (viA i) lane
      if w = 2 then
        let n := sextInt 32 a
        let n := if bit imm 0 then (n.natAbs : Int) else n
        laneInt (if bit imm 1 then -n else n) (c.freeLane lane)
      else
        let n := laneVal w a
        let n := if bit imm 0 then n.abs else n
        laneFp w (if bit imm 1 then n.neg else n)))

/-- VCMP: a mask register takes one bit an active lane (R228). Relation code 7 is not listed: its bits are free. -/
def Chip.vcmp (c : Chip) (cl k : Nat) : Chip :=
  c.veIssue cl k 0x08 (fun c t i =>
    let m := viD i
    if 4 ≤ m || m = 0 then c.veBad cl k t 2 COMP_VE_INST_INVALID
    else
      let x := c.ctx cl k t
      let w := viW i
      let rel := viImmU i % 8
      let free := Config.freeBits c.freeCtr 256
      let old := KMap.getD x.mask m 0
      let new := ((upto 256).map (fun lane =>
        let v := if lane < laneCount w && x.active i lane then
            (if rel = 7 then bit free lane
             else veCmp rel (laneVal w (x.lane i (viA i) lane)) (laneVal w (x.lane i (viB i) lane)))
          else bit old lane
        b2n v * 2 ^ lane)).sum
      (c.tick.setCtx cl k t { x with mask := x.mask.insert m new }).veNext cl k t)

/-- VSEL: every lane of VD takes VA where the mask is set and VB where it is clear (R228; log entry 29). -/
def Chip.vsel (c : Chip) (cl k : Nat) : Chip :=
  c.veIssue cl k 0x09 (fun c t i =>
    let x := c.ctx cl k t
    let w := viW i
    (c.setCtx cl k t (x.setV (viD i) (((upto (laneCount w)).map (fun lane =>
      leBytes (laneBytes w) (x.lane i (if x.active i lane then viA i else viB i) lane))).flatten))).veNext cl k t)

/-- VBCAST: active lanes take the low bits of scalar VA (R228). -/
def Chip.vbcast (c : Chip) (cl k : Nat) : Chip :=
  c.veIssue cl k 0x0A (fun c t i => c.vePutLanes cl k t i (fun _ => (c.ctx cl k t).s (viA i)))

/-- A function of one source (R228). Of INT32 lanes the spec states no result: free values. -/
def Chip.veFunction (c : Chip) (cl k op : Nat) (f : FVal → Nat → FVal) : Chip :=
  c.veIssue cl k op (fun c t i =>
    let x := c.ctx cl k t
    let w := viW i
    c.tick.vePutLanes cl k t i (fun lane =>
      if w = 2 then c.freeLane lane else laneFp w (f (laneVal w (x.lane i (viA i) lane)) (c.freeLane lane))))

def Chip.vexp2 (c : Chip) (cl k : Nat) : Chip := c.veFunction cl k 0x10 (veFun 0)
def Chip.vlog2 (c : Chip) (cl k : Nat) : Chip := c.veFunction cl k 0x11 (veFun 1)
def Chip.vrcp (c : Chip) (cl k : Nat) : Chip := c.veFunction cl k 0x12 (veFun 2)
def Chip.vrsqrt (c : Chip) (cl k : Nat) : Chip := c.veFunction cl k 0x13 (veFun 3)
def Chip.vsqrt (c : Chip) (cl k : Nat) : Chip := c.veFunction cl k 0x14 (fun v _ => veSqrt v)

/-- A reduction over the active lanes (R228): every lane of VD and the low bits of scalar IMM[4:0] take it; the scalar's
other bits, and a reduction over no lane, are free values. -/
def Chip.veReduce (c : Chip) (cl k op : Nat) (fop : Bool → FVal → FVal → FVal) (pre : FVal → FVal)
    (iop : List Int → Int) : Chip :=
  c.veIssue cl k op (fun c t i =>
    let x := c.ctx cl k t
    let w := viW i
    let raws := ((upto (laneCount w)).filter (x.active i)).map (x.lane i (viA i))
    let free := Config.freeBits c.freeCtr 96
    let bits := 8 * laneBytes w
    let res := if raws.isEmpty then free % 2 ^ bits
      else if w = 2 then laneInt (iop (raws.map (sextInt 32))) free
      else match laneTree (fop (bit free 0)) ((upto (laneCount w)).map (fun lane =>
          if x.active i lane then some (pre (laneVal w (x.lane i (viA i) lane))) else none)) with
        | some v => laneFp w v
        | none => 0
    let x := x.setV (viD i) (((upto (laneCount w)).map (fun _ => leBytes (laneBytes w) res)).flatten)
    let x := x.setS (viImmU i % 32) (res % 2 ^ bits + (free >>> 32) * 2 ^ bits)
    (c.tick.setCtx cl k t x).veNext cl k t)

def Chip.vrsum (c : Chip) (cl k : Nat) : Chip := c.veReduce cl k 0x18 (fun _ => add32) id List.sum
def Chip.vrmax (c : Chip) (cl k : Nat) : Chip := c.veReduce cl k 0x19 fmax id (fun l => l.foldl max (l.headD 0))
def Chip.vrmaxabs (c : Chip) (cl k : Nat) : Chip :=
  c.veReduce cl k 0x1A fmax FVal.abs (fun l => (l.map (fun x => (x.natAbs : Int))).foldl max 0)

/-- Bytes of `n` packed elements of a format in a register: the elements, then one scale byte a block for an MX format (log
entry 32). -/
def packedBytes (fmt n : Nat) : Nat := rowBytes fmt n + (if isMx fmt then n / 32 else 0)

/-- Position of an element's draw within a VE_RUN (R229). -/
def vePos (t cvts lane : Nat) : Nat := (cvts * 8 + t) * 256 + lane

/-- VCVT (R228, R134-R136): active lanes are packed from the low bytes of VD; the elements of inactive lanes and the bytes
above keep their values. -/
def Chip.vcvt (c : Chip) (cl k : Nat) : Chip :=
  c.veIssue cl k 0x20 (fun c t i =>
    let x := c.ctx cl k t
    let w := viW i
    let fmt := viFmt i
    let n := laneCount w
    match fmtOf fmt with
    | none => c.veBad cl k t 3 COMP_VE_INST_INVALID
    | some f =>
      if 512 < packedBytes fmt n then c.veBad cl k t 3 COMP_VE_INST_INVALID
      else
        let seq := x.run.getD 0
        let mode (lane : Nat) : Rnd :=
          (rndOf (viRnd i) (Config.srDraw (c.srKey cl) (coreKey cl k) 3 seq (vePos t x.cvts lane)).toNat).getD .rne
        let val (lane : Nat) : FVal := (laneVal w (x.lane i (viA i) lane)).scale (viImm i)
        let act := (upto n).filter (x.active i)
        let out := if isMx fmt then
            (upto (n / 32)).foldl (fun o b =>
              let ls := act.filter (fun lane => lane / 32 = b)
              if ls.isEmpty then o
              else
                let sc := blockScale fmt (ls.map val)
                let o := ls.foldl (fun o lane => setElem fmt o lane (encodeMx fmt (mode lane) sc (val lane))) o
                splice o (rowBytes fmt n + b) [BitVec.ofNat 8 sc]) (x.v (viD i))
          else act.foldl (fun o lane => setElem fmt o lane (f.encode (mode lane) (val lane))) (x.v (viD i))
        (c.setCtx cl k t { x.setV (viD i) out with cvts := x.cvts + 1 }).veNext cl k t)

/-- VDEC: packed elements of VA decoded to width W, with their block scales (R130, R228). -/
def Chip.vdec (c : Chip) (cl k : Nat) : Chip :=
  c.veIssue cl k 0x21 (fun c t i =>
    let x := c.ctx cl k t
    let w := viW i
    let fmt := viFmt i
    let n := laneCount w
    if w = 2 || (fmtOf fmt).isNone || 512 < packedBytes fmt n then c.veBad cl k t 3 COMP_VE_INST_INVALID
    else
      let src := x.v (viA i)
      c.vePutLanes cl k t i (fun lane =>
        let v := elemAt fmt src lane
        laneFp w (if isMx fmt then underScale v (recNat src (rowBytes fmt n + lane / 32) 1) else v)))

/-- VSCL: VA × 2^IMM (R228, R134). An INT32 product that is no integer of the format is a free value. -/
def Chip.vscl (c : Chip) (cl k : Nat) : Chip :=
  c.veIssue cl k 0x22 (fun c t i =>
    let x := c.ctx cl k t
    let w := viW i
    let imm := viImm i
    c.tick.vePutLanes cl k t i (fun lane =>
      let a := x.lane i (viA i) lane
      if w = 2 then
        let n := sextInt 32 a
        let s := min imm.natAbs 32
        if 0 ≤ imm then laneInt (n * (2 ^ s : Nat)) (c.freeLane lane)
        else if n % (2 ^ s : Nat) = 0 then wrapInt 32 (n / (2 ^ s : Nat)) else c.freeLane lane
      else laneFp w ((laneVal w a).scale imm)))

/-! Memory (R224-R226). -/

/-- A fabric address formed from a scalar and an offset: 60 bits (R27, R224). -/
def veAddr (base : Nat) (off : Int) : Nat := wrapInt 60 ((base : Int) + off)

/-- Is FMT usable for a contiguous load or store of a register of width W? -/
def veMoveFmt (w fmt : Nat) : Bool :=
  if w = 2 then fmt = 8 else (fmtOf fmt).isSome && !isMx fmt && decide (rowBytes fmt (laneCount w) ≤ 512)

/-- Is FMT usable for elements of 2 or 4 bytes? -/
def veElemFmt (w fmt : Nat) : Bool := if w = 2 then fmt = 8 else fmt = 0 || fmt = 8

/-- A lane as stored in FMT: unchanged where FMT is the lane's own format (log entry 30). -/
def storeLane (w fmt raw : Nat) : Nat :=
  if w = 2 || (w = 0 && fmt = 8) || (w = 1 && fmt = 0) then raw
  else match fmtOf fmt with
    | some f => f.encode .rne (laneVal w raw)
    | none => 0

/-- VLD (R224). -/
def Chip.vld (c : Chip) (cl k : Nat) : Chip :=
  c.veIssue cl k 0x28 (fun c t i =>
    let x := c.ctx cl k t
    let a := veAddr (x.s (viA i)) (viImm i)
    let n := rowBytes (viFmt i) (laneCount (viW i))
    if !veMoveFmt (viW i) (viFmt i) then c.veBad cl k t 3 COMP_VE_INST_INVALID
    else if a % 16 ≠ 0 then c.veBad cl k t 4 COMP_VE_FAULT
    else c.veStart cl k t i (List.replicate n 0)
      ((lines a n).map (fun l => ⟨l.1, x.pc, .load l.2 (.image (l.1 - a))⟩)))

/-- Byte enables of a register's store: the elements of the active lanes. -/
def VeCtx.enables (x : VeCtx) (i size : Nat) : Nat :=
  ((upto (laneCount (viW i))).map (fun lane => if x.active i lane then (2 ^ size - 1) * 2 ^ (size * lane) else 0)).sum

/-- VST (R224): the register that VD names is stored (log entry 31). -/
def Chip.vst (c : Chip) (cl k : Nat) : Chip :=
  c.veIssue cl k 0x29 (fun c t i =>
    let x := c.ctx cl k t
    let w := viW i
    let fmt := viFmt i
    let a := veAddr (x.s (viA i)) (viImm i)
    let size := elemBits fmt / 8
    if !veMoveFmt w fmt then c.veBad cl k t 3 COMP_VE_INST_INVALID
    else if a % 16 ≠ 0 then c.veBad cl k t 4 COMP_VE_FAULT
    else
      let bytes := ((upto (laneCount w)).map (fun lane => leBytes size (storeLane w fmt (x.lane i (viD i) lane)))).flatten
      let en := x.enables i size
      c.veStart cl k t i []
        ((lines a bytes.length).filterMap (fun l =>
          let m := field en (l.1 - a) l.2
          if m = 0 then none else some ⟨l.1, x.pc, .store m ((bytes.drop (l.1 - a)).take l.2)⟩)))

/-- Lanes with their addresses, gathered by 128-byte line in order of each line's first lane (R224). -/
def byLine (l : List (Nat × Nat)) : List (Nat × List (Nat × Nat)) :=
  l.foldl (fun acc e =>
    if acc.any (fun g => g.1 = e.2 / 128) then
      acc.map (fun g => if g.1 = e.2 / 128 then (g.1, g.2 ++ [e]) else g)
    else acc ++ [(e.2 / 128, [e])]) []

/-- The active lanes with their element addresses: base in scalar VB, index vector VA, times IMM (R224, R228). -/
def VeCtx.elemAddrs (x : VeCtx) (i : Nat) : List (Nat × Nat) :=
  let w := viW i
  ((upto (laneCount w)).filter (x.active i)).map (fun lane =>
    (lane, veAddr (x.s (viB i)) (sextInt (8 * laneBytes w) (x.lane i (viA i) lane) * viImm i)))

/-- Lowest address and bytes of a group of elements. -/
def spanOf (size : Nat) (g : List (Nat × Nat)) : Nat × Nat :=
  let lo := (g.map (·.2)).foldl min ((g.map (·.2)).headD 0)
  (lo, (g.map (·.2)).foldl max 0 + size - lo)

/-- VGATHER (R224). -/
def Chip.vgather (c : Chip) (cl k : Nat) : Chip :=
  c.veIssue cl k 0x2A (fun c t i =>
    let x := c.ctx cl k t
    let size := elemBits (viFmt i) / 8
    let es := x.elemAddrs i
    if !veElemFmt (viW i) (viFmt i) then c.veBad cl k t 3 COMP_VE_INST_INVALID
    else if es.any (fun e => e.2 % size != 0) then c.veBad cl k t 4 COMP_VE_FAULT
    else c.veStart cl k t i (List.replicate 1024 0) ((byLine es).map (fun g =>
      let s := spanOf size g.2
      ⟨s.1, x.pc, .load s.2 (.lanes size (g.2.map (fun e => (e.1, e.2 - s.1))))⟩)))

/-- VSCATTER: of two lanes that write one element, the higher-numbered lane's value stands (R225). -/
def Chip.vscatter (c : Chip) (cl k : Nat) : Chip :=
  c.veIssue cl k 0x2B (fun c t i =>
    let x := c.ctx cl k t
    let fmt := viFmt i
    let size := elemBits fmt / 8
    let es := x.elemAddrs i
    if !veElemFmt (viW i) fmt then c.veBad cl k t 3 COMP_VE_INST_INVALID
    else if es.any (fun e => e.2 % size != 0) then c.veBad cl k t 4 COMP_VE_FAULT
    else c.veStart cl k t i [] ((byLine es).map (fun g =>
      let s := spanOf size g.2
      let bs := g.2.foldl (fun b e =>
        splice b (e.2 - s.1) (leBytes size (storeLane (viW i) fmt (x.lane i (viD i) e.1)))) (List.replicate s.2 0)
      let en := g.2.foldl (fun m e => m ||| ((2 ^ size - 1) <<< (e.2 - s.1))) 0
      ⟨s.1, x.pc, .store en bs⟩)))

/-- VSCATADD: every active lane adds once, atomically, in FP32 or BF16 (R225). -/
def Chip.vscatadd (c : Chip) (cl k : Nat) : Chip :=
  c.veIssue cl k 0x2C (fun c t i =>
    let x := c.ctx cl k t
    let fmt := viFmt i
    let size := elemBits fmt / 8
    let es := x.elemAddrs i
    if viW i = 2 || !veElemFmt (viW i) fmt then c.veBad cl k t 3 COMP_VE_INST_INVALID
    else if es.any (fun e => e.2 % size != 0) then c.veBad cl k t 4 COMP_VE_FAULT
    else c.veStart cl k t i [] ((byLine es).map (fun g =>
      let s := spanOf size g.2
      ⟨s.1, x.pc, .add size (g.2.map (fun e => (e.2 - s.1, storeLane (viW i) fmt (x.lane i (viD i) e.1))))⟩)))

/-- FENCE: the thread waits until every earlier request of its own has been acknowledged (R223). -/
def Chip.vfence (c : Chip) (cl k : Nat) : Chip :=
  c.veIssue cl k 0x2D (fun c t _ =>
    let c := c.veNext cl k t
    let v := c.veOf cl k
    if v.slots.any (fun s => !s.dead && s.thread = t) && v.ready t then c.veHold cl k t .fence else c)

/-! Shelves and counters (R226, R228). -/

/-- The shelf that IMM[8:0] names. -/
def veShelf (cl k i : Nat) : ShelfRef :=
  let n := viImmU i % 256
  if bit (viImmU i) 8 then .commons cl n else .core cl k (n % 64)

/-- Partition of a thread's run. -/
def Chip.vePart (c : Chip) (cl k t : Nat) : Nat := ((c.veAgent cl k t).part).getD 0

/-- Byte offset of an entry in its scratchpad or commons (log entry 33). -/
def Chip.entryByte (c : Chip) (r : ShelfRef) (off : Nat) : Nat := (c.shelf r).base * 1024 + off * 64

/-- SHCLAIM (R162, R226). -/
def Chip.veShClaim (c : Chip) (cl k : Nat) : Chip :=
  c.veIssue cl k 0x30 (fun c t i =>
    let x := c.ctx cl k t
    let n := x.s (viA i)
    let r := veShelf cl k i
    if n = 0 || n % 64 ≠ 0 then c.veBad cl k t 5 COMP_VE_FAULT
    else if !bit (viImmU i) 8 && 64 ≤ viImmU i % 256 then c.veBad cl k t 8 COMP_SHELF_CLOSED
    else match c.shelfClaim r (n / 64) (.ve cl k t) with
      | (_, .refused code) => c.veBad cl k t 8 code
      | (c, .granted _ off) => (c.setCtx cl k t (x.setS (viD i) (c.entryByte r off))).veNext cl k t
      | (c, .waits) => (c.setCtx cl k t { x with inst := i }).veHold cl k t .shelf)

/-- Outcome of SHCOMMIT or SHRELEASE: a shelf code is reason 0x08, a refused counter 0x07 (R166, R232, R277). -/
def Chip.veShelfDone (c : Chip) (cl k t : Nat) (code : Code) : Chip :=
  if code = COMP_OK then c.veNext cl k t
  else c.veBad cl k t (if code = COMP_SYNC_RANGE then 7 else 8) code

/-- SHCOMMIT. -/
def Chip.veShCommit (c : Chip) (cl k : Nat) : Chip :=
  c.veIssue cl k 0x31 (fun c t i =>
    if !bit (viImmU i) 8 && 64 ≤ viImmU i % 256 then c.veBad cl k t 8 COMP_SHELF_CLOSED
    else
      let (c, code) := c.shelfCommit (veShelf cl k i) (c.vePart cl k t) ((c.ctx cl k t).s (viA i))
      c.veShelfDone cl k t code)

/-- SHRELEASE. -/
def Chip.veShRelease (c : Chip) (cl k : Nat) : Chip :=
  c.veIssue cl k 0x32 (fun c t i =>
    if !bit (viImmU i) 8 && 64 ≤ viImmU i % 256 then c.veBad cl k t 8 COMP_SHELF_CLOSED
    else
      let (c, code) := c.shelfRelease (veShelf cl k i) ((c.ctx cl k t).s (viA i))
      c.veShelfDone cl k t code)

/-- SWAIT: counter in scalar VA, threshold in scalar VB (R228, R277). -/
def Chip.veSwait (c : Chip) (cl k : Nat) : Chip :=
  c.veIssue cl k 0x38 (fun c t i =>
    let x := c.ctx cl k t
    let n := x.s (viA i)
    let thr := x.s (viB i)
    let p := c.vePart cl k t
    if c.syncRange p ≤ n then (c.syncRangeErr (cl / 8) c.deviceId p n).veBad cl k t 7 COMP_SYNC_RANGE
    else if thr ≤ c.syncVal (c.syncIndex p n) then c.veNext cl k t
    else (c.addWait (c.syncIndex p n) thr (.ve cl k t)).veHold cl k t .sync)

/-- SSIGNAL: increment in scalar VB (R228, R232, R278). -/
def Chip.veSsignal (c : Chip) (cl k : Nat) : Chip :=
  c.veIssue cl k 0x39 (fun c t i =>
    let x := c.ctx cl k t
    let inc := x.s (viB i)
    if inc = 0 || 0xFFFFFFFF < inc then c.veBad cl k t 0xB COMP_VE_INST_INVALID
    else
      let (c, code) := c.syncInc (cl / 8) (c.vePart cl k t) (x.s (viA i)) inc
      if code = COMP_OK then c.veNext cl k t else c.veBad cl k t 7 code)

/-! Scalars and control flow (R228). -/

/-- A scalar result. -/
def Chip.vePutScalar (c : Chip) (cl k t i v : Nat) : Chip :=
  (c.setCtx cl k t ((c.ctx cl k t).setS (viD i) v)).veNext cl k t

/-- A 64-bit sum, difference or product: where neither the unsigned nor the signed reading holds it, a free value (log entry
34). -/
def scalarResult (u s : Int) (free : Nat) : Nat :=
  if (0 ≤ u ∧ u < 2 ^ 64) ∨ (-(2 ^ 63) ≤ s ∧ s < 2 ^ 63) then wrapInt 64 u else free % 2 ^ 64

/-- Scalar arithmetic on VA and VB. -/
def Chip.veScalar (c : Chip) (cl k op : Nat) (f : Int → Int → Int) : Chip :=
  c.veIssue cl k op (fun c t i =>
    let x := c.ctx cl k t
    let a := x.s (viA i)
    let b := x.s (viB i)
    c.tick.vePutScalar cl k t i
      (scalarResult (f a b) (f (sextInt 64 a) (sextInt 64 b)) (Config.freeBits c.freeCtr 64)))

def Chip.sadd (c : Chip) (cl k : Nat) : Chip := c.veScalar cl k 0x40 (· + ·)
def Chip.ssub (c : Chip) (cl k : Nat) : Chip := c.veScalar cl k 0x41 (· - ·)
def Chip.smul (c : Chip) (cl k : Nat) : Chip := c.veScalar cl k 0x42 (· * ·)

/-- SSHIFT: by the amount in VB; direction and kind are not stated, so a shift by other than 0 gives a free value (log entry
35). -/
def Chip.sshift (c : Chip) (cl k : Nat) : Chip :=
  c.veIssue cl k 0x43 (fun c t i =>
    let x := c.ctx cl k t
    c.tick.vePutScalar cl k t i (if x.s (viB i) = 0 then x.s (viA i) else Config.freeBits c.freeCtr 64))

/-- SLOGIC: which function is not stated: a free value (log entry 35). -/
def Chip.slogic (c : Chip) (cl k : Nat) : Chip :=
  c.veIssue cl k 0x44 (fun c t i => c.tick.vePutScalar cl k t i (Config.freeBits c.freeCtr 64))

/-- SCMP: which relation is not stated: a free value (log entry 35). -/
def Chip.scmp (c : Chip) (cl k : Nat) : Chip :=
  c.veIssue cl k 0x45 (fun c t i => c.tick.vePutScalar cl k t i (Config.freeBits c.freeCtr 64))

/-- SMOVI: the signed immediate (R227, R228). -/
def Chip.smovi (c : Chip) (cl k : Nat) : Chip :=
  c.veIssue cl k 0x46 (fun c t i => c.vePutScalar cl k t i (wrapInt 64 (viImm i)))

/-- SLD or SST, as IMM[23] says: 0 loads VD, 1 stores it, at scalar VA + IMM[22:0] (log entry 36). -/
def Chip.sldSst (c : Chip) (cl k : Nat) : Chip :=
  c.veIssue cl k 0x47 (fun c t i =>
    let x := c.ctx cl k t
    let a := veAddr (x.s (viA i)) (sextInt 23 (viImmU i))
    if bit (viImmU i) 23 then
      let bs := leBytes 8 (x.s (viD i))
      c.veStart cl k t i [] ((lines a 8).map (fun l => ⟨l.1, x.pc, .store (ones l.2) ((bs.drop (l.1 - a)).take l.2)⟩))
    else c.veStart cl k t i (List.replicate 8 0)
      ((lines a 8).map (fun l => ⟨l.1, x.pc, .load l.2 (.image (l.1 - a))⟩)))

/-- A branch to PC + 8 × IMM when `p` holds of scalar VA. -/
def Chip.veBranch (c : Chip) (cl k op : Nat) (p : Nat → Bool) : Chip :=
  c.veIssue cl k op (fun c t i =>
    let x := c.ctx cl k t
    if p (x.s (viA i)) then c.veGoto cl k t ((x.pc : Int) + 8 * viImm i) else c.veNext cl k t)

def Chip.veBr (c : Chip) (cl k : Nat) : Chip := c.veBranch cl k 0x48 (fun _ => true)
def Chip.veBrz (c : Chip) (cl k : Nat) : Chip := c.veBranch cl k 0x49 (· == 0)
def Chip.veBrnz (c : Chip) (cl k : Nat) : Chip := c.veBranch cl k 0x4A (· != 0)

/-- EXIT ends the thread (R231). -/
def Chip.veExit (c : Chip) (cl k : Nat) : Chip :=
  c.veIssue cl k 0x4F (fun c t _ => c.setCtx cl k t { c.ctx cl k t with done := true })

/-- The register file meets an error (R233): correctable or not. What the MC then resets is in Machine/Events.lean. -/
def Chip.veRegEcc (c : Chip) (cl k : Nat) (ue : Bool) : Chip :=
  c.raise (.ve cl k) (if ue then St.VE_REG_UE else St.VE_REG_CE)

end Sys2Proof.Machine
end

