-- ==== Sys2Proof/Machine/Events.lean ====
section
/-! DEFINITION. Events that more than one unit answers: ECC errors of SRAM (R181, R233), granted shelf claims (R162), counter waits that
are met (R280), the loss of the island's domain (R458), reserved management types (R412, R449). -/

namespace Sys2Proof.Machine

/-! Errors of SRAM (R181, R233). -/

/-- The partition that owns a place in a cluster: its only holder, else the member of the share set whose share holds the place, else the
member in its slice (R358, R364). -/
def Chip.sramOwner (c : Chip) (cl : Nat) (pl : Place) : Option Nat :=
  match (upto 16).filter (fun p => c.partHas p cl) with
  | [p] => some p
  | l => (l.find? (fun p => c.shareHas p pl)).orElse (fun _ => c.partOf cl)

/-- The MC resets the partition that owns a place. -/
def Chip.sramReset (c : Chip) (cl : Nat) (pl : Place) : Chip :=
  match c.sramOwner cl pl with
  | some p => c.partReset p
  | none => c

/-- The valid line of a core's cache that lies at a scratchpad offset. -/
def Chip.lineAt (c : Chip) (cl k off : Nat) : Option CacheLine :=
  (c.cacheOf cl k).lines.find? (fun l =>
    decide (l.way < c.cacheWays cl k) && decide (lineHome cl k l.way l.set ≤ spBase cl k + off) &&
      decide (spBase cl k + off < lineHome cl k l.way l.set + 128))

/-- A line that is not dirty is invalidated and filled again. -/
def Chip.refill (c : Chip) (cl k : Nat) (l : CacheLine) : Chip :=
  let x := c.cacheOf cl k
  match c.agentRead (c.coreAgent cl) l.addr 128 with
  | (c, 0, data) => c.poke (lineHome cl k l.way l.set) data
  | (c, _, _) => c.setCache cl k { x with lines := x.lines.filter (fun y => !(y.way == l.way && y.set == l.set)) }

/-- SRAM_ECC_ERROR in a scratchpad or in a tag: `l` is the line that the error strikes. -/
def Chip.coreEcc (c : Chip) (cl k : Nat) (ue : Bool) (l : Option CacheLine) (pl : Place) : Chip :=
  match ue, l with
  | false, _ => c.raise (.sp cl k) St.SP_CE
  | true, some l =>
    if l.dirty then (c.raise (.sp cl k) St.SP_UE).sramReset cl pl else (c.raise (.sp cl k) St.SP_CE).refill cl k l
  | true, none => (c.raise (.sp cl k) St.SP_UE).sramReset cl pl

/-- SRAM_ECC_ERROR in a commons. -/
def Chip.commonsEcc (c : Chip) (cl off : Nat) (ue : Bool) : Chip :=
  if ue then (c.raise (.cm cl) St.CM_UE).sramReset cl (.commons cl off) else c.raise (.cm cl) St.CM_CE

/-- SRAM_ECC_ERROR (R181). -/
def Chip.sramEcc (c : Chip) (ue : Bool) : SramSite → Chip
  | .scratch cl k off => c.coreEcc cl k ue (c.lineAt cl k off.toNat) (.scratch cl k off.toNat)
  | .commons cl off => c.commonsEcc cl off.toNat ue
  | .tag cl k way set =>
    c.coreEcc cl k ue ((c.cacheOf cl k).lines.find? (fun l => l.way == way.val && l.set == set.val))
      (.scratch cl k (0x280000 - (way.val + 1) * 0x10000 + set.val * 128))

/-- The cluster of a site. -/
def siteCluster : SramSite → Nat
  | .scratch cl _ _ => cl
  | .commons cl _ => cl
  | .tag cl _ _ _ => cl

/-- VE_REG_ECC_ERROR (R233): an uncorrectable error resets the partition whose work runs on the core. -/
def Chip.veRegError (c : Chip) (cl k : Nat) (ue : Bool) : Chip :=
  let c := c.veRegEcc cl k ue
  match ue, c.partOf cl with
  | true, some p => c.partReset p
  | _, _ => c

/-! Shelf claims (R162). -/

/-- The shelf that a selector names. -/
def shelfRef : ShelfSel → ShelfRef
  | .core cl k n => .core cl k n
  | .commons cl n => .commons cl n

/-- SHELF_CLAIM_GRANT (R162, R165): the oldest waiting claim of a shelf is granted once it fits. -/
def Chip.shelfGrant (c : Chip) (r : ShelfRef) : Chip :=
  match (c.shelf r).grantOldest with
  | none => c
  | some (s, w, q, off) =>
    let c := c.setShelf r s
    match w.agent with
    | .spMove cl k => c.mvGranted cl k q
    | .dma cl n => c.dmaGranted cl n q
    | .ve cl k t => c.veGranted cl k t (c.entryByte r off)

/-! Waits on counters (R278, R280). -/

/-- The waiter that a selector names. -/
def waiterOf : WaitAgent → Waiter
  | .seq cl k => .seq cl k
  | .ve cl k t => .ve cl k t
  | .dma cl n => .dma cl n
  | .wq n => .wq n
  | .step cl b => .step cl (b2n b)
  | .arrivals cl g => .arrivals cl g
  | .seed cl => .seed cl

/-- SYNC_WAIT_MET (R280): an agent whose wait has been met goes on. A work queue, a step and the seeds of a plan look at their met wait when
WQ_DEQUEUE, STEP_ISSUE and PASS_ADMIT come. -/
def Chip.syncMet (c : Chip) (w : WaitAgent) : Chip :=
  if !c.waitMet (waiterOf w) then c
  else match w with
  | .seq cl k => c.seqWaitMet cl k
  | .ve cl k t => c.veSyncMet cl k t
  | .dma cl n => c.dmaSyncMet cl n
  | .arrivals cl g => c.colPoll cl g
  | .wq _ => c
  | .step _ _ => c
  | .seed _ => c

/-! Results of descriptors that the module posts itself (R57, R60, R262). -/

/-- The collectives of a cluster look at what they wait for, at every step's place (R366). -/
def Chip.collectives (c : Chip) (cl : Nat) : Chip := forAll (upto 4) c (fun c g => c.colPoll cl g)

/-- The engines that posted a cluster's own descriptors take their results. -/
def Chip.ownResults (c : Chip) (cl : Nat) : Chip :=
  (((c.ckptPoll cl).gatherPoll cl false).gatherPoll cl true).collectives cl

/-- Every cluster's collectives look at their signals (R264). -/
def Chip.colPollAll (c : Chip) : Chip := forAll (upto 32) c Chip.collectives

/-! The island loses its power (R458). -/

/-- Requests that wait are refused when domain 61 has faulted. -/
def Chip.islandDown (c : Chip) : Chip :=
  if !c.faulted 61 then c
  else forAll c.island.queue (c.setQ []) (fun c r => c.attRefuse r.source r.nonce COMP_ATT_FAULT)

/-! Reserved management types (R412, R449). -/

/-- Types that R412, R418 and R449 give a name, or that the island answers. -/
def knownMgmt (t : Nat) : Bool :=
  t == 0x0010 || t / 256 == 2 ||
    [MT_HEARTBEAT, MT_PAIR, MT_PAIR_ACK, MT_WSTATE, MT_DRAIN_END, MT_SEALED, MT_MEMBER_SEALED, MT_CAB_LOST, MT_SILENT, MT_LOST, MT_FENCE,
      MT_SPARE_CLAIM, MT_SPARE_GRANT, MT_SPARE_BUSY, MT_SPARE_FREE, MT_LOAD_DONE, MT_ADOPTED, MT_RESUME_GROUP].contains t

/-- Messages of a reserved type are ignored and counted. -/
def Chip.dropReserved (c : Chip) (p : Nat) : Chip :=
  forAll (upto (c.portOf p).rx.length) c (fun c _ =>
    c.takeMsg p (fun m => m.opc == 0x30 && !knownMgmt (m.addr % 65536)) (fun c _ => c.raise (.jlk (portDie p)) St.JLK_BAD_MSG))

/-- BOOT_DONE is counted, and nothing else is done (R418); no register of the manual shows the count (log entry 15). -/
def Chip.bootDoneRx (c : Chip) (p : Nat) : Chip :=
  c.mgmtMsg p 0x0010 (fun c _ _ => { c with recov := { c.recov with bootDones := c.recov.bootDones + 1 } })

/-! Agents of register writes (R365). -/

/-- Who writes SP_CACHE_CFG or SP_CACHE_OWNER: none for the MC; a function has its partition's rights (R346); for any other agent the
partition whose work runs on the cluster, or while no slice runs the first that holds it, since the MC alone may write in a share set. -/
def Chip.cacheAgent (c : Chip) (cl : Nat) : RegAgent → Option Nat
  | .mc _ => none
  | .part p => some p.val
  | .vf n => some n.val
  | _ => (c.partOf cl).orElse (fun _ => (upto 16).find? (fun p => c.partHas p cl))

/-- May an agent open a shelf with a descriptor (R365)? -/
def Chip.mayOpen (c : Chip) (who : RegAgent) (r : ShelfRef) (s : Shelf) : Bool :=
  match agentPart who with
  | some p => c.shareOk p r s
  | none => true

/-- A write to a register of a shelf (R10, R184). -/
def Chip.atShelf (c : Chip) (sel : ShelfSel) (f : Chip → ShelfRef → Chip) : Chip :=
  let b : Blk := match sel with | .core cl k n => .shelfK cl k n | .commons cl n => .shelfC cl n
  if c.blkGone b then c.unmapped (b.base / dieSpan) (b.base % dieSpan) else f c (shelfRef sel)

/-! Bring-up with what waits for it (R442, R450). -/

/-- BRING_UP_STAGE: the stage runs; owner commands and attestation requests that have waited for it are then served. -/
def Chip.bringUpNext (c : Chip) (o : Otp) (us : Nat) (found : StageFindings) (torn : Nat) (tree : Bool) : Chip × Otp :=
  let x := (c.bringUp o us found).ownerPoll o
  x.1.islandServe x.2 torn tree 9

/-! Absolute limits (R490). -/

/-- Does a sensor read a junction above 125 °C, in 1/16 °C? -/
def tooHot : SensorReading → Bool
  | .junction _ (some t) => decide (2000 < t.toInt)
  | _ => false

end Sys2Proof.Machine
end

