-- ==== Sys2Proof/Machine/RegRead.lean ====
section
/-! DEFINITION. What a read of a register returns (R4-R6, R10).  Most fields are stored; the fields here that show a unit's state are formed from
that state.  The command table has no row for a register read: this is the view that statements about registers use. -/

namespace Sys2Proof.Machine

/-! Fields that show a unit's state. -/

/-- ME_STATE of a core (R102). -/
def Chip.meView (c : Chip) (cl k : Nat) (f : Field) : Option Nat :=
  let m := c.meOf cl k
  if f == R.ME_STATE_MODE then some (if m.sweeps.isEmpty then 0 else m.mode)
  else if f == R.ME_STATE_SWEEPS then some (m.sweeps.filter (·.started)).length
  else if f == R.ME_STATE_FALLBACK then some (b2n m.fallback)
  else if f == R.ME_STATE_SPILL_HELD then some (b2n (c.spillHeld cl k).isSome)
  else if f == R.ME_STATE_SPILL_WIN then some ((c.spillHeld cl k).getD 0)
  else none

/-- Uses left on the head tile of a queue (R114, R125). -/
def Tb.usesLeft (t : Tb) (w : Bool) : Nat := match t.head w with | some x => x.uses | none => 0

/-- TB_STATE of a core (R125). The reserved slot is in use only within a replay (R119), so REPLAY reads 0 between commands. -/
def Chip.tbView (c : Chip) (cl k : Nat) (f : Field) : Option Nat :=
  let t := c.tbOf cl k
  if f == R.TB_STATE_W_TILES then some t.wq.length
  else if f == R.TB_STATE_A_TILES then some t.aq.length
  else if f == R.TB_STATE_FREE then some (6 - (t.wq.length + t.aq.length))
  else if f == R.TB_STATE_FILLING then some (b2n t.filling.isSome)
  else if f == R.TB_STATE_W_USES_LEFT then some (t.usesLeft true)
  else if f == R.TB_STATE_A_USES_LEFT then some (t.usesLeft false)
  else none

/-- Does a read wait for a commit of a shelf: an SP_MOVE or a DMA descriptor names an entry that is not yet committed (R162)? -/
def Chip.shelfReadWaits (c : Chip) (r : ShelfRef) : Bool :=
  ((upto 16).any (fun k => (c.seqOf r.cluster k).moves.any (fun m =>
    c.moveHeld r.cluster m && !m.waiting && moveShelf r.cluster m.cmd == some r))) ||
  ((upto 32).any (fun n => (c.chanOf r.cluster n).descs.any (fun d =>
    d.phase == .waitEntry && Desc.shelf r.cluster (Desc.srcShelf d.bs) == r && ((c.shelf r).entry? (Desc.srcSeq d.bs)).any (!·.committed))))

/-- Registers of a shelf (R184); shelf 63 reads its fixed descriptor (R168). -/
def Chip.shelfView (c : Chip) (r : ShelfRef) (f : Field) : Option Nat :=
  let s := if r.isSpill then { spillShelf with opResult := (KMap.getD c.shelves r.key {}).opResult } else c.shelf r
  let n := s.span
  if f == R.SHELF_CFG_OPEN then some (b2n s.opened)
  else if f == R.SHELF_CFG_CONTIG then some (b2n s.contig)
  else if f == R.SHELF_CFG_CONS then some s.cons
  else if f == R.SHELF_CFG_OWNER then some s.owner
  else if f == R.SHELF_CFG_BASE then some s.base
  else if f == R.SHELF_CFG_SIZE then some s.size
  else if f == R.SHELF_CFG_SIG_SYNC then some s.sigSync
  else if f == R.SHELF_PTR_HEAD then some (shelfPtr n s.headPos)
  else if f == R.SHELF_PTR_TAIL then some (shelfPtr n s.tailPos)
  else if f == R.SHELF_PTR_CLAIM then some (shelfPtr n s.claimPos)
  else if f == R.SHELF_STAT_ENTRIES then some s.live
  else if f == R.SHELF_STAT_SEQ_HEAD then some s.seqHead
  else if f == R.SHELF_STAT_SEQ_NEXT then some s.seqNext
  else if f == R.SHELF_STAT_CLAIM_WAIT then some (b2n (!s.waiting.isEmpty))
  else if f == R.SHELF_STAT_READ_WAIT then some (b2n (c.shelfReadWaits r))
  else if f == R.SHELF_OP_RESULT then some s.opResult
  else if f == R.SHELF_OP_OFFSET then some s.opOffset
  else none

/-- Does the planner still owe a core programs of its step (R185, R211)? -/
def StepRun.owes (s : StepRun) (k : Nat) : Bool :=
  s.byPrograms && s.code == 0 && s.cores.contains k && (s.ends.find? k).isNone && (s.ends.find? (100 + k)).isNone

/-- The step that a cluster's planner is planning: in a share set that of the running member first, else the F group's first (R214, R366). -/
def Chip.planning (c : Chip) (cl : Nat) : Option StepRun :=
  let l := ((c.stepsOn cl).map (·.2)).filter (fun s => s.cores.any s.owes)
  (l.find? (fun s => c.partOf cl == some s.part)).orElse (fun _ => l.head?)

/-- PLAN_STATE of a cluster (R214); the step index of an operator outside a rally reads 0 (DESIGN CHOICE: log entry 138). -/
def Chip.planView (c : Chip) (cl : Nat) (f : Field) : Option Nat :=
  let held (s : StepRun) : Bool := c.partOf cl != some s.part || (s.cores.filter s.owes).all (fun k => c.headerValid cl k 0 && c.headerValid cl k 1)
  if f == R.PLAN_STATE_STEP then some (match c.planning cl with
    | some s => if s.queue.isNone then s.walk.idx else 0
    | none => 0xFFFF)
  else if f == R.PLAN_STATE_BUSY then some (b2n (c.planning cl).isSome)
  else if f == R.PLAN_STATE_HELD then some (match c.planning cl with | some s => b2n (held s) | none => 0)
  else none

/-- Wait code of a thread (R216): code 7 while a fallback runs (R219). -/
def Chip.veWaitCode (c : Chip) (cl k t : Nat) : Nat :=
  let v := c.veOf cl k
  let x := v.ctx t
  if (v.liveRun x).isNone || x.done then 0
  else match x.wait with
    | .data => 1
    | .slot => 2
    | .bank => 3
    | .shelf => 4
    | .sync => 5
    | .fence => 6
    | .ready => if (c.meOf cl k).fallback then 7 else 0

/-- VE_STATE and VE_WAIT of a core (R238). -/
def Chip.veView (c : Chip) (cl k : Nat) (f : Field) : Option Nat :=
  let v := c.veOf cl k
  let mask (p : Nat → Bool) : Nat := (((upto 8).filter p).map (2 ^ ·)).sum
  if f == R.VE_STATE_BUSY then some (mask (fun t => (v.ctx t).run.isSome))
  else if f == R.VE_STATE_READY then some (mask (fun t => v.ready t && !(c.meOf cl k).fallback))
  else if f == R.VE_STATE_SLOTS then some ((v.slots.map (fun s => s.shared + s.own)).sum)
  else if f == R.VE_STATE_SHARED then some ((v.slots.map (·.shared)).sum)
  else if f == R.VE_STATE_FALLBACK then some (b2n (c.meOf cl k).fallback)
  else if f.off == R.VE_WAIT_REASON_0.off then some (c.veWaitCode cl k (f.lsb / 4))
  else none

/-- DMA_STATE of a cluster (R266). -/
def Chip.dmaView (c : Chip) (cl : Nat) (f : Field) : Option Nat :=
  let mask (p : DmaCh → Bool) : Nat := (((upto 32).filter (fun n => p (c.chanOf cl n))).map (2 ^ ·)).sum
  let waits (h : DmaCh) : Bool := h.descs.any (fun d => d.phase == .waitSync || d.phase == .waitEntry || d.phase == .waitClaim)
  if f == R.DMA_STATE_ACTIVE then some (mask (fun h => !h.descs.isEmpty))
  else if f == R.DMA_STATE_WAITING then some (mask waits)
  else none

/-- Fields of a channel that show its state (R267); RING, PROD, CONS and DONE of a channel that the RSEQ owns read as zero (R240). -/
def Chip.chView (c : Chip) (cl n : Nat) (f : Field) : Option Nat :=
  let h := c.chanOf cl n
  if f == R.CH_STATE then some (c.chanState cl n)
  else if f == R.CH_STATE_PREEMPTED then some (b2n h.preempted)
  else if f == R.CH_STATE_BUF_BEATS then some h.beats
  else if f == R.CH_STATE_LEFT then some (c.chanLeft h)
  else if f == R.CH_CTRL_PRIO && c.dmaOwned cl n then some 2
  else if (f.off == R.CH_RING_BASE.off || f.off == R.CH_PROD.off || f.off == R.CH_CONS.off) && c.dmaOwned cl n then some 0
  else none

/-- WQ_Q_STATE of a queue (R293); one of a partition that is not formed acts as disabled (R357). The current entry is the one that runs, or the head entry that waits. -/
def Chip.wqView (c : Chip) (n : Nat) (f : Field) : Option Nat :=
  let q := c.queueOf n
  let waits := q.cur.isNone && c.waitsOn (.wq n) && !c.waitMet (.wq n)
  let head : List Byte := match q.cur with
    | some e => e.bs
    | none => if waits then c.wqHead n else []
  if f == R.WQ_Q_STATE_STATE then some (
    if !c.on (.wq n) R.WQ_RING_ENABLE || c.partState (queuePart n) == PS_NONE then 0 else if q.cur.isSome then 3 else if waits then 2 else 1)
  else if f == R.WQ_Q_STATE_HELD then some (b2n (c.wqHeld n || q.cqHeld))
  else if f == R.WQ_Q_STATE_OP then some (recNat head 0 1)
  else if f == R.WQ_Q_STATE_INDEX then some (match q.cur with
    | some e => ringIdx e.ptr
    | none => if waits then ringIdx (c.getF (.wq n) R.WQ_CONS) else 0)
  else none

/-- The partition whose range holds a module counter (R277). -/
def Chip.syncOwner (c : Chip) (i : Nat) : Option Nat :=
  (upto 16).find? (fun p => decide (c.getF (.part p) R.PART_SYNC_RANGE_BASE ≤ i) &&
    decide (i < c.getF (.part p) R.PART_SYNC_RANGE_BASE + c.syncRange p))

/-- CORE_SEQ_STATE of a core (R498). -/
def Chip.seqView (c : Chip) (cl k : Nat) (f : Field) : Option Nat :=
  let q := c.seqOf cl k
  if f == R.CORE_SEQ_STATE_RUNNING then some (b2n q.running)
  else if f == R.CORE_SEQ_STATE_BUFFER then some q.buf
  else if f == R.CORE_SEQ_STATE_SLOT then some (min q.slot (q.limit - 1))
  else if f == R.CORE_SEQ_STATE_PROG then some q.prog
  else none

/-- A field that a unit's state shows. -/
def Chip.view (c : Chip) (b : Blk) (f : Field) : Option Nat :=
  match b with
  | .me cl k => c.meView cl k f
  | .tb cl k => c.tbView cl k f
  | .sp cl k => if f == R.SP_CACHE_OP_BUSY then some (b2n (!(c.cacheOf cl k).ops.isEmpty)) else none
  | .shelfK cl k n => c.shelfView (.core cl k n) f
  | .shelfC cl n => c.shelfView (.commons cl n) f
  | .plan cl => c.planView cl f
  | .ve cl k => c.veView cl k f
  | .dma cl => c.dmaView cl f
  | .ch cl n => c.chView cl n f
  | .wq n => c.wqView n f
  | .sync i =>
    if f == R.SYNC_CFG_OWNER then some ((c.syncOwner i).getD 0)
    else if f == R.SYNC_CFG_ASSIGNED then some (b2n (c.syncOwner i).isSome) else none
  | .core cl k => c.seqView cl k f
  | _ => none

/-! Reads. -/

/-- What a field reads as (R6): a write-only field reads zero. -/
def Chip.readF (c : Chip) (b : Blk) (f : Field) : Nat :=
  match f.acc with
  | .wo => 0
  | _ => (c.view b f).getD (c.getF b f) % 2 ^ f.width

/-- A register's word: its fields in place, reserved bits zero (R5). -/
def Chip.readReg (c : Chip) (b : Blk) (off : Nat) : Nat :=
  ((b.fields.filter (fun f => b.base + f.off == off)).map (fun f => putField (c.readF b f) f.lsb f.width)).sum

/-- A word of a sequence context (R370). -/
def Chip.ctxWord (c : Chip) (i w : Nat) : Nat :=
  let x := KMap.getD c.seqCtxs i {}
  match w with
  | 0 => putField x.state 0 2 + putField (b2n x.pinned) 2 1 + putField x.gen 8 8 + putField x.part 16 4 + putField x.len 24 24
  | 1 => putField x.pending 0 24 + putField x.pages 24 16
  | 2 => x.order
  | _ => x.tag

/-- A read of 4 or 8 bytes of a die's register space: the state, in which an illegal or unassigned access is counted, and the value
(R4, R10, R354). -/
def Chip.regRead (c : Chip) (d off size : Nat) : Chip × Nat :=
  let cut (v : Nat) : Nat := let (lo, hi) := accessBits off size; field v lo (hi - lo)
  match c.findReg d off size with
  | .error x => (x, if (size = 4 || size = 8) && off % size = 0 then ((ctxView d off).map (fun e => cut (c.ctxWord e.1 e.2))).getD 0 else 0)
  | .ok b =>
    let word := d * dieSpan + off / 8 * 8
    match b with
    | .hbr => (c, if c.on .hbr R.HBR_CTRL_ENABLE then cut (c.readReg b word) else 0)
    | .apt _ => (c, if c.on .hbr R.HBR_CTRL_ENABLE then cut (c.readReg b word) else 0)
    | _ => (c, cut (c.readReg b word))

/-- What a host's read of its BAR0 returns (R348): a register of D0, the MSI-X table, or its pending bits. -/
def Chip.barRead (c : Chip) (who : RegAgent) (off size : Nat) : Nat :=
  let x := c.hostFn ((hostOf who).getD 0)
  let pend (i : Nat) : Nat := ((x.pending.filter (fun v => decide (32 * i ≤ v) && decide (v < 32 * i + 32))).map (fun v => 2 ^ (v - 32 * i))).sum
  let two (w : Nat → Nat) (i : Nat) : Nat := if size = 8 then w i + w (i + 1) * 2 ^ 32 else w i
  match regPlace who off with
  | .reg o => (c.regRead 0 o size).2
  | .msix i => two (fun i => KMap.getD x.msix i 0) i
  | .pba i => two pend i
  | .none => 0

/-! Writes of agents whose requests name register space. -/

/-- A register's word after an access: the bits that the access writes, over what the register reads as. -/
def Chip.mergedWord (c : Chip) (b : Blk) (d off size value : Nat) : Nat :=
  let (lo, hi) := accessBits off size
  let v := value % 2 ^ (hi - lo) * 2 ^ lo
  ((upto 64).filter (fun i => bit (if decide (lo ≤ i) && decide (i < hi) then v else c.readReg b (d * dieSpan + off / 8 * 8)) i)).map (2 ^ ·) |>.sum

/-- A write to SP_CACHE_OP (R177, R182). -/
def Chip.cacheOpWrite (c : Chip) (cl k v : Nat) : Chip :=
  match field v 0 2 with
  | 0 => c
  | op => c.cacheOp cl k (bit op 0) (bit op 1) (field v 2 3) (bit v 5)

/-- A write to SP_SHELF_CFG or SP_SHELF_OP (R184). -/
def Chip.shelfWrite (c : Chip) (who : RegAgent) (r : ShelfRef) (reg v : Nat) : Chip :=
  if reg = R.SHELF_CFG_OPEN.off then
    if bit v 0 then c.shelfOpen (c.mayOpen who r (shelfOfCfg v)) r (shelfOfCfg v) else c.shelfClose r (shelfOfCfg v)
  else if reg = R.SHELF_OP.off then
    match field v 0 2 with
    | 1 => c.shelfOpClaim r (field v 2 20)
    | 2 => c.shelfOpCommit r (field v 22 16)
    | 3 => c.shelfOpRelease r (field v 22 16)
    | _ => c
  else c

/-- What a write starts at the fields of a register that have a row of their own: the action of that row (R6).  `v` is the register's word after the
access, `fs` the fields that the access covers.  Whether a member that FAIL names can be recalled is a free value (log entry 2). -/
def Chip.ownWrite (c : Chip) (who : RegAgent) (b : Blk) (reg v : Nat) (fs : List Field) : Chip :=
  let hit (f : Field) : Bool := fs.contains f && bit v f.lsb
  match b with
  | .rseq cl => if hit R.RSEQ_CTRL_HALT_REQ then c.haltReq cl else c
  | .sp cl k =>
    if fs.contains R.SP_CACHE_CFG_WAYS then c.cacheConfig cl k (c.cacheAgent cl who) false v
    else if reg = R.SP_CACHE_OWNER_OWNER_0.off then c.cacheConfig cl k (c.cacheAgent cl who) true v
    else if fs.contains R.SP_CACHE_OP_OP then c.cacheOpWrite cl k v
    else c
  | .shelfK cl k n => c.shelfWrite who (.core cl k n) reg v
  | .shelfC cl n => c.shelfWrite who (.commons cl n) reg v
  | .ch cl n =>
    if fs.contains R.CH_PROD then c.chanWrite who cl n (fun c => c.dmaProdWrite cl n (field v 0 13))
    else if hit R.CH_CTRL_STOP then c.chanWrite who cl n (fun c => c.dmaStop cl n)
    else if !fs.contains R.CH_CTRL_ENABLE then c
    else if hit R.CH_CTRL_ENABLE then c.chanWrite who cl n (fun c => c.dmaEnable cl n)
    else if c.on (.ch cl n) R.CH_CTRL_ENABLE then c.chanWrite who cl n (fun c => c.dmaStop cl n)
    else c
  | .wq n =>
    if c.getF (.boot 0) R.BOOT_STATE_CODE != BOOT_OK then c
    else if fs.contains R.WQ_PROD then c.wqProdWrite n (field v R.WQ_PROD.lsb 13)
    else if fs.contains R.WQ_CQ_PTR_CQ_HEAD then c.cqHeadWrite n (field v R.WQ_CQ_PTR_CQ_HEAD.lsb 13)
    else c
  | .grp g =>
    if hit R.GRP_CMD_FAIL then c.tick.memberFail g (field v 0 3) (bit (Config.freeBits c.freeCtr 1) 0)
    else if hit R.GRP_CMD_CAL_NOW then c.calNow g (field v 0 3)
    else c
  | .port p =>
    if hit R.PORT_CTRL_FORCE_DOWN then c.portForceDown p
    else if hit R.PORT_CTRL_RETRAIN then c.portRetrain p
    else if hit R.PORT_CTRL_ENABLE then c.portEnable p
    else c
  | .win d w => c.windowWrite who d w (reg / 8) v
  | .part p => if hit R.PART_CTRL_RESET then c.partReset p else c
  | .boot _ => if hit R.BOOT_CTRL_COMPUTE_RESET then c.computeReset else c
  | .sec => c.secWrite who reg 8 v
  | _ => c

/-- A write that a request to register space makes: what REG_WRITE stores, and the actions of the fields with rows of their own (R4, R6, R10). -/
def Chip.regPut (c : Chip) (who : RegAgent) (d off size value : Nat) : Chip :=
  let x := c.regWriteAt who d off size value
  match c.findReg d off size with
  | .ok b => x.ownWrite who b (d * dieSpan + off / 8 * 8 - b.base) (c.mergedWord b d off size value) (b.covered d off size)
  | .error _ => x

/-- Register accesses of agents whose requests name register space: VE threads, other devices, the host (R10, R25). They reach the die's registers in the management class
(R283). -/
def regIo : RegIo where
  read := fun c d off size => (c.nocHop (nocToUnit d) 5 2).regRead d off size
  write := fun c who d off size v => (c.nocHop (nocToUnit d) 5 2).regPut who d off size v

end Sys2Proof.Machine
end

