-- ==== Sys2Proof/Machine/Command.lean ====
section
/-! DEFINITION. How a command meets the state: what acts while power-on reset holds, which units are there, and what the management core
does after any command. -/

namespace Sys2Proof.Machine

/-- After a command the management core takes the losses that it has been told of (R407, R408) and reports the state sensors that have
changed (R471). -/
def Chip.after (c : Chip) : Chip := c.lossPoll.watch

/-- A command that acts whether or not power-on reset holds: power, pins, test access. -/
def State.always (s : State) (f : Chip → Chip) : Host.Outcome State Fault Refusal :=
  .next { s with chip := (f s.chip).after }

/-- A command that the module answers once power-on reset has been released; before that it has no effect (R456, log entry 5). -/
def State.onChip (s : State) (f : Chip → Chip) : Host.Outcome State Fault Refusal :=
  .next (if s.chip.por then s else { s with chip := f s.chip })

/-- The same, for a command from which a loss or a change of a state sensor can come. -/
def State.onMc (s : State) (f : Chip → Chip) : Host.Outcome State Fault Refusal := s.onChip (fun c => (f c).after)

/-- Is a cluster there, with a core to work, and powered (R10, R456, R458, R495)? -/
def Chip.clusterLive (c : Chip) (cl : Nat) : Bool := !c.clusterOff cl && c.domainOn (15 * (cl / 8) + cl % 8)

/-- A command of a cluster's units; it has no effect where the cluster is not there or has no power (log entry 5). -/
def State.onCluster (s : State) (cl : Nat) (f : Chip → Chip) : Host.Outcome State Fault Refusal :=
  s.onChip (fun c => if c.clusterLive cl then f c else c)

/-- A write to a register of a block: one of a unit that the part does not have is ignored and counted (R10). -/
def Chip.atUnit (c : Chip) (b : Blk) (r : Field) (f : Chip → Chip) : Chip :=
  if c.blkGone b then c.unmapped ((b.base + r.off) / dieSpan) ((b.base + r.off) % dieSpan) else f c

/-- A command that may burn one-time-programmable bits. -/
def State.onOtp (s : State) (f : Chip → Otp → Chip × Otp) : Host.Outcome State Fault Refusal :=
  .next (if s.chip.por then s else { s with chip := (f s.chip s.otp).1.after, otp := (f s.chip s.otp).2 })

end Sys2Proof.Machine
end

