-- ==== Sys2Proof/Machine/CmdBringUp.lean ====
section
/-! DEFINITION. Bring-up, attestation and owner commands: the meaning of each command. -/

namespace Sys2Proof.Machine

/-- POWER_ON_RESET_RELEASE (R456). -/
def execPowerOnResetRelease (pins : StrapPins) (s : State) : Host.Outcome State Fault Refusal :=
  s.always (fun c => c.t0 s.otp pins)

/-- BRING_UP_STAGE (R417). -/
def execBringUpStage (us : BitVec 32) (found : StageFindings) (torn : Nat) (tree : Bool) (s : State) : Host.Outcome State Fault Refusal :=
  s.onOtp (fun c o => c.bringUpNext o us.toNat found torn tree)

/-- COMPUTE_RESET (R435). -/
def execComputeReset (s : State) : Host.Outcome State Fault Refusal :=
  s.onMc (fun c => c.computeReset)

/-- COMPUTE_RESET_DONE (R435). -/
def execComputeResetDone (cores : BitVec 2048) (s : State) : Host.Outcome State Fault Refusal :=
  s.onMc (fun c => c.computeDone s.otp.fuse.variant cores.toNat)

/-- FLASH_REQ_ASSERT (R484). -/
def execFlashReqAssert (s : State) : Host.Outcome State Fault Refusal :=
  s.always (fun c => c.flashAssert)

/-- FLASH_REQ_DEASSERT (R484). -/
def execFlashReqDeassert (off : BitVec 25) (bytes : List Byte) (s : State) : Host.Outcome State Fault Refusal :=
  s.always (fun c => c.flashDeassert off.toNat bytes)

/-- ATT_REQ (R450). -/
def execAttReq (via : Option (Fin 24)) (nonce : List Byte) (kind : BitVec 8) (torn : Nat) (tree : Bool) (s : State) : Host.Outcome State Fault Refusal :=
  s.onOtp (fun c o => c.attReq o (via.map (·.val)) nonce kind.toNat torn tree)

/-- ATT_SIGNATURE_DONE (R447). -/
def execAttSignatureDone (us : BitVec 32) (torn : Nat) (tree : Bool) (s : State) : Host.Outcome State Fault Refusal :=
  s.onOtp (fun c o => c.attDone o us.toNat torn tree)

/-- ATT_TOKEN_GAIN (R450). -/
def execAttTokenGain (s : State) : Host.Outcome State Fault Refusal :=
  s.onChip (fun c => c.tokenGain)

/-- OWNER_ENROLL (R442). -/
def execOwnerEnroll (via : Option (Fin 24)) (slot : Fin 4) (key : List Byte) (sig : List Byte) (clean : Bool) (s : State) : Host.Outcome State Fault Refusal :=
  s.onOtp (fun c o => c.ownerReq o (via.map (·.val)) (.enroll slot key sig clean))

/-- OWNER_REVOKE (R442). -/
def execOwnerRevoke (via : Option (Fin 24)) (slot : Fin 4) (signer : Fin 4) (sig : List Byte) (clean : Bool) (s : State) : Host.Outcome State Fault Refusal :=
  s.onOtp (fun c o => c.ownerReq o (via.map (·.val)) (.revoke slot signer sig clean))

/-- SVN_COMMIT (R441). -/
def execSvnCommit (via : Option (Fin 24)) (clean : Bool) (s : State) : Host.Outcome State Fault Refusal :=
  s.onOtp (fun c o => c.svnCommit o (via.map (·.val)) clean)

end Sys2Proof.Machine
end

