-- ==== Sys2Proof/Machine/CmdConfig.lean ====
section
/-! DEFINITION. Register writes and the cache: the meaning of each command. -/

namespace Sys2Proof.Machine

/-- REG_WRITE (R6). -/
def execRegWrite (who : RegAgent) (die : Fin 4) (off : BitVec 32) (size : Fin 9) (value : BitVec 64) (s : State) : Host.Outcome State Fault Refusal :=
  s.onChip (fun c => c.regWrite who die off.toNat size value.toNat)

/-- WINDOW_WRITE (R341). -/
def execWindowWrite (who : RegAgent) (die : Fin 4) (win : Fin 256) (word : Fin 4) (value : BitVec 64) (s : State) : Host.Outcome State Fault Refusal :=
  s.onChip (fun c => c.windowWrite who die win word value.toNat)

/-- SEC_REG_WRITE (R454). -/
def execSecRegWrite (who : RegAgent) (off : BitVec 22) (size : Fin 9) (value : BitVec 64) (s : State) : Host.Outcome State Fault Refusal :=
  s.onChip (fun c => c.secWrite who off.toNat size value.toNat)

/-- CACHE_CONFIG_WRITE (R178). -/
def execCacheConfigWrite (cl : Fin 32) (k : Fin 16) (who : RegAgent) (owner : Bool) (value : BitVec 64) (s : State) : Host.Outcome State Fault Refusal :=
  s.onChip (fun c => c.inside who (fun c => c.atUnit (.sp cl k) (if owner then R.SP_CACHE_OWNER_OWNER_0 else R.SP_CACHE_CFG_WAYS)
    (fun c => c.cacheConfig cl k (c.cacheAgent cl who) owner value.toNat)))

/-- CACHE_WRITE_BACK (R177). -/
def execCacheWriteBack (cl : Fin 32) (k : Fin 16) (ctx : Fin 8) (all : Bool) (s : State) : Host.Outcome State Fault Refusal :=
  s.onChip (fun c => c.atUnit (.sp cl k) R.SP_CACHE_OP_OP (fun c => c.cacheOp cl k true false ctx all))

/-- CACHE_INVALIDATE (R177). -/
def execCacheInvalidate (cl : Fin 32) (k : Fin 16) (ctx : Fin 8) (all : Bool) (s : State) : Host.Outcome State Fault Refusal :=
  s.onChip (fun c => c.atUnit (.sp cl k) R.SP_CACHE_OP_OP (fun c => c.cacheOp cl k false true ctx all))

/-- CACHE_WRITE_BACK_INVALIDATE (R177). -/
def execCacheWriteBackInvalidate (cl : Fin 32) (k : Fin 16) (ctx : Fin 8) (all : Bool) (s : State) : Host.Outcome State Fault Refusal :=
  s.onChip (fun c => c.atUnit (.sp cl k) R.SP_CACHE_OP_OP (fun c => c.cacheOp cl k true true ctx all))

/-- CACHE_OP_DONE (R182). -/
def execCacheOpDone (cl : Fin 32) (k : Fin 16) (s : State) : Host.Outcome State Fault Refusal :=
  s.onCluster cl (fun c => c.cacheOpDone cl k)

end Sys2Proof.Machine
end

