-- ==== Sys2Proof/Machine/CmdDma.lean ====
section
/-! DEFINITION. DMA channels: the meaning of each command. -/

namespace Sys2Proof.Machine

/-- DMA_CH_ENABLE (R240). -/
def execDmaChEnable (who : RegAgent) (cl : Fin 32) (n : Fin 32) (s : State) : Host.Outcome State Fault Refusal :=
  s.onChip (fun c => c.inside who (fun c => c.atUnit (.ch cl n) R.CH_CTRL_ENABLE (fun c => c.chanWrite who cl n (fun c => c.dmaEnable cl n))))

/-- DMA_STOP (R258). -/
def execDmaStop (who : RegAgent) (cl : Fin 32) (n : Fin 32) (s : State) : Host.Outcome State Fault Refusal :=
  s.onChip (fun c => c.inside who (fun c => c.atUnit (.ch cl n) R.CH_CTRL_STOP (fun c => c.chanWrite who cl n (fun c => c.dmaStop cl n))))

/-- DMA_PROD_WRITE (R240). -/
def execDmaProdWrite (who : RegAgent) (cl : Fin 32) (n : Fin 32) (prod : BitVec 13) (s : State) : Host.Outcome State Fault Refusal :=
  s.onChip (fun c => c.inside who (fun c => c.atUnit (.ch cl n) R.CH_PROD (fun c => c.chanWrite who cl n (fun c => c.dmaProdWrite cl n prod.toNat))))

/-- DMA_DESC_FETCH (R240). -/
def execDmaDescFetch (cl : Fin 32) (n : Fin 32) (s : State) : Host.Outcome State Fault Refusal :=
  s.onCluster cl (fun c => c.dmaFetch cl n)

/-- DMA_DESC_START (R252). -/
def execDmaDescStart (cl : Fin 32) (n : Fin 32) (s : State) : Host.Outcome State Fault Refusal :=
  s.onCluster cl (fun c => c.dmaStart cl n)

/-- DMA_SLOT_ARBITRATE (R247). -/
def execDmaSlotArbitrate (cl : Fin 32) (s : State) : Host.Outcome State Fault Refusal :=
  s.onCluster cl (fun c => c.dmaArbitrate cl)

/-- DMA_CHANNEL_AGE (R249). -/
def execDmaChannelAge (cl : Fin 32) (n : Fin 32) (s : State) : Host.Outcome State Fault Refusal :=
  s.onCluster cl (fun c => c.dmaAge cl n)

/-- DMA_SEGMENT_ATTEMPT_END (R255). -/
def execDmaSegmentAttemptEnd (cl : Fin 32) (n : Fin 32) (serial : Nat) (seg : Fin 64) (s : State) : Host.Outcome State Fault Refusal :=
  s.onCluster cl (fun c => c.dmaAttemptEnd cl n serial seg)

/-- DMA_ATTEMPT_TIMEOUT (R255). -/
def execDmaAttemptTimeout (cl : Fin 32) (n : Fin 32) (serial : Nat) (seg : Fin 64) (tag : BitVec 16) (s : State) : Host.Outcome State Fault Refusal :=
  s.onCluster cl (fun c => c.dmaAttemptTimeout cl n serial seg tag.toNat)

/-- DMA_DESC_COMPLETE (R250). -/
def execDmaDescComplete (cl : Fin 32) (n : Fin 32) (s : State) : Host.Outcome State Fault Refusal :=
  s.onCluster cl (fun c => (c.dmaComplete cl n).ownResults cl)

/-- DMA_SIGNAL_FAIL (R250). -/
def execDmaSignalFail (cl : Fin 32) (n : Fin 32) (s : State) : Host.Outcome State Fault Refusal :=
  s.onCluster cl (fun c => (c.dmaSignalFail cl n).ownResults cl)

/-- DMA_BUF_ECC_ERROR (R260). -/
def execDmaBufEccError (cl : Fin 32) (n : Fin 32) (ue : Bool) (s : State) : Host.Outcome State Fault Refusal :=
  s.onCluster cl (fun c => c.dmaBufEcc cl n ue)

end Sys2Proof.Machine
end

