-- ==== Sys2Proof/Machine/CmdHost.lean ====
section
/-! DEFINITION. The host bridge: the meaning of each command. -/

namespace Sys2Proof.Machine

/-- PERST_RELEASE (R346). -/
def execPerstRelease (s : State) : Host.Outcome State Fault Refusal :=
  s.always (fun c => c.perstRelease)

/-- PERST_ASSERT (R419). -/
def execPerstAssert (s : State) : Host.Outcome State Fault Refusal :=
  s.always (fun c => c.perstAssert)

/-- RRS_TIMEOUT (R346). -/
def execRrsTimeout (s : State) : Host.Outcome State Fault Refusal :=
  s.onMc (fun c => c.rrsTimeout)

/-- PCIE_CONFIG_REQUEST (R346). -/
def execPcieConfigRequest (fn : Fin 17) (write : Bool) (dword : Fin 1024) (value : BitVec 32) (vfs : Option (Fin 17)) (s : State) : Host.Outcome State Fault Refusal :=
  s.onMc (fun c => c.pcieConfig fn write dword value.toNat (vfs.map (·.val)))

/-- PCIE_MEM_READ (R349). -/
def execPcieMemRead (fn : Fin 17) (off : BitVec 36) (len : Fin 4097) (s : State) : Host.Outcome State Fault Refusal :=
  s.onMc (fun c => c.hostRequest regIo fn false off.toNat len [])

/-- PCIE_MEM_WRITE (R349). -/
def execPcieMemWrite (fn : Fin 17) (off : BitVec 36) (bytes : List Byte) (s : State) : Host.Outcome State Fault Refusal :=
  s.onMc (fun c => c.hostRequest regIo fn true off.toNat bytes.length bytes)

/-- FLR_VF (R350). -/
def execFlrVf (n : Fin 16) (s : State) : Host.Outcome State Fault Refusal :=
  s.onMc (fun c => c.flrVf n)

/-- FLR_PF (R350). -/
def execFlrPf (s : State) : Host.Outcome State Fault Refusal :=
  s.onMc (fun c => c.flrPf)

/-- PCIE_HOT_RESET (R350). -/
def execPcieHotReset (s : State) : Host.Outcome State Fault Refusal :=
  s.onMc (fun c => c.pcieHotReset)

/-- PCIE_LINK_DOWN (R350). -/
def execPcieLinkDown (s : State) : Host.Outcome State Fault Refusal :=
  s.onMc (fun c => c.pcieLinkDown)

/-- PCIE_LINK_UP (R346). -/
def execPcieLinkUp (wide : Bool) (speed : Fin 7) (s : State) : Host.Outcome State Fault Refusal :=
  s.onMc (fun c => c.pcieLinkUp wide speed)

end Sys2Proof.Machine
end

