-- ==== Sys2Proof/Machine/CmdLinks.lean ====
section
/-! DEFINITION. Jalfo ports and messages: the meaning of each command. -/

namespace Sys2Proof.Machine

/-- PORT_ENABLE (R323). -/
def execPortEnable (p : Fin 24) (s : State) : Host.Outcome State Fault Refusal :=
  s.onMc (fun c => c.portEnable p)

/-- PORT_RETRAIN (R323). -/
def execPortRetrain (p : Fin 24) (s : State) : Host.Outcome State Fault Refusal :=
  s.onMc (fun c => c.portRetrain p)

/-- PORT_FORCE_DOWN (R335). -/
def execPortForceDown (p : Fin 24) (s : State) : Host.Outcome State Fault Refusal :=
  s.onMc (fun c => c.portForceDown p)

/-- PORT_TRAIN_COMPLETE (R323). -/
def execPortTrainComplete (p : Fin 24) (good : BitVec 8) (down : BitVec 32) (s : State) : Host.Outcome State Fault Refusal :=
  s.onMc (fun c => c.trainComplete p good.toNat down.toNat)

/-- PORT_TRAIN_RETRY (R323). -/
def execPortTrainRetry (p : Fin 24) (s : State) : Host.Outcome State Fault Refusal :=
  s.onMc (fun c => c.trainRetry p)

/-- PORT_DOWN (R335). -/
def execPortDown (p : Fin 24) (s : State) : Host.Outcome State Fault Refusal :=
  s.onMc (fun c => c.portDown p)

/-- LANE_ERROR_LIMIT_EXCEEDED (R326). -/
def execLaneErrorLimitExceeded (p : Fin 24) (lane : Fin 8) (word : BitVec 8) (s : State) : Host.Outcome State Fault Refusal :=
  s.onMc (fun c => c.laneError p lane word.toNat)

/-- REPLAY_TIMEOUT (R334). -/
def execReplayTimeout (p : Fin 24) (s : State) : Host.Outcome State Fault Refusal :=
  s.onMc (fun c => c.replayTimeout p)

/-- IDLE (R327). -/
def execIdleFlit (p : Fin 24) (bytes : List Byte) (fec : Fec) (s : State) : Host.Outcome State Fault Refusal :=
  s.onMc (fun c => c.idleFlit p bytes fec)

/-- MSG (R328). -/
def execMsgFlit (p : Fin 24) (bytes : List Byte) (fec : Fec) (s : State) : Host.Outcome State Fault Refusal :=
  s.onMc (fun c => (c.seqFlit p 1 bytes fec).dropReserved p)

/-- DATA (R328). -/
def execDataFlit (p : Fin 24) (bytes : List Byte) (fec : Fec) (s : State) : Host.Outcome State Fault Refusal :=
  s.onMc (fun c => (c.seqFlit p 2 bytes fec).dropReserved p)

/-- NAK (R334). -/
def execNakFlit (p : Fin 24) (bytes : List Byte) (fec : Fec) (s : State) : Host.Outcome State Fault Refusal :=
  s.onMc (fun c => c.nakFlit p bytes fec)

/-- LANE_DROP (R326). -/
def execLaneDropFlit (p : Fin 24) (bytes : List Byte) (fec : Fec) (s : State) : Host.Outcome State Fault Refusal :=
  s.onMc (fun c => c.laneDropFlit p bytes fec)

/-- PARAM (R324). -/
def execParamFlit (p : Fin 24) (bytes : List Byte) (fec : Fec) (good : BitVec 8) (s : State) : Host.Outcome State Fault Refusal :=
  s.onMc (fun c => c.paramFlit p bytes fec good.toNat)

/-- RD (R342). -/
def execRd (p : Fin 24) (s : State) : Host.Outcome State Fault Refusal :=
  s.onMc (fun c => c.rdMsg regIo p)

/-- WR (R342). -/
def execWr (p : Fin 24) (s : State) : Host.Outcome State Fault Refusal :=
  s.onMc (fun c => c.wrMsg regIo p)

/-- SYNC_INC (R340). -/
def execSyncInc (p : Fin 24) (s : State) : Host.Outcome State Fault Refusal :=
  s.onMc (fun c => c.syncIncMsg p)

/-- RD_DATA (R330). -/
def execRdData (p : Fin 24) (s : State) : Host.Outcome State Fault Refusal :=
  s.onMc (fun c => c.rdDataMsg p)

/-- WR_ACK (R330). -/
def execWrAck (p : Fin 24) (s : State) : Host.Outcome State Fault Refusal :=
  s.onMc (fun c => c.wrAckMsg p)

/-- SYNC_ACK (R330). -/
def execSyncAck (p : Fin 24) (s : State) : Host.Outcome State Fault Refusal :=
  s.onMc (fun c => c.syncAckMsg p |>.colPollAll)

/-- REFUSE (R330). -/
def execRefuse (p : Fin 24) (s : State) : Host.Outcome State Fault Refusal :=
  s.onMc (fun c => c.refuseRx p)

/-- RETRY (R339). -/
def execRetry (p : Fin 24) (s : State) : Host.Outcome State Fault Refusal :=
  s.onMc (fun c => c.retryMsg p)

/-- RETRY_RESEND_TIMER (R339). -/
def execRetryResendTimer (req : Nat) (expired : Bool) (s : State) : Host.Outcome State Fault Refusal :=
  s.onMc (fun c => c.retryTimer regIo req expired)

/-- RESP_TIMEOUT (R339). -/
def execRespTimeout (req : Nat) (s : State) : Host.Outcome State Fault Refusal :=
  s.onMc (fun c => c.respTimeout req)

end Sys2Proof.Machine
end

