-- ==== Sys2Proof/Machine/CmdMatrix.lean ====
section
/-! DEFINITION. The matrix engine and the transposing buffer: the meaning of each command. -/

namespace Sys2Proof.Machine

/-- MMA (R70). -/
def execMma (cl : Fin 32) (k : Fin 16) (s : State) : Host.Outcome State Fault Refusal :=
  s.onCluster cl (fun c => c.meSweep cl k 1)

/-- CONV (R80). -/
def execConv (cl : Fin 32) (k : Fin 16) (s : State) : Host.Outcome State Fault Refusal :=
  s.onCluster cl (fun c => c.meSweep cl k 2)

/-- MMA_WSH (R78). -/
def execMmaWsh (cl : Fin 32) (k : Fin 16) (s : State) : Host.Outcome State Fault Refusal :=
  s.onCluster cl (fun c => c.meSweep cl k 3)

/-- ACC_STORE (R87). -/
def execAccStore (cl : Fin 32) (k : Fin 16) (s : State) : Host.Outcome State Fault Refusal :=
  s.onCluster cl (fun c => c.accStore cl k)

/-- SWEEP_START (R76). -/
def execSweepStart (cl : Fin 32) (k : Fin 16) (wait : BitVec 32) (s : State) : Host.Outcome State Fault Refusal :=
  s.onCluster cl (fun c => c.sweepStart cl k wait.toNat)

/-- SWEEP_VERDICT (R75). -/
def execSweepVerdict (cl : Fin 32) (k : Fin 16) (faults : List (CellSum × Nat)) (slot : Ecc) (fails : List Nat) (busy : BitVec 32) (dry : BitVec 32) (s : State) : Host.Outcome State Fault Refusal :=
  s.onCluster cl (fun c => c.sweepVerdict cl k faults slot fails busy.toNat dry.toNat)

/-- VE_FALLBACK_DONE (R98). -/
def execVeFallbackDone (cl : Fin 32) (k : Fin 16) (busy : BitVec 32) (s : State) : Host.Outcome State Fault Refusal :=
  s.onCluster cl (fun c => c.fallbackDone cl k busy.toNat)

/-- ACC_ECC_ERROR (R93). -/
def execAccEccError (cl : Fin 32) (k : Fin 16) (tile : Fin 32) (ecc : Ecc) (fails : List (List Nat)) (busy : BitVec 32) (s : State) : Host.Outcome State Fault Refusal :=
  s.onCluster cl (fun c => c.accEcc cl k tile ecc fails busy.toNat)

/-- TB_LOAD (R109). -/
def execTbLoad (cl : Fin 32) (k : Fin 16) (s : State) : Host.Outcome State Fault Refusal :=
  s.onCluster cl (fun c => c.tbLoad cl k)

/-- TB_TILE_READY (R112). -/
def execTbTileReady (cl : Fin 32) (k : Fin 16) (fails : List Nat) (conflict : BitVec 32) (s : State) : Host.Outcome State Fault Refusal :=
  s.onCluster cl (fun c => c.tbTileReady cl k fails conflict.toNat)

end Sys2Proof.Machine
end

