-- ==== Sys2Proof/Machine/CmdMemory.lean ====
section
/-! DEFINITION. LPDDR6 group engines: the meaning of each command. -/

namespace Sys2Proof.Machine

/-- MEM_READ (R303). -/
def execMemRead (agent : Agent) (cls : Fin 4) (addr : BitVec 48) (len : Fin 129) (faults : List AccFault) (s : State) : Host.Outcome State Fault Refusal :=
  s.onMc (fun c => c.memRequest regIo faults ⟨agent, cls, false, addr.toNat, List.replicate len 0, 0, false, false⟩)

/-- MEM_WRITE (R304). -/
def execMemWrite (agent : Agent) (cls : Fin 4) (addr : BitVec 48) (bytes : List Byte) (enable : BitVec 128) (faults : List AccFault) (s : State) : Host.Outcome State Fault Refusal :=
  s.onMc (fun c => c.memRequest regIo faults ⟨agent, cls, true, addr.toNat, bytes, enable.toNat, false, false⟩)

/-- STRIPE_BUFFER_FLUSH (R305). -/
def execStripeBufferFlush (g : Fin 32) (stripe : BitVec 32) (faults : List AccFault) (s : State) : Host.Outcome State Fault Refusal :=
  s.onMc (fun c => c.flushStripe g stripe.toNat faults)

/-- MEM_REQUEST_PROMOTE (R307). -/
def execMemRequestPromote (g : Fin 32) (n : Fin 128) (s : State) : Host.Outcome State Fault Refusal :=
  s.onChip (fun c => c.promote g n)

/-- MEM_REFRESH_DUE (R307). -/
def execMemRefreshDue (g : Fin 32) (bank : Fin 16) (s : State) : Host.Outcome State Fault Refusal :=
  s.onChip (fun c => c.refreshDue g bank)

/-- CAL_SESSION_START (R308). -/
def execCalSessionStart (g : Fin 32) (m : Fin 8) (s : State) : Host.Outcome State Fault Refusal :=
  s.onChip (fun c => c.calStart g m)

/-- CAL_SESSION_END (R312). -/
def execCalSessionEnd (g : Fin 32) (pass : Bool) (ns : BitVec 32) (s : State) : Host.Outcome State Fault Refusal :=
  s.onMc (fun c => c.calEnd g pass ns.toNat)

/-- CAL_LOG_REPLAY_DONE (R310). -/
def execCalLogReplayDone (g : Fin 32) (s : State) : Host.Outcome State Fault Refusal :=
  s.onChip (fun c => c.calReplayDone g)

/-- MEM_GRP_CMD_FAIL (R313). -/
def execMemGrpCmdFail (g : Fin 32) (m : Fin 8) (recalled : Bool) (s : State) : Host.Outcome State Fault Refusal :=
  s.onMc (fun c => c.atUnit (.grp g) R.GRP_CMD_FAIL (fun c => c.memberFail g m recalled))

/-- MEM_GRP_CMD_CAL_NOW (R308). -/
def execMemGrpCmdCalNow (g : Fin 32) (m : Fin 8) (s : State) : Host.Outcome State Fault Refusal :=
  s.onChip (fun c => c.atUnit (.grp g) R.GRP_CMD_CAL_NOW (fun c => c.calNow g m))

/-- MEMBER_FAIL (R313). -/
def execMemberFail (g : Fin 32) (m : Fin 8) (checks : Bool) (recalled : Bool) (s : State) : Host.Outcome State Fault Refusal :=
  s.onMc (fun c => c.memberFailBy g m checks recalled)

/-- REBUILD_START (R314). -/
def execRebuildStart (g : Fin 32) (trained : Bool) (s : State) : Host.Outcome State Fault Refusal :=
  s.onChip (fun c => c.rebuildStart g trained)

/-- REBUILD_STRIPE (R314). -/
def execRebuildStripe (g : Fin 32) (back : ReadBack) (faults : List AccFault) (s : State) : Host.Outcome State Fault Refusal :=
  s.onMc (fun c => c.rebuildStripe g back faults)

end Sys2Proof.Machine
end

