-- ==== Sys2Proof/Machine/CmdPartitions.lean ====
section
/-! DEFINITION. Partitions, slices, serving and layouts: the meaning of each command. -/

namespace Sys2Proof.Machine

/-- PART_RESET (R361). -/
def execPartReset (p : Fin 16) (s : State) : Host.Outcome State Fault Refusal :=
  s.onMc (fun c => c.partReset p)

/-- PART_RESET_DONE (R362). -/
def execPartResetDone (p : Fin 16) (us : BitVec 32) (s : State) : Host.Outcome State Fault Refusal :=
  s.onMc (fun c => c.resetDone p us.toNat)

/-- SLICE_TURN (R367). -/
def execSliceTurn (p : Fin 16) (s : State) : Host.Outcome State Fault Refusal :=
  s.onChip (fun c => c.sliceTurn p)

/-- SLICE_GRANT_EXPIRE (R367). -/
def execSliceGrantExpire (p : Fin 16) (s : State) : Host.Outcome State Fault Refusal :=
  s.onChip (fun c => c.sliceExpire p)

/-- SLICE_END (R367). -/
def execSliceEnd (p : Fin 16) (late : BitVec 32) (run : BitVec 32) (s : State) : Host.Outcome State Fault Refusal :=
  s.onChip (fun c => c.sliceEnd p late.toNat run.toNat)

/-- SEQ_OPEN (R373). -/
def execSeqOpen (n : Fin 64) (s : State) : Host.Outcome State Fault Refusal :=
  s.onChip (fun c => c.seqOpen n)

/-- SEQ_APPEND (R373). -/
def execSeqAppend (n : Fin 64) (s : State) : Host.Outcome State Fault Refusal :=
  s.onChip (fun c => c.seqAppend n)

/-- SEQ_CLOSE (R374). -/
def execSeqClose (n : Fin 64) (s : State) : Host.Outcome State Fault Refusal :=
  s.onChip (fun c => c.seqClose n)

/-- BATCH_STEP (R375). -/
def execBatchStep (n : Fin 64) (cyc : BitVec 32) (s : State) : Host.Outcome State Fault Refusal :=
  s.onChip (fun c => c.batchStep n cyc.toNat)

/-- BATCH_OP_DONE (R379). -/
def execBatchOpDone (n : Fin 64) (cyc : BitVec 32) (s : State) : Host.Outcome State Fault Refusal :=
  s.onChip (fun c => c.batchOpDone n cyc.toNat)

/-- LAYOUT_SWITCH (R381). -/
def execLayoutSwitch (n : Fin 64) (s : State) : Host.Outcome State Fault Refusal :=
  s.onMc (fun c => c.layoutSwitch n)

/-- LAYOUT_SWITCH_COMPLETE (R382). -/
def execLayoutSwitchComplete (s : State) : Host.Outcome State Fault Refusal :=
  s.onMc (fun c => c.layoutComplete.compPoll)

end Sys2Proof.Machine
end

