-- ==== Sys2Proof/Machine/CmdPower.lean ====
section
/-! DEFINITION. Power, clocks and sensors: the meaning of each command. -/

namespace Sys2Proof.Machine

/-- MOD_EN_RISE (R477). -/
def execModEnRise (s : State) : Host.Outcome State Fault Refusal :=
  s.always (fun c => c.modEnRise)

/-- INPUT_VALID (R477). -/
def execInputValid (s : State) : Host.Outcome State Fault Refusal :=
  s.always (fun c => c.inputValid)

/-- MOD_EN_FALL (R477). -/
def execModEnFall (s : State) : Host.Outcome State Fault Refusal :=
  s.always (fun c => c.modEnFall)

/-- VIN_UNDERVOLTAGE (R478). -/
def execVinUndervoltage (s : State) : Host.Outcome State Fault Refusal :=
  s.always (fun c => c.vinUnder)

/-- VIN_OVERVOLTAGE (R478). -/
def execVinOvervoltage (volts : BitVec 16) (s : State) : Host.Outcome State Fault Refusal :=
  if 7000 < volts.toNat then .fault .beyondAbsoluteLimits
  else s.always (fun c => if 6200 < volts.toNat then c.vinOver else c)

/-- INPUT_OVERCURRENT (R478). -/
def execInputOvercurrent (s : State) : Host.Outcome State Fault Refusal :=
  s.always (fun c => c.inputOver)

/-- INPUT_LOW (R459). -/
def execInputLow (s : State) : Host.Outcome State Fault Refusal :=
  s.onMc (fun c => c.lowInput)

/-- INPUT_LOW_CLEAR (R459). -/
def execInputLowClear (s : State) : Host.Outcome State Fault Refusal :=
  s.onMc (fun c => c.lowInputClear)

/-- REF100_LOSS (R481). -/
def execRef100Loss (s : State) : Host.Outcome State Fault Refusal :=
  s.always (fun c => c.ref100Loss.islandDown)

/-- REF25_LOSS (R481). -/
def execRef25Loss (s : State) : Host.Outcome State Fault Refusal :=
  s.always (fun c => c.ref25Loss)

/-- DOMAIN_FAULT (R458). -/
def execDomainFault (n : Fin 64) (kind : Fin 3) (pll : Bool) (s : State) : Host.Outcome State Fault Refusal :=
  s.onMc (fun c => (c.domainFault n (kind.val + 1) pll).islandDown)

/-- POWER_CAP_CHECK (R463). -/
def execPowerCapCheck (watts : BitVec 16) (quiet : Bool) (s : State) : Host.Outcome State Fault Refusal :=
  s.onMc (fun c => c.capCheck watts.toNat quiet)

/-- SENSOR_REFRESH (R469). -/
def execSensorRefresh (us : BitVec 64) (reading : SensorReading) (s : State) : Host.Outcome State Fault Refusal :=
  if tooHot reading then .fault .beyondAbsoluteLimits
  else s.onMc (fun c => c.sensorRefresh us.toNat reading)

/-- THERMAL_POINT_TICK (R464). -/
def execThermalPointTick (cl : Fin 32) (cooled : Bool) (s : State) : Host.Outcome State Fault Refusal :=
  s.onCluster cl (fun c => (c.thermalTick cl cooled).after)

/-- OP_POINT_STEP (R462). -/
def execOpPointStep (cl : Fin 32) (s : State) : Host.Outcome State Fault Refusal :=
  s.onCluster cl (fun c => (c.opStep cl).after)

/-- OP_POINT_STEP_DONE (R462). -/
def execOpPointStepDone (cl : Fin 32) (s : State) : Host.Outcome State Fault Refusal :=
  s.onCluster cl (fun c => (c.opStepDone cl).after)

/-- DROOP_DETECT (R465). -/
def execDroopDetect (cl : Fin 32) (s : State) : Host.Outcome State Fault Refusal :=
  s.onCluster cl (fun c => (c.droopDetect cl).after)

/-- DROOP_STRETCH_END (R465). -/
def execDroopStretchEnd (cl : Fin 32) (s : State) : Host.Outcome State Fault Refusal :=
  s.onCluster cl (fun c => (c.droopEnd cl).after)

/-- VIN_OVERVOLTAGE_RECLOSE (R478). -/
def execVinOvervoltageReclose (s : State) : Host.Outcome State Fault Refusal :=
  s.always (fun c => c.vinReclose)

end Sys2Proof.Machine
end

