-- ==== Sys2Proof/Machine/CmdPrograms.lean ====
section
/-! DEFINITION. Tile programs: the meaning of each command. -/

namespace Sys2Proof.Machine

/-- PROGRAM_WRITE (R211). -/
def execProgramWrite (cl : Fin 32) (k : Fin 16) (buf : Fin 2) (bytes : List Byte) (off : Fin 32768) (data : List Byte) (lim : BitVec 32) (s : State) : Host.Outcome State Fault Refusal :=
  s.onCluster cl (fun c => c.programWrite cl k buf bytes off data lim.toNat)

/-- TP_START (R209). -/
def execTpStart (cl : Fin 32) (k : Fin 16) (s : State) : Host.Outcome State Fault Refusal :=
  s.onCluster cl (fun c => c.tpStart cl k)

/-- TP_END (R209). -/
def execTpEnd (cl : Fin 32) (k : Fin 16) (core : BitVec 32) (noc : BitVec 32) (s : State) : Host.Outcome State Fault Refusal :=
  s.onCluster cl (fun c => (c.tpEnd cl k core.toNat noc.toNat).tpEndHalt cl k)

/-- WAIT (R206). -/
def execWait (cl : Fin 32) (k : Fin 16) (s : State) : Host.Outcome State Fault Refusal :=
  s.onCluster cl (fun c => c.tpWait cl k)

/-- SIGNAL (R206). -/
def execSignal (cl : Fin 32) (k : Fin 16) (s : State) : Host.Outcome State Fault Refusal :=
  s.onCluster cl (fun c => c.tpSignal cl k)

/-- LOOP (R207). -/
def execLoop (cl : Fin 32) (k : Fin 16) (s : State) : Host.Outcome State Fault Refusal :=
  s.onCluster cl (fun c => c.tpLoop cl k)

/-- END (R206). -/
def execProgEnd (cl : Fin 32) (k : Fin 16) (s : State) : Host.Outcome State Fault Refusal :=
  s.onCluster cl (fun c => c.tpEndCmd cl k)

end Sys2Proof.Machine
end

