-- ==== Sys2Proof/Machine/CmdQueues.lean ====
section
/-! DEFINITION. Work queues, sync counters and the whistle: the meaning of each command. -/

namespace Sys2Proof.Machine

/-- WQ_PROD_WRITE (R269). -/
def execWqProdWrite (n : Fin 64) (prod : BitVec 13) (s : State) : Host.Outcome State Fault Refusal :=
  s.onChip (fun c => if c.getF (.boot 0) R.BOOT_STATE_CODE = BOOT_OK then c.wqProdWrite n prod.toNat else c)

/-- CQ_HEAD_WRITE (R274). -/
def execCqHeadWrite (n : Fin 64) (head : BitVec 13) (s : State) : Host.Outcome State Fault Refusal :=
  s.onChip (fun c => if c.getF (.boot 0) R.BOOT_STATE_CODE = BOOT_OK then c.cqHeadWrite n head.toNat else c)

/-- WQ_DEQUEUE (R272). -/
def execWqDequeue (s : State) : Host.Outcome State Fault Refusal :=
  s.onChip (fun c => c.wqDequeue)

/-- WQ_ENTRY_COMPLETE (R272). -/
def execWqEntryComplete (n : Fin 64) (s : State) : Host.Outcome State Fault Refusal :=
  s.onMc (fun c => c.entryComplete n)

/-- NOP (R271). -/
def execNop (n : Fin 64) (s : State) : Host.Outcome State Fault Refusal :=
  s.onChip (fun c => c.wqNop n)

/-- OP_RUN (R271). -/
def execOpRun (n : Fin 64) (cyc : BitVec 32) (s : State) : Host.Outcome State Fault Refusal :=
  s.onChip (fun c => c.wqOpRun n cyc.toNat)

/-- SYNC_SET (R271). -/
def execSyncSet (n : Fin 64) (s : State) : Host.Outcome State Fault Refusal :=
  s.onChip (fun c => c.wqSyncSet n)

/-- WHISTLE (R288). -/
def execWhistle (n : Fin 64) (s : State) : Host.Outcome State Fault Refusal :=
  s.onChip (fun c => c.wqWhistle n)

/-- WHISTLE_DRAIN_DONE (R288). -/
def execWhistleDrainDone (p : Fin 16) (step : BitVec 32) (outside : BitVec 32) (length : BitVec 32) (cycles : BitVec 32) (s : State) : Host.Outcome State Fault Refusal :=
  s.onMc (fun c => c.whistleDone p step.toNat outside.toNat length.toNat cycles.toNat)

/-- WHISTLE_STUCK (R290). -/
def execWhistleStuck (p : Fin 16) (length : BitVec 32) (cycles : BitVec 32) (s : State) : Host.Outcome State Fault Refusal :=
  s.onMc (fun c => c.whistleStuck p length.toNat cycles.toNat)

/-- DRAIN (R360). -/
def execDrain (n : Fin 64) (s : State) : Host.Outcome State Fault Refusal :=
  s.onChip (fun c => c.wqDrain n)

/-- QUIESCE_DONE (R360). -/
def execQuiesceDone (p : Fin 16) (s : State) : Host.Outcome State Fault Refusal :=
  s.onChip (fun c => c.quiesceDone p)

/-- RESUME (R359). -/
def execResume (n : Fin 64) (s : State) : Host.Outcome State Fault Refusal :=
  s.onChip (fun c => c.wqResume n)

/-- SYNC_VALUE_SET (R295). -/
def execSyncValueSet (ctr : Fin 16384) (value : BitVec 32) (s : State) : Host.Outcome State Fault Refusal :=
  s.onChip (fun c => c.syncValueSet ctr value.toNat)

/-- SYNC_VALUE_INC (R295). -/
def execSyncValueInc (ctr : Fin 16384) (inc : BitVec 32) (who : RegAgent) (s : State) : Host.Outcome State Fault Refusal :=
  s.onChip (fun c => c.inside who (fun c => c.syncValueInc ctr inc.toNat ((agentPart who).getD 0)))

/-- SYNC_WAIT_MET (R280). -/
def execSyncWaitMet (who : WaitAgent) (s : State) : Host.Outcome State Fault Refusal :=
  s.onChip (fun c => c.syncMet who)

end Sys2Proof.Machine
end

