-- ==== Sys2Proof/Machine/CmdRally.lean ====
section
/-! DEFINITION. Rally plans and the cluster sequencer: the meaning of each command. -/

namespace Sys2Proof.Machine

/-- RALLY_LOAD (R43). -/
def execRallyLoad (n : Fin 64) (s : State) : Host.Outcome State Fault Refusal :=
  s.onChip (fun c => c.wqRallyLoad n)

/-- RALLY_RUN (R44). -/
def execRallyRun (n : Fin 64) (s : State) : Host.Outcome State Fault Refusal :=
  s.onChip (fun c => c.wqRallyRun n)

/-- PASS_ADMIT (R51). -/
def execPassAdmit (p : Fin 16) (bwd : Bool) (await : BitVec 32) (s : State) : Host.Outcome State Fault Refusal :=
  s.onChip (fun c => c.passAdmit p bwd await.toNat)

/-- PASS_RETIRE (R45). -/
def execPassRetire (cl : Fin 32) (bwd : Bool) (high : Bool) (s : State) : Host.Outcome State Fault Refusal :=
  s.onCluster cl (fun c => c.passRetire cl bwd high)

/-- GROUP_SPLIT (R49). -/
def execGroupSplit (cl : Fin 32) (s : State) : Host.Outcome State Fault Refusal :=
  s.onCluster cl (fun c => c.groupSplit cl)

/-- GROUP_REJOIN (R49). -/
def execGroupRejoin (cl : Fin 32) (s : State) : Host.Outcome State Fault Refusal :=
  s.onCluster cl (fun c => c.groupRejoin cl)

/-- STEP_ISSUE (R38). -/
def execStepIssue (cl : Fin 32) (bwd : Bool) (gwait : BitVec 32) (cyc : BitVec 32) (s : State) : Host.Outcome State Fault Refusal :=
  s.onCluster cl (fun c => c.stepIssue cl bwd gwait.toNat cyc.toNat)

/-- PLAN_HALT_COMPLETE (R62). -/
def execPlanHaltComplete (cl : Fin 32) (s : State) : Host.Outcome State Fault Refusal :=
  s.onCluster cl (fun c => c.planHaltComplete cl)

/-- HALT_REQ (R66). -/
def execHaltReq (cl : Fin 32) (s : State) : Host.Outcome State Fault Refusal :=
  s.onChip (fun c => c.atUnit (.rseq cl) R.RSEQ_CTRL_HALT_REQ (fun c => c.haltReq cl))

/-- RSEQ_STALL (R54). -/
def execRseqStall (cl : Fin 32) (s : State) : Host.Outcome State Fault Refusal :=
  s.onCluster cl (fun c => c.rseqStall cl)

/-- STEP_COMPLETE (R213). -/
def execStepComplete (cl : Fin 32) (bwd : Bool) (noc : BitVec 32) (s : State) : Host.Outcome State Fault Refusal :=
  s.onCluster cl (fun c => c.stepComplete cl bwd noc.toNat)

/-- GATHER_PIECE_FETCH (R59). -/
def execGatherPieceFetch (cl : Fin 32) (bwd : Bool) (s : State) : Host.Outcome State Fault Refusal :=
  s.onCluster cl (fun c => c.pieceFetch cl bwd)

end Sys2Proof.Machine
end

