-- ==== Sys2Proof/Machine/CmdRecovery.lean ====
section
/-! DEFINITION. Partner copies and recovery: the meaning of each command. -/

namespace Sys2Proof.Machine

/-- CAB_PLAN (R413). -/
def execCabPlan (n : Fin 64) (s : State) : Host.Outcome State Fault Refusal :=
  s.onMc (fun c => c.cabPlanCmd n)

/-- CAB_STATIC (R413). -/
def execCabStatic (n : Fin 64) (s : State) : Host.Outcome State Fault Refusal :=
  s.onMc (fun c => c.cabStaticCmd n)

/-- CAB_RELEASE (R413). -/
def execCabRelease (n : Fin 64) (s : State) : Host.Outcome State Fault Refusal :=
  s.onMc (fun c => c.cabReleaseCmd n)

/-- PAIRING_START (R390). -/
def execPairingStart (s : State) : Host.Outcome State Fault Refusal :=
  s.onMc (fun c => c.pairingStart)

/-- SIDEBOARD_DRAIN_DONE (R398). -/
def execSideboardDrainDone (s : State) : Host.Outcome State Fault Refusal :=
  s.onMc (fun c => c.drainDone)

/-- CATCHUP_RETRY (R396). -/
def execCatchupRetry (j : Fin 4) (s : State) : Host.Outcome State Fault Refusal :=
  s.onMc (fun c => c.catchupRetry j)

/-- CAB_SEAL (R394). -/
def execCabSeal (j : Fin 4) (static : Bool) (s : State) : Host.Outcome State Fault Refusal :=
  s.onMc (fun c => c.cabSeal j static)

/-- HEARTBEAT_SEND (R401). -/
def execHeartbeatSend (s : State) : Host.Outcome State Fault Refusal :=
  s.onMc (fun c => c.heartbeatSend)

/-- PARTNER_SILENT (R401). -/
def execPartnerSilent (dev : BitVec 12) (s : State) : Host.Outcome State Fault Refusal :=
  s.onMc (fun c => c.partnerSilent dev.toNat)

/-- LOSS_DECLARE (R402). -/
def execLossDeclare (dev : BitVec 12) (s : State) : Host.Outcome State Fault Refusal :=
  s.onMc (fun c => c.lossDeclare dev.toNat)

/-- HEARTBEAT (R401). -/
def execHeartbeat (p : Fin 24) (s : State) : Host.Outcome State Fault Refusal :=
  s.onMc (fun c => c.mgmtMsg p MT_HEARTBEAT (fun c src f => c.heartbeatRx src (f 0) (f 1)))

/-- PAIR (R390). -/
def execPair (p : Fin 24) (s : State) : Host.Outcome State Fault Refusal :=
  s.onMc (fun c => c.mgmtMsg p MT_PAIR (fun c src f => c.pairRx src (f 2)))

/-- PAIR_ACK (R390). -/
def execPairAck (p : Fin 24) (s : State) : Host.Outcome State Fault Refusal :=
  s.onMc (fun c => c.mgmtMsg p MT_PAIR_ACK (fun c src f => c.pairAckRx src (f 0) (f 1) (f 2)))

/-- WSTATE (R395). -/
def execWstate (p : Fin 24) (s : State) : Host.Outcome State Fault Refusal :=
  s.onMc (fun c => c.mgmtMsg p MT_WSTATE (fun c src f => c.wstateRx src (f 0)))

/-- DRAIN_END (R396). -/
def execDrainEnd (p : Fin 24) (s : State) : Host.Outcome State Fault Refusal :=
  s.onMc (fun c => c.mgmtMsg p MT_DRAIN_END (fun c src f => c.drainEndRx src (f 0)))

/-- SEALED (R394). -/
def execSealed (p : Fin 24) (s : State) : Host.Outcome State Fault Refusal :=
  s.onMc (fun c => c.mgmtMsg p MT_SEALED (fun c src f => c.sealedRx src (f 0)))

/-- MEMBER_SEALED (R394). -/
def execMemberSealed (p : Fin 24) (s : State) : Host.Outcome State Fault Refusal :=
  s.onMc (fun c => c.mgmtMsg p MT_MEMBER_SEALED (fun c src f => c.memberSealedRx src (f 0)))

/-- CAB_LOST (R408). -/
def execCabLost (p : Fin 24) (s : State) : Host.Outcome State Fault Refusal :=
  s.onMc (fun c => c.mgmtMsg p MT_CAB_LOST (fun c src f => c.cabLostRx src (f 0)))

/-- SILENT (R402). -/
def execSilent (p : Fin 24) (s : State) : Host.Outcome State Fault Refusal :=
  s.onMc (fun c => c.mgmtMsg p MT_SILENT (fun c src f => c.silentRx src (f 0) (f 1) (f 2)))

/-- LOST (R403). -/
def execLost (p : Fin 24) (s : State) : Host.Outcome State Fault Refusal :=
  s.onMc (fun c => c.mgmtMsg p MT_LOST (fun c src f => c.lostRx src (f 0) (f 1) (f 2)))

/-- MGMT_FENCE (R403). -/
def execMgmtFence (p : Fin 24) (s : State) : Host.Outcome State Fault Refusal :=
  s.onMc (fun c => c.mgmtMsg p MT_FENCE (fun c _ f => c.fenceRx (f 0)))

/-- SPARE_CLAIM (R405). -/
def execSpareClaim (p : Fin 24) (s : State) : Host.Outcome State Fault Refusal :=
  s.onMc (fun c => c.mgmtMsg p MT_SPARE_CLAIM (fun c src f => c.spareClaimRx src (f 0)))

/-- SPARE_GRANT (R405). -/
def execSpareGrant (p : Fin 24) (s : State) : Host.Outcome State Fault Refusal :=
  s.onMc (fun c => c.mgmtMsg p MT_SPARE_GRANT (fun c src f => c.spareGrantRx src (f 0)))

/-- SPARE_BUSY (R405). -/
def execSpareBusy (p : Fin 24) (s : State) : Host.Outcome State Fault Refusal :=
  s.onMc (fun c => c.mgmtMsg p MT_SPARE_BUSY (fun c src f => c.spareBusyRx src (f 0)))

/-- SPARE_FREE (R409). -/
def execSpareFree (p : Fin 24) (s : State) : Host.Outcome State Fault Refusal :=
  s.onMc (fun c => c.mgmtMsg p MT_SPARE_FREE (fun c src _ => c.spareFreeRx src))

/-- LOAD_DONE (R406). -/
def execLoadDone (via : Option (Fin 24)) (plan : List Byte) (stage : List Byte) (s : State) : Host.Outcome State Fault Refusal :=
  s.onMc (fun c => match via with
    | some p => c.mgmtMsg p MT_LOAD_DONE (fun c src f => c.loadDoneRx src (f 0) (f 1))
    | none => c.loadDoneHere plan stage)

/-- ADOPTED (R406). -/
def execAdopted (p : Fin 24) (us : BitVec 32) (s : State) : Host.Outcome State Fault Refusal :=
  s.onMc (fun c => c.mgmtMsg p MT_ADOPTED (fun c src f => c.adoptedRx src (f 0) us.toNat))

/-- RESUME_GROUP (R404). -/
def execResumeGroup (p : Fin 24) (us : BitVec 32) (s : State) : Host.Outcome State Fault Refusal :=
  s.onMc (fun c => c.mgmtMsg p MT_RESUME_GROUP (fun c _ _ => c.resumeGroupRx us.toNat))

/-- BOOT_DONE (R418). -/
def execBootDone (p : Fin 24) (s : State) : Host.Outcome State Fault Refusal :=
  s.onMc (fun c => c.bootDoneRx p)

end Sys2Proof.Machine
end

