-- ==== Sys2Proof/Machine/CmdScratch.lean ====
section
/-! DEFINITION. Scratchpads, commons and shelves: the meaning of each command. -/

namespace Sys2Proof.Machine

/-- SP_MOVE (R156). -/
def execSpMove (cl : Fin 32) (k : Fin 16) (s : State) : Host.Outcome State Fault Refusal :=
  s.onCluster cl (fun c => c.spMove cl k)

/-- SP_MOVE_DONE (R159). -/
def execSpMoveDone (cl : Fin 32) (k : Fin 16) (conflict : BitVec 32) (wait : BitVec 32) (s : State) : Host.Outcome State Fault Refusal :=
  s.onCluster cl (fun c => c.spMoveDone cl k conflict.toNat wait.toNat)

/-- SHELF_OPEN (R161). -/
def execShelfOpen (who : RegAgent) (sel : ShelfSel) (value : BitVec 64) (s : State) : Host.Outcome State Fault Refusal :=
  s.onChip (fun c => c.inside who (fun c => c.atShelf sel (fun c r => c.shelfOpen (c.mayOpen who r (shelfOfCfg value.toNat)) r (shelfOfCfg value.toNat))))

/-- SHELF_CLOSE (R167). -/
def execShelfClose (sel : ShelfSel) (value : BitVec 64) (s : State) : Host.Outcome State Fault Refusal :=
  s.onChip (fun c => c.atShelf sel (fun c r => c.shelfClose r (shelfOfCfg value.toNat)))

/-- SHELF_OP_CLAIM (R162). -/
def execShelfOpClaim (sel : ShelfSel) (units : BitVec 20) (s : State) : Host.Outcome State Fault Refusal :=
  s.onChip (fun c => c.atShelf sel (fun c r => c.shelfOpClaim r units.toNat))

/-- SHELF_OP_COMMIT (R162). -/
def execShelfOpCommit (sel : ShelfSel) (seq : BitVec 16) (s : State) : Host.Outcome State Fault Refusal :=
  s.onChip (fun c => c.atShelf sel (fun c r => c.shelfOpCommit r seq.toNat))

/-- SHELF_OP_RELEASE (R162). -/
def execShelfOpRelease (sel : ShelfSel) (seq : BitVec 16) (s : State) : Host.Outcome State Fault Refusal :=
  s.onChip (fun c => c.atShelf sel (fun c r => c.shelfOpRelease r seq.toNat))

/-- SHELF_CLAIM_GRANT (R162). -/
def execShelfClaimGrant (sel : ShelfSel) (s : State) : Host.Outcome State Fault Refusal :=
  s.onCluster (shelfRef sel).cluster (fun c => c.shelfGrant (shelfRef sel))

/-- SRAM_ECC_ERROR (R181). -/
def execSramEccError (site : SramSite) (ue : Bool) (s : State) : Host.Outcome State Fault Refusal :=
  s.onCluster (siteCluster site) (fun c => c.sramEcc ue site)

end Sys2Proof.Machine
end

