-- ==== Sys2Proof/Machine/CmdSideband.lean ====
section
/-! DEFINITION. PLDM and test access: the meaning of each command. -/

namespace Sys2Proof.Machine

/-- PLDM_EVENT_RETRY (R471). -/
def execPldmEventRetry (pos : Fin 64) (s : State) : Host.Outcome State Fault Refusal :=
  s.onChip (fun c => c.eventRetry pos)

/-- GET_TID (R470). -/
def execGetTid (s : State) : Host.Outcome State Fault Refusal :=
  s.onChip (fun c => c.getTid)

/-- SET_TID (R470). -/
def execSetTid (tid : BitVec 8) (s : State) : Host.Outcome State Fault Refusal :=
  s.onChip (fun c => c.setTid tid.toNat)

/-- GET_PLDM_VERSION (R470). -/
def execGetPldmVersion (typ : BitVec 8) (s : State) : Host.Outcome State Fault Refusal :=
  s.onChip (fun c => c.getPldmVersion typ.toNat)

/-- GET_PLDM_TYPES (R470). -/
def execGetPldmTypes (s : State) : Host.Outcome State Fault Refusal :=
  s.onChip (fun c => c.getPldmTypes)

/-- GET_PLDM_COMMANDS (R470). -/
def execGetPldmCommands (typ : BitVec 8) (s : State) : Host.Outcome State Fault Refusal :=
  s.onChip (fun c => c.getPldmCommands typ.toNat)

/-- GET_PDR_REPOSITORY_INFO (R470). -/
def execGetPdrRepositoryInfo (s : State) : Host.Outcome State Fault Refusal :=
  s.onChip (fun c => c.getPdrInfo)

/-- GET_PDR (R470). -/
def execGetPdr (handle : BitVec 32) (s : State) : Host.Outcome State Fault Refusal :=
  s.onChip (fun c => c.getPdr handle.toNat)

/-- GET_SENSOR_READING (R470). -/
def execGetSensorReading (id : BitVec 16) (s : State) : Host.Outcome State Fault Refusal :=
  s.onChip (fun c => c.getSensor id.toNat)

/-- GET_STATE_SENSOR_READINGS (R470). -/
def execGetStateSensorReadings (id : BitVec 16) (s : State) : Host.Outcome State Fault Refusal :=
  s.onChip (fun c => c.getStateSensor id.toNat)

/-- SET_EVENT_RECEIVER (R470). -/
def execSetEventReceiver (who : Option (BitVec 8)) (s : State) : Host.Outcome State Fault Refusal :=
  s.onChip (fun c => c.setReceiver (who.map (·.toNat)))

/-- BYPASS (R486). -/
def execBypass (d : Fin 4) (s : State) : Host.Outcome State Fault Refusal :=
  .next { s with chip := s.chip.tapBypass d }

/-- IDCODE (R486). -/
def execIdcode (d : Fin 4) (s : State) : Host.Outcome State Fault Refusal :=
  .next { s with chip := s.chip.tapIdcode d }

/-- SAMPLE_PRELOAD (R486). -/
def execSamplePreload (d : Fin 4) (pins : BitVec 64) (preload : BitVec 64) (s : State) : Host.Outcome State Fault Refusal :=
  .next { s with chip := s.chip.tapSample d pins.toNat preload.toNat }

/-- EXTEST (R486). -/
def execExtest (d : Fin 4) (pins : BitVec 64) (s : State) : Host.Outcome State Fault Refusal :=
  .next { s with chip := s.chip.tapExtest d pins.toNat }

/-- PLATFORM_EVENT_ACK (R471). -/
def execPlatformEventAck (pos : Fin 64) (s : State) : Host.Outcome State Fault Refusal :=
  s.onChip (fun c => c.eventAck pos)

/-- TRST_ASSERT (R486). -/
def execTrstAssert (s : State) : Host.Outcome State Fault Refusal :=
  .next { s with chip := s.chip.trstAssert }

end Sys2Proof.Machine
end

