-- ==== Sys2Proof/Machine/CmdVector.lean ====
section
/-! DEFINITION. The vector engine: the meaning of each command. -/

namespace Sys2Proof.Machine

/-- VE_RUN (R231). -/
def execVeRun (cl : Fin 32) (k : Fin 16) (s : State) : Host.Outcome State Fault Refusal :=
  s.onCluster cl (fun c => c.veRun cl k)

/-- VE_RUN_DONE (R231). -/
def execVeRunDone (cl : Fin 32) (k : Fin 16) (starve : BitVec 32) (slots : BitVec 32) (cap : BitVec 32) (_fallback : BitVec 32) (s : State) : Host.Outcome State Fault Refusal :=
  s.onCluster cl (fun c => c.veRunDone cl k starve.toNat slots.toNat cap.toNat)

/-- VE_REQUEST_RETURN (R217). -/
def execVeRequestReturn (cl : Fin 32) (k : Fin 16) (slot : Fin 128) (lat : BitVec 32) (s : State) : Host.Outcome State Fault Refusal :=
  s.onCluster cl (fun c => c.veReturn regIo cl k slot lat.toNat)

/-- VE_WATCHDOG_TIMEOUT (R232). -/
def execVeWatchdogTimeout (cl : Fin 32) (k : Fin 16) (run : Fin 8) (s : State) : Host.Outcome State Fault Refusal :=
  s.onCluster cl (fun c => c.veTimeout cl k run)

/-- VE_REG_ECC_ERROR (R233). -/
def execVeRegEccError (cl : Fin 32) (k : Fin 16) (ue : Bool) (s : State) : Host.Outcome State Fault Refusal :=
  s.onCluster cl (fun c => c.veRegError cl k ue)

/-- VADD (R228). -/
def execVadd (cl : Fin 32) (k : Fin 16) (s : State) : Host.Outcome State Fault Refusal :=
  s.onCluster cl (fun c => c.vadd cl k)

/-- VSUB (R228). -/
def execVsub (cl : Fin 32) (k : Fin 16) (s : State) : Host.Outcome State Fault Refusal :=
  s.onCluster cl (fun c => c.vsub cl k)

/-- VMUL (R228). -/
def execVmul (cl : Fin 32) (k : Fin 16) (s : State) : Host.Outcome State Fault Refusal :=
  s.onCluster cl (fun c => c.vmul cl k)

/-- VMAX (R228). -/
def execVmax (cl : Fin 32) (k : Fin 16) (s : State) : Host.Outcome State Fault Refusal :=
  s.onCluster cl (fun c => c.vmax cl k)

/-- VMIN (R228). -/
def execVmin (cl : Fin 32) (k : Fin 16) (s : State) : Host.Outcome State Fault Refusal :=
  s.onCluster cl (fun c => c.vmin cl k)

/-- VFMA (R228). -/
def execVfma (cl : Fin 32) (k : Fin 16) (s : State) : Host.Outcome State Fault Refusal :=
  s.onCluster cl (fun c => c.vfma cl k)

/-- VABSNEG (R228). -/
def execVabsneg (cl : Fin 32) (k : Fin 16) (s : State) : Host.Outcome State Fault Refusal :=
  s.onCluster cl (fun c => c.vabsneg cl k)

/-- VCMP (R228). -/
def execVcmp (cl : Fin 32) (k : Fin 16) (s : State) : Host.Outcome State Fault Refusal :=
  s.onCluster cl (fun c => c.vcmp cl k)

/-- VSEL (R228). -/
def execVsel (cl : Fin 32) (k : Fin 16) (s : State) : Host.Outcome State Fault Refusal :=
  s.onCluster cl (fun c => c.vsel cl k)

/-- VBCAST (R228). -/
def execVbcast (cl : Fin 32) (k : Fin 16) (s : State) : Host.Outcome State Fault Refusal :=
  s.onCluster cl (fun c => c.vbcast cl k)

/-- VEXP2 (R228). -/
def execVexp2 (cl : Fin 32) (k : Fin 16) (s : State) : Host.Outcome State Fault Refusal :=
  s.onCluster cl (fun c => c.vexp2 cl k)

/-- VLOG2 (R228). -/
def execVlog2 (cl : Fin 32) (k : Fin 16) (s : State) : Host.Outcome State Fault Refusal :=
  s.onCluster cl (fun c => c.vlog2 cl k)

/-- VRCP (R228). -/
def execVrcp (cl : Fin 32) (k : Fin 16) (s : State) : Host.Outcome State Fault Refusal :=
  s.onCluster cl (fun c => c.vrcp cl k)

/-- VRSQRT (R228). -/
def execVrsqrt (cl : Fin 32) (k : Fin 16) (s : State) : Host.Outcome State Fault Refusal :=
  s.onCluster cl (fun c => c.vrsqrt cl k)

/-- VSQRT (R228). -/
def execVsqrt (cl : Fin 32) (k : Fin 16) (s : State) : Host.Outcome State Fault Refusal :=
  s.onCluster cl (fun c => c.vsqrt cl k)

/-- VRSUM (R228). -/
def execVrsum (cl : Fin 32) (k : Fin 16) (s : State) : Host.Outcome State Fault Refusal :=
  s.onCluster cl (fun c => c.vrsum cl k)

/-- VRMAX (R228). -/
def execVrmax (cl : Fin 32) (k : Fin 16) (s : State) : Host.Outcome State Fault Refusal :=
  s.onCluster cl (fun c => c.vrmax cl k)

/-- VRMAXABS (R228). -/
def execVrmaxabs (cl : Fin 32) (k : Fin 16) (s : State) : Host.Outcome State Fault Refusal :=
  s.onCluster cl (fun c => c.vrmaxabs cl k)

/-- VCVT (R228). -/
def execVcvt (cl : Fin 32) (k : Fin 16) (s : State) : Host.Outcome State Fault Refusal :=
  s.onCluster cl (fun c => c.vcvt cl k)

/-- VDEC (R228). -/
def execVdec (cl : Fin 32) (k : Fin 16) (s : State) : Host.Outcome State Fault Refusal :=
  s.onCluster cl (fun c => c.vdec cl k)

/-- VSCL (R228). -/
def execVscl (cl : Fin 32) (k : Fin 16) (s : State) : Host.Outcome State Fault Refusal :=
  s.onCluster cl (fun c => c.vscl cl k)

/-- VLD (R224). -/
def execVld (cl : Fin 32) (k : Fin 16) (s : State) : Host.Outcome State Fault Refusal :=
  s.onCluster cl (fun c => c.vld cl k)

/-- VST (R224). -/
def execVst (cl : Fin 32) (k : Fin 16) (s : State) : Host.Outcome State Fault Refusal :=
  s.onCluster cl (fun c => c.vst cl k)

/-- VGATHER (R224). -/
def execVgather (cl : Fin 32) (k : Fin 16) (s : State) : Host.Outcome State Fault Refusal :=
  s.onCluster cl (fun c => c.vgather cl k)

/-- VSCATTER (R225). -/
def execVscatter (cl : Fin 32) (k : Fin 16) (s : State) : Host.Outcome State Fault Refusal :=
  s.onCluster cl (fun c => c.vscatter cl k)

/-- VSCATADD (R225). -/
def execVscatadd (cl : Fin 32) (k : Fin 16) (s : State) : Host.Outcome State Fault Refusal :=
  s.onCluster cl (fun c => c.vscatadd cl k)

/-- FENCE (R223). -/
def execFence (cl : Fin 32) (k : Fin 16) (s : State) : Host.Outcome State Fault Refusal :=
  s.onCluster cl (fun c => c.vfence cl k)

/-- SHCLAIM (R226). -/
def execShclaim (cl : Fin 32) (k : Fin 16) (s : State) : Host.Outcome State Fault Refusal :=
  s.onCluster cl (fun c => c.veShClaim cl k)

/-- SHCOMMIT (R226). -/
def execShcommit (cl : Fin 32) (k : Fin 16) (s : State) : Host.Outcome State Fault Refusal :=
  s.onCluster cl (fun c => c.veShCommit cl k)

/-- SHRELEASE (R226). -/
def execShrelease (cl : Fin 32) (k : Fin 16) (s : State) : Host.Outcome State Fault Refusal :=
  s.onCluster cl (fun c => c.veShRelease cl k)

/-- SWAIT (R228). -/
def execSwait (cl : Fin 32) (k : Fin 16) (s : State) : Host.Outcome State Fault Refusal :=
  s.onCluster cl (fun c => c.veSwait cl k)

/-- SSIGNAL (R228). -/
def execSsignal (cl : Fin 32) (k : Fin 16) (s : State) : Host.Outcome State Fault Refusal :=
  s.onCluster cl (fun c => c.veSsignal cl k)

/-- SADD (R228). -/
def execSadd (cl : Fin 32) (k : Fin 16) (s : State) : Host.Outcome State Fault Refusal :=
  s.onCluster cl (fun c => c.sadd cl k)

/-- SSUB (R228). -/
def execSsub (cl : Fin 32) (k : Fin 16) (s : State) : Host.Outcome State Fault Refusal :=
  s.onCluster cl (fun c => c.ssub cl k)

/-- SMUL (R228). -/
def execSmul (cl : Fin 32) (k : Fin 16) (s : State) : Host.Outcome State Fault Refusal :=
  s.onCluster cl (fun c => c.smul cl k)

/-- SSHIFT (R228). -/
def execSshift (cl : Fin 32) (k : Fin 16) (s : State) : Host.Outcome State Fault Refusal :=
  s.onCluster cl (fun c => c.sshift cl k)

/-- SLOGIC (R228). -/
def execSlogic (cl : Fin 32) (k : Fin 16) (s : State) : Host.Outcome State Fault Refusal :=
  s.onCluster cl (fun c => c.slogic cl k)

/-- SCMP (R228). -/
def execScmp (cl : Fin 32) (k : Fin 16) (s : State) : Host.Outcome State Fault Refusal :=
  s.onCluster cl (fun c => c.scmp cl k)

/-- SMOVI (R228). -/
def execSmovi (cl : Fin 32) (k : Fin 16) (s : State) : Host.Outcome State Fault Refusal :=
  s.onCluster cl (fun c => c.smovi cl k)

/-- SLD_SST (R228). -/
def execSldSst (cl : Fin 32) (k : Fin 16) (s : State) : Host.Outcome State Fault Refusal :=
  s.onCluster cl (fun c => c.sldSst cl k)

/-- BR (R228). -/
def execBr (cl : Fin 32) (k : Fin 16) (s : State) : Host.Outcome State Fault Refusal :=
  s.onCluster cl (fun c => c.veBr cl k)

/-- BRZ (R228). -/
def execBrz (cl : Fin 32) (k : Fin 16) (s : State) : Host.Outcome State Fault Refusal :=
  s.onCluster cl (fun c => c.veBrz cl k)

/-- BRNZ (R228). -/
def execBrnz (cl : Fin 32) (k : Fin 16) (s : State) : Host.Outcome State Fault Refusal :=
  s.onCluster cl (fun c => c.veBrnz cl k)

/-- EXIT (R228). -/
def execExit (cl : Fin 32) (k : Fin 16) (s : State) : Host.Outcome State Fault Refusal :=
  s.onCluster cl (fun c => c.veExit cl k)

end Sys2Proof.Machine
end

