-- ==== Sys2Proof/Machine/Dispatch.lean ====
section
/-! DEFINITION. Which meaning each command has. -/

namespace Sys2Proof.Machine

/-- The effect of a command on everything but the queue. -/
def exec (i : Instr) (s : State) : Host.Outcome State Fault Refusal :=
  match i with
  | .regWrite who die off size value => Sys2Proof.Machine.execRegWrite who die off size value s
  | .windowWrite who die win word value => Sys2Proof.Machine.execWindowWrite who die win word value s
  | .secRegWrite who off size value => Sys2Proof.Machine.execSecRegWrite who off size value s
  | .cacheConfigWrite cl k who owner value => Sys2Proof.Machine.execCacheConfigWrite cl k who owner value s
  | .cacheWriteBack cl k ctx all => Sys2Proof.Machine.execCacheWriteBack cl k ctx all s
  | .cacheInvalidate cl k ctx all => Sys2Proof.Machine.execCacheInvalidate cl k ctx all s
  | .cacheWriteBackInvalidate cl k ctx all => Sys2Proof.Machine.execCacheWriteBackInvalidate cl k ctx all s
  | .rallyLoad n => Sys2Proof.Machine.execRallyLoad n s
  | .rallyRun n => Sys2Proof.Machine.execRallyRun n s
  | .passAdmit p bwd await => Sys2Proof.Machine.execPassAdmit p bwd await s
  | .passRetire cl bwd high => Sys2Proof.Machine.execPassRetire cl bwd high s
  | .groupSplit cl => Sys2Proof.Machine.execGroupSplit cl s
  | .groupRejoin cl => Sys2Proof.Machine.execGroupRejoin cl s
  | .stepIssue cl bwd gwait cyc => Sys2Proof.Machine.execStepIssue cl bwd gwait cyc s
  | .planHaltComplete cl => Sys2Proof.Machine.execPlanHaltComplete cl s
  | .haltReq cl => Sys2Proof.Machine.execHaltReq cl s
  | .rseqStall cl => Sys2Proof.Machine.execRseqStall cl s
  | .stepComplete cl bwd noc => Sys2Proof.Machine.execStepComplete cl bwd noc s
  | .gatherPieceFetch cl bwd => Sys2Proof.Machine.execGatherPieceFetch cl bwd s
  | .programWrite cl k buf bytes off data lim => Sys2Proof.Machine.execProgramWrite cl k buf bytes off data lim s
  | .tpStart cl k => Sys2Proof.Machine.execTpStart cl k s
  | .tpEnd cl k core noc => Sys2Proof.Machine.execTpEnd cl k core noc s
  | .mma cl k => Sys2Proof.Machine.execMma cl k s
  | .conv cl k => Sys2Proof.Machine.execConv cl k s
  | .mmaWsh cl k => Sys2Proof.Machine.execMmaWsh cl k s
  | .accStore cl k => Sys2Proof.Machine.execAccStore cl k s
  | .sweepStart cl k wait => Sys2Proof.Machine.execSweepStart cl k wait s
  | .sweepVerdict cl k faults slot fails busy dry => Sys2Proof.Machine.execSweepVerdict cl k faults slot fails busy dry s
  | .veFallbackDone cl k busy => Sys2Proof.Machine.execVeFallbackDone cl k busy s
  | .accEccError cl k tile ecc fails busy => Sys2Proof.Machine.execAccEccError cl k tile ecc fails busy s
  | .tbLoad cl k => Sys2Proof.Machine.execTbLoad cl k s
  | .tbTileReady cl k fails conflict => Sys2Proof.Machine.execTbTileReady cl k fails conflict s
  | .spMove cl k => Sys2Proof.Machine.execSpMove cl k s
  | .spMoveDone cl k conflict wait => Sys2Proof.Machine.execSpMoveDone cl k conflict wait s
  | .wait cl k => Sys2Proof.Machine.execWait cl k s
  | .signal cl k => Sys2Proof.Machine.execSignal cl k s
  | .loop cl k => Sys2Proof.Machine.execLoop cl k s
  | .progEnd cl k => Sys2Proof.Machine.execProgEnd cl k s
  | .shelfOpen who sel value => Sys2Proof.Machine.execShelfOpen who sel value s
  | .shelfClose sel value => Sys2Proof.Machine.execShelfClose sel value s
  | .shelfOpClaim sel units => Sys2Proof.Machine.execShelfOpClaim sel units s
  | .shelfOpCommit sel seq => Sys2Proof.Machine.execShelfOpCommit sel seq s
  | .shelfOpRelease sel seq => Sys2Proof.Machine.execShelfOpRelease sel seq s
  | .shelfClaimGrant sel => Sys2Proof.Machine.execShelfClaimGrant sel s
  | .sramEccError site ue => Sys2Proof.Machine.execSramEccError site ue s
  | .veRun cl k => Sys2Proof.Machine.execVeRun cl k s
  | .veRunDone cl k starve slots cap fallback => Sys2Proof.Machine.execVeRunDone cl k starve slots cap fallback s
  | .veRequestReturn cl k slot lat => Sys2Proof.Machine.execVeRequestReturn cl k slot lat s
  | .veWatchdogTimeout cl k run => Sys2Proof.Machine.execVeWatchdogTimeout cl k run s
  | .veRegEccError cl k ue => Sys2Proof.Machine.execVeRegEccError cl k ue s
  | .vadd cl k => Sys2Proof.Machine.execVadd cl k s
  | .vsub cl k => Sys2Proof.Machine.execVsub cl k s
  | .vmul cl k => Sys2Proof.Machine.execVmul cl k s
  | .vmax cl k => Sys2Proof.Machine.execVmax cl k s
  | .vmin cl k => Sys2Proof.Machine.execVmin cl k s
  | .vfma cl k => Sys2Proof.Machine.execVfma cl k s
  | .vabsneg cl k => Sys2Proof.Machine.execVabsneg cl k s
  | .vcmp cl k => Sys2Proof.Machine.execVcmp cl k s
  | .vsel cl k => Sys2Proof.Machine.execVsel cl k s
  | .vbcast cl k => Sys2Proof.Machine.execVbcast cl k s
  | .vexp2 cl k => Sys2Proof.Machine.execVexp2 cl k s
  | .vlog2 cl k => Sys2Proof.Machine.execVlog2 cl k s
  | .vrcp cl k => Sys2Proof.Machine.execVrcp cl k s
  | .vrsqrt cl k => Sys2Proof.Machine.execVrsqrt cl k s
  | .vsqrt cl k => Sys2Proof.Machine.execVsqrt cl k s
  | .vrsum cl k => Sys2Proof.Machine.execVrsum cl k s
  | .vrmax cl k => Sys2Proof.Machine.execVrmax cl k s
  | .vrmaxabs cl k => Sys2Proof.Machine.execVrmaxabs cl k s
  | .vcvt cl k => Sys2Proof.Machine.execVcvt cl k s
  | .vdec cl k => Sys2Proof.Machine.execVdec cl k s
  | .vscl cl k => Sys2Proof.Machine.execVscl cl k s
  | .vld cl k => Sys2Proof.Machine.execVld cl k s
  | .vst cl k => Sys2Proof.Machine.execVst cl k s
  | .vgather cl k => Sys2Proof.Machine.execVgather cl k s
  | .vscatter cl k => Sys2Proof.Machine.execVscatter cl k s
  | .vscatadd cl k => Sys2Proof.Machine.execVscatadd cl k s
  | .fence cl k => Sys2Proof.Machine.execFence cl k s
  | .shclaim cl k => Sys2Proof.Machine.execShclaim cl k s
  | .shcommit cl k => Sys2Proof.Machine.execShcommit cl k s
  | .shrelease cl k => Sys2Proof.Machine.execShrelease cl k s
  | .swait cl k => Sys2Proof.Machine.execSwait cl k s
  | .ssignal cl k => Sys2Proof.Machine.execSsignal cl k s
  | .sadd cl k => Sys2Proof.Machine.execSadd cl k s
  | .ssub cl k => Sys2Proof.Machine.execSsub cl k s
  | .smul cl k => Sys2Proof.Machine.execSmul cl k s
  | .sshift cl k => Sys2Proof.Machine.execSshift cl k s
  | .slogic cl k => Sys2Proof.Machine.execSlogic cl k s
  | .scmp cl k => Sys2Proof.Machine.execScmp cl k s
  | .smovi cl k => Sys2Proof.Machine.execSmovi cl k s
  | .sldSst cl k => Sys2Proof.Machine.execSldSst cl k s
  | .br cl k => Sys2Proof.Machine.execBr cl k s
  | .brz cl k => Sys2Proof.Machine.execBrz cl k s
  | .brnz cl k => Sys2Proof.Machine.execBrnz cl k s
  | .exit cl k => Sys2Proof.Machine.execExit cl k s
  | .dmaChEnable who cl n => Sys2Proof.Machine.execDmaChEnable who cl n s
  | .dmaStop who cl n => Sys2Proof.Machine.execDmaStop who cl n s
  | .dmaProdWrite who cl n prod => Sys2Proof.Machine.execDmaProdWrite who cl n prod s
  | .dmaDescFetch cl n => Sys2Proof.Machine.execDmaDescFetch cl n s
  | .dmaDescStart cl n => Sys2Proof.Machine.execDmaDescStart cl n s
  | .dmaSlotArbitrate cl => Sys2Proof.Machine.execDmaSlotArbitrate cl s
  | .dmaChannelAge cl n => Sys2Proof.Machine.execDmaChannelAge cl n s
  | .dmaSegmentAttemptEnd cl n serial seg => Sys2Proof.Machine.execDmaSegmentAttemptEnd cl n serial seg s
  | .dmaAttemptTimeout cl n serial seg tag => Sys2Proof.Machine.execDmaAttemptTimeout cl n serial seg tag s
  | .dmaDescComplete cl n => Sys2Proof.Machine.execDmaDescComplete cl n s
  | .dmaSignalFail cl n => Sys2Proof.Machine.execDmaSignalFail cl n s
  | .dmaBufEccError cl n ue => Sys2Proof.Machine.execDmaBufEccError cl n ue s
  | .wqProdWrite n prod => Sys2Proof.Machine.execWqProdWrite n prod s
  | .cqHeadWrite n head => Sys2Proof.Machine.execCqHeadWrite n head s
  | .wqDequeue => Sys2Proof.Machine.execWqDequeue s
  | .wqEntryComplete n => Sys2Proof.Machine.execWqEntryComplete n s
  | .nop n => Sys2Proof.Machine.execNop n s
  | .opRun n cyc => Sys2Proof.Machine.execOpRun n cyc s
  | .syncSet n => Sys2Proof.Machine.execSyncSet n s
  | .whistle n => Sys2Proof.Machine.execWhistle n s
  | .whistleDrainDone p step outside length cycles => Sys2Proof.Machine.execWhistleDrainDone p step outside length cycles s
  | .whistleStuck p length cycles => Sys2Proof.Machine.execWhistleStuck p length cycles s
  | .drain n => Sys2Proof.Machine.execDrain n s
  | .quiesceDone p => Sys2Proof.Machine.execQuiesceDone p s
  | .resume n => Sys2Proof.Machine.execResume n s
  | .syncValueSet ctr value => Sys2Proof.Machine.execSyncValueSet ctr value s
  | .syncValueInc ctr inc who => Sys2Proof.Machine.execSyncValueInc ctr inc who s
  | .syncWaitMet who => Sys2Proof.Machine.execSyncWaitMet who s
  | .memRead agent cls addr len faults => Sys2Proof.Machine.execMemRead agent cls addr len faults s
  | .memWrite agent cls addr bytes enable faults => Sys2Proof.Machine.execMemWrite agent cls addr bytes enable faults s
  | .stripeBufferFlush g stripe faults => Sys2Proof.Machine.execStripeBufferFlush g stripe faults s
  | .memRequestPromote g n => Sys2Proof.Machine.execMemRequestPromote g n s
  | .memRefreshDue g bank => Sys2Proof.Machine.execMemRefreshDue g bank s
  | .calSessionStart g m => Sys2Proof.Machine.execCalSessionStart g m s
  | .calSessionEnd g pass ns => Sys2Proof.Machine.execCalSessionEnd g pass ns s
  | .calLogReplayDone g => Sys2Proof.Machine.execCalLogReplayDone g s
  | .memGrpCmdFail g m recalled => Sys2Proof.Machine.execMemGrpCmdFail g m recalled s
  | .memGrpCmdCalNow g m => Sys2Proof.Machine.execMemGrpCmdCalNow g m s
  | .memberFail g m checks recalled => Sys2Proof.Machine.execMemberFail g m checks recalled s
  | .rebuildStart g trained => Sys2Proof.Machine.execRebuildStart g trained s
  | .rebuildStripe g back faults => Sys2Proof.Machine.execRebuildStripe g back faults s
  | .portEnable p => Sys2Proof.Machine.execPortEnable p s
  | .portRetrain p => Sys2Proof.Machine.execPortRetrain p s
  | .portForceDown p => Sys2Proof.Machine.execPortForceDown p s
  | .portTrainComplete p good down => Sys2Proof.Machine.execPortTrainComplete p good down s
  | .portTrainRetry p => Sys2Proof.Machine.execPortTrainRetry p s
  | .portDown p => Sys2Proof.Machine.execPortDown p s
  | .laneErrorLimitExceeded p lane word => Sys2Proof.Machine.execLaneErrorLimitExceeded p lane word s
  | .replayTimeout p => Sys2Proof.Machine.execReplayTimeout p s
  | .idleFlit p bytes fec => Sys2Proof.Machine.execIdleFlit p bytes fec s
  | .msgFlit p bytes fec => Sys2Proof.Machine.execMsgFlit p bytes fec s
  | .dataFlit p bytes fec => Sys2Proof.Machine.execDataFlit p bytes fec s
  | .nakFlit p bytes fec => Sys2Proof.Machine.execNakFlit p bytes fec s
  | .laneDropFlit p bytes fec => Sys2Proof.Machine.execLaneDropFlit p bytes fec s
  | .paramFlit p bytes fec good => Sys2Proof.Machine.execParamFlit p bytes fec good s
  | .rd p => Sys2Proof.Machine.execRd p s
  | .wr p => Sys2Proof.Machine.execWr p s
  | .syncInc p => Sys2Proof.Machine.execSyncInc p s
  | .rdData p => Sys2Proof.Machine.execRdData p s
  | .wrAck p => Sys2Proof.Machine.execWrAck p s
  | .syncAck p => Sys2Proof.Machine.execSyncAck p s
  | .refuse p => Sys2Proof.Machine.execRefuse p s
  | .retry p => Sys2Proof.Machine.execRetry p s
  | .retryResendTimer req expired => Sys2Proof.Machine.execRetryResendTimer req expired s
  | .respTimeout req => Sys2Proof.Machine.execRespTimeout req s
  | .perstRelease => Sys2Proof.Machine.execPerstRelease s
  | .perstAssert => Sys2Proof.Machine.execPerstAssert s
  | .rrsTimeout => Sys2Proof.Machine.execRrsTimeout s
  | .pcieConfigRequest fn write dword value vfs => Sys2Proof.Machine.execPcieConfigRequest fn write dword value vfs s
  | .pcieMemRead fn off len => Sys2Proof.Machine.execPcieMemRead fn off len s
  | .pcieMemWrite fn off bytes => Sys2Proof.Machine.execPcieMemWrite fn off bytes s
  | .flrVf n => Sys2Proof.Machine.execFlrVf n s
  | .flrPf => Sys2Proof.Machine.execFlrPf s
  | .pcieHotReset => Sys2Proof.Machine.execPcieHotReset s
  | .pcieLinkDown => Sys2Proof.Machine.execPcieLinkDown s
  | .partReset p => Sys2Proof.Machine.execPartReset p s
  | .partResetDone p us => Sys2Proof.Machine.execPartResetDone p us s
  | .sliceTurn p => Sys2Proof.Machine.execSliceTurn p s
  | .sliceGrantExpire p => Sys2Proof.Machine.execSliceGrantExpire p s
  | .sliceEnd p late run => Sys2Proof.Machine.execSliceEnd p late run s
  | .seqOpen n => Sys2Proof.Machine.execSeqOpen n s
  | .seqAppend n => Sys2Proof.Machine.execSeqAppend n s
  | .seqClose n => Sys2Proof.Machine.execSeqClose n s
  | .batchStep n cyc => Sys2Proof.Machine.execBatchStep n cyc s
  | .batchOpDone n cyc => Sys2Proof.Machine.execBatchOpDone n cyc s
  | .layoutSwitch n => Sys2Proof.Machine.execLayoutSwitch n s
  | .layoutSwitchComplete => Sys2Proof.Machine.execLayoutSwitchComplete s
  | .cabPlan n => Sys2Proof.Machine.execCabPlan n s
  | .cabStatic n => Sys2Proof.Machine.execCabStatic n s
  | .cabRelease n => Sys2Proof.Machine.execCabRelease n s
  | .pairingStart => Sys2Proof.Machine.execPairingStart s
  | .sideboardDrainDone => Sys2Proof.Machine.execSideboardDrainDone s
  | .catchupRetry j => Sys2Proof.Machine.execCatchupRetry j s
  | .cabSeal j static => Sys2Proof.Machine.execCabSeal j static s
  | .heartbeatSend => Sys2Proof.Machine.execHeartbeatSend s
  | .partnerSilent dev => Sys2Proof.Machine.execPartnerSilent dev s
  | .lossDeclare dev => Sys2Proof.Machine.execLossDeclare dev s
  | .heartbeat p => Sys2Proof.Machine.execHeartbeat p s
  | .pair p => Sys2Proof.Machine.execPair p s
  | .pairAck p => Sys2Proof.Machine.execPairAck p s
  | .wstate p => Sys2Proof.Machine.execWstate p s
  | .drainEnd p => Sys2Proof.Machine.execDrainEnd p s
  | .sealed p => Sys2Proof.Machine.execSealed p s
  | .memberSealed p => Sys2Proof.Machine.execMemberSealed p s
  | .cabLost p => Sys2Proof.Machine.execCabLost p s
  | .silent p => Sys2Proof.Machine.execSilent p s
  | .lost p => Sys2Proof.Machine.execLost p s
  | .mgmtFence p => Sys2Proof.Machine.execMgmtFence p s
  | .spareClaim p => Sys2Proof.Machine.execSpareClaim p s
  | .spareGrant p => Sys2Proof.Machine.execSpareGrant p s
  | .spareBusy p => Sys2Proof.Machine.execSpareBusy p s
  | .spareFree p => Sys2Proof.Machine.execSpareFree p s
  | .loadDone via plan stage => Sys2Proof.Machine.execLoadDone via plan stage s
  | .adopted p us => Sys2Proof.Machine.execAdopted p us s
  | .resumeGroup p us => Sys2Proof.Machine.execResumeGroup p us s
  | .bootDone p => Sys2Proof.Machine.execBootDone p s
  | .powerOnResetRelease pins => Sys2Proof.Machine.execPowerOnResetRelease pins s
  | .bringUpStage us found torn tree => Sys2Proof.Machine.execBringUpStage us found torn tree s
  | .computeReset => Sys2Proof.Machine.execComputeReset s
  | .computeResetDone cores => Sys2Proof.Machine.execComputeResetDone cores s
  | .flashReqAssert => Sys2Proof.Machine.execFlashReqAssert s
  | .flashReqDeassert off bytes => Sys2Proof.Machine.execFlashReqDeassert off bytes s
  | .attReq via nonce kind torn tree => Sys2Proof.Machine.execAttReq via nonce kind torn tree s
  | .attSignatureDone us torn tree => Sys2Proof.Machine.execAttSignatureDone us torn tree s
  | .attTokenGain => Sys2Proof.Machine.execAttTokenGain s
  | .ownerEnroll via slot key sig clean => Sys2Proof.Machine.execOwnerEnroll via slot key sig clean s
  | .ownerRevoke via slot signer sig clean => Sys2Proof.Machine.execOwnerRevoke via slot signer sig clean s
  | .svnCommit via clean => Sys2Proof.Machine.execSvnCommit via clean s
  | .modEnRise => Sys2Proof.Machine.execModEnRise s
  | .inputValid => Sys2Proof.Machine.execInputValid s
  | .modEnFall => Sys2Proof.Machine.execModEnFall s
  | .vinUndervoltage => Sys2Proof.Machine.execVinUndervoltage s
  | .vinOvervoltage volts => Sys2Proof.Machine.execVinOvervoltage volts s
  | .inputOvercurrent => Sys2Proof.Machine.execInputOvercurrent s
  | .inputLow => Sys2Proof.Machine.execInputLow s
  | .inputLowClear => Sys2Proof.Machine.execInputLowClear s
  | .ref100Loss => Sys2Proof.Machine.execRef100Loss s
  | .ref25Loss => Sys2Proof.Machine.execRef25Loss s
  | .domainFault n kind pll => Sys2Proof.Machine.execDomainFault n kind pll s
  | .powerCapCheck watts quiet => Sys2Proof.Machine.execPowerCapCheck watts quiet s
  | .sensorRefresh us reading => Sys2Proof.Machine.execSensorRefresh us reading s
  | .thermalPointTick cl cooled => Sys2Proof.Machine.execThermalPointTick cl cooled s
  | .opPointStep cl => Sys2Proof.Machine.execOpPointStep cl s
  | .opPointStepDone cl => Sys2Proof.Machine.execOpPointStepDone cl s
  | .droopDetect cl => Sys2Proof.Machine.execDroopDetect cl s
  | .pldmEventRetry pos => Sys2Proof.Machine.execPldmEventRetry pos s
  | .getTid => Sys2Proof.Machine.execGetTid s
  | .setTid tid => Sys2Proof.Machine.execSetTid tid s
  | .getPldmVersion typ => Sys2Proof.Machine.execGetPldmVersion typ s
  | .getPldmTypes => Sys2Proof.Machine.execGetPldmTypes s
  | .getPldmCommands typ => Sys2Proof.Machine.execGetPldmCommands typ s
  | .getPdrRepositoryInfo => Sys2Proof.Machine.execGetPdrRepositoryInfo s
  | .getPdr handle => Sys2Proof.Machine.execGetPdr handle s
  | .getSensorReading id => Sys2Proof.Machine.execGetSensorReading id s
  | .getStateSensorReadings id => Sys2Proof.Machine.execGetStateSensorReadings id s
  | .setEventReceiver who => Sys2Proof.Machine.execSetEventReceiver who s
  | .bypass d => Sys2Proof.Machine.execBypass d s
  | .idcode d => Sys2Proof.Machine.execIdcode d s
  | .samplePreload d pins preload => Sys2Proof.Machine.execSamplePreload d pins preload s
  | .extest d pins => Sys2Proof.Machine.execExtest d pins s
  | .droopStretchEnd cl => Sys2Proof.Machine.execDroopStretchEnd cl s
  | .vinOvervoltageReclose => Sys2Proof.Machine.execVinOvervoltageReclose s
  | .pcieLinkUp wide speed => Sys2Proof.Machine.execPcieLinkUp wide speed s
  | .platformEventAck pos => Sys2Proof.Machine.execPlatformEventAck pos s
  | .cacheOpDone cl k => Sys2Proof.Machine.execCacheOpDone cl k s
  | .trstAssert => Sys2Proof.Machine.execTrstAssert s

end Sys2Proof.Machine
end

