-- ==== Sys2Proof/Machine/Timing.lean ====
section
/-! DEFINITION. The timelines and bank costs that the spec states as numbers (R75-R79, R112, R144-R147, R153, R157, R218, R460, R462).  The module is modelled by
what its commands do, not by when (log entry 8): no command calls these functions; statements about the stated costs do. -/

namespace Sys2Proof.Machine

/-! Banks (R144, R145, R153). -/

/-- Bank of the strip at a scratchpad offset, and the word within it (R144). -/
def spBank (a : Nat) : Nat := (a / 512 + a / 16 % 32) % 32
def spBankWord (a : Nat) : Nat := a / 512

/-- Bank and word of a commons offset (R153). -/
def cmBank (a : Nat) : Nat := (a / 64 + a / 4096) % 64
def cmBankWord (a : Nat) : Nat := a / 4096

/-- Core cycles of an access without contention: the largest number of its words in one of `n` banks, and at least one (R145). -/
def accessCost (n : Nat) (bank : Nat → Nat) (words : List Nat) : Nat :=
  (upto n).foldl (fun m b => max m (words.filter (fun a => bank a == b)).length) 1

/-- Strips `a0 + i × P`, i = 0-31 (R147). -/
def stridedSet (a0 pitch : Nat) : List Nat := (upto 32).map (fun i => a0 + i * pitch)

/-- Cost of a strided set of 32 strips whose pitch is a multiple of a row (R147). -/
def rowPitchCost (m : Nat) : Nat := Nat.gcd m 32

/-! Sweeps (R75, R76, R79). -/

/-- Core cycle of the verdict of a sweep that starts in core cycle 0; `wsh` is mode WSH. -/
def verdictCycle (wsh : Bool) (mT : Nat) : Nat := if wsh then mT + 10 else mT + 97

/-- Core cycle in which row `m` is committed. -/
def commitCycle (wsh : Bool) (mT m : Nat) : Nat := if wsh then mT + 10 + m else mT + 97 + m

/-- Core cycles of a weight load. -/
def loadCycles (wsh : Bool) : Nat := if wsh then 8 else 64

/-- Start of a sweep after one that starts at `prev` with M_T = `mT` and lets the next weights be loaded from `load` on; KEEP_W loads none (R76). -/
def nextSweepStart (wsh keep : Bool) (prev mT load : Nat) : Nat :=
  if keep then prev + mT + 1 else max (prev + mT + 1) (load + loadCycles wsh)

/-- When the next weights begin to load: the later of the sweep's start and the issue of the next command, and not before a TB tile is readable (R76). -/
def loadStart (prev issue : Nat) (ready : Option Nat) : Nat := max (max prev issue) (ready.getD 0)

/-- When a TB tile whose first access is at `first` becomes readable, without conflicts (R112). -/
def tileReadable (first : Nat) (cmd : List Byte) : Nat := first + tbAccesses cmd + 6

/-! Moves and VE results (R157, R218). -/

/-- Core cycles that the commons port needs for a row of a move (R157). -/
def moveRowCycles (rowBytes : Nat) : Nat := ceilDiv rowBytes 128

/-- Result latency of a VE instruction by opcode, in core cycles, where R218 names its class: functions, reductions, and add, multiply, FMA, max,
min, compare, select, convert. -/
def veLatency (op : Nat) : Option Nat :=
  if op = 0x10 ∨ op = 0x11 ∨ op = 0x12 ∨ op = 0x13 ∨ op = 0x14 then some 8
  else if op = 0x18 ∨ op = 0x19 ∨ op = 0x1A then some 12
  else if (1 ≤ op ∧ op ≤ 6) ∨ op = 8 ∨ op = 9 ∨ op = 0x20 then some 4 else none

/-- Result latency of a load that needs no slot, without conflicts (R217, R218). -/
def veLoadLatency (cacheHit : Bool) : Nat := if cacheHit then 12 else 6

/-! Operating points (R460, R462). -/

/-- Rail voltage of an operating point in mV. -/
def pointMV (p : Nat) : Nat := [600, 630, 660, 690, 720, 760, 800, 850].getD p 0

/-- Microseconds in which the rail moves between two neighbouring points at 5 mV/µs. -/
def railUs (p q : Nat) : Nat := ceilDiv (max (pointMV p) (pointMV q) - min (pointMV p) (pointMV q)) 5

end Sys2Proof.Machine
end

