-- ==== Sys2Proof/Safety.lean ====
section
/-! DEFINITION. The terms in which statements speak of the module: when its commands act, what a next state is, what a one-time-programmable array can
turn into, and what counts as a sound shelf. -/

namespace Sys2Proof.Machine

/-- The next state that differs from `s` in the chip only: nothing is burnt, and the queue is as it was. -/
def State.goes (s : State) (c : Chip) : Host.Outcome State Fault Refusal := .next { s with chip := c }

/-- Power-on reset has been released (R456). -/
def State.up (s : State) : Prop := s.chip.por = false

/-- The commands of a cluster act: power-on reset has been released, and the cluster is there and has power. -/
def State.ready (s : State) (cl : Nat) : Prop := s.chip.por = false ∧ s.chip.clusterLive cl = true

/-- It is the turn of context `t` of a vector engine, whose instruction `i` lies below the spill slots, has opcode `op` and no reserved field set (R215,
R227, R232). -/
def Chip.veTurn (c : Chip) (cl k t i op : Nat) : Prop :=
  c.vePick cl k = some t ∧ (c.ctx cl k t).pc + 8 ≤ spillBase ∧ leNat (c.spRead cl k (c.ctx cl k t).pc 8) = i ∧ viOpc i = op ∧ viReserved i = false

/-- The engine with the instruction of context `t` counted as issued (R215, R238). -/
def Chip.veCounted (c : Chip) (cl k t : Nat) : Chip :=
  ((c.setVe cl k { c.veOf cl k with last := t }).addF (.ve cl k) R.VE_INSTS 1).addF (.ve cl k) R.VE_ISSUE_CYC 1

/-- What a lane-wise instruction leaves in context `t`: active lanes of VD hold `f`, its other lanes, every other vector register, the scalars and
the masks are as they were, and the PC stands at the next instruction (R215). -/
def Chip.lanesAre (d c : Chip) (cl k t i : Nat) (f : Nat → Nat) : Prop :=
  let x := c.ctx cl k t
  let y := d.ctx cl k t
  (∀ lane, lane < laneCount (viW i) → rawLane (viW i) (y.v (viD i)) lane =
    if x.active i lane then f lane % 2 ^ (8 * laneBytes (viW i)) else rawLane (viW i) (x.v (viD i)) lane) ∧
  (∀ r, r ≠ viD i → y.v r = x.v r) ∧ y.sca = x.sca ∧ y.mask = x.mask ∧ y.pc = x.pc + 8

/-- Context `t` keeps its vector registers and masks, scalar VD holds `v`, and the PC stands at the next instruction (R228). -/
def Chip.scalarIs (d c : Chip) (cl k t i v : Nat) : Prop :=
  let x := c.ctx cl k t
  let y := d.ctx cl k t
  y.s (viD i) = v ∧ (∀ r, r ≠ viD i → y.s r = x.s r) ∧ y.vec = x.vec ∧ y.mask = x.mask ∧ y.pc = x.pc + 8

/-- A flit of type `typ` that a port which is up receives whole: its codewords corrected, its CRC right (R325, R327). -/
def Chip.flitGood (c : Chip) (p typ : Nat) (b : List Byte) (fec : Fec) : Prop :=
  c.portUp p = true ∧ b.length = 256 ∧ fec.ok = true ∧ crc32 (b.take 252) = recNat b 252 4 ∧ field (recNat b 0 8) 12 4 = typ

/-- The port with what its decoder found noted, and the flit's acknowledgement and credits taken (R326, R331, R334). -/
def Chip.flitTaken (c : Chip) (p : Nat) (b : List Byte) (fec : Fec) : Chip := (c.fecNote p fec).takeAck p (recNat b 0 8)

/-- A message `m` that `f` picks is the next to be taken from port `p`, it is for this device and its source is not refused; `d` is the device with
the message taken, its slots returned and its way to its sink gone (R283, R328, R331, R338, R403). -/
def Chip.arrives (c : Chip) (p : Nat) (f : Msg → Bool) (d : Chip) (m : Msg) : Prop :=
  ∃ i h, (c.portOf p).ready f = some (i, h) ∧ m = (c.pullMsg p i h).2 ∧
    (let e := (c.pullMsg p i h).1.dropBad p ((c.pullMsg p i h).1.portOf p).rx.length
     e.isSelf m.dst = true ∧ e.recov.refused.contains m.src = false ∧ d = e.toSink p m)

/-- Commands that act while power-on reset holds: power, pins, straps, the flash bus and test access. -/
def underReset : Instr → Bool
  | .perstRelease | .perstAssert | .powerOnResetRelease _ | .flashReqAssert | .flashReqDeassert _ _ | .modEnRise | .inputValid | .modEnFall
  | .vinUndervoltage | .vinOvervoltage _ | .inputOvercurrent | .ref100Loss | .ref25Loss | .vinOvervoltageReclose | .bypass _ | .idcode _
  | .samplePreload _ _ _ | .extest _ _ | .trstAssert => true
  | _ => false

/-- Commands that may burn one-time-programmable bits. -/
def mayBurn : Instr → Bool
  | .attReq _ _ _ _ _ | .attSignatureDone _ _ _ | .ownerEnroll _ _ _ _ _ | .ownerRevoke _ _ _ _ _ | .svnCommit _ _ | .bringUpStage _ _ _ _ => true
  | _ => false

/-- An owner slot's history: a blank slot may take anything, an enrolled key stays or is revoked or torn, a revoked or torn slot stays (R438, R442). -/
def OwnerSlot.grows : OwnerSlot → OwnerSlot → Prop
  | .blank, _ => True
  | .enrolled k, .enrolled k' => k' = k
  | .enrolled k, .revoked k' => k' = k
  | .enrolled _, .torn => True
  | .enrolled _, .blank => False
  | .revoked k, y => y = .revoked k
  | .torn, y => y = .torn

/-- What burning can make of a one-time-programmable array: the fuse record and the attestation key stay, burnt bits stay burnt, and no slot goes back. -/
def Otp.grows (a b : Otp) : Prop :=
  b.fuse = a.fuse ∧ b.key = a.key ∧ (∀ i : Nat, a.svn.testBit i = true → b.svn.testBit i = true) ∧
    (∀ i : Nat, (a.blocks ||| a.unclean).testBit i = true → (b.blocks ||| b.unclean).testBit i = true) ∧
    b.owners.length = a.owners.length ∧
    ∀ (i : Nat) (x y : OwnerSlot), a.owners[i]? = some x → b.owners[i]? = some y → x.grows y

/-- Each entry begins where the one before it ends, modulo twice the region of `n` units (R160, R164). -/
def chained (n : Nat) : List ShelfEntry → Prop
  | [] => True
  | [_] => True
  | e :: f :: r => f.start = e.stop n ∧ chained n (f :: r)

/-- A sound shelf: the entries and the units that they pass over fit the region one behind another, and at most 16 are live (R160, R162, R164). -/
def Shelf.sound (s : Shelf) : Prop :=
  s.used ≤ s.span ∧ s.live ≤ 16 ∧ chained s.span s.entries ∧ ∀ e ∈ s.entries, e.start < 2 * s.span

end Sys2Proof.Machine
end

