-- ==== Sys2Proof/Certificates/Slice0/Obligations.lean ====
section
/-! DEFINITION. The statements for the provers. -/

open Sys2Proof Sys2Proof.Machine

/-- For every command and state, a step of the state with the command at the front of its queue is exec of the command on the state with the rest of the
queue; with an empty queue the step changes no more than the chip, which goes on with what waits inside it: ports in training take their next step and
the network delivers its flits (the model's choice, log entries 7 and 145). -/
def Obligations.StepRunsTheCommandInFront : Prop :=
  (∀ (i : Instr) (s : State) (r : List Instr), step { s with pending := i :: r } = exec i { s with pending := r }) ∧
  ∀ s : State, s.pending = [] → step s = .next { s with chip := s.chip.idle }

/-- Whatever command runs, in whatever state, the queue of the next state is the queue that it was given. -/
def Obligations.ExecKeepsTheQueue : Prop :=
  ∀ (i : Instr) (s t : State), exec i s = .next t → t.pending = s.pending

/-- While power-on reset holds, a command that is not one of power, pins or test access leaves the state as it is (log entry 5 is the model's reading of
what the other commands do then). A SENSOR_REFRESH beyond an absolute limit is set aside: the model faults on it (log entry 73). -/
def Obligations.NothingActsWhileResetHolds : Prop :=
  ∀ (i : Instr) (s : State), s.chip.por = true → underReset i = false → (∀ us r, i = .sensorRefresh us r → tooHot r = false) →
    exec i s = .next s

/-- The one-time-programmable array only grows: whatever state a step starts from, the fuse record, the key, every burnt bit of the SVN floor, every spent
block and the history of every owner slot that an earlier array held are still there in the next state. No slot goes back to blank and no revoked key
returns. -/
def Obligations.BurntBitsStayBurnt : Prop :=
  ∀ (o : Otp) (s t : State), o.grows s.otp → step s = .next t → o.grows t.otp

/-- A command other than ATT_REQ, ATT_SIGNATURE_DONE, OWNER_ENROLL, OWNER_REVOKE, SVN_COMMIT and BRING_UP_STAGE leaves the array as it is. -/
def Obligations.OnlySixCommandsBurn : Prop :=
  ∀ (i : Instr) (s t : State), mayBurn i = false → exec i s = .next t → t.otp = s.otp

/-- No command is ever refused. A command faults only as VIN_OVERVOLTAGE above 70.00 V or as a SENSOR_REFRESH that reads a junction above 125 °C, which
R490 puts beyond the module's limits (that the model faults there is log entry 73). -/
def Obligations.StopsOnlyBeyondAbsoluteLimits : Prop :=
  (∀ (i : Instr) (s : State) (r : Refusal), exec i s ≠ .refused r) ∧
  ∀ (i : Instr) (s : State) (f : Fault), exec i s = .fault f →
    (∃ v : BitVec 16, i = .vinOvervoltage v ∧ 7000 < v.toNat) ∨ ∃ us r, i = .sensorRefresh us r ∧ tooHot r = true

/-- In State.reset every field of every block holds the power-on value of its table, power-on reset holds, PERST# is asserted, and no command waits. The
array that it holds grows from itself, so the invariant that every step keeps (BurntBitsStayBurnt) holds at reset. Memory with nothing listed reads 0
(log entry 3) and the other contents are log entries 1 and 6. -/
def Obligations.RegistersAtPowerOn : Prop :=
  (∀ (b : Blk) (f : Field), State.reset.chip.getF b f = f.por) ∧ State.reset.chip.por = true ∧ State.reset.chip.perst = true ∧
    State.reset.pending = [] ∧ State.reset.otp.grows State.reset.otp ∧ ∀ a : Nat, State.reset.chip.mem.read a = 0

/-- Raising a status bit whose flag is one bit and whose count is 16 bits, at different places of a block, sets the flag, adds 1 to the count or leaves it
at 0xFFFF, and leaves every other field alone. A write of 1 to the flag clears it and leaves the count as it is. -/
def Obligations.StatusEventsCount : Prop :=
  ∀ (c : Chip) (b : Blk) (st : Status), st.flag.width = 1 → st.cnt.width = 16 →
    st.flag.off * 64 + st.flag.lsb ≠ st.cnt.off * 64 + st.cnt.lsb →
    (c.raise b st).getF b st.flag = 1 ∧ (c.raise b st).getF b st.cnt = min 0xFFFF (c.getF b st.cnt + 1) ∧
    (∀ b' f, fkey b' f ≠ fkey b st.flag → fkey b' f ≠ fkey b st.cnt → (c.raise b st).getF b' f = c.getF b' f) ∧
    (st.flag.acc = .w1c → ∀ v lo hi, bit v st.flag.lsb = true →
      (c.storeField b st.flag v lo hi).getF b st.flag = 0 ∧ (c.storeField b st.flag v lo hi).getF b st.cnt = c.getF b st.cnt)

/-- For a field that an access covers whole: a write leaves RO and WO fields without a stored value, stores the written bits of RW fields, stores those of
RWL fields until the configuration lock is set and nothing afterwards, and clears a W1C field by a 1 and not by a 0. A WO field reads zero, any other
reads its present value. -/
def Obligations.AccessCodes : Prop :=
  ∀ (c : Chip) (b : Blk) (f : Field) (v lo hi : Nat), lo ≤ f.lsb → f.lsb + f.width ≤ hi →
    (f.acc = .ro → (c.storeField b f v lo hi).getF b f = c.getF b f) ∧
    (f.acc = .wo → c.storeField b f v lo hi = c ∧ c.readF b f = 0) ∧
    (f.acc = .rw → (c.storeField b f v lo hi).getF b f = field v f.lsb f.width) ∧
    (f.acc = .rwl → (c.storeField b f v lo hi).getF b f =
      if c.on .cfg R.CFG_STATE_LOCKED then c.getF b f else field v f.lsb f.width) ∧
    (f.acc = .w1c → (c.storeField b f v lo hi).getF b f = if bit v f.lsb then 0 else c.getF b f) ∧
    (f.acc ≠ .wo → c.readF b f = (c.view b f).getD (c.getF b f) % 2 ^ f.width)

/-- A REG_WRITE of legal size and alignment to an assigned register of a unit that is there stores the access: every covered field that no row of its own
writes takes its value by its access code. The bridge's registers take it while the bridge is enabled, the aperture table only from the PF, a DMA
channel's registers when its owner does not refuse, and of a port's ENABLE and FORCE_DOWN only a 0; a write to SYNC_VALUE increments by its upper
half, or sets where it has none or that is zero. A host names an offset in BAR0 of its function: it changes nothing while the function cannot be
reached, and otherwise its TLP is counted and acts on the register of D0, the MSI-X dword or the nothing that the layout of R348 puts there. An
illegal access is counted and stores nothing; one to no register is counted as unmapped. A write to a remote window stores its word when it comes from
the MC or the security island, and from any other agent changes nothing and sets WIN_WRITE_DENIED. A legal write to an assigned register of the SEC
block stores the access when it comes from the MC of D0 or the sideband (and the tokens keep to their limit), and from any other agent changes nothing
and sets SEC_STATUS.DENIED. -/
def Obligations.RegisterWriteCompletes : Prop :=
  (∀ (s : State) (who : RegAgent) (die : Fin 4) (off : BitVec 32) (size : Fin 9) (v : BitVec 64), s.up →
    let host := s.chip.tlpRx
    (s.chip.barReaches who die = false → exec (.regWrite who die off size v) s = s.goes s.chip) ∧
    (s.chip.barReaches who die = true →
    (∀ i, regPlace who off.toNat = .msix i → exec (.regWrite who die off size v) s = s.goes (host.msixStore who i off.toNat size v.toNat)) ∧
    (∀ i, regPlace who off.toNat = .pba i → exec (.regWrite who die off size v) s = s.goes host) ∧
    (regPlace who off.toNat = .none → exec (.regWrite who die off size v) s = s.goes host) ∧
    ∀ o, regPlace who off.toNat = .reg o →
    let c := if inModule who then s.chip else host
    let legal := (size.val == 8 && o % 8 == 0) || (size.val == 4 && o % 4 == 0)
    (legal = false → exec (.regWrite who die off size v) s = s.goes (c.badAccess die o)) ∧
    (legal = true → decodeReg die o = none → ctxView die o = none →
      exec (.regWrite who die off size v) s = s.goes (c.unmapped die o)) ∧
    ∀ b : Blk, legal = true → decodeReg die o = some b →
      let there := !c.blkGone b && b.fields.any (fun x => b.base + x.off == die * dieSpan + o / 8 * 8)
      (there = false → exec (.regWrite who die off size v) s = s.goes (c.unmapped die o)) ∧
      (there = true →
      let stored := (c.regStore b die o size v.toNat (fun f => !ownRow b f)).regAfter b (b.covered die o size)
      match b with
      | .hbr => exec (.regWrite who die off size v) s = s.goes (if c.on .hbr R.HBR_CTRL_ENABLE then stored else c)
      | .apt _ => exec (.regWrite who die off size v) s = s.goes (if c.on .hbr R.HBR_CTRL_ENABLE = true ∧ who = .pf then stored else c)
      | .ch cl n => exec (.regWrite who die off size v) s = s.goes ((c.chanRefused who cl n).getD stored)
      | .sync i =>
        let part := (agentPart who).getD 0
        let up := if size.val = 4 then (if o % 8 = 4 then v.toNat else 0) else v.toNat / 2 ^ 32
        (o % 16 < 8 →
          exec (.regWrite who die off size v) s = s.goes (
            if up = 0 ∧ ¬(size.val = 4 ∧ o % 8 = 4) then c.syncValueSet i v.toNat else c.syncValueInc i up part)) ∧
        (8 ≤ o % 16 → exec (.regWrite who die off size v) s = s.goes stored)
      | .port _ => exec (.regWrite who die off size v) s = s.goes (c.regStore b die o size v.toNat (fun f => !ownRow b f &&
          !((f == R.PORT_CTRL_ENABLE || f == R.PORT_CTRL_FORCE_DOWN) && bit (v.toNat * 2 ^ (accessBits o size).1) f.lsb)))
      | _ => exec (.regWrite who die off size v) s = s.goes stored))) ∧
  ∀ (s : State) (who : RegAgent), s.up →
    (∀ (die : Fin 4) (w : Fin 256) (word : Fin 4) (v : BitVec 64),
      exec (.windowWrite who die w word v) s = s.goes (match who with
        | .mc _ | .island => s.chip.regStore (.win die w) die ((Blk.win die w).base - die * dieSpan + 8 * word) 8 v.toNat (fun _ => true)
        | _ => s.chip.raise (.jlk die) St.JLK_WIN_WRITE_DENIED)) ∧
    ∀ (off : BitVec 22) (size : Fin 9) (v : BitVec 64),
      let legal := (size.val == 8 && off.toNat % 8 == 0) || (size.val == 4 && off.toNat % 4 == 0)
      let there := Tbl.SEC.any (fun x => x.off == off.toNat / 8 * 8)
      (legal = false → exec (.secRegWrite who off size v) s = s.goes (s.chip.badAccess 0 (0x4000000 + off.toNat))) ∧
      (legal = true → there = false → exec (.secRegWrite who off size v) s = s.goes (s.chip.unmapped 0 (0x4000000 + off.toNat))) ∧
      (legal = true → there = true → exec (.secRegWrite who off size v) s = s.goes (
        if who = .mc 0 ∨ who = .sideband then
          (s.chip.regStore .sec 0 (0x4000000 + off.toNat) size v.toNat (fun _ => true)).tokenCap
        else s.chip.raise .sec St.SEC_DENIED))

/-- For every block, access and selection of fields: a covered and selected field holds afterwards what its access code gives, computed from the state
before the access; a field of the block that is not covered or not selected, in a block other than CFG, holds what it held. -/
def Obligations.RegisterStoreByField : Prop :=
  ∀ (c : Chip) (b : Blk) (d off size v : Nat) (pick : Field → Bool) (f : Field), f ∈ b.fields → b ≠ .cfg →
    let lo := (accessBits off size).1
    let hi := (accessBits off size).2
    let w := v % 2 ^ (hi - lo) * 2 ^ lo
    (f ∈ b.covered d off size → pick f = true →
      (c.regStore b d off size v pick).getF b f = ((c.storeField b f w lo hi).getF b f)) ∧
    ((f ∉ b.covered d off size ∨ pick f = false) → (c.regStore b d off size v pick).getF b f = c.getF b f)

/-- A write to SP_CACHE_OP of a core that is there joins its operations, after which BUSY reads 1; with none before it, CACHE_OP_DONE then carries it out:
a write-back leaves the lines of its ways clean, an invalidation no line in them, the other lines as they were, and BUSY reads 0. A setting by an
agent inside the module and of no share set that breaks no rule of R173 and R178 takes effect at once where it changes no valid line and no operation
runs, and joins the operations otherwise; one that breaks a rule raises CACHE_REFUSED, one of a member of a share set DENIED, with no other effect. On
a core that is not there each write is counted as unmapped. A host's write changes nothing: no BAR shows these registers. -/
def Obligations.CacheCommandsComplete : Prop :=
  ∀ (s : State) (cl : Fin 32) (k : Fin 16), s.up →
    let c := s.chip
    let x := c.cacheOf cl k
    let gone (r : Field) : Host.Outcome State Fault Refusal :=
      s.goes (c.unmapped (((Blk.sp cl k).base + r.off) / dieSpan) (((Blk.sp cl k).base + r.off) % dieSpan))
    let took (op : CacheOp) : Chip := c.setCache cl k { x with ops := x.ops ++ [op] }
    (∀ (ctx : Fin 8) (all wb inv : Bool) (i : Instr),
      (wb, inv, i) ∈ [(true, false, .cacheWriteBack cl k ctx all), (false, true, .cacheInvalidate cl k ctx all),
        (true, true, Instr.cacheWriteBackInvalidate cl k ctx all)] →
      let d := took (.run wb inv (if all then none else some ctx))
      let sel (j : Nat) : Bool := all || c.wayOwner cl k j == ctx
      let e := (d.cacheClean cl k sel wb inv).setCache cl k { (d.cacheClean cl k sel wb inv).cacheOf cl k with ops := [] }
      (c.clusterOff cl = true → exec i s = gone R.SP_CACHE_OP_OP) ∧
      (c.clusterOff cl = false → exec i s = s.goes d ∧ d.view (.sp cl k) R.SP_CACHE_OP_BUSY = some 1) ∧
      (s.ready cl → x.ops = [] → exec (.cacheOpDone cl k) { s with chip := d } = s.goes e ∧ e.view (.sp cl k) R.SP_CACHE_OP_BUSY = some 0 ∧
        (e.cacheOf cl k).lines = if inv then x.lines.filter (fun l => !sel l.way)
          else x.lines.map (fun l => if sel l.way then { l with dirty := false } else l))) ∧
    (∀ (who : RegAgent) (owner : Bool) (v : BitVec 64),
      let ways := satNat 16 (field v.toNat 0 5)
      let op : CacheOp := if owner then .setOwner v.toNat else .setWays (field v.toNat 0 5)
      let small := decide (c.largestPart ≤ 8) && (c.partOf cl).all (fun p => decide ((c.clustersOf p).length ≤ 4))
      let ok := owner || ((ways == 0 || small) && !c.waysOverlap cl k ways)
      let denied := (c.cacheAgent cl who).any (fun p => c.shared p)
      (inModule who = false → exec (.cacheConfigWrite cl k who owner v) s = s.goes c) ∧
      (inModule who = true →
      (c.clusterOff cl = true → exec (.cacheConfigWrite cl k who owner v) s =
        gone (if owner then R.SP_CACHE_OWNER_OWNER_0 else R.SP_CACHE_CFG_WAYS)) ∧
      (c.clusterOff cl = false →
        (∀ p, c.cacheAgent cl who = some p → c.shared p = true →
          exec (.cacheConfigWrite cl k who owner v) s = s.goes (c.raise (.part p) St.PART_DENIED)) ∧
        (denied = false → ok = false → exec (.cacheConfigWrite cl k who owner v) s = s.goes (c.raise (.sp cl k) St.SP_CACHE_REFUSED)) ∧
        (denied = false → ok = true →
          let quiet := x.ops.isEmpty && x.lines.all (fun l => !c.cacheSel cl k op l.way)
          (quiet = false → exec (.cacheConfigWrite cl k who owner v) s = s.goes (took op)) ∧
          (quiet = true → exec (.cacheConfigWrite cl k who owner v) s = s.goes (c.cacheDo cl k op) ∧
            (owner = false → (c.cacheDo cl k op).getF (.sp cl k) R.SP_CACHE_CFG_WAYS = field v.toNat 0 5) ∧
            (owner = true → ∀ j, j < 16 → (c.cacheDo cl k op).wayOwner cl k j = field v.toNat (3 * j) 3)))))) ∧
    ∀ (op : CacheOp) (r : List CacheOp), s.ready cl → x.ops = op :: r →
      exec (.cacheOpDone cl k) s = s.goes ((c.cacheDo cl k op).setCache cl k { (c.cacheDo cl k op).cacheOf cl k with ops := r })

/-- On a cluster that is there and for a shelf other than shelf 63: an open, from inside the module, of a closed shelf whose conditions hold opens it
empty and numbered from 0; a close of an open shelf with no live entry and no waiting claim closes it; a register claim that fits reserves its units
at CLAIM, RESULT reads 0 and OFFSET the place from BASE in the form of the pointers (the model's reading, log entry 33), and one that does not fit or
is refused sets RESULT alone; a commit of a live entry not yet committed marks it, a release of a live entry adds 1 to its count and HEAD moves over
freed entries; the oldest waiting claim is granted when it fits. On shelf 63 an open and a close change nothing and each register operation leaves
RESULT = 1. -/
def Obligations.ShelfCommandsComplete : Prop :=
  ∀ (s : State) (sel : ShelfSel), s.ready (shelfRef sel).cluster →
    let r := shelfRef sel
    let x := s.chip.shelf r
    (r.isSpill = true → ∀ (who : RegAgent) (v : BitVec 64) (u : BitVec 20) (q : BitVec 16),
      exec (.shelfOpen who sel v) s = s.goes s.chip ∧ exec (.shelfClose sel v) s = s.goes s.chip ∧
      exec (.shelfOpClaim sel u) s = s.goes (s.chip.setOpResult r true) ∧ exec (.shelfOpCommit sel q) s = s.goes (s.chip.setOpResult r true) ∧
      exec (.shelfOpRelease sel q) s = s.goes (s.chip.setOpResult r true)) ∧
    (r.isSpill = false →
    (∀ (who : RegAgent) (v : BitVec 64), inModule who = true → x.opened = false → s.chip.mayOpen who r (shelfOfCfg v.toNat) = true →
      s.chip.openOk r (shelfOfCfg v.toNat) = true →
      exec (.shelfOpen who sel v) s = s.goes (s.chip.setShelf r { shelfOfCfg v.toNat with opResult := x.opResult, opOffset := x.opOffset })) ∧
    (∀ v : BitVec 64, x.opened = true → x.live = 0 → x.waiting = [] →
      exec (.shelfClose sel v) s = s.goes (s.chip.setShelf r { x with opened := false, entries := [] })) ∧
    (∀ u : BitVec 20,
      let ok := x.opened && decide (1 ≤ u.toNat) && decide (u.toNat ≤ x.span) && x.waiting.isEmpty && x.fits u.toNat
      exec (.shelfOpClaim sel u) s = s.goes (if ok then s.chip.setShelf r { x.place u.toNat with
        opResult := 0, opOffset := shelfPtr x.span (x.claimPos + x.skipFor u.toNat) } else s.chip.setOpResult r true)) ∧
    (∀ (q : BitVec 16) (j : Nat) (e : ShelfEntry), x.opened = true → x.index? q.toNat = some j → x.entries[j]? = some e →
      e.committed = false → x.sigSync = 0xFFFF →
      exec (.shelfOpCommit sel q) s = s.goes (s.chip.setShelf r { x with
        entries := modAt x.entries j (fun e => { e with committed := true }), opResult := 0 })) ∧
    (∀ (q : BitVec 16) (j : Nat), x.opened = true → x.index? q.toNat = some j →
      exec (.shelfOpRelease sel q) s = s.goes (s.chip.setShelf r { Shelf.advance { x with
        entries := modAt x.entries j (fun e => { e with rel := e.rel + 1 }) } with opResult := 0 })) ∧
    ∀ (w : ShelfClaim) (l : List ShelfClaim), x.waiting = w :: l → 1 ≤ w.units → x.fits w.units = true →
      let c := s.chip.setShelf r ({ x with waiting := l }.place w.units)
      exec (.shelfClaimGrant sel) s = s.goes (match w.agent with
        | .spMove cl k => c.mvGranted cl k x.seqNext
        | .dma cl n => c.dmaGranted cl n x.seqNext
        | .ve cl k t => c.veGranted cl k t (c.entryByte r ((x.claimPos + x.skipFor w.units) % x.span))))

/-- In a sound shelf the entries with the units passed over fit the region, each begins where the one before it ends, and at most 16 are live. A claim, a
grant, a commit, a release and the Empty phase of a whistle keep a shelf sound, whatever their operands. -/
def Obligations.ShelfOperationsStaySound : Prop :=
  (∀ (s : Shelf) (u : Nat) (a : ClaimAgent), s.sound → (s.claim u a).1.sound) ∧
  (∀ (s t : Shelf) (w : ShelfClaim) (q o : Nat), s.sound → s.grantOldest = some (t, w, q, o) → t.sound) ∧
  (∀ (s : Shelf) (q : Nat), s.sound → (s.commit q).1.sound ∧ (s.release q).1.sound) ∧
  ∀ s : Shelf, s.sound → s.emptied.sound

/-- With a current RALLY_LOAD or RALLY_RUN entry that has not begun, RALLY_LOAD has every cluster of the partition load the plan and ends the entry with
the first code that is not COMP_OK, and RALLY_RUN begins the walk in every cluster and marks the entry begun with no code yet; where the partition has
begun to drain since its dequeue it ends drained instead. A cluster that does not walk and finds the plan valid holds its records, answers COMP_OK, is
LOADED and has no reservation; one that walks changes nothing but STATE_CONFLICT and answers COMP_STATE_CONFLICT; a LOADED cluster that runs is
RUNNING, its passes and retirements cleared, where it has no backward work or its seed counter lies in the range. -/
def Obligations.RallyQueueCommandsComplete : Prop :=
  (∀ (s : State) (n : Fin 64) (e : QEntry), s.up → (s.chip.queueOf n).cur = some e → e.started = false → e.code = none →
    let c := s.chip
    let q := c.queueOf n
    let p := queuePart n
    let load := (c.clustersOf p).foldl (fun (x : Chip × List Nat) cl =>
      ((x.1.rseqLoad cl p (Wqe.plan e.bs)).1, x.2 ++ [(x.1.rseqLoad cl p (Wqe.plan e.bs)).2])) (c, [])
    (Wqe.op e.bs = 0x02 → exec (.rallyLoad n) s =
      s.goes (load.1.setQueue n { q with cur := some { e with started := true, code := some (firstCode load.2) } })) ∧
    (Wqe.op e.bs = 0x03 → c.partState p = PS_DRAINING → exec (.rallyRun n) s =
      s.goes (c.setQueue n { q with cur := some { e with started := true, code := some COMP_DRAINED } })) ∧
    (Wqe.op e.bs = 0x03 → c.partState p ≠ PS_DRAINING → exec (.rallyRun n) s =
      s.goes ((forAll (c.clustersOf p) c Chip.rseqRun).setQueue n { q with cur := some { e with started := true, code := none } }))) ∧
  ∀ (c : Chip) (cl p base : Nat),
    (c.walking cl = true → c.rseqLoad cl p base = (c.raise (.rseq cl) St.RSEQ_STATE_CONFLICT, COMP_STATE_CONFLICT)) ∧
    (∀ r : PlanRecs, c.walking cl = false → c.validatePlan cl p base = .ok r →
      (c.rseqLoad cl p base).2 = COMP_OK ∧ (c.rseqLoad cl p base).1.rsState cl = RS_LOADED ∧
      (c.rseqLoad cl p base).1.rseqOf cl = { hdr := r.hdr, rallies := r.rallies, subs := r.subs, bsig := r.bsig, fwait := r.fwait, part := p }) ∧
    (c.rsState cl = RS_LOADED → Hdr.bwd (c.rseqOf cl).hdr = false ∨ Hdr.seedSync (c.rseqOf cl).hdr < c.syncRange (c.rseqOf cl).part →
      (c.rseqRun cl).rsState cl = RS_RUNNING ∧ (c.rseqRun cl).rseqOf cl = { c.rseqOf cl with
        passes := [], carries := [], fAdm := 0, bAdm := 0, fRet := [], bRet := [], splitDone := false, halt := none, cause := false, done := none,
        fwdPf := {}, bwdPf := {} })

/-- When every cluster of the partition may admit the oldest waiting pass of a group (a waiting backward pass first) and its sub-rally entries read well
again, PASS_ADMIT admits it in each of them with the whole share that its placement names; otherwise it counts the wait where a pass that may go lacks
pool space. When a pass has walked its steps, its moves have ended, it depends on no failed work, PASS_RETIRE takes it from the admitted passes,
leaves its carry at its end of the pool, frees what it kept, gives back its grants and windows, counts a pass and adds 1 to DONE_SYNC; the last pass
of a plan without a halt ends the run with COMP_OK in LOADED. While RUNNING with no admitted pass, no halt and the first backward pass ready, the
groups split as the header says; with the forward queue empty and the groups split they rejoin for good. A HALT_REQ of a RUNNING plan without a halt
records reason 0xF0 and marks the halt with COMP_HALTED in each cluster that walks the plan. With a halt and every admitted pass depending on failed
work and none busy, the RSEQ ends HALTED with the halt code. A walking RSEQ with an ADMITTED or ACTIVE pass and a STALL_LIMIT sets STALL. -/
def Obligations.PassesAreAdmittedAndRetire : Prop :=
  (∀ (s : State) (p : Fin 16) (bwd : Bool) (await : BitVec 32), s.up →
    let c := s.chip
    let cls := c.clustersOf p
    let due := cls ≠ [] ∧ (bwd = true ∨ ∃ cl ∈ cls, c.mayAdmit cl true = none) ∧ ∀ cl ∈ cls, c.mayAdmit cl bwd ≠ none
    (due → (∀ cl ∈ cls, c.admitFault cl bwd = none) → exec (.passAdmit p bwd await) s =
      s.goes (forAll cls c (fun d cl => (c.mayAdmit cl bwd).elim d (fun a => d.admitIn cl bwd a await.toNat)))) ∧
    (¬ due → exec (.passAdmit p bwd await) s =
      s.goes (forAll cls c (fun d cl => if d.awaitsPool cl bwd then d.addF (.rseq cl) R.RSEQ_ACCT_AWAIT await.toNat else d)))) ∧
  (∀ (c : Chip) (cl r i lo kib await : Nat) (bwd high : Bool), ∃ x ∈ ((c.admitIn cl bwd (r, i, high, lo, kib) await).rseqOf cl).passes,
    x.bwd = bwd ∧ x.rally = r ∧ x.mb = i ∧ x.high = high ∧ x.lo = lo ∧ x.kib = kib ∧ x.failed = false ∧
    x.shelf = Rly.shelfKib ((c.rseqOf cl).rallies.getD r []) bwd ∧ x.acc = Rly.acc ((c.rseqOf cl).rallies.getD r []) bwd) ∧
  (∀ (s : State) (cl : Fin 32) (bwd high : Bool) (p : Pass), s.ready cl →
    let c := s.chip
    let q := c.rseqOf cl
    let kib := min p.kib (Rly.carryKib (q.rallies.getD p.rally []))
    let carry : List Carry := (carryTo (Hdr.rallies q.hdr) bwd p.rally).elim []
      (fun r => if kib = 0 then [] else [⟨bwd, r, p.mb, high, if high then p.lo + p.kib - kib else p.lo, kib⟩])
    let fRet := if bwd then q.fRet else q.fRet ++ [(p.rally, p.mb)]
    let bRet := if bwd then q.bRet ++ [(p.rally, p.mb)] else q.bRet
    q.passes.find? (fun x => x.bwd == bwd && x.high == high) = some p → p.failed = false → p.steps = [] → p.moves = [] →
    c.passBusy cl p = false → Hdr.doneSync q.hdr < c.syncRange q.part → c.rsState cl = RS_RUNNING →
    let d := c.setRseq cl { q with passes := q.passes.filter (fun x => !(x.bwd == bwd && x.high == high)),
                                   carries := q.carries ++ carry, fRet := fRet, bRet := bRet }
    let d := forAll p.holds d (fun d h => d.shelfFree (.commons cl h.shelf) h.entry)
    let d := carry.head?.elim (d.setCmGrant cl (2 * b2n bwd + b2n high) 0 0 0)
      (fun x => d.setCmGrant cl (2 * b2n bwd + b2n high) x.lo x.kib x.kib)
    let d := forAll (c.groupCores cl bwd) d (fun d k => (d.setWin cl k high 0 0).setSpGrant cl k high 0 0)
    let d := (d.addF (.rseq cl) R.RSEQ_PROGRESS_PASSES 1).setPoolRegs cl
    let d := (d.syncInc (cl / 8) q.part (Hdr.doneSync q.hdr) 1).1
    exec (.passRetire cl bwd high) s = s.goes (
      if fRet.length + bRet.length = queueLen q.hdr false + queueLen q.hdr true ∧ q.halt = none then d.rseqEnd cl RS_LOADED COMP_OK else d)) ∧
  ∀ (s : State) (cl : Fin 32), s.ready cl →
    let c := s.chip
    let q := c.rseqOf cl
    (c.rsState cl = RS_RUNNING → q.halt = none → q.passes = [] → c.splitDue cl = true →
      exec (.groupSplit cl) s = s.goes (c.regroup cl (Hdr.split q.hdr)) ∧
      (c.regroup cl (Hdr.split q.hdr)).getF (.rseq cl) R.RSEQ_STATE_SPLIT = Hdr.split q.hdr % 2 ^ R.RSEQ_STATE_SPLIT.width) ∧
    (c.rsState cl = RS_RUNNING → q.halt = none → q.passes = [] → c.rejoinDue cl = true →
      exec (.groupRejoin cl) s = s.goes ((c.regroup cl 0).setRseq cl { (c.regroup cl 0).rseqOf cl with splitDone := true }) ∧
      (c.regroup cl 0).groupsSplit cl = false) ∧
    (c.blkGone (.rseq cl) = false → c.rsState cl = RS_RUNNING → q.halt = none →
      exec (.haltReq cl) s = s.goes (forAll (c.clustersOf q.part) ((c.setRseq cl { q with halt := some COMP_HALTED, cause := true }).rsErr cl 0xF0 0 0 0) (fun d x =>
        if d.walking x && (d.rseqOf x).halt.isNone then d.setRseq x { d.rseqOf x with halt := some COMP_HALTED } else d))) ∧
    (∀ code : Nat, c.walking cl = true → q.halt = some code → (∀ p ∈ q.passes, p.failed = true ∧ c.passBusy cl p = false) →
      exec (.planHaltComplete cl) s = s.goes ((c.rseqEnd cl RS_HALTED code).raise (.rseq cl) St.RSEQ_HALTED) ∧
      ((c.rseqEnd cl RS_HALTED code).rseqOf cl).done = some code ∧ (c.rseqEnd cl RS_HALTED code).rsState cl = RS_HALTED) ∧
    (c.walking cl = true → (∃ p ∈ q.passes, p.failed = false ∧ (p.steps ≠ [] ∨ c.passBusy cl p = true)) → c.getF (.rseq cl) R.RSEQ_CTRL_STALL_LIMIT ≠ 0 →
      exec (.rseqStall cl) s = s.goes (c.raise (.rseq cl) St.RSEQ_STALL))

/-- In the ordinary case (a record that reads and checks well, no counter wait and no piece, the planned shape within the step's limits, a descriptor that
begins at once) STEP_ISSUE takes the step from its pass, adds the planning cycles and holds the step as the group's own. A matrix step whose programs
all ended well raises its amax, gives back its entries, keeps an output that R55 stores, frees its sub-rally after its last backward step, adds its
time and, where it names one, adds 1 to its signal counter; where a shelf refused the signal of a commit the plan halts. A piece whose record reads
well and whose claim is granted is staged with the serials of the moves that pull its segments. -/
def Obligations.StepsIssueAndComplete : Prop :=
  (∀ (s : State) (cl : Fin 32) (bwd : Bool) (gwait cyc : BitVec 32) (p : Pass) (w : WalkStep) (rest : List WalkStep)
      (c0 c1 : Chip) (b : List Byte) (st : StepRun), s.ready cl →
    let c := s.chip
    let q := c.rseqOf cl
    c.activePass cl bwd = some p → p.steps = w :: rest → c.walking cl = true → p.failed = false → (p.bwd = true → p.moves = []) →
    (∀ k ∈ c.groupCores cl bwd, c.stepAt cl k = none) →
    c.agentRead (rseqAgent cl q.part) (Rly.stepAddr (q.rallies.getD p.rally []) w.idx) 64 = (c0, COMP_OK, b) →
    Stp.reason q.hdr (q.rallies.getD p.rally []) q.bsig q.fwait w.idx b = 0 → Stp.waitSync b = 0xFFFF → w.piece = none →
    Stp.shapeSlot b = 0xFFFF → Stp.kind b ≠ 4 →
    let c2 := (c0.dropWaits (.step cl (b2n bwd))).addF (.rseq cl) R.RSEQ_ACCT_GWAIT gwait.toNat
    c2.stepBegin cl (Stp.program b + Stp.stride b * c2.posIn q.part cl)
      { part := q.part, bwd := bwd, high := p.high, rally := p.rally, mb := p.mb, walk := w, rcd := b, m := Stp.maxM b, n := Stp.maxN b,
        k := Stp.maxK b, cores := c.groupCores cl bwd } = (c1, .runs st) →
    let q1 := c1.rseqOf cl
    let c3 := c1.setRseq cl { q1 with passes := q1.passes.map (fun x =>
      if x.bwd == bwd && x.rally == p.rally && x.mb == p.mb then { x with steps := rest } else x) }
    let c4 := (c3.addF (.plan cl) R.PLAN_PLAN_CYC cyc.toNat).addF (.rseq cl) R.RSEQ_PROGRESS_SUB_RECOMP (b2n w.mark)
    exec (.stepIssue cl bwd gwait cyc) s =
      s.goes (((c4.colStart cl st).1.setStep cl (b2n bwd) (c4.colStart cl st).2).colPoll cl (b2n bwd))) ∧
  (∀ (s : State) (cl : Fin 32) (bwd : Bool) (noc : BitVec 32) (st : StepRun), s.ready cl →
    let c := s.chip
    c.stepOf cl (b2n bwd) = some st → st.queue = none → kindOf (recNat st.desc 0 1) = 1 → st.ended = none → st.code = COMP_OK →
    (∀ k ∈ st.cores, (st.ends.find? k).isSome) →
    let c1 := (c.dropStep cl (b2n bwd)).addF (.rseq cl) (acctField st.walk.mode) noc.toNat
    let given := (c1.stepAmax cl st).stepRelease cl st
    let c2 := ((given.1.storeOutput cl st).subDone cl st).pieceDone cl st
    (given.2 = COMP_OK → Stp.signal st.rcd = 0xFFFF → exec (.stepComplete cl bwd noc) s = s.goes c2) ∧
    (given.2 = COMP_OK → Stp.signal st.rcd ≠ 0xFFFF → Stp.signal st.rcd < c2.syncRange st.part →
      exec (.stepComplete cl bwd noc) s = s.goes (c2.syncInc (cl / 8) st.part (Stp.signal st.rcd) 1).1) ∧
    (given.2 ≠ COMP_OK → exec (.stepComplete cl bwd noc) s = s.goes
      (((c2.rseqHalt cl (haltCause given.2).1 (haltCause given.2).2 st.rally st.walk.idx st.mb).failPass cl st.bwd st.rally st.mb).pieceDone cl st))) ∧
  ∀ (s : State) (cl : Fin 32) (bwd : Bool) (pos run r i piece idx : Nat) (rc : List Byte) (segs : List (List Byte)) (c1 : Chip) (e : Nat),
    s.ready cl →
    let c := s.chip
    let q := c.rseqOf cl
    let pf := q.pf bwd
    let n := if bwd then 253 else 252
    let ch := if bwd then 29 else 28
    c.walking cl = true →
    c.nextPiece cl q bwd (queueLen q.hdr bwd - pf.pos + 1) pf.pos pf.run = some (pos, run, r, i, piece, idx) →
    c.readPiece (rseqAgent cl q.part) q.hdr (q.rallies.getD r []) piece = .ok (rc, segs) →
    c.stepClaim cl n (Pce.bytes rc) = .ok (some (c1, e)) →
    let at0 := (segs.foldl (fun (acc : List Nat × Nat) x => (acc.1 ++ [acc.2], acc.2 + Pce.segLen x)) ([], 0)).1
    let pull := (List.zip segs at0).flatMap (fun x => c1.copyDescs (Pce.segMirror x.1 && Pce.segDev x.1 != c1.deviceId) (Pce.segDev x.1)
      c1.deviceId (.abs (Pce.segAddr x.1 + Pce.segStride x.1 * c1.posIn q.part cl)) (.entry (.commons cl n) e x.2) (Pce.segLen x.1) 0xFFFF 0)
    let cr := c1.noteReads (rseqAgent cl q.part) (c1.pieceReads (rseqAgent cl q.part) (q.rallies.getD r []) piece)
    let c2 := (cr.dmaPostAll cl ch q.part pull).1
    let q2 := c2.rseqOf cl
    exec (.gatherPieceFetch cl bwd) s = s.goes (c2.setRseq cl (q2.setPf bwd {
      pos := pos, run := run + 1, staged := (q2.pf bwd).staged ++ [{ rally := r, mb := i, run := run, entry := e, serials := (cr.dmaPostAll cl ch q.part pull).2 }] }))

/-- The next program that the planner has for a core (its sweeps, loads, stores, scales and header as the operator's plan asks, its estimate that of its
commands), for a core whose buffer is free, is written to its buffer, VALID last, after the data it needs and the operands that its pulls find in
commons (log entry 148), and counted with its estimate; bytes that the planner would not write leave everything as it is. A buffer is free when it
holds no VALID program, is not in use, and is the one that runs next or follows a VALID one there (after a reset buffer 0 runs first: a choice of the
model, log entry 82). A core that runs no program and has a VALID buffer starts it for the partition of its step, when the slice allows, at slot 0
with no loops, and the other buffer is next. A program that ended or stopped with all its commands completed clears VALID of its buffer, gives up its
TB tiles, adds its run time, counts an END it reached, and ends; the last program of a step also marks the core done. -/
def Obligations.TileProgramsComplete : Prop :=
  ∀ (s : State) (cl : Fin 32) (k : Fin 16), s.ready cl →
    let c := s.chip
    let q := c.seqOf cl k
    (∀ (buf : Fin 2) (bs data : List Byte) (off : Fin 32768) (lim : BitVec 32) (g : Nat) (st : StepRun), c.stepAt cl k = some (g, st) →
      let area := c.planArea st.part
      let d := c.spWrite cl k (area.1 + off) data
      let est := recNat bs 0xC 4
      (c.mayWrite cl k buf st = true → c.progHeaderOk cl k st bs = true → off.val + data.length ≤ area.2 → lim.toNat ≤ c.estLimit cl →
        ∀ (cmds : List (List Byte)) (p : CoreProg), programCmds bs = some cmds → d.progNext cl k st lim.toNat bs cmds = some p →
        est = estProgram cmds → stagedOk (st.staged ++ p.staged) = true →
        let d := d.stageIn cl st.part (p.staged.filter (fun x => !st.staged.contains x))
        exec (.programWrite cl k buf bs off data lim) s = s.goes ((((d.spWrite cl k (bufOff buf) bs).setStep cl g { st with
          progs := st.progs.insert k (p :: KMap.getD st.progs k [])
          ends := if bit (recNat bs 2 1) 1 then st.ends.insert (100 + k) COMP_OK else st.ends }).addF (.plan cl) R.PLAN_PROGRAMS 1).addF
            (.plan cl) R.PLAN_EST_CYC est)) ∧
      ((c.mayWrite cl k buf st = false ∨ c.progHeaderOk cl k st bs = false ∨ programCmds bs = none ∨
        ∃ cmds, programCmds bs = some cmds ∧ (d.progNext cl k st lim.toNat bs cmds = none ∨ est ≠ estProgram cmds ∨
          ∃ p, d.progNext cl k st lim.toNat bs cmds = some p ∧ stagedOk (st.staged ++ p.staged) = false)) →
        exec (.programWrite cl k buf bs off data lim) s = s.goes c)) ∧
    (∀ (b g : Nat) (st : StepRun), q.running = false → c.nextBuffer cl k = some b → c.stepAt cl k = some (g, st) → st.code = 0 →
      c.sliceAllows cl st.part = true →
      exec (.tpStart cl k) s = s.goes ((c.setSeq cl k {
        running := true, buf := b, next := 1 - b, part := st.part, length := field (c.header cl k b) 0 16, last := bit (c.header cl k b) 17, step := field (c.header cl k b) 32 32, prog := field (c.header cl k b) 64 32 }).seqSettle cl k)) ∧
    ∀ core noc : BitVec 32, q.running = true → (q.ended = true ∨ q.stop.isSome) → c.seqQuiet cl k = true →
      let c1 := ((c.clearValid cl k q.buf).tbDiscard cl k).addF (.plan cl) R.PLAN_ACT_CYC core.toNat
      let c2 := if c1.getF (.plan cl) R.PLAN_TP_MAX < noc.toNat then c1.setF (.plan cl) R.PLAN_TP_MAX noc.toNat else c1
      let c3 := (c2.raiseIf (decide (c2.tpLimit cl * 2000 < noc.toNat)) (.plan cl) St.PLAN_TP_OVERRUN).cmdDone cl k (b2n (q.ended && q.stop.isNone))
      let c4 := c3.setSeq cl k { q with running := false, ended := false, stop := none, loops := [], moves := [], runs := [], veHold := none }
      (c.stepAt cl k = none → exec (.tpEnd cl k core noc) s = s.goes c4) ∧
      ∀ (g : Nat) (st : StepRun), c.stepAt cl k = some (g, st) → q.stop = none → st.code = 0 →
        exec (.tpEnd cl k core noc) s = s.goes (if q.last then c4.setStep cl g { st with ends := st.ends.insert k COMP_OK } else c4)

/-- When the sequencer is free and stands at the command, with its reserved words zero: a WAIT whose counter has reached its threshold is counted and the
sequencer goes on, and one whose counter has not is registered as a wait; a SIGNAL of a quiet core adds its increment and the sequencer goes on; a
LOOP whose checks pass enters its body at iteration 0; an END marks the program ended. A WAIT with a reserved word set stops the program with reason
0x25, a SIGNAL of 0 with reason 0x26. Leaving the last slot of the innermost loop body returns to the first slot of the body with the iteration number
one higher while iterations remain; after the last iteration the loop is left and counted, and the loop around it is asked in turn. A slot that ends
no active body leaves the loops as they are, and an entry changes only the slot that it names. -/
def Obligations.SequencerCommandsComplete : Prop :=
  (∀ (s : State) (cl : Fin 32) (k : Fin 16) (bs : List Byte), s.ready cl →
    let c := s.chip
    let q := c.seqOf cl k
    let p := q.part
    let i := c.syncIndex p (recNat bs 2 2)
    let plain := recNat bs 1 1 = 0 ∧ allZero (bs.drop 8) = true
    (c.seqAt cl k 0xC = some bs → plain → recNat bs 2 2 < c.syncRange p → recNat bs 4 4 ≤ c.syncVal i →
      exec (.wait cl k) s = s.goes ((c.cmdDone cl k 1).seqAdvance cl k)) ∧
    (c.seqAt cl k 0xC = some bs → plain → recNat bs 2 2 < c.syncRange p → c.syncVal i < recNat bs 4 4 →
      exec (.wait cl k) s = s.goes { c with waits := c.waits ++ [⟨i, recNat bs 4 4, .seq cl k, false⟩] }) ∧
    (c.seqAt cl k 0xC = some bs → ¬plain → exec (.wait cl k) s = s.goes (c.tpRefuse cl k 0x25)) ∧
    (c.seqAt cl k 0xD = some bs → plain → recNat bs 4 4 ≠ 0 → c.seqQuiet cl k = true → recNat bs 2 2 < c.syncRange p →
      exec (.signal cl k) s = s.goes (((c.syncInc (cl / 8) p (recNat bs 2 2) (recNat bs 4 4)).1.cmdDone cl k 1).seqAdvance cl k)) ∧
    (c.seqAt cl k 0xD = some bs → recNat bs 4 4 = 0 → exec (.signal cl k) s = s.goes (c.tpRefuse cl k 0x26)) ∧
    (c.seqAt cl k 0xE = some bs → loopReason q (fun j => recNat (c.spRead cl k (q.slotOff j) 1) 0 1) bs = none →
      exec (.loop cl k) s = s.goes ((c.setSeq cl k { q with
        loops := ⟨q.slot, recNat bs 1 1, recNat bs 2 2, 0, bs⟩ :: q.loops, slot := q.slot + 1 }).seqSettle cl k)) ∧
    (c.seqAt cl k 0xF = some bs → allZero (bs.drop 1) = true →
      exec (.progEnd cl k) s = s.goes (c.setSeq cl k { q with ended := true }))) ∧
  (∀ (f : LoopFrame) (r : List LoopFrame) (n : Nat),
    (f.iter + 1 < f.count →
      loopBack (f :: r) (f.slot + f.body + 1) n = ({ f with iter := f.iter + 1 } :: r, f.slot + 1, n)) ∧
    (f.count ≤ f.iter + 1 → loopBack (f :: r) (f.slot + f.body + 1) n = loopBack r (f.slot + f.body + 1) (n + 1))) ∧
  (∀ (l : List LoopFrame) (slot n : Nat), (∀ f ∈ l.head?, slot ≠ f.slot + f.body + 1) → loopBack l slot n = (l, slot, n)) ∧
  (∀ (l : List LoopFrame) (slot n : Nat), (loopBack l slot n).2.2 + (loopBack l slot n).1.length = n + l.length) ∧
  ∀ (f : LoopFrame) (slot entry : Nat) (bs : List Byte), f.slot + 1 + recNat (f.cmd.drop (4 + 8 * entry)) 0 1 ≠ slot →
    loopPatch f slot bs entry = bs

/-- A sweep command that passes the checks of R72, with no unstarted sweep and no move in its regions, which lie in its member's share, takes the next
sequence number, joins the sweeps of the engine (with the kept weights of its predecessor where there are any) and the sequencer goes on. The oldest
unstarted sweep that may start and reads no TB tile enters the array; one whose TB tiles are readable takes a use of each and adds its wait. An
ACC_STORE that passes the checks, with no sweep into its tile and its regions in its member's share, writes M rows, counts the bytes that it reads
from a spill slot, writes MAXABS where it has a place for it, and releases the VT where asked. -/
def Obligations.SweepsIssueStartAndStore : Prop :=
  ∀ (s : State) (cl : Fin 32) (k : Fin 16), s.ready cl →
    let c := s.chip
    let q := c.seqOf cl k
    let me := c.meOf cl k
    let t := c.tbOf cl k
    let numbered := c.setSeq cl k { q with seqNo := q.seqNo + 1 }
    (∀ (bs : List Byte) (op : Nat), c.seqAt cl k op = some bs → meReason bs me.keep = none → (∀ x ∈ me.sweeps, x.started = true) →
      c.meClash cl k bs me.keep.isSome = false → c.spDenied cl k q.part (meRegions bs me.keep.isSome) = false →
      let sw : Sweep := me.keep.elim ⟨q.slot, bs, q.seqNo, bs, false, false, 0, none, none, none⟩
        (fun p => ⟨q.slot, bs, q.seqNo, p.wcmd, true, false, 0, none, none, p.wTile⟩)
      let issued := s.goes ((numbered.setMe cl k
        { me with sweeps := me.sweeps ++ [sw], keep := if meKeepW bs then some sw else none, mode := op }).seqAdvance cl k)
      (op = 1 → exec (.mma cl k) s = issued) ∧ (op = 2 → exec (.conv cl k) s = issued) ∧ (op = 3 → exec (.mmaWsh cl k) s = issued)) ∧
    (∀ (wait : BitVec 32) (i : Nat) (x : Sweep), me.nextStart = some (i, x) → c.mayStart cl k i x = true → x.aTile = none →
      (x.kept = true ∨ x.wTile = none) → tbReadReason t x.cmd x.kept = none →
      let enter (y : Sweep) : Me := { me with sweeps := setAt me.sweeps i y, keep := me.keep.map (fun p => if p.seq = x.seq then y else p) }
      (meATb x.cmd = false → (meWTb x.cmd = false ∨ x.kept = true) →
        exec (.sweepStart cl k wait) s = s.goes (((c.setTb cl k t).setMe cl k (enter { x with
          started := true, aTile := none, wTile := if x.kept then x.wTile else none })).addF (.tb cl k) R.TB_WAIT_CYC 0)) ∧
      (∀ a : TbTile, meATb x.cmd = true → meWTb x.cmd = false → t.head false = some a → a.ready = true →
        exec (.sweepStart cl k wait) s = s.goes (((c.setTb cl k (t.take false a)).setMe cl k (enter { x with
          started := true, aTile := some a, wTile := if x.kept then x.wTile else none })).addF (.tb cl k) R.TB_WAIT_CYC wait.toNat)) ∧
      (∀ w : TbTile, meATb x.cmd = false → meWTb x.cmd = true → x.kept = false → t.head true = some w → w.ready = true →
        exec (.sweepStart cl k wait) s = s.goes (((c.setTb cl k (t.take true w)).setMe cl k (enter { x with
          started := true, aTile := none, wTile := some w })).addF (.tb cl k) R.TB_WAIT_CYC wait.toNat))) ∧
    ∀ bs : List Byte, c.seqAt cl k 4 = some bs → meReason bs none = none →
      (∀ x ∈ me.sweeps, ¬(meWin x.cmd = meWin bs ∧ meVt x.cmd = meVt bs)) → t.filling = none → c.meClash cl k bs false = false →
      c.spDenied cl k q.part (meRegions bs false) = false →
      let h := numbered.tileHome cl k (meWin bs) (meVt bs)
      let c1 := if meN bs = 0 then numbered else forAll (upto (meM bs)) numbered (fun d m => d.storeRow cl k bs q.seqNo h m)
      let cs := match h with
        | .spill _ => c1.addF (.me cl k) R.ME_SPILL_BYTES (if meN bs = 0 then 0 else meM bs * 128)
        | .resident _ => c1
      let c2 := (if meMaxOff bs = 0xFFFFFFFF then cs
        else cs.spWrite cl k (field (meMaxOff bs) 0 22) (leBytes 4 (cs.maxOf cl k (meWin bs) (meVt bs)))).portWait (spBase cl k)
      let c3 := if meFlag bs 7 then c2.setMe cl k ((c2.meOf cl k).dropVt (meWin bs) (meVt bs)) else c2
      exec (.accStore cl k) s = s.goes ((c3.cmdDone cl k 1).seqAdvance cl k)

/-- When no comparison of the head sweep fails or is skipped, SWEEP_VERDICT takes the sweep from the engine and commits its sums. When none fails but some
are skipped, the sweep is repeated once, and commits with CSUM_SKIP when exactly the same ones are skipped again. When a comparison fails, or the
repeated sweep skips others (KIND and INDEX are then 0, the model's choice, log entry 94), it logs the failure, raises CSUM_MISS, adds MISS_WEIGHT,
leaves memory as it was, and puts every sweep back before the array, the first with one failure more: to the VE after RETRY + 1 failures in a row.
VE_FALLBACK_DONE ends the fallback, raises CSUM_HARD, adds HARD_WEIGHT and commits the result of the VE: FP32 sums of the FP32 products in an order
that is a free choice (log entry 75). -/
def Obligations.VerdictsCommitOrRepeat : Prop :=
  ∀ (s : State) (cl : Fin 32) (k : Fin 16) (x : Sweep) (rest : List Sweep), s.ready cl → (s.chip.meOf cl k).sweeps = x :: rest →
    let c := s.chip
    let me := c.meOf cl k
    (∀ (faults : List (CellSum × Nat)) (grains : List Nat) (busy dry : BitVec 32), x.started = true → me.fallback = false →
      meNoCommit x.cmd = false → meK x.cmd ≠ 0 →
      let c1 := (c.addF (.me cl k) R.ME_BUSY_CYC busy.toNat).addF (.sp cl k) R.SP_ME_STALL_CYC dry.toNat
      let sums := c1.sweepSums cl k x faults
      let bad : Option (Nat × Nat) := match sums.failing, x.nonfin with
        | some e, _ => some e
        | none, some l => if sums.skipped = l then none else some (0, 0)
        | none, none => none
      (bad = none → x.nonfin = none → sums.skipped = [] →
        exec (.sweepVerdict cl k faults .none grains busy dry) s =
          s.goes ((c1.setMe cl k { me with sweeps := rest }).commitSweep cl k x sums.out)) ∧
      (bad = none → x.nonfin ≠ none →
        exec (.sweepVerdict cl k faults .none grains busy dry) s =
          s.goes (((c1.raise (.me cl k) St.ME_CSUM_SKIP).setMe cl k { me with sweeps := rest }).commitSweep cl k x sums.out)) ∧
      (bad = none → x.nonfin = none → sums.skipped ≠ [] →
        exec (.sweepVerdict cl k faults .none grains busy dry) s =
          s.goes ((c1.setMe cl k (me.rewind (fun y => { y with nonfin := some sums.skipped }))).addF (.me cl k) R.ME_REEXEC_CYC
            (meLostCycles x.cmd))) ∧
      (∀ kind index : Nat, bad = some (kind, index) →
        ∃ d : Chip, exec (.sweepVerdict cl k faults .none grains busy dry) s = s.goes d ∧ d.mem = c.mem ∧
          (d.meOf cl k).sweeps = { x with started := false, fails := x.fails + 1, nonfin := none } ::
            rest.map (fun y => { y with started := false }) ∧
          ((d.meOf cl k).fallback = true ↔ c.getF (.mecl cl) R.MECL_BENCH_CTRL_RETRY < x.fails + 1) ∧
          d.on (.me cl k) St.ME_CSUM_MISS.flag = true ∧ d.getF (.me cl k) R.ME_CSUM_LOG_KIND = kind % 2 ^ R.ME_CSUM_LOG_KIND.width ∧
          d.getF (.me cl k) R.ME_CSUM_LOG_INDEX = index % 2 ^ R.ME_CSUM_LOG_INDEX.width)) ∧
    ∀ busy : BitVec 32, me.fallback = true →
      let out := (upto (meM x.cmd)).map (fun m => (upto (meN x.cmd)).map (fun j =>
        c.fallbackSum cl k x (Config.freeBits (c.freeCtr + m * 256 + j) (32 * 256)) m j))
      let c1 := ({ c with freeCtr := c.freeCtr + 64 * 256 }.addF (.me cl k) R.ME_BUSY_CYC busy.toNat).setMe cl k { me with fallback := false }
      let cyc := satNat 4096 (ceilDiv (meK x.cmd * meM x.cmd * meN x.cmd) 128)
      let c2 := (((c1.raise (.me cl k) St.ME_CSUM_HARD).addScore cl k (c1.hardWeight cl)).addF (.me cl k) R.ME_REEXEC_CYC cyc).addF
        (.ve cl k) R.VE_FALLBACK_CYC cyc
      exec (.veFallbackDone cl k busy) s =
        s.goes ((c2.setMe cl k { c2.meOf cl k with sweeps := rest }).commitSweep cl k x out)

/-- A corrected accumulator error is counted; an uncorrectable one sets ACC_UE and retires the tile at the second such error; the sweeps of an open VT in
the tile are run again, and the 8 KiB of a tile that holds none become undefined (free values, log entry 2), a read that finds them losing. A TB_LOAD
that passes the checks, reads in its member's share and finds a slot takes it, not yet readable; one that fails a check stops the program with that
reason. The oldest tile that is not readable is filled, made readable, counted with its accesses and conflict cycles, and the grains' failed checks
are scored. -/
def Obligations.AccumulatorErrorsAndTbLoads : Prop :=
  ∀ (s : State) (cl : Fin 32) (k : Fin 16), s.ready cl →
    let c := s.chip
    let q := c.seqOf cl k
    let me := c.meOf cl k
    let t := c.tbOf cl k
    (∀ (tile : Fin 32) (grains : List (List Nat)) (busy : BitVec 32), exec (.accEccError cl k tile .ce grains busy) s = s.goes (c.raise (.me cl k) St.ME_ACC_CE) ∧
      let d := c.raise (.me cl k) St.ME_ACC_UE
      let e := if me.ueOnce.contains tile.val
        then d.setF (.me cl k) R.ME_ACC_RETIRED_RETIRED (c.getF (.me cl k) R.ME_ACC_RETIRED_RETIRED ||| 2 ^ tile.val)
        else d.setMe cl k { me with ueOnce := tile :: me.ueOnce }
      let m := e.meOf cl k
      let there (x : Vt) : Bool := c.tileHome cl k x.win x.v == .resident tile
      (me.vts.find? there = none → exec (.accEccError cl k tile .ue grains busy) s =
        s.goes ((e.setMe cl k { m with ueFound := tile :: m.ueFound.filter (· != tile) }).freeRegion (accBase cl k + tile * 0x2000) 0x2000)) ∧
      ∀ vt : Vt, me.vts.find? there = some vt → exec (.accEccError cl k tile .ue grains busy) s =
        s.goes (((e.replayVt cl k vt grains).addScore cl k (e.hardWeight cl)).addF (.me cl k) R.ME_BUSY_CYC busy.toNat)) ∧
    (∀ bs : List Byte, c.seqAt cl k 8 = some bs →
      let w := tbQueueW bs
      let overfill := !c.tbRoom cl k w && !me.sweeps.any (Sweep.readsTb t)
      let checks := tbChecks bs ++ [(0x07, overfill), (0x08, tbReserved bs)]
      let source := (tbSrcOff bs, tbSrcOff bs + tbDataSpan bs) :: (if isMx (tbSrcFmt bs) then [(tbScOff bs, tbScOff bs + tbScaleSpan bs)] else [])
      ((∀ e ∈ checks, e.2 = false) → c.tbRoom cl k w = true → q.moves = [] → c.spDenied cl k q.part source = false →
        exec (.tbLoad cl k) s = s.goes (((c.setSeq cl k { q with seqNo := q.seqNo + 1 }).setTb cl k
          (t.setQueue w (t.queue w ++ [⟨bs, q.seqNo, tbUses bs, 0, false, [], []⟩]))).seqAdvance cl k)) ∧
      ∀ (e : Nat × Bool), checks.find? (·.2) = some e →
        exec (.tbLoad cl k) s = s.goes ((c.tbErr cl k St.TB_CMD_INVALID e.1 w false (q.slotOff q.slot)).seqStop cl k COMP_TB_CMD_INVALID)) ∧
    ∀ (fails : List Nat) (conflict : BitVec 32) (w : Bool) (x : TbTile), t.filling = some (w, x) →
      let d := c.setTb cl k (t.setQueue w (tileSet (t.queue w) x.seq (fun _ => c.tbFill cl k x)))
      let d := (((d.addF (.tb cl k) R.TB_TILES 1).addF (.tb cl k) R.TB_ACCESSES (tbAccesses x.cmd)).addF (.tb cl k) R.TB_CONFLICT_CYC
        conflict.toNat).addF (.sp cl k) R.SP_CONFLICT_CYC conflict.toNat
      exec (.tbTileReady cl k fails conflict) s =
        s.goes ((d.tbGrains cl k (if elemBits (tbSrcFmt x.cmd) = 6 then 3 else 1) fails).cmdDone cl k 1)

/-- An SP_MOVE of an absolute commons offset that passes the checks, is not denied and clashes with no move takes a sequence number and joins the moves;
the oldest move, not held, carries its rows when it completes, adds its bytes, conflicts and waits, and is counted as done. A corrected SRAM error is
counted. An uncorrectable one in commons, or in scratchpad where no cache line stands, sets its status bit and resets the partition that owns the
place; one in a clean line of the cache counts as corrected and the line is filled again. -/
def Obligations.MovesAndSramErrors : Prop :=
  (∀ (s : State) (cl : Fin 32) (k : Fin 16) (bs : List Byte), s.ready cl →
    let c := s.chip
    let q := c.seqOf cl k
    c.seqAt cl k 0xA = some bs → recNat bs 6 1 = 0xFF → mvReason bs none = none → c.mvDenied cl k q.part bs = false → q.moves.length < 4 →
    c.moveClash cl k (moveRegion bs).1 (moveRegion bs).2 = false →
    exec (.spMove cl k) s = s.goes ((c.setSeq cl k { q with
      seqNo := q.seqNo + 1, moves := q.moves ++ [⟨bs, q.slot, q.seqNo, q.part, none, false⟩] }).seqAdvance cl k)) ∧
  (∀ (s : State) (cl : Fin 32) (k : Fin 16) (conflict wait : BitVec 32) (m : Move) (rest : List Move), s.ready cl →
    let c := s.chip
    let q := c.seqOf cl k
    q.moves = m :: rest → recNat m.cmd 6 1 = 0xFF → c.moveHeld cl m = false →
    let c1 := ((c.setSeq cl k { q with moves := rest }).addF (.sp cl k) R.SP_CONFLICT_CYC conflict.toNat).addF (.cm cl) R.CM_WAIT_CYC wait.toNat
    let c2 := forAll (upto (mvRows m.cmd)) c1 (fun d i => d.mvRow cl k m i)
    exec (.spMoveDone cl k conflict wait) s =
      s.goes ((c2.addF (.sp cl k) R.SP_MOVE_BYTES (mvRows m.cmd * mvRowBytes m.cmd)).cmdDone cl k 1)) ∧
  ∀ (s : State) (cl : Fin 32) (k : Fin 16) (cmOff : BitVec 25) (off : BitVec 22), s.ready cl →
    let c := s.chip
    exec (.sramEccError (.commons cl cmOff) false) s = s.goes (c.raise (.cm cl) St.CM_CE) ∧
    exec (.sramEccError (.scratch cl k off) false) s = s.goes (c.raise (.sp cl k) St.SP_CE) ∧
    exec (.sramEccError (.commons cl cmOff) true) s = s.goes ((c.raise (.cm cl) St.CM_UE).sramReset cl (.commons cl cmOff.toNat)) ∧
    (c.lineAt cl k off.toNat = none →
      exec (.sramEccError (.scratch cl k off) true) s = s.goes ((c.raise (.sp cl k) St.SP_UE).sramReset cl (.scratch cl k off.toNat))) ∧
    ∀ l : CacheLine, c.lineAt cl k off.toNat = some l → l.dirty = false →
      exec (.sramEccError (.scratch cl k off) true) s = s.goes ((c.raise (.sp cl k) St.SP_CE).refill cl k l)

/-- When it is the turn of a context whose instruction has the command's opcode and no reserved field set, the active lanes of VD take the result, other
lanes and registers stay and the PC goes on. FP32 lanes are rounded once and BF16 lanes are formed in FP32 and rounded; INT32 results are stated where
they lie in the format, as is the larger or the smaller of unequal numbers. VEXP2, VLOG2, VRCP, VRSQRT and VSQRT complete in the same way; their lanes
are a NaN for a NaN, and the result that IEEE 754 gives for an infinity and for a zero (0 as it stands for VSQRT). What the spec does not state is a
free value, of which nothing is claimed (log entries 2, 26). -/
def Obligations.LaneArithmeticCompletes : Prop :=
  ∀ (s : State) (cl : Fin 32) (k : Fin 16) (t i : Nat), s.ready cl →
    let c := s.chip
    let x := c.ctx cl k t
    let w := viW i
    let a (lane : Nat) := x.lane i (viA i) lane
    let b (lane : Nat) := x.lane i (viB i) lane
    let u (lane : Nat) := x.lane i (viC i) lane
    let small (n : Int) : Prop := -(2 ^ 31) ≤ n ∧ n < 2 ^ 31
    let gives (cmd : Instr) (fp : Nat → FVal) (int : Nat → Int) : Prop :=
      ∃ d f, exec cmd s = s.goes d ∧ d.lanesAre c cl k t i f ∧ (∀ lane, w ≠ 2 → f lane = laneFp w (fp lane)) ∧
        ∀ lane, w = 2 → small (int lane) → f lane = wrapInt 32 (int lane)
    let va (lane : Nat) := laneVal w (a lane)
    let vb (lane : Nat) := laneVal w (b lane)
    let ia (lane : Nat) := sextInt 32 (a lane)
    let ib (lane : Nat) := sextInt 32 (b lane)
    let picks (cmd : Instr) (fp : FVal → FVal → FVal) (int : Int → Int → Int) : Prop :=
      ∃ d f, exec cmd s = s.goes d ∧ d.lanesAre c cl k t i f ∧
        (∀ lane, w ≠ 2 → (va lane = .nan ∨ vb lane = .nan → f lane = laneFp w .nan) ∧
          (va lane ≠ .nan → vb lane ≠ .nan → ((va lane).lt (vb lane) = true ∨ (vb lane).lt (va lane) = true) →
            f lane = laneFp w (fp (va lane) (vb lane)))) ∧
        ∀ lane, w = 2 → f lane = wrapInt 32 (int (ia lane) (ib lane))
    (c.veTurn cl k t i 0x01 → gives (.vadd cl k) (fun l => (va l).add (vb l)) (fun l => ia l + ib l)) ∧
    (c.veTurn cl k t i 0x02 → gives (.vsub cl k) (fun l => (va l).add (vb l).neg) (fun l => ia l - ib l)) ∧
    (c.veTurn cl k t i 0x03 → gives (.vmul cl k) (fun l => (va l).mul (vb l)) (fun l => ia l * ib l)) ∧
    (c.veTurn cl k t i 0x04 → picks (.vmax cl k) (fun p q => if p.lt q then q else p) max) ∧
    (c.veTurn cl k t i 0x06 → gives (.vfma cl k) (fun l => ((va l).mul (vb l)).add (laneVal w (u l))) (fun l => ia l * ib l + sextInt 32 (u l))) ∧
    (c.veTurn cl k t i 0x07 → gives (.vabsneg cl k)
      (fun l => let n := if bit (viImmU i) 0 then (va l).abs else va l; if bit (viImmU i) 1 then n.neg else n)
      (fun l => let n : Int := if bit (viImmU i) 0 then ((ia l).natAbs : Int) else ia l; if bit (viImmU i) 1 then -n else n)) ∧
    (c.veTurn cl k t i 0x0A → ∃ d, exec (.vbcast cl k) s = s.goes d ∧ d.lanesAre c cl k t i (fun _ => x.s (viA i))) ∧
    (c.veTurn cl k t i 0x22 → ∃ d f, exec (.vscl cl k) s = s.goes d ∧ d.lanesAre c cl k t i f ∧
      (∀ lane, w ≠ 2 → f lane = laneFp w ((va lane).scale (viImm i))) ∧
      (∀ lane, w = 2 → 0 ≤ viImm i → viImm i ≤ 31 → small (ia lane * 2 ^ (viImm i).toNat) → f lane = wrapInt 32 (ia lane * 2 ^ (viImm i).toNat)) ∧
      ∀ lane, w = 2 → viImm i < 0 → -32 ≤ viImm i → ia lane % 2 ^ (-viImm i).toNat = 0 → f lane = wrapInt 32 (ia lane / 2 ^ (-viImm i).toNat)) ∧
    (c.veTurn cl k t i 0x05 → ∃ d f, exec (.vmin cl k) s = s.goes d ∧ d.lanesAre c cl k t i f ∧
      (∀ lane, w ≠ 2 → ∃ z, f lane = laneFp w (fmin z (va lane) (vb lane))) ∧
      ∀ lane, w = 2 → f lane = wrapInt 32 (min (ia lane) (ib lane))) ∧
    (let fn (cmd : Instr) (special : FVal → FVal) : Prop := ∃ d f, exec cmd s = s.goes d ∧ d.lanesAre c cl k t i f ∧
      ∀ lane, w ≠ 2 → (va lane = .nan → f lane = laneFp w .nan) ∧
        ((∃ sg, va lane = .inf sg) ∨ (∃ sg e, va lane = .fin sg 0 e) → f lane = laneFp w (special (va lane)))
     (c.veTurn cl k t i 0x10 → fn (.vexp2 cl k) (fun v => match v with
      | .inf true => FVal.zero | .inf false => .inf false | _ => .fin false 1 0)) ∧
     (c.veTurn cl k t i 0x11 → fn (.vlog2 cl k) (fun v => match v with
      | .inf true => .nan | .inf false => .inf false | _ => .inf true)) ∧
     (c.veTurn cl k t i 0x12 → fn (.vrcp cl k) (fun v => match v with
      | .inf sg => .fin sg 0 0 | .fin sg _ _ => .inf sg | .nan => .nan)) ∧
     (c.veTurn cl k t i 0x13 → fn (.vrsqrt cl k) (fun v => match v with
      | .inf true => .nan | .inf false => FVal.zero | .fin sg _ _ => .inf sg | .nan => .nan)) ∧
     (c.veTurn cl k t i 0x14 → fn (.vsqrt cl k) (fun v => match v with
      | .inf true => .nan | .inf false => .inf false | .fin sg _ _ => .fin sg 0 0 | .nan => .nan)))

/-- When it is the turn of the command's opcode and the lanes are FP32 or BF16, each active lane takes the function's value: for a NaN, a NaN; for other
inputs that IEEE 754 gives a special result, that result; else the rounded value or another finite FP32 value no further than 2 ulp from the exact
one. Which of them is free (log entry 27). -/
def Obligations.LaneFunctionsStayWithinTwoUlp : Prop :=
  (∀ (s : State) (cl : Fin 32) (k : Fin 16) (t i : Nat), s.ready cl →
    let c := s.chip
    let x := c.ctx cl k t
    let w := viW i
    let v (lane : Nat) := laneVal w (x.lane i (viA i) lane)
    let fn (cmd : Instr) (op : Nat) : Prop := ∃ d f, exec cmd s = s.goes d ∧ d.lanesAre c cl k t i f ∧
      ∀ lane, w ≠ 2 → ∃ n, f lane = laneFp w (veFun op (v lane) n)
    (c.veTurn cl k t i 0x10 → fn (.vexp2 cl k) 0) ∧ (c.veTurn cl k t i 0x11 → fn (.vlog2 cl k) 1) ∧
    (c.veTurn cl k t i 0x12 → fn (.vrcp cl k) 2) ∧ (c.veTurn cl k t i 0x13 → fn (.vrsqrt cl k) 3) ∧
    (c.veTurn cl k t i 0x14 → ∃ d f, exec (.vsqrt cl k) s = s.goes d ∧ d.lanesAre c cl k t i f ∧
      ∀ lane, w ≠ 2 → f lane = laneFp w (veSqrt (v lane)))) ∧
  (∀ (op n : Nat), veFun op .nan n = .nan) ∧
  (∀ n, veFun 0 (.inf true) n = FVal.zero ∧ veFun 0 (.inf false) n = .inf false ∧ veFun 1 (.inf true) n = .nan ∧ veFun 2 (.inf true) n = .fin true 0 0 ∧
    veFun 3 (.inf false) n = FVal.zero ∧ ∀ e sg, veFun 1 (.fin sg 0 e) n = .inf true ∧ veFun 2 (.fin sg 0 e) n = .inf sg) ∧
  ∀ (n m : Nat) (e : Int) (sg : Bool),
    let v := FVal.fin sg m e
    let w := within2 v n
    v.r32.isFin = true → w = v.r32 ∨ ((ulp32 m e).scale 1).lt (w.add v.neg).abs = false ∧
      ((∃ (b : Bool) (q : Nat), q ≤ Fmt.fp32.maxFinite ∧ w = Fmt.fp32.decode (Fmt.fp32.signBit b + q)) ∨ w = .fin sg 0 0)

/-- At its turn, VCMP sets bits of a mask register m1 to m3 for the active lanes and keeps the others (relation 7 is not listed: free, log entry 2); VSEL
takes VA where the mask is set and VB where it is clear; a reduction over at least one active lane puts the sum over a tree of lane positions that no
mask changes (or the maximum, or that of the absolute values) into every lane of VD; VCVT encodes the active lanes into the packed elements of VD with
FMT and the rounding of RND; VDEC decodes packed elements to the lanes. -/
def Obligations.LaneMovesCompareAndReduce : Prop :=
  ∀ (s : State) (cl : Fin 32) (k : Fin 16) (t i : Nat), s.ready cl →
    let c := s.chip
    let d0 := c.veCounted cl k t
    let x := c.ctx cl k t
    let w := viW i
    let n := laneCount w
    let a (lane : Nat) := x.lane i (viA i) lane
    let b (lane : Nat) := x.lane i (viB i) lane
    (c.veTurn cl k t i 0x08 → 1 ≤ viD i → viD i < 4 → ∃ d, exec (.vcmp cl k) s = s.goes d ∧
      ∀ lane, lane < 256 → bit (KMap.getD (d.ctx cl k t).mask (viD i) 0) lane =
        if lane < n ∧ x.active i lane = true ∧ viImmU i % 8 ≠ 7 then veCmp (viImmU i % 8) (laneVal w (a lane)) (laneVal w (b lane))
        else if lane < n ∧ x.active i lane = true then bit (Config.freeBits c.freeCtr 256) lane
        else bit (KMap.getD x.mask (viD i) 0) lane) ∧
    (c.veTurn cl k t i 0x09 → ∃ d, exec (.vsel cl k) s = s.goes d ∧ ∀ lane, lane < n →
      rawLane w ((d.ctx cl k t).v (viD i)) lane = if x.active i lane then a lane else b lane) ∧
    (let act := (upto n).filter (x.active i)
     let reduces (cmd : Instr) (fp : Bool → FVal → FVal → FVal) (pre : FVal → FVal) (int : List Int → Int) : Prop :=
      ∃ d res, exec cmd s = s.goes d ∧ (∀ lane, lane < n → rawLane w ((d.ctx cl k t).v (viD i)) lane = res % 2 ^ (8 * laneBytes w)) ∧
        (d.ctx cl k t).s (viImmU i % 32) % 2 ^ (8 * laneBytes w) = res % 2 ^ (8 * laneBytes w) ∧
        (w ≠ 2 → ∃ z v, laneTree (fp z) ((upto n).map (fun l => if x.active i l then some (pre (laneVal w (a l))) else none)) = some v ∧ res = laneFp w v) ∧
        (w = 2 → let r := int (act.map (fun l => sextInt 32 (a l))); -(2 ^ 31) ≤ r → r < 2 ^ 31 → res = wrapInt 32 r)
     act ≠ [] →
      (c.veTurn cl k t i 0x18 → reduces (.vrsum cl k) (fun _ => add32) id List.sum) ∧
      (c.veTurn cl k t i 0x19 → reduces (.vrmax cl k) fmax id (fun l => l.foldl max (l.headD 0))) ∧
      (c.veTurn cl k t i 0x1A → reduces (.vrmaxabs cl k) fmax FVal.abs (fun l => (l.map (fun y => (y.natAbs : Int))).foldl max 0))) ∧
    (∀ f, c.veTurn cl k t i 0x20 → fmtOf (viFmt i) = some f → isMx (viFmt i) = false → packedBytes (viFmt i) n ≤ 512 →
      let mode (lane : Nat) : Rnd := (rndOf (viRnd i) (Config.srDraw (d0.srKey cl) (coreKey cl k) 3 (x.run.getD 0) (vePos t x.cvts lane)).toNat).getD .rne
      let out := ((upto n).filter (x.active i)).foldl (fun o l =>
        setElem (viFmt i) o l (f.encode (mode l) ((laneVal w (a l)).scale (viImm i)))) (x.v (viD i))
      exec (.vcvt cl k) s = s.goes ((d0.setCtx cl k t { x.setV (viD i) out with cvts := x.cvts + 1 }).veNext cl k t)) ∧
    (c.veTurn cl k t i 0x21 → w ≠ 2 → (fmtOf (viFmt i)).isSome = true → packedBytes (viFmt i) n ≤ 512 →
      ∃ d, exec (.vdec cl k) s = s.goes d ∧ d.lanesAre c cl k t i (fun l =>
        let v := elemAt (viFmt i) (x.v (viA i)) l
        laneFp w (if isMx (viFmt i) then underScale v (recNat (x.v (viA i)) (rowBytes (viFmt i) n + l / 32) 1) else v)))

/-- At its turn, with a format that the instruction takes and aligned addresses, VLD and VST split the row at lines of 128 bytes, a store leaving out
lines without an active lane, and VGATHER, VSCATTER and VSCATADD make one request of each line that active lanes name; the requests start in that
order, and one out of range fails the run first. A FENCE goes on, and waits while requests of the thread are outstanding. SLD_SST, for 8 bytes within
one line of the core's own scratchpad, below the working area and the cache ways and permitted to the run, with no older request of the thread to that
line and no load outstanding: with IMM[23] = 0 scalar VD takes the 8 bytes, least significant byte first, and memory stays; with IMM[23] = 1 memory
holds the 8 bytes of scalar VD there and every other byte stays. -/
def Obligations.VectorMemoryInstructionsComplete : Prop :=
  (∀ (s : State) (cl : Fin 32) (k : Fin 16) (t i : Nat), s.ready cl →
    let c := s.chip
    let d := c.veCounted cl k t
    let x := c.ctx cl k t
    let w := viW i
    let fmt := viFmt i
    let a := veAddr (x.s (viA i)) (viImm i)
    let n := rowBytes fmt (laneCount w)
    let size := elemBits fmt / 8
    let es := x.elemAddrs i
    let groups := byLine es
    let aligned : Prop := ∀ e ∈ es, e.2 % size = 0
    let bytes := ((upto (laneCount w)).map (fun l => leBytes size (storeLane w fmt (x.lane i (viD i) l)))).flatten
    (veMoveFmt w fmt = true → a % 16 = 0 →
      (c.veTurn cl k t i 0x28 → exec (.vld cl k) s = s.goes (d.veStart cl k t i (List.replicate n 0)
        ((lines a n).map (fun l => ⟨l.1, x.pc, .load l.2 (.image (l.1 - a))⟩)))) ∧
      (c.veTurn cl k t i 0x29 → exec (.vst cl k) s = s.goes (d.veStart cl k t i [] ((lines a bytes.length).flatMap (fun l =>
        if field (x.enables i size) (l.1 - a) l.2 = 0 then []
        else [⟨l.1, x.pc, .store (field (x.enables i size) (l.1 - a) l.2) ((bytes.drop (l.1 - a)).take l.2)⟩]))))) ∧
    (veElemFmt w fmt = true → aligned →
      (c.veTurn cl k t i 0x2A → exec (.vgather cl k) s = s.goes (d.veStart cl k t i (List.replicate 1024 0) (groups.map (fun g =>
        ⟨(spanOf size g.2).1, x.pc, .load (spanOf size g.2).2 (.lanes size (g.2.map (fun e => (e.1, e.2 - (spanOf size g.2).1))))⟩)))) ∧
      (c.veTurn cl k t i 0x2B → exec (.vscatter cl k) s = s.goes (d.veStart cl k t i [] (groups.map (fun g =>
        let lo := (spanOf size g.2).1
        ⟨lo, x.pc, .store (g.2.foldl (fun m e => m ||| ((2 ^ size - 1) <<< (e.2 - lo))) 0)
          (g.2.foldl (fun bs e => splice bs (e.2 - lo) (leBytes size (storeLane w fmt (x.lane i (viD i) e.1))))
            (List.replicate (spanOf size g.2).2 0))⟩)))) ∧
      (c.veTurn cl k t i 0x2C → w ≠ 2 → exec (.vscatadd cl k) s = s.goes (d.veStart cl k t i [] (groups.map (fun g =>
        ⟨(spanOf size g.2).1, x.pc, .add size (g.2.map (fun e => (e.2 - (spanOf size g.2).1, storeLane w fmt (x.lane i (viD i) e.1))))⟩))))) ∧
    (c.veTurn cl k t i 0x2D → exec (.fence cl k) s = s.goes (
      let e := d.veNext cl k t
      if (e.veOf cl k).slots.any (fun r => !r.dead && r.thread = t) && (e.veOf cl k).ready t then e.veHold cl k t .fence else e))) ∧
  ∀ (s : State) (cl : Fin 32) (k : Fin 16) (t i : Nat), s.ready cl →
    let c := s.chip
    let x := c.ctx cl k t
    let a := veAddr (x.s (viA i)) (sextInt 23 (viImmU i))
    let l := a % 2 ^ 48
    c.veTurn cl k t i 0x47 → c.isSelf (field a 48 12) = true → spBase cl k ≤ l → l + 8 ≤ spBase cl k + 0x280000 - 0x10000 * c.cacheWays cl k →
    l % 128 ≤ 120 → (∀ r ∈ (c.veOf cl k).slots, ¬(r.dead = false ∧ r.thread = t ∧ r.req.addr / 128 = a / 128)) →
    (bit (viImmU i) 23 = false → x.loads = 0 → c.accessCode (c.veAgent cl k t) false l 8 = COMP_OK →
      ∃ d, exec (.sldSst cl k) s = s.goes d ∧ d.mem = c.mem ∧ (d.ctx cl k t).s (viD i) = leNat (c.mem.readN l 8)) ∧
    (bit (viImmU i) 23 = true → c.accessCode (c.veAgent cl k t) true l 8 = COMP_OK →
      ∃ d, exec (.sldSst cl k) s = s.goes d ∧ d.mem.readN l 8 = leBytes 8 (x.s (viD i)) ∧
        ∀ y, (y < l ∨ l + 8 ≤ y) → d.mem.read y = c.mem.read y)

/-- At its turn, SADD, SSUB and SMUL write the 64-bit result to scalar VD when the unsigned or the signed reading holds it (else a free value, log entry
34), SMOVI its signed immediate, SSHIFT by 0 its operand; the results of SSHIFT by another amount, SLOGIC and SCMP are free values (log entry 35). BR
goes to PC + 8 × IMM, BRZ and BRNZ do so when scalar VA is zero and not zero and go on otherwise; EXIT ends the thread. -/
def Obligations.ScalarInstructionsComplete : Prop :=
  ∀ (s : State) (cl : Fin 32) (k : Fin 16) (t i : Nat), s.ready cl →
    let c := s.chip
    let d0 := c.veCounted cl k t
    let x := c.ctx cl k t
    let a := x.s (viA i)
    let b := x.s (viB i)
    let free := Config.freeBits c.freeCtr 64 % 2 ^ 64
    let holds (u v : Int) : Prop := (0 ≤ u ∧ u < 2 ^ 64) ∨ (-(2 ^ 63) ≤ v ∧ v < 2 ^ 63)
    let writes (cmd : Instr) (v : Nat) : Prop := ∃ d, exec cmd s = s.goes d ∧ d.scalarIs c cl k t i v
    let away := s.goes (d0.veGoto cl k t ((x.pc : Int) + 8 * viImm i))
    let on := s.goes (d0.veNext cl k t)
    (c.veTurn cl k t i 0x40 → holds ((a : Int) + b) (sextInt 64 a + sextInt 64 b) → writes (.sadd cl k) (wrapInt 64 ((a : Int) + b))) ∧
    (c.veTurn cl k t i 0x41 → holds ((a : Int) - b) (sextInt 64 a - sextInt 64 b) → writes (.ssub cl k) (wrapInt 64 ((a : Int) - b))) ∧
    (c.veTurn cl k t i 0x42 → holds ((a : Int) * b) (sextInt 64 a * sextInt 64 b) → writes (.smul cl k) (wrapInt 64 ((a : Int) * b))) ∧
    (c.veTurn cl k t i 0x43 → writes (.sshift cl k) (if b = 0 then a % 2 ^ 64 else free)) ∧
    (c.veTurn cl k t i 0x44 → writes (.slogic cl k) free) ∧ (c.veTurn cl k t i 0x45 → writes (.scmp cl k) free) ∧
    (c.veTurn cl k t i 0x46 → writes (.smovi cl k) (wrapInt 64 (viImm i))) ∧
    (c.veTurn cl k t i 0x48 → exec (.br cl k) s = away) ∧
    (c.veTurn cl k t i 0x49 → exec (.brz cl k) s = if a = 0 then away else on) ∧
    (c.veTurn cl k t i 0x4A → exec (.brnz cl k) s = if a = 0 then on else away) ∧
    (c.veTurn cl k t i 0x4F → exec (.exit cl k) s = s.goes (d0.setCtx cl k t { x with done := true }))

/-- At its turn, SHCLAIM of whole 64-byte units of a shelf other than shelf 63 that are free at once takes the entry's byte offset; SHCOMMIT and SHRELEASE
of an entry that the shelf takes go on, and one that the shelf refuses fails the run with reason 0x08; SWAIT goes on when the counter has reached the
threshold and otherwise registers a wait; SSIGNAL of 1 to 0xFFFF_FFFF adds to the counter and goes on, and of 0 fails the run with reason 0x0B. A
counter number out of range fails the run with reason 0x07 and is recorded. -/
def Obligations.VectorShelvesAndCountersComplete : Prop :=
  ∀ (s : State) (cl : Fin 32) (k : Fin 16) (t i : Nat), s.ready cl →
    let c := s.chip
    let d := c.veCounted cl k t
    let x := c.ctx cl k t
    let a := x.s (viA i)
    let b := x.s (viB i)
    let p := d.vePart cl k t
    let r := veShelf cl k i
    let h := d.shelf r
    let named : Prop := bit (viImmU i) 8 = true ∨ viImmU i % 256 < 64
    (c.veTurn cl k t i 0x30 → named → r.isSpill = false → a ≠ 0 → a % 64 = 0 → h.opened = true → a / 64 ≤ h.span → h.waiting = [] →
      h.fits (a / 64) = true →
      exec (.shclaim cl k) s = s.goes (((d.setShelf r (h.place (a / 64))).setCtx cl k t
        (x.setS (viD i) (h.base * 1024 + (h.claimPos + h.skipFor (a / 64)) % h.span * 64))).veNext cl k t)) ∧
    (c.veTurn cl k t i 0x31 → named → exec (.shcommit cl k) s = s.goes (
      let z := d.shelfCommit r p a
      if z.2 = COMP_OK then z.1.veNext cl k t else z.1.veBad cl k t (if z.2 = COMP_SYNC_RANGE then 7 else 8) z.2)) ∧
    (c.veTurn cl k t i 0x32 → named → exec (.shrelease cl k) s = s.goes (
      let z := d.shelfRelease r a
      if z.2 = COMP_OK then z.1.veNext cl k t else z.1.veBad cl k t (if z.2 = COMP_SYNC_RANGE then 7 else 8) z.2)) ∧
    (c.veTurn cl k t i 0x38 → (a < d.syncRange p →
        (b ≤ d.syncVal (d.syncIndex p a) → exec (.swait cl k) s = s.goes (d.veNext cl k t)) ∧
        (d.syncVal (d.syncIndex p a) < b → exec (.swait cl k) s = s.goes ((d.addWait (d.syncIndex p a) b (.ve cl k t)).veHold cl k t .sync))) ∧
      (d.syncRange p ≤ a → exec (.swait cl k) s = s.goes ((d.syncRangeErr (cl / 8) d.deviceId p a).veBad cl k t 7 COMP_SYNC_RANGE))) ∧
    (c.veTurn cl k t i 0x39 → (b ≠ 0 → b ≤ 0xFFFFFFFF → a < d.syncRange p →
        exec (.ssignal cl k) s = s.goes ((d.syncInc (cl / 8) p a b).1.veNext cl k t)) ∧
      (b = 0 → exec (.ssignal cl k) s = s.goes (d.veBad cl k t 0xB COMP_VE_INST_INVALID)))

/-- A VE_RUN that keeps R230, whose argument block lies in the scratchpad, in a share set in its member's share as its first instruction does, and whose
contexts are idle, starts a run of them with the next sequence number. The oldest run whose threads have all exited and that holds no slot ends, adds
its counters (the cycles of a fallback are counted where it ends, log entry 152) and is counted. A run past a non-zero watchdog stops with
COMP_VE_TIMEOUT (outside a fallback). A register error sets its status bit, and an uncorrectable one resets the partition that runs there. The
response to a request that no session holds releases its slots: a request of this device is performed now, a load from another takes the bytes that
came, a code other than COMP_OK fails the run, and for an abandoned thread nothing more happens. -/
def Obligations.VectorRunsComplete : Prop :=
  ∀ (s : State) (cl : Fin 32) (k : Fin 16), s.ready cl →
    let c := s.chip
    let q := c.seqOf cl k
    let v := c.veOf cl k
    (∀ bs : List Byte, c.seqAt cl k 0xB = some bs →
      let ts := (upto 8).filter (bit (recNat bs 2 1))
      let args := field (recNat bs 8 4) 0 22
      let pc := field (recNat bs 4 4) 0 22
      veBadRun bs (c.shared q.part) = false → args + 240 ≤ spSize → c.spDenied cl k q.part [(args, args + 240), (pc, pc + 8)] = false → (∀ t ∈ ts, (c.ctx cl k t).run = none) →
      ∃ d, exec (.veRun cl k) s = s.goes d ∧ (d.seqOf cl k).runs = q.runs ++ [q.seqNo] ∧ (d.seqOf cl k).seqNo = q.seqNo + 1 ∧
        (∀ t ∈ ts, (d.ctx cl k t).run = some q.seqNo ∧ (d.ctx cl k t).done = false ∧ (d.ctx cl k t).pc = field (recNat bs 4 4) 0 22) ∧
        (∀ j, j < 30 → ∀ t ∈ ts, (d.ctx cl k t).s (2 + j) = leNat (c.spRead cl k (args + 8 * j) 8)) ∧ d.mem = c.mem) ∧
    (∀ (starve slots cap fallback : BitVec 32) (r : VeRun), v.runs.find? v.runEnded = some r →
      ∃ d, exec (.veRunDone cl k starve slots cap fallback) s = s.goes d ∧
        (d.veOf cl k).runs = v.runs.filter (fun x => x.seq != r.seq) ∧ (∀ t ∈ r.threads, (d.ctx cl k t).run = none) ∧
        (d.seqOf cl k).runs = q.runs.filter (· != r.seq) ∧ (d.seqOf cl k).stop = (r.stop.elim q.stop some) ∧ d.mem = c.mem ∧
        d.getF (.ve cl k) R.VE_FALLBACK_CYC = c.getF (.ve cl k) R.VE_FALLBACK_CYC ∧
        d.getF (.ve cl k) R.VE_STARVE_CYC = (c.getF (.ve cl k) R.VE_STARVE_CYC + starve.toNat) % 2 ^ R.VE_STARVE_CYC.width) ∧
    (∀ (run : Fin 8) (r : VeRun) (t : Nat), v.runs[run.val]? = some r → c.getF (.ve cl k) R.VE_CTRL_WATCHDOG ≠ 0 → (c.meOf cl k).fallback = false →
      r.stop = none → r.threads.find? (fun t => !(c.ctx cl k t).done) = some t → v.liveRun (c.ctx cl k t) = some r →
      exec (.veWatchdogTimeout cl k run) s = s.goes (c.veFail cl k t 9 (c.ctx cl k t).pc COMP_VE_TIMEOUT none) ∧
      ∀ x ∈ ((c.veFail cl k t 9 (c.ctx cl k t).pc COMP_VE_TIMEOUT none).veOf cl k).runs, x.seq = r.seq → x.stop = some COMP_VE_TIMEOUT) ∧
    (exec (.veRegEccError cl k false) s = s.goes (c.raise (.ve cl k) St.VE_REG_CE) ∧
      ∀ p, c.partOf cl = some p → exec (.veRegEccError cl k true) s = s.goes ((c.raise (.ve cl k) St.VE_REG_UE).partReset p)) ∧
    ∀ (slot : Fin 128) (lat : BitVec 32) (r : VeSlot), v.slots[slot.val]? = some r → (c.veAnswer r.tags).isSome = true → c.veRetried cl k r = false → c.veHeld r = false →
      (∀ x ∈ v.slots.take slot, ¬(x.dead = false ∧ x.thread = r.thread ∧ x.req.addr / 128 = r.req.addr / 128)) →
      let x := v.ctx r.thread
      let live := !r.dead && (v.liveRun x).isSome
      let d := c.setVe cl k { v with
        slots := v.slots.eraseIdx slot, ctxs := if r.dead then v.ctxs else v.ctxs.insert r.thread { x with loads := x.loads - b2n r.req.isLoad } }
      let d := forAll r.tags d (fun y g => y.fabEnd g)
      let d := if d.getF (.ve cl k) R.VE_MAX_LAT < lat.toNat then d.setF (.ve cl k) R.VE_MAX_LAT lat.toNat else d
      let far (code : Nat) (bs : List Byte) : Chip := match r.req.op with
        | .load _ y => if code = COMP_OK ∧ live = true then d.setCtx cl k r.thread ((d.ctx cl k r.thread).deliver y bs) else d
        | _ => d
      let z := if r.dead then (d, COMP_OK) else if r.tags = [] then d.vePerform regIo cl k r.thread live r.req
        else (c.veAnswer r.tags).elim (d, COMP_OK) (fun a => (far a.1 a.2, a.1))
      let e := if z.2 = COMP_OK then z.1 else z.1.veFail cl k r.thread 7 r.req.pc z.2 (some r.req.addr)
      exec (.veRequestReturn cl k slot lat) s = s.goes ((if (e.ctx cl k r.thread).wait == .data then e.veFinish cl k r.thread else e).veWake cl k)

/-- On a channel of a cluster that is there, which the RSEQ does not own and which the writer may write: enabling sets ENABLE and ends the stop, stopping
clears ENABLE, a producer pointer within the ring and within a ring of the entries not completed is stored (one beyond raises RING_OVER). An enabled
channel with a posted descriptor and fewer than two in progress fetches the one at CONS: CONS goes on, and a descriptor that passes the checks and
whose counters are in range joins those in progress under the next serial number; one that fails check r is recorded with reason r and ends. A write
by another member of a share set changes nothing but raises DENIED, one to a cluster that is not there is counted as unmapped; a host, whose BAR0 does
not show these registers, changes nothing. -/
def Obligations.DmaChannelsAreFedAndStopped : Prop :=
  (∀ (s : State) (who : RegAgent) (cl n : Fin 32) (v : BitVec 13), s.up →
    let c := s.chip
    let h := c.chanOf cl n
    let all (i : Instr) : Prop := i = .dmaChEnable who cl n ∨ i = .dmaStop who cl n ∨ i = .dmaProdWrite who cl n v
    (inModule who = false → ∀ i, all i → exec i s = s.goes c) ∧
    (inModule who = true → c.blkGone (.ch cl n) = true → ∀ i, all i → ∃ a : Nat, exec i s = s.goes (c.unmapped (a / dieSpan) (a % dieSpan))) ∧
    (inModule who = true → c.blkGone (.ch cl n) = false → (∀ p, c.otherMember who n = some p → ∀ i, all i → exec i s = s.goes (c.raise (.part p) St.PART_DENIED)) ∧
    (c.otherMember who n = none → c.dmaOwned cl n = true → ∀ i, all i → exec i s = s.goes (c.raise (.dma cl) St.DMA_CH_OWNED)) ∧
    (c.otherMember who n = none → c.dmaOwned cl n = false →
      exec (.dmaChEnable who cl n) s = s.goes ((c.setB (.ch cl n) R.CH_CTRL_ENABLE true).setChan cl n { h with stopped := false }) ∧
      exec (.dmaStop who cl n) s = s.goes ((c.setB (.ch cl n) R.CH_CTRL_ENABLE false).setChan cl n { h with stopped := true }) ∧
      exec (.dmaProdWrite who cl n v) s = s.goes (
        if ringIdx v.toNat < c.chanSize cl n ∧ ringDist (c.chanSize cl n) (c.getF (.ch cl n) R.CH_CONS_DONE) v.toNat ≤ c.chanSize cl n
        then c.setF (.ch cl n) R.CH_PROD v.toNat else c.raise (.dma cl) St.DMA_RING_OVER)))) ∧
  ∀ (s : State) (cl n : Fin 32) (part : Nat) (d : Chip) (b : List Byte), s.ready cl →
    let c := s.chip
    let cons := c.getF (.ch cl n) R.CH_CONS
    c.chanPart cl n = some part → c.dmaOwned cl n = false → c.on (.ch cl n) R.CH_CTRL_ENABLE = true → cons ≠ c.getF (.ch cl n) R.CH_PROD →
    (c.chanOf cl n).descs.length < 2 → c.agentRead (dmaAgent cl part) (c.slotAddr cl n cons) 64 = (d, COMP_OK, b) →
    let sn := (c.chanOf cl n).serial
    let e := (d.setF (.ch cl n) R.CH_CONS (ringNext (d.chanSize cl n) cons)).setChan cl n { d.chanOf cl n with serial := sn + 1 }
    let h := e.chanOf cl n
    let desc : DmaDesc := { serial := sn, idx := cons, bs := b, part := part }
    (e.descReason cl b = none → (Desc.waitSync b = 0xFFFF ∨ Desc.waitSync b < e.syncRange part) →
      (Desc.remoteSignal e.isSelf b = true ∨ Desc.signal b = 0xFFFF ∨ Desc.signal b < e.syncRange part) →
      exec (.dmaDescFetch cl n) s = s.goes (e.setChan cl n { h with descs := h.descs ++ [desc] })) ∧
    ∀ r, e.descReason cl b = some r → exec (.dmaDescFetch cl n) s = s.goes (((e.raise (.dma cl) St.DMA_DESC_INVALID).dmaErr cl n r cons 0).setChan
      cl n { h with descs := h.descs ++ [{ desc with phase := .ended, code := some COMP_DMA_DESC_INVALID }] })

/-- The oldest descriptor that has not begun, whose turn it is and which waits for nothing, starts to move with all its segments. An attempt whose bytes
are written and answered ends its segment with COMP_OK; one that failed in transport with fewer than four retries is tried again from its start, and
any other failure ends it with its code. A request that has had no response for too long fails its attempt in transport, and one of an earlier attempt
is no longer waited for. A channel that competes, with no promotion left where it does, is promoted for 16 beats in each direction in which it
competes. A correctable buffer error is counted; an uncorrectable one fails the attempt of the segment that holds staged beats. -/
def Obligations.DescriptorsStartAndTheirSegmentsEnd : Prop :=
  ∀ (s : State) (cl n : Fin 32), s.ready cl →
    let c := s.chip
    let h := c.chanOf cl n
    (∀ (i : Nat) (d : DmaDesc), findIdxFrom (fun (d : DmaDesc) => d.phase != .moving && d.phase != .ended) 0 h.descs = some (i, d) →
      d.phase = .fetched → c.dmaTurn cl (h.descs.take i) d = true → Desc.waitSync d.bs = 0xFFFF → Desc.srcValid d.bs = false →
      Desc.dstClaim d.bs = false →
      exec (.dmaDescStart cl n) s = s.goes (c.setDesc cl n { d with
        phase := .moving, segs := if Desc.op d.bs = 4 then [] else List.replicate (Desc.segCount d.bs) {} })) ∧
    (∀ (serial : Nat) (seg : Fin 64) (d : DmaDesc) (g : DmaSeg),
      h.descs.find? (fun d => d.serial = serial && d.phase == .moving) = some d → d.segs[seg.val]? = some g → g.ended = none →
      (g.err = none → g.wr = segLen d.bs seg → g.sent = [] → exec (.dmaSegmentAttemptEnd cl n serial seg) s =
        s.goes ((c.raiseIf (decide (0 < g.tries)) (.dma cl) St.DMA_RETRIED).setDesc cl n { d with
          segs := setAt d.segs seg { g with ended := some COMP_OK }, retries := d.retries + b2n (decide (0 < g.tries)) })) ∧
      ∀ code, g.err = some code → exec (.dmaSegmentAttemptEnd cl n serial seg) s = s.goes (
        if code = COMP_LINK_DOWN ∧ g.tries < 4 ∧ ¬(Desc.op d.bs = 3 ∧ g.wrote = true) then
          (c.addF (.dma cl) R.DMA_SEG_RETRIES 1).setSeg cl n d seg { tries := g.tries + 1, stale := g.stale ++ g.sent, wrote := g.wrote }
        else (c.addF (.dma cl) R.DMA_SEG_FAILS 1).setSeg cl n d seg { g with ended := some code, pieces := [] })) ∧
    (∀ (serial : Nat) (seg : Fin 64) (tag : BitVec 16) (d : DmaDesc) (g : DmaSeg), h.descs.find? (fun d => d.serial = serial) = some d →
      d.segs[seg.val]? = some g →
      let t := tag.toNat
      (t ∈ g.stale → exec (.dmaAttemptTimeout cl n serial seg tag) s =
        s.goes ((c.fabEnd t).setSeg cl n d seg { g with stale := g.stale.filter (· != t) })) ∧
      (t ∈ g.sent → t ∉ g.stale → exec (.dmaAttemptTimeout cl n serial seg tag) s = s.goes (((c.fabEnd t).setSeg cl n d seg { g with
        sent := g.sent.filter (· != t), err := g.err.orElse (fun _ => some COMP_LINK_DOWN) }).dmaAttemptEnd cl n serial seg))) ∧
    (∀ rd wr : Bool, c.competes cl n false = rd → c.competes cl n true = wr → (rd = true ∨ wr = true) → (rd = true → h.aged = 0) →
      (wr = true → h.agedWr = 0) → exec (.dmaChannelAge cl n) s = s.goes ((c.raise (.dma cl) St.DMA_AGED).setChan cl n { h with
        aged := if rd then 16 else 0, agedWr := if wr then 16 else 0 })) ∧
    exec (.dmaBufEccError cl n false) s = s.goes (c.raise (.dma cl) St.DMA_BUF_CE) ∧
    ∀ (d : DmaDesc) (r : List DmaDesc) (i : Nat) (g : DmaSeg), h.descs = d :: r →
      findIdxFrom (fun (g : DmaSeg) => g.issuing && !g.pieces.isEmpty) 0 d.segs = some (i, g) →
      exec (.dmaBufEccError cl n true) s = s.goes ((c.raise (.dma cl) St.DMA_BUF_UE).setSeg cl n d i { g with err := some COMP_LINK_DOWN, pieces := [] })

/-- When every segment of the oldest descriptor of a software channel has ended well and been answered, with no entry to commit or release,
DMA_DESC_COMPLETE writes its completion word beside the descriptor, advances CONS_DONE, takes it from those in progress, lets a store inside the
module feed the next one, and adds 1 to its signal counter, on this device or by a message to another. A remote signal that ended with a code is taken
from the requests, sets SIGNAL_FAIL and is recorded with reason 0xA. -/
def Obligations.DescriptorsCompleteInOrder : Prop :=
  (∀ (s : State) (cl n : Fin 32) (d : DmaDesc) (rest : List DmaDesc), s.ready cl →
    let c := s.chip
    let h := c.chanOf cl n
    h.descs = d :: rest → d.phase = .moving → d.segs ≠ [] → (∀ g ∈ d.segs, g.ended = some COMP_OK ∧ g.sent = [] ∧ g.stale = []) →
    d.code = none → d.claim = none → Desc.srcRelease d.bs = false → d.idx < internalIdx →
    let word := compWord COMP_OK d.segs.length d.retries 0
    let c1 := (c.agentWrite (dmaAgent cl d.part) (c.slotAddr cl n d.idx + 0x38) (ones 8) (leBytes 8 word)).1
    let c2 := (((c1.setF (.ch cl n) R.CH_CONS_DONE (ringNext (c.chanSize cl n) d.idx)).setF (.ch cl n) R.CH_LAST_COMP word).setChan cl n
      { h with descs := rest, aged := if rest.isEmpty then 0 else h.aged, agedWr := if rest.isEmpty then 0 else h.agedWr }).dmaFeed cl n
    exec (.dmaDescComplete cl n) s = s.goes ((if Desc.signal d.bs = 0xFFFF then c2
      else if Desc.remoteSignal c2.isSelf d.bs then
        c2.syncRemote (cl / 8) (Desc.sigDev d.bs % 4096) (Desc.signal d.bs) 1 d.part (.signal cl n d.idx)
      else (c2.syncInc (cl / 8) d.part (Desc.signal d.bs) 1).1).ownResults cl)) ∧
  (∀ (s : State) (cl n : Fin 32) (i k code : Nat) (r : FabReq) (bs : List Byte), s.ready cl →
    let c := s.chip
    findIdxFrom (fun (r : FabReq) => match r.who, r.resp with
      | .signal x y _, some (code, _) => x == cl.val && y == n.val && code != COMP_OK
      | _, _ => false) 0 c.reqs = some (i, r) →
    r.who = .signal cl n k → r.resp = some (code, bs) → k < internalIdx →
    exec (.dmaSignalFail cl n) s = s.goes ((((({ c with reqs := c.reqs.eraseIdx i }).raise (.dma cl) St.DMA_SIGNAL_FAIL).dmaErr cl n 0xA k
      code).syncRelease r.die r.msg.dst).ownResults cl)) ∧
  ∀ (code segs retries failed : Nat), code < 2 ^ 16 → 1 ≤ segs → segs ≤ 32 → failed < 2 ^ 32 →
    let w := compWord code segs retries failed
    field w 0 16 = code ∧ bit w 16 = true ∧ field w 17 5 = segs - 1 ∧ field w 22 3 = min 7 retries ∧ field w 32 32 = failed ∧ w < 2 ^ 64

/-- Each cycle the write slot and the read slot are awarded, both from the state before the cycle. The winner of a slot competes for it, and no competing
channel has a higher priority; the holder keeps the slot for up to 16 beats while no competing channel has a higher priority; a slot goes unawarded
only when no channel competes. With no competing channel nothing changes. -/
def Obligations.SlotsGoToTheHighestPriority : Prop :=
  (∀ (c : Chip) (cl : Nat) (hold : DmaHold) (wr : Bool),
    (∀ w, c.slotWinner cl hold wr = some w → w < 32 ∧ c.competes cl w wr = true ∧
      (∀ n, n < 32 → c.competes cl n wr = true → c.dmaPrio cl n wr ≤ c.dmaPrio cl w wr) ∧
      (hold.held = true → hold.beats < 16 → hold.ch < 32 → c.competes cl hold.ch wr = true →
        c.dmaPrio cl hold.ch wr = c.dmaPrio cl w wr → w = hold.ch)) ∧
    (c.slotWinner cl hold wr = none ↔ ∀ n, n < 32 → c.competes cl n wr = false)) ∧
  ∀ (s : State) (cl : Fin 32), s.ready cl →
    let c := s.chip
    exec (.dmaSlotArbitrate cl) s = s.goes ((c.dmaSlot cl true (c.dmaPick cl true)).dmaSlot cl false (c.dmaPick cl false)) ∧
    (∀ wr : Bool, (c.dmaPick cl wr).map (·.1) = c.slotWinner cl (if wr then (c.dmaOf cl).wrHold else (c.dmaOf cl).rdHold) wr) ∧
    ((∀ n wr, n < 32 → s.chip.competes cl n wr = false) → exec (.dmaSlotArbitrate cl) s = s.goes s.chip)

/-- Once bring-up is complete, a producer pointer that R269 allows is stored and the head entry begins its wait, and any other raises CMD_INVALID; a
completion head within its ring is stored. A dequeue serves the next ready queue after the last one: its pointer goes on, and its entry becomes
current, marked refused with the first failing check where one fails; a DRAIN that passes makes its partition and its sequencers drain at once. An
ended entry is written to the completion ring with its code unless it is quiet and well, raises its interrupt where it asks for one, signals its
counter when not refused, and frees its queue. For a ring of 2^1 to 2^12 entries and pointers in it: the next pointer lies in it at distance 1, the
distance is 0 only between equal pointers, and the distances both ways add to twice the size, so a full ring is told from an empty one. A pointer that
may be posted is at most the size beyond the oldest entry. -/
def Obligations.WorkQueuesAcceptAndDequeue : Prop :=
  (∀ (s : State) (n : Fin 64) (v : BitVec 13), s.up → s.chip.getF (.boot 0) R.BOOT_STATE_CODE = BOOT_OK →
    let c := s.chip
    exec (.wqProdWrite n v) s = s.goes (if ringPostOk (c.qSize n) (c.getF (.wq n) R.WQ_CONS_DONE) v.toNat
      then (c.setF (.wq n) R.WQ_PROD v.toNat).wqArm n else c.raise (.wqp (n / 4)) St.WQP_CMD_INVALID) ∧
    exec (.cqHeadWrite n v) s = s.goes (if ringIdx v.toNat < c.cqSize n then (c.setF (.wq n) R.WQ_CQ_PTR_CQ_HEAD v.toNat).wqNoteFull
      else c.raise (.wqp (n / 4)) St.WQP_CMD_INVALID)) ∧
  (∀ (s : State) (n : Nat), s.up →
    let c := (s.chip.wqArmAll).wqNoteFull
    c.wqNext = some n →
    let idx := c.getF (.wq n) R.WQ_CONS
    let b := c.wqHead n
    let c1 := c.noteReads mcAgent [(c.wqHeadAddr n, 64)]
    let d := ({ c1 with wqLast := n }.dropWaits (.wq n)).setF (.wq n) R.WQ_CONS (ringNext (c1.qSize n) idx)
    let e := (d.wqCheck n idx b).1
    let f := e.setQueue n { e.queueOf n with cur := some (match (d.wqCheck n idx b).2 with
      | none => { bs := b, ptr := idx }
      | some (code, detail) => { bs := b, ptr := idx, refused := true, code := some code, detail := detail }) }
    exec .wqDequeue s = s.goes (if (d.wqCheck n idx b).2 = none ∧ Wqe.op b = 0x0A
      then forAll (f.clustersOf (queuePart n)) (f.setPartState (queuePart n) PS_DRAINING) Chip.rseqDrain else f)) ∧
  (∀ (s : State) (n : Fin 64) (e : QEntry) (code : Nat), s.up →
    let c := s.chip
    (c.queueOf n).cur = some e → e.subs = [] → e.code = some code → code < 65536 → code ≠ COMP_PARTIAL →
    (Wqe.op e.bs ≠ 0x09 ∨ code ≠ COMP_OK ∨ n / 4 ≠ c.protPart) →
    let shown := c.cqWrite n code (Wqe.tag e.bs) (ringIdx e.ptr) e.detail
    let c1 := if e.refused = false ∧ Wqe.quiet e.bs = true ∧ code = COMP_OK then c else if Wqe.irq e.bs then shown.queueIrq n else shown
    let c2 := if e.refused = true ∨ Wqe.signal e.bs = 0xFFFF then c1 else (c1.syncInc 0 (n / 4) (Wqe.signal e.bs) 1).1
    exec (.wqEntryComplete n) s = s.goes
      ((((c2.setQueue n { c2.queueOf n with cur := none }).setF (.wq n) R.WQ_CONS_DONE (ringNext (c2.qSize n) e.ptr)).wqArm n).after)) ∧
  (∀ log2 : Nat, 2 ≤ ringSize log2 ∧ ringSize log2 ≤ 4096) ∧
  ∀ (log2 p q : Nat), p < 8192 → q < 8192 → ringIdx p < ringSize log2 → ringIdx q < ringSize log2 →
    let n := ringSize log2
    ringNext n p < 8192 ∧ ringIdx (ringNext n p) < n ∧ ringDist n p (ringNext n p) = 1 ∧ ringDist n p p = 0 ∧
    (ringDist n p q = 0 ↔ p = q) ∧ (p ≠ q → ringDist n p q + ringDist n q p = 2 * n) ∧
    (ringPostOk n p q = true ↔ ringDist n p q ≤ n) ∧
    (ringDist n p q < n → ringPostOk n p q = true ∧ ringDist n p (ringNext n q) = ringDist n p q + 1)

/-- With a current entry of its opcode that has not begun: NOP ends with COMP_OK and changes nothing else; SYNC_SET stores BASE, VALUE or both and ends;
an OP_RUN that names no cluster ends at once and one that names clusters begins on each that is free; WHISTLE begins to drain; DRAIN makes the
partition DRAINING and its sequencers drain; RESUME makes it ACTIVE and ends. A draining partition at rest becomes QUIESCED and its DRAIN entry ends
with COMP_OK. A draining whistle held by no unit ends with COMP_OK at WHISTLE_DRAIN_DONE: shelves, caches and open tiles of the partition have been
emptied, its counters accounted, and WQ_STEP is one higher; for the protected partition the written pairs have flipped and its stage is recorded. When
a unit holds it, WHISTLE_STUCK sets its status, logs the unit and the cluster's position, holds the partition, and ends the entry with
COMP_WHISTLE_STUCK. -/
def Obligations.QueueEntriesRun : Prop :=
  (∀ (s : State) (n : Fin 64) (e : QEntry), s.up → (s.chip.queueOf n).cur = some e →
    let c := s.chip
    let q := c.queueOf n
    let p := queuePart n
    let run (d : Chip) (code : Option Nat) : Host.Outcome State Fault Refusal :=
      s.goes (d.setQueue n { q with cur := some { e with started := true, code := code } })
    (e.started = false → e.code = none →
      let i := c.syncIndex p (Wqe.counter e.bs)
      let based := if Wqe.setBase e.bs then c.setF (.sync i) R.SYNC_CFG_BASE (Wqe.base e.bs) else c
      (Wqe.op e.bs = 0x01 → exec (.nop n) s = run c (some COMP_OK)) ∧
      (Wqe.op e.bs = 0x05 → exec (.syncSet n) s = run (if Wqe.setValue e.bs then based.syncStore i (Wqe.value e.bs) else based.syncCount i (b2n (Wqe.setBase e.bs))) (some COMP_OK)) ∧
      (Wqe.op e.bs = 0x09 → exec (.whistle n) s = run c none) ∧
      (Wqe.op e.bs = 0x0A → exec (.drain n) s = run (forAll (c.clustersOf p) (c.setPartState p PS_DRAINING) Chip.rseqDrain) none) ∧
      (Wqe.op e.bs = 0x0B → exec (.resume n) s = run (c.setPartState p PS_ACTIVE) (some COMP_OK)) ∧
      (Wqe.op e.bs = 0x04 → ∀ cyc : BitVec 32,
        (c.namedClusters p (Wqe.clusters e.bs) = [] → exec (.opRun n cyc) s = run c (some COMP_OK)) ∧
        (∀ l, c.namedClusters p (Wqe.clusters e.bs) = l → l ≠ [] →
          let desc (cl : Nat) : Nat := (Wqe.desc e.bs + Wqe.stride e.bs * c.posIn p cl) % 2 ^ 64
          let run1 (d : Chip) (cl : Nat) : Chip := d.opBeginOn n [cl] desc (fun _ => (Wqe.m e.bs, Wqe.n e.bs, Wqe.k e.bs)) cyc.toNat none
          exec (.opRun n cyc) s = s.goes (forAll l c run1)) ∧
        ∀ (cl : Nat) (d : Chip) (code : Option Nat), c.namedClusters p (Wqe.clusters e.bs) = [cl] → e.subs = [] →
          c.opBegin cl n ((Wqe.desc e.bs + Wqe.stride e.bs * c.posIn p cl) % 2 ^ 64) (Wqe.m e.bs) (Wqe.n e.bs) (Wqe.k e.bs) cyc.toNat none =
            (d, some code) → d.queueOf n = q →
          exec (.opRun n cyc) s = s.goes (d.setQueue n { q with cur := some { e with started := true, subs := [(cl, code)] } }))) ∧
    (Wqe.op e.bs = 0x0A → e.started = true → e.code = none → (∀ m ∈ queuesOf p, m ≠ n.val → (c.queueOf m).cur = none) →
      c.partState p = PS_DRAINING → (∀ cl ∈ c.clustersOf p, c.walking cl = false ∧ c.dmaQuiet p cl = true) →
      ∀ part : Fin 16, part.val = p → exec (.quiesceDone part) s =
        s.goes ((c.setPartState p PS_QUIESCED).setQueue n { q with cur := some { e with code := some COMP_OK } }))) ∧
  ∀ (s : State) (p : Fin 16) (n : Nat) (e : QEntry), s.up → s.chip.whistleQueue p = some n → (s.chip.queueOf n).cur = some e →
    let c := s.chip
    (∀ step outside length cycles : BitVec 32, c.firstBlocker p = none →
      let c1 := (forAll (c.clustersOf p) c (fun d cl => d.whistleEmpty p cl)).phaseReport p step.toNat outside.toNat
      let c2 := ((forAll (c.clustersOf p) c1 (fun d cl => d.whistleAccount p cl)).newKey p).countersToBase p
      let w := c2.getF (.wqp p) R.WQP_STEP + 1
      let prot := p.val == c2.protPart
      let c3 := if prot then c2.flipPairs p (w % 2 ^ 32) else c2
      let c4 := if prot then { c3 with recov := { c3.recov with synced := false } }.sealSync else c3
      let c5 := c4.setF (.wqp p) R.WQP_STEP w
      let c6 := if prot then { c5 with stages := c5.stageOf p (w % 2 ^ 32) :: c5.stages.take 1 }.noteCofed.relevel else c5
      exec (.whistleDrainDone p step outside length cycles) s = s.goes (((c6.setFs (.wqp p) [(R.WQP_WHISTLE_LOG_DURATION, length.toNat),
        (R.WQP_WHISTLE_LOG_BLOCKER, 0), (R.WQP_WHISTLE_LOG_CLUSTER, 0)]).addF (.wqp p) R.WQP_WHISTLES_CYC cycles.toNat).wqEnd n COMP_OK).after) ∧
    ∀ (length cycles : BitVec 32) (unit pos : Nat), c.firstBlocker p = some (unit, pos) →
      let d := (c.raise (.wqp p) St.WQP_WHISTLE_STUCK).setFs (.wqp p) [(R.WQP_WHISTLE_LOG_DURATION, length.toNat),
        (R.WQP_WHISTLE_LOG_BLOCKER, unit), (R.WQP_WHISTLE_LOG_CLUSTER, pos)]
      let d := d.addF (.wqp p) R.WQP_WHISTLES_CYC cycles.toNat
      exec (.whistleStuck p length cycles) s = s.goes (((d.setPartRun p { d.partRun p with stuck := true }).setQueue n
        { c.queueOf n with cur := some { e with code := some COMP_WHISTLE_STUCK } }).after)

/-- SYNC_VALUE_SET stores VALUE. SYNC_VALUE_INC adds a non-zero increment; a sum beyond 0xFFFF_FFFF leaves 0xFFFF_FFFF, sets OVERFLOW and is recorded with
the counter and the partition; an increment of zero has no effect, nor has one by a host, whose BAR0 does not show the counters. Either is one update,
counted on the counter's die, and marks as met exactly the waits on that counter whose threshold the new value has reached, with those met before. An
agent whose wait has been met goes on at SYNC_WAIT_MET; a queue, a step or a seed wait is asked for where it is used, and of an agent whose wait is
not met nothing changes. -/
def Obligations.CountersAddSaturateAndWake : Prop :=
  ∀ (s : State) (i : Fin 16384) (v : BitVec 32) (who : RegAgent), s.up →
    let c := s.chip
    let now := c.syncVal i
    let b : Blk := .syncd (i / 4096)
    (∃ d, exec (.syncValueSet i v) s = s.goes d ∧ d.syncVal i = v.toNat ∧ d.mem = c.mem ∧ (∀ j : Nat, j < 16384 → j ≠ i → d.syncVal j = c.syncVal j) ∧
      d.getF b R.SYNCD_UPDATES = (c.getF b R.SYNCD_UPDATES + 1) % 2 ^ R.SYNCD_UPDATES.width ∧
      d.waits = c.waits.map (fun w => if w.ctr = i.val ∧ w.threshold ≤ v.toNat then { w with met := true } else w)) ∧
    (v = 0 ∨ inModule who = false → exec (.syncValueInc i v who) s = s.goes c) ∧
    (v ≠ 0 → inModule who = true → ∃ d, exec (.syncValueInc i v who) s = s.goes d ∧ d.syncVal i = min 0xFFFFFFFF (now + v.toNat) ∧ d.mem = c.mem ∧
      (∀ j : Nat, j < 16384 → j ≠ i → d.syncVal j = c.syncVal j) ∧
      (0xFFFFFFFF < now + v.toNat → d.on b St.SYNCD_OVERFLOW.flag = true ∧ d.getF b R.SYNCD_ERR_COUNTER = i.val % 2 ^ R.SYNCD_ERR_COUNTER.width ∧
        d.getF b R.SYNCD_ERR_PART = ((agentPart who).getD 0) % 2 ^ R.SYNCD_ERR_PART.width) ∧
      (now + v.toNat ≤ 0xFFFFFFFF → d.getF b St.SYNCD_OVERFLOW.flag = c.getF b St.SYNCD_OVERFLOW.flag) ∧
      d.waits = c.waits.map (fun w => if w.ctr = i.val ∧ w.threshold ≤ min 0xFFFFFFFF (now + v.toNat) then { w with met := true } else w)) ∧
    (∀ (cl : Fin 32) (k : Fin 16), c.waitMet (.seq cl k) = true → exec (.syncWaitMet (.seq cl k)) s =
      s.goes (({ c with waits := c.waits.filter (fun w => w.who != Waiter.seq cl k) }.cmdDone cl k 1).seqAdvance cl k)) ∧
    (∀ w : WaitAgent, c.waitMet (waiterOf w) = false → exec (.syncWaitMet w) s = s.goes c) ∧
    (∀ (n : Fin 64) (cl : Fin 32) (g : Bool) (w : WaitAgent), w = .wq n ∨ w = .step cl g ∨ w = .seed cl → exec (.syncWaitMet w) s = s.goes c) ∧
    (∀ (cl n : Fin 32) (d : DmaDesc), c.waitMet (.dma cl n) = true → (c.chanOf cl n).descs.find? (fun d => d.phase == .waitSync) = some d →
      exec (.syncWaitMet (.dma cl n)) s = s.goes ((c.dropWaits (.dma cl n)).dmaEntry cl n d)) ∧
    ∀ (cl : Fin 32) (k : Fin 16) (t : Fin 8), c.waitMet (.ve cl k t) = true → exec (.syncWaitMet (.ve cl k t)) s =
      s.goes (({ c with waits := c.waits.filter (fun w => w.who != Waiter.ve cl k t) }.setCtx cl k t { c.ctx cl k t with wait := .ready }).veNext cl k t)

/-- For every address in a slice that a partition owns, the map names one of the partition's groups, a stripe of the group, one of the seven data accesses
and a byte of it, and the inverse map of R300 over the partition's groups gives the address back: no two addresses share a place, and no bit of an
address is dropped. -/
def Obligations.AddressMappingIsOneToOne : Prop :=
  ∀ (c : Chip) (p a : Nat), c.sliceOwner (a / sliceSize) = some p → p < 16 →
    let m := c.memMap a
    m.grp ∈ c.groupsOf p ∧ m.stripe < groupStripes ∧ m.di < 7 ∧ m.byte < 32 ∧
    stripeAddr (c.groupsOf p) (c.baseSlice p * sliceSize) m.grp m.stripe m.di m.byte = a ∧
    ∀ b : Nat, c.sliceOwner (b / sliceSize) = some p → c.memMap b = m → b = a

/-- Whatever memory holds, the exclusive OR of seven accesses of a stripe is the eighth, and each of them passes its check when no error has come into it.
So a read of the member that is out (degraded, calibrating, or not yet rebuilt), or of another member whose check fails in a healthy group or one that
lacks no access of the stripe, and whose bytes the stripe buffer does not hold, returns the bytes that the member should hold, when the stripe is not
lost and the other members hold no error; the failing access is written back without its error and the rebuild is counted. -/
def Obligations.ParityRebuildsAMissingAccess : Prop :=
  ∀ (c : Chip) (g t m mask : Nat), m < 8 →
    (∀ f ∈ (c.grpOf g).faults, f.stripe = t → ∀ i, i < 8 → i ≠ m → f.member ≠ c.holder g t i) →
    (c.accessData g t m).length = 32 ∧ c.others g t m = (c.accessData g t m, []) ∧
    ((∀ f ∈ (c.grpOf g).faults, f.stripe ≠ t) → c.fetchAccess g t m = (c.accessData g t m, true)) ∧
    (c.stripeLost g t = false →
      (c.missing g t = some m → (c.readAccess g t m mask).2 = some (c.accessData g t m)) ∧
      (c.missing g t ≠ some m → (c.missing g t = none ∨ c.grpState g = 1) → c.noParity g t = false → (c.fetchAccess g t m).2 = false →
        let z := c.readAccess g t m mask
        z.2 = some (c.accessData g t m) ∧
        (bufHolds (c.grpOf g).buf t m mask = false → z.1.on (.mem (g / 8)) St.MEM_CE.flag = true ∧
          ∀ f ∈ (z.1.grpOf g).faults, f.stripe = t → f.member ≠ c.holder g t m)))

/-- An allowed read of 1 to 128 bytes of SRAM answers COMP_OK with the bytes there, and one of LPDDR6 does so when no view, session, failure, loss or
error stands in its way, one partition owns the groups and they hold no older request; memory stays. A read of register space answers with the value
that the register access gives. An allowed write whose groups are free is performed as the agent's write and answered, and outside register space,
views and open tiles it changes exactly the enabled bytes. A request to a held group joins that group's queue when its class has room; one that is not
allowed is answered with its code before it waits; one that meets a resetting partition goes back to its sender. -/
def Obligations.MemoryRequestsComplete : Prop :=
  ∀ (s : State) (ag : Agent) (cls : Fin 4) (addr : BitVec 48), s.up →
    let c := s.chip
    let a := addr.toNat
    let free (n : Nat) : Prop := isLpddr a = true → ∀ g ∈ c.reqGroups a n, c.grpHeld g = false ∧ (c.grpOf g).queue = []
    (c.retryAt ag a = true → ∀ (len : Fin 129) (bs : List Byte) (en : BitVec 128),
      exec (.memRead ag cls addr len []) s = s.goes c.after ∧ exec (.memWrite ag cls addr bs en []) s = s.goes c.after) ∧
    (c.retryAt ag a = false →
      (∀ len : Fin 129, 0 < len.val → c.accessCode ag false a len = COMP_OK →
        let normal : Prop := ∃ p, p < 16 ∧ a + len ≤ c.lpddrTop ∧ ∀ b, a ≤ b → b < a + len →
          c.pairAt b = none ∧ c.sliceOwner (b / sliceSize) = some p ∧ (let m := c.memMap b
            (∀ q, q < 16 → m.grp ∈ c.groupsOf q → q = p) ∧ m.grp < 32 ∧ c.grpState m.grp = 1 ∧ c.on (.grp m.grp) R.GRP_STATE_CAL_ACTIVE = false ∧
            c.stripeLost m.grp m.stripe = false ∧ (c.grpOf m.grp).queue = [] ∧ ∀ f ∈ (c.grpOf m.grp).faults, f.stripe ≠ m.stripe)
        ((isLpddr a = false ∧ ∀ d off, placeOf a ≠ .regs d off) ∨ isLpddr a = true ∧ normal →
          ∃ d : Chip, exec (.memRead ag cls addr len []) s = s.goes d.after ∧ d.mem = c.mem ∧
            d.out = c.out ++ [.memResp COMP_OK (c.mem.readN a len)]) ∧
        (∀ d off, placeOf a = .regs d off → let z := c.regRead d off len
          exec (.memRead ag cls addr len []) s = s.goes ({ z.1 with out := z.1.out ++ [.memResp COMP_OK (leBytes len z.2)] } : Chip).after)) ∧
      (∀ (bs : List Byte) (en : BitVec 128), bs ≠ [] → bs.length ≤ 128 → free bs.length →
        let z := c.agentWriteIo regIo ag a en.toNat bs
        let d : Chip := { z.1 with out := z.1.out ++ [.memResp z.2 []] }
        exec (.memWrite ag cls addr bs en []) s = s.goes d.after ∧
        (c.accessCode ag true a bs.length = COMP_OK → z.2 = COMP_OK ∧ (c.openTile a bs.length = false → (∀ d off, placeOf a ≠ .regs d off) →
          (∀ i, i < bs.length → isLpddr a = true → c.pairAt (a + i) = none) →
          ∀ x, d.mem.read x = if a ≤ x ∧ x < a + bs.length ∧ bit en.toNat (x - a) = true then bs.getD (x - a) 0 else c.mem.read x))) ∧
      (∀ (len : Fin 129) (g : Nat), 0 < len.val → isLpddr a = true → a + len ≤ c.lpddrTop → c.accessCode ag false a len ∈ [COMP_OK, COMP_MEM_LOST] →
        (c.reqGroups a len).find? c.grpHeld = some g → queueRoom (c.grpOf g).queue cls = true →
        exec (.memRead ag cls addr len []) s = s.goes (c.setGrp g { c.grpOf g with
          queue := (c.grpOf g).queue ++ [⟨ag, cls, false, a, List.replicate len 0, 0, false, false⟩] }).after) ∧
      ∀ (len : Fin 129), 0 < len.val → c.accessCode ag false a len ≠ COMP_OK → (c.accessCode ag false a len = COMP_MEM_LOST → free len) →
        let code := c.accessCode ag false a len
        let d := c.noteRefusal ag a code
        exec (.memRead ag cls addr len []) s = s.goes ({ d with out := d.out ++ [.memResp code []] } : Chip).after)

/-- A buffered stripe is issued and leaves the buffer, and the accesses it covers hold no error any more; a queued request is promoted once and counted; a
due refresh closes its bank's row; CAL_NOW names the next session's member, unless that member has failed. A session of a member that has not failed
starts when the group runs none, fewer than two of the die do and no other member was asked for; its end counts it, and with the log replayed the
member returns, the log empty. While a session runs its group's CALIBRATING bit is set. -/
def Obligations.CalibrationSessionsRun : Prop :=
  ∀ (s : State) (g : Fin 32), s.up →
    let c := s.chip
    let x := c.grpOf g
    (∀ (t : BitVec 32) (faults : List AccFault) (b : BufWrite), x.buf.find? (fun b => b.stripe = t.toNat) = some b →
      ∃ d : Chip, exec (.stripeBufferFlush g t faults) s = s.goes d.after ∧ d.mem = c.mem ∧
        (d.grpOf g).buf = x.buf.filter (fun b => b.stripe != t.toNat) ∧
        (faults = [] → d = (c.setGrp g { x with buf := x.buf.filter (fun b => b.stripe != t.toNat) }).issueStripe g b) ∧
        ∀ m ∈ b.covered, ∀ f ∈ (d.grpOf g).faults, f.stripe = t.toNat → f.member ≠ c.holder g t.toNat m) ∧
    (∀ (n : Fin 128) (r : MemReq), x.queue[n.val]? = some r → r.promoted = false → exec (.memRequestPromote g n) s =
      s.goes ((c.setGrp g { x with queue := setAt x.queue n { r with promoted := true } }).addF (.mem (g / 8)) R.MEM_PROMOTED 1)) ∧
    (∀ bank : Fin 16, exec (.memRefreshDue g bank) s = s.goes (c.setGrp g { x with openRow := x.openRow.erase bank })) ∧
    (∀ m : Fin 8, c.blkGone (.grp g) = false → c.grpState g ≠ 0 → ¬(2 ≤ c.grpState g ∧ c.getF (.grp g) R.GRP_STATE_FAILED = m) →
      exec (.memGrpCmdCalNow g m) s = s.goes (c.setGrp g { x with calNow := some m })) ∧
    (∀ m : Fin 8, c.grpState g = 1 → c.on (.grp g) R.GRP_STATE_CAL_ACTIVE = false →
      ((upto 8).filter (bit (c.getF (.mem (g / 8)) R.MEM_STATE_CALIBRATING))).length < 2 → (x.calNow = none ∨ x.calNow = some m.val) →
      ∃ d, exec (.calSessionStart g m) s = s.goes d ∧ d.offline g = some m.val ∧ (d.grpOf g).calNow = none ∧ d.mem = c.mem ∧
        bit (d.getF (.mem (g / 8)) R.MEM_STATE_CALIBRATING) (g % 8) = true) ∧
    (∀ ns : BitVec 32, c.on (.grp g) R.GRP_STATE_CAL_ACTIVE = true → x.replay = false → x.queue = [] →
      let m := c.getF (.grp g) R.GRP_STATE_CAL_MEMBER
      let l := if x.sess.length = 8 then x.sess else List.replicate 8 0
      exec (.calSessionEnd g true ns) s = s.goes ((((c.addF (.grp g) R.GRP_CAL_SESSIONS 1).setF (.grp g) R.GRP_CAL_LAST_NS (ns.toNat / 16)).setGrp g
        { x with sess := setAt l m 0, replay := true }).after)) ∧
    (c.on (.grp g) R.GRP_STATE_CAL_ACTIVE = true → x.replay = true →
      ∃ d, exec (.calLogReplayDone g) s = s.goes d ∧ d.on (.grp g) R.GRP_STATE_CAL_ACTIVE = false ∧ (d.grpOf g).log = [] ∧
        bit (d.getF (.mem (g / 8)) R.MEM_STATE_CALIBRATING) (g % 8) = false)

/-- In a normal group with no session, a declared failure is recorded and leaves the group degraded with that member out, its rebuild from stripe 0 due
and queued when four already run, and serves what the group held; MEMBER_FAIL by checks asks for FAIL_LIMIT of them. The degraded group of a die that
failed first starts its rebuild when fewer than four run: in place, or as a takeover when retraining fails. A stripe whose other accesses are good is
passed, the others with a failing access are lost; after the last one the group is normal, or without parity after a takeover, and REBUILD_DONE is
set. -/
def Obligations.FailuresDegradeAndRebuild : Prop :=
  ∀ (s : State) (g : Fin 32), s.up →
    let c := s.chip
    let x := c.grpOf g
    (∀ (m : Fin 8) (recalled : Bool), c.grpState g = 1 → c.on (.grp g) R.GRP_STATE_CAL_ACTIVE = false →
      let d := ((c.noteMember g m).grpDegrade g m groupStripes).markQueued (g / 8)
      let e := d.serveAll g
      (c.blkGone (.grp g) = false → exec (.memGrpCmdFail g m recalled) s = s.goes e.after) ∧
      (∀ checks : Bool, (checks = true → c.getF (.mem (g / 8)) R.MEM_CTRL_FAIL_LIMIT ≤ x.fails.getD m 0) →
        exec (.memberFail g m checks recalled) s = s.goes (e.setGrp g { e.grpOf g with fails := (e.grpOf g).fails.set m 0 }).after) ∧
      (x.queue = [] → e = d) ∧ (4 ≤ c.rebuilds (g / 8) → d.on (.grp g) R.GRP_STATE_QUEUED = true) ∧
      d.grpState g = 2 ∧ d.getF (.grp g) R.GRP_STATE_FAILED = m ∧ d.getF (.grp g) R.GRP_STATE_RB_PTR = 0 ∧ d.mem = c.mem ∧
      (∀ t, d.missing g t = some m.val)) ∧
    (∀ trained : Bool, c.grpState g = 2 → c.rebuilds (g / 8) < 4 → c.rebuildTurn (g / 8) = some g.val →
      exec (.rebuildStart g trained) s = s.goes (((c.setFs (.grp g) [(R.GRP_STATE, 3), (R.GRP_STATE_TAKEOVER, b2n !trained),
        (R.GRP_STATE_RB_PTR, 0)]).addF (.mem (g / 8)) R.MEM_STATE_REBUILDS 1).markQueued (g / 8))) ∧
    ∀ (back : ReadBack) (faults : List AccFault), c.grpState g = 3 → c.grpHeld g = false →
      let c := c.addFaults faults
      let ptr := c.getF (.grp g) R.GRP_STATE_RB_PTR
      let take := c.on (.grp g) R.GRP_STATE_TAKEOVER
      (back = .exhausted → take = false → exec (.rebuildStripe g back faults) s = s.goes
        ((c.setFs (.grp g) [(R.GRP_STATE_TAKEOVER, 1), (R.GRP_STATE_RB_PTR, 0)]).raise (.mem (g / 8)) St.MEM_REBUILD_RESTART).after) ∧
      ((back ≠ .exhausted ∨ take = true) →
        let f := c.getF (.grp g) R.GRP_STATE_FAILED
        (ptr + 1 < x.rbEnd → (c.others g ptr f).2 = [] → exec (.rebuildStripe g back faults) s = s.goes
          ((if c.stripeLost g ptr then c else c.clearFault g ptr (if take then 7 else f)).setF (.grp g) R.GRP_STATE_RB_PTR (ptr + 1)).after) ∧
        ((c.others g ptr f).2 ≠ [] → ∃ d : Chip, exec (.rebuildStripe g back faults) s = s.goes d.after ∧ d.stripeLost g ptr = true) ∧
        (x.rbEnd ≤ ptr + 1 → ∃ d : Chip, exec (.rebuildStripe g back faults) s = s.goes d.after ∧ d.grpState g = (if take then 4 else 1) ∧
          d.on (.mem (g / 8)) St.MEM_REBUILD_DONE.flag = true ∧ d.mem = c.mem))

/-- For every message whose fields lie in the widths of R329, the message read from its 16-byte header is the message itself, but for its data, which
travels apart: no bit of a header is dropped. -/
def Obligations.MessageHeadersRoundTrip : Prop :=
  ∀ m : Msg, m.opc < 256 → m.vc < 8 → m.hops < 8 → m.dst < 4096 → m.src < 4096 → m.part < 16 → m.tag < 65536 → m.addr < 2 ^ 48 →
    1 ≤ m.len → m.len ≤ 4096 → m.header.length = 16 ∧ msgOf m.header = { m with data := [] }

/-- Whatever a counter's die has seen of a source, the second arrival of an increment with the same number is not new, at once or after a newer one that
is at most 8,064 numbers ahead. The first increment ahead of all seen before is new. -/
def Obligations.IncrementsApplyOnce : Prop :=
  ∀ (x : SyncSeen) (a b : Nat), x.newest < 16384 → x.map < 2 ^ 64 → a < 16384 → b < 16384 →
    ((x.note a).1.note a).2 = false ∧
    ((a + 16384 - x.newest) % 16384 ∈ Finset.Icc 1 8191 → (x.note a).2 = true ∧ (x.note a).1.newest = a) ∧
    ((x.note a).2 = true → (b + 16384 - (x.note a).1.newest) % 16384 ≤ 8064 → (((x.note a).1.note b).1.note a).2 = false)

/-- A present port that may train starts at step 1 when it is enabled or told to retrain. Training ends with at least 7 lanes good at both ends, those out
since bring-up apart: the port is ACTIVE or DEGRADED on those lanes and marked up on every die. A failed attempt is counted, and at RETRAIN_MAX the
port stays down with TRAIN_FAIL, else it starts again. A port declared down, or forced down, is DOWN, leaves its routes and discards what it holds. On
a port of 8 lanes a lane past its limit leaves it. REPLAY_TIMEOUT resends every unacknowledged flit. -/
def Obligations.PortsTrainAndFall : Prop :=
  ∀ (s : State) (p : Fin 24), s.up →
    let c := s.chip
    let x := c.portOf p
    let fell := (((c.setFs (.port p) [(R.PORT_STATE, 4), (R.PORT_STATE_LANES, 0)]).markPort p false).flushPort p).raise (.port p) St.PORT_PORT_DOWN
    (c.portAbsent p = false →
      (c.getF (.port p) R.PORT_STATE = 0 → exec (.portEnable p) s = s.goes ((c.setB (.port p) R.PORT_CTRL_ENABLE true).trainStart p).after) ∧
      (c.portUp p = false → c.mayTrain p = true → exec (.portRetrain p) s = s.goes ((c.setF (.port p) R.PORT_STATE_ATTEMPTS 0).trainStart p).after) ∧
      exec (.portForceDown p) s = s.goes ((c.setB (.port p) R.PORT_CTRL_FORCE_DOWN true).portDown p).after) ∧
    (c.mayTrain p = true → (c.trainStart p).getF (.port p) R.PORT_STATE = 1 ∧ (c.trainStart p).getF (.port p) R.PORT_STATE_STEP = 1 ∧
      (c.trainStart p).portOf p = {}) ∧
    (∀ (good : BitVec 8) (down : BitVec 32) (peer : Nat), x.peerMask = some peer → c.getF (.port p) R.PORT_STATE = 1 →
      let out := field c.lanesOut (8 * p) 8
      let m := (good.toNat &&& peer &&& (255 - out)) % 256
      7 ≤ portLanes m →
      exec (.portTrainComplete p good down) s = s.goes (((c.setPort p {}).setFs (.port p) [(R.PORT_STATE, if portLanes m = 8 then 2 else 3),
        (R.PORT_STATE_STEP, 6), (R.PORT_STATE_LANES, m), (R.PORT_STATE_ATTEMPTS, 0),
        (R.PORT_DOWN_US, c.getF (.port p) R.PORT_DOWN_US + down.toNat)]).markPort p true).after) ∧
    (c.getF (.port p) R.PORT_STATE = 1 → x.counted = false →
      let d := c.satF (.port p) R.PORT_STATE_ATTEMPTS 1
      exec (.portTrainRetry p) s = s.goes (if d.getF (.jlk (p / 6)) R.JLK_CTRL_RETRAIN_MAX ≤ d.getF (.port p) R.PORT_STATE_ATTEMPTS
        then ((d.setPort p {}).setF (.port p) R.PORT_STATE 4).raise (.port p) St.PORT_TRAIN_FAIL else d.trainStart p).after) ∧
    (c.portUp p = true → exec (.portDown p) s = s.goes (fell.trainStart p).after) ∧
    (∀ (lane : Fin 8) (word : BitVec 8), c.getF (.port p) R.PORT_STATE = 2 → bit (c.getF (.port p) R.PORT_STATE_LANES) lane = true →
      ∃ d : Chip, exec (.laneErrorLimitExceeded p lane word) s = s.goes d.after ∧ d.getF (.port p) R.PORT_STATE = 3 ∧
        d.getF (.port p) R.PORT_STATE_LANES = c.getF (.port p) R.PORT_STATE_LANES - 2 ^ lane.val ∧ d.mem = c.mem ∧
        bit (d.getF (.boot (p / 6)) R.BOOT_BENCH_LANE_LANES) (8 * (p % 6) + lane) = true) ∧
    (c.portUp p = true → x.sent ≠ [] → exec (.replayTimeout p) s = s.goes (((forAll x.sent c (fun d f =>
      d.emitFlit p f.typ f.seq f.vc f.fill f.payload)).raise (.port p) St.PORT_REPLAY).addF (.port p) R.PORT_REPLAY_FLITS x.sent.length).after)

/-- A whole flit on a port that is up gives its acknowledgement and credits, and what waits is then sent; flits sent in answer to a MSG or DATA flit carry
its acknowledgement, or else an IDLE flit does. A MSG or DATA flit with the next sequence number is accepted, one out of sequence asks once for a
replay; a NAK is counted and replays what is unacknowledged; a LANE_DROP takes its lane out. A flit that touches a codeword that could not be
corrected is lost, and one whose CRC fails is counted and lost; the counts of the decoder are noted. In training, a PARAM flit of a peer that R324
allows records the peer and its lanes and answers with this side's parameters (their places are log entry 59). Management and then sync send first,
each at most one flit in four; else the class whose share it is, of 16 response 4, request 4, bulk 6 and mirror 2 (their order is log entry 120), and
another class where that one cannot. -/
def Obligations.FlitsAreTakenInSequence : Prop :=
  (∀ (a : Arb) (ready : Nat → Bool),
    (ready 5 = true → a.mgmt = 0 → a.pick ready = some 5) ∧
    (¬(ready 5 = true ∧ a.mgmt = 0) → ready 3 = true → a.sync = 0 → a.pick ready = some 3) ∧
    (¬(ready 5 = true ∧ a.mgmt = 0) → ¬(ready 3 = true ∧ a.sync = 0) →
      (ready (shareAt a.pos) = true → a.pick ready = some (shareAt a.pos)) ∧
      (a.pick ready = none ↔ ∀ k ∈ shareOrder, ready k = false)) ∧
    ∀ (k n : Nat), (k, n) ∈ [(0, 4), (1, 4), (2, 6), (4, 2)] →
      ((upto 16).filter (fun i => shareAt ((a.pos + i) % 16) == k)).length = n) ∧
  ∀ (s : State) (p : Fin 24) (b : List Byte) (fec : Fec), s.up →
    let c := s.chip
    let d := c.flitTaken p b fec
    let seen (r : Chip) : Chip := if (r.portOf p).rxSeq = (c.portOf p).rxSeq ∨ c.out.length < r.out.length then r else r.emitIdle p
    let h := recNat b 0 8
    let fill := field (recNat b 248 8) 0 4
    let payload := (b.drop 8).take 240
    (c.flitGood p 0 b fec → exec (.idleFlit p b fec) s = s.goes (d.pumpPort p).after) ∧
    (c.flitGood p 1 b fec → field h 0 12 = (d.portOf p).rxSeq →
      exec (.msgFlit p b fec) s = s.goes ((seen ((d.acceptFlit p 1 (field h 44 3) fill payload).pumpPort p)).dropReserved p).after) ∧
    (c.flitGood p 2 b fec → field h 0 12 = (d.portOf p).rxSeq →
      exec (.dataFlit p b fec) s = s.goes ((seen ((d.acceptFlit p 2 (field h 44 3) fill payload).pumpPort p)).dropReserved p).after) ∧
    (c.flitGood p 1 b fec → field h 0 12 ≠ (d.portOf p).rxSeq → exec (.msgFlit p b fec) s = s.goes ((seen ((d.flitLost p).pumpPort p)).dropReserved p).after) ∧
    (c.flitGood p 3 b fec → exec (.nakFlit p b fec) s = s.goes (((d.raise (.port p) St.PORT_NAK_RX).replay p).pumpPort p).after) ∧
    (c.flitGood p 4 b fec → exec (.laneDropFlit p b fec) s = s.goes ((d.laneLeave p (recNat payload 8 1 % 8)).pumpPort p).after) ∧
    (c.portUp p = true → b.length = 256 → fec.ok = false →
      exec (.idleFlit p b fec) s = s.goes ((c.fecNote p fec).flitLost p).after) ∧
    (c.portUp p = true → b.length = 256 → fec.ok = true → crc32 (b.take 252) ≠ recNat b 252 4 →
      exec (.idleFlit p b fec) s = s.goes (((c.fecNote p fec).addF (.port p) R.PORT_CRC_ERR 1).flitLost p).after) ∧
    ∀ good : BitVec 8, c.getF (.port p) R.PORT_STATE = 1 → b.length = 256 → fec.ok = true → crc32 (b.take 252) = recNat b 252 4 → field h 12 4 = 5 →
      let e := c.fecNote p fec
      let dev := Config.paramField 0 payload % 4096
      let port := Config.paramField 1 payload % 32
      let own := e.getF (.jlk (p / 6)) R.JLK_CTRL_DEVICE_ID
      dev ≠ own → (e.on (.port p) R.PORT_CTRL_EXPECT_VALID = true → dev = e.getF (.port p) R.PORT_CTRL_EXPECT_PEER ∧
        port = e.getF (.port p) R.PORT_CTRL_EXPECT_PORT) →
      exec (.paramFlit p b fec good) s = s.goes (((e.setFs (.port p) [(R.PORT_STATE_STEP, 5), (R.PORT_STATE_PEER_ID, dev),
        (R.PORT_STATE_PEER_PORT, port)]).setPort p { e.portOf p with peerMask := some (Config.paramField 3 payload % 256) }).sendParam p good.toNat).after

/-- A request that arrives crosses the network on chip to its place and is served in the order of R342. When a window of the die admits it, it is counted;
when SRAM limits allow it, it names no sync counter and its partition does not reset, an RD or WR is performed as an access of the window's partition,
by the registers' own rules in register space: it is answered with the bytes, an acknowledgement, or the code it was refused with; a read of SRAM
gives the bytes there and leaves memory. A SYNC_INC of a counter in range is admitted once and adds, another is refused with COMP_SYNC_RANGE. A
request that no window admits, or that goes past the SRAM limits or names another device's sync counter (log entry 146), is refused with
COMP_WINDOW_DENIED and sets WIN_DENIED, for an increment REMOTE_DENIED too; so is one to a loading spare. In a layout switch or a partition's reset
the answer is a retry; a fenced device gives none. -/
def Obligations.WindowsServeRequests : Prop :=
  ∀ (s : State) (p : Fin 24) (d : Chip) (m : Msg) (opc : Nat), s.up → s.chip.arrives p (fun x => x.opc == opc && (opc == 8 || !s.chip.msgHeld x)) d m → m.opc = opc →
    let die := portDie p
    let e := if opc = 8 then d else d.nocCross die (d.dieOf m.addr) (nocToUnit (d.dieOf m.addr)) m.vc m.nocFlits
    let z := e.serve regIo die m
    let denied (r : Nat) : Prop := z.2 = .refuse COMP_WINDOW_DENIED r ∧ z.1.on (.jlk die) St.JLK_WIN_DENIED.flag = true ∧ z.1.mem = d.mem ∧
      (opc = 8 → z.1.on (.syncd die) St.SYNCD_REMOTE_DENIED.flag = true)
    let answers (f : Chip) : Prop := (opc = 1 → exec (.rd p) s = s.goes (f.idleOut p 8).after) ∧ (opc = 2 → m.vc ≠ 4 → exec (.wr p) s = s.goes (f.idleOut p 8).after) ∧
      (opc = 8 → exec (.syncInc p) s = s.goes (f.idleOut p 8).after)
    (d.getF .res R.RES_STATE_ROLE ≠ 4 → d.getF .res R.RES_STATE_ROLE ≠ 2 → answers (z.1.reply die m z.2)) ∧
    (d.getF .res R.RES_STATE_ROLE = 4 → answers e) ∧
    (d.getF .res R.RES_STATE_ROLE = 2 → d.recov.load.map (·.1) ≠ some m.src → answers ((e.winDenied die m).reply die m (.refuse COMP_WINDOW_DENIED 1))) ∧
    (opc = 2 → m.vc = 4 → (d.on .layout R.LAYOUT_SWITCHING = true → exec (.wr p) s = s.goes ((d.reply die m .retry).idleOut p 8).after) ∧
      (d.on .layout R.LAYOUT_SWITCHING = false → ∀ j, d.cabAdmits m = some j →
        exec (.wr p) s = s.goes (((d.cabAccept j m).reply die m (.ok [])).idleOut p 8).after)) ∧
    (d.on .layout R.LAYOUT_SWITCHING = true → z = (e, .retry)) ∧
    (d.on .layout R.LAYOUT_SWITCHING = false →
      ((∀ w, w < 256 → d.winAdmits die w m = false) → denied 1) ∧
      ∀ w, (upto 256).find? (fun w => d.winAdmits die w m) = some w →
        let part := d.getF (.win die w) R.WIN_CFG_PART
        let n := (e.addF (.jlk die) R.JLK_WIN_ADMITS 1).addF (.win die w) R.WIN_HITS 1
        let sram := opc = 8 ∨ ((d.isSelf m.src = true ∨ namesCounter m.addr m.len = false) ∧ d.sramOk (opc == 2) m.addr m.len = true)
        (¬sram → denied 2) ∧ (sram → d.partState part = PS_RESETTING → z = (n, .retry)) ∧
        (sram → d.partState part ≠ PS_RESETTING →
          (opc = 1 → let r := n.agentReadIo regIo ⟨some part, die⟩ m.addr m.len
            (r.2.1 = COMP_OK → z = (r.1, .ok r.2.2)) ∧ (r.2.1 ≠ COMP_OK → z.1 = r.1 ∧ ∃ k, z.2 = .refuse r.2.1 k) ∧
            (d.accessCode ⟨some part, die⟩ false m.addr m.len = COMP_OK → isLpddr m.addr = false → (∀ x off, placeOf m.addr ≠ .regs x off) →
              z.2 = .ok (d.mem.readN m.addr m.len) ∧ z.1.mem = d.mem)) ∧
          (opc = 2 → let r := n.agentWriteIo regIo ⟨some part, die⟩ m.addr (ones m.len) (m.data.take m.len)
            (r.2 = COMP_OK → z = (r.1, .ok [])) ∧ (r.2 ≠ COMP_OK → z.1 = r.1 ∧ ∃ k, z.2 = .refuse r.2 k)) ∧
          (opc = 8 → (m.addr % 2 ^ 14 < d.syncRange part → z = (n.syncAdmit die part m, .ok [])) ∧
            (d.syncRange part ≤ m.addr % 2 ^ 14 → z = (n.syncRangeErr die m.src m.part (m.addr % 2 ^ 14), .refuse COMP_SYNC_RANGE 6)))))

/-- A response that arrives ends the request that it answers: RD_DATA with its bytes, WR_ACK and SYNC_ACK with COMP_OK, REFUSE with its code; a RETRY
marks the request to be sent again. At the resend timer a request so marked, other than a host's, is sent again, or ends with COMP_TARGET_RESET once
its time is up. A request of another kind than a DMA channel's with no response in time sets RESP_TIMEOUT and ends with COMP_LINK_DOWN. -/
def Obligations.ResponsesEndRequests : Prop :=
  (∀ (s : State) (p : Fin 24) (d : Chip) (m : Msg) (opc i : Nat), s.up → s.chip.arrives p (fun x => x.opc == opc) d m → m.opc = opc →
    (opc = 0x10 → m.mirror = false → d.requestOf m.src m.tag (· == 1) = some i →
      exec (.rdData p) s = s.goes ((d.endRequest i COMP_OK (m.data.take m.len)).idleOut p 8).after) ∧
    (opc = 0x11 → d.requestOf m.src m.tag (· == 2) = some i → exec (.wrAck p) s = s.goes ((d.endRequest i COMP_OK []).idleOut p 8).after) ∧
    (opc = 0x12 → d.requestOf m.src m.tag (· == 8) = some i → exec (.syncAck p) s = s.goes ((d.endRequest i COMP_OK []).idleOut p 8).colPollAll.after) ∧
    (opc = 0x13 → d.requestOf m.src m.tag (fun _ => true) = some i →
      exec (.refuse p) s = s.goes ((d.endRequest i (m.addr % 65536) []).idleOut p 8).after) ∧
    (opc = 0x14 → ∀ r, d.requestOf m.src m.tag (fun _ => true) = some i → d.reqs[i]? = some r →
      exec (.retry p) s = s.goes (({ d with reqs := d.reqs.set i { r with retry := true } } : Chip).idleOut p 8).after)) ∧
  ∀ (s : State) (i : Nat) (r : FabReq), s.up → s.chip.reqs[i]? = some r →
    let c := s.chip
    (∀ cl k, r.who = .ve cl k → ∀ code bs, c.endRequest i code bs = { c with reqs := c.reqs.set i { r with resp := some (code, bs), retry := false } }) ∧
    ((∀ cl n serial sg, r.who ≠ .dma cl n serial sg) → r.resp = none →
      exec (.respTimeout i) s = s.goes ((c.raise (.jlk r.die) St.JLK_RESP_TIMEOUT).endRequest i COMP_LINK_DOWN []).after) ∧
    (r.retry = true → (∀ fn wr off, r.who ≠ .host fn wr off) → exec (.retryResendTimer i true) s = s.goes (c.endRequest i COMP_TARGET_RESET []).after ∧
      let z := ({ c with reqs := c.reqs.set i { r with retry := false } } : Chip).fabSend r.die (if r.msg.vc = 2 then r.port else none) { r.msg with hops := 0 }
      exec (.retryResendTimer i false) s = s.goes (if z.2 = COMP_OK then z.1 else z.1.endRequest i z.2 []).after)

/-- On the bridge device: PERST# released starts training, asserted again takes the link down and resets only the bridge's PCIe state, with retry status
until bring-up has ended. A link that comes up shows its width and speed. A link-down, a hot reset and an FLR of the PF reset configuration space,
MSI-X state and the aperture table, and leave memory and partitions alone; an FLR of VF n resets its MSI-X state and partition n. A configuration
request is answered with retry status while RRS reads 1, else read or stored; the Device IDs, the class and TotalVFs read as R347 gives them. A host
request to a page without a valid entry or its permission, or of a function in D3hot, is refused; one to this device is served through its windows,
and one to another device enters the fabric (TLP lengths, LTSSM values and where capabilities lie are free values, log entry 60). -/
def Obligations.HostBridgeCommandsComplete : Prop :=
  ∀ s : State,
    let c := s.chip
    let fresh (d : Chip) : Prop := d.hostFns = [] ∧ d.getF .hbr R.HBR_STATE_NUM_VFS = 0 ∧ d.mem = c.mem ∧
      (∀ i : Nat, i < 128 → d.getF (.apt i) R.APT_VALID = 0 ∧ d.getF (.apt i) R.APT_LOCAL = 0 ∧ d.getF (.apt i) R.APT_DEVICE = 0) ∧
      ∀ p : Nat, p < 16 → d.partState p = c.partState p
    (c.perst = true → c.bridgeUp = true → exec .perstRelease s = s.goes ({ c with perst := false } : Chip).ltssm.after) ∧
    (c.perst = false → c.bridgeUp = true → ∃ d : Chip, exec .perstAssert s = s.goes d.after ∧ fresh d ∧ d.perst = true ∧
      d.on .hbr R.HBR_STATE_DL_ACTIVE = false ∧ d.on .hbr R.HBR_STATE_RRS = !c.bootEnded) ∧
    (s.up →
      (c.bridgeUp = true → c.perst = false → c.bootEnded = false → c.on .hbr R.HBR_STATE_RRS = true →
        exec .rrsTimeout s = s.goes ((c.setF .hbr R.HBR_STATE_RRS 0).raise .hbr St.HBR_RRS_TIMEOUT).after) ∧
      (∀ (wide : Bool) (speed : Fin 7), c.bridgeUp = true → c.perst = false → c.on .hbr R.HBR_STATE_DL_ACTIVE = false →
        ∃ d : Chip, exec (.pcieLinkUp wide speed) s = s.goes d.after ∧ d.on .hbr R.HBR_STATE_DL_ACTIVE = true ∧
          d.getF .hbr R.HBR_STATE_WIDTH = (if wide then 16 else 8) ∧ d.getF .hbr R.HBR_STATE_SPEED = speed.val ∧ d.mem = c.mem) ∧
      (c.on .hbr R.HBR_STATE_DL_ACTIVE = true → ∃ d : Chip, exec .pcieLinkDown s = s.goes d.after ∧ fresh d ∧
        d.on .hbr R.HBR_STATE_DL_ACTIVE = false ∧ d.on .hbr St.HBR_LINK_DOWN.flag = true) ∧
      (c.linkUp = true →
        (∃ d : Chip, exec .pcieHotReset s = s.goes d.after ∧ fresh d) ∧
        (∃ d : Chip, exec .flrPf s = s.goes d.after ∧ fresh d ∧ d.on .hbr St.HBR_FLR_PF.flag = true) ∧
        (∀ n : Fin 16, c.fnThere (n + 1) = true → exec (.flrVf n) s = s.goes
          ((({ c with hostFns := c.hostFns.insert (n + 1) { c.hostFn (n + 1) with msix := [], pending := [], d3hot := false } } : Chip).raise .hbr St.HBR_FLR_VF).partReset n).after) ∧
        ∀ fn : Fin 17,
          let tells (e : Chip) (st : Nat) (bs : List Byte) : Chip := { e.tlpTx with out := e.tlpTx.out ++ [.completion fn st bs] }
          (∀ (wr : Bool) (dw : Fin 1024) (v : BitVec 32) (vfs : Option (Fin 17)),
            (c.on .hbr R.HBR_STATE_RRS = true →
              exec (.pcieConfigRequest fn wr dw v vfs) s = s.goes (tells c.tlpRx 2 []).after) ∧
            (c.on .hbr R.HBR_STATE_RRS = false → c.fnThere fn = true →
              let d := c.tlpRx.cfgWrite fn dw v.toNat
              let e := match vfs with
                | some n => if fn.val = 0 then d.setF .hbr R.HBR_STATE_NUM_VFS n else d
                | none => d
              exec (.pcieConfigRequest fn false dw v vfs) s =
                s.goes (tells c.tlpRx 0 (leBytes 4 (c.cfgRead fn dw))).after ∧
              exec (.pcieConfigRequest fn true dw v vfs) s = s.goes (tells e 0 []).after)) ∧
          (c.cfgRead fn 0 / 2 ^ 16 = (if fn.val = 0 then 0x0900 else 0x0901)) ∧ c.cfgRead fn 2 / 256 = 0x120000 ∧
          (∀ dw : Nat, dw ≠ 0 → dw ≠ 2 → capDword fn 0x10010 3 dw = true → c.cfgRead fn dw = 16 + 16 * 2 ^ 16) ∧
          ∀ (off : BitVec 36) (wr : Bool) (bs : List Byte) (n : Fin 4097) (i : Nat),
            let len := if wr then bs.length else n.val
            let go := if wr then exec (.pcieMemWrite fn off bs) s else exec (.pcieMemRead fn off n) s
            let d := c.tick.addF .hbr R.HBR_RX_TLP_BYTES (Config.freeBits c.freeCtr 16 % 2 ^ 16)
            let dev := d.getF (.apt i) R.APT_DEVICE
            let m := hostMsg fn dev (d.getF (.apt i) R.APT_LOCAL * 2 ^ 30 + off.toNat % 2 ^ 30) len wr (if wr then bs else [])
            let may := !(c.hostFn fn).d3hot && d.on (.apt i) R.APT_VALID && d.on (.apt i) (if wr then R.APT_WRITE else R.APT_READ)
            c.fnThere fn = true → 0 < len → (wr = true → len ≤ 512) → off.toNat % 4096 + len ≤ 4096 → aptPage fn off.toNat = some i →
            (may = false → go = s.goes (if wr then (d.raise .hbr St.HBR_POSTED_ERR).hostErr fn true off.toNat COMP_ADDR_UNMAPPED
              else d.hostComplete fn off.toNat COMP_ADDR_UNMAPPED 1 []).after) ∧
            (may = true → d.isSelf dev = true → go = s.goes (d.hostServe regIo { m with src := d.deviceId } fn wr off.toNat).after) ∧
            (may = true → d.isSelf dev = false →
              let z := d.fabRequest 0 (.host fn wr off.toNat) none m
              go = s.goes (match z.1.fabAnswer z.2 with
                | some (code, _) => (z.1.fabEnd z.2).hostAnswer fn wr off.toNat code []
                | none => z.1).after)))

/-- PART_RESET of a formed partition that does not reset makes it RESETTING with no current entry, the SRAM of clusters that it does not share zero, its
counters at BASE, the other partitions as they were, and LPDDR6 too where no batch runs; of one that resets it only sets RESET_IGNORED. Its end enters
it, sets RESET_DONE and lets its queues go on. At its turn a member whose debt reaches its slice is skipped, one with no work is passed over, else it
is in its slice with no debt; an expired slice starts no program and adds its lateness to the debt at its end. A layout switch of a usable layout
resets every formed partition and frees its contexts before plans and seals go; at its completion queue heads wait for nothing and the layout is
formed. -/
def Obligations.PartitionsResetAndSlicesTurn : Prop :=
  ∀ (s : State) (p : Fin 16), s.up →
    let c := s.chip
    let key (b : Nat) : Blk := .part b
    let debt := c.getF (key p) R.PART_SLICE_DEBT_US
    let slice := c.getF (key p) R.PART_SLICE_SLICE_US
    let cls := c.clustersOf p
    let next := if c.memberOf p + 1 < (c.shareSet p).length then c.memberOf p + 1 else 0
    (c.partState p = PS_RESETTING → exec (.partReset p) s = s.goes (c.raise (key p) St.PART_RESET_IGNORED).after) ∧
    (c.partState p ≠ PS_NONE → c.partState p ≠ PS_RESETTING →
      ∃ d : Chip, exec (.partReset p) s = s.goes d.after ∧ d.partState p = PS_RESETTING ∧ (∀ n ∈ queuesOf p, (d.queueOf n).cur = none) ∧
        (∀ q : Nat, q < 16 → q ≠ p → d.partState q = c.partState q) ∧
        (c.shared p = false → ∀ cl ∈ cls, ∀ a : Nat,
          ((∃ k : Nat, k < 16 ∧ ((spBase cl k ≤ a ∧ a < spBase cl k + spSize) ∨ (accBase cl k ≤ a ∧ a < accBase cl k + 0x40000))) ∨
            (cmBase cl ≤ a ∧ a < cmBase cl + cmSize)) → d.mem.read a = 0) ∧
        ((c.partRun p).batch = none → ∀ a, isLpddr a = true → d.mem.read a = c.mem.read a) ∧
        (∀ i : Nat, i < 16384 → d.syncVal i =
          if c.getF (key p) R.PART_SYNC_RANGE_BASE ≤ i ∧ i < c.getF (key p) R.PART_SYNC_RANGE_BASE + c.syncRange p
          then c.getF (.sync i) R.SYNC_CFG_BASE % 2 ^ 32 else c.syncVal i)) ∧
    (∀ us : BitVec 32, c.partState p = PS_RESETTING → c.on .layout R.LAYOUT_SWITCHING = false → c.dieLost = false → c.compReset = 0 →
      c.recov.restore = none →
      exec (.partResetDone p us) s = s.goes (((c.partEnter p).raise (key p) St.PART_RESET_DONE).wqArmAll).after ∧
      ((∃ cl ∈ cls, c.clusterFaulted cl = false) → (c.partEnter p).partState p = PS_ACTIVE)) ∧
    (c.shared p = true → c.partState p = PS_ACTIVE → c.turnOf p = c.memberOf p → (∀ x ∈ c.shareSet p, c.on (key x) R.PART_STATE_IN_SLICE = false) →
      (slice ≤ debt → exec (.sliceTurn p) s = s.goes (((c.setF (key p) R.PART_SLICE_DEBT_US (debt - slice)).addF (key p) R.PART_SKIPPED 1).passTurn p)) ∧
      (debt < slice → cls.any (c.hasWork p) = false → exec (.sliceTurn p) s = s.goes (c.passTurn p) ∧ (c.passTurn p).turnOf p = next) ∧
      (debt < slice → cls.any (c.hasWork p) = true → ∃ d, exec (.sliceTurn p) s = s.goes d ∧ d.on (key p) R.PART_STATE_IN_SLICE = true ∧
        d.getF (key p) R.PART_SLICE_DEBT_US = 0 ∧ d.mem = c.mem ∧ d.getF (key p) R.PART_SLICES = (c.getF (key p) R.PART_SLICES + 1) % 2 ^ 64)) ∧
    (c.shared p = true → c.on (key p) R.PART_STATE_IN_SLICE = true →
      (c.spent.contains p.val = false → exec (.sliceGrantExpire p) s = s.goes { c with spent := p.val :: c.spent }) ∧
      (∀ late run : BitVec 32, (∀ cl ∈ cls, c.coresBusy cl = false ∧ ∀ k : Nat, k < 16 → ∀ t ∈ (c.meOf cl k).vts, c.spilled cl k t.win t.v = false) →
        c.spent.contains p.val = true ∨ (∀ cl ∈ cls, c.hasWork p cl = false) →
        ∃ d : Chip, exec (.sliceEnd p late run) s = s.goes d ∧ d.on (key p) R.PART_STATE_IN_SLICE = false ∧ d.turnOf p = next ∧ p.val ∉ d.spent ∧
          d.getF (key p) R.PART_RUN_US = (c.getF (key p) R.PART_RUN_US + run.toNat) % 2 ^ 64 ∧
          d.getF (key p) R.PART_SLICE_DEBT_US = if c.spent.contains p.val = true ∧ late.toNat ≠ 0 then (debt + late.toNat) % 2 ^ 32 else debt)) ∧
    (∀ (n : Fin 64) (e : QEntry), (c.queueOf n).cur = some e → Wqe.op e.bs = 0x2F → e.started = false → e.code = none →
      let close (d : Chip) (code : Option Nat) : Chip := match (d.queueOf n).cur with
        | some x => d.setQueue n { d.queueOf n with cur := some { x with started := true, code := code } }
        | none => d
      (c.layoutUsable (Wqe.layout e.bs) = false → exec (.layoutSwitch n) s = s.goes (close c (some COMP_LAYOUT_INVALID)).after) ∧
      (c.layoutUsable (Wqe.layout e.bs) = true → ∃ d : Chip,
        exec (.layoutSwitch n) s = s.goes (close (forAll (upto 4) ((forAll (upto 16) d Chip.dropPlan).dropSeals) (fun x j =>
          if x.on (.host j) R.HOST_SRC_ACCEPTED then x.mgmtSend (x.getF (.host j) R.HOST_SRC_SOURCE) MT_CAB_LOST [3] else x)) none).after ∧
        d.on .layout R.LAYOUT_SWITCHING = true ∧ (∀ q : Nat, q < 16 → c.partState q ≠ PS_NONE →
          d.partState q = PS_RESETTING ∧ ∀ i : Nat, i < c.ctxCount q → (d.seqCtx q i).state = 0))) ∧
    (∀ (e : QEntry) (img : Image) (l : Layout), (c.queueOf 0).cur = some e → c.image = some img → c.on .layout R.LAYOUT_SWITCHING = true →
      Wqe.op e.bs = 0x2F → e.started = true → e.code = none → c.layoutNo (Wqe.layout e.bs) = some l →
      exec .layoutSwitchComplete s = s.goes (((((c.dropHeads.formLayout img.windows l (Wqe.scrub e.bs)).setB .layout R.LAYOUT_SWITCHING false).addF .layout
        R.LAYOUT_SWITCHES 1).wqEnd 0 COMP_OK).wqArmAll.compPoll).after ∧
      (∀ x, l.parts.find? (fun x => x.part == p.val) = some x → (c.formPart l p).partState p = PS_ACTIVE ∧
        (c.formPart l p).getF (key p) R.PART_CLUSTERS = x.clusters % 2 ^ 32 ∧ (c.formPart l p).getF (.wqp p) R.WQP_STEP = 0) ∧
      (l.parts.find? (fun x => x.part == p.val) = none → (c.formPart l p).partState p = PS_NONE))

/-- For a current entry that has not begun: SEQ_OPEN takes the lowest FREE context, JOINING with INIT_LEN tokens pending and the next ORDER, once its
handle has been written; with none free it answers COMP_SEQ_FULL, beyond the most tokens COMP_SEQ_LONG. SEQ_APPEND adds COUNT to PENDING. SEQ_CLOSE
frees an unpinned context, and makes a pinned one LEAVING. A BATCH_STEP that fails a check of R375 answers COMP_BATCH_INVALID; else it selects the
batch, writes the manifest and begins its first operator. An operator that has ended well on every cluster writes its KV_OUT pages and the next
begins; after the last one the included contexts advance and the entry ends with COMP_OK; when one fails, its number goes to the manifest, the batch
is undone and the entry ends with its code. -/
def Obligations.ServingCommandsComplete : Prop :=
  ∀ (s : State) (n : Fin 64) (e : QEntry), s.up → (s.chip.queueOf n).cur = some e →
    let c := s.chip
    let q := c.queueOf n
    let p := queuePart n
    let done (d : Chip) (code : Nat) : Chip := d.setQueue n { q with cur := some { e with started := true, code := some code } }
    let fresh := e.started = false ∧ e.code = none
    let free := (upto (c.ctxCount p)).find? (fun i => (c.seqCtx p i).state == 0)
    (fresh → Wqe.op e.bs = 0x20 →
      (free = none → exec (.seqOpen n) s = s.goes (done (c.raise (.part p) St.PART_SEQ_FULL) COMP_SEQ_FULL)) ∧
      ∀ i, free = some i →
        (c.seqLimit p < Wqe.initLen e.bs → exec (.seqOpen n) s = s.goes (done c COMP_SEQ_LONG)) ∧
        (∀ d : Chip, Wqe.initLen e.bs ≤ c.seqLimit p →
          c.agentWrite ⟨some p, 0⟩ (Wqe.handleRef e.bs) (ones 4) (leBytes 4 (c.handleOf p i)) = (d, COMP_OK) → d.queueOf n = q →
          let x : SeqCtx := { state := 1, gen := (c.seqCtx p i).gen, part := p, pending := Wqe.initLen e.bs, order := (d.partRun p).order,
                              tag := Wqe.seqTag e.bs }
          exec (.seqOpen n) s = s.goes (done (((d.setSeqCtx p i x).setPartRun p { d.partRun p with order := (d.partRun p).order + 1 }).addF
            (.part p) R.PART_POOL_STATE_OPEN 1) COMP_OK))) ∧
    (∀ i, c.ctxOf p (Wqe.handle e.bs) = some i →
      let x := c.seqCtx p i
      (fresh → Wqe.op e.bs = 0x21 → x.state ≠ 3 →
        (x.len + x.pending + Wqe.count e.bs ≤ c.seqLimit p →
          exec (.seqAppend n) s = s.goes (done (c.setSeqCtx p i { x with pending := x.pending + Wqe.count e.bs }) COMP_OK)) ∧
        (c.seqLimit p < x.len + x.pending + Wqe.count e.bs → exec (.seqAppend n) s = s.goes (done c COMP_SEQ_LONG))) ∧
      (fresh → Wqe.op e.bs = 0x21 → x.state = 3 → exec (.seqAppend n) s = s.goes (done c COMP_SEQ_STALE)) ∧
      (fresh → Wqe.op e.bs = 0x22 →
        (x.pinned = true → exec (.seqClose n) s = s.goes (done (c.setSeqCtx p i { x with state := 3 }) COMP_OK)) ∧
        (x.pinned = false → (c.freeCtx p i).queueOf n = q → exec (.seqClose n) s = s.goes (done (c.freeCtx p i) COMP_OK))) ∧
      (c.freeCtx p i).seqCtx p i = { part := x.part, gen := (x.gen + 1) % 256 }) ∧
    (fresh → Wqe.op e.bs = 0x24 → ∀ cyc : BitVec 32,
      (c.batchOps p e.bs = none → (c.partRun p).batch = none → exec (.batchStep n cyc) s = s.goes (done (c.noteBatch p e.bs) COMP_BATCH_INVALID)) ∧
      ∀ ops, c.batchOps p e.bs = some ops →
        let c1 := c.noteBatch p e.bs
        c1.accessCode ⟨some p, 0⟩ true (Wqe.manifest e.bs) (0x40 + 20 * Wqe.maxSeqs e.bs) = COMP_OK →
        let x := c1.batchSelect p (Wqe.maxSeqs e.bs) (Wqe.maxTokens e.bs)
        let d := x.chip
        let r := d.partRun p
        let w := forAll (d.manifestBytes p r.batches (Wqe.maxSeqs e.bs) x.seqs) d (fun y m =>
          (y.agentWrite ⟨some p, 0⟩ (Wqe.manifest e.bs + m.1) (ones m.2.length) m.2).1)
        let t : Batch := { queue := n, seqs := x.seqs, ops := ops }
        w.queueOf n = q →
        exec (.batchStep n cyc) s = s.goes (((w.setPartRun p { r with batches := r.batches + 1, batch := some t }).setQueue n
          { q with cur := some { e with started := true, code := none } }).batchBegin p t cyc.toNat)) ∧
    ∀ (t : Batch) (codes : List Nat) (cyc : BitVec 32),
      (c.partRun p).batch = some t → t.queue = n → (∀ x ∈ e.subs, x.2 ≠ none) → e.subCodes (c.clustersOf p) = some codes →
      (∀ cl ∈ c.clustersOf p, (KMap.find? e.subs cl).isSome) →
      (firstCode codes ≠ COMP_OK → exec (.batchOpDone n cyc) s = s.goes
        ((((c.agentWrite ⟨some p, 0⟩ (Wqe.manifest e.bs + 0x10) (ones 2) (leBytes 2 t.op)).1.batchUnwind p).wqEnd n (firstCode codes)))) ∧
      (firstCode codes = COMP_OK →
        let o := t.ops.getD t.op []
        let k := if Ope.kvOut o then c.kvOut p t o else c
        let d := k.setQueue n { k.queueOf n with cur := some { e with subs := [] } }
        let t' := { t with op := t.op + 1 }
        exec (.batchOpDone n cyc) s = s.goes (if t.ops.length ≤ t.op + 1 then (d.batchAdvance p t).wqEnd n COMP_OK
          else (d.setPartRun p { d.partRun p with batch := some t' }).batchBegin p t' cyc.toNat))

/-- A handle has its index in [17:0], its generation in [25:18] and zero above. It is stale exactly when its index is not below CTX_COUNT, its GEN differs
from the entry's, or the entry is FREE. A SEQ_APPEND or SEQ_CLOSE that names a stale handle has no effect and completes with COMP_SEQ_STALE. -/
def Obligations.StaleHandlesAreRefused : Prop :=
  (∀ (c : Chip) (p i : Nat), i < 2 ^ 18 → (c.seqCtx p i).gen < 256 →
    field (c.handleOf p i) 0 18 = i ∧ field (c.handleOf p i) 18 8 = (c.seqCtx p i).gen ∧ c.handleOf p i < 2 ^ 26) ∧
  (∀ (c : Chip) (p h : Nat), c.ctxOf p h = none ↔
    c.ctxCount p ≤ field h 0 18 ∨ (c.seqCtx p (field h 0 18)).gen ≠ field h 18 8 ∨ (c.seqCtx p (field h 0 18)).state = 0) ∧
  ∀ (s : State) (n : Fin 64) (e : QEntry), s.up → (s.chip.queueOf n).cur = some e → e.started = false → e.code = none →
    s.chip.ctxOf (queuePart n) (Wqe.handle e.bs) = none →
    let refused := s.goes (s.chip.setQueue n { s.chip.queueOf n with cur := some { e with started := true, code := some COMP_SEQ_STALE } })
    (Wqe.op e.bs = 0x21 → exec (.seqAppend n) s = refused) ∧ (Wqe.op e.bs = 0x22 → exec (.seqClose n) s = refused)

/-- Without contention an access takes as many core cycles as the largest number of its strips that fall in one bank, and at least one. A set of 32 strips
at a0 + i × P takes gcd(m, 32) for P = 512 × m from any strip, 1 for P of 16, 32, 64, 128 and 256 from a multiple of 512, and what the first sentence
gives for any other. -/
def Obligations.StridedSetsTakeTheStatedCycles : Prop :=
  (∀ words : List Nat,
    let n (b : Nat) : Nat := (words.filter (fun a => spBank a == b)).length
    let cost := accessCost 32 spBank words
    1 ≤ cost ∧ (∀ b : Nat, n b ≤ cost) ∧ (cost = 1 ∨ ∃ b : Nat, b < 32 ∧ n b = cost)) ∧
  (∀ a0 m : Nat, 1 ≤ m → accessCost 32 spBank (stridedSet a0 (512 * m)) = Nat.gcd m 32) ∧
  ∀ a0 pitch : Nat, a0 % 512 = 0 → pitch ∈ [16, 32, 64, 128, 256] → accessCost 32 spBank (stridedSet a0 pitch) = 1

/-- CAB_PLAN installs a readable valid plan, takes a pair for each of its pair regions, drops old seals and pairs anew; an invalid one answers
COMP_CAB_PLAN_INVALID. CAB_STATIC copies to every accepted partner or answers COMP_NO_PARTNER; CAB_RELEASE removes the plan and its pairs and writes
the headers again (log entry 144). A spare that is free says so as pairing starts. A finished drain sends DRAIN_END to each partner; a retry asks
again for missing lines; a slot that holds all of a snapshot is sealed and SEALED goes to its source. PAIR is accepted or refused with its reason, and
the source decides on feeds at PAIR_ACK. WSTATE begins a slot, DRAIN_END its catch-up. SEALED and MEMBER_SEALED count, unless a restore runs; CAB_LOST
forgets a partner's lost seals, and the stage of a slot that was being filled is sent again. -/
def Obligations.CopiesArePairedAndSealed : Prop :=
  (∀ (s : State) (n : Fin 64) (e : QEntry), s.up → (s.chip.queueOf n).cur = some e → e.started = false → e.code = none →
    let c := s.chip
    let p := queuePart n
    let close (d : Chip) (code : Option Nat) : Host.Outcome State Fault Refusal := s.goes (match (d.queueOf n).cur with
      | some x => d.setQueue n { d.queueOf n with cur := some { x with started := true, code := code } }
      | none => d).after
    (∀ (c1 : Chip) (bs : List Byte), Wqe.op e.bs = 0x30 → c.agentRead ⟨some p, 0⟩ (Wqe.cabPlan e.bs) (32 * Wqe.entries e.bs) = (c1, COMP_OK, bs) →
      let l? := (upto (Wqe.entries e.bs)).mapM (fun i => planEntry ((bs.drop (32 * i)).take 32))
      ((l? = none ∨ ∃ l, l? = some l ∧ c1.planBad p l = true) → exec (.cabPlan n) s = close c1 (some COMP_CAB_PLAN_INVALID)) ∧
      ∀ l, l? = some l → c1.planBad p l = false →
        let d := (c1.dropPlan p).setPartRun p { (c1.dropPlan p).partRun p with plan := l }
        let w := d.getF (.wqp p) R.WQP_STEP % 2 ^ 32
        let d := forAll (l.filter (fun r => decide (r.method < 2))) d (fun x r =>
          match (upto 16).find? (fun i => !x.on (.pair i) R.PAIR_CFG_VALID) with
          | some i => x.setFs (.pair i) [(R.PAIR_BASE, r.base / 4096), (R.PAIR_CFG_SIZE, r.size / 4096), (R.PAIR_CFG_METHOD, r.method),
              (R.PAIR_CFG_LIVE, 0), (R.PAIR_CFG_WRITTEN, 0), (R.PAIR_CFG_VALID, 1), (R.PAIR_CFG_PART, p), (R.PAIR_STEPS_STEP0, w), (R.PAIR_STEPS_STEP1, w)]
          | none => x)
        exec (.cabPlan n) s = close d.dropSeals.pairingStart (some COMP_OK)) ∧
    (Wqe.op e.bs = 0x31 →
      let mine := (c.partRun p).plan.filter (fun r => r.method == 2)
      (c.acceptedPartners = [] → exec (.cabStatic n) s = close c (some COMP_NO_PARTNER)) ∧
      (c.acceptedPartners ≠ [] → (∀ r ∈ mine, r.size = 0) → exec (.cabStatic n) s = close c (some COMP_OK)) ∧
      (c.acceptedPartners ≠ [] → (∃ r ∈ mine, r.size ≠ 0) → exec (.cabStatic n) s = close (forAll c.acceptedPartners c (fun x i =>
        x.sendRegions (x.partner i R.RES_PARTNER_DEVICE) (.static n) (staticOff x.devPlan) (fun r => r.method == 2) mine.contains)) none)) ∧
    (Wqe.op e.bs = 0x32 → let d := (c.dropPlan p).dropSeals
      ((c.partRun p).plan = [] → exec (.cabRelease n) s = close c (some COMP_OK)) ∧
      ((c.partRun p).plan ≠ [] → exec (.cabRelease n) s = close (forAll d.acceptedPartners ({ d with recov := { d.recov with headers := [] } } : Chip)
        (fun x i => x.headerSend (x.partner i R.RES_PARTNER_DEVICE))) (some COMP_OK)) ∧
      ((c.dropPlan p).partRun p).plan = [] ∧ ∀ i ∈ (c.dropPlan p).pairs, (c.dropPlan p).getF (.pair i) R.PAIR_CFG_PART ≠ p)) ∧
  (∀ s : State, s.up →
    let c := s.chip
    exec .pairingStart s = s.goes (((c.sendPair 0).sendPair 1).sendFree).after ∧
    (∀ w, c.recov.drain = some w → c.cabOpen CabJob.snapshot = false → c.acceptedPartners ≠ [] → (∀ r ∈ c.reqs, r.who ≠ .cab .drain) →
      let n := ((c.devPlan.filter (fun r => r.method == 1)).map (·.size)).sum
      let d := forAll c.acceptedPartners c (fun x i => if x.recov.drainDevs.contains (x.partner i R.RES_PARTNER_DEVICE) then
        (x.mgmtSend (x.partner i R.RES_PARTNER_DEVICE) MT_DRAIN_END [w, n]).addF .res R.RES_DRAIN_BYTES n else x)
      exec .sideboardDrainDone s = s.goes ({ d.cabDrop CabJob.snapshot with recov := { d.recov with drain := none, drainDevs := [] } } : Chip).after) ∧
    ∀ j : Fin 4, c.hostFilling j = true → c.cabOpen (isCatchup j) = false →
      (c.missingLines j ≠ [] →
        let b := (c.setF (.host j) R.HOST_MISSING (c.missingLines j).length).raise .res St.RES_CATCHUP
        let src := b.getF (.host j) R.HOST_SRC_SOURCE
        exec (.catchupRetry j) s = s.goes (forAll (c.missingLines j).zipIdx b (fun x e => match ridePlace (x.hostPlan j) e.1 with
          | some (a, _) => (x.fabRequest 0 (.cab (.catchup j e.1)) (x.bulkRoute 0 src e.2)
              { opc := 1, vc := 2, dst := src, src := 0, addr := a, len := 128 }).1
          | none => x)).after) ∧
      (c.missingLines j = [] →
        let w := c.getF (.host j) R.HOST_STEPS_WSTATE_STEP
        let e := ((c.setF (.host j) R.HOST_MISSING 0).markSlot j (w % 2) w).setMirror j false
        exec (.cabSeal j true) s = s.goes ((e.mgmtSend (e.getF (.host j) R.HOST_SRC_SOURCE) MT_SEALED [w]).relevel).after ∧
        ((∀ x off, placeOf (c.cabBase j) ≠ .regs x off) → e.getF (.host j) (sealedField (w % 2)) = w % 2 ^ 32 ∧ e.on (.host j) R.HOST_SRC_FILLING = false))) ∧
  ∀ (s : State) (p : Fin 24) (d : Chip) (m : Msg) (typ : Nat), s.up → s.chip.arrives p (fun x => x.opc == 0x30 && x.addr % 65536 == typ) d m →
    let f (i : Nat) : Nat := Config.mgmtField typ i m.data
    let ends (x : Chip) : Host.Outcome State Fault Refusal := s.goes (x.idleOut p 8).after
    let reply (x : Chip) (reason : Nat) : Host.Outcome State Fault Refusal :=
      ends (x.mgmtSend m.src MT_PAIR_ACK [reason, x.getF .res R.RES_STATE_FEED, x.getF .res R.RES_STATE_FEED_KNOWN])
    (typ = MT_PAIR → (d.hostNo m.src = none → exec (.pair p) s = reply d 2) ∧ ∀ j, d.hostNo m.src = some j →
      (d.isMember m.src = false → exec (.pair p) s = reply d 4) ∧
      (d.isMember m.src = true → exec (.pair p) s = if d.getF (.host j) R.HOST_SIZE_CAB_SIZE < f 2
        then reply (d.setB (.host j) R.HOST_SRC_ACCEPTED false) 3 else reply (d.setB (.host j) R.HOST_SRC_ACCEPTED true) 0)) ∧
    (∀ i, typ = MT_PAIR_ACK → d.partnerNo m.src = some i →
      let cofed := !d.on .res R.RES_STATE_FEED_KNOWN || f 2 == 0 || f 1 == d.getF .res R.RES_STATE_FEED
      let full := d.partner (1 - i) R.RES_PARTNER_CONFIGURED != 0 && d.recov.fed.contains (1 - i) && d.partner (1 - i) R.RES_PARTNER_COFED == 0
      let worse := d.partner (1 - i) R.RES_PARTNER_ACCEPTED != 0 && d.partner (1 - i) R.RES_PARTNER_COFED != 0
      let b : Chip := { d with recov := { d.recov with fed := if d.recov.fed.contains i then d.recov.fed else i :: d.recov.fed } }
      let x := (b.setPartner i R.RES_PARTNER_FEED (f 1)).setPartner i R.RES_PARTNER_COFED (b2n cofed)
      let y := if !cofed && worse then x.refusePair (1 - i) 1 else x
      (f 0 ≠ 0 → exec (.pairAck p) s = ends ((y.refusePair i (f 0)).noteCofed.relevel)) ∧
      (f 0 = 0 → (cofed && full) = true → exec (.pairAck p) s = ends ((y.refusePair i 1).relevel)) ∧
      (f 0 = 0 → (cofed && full) = false →
        let z := ((y.setPartner i R.RES_PARTNER_ACCEPTED 1).setPartner i R.RES_PARTNER_REFUSED 0).setPartner i R.RES_PARTNER_UP 1
        let z := if z.recov.headers.contains i then
          ({ z with recov := { z.recov with headers := z.recov.headers.filter (· != i) } } : Chip).headerSend m.src else z
        exec (.pairAck p) s = ends z.noteCofed.sealStep)) ∧
    (∀ j, d.hostNo m.src = some j → d.on (.host j) R.HOST_SRC_ACCEPTED = true →
      (typ = MT_WSTATE →
        let b : Chip := { d with recov := { d.recov with drained := d.recov.drained.filter (· != j) } }
        let x := (b.setFs (.host j) [(R.HOST_SRC_SLOT, f 0 % 2), (R.HOST_STEPS_WSTATE_STEP, f 0)]).fillClear j
        exec (.wstate p) s = ends (if x.getF (.host j) (sealedField (f 0 % 2)) = f 0 then x.setMirror j false
          else (x.markSlot j (f 0 % 2) NO_STEP).setMirror j true)) ∧
      (typ = MT_DRAIN_END →
        let l := if f 0 = d.getF (.host j) R.HOST_STEPS_WSTATE_STEP then j :: d.recov.drained.filter (· != j) else d.recov.drained
        exec (.drainEnd p) s = ends ((({ d with recov := { d.recov with drained := l } } : Chip).setF (.host j) R.HOST_STEPS_DRAIN_STEP (f 0)).catchup j))) ∧
    (∀ i, d.partnerNo m.src = some i →
      (typ = MT_SEALED → exec (.sealed p) s = if d.recov.restore.isSome ∨ d.partner i R.RES_PARTNER_ACCEPTED = 0 then ends d
        else ends ((d.setPartner i R.RES_PARTNER_SEALED (f 0)).setRecov { d.recov with
          seals := d.recov.seals.insert i (f 0 :: (d.sealsOf i).filter (fun x => x % 2 != f 0 % 2)) }).sealStep) ∧
      (typ = MT_CAB_LOST →
        let x := d.raise .res St.RES_CAB_LOST
        let w := match d.recov.drain with | some w => w | none => (d.stages.map (·.step)).foldl max 0
        let again := bit (f 0) (w % 2) && !(d.sealsOf i).contains w && !d.reqs.any (fun r => r.who == Requester.cab .stage && r.msg.dst == m.src)
        let y : Chip := { x with recov := { x.recov with seals := x.recov.seals.insert i ((d.sealsOf i).filter (fun k => !bit (f 0) (k % 2))) } }
        let z : Chip := { y with reqs := y.reqs.filter (fun r => !(r.who == Requester.cab .drain && r.msg.dst == m.src)),
                                 recov := { y.recov with drain := some w, drainDevs := y.recov.drainDevs.erase m.src } }
        (d.partner i R.RES_PARTNER_ACCEPTED = 0 → exec (.cabLost p) s = ends y.sealStep) ∧
        (d.partner i R.RES_PARTNER_ACCEPTED ≠ 0 → f 0 % 4 = 3 → exec (.cabLost p) s = ends (y.headerSend m.src).sealStep) ∧
        (d.partner i R.RES_PARTNER_ACCEPTED ≠ 0 → f 0 % 4 ≠ 3 → (again = false → exec (.cabLost p) s = ends y.sealStep) ∧
          (again = true → ∀ st, d.stages.find? (fun k => k.step == w) = some st →
            exec (.cabLost p) s = ends (z.stageTo m.src w (Config.stageBytes st.words)).sealStep)))) ∧
    (typ = MT_MEMBER_SEALED → exec (.memberSealed p) s = if d.recov.restore.isSome ∨ d.isMember m.src = false then ends d
      else ends ({ d with recov := { d.recov with memberSeal := d.recov.memberSeal.insert (rankOf m.src) (f 0) } } : Chip).groupSeal.relevel)

/-- A device sends HEARTBEAT to each of its partners and hosted sources; one that arrives ends a silence. A silent partner is no longer up and counts; a
silent source is told to its other partner. The declaring partner broadcasts LOST and claims a spare; with no seal the LOST names no step and
STATE_LOST is raised (log entry 147). A source is declared once it was silent for 20 µs and its other partner has been heard. A LOST that repeats is
ignored; the first is remembered, answered with FENCE, and begins the rollback of a member. A fenced device has ROLE 4. A spare that is free answers
SPARE_GRANT, any other SPARE_BUSY; a granted claim loads, a busy one or a spare without a route tries the next, a freed one lets waiting positions
claim. A loaded spare takes the alias; members take its route and answer ADOPTED; the last answer, or RESUME_GROUP, ends the restore; one that comes
too early waits. BOOT_DONE is counted and does nothing more. -/
def Obligations.LossesAreDeclaredAndSparesAdopted : Prop :=
  (∀ s : State, s.up →
    let c := s.chip
    exec .heartbeatSend s = s.goes (forAll c.heartPeers c (fun x d =>
      x.mgmtSend d MT_HEARTBEAT [x.getF .res R.RES_STATE_LEVEL, x.getF .res R.RES_SEAL_SEALED_STEP])).after ∧
    (∀ dev : BitVec 12, c.heartPeers.contains dev.toNat = true → c.recov.silent.contains dev.toNat = false →
      let x : Chip := { c with recov := { c.recov with silent := dev.toNat :: c.recov.silent } }
      let y (i : Nat) : Chip := (((x.setPartner i R.RES_PARTNER_UP 0).raise .res St.RES_PARTNER_LOST).addF .res R.RES_HB_MISSED 1).pldmEvent 259 dev.toNat
      let tell (z : Chip) (w : Nat) : Chip :=
        let u := forAll ((Config.partnersOf dev.toNat).filter (fun d => !z.isSelf d)) z (fun x d => x.mgmtSend d MT_SILENT [dev.toNat, w, 0])
        { u with recov := { u.recov with declare := dev.toNat :: u.recov.declare.filter (· != dev.toNat), due := u.recov.due.filter (· != dev.toNat) } }
      (∀ i, x.partnerNo dev.toNat = some i → x.partner i R.RES_PARTNER_ACCEPTED ≠ 0 → (y i).hostNo dev.toNat = none →
        exec (.partnerSilent dev) s = s.goes ((y i).sealStep).after) ∧
      (∀ j, x.partnerNo dev.toNat = none → x.hostNo dev.toNat = some j →
        exec (.partnerSilent dev) s = s.goes ((tell x ((x.newestSealed j).getD NO_STEP)).sealStep).after)) ∧
    (∀ (dev : BitVec 12) (j : Nat), c.hostNo dev.toNat = some j → c.recov.declare.contains dev.toNat = true →
      let b : Chip := { c with recov := { c.recov with due := dev.toNat :: c.recov.due.filter (· != dev.toNat) } }
      let x : Chip := { b with recov := { b.recov with declare := b.recov.declare.filter (· != dev.toNat), due := b.recov.due.filter (· != dev.toNat) } }
      let others := (Config.partnersOf dev.toNat).filter (fun d => !b.isSelf d)
      let heard := b.recov.told.find? dev.toNat
      let first : Prop := heard = some NO_PARTNER ∨ ∀ d ∈ others, x.deviceId < d
      let w := (x.newestSealed j).getD NO_STEP
      let u := (x.broadcast true MT_LOST [dev.toNat, w, 0]).takeLost dev.toNat w x.deviceId true
      let lost : Prop := exec (.lossDeclare dev) s = s.goes (if w = NO_STEP then u.stateLost else u.openClaim dev.toNat w).after
      let not : Prop := exec (.lossDeclare dev) s = s.goes x.after
      (others ≠ [] → heard = none → exec (.lossDeclare dev) s = s.goes b.after) ∧ (others = [] → heard = none → lost) ∧
      ∀ v, heard = some v →
        (NO_STEP ≤ v → (x.newestSealed j ≠ none ∨ first → lost) ∧ (x.newestSealed j = none → ¬first → not)) ∧
        (v < NO_STEP → (x.newestSealed j = none → not) ∧ ∀ k, x.newestSealed j = some k → (v < k ∨ (v = k ∧ first) → lost) ∧
          (¬(v < k ∨ (v = k ∧ first)) → not))) ∧
    ∀ (plan stage : List Byte) (src dev : Nat), c.recov.load = some (src, dev) →
      let l := (Config.cabEntries plan).map (fun e => (⟨e.1, e.2.1, e.2.2⟩ : Region))
      let st := stageOfWords (Config.stageWords stage)
      let x := c.setPartRun c.protPart { c.partRun c.protPart with plan := l, held := true }
      let x := forAll ((l.filter (fun r => decide (r.method < 2))).take 16).zipIdx x (fun x e =>
        x.setFs (.pair e.2) [(R.PAIR_BASE, e.1.base / 4096), (R.PAIR_CFG_SIZE, e.1.size / 4096), (R.PAIR_CFG_METHOD, e.1.method),
          (R.PAIR_CFG_LIVE, 0), (R.PAIR_CFG_WRITTEN, 0), (R.PAIR_CFG_VALID, 1), (R.PAIR_CFG_PART, c.protPart), (R.PAIR_STEPS_STEP0, st.step),
          (R.PAIR_STEPS_STEP1, st.step)])
      let at_ := Config.loadPlace dev
      let held := plan = c.locBytes at_ 4096 ∧ stage = c.locBytes (at_ + 4096) stageLen
      (¬held → exec (.loadDone none plan stage) s = s.goes c.after) ∧
      (held → (x.restoreApply st).2 = false →
        exec (.loadDone none plan stage) s = s.goes (({ (x.restoreApply st).1 with stages := [st] } : Chip).stateLost).after) ∧
      (held → (x.restoreApply st).2 = true → ∃ e : Chip, exec (.loadDone none plan stage) s = s.goes e.after ∧ e.on .res R.RES_STATE_ALIAS_VALID = true ∧
        e.getF .res R.RES_STATE_ALIAS = dev % 2 ^ 12 ∧ e.getF .res R.RES_STATE_ROLE = 3 ∧ e.recov.load = none ∧
        e.recov.restore = some st.step ∧ e.recov.waiting = true)) ∧
  (∀ (c : Chip) (dev st src : Nat) (fenced : Bool),
    (c.recov.losts.any (fun x => x.dev == dev && x.step == st) = true → c.takeLost dev st src fenced = c) ∧
    (c.recov.losts.any (fun x => x.dev == dev && x.step == st) = false →
      let stays := src = dev ∧ fenced = false
      let r := if stays ∨ c.recov.refused.contains dev then c.recov.refused else dev :: c.recov.refused
      let x := (c.setRecov { c.recov with losts := ⟨dev, st, src⟩ :: c.recov.losts, refused := r }).raise .res St.RES_MEMBER_LOST
      let y := if stays then x else x.mgmtSend dev MT_FENCE [dev]
      c.takeLost dev st src fenced = if y.isMember y.deviceId then y.restoreBegin dev st else y) ∧
    (let back (w : Nat) : Chip := ({ c with recov := { c.recov with restore := some w } } : Chip).setFs .res
        [(R.RES_LOST_DEVICE, dev), (R.RES_LOST_VALID, 1), (R.RES_LOST_STEP, w)]
      ∀ w, (c.getF .res R.RES_STATE_ROLE = 4 → c.restoreBegin dev st = c) ∧ (c.getF .res R.RES_STATE_ROLE ≠ 4 → (c.recov.restore = none →
        let y : Chip := { (back st).setF .res R.RES_STATE_ROLE 3 with recov := { c.recov with waiting := false, early := false, restore := some st } }
        c.restoreBegin dev st = (y.setPartRun c.protPart { c.partRun c.protPart with held := true }).partReset c.protPart) ∧
      (c.recov.restore = some w → c.restoreBegin dev st = back (if c.recov.waiting then w else min st w)))) ∧
    c.fenceSelf.getF .res R.RES_STATE_ROLE = 4 ∧ c.fenceSelf.on .res St.RES_SELF_FENCED.flag = true ∧
    (∀ us step, c.recov.restore = some step →
      let ready := c.recov.waiting = true ∧ (c.recov.mending = false ∨ c.recov.repair = [])
      let q := forAll (queuesOf c.protPart) c (fun c n => (c.cqWrite n COMP_RESTORED 0 (ringIdx (c.getF (.wq n) R.WQ_CONS)) (step % 2 ^ 32)).queueIrq n)
      (¬ready → c.resumeGroup us = { c with recov := { c.recov with early := true } }) ∧
      (ready → ∃ x : Chip, c.resumeGroup us = x.relevel.groupSeal.wqArmAll ∧
        x.recov.restore = none ∧ x.recov.waiting = false ∧ x.getF .res R.RES_STATE_ROLE = (if q.getF .res R.RES_STATE_ROLE = 4 then 4 else 0) ∧
        x.on .res St.RES_RESTORED.flag = true ∧ x.mem = q.mem))) ∧
  ∀ (s : State) (p : Fin 24) (d : Chip) (m : Msg) (typ : Nat), s.up → s.chip.arrives p (fun x => x.opc == 0x30 && x.addr % 65536 == typ) d m →
    let f (i : Nat) : Nat := Config.mgmtField typ i m.data
    let ends (x : Chip) : Host.Outcome State Fault Refusal := s.goes (x.idleOut p 8).after
    let rank := rankOf m.src
    (typ = MT_HEARTBEAT →
      let x := d.recov
      let r : Recov := { x with silent := x.silent.filter (· != m.src), declare := x.declare.filter (· != m.src), due := x.due.filter (· != m.src),
                                told := x.told.erase m.src,
                                memberLevel := if d.isMember m.src then x.memberLevel.insert rank (f 0 % 4) else x.memberLevel,
                                memberSeal := if d.isMember m.src && f 0 % 4 != 0 && x.restore.isNone then x.memberSeal.insert rank (f 1) else x.memberSeal }
      let y : Chip := { d with recov := r }
      (∀ i, d.partnerNo m.src = some i → d.partner i R.RES_PARTNER_ACCEPTED ≠ 0 →
        exec (.heartbeat p) s = ends (y.setPartner i R.RES_PARTNER_UP 1).groupSeal.sealStep) ∧
      (d.partnerNo m.src = none → exec (.heartbeat p) s = ends y.groupSeal.sealStep)) ∧
    (typ = MT_SILENT →
      ((d.hostNo (f 0)).any (fun j => d.on (.host j) R.HOST_SRC_ACCEPTED) = true → exec (.silent p) s = ends
        (({ d with recov := { d.recov with told := d.recov.told.insert (f 0) (if f 2 = 0 then f 1 else NO_PARTNER) } } : Chip).tryDeclare (f 0))) ∧
      ((d.hostNo (f 0)).any (fun j => d.on (.host j) R.HOST_SRC_ACCEPTED) = false →
        exec (.silent p) s = ends (if f 2 = 0 then d.mgmtSend m.src MT_SILENT [f 0, NO_STEP, 1] else d))) ∧
    (typ = MT_LOST → (d.isSelf (f 0) = true → exec (.lost p) s = ends d) ∧
      (d.isSelf (f 0) = false → d.recov.losts.any (fun x => x.dev == f 0 && x.step == f 1) = true → exec (.lost p) s = ends d) ∧
      (d.isSelf (f 0) = false → d.recov.losts.any (fun x => x.dev == f 0 && x.step == f 1) = false →
        let x := d.takeLost (f 0) (f 1) (if f 2 = 0 then m.src else f 2 - 1) (f 2 != 0)
        let left := x.recov.losts.filter (fun l => l.by_ == f 0 && l.dev != f 0 && x.recov.refused.contains l.dev)
        let x := if x.recov.refused.contains (f 0) then forAll left x Chip.takeOver else x
        let mine := f 2 ≠ 0 ∧ x.isSelf (f 2 - 1) = true ∧ (x.hostNo (f 0)).any (fun j => (x.newestSealed j).isSome) = true
        (mine → exec (.lost p) s = ends (x.openClaim (f 0) (f 1))) ∧ (¬mine → exec (.lost p) s = ends x))) ∧
    (typ = MT_FENCE → d.isSelf (f 0) = true → d.getF .res R.RES_STATE_ROLE ≠ 4 → exec (.mgmtFence p) s = ends d.fenceSelf) ∧
    (typ = MT_SPARE_CLAIM → exec (.spareClaim p) s = ends (if d.getF .res R.RES_STATE_ROLE = 1 ∨ (d.getF .res R.RES_STATE_ROLE = 2 ∧ d.recov.load.map (·.2) = some (f 0)) then
      { d.setF .res R.RES_STATE_ROLE 2 with recov := { d.recov with load := some (m.src, f 0) } }.mgmtSend m.src MT_SPARE_GRANT [f 0]
      else d.mgmtSend m.src MT_SPARE_BUSY [f 0])) ∧
    (∀ (x : Claim) (j : Nat), typ = MT_SPARE_GRANT → d.recov.claims.find? (fun x => x.dev == f 0 && x.spare == some rank && !x.granted) = some x →
      d.hostNo (f 0) = some j →
      let y := ((d.mapClaim (f 0) (fun y => { y with granted := true })).noteBusy rank).loadSpare j m.src x.step
      exec (.spareGrant p) s = ends (if y.reqs.any (fun r => r.who == Requester.cab .load && r.msg.dst == m.src && r.resp.isSome)
        then (y.cabDrop (· == .load)).spareOut (f 0) rank else y)) ∧
    (typ = MT_SPARE_BUSY → (∃ x ∈ d.recov.claims, x.dev = f 0 ∧ x.spare = some rank ∧ x.granted = false) → exec (.spareBusy p) s =
      ends (((d.noteBusy rank).mapClaim (f 0) (fun y => { y with tried := rank :: y.tried })).claimSpare (f 0))) ∧
    (typ = MT_SPARE_FREE → d.spareRanks.contains rank = true →
      let l : List Claim := d.recov.claims.map (fun (y : Claim) => { y with tried := y.tried.filter (· != rank) })
      let x := d.setRecov { d.recov with free := rank :: d.recov.free.filter (· != rank), claims := l }
      exec (.spareFree p) s = ends (forAll ((x.recov.claims.filter (fun y => y.spare.isNone)).map (·.dev)) x Chip.claimSpare).relevel) ∧
    (∀ (plan stage : List Byte) (x : Lost), typ = MT_LOAD_DONE →
      let y := forAll (upto 4) d (fun c die => forAll Tbl.ROUTE c (fun c g => c.setF (.route die (f 0)) g (c.getF (.route die m.src) g)))
      let z : Chip := { y with recov := { y.recov with gone := if y.recov.gone.contains rank then y.recov.gone else rank :: y.recov.gone } }
      z.recov.losts.find? (fun x => x.dev == f 0 && x.step == f 1) = some x →
        exec (.loadDone (some p) plan stage) s = ends (if z.isSelf x.by_ then z.tick.adoptPoll (f 0) (Config.freeBits z.freeCtr 32 % 2 ^ 32)
          else z.mgmtSend x.by_ MT_ADOPTED [f 0])) ∧
    (∀ us : BitVec 32,
      (∀ x : Claim, typ = MT_ADOPTED →
        let y := (d.setRecov { d.recov with refused := d.recov.refused.filter (· != f 0) }).mapClaim (f 0) (fun y =>
          { y with adopted := if y.adopted.contains rank then y.adopted else rank :: y.adopted })
        y.recov.claims.find? (fun x => x.dev == f 0 && x.granted) = some x →
        exec (.adopted p us) s = if (y.memberRanks.filter (fun r => !y.isSelf (y.rankDev r) && y.rankDev r != f 0)).all x.adopted.contains
          then ends ((({ y with recov := { y.recov with claims := y.recov.claims.filter (fun z => z.dev != f 0) } } : Chip).broadcast false
            MT_RESUME_GROUP [x.step]).resumeGroup us.toNat)
          else ends y) ∧
      (typ = MT_RESUME_GROUP → exec (.resumeGroup p us) s =
        ends (({ d with recov := { d.recov with refused := [] } } : Chip).resumeGroup us.toNat))) ∧
    (typ = 0x0010 → exec (.bootDone p) s = ends { d with recov := { d.recov with bootDones := d.recov.bootDones + 1 } })

/-- With the input valid, the seven domains that start on their own powered, the 25 MHz reference and TEST_MODE 0, power-on reset is released: stage 1,
straps latched. While D0's uncore and management have not faulted, each stage ends in the next, or stops with its code: BOOT_DIE_FAIL,
BOOT_FUSEMAP_BAD, the code of copy A, BOOT_VARIANT_SHORT or BOOT_OK; a stage's end records its time and shows the next stage on every die, and a stop
in stage 1 or 2 powers the host bridge too (log entry 81). After a stage the waiting owner commands and attestation requests are served. A compute
reset after bring-up begins at once or waits for a layout switch; its end forms the bench list again and, with the variant whole, lets the partitions
go on. FLASH_REQ# is granted once bring-up has ended, and the board's write of the image stands when it gives the bus back. -/
def Obligations.BringUpRunsItsStages : Prop :=
  (∀ (s : State) (pins : StrapPins), s.chip.por = true →
    let c := s.chip
    (c.board.closed = true → c.board.valid = true → c.board.ref25 = true → pins.testMode = false → (∀ n ∈ alwaysOn, c.domainOn n = true) →
      ∃ d : Chip, exec (.powerOnResetRelease pins) s = s.goes d.after ∧ d.por = false ∧ d.mem = c.mem ∧
        (∀ die : Nat, die < 4 → d.getF (.boot die) R.BOOT_STATE_STAGE = 1) ∧ d.on .hbr R.HBR_CTRL_ENABLE = pins.bridgeSel ∧
        d.straps.feedId = pins.feedId ∧ d.straps.smbAddr = pins.smbAddr ∧ d.straps.bridgeSel = pins.bridgeSel ∧
        d.getF .sec R.SEC_STATE_SVN_FLOOR = s.otp.svnFloor % 2 ^ 8) ∧
    (pins.testMode = true → exec (.powerOnResetRelease pins) s = s.goes ({ c with board := { c.board with testMode := true } } : Chip).after)) ∧
  (∀ (s : State) (us : BitVec 32) (r : StageFindings) (torn : Nat) (tree : Bool), s.up →
    let c := s.chip
    let o := s.otp
    let x := c.bringUp o us.toNat r
    let y := (x.ownerPoll o).1.islandServe (x.ownerPoll o).2 torn tree 9
    let stage (n : Nat) : Prop := c.silentDie = false ∧ c.getF (.boot 0) R.BOOT_STATE_STAGE = n
    let pdrs (d : Chip) : Chip := { d with pldm := { d.pldm with pdrs := true } }
    exec (.bringUpStage us r torn tree) s = .next { s with chip := y.1.after, otp := y.2 } ∧
    (c.silentDie = true → x = c) ∧
    (stage 1 → x = if r.diesGood then (c.switchOn [8, 23, 38, 53]).stageEnd 1 us.toNat
      else ((c.switchOn [8, 23, 38, 53]).stageHost.stageEnd 1 us.toNat).bootEnd BOOT_DIE_FAIL) ∧
    (stage 2 → x = if o.fuse.verifies then (pdrs (c.showFuses o.fuse)).stageEnd 2 us.toNat
      else ((pdrs c).stageHost.stageEnd 2 us.toNat).bootEnd BOOT_FUSEMAP_BAD) ∧
    (stage 3 → x = c.stageHost.stageEnd 3 us.toNat) ∧
    (stage 4 → x = if (c.stageImage o).2 = 0 then (c.stageImage o).1.stageEnd 4 us.toNat
      else ((c.stageImage o).1.stageEnd 4 us.toNat).bootEnd (c.stageImage o).2) ∧
    (stage 5 → x = (c.stageClocks o.fuse.fast).stageEnd 5 us.toNat) ∧
    (stage 6 → x = (c.stageMemory r).stageEnd 6 us.toNat) ∧
    (stage 7 → x = c.stageLinks.stageEnd 7 us.toNat) ∧
    (stage 8 → x = (c.stageTest r).stageEnd 8 us.toNat ∧ ∀ a : Nat, a < 0xFC00000000 → x.mem.read a = 0) ∧
    (stage 9 → x = ((c.stageCompute o.fuse.variant).1.stageEnd 9 us.toNat).bootEnd (c.stageCompute o.fuse.variant).2)) ∧
  (∀ (c : Chip) (n us : Nat), 1 ≤ n → n ≤ 9 → (c.stageEnd n us).getF (.boot 0) (R.BOOT_TIME_END_US.nth (n - 1)) = us % 2 ^ 32 ∧
    ∀ die : Nat, die < 4 → (c.stageEnd n us).getF (.boot die) R.BOOT_STATE_STAGE = n + 1) ∧
  (∀ (c : Chip) (o : Otp) (e : Image × Nat), (c.readCopy o 0 = .ok e → c.stageImage o = (c.takeImage 1 e, 0)) ∧
    ∀ a : CopyFail, c.readCopy o 0 = .error a → (c.stageImage o).2 = a.code ∨ (c.stageImage o).2 = 0) ∧
  ∀ s : State,
    let c := s.chip
    (s.up →
      (c.bootEnded = true → c.compReset = 0 → c.on .layout R.LAYOUT_SWITCHING = false → ∃ d : Chip, exec .computeReset s = s.goes d.after ∧
        d.compReset = 2 ∧ ∀ p : Nat, p < 16 → c.partState p ≠ PS_NONE → d.partState p = PS_RESETTING) ∧
      (c.bootEnded = true → c.compReset = 0 → c.on .layout R.LAYOUT_SWITCHING = true →
        exec .computeReset s = s.goes ({ c with compReset := 1 } : Chip).after) ∧
      (c.bootEnded = false → exec .computeReset s = s.goes c.after) ∧
      ∀ cores : BitVec 2048, c.compReset = 2 →
        let code := c.getF (.boot 0) R.BOOT_STATE_CODE
        let d := ({ c with coreFail := cores.toNat } : Chip).benchForm true
        let e : Chip := { d with compReset := 0 }
        let formed := if e.getF .layout R.LAYOUT_COUNT = 0 then e.computeForm else if e.dieLost then e
          else forAll ((upto 16).filter (fun p => e.partState p == PS_RESETTING)) e (fun x p => x.partEnter p)
        (code ≠ BOOT_OK → code ≠ BOOT_VARIANT_SHORT →
          exec (.computeResetDone cores) s = s.goes (({ c with compReset := 0 } : Chip).raise (.boot 0) St.BOOT_COMPUTE_RESET).after) ∧
        (code = BOOT_OK ∨ code = BOOT_VARIANT_SHORT →
          (d.variantShort s.otp.fuse.variant = true →
            exec (.computeResetDone cores) s = s.goes (d.bootAll R.BOOT_STATE_CODE BOOT_VARIANT_SHORT).after) ∧
          (d.variantShort s.otp.fuse.variant = false → exec (.computeResetDone cores) s =
            s.goes ((((formed.bootAll R.BOOT_STATE_CODE BOOT_OK).setF .hbr R.HBR_CTRL_VF_READY 1).raise (.boot 0) St.BOOT_COMPUTE_RESET).wqArmAll).after))) ∧
    (exec .flashReqAssert s = s.goes ({ c with board := { c.board with flashReq := true,
                                                                        flashGnt := c.board.flashGnt || (c.bootEnded && !c.por) } } : Chip).after) ∧
    ∀ (off : BitVec 25) (bs : List Byte),
      let b := { c.board with flashReq := false, flashGnt := false }
      (c.board.flashGnt = true → off.toNat + bs.length ≤ 0x2000000 → exec (.flashReqDeassert off bs) s =
        s.goes ({ c with flash := { c.flash with image := c.flash.image.writeN off.toNat bs }, board := b } : Chip).after) ∧
      (c.board.flashGnt = false → exec (.flashReqDeassert off bs) s = s.goes ({ c with board := b } : Chip).after)

/-- With the island up and its queue empty, a request on the sideband for the certificate is answered at once; a report starts its signature with the next
leaf of the reserved block and takes a token, or first burns the lowest free block; with no leaf left it is refused with COMP_ATT_EXHAUSTED, with no
token with COMP_ATT_BUSY and uses no leaf, as is a ninth request. The certificate is the 128 bytes of R445 with a signature of 2,820 bytes. A
signature that ends sends the report. A token is gained up to the depth. Once stage 4 has ended, an owner key whose proof verifies is enrolled in its
blank slot, and a usable slot is revoked by another that signs for it; any other is denied. After BOOT_OK the SVN floor rises to that of the image.
Each of these over Jalfo is taken as a message of the island. -/
def Obligations.IslandCommandsComplete : Prop :=
  ∀ s : State, s.up → s.chip.sidebandUp = true → s.chip.faulted 61 = false →
    let c := s.chip
    let o := s.otp
    let with' (d : Chip) (p : Otp) : Host.Outcome State Fault Refusal := .next { s with chip := d.after, otp := p }
    let serial := leBytes 8 o.fuse.serial
    (∀ (nonce : List Byte) (torn : Nat) (tree : Bool), 3 ≤ c.getF (.boot 0) R.BOOT_STATE_STAGE → c.island.queue = [] →
      exec (.attReq none nonce 1 torn tree) s = s.goes ((c.addF .sec R.SEC_CERTS 1).attData none nonce
        (o.fuse.certBody ++ Config.certSign o.fuse.certBody)).after ∧ o.fuse.certBody.length = 128 ∧ (Config.certSign o.fuse.certBody).length = 2820 ∧
      let k := c.getF .sec R.SEC_INDEX_NEXT
      let t := c.getF .sec R.SEC_TOKENS
      (c.island.fault = false → o.key = true → c.exhausted o = false → t = 0 → exec (.attReq none nonce 0 torn tree) s =
        s.goes ((c.raise .sec St.SEC_BUSY).attRefuse none nonce COMP_ATT_BUSY).after) ∧
      (c.island.fault = false → o.key = true → c.exhausted o = true → exec (.attReq none nonce 0 torn tree) s =
        s.goes (((c.showOtp o).raise .sec St.SEC_EXHAUSTED).attRefuse none nonce COMP_ATT_EXHAUSTED).after) ∧
      (c.island.fault = false → o.key = true → t ≠ 0 → t < 256 → k < 0x100000 → c.leafReady = true →
        ∃ (d : Chip) (q : AttReq), exec (.attReq none nonce 0 torn true) s = with' d o ∧ d.island.queue = [q] ∧ q.leaf = some k ∧ q.nonce = nonce ∧
          d.getF .sec R.SEC_TOKENS = t - 1 ∧ d.getF .sec R.SEC_INDEX_NEXT = if k % 256 = 255 then 0x100000 else k + 1) ∧
      (∀ b, c.island.fault = false → o.key = true → t ≠ 0 → t < 256 → c.leafReady = false → o.freeBlock = some b →
        ∃ (d : Chip) (q : AttReq), exec (.attReq none nonce 0 0 true) s = with' d { o with blocks := o.blocks ||| 2 ^ b } ∧
          d.island.queue = [q] ∧ q.leaf = some (256 * b % 2 ^ 21) ∧ d.getF .sec R.SEC_TOKENS = t - 1)) ∧
    (∀ (nonce : List Byte) (kind : BitVec 8) (torn : Nat) (tree : Bool) (r : AttReq) (l : List AttReq), kind.toNat ≤ 1 → c.island.queue = r :: l →
      r.leaf.isSome = true → exec (.attReq none nonce kind torn tree) s = if 8 ≤ (r :: l).length
        then s.goes ((c.raise .sec St.SEC_BUSY).attRefuse none nonce COMP_ATT_BUSY).after
        else s.goes (c.setQ (r :: l ++ [{ source := none, nonce := nonce, kind := kind.toNat }])).after) ∧
    (∀ (us : BitVec 32) (torn : Nat) (tree : Bool) (r : AttReq) (leaf : Nat), c.island.queue = [r] → r.leaf = some leaf → r.source = none →
      exec (.attSignatureDone us torn tree) s = s.goes ((((c.setQ []).addF .sec R.SEC_SIGNATURES 1).setF .sec R.SEC_LAST_SIGN_US us.toNat).attData
        none r.nonce (r.body ++ Config.xmssSign leaf r.body)).after) ∧
    exec .attTokenGain s = s.goes (c.setF .sec R.SEC_TOKENS (min c.tokenDepth (c.getF .sec R.SEC_TOKENS + 1))) ∧
    (∀ (slot : Fin 4) (key sig : List Byte) (clean : Bool), c.stage4Ended = true →
      let ok := o.owners[slot.val]? = some .blank ∧ (if slot.val = 0 then Config.xmssOk key (serial ++ key) sig = true
        else ∃ e ∈ o.usable, e.1 ≠ slot.val ∧ Config.xmssOk e.2 (serial ++ leBytes 1 slot ++ key) sig = true)
      let p : Otp := { o with owners := o.owners.set slot (if clean then .enrolled key else .torn) }
      (ok → exec (.ownerEnroll none slot key sig clean) s = with' ((((c.raise .sec St.SEC_OWNER_CHANGE).raiseIf (!clean) .sec
        St.SEC_OTP_TORN).showOtp p).secResult (if clean then COMP_OK else COMP_ATT_FAULT)) p) ∧
      (¬ok → exec (.ownerEnroll none slot key sig clean) s = with' ((c.raise .sec St.SEC_DENIED).secResult COMP_ATT_DENIED) o)) ∧
    (∀ (slot signer : Fin 4) (sig : List Byte) (clean : Bool), c.stage4Ended = true →
      let p (k : List Byte) : Otp := { o with owners := o.owners.set slot (if clean then .revoked k else .torn) }
      (∀ k k', o.usable.find? (fun e => e.1 == slot.val) = some (slot.val, k) → slot ≠ signer →
        o.usable.find? (fun e => e.1 == signer.val && e.1 != slot.val) = some (signer.val, k') →
        Config.xmssOk k' (serial ++ leBytes 1 slot) sig = true →
        exec (.ownerRevoke none slot signer sig clean) s = with' ((((c.raise .sec St.SEC_OWNER_CHANGE).raiseIf (!clean) .sec
          St.SEC_OTP_TORN).showOtp (p k)).secResult (if clean then COMP_OK else COMP_ATT_FAULT)) (p k)) ∧
      (slot = signer → exec (.ownerRevoke none slot signer sig clean) s = with' ((c.raise .sec St.SEC_DENIED).secResult COMP_ATT_DENIED) o)) ∧
    (c.getF (.boot 0) R.BOOT_STATE_CODE = BOOT_OK →
      let want := min 255 (c.getF .cfg R.CFG_STATE_SVN)
      let p : Otp := { o with svn := burnUp o.svn (want - o.svnFloor) }
      (o.svnFloor < want → exec (.svnCommit none true) s = with' ((c.showOtp p).secResult COMP_OK) p ∧ p.svnFloor = want) ∧
      (want ≤ o.svnFloor → exec (.svnCommit none true) s = with' (c.secResult COMP_OK) o)) ∧
    ∀ (p : Fin 24) (slot signer : Fin 4) (nonce key sig : List Byte) (kind : BitVec 8) (torn : Nat) (tree clean : Bool),
      let d := c.takeMsg p isSecMsg (Chip.secMessage p)
      exec (.attReq (some p) nonce kind torn tree) s = with' (d.islandServe o torn tree 9).1 (d.islandServe o torn tree 9).2 ∧
      exec (.ownerEnroll (some p) slot key sig clean) s = with' d o ∧ exec (.ownerRevoke (some p) slot signer sig clean) s = with' d o ∧
      exec (.svnCommit (some p) clean) s = with' d o

/-- MOD_EN closes the switch and an input that becomes valid switches on exactly the 7 domains that start on their own; MOD_EN low, an overvoltage up to
70.00 V and an overcurrent open the switch and undervoltage does not, each with power-on reset; beyond 70.00 V the model faults (log entry 73). An
overvoltage recloses unless an overcurrent tripped the switch. Loss of REF25 asserts power-on reset; loss of REF100 unlocks the PLLs of each die and
its NoC domain faults. INPUT_LOW holds every cluster at target 0 until it clears. A domain that faults is off and logged, and has the effect of its
kind. -/
def Obligations.PowerAndInputCommandsComplete : Prop :=
  ∀ s : State,
    let c := s.chip
    let b := c.board
    let off (d : Chip) : Prop := d.por = true ∧ (∀ a : Nat, d.mem.read a = 0) ∧ d.flash = c.flash ∧ d.bench.entries = c.bench.entries
    let seven (d : Chip) : Prop := ∀ n : Nat, n < 64 → d.domainOn n = alwaysOn.contains n
    (b.modEn = false → exec .modEnRise s = s.goes ({ c with board := { b with modEn := true, closed := !b.overVolt, tripped := false,
                                                                               ref25 := true, ref100 := true } } : Chip).after) ∧
    (b.modEn = true → b.closed = true → b.valid = false → ∃ d : Chip, exec .inputValid s = s.goes d.after ∧ seven d ∧ d.board = { b with valid := true } ∧
      d.mem = c.mem) ∧
    (b.modEn = true → ∃ d : Chip, exec .modEnFall s = s.goes d.after ∧ off d ∧ d.board.closed = false ∧ d.board.modEn = false ∧
      ∀ n : Nat, n < 64 → d.domainOn n = false) ∧
    (b.closed = true → b.valid = true → ∃ d : Chip, exec .vinUndervoltage s = s.goes d.after ∧ off d ∧ seven d ∧ d.board.closed = true ∧
      d.board.valid = false) ∧
    (∀ v : BitVec 16, (7000 < v.toNat → exec (.vinOvervoltage v) s = .fault .beyondAbsoluteLimits) ∧
      (v.toNat ≤ 6200 → exec (.vinOvervoltage v) s = s.goes c.after) ∧
      (b.closed = true → 6200 < v.toNat → v.toNat ≤ 7000 → ∃ d : Chip, exec (.vinOvervoltage v) s = s.goes d.after ∧ off d ∧ d.board.closed = false ∧
        d.board.overVolt = true)) ∧
    (b.overVolt = true → exec .vinOvervoltageReclose s =
      s.goes ({ c with board := { b with overVolt := false, closed := b.modEn && !b.tripped } } : Chip).after) ∧
    (b.closed = true → ∃ d : Chip, exec .inputOvercurrent s = s.goes d.after ∧ off d ∧ d.board.closed = false ∧ d.board.tripped = true) ∧
    (b.valid = true → ∃ d : Chip, exec .ref25Loss s = s.goes d.after ∧ off d ∧ seven d ∧ d.board.ref25 = false) ∧
    (b.ref100 = true → exec .ref100Loss s = s.goes ((forAll (upto 4) ({ c with board := { b with ref100 := false } } : Chip) (fun x d =>
      if x.domainOn (15 * d + 8) then ((x.raise (.clk d) St.CLK_PLL_UNLOCK).setFs (.clk d) [(R.CLK_STATE_NOC_LOCK, 0),
        (R.CLK_STATE_MC_LOCK, 0)]).domainOff (15 * d + 8) 3 else x)).islandDown).after) ∧
    (s.up →
      (c.power.inputLow = false → ∃ d : Chip, exec .inputLow s = s.goes d.after ∧ d.on .pwr St.PWR_INPUT_LOW.flag = true ∧ d.power.inputLow = true ∧
        d.mem = c.mem ∧ ∀ cl : Nat, cl < 32 → c.clusterGone cl = false → c.domainOn (clusterDomain cl) = true →
          c.on (.clkcl cl) R.CLKCL_STATE_STEPPING = false → d.getF (.clkcl cl) R.CLKCL_STATE_TARGET = 0) ∧
      (c.power.inputLow = true → ∃ d : Chip, exec .inputLowClear s = s.goes d.after ∧ d.power.inputLow = false ∧ d.mem = c.mem ∧
        ∀ cl : Nat, cl < 32 → c.clusterGone cl = false → c.domainOn (clusterDomain cl) = true → c.on (.clkcl cl) R.CLKCL_STATE_STEPPING = false →
          d.getF (.clkcl cl) R.CLKCL_STATE_TARGET = min (min 7 (c.getF (.clkcl cl) R.CLKCL_CTRL_MAX_OP)) (min (c.getF .pwr R.PWR_CTRL_CAP_POINT)
            (c.thermalPoint cl))) ∧
      ∀ (n : Fin 64) (kind : Fin 3) (pll : Bool), c.domainOn n = true →
        let y0 := c.raise (.clk (n / 15)) St.CLK_PLL_UNLOCK
        let y := if pll && decide (n.val < 60) then
            if n.val % 15 = 8 then y0.setF (.clk (n / 15)) R.CLK_STATE_NOC_LOCK 0
            else if n.val % 15 = 9 ∨ n.val % 15 = 10 then y0.setF (.clk (n / 15)) R.CLK_STATE_MC_LOCK 0 else y0
          else c
        let x := ((y.setFs .pwr [(R.PWR_DOMAINS_ON, y.getF .pwr R.PWR_DOMAINS_ON - 2 ^ n.val), (R.PWR_FAULTED, y.getF .pwr R.PWR_FAULTED ||| 2 ^ n.val),
          (R.PWR_FAULT_LOG_DOMAIN, n), (R.PWR_FAULT_LOG_KIND, if pll then 3 else kind + 1),
          (R.PWR_FAULT_LOG_TIME, y.getF (.tel 0) R.TEL_TIME)]).raise .pwr St.PWR_DOMAIN_FAULT).pldmEvent 256 n
        let d := n.val / 15
        let k := n.val % 15
        exec (.domainFault n kind pll) s = s.goes ((
          if n.val = 60 then x.pcieLinkDown else if n.val = 61 then x
          else if n.val = 62 then ({ x with power := { x.power with blind := upto 32 } } : Chip).retarget
          else if n.val = 63 then x.raise .cfg St.CFG_LOG_FULL
          else if k < 8 then x.clusterFault (8 * d + k) else if k = 9 ∨ k = 10 then x.halfFault d (k - 9)
          else if 11 ≤ k ∧ k ≤ 13 then (x.portDown (6 * d + 2 * (k - 11))).portDown (6 * d + 2 * (k - 11) + 1) else x.dieFault d).islandDown).after ∧
        x.domainOn n = false ∧ x.faulted n = true ∧ x.on .pwr St.PWR_DOMAIN_FAULT.flag = true ∧ x.getF .pwr R.PWR_FAULT_LOG_DOMAIN = n.val)

/-- While no step is in progress, a power above the cap lowers the cap point by one, down to 0, and one that has stayed below the cap less its hysteresis
raises it by one, up to 7; below 7 CAP_ACTIVE is set. Above THROTTLE_C a cluster's thermal point falls by one and sets THROTTLE; cooled for long
enough it rises by one. A cluster moves one point towards its target, and the end of the step is counted. A droop is counted and stretches the clock
except at point 0. A refresh stores what the sensor has read; a cluster sensor with no valid reading holds its cluster at point 0, and a reading of
TRIP_C or more faults every cluster domain of its die. Above 125 °C the model faults (log entry 73). -/
def Obligations.PointsAndSensorsFollow : Prop :=
  (∀ (s : State) (watts : BitVec 16) (quiet : Bool), s.up →
    let c := s.chip
    let cap := min 3400 (max 1000 (c.getF .pwr R.PWR_CTRL_CAP_W))
    let p := c.getF .pwr R.PWR_CTRL_CAP_POINT
    p ≤ 7 → ∃ d : Chip, exec (.powerCapCheck watts quiet) s = s.goes d.after ∧ d.mem = c.mem ∧
      ((∃ cl : Nat, cl < 32 ∧ c.on (.clkcl cl) R.CLKCL_STATE_STEPPING = true) → d.getF .pwr R.PWR_CTRL_CAP_POINT = p) ∧
      ((∀ cl : Nat, cl < 32 → c.on (.clkcl cl) R.CLKCL_STATE_STEPPING = false) → d.getF .pwr R.PWR_CTRL_CAP_POINT =
        if cap < watts.toNat then p - 1
        else if quiet = true ∧ watts.toNat + c.getF .pwr R.PWR_CTRL_CAP_HYST_W < cap then min 7 (p + 1) else p) ∧
      (d.getF .pwr R.PWR_CTRL_CAP_POINT < 7 → d.on .pwr R.PWR_STATUS_CAP_ACTIVE = true)) ∧
  (∀ (s : State) (cl : Fin 32), s.ready cl →
    let c := s.chip
    let b : Blk := .clkcl cl
    let op := c.getF b R.CLKCL_STATE_OP
    let t := degrees (c.getF (.tel (cl / 8)) (R.TEL_CL_TEMP_TEMP.nth (cl % 8)))
    let hot : Int := c.getF (.tel (cl / 8)) R.TEL_THERM_THROTTLE_C
    let trip : Int := min 110 (c.getF (.tel (cl / 8)) R.TEL_THERM_TRIP_C)
    let p := KMap.getD c.power.thermal cl 7
    let point (d : Chip) : Nat := KMap.getD d.power.thermal cl 7
    (∀ cooled : Bool, 16 * hot < t → t < 16 * trip → p ≠ 0 → p ≤ 7 → ∃ d : Chip, exec (.thermalPointTick cl cooled) s = s.goes d.after ∧
      point d = p - 1 ∧ d.on (.tel (cl / 8)) St.TEL_THROTTLE.flag = true ∧ d.mem = c.mem) ∧
    (t < 16 * (hot - 5) → p < 7 → ∃ d : Chip, exec (.thermalPointTick cl true) s = s.goes d.after ∧ point d = p + 1 ∧ d.mem = c.mem) ∧
    (c.on b R.CLKCL_STATE_STEPPING = false → op ≠ c.getF b R.CLKCL_STATE_TARGET →
      exec (.opPointStep cl) s = s.goes (c.setF b R.CLKCL_STATE_STEPPING 1).after) ∧
    (c.on b R.CLKCL_STATE_STEPPING = true → ∃ d : Chip, exec (.opPointStepDone cl) s = s.goes d.after ∧
      d.getF b R.CLKCL_STATE_OP = (if op < c.getF b R.CLKCL_STATE_TARGET then op + 1 else op - 1) % 8 ∧
      d.on b R.CLKCL_STATE_STEPPING = false ∧ d.getF b R.CLKCL_STEPS = (c.getF b R.CLKCL_STEPS + 1) % 2 ^ 64 ∧ d.mem = c.mem) ∧
    (∃ d : Chip, exec (.droopDetect cl) s = s.goes d.after ∧ d.getF b R.CLKCL_DROOPS = (c.getF b R.CLKCL_DROOPS + 1) % 2 ^ 64 ∧
      d.on (.clk (cl / 8)) St.CLK_DROOP.flag = true ∧ d.mem = c.mem ∧
      (d.power.stretched.contains cl.val = true ↔ op ≠ 0 ∨ c.power.stretched.contains cl.val = true)) ∧
    exec (.droopStretchEnd cl) s = s.goes ({ c with power := { c.power with stretched := c.power.stretched.filter (· != cl.val) } } : Chip).after) ∧
  ∀ (s : State) (us : BitVec 64), s.up →
    let c := s.chip
    (∀ (v a w : BitVec 16) (j : BitVec 64), c.domainOn 62 = true → ∃ d : Chip, exec (.sensorRefresh us (.input v a w j)) s = s.goes d.after ∧
      d.getF (.tel 0) R.TEL_INPUT_VOLTS = v.toNat ∧ d.getF (.tel 0) R.TEL_INPUT_AMPS = a.toNat ∧ d.getF (.tel 0) R.TEL_INPUT_WATTS = w.toNat ∧
      d.getF .pwr R.PWR_ENERGY_J = j.toNat ∧ d.getF (.tel 0) R.TEL_TIME = us.toNat ∧ KMap.getD d.pldm.readings 3 0 = w.toNat) ∧
    (∀ (cl : Fin 32) (t : BitVec 16), 2000 < t.toInt → exec (.sensorRefresh us (.junction cl (some t))) s = .fault .beyondAbsoluteLimits) ∧
    (∀ cl : Fin 32, c.clusterLive cl = true → c.domainOn 62 = true →
      (∃ d : Chip, exec (.sensorRefresh us (.junction cl none)) s = s.goes d.after ∧ d.thermalPoint cl = 0 ∧
        d.on (.tel (cl / 8)) St.TEL_SENSOR_FAIL.flag = true) ∧
      ∀ t : BitVec 16, t.toInt ≤ 2000 →
        let lim : Int := min 110 (c.getF (.tel (cl / 8)) R.TEL_THERM_TRIP_C)
        let e := (c.setF (.tel 0) R.TEL_TIME us.toNat).setF (.tel (cl / 8)) (R.TEL_CL_TEMP_TEMP.nth (cl % 8)) t.toNat
        let e := e.setF (.tel (cl / 8)) R.TEL_TEMP_JMAX (e.hottest (cl / 8))
        let e := (({ e with power := { e.power with blind := e.power.blind.filter (· != cl.val) } } : Chip).retarget).sensorStore (10 + cl / 8)
        let up := ((upto 8).map (15 * (cl.val / 8) + ·)).filter e.domainOn
        (t.toInt < 16 * lim → exec (.sensorRefresh us (.junction cl (some t))) s = s.goes e.after) ∧
        (16 * lim ≤ t.toInt → exec (.sensorRefresh us (.junction cl (some t))) s = s.goes (forAll up
          (((e.raise (.tel (cl / 8)) St.TEL_TRIP).raise .pwr St.PWR_THERMAL_TRIP).pldmEvent 257 (cl / 8)) (fun x n => x.domainOff n 0)).after) ∧
        e.getF (.tel (cl / 8)) (R.TEL_CL_TEMP_TEMP.nth (cl % 8)) = t.toNat) ∧
    (∀ (die : Fin 4) (t : BitVec 16), c.sensorUp (14 + die) = true → t.toInt < 16 * min 110 (c.getF (.tel die) R.TEL_THERM_TRIP_C : Int) →
      ∃ d : Chip, exec (.sensorRefresh us (.package die t)) s = s.goes d.after ∧ d.getF (.tel die) R.TEL_TEMP_MEM_MAX = t.toNat ∧ d.mem = c.mem) ∧
    (∀ (outlet : Bool) (t : BitVec 16), c.domainOn 62 = true → ∃ d : Chip, exec (.sensorRefresh us (.coolant outlet t)) s = s.goes d.after ∧
      d.getF (.tel 0) (if outlet then R.TEL_COOLANT_OUTLET else R.TEL_COOLANT_INLET) = t.toNat ∧ d.mem = c.mem) ∧
    ∀ id : Fin 256, id.val ∈ numericSensors → exec (.sensorRefresh us (.computed id)) s =
      s.goes ((c.setF (.tel 0) R.TEL_TIME us.toNat).sensorStore id).after

/-- Once stage 1 has ended each PLDM command is answered with its code and fields, and once the repository exists so is each type 2 command; before that
these answer ERROR_NOT_READY. SetTID and SetEventReceiver store what they set. An event not acknowledged is sent again at most 3 times, and an
acknowledged one leaves the queue. A powered TAP shifts out its bypass bit, its IDCODE or its pins, and loads its boundary-scan register; EXTEST
drives the pins with TEST_MODE 1 and otherwise acts as BYPASS; TRST# low holds every TAP in reset. Registers and memory stay as they are (codes and
numbers are log entry 62, scan positions the model's reading of R486). -/
def Obligations.SidebandAndTestAccessAnswer : Prop :=
  (∀ s : State, s.up → s.chip.sidebandUp = true →
    let c := s.chip
    let say (d : Chip) (cmd code : Nat) (l : List Nat) : Host.Outcome State Fault Refusal := s.goes { d with out := d.out ++ [.pldm cmd code l] }
    exec .getTid s = say c 0x0002 0 [c.pldm.tid] ∧
    (∀ tid : BitVec 8, exec (.setTid tid) s = say { c with pldm := { c.pldm with tid := tid.toNat } } 0x0001 0 []) ∧
    exec .getPldmTypes s = say c 0x0004 0 [0, 2] ∧
    (∀ typ : BitVec 8, (typ = 0 ∨ typ = 2 → exec (.getPldmVersion typ) s = say c 0x0003 0 [Config.pldmVersion typ.toNat]) ∧
      (typ ≠ 0 → typ ≠ 2 → exec (.getPldmVersion typ) s = say c 0x0003 0x83 [] ∧ exec (.getPldmCommands typ) s = say c 0x0005 0x83 [])) ∧
    exec (.getPldmCommands 0) s = say c 0x0005 0 [1, 2, 3, 4, 5] ∧ exec (.getPldmCommands 2) s = say c 0x0005 0 [0x04, 0x11, 0x21, 0x50, 0x51] ∧
    (c.pldm.pdrs = false → exec .getPdrRepositoryInfo s = say c 0x0250 4 [] ∧ (∀ h, exec (.getPdr h) s = say c 0x0251 4 []) ∧
      (∀ i, exec (.getSensorReading i) s = say c 0x0211 4 [] ∧ exec (.getStateSensorReadings i) s = say c 0x0221 4 []) ∧
      ∀ w, exec (.setEventReceiver w) s = say c 0x0204 4 []) ∧
    (c.pldm.pdrs = true →
      exec .getPdrRepositoryInfo s = say c 0x0250 0 [c.pdrRecords.length] ∧
      (∀ (h : BitVec 32) (e : Nat × Nat), c.pdrRecords[h.toNat - 1]? = some e → exec (.getPdr h) s = say c 0x0251 0
        ([if h.toNat - 1 + 1 < c.pdrRecords.length then h.toNat - 1 + 2 else 0, e.1, e.2] ++ (Config.pdrBytes e.1 e.2).map (·.toNat))) ∧
      (∀ h : BitVec 32, c.pdrRecords.length < h.toNat → exec (.getPdr h) s = say c 0x0251 0x82 []) ∧
      (∀ i : BitVec 16, (c.sensorThere i.toNat = false → exec (.getSensorReading i) s = say c 0x0211 0x80 []) ∧
        (c.sensorThere i.toNat = true → exec (.getSensorReading i) s = if c.sensorUp i.toNat = true ∧ i.toNat ∉ c.pldm.bad
          then say c 0x0211 0 [0, c.sensorRead i.toNat] else say c 0x0211 0 [2, 0]) ∧
        (i.toNat ∈ stateSensorIds → exec (.getStateSensorReadings i) s = say c 0x0221 0 [0, c.stateSensors.getD (i.toNat - 40) 0]) ∧
        (i.toNat ∉ stateSensorIds → exec (.getStateSensorReadings i) s = say c 0x0221 0x80 [])) ∧
      ∀ w : Option (BitVec 8), exec (.setEventReceiver w) s =
        say { c with pldm := { c.pldm with receiver := w.map (·.toNat), states := c.stateSensors } } 0x0204 0 []) ∧
    ∀ (i : Fin 64) (e : PldmEvent), c.pldm.events[i.val]? = some e →
      (e.sent < 4 → exec (.pldmEventRetry i) s = s.goes { c with
        pldm := { c.pldm with events := c.pldm.events.set i { e with sent := e.sent + 1 } }, out := c.out ++ [.event e.source e.value] }) ∧
      (4 ≤ e.sent → exec (.pldmEventRetry i) s = s.goes c) ∧
      exec (.platformEventAck i) s = s.goes { c with pldm := { c.pldm with events := c.pldm.events.eraseIdx i } }) ∧
  (∀ (s : State) (d : Fin 4) (pins pre : BitVec 64), s.chip.board.valid = true →
    let c := s.chip
    let t := { c.tapOf d with held := false }
    let shift (t : Tap) (driven : Option Nat) (w v : Nat) : Host.Outcome State Fault Refusal := s.goes { c with
      taps := c.taps.insert d t, board := { c.board with trst := false, driven := driven }, out := c.out ++ [.tdo d w v] }
    exec (.bypass d) s = shift { t with ir := .bypass } none 1 0 ∧
    exec (.idcode d) s = shift { t with ir := .idcode } none 32 (idcode d) ∧
    exec (.samplePreload d pins pre) s = shift { t with ir := .sample, boundary := pre.toNat &&& scanMask } none 64 (pins.toNat &&& scanMask) ∧
    (c.board.testMode = false → exec (.extest d pins) s = exec (.bypass d) s) ∧
    (c.board.testMode = true → exec (.extest d pins) s = shift { t with ir := .extest } (some t.boundary) 64 (pins.toNat &&& scanMask))) ∧
  ∀ s : State, ∃ taps : KMap Tap, exec .trstAssert s = s.goes { s.chip with
      taps := taps, board := { s.chip.board with trst := true, driven := none } } ∧
    ∀ d : Nat, d < 4 → KMap.getD taps d {} = { held := true, ir := .idcode, boundary := (s.chip.tapOf d).boundary }
end

