-- ==== Sys2Proof/Laws/State.lean ====
section
/-! SUPPORT. Small laws of the state: sparse maps, memory bytes, the register file, and for each update of one field what it leaves alone. -/

namespace Sys2Proof.Machine

/-! Sparse maps. -/

@[simp] theorem KMap.find?_nil {α : Type} (k : Nat) : KMap.find? ([] : KMap α) k = none := rfl

/-- What was inserted is found. -/
@[simp] theorem KMap.find?_insert_self {α : Type} (m : KMap α) (k : Nat) (v : α) : (m.insert k v).find? k = some v := by
  induction m with
  | nil => simp [KMap.insert, KMap.find?]
  | cons e r ih =>
    obtain ⟨k', v'⟩ := e
    simp only [KMap.insert]
    split
    · simp [KMap.find?]
    · split
      · simp [KMap.find?]
      · rename_i h1 h2
        have : ¬ k' = k := fun h => h2 h.symm
        simp [KMap.find?, this, ih]

/-- An insertion leaves other keys alone. -/
theorem KMap.find?_insert_of_ne {α : Type} (m : KMap α) {j k : Nat} (v : α) (h : j ≠ k) : (m.insert k v).find? j = m.find? j := by
  induction m with
  | nil => simp [KMap.insert, KMap.find?, Ne.symm h]
  | cons e r ih =>
    obtain ⟨k', v'⟩ := e
    simp only [KMap.insert]
    split
    · simp [KMap.find?, Ne.symm h]
    · split
      · rename_i h1 h2
        subst h2
        simp [KMap.find?, Ne.symm h]
      · simp [KMap.find?, ih]

@[simp] theorem KMap.getD_insert_self {α : Type} (m : KMap α) (k : Nat) (v d : α) : (m.insert k v).getD k d = v := by
  simp [KMap.getD]

theorem KMap.getD_insert_of_ne {α : Type} (m : KMap α) {j k : Nat} (v d : α) (h : j ≠ k) : (m.insert k v).getD j d = m.getD j d := by
  simp [KMap.getD, KMap.find?_insert_of_ne m v h]

/-- An erased key is gone. -/
theorem KMap.find?_erase {α : Type} (m : KMap α) (j k : Nat) : (m.erase k).find? j = if j = k then none else m.find? j := by
  induction m with
  | nil => simp [KMap.erase, KMap.find?]
  | cons e r ih =>
    obtain ⟨k', v'⟩ := e
    by_cases hk : k' = k
    · subst hk
      have : KMap.erase ((k', v') :: r) k' = KMap.erase r k' := by simp [KMap.erase]
      rw [this, ih]
      by_cases hj : j = k'
      · simp [hj]
      · simp [hj, KMap.find?, Ne.symm hj]
    · have : KMap.erase ((k', v') :: r) k = (k', v') :: KMap.erase r k := by simp [KMap.erase, hk]
      rw [this]
      by_cases hj : k' = j
      · subst hj; simp [KMap.find?, hk]
      · simp [KMap.find?, hj, ih]

/-- What a kept range of keys shows. -/
theorem KMap.find?_keep {α : Type} (m : KMap α) (p : Nat → Bool) (j : Nat) : (m.keep p).find? j = if p j then m.find? j else none := by
  induction m with
  | nil => simp [KMap.keep, KMap.find?]
  | cons e r ih =>
    obtain ⟨k', v'⟩ := e
    by_cases hk : p k' = true
    · have : KMap.keep ((k', v') :: r) p = (k', v') :: KMap.keep r p := by simp [KMap.keep, hk]
      rw [this]
      by_cases hj : k' = j
      · subst hj; simp [KMap.find?, hk]
      · simp [KMap.find?, hj, ih]
    · have : KMap.keep ((k', v') :: r) p = KMap.keep r p := by simp [KMap.keep, hk]
      rw [this, ih]
      by_cases hj : k' = j
      · subst hj; simp [hk]
      · simp [KMap.find?, hj]

/-! Lists under `forAll`. -/

@[simp] theorem forAll_nil {α σ : Type} (s : σ) (f : σ → α → σ) : forAll [] s f = s := rfl
@[simp] theorem forAll_cons {α σ : Type} (a : α) (l : List α) (s : σ) (f : σ → α → σ) : forAll (a :: l) s f = forAll l (f s a) f := rfl

/-- What every pass of a loop keeps, the loop keeps. -/
theorem forAll_keeps {α σ β : Type} (p : σ → β) (l : List α) (s : σ) (f : σ → α → σ) (h : ∀ s a, p (f s a) = p s) :
    p (forAll l s f) = p s := by
  induction l generalizing s with
  | nil => rfl
  | cons a r ih => simp [ih, h]

/-! The register file. -/

/-- Fields of one block at different places have different keys. -/
theorem fkey_ne_of_place (b : Blk) {f g : Field} (h : f.off * 64 + f.lsb ≠ g.off * 64 + g.lsb) : fkey b f ≠ fkey b g := by
  simp only [fkey]; omega

/-- A field holds what was stored, cut to its width. -/
@[simp] theorem Chip.getF_setF_self (c : Chip) (b : Blk) (f : Field) (v : Nat) : (c.setF b f v).getF b f = v % 2 ^ f.width := by
  simp [Chip.getF, Chip.setF]

/-- Storing a field leaves the others alone. -/
theorem Chip.getF_setF_of_ne (c : Chip) {b b' : Blk} {f f' : Field} (v : Nat) (h : fkey b' f' ≠ fkey b f) :
    (c.setF b f v).getF b' f' = c.getF b' f' := by
  simp [Chip.getF, Chip.setF, KMap.find?_insert_of_ne _ _ h]

theorem Chip.getF_setF_place (c : Chip) (b : Blk) {f g : Field} (v : Nat) (h : g.off * 64 + g.lsb ≠ f.off * 64 + f.lsb) :
    (c.setF b f v).getF b g = c.getF b g := Chip.getF_setF_of_ne c v (fkey_ne_of_place b h)

@[simp] theorem Chip.setFs_nil (c : Chip) (b : Blk) : c.setFs b [] = c := rfl
@[simp] theorem Chip.setFs_cons (c : Chip) (b : Blk) (e : Field × Nat) (l : List (Field × Nat)) :
    c.setFs b (e :: l) = (c.setF b e.1 e.2).setFs b l := rfl

/-! Updates of one field. -/

/-! `Chip.setF`. -/

@[simp] theorem Chip.setF_por (c : Chip) (b : Blk) (f : Field) (v : Nat) : (c.setF b f v).por = c.por := rfl
@[simp] theorem Chip.setF_board (c : Chip) (b : Blk) (f : Field) (v : Nat) : (c.setF b f v).board = c.board := rfl
@[simp] theorem Chip.setF_straps (c : Chip) (b : Blk) (f : Field) (v : Nat) : (c.setF b f v).straps = c.straps := rfl
@[simp] theorem Chip.setF_flash (c : Chip) (b : Blk) (f : Field) (v : Nat) : (c.setF b f v).flash = c.flash := rfl
@[simp] theorem Chip.setF_taps (c : Chip) (b : Blk) (f : Field) (v : Nat) : (c.setF b f v).taps = c.taps := rfl
@[simp] theorem Chip.setF_island (c : Chip) (b : Blk) (f : Field) (v : Nat) : (c.setF b f v).island = c.island := rfl
@[simp] theorem Chip.setF_power (c : Chip) (b : Blk) (f : Field) (v : Nat) : (c.setF b f v).power = c.power := rfl
@[simp] theorem Chip.setF_pldm (c : Chip) (b : Blk) (f : Field) (v : Nat) : (c.setF b f v).pldm = c.pldm := rfl
@[simp] theorem Chip.setF_mem (c : Chip) (b : Blk) (f : Field) (v : Nat) : (c.setF b f v).mem = c.mem := rfl
@[simp] theorem Chip.setF_shelves (c : Chip) (b : Blk) (f : Field) (v : Nat) : (c.setF b f v).shelves = c.shelves := rfl
@[simp] theorem Chip.setF_waits (c : Chip) (b : Blk) (f : Field) (v : Nat) : (c.setF b f v).waits = c.waits := rfl
@[simp] theorem Chip.setF_seqs (c : Chip) (b : Blk) (f : Field) (v : Nat) : (c.setF b f v).seqs = c.seqs := rfl
@[simp] theorem Chip.setF_mes (c : Chip) (b : Blk) (f : Field) (v : Nat) : (c.setF b f v).mes = c.mes := rfl
@[simp] theorem Chip.setF_tbs (c : Chip) (b : Blk) (f : Field) (v : Nat) : (c.setF b f v).tbs = c.tbs := rfl
@[simp] theorem Chip.setF_caches (c : Chip) (b : Blk) (f : Field) (v : Nat) : (c.setF b f v).caches = c.caches := rfl
@[simp] theorem Chip.setF_ves (c : Chip) (b : Blk) (f : Field) (v : Nat) : (c.setF b f v).ves = c.ves := rfl
@[simp] theorem Chip.setF_keys (c : Chip) (b : Blk) (f : Field) (v : Nat) : (c.setF b f v).keys = c.keys := rfl
@[simp] theorem Chip.setF_grps (c : Chip) (b : Blk) (f : Field) (v : Nat) : (c.setF b f v).grps = c.grps := rfl
@[simp] theorem Chip.setF_poison (c : Chip) (b : Blk) (f : Field) (v : Nat) : (c.setF b f v).poison = c.poison := rfl
@[simp] theorem Chip.setF_losses (c : Chip) (b : Blk) (f : Field) (v : Nat) : (c.setF b f v).losses = c.losses := rfl
@[simp] theorem Chip.setF_bench (c : Chip) (b : Blk) (f : Field) (v : Nat) : (c.setF b f v).bench = c.bench := rfl
@[simp] theorem Chip.setF_ports (c : Chip) (b : Blk) (f : Field) (v : Nat) : (c.setF b f v).ports = c.ports := rfl
@[simp] theorem Chip.setF_noc (c : Chip) (b : Blk) (f : Field) (v : Nat) : (c.setF b f v).noc = c.noc := rfl
@[simp] theorem Chip.setF_hostFns (c : Chip) (b : Blk) (f : Field) (v : Nat) : (c.setF b f v).hostFns = c.hostFns := rfl
@[simp] theorem Chip.setF_perst (c : Chip) (b : Blk) (f : Field) (v : Nat) : (c.setF b f v).perst = c.perst := rfl
@[simp] theorem Chip.setF_reqs (c : Chip) (b : Blk) (f : Field) (v : Nat) : (c.setF b f v).reqs = c.reqs := rfl
@[simp] theorem Chip.setF_tagCtr (c : Chip) (b : Blk) (f : Field) (v : Nat) : (c.setF b f v).tagCtr = c.tagCtr := rfl
@[simp] theorem Chip.setF_syncTx (c : Chip) (b : Blk) (f : Field) (v : Nat) : (c.setF b f v).syncTx = c.syncTx := rfl
@[simp] theorem Chip.setF_syncRx (c : Chip) (b : Blk) (f : Field) (v : Nat) : (c.setF b f v).syncRx = c.syncRx := rfl
@[simp] theorem Chip.setF_syncHeld (c : Chip) (b : Blk) (f : Field) (v : Nat) : (c.setF b f v).syncHeld = c.syncHeld := rfl
@[simp] theorem Chip.setF_dmas (c : Chip) (b : Blk) (f : Field) (v : Nat) : (c.setF b f v).dmas = c.dmas := rfl
@[simp] theorem Chip.setF_rseqs (c : Chip) (b : Blk) (f : Field) (v : Nat) : (c.setF b f v).rseqs = c.rseqs := rfl
@[simp] theorem Chip.setF_steps (c : Chip) (b : Blk) (f : Field) (v : Nat) : (c.setF b f v).steps = c.steps := rfl
@[simp] theorem Chip.setF_rolled (c : Chip) (b : Blk) (f : Field) (v : Nat) : (c.setF b f v).rolled = c.rolled := rfl
@[simp] theorem Chip.setF_spent (c : Chip) (b : Blk) (f : Field) (v : Nat) : (c.setF b f v).spent = c.spent := rfl
@[simp] theorem Chip.setF_queues (c : Chip) (b : Blk) (f : Field) (v : Nat) : (c.setF b f v).queues = c.queues := rfl
@[simp] theorem Chip.setF_wqLast (c : Chip) (b : Blk) (f : Field) (v : Nat) : (c.setF b f v).wqLast = c.wqLast := rfl
@[simp] theorem Chip.setF_seqCtxs (c : Chip) (b : Blk) (f : Field) (v : Nat) : (c.setF b f v).seqCtxs = c.seqCtxs := rfl
@[simp] theorem Chip.setF_partRuns (c : Chip) (b : Blk) (f : Field) (v : Nat) : (c.setF b f v).partRuns = c.partRuns := rfl
@[simp] theorem Chip.setF_setTurn (c : Chip) (b : Blk) (f : Field) (v : Nat) : (c.setF b f v).setTurn = c.setTurn := rfl
@[simp] theorem Chip.setF_image (c : Chip) (b : Blk) (f : Field) (v : Nat) : (c.setF b f v).image = c.image := rfl
@[simp] theorem Chip.setF_stages (c : Chip) (b : Blk) (f : Field) (v : Nat) : (c.setF b f v).stages = c.stages := rfl
@[simp] theorem Chip.setF_recov (c : Chip) (b : Blk) (f : Field) (v : Nat) : (c.setF b f v).recov = c.recov := rfl
@[simp] theorem Chip.setF_cabGroups (c : Chip) (b : Blk) (f : Field) (v : Nat) : (c.setF b f v).cabGroups = c.cabGroups := rfl
@[simp] theorem Chip.setF_cabSlice (c : Chip) (b : Blk) (f : Field) (v : Nat) : (c.setF b f v).cabSlice = c.cabSlice := rfl
@[simp] theorem Chip.setF_failCtr (c : Chip) (b : Blk) (f : Field) (v : Nat) : (c.setF b f v).failCtr = c.failCtr := rfl
@[simp] theorem Chip.setF_compReset (c : Chip) (b : Blk) (f : Field) (v : Nat) : (c.setF b f v).compReset = c.compReset := rfl
@[simp] theorem Chip.setF_coreFail (c : Chip) (b : Blk) (f : Field) (v : Nat) : (c.setF b f v).coreFail = c.coreFail := rfl
@[simp] theorem Chip.setF_portFail (c : Chip) (b : Blk) (f : Field) (v : Nat) : (c.setF b f v).portFail = c.portFail := rfl
@[simp] theorem Chip.setF_lanesOut (c : Chip) (b : Blk) (f : Field) (v : Nat) : (c.setF b f v).lanesOut = c.lanesOut := rfl
@[simp] theorem Chip.setF_out (c : Chip) (b : Blk) (f : Field) (v : Nat) : (c.setF b f v).out = c.out := rfl
@[simp] theorem Chip.setF_freeCtr (c : Chip) (b : Blk) (f : Field) (v : Nat) : (c.setF b f v).freeCtr = c.freeCtr := rfl

/-! `Chip.setMem`. -/

@[simp] theorem Chip.setMem_por (c : Chip) (m : Mem) : (c.setMem m).por = c.por := rfl
@[simp] theorem Chip.setMem_board (c : Chip) (m : Mem) : (c.setMem m).board = c.board := rfl
@[simp] theorem Chip.setMem_straps (c : Chip) (m : Mem) : (c.setMem m).straps = c.straps := rfl
@[simp] theorem Chip.setMem_flash (c : Chip) (m : Mem) : (c.setMem m).flash = c.flash := rfl
@[simp] theorem Chip.setMem_taps (c : Chip) (m : Mem) : (c.setMem m).taps = c.taps := rfl
@[simp] theorem Chip.setMem_island (c : Chip) (m : Mem) : (c.setMem m).island = c.island := rfl
@[simp] theorem Chip.setMem_power (c : Chip) (m : Mem) : (c.setMem m).power = c.power := rfl
@[simp] theorem Chip.setMem_pldm (c : Chip) (m : Mem) : (c.setMem m).pldm = c.pldm := rfl
@[simp] theorem Chip.setMem_regs (c : Chip) (m : Mem) : (c.setMem m).regs = c.regs := rfl
@[simp] theorem Chip.setMem_shelves (c : Chip) (m : Mem) : (c.setMem m).shelves = c.shelves := rfl
@[simp] theorem Chip.setMem_waits (c : Chip) (m : Mem) : (c.setMem m).waits = c.waits := rfl
@[simp] theorem Chip.setMem_seqs (c : Chip) (m : Mem) : (c.setMem m).seqs = c.seqs := rfl
@[simp] theorem Chip.setMem_mes (c : Chip) (m : Mem) : (c.setMem m).mes = c.mes := rfl
@[simp] theorem Chip.setMem_tbs (c : Chip) (m : Mem) : (c.setMem m).tbs = c.tbs := rfl
@[simp] theorem Chip.setMem_caches (c : Chip) (m : Mem) : (c.setMem m).caches = c.caches := rfl
@[simp] theorem Chip.setMem_ves (c : Chip) (m : Mem) : (c.setMem m).ves = c.ves := rfl
@[simp] theorem Chip.setMem_keys (c : Chip) (m : Mem) : (c.setMem m).keys = c.keys := rfl
@[simp] theorem Chip.setMem_grps (c : Chip) (m : Mem) : (c.setMem m).grps = c.grps := rfl
@[simp] theorem Chip.setMem_poison (c : Chip) (m : Mem) : (c.setMem m).poison = c.poison := rfl
@[simp] theorem Chip.setMem_losses (c : Chip) (m : Mem) : (c.setMem m).losses = c.losses := rfl
@[simp] theorem Chip.setMem_bench (c : Chip) (m : Mem) : (c.setMem m).bench = c.bench := rfl
@[simp] theorem Chip.setMem_ports (c : Chip) (m : Mem) : (c.setMem m).ports = c.ports := rfl
@[simp] theorem Chip.setMem_noc (c : Chip) (m : Mem) : (c.setMem m).noc = c.noc := rfl
@[simp] theorem Chip.setMem_hostFns (c : Chip) (m : Mem) : (c.setMem m).hostFns = c.hostFns := rfl
@[simp] theorem Chip.setMem_perst (c : Chip) (m : Mem) : (c.setMem m).perst = c.perst := rfl
@[simp] theorem Chip.setMem_reqs (c : Chip) (m : Mem) : (c.setMem m).reqs = c.reqs := rfl
@[simp] theorem Chip.setMem_tagCtr (c : Chip) (m : Mem) : (c.setMem m).tagCtr = c.tagCtr := rfl
@[simp] theorem Chip.setMem_syncTx (c : Chip) (m : Mem) : (c.setMem m).syncTx = c.syncTx := rfl
@[simp] theorem Chip.setMem_syncRx (c : Chip) (m : Mem) : (c.setMem m).syncRx = c.syncRx := rfl
@[simp] theorem Chip.setMem_syncHeld (c : Chip) (m : Mem) : (c.setMem m).syncHeld = c.syncHeld := rfl
@[simp] theorem Chip.setMem_dmas (c : Chip) (m : Mem) : (c.setMem m).dmas = c.dmas := rfl
@[simp] theorem Chip.setMem_rseqs (c : Chip) (m : Mem) : (c.setMem m).rseqs = c.rseqs := rfl
@[simp] theorem Chip.setMem_steps (c : Chip) (m : Mem) : (c.setMem m).steps = c.steps := rfl
@[simp] theorem Chip.setMem_rolled (c : Chip) (m : Mem) : (c.setMem m).rolled = c.rolled := rfl
@[simp] theorem Chip.setMem_spent (c : Chip) (m : Mem) : (c.setMem m).spent = c.spent := rfl
@[simp] theorem Chip.setMem_queues (c : Chip) (m : Mem) : (c.setMem m).queues = c.queues := rfl
@[simp] theorem Chip.setMem_wqLast (c : Chip) (m : Mem) : (c.setMem m).wqLast = c.wqLast := rfl
@[simp] theorem Chip.setMem_seqCtxs (c : Chip) (m : Mem) : (c.setMem m).seqCtxs = c.seqCtxs := rfl
@[simp] theorem Chip.setMem_partRuns (c : Chip) (m : Mem) : (c.setMem m).partRuns = c.partRuns := rfl
@[simp] theorem Chip.setMem_setTurn (c : Chip) (m : Mem) : (c.setMem m).setTurn = c.setTurn := rfl
@[simp] theorem Chip.setMem_image (c : Chip) (m : Mem) : (c.setMem m).image = c.image := rfl
@[simp] theorem Chip.setMem_stages (c : Chip) (m : Mem) : (c.setMem m).stages = c.stages := rfl
@[simp] theorem Chip.setMem_recov (c : Chip) (m : Mem) : (c.setMem m).recov = c.recov := rfl
@[simp] theorem Chip.setMem_cabGroups (c : Chip) (m : Mem) : (c.setMem m).cabGroups = c.cabGroups := rfl
@[simp] theorem Chip.setMem_cabSlice (c : Chip) (m : Mem) : (c.setMem m).cabSlice = c.cabSlice := rfl
@[simp] theorem Chip.setMem_failCtr (c : Chip) (m : Mem) : (c.setMem m).failCtr = c.failCtr := rfl
@[simp] theorem Chip.setMem_compReset (c : Chip) (m : Mem) : (c.setMem m).compReset = c.compReset := rfl
@[simp] theorem Chip.setMem_coreFail (c : Chip) (m : Mem) : (c.setMem m).coreFail = c.coreFail := rfl
@[simp] theorem Chip.setMem_portFail (c : Chip) (m : Mem) : (c.setMem m).portFail = c.portFail := rfl
@[simp] theorem Chip.setMem_lanesOut (c : Chip) (m : Mem) : (c.setMem m).lanesOut = c.lanesOut := rfl
@[simp] theorem Chip.setMem_out (c : Chip) (m : Mem) : (c.setMem m).out = c.out := rfl
@[simp] theorem Chip.setMem_freeCtr (c : Chip) (m : Mem) : (c.setMem m).freeCtr = c.freeCtr := rfl
@[simp] theorem Chip.setMem_getF (c : Chip) (m : Mem) (b : Blk) (f : Field) : (c.setMem m).getF b f = c.getF b f := rfl

/-! `Chip.tick`. -/

@[simp] theorem Chip.tick_por (c : Chip) : (c.tick).por = c.por := rfl
@[simp] theorem Chip.tick_board (c : Chip) : (c.tick).board = c.board := rfl
@[simp] theorem Chip.tick_straps (c : Chip) : (c.tick).straps = c.straps := rfl
@[simp] theorem Chip.tick_flash (c : Chip) : (c.tick).flash = c.flash := rfl
@[simp] theorem Chip.tick_taps (c : Chip) : (c.tick).taps = c.taps := rfl
@[simp] theorem Chip.tick_island (c : Chip) : (c.tick).island = c.island := rfl
@[simp] theorem Chip.tick_power (c : Chip) : (c.tick).power = c.power := rfl
@[simp] theorem Chip.tick_pldm (c : Chip) : (c.tick).pldm = c.pldm := rfl
@[simp] theorem Chip.tick_regs (c : Chip) : (c.tick).regs = c.regs := rfl
@[simp] theorem Chip.tick_mem (c : Chip) : (c.tick).mem = c.mem := rfl
@[simp] theorem Chip.tick_shelves (c : Chip) : (c.tick).shelves = c.shelves := rfl
@[simp] theorem Chip.tick_waits (c : Chip) : (c.tick).waits = c.waits := rfl
@[simp] theorem Chip.tick_seqs (c : Chip) : (c.tick).seqs = c.seqs := rfl
@[simp] theorem Chip.tick_mes (c : Chip) : (c.tick).mes = c.mes := rfl
@[simp] theorem Chip.tick_tbs (c : Chip) : (c.tick).tbs = c.tbs := rfl
@[simp] theorem Chip.tick_caches (c : Chip) : (c.tick).caches = c.caches := rfl
@[simp] theorem Chip.tick_ves (c : Chip) : (c.tick).ves = c.ves := rfl
@[simp] theorem Chip.tick_keys (c : Chip) : (c.tick).keys = c.keys := rfl
@[simp] theorem Chip.tick_grps (c : Chip) : (c.tick).grps = c.grps := rfl
@[simp] theorem Chip.tick_poison (c : Chip) : (c.tick).poison = c.poison := rfl
@[simp] theorem Chip.tick_losses (c : Chip) : (c.tick).losses = c.losses := rfl
@[simp] theorem Chip.tick_bench (c : Chip) : (c.tick).bench = c.bench := rfl
@[simp] theorem Chip.tick_ports (c : Chip) : (c.tick).ports = c.ports := rfl
@[simp] theorem Chip.tick_noc (c : Chip) : (c.tick).noc = c.noc := rfl
@[simp] theorem Chip.tick_hostFns (c : Chip) : (c.tick).hostFns = c.hostFns := rfl
@[simp] theorem Chip.tick_perst (c : Chip) : (c.tick).perst = c.perst := rfl
@[simp] theorem Chip.tick_reqs (c : Chip) : (c.tick).reqs = c.reqs := rfl
@[simp] theorem Chip.tick_tagCtr (c : Chip) : (c.tick).tagCtr = c.tagCtr := rfl
@[simp] theorem Chip.tick_syncTx (c : Chip) : (c.tick).syncTx = c.syncTx := rfl
@[simp] theorem Chip.tick_syncRx (c : Chip) : (c.tick).syncRx = c.syncRx := rfl
@[simp] theorem Chip.tick_syncHeld (c : Chip) : (c.tick).syncHeld = c.syncHeld := rfl
@[simp] theorem Chip.tick_dmas (c : Chip) : (c.tick).dmas = c.dmas := rfl
@[simp] theorem Chip.tick_rseqs (c : Chip) : (c.tick).rseqs = c.rseqs := rfl
@[simp] theorem Chip.tick_steps (c : Chip) : (c.tick).steps = c.steps := rfl
@[simp] theorem Chip.tick_rolled (c : Chip) : (c.tick).rolled = c.rolled := rfl
@[simp] theorem Chip.tick_spent (c : Chip) : (c.tick).spent = c.spent := rfl
@[simp] theorem Chip.tick_queues (c : Chip) : (c.tick).queues = c.queues := rfl
@[simp] theorem Chip.tick_wqLast (c : Chip) : (c.tick).wqLast = c.wqLast := rfl
@[simp] theorem Chip.tick_seqCtxs (c : Chip) : (c.tick).seqCtxs = c.seqCtxs := rfl
@[simp] theorem Chip.tick_partRuns (c : Chip) : (c.tick).partRuns = c.partRuns := rfl
@[simp] theorem Chip.tick_setTurn (c : Chip) : (c.tick).setTurn = c.setTurn := rfl
@[simp] theorem Chip.tick_image (c : Chip) : (c.tick).image = c.image := rfl
@[simp] theorem Chip.tick_stages (c : Chip) : (c.tick).stages = c.stages := rfl
@[simp] theorem Chip.tick_recov (c : Chip) : (c.tick).recov = c.recov := rfl
@[simp] theorem Chip.tick_cabGroups (c : Chip) : (c.tick).cabGroups = c.cabGroups := rfl
@[simp] theorem Chip.tick_cabSlice (c : Chip) : (c.tick).cabSlice = c.cabSlice := rfl
@[simp] theorem Chip.tick_failCtr (c : Chip) : (c.tick).failCtr = c.failCtr := rfl
@[simp] theorem Chip.tick_compReset (c : Chip) : (c.tick).compReset = c.compReset := rfl
@[simp] theorem Chip.tick_coreFail (c : Chip) : (c.tick).coreFail = c.coreFail := rfl
@[simp] theorem Chip.tick_portFail (c : Chip) : (c.tick).portFail = c.portFail := rfl
@[simp] theorem Chip.tick_lanesOut (c : Chip) : (c.tick).lanesOut = c.lanesOut := rfl
@[simp] theorem Chip.tick_out (c : Chip) : (c.tick).out = c.out := rfl
@[simp] theorem Chip.tick_getF (c : Chip) (b : Blk) (f : Field) : (c.tick).getF b f = c.getF b f := rfl

/-! `Chip.setSeq`. -/

@[simp] theorem Chip.setSeq_por (c : Chip) (cl k : Nat) (q : CoreSeq) : (c.setSeq cl k q).por = c.por := rfl
@[simp] theorem Chip.setSeq_board (c : Chip) (cl k : Nat) (q : CoreSeq) : (c.setSeq cl k q).board = c.board := rfl
@[simp] theorem Chip.setSeq_straps (c : Chip) (cl k : Nat) (q : CoreSeq) : (c.setSeq cl k q).straps = c.straps := rfl
@[simp] theorem Chip.setSeq_flash (c : Chip) (cl k : Nat) (q : CoreSeq) : (c.setSeq cl k q).flash = c.flash := rfl
@[simp] theorem Chip.setSeq_taps (c : Chip) (cl k : Nat) (q : CoreSeq) : (c.setSeq cl k q).taps = c.taps := rfl
@[simp] theorem Chip.setSeq_island (c : Chip) (cl k : Nat) (q : CoreSeq) : (c.setSeq cl k q).island = c.island := rfl
@[simp] theorem Chip.setSeq_power (c : Chip) (cl k : Nat) (q : CoreSeq) : (c.setSeq cl k q).power = c.power := rfl
@[simp] theorem Chip.setSeq_pldm (c : Chip) (cl k : Nat) (q : CoreSeq) : (c.setSeq cl k q).pldm = c.pldm := rfl
@[simp] theorem Chip.setSeq_regs (c : Chip) (cl k : Nat) (q : CoreSeq) : (c.setSeq cl k q).regs = c.regs := rfl
@[simp] theorem Chip.setSeq_mem (c : Chip) (cl k : Nat) (q : CoreSeq) : (c.setSeq cl k q).mem = c.mem := rfl
@[simp] theorem Chip.setSeq_shelves (c : Chip) (cl k : Nat) (q : CoreSeq) : (c.setSeq cl k q).shelves = c.shelves := rfl
@[simp] theorem Chip.setSeq_waits (c : Chip) (cl k : Nat) (q : CoreSeq) : (c.setSeq cl k q).waits = c.waits := rfl
@[simp] theorem Chip.setSeq_mes (c : Chip) (cl k : Nat) (q : CoreSeq) : (c.setSeq cl k q).mes = c.mes := rfl
@[simp] theorem Chip.setSeq_tbs (c : Chip) (cl k : Nat) (q : CoreSeq) : (c.setSeq cl k q).tbs = c.tbs := rfl
@[simp] theorem Chip.setSeq_caches (c : Chip) (cl k : Nat) (q : CoreSeq) : (c.setSeq cl k q).caches = c.caches := rfl
@[simp] theorem Chip.setSeq_ves (c : Chip) (cl k : Nat) (q : CoreSeq) : (c.setSeq cl k q).ves = c.ves := rfl
@[simp] theorem Chip.setSeq_keys (c : Chip) (cl k : Nat) (q : CoreSeq) : (c.setSeq cl k q).keys = c.keys := rfl
@[simp] theorem Chip.setSeq_grps (c : Chip) (cl k : Nat) (q : CoreSeq) : (c.setSeq cl k q).grps = c.grps := rfl
@[simp] theorem Chip.setSeq_poison (c : Chip) (cl k : Nat) (q : CoreSeq) : (c.setSeq cl k q).poison = c.poison := rfl
@[simp] theorem Chip.setSeq_losses (c : Chip) (cl k : Nat) (q : CoreSeq) : (c.setSeq cl k q).losses = c.losses := rfl
@[simp] theorem Chip.setSeq_bench (c : Chip) (cl k : Nat) (q : CoreSeq) : (c.setSeq cl k q).bench = c.bench := rfl
@[simp] theorem Chip.setSeq_ports (c : Chip) (cl k : Nat) (q : CoreSeq) : (c.setSeq cl k q).ports = c.ports := rfl
@[simp] theorem Chip.setSeq_noc (c : Chip) (cl k : Nat) (q : CoreSeq) : (c.setSeq cl k q).noc = c.noc := rfl
@[simp] theorem Chip.setSeq_hostFns (c : Chip) (cl k : Nat) (q : CoreSeq) : (c.setSeq cl k q).hostFns = c.hostFns := rfl
@[simp] theorem Chip.setSeq_perst (c : Chip) (cl k : Nat) (q : CoreSeq) : (c.setSeq cl k q).perst = c.perst := rfl
@[simp] theorem Chip.setSeq_reqs (c : Chip) (cl k : Nat) (q : CoreSeq) : (c.setSeq cl k q).reqs = c.reqs := rfl
@[simp] theorem Chip.setSeq_tagCtr (c : Chip) (cl k : Nat) (q : CoreSeq) : (c.setSeq cl k q).tagCtr = c.tagCtr := rfl
@[simp] theorem Chip.setSeq_syncTx (c : Chip) (cl k : Nat) (q : CoreSeq) : (c.setSeq cl k q).syncTx = c.syncTx := rfl
@[simp] theorem Chip.setSeq_syncRx (c : Chip) (cl k : Nat) (q : CoreSeq) : (c.setSeq cl k q).syncRx = c.syncRx := rfl
@[simp] theorem Chip.setSeq_syncHeld (c : Chip) (cl k : Nat) (q : CoreSeq) : (c.setSeq cl k q).syncHeld = c.syncHeld := rfl
@[simp] theorem Chip.setSeq_dmas (c : Chip) (cl k : Nat) (q : CoreSeq) : (c.setSeq cl k q).dmas = c.dmas := rfl
@[simp] theorem Chip.setSeq_rseqs (c : Chip) (cl k : Nat) (q : CoreSeq) : (c.setSeq cl k q).rseqs = c.rseqs := rfl
@[simp] theorem Chip.setSeq_steps (c : Chip) (cl k : Nat) (q : CoreSeq) : (c.setSeq cl k q).steps = c.steps := rfl
@[simp] theorem Chip.setSeq_rolled (c : Chip) (cl k : Nat) (q : CoreSeq) : (c.setSeq cl k q).rolled = c.rolled := rfl
@[simp] theorem Chip.setSeq_spent (c : Chip) (cl k : Nat) (q : CoreSeq) : (c.setSeq cl k q).spent = c.spent := rfl
@[simp] theorem Chip.setSeq_queues (c : Chip) (cl k : Nat) (q : CoreSeq) : (c.setSeq cl k q).queues = c.queues := rfl
@[simp] theorem Chip.setSeq_wqLast (c : Chip) (cl k : Nat) (q : CoreSeq) : (c.setSeq cl k q).wqLast = c.wqLast := rfl
@[simp] theorem Chip.setSeq_seqCtxs (c : Chip) (cl k : Nat) (q : CoreSeq) : (c.setSeq cl k q).seqCtxs = c.seqCtxs := rfl
@[simp] theorem Chip.setSeq_partRuns (c : Chip) (cl k : Nat) (q : CoreSeq) : (c.setSeq cl k q).partRuns = c.partRuns := rfl
@[simp] theorem Chip.setSeq_setTurn (c : Chip) (cl k : Nat) (q : CoreSeq) : (c.setSeq cl k q).setTurn = c.setTurn := rfl
@[simp] theorem Chip.setSeq_image (c : Chip) (cl k : Nat) (q : CoreSeq) : (c.setSeq cl k q).image = c.image := rfl
@[simp] theorem Chip.setSeq_stages (c : Chip) (cl k : Nat) (q : CoreSeq) : (c.setSeq cl k q).stages = c.stages := rfl
@[simp] theorem Chip.setSeq_recov (c : Chip) (cl k : Nat) (q : CoreSeq) : (c.setSeq cl k q).recov = c.recov := rfl
@[simp] theorem Chip.setSeq_cabGroups (c : Chip) (cl k : Nat) (q : CoreSeq) : (c.setSeq cl k q).cabGroups = c.cabGroups := rfl
@[simp] theorem Chip.setSeq_cabSlice (c : Chip) (cl k : Nat) (q : CoreSeq) : (c.setSeq cl k q).cabSlice = c.cabSlice := rfl
@[simp] theorem Chip.setSeq_failCtr (c : Chip) (cl k : Nat) (q : CoreSeq) : (c.setSeq cl k q).failCtr = c.failCtr := rfl
@[simp] theorem Chip.setSeq_compReset (c : Chip) (cl k : Nat) (q : CoreSeq) : (c.setSeq cl k q).compReset = c.compReset := rfl
@[simp] theorem Chip.setSeq_coreFail (c : Chip) (cl k : Nat) (q : CoreSeq) : (c.setSeq cl k q).coreFail = c.coreFail := rfl
@[simp] theorem Chip.setSeq_portFail (c : Chip) (cl k : Nat) (q : CoreSeq) : (c.setSeq cl k q).portFail = c.portFail := rfl
@[simp] theorem Chip.setSeq_lanesOut (c : Chip) (cl k : Nat) (q : CoreSeq) : (c.setSeq cl k q).lanesOut = c.lanesOut := rfl
@[simp] theorem Chip.setSeq_out (c : Chip) (cl k : Nat) (q : CoreSeq) : (c.setSeq cl k q).out = c.out := rfl
@[simp] theorem Chip.setSeq_freeCtr (c : Chip) (cl k : Nat) (q : CoreSeq) : (c.setSeq cl k q).freeCtr = c.freeCtr := rfl
@[simp] theorem Chip.setSeq_getF (c : Chip) (cl k : Nat) (q : CoreSeq) (b : Blk) (f : Field) : (c.setSeq cl k q).getF b f = c.getF b f := rfl

/-! `Chip.setMe`. -/

@[simp] theorem Chip.setMe_por (c : Chip) (cl k : Nat) (q : Me) : (c.setMe cl k q).por = c.por := rfl
@[simp] theorem Chip.setMe_board (c : Chip) (cl k : Nat) (q : Me) : (c.setMe cl k q).board = c.board := rfl
@[simp] theorem Chip.setMe_straps (c : Chip) (cl k : Nat) (q : Me) : (c.setMe cl k q).straps = c.straps := rfl
@[simp] theorem Chip.setMe_flash (c : Chip) (cl k : Nat) (q : Me) : (c.setMe cl k q).flash = c.flash := rfl
@[simp] theorem Chip.setMe_taps (c : Chip) (cl k : Nat) (q : Me) : (c.setMe cl k q).taps = c.taps := rfl
@[simp] theorem Chip.setMe_island (c : Chip) (cl k : Nat) (q : Me) : (c.setMe cl k q).island = c.island := rfl
@[simp] theorem Chip.setMe_power (c : Chip) (cl k : Nat) (q : Me) : (c.setMe cl k q).power = c.power := rfl
@[simp] theorem Chip.setMe_pldm (c : Chip) (cl k : Nat) (q : Me) : (c.setMe cl k q).pldm = c.pldm := rfl
@[simp] theorem Chip.setMe_regs (c : Chip) (cl k : Nat) (q : Me) : (c.setMe cl k q).regs = c.regs := rfl
@[simp] theorem Chip.setMe_mem (c : Chip) (cl k : Nat) (q : Me) : (c.setMe cl k q).mem = c.mem := rfl
@[simp] theorem Chip.setMe_shelves (c : Chip) (cl k : Nat) (q : Me) : (c.setMe cl k q).shelves = c.shelves := rfl
@[simp] theorem Chip.setMe_waits (c : Chip) (cl k : Nat) (q : Me) : (c.setMe cl k q).waits = c.waits := rfl
@[simp] theorem Chip.setMe_seqs (c : Chip) (cl k : Nat) (q : Me) : (c.setMe cl k q).seqs = c.seqs := rfl
@[simp] theorem Chip.setMe_tbs (c : Chip) (cl k : Nat) (q : Me) : (c.setMe cl k q).tbs = c.tbs := rfl
@[simp] theorem Chip.setMe_caches (c : Chip) (cl k : Nat) (q : Me) : (c.setMe cl k q).caches = c.caches := rfl
@[simp] theorem Chip.setMe_ves (c : Chip) (cl k : Nat) (q : Me) : (c.setMe cl k q).ves = c.ves := rfl
@[simp] theorem Chip.setMe_keys (c : Chip) (cl k : Nat) (q : Me) : (c.setMe cl k q).keys = c.keys := rfl
@[simp] theorem Chip.setMe_grps (c : Chip) (cl k : Nat) (q : Me) : (c.setMe cl k q).grps = c.grps := rfl
@[simp] theorem Chip.setMe_poison (c : Chip) (cl k : Nat) (q : Me) : (c.setMe cl k q).poison = c.poison := rfl
@[simp] theorem Chip.setMe_losses (c : Chip) (cl k : Nat) (q : Me) : (c.setMe cl k q).losses = c.losses := rfl
@[simp] theorem Chip.setMe_bench (c : Chip) (cl k : Nat) (q : Me) : (c.setMe cl k q).bench = c.bench := rfl
@[simp] theorem Chip.setMe_ports (c : Chip) (cl k : Nat) (q : Me) : (c.setMe cl k q).ports = c.ports := rfl
@[simp] theorem Chip.setMe_noc (c : Chip) (cl k : Nat) (q : Me) : (c.setMe cl k q).noc = c.noc := rfl
@[simp] theorem Chip.setMe_hostFns (c : Chip) (cl k : Nat) (q : Me) : (c.setMe cl k q).hostFns = c.hostFns := rfl
@[simp] theorem Chip.setMe_perst (c : Chip) (cl k : Nat) (q : Me) : (c.setMe cl k q).perst = c.perst := rfl
@[simp] theorem Chip.setMe_reqs (c : Chip) (cl k : Nat) (q : Me) : (c.setMe cl k q).reqs = c.reqs := rfl
@[simp] theorem Chip.setMe_tagCtr (c : Chip) (cl k : Nat) (q : Me) : (c.setMe cl k q).tagCtr = c.tagCtr := rfl
@[simp] theorem Chip.setMe_syncTx (c : Chip) (cl k : Nat) (q : Me) : (c.setMe cl k q).syncTx = c.syncTx := rfl
@[simp] theorem Chip.setMe_syncRx (c : Chip) (cl k : Nat) (q : Me) : (c.setMe cl k q).syncRx = c.syncRx := rfl
@[simp] theorem Chip.setMe_syncHeld (c : Chip) (cl k : Nat) (q : Me) : (c.setMe cl k q).syncHeld = c.syncHeld := rfl
@[simp] theorem Chip.setMe_dmas (c : Chip) (cl k : Nat) (q : Me) : (c.setMe cl k q).dmas = c.dmas := rfl
@[simp] theorem Chip.setMe_rseqs (c : Chip) (cl k : Nat) (q : Me) : (c.setMe cl k q).rseqs = c.rseqs := rfl
@[simp] theorem Chip.setMe_steps (c : Chip) (cl k : Nat) (q : Me) : (c.setMe cl k q).steps = c.steps := rfl
@[simp] theorem Chip.setMe_rolled (c : Chip) (cl k : Nat) (q : Me) : (c.setMe cl k q).rolled = c.rolled := rfl
@[simp] theorem Chip.setMe_spent (c : Chip) (cl k : Nat) (q : Me) : (c.setMe cl k q).spent = c.spent := rfl
@[simp] theorem Chip.setMe_queues (c : Chip) (cl k : Nat) (q : Me) : (c.setMe cl k q).queues = c.queues := rfl
@[simp] theorem Chip.setMe_wqLast (c : Chip) (cl k : Nat) (q : Me) : (c.setMe cl k q).wqLast = c.wqLast := rfl
@[simp] theorem Chip.setMe_seqCtxs (c : Chip) (cl k : Nat) (q : Me) : (c.setMe cl k q).seqCtxs = c.seqCtxs := rfl
@[simp] theorem Chip.setMe_partRuns (c : Chip) (cl k : Nat) (q : Me) : (c.setMe cl k q).partRuns = c.partRuns := rfl
@[simp] theorem Chip.setMe_setTurn (c : Chip) (cl k : Nat) (q : Me) : (c.setMe cl k q).setTurn = c.setTurn := rfl
@[simp] theorem Chip.setMe_image (c : Chip) (cl k : Nat) (q : Me) : (c.setMe cl k q).image = c.image := rfl
@[simp] theorem Chip.setMe_stages (c : Chip) (cl k : Nat) (q : Me) : (c.setMe cl k q).stages = c.stages := rfl
@[simp] theorem Chip.setMe_recov (c : Chip) (cl k : Nat) (q : Me) : (c.setMe cl k q).recov = c.recov := rfl
@[simp] theorem Chip.setMe_cabGroups (c : Chip) (cl k : Nat) (q : Me) : (c.setMe cl k q).cabGroups = c.cabGroups := rfl
@[simp] theorem Chip.setMe_cabSlice (c : Chip) (cl k : Nat) (q : Me) : (c.setMe cl k q).cabSlice = c.cabSlice := rfl
@[simp] theorem Chip.setMe_failCtr (c : Chip) (cl k : Nat) (q : Me) : (c.setMe cl k q).failCtr = c.failCtr := rfl
@[simp] theorem Chip.setMe_compReset (c : Chip) (cl k : Nat) (q : Me) : (c.setMe cl k q).compReset = c.compReset := rfl
@[simp] theorem Chip.setMe_coreFail (c : Chip) (cl k : Nat) (q : Me) : (c.setMe cl k q).coreFail = c.coreFail := rfl
@[simp] theorem Chip.setMe_portFail (c : Chip) (cl k : Nat) (q : Me) : (c.setMe cl k q).portFail = c.portFail := rfl
@[simp] theorem Chip.setMe_lanesOut (c : Chip) (cl k : Nat) (q : Me) : (c.setMe cl k q).lanesOut = c.lanesOut := rfl
@[simp] theorem Chip.setMe_out (c : Chip) (cl k : Nat) (q : Me) : (c.setMe cl k q).out = c.out := rfl
@[simp] theorem Chip.setMe_freeCtr (c : Chip) (cl k : Nat) (q : Me) : (c.setMe cl k q).freeCtr = c.freeCtr := rfl
@[simp] theorem Chip.setMe_getF (c : Chip) (cl k : Nat) (q : Me) (b : Blk) (f : Field) : (c.setMe cl k q).getF b f = c.getF b f := rfl

/-! `Chip.setTb`. -/

@[simp] theorem Chip.setTb_por (c : Chip) (cl k : Nat) (q : Tb) : (c.setTb cl k q).por = c.por := rfl
@[simp] theorem Chip.setTb_board (c : Chip) (cl k : Nat) (q : Tb) : (c.setTb cl k q).board = c.board := rfl
@[simp] theorem Chip.setTb_straps (c : Chip) (cl k : Nat) (q : Tb) : (c.setTb cl k q).straps = c.straps := rfl
@[simp] theorem Chip.setTb_flash (c : Chip) (cl k : Nat) (q : Tb) : (c.setTb cl k q).flash = c.flash := rfl
@[simp] theorem Chip.setTb_taps (c : Chip) (cl k : Nat) (q : Tb) : (c.setTb cl k q).taps = c.taps := rfl
@[simp] theorem Chip.setTb_island (c : Chip) (cl k : Nat) (q : Tb) : (c.setTb cl k q).island = c.island := rfl
@[simp] theorem Chip.setTb_power (c : Chip) (cl k : Nat) (q : Tb) : (c.setTb cl k q).power = c.power := rfl
@[simp] theorem Chip.setTb_pldm (c : Chip) (cl k : Nat) (q : Tb) : (c.setTb cl k q).pldm = c.pldm := rfl
@[simp] theorem Chip.setTb_regs (c : Chip) (cl k : Nat) (q : Tb) : (c.setTb cl k q).regs = c.regs := rfl
@[simp] theorem Chip.setTb_mem (c : Chip) (cl k : Nat) (q : Tb) : (c.setTb cl k q).mem = c.mem := rfl
@[simp] theorem Chip.setTb_shelves (c : Chip) (cl k : Nat) (q : Tb) : (c.setTb cl k q).shelves = c.shelves := rfl
@[simp] theorem Chip.setTb_waits (c : Chip) (cl k : Nat) (q : Tb) : (c.setTb cl k q).waits = c.waits := rfl
@[simp] theorem Chip.setTb_seqs (c : Chip) (cl k : Nat) (q : Tb) : (c.setTb cl k q).seqs = c.seqs := rfl
@[simp] theorem Chip.setTb_mes (c : Chip) (cl k : Nat) (q : Tb) : (c.setTb cl k q).mes = c.mes := rfl
@[simp] theorem Chip.setTb_caches (c : Chip) (cl k : Nat) (q : Tb) : (c.setTb cl k q).caches = c.caches := rfl
@[simp] theorem Chip.setTb_ves (c : Chip) (cl k : Nat) (q : Tb) : (c.setTb cl k q).ves = c.ves := rfl
@[simp] theorem Chip.setTb_keys (c : Chip) (cl k : Nat) (q : Tb) : (c.setTb cl k q).keys = c.keys := rfl
@[simp] theorem Chip.setTb_grps (c : Chip) (cl k : Nat) (q : Tb) : (c.setTb cl k q).grps = c.grps := rfl
@[simp] theorem Chip.setTb_poison (c : Chip) (cl k : Nat) (q : Tb) : (c.setTb cl k q).poison = c.poison := rfl
@[simp] theorem Chip.setTb_losses (c : Chip) (cl k : Nat) (q : Tb) : (c.setTb cl k q).losses = c.losses := rfl
@[simp] theorem Chip.setTb_bench (c : Chip) (cl k : Nat) (q : Tb) : (c.setTb cl k q).bench = c.bench := rfl
@[simp] theorem Chip.setTb_ports (c : Chip) (cl k : Nat) (q : Tb) : (c.setTb cl k q).ports = c.ports := rfl
@[simp] theorem Chip.setTb_noc (c : Chip) (cl k : Nat) (q : Tb) : (c.setTb cl k q).noc = c.noc := rfl
@[simp] theorem Chip.setTb_hostFns (c : Chip) (cl k : Nat) (q : Tb) : (c.setTb cl k q).hostFns = c.hostFns := rfl
@[simp] theorem Chip.setTb_perst (c : Chip) (cl k : Nat) (q : Tb) : (c.setTb cl k q).perst = c.perst := rfl
@[simp] theorem Chip.setTb_reqs (c : Chip) (cl k : Nat) (q : Tb) : (c.setTb cl k q).reqs = c.reqs := rfl
@[simp] theorem Chip.setTb_tagCtr (c : Chip) (cl k : Nat) (q : Tb) : (c.setTb cl k q).tagCtr = c.tagCtr := rfl
@[simp] theorem Chip.setTb_syncTx (c : Chip) (cl k : Nat) (q : Tb) : (c.setTb cl k q).syncTx = c.syncTx := rfl
@[simp] theorem Chip.setTb_syncRx (c : Chip) (cl k : Nat) (q : Tb) : (c.setTb cl k q).syncRx = c.syncRx := rfl
@[simp] theorem Chip.setTb_syncHeld (c : Chip) (cl k : Nat) (q : Tb) : (c.setTb cl k q).syncHeld = c.syncHeld := rfl
@[simp] theorem Chip.setTb_dmas (c : Chip) (cl k : Nat) (q : Tb) : (c.setTb cl k q).dmas = c.dmas := rfl
@[simp] theorem Chip.setTb_rseqs (c : Chip) (cl k : Nat) (q : Tb) : (c.setTb cl k q).rseqs = c.rseqs := rfl
@[simp] theorem Chip.setTb_steps (c : Chip) (cl k : Nat) (q : Tb) : (c.setTb cl k q).steps = c.steps := rfl
@[simp] theorem Chip.setTb_rolled (c : Chip) (cl k : Nat) (q : Tb) : (c.setTb cl k q).rolled = c.rolled := rfl
@[simp] theorem Chip.setTb_spent (c : Chip) (cl k : Nat) (q : Tb) : (c.setTb cl k q).spent = c.spent := rfl
@[simp] theorem Chip.setTb_queues (c : Chip) (cl k : Nat) (q : Tb) : (c.setTb cl k q).queues = c.queues := rfl
@[simp] theorem Chip.setTb_wqLast (c : Chip) (cl k : Nat) (q : Tb) : (c.setTb cl k q).wqLast = c.wqLast := rfl
@[simp] theorem Chip.setTb_seqCtxs (c : Chip) (cl k : Nat) (q : Tb) : (c.setTb cl k q).seqCtxs = c.seqCtxs := rfl
@[simp] theorem Chip.setTb_partRuns (c : Chip) (cl k : Nat) (q : Tb) : (c.setTb cl k q).partRuns = c.partRuns := rfl
@[simp] theorem Chip.setTb_setTurn (c : Chip) (cl k : Nat) (q : Tb) : (c.setTb cl k q).setTurn = c.setTurn := rfl
@[simp] theorem Chip.setTb_image (c : Chip) (cl k : Nat) (q : Tb) : (c.setTb cl k q).image = c.image := rfl
@[simp] theorem Chip.setTb_stages (c : Chip) (cl k : Nat) (q : Tb) : (c.setTb cl k q).stages = c.stages := rfl
@[simp] theorem Chip.setTb_recov (c : Chip) (cl k : Nat) (q : Tb) : (c.setTb cl k q).recov = c.recov := rfl
@[simp] theorem Chip.setTb_cabGroups (c : Chip) (cl k : Nat) (q : Tb) : (c.setTb cl k q).cabGroups = c.cabGroups := rfl
@[simp] theorem Chip.setTb_cabSlice (c : Chip) (cl k : Nat) (q : Tb) : (c.setTb cl k q).cabSlice = c.cabSlice := rfl
@[simp] theorem Chip.setTb_failCtr (c : Chip) (cl k : Nat) (q : Tb) : (c.setTb cl k q).failCtr = c.failCtr := rfl
@[simp] theorem Chip.setTb_compReset (c : Chip) (cl k : Nat) (q : Tb) : (c.setTb cl k q).compReset = c.compReset := rfl
@[simp] theorem Chip.setTb_coreFail (c : Chip) (cl k : Nat) (q : Tb) : (c.setTb cl k q).coreFail = c.coreFail := rfl
@[simp] theorem Chip.setTb_portFail (c : Chip) (cl k : Nat) (q : Tb) : (c.setTb cl k q).portFail = c.portFail := rfl
@[simp] theorem Chip.setTb_lanesOut (c : Chip) (cl k : Nat) (q : Tb) : (c.setTb cl k q).lanesOut = c.lanesOut := rfl
@[simp] theorem Chip.setTb_out (c : Chip) (cl k : Nat) (q : Tb) : (c.setTb cl k q).out = c.out := rfl
@[simp] theorem Chip.setTb_freeCtr (c : Chip) (cl k : Nat) (q : Tb) : (c.setTb cl k q).freeCtr = c.freeCtr := rfl
@[simp] theorem Chip.setTb_getF (c : Chip) (cl k : Nat) (q : Tb) (b : Blk) (f : Field) : (c.setTb cl k q).getF b f = c.getF b f := rfl

/-! `Chip.setCache`. -/

@[simp] theorem Chip.setCache_por (c : Chip) (cl k : Nat) (q : Cache) : (c.setCache cl k q).por = c.por := rfl
@[simp] theorem Chip.setCache_board (c : Chip) (cl k : Nat) (q : Cache) : (c.setCache cl k q).board = c.board := rfl
@[simp] theorem Chip.setCache_straps (c : Chip) (cl k : Nat) (q : Cache) : (c.setCache cl k q).straps = c.straps := rfl
@[simp] theorem Chip.setCache_flash (c : Chip) (cl k : Nat) (q : Cache) : (c.setCache cl k q).flash = c.flash := rfl
@[simp] theorem Chip.setCache_taps (c : Chip) (cl k : Nat) (q : Cache) : (c.setCache cl k q).taps = c.taps := rfl
@[simp] theorem Chip.setCache_island (c : Chip) (cl k : Nat) (q : Cache) : (c.setCache cl k q).island = c.island := rfl
@[simp] theorem Chip.setCache_power (c : Chip) (cl k : Nat) (q : Cache) : (c.setCache cl k q).power = c.power := rfl
@[simp] theorem Chip.setCache_pldm (c : Chip) (cl k : Nat) (q : Cache) : (c.setCache cl k q).pldm = c.pldm := rfl
@[simp] theorem Chip.setCache_regs (c : Chip) (cl k : Nat) (q : Cache) : (c.setCache cl k q).regs = c.regs := rfl
@[simp] theorem Chip.setCache_mem (c : Chip) (cl k : Nat) (q : Cache) : (c.setCache cl k q).mem = c.mem := rfl
@[simp] theorem Chip.setCache_shelves (c : Chip) (cl k : Nat) (q : Cache) : (c.setCache cl k q).shelves = c.shelves := rfl
@[simp] theorem Chip.setCache_waits (c : Chip) (cl k : Nat) (q : Cache) : (c.setCache cl k q).waits = c.waits := rfl
@[simp] theorem Chip.setCache_seqs (c : Chip) (cl k : Nat) (q : Cache) : (c.setCache cl k q).seqs = c.seqs := rfl
@[simp] theorem Chip.setCache_mes (c : Chip) (cl k : Nat) (q : Cache) : (c.setCache cl k q).mes = c.mes := rfl
@[simp] theorem Chip.setCache_tbs (c : Chip) (cl k : Nat) (q : Cache) : (c.setCache cl k q).tbs = c.tbs := rfl
@[simp] theorem Chip.setCache_ves (c : Chip) (cl k : Nat) (q : Cache) : (c.setCache cl k q).ves = c.ves := rfl
@[simp] theorem Chip.setCache_keys (c : Chip) (cl k : Nat) (q : Cache) : (c.setCache cl k q).keys = c.keys := rfl
@[simp] theorem Chip.setCache_grps (c : Chip) (cl k : Nat) (q : Cache) : (c.setCache cl k q).grps = c.grps := rfl
@[simp] theorem Chip.setCache_poison (c : Chip) (cl k : Nat) (q : Cache) : (c.setCache cl k q).poison = c.poison := rfl
@[simp] theorem Chip.setCache_losses (c : Chip) (cl k : Nat) (q : Cache) : (c.setCache cl k q).losses = c.losses := rfl
@[simp] theorem Chip.setCache_bench (c : Chip) (cl k : Nat) (q : Cache) : (c.setCache cl k q).bench = c.bench := rfl
@[simp] theorem Chip.setCache_ports (c : Chip) (cl k : Nat) (q : Cache) : (c.setCache cl k q).ports = c.ports := rfl
@[simp] theorem Chip.setCache_noc (c : Chip) (cl k : Nat) (q : Cache) : (c.setCache cl k q).noc = c.noc := rfl
@[simp] theorem Chip.setCache_hostFns (c : Chip) (cl k : Nat) (q : Cache) : (c.setCache cl k q).hostFns = c.hostFns := rfl
@[simp] theorem Chip.setCache_perst (c : Chip) (cl k : Nat) (q : Cache) : (c.setCache cl k q).perst = c.perst := rfl
@[simp] theorem Chip.setCache_reqs (c : Chip) (cl k : Nat) (q : Cache) : (c.setCache cl k q).reqs = c.reqs := rfl
@[simp] theorem Chip.setCache_tagCtr (c : Chip) (cl k : Nat) (q : Cache) : (c.setCache cl k q).tagCtr = c.tagCtr := rfl
@[simp] theorem Chip.setCache_syncTx (c : Chip) (cl k : Nat) (q : Cache) : (c.setCache cl k q).syncTx = c.syncTx := rfl
@[simp] theorem Chip.setCache_syncRx (c : Chip) (cl k : Nat) (q : Cache) : (c.setCache cl k q).syncRx = c.syncRx := rfl
@[simp] theorem Chip.setCache_syncHeld (c : Chip) (cl k : Nat) (q : Cache) : (c.setCache cl k q).syncHeld = c.syncHeld := rfl
@[simp] theorem Chip.setCache_dmas (c : Chip) (cl k : Nat) (q : Cache) : (c.setCache cl k q).dmas = c.dmas := rfl
@[simp] theorem Chip.setCache_rseqs (c : Chip) (cl k : Nat) (q : Cache) : (c.setCache cl k q).rseqs = c.rseqs := rfl
@[simp] theorem Chip.setCache_steps (c : Chip) (cl k : Nat) (q : Cache) : (c.setCache cl k q).steps = c.steps := rfl
@[simp] theorem Chip.setCache_rolled (c : Chip) (cl k : Nat) (q : Cache) : (c.setCache cl k q).rolled = c.rolled := rfl
@[simp] theorem Chip.setCache_spent (c : Chip) (cl k : Nat) (q : Cache) : (c.setCache cl k q).spent = c.spent := rfl
@[simp] theorem Chip.setCache_queues (c : Chip) (cl k : Nat) (q : Cache) : (c.setCache cl k q).queues = c.queues := rfl
@[simp] theorem Chip.setCache_wqLast (c : Chip) (cl k : Nat) (q : Cache) : (c.setCache cl k q).wqLast = c.wqLast := rfl
@[simp] theorem Chip.setCache_seqCtxs (c : Chip) (cl k : Nat) (q : Cache) : (c.setCache cl k q).seqCtxs = c.seqCtxs := rfl
@[simp] theorem Chip.setCache_partRuns (c : Chip) (cl k : Nat) (q : Cache) : (c.setCache cl k q).partRuns = c.partRuns := rfl
@[simp] theorem Chip.setCache_setTurn (c : Chip) (cl k : Nat) (q : Cache) : (c.setCache cl k q).setTurn = c.setTurn := rfl
@[simp] theorem Chip.setCache_image (c : Chip) (cl k : Nat) (q : Cache) : (c.setCache cl k q).image = c.image := rfl
@[simp] theorem Chip.setCache_stages (c : Chip) (cl k : Nat) (q : Cache) : (c.setCache cl k q).stages = c.stages := rfl
@[simp] theorem Chip.setCache_recov (c : Chip) (cl k : Nat) (q : Cache) : (c.setCache cl k q).recov = c.recov := rfl
@[simp] theorem Chip.setCache_cabGroups (c : Chip) (cl k : Nat) (q : Cache) : (c.setCache cl k q).cabGroups = c.cabGroups := rfl
@[simp] theorem Chip.setCache_cabSlice (c : Chip) (cl k : Nat) (q : Cache) : (c.setCache cl k q).cabSlice = c.cabSlice := rfl
@[simp] theorem Chip.setCache_failCtr (c : Chip) (cl k : Nat) (q : Cache) : (c.setCache cl k q).failCtr = c.failCtr := rfl
@[simp] theorem Chip.setCache_compReset (c : Chip) (cl k : Nat) (q : Cache) : (c.setCache cl k q).compReset = c.compReset := rfl
@[simp] theorem Chip.setCache_coreFail (c : Chip) (cl k : Nat) (q : Cache) : (c.setCache cl k q).coreFail = c.coreFail := rfl
@[simp] theorem Chip.setCache_portFail (c : Chip) (cl k : Nat) (q : Cache) : (c.setCache cl k q).portFail = c.portFail := rfl
@[simp] theorem Chip.setCache_lanesOut (c : Chip) (cl k : Nat) (q : Cache) : (c.setCache cl k q).lanesOut = c.lanesOut := rfl
@[simp] theorem Chip.setCache_out (c : Chip) (cl k : Nat) (q : Cache) : (c.setCache cl k q).out = c.out := rfl
@[simp] theorem Chip.setCache_freeCtr (c : Chip) (cl k : Nat) (q : Cache) : (c.setCache cl k q).freeCtr = c.freeCtr := rfl
@[simp] theorem Chip.setCache_getF (c : Chip) (cl k : Nat) (q : Cache) (b : Blk) (f : Field) : (c.setCache cl k q).getF b f = c.getF b f := rfl

/-! `Chip.setVe`. -/

@[simp] theorem Chip.setVe_por (c : Chip) (cl k : Nat) (q : Ve) : (c.setVe cl k q).por = c.por := rfl
@[simp] theorem Chip.setVe_board (c : Chip) (cl k : Nat) (q : Ve) : (c.setVe cl k q).board = c.board := rfl
@[simp] theorem Chip.setVe_straps (c : Chip) (cl k : Nat) (q : Ve) : (c.setVe cl k q).straps = c.straps := rfl
@[simp] theorem Chip.setVe_flash (c : Chip) (cl k : Nat) (q : Ve) : (c.setVe cl k q).flash = c.flash := rfl
@[simp] theorem Chip.setVe_taps (c : Chip) (cl k : Nat) (q : Ve) : (c.setVe cl k q).taps = c.taps := rfl
@[simp] theorem Chip.setVe_island (c : Chip) (cl k : Nat) (q : Ve) : (c.setVe cl k q).island = c.island := rfl
@[simp] theorem Chip.setVe_power (c : Chip) (cl k : Nat) (q : Ve) : (c.setVe cl k q).power = c.power := rfl
@[simp] theorem Chip.setVe_pldm (c : Chip) (cl k : Nat) (q : Ve) : (c.setVe cl k q).pldm = c.pldm := rfl
@[simp] theorem Chip.setVe_regs (c : Chip) (cl k : Nat) (q : Ve) : (c.setVe cl k q).regs = c.regs := rfl
@[simp] theorem Chip.setVe_mem (c : Chip) (cl k : Nat) (q : Ve) : (c.setVe cl k q).mem = c.mem := rfl
@[simp] theorem Chip.setVe_shelves (c : Chip) (cl k : Nat) (q : Ve) : (c.setVe cl k q).shelves = c.shelves := rfl
@[simp] theorem Chip.setVe_waits (c : Chip) (cl k : Nat) (q : Ve) : (c.setVe cl k q).waits = c.waits := rfl
@[simp] theorem Chip.setVe_seqs (c : Chip) (cl k : Nat) (q : Ve) : (c.setVe cl k q).seqs = c.seqs := rfl
@[simp] theorem Chip.setVe_mes (c : Chip) (cl k : Nat) (q : Ve) : (c.setVe cl k q).mes = c.mes := rfl
@[simp] theorem Chip.setVe_tbs (c : Chip) (cl k : Nat) (q : Ve) : (c.setVe cl k q).tbs = c.tbs := rfl
@[simp] theorem Chip.setVe_caches (c : Chip) (cl k : Nat) (q : Ve) : (c.setVe cl k q).caches = c.caches := rfl
@[simp] theorem Chip.setVe_keys (c : Chip) (cl k : Nat) (q : Ve) : (c.setVe cl k q).keys = c.keys := rfl
@[simp] theorem Chip.setVe_grps (c : Chip) (cl k : Nat) (q : Ve) : (c.setVe cl k q).grps = c.grps := rfl
@[simp] theorem Chip.setVe_poison (c : Chip) (cl k : Nat) (q : Ve) : (c.setVe cl k q).poison = c.poison := rfl
@[simp] theorem Chip.setVe_losses (c : Chip) (cl k : Nat) (q : Ve) : (c.setVe cl k q).losses = c.losses := rfl
@[simp] theorem Chip.setVe_bench (c : Chip) (cl k : Nat) (q : Ve) : (c.setVe cl k q).bench = c.bench := rfl
@[simp] theorem Chip.setVe_ports (c : Chip) (cl k : Nat) (q : Ve) : (c.setVe cl k q).ports = c.ports := rfl
@[simp] theorem Chip.setVe_noc (c : Chip) (cl k : Nat) (q : Ve) : (c.setVe cl k q).noc = c.noc := rfl
@[simp] theorem Chip.setVe_hostFns (c : Chip) (cl k : Nat) (q : Ve) : (c.setVe cl k q).hostFns = c.hostFns := rfl
@[simp] theorem Chip.setVe_perst (c : Chip) (cl k : Nat) (q : Ve) : (c.setVe cl k q).perst = c.perst := rfl
@[simp] theorem Chip.setVe_reqs (c : Chip) (cl k : Nat) (q : Ve) : (c.setVe cl k q).reqs = c.reqs := rfl
@[simp] theorem Chip.setVe_tagCtr (c : Chip) (cl k : Nat) (q : Ve) : (c.setVe cl k q).tagCtr = c.tagCtr := rfl
@[simp] theorem Chip.setVe_syncTx (c : Chip) (cl k : Nat) (q : Ve) : (c.setVe cl k q).syncTx = c.syncTx := rfl
@[simp] theorem Chip.setVe_syncRx (c : Chip) (cl k : Nat) (q : Ve) : (c.setVe cl k q).syncRx = c.syncRx := rfl
@[simp] theorem Chip.setVe_syncHeld (c : Chip) (cl k : Nat) (q : Ve) : (c.setVe cl k q).syncHeld = c.syncHeld := rfl
@[simp] theorem Chip.setVe_dmas (c : Chip) (cl k : Nat) (q : Ve) : (c.setVe cl k q).dmas = c.dmas := rfl
@[simp] theorem Chip.setVe_rseqs (c : Chip) (cl k : Nat) (q : Ve) : (c.setVe cl k q).rseqs = c.rseqs := rfl
@[simp] theorem Chip.setVe_steps (c : Chip) (cl k : Nat) (q : Ve) : (c.setVe cl k q).steps = c.steps := rfl
@[simp] theorem Chip.setVe_rolled (c : Chip) (cl k : Nat) (q : Ve) : (c.setVe cl k q).rolled = c.rolled := rfl
@[simp] theorem Chip.setVe_spent (c : Chip) (cl k : Nat) (q : Ve) : (c.setVe cl k q).spent = c.spent := rfl
@[simp] theorem Chip.setVe_queues (c : Chip) (cl k : Nat) (q : Ve) : (c.setVe cl k q).queues = c.queues := rfl
@[simp] theorem Chip.setVe_wqLast (c : Chip) (cl k : Nat) (q : Ve) : (c.setVe cl k q).wqLast = c.wqLast := rfl
@[simp] theorem Chip.setVe_seqCtxs (c : Chip) (cl k : Nat) (q : Ve) : (c.setVe cl k q).seqCtxs = c.seqCtxs := rfl
@[simp] theorem Chip.setVe_partRuns (c : Chip) (cl k : Nat) (q : Ve) : (c.setVe cl k q).partRuns = c.partRuns := rfl
@[simp] theorem Chip.setVe_setTurn (c : Chip) (cl k : Nat) (q : Ve) : (c.setVe cl k q).setTurn = c.setTurn := rfl
@[simp] theorem Chip.setVe_image (c : Chip) (cl k : Nat) (q : Ve) : (c.setVe cl k q).image = c.image := rfl
@[simp] theorem Chip.setVe_stages (c : Chip) (cl k : Nat) (q : Ve) : (c.setVe cl k q).stages = c.stages := rfl
@[simp] theorem Chip.setVe_recov (c : Chip) (cl k : Nat) (q : Ve) : (c.setVe cl k q).recov = c.recov := rfl
@[simp] theorem Chip.setVe_cabGroups (c : Chip) (cl k : Nat) (q : Ve) : (c.setVe cl k q).cabGroups = c.cabGroups := rfl
@[simp] theorem Chip.setVe_cabSlice (c : Chip) (cl k : Nat) (q : Ve) : (c.setVe cl k q).cabSlice = c.cabSlice := rfl
@[simp] theorem Chip.setVe_failCtr (c : Chip) (cl k : Nat) (q : Ve) : (c.setVe cl k q).failCtr = c.failCtr := rfl
@[simp] theorem Chip.setVe_compReset (c : Chip) (cl k : Nat) (q : Ve) : (c.setVe cl k q).compReset = c.compReset := rfl
@[simp] theorem Chip.setVe_coreFail (c : Chip) (cl k : Nat) (q : Ve) : (c.setVe cl k q).coreFail = c.coreFail := rfl
@[simp] theorem Chip.setVe_portFail (c : Chip) (cl k : Nat) (q : Ve) : (c.setVe cl k q).portFail = c.portFail := rfl
@[simp] theorem Chip.setVe_lanesOut (c : Chip) (cl k : Nat) (q : Ve) : (c.setVe cl k q).lanesOut = c.lanesOut := rfl
@[simp] theorem Chip.setVe_out (c : Chip) (cl k : Nat) (q : Ve) : (c.setVe cl k q).out = c.out := rfl
@[simp] theorem Chip.setVe_freeCtr (c : Chip) (cl k : Nat) (q : Ve) : (c.setVe cl k q).freeCtr = c.freeCtr := rfl
@[simp] theorem Chip.setVe_getF (c : Chip) (cl k : Nat) (q : Ve) (b : Blk) (f : Field) : (c.setVe cl k q).getF b f = c.getF b f := rfl

/-! `Chip.setDma`. -/

@[simp] theorem Chip.setDma_por (c : Chip) (cl : Nat) (q : DmaEng) : (c.setDma cl q).por = c.por := rfl
@[simp] theorem Chip.setDma_board (c : Chip) (cl : Nat) (q : DmaEng) : (c.setDma cl q).board = c.board := rfl
@[simp] theorem Chip.setDma_straps (c : Chip) (cl : Nat) (q : DmaEng) : (c.setDma cl q).straps = c.straps := rfl
@[simp] theorem Chip.setDma_flash (c : Chip) (cl : Nat) (q : DmaEng) : (c.setDma cl q).flash = c.flash := rfl
@[simp] theorem Chip.setDma_taps (c : Chip) (cl : Nat) (q : DmaEng) : (c.setDma cl q).taps = c.taps := rfl
@[simp] theorem Chip.setDma_island (c : Chip) (cl : Nat) (q : DmaEng) : (c.setDma cl q).island = c.island := rfl
@[simp] theorem Chip.setDma_power (c : Chip) (cl : Nat) (q : DmaEng) : (c.setDma cl q).power = c.power := rfl
@[simp] theorem Chip.setDma_pldm (c : Chip) (cl : Nat) (q : DmaEng) : (c.setDma cl q).pldm = c.pldm := rfl
@[simp] theorem Chip.setDma_regs (c : Chip) (cl : Nat) (q : DmaEng) : (c.setDma cl q).regs = c.regs := rfl
@[simp] theorem Chip.setDma_mem (c : Chip) (cl : Nat) (q : DmaEng) : (c.setDma cl q).mem = c.mem := rfl
@[simp] theorem Chip.setDma_shelves (c : Chip) (cl : Nat) (q : DmaEng) : (c.setDma cl q).shelves = c.shelves := rfl
@[simp] theorem Chip.setDma_waits (c : Chip) (cl : Nat) (q : DmaEng) : (c.setDma cl q).waits = c.waits := rfl
@[simp] theorem Chip.setDma_seqs (c : Chip) (cl : Nat) (q : DmaEng) : (c.setDma cl q).seqs = c.seqs := rfl
@[simp] theorem Chip.setDma_mes (c : Chip) (cl : Nat) (q : DmaEng) : (c.setDma cl q).mes = c.mes := rfl
@[simp] theorem Chip.setDma_tbs (c : Chip) (cl : Nat) (q : DmaEng) : (c.setDma cl q).tbs = c.tbs := rfl
@[simp] theorem Chip.setDma_caches (c : Chip) (cl : Nat) (q : DmaEng) : (c.setDma cl q).caches = c.caches := rfl
@[simp] theorem Chip.setDma_ves (c : Chip) (cl : Nat) (q : DmaEng) : (c.setDma cl q).ves = c.ves := rfl
@[simp] theorem Chip.setDma_keys (c : Chip) (cl : Nat) (q : DmaEng) : (c.setDma cl q).keys = c.keys := rfl
@[simp] theorem Chip.setDma_grps (c : Chip) (cl : Nat) (q : DmaEng) : (c.setDma cl q).grps = c.grps := rfl
@[simp] theorem Chip.setDma_poison (c : Chip) (cl : Nat) (q : DmaEng) : (c.setDma cl q).poison = c.poison := rfl
@[simp] theorem Chip.setDma_losses (c : Chip) (cl : Nat) (q : DmaEng) : (c.setDma cl q).losses = c.losses := rfl
@[simp] theorem Chip.setDma_bench (c : Chip) (cl : Nat) (q : DmaEng) : (c.setDma cl q).bench = c.bench := rfl
@[simp] theorem Chip.setDma_ports (c : Chip) (cl : Nat) (q : DmaEng) : (c.setDma cl q).ports = c.ports := rfl
@[simp] theorem Chip.setDma_noc (c : Chip) (cl : Nat) (q : DmaEng) : (c.setDma cl q).noc = c.noc := rfl
@[simp] theorem Chip.setDma_hostFns (c : Chip) (cl : Nat) (q : DmaEng) : (c.setDma cl q).hostFns = c.hostFns := rfl
@[simp] theorem Chip.setDma_perst (c : Chip) (cl : Nat) (q : DmaEng) : (c.setDma cl q).perst = c.perst := rfl
@[simp] theorem Chip.setDma_reqs (c : Chip) (cl : Nat) (q : DmaEng) : (c.setDma cl q).reqs = c.reqs := rfl
@[simp] theorem Chip.setDma_tagCtr (c : Chip) (cl : Nat) (q : DmaEng) : (c.setDma cl q).tagCtr = c.tagCtr := rfl
@[simp] theorem Chip.setDma_syncTx (c : Chip) (cl : Nat) (q : DmaEng) : (c.setDma cl q).syncTx = c.syncTx := rfl
@[simp] theorem Chip.setDma_syncRx (c : Chip) (cl : Nat) (q : DmaEng) : (c.setDma cl q).syncRx = c.syncRx := rfl
@[simp] theorem Chip.setDma_syncHeld (c : Chip) (cl : Nat) (q : DmaEng) : (c.setDma cl q).syncHeld = c.syncHeld := rfl
@[simp] theorem Chip.setDma_rseqs (c : Chip) (cl : Nat) (q : DmaEng) : (c.setDma cl q).rseqs = c.rseqs := rfl
@[simp] theorem Chip.setDma_steps (c : Chip) (cl : Nat) (q : DmaEng) : (c.setDma cl q).steps = c.steps := rfl
@[simp] theorem Chip.setDma_rolled (c : Chip) (cl : Nat) (q : DmaEng) : (c.setDma cl q).rolled = c.rolled := rfl
@[simp] theorem Chip.setDma_spent (c : Chip) (cl : Nat) (q : DmaEng) : (c.setDma cl q).spent = c.spent := rfl
@[simp] theorem Chip.setDma_queues (c : Chip) (cl : Nat) (q : DmaEng) : (c.setDma cl q).queues = c.queues := rfl
@[simp] theorem Chip.setDma_wqLast (c : Chip) (cl : Nat) (q : DmaEng) : (c.setDma cl q).wqLast = c.wqLast := rfl
@[simp] theorem Chip.setDma_seqCtxs (c : Chip) (cl : Nat) (q : DmaEng) : (c.setDma cl q).seqCtxs = c.seqCtxs := rfl
@[simp] theorem Chip.setDma_partRuns (c : Chip) (cl : Nat) (q : DmaEng) : (c.setDma cl q).partRuns = c.partRuns := rfl
@[simp] theorem Chip.setDma_setTurn (c : Chip) (cl : Nat) (q : DmaEng) : (c.setDma cl q).setTurn = c.setTurn := rfl
@[simp] theorem Chip.setDma_image (c : Chip) (cl : Nat) (q : DmaEng) : (c.setDma cl q).image = c.image := rfl
@[simp] theorem Chip.setDma_stages (c : Chip) (cl : Nat) (q : DmaEng) : (c.setDma cl q).stages = c.stages := rfl
@[simp] theorem Chip.setDma_recov (c : Chip) (cl : Nat) (q : DmaEng) : (c.setDma cl q).recov = c.recov := rfl
@[simp] theorem Chip.setDma_cabGroups (c : Chip) (cl : Nat) (q : DmaEng) : (c.setDma cl q).cabGroups = c.cabGroups := rfl
@[simp] theorem Chip.setDma_cabSlice (c : Chip) (cl : Nat) (q : DmaEng) : (c.setDma cl q).cabSlice = c.cabSlice := rfl
@[simp] theorem Chip.setDma_failCtr (c : Chip) (cl : Nat) (q : DmaEng) : (c.setDma cl q).failCtr = c.failCtr := rfl
@[simp] theorem Chip.setDma_compReset (c : Chip) (cl : Nat) (q : DmaEng) : (c.setDma cl q).compReset = c.compReset := rfl
@[simp] theorem Chip.setDma_coreFail (c : Chip) (cl : Nat) (q : DmaEng) : (c.setDma cl q).coreFail = c.coreFail := rfl
@[simp] theorem Chip.setDma_portFail (c : Chip) (cl : Nat) (q : DmaEng) : (c.setDma cl q).portFail = c.portFail := rfl
@[simp] theorem Chip.setDma_lanesOut (c : Chip) (cl : Nat) (q : DmaEng) : (c.setDma cl q).lanesOut = c.lanesOut := rfl
@[simp] theorem Chip.setDma_out (c : Chip) (cl : Nat) (q : DmaEng) : (c.setDma cl q).out = c.out := rfl
@[simp] theorem Chip.setDma_freeCtr (c : Chip) (cl : Nat) (q : DmaEng) : (c.setDma cl q).freeCtr = c.freeCtr := rfl
@[simp] theorem Chip.setDma_getF (c : Chip) (cl : Nat) (q : DmaEng) (b : Blk) (f : Field) : (c.setDma cl q).getF b f = c.getF b f := rfl

/-! `Chip.setRseq`. -/

@[simp] theorem Chip.setRseq_por (c : Chip) (cl : Nat) (q : Rseq) : (c.setRseq cl q).por = c.por := rfl
@[simp] theorem Chip.setRseq_board (c : Chip) (cl : Nat) (q : Rseq) : (c.setRseq cl q).board = c.board := rfl
@[simp] theorem Chip.setRseq_straps (c : Chip) (cl : Nat) (q : Rseq) : (c.setRseq cl q).straps = c.straps := rfl
@[simp] theorem Chip.setRseq_flash (c : Chip) (cl : Nat) (q : Rseq) : (c.setRseq cl q).flash = c.flash := rfl
@[simp] theorem Chip.setRseq_taps (c : Chip) (cl : Nat) (q : Rseq) : (c.setRseq cl q).taps = c.taps := rfl
@[simp] theorem Chip.setRseq_island (c : Chip) (cl : Nat) (q : Rseq) : (c.setRseq cl q).island = c.island := rfl
@[simp] theorem Chip.setRseq_power (c : Chip) (cl : Nat) (q : Rseq) : (c.setRseq cl q).power = c.power := rfl
@[simp] theorem Chip.setRseq_pldm (c : Chip) (cl : Nat) (q : Rseq) : (c.setRseq cl q).pldm = c.pldm := rfl
@[simp] theorem Chip.setRseq_regs (c : Chip) (cl : Nat) (q : Rseq) : (c.setRseq cl q).regs = c.regs := rfl
@[simp] theorem Chip.setRseq_mem (c : Chip) (cl : Nat) (q : Rseq) : (c.setRseq cl q).mem = c.mem := rfl
@[simp] theorem Chip.setRseq_shelves (c : Chip) (cl : Nat) (q : Rseq) : (c.setRseq cl q).shelves = c.shelves := rfl
@[simp] theorem Chip.setRseq_waits (c : Chip) (cl : Nat) (q : Rseq) : (c.setRseq cl q).waits = c.waits := rfl
@[simp] theorem Chip.setRseq_seqs (c : Chip) (cl : Nat) (q : Rseq) : (c.setRseq cl q).seqs = c.seqs := rfl
@[simp] theorem Chip.setRseq_mes (c : Chip) (cl : Nat) (q : Rseq) : (c.setRseq cl q).mes = c.mes := rfl
@[simp] theorem Chip.setRseq_tbs (c : Chip) (cl : Nat) (q : Rseq) : (c.setRseq cl q).tbs = c.tbs := rfl
@[simp] theorem Chip.setRseq_caches (c : Chip) (cl : Nat) (q : Rseq) : (c.setRseq cl q).caches = c.caches := rfl
@[simp] theorem Chip.setRseq_ves (c : Chip) (cl : Nat) (q : Rseq) : (c.setRseq cl q).ves = c.ves := rfl
@[simp] theorem Chip.setRseq_keys (c : Chip) (cl : Nat) (q : Rseq) : (c.setRseq cl q).keys = c.keys := rfl
@[simp] theorem Chip.setRseq_grps (c : Chip) (cl : Nat) (q : Rseq) : (c.setRseq cl q).grps = c.grps := rfl
@[simp] theorem Chip.setRseq_poison (c : Chip) (cl : Nat) (q : Rseq) : (c.setRseq cl q).poison = c.poison := rfl
@[simp] theorem Chip.setRseq_losses (c : Chip) (cl : Nat) (q : Rseq) : (c.setRseq cl q).losses = c.losses := rfl
@[simp] theorem Chip.setRseq_bench (c : Chip) (cl : Nat) (q : Rseq) : (c.setRseq cl q).bench = c.bench := rfl
@[simp] theorem Chip.setRseq_ports (c : Chip) (cl : Nat) (q : Rseq) : (c.setRseq cl q).ports = c.ports := rfl
@[simp] theorem Chip.setRseq_noc (c : Chip) (cl : Nat) (q : Rseq) : (c.setRseq cl q).noc = c.noc := rfl
@[simp] theorem Chip.setRseq_hostFns (c : Chip) (cl : Nat) (q : Rseq) : (c.setRseq cl q).hostFns = c.hostFns := rfl
@[simp] theorem Chip.setRseq_perst (c : Chip) (cl : Nat) (q : Rseq) : (c.setRseq cl q).perst = c.perst := rfl
@[simp] theorem Chip.setRseq_reqs (c : Chip) (cl : Nat) (q : Rseq) : (c.setRseq cl q).reqs = c.reqs := rfl
@[simp] theorem Chip.setRseq_tagCtr (c : Chip) (cl : Nat) (q : Rseq) : (c.setRseq cl q).tagCtr = c.tagCtr := rfl
@[simp] theorem Chip.setRseq_syncTx (c : Chip) (cl : Nat) (q : Rseq) : (c.setRseq cl q).syncTx = c.syncTx := rfl
@[simp] theorem Chip.setRseq_syncRx (c : Chip) (cl : Nat) (q : Rseq) : (c.setRseq cl q).syncRx = c.syncRx := rfl
@[simp] theorem Chip.setRseq_syncHeld (c : Chip) (cl : Nat) (q : Rseq) : (c.setRseq cl q).syncHeld = c.syncHeld := rfl
@[simp] theorem Chip.setRseq_dmas (c : Chip) (cl : Nat) (q : Rseq) : (c.setRseq cl q).dmas = c.dmas := rfl
@[simp] theorem Chip.setRseq_steps (c : Chip) (cl : Nat) (q : Rseq) : (c.setRseq cl q).steps = c.steps := rfl
@[simp] theorem Chip.setRseq_rolled (c : Chip) (cl : Nat) (q : Rseq) : (c.setRseq cl q).rolled = c.rolled := rfl
@[simp] theorem Chip.setRseq_spent (c : Chip) (cl : Nat) (q : Rseq) : (c.setRseq cl q).spent = c.spent := rfl
@[simp] theorem Chip.setRseq_queues (c : Chip) (cl : Nat) (q : Rseq) : (c.setRseq cl q).queues = c.queues := rfl
@[simp] theorem Chip.setRseq_wqLast (c : Chip) (cl : Nat) (q : Rseq) : (c.setRseq cl q).wqLast = c.wqLast := rfl
@[simp] theorem Chip.setRseq_seqCtxs (c : Chip) (cl : Nat) (q : Rseq) : (c.setRseq cl q).seqCtxs = c.seqCtxs := rfl
@[simp] theorem Chip.setRseq_partRuns (c : Chip) (cl : Nat) (q : Rseq) : (c.setRseq cl q).partRuns = c.partRuns := rfl
@[simp] theorem Chip.setRseq_setTurn (c : Chip) (cl : Nat) (q : Rseq) : (c.setRseq cl q).setTurn = c.setTurn := rfl
@[simp] theorem Chip.setRseq_image (c : Chip) (cl : Nat) (q : Rseq) : (c.setRseq cl q).image = c.image := rfl
@[simp] theorem Chip.setRseq_stages (c : Chip) (cl : Nat) (q : Rseq) : (c.setRseq cl q).stages = c.stages := rfl
@[simp] theorem Chip.setRseq_recov (c : Chip) (cl : Nat) (q : Rseq) : (c.setRseq cl q).recov = c.recov := rfl
@[simp] theorem Chip.setRseq_cabGroups (c : Chip) (cl : Nat) (q : Rseq) : (c.setRseq cl q).cabGroups = c.cabGroups := rfl
@[simp] theorem Chip.setRseq_cabSlice (c : Chip) (cl : Nat) (q : Rseq) : (c.setRseq cl q).cabSlice = c.cabSlice := rfl
@[simp] theorem Chip.setRseq_failCtr (c : Chip) (cl : Nat) (q : Rseq) : (c.setRseq cl q).failCtr = c.failCtr := rfl
@[simp] theorem Chip.setRseq_compReset (c : Chip) (cl : Nat) (q : Rseq) : (c.setRseq cl q).compReset = c.compReset := rfl
@[simp] theorem Chip.setRseq_coreFail (c : Chip) (cl : Nat) (q : Rseq) : (c.setRseq cl q).coreFail = c.coreFail := rfl
@[simp] theorem Chip.setRseq_portFail (c : Chip) (cl : Nat) (q : Rseq) : (c.setRseq cl q).portFail = c.portFail := rfl
@[simp] theorem Chip.setRseq_lanesOut (c : Chip) (cl : Nat) (q : Rseq) : (c.setRseq cl q).lanesOut = c.lanesOut := rfl
@[simp] theorem Chip.setRseq_out (c : Chip) (cl : Nat) (q : Rseq) : (c.setRseq cl q).out = c.out := rfl
@[simp] theorem Chip.setRseq_freeCtr (c : Chip) (cl : Nat) (q : Rseq) : (c.setRseq cl q).freeCtr = c.freeCtr := rfl
@[simp] theorem Chip.setRseq_getF (c : Chip) (cl : Nat) (q : Rseq) (b : Blk) (f : Field) : (c.setRseq cl q).getF b f = c.getF b f := rfl

/-! `Chip.setStep`. -/

@[simp] theorem Chip.setStep_por (c : Chip) (cl g : Nat) (q : StepRun) : (c.setStep cl g q).por = c.por := rfl
@[simp] theorem Chip.setStep_board (c : Chip) (cl g : Nat) (q : StepRun) : (c.setStep cl g q).board = c.board := rfl
@[simp] theorem Chip.setStep_straps (c : Chip) (cl g : Nat) (q : StepRun) : (c.setStep cl g q).straps = c.straps := rfl
@[simp] theorem Chip.setStep_flash (c : Chip) (cl g : Nat) (q : StepRun) : (c.setStep cl g q).flash = c.flash := rfl
@[simp] theorem Chip.setStep_taps (c : Chip) (cl g : Nat) (q : StepRun) : (c.setStep cl g q).taps = c.taps := rfl
@[simp] theorem Chip.setStep_island (c : Chip) (cl g : Nat) (q : StepRun) : (c.setStep cl g q).island = c.island := rfl
@[simp] theorem Chip.setStep_power (c : Chip) (cl g : Nat) (q : StepRun) : (c.setStep cl g q).power = c.power := rfl
@[simp] theorem Chip.setStep_pldm (c : Chip) (cl g : Nat) (q : StepRun) : (c.setStep cl g q).pldm = c.pldm := rfl
@[simp] theorem Chip.setStep_regs (c : Chip) (cl g : Nat) (q : StepRun) : (c.setStep cl g q).regs = c.regs := rfl
@[simp] theorem Chip.setStep_mem (c : Chip) (cl g : Nat) (q : StepRun) : (c.setStep cl g q).mem = c.mem := rfl
@[simp] theorem Chip.setStep_shelves (c : Chip) (cl g : Nat) (q : StepRun) : (c.setStep cl g q).shelves = c.shelves := rfl
@[simp] theorem Chip.setStep_waits (c : Chip) (cl g : Nat) (q : StepRun) : (c.setStep cl g q).waits = c.waits := rfl
@[simp] theorem Chip.setStep_seqs (c : Chip) (cl g : Nat) (q : StepRun) : (c.setStep cl g q).seqs = c.seqs := rfl
@[simp] theorem Chip.setStep_mes (c : Chip) (cl g : Nat) (q : StepRun) : (c.setStep cl g q).mes = c.mes := rfl
@[simp] theorem Chip.setStep_tbs (c : Chip) (cl g : Nat) (q : StepRun) : (c.setStep cl g q).tbs = c.tbs := rfl
@[simp] theorem Chip.setStep_caches (c : Chip) (cl g : Nat) (q : StepRun) : (c.setStep cl g q).caches = c.caches := rfl
@[simp] theorem Chip.setStep_ves (c : Chip) (cl g : Nat) (q : StepRun) : (c.setStep cl g q).ves = c.ves := rfl
@[simp] theorem Chip.setStep_keys (c : Chip) (cl g : Nat) (q : StepRun) : (c.setStep cl g q).keys = c.keys := rfl
@[simp] theorem Chip.setStep_grps (c : Chip) (cl g : Nat) (q : StepRun) : (c.setStep cl g q).grps = c.grps := rfl
@[simp] theorem Chip.setStep_poison (c : Chip) (cl g : Nat) (q : StepRun) : (c.setStep cl g q).poison = c.poison := rfl
@[simp] theorem Chip.setStep_losses (c : Chip) (cl g : Nat) (q : StepRun) : (c.setStep cl g q).losses = c.losses := rfl
@[simp] theorem Chip.setStep_bench (c : Chip) (cl g : Nat) (q : StepRun) : (c.setStep cl g q).bench = c.bench := rfl
@[simp] theorem Chip.setStep_ports (c : Chip) (cl g : Nat) (q : StepRun) : (c.setStep cl g q).ports = c.ports := rfl
@[simp] theorem Chip.setStep_noc (c : Chip) (cl g : Nat) (q : StepRun) : (c.setStep cl g q).noc = c.noc := rfl
@[simp] theorem Chip.setStep_hostFns (c : Chip) (cl g : Nat) (q : StepRun) : (c.setStep cl g q).hostFns = c.hostFns := rfl
@[simp] theorem Chip.setStep_perst (c : Chip) (cl g : Nat) (q : StepRun) : (c.setStep cl g q).perst = c.perst := rfl
@[simp] theorem Chip.setStep_reqs (c : Chip) (cl g : Nat) (q : StepRun) : (c.setStep cl g q).reqs = c.reqs := rfl
@[simp] theorem Chip.setStep_tagCtr (c : Chip) (cl g : Nat) (q : StepRun) : (c.setStep cl g q).tagCtr = c.tagCtr := rfl
@[simp] theorem Chip.setStep_syncTx (c : Chip) (cl g : Nat) (q : StepRun) : (c.setStep cl g q).syncTx = c.syncTx := rfl
@[simp] theorem Chip.setStep_syncRx (c : Chip) (cl g : Nat) (q : StepRun) : (c.setStep cl g q).syncRx = c.syncRx := rfl
@[simp] theorem Chip.setStep_syncHeld (c : Chip) (cl g : Nat) (q : StepRun) : (c.setStep cl g q).syncHeld = c.syncHeld := rfl
@[simp] theorem Chip.setStep_dmas (c : Chip) (cl g : Nat) (q : StepRun) : (c.setStep cl g q).dmas = c.dmas := rfl
@[simp] theorem Chip.setStep_rseqs (c : Chip) (cl g : Nat) (q : StepRun) : (c.setStep cl g q).rseqs = c.rseqs := rfl
@[simp] theorem Chip.setStep_rolled (c : Chip) (cl g : Nat) (q : StepRun) : (c.setStep cl g q).rolled = c.rolled := rfl
@[simp] theorem Chip.setStep_spent (c : Chip) (cl g : Nat) (q : StepRun) : (c.setStep cl g q).spent = c.spent := rfl
@[simp] theorem Chip.setStep_queues (c : Chip) (cl g : Nat) (q : StepRun) : (c.setStep cl g q).queues = c.queues := rfl
@[simp] theorem Chip.setStep_wqLast (c : Chip) (cl g : Nat) (q : StepRun) : (c.setStep cl g q).wqLast = c.wqLast := rfl
@[simp] theorem Chip.setStep_seqCtxs (c : Chip) (cl g : Nat) (q : StepRun) : (c.setStep cl g q).seqCtxs = c.seqCtxs := rfl
@[simp] theorem Chip.setStep_partRuns (c : Chip) (cl g : Nat) (q : StepRun) : (c.setStep cl g q).partRuns = c.partRuns := rfl
@[simp] theorem Chip.setStep_setTurn (c : Chip) (cl g : Nat) (q : StepRun) : (c.setStep cl g q).setTurn = c.setTurn := rfl
@[simp] theorem Chip.setStep_image (c : Chip) (cl g : Nat) (q : StepRun) : (c.setStep cl g q).image = c.image := rfl
@[simp] theorem Chip.setStep_stages (c : Chip) (cl g : Nat) (q : StepRun) : (c.setStep cl g q).stages = c.stages := rfl
@[simp] theorem Chip.setStep_recov (c : Chip) (cl g : Nat) (q : StepRun) : (c.setStep cl g q).recov = c.recov := rfl
@[simp] theorem Chip.setStep_cabGroups (c : Chip) (cl g : Nat) (q : StepRun) : (c.setStep cl g q).cabGroups = c.cabGroups := rfl
@[simp] theorem Chip.setStep_cabSlice (c : Chip) (cl g : Nat) (q : StepRun) : (c.setStep cl g q).cabSlice = c.cabSlice := rfl
@[simp] theorem Chip.setStep_failCtr (c : Chip) (cl g : Nat) (q : StepRun) : (c.setStep cl g q).failCtr = c.failCtr := rfl
@[simp] theorem Chip.setStep_compReset (c : Chip) (cl g : Nat) (q : StepRun) : (c.setStep cl g q).compReset = c.compReset := rfl
@[simp] theorem Chip.setStep_coreFail (c : Chip) (cl g : Nat) (q : StepRun) : (c.setStep cl g q).coreFail = c.coreFail := rfl
@[simp] theorem Chip.setStep_portFail (c : Chip) (cl g : Nat) (q : StepRun) : (c.setStep cl g q).portFail = c.portFail := rfl
@[simp] theorem Chip.setStep_lanesOut (c : Chip) (cl g : Nat) (q : StepRun) : (c.setStep cl g q).lanesOut = c.lanesOut := rfl
@[simp] theorem Chip.setStep_out (c : Chip) (cl g : Nat) (q : StepRun) : (c.setStep cl g q).out = c.out := rfl
@[simp] theorem Chip.setStep_freeCtr (c : Chip) (cl g : Nat) (q : StepRun) : (c.setStep cl g q).freeCtr = c.freeCtr := rfl
@[simp] theorem Chip.setStep_getF (c : Chip) (cl g : Nat) (q : StepRun) (b : Blk) (f : Field) : (c.setStep cl g q).getF b f = c.getF b f := rfl

/-! `Chip.setQueue`. -/

@[simp] theorem Chip.setQueue_por (c : Chip) (n : Nat) (q : Queue) : (c.setQueue n q).por = c.por := rfl
@[simp] theorem Chip.setQueue_board (c : Chip) (n : Nat) (q : Queue) : (c.setQueue n q).board = c.board := rfl
@[simp] theorem Chip.setQueue_straps (c : Chip) (n : Nat) (q : Queue) : (c.setQueue n q).straps = c.straps := rfl
@[simp] theorem Chip.setQueue_flash (c : Chip) (n : Nat) (q : Queue) : (c.setQueue n q).flash = c.flash := rfl
@[simp] theorem Chip.setQueue_taps (c : Chip) (n : Nat) (q : Queue) : (c.setQueue n q).taps = c.taps := rfl
@[simp] theorem Chip.setQueue_island (c : Chip) (n : Nat) (q : Queue) : (c.setQueue n q).island = c.island := rfl
@[simp] theorem Chip.setQueue_power (c : Chip) (n : Nat) (q : Queue) : (c.setQueue n q).power = c.power := rfl
@[simp] theorem Chip.setQueue_pldm (c : Chip) (n : Nat) (q : Queue) : (c.setQueue n q).pldm = c.pldm := rfl
@[simp] theorem Chip.setQueue_regs (c : Chip) (n : Nat) (q : Queue) : (c.setQueue n q).regs = c.regs := rfl
@[simp] theorem Chip.setQueue_mem (c : Chip) (n : Nat) (q : Queue) : (c.setQueue n q).mem = c.mem := rfl
@[simp] theorem Chip.setQueue_shelves (c : Chip) (n : Nat) (q : Queue) : (c.setQueue n q).shelves = c.shelves := rfl
@[simp] theorem Chip.setQueue_waits (c : Chip) (n : Nat) (q : Queue) : (c.setQueue n q).waits = c.waits := rfl
@[simp] theorem Chip.setQueue_seqs (c : Chip) (n : Nat) (q : Queue) : (c.setQueue n q).seqs = c.seqs := rfl
@[simp] theorem Chip.setQueue_mes (c : Chip) (n : Nat) (q : Queue) : (c.setQueue n q).mes = c.mes := rfl
@[simp] theorem Chip.setQueue_tbs (c : Chip) (n : Nat) (q : Queue) : (c.setQueue n q).tbs = c.tbs := rfl
@[simp] theorem Chip.setQueue_caches (c : Chip) (n : Nat) (q : Queue) : (c.setQueue n q).caches = c.caches := rfl
@[simp] theorem Chip.setQueue_ves (c : Chip) (n : Nat) (q : Queue) : (c.setQueue n q).ves = c.ves := rfl
@[simp] theorem Chip.setQueue_keys (c : Chip) (n : Nat) (q : Queue) : (c.setQueue n q).keys = c.keys := rfl
@[simp] theorem Chip.setQueue_grps (c : Chip) (n : Nat) (q : Queue) : (c.setQueue n q).grps = c.grps := rfl
@[simp] theorem Chip.setQueue_poison (c : Chip) (n : Nat) (q : Queue) : (c.setQueue n q).poison = c.poison := rfl
@[simp] theorem Chip.setQueue_losses (c : Chip) (n : Nat) (q : Queue) : (c.setQueue n q).losses = c.losses := rfl
@[simp] theorem Chip.setQueue_bench (c : Chip) (n : Nat) (q : Queue) : (c.setQueue n q).bench = c.bench := rfl
@[simp] theorem Chip.setQueue_ports (c : Chip) (n : Nat) (q : Queue) : (c.setQueue n q).ports = c.ports := rfl
@[simp] theorem Chip.setQueue_noc (c : Chip) (n : Nat) (q : Queue) : (c.setQueue n q).noc = c.noc := rfl
@[simp] theorem Chip.setQueue_hostFns (c : Chip) (n : Nat) (q : Queue) : (c.setQueue n q).hostFns = c.hostFns := rfl
@[simp] theorem Chip.setQueue_perst (c : Chip) (n : Nat) (q : Queue) : (c.setQueue n q).perst = c.perst := rfl
@[simp] theorem Chip.setQueue_reqs (c : Chip) (n : Nat) (q : Queue) : (c.setQueue n q).reqs = c.reqs := rfl
@[simp] theorem Chip.setQueue_tagCtr (c : Chip) (n : Nat) (q : Queue) : (c.setQueue n q).tagCtr = c.tagCtr := rfl
@[simp] theorem Chip.setQueue_syncTx (c : Chip) (n : Nat) (q : Queue) : (c.setQueue n q).syncTx = c.syncTx := rfl
@[simp] theorem Chip.setQueue_syncRx (c : Chip) (n : Nat) (q : Queue) : (c.setQueue n q).syncRx = c.syncRx := rfl
@[simp] theorem Chip.setQueue_syncHeld (c : Chip) (n : Nat) (q : Queue) : (c.setQueue n q).syncHeld = c.syncHeld := rfl
@[simp] theorem Chip.setQueue_dmas (c : Chip) (n : Nat) (q : Queue) : (c.setQueue n q).dmas = c.dmas := rfl
@[simp] theorem Chip.setQueue_rseqs (c : Chip) (n : Nat) (q : Queue) : (c.setQueue n q).rseqs = c.rseqs := rfl
@[simp] theorem Chip.setQueue_steps (c : Chip) (n : Nat) (q : Queue) : (c.setQueue n q).steps = c.steps := rfl
@[simp] theorem Chip.setQueue_rolled (c : Chip) (n : Nat) (q : Queue) : (c.setQueue n q).rolled = c.rolled := rfl
@[simp] theorem Chip.setQueue_spent (c : Chip) (n : Nat) (q : Queue) : (c.setQueue n q).spent = c.spent := rfl
@[simp] theorem Chip.setQueue_wqLast (c : Chip) (n : Nat) (q : Queue) : (c.setQueue n q).wqLast = c.wqLast := rfl
@[simp] theorem Chip.setQueue_seqCtxs (c : Chip) (n : Nat) (q : Queue) : (c.setQueue n q).seqCtxs = c.seqCtxs := rfl
@[simp] theorem Chip.setQueue_partRuns (c : Chip) (n : Nat) (q : Queue) : (c.setQueue n q).partRuns = c.partRuns := rfl
@[simp] theorem Chip.setQueue_setTurn (c : Chip) (n : Nat) (q : Queue) : (c.setQueue n q).setTurn = c.setTurn := rfl
@[simp] theorem Chip.setQueue_image (c : Chip) (n : Nat) (q : Queue) : (c.setQueue n q).image = c.image := rfl
@[simp] theorem Chip.setQueue_stages (c : Chip) (n : Nat) (q : Queue) : (c.setQueue n q).stages = c.stages := rfl
@[simp] theorem Chip.setQueue_recov (c : Chip) (n : Nat) (q : Queue) : (c.setQueue n q).recov = c.recov := rfl
@[simp] theorem Chip.setQueue_cabGroups (c : Chip) (n : Nat) (q : Queue) : (c.setQueue n q).cabGroups = c.cabGroups := rfl
@[simp] theorem Chip.setQueue_cabSlice (c : Chip) (n : Nat) (q : Queue) : (c.setQueue n q).cabSlice = c.cabSlice := rfl
@[simp] theorem Chip.setQueue_failCtr (c : Chip) (n : Nat) (q : Queue) : (c.setQueue n q).failCtr = c.failCtr := rfl
@[simp] theorem Chip.setQueue_compReset (c : Chip) (n : Nat) (q : Queue) : (c.setQueue n q).compReset = c.compReset := rfl
@[simp] theorem Chip.setQueue_coreFail (c : Chip) (n : Nat) (q : Queue) : (c.setQueue n q).coreFail = c.coreFail := rfl
@[simp] theorem Chip.setQueue_portFail (c : Chip) (n : Nat) (q : Queue) : (c.setQueue n q).portFail = c.portFail := rfl
@[simp] theorem Chip.setQueue_lanesOut (c : Chip) (n : Nat) (q : Queue) : (c.setQueue n q).lanesOut = c.lanesOut := rfl
@[simp] theorem Chip.setQueue_out (c : Chip) (n : Nat) (q : Queue) : (c.setQueue n q).out = c.out := rfl
@[simp] theorem Chip.setQueue_freeCtr (c : Chip) (n : Nat) (q : Queue) : (c.setQueue n q).freeCtr = c.freeCtr := rfl
@[simp] theorem Chip.setQueue_getF (c : Chip) (n : Nat) (q : Queue) (b : Blk) (f : Field) : (c.setQueue n q).getF b f = c.getF b f := rfl

/-! `Chip.setPort`. -/

@[simp] theorem Chip.setPort_por (c : Chip) (p : Nat) (q : JPort) : (c.setPort p q).por = c.por := rfl
@[simp] theorem Chip.setPort_board (c : Chip) (p : Nat) (q : JPort) : (c.setPort p q).board = c.board := rfl
@[simp] theorem Chip.setPort_straps (c : Chip) (p : Nat) (q : JPort) : (c.setPort p q).straps = c.straps := rfl
@[simp] theorem Chip.setPort_flash (c : Chip) (p : Nat) (q : JPort) : (c.setPort p q).flash = c.flash := rfl
@[simp] theorem Chip.setPort_taps (c : Chip) (p : Nat) (q : JPort) : (c.setPort p q).taps = c.taps := rfl
@[simp] theorem Chip.setPort_island (c : Chip) (p : Nat) (q : JPort) : (c.setPort p q).island = c.island := rfl
@[simp] theorem Chip.setPort_power (c : Chip) (p : Nat) (q : JPort) : (c.setPort p q).power = c.power := rfl
@[simp] theorem Chip.setPort_pldm (c : Chip) (p : Nat) (q : JPort) : (c.setPort p q).pldm = c.pldm := rfl
@[simp] theorem Chip.setPort_regs (c : Chip) (p : Nat) (q : JPort) : (c.setPort p q).regs = c.regs := rfl
@[simp] theorem Chip.setPort_mem (c : Chip) (p : Nat) (q : JPort) : (c.setPort p q).mem = c.mem := rfl
@[simp] theorem Chip.setPort_shelves (c : Chip) (p : Nat) (q : JPort) : (c.setPort p q).shelves = c.shelves := rfl
@[simp] theorem Chip.setPort_waits (c : Chip) (p : Nat) (q : JPort) : (c.setPort p q).waits = c.waits := rfl
@[simp] theorem Chip.setPort_seqs (c : Chip) (p : Nat) (q : JPort) : (c.setPort p q).seqs = c.seqs := rfl
@[simp] theorem Chip.setPort_mes (c : Chip) (p : Nat) (q : JPort) : (c.setPort p q).mes = c.mes := rfl
@[simp] theorem Chip.setPort_tbs (c : Chip) (p : Nat) (q : JPort) : (c.setPort p q).tbs = c.tbs := rfl
@[simp] theorem Chip.setPort_caches (c : Chip) (p : Nat) (q : JPort) : (c.setPort p q).caches = c.caches := rfl
@[simp] theorem Chip.setPort_ves (c : Chip) (p : Nat) (q : JPort) : (c.setPort p q).ves = c.ves := rfl
@[simp] theorem Chip.setPort_keys (c : Chip) (p : Nat) (q : JPort) : (c.setPort p q).keys = c.keys := rfl
@[simp] theorem Chip.setPort_grps (c : Chip) (p : Nat) (q : JPort) : (c.setPort p q).grps = c.grps := rfl
@[simp] theorem Chip.setPort_poison (c : Chip) (p : Nat) (q : JPort) : (c.setPort p q).poison = c.poison := rfl
@[simp] theorem Chip.setPort_losses (c : Chip) (p : Nat) (q : JPort) : (c.setPort p q).losses = c.losses := rfl
@[simp] theorem Chip.setPort_bench (c : Chip) (p : Nat) (q : JPort) : (c.setPort p q).bench = c.bench := rfl
@[simp] theorem Chip.setPort_noc (c : Chip) (p : Nat) (q : JPort) : (c.setPort p q).noc = c.noc := rfl
@[simp] theorem Chip.setPort_hostFns (c : Chip) (p : Nat) (q : JPort) : (c.setPort p q).hostFns = c.hostFns := rfl
@[simp] theorem Chip.setPort_perst (c : Chip) (p : Nat) (q : JPort) : (c.setPort p q).perst = c.perst := rfl
@[simp] theorem Chip.setPort_reqs (c : Chip) (p : Nat) (q : JPort) : (c.setPort p q).reqs = c.reqs := rfl
@[simp] theorem Chip.setPort_tagCtr (c : Chip) (p : Nat) (q : JPort) : (c.setPort p q).tagCtr = c.tagCtr := rfl
@[simp] theorem Chip.setPort_syncTx (c : Chip) (p : Nat) (q : JPort) : (c.setPort p q).syncTx = c.syncTx := rfl
@[simp] theorem Chip.setPort_syncRx (c : Chip) (p : Nat) (q : JPort) : (c.setPort p q).syncRx = c.syncRx := rfl
@[simp] theorem Chip.setPort_syncHeld (c : Chip) (p : Nat) (q : JPort) : (c.setPort p q).syncHeld = c.syncHeld := rfl
@[simp] theorem Chip.setPort_dmas (c : Chip) (p : Nat) (q : JPort) : (c.setPort p q).dmas = c.dmas := rfl
@[simp] theorem Chip.setPort_rseqs (c : Chip) (p : Nat) (q : JPort) : (c.setPort p q).rseqs = c.rseqs := rfl
@[simp] theorem Chip.setPort_steps (c : Chip) (p : Nat) (q : JPort) : (c.setPort p q).steps = c.steps := rfl
@[simp] theorem Chip.setPort_rolled (c : Chip) (p : Nat) (q : JPort) : (c.setPort p q).rolled = c.rolled := rfl
@[simp] theorem Chip.setPort_spent (c : Chip) (p : Nat) (q : JPort) : (c.setPort p q).spent = c.spent := rfl
@[simp] theorem Chip.setPort_queues (c : Chip) (p : Nat) (q : JPort) : (c.setPort p q).queues = c.queues := rfl
@[simp] theorem Chip.setPort_wqLast (c : Chip) (p : Nat) (q : JPort) : (c.setPort p q).wqLast = c.wqLast := rfl
@[simp] theorem Chip.setPort_seqCtxs (c : Chip) (p : Nat) (q : JPort) : (c.setPort p q).seqCtxs = c.seqCtxs := rfl
@[simp] theorem Chip.setPort_partRuns (c : Chip) (p : Nat) (q : JPort) : (c.setPort p q).partRuns = c.partRuns := rfl
@[simp] theorem Chip.setPort_setTurn (c : Chip) (p : Nat) (q : JPort) : (c.setPort p q).setTurn = c.setTurn := rfl
@[simp] theorem Chip.setPort_image (c : Chip) (p : Nat) (q : JPort) : (c.setPort p q).image = c.image := rfl
@[simp] theorem Chip.setPort_stages (c : Chip) (p : Nat) (q : JPort) : (c.setPort p q).stages = c.stages := rfl
@[simp] theorem Chip.setPort_recov (c : Chip) (p : Nat) (q : JPort) : (c.setPort p q).recov = c.recov := rfl
@[simp] theorem Chip.setPort_cabGroups (c : Chip) (p : Nat) (q : JPort) : (c.setPort p q).cabGroups = c.cabGroups := rfl
@[simp] theorem Chip.setPort_cabSlice (c : Chip) (p : Nat) (q : JPort) : (c.setPort p q).cabSlice = c.cabSlice := rfl
@[simp] theorem Chip.setPort_failCtr (c : Chip) (p : Nat) (q : JPort) : (c.setPort p q).failCtr = c.failCtr := rfl
@[simp] theorem Chip.setPort_compReset (c : Chip) (p : Nat) (q : JPort) : (c.setPort p q).compReset = c.compReset := rfl
@[simp] theorem Chip.setPort_coreFail (c : Chip) (p : Nat) (q : JPort) : (c.setPort p q).coreFail = c.coreFail := rfl
@[simp] theorem Chip.setPort_portFail (c : Chip) (p : Nat) (q : JPort) : (c.setPort p q).portFail = c.portFail := rfl
@[simp] theorem Chip.setPort_lanesOut (c : Chip) (p : Nat) (q : JPort) : (c.setPort p q).lanesOut = c.lanesOut := rfl
@[simp] theorem Chip.setPort_out (c : Chip) (p : Nat) (q : JPort) : (c.setPort p q).out = c.out := rfl
@[simp] theorem Chip.setPort_freeCtr (c : Chip) (p : Nat) (q : JPort) : (c.setPort p q).freeCtr = c.freeCtr := rfl
@[simp] theorem Chip.setPort_getF (c : Chip) (p : Nat) (q : JPort) (b : Blk) (f : Field) : (c.setPort p q).getF b f = c.getF b f := rfl

/-! `Chip.setGrp`. -/

@[simp] theorem Chip.setGrp_por (c : Chip) (g : Nat) (q : Group) : (c.setGrp g q).por = c.por := rfl
@[simp] theorem Chip.setGrp_board (c : Chip) (g : Nat) (q : Group) : (c.setGrp g q).board = c.board := rfl
@[simp] theorem Chip.setGrp_straps (c : Chip) (g : Nat) (q : Group) : (c.setGrp g q).straps = c.straps := rfl
@[simp] theorem Chip.setGrp_flash (c : Chip) (g : Nat) (q : Group) : (c.setGrp g q).flash = c.flash := rfl
@[simp] theorem Chip.setGrp_taps (c : Chip) (g : Nat) (q : Group) : (c.setGrp g q).taps = c.taps := rfl
@[simp] theorem Chip.setGrp_island (c : Chip) (g : Nat) (q : Group) : (c.setGrp g q).island = c.island := rfl
@[simp] theorem Chip.setGrp_power (c : Chip) (g : Nat) (q : Group) : (c.setGrp g q).power = c.power := rfl
@[simp] theorem Chip.setGrp_pldm (c : Chip) (g : Nat) (q : Group) : (c.setGrp g q).pldm = c.pldm := rfl
@[simp] theorem Chip.setGrp_regs (c : Chip) (g : Nat) (q : Group) : (c.setGrp g q).regs = c.regs := rfl
@[simp] theorem Chip.setGrp_mem (c : Chip) (g : Nat) (q : Group) : (c.setGrp g q).mem = c.mem := rfl
@[simp] theorem Chip.setGrp_shelves (c : Chip) (g : Nat) (q : Group) : (c.setGrp g q).shelves = c.shelves := rfl
@[simp] theorem Chip.setGrp_waits (c : Chip) (g : Nat) (q : Group) : (c.setGrp g q).waits = c.waits := rfl
@[simp] theorem Chip.setGrp_seqs (c : Chip) (g : Nat) (q : Group) : (c.setGrp g q).seqs = c.seqs := rfl
@[simp] theorem Chip.setGrp_mes (c : Chip) (g : Nat) (q : Group) : (c.setGrp g q).mes = c.mes := rfl
@[simp] theorem Chip.setGrp_tbs (c : Chip) (g : Nat) (q : Group) : (c.setGrp g q).tbs = c.tbs := rfl
@[simp] theorem Chip.setGrp_caches (c : Chip) (g : Nat) (q : Group) : (c.setGrp g q).caches = c.caches := rfl
@[simp] theorem Chip.setGrp_ves (c : Chip) (g : Nat) (q : Group) : (c.setGrp g q).ves = c.ves := rfl
@[simp] theorem Chip.setGrp_keys (c : Chip) (g : Nat) (q : Group) : (c.setGrp g q).keys = c.keys := rfl
@[simp] theorem Chip.setGrp_poison (c : Chip) (g : Nat) (q : Group) : (c.setGrp g q).poison = c.poison := rfl
@[simp] theorem Chip.setGrp_losses (c : Chip) (g : Nat) (q : Group) : (c.setGrp g q).losses = c.losses := rfl
@[simp] theorem Chip.setGrp_bench (c : Chip) (g : Nat) (q : Group) : (c.setGrp g q).bench = c.bench := rfl
@[simp] theorem Chip.setGrp_ports (c : Chip) (g : Nat) (q : Group) : (c.setGrp g q).ports = c.ports := rfl
@[simp] theorem Chip.setGrp_noc (c : Chip) (g : Nat) (q : Group) : (c.setGrp g q).noc = c.noc := rfl
@[simp] theorem Chip.setGrp_hostFns (c : Chip) (g : Nat) (q : Group) : (c.setGrp g q).hostFns = c.hostFns := rfl
@[simp] theorem Chip.setGrp_perst (c : Chip) (g : Nat) (q : Group) : (c.setGrp g q).perst = c.perst := rfl
@[simp] theorem Chip.setGrp_reqs (c : Chip) (g : Nat) (q : Group) : (c.setGrp g q).reqs = c.reqs := rfl
@[simp] theorem Chip.setGrp_tagCtr (c : Chip) (g : Nat) (q : Group) : (c.setGrp g q).tagCtr = c.tagCtr := rfl
@[simp] theorem Chip.setGrp_syncTx (c : Chip) (g : Nat) (q : Group) : (c.setGrp g q).syncTx = c.syncTx := rfl
@[simp] theorem Chip.setGrp_syncRx (c : Chip) (g : Nat) (q : Group) : (c.setGrp g q).syncRx = c.syncRx := rfl
@[simp] theorem Chip.setGrp_syncHeld (c : Chip) (g : Nat) (q : Group) : (c.setGrp g q).syncHeld = c.syncHeld := rfl
@[simp] theorem Chip.setGrp_dmas (c : Chip) (g : Nat) (q : Group) : (c.setGrp g q).dmas = c.dmas := rfl
@[simp] theorem Chip.setGrp_rseqs (c : Chip) (g : Nat) (q : Group) : (c.setGrp g q).rseqs = c.rseqs := rfl
@[simp] theorem Chip.setGrp_steps (c : Chip) (g : Nat) (q : Group) : (c.setGrp g q).steps = c.steps := rfl
@[simp] theorem Chip.setGrp_rolled (c : Chip) (g : Nat) (q : Group) : (c.setGrp g q).rolled = c.rolled := rfl
@[simp] theorem Chip.setGrp_spent (c : Chip) (g : Nat) (q : Group) : (c.setGrp g q).spent = c.spent := rfl
@[simp] theorem Chip.setGrp_queues (c : Chip) (g : Nat) (q : Group) : (c.setGrp g q).queues = c.queues := rfl
@[simp] theorem Chip.setGrp_wqLast (c : Chip) (g : Nat) (q : Group) : (c.setGrp g q).wqLast = c.wqLast := rfl
@[simp] theorem Chip.setGrp_seqCtxs (c : Chip) (g : Nat) (q : Group) : (c.setGrp g q).seqCtxs = c.seqCtxs := rfl
@[simp] theorem Chip.setGrp_partRuns (c : Chip) (g : Nat) (q : Group) : (c.setGrp g q).partRuns = c.partRuns := rfl
@[simp] theorem Chip.setGrp_setTurn (c : Chip) (g : Nat) (q : Group) : (c.setGrp g q).setTurn = c.setTurn := rfl
@[simp] theorem Chip.setGrp_image (c : Chip) (g : Nat) (q : Group) : (c.setGrp g q).image = c.image := rfl
@[simp] theorem Chip.setGrp_stages (c : Chip) (g : Nat) (q : Group) : (c.setGrp g q).stages = c.stages := rfl
@[simp] theorem Chip.setGrp_recov (c : Chip) (g : Nat) (q : Group) : (c.setGrp g q).recov = c.recov := rfl
@[simp] theorem Chip.setGrp_cabGroups (c : Chip) (g : Nat) (q : Group) : (c.setGrp g q).cabGroups = c.cabGroups := rfl
@[simp] theorem Chip.setGrp_cabSlice (c : Chip) (g : Nat) (q : Group) : (c.setGrp g q).cabSlice = c.cabSlice := rfl
@[simp] theorem Chip.setGrp_failCtr (c : Chip) (g : Nat) (q : Group) : (c.setGrp g q).failCtr = c.failCtr := rfl
@[simp] theorem Chip.setGrp_compReset (c : Chip) (g : Nat) (q : Group) : (c.setGrp g q).compReset = c.compReset := rfl
@[simp] theorem Chip.setGrp_coreFail (c : Chip) (g : Nat) (q : Group) : (c.setGrp g q).coreFail = c.coreFail := rfl
@[simp] theorem Chip.setGrp_portFail (c : Chip) (g : Nat) (q : Group) : (c.setGrp g q).portFail = c.portFail := rfl
@[simp] theorem Chip.setGrp_lanesOut (c : Chip) (g : Nat) (q : Group) : (c.setGrp g q).lanesOut = c.lanesOut := rfl
@[simp] theorem Chip.setGrp_out (c : Chip) (g : Nat) (q : Group) : (c.setGrp g q).out = c.out := rfl
@[simp] theorem Chip.setGrp_freeCtr (c : Chip) (g : Nat) (q : Group) : (c.setGrp g q).freeCtr = c.freeCtr := rfl
@[simp] theorem Chip.setGrp_getF (c : Chip) (g : Nat) (q : Group) (b : Blk) (f : Field) : (c.setGrp g q).getF b f = c.getF b f := rfl

/-! `Chip.setPartRun`. -/

@[simp] theorem Chip.setPartRun_por (c : Chip) (p : Nat) (q : PartRun) : (c.setPartRun p q).por = c.por := rfl
@[simp] theorem Chip.setPartRun_board (c : Chip) (p : Nat) (q : PartRun) : (c.setPartRun p q).board = c.board := rfl
@[simp] theorem Chip.setPartRun_straps (c : Chip) (p : Nat) (q : PartRun) : (c.setPartRun p q).straps = c.straps := rfl
@[simp] theorem Chip.setPartRun_flash (c : Chip) (p : Nat) (q : PartRun) : (c.setPartRun p q).flash = c.flash := rfl
@[simp] theorem Chip.setPartRun_taps (c : Chip) (p : Nat) (q : PartRun) : (c.setPartRun p q).taps = c.taps := rfl
@[simp] theorem Chip.setPartRun_island (c : Chip) (p : Nat) (q : PartRun) : (c.setPartRun p q).island = c.island := rfl
@[simp] theorem Chip.setPartRun_power (c : Chip) (p : Nat) (q : PartRun) : (c.setPartRun p q).power = c.power := rfl
@[simp] theorem Chip.setPartRun_pldm (c : Chip) (p : Nat) (q : PartRun) : (c.setPartRun p q).pldm = c.pldm := rfl
@[simp] theorem Chip.setPartRun_regs (c : Chip) (p : Nat) (q : PartRun) : (c.setPartRun p q).regs = c.regs := rfl
@[simp] theorem Chip.setPartRun_mem (c : Chip) (p : Nat) (q : PartRun) : (c.setPartRun p q).mem = c.mem := rfl
@[simp] theorem Chip.setPartRun_shelves (c : Chip) (p : Nat) (q : PartRun) : (c.setPartRun p q).shelves = c.shelves := rfl
@[simp] theorem Chip.setPartRun_waits (c : Chip) (p : Nat) (q : PartRun) : (c.setPartRun p q).waits = c.waits := rfl
@[simp] theorem Chip.setPartRun_seqs (c : Chip) (p : Nat) (q : PartRun) : (c.setPartRun p q).seqs = c.seqs := rfl
@[simp] theorem Chip.setPartRun_mes (c : Chip) (p : Nat) (q : PartRun) : (c.setPartRun p q).mes = c.mes := rfl
@[simp] theorem Chip.setPartRun_tbs (c : Chip) (p : Nat) (q : PartRun) : (c.setPartRun p q).tbs = c.tbs := rfl
@[simp] theorem Chip.setPartRun_caches (c : Chip) (p : Nat) (q : PartRun) : (c.setPartRun p q).caches = c.caches := rfl
@[simp] theorem Chip.setPartRun_ves (c : Chip) (p : Nat) (q : PartRun) : (c.setPartRun p q).ves = c.ves := rfl
@[simp] theorem Chip.setPartRun_keys (c : Chip) (p : Nat) (q : PartRun) : (c.setPartRun p q).keys = c.keys := rfl
@[simp] theorem Chip.setPartRun_grps (c : Chip) (p : Nat) (q : PartRun) : (c.setPartRun p q).grps = c.grps := rfl
@[simp] theorem Chip.setPartRun_poison (c : Chip) (p : Nat) (q : PartRun) : (c.setPartRun p q).poison = c.poison := rfl
@[simp] theorem Chip.setPartRun_losses (c : Chip) (p : Nat) (q : PartRun) : (c.setPartRun p q).losses = c.losses := rfl
@[simp] theorem Chip.setPartRun_bench (c : Chip) (p : Nat) (q : PartRun) : (c.setPartRun p q).bench = c.bench := rfl
@[simp] theorem Chip.setPartRun_ports (c : Chip) (p : Nat) (q : PartRun) : (c.setPartRun p q).ports = c.ports := rfl
@[simp] theorem Chip.setPartRun_noc (c : Chip) (p : Nat) (q : PartRun) : (c.setPartRun p q).noc = c.noc := rfl
@[simp] theorem Chip.setPartRun_hostFns (c : Chip) (p : Nat) (q : PartRun) : (c.setPartRun p q).hostFns = c.hostFns := rfl
@[simp] theorem Chip.setPartRun_perst (c : Chip) (p : Nat) (q : PartRun) : (c.setPartRun p q).perst = c.perst := rfl
@[simp] theorem Chip.setPartRun_reqs (c : Chip) (p : Nat) (q : PartRun) : (c.setPartRun p q).reqs = c.reqs := rfl
@[simp] theorem Chip.setPartRun_tagCtr (c : Chip) (p : Nat) (q : PartRun) : (c.setPartRun p q).tagCtr = c.tagCtr := rfl
@[simp] theorem Chip.setPartRun_syncTx (c : Chip) (p : Nat) (q : PartRun) : (c.setPartRun p q).syncTx = c.syncTx := rfl
@[simp] theorem Chip.setPartRun_syncRx (c : Chip) (p : Nat) (q : PartRun) : (c.setPartRun p q).syncRx = c.syncRx := rfl
@[simp] theorem Chip.setPartRun_syncHeld (c : Chip) (p : Nat) (q : PartRun) : (c.setPartRun p q).syncHeld = c.syncHeld := rfl
@[simp] theorem Chip.setPartRun_dmas (c : Chip) (p : Nat) (q : PartRun) : (c.setPartRun p q).dmas = c.dmas := rfl
@[simp] theorem Chip.setPartRun_rseqs (c : Chip) (p : Nat) (q : PartRun) : (c.setPartRun p q).rseqs = c.rseqs := rfl
@[simp] theorem Chip.setPartRun_steps (c : Chip) (p : Nat) (q : PartRun) : (c.setPartRun p q).steps = c.steps := rfl
@[simp] theorem Chip.setPartRun_rolled (c : Chip) (p : Nat) (q : PartRun) : (c.setPartRun p q).rolled = c.rolled := rfl
@[simp] theorem Chip.setPartRun_spent (c : Chip) (p : Nat) (q : PartRun) : (c.setPartRun p q).spent = c.spent := rfl
@[simp] theorem Chip.setPartRun_queues (c : Chip) (p : Nat) (q : PartRun) : (c.setPartRun p q).queues = c.queues := rfl
@[simp] theorem Chip.setPartRun_wqLast (c : Chip) (p : Nat) (q : PartRun) : (c.setPartRun p q).wqLast = c.wqLast := rfl
@[simp] theorem Chip.setPartRun_seqCtxs (c : Chip) (p : Nat) (q : PartRun) : (c.setPartRun p q).seqCtxs = c.seqCtxs := rfl
@[simp] theorem Chip.setPartRun_setTurn (c : Chip) (p : Nat) (q : PartRun) : (c.setPartRun p q).setTurn = c.setTurn := rfl
@[simp] theorem Chip.setPartRun_image (c : Chip) (p : Nat) (q : PartRun) : (c.setPartRun p q).image = c.image := rfl
@[simp] theorem Chip.setPartRun_stages (c : Chip) (p : Nat) (q : PartRun) : (c.setPartRun p q).stages = c.stages := rfl
@[simp] theorem Chip.setPartRun_recov (c : Chip) (p : Nat) (q : PartRun) : (c.setPartRun p q).recov = c.recov := rfl
@[simp] theorem Chip.setPartRun_cabGroups (c : Chip) (p : Nat) (q : PartRun) : (c.setPartRun p q).cabGroups = c.cabGroups := rfl
@[simp] theorem Chip.setPartRun_cabSlice (c : Chip) (p : Nat) (q : PartRun) : (c.setPartRun p q).cabSlice = c.cabSlice := rfl
@[simp] theorem Chip.setPartRun_failCtr (c : Chip) (p : Nat) (q : PartRun) : (c.setPartRun p q).failCtr = c.failCtr := rfl
@[simp] theorem Chip.setPartRun_compReset (c : Chip) (p : Nat) (q : PartRun) : (c.setPartRun p q).compReset = c.compReset := rfl
@[simp] theorem Chip.setPartRun_coreFail (c : Chip) (p : Nat) (q : PartRun) : (c.setPartRun p q).coreFail = c.coreFail := rfl
@[simp] theorem Chip.setPartRun_portFail (c : Chip) (p : Nat) (q : PartRun) : (c.setPartRun p q).portFail = c.portFail := rfl
@[simp] theorem Chip.setPartRun_lanesOut (c : Chip) (p : Nat) (q : PartRun) : (c.setPartRun p q).lanesOut = c.lanesOut := rfl
@[simp] theorem Chip.setPartRun_out (c : Chip) (p : Nat) (q : PartRun) : (c.setPartRun p q).out = c.out := rfl
@[simp] theorem Chip.setPartRun_freeCtr (c : Chip) (p : Nat) (q : PartRun) : (c.setPartRun p q).freeCtr = c.freeCtr := rfl
@[simp] theorem Chip.setPartRun_getF (c : Chip) (p : Nat) (q : PartRun) (b : Blk) (f : Field) : (c.setPartRun p q).getF b f = c.getF b f := rfl

/-! `Chip.setRecov`. -/

@[simp] theorem Chip.setRecov_por (c : Chip) (q : Recov) : (c.setRecov q).por = c.por := rfl
@[simp] theorem Chip.setRecov_board (c : Chip) (q : Recov) : (c.setRecov q).board = c.board := rfl
@[simp] theorem Chip.setRecov_straps (c : Chip) (q : Recov) : (c.setRecov q).straps = c.straps := rfl
@[simp] theorem Chip.setRecov_flash (c : Chip) (q : Recov) : (c.setRecov q).flash = c.flash := rfl
@[simp] theorem Chip.setRecov_taps (c : Chip) (q : Recov) : (c.setRecov q).taps = c.taps := rfl
@[simp] theorem Chip.setRecov_island (c : Chip) (q : Recov) : (c.setRecov q).island = c.island := rfl
@[simp] theorem Chip.setRecov_power (c : Chip) (q : Recov) : (c.setRecov q).power = c.power := rfl
@[simp] theorem Chip.setRecov_pldm (c : Chip) (q : Recov) : (c.setRecov q).pldm = c.pldm := rfl
@[simp] theorem Chip.setRecov_regs (c : Chip) (q : Recov) : (c.setRecov q).regs = c.regs := rfl
@[simp] theorem Chip.setRecov_mem (c : Chip) (q : Recov) : (c.setRecov q).mem = c.mem := rfl
@[simp] theorem Chip.setRecov_shelves (c : Chip) (q : Recov) : (c.setRecov q).shelves = c.shelves := rfl
@[simp] theorem Chip.setRecov_waits (c : Chip) (q : Recov) : (c.setRecov q).waits = c.waits := rfl
@[simp] theorem Chip.setRecov_seqs (c : Chip) (q : Recov) : (c.setRecov q).seqs = c.seqs := rfl
@[simp] theorem Chip.setRecov_mes (c : Chip) (q : Recov) : (c.setRecov q).mes = c.mes := rfl
@[simp] theorem Chip.setRecov_tbs (c : Chip) (q : Recov) : (c.setRecov q).tbs = c.tbs := rfl
@[simp] theorem Chip.setRecov_caches (c : Chip) (q : Recov) : (c.setRecov q).caches = c.caches := rfl
@[simp] theorem Chip.setRecov_ves (c : Chip) (q : Recov) : (c.setRecov q).ves = c.ves := rfl
@[simp] theorem Chip.setRecov_keys (c : Chip) (q : Recov) : (c.setRecov q).keys = c.keys := rfl
@[simp] theorem Chip.setRecov_grps (c : Chip) (q : Recov) : (c.setRecov q).grps = c.grps := rfl
@[simp] theorem Chip.setRecov_poison (c : Chip) (q : Recov) : (c.setRecov q).poison = c.poison := rfl
@[simp] theorem Chip.setRecov_losses (c : Chip) (q : Recov) : (c.setRecov q).losses = c.losses := rfl
@[simp] theorem Chip.setRecov_bench (c : Chip) (q : Recov) : (c.setRecov q).bench = c.bench := rfl
@[simp] theorem Chip.setRecov_ports (c : Chip) (q : Recov) : (c.setRecov q).ports = c.ports := rfl
@[simp] theorem Chip.setRecov_noc (c : Chip) (q : Recov) : (c.setRecov q).noc = c.noc := rfl
@[simp] theorem Chip.setRecov_hostFns (c : Chip) (q : Recov) : (c.setRecov q).hostFns = c.hostFns := rfl
@[simp] theorem Chip.setRecov_perst (c : Chip) (q : Recov) : (c.setRecov q).perst = c.perst := rfl
@[simp] theorem Chip.setRecov_reqs (c : Chip) (q : Recov) : (c.setRecov q).reqs = c.reqs := rfl
@[simp] theorem Chip.setRecov_tagCtr (c : Chip) (q : Recov) : (c.setRecov q).tagCtr = c.tagCtr := rfl
@[simp] theorem Chip.setRecov_syncTx (c : Chip) (q : Recov) : (c.setRecov q).syncTx = c.syncTx := rfl
@[simp] theorem Chip.setRecov_syncRx (c : Chip) (q : Recov) : (c.setRecov q).syncRx = c.syncRx := rfl
@[simp] theorem Chip.setRecov_syncHeld (c : Chip) (q : Recov) : (c.setRecov q).syncHeld = c.syncHeld := rfl
@[simp] theorem Chip.setRecov_dmas (c : Chip) (q : Recov) : (c.setRecov q).dmas = c.dmas := rfl
@[simp] theorem Chip.setRecov_rseqs (c : Chip) (q : Recov) : (c.setRecov q).rseqs = c.rseqs := rfl
@[simp] theorem Chip.setRecov_steps (c : Chip) (q : Recov) : (c.setRecov q).steps = c.steps := rfl
@[simp] theorem Chip.setRecov_rolled (c : Chip) (q : Recov) : (c.setRecov q).rolled = c.rolled := rfl
@[simp] theorem Chip.setRecov_spent (c : Chip) (q : Recov) : (c.setRecov q).spent = c.spent := rfl
@[simp] theorem Chip.setRecov_queues (c : Chip) (q : Recov) : (c.setRecov q).queues = c.queues := rfl
@[simp] theorem Chip.setRecov_wqLast (c : Chip) (q : Recov) : (c.setRecov q).wqLast = c.wqLast := rfl
@[simp] theorem Chip.setRecov_seqCtxs (c : Chip) (q : Recov) : (c.setRecov q).seqCtxs = c.seqCtxs := rfl
@[simp] theorem Chip.setRecov_partRuns (c : Chip) (q : Recov) : (c.setRecov q).partRuns = c.partRuns := rfl
@[simp] theorem Chip.setRecov_setTurn (c : Chip) (q : Recov) : (c.setRecov q).setTurn = c.setTurn := rfl
@[simp] theorem Chip.setRecov_image (c : Chip) (q : Recov) : (c.setRecov q).image = c.image := rfl
@[simp] theorem Chip.setRecov_stages (c : Chip) (q : Recov) : (c.setRecov q).stages = c.stages := rfl
@[simp] theorem Chip.setRecov_cabGroups (c : Chip) (q : Recov) : (c.setRecov q).cabGroups = c.cabGroups := rfl
@[simp] theorem Chip.setRecov_cabSlice (c : Chip) (q : Recov) : (c.setRecov q).cabSlice = c.cabSlice := rfl
@[simp] theorem Chip.setRecov_failCtr (c : Chip) (q : Recov) : (c.setRecov q).failCtr = c.failCtr := rfl
@[simp] theorem Chip.setRecov_compReset (c : Chip) (q : Recov) : (c.setRecov q).compReset = c.compReset := rfl
@[simp] theorem Chip.setRecov_coreFail (c : Chip) (q : Recov) : (c.setRecov q).coreFail = c.coreFail := rfl
@[simp] theorem Chip.setRecov_portFail (c : Chip) (q : Recov) : (c.setRecov q).portFail = c.portFail := rfl
@[simp] theorem Chip.setRecov_lanesOut (c : Chip) (q : Recov) : (c.setRecov q).lanesOut = c.lanesOut := rfl
@[simp] theorem Chip.setRecov_out (c : Chip) (q : Recov) : (c.setRecov q).out = c.out := rfl
@[simp] theorem Chip.setRecov_freeCtr (c : Chip) (q : Recov) : (c.setRecov q).freeCtr = c.freeCtr := rfl
@[simp] theorem Chip.setRecov_getF (c : Chip) (q : Recov) (b : Blk) (f : Field) : (c.setRecov q).getF b f = c.getF b f := rfl

/-! `Chip.setSeqCtx`. -/

@[simp] theorem Chip.setSeqCtx_por (c : Chip) (p i : Nat) (q : SeqCtx) : (c.setSeqCtx p i q).por = c.por := rfl
@[simp] theorem Chip.setSeqCtx_board (c : Chip) (p i : Nat) (q : SeqCtx) : (c.setSeqCtx p i q).board = c.board := rfl
@[simp] theorem Chip.setSeqCtx_straps (c : Chip) (p i : Nat) (q : SeqCtx) : (c.setSeqCtx p i q).straps = c.straps := rfl
@[simp] theorem Chip.setSeqCtx_flash (c : Chip) (p i : Nat) (q : SeqCtx) : (c.setSeqCtx p i q).flash = c.flash := rfl
@[simp] theorem Chip.setSeqCtx_taps (c : Chip) (p i : Nat) (q : SeqCtx) : (c.setSeqCtx p i q).taps = c.taps := rfl
@[simp] theorem Chip.setSeqCtx_island (c : Chip) (p i : Nat) (q : SeqCtx) : (c.setSeqCtx p i q).island = c.island := rfl
@[simp] theorem Chip.setSeqCtx_power (c : Chip) (p i : Nat) (q : SeqCtx) : (c.setSeqCtx p i q).power = c.power := rfl
@[simp] theorem Chip.setSeqCtx_pldm (c : Chip) (p i : Nat) (q : SeqCtx) : (c.setSeqCtx p i q).pldm = c.pldm := rfl
@[simp] theorem Chip.setSeqCtx_regs (c : Chip) (p i : Nat) (q : SeqCtx) : (c.setSeqCtx p i q).regs = c.regs := rfl
@[simp] theorem Chip.setSeqCtx_mem (c : Chip) (p i : Nat) (q : SeqCtx) : (c.setSeqCtx p i q).mem = c.mem := rfl
@[simp] theorem Chip.setSeqCtx_shelves (c : Chip) (p i : Nat) (q : SeqCtx) : (c.setSeqCtx p i q).shelves = c.shelves := rfl
@[simp] theorem Chip.setSeqCtx_waits (c : Chip) (p i : Nat) (q : SeqCtx) : (c.setSeqCtx p i q).waits = c.waits := rfl
@[simp] theorem Chip.setSeqCtx_seqs (c : Chip) (p i : Nat) (q : SeqCtx) : (c.setSeqCtx p i q).seqs = c.seqs := rfl
@[simp] theorem Chip.setSeqCtx_mes (c : Chip) (p i : Nat) (q : SeqCtx) : (c.setSeqCtx p i q).mes = c.mes := rfl
@[simp] theorem Chip.setSeqCtx_tbs (c : Chip) (p i : Nat) (q : SeqCtx) : (c.setSeqCtx p i q).tbs = c.tbs := rfl
@[simp] theorem Chip.setSeqCtx_caches (c : Chip) (p i : Nat) (q : SeqCtx) : (c.setSeqCtx p i q).caches = c.caches := rfl
@[simp] theorem Chip.setSeqCtx_ves (c : Chip) (p i : Nat) (q : SeqCtx) : (c.setSeqCtx p i q).ves = c.ves := rfl
@[simp] theorem Chip.setSeqCtx_keys (c : Chip) (p i : Nat) (q : SeqCtx) : (c.setSeqCtx p i q).keys = c.keys := rfl
@[simp] theorem Chip.setSeqCtx_grps (c : Chip) (p i : Nat) (q : SeqCtx) : (c.setSeqCtx p i q).grps = c.grps := rfl
@[simp] theorem Chip.setSeqCtx_poison (c : Chip) (p i : Nat) (q : SeqCtx) : (c.setSeqCtx p i q).poison = c.poison := rfl
@[simp] theorem Chip.setSeqCtx_losses (c : Chip) (p i : Nat) (q : SeqCtx) : (c.setSeqCtx p i q).losses = c.losses := rfl
@[simp] theorem Chip.setSeqCtx_bench (c : Chip) (p i : Nat) (q : SeqCtx) : (c.setSeqCtx p i q).bench = c.bench := rfl
@[simp] theorem Chip.setSeqCtx_ports (c : Chip) (p i : Nat) (q : SeqCtx) : (c.setSeqCtx p i q).ports = c.ports := rfl
@[simp] theorem Chip.setSeqCtx_noc (c : Chip) (p i : Nat) (q : SeqCtx) : (c.setSeqCtx p i q).noc = c.noc := rfl
@[simp] theorem Chip.setSeqCtx_hostFns (c : Chip) (p i : Nat) (q : SeqCtx) : (c.setSeqCtx p i q).hostFns = c.hostFns := rfl
@[simp] theorem Chip.setSeqCtx_perst (c : Chip) (p i : Nat) (q : SeqCtx) : (c.setSeqCtx p i q).perst = c.perst := rfl
@[simp] theorem Chip.setSeqCtx_reqs (c : Chip) (p i : Nat) (q : SeqCtx) : (c.setSeqCtx p i q).reqs = c.reqs := rfl
@[simp] theorem Chip.setSeqCtx_tagCtr (c : Chip) (p i : Nat) (q : SeqCtx) : (c.setSeqCtx p i q).tagCtr = c.tagCtr := rfl
@[simp] theorem Chip.setSeqCtx_syncTx (c : Chip) (p i : Nat) (q : SeqCtx) : (c.setSeqCtx p i q).syncTx = c.syncTx := rfl
@[simp] theorem Chip.setSeqCtx_syncRx (c : Chip) (p i : Nat) (q : SeqCtx) : (c.setSeqCtx p i q).syncRx = c.syncRx := rfl
@[simp] theorem Chip.setSeqCtx_syncHeld (c : Chip) (p i : Nat) (q : SeqCtx) : (c.setSeqCtx p i q).syncHeld = c.syncHeld := rfl
@[simp] theorem Chip.setSeqCtx_dmas (c : Chip) (p i : Nat) (q : SeqCtx) : (c.setSeqCtx p i q).dmas = c.dmas := rfl
@[simp] theorem Chip.setSeqCtx_rseqs (c : Chip) (p i : Nat) (q : SeqCtx) : (c.setSeqCtx p i q).rseqs = c.rseqs := rfl
@[simp] theorem Chip.setSeqCtx_steps (c : Chip) (p i : Nat) (q : SeqCtx) : (c.setSeqCtx p i q).steps = c.steps := rfl
@[simp] theorem Chip.setSeqCtx_rolled (c : Chip) (p i : Nat) (q : SeqCtx) : (c.setSeqCtx p i q).rolled = c.rolled := rfl
@[simp] theorem Chip.setSeqCtx_spent (c : Chip) (p i : Nat) (q : SeqCtx) : (c.setSeqCtx p i q).spent = c.spent := rfl
@[simp] theorem Chip.setSeqCtx_queues (c : Chip) (p i : Nat) (q : SeqCtx) : (c.setSeqCtx p i q).queues = c.queues := rfl
@[simp] theorem Chip.setSeqCtx_wqLast (c : Chip) (p i : Nat) (q : SeqCtx) : (c.setSeqCtx p i q).wqLast = c.wqLast := rfl
@[simp] theorem Chip.setSeqCtx_partRuns (c : Chip) (p i : Nat) (q : SeqCtx) : (c.setSeqCtx p i q).partRuns = c.partRuns := rfl
@[simp] theorem Chip.setSeqCtx_setTurn (c : Chip) (p i : Nat) (q : SeqCtx) : (c.setSeqCtx p i q).setTurn = c.setTurn := rfl
@[simp] theorem Chip.setSeqCtx_image (c : Chip) (p i : Nat) (q : SeqCtx) : (c.setSeqCtx p i q).image = c.image := rfl
@[simp] theorem Chip.setSeqCtx_stages (c : Chip) (p i : Nat) (q : SeqCtx) : (c.setSeqCtx p i q).stages = c.stages := rfl
@[simp] theorem Chip.setSeqCtx_recov (c : Chip) (p i : Nat) (q : SeqCtx) : (c.setSeqCtx p i q).recov = c.recov := rfl
@[simp] theorem Chip.setSeqCtx_cabGroups (c : Chip) (p i : Nat) (q : SeqCtx) : (c.setSeqCtx p i q).cabGroups = c.cabGroups := rfl
@[simp] theorem Chip.setSeqCtx_cabSlice (c : Chip) (p i : Nat) (q : SeqCtx) : (c.setSeqCtx p i q).cabSlice = c.cabSlice := rfl
@[simp] theorem Chip.setSeqCtx_failCtr (c : Chip) (p i : Nat) (q : SeqCtx) : (c.setSeqCtx p i q).failCtr = c.failCtr := rfl
@[simp] theorem Chip.setSeqCtx_compReset (c : Chip) (p i : Nat) (q : SeqCtx) : (c.setSeqCtx p i q).compReset = c.compReset := rfl
@[simp] theorem Chip.setSeqCtx_coreFail (c : Chip) (p i : Nat) (q : SeqCtx) : (c.setSeqCtx p i q).coreFail = c.coreFail := rfl
@[simp] theorem Chip.setSeqCtx_portFail (c : Chip) (p i : Nat) (q : SeqCtx) : (c.setSeqCtx p i q).portFail = c.portFail := rfl
@[simp] theorem Chip.setSeqCtx_lanesOut (c : Chip) (p i : Nat) (q : SeqCtx) : (c.setSeqCtx p i q).lanesOut = c.lanesOut := rfl
@[simp] theorem Chip.setSeqCtx_out (c : Chip) (p i : Nat) (q : SeqCtx) : (c.setSeqCtx p i q).out = c.out := rfl
@[simp] theorem Chip.setSeqCtx_freeCtr (c : Chip) (p i : Nat) (q : SeqCtx) : (c.setSeqCtx p i q).freeCtr = c.freeCtr := rfl
@[simp] theorem Chip.setSeqCtx_getF (c : Chip) (p i : Nat) (q : SeqCtx) (b : Blk) (f : Field) : (c.setSeqCtx p i q).getF b f = c.getF b f := rfl

/-! `Chip.addWait`. -/

@[simp] theorem Chip.addWait_por (c : Chip) (i t : Nat) (w : Waiter) : (c.addWait i t w).por = c.por := rfl
@[simp] theorem Chip.addWait_board (c : Chip) (i t : Nat) (w : Waiter) : (c.addWait i t w).board = c.board := rfl
@[simp] theorem Chip.addWait_straps (c : Chip) (i t : Nat) (w : Waiter) : (c.addWait i t w).straps = c.straps := rfl
@[simp] theorem Chip.addWait_flash (c : Chip) (i t : Nat) (w : Waiter) : (c.addWait i t w).flash = c.flash := rfl
@[simp] theorem Chip.addWait_taps (c : Chip) (i t : Nat) (w : Waiter) : (c.addWait i t w).taps = c.taps := rfl
@[simp] theorem Chip.addWait_island (c : Chip) (i t : Nat) (w : Waiter) : (c.addWait i t w).island = c.island := rfl
@[simp] theorem Chip.addWait_power (c : Chip) (i t : Nat) (w : Waiter) : (c.addWait i t w).power = c.power := rfl
@[simp] theorem Chip.addWait_pldm (c : Chip) (i t : Nat) (w : Waiter) : (c.addWait i t w).pldm = c.pldm := rfl
@[simp] theorem Chip.addWait_regs (c : Chip) (i t : Nat) (w : Waiter) : (c.addWait i t w).regs = c.regs := rfl
@[simp] theorem Chip.addWait_mem (c : Chip) (i t : Nat) (w : Waiter) : (c.addWait i t w).mem = c.mem := rfl
@[simp] theorem Chip.addWait_shelves (c : Chip) (i t : Nat) (w : Waiter) : (c.addWait i t w).shelves = c.shelves := rfl
@[simp] theorem Chip.addWait_seqs (c : Chip) (i t : Nat) (w : Waiter) : (c.addWait i t w).seqs = c.seqs := rfl
@[simp] theorem Chip.addWait_mes (c : Chip) (i t : Nat) (w : Waiter) : (c.addWait i t w).mes = c.mes := rfl
@[simp] theorem Chip.addWait_tbs (c : Chip) (i t : Nat) (w : Waiter) : (c.addWait i t w).tbs = c.tbs := rfl
@[simp] theorem Chip.addWait_caches (c : Chip) (i t : Nat) (w : Waiter) : (c.addWait i t w).caches = c.caches := rfl
@[simp] theorem Chip.addWait_ves (c : Chip) (i t : Nat) (w : Waiter) : (c.addWait i t w).ves = c.ves := rfl
@[simp] theorem Chip.addWait_keys (c : Chip) (i t : Nat) (w : Waiter) : (c.addWait i t w).keys = c.keys := rfl
@[simp] theorem Chip.addWait_grps (c : Chip) (i t : Nat) (w : Waiter) : (c.addWait i t w).grps = c.grps := rfl
@[simp] theorem Chip.addWait_poison (c : Chip) (i t : Nat) (w : Waiter) : (c.addWait i t w).poison = c.poison := rfl
@[simp] theorem Chip.addWait_losses (c : Chip) (i t : Nat) (w : Waiter) : (c.addWait i t w).losses = c.losses := rfl
@[simp] theorem Chip.addWait_bench (c : Chip) (i t : Nat) (w : Waiter) : (c.addWait i t w).bench = c.bench := rfl
@[simp] theorem Chip.addWait_ports (c : Chip) (i t : Nat) (w : Waiter) : (c.addWait i t w).ports = c.ports := rfl
@[simp] theorem Chip.addWait_noc (c : Chip) (i t : Nat) (w : Waiter) : (c.addWait i t w).noc = c.noc := rfl
@[simp] theorem Chip.addWait_hostFns (c : Chip) (i t : Nat) (w : Waiter) : (c.addWait i t w).hostFns = c.hostFns := rfl
@[simp] theorem Chip.addWait_perst (c : Chip) (i t : Nat) (w : Waiter) : (c.addWait i t w).perst = c.perst := rfl
@[simp] theorem Chip.addWait_reqs (c : Chip) (i t : Nat) (w : Waiter) : (c.addWait i t w).reqs = c.reqs := rfl
@[simp] theorem Chip.addWait_tagCtr (c : Chip) (i t : Nat) (w : Waiter) : (c.addWait i t w).tagCtr = c.tagCtr := rfl
@[simp] theorem Chip.addWait_syncTx (c : Chip) (i t : Nat) (w : Waiter) : (c.addWait i t w).syncTx = c.syncTx := rfl
@[simp] theorem Chip.addWait_syncRx (c : Chip) (i t : Nat) (w : Waiter) : (c.addWait i t w).syncRx = c.syncRx := rfl
@[simp] theorem Chip.addWait_syncHeld (c : Chip) (i t : Nat) (w : Waiter) : (c.addWait i t w).syncHeld = c.syncHeld := rfl
@[simp] theorem Chip.addWait_dmas (c : Chip) (i t : Nat) (w : Waiter) : (c.addWait i t w).dmas = c.dmas := rfl
@[simp] theorem Chip.addWait_rseqs (c : Chip) (i t : Nat) (w : Waiter) : (c.addWait i t w).rseqs = c.rseqs := rfl
@[simp] theorem Chip.addWait_steps (c : Chip) (i t : Nat) (w : Waiter) : (c.addWait i t w).steps = c.steps := rfl
@[simp] theorem Chip.addWait_rolled (c : Chip) (i t : Nat) (w : Waiter) : (c.addWait i t w).rolled = c.rolled := rfl
@[simp] theorem Chip.addWait_spent (c : Chip) (i t : Nat) (w : Waiter) : (c.addWait i t w).spent = c.spent := rfl
@[simp] theorem Chip.addWait_queues (c : Chip) (i t : Nat) (w : Waiter) : (c.addWait i t w).queues = c.queues := rfl
@[simp] theorem Chip.addWait_wqLast (c : Chip) (i t : Nat) (w : Waiter) : (c.addWait i t w).wqLast = c.wqLast := rfl
@[simp] theorem Chip.addWait_seqCtxs (c : Chip) (i t : Nat) (w : Waiter) : (c.addWait i t w).seqCtxs = c.seqCtxs := rfl
@[simp] theorem Chip.addWait_partRuns (c : Chip) (i t : Nat) (w : Waiter) : (c.addWait i t w).partRuns = c.partRuns := rfl
@[simp] theorem Chip.addWait_setTurn (c : Chip) (i t : Nat) (w : Waiter) : (c.addWait i t w).setTurn = c.setTurn := rfl
@[simp] theorem Chip.addWait_image (c : Chip) (i t : Nat) (w : Waiter) : (c.addWait i t w).image = c.image := rfl
@[simp] theorem Chip.addWait_stages (c : Chip) (i t : Nat) (w : Waiter) : (c.addWait i t w).stages = c.stages := rfl
@[simp] theorem Chip.addWait_recov (c : Chip) (i t : Nat) (w : Waiter) : (c.addWait i t w).recov = c.recov := rfl
@[simp] theorem Chip.addWait_cabGroups (c : Chip) (i t : Nat) (w : Waiter) : (c.addWait i t w).cabGroups = c.cabGroups := rfl
@[simp] theorem Chip.addWait_cabSlice (c : Chip) (i t : Nat) (w : Waiter) : (c.addWait i t w).cabSlice = c.cabSlice := rfl
@[simp] theorem Chip.addWait_failCtr (c : Chip) (i t : Nat) (w : Waiter) : (c.addWait i t w).failCtr = c.failCtr := rfl
@[simp] theorem Chip.addWait_compReset (c : Chip) (i t : Nat) (w : Waiter) : (c.addWait i t w).compReset = c.compReset := rfl
@[simp] theorem Chip.addWait_coreFail (c : Chip) (i t : Nat) (w : Waiter) : (c.addWait i t w).coreFail = c.coreFail := rfl
@[simp] theorem Chip.addWait_portFail (c : Chip) (i t : Nat) (w : Waiter) : (c.addWait i t w).portFail = c.portFail := rfl
@[simp] theorem Chip.addWait_lanesOut (c : Chip) (i t : Nat) (w : Waiter) : (c.addWait i t w).lanesOut = c.lanesOut := rfl
@[simp] theorem Chip.addWait_out (c : Chip) (i t : Nat) (w : Waiter) : (c.addWait i t w).out = c.out := rfl
@[simp] theorem Chip.addWait_freeCtr (c : Chip) (i t : Nat) (w : Waiter) : (c.addWait i t w).freeCtr = c.freeCtr := rfl
@[simp] theorem Chip.addWait_getF (c : Chip) (i t : Nat) (w : Waiter) (b : Blk) (f : Field) : (c.addWait i t w).getF b f = c.getF b f := rfl

/-! `Chip.dropWaits`. -/

@[simp] theorem Chip.dropWaits_por (c : Chip) (w : Waiter) : (c.dropWaits w).por = c.por := rfl
@[simp] theorem Chip.dropWaits_board (c : Chip) (w : Waiter) : (c.dropWaits w).board = c.board := rfl
@[simp] theorem Chip.dropWaits_straps (c : Chip) (w : Waiter) : (c.dropWaits w).straps = c.straps := rfl
@[simp] theorem Chip.dropWaits_flash (c : Chip) (w : Waiter) : (c.dropWaits w).flash = c.flash := rfl
@[simp] theorem Chip.dropWaits_taps (c : Chip) (w : Waiter) : (c.dropWaits w).taps = c.taps := rfl
@[simp] theorem Chip.dropWaits_island (c : Chip) (w : Waiter) : (c.dropWaits w).island = c.island := rfl
@[simp] theorem Chip.dropWaits_power (c : Chip) (w : Waiter) : (c.dropWaits w).power = c.power := rfl
@[simp] theorem Chip.dropWaits_pldm (c : Chip) (w : Waiter) : (c.dropWaits w).pldm = c.pldm := rfl
@[simp] theorem Chip.dropWaits_regs (c : Chip) (w : Waiter) : (c.dropWaits w).regs = c.regs := rfl
@[simp] theorem Chip.dropWaits_mem (c : Chip) (w : Waiter) : (c.dropWaits w).mem = c.mem := rfl
@[simp] theorem Chip.dropWaits_shelves (c : Chip) (w : Waiter) : (c.dropWaits w).shelves = c.shelves := rfl
@[simp] theorem Chip.dropWaits_seqs (c : Chip) (w : Waiter) : (c.dropWaits w).seqs = c.seqs := rfl
@[simp] theorem Chip.dropWaits_mes (c : Chip) (w : Waiter) : (c.dropWaits w).mes = c.mes := rfl
@[simp] theorem Chip.dropWaits_tbs (c : Chip) (w : Waiter) : (c.dropWaits w).tbs = c.tbs := rfl
@[simp] theorem Chip.dropWaits_caches (c : Chip) (w : Waiter) : (c.dropWaits w).caches = c.caches := rfl
@[simp] theorem Chip.dropWaits_ves (c : Chip) (w : Waiter) : (c.dropWaits w).ves = c.ves := rfl
@[simp] theorem Chip.dropWaits_keys (c : Chip) (w : Waiter) : (c.dropWaits w).keys = c.keys := rfl
@[simp] theorem Chip.dropWaits_grps (c : Chip) (w : Waiter) : (c.dropWaits w).grps = c.grps := rfl
@[simp] theorem Chip.dropWaits_poison (c : Chip) (w : Waiter) : (c.dropWaits w).poison = c.poison := rfl
@[simp] theorem Chip.dropWaits_losses (c : Chip) (w : Waiter) : (c.dropWaits w).losses = c.losses := rfl
@[simp] theorem Chip.dropWaits_bench (c : Chip) (w : Waiter) : (c.dropWaits w).bench = c.bench := rfl
@[simp] theorem Chip.dropWaits_ports (c : Chip) (w : Waiter) : (c.dropWaits w).ports = c.ports := rfl
@[simp] theorem Chip.dropWaits_noc (c : Chip) (w : Waiter) : (c.dropWaits w).noc = c.noc := rfl
@[simp] theorem Chip.dropWaits_hostFns (c : Chip) (w : Waiter) : (c.dropWaits w).hostFns = c.hostFns := rfl
@[simp] theorem Chip.dropWaits_perst (c : Chip) (w : Waiter) : (c.dropWaits w).perst = c.perst := rfl
@[simp] theorem Chip.dropWaits_reqs (c : Chip) (w : Waiter) : (c.dropWaits w).reqs = c.reqs := rfl
@[simp] theorem Chip.dropWaits_tagCtr (c : Chip) (w : Waiter) : (c.dropWaits w).tagCtr = c.tagCtr := rfl
@[simp] theorem Chip.dropWaits_syncTx (c : Chip) (w : Waiter) : (c.dropWaits w).syncTx = c.syncTx := rfl
@[simp] theorem Chip.dropWaits_syncRx (c : Chip) (w : Waiter) : (c.dropWaits w).syncRx = c.syncRx := rfl
@[simp] theorem Chip.dropWaits_syncHeld (c : Chip) (w : Waiter) : (c.dropWaits w).syncHeld = c.syncHeld := rfl
@[simp] theorem Chip.dropWaits_dmas (c : Chip) (w : Waiter) : (c.dropWaits w).dmas = c.dmas := rfl
@[simp] theorem Chip.dropWaits_rseqs (c : Chip) (w : Waiter) : (c.dropWaits w).rseqs = c.rseqs := rfl
@[simp] theorem Chip.dropWaits_steps (c : Chip) (w : Waiter) : (c.dropWaits w).steps = c.steps := rfl
@[simp] theorem Chip.dropWaits_rolled (c : Chip) (w : Waiter) : (c.dropWaits w).rolled = c.rolled := rfl
@[simp] theorem Chip.dropWaits_spent (c : Chip) (w : Waiter) : (c.dropWaits w).spent = c.spent := rfl
@[simp] theorem Chip.dropWaits_queues (c : Chip) (w : Waiter) : (c.dropWaits w).queues = c.queues := rfl
@[simp] theorem Chip.dropWaits_wqLast (c : Chip) (w : Waiter) : (c.dropWaits w).wqLast = c.wqLast := rfl
@[simp] theorem Chip.dropWaits_seqCtxs (c : Chip) (w : Waiter) : (c.dropWaits w).seqCtxs = c.seqCtxs := rfl
@[simp] theorem Chip.dropWaits_partRuns (c : Chip) (w : Waiter) : (c.dropWaits w).partRuns = c.partRuns := rfl
@[simp] theorem Chip.dropWaits_setTurn (c : Chip) (w : Waiter) : (c.dropWaits w).setTurn = c.setTurn := rfl
@[simp] theorem Chip.dropWaits_image (c : Chip) (w : Waiter) : (c.dropWaits w).image = c.image := rfl
@[simp] theorem Chip.dropWaits_stages (c : Chip) (w : Waiter) : (c.dropWaits w).stages = c.stages := rfl
@[simp] theorem Chip.dropWaits_recov (c : Chip) (w : Waiter) : (c.dropWaits w).recov = c.recov := rfl
@[simp] theorem Chip.dropWaits_cabGroups (c : Chip) (w : Waiter) : (c.dropWaits w).cabGroups = c.cabGroups := rfl
@[simp] theorem Chip.dropWaits_cabSlice (c : Chip) (w : Waiter) : (c.dropWaits w).cabSlice = c.cabSlice := rfl
@[simp] theorem Chip.dropWaits_failCtr (c : Chip) (w : Waiter) : (c.dropWaits w).failCtr = c.failCtr := rfl
@[simp] theorem Chip.dropWaits_compReset (c : Chip) (w : Waiter) : (c.dropWaits w).compReset = c.compReset := rfl
@[simp] theorem Chip.dropWaits_coreFail (c : Chip) (w : Waiter) : (c.dropWaits w).coreFail = c.coreFail := rfl
@[simp] theorem Chip.dropWaits_portFail (c : Chip) (w : Waiter) : (c.dropWaits w).portFail = c.portFail := rfl
@[simp] theorem Chip.dropWaits_lanesOut (c : Chip) (w : Waiter) : (c.dropWaits w).lanesOut = c.lanesOut := rfl
@[simp] theorem Chip.dropWaits_out (c : Chip) (w : Waiter) : (c.dropWaits w).out = c.out := rfl
@[simp] theorem Chip.dropWaits_freeCtr (c : Chip) (w : Waiter) : (c.dropWaits w).freeCtr = c.freeCtr := rfl
@[simp] theorem Chip.dropWaits_getF (c : Chip) (w : Waiter) (b : Blk) (f : Field) : (c.dropWaits w).getF b f = c.getF b f := rfl

/-! `Chip.latchWaits`. -/

@[simp] theorem Chip.latchWaits_por (c : Chip) (i : Nat) : (c.latchWaits i).por = c.por := rfl
@[simp] theorem Chip.latchWaits_board (c : Chip) (i : Nat) : (c.latchWaits i).board = c.board := rfl
@[simp] theorem Chip.latchWaits_straps (c : Chip) (i : Nat) : (c.latchWaits i).straps = c.straps := rfl
@[simp] theorem Chip.latchWaits_flash (c : Chip) (i : Nat) : (c.latchWaits i).flash = c.flash := rfl
@[simp] theorem Chip.latchWaits_taps (c : Chip) (i : Nat) : (c.latchWaits i).taps = c.taps := rfl
@[simp] theorem Chip.latchWaits_island (c : Chip) (i : Nat) : (c.latchWaits i).island = c.island := rfl
@[simp] theorem Chip.latchWaits_power (c : Chip) (i : Nat) : (c.latchWaits i).power = c.power := rfl
@[simp] theorem Chip.latchWaits_pldm (c : Chip) (i : Nat) : (c.latchWaits i).pldm = c.pldm := rfl
@[simp] theorem Chip.latchWaits_regs (c : Chip) (i : Nat) : (c.latchWaits i).regs = c.regs := rfl
@[simp] theorem Chip.latchWaits_mem (c : Chip) (i : Nat) : (c.latchWaits i).mem = c.mem := rfl
@[simp] theorem Chip.latchWaits_shelves (c : Chip) (i : Nat) : (c.latchWaits i).shelves = c.shelves := rfl
@[simp] theorem Chip.latchWaits_seqs (c : Chip) (i : Nat) : (c.latchWaits i).seqs = c.seqs := rfl
@[simp] theorem Chip.latchWaits_mes (c : Chip) (i : Nat) : (c.latchWaits i).mes = c.mes := rfl
@[simp] theorem Chip.latchWaits_tbs (c : Chip) (i : Nat) : (c.latchWaits i).tbs = c.tbs := rfl
@[simp] theorem Chip.latchWaits_caches (c : Chip) (i : Nat) : (c.latchWaits i).caches = c.caches := rfl
@[simp] theorem Chip.latchWaits_ves (c : Chip) (i : Nat) : (c.latchWaits i).ves = c.ves := rfl
@[simp] theorem Chip.latchWaits_keys (c : Chip) (i : Nat) : (c.latchWaits i).keys = c.keys := rfl
@[simp] theorem Chip.latchWaits_grps (c : Chip) (i : Nat) : (c.latchWaits i).grps = c.grps := rfl
@[simp] theorem Chip.latchWaits_poison (c : Chip) (i : Nat) : (c.latchWaits i).poison = c.poison := rfl
@[simp] theorem Chip.latchWaits_losses (c : Chip) (i : Nat) : (c.latchWaits i).losses = c.losses := rfl
@[simp] theorem Chip.latchWaits_bench (c : Chip) (i : Nat) : (c.latchWaits i).bench = c.bench := rfl
@[simp] theorem Chip.latchWaits_ports (c : Chip) (i : Nat) : (c.latchWaits i).ports = c.ports := rfl
@[simp] theorem Chip.latchWaits_noc (c : Chip) (i : Nat) : (c.latchWaits i).noc = c.noc := rfl
@[simp] theorem Chip.latchWaits_hostFns (c : Chip) (i : Nat) : (c.latchWaits i).hostFns = c.hostFns := rfl
@[simp] theorem Chip.latchWaits_perst (c : Chip) (i : Nat) : (c.latchWaits i).perst = c.perst := rfl
@[simp] theorem Chip.latchWaits_reqs (c : Chip) (i : Nat) : (c.latchWaits i).reqs = c.reqs := rfl
@[simp] theorem Chip.latchWaits_tagCtr (c : Chip) (i : Nat) : (c.latchWaits i).tagCtr = c.tagCtr := rfl
@[simp] theorem Chip.latchWaits_syncTx (c : Chip) (i : Nat) : (c.latchWaits i).syncTx = c.syncTx := rfl
@[simp] theorem Chip.latchWaits_syncRx (c : Chip) (i : Nat) : (c.latchWaits i).syncRx = c.syncRx := rfl
@[simp] theorem Chip.latchWaits_syncHeld (c : Chip) (i : Nat) : (c.latchWaits i).syncHeld = c.syncHeld := rfl
@[simp] theorem Chip.latchWaits_dmas (c : Chip) (i : Nat) : (c.latchWaits i).dmas = c.dmas := rfl
@[simp] theorem Chip.latchWaits_rseqs (c : Chip) (i : Nat) : (c.latchWaits i).rseqs = c.rseqs := rfl
@[simp] theorem Chip.latchWaits_steps (c : Chip) (i : Nat) : (c.latchWaits i).steps = c.steps := rfl
@[simp] theorem Chip.latchWaits_rolled (c : Chip) (i : Nat) : (c.latchWaits i).rolled = c.rolled := rfl
@[simp] theorem Chip.latchWaits_spent (c : Chip) (i : Nat) : (c.latchWaits i).spent = c.spent := rfl
@[simp] theorem Chip.latchWaits_queues (c : Chip) (i : Nat) : (c.latchWaits i).queues = c.queues := rfl
@[simp] theorem Chip.latchWaits_wqLast (c : Chip) (i : Nat) : (c.latchWaits i).wqLast = c.wqLast := rfl
@[simp] theorem Chip.latchWaits_seqCtxs (c : Chip) (i : Nat) : (c.latchWaits i).seqCtxs = c.seqCtxs := rfl
@[simp] theorem Chip.latchWaits_partRuns (c : Chip) (i : Nat) : (c.latchWaits i).partRuns = c.partRuns := rfl
@[simp] theorem Chip.latchWaits_setTurn (c : Chip) (i : Nat) : (c.latchWaits i).setTurn = c.setTurn := rfl
@[simp] theorem Chip.latchWaits_image (c : Chip) (i : Nat) : (c.latchWaits i).image = c.image := rfl
@[simp] theorem Chip.latchWaits_stages (c : Chip) (i : Nat) : (c.latchWaits i).stages = c.stages := rfl
@[simp] theorem Chip.latchWaits_recov (c : Chip) (i : Nat) : (c.latchWaits i).recov = c.recov := rfl
@[simp] theorem Chip.latchWaits_cabGroups (c : Chip) (i : Nat) : (c.latchWaits i).cabGroups = c.cabGroups := rfl
@[simp] theorem Chip.latchWaits_cabSlice (c : Chip) (i : Nat) : (c.latchWaits i).cabSlice = c.cabSlice := rfl
@[simp] theorem Chip.latchWaits_failCtr (c : Chip) (i : Nat) : (c.latchWaits i).failCtr = c.failCtr := rfl
@[simp] theorem Chip.latchWaits_compReset (c : Chip) (i : Nat) : (c.latchWaits i).compReset = c.compReset := rfl
@[simp] theorem Chip.latchWaits_coreFail (c : Chip) (i : Nat) : (c.latchWaits i).coreFail = c.coreFail := rfl
@[simp] theorem Chip.latchWaits_portFail (c : Chip) (i : Nat) : (c.latchWaits i).portFail = c.portFail := rfl
@[simp] theorem Chip.latchWaits_lanesOut (c : Chip) (i : Nat) : (c.latchWaits i).lanesOut = c.lanesOut := rfl
@[simp] theorem Chip.latchWaits_out (c : Chip) (i : Nat) : (c.latchWaits i).out = c.out := rfl
@[simp] theorem Chip.latchWaits_freeCtr (c : Chip) (i : Nat) : (c.latchWaits i).freeCtr = c.freeCtr := rfl
@[simp] theorem Chip.latchWaits_getF (c : Chip) (i : Nat) (b : Blk) (f : Field) : (c.latchWaits i).getF b f = c.getF b f := rfl

/-! `Chip.nocHop`. -/

@[simp] theorem Chip.nocHop_por (c : Chip) (p k n : Nat) : (c.nocHop p k n).por = c.por := rfl
@[simp] theorem Chip.nocHop_board (c : Chip) (p k n : Nat) : (c.nocHop p k n).board = c.board := rfl
@[simp] theorem Chip.nocHop_straps (c : Chip) (p k n : Nat) : (c.nocHop p k n).straps = c.straps := rfl
@[simp] theorem Chip.nocHop_flash (c : Chip) (p k n : Nat) : (c.nocHop p k n).flash = c.flash := rfl
@[simp] theorem Chip.nocHop_taps (c : Chip) (p k n : Nat) : (c.nocHop p k n).taps = c.taps := rfl
@[simp] theorem Chip.nocHop_island (c : Chip) (p k n : Nat) : (c.nocHop p k n).island = c.island := rfl
@[simp] theorem Chip.nocHop_power (c : Chip) (p k n : Nat) : (c.nocHop p k n).power = c.power := rfl
@[simp] theorem Chip.nocHop_pldm (c : Chip) (p k n : Nat) : (c.nocHop p k n).pldm = c.pldm := rfl
@[simp] theorem Chip.nocHop_regs (c : Chip) (p k n : Nat) : (c.nocHop p k n).regs = c.regs := rfl
@[simp] theorem Chip.nocHop_mem (c : Chip) (p k n : Nat) : (c.nocHop p k n).mem = c.mem := rfl
@[simp] theorem Chip.nocHop_shelves (c : Chip) (p k n : Nat) : (c.nocHop p k n).shelves = c.shelves := rfl
@[simp] theorem Chip.nocHop_waits (c : Chip) (p k n : Nat) : (c.nocHop p k n).waits = c.waits := rfl
@[simp] theorem Chip.nocHop_seqs (c : Chip) (p k n : Nat) : (c.nocHop p k n).seqs = c.seqs := rfl
@[simp] theorem Chip.nocHop_mes (c : Chip) (p k n : Nat) : (c.nocHop p k n).mes = c.mes := rfl
@[simp] theorem Chip.nocHop_tbs (c : Chip) (p k n : Nat) : (c.nocHop p k n).tbs = c.tbs := rfl
@[simp] theorem Chip.nocHop_caches (c : Chip) (p k n : Nat) : (c.nocHop p k n).caches = c.caches := rfl
@[simp] theorem Chip.nocHop_ves (c : Chip) (p k n : Nat) : (c.nocHop p k n).ves = c.ves := rfl
@[simp] theorem Chip.nocHop_keys (c : Chip) (p k n : Nat) : (c.nocHop p k n).keys = c.keys := rfl
@[simp] theorem Chip.nocHop_grps (c : Chip) (p k n : Nat) : (c.nocHop p k n).grps = c.grps := rfl
@[simp] theorem Chip.nocHop_poison (c : Chip) (p k n : Nat) : (c.nocHop p k n).poison = c.poison := rfl
@[simp] theorem Chip.nocHop_losses (c : Chip) (p k n : Nat) : (c.nocHop p k n).losses = c.losses := rfl
@[simp] theorem Chip.nocHop_bench (c : Chip) (p k n : Nat) : (c.nocHop p k n).bench = c.bench := rfl
@[simp] theorem Chip.nocHop_ports (c : Chip) (p k n : Nat) : (c.nocHop p k n).ports = c.ports := rfl
@[simp] theorem Chip.nocHop_hostFns (c : Chip) (p k n : Nat) : (c.nocHop p k n).hostFns = c.hostFns := rfl
@[simp] theorem Chip.nocHop_perst (c : Chip) (p k n : Nat) : (c.nocHop p k n).perst = c.perst := rfl
@[simp] theorem Chip.nocHop_reqs (c : Chip) (p k n : Nat) : (c.nocHop p k n).reqs = c.reqs := rfl
@[simp] theorem Chip.nocHop_tagCtr (c : Chip) (p k n : Nat) : (c.nocHop p k n).tagCtr = c.tagCtr := rfl
@[simp] theorem Chip.nocHop_syncTx (c : Chip) (p k n : Nat) : (c.nocHop p k n).syncTx = c.syncTx := rfl
@[simp] theorem Chip.nocHop_syncRx (c : Chip) (p k n : Nat) : (c.nocHop p k n).syncRx = c.syncRx := rfl
@[simp] theorem Chip.nocHop_syncHeld (c : Chip) (p k n : Nat) : (c.nocHop p k n).syncHeld = c.syncHeld := rfl
@[simp] theorem Chip.nocHop_dmas (c : Chip) (p k n : Nat) : (c.nocHop p k n).dmas = c.dmas := rfl
@[simp] theorem Chip.nocHop_rseqs (c : Chip) (p k n : Nat) : (c.nocHop p k n).rseqs = c.rseqs := rfl
@[simp] theorem Chip.nocHop_steps (c : Chip) (p k n : Nat) : (c.nocHop p k n).steps = c.steps := rfl
@[simp] theorem Chip.nocHop_rolled (c : Chip) (p k n : Nat) : (c.nocHop p k n).rolled = c.rolled := rfl
@[simp] theorem Chip.nocHop_spent (c : Chip) (p k n : Nat) : (c.nocHop p k n).spent = c.spent := rfl
@[simp] theorem Chip.nocHop_queues (c : Chip) (p k n : Nat) : (c.nocHop p k n).queues = c.queues := rfl
@[simp] theorem Chip.nocHop_wqLast (c : Chip) (p k n : Nat) : (c.nocHop p k n).wqLast = c.wqLast := rfl
@[simp] theorem Chip.nocHop_seqCtxs (c : Chip) (p k n : Nat) : (c.nocHop p k n).seqCtxs = c.seqCtxs := rfl
@[simp] theorem Chip.nocHop_partRuns (c : Chip) (p k n : Nat) : (c.nocHop p k n).partRuns = c.partRuns := rfl
@[simp] theorem Chip.nocHop_setTurn (c : Chip) (p k n : Nat) : (c.nocHop p k n).setTurn = c.setTurn := rfl
@[simp] theorem Chip.nocHop_image (c : Chip) (p k n : Nat) : (c.nocHop p k n).image = c.image := rfl
@[simp] theorem Chip.nocHop_stages (c : Chip) (p k n : Nat) : (c.nocHop p k n).stages = c.stages := rfl
@[simp] theorem Chip.nocHop_recov (c : Chip) (p k n : Nat) : (c.nocHop p k n).recov = c.recov := rfl
@[simp] theorem Chip.nocHop_cabGroups (c : Chip) (p k n : Nat) : (c.nocHop p k n).cabGroups = c.cabGroups := rfl
@[simp] theorem Chip.nocHop_cabSlice (c : Chip) (p k n : Nat) : (c.nocHop p k n).cabSlice = c.cabSlice := rfl
@[simp] theorem Chip.nocHop_failCtr (c : Chip) (p k n : Nat) : (c.nocHop p k n).failCtr = c.failCtr := rfl
@[simp] theorem Chip.nocHop_compReset (c : Chip) (p k n : Nat) : (c.nocHop p k n).compReset = c.compReset := rfl
@[simp] theorem Chip.nocHop_coreFail (c : Chip) (p k n : Nat) : (c.nocHop p k n).coreFail = c.coreFail := rfl
@[simp] theorem Chip.nocHop_portFail (c : Chip) (p k n : Nat) : (c.nocHop p k n).portFail = c.portFail := rfl
@[simp] theorem Chip.nocHop_lanesOut (c : Chip) (p k n : Nat) : (c.nocHop p k n).lanesOut = c.lanesOut := rfl
@[simp] theorem Chip.nocHop_out (c : Chip) (p k n : Nat) : (c.nocHop p k n).out = c.out := rfl
@[simp] theorem Chip.nocHop_freeCtr (c : Chip) (p k n : Nat) : (c.nocHop p k n).freeCtr = c.freeCtr := rfl
@[simp] theorem Chip.nocHop_getF (c : Chip) (p k n : Nat) (b : Blk) (f : Field) : (c.nocHop p k n).getF b f = c.getF b f := rfl

/-! Units of a cluster or of the module: what was stored is read. -/

@[simp] theorem Chip.seqOf_setSeq_self (c : Chip) (cl k : Nat) (q : CoreSeq) : (c.setSeq cl k q).seqOf cl k = q := by
  simp [Chip.seqOf, Chip.setSeq]
theorem Chip.seqOf_setSeq_of_ne (c : Chip) {cl k cl' k' : Nat} (q : CoreSeq) (h : coreKey cl' k' ≠ coreKey cl k) : (c.setSeq cl k q).seqOf cl' k' = c.seqOf cl' k' := by
  simp [Chip.seqOf, Chip.setSeq, KMap.getD_insert_of_ne _ _ _ h]
@[simp] theorem Chip.meOf_setMe_self (c : Chip) (cl k : Nat) (q : Me) : (c.setMe cl k q).meOf cl k = q := by
  simp [Chip.meOf, Chip.setMe]
theorem Chip.meOf_setMe_of_ne (c : Chip) {cl k cl' k' : Nat} (q : Me) (h : coreKey cl' k' ≠ coreKey cl k) : (c.setMe cl k q).meOf cl' k' = c.meOf cl' k' := by
  simp [Chip.meOf, Chip.setMe, KMap.getD_insert_of_ne _ _ _ h]
@[simp] theorem Chip.tbOf_setTb_self (c : Chip) (cl k : Nat) (q : Tb) : (c.setTb cl k q).tbOf cl k = q := by
  simp [Chip.tbOf, Chip.setTb]
theorem Chip.tbOf_setTb_of_ne (c : Chip) {cl k cl' k' : Nat} (q : Tb) (h : coreKey cl' k' ≠ coreKey cl k) : (c.setTb cl k q).tbOf cl' k' = c.tbOf cl' k' := by
  simp [Chip.tbOf, Chip.setTb, KMap.getD_insert_of_ne _ _ _ h]
@[simp] theorem Chip.cacheOf_setCache_self (c : Chip) (cl k : Nat) (q : Cache) : (c.setCache cl k q).cacheOf cl k = q := by
  simp [Chip.cacheOf, Chip.setCache]
theorem Chip.cacheOf_setCache_of_ne (c : Chip) {cl k cl' k' : Nat} (q : Cache) (h : coreKey cl' k' ≠ coreKey cl k) : (c.setCache cl k q).cacheOf cl' k' = c.cacheOf cl' k' := by
  simp [Chip.cacheOf, Chip.setCache, KMap.getD_insert_of_ne _ _ _ h]
@[simp] theorem Chip.veOf_setVe_self (c : Chip) (cl k : Nat) (q : Ve) : (c.setVe cl k q).veOf cl k = q := by
  simp [Chip.veOf, Chip.setVe]
theorem Chip.veOf_setVe_of_ne (c : Chip) {cl k cl' k' : Nat} (q : Ve) (h : coreKey cl' k' ≠ coreKey cl k) : (c.setVe cl k q).veOf cl' k' = c.veOf cl' k' := by
  simp [Chip.veOf, Chip.setVe, KMap.getD_insert_of_ne _ _ _ h]
@[simp] theorem Chip.dmaOf_setDma_self (c : Chip) (cl : Nat) (q : DmaEng) : (c.setDma cl q).dmaOf cl = q := by
  simp [Chip.dmaOf, Chip.setDma]
theorem Chip.dmaOf_setDma_of_ne (c : Chip) {cl cl' : Nat} (q : DmaEng) (h : cl' ≠ cl) : (c.setDma cl q).dmaOf cl' = c.dmaOf cl' := by
  simp [Chip.dmaOf, Chip.setDma, KMap.getD_insert_of_ne _ _ _ h]
@[simp] theorem Chip.rseqOf_setRseq_self (c : Chip) (cl : Nat) (q : Rseq) : (c.setRseq cl q).rseqOf cl = q := by
  simp [Chip.rseqOf, Chip.setRseq]
theorem Chip.rseqOf_setRseq_of_ne (c : Chip) {cl cl' : Nat} (q : Rseq) (h : cl' ≠ cl) : (c.setRseq cl q).rseqOf cl' = c.rseqOf cl' := by
  simp [Chip.rseqOf, Chip.setRseq, KMap.getD_insert_of_ne _ _ _ h]
@[simp] theorem Chip.queueOf_setQueue_self (c : Chip) (n : Nat) (q : Queue) : (c.setQueue n q).queueOf n = q := by
  simp [Chip.queueOf, Chip.setQueue]
theorem Chip.queueOf_setQueue_of_ne (c : Chip) {n n' : Nat} (q : Queue) (h : n' ≠ n) : (c.setQueue n q).queueOf n' = c.queueOf n' := by
  simp [Chip.queueOf, Chip.setQueue, KMap.getD_insert_of_ne _ _ _ h]
@[simp] theorem Chip.portOf_setPort_self (c : Chip) (p : Nat) (q : JPort) : (c.setPort p q).portOf p = q := by
  simp [Chip.portOf, Chip.setPort]
theorem Chip.portOf_setPort_of_ne (c : Chip) {p p' : Nat} (q : JPort) (h : p' ≠ p) : (c.setPort p q).portOf p' = c.portOf p' := by
  simp [Chip.portOf, Chip.setPort, KMap.getD_insert_of_ne _ _ _ h]
@[simp] theorem Chip.grpOf_setGrp_self (c : Chip) (g : Nat) (q : Group) : (c.setGrp g q).grpOf g = q := by
  simp [Chip.grpOf, Chip.setGrp]
theorem Chip.grpOf_setGrp_of_ne (c : Chip) {g g' : Nat} (q : Group) (h : g' ≠ g) : (c.setGrp g q).grpOf g' = c.grpOf g' := by
  simp [Chip.grpOf, Chip.setGrp, KMap.getD_insert_of_ne _ _ _ h]
@[simp] theorem Chip.partRun_setPartRun_self (c : Chip) (p : Nat) (q : PartRun) : (c.setPartRun p q).partRun p = q := by
  simp [Chip.partRun, Chip.setPartRun]
theorem Chip.partRun_setPartRun_of_ne (c : Chip) {p p' : Nat} (q : PartRun) (h : p' ≠ p) : (c.setPartRun p q).partRun p' = c.partRun p' := by
  simp [Chip.partRun, Chip.setPartRun, KMap.getD_insert_of_ne _ _ _ h]

/-! A unit is read past updates of other fields. -/

@[simp] theorem Chip.seqOf_setF (c : Chip) (b : Blk) (f : Field) (v : Nat) (x0 x1 : Nat) : (c.setF b f v).seqOf x0 x1 = c.seqOf x0 x1 := rfl
@[simp] theorem Chip.seqOf_setMem (c : Chip) (m : Mem) (x0 x1 : Nat) : (c.setMem m).seqOf x0 x1 = c.seqOf x0 x1 := rfl
@[simp] theorem Chip.seqOf_tick (c : Chip) (x0 x1 : Nat) : (c.tick).seqOf x0 x1 = c.seqOf x0 x1 := rfl
@[simp] theorem Chip.seqOf_setMe (c : Chip) (cl k : Nat) (q : Me) (x0 x1 : Nat) : (c.setMe cl k q).seqOf x0 x1 = c.seqOf x0 x1 := rfl
@[simp] theorem Chip.seqOf_setTb (c : Chip) (cl k : Nat) (q : Tb) (x0 x1 : Nat) : (c.setTb cl k q).seqOf x0 x1 = c.seqOf x0 x1 := rfl
@[simp] theorem Chip.seqOf_setCache (c : Chip) (cl k : Nat) (q : Cache) (x0 x1 : Nat) : (c.setCache cl k q).seqOf x0 x1 = c.seqOf x0 x1 := rfl
@[simp] theorem Chip.seqOf_setVe (c : Chip) (cl k : Nat) (q : Ve) (x0 x1 : Nat) : (c.setVe cl k q).seqOf x0 x1 = c.seqOf x0 x1 := rfl
@[simp] theorem Chip.seqOf_setDma (c : Chip) (cl : Nat) (q : DmaEng) (x0 x1 : Nat) : (c.setDma cl q).seqOf x0 x1 = c.seqOf x0 x1 := rfl
@[simp] theorem Chip.seqOf_setRseq (c : Chip) (cl : Nat) (q : Rseq) (x0 x1 : Nat) : (c.setRseq cl q).seqOf x0 x1 = c.seqOf x0 x1 := rfl
@[simp] theorem Chip.seqOf_setStep (c : Chip) (cl g : Nat) (q : StepRun) (x0 x1 : Nat) : (c.setStep cl g q).seqOf x0 x1 = c.seqOf x0 x1 := rfl
@[simp] theorem Chip.seqOf_setQueue (c : Chip) (n : Nat) (q : Queue) (x0 x1 : Nat) : (c.setQueue n q).seqOf x0 x1 = c.seqOf x0 x1 := rfl
@[simp] theorem Chip.seqOf_setPort (c : Chip) (p : Nat) (q : JPort) (x0 x1 : Nat) : (c.setPort p q).seqOf x0 x1 = c.seqOf x0 x1 := rfl
@[simp] theorem Chip.seqOf_setGrp (c : Chip) (g : Nat) (q : Group) (x0 x1 : Nat) : (c.setGrp g q).seqOf x0 x1 = c.seqOf x0 x1 := rfl
@[simp] theorem Chip.seqOf_setPartRun (c : Chip) (p : Nat) (q : PartRun) (x0 x1 : Nat) : (c.setPartRun p q).seqOf x0 x1 = c.seqOf x0 x1 := rfl
@[simp] theorem Chip.seqOf_setRecov (c : Chip) (q : Recov) (x0 x1 : Nat) : (c.setRecov q).seqOf x0 x1 = c.seqOf x0 x1 := rfl
@[simp] theorem Chip.seqOf_setSeqCtx (c : Chip) (p i : Nat) (q : SeqCtx) (x0 x1 : Nat) : (c.setSeqCtx p i q).seqOf x0 x1 = c.seqOf x0 x1 := rfl
@[simp] theorem Chip.seqOf_addWait (c : Chip) (i t : Nat) (w : Waiter) (x0 x1 : Nat) : (c.addWait i t w).seqOf x0 x1 = c.seqOf x0 x1 := rfl
@[simp] theorem Chip.seqOf_dropWaits (c : Chip) (w : Waiter) (x0 x1 : Nat) : (c.dropWaits w).seqOf x0 x1 = c.seqOf x0 x1 := rfl
@[simp] theorem Chip.seqOf_latchWaits (c : Chip) (i : Nat) (x0 x1 : Nat) : (c.latchWaits i).seqOf x0 x1 = c.seqOf x0 x1 := rfl
@[simp] theorem Chip.seqOf_nocHop (c : Chip) (p k n : Nat) (x0 x1 : Nat) : (c.nocHop p k n).seqOf x0 x1 = c.seqOf x0 x1 := rfl
@[simp] theorem Chip.meOf_setF (c : Chip) (b : Blk) (f : Field) (v : Nat) (x0 x1 : Nat) : (c.setF b f v).meOf x0 x1 = c.meOf x0 x1 := rfl
@[simp] theorem Chip.meOf_setMem (c : Chip) (m : Mem) (x0 x1 : Nat) : (c.setMem m).meOf x0 x1 = c.meOf x0 x1 := rfl
@[simp] theorem Chip.meOf_tick (c : Chip) (x0 x1 : Nat) : (c.tick).meOf x0 x1 = c.meOf x0 x1 := rfl
@[simp] theorem Chip.meOf_setSeq (c : Chip) (cl k : Nat) (q : CoreSeq) (x0 x1 : Nat) : (c.setSeq cl k q).meOf x0 x1 = c.meOf x0 x1 := rfl
@[simp] theorem Chip.meOf_setTb (c : Chip) (cl k : Nat) (q : Tb) (x0 x1 : Nat) : (c.setTb cl k q).meOf x0 x1 = c.meOf x0 x1 := rfl
@[simp] theorem Chip.meOf_setCache (c : Chip) (cl k : Nat) (q : Cache) (x0 x1 : Nat) : (c.setCache cl k q).meOf x0 x1 = c.meOf x0 x1 := rfl
@[simp] theorem Chip.meOf_setVe (c : Chip) (cl k : Nat) (q : Ve) (x0 x1 : Nat) : (c.setVe cl k q).meOf x0 x1 = c.meOf x0 x1 := rfl
@[simp] theorem Chip.meOf_setDma (c : Chip) (cl : Nat) (q : DmaEng) (x0 x1 : Nat) : (c.setDma cl q).meOf x0 x1 = c.meOf x0 x1 := rfl
@[simp] theorem Chip.meOf_setRseq (c : Chip) (cl : Nat) (q : Rseq) (x0 x1 : Nat) : (c.setRseq cl q).meOf x0 x1 = c.meOf x0 x1 := rfl
@[simp] theorem Chip.meOf_setStep (c : Chip) (cl g : Nat) (q : StepRun) (x0 x1 : Nat) : (c.setStep cl g q).meOf x0 x1 = c.meOf x0 x1 := rfl
@[simp] theorem Chip.meOf_setQueue (c : Chip) (n : Nat) (q : Queue) (x0 x1 : Nat) : (c.setQueue n q).meOf x0 x1 = c.meOf x0 x1 := rfl
@[simp] theorem Chip.meOf_setPort (c : Chip) (p : Nat) (q : JPort) (x0 x1 : Nat) : (c.setPort p q).meOf x0 x1 = c.meOf x0 x1 := rfl
@[simp] theorem Chip.meOf_setGrp (c : Chip) (g : Nat) (q : Group) (x0 x1 : Nat) : (c.setGrp g q).meOf x0 x1 = c.meOf x0 x1 := rfl
@[simp] theorem Chip.meOf_setPartRun (c : Chip) (p : Nat) (q : PartRun) (x0 x1 : Nat) : (c.setPartRun p q).meOf x0 x1 = c.meOf x0 x1 := rfl
@[simp] theorem Chip.meOf_setRecov (c : Chip) (q : Recov) (x0 x1 : Nat) : (c.setRecov q).meOf x0 x1 = c.meOf x0 x1 := rfl
@[simp] theorem Chip.meOf_setSeqCtx (c : Chip) (p i : Nat) (q : SeqCtx) (x0 x1 : Nat) : (c.setSeqCtx p i q).meOf x0 x1 = c.meOf x0 x1 := rfl
@[simp] theorem Chip.meOf_addWait (c : Chip) (i t : Nat) (w : Waiter) (x0 x1 : Nat) : (c.addWait i t w).meOf x0 x1 = c.meOf x0 x1 := rfl
@[simp] theorem Chip.meOf_dropWaits (c : Chip) (w : Waiter) (x0 x1 : Nat) : (c.dropWaits w).meOf x0 x1 = c.meOf x0 x1 := rfl
@[simp] theorem Chip.meOf_latchWaits (c : Chip) (i : Nat) (x0 x1 : Nat) : (c.latchWaits i).meOf x0 x1 = c.meOf x0 x1 := rfl
@[simp] theorem Chip.meOf_nocHop (c : Chip) (p k n : Nat) (x0 x1 : Nat) : (c.nocHop p k n).meOf x0 x1 = c.meOf x0 x1 := rfl
@[simp] theorem Chip.tbOf_setF (c : Chip) (b : Blk) (f : Field) (v : Nat) (x0 x1 : Nat) : (c.setF b f v).tbOf x0 x1 = c.tbOf x0 x1 := rfl
@[simp] theorem Chip.tbOf_setMem (c : Chip) (m : Mem) (x0 x1 : Nat) : (c.setMem m).tbOf x0 x1 = c.tbOf x0 x1 := rfl
@[simp] theorem Chip.tbOf_tick (c : Chip) (x0 x1 : Nat) : (c.tick).tbOf x0 x1 = c.tbOf x0 x1 := rfl
@[simp] theorem Chip.tbOf_setSeq (c : Chip) (cl k : Nat) (q : CoreSeq) (x0 x1 : Nat) : (c.setSeq cl k q).tbOf x0 x1 = c.tbOf x0 x1 := rfl
@[simp] theorem Chip.tbOf_setMe (c : Chip) (cl k : Nat) (q : Me) (x0 x1 : Nat) : (c.setMe cl k q).tbOf x0 x1 = c.tbOf x0 x1 := rfl
@[simp] theorem Chip.tbOf_setCache (c : Chip) (cl k : Nat) (q : Cache) (x0 x1 : Nat) : (c.setCache cl k q).tbOf x0 x1 = c.tbOf x0 x1 := rfl
@[simp] theorem Chip.tbOf_setVe (c : Chip) (cl k : Nat) (q : Ve) (x0 x1 : Nat) : (c.setVe cl k q).tbOf x0 x1 = c.tbOf x0 x1 := rfl
@[simp] theorem Chip.tbOf_setDma (c : Chip) (cl : Nat) (q : DmaEng) (x0 x1 : Nat) : (c.setDma cl q).tbOf x0 x1 = c.tbOf x0 x1 := rfl
@[simp] theorem Chip.tbOf_setRseq (c : Chip) (cl : Nat) (q : Rseq) (x0 x1 : Nat) : (c.setRseq cl q).tbOf x0 x1 = c.tbOf x0 x1 := rfl
@[simp] theorem Chip.tbOf_setStep (c : Chip) (cl g : Nat) (q : StepRun) (x0 x1 : Nat) : (c.setStep cl g q).tbOf x0 x1 = c.tbOf x0 x1 := rfl
@[simp] theorem Chip.tbOf_setQueue (c : Chip) (n : Nat) (q : Queue) (x0 x1 : Nat) : (c.setQueue n q).tbOf x0 x1 = c.tbOf x0 x1 := rfl
@[simp] theorem Chip.tbOf_setPort (c : Chip) (p : Nat) (q : JPort) (x0 x1 : Nat) : (c.setPort p q).tbOf x0 x1 = c.tbOf x0 x1 := rfl
@[simp] theorem Chip.tbOf_setGrp (c : Chip) (g : Nat) (q : Group) (x0 x1 : Nat) : (c.setGrp g q).tbOf x0 x1 = c.tbOf x0 x1 := rfl
@[simp] theorem Chip.tbOf_setPartRun (c : Chip) (p : Nat) (q : PartRun) (x0 x1 : Nat) : (c.setPartRun p q).tbOf x0 x1 = c.tbOf x0 x1 := rfl
@[simp] theorem Chip.tbOf_setRecov (c : Chip) (q : Recov) (x0 x1 : Nat) : (c.setRecov q).tbOf x0 x1 = c.tbOf x0 x1 := rfl
@[simp] theorem Chip.tbOf_setSeqCtx (c : Chip) (p i : Nat) (q : SeqCtx) (x0 x1 : Nat) : (c.setSeqCtx p i q).tbOf x0 x1 = c.tbOf x0 x1 := rfl
@[simp] theorem Chip.tbOf_addWait (c : Chip) (i t : Nat) (w : Waiter) (x0 x1 : Nat) : (c.addWait i t w).tbOf x0 x1 = c.tbOf x0 x1 := rfl
@[simp] theorem Chip.tbOf_dropWaits (c : Chip) (w : Waiter) (x0 x1 : Nat) : (c.dropWaits w).tbOf x0 x1 = c.tbOf x0 x1 := rfl
@[simp] theorem Chip.tbOf_latchWaits (c : Chip) (i : Nat) (x0 x1 : Nat) : (c.latchWaits i).tbOf x0 x1 = c.tbOf x0 x1 := rfl
@[simp] theorem Chip.tbOf_nocHop (c : Chip) (p k n : Nat) (x0 x1 : Nat) : (c.nocHop p k n).tbOf x0 x1 = c.tbOf x0 x1 := rfl
@[simp] theorem Chip.cacheOf_setF (c : Chip) (b : Blk) (f : Field) (v : Nat) (x0 x1 : Nat) : (c.setF b f v).cacheOf x0 x1 = c.cacheOf x0 x1 := rfl
@[simp] theorem Chip.cacheOf_setMem (c : Chip) (m : Mem) (x0 x1 : Nat) : (c.setMem m).cacheOf x0 x1 = c.cacheOf x0 x1 := rfl
@[simp] theorem Chip.cacheOf_tick (c : Chip) (x0 x1 : Nat) : (c.tick).cacheOf x0 x1 = c.cacheOf x0 x1 := rfl
@[simp] theorem Chip.cacheOf_setSeq (c : Chip) (cl k : Nat) (q : CoreSeq) (x0 x1 : Nat) : (c.setSeq cl k q).cacheOf x0 x1 = c.cacheOf x0 x1 := rfl
@[simp] theorem Chip.cacheOf_setMe (c : Chip) (cl k : Nat) (q : Me) (x0 x1 : Nat) : (c.setMe cl k q).cacheOf x0 x1 = c.cacheOf x0 x1 := rfl
@[simp] theorem Chip.cacheOf_setTb (c : Chip) (cl k : Nat) (q : Tb) (x0 x1 : Nat) : (c.setTb cl k q).cacheOf x0 x1 = c.cacheOf x0 x1 := rfl
@[simp] theorem Chip.cacheOf_setVe (c : Chip) (cl k : Nat) (q : Ve) (x0 x1 : Nat) : (c.setVe cl k q).cacheOf x0 x1 = c.cacheOf x0 x1 := rfl
@[simp] theorem Chip.cacheOf_setDma (c : Chip) (cl : Nat) (q : DmaEng) (x0 x1 : Nat) : (c.setDma cl q).cacheOf x0 x1 = c.cacheOf x0 x1 := rfl
@[simp] theorem Chip.cacheOf_setRseq (c : Chip) (cl : Nat) (q : Rseq) (x0 x1 : Nat) : (c.setRseq cl q).cacheOf x0 x1 = c.cacheOf x0 x1 := rfl
@[simp] theorem Chip.cacheOf_setStep (c : Chip) (cl g : Nat) (q : StepRun) (x0 x1 : Nat) : (c.setStep cl g q).cacheOf x0 x1 = c.cacheOf x0 x1 := rfl
@[simp] theorem Chip.cacheOf_setQueue (c : Chip) (n : Nat) (q : Queue) (x0 x1 : Nat) : (c.setQueue n q).cacheOf x0 x1 = c.cacheOf x0 x1 := rfl
@[simp] theorem Chip.cacheOf_setPort (c : Chip) (p : Nat) (q : JPort) (x0 x1 : Nat) : (c.setPort p q).cacheOf x0 x1 = c.cacheOf x0 x1 := rfl
@[simp] theorem Chip.cacheOf_setGrp (c : Chip) (g : Nat) (q : Group) (x0 x1 : Nat) : (c.setGrp g q).cacheOf x0 x1 = c.cacheOf x0 x1 := rfl
@[simp] theorem Chip.cacheOf_setPartRun (c : Chip) (p : Nat) (q : PartRun) (x0 x1 : Nat) : (c.setPartRun p q).cacheOf x0 x1 = c.cacheOf x0 x1 := rfl
@[simp] theorem Chip.cacheOf_setRecov (c : Chip) (q : Recov) (x0 x1 : Nat) : (c.setRecov q).cacheOf x0 x1 = c.cacheOf x0 x1 := rfl
@[simp] theorem Chip.cacheOf_setSeqCtx (c : Chip) (p i : Nat) (q : SeqCtx) (x0 x1 : Nat) : (c.setSeqCtx p i q).cacheOf x0 x1 = c.cacheOf x0 x1 := rfl
@[simp] theorem Chip.cacheOf_addWait (c : Chip) (i t : Nat) (w : Waiter) (x0 x1 : Nat) : (c.addWait i t w).cacheOf x0 x1 = c.cacheOf x0 x1 := rfl
@[simp] theorem Chip.cacheOf_dropWaits (c : Chip) (w : Waiter) (x0 x1 : Nat) : (c.dropWaits w).cacheOf x0 x1 = c.cacheOf x0 x1 := rfl
@[simp] theorem Chip.cacheOf_latchWaits (c : Chip) (i : Nat) (x0 x1 : Nat) : (c.latchWaits i).cacheOf x0 x1 = c.cacheOf x0 x1 := rfl
@[simp] theorem Chip.cacheOf_nocHop (c : Chip) (p k n : Nat) (x0 x1 : Nat) : (c.nocHop p k n).cacheOf x0 x1 = c.cacheOf x0 x1 := rfl
@[simp] theorem Chip.veOf_setF (c : Chip) (b : Blk) (f : Field) (v : Nat) (x0 x1 : Nat) : (c.setF b f v).veOf x0 x1 = c.veOf x0 x1 := rfl
@[simp] theorem Chip.veOf_setMem (c : Chip) (m : Mem) (x0 x1 : Nat) : (c.setMem m).veOf x0 x1 = c.veOf x0 x1 := rfl
@[simp] theorem Chip.veOf_tick (c : Chip) (x0 x1 : Nat) : (c.tick).veOf x0 x1 = c.veOf x0 x1 := rfl
@[simp] theorem Chip.veOf_setSeq (c : Chip) (cl k : Nat) (q : CoreSeq) (x0 x1 : Nat) : (c.setSeq cl k q).veOf x0 x1 = c.veOf x0 x1 := rfl
@[simp] theorem Chip.veOf_setMe (c : Chip) (cl k : Nat) (q : Me) (x0 x1 : Nat) : (c.setMe cl k q).veOf x0 x1 = c.veOf x0 x1 := rfl
@[simp] theorem Chip.veOf_setTb (c : Chip) (cl k : Nat) (q : Tb) (x0 x1 : Nat) : (c.setTb cl k q).veOf x0 x1 = c.veOf x0 x1 := rfl
@[simp] theorem Chip.veOf_setCache (c : Chip) (cl k : Nat) (q : Cache) (x0 x1 : Nat) : (c.setCache cl k q).veOf x0 x1 = c.veOf x0 x1 := rfl
@[simp] theorem Chip.veOf_setDma (c : Chip) (cl : Nat) (q : DmaEng) (x0 x1 : Nat) : (c.setDma cl q).veOf x0 x1 = c.veOf x0 x1 := rfl
@[simp] theorem Chip.veOf_setRseq (c : Chip) (cl : Nat) (q : Rseq) (x0 x1 : Nat) : (c.setRseq cl q).veOf x0 x1 = c.veOf x0 x1 := rfl
@[simp] theorem Chip.veOf_setStep (c : Chip) (cl g : Nat) (q : StepRun) (x0 x1 : Nat) : (c.setStep cl g q).veOf x0 x1 = c.veOf x0 x1 := rfl
@[simp] theorem Chip.veOf_setQueue (c : Chip) (n : Nat) (q : Queue) (x0 x1 : Nat) : (c.setQueue n q).veOf x0 x1 = c.veOf x0 x1 := rfl
@[simp] theorem Chip.veOf_setPort (c : Chip) (p : Nat) (q : JPort) (x0 x1 : Nat) : (c.setPort p q).veOf x0 x1 = c.veOf x0 x1 := rfl
@[simp] theorem Chip.veOf_setGrp (c : Chip) (g : Nat) (q : Group) (x0 x1 : Nat) : (c.setGrp g q).veOf x0 x1 = c.veOf x0 x1 := rfl
@[simp] theorem Chip.veOf_setPartRun (c : Chip) (p : Nat) (q : PartRun) (x0 x1 : Nat) : (c.setPartRun p q).veOf x0 x1 = c.veOf x0 x1 := rfl
@[simp] theorem Chip.veOf_setRecov (c : Chip) (q : Recov) (x0 x1 : Nat) : (c.setRecov q).veOf x0 x1 = c.veOf x0 x1 := rfl
@[simp] theorem Chip.veOf_setSeqCtx (c : Chip) (p i : Nat) (q : SeqCtx) (x0 x1 : Nat) : (c.setSeqCtx p i q).veOf x0 x1 = c.veOf x0 x1 := rfl
@[simp] theorem Chip.veOf_addWait (c : Chip) (i t : Nat) (w : Waiter) (x0 x1 : Nat) : (c.addWait i t w).veOf x0 x1 = c.veOf x0 x1 := rfl
@[simp] theorem Chip.veOf_dropWaits (c : Chip) (w : Waiter) (x0 x1 : Nat) : (c.dropWaits w).veOf x0 x1 = c.veOf x0 x1 := rfl
@[simp] theorem Chip.veOf_latchWaits (c : Chip) (i : Nat) (x0 x1 : Nat) : (c.latchWaits i).veOf x0 x1 = c.veOf x0 x1 := rfl
@[simp] theorem Chip.veOf_nocHop (c : Chip) (p k n : Nat) (x0 x1 : Nat) : (c.nocHop p k n).veOf x0 x1 = c.veOf x0 x1 := rfl
@[simp] theorem Chip.dmaOf_setF (c : Chip) (b : Blk) (f : Field) (v : Nat) (x0 : Nat) : (c.setF b f v).dmaOf x0 = c.dmaOf x0 := rfl
@[simp] theorem Chip.dmaOf_setMem (c : Chip) (m : Mem) (x0 : Nat) : (c.setMem m).dmaOf x0 = c.dmaOf x0 := rfl
@[simp] theorem Chip.dmaOf_tick (c : Chip) (x0 : Nat) : (c.tick).dmaOf x0 = c.dmaOf x0 := rfl
@[simp] theorem Chip.dmaOf_setSeq (c : Chip) (cl k : Nat) (q : CoreSeq) (x0 : Nat) : (c.setSeq cl k q).dmaOf x0 = c.dmaOf x0 := rfl
@[simp] theorem Chip.dmaOf_setMe (c : Chip) (cl k : Nat) (q : Me) (x0 : Nat) : (c.setMe cl k q).dmaOf x0 = c.dmaOf x0 := rfl
@[simp] theorem Chip.dmaOf_setTb (c : Chip) (cl k : Nat) (q : Tb) (x0 : Nat) : (c.setTb cl k q).dmaOf x0 = c.dmaOf x0 := rfl
@[simp] theorem Chip.dmaOf_setCache (c : Chip) (cl k : Nat) (q : Cache) (x0 : Nat) : (c.setCache cl k q).dmaOf x0 = c.dmaOf x0 := rfl
@[simp] theorem Chip.dmaOf_setVe (c : Chip) (cl k : Nat) (q : Ve) (x0 : Nat) : (c.setVe cl k q).dmaOf x0 = c.dmaOf x0 := rfl
@[simp] theorem Chip.dmaOf_setRseq (c : Chip) (cl : Nat) (q : Rseq) (x0 : Nat) : (c.setRseq cl q).dmaOf x0 = c.dmaOf x0 := rfl
@[simp] theorem Chip.dmaOf_setStep (c : Chip) (cl g : Nat) (q : StepRun) (x0 : Nat) : (c.setStep cl g q).dmaOf x0 = c.dmaOf x0 := rfl
@[simp] theorem Chip.dmaOf_setQueue (c : Chip) (n : Nat) (q : Queue) (x0 : Nat) : (c.setQueue n q).dmaOf x0 = c.dmaOf x0 := rfl
@[simp] theorem Chip.dmaOf_setPort (c : Chip) (p : Nat) (q : JPort) (x0 : Nat) : (c.setPort p q).dmaOf x0 = c.dmaOf x0 := rfl
@[simp] theorem Chip.dmaOf_setGrp (c : Chip) (g : Nat) (q : Group) (x0 : Nat) : (c.setGrp g q).dmaOf x0 = c.dmaOf x0 := rfl
@[simp] theorem Chip.dmaOf_setPartRun (c : Chip) (p : Nat) (q : PartRun) (x0 : Nat) : (c.setPartRun p q).dmaOf x0 = c.dmaOf x0 := rfl
@[simp] theorem Chip.dmaOf_setRecov (c : Chip) (q : Recov) (x0 : Nat) : (c.setRecov q).dmaOf x0 = c.dmaOf x0 := rfl
@[simp] theorem Chip.dmaOf_setSeqCtx (c : Chip) (p i : Nat) (q : SeqCtx) (x0 : Nat) : (c.setSeqCtx p i q).dmaOf x0 = c.dmaOf x0 := rfl
@[simp] theorem Chip.dmaOf_addWait (c : Chip) (i t : Nat) (w : Waiter) (x0 : Nat) : (c.addWait i t w).dmaOf x0 = c.dmaOf x0 := rfl
@[simp] theorem Chip.dmaOf_dropWaits (c : Chip) (w : Waiter) (x0 : Nat) : (c.dropWaits w).dmaOf x0 = c.dmaOf x0 := rfl
@[simp] theorem Chip.dmaOf_latchWaits (c : Chip) (i : Nat) (x0 : Nat) : (c.latchWaits i).dmaOf x0 = c.dmaOf x0 := rfl
@[simp] theorem Chip.dmaOf_nocHop (c : Chip) (p k n : Nat) (x0 : Nat) : (c.nocHop p k n).dmaOf x0 = c.dmaOf x0 := rfl
@[simp] theorem Chip.rseqOf_setF (c : Chip) (b : Blk) (f : Field) (v : Nat) (x0 : Nat) : (c.setF b f v).rseqOf x0 = c.rseqOf x0 := rfl
@[simp] theorem Chip.rseqOf_setMem (c : Chip) (m : Mem) (x0 : Nat) : (c.setMem m).rseqOf x0 = c.rseqOf x0 := rfl
@[simp] theorem Chip.rseqOf_tick (c : Chip) (x0 : Nat) : (c.tick).rseqOf x0 = c.rseqOf x0 := rfl
@[simp] theorem Chip.rseqOf_setSeq (c : Chip) (cl k : Nat) (q : CoreSeq) (x0 : Nat) : (c.setSeq cl k q).rseqOf x0 = c.rseqOf x0 := rfl
@[simp] theorem Chip.rseqOf_setMe (c : Chip) (cl k : Nat) (q : Me) (x0 : Nat) : (c.setMe cl k q).rseqOf x0 = c.rseqOf x0 := rfl
@[simp] theorem Chip.rseqOf_setTb (c : Chip) (cl k : Nat) (q : Tb) (x0 : Nat) : (c.setTb cl k q).rseqOf x0 = c.rseqOf x0 := rfl
@[simp] theorem Chip.rseqOf_setCache (c : Chip) (cl k : Nat) (q : Cache) (x0 : Nat) : (c.setCache cl k q).rseqOf x0 = c.rseqOf x0 := rfl
@[simp] theorem Chip.rseqOf_setVe (c : Chip) (cl k : Nat) (q : Ve) (x0 : Nat) : (c.setVe cl k q).rseqOf x0 = c.rseqOf x0 := rfl
@[simp] theorem Chip.rseqOf_setDma (c : Chip) (cl : Nat) (q : DmaEng) (x0 : Nat) : (c.setDma cl q).rseqOf x0 = c.rseqOf x0 := rfl
@[simp] theorem Chip.rseqOf_setStep (c : Chip) (cl g : Nat) (q : StepRun) (x0 : Nat) : (c.setStep cl g q).rseqOf x0 = c.rseqOf x0 := rfl
@[simp] theorem Chip.rseqOf_setQueue (c : Chip) (n : Nat) (q : Queue) (x0 : Nat) : (c.setQueue n q).rseqOf x0 = c.rseqOf x0 := rfl
@[simp] theorem Chip.rseqOf_setPort (c : Chip) (p : Nat) (q : JPort) (x0 : Nat) : (c.setPort p q).rseqOf x0 = c.rseqOf x0 := rfl
@[simp] theorem Chip.rseqOf_setGrp (c : Chip) (g : Nat) (q : Group) (x0 : Nat) : (c.setGrp g q).rseqOf x0 = c.rseqOf x0 := rfl
@[simp] theorem Chip.rseqOf_setPartRun (c : Chip) (p : Nat) (q : PartRun) (x0 : Nat) : (c.setPartRun p q).rseqOf x0 = c.rseqOf x0 := rfl
@[simp] theorem Chip.rseqOf_setRecov (c : Chip) (q : Recov) (x0 : Nat) : (c.setRecov q).rseqOf x0 = c.rseqOf x0 := rfl
@[simp] theorem Chip.rseqOf_setSeqCtx (c : Chip) (p i : Nat) (q : SeqCtx) (x0 : Nat) : (c.setSeqCtx p i q).rseqOf x0 = c.rseqOf x0 := rfl
@[simp] theorem Chip.rseqOf_addWait (c : Chip) (i t : Nat) (w : Waiter) (x0 : Nat) : (c.addWait i t w).rseqOf x0 = c.rseqOf x0 := rfl
@[simp] theorem Chip.rseqOf_dropWaits (c : Chip) (w : Waiter) (x0 : Nat) : (c.dropWaits w).rseqOf x0 = c.rseqOf x0 := rfl
@[simp] theorem Chip.rseqOf_latchWaits (c : Chip) (i : Nat) (x0 : Nat) : (c.latchWaits i).rseqOf x0 = c.rseqOf x0 := rfl
@[simp] theorem Chip.rseqOf_nocHop (c : Chip) (p k n : Nat) (x0 : Nat) : (c.nocHop p k n).rseqOf x0 = c.rseqOf x0 := rfl
@[simp] theorem Chip.queueOf_setF (c : Chip) (b : Blk) (f : Field) (v : Nat) (x0 : Nat) : (c.setF b f v).queueOf x0 = c.queueOf x0 := rfl
@[simp] theorem Chip.queueOf_setMem (c : Chip) (m : Mem) (x0 : Nat) : (c.setMem m).queueOf x0 = c.queueOf x0 := rfl
@[simp] theorem Chip.queueOf_tick (c : Chip) (x0 : Nat) : (c.tick).queueOf x0 = c.queueOf x0 := rfl
@[simp] theorem Chip.queueOf_setSeq (c : Chip) (cl k : Nat) (q : CoreSeq) (x0 : Nat) : (c.setSeq cl k q).queueOf x0 = c.queueOf x0 := rfl
@[simp] theorem Chip.queueOf_setMe (c : Chip) (cl k : Nat) (q : Me) (x0 : Nat) : (c.setMe cl k q).queueOf x0 = c.queueOf x0 := rfl
@[simp] theorem Chip.queueOf_setTb (c : Chip) (cl k : Nat) (q : Tb) (x0 : Nat) : (c.setTb cl k q).queueOf x0 = c.queueOf x0 := rfl
@[simp] theorem Chip.queueOf_setCache (c : Chip) (cl k : Nat) (q : Cache) (x0 : Nat) : (c.setCache cl k q).queueOf x0 = c.queueOf x0 := rfl
@[simp] theorem Chip.queueOf_setVe (c : Chip) (cl k : Nat) (q : Ve) (x0 : Nat) : (c.setVe cl k q).queueOf x0 = c.queueOf x0 := rfl
@[simp] theorem Chip.queueOf_setDma (c : Chip) (cl : Nat) (q : DmaEng) (x0 : Nat) : (c.setDma cl q).queueOf x0 = c.queueOf x0 := rfl
@[simp] theorem Chip.queueOf_setRseq (c : Chip) (cl : Nat) (q : Rseq) (x0 : Nat) : (c.setRseq cl q).queueOf x0 = c.queueOf x0 := rfl
@[simp] theorem Chip.queueOf_setStep (c : Chip) (cl g : Nat) (q : StepRun) (x0 : Nat) : (c.setStep cl g q).queueOf x0 = c.queueOf x0 := rfl
@[simp] theorem Chip.queueOf_setPort (c : Chip) (p : Nat) (q : JPort) (x0 : Nat) : (c.setPort p q).queueOf x0 = c.queueOf x0 := rfl
@[simp] theorem Chip.queueOf_setGrp (c : Chip) (g : Nat) (q : Group) (x0 : Nat) : (c.setGrp g q).queueOf x0 = c.queueOf x0 := rfl
@[simp] theorem Chip.queueOf_setPartRun (c : Chip) (p : Nat) (q : PartRun) (x0 : Nat) : (c.setPartRun p q).queueOf x0 = c.queueOf x0 := rfl
@[simp] theorem Chip.queueOf_setRecov (c : Chip) (q : Recov) (x0 : Nat) : (c.setRecov q).queueOf x0 = c.queueOf x0 := rfl
@[simp] theorem Chip.queueOf_setSeqCtx (c : Chip) (p i : Nat) (q : SeqCtx) (x0 : Nat) : (c.setSeqCtx p i q).queueOf x0 = c.queueOf x0 := rfl
@[simp] theorem Chip.queueOf_addWait (c : Chip) (i t : Nat) (w : Waiter) (x0 : Nat) : (c.addWait i t w).queueOf x0 = c.queueOf x0 := rfl
@[simp] theorem Chip.queueOf_dropWaits (c : Chip) (w : Waiter) (x0 : Nat) : (c.dropWaits w).queueOf x0 = c.queueOf x0 := rfl
@[simp] theorem Chip.queueOf_latchWaits (c : Chip) (i : Nat) (x0 : Nat) : (c.latchWaits i).queueOf x0 = c.queueOf x0 := rfl
@[simp] theorem Chip.queueOf_nocHop (c : Chip) (p k n : Nat) (x0 : Nat) : (c.nocHop p k n).queueOf x0 = c.queueOf x0 := rfl
@[simp] theorem Chip.portOf_setF (c : Chip) (b : Blk) (f : Field) (v : Nat) (x0 : Nat) : (c.setF b f v).portOf x0 = c.portOf x0 := rfl
@[simp] theorem Chip.portOf_setMem (c : Chip) (m : Mem) (x0 : Nat) : (c.setMem m).portOf x0 = c.portOf x0 := rfl
@[simp] theorem Chip.portOf_tick (c : Chip) (x0 : Nat) : (c.tick).portOf x0 = c.portOf x0 := rfl
@[simp] theorem Chip.portOf_setSeq (c : Chip) (cl k : Nat) (q : CoreSeq) (x0 : Nat) : (c.setSeq cl k q).portOf x0 = c.portOf x0 := rfl
@[simp] theorem Chip.portOf_setMe (c : Chip) (cl k : Nat) (q : Me) (x0 : Nat) : (c.setMe cl k q).portOf x0 = c.portOf x0 := rfl
@[simp] theorem Chip.portOf_setTb (c : Chip) (cl k : Nat) (q : Tb) (x0 : Nat) : (c.setTb cl k q).portOf x0 = c.portOf x0 := rfl
@[simp] theorem Chip.portOf_setCache (c : Chip) (cl k : Nat) (q : Cache) (x0 : Nat) : (c.setCache cl k q).portOf x0 = c.portOf x0 := rfl
@[simp] theorem Chip.portOf_setVe (c : Chip) (cl k : Nat) (q : Ve) (x0 : Nat) : (c.setVe cl k q).portOf x0 = c.portOf x0 := rfl
@[simp] theorem Chip.portOf_setDma (c : Chip) (cl : Nat) (q : DmaEng) (x0 : Nat) : (c.setDma cl q).portOf x0 = c.portOf x0 := rfl
@[simp] theorem Chip.portOf_setRseq (c : Chip) (cl : Nat) (q : Rseq) (x0 : Nat) : (c.setRseq cl q).portOf x0 = c.portOf x0 := rfl
@[simp] theorem Chip.portOf_setStep (c : Chip) (cl g : Nat) (q : StepRun) (x0 : Nat) : (c.setStep cl g q).portOf x0 = c.portOf x0 := rfl
@[simp] theorem Chip.portOf_setQueue (c : Chip) (n : Nat) (q : Queue) (x0 : Nat) : (c.setQueue n q).portOf x0 = c.portOf x0 := rfl
@[simp] theorem Chip.portOf_setGrp (c : Chip) (g : Nat) (q : Group) (x0 : Nat) : (c.setGrp g q).portOf x0 = c.portOf x0 := rfl
@[simp] theorem Chip.portOf_setPartRun (c : Chip) (p : Nat) (q : PartRun) (x0 : Nat) : (c.setPartRun p q).portOf x0 = c.portOf x0 := rfl
@[simp] theorem Chip.portOf_setRecov (c : Chip) (q : Recov) (x0 : Nat) : (c.setRecov q).portOf x0 = c.portOf x0 := rfl
@[simp] theorem Chip.portOf_setSeqCtx (c : Chip) (p i : Nat) (q : SeqCtx) (x0 : Nat) : (c.setSeqCtx p i q).portOf x0 = c.portOf x0 := rfl
@[simp] theorem Chip.portOf_addWait (c : Chip) (i t : Nat) (w : Waiter) (x0 : Nat) : (c.addWait i t w).portOf x0 = c.portOf x0 := rfl
@[simp] theorem Chip.portOf_dropWaits (c : Chip) (w : Waiter) (x0 : Nat) : (c.dropWaits w).portOf x0 = c.portOf x0 := rfl
@[simp] theorem Chip.portOf_latchWaits (c : Chip) (i : Nat) (x0 : Nat) : (c.latchWaits i).portOf x0 = c.portOf x0 := rfl
@[simp] theorem Chip.portOf_nocHop (c : Chip) (p k n : Nat) (x0 : Nat) : (c.nocHop p k n).portOf x0 = c.portOf x0 := rfl
@[simp] theorem Chip.grpOf_setF (c : Chip) (b : Blk) (f : Field) (v : Nat) (x0 : Nat) : (c.setF b f v).grpOf x0 = c.grpOf x0 := rfl
@[simp] theorem Chip.grpOf_setMem (c : Chip) (m : Mem) (x0 : Nat) : (c.setMem m).grpOf x0 = c.grpOf x0 := rfl
@[simp] theorem Chip.grpOf_tick (c : Chip) (x0 : Nat) : (c.tick).grpOf x0 = c.grpOf x0 := rfl
@[simp] theorem Chip.grpOf_setSeq (c : Chip) (cl k : Nat) (q : CoreSeq) (x0 : Nat) : (c.setSeq cl k q).grpOf x0 = c.grpOf x0 := rfl
@[simp] theorem Chip.grpOf_setMe (c : Chip) (cl k : Nat) (q : Me) (x0 : Nat) : (c.setMe cl k q).grpOf x0 = c.grpOf x0 := rfl
@[simp] theorem Chip.grpOf_setTb (c : Chip) (cl k : Nat) (q : Tb) (x0 : Nat) : (c.setTb cl k q).grpOf x0 = c.grpOf x0 := rfl
@[simp] theorem Chip.grpOf_setCache (c : Chip) (cl k : Nat) (q : Cache) (x0 : Nat) : (c.setCache cl k q).grpOf x0 = c.grpOf x0 := rfl
@[simp] theorem Chip.grpOf_setVe (c : Chip) (cl k : Nat) (q : Ve) (x0 : Nat) : (c.setVe cl k q).grpOf x0 = c.grpOf x0 := rfl
@[simp] theorem Chip.grpOf_setDma (c : Chip) (cl : Nat) (q : DmaEng) (x0 : Nat) : (c.setDma cl q).grpOf x0 = c.grpOf x0 := rfl
@[simp] theorem Chip.grpOf_setRseq (c : Chip) (cl : Nat) (q : Rseq) (x0 : Nat) : (c.setRseq cl q).grpOf x0 = c.grpOf x0 := rfl
@[simp] theorem Chip.grpOf_setStep (c : Chip) (cl g : Nat) (q : StepRun) (x0 : Nat) : (c.setStep cl g q).grpOf x0 = c.grpOf x0 := rfl
@[simp] theorem Chip.grpOf_setQueue (c : Chip) (n : Nat) (q : Queue) (x0 : Nat) : (c.setQueue n q).grpOf x0 = c.grpOf x0 := rfl
@[simp] theorem Chip.grpOf_setPort (c : Chip) (p : Nat) (q : JPort) (x0 : Nat) : (c.setPort p q).grpOf x0 = c.grpOf x0 := rfl
@[simp] theorem Chip.grpOf_setPartRun (c : Chip) (p : Nat) (q : PartRun) (x0 : Nat) : (c.setPartRun p q).grpOf x0 = c.grpOf x0 := rfl
@[simp] theorem Chip.grpOf_setRecov (c : Chip) (q : Recov) (x0 : Nat) : (c.setRecov q).grpOf x0 = c.grpOf x0 := rfl
@[simp] theorem Chip.grpOf_setSeqCtx (c : Chip) (p i : Nat) (q : SeqCtx) (x0 : Nat) : (c.setSeqCtx p i q).grpOf x0 = c.grpOf x0 := rfl
@[simp] theorem Chip.grpOf_addWait (c : Chip) (i t : Nat) (w : Waiter) (x0 : Nat) : (c.addWait i t w).grpOf x0 = c.grpOf x0 := rfl
@[simp] theorem Chip.grpOf_dropWaits (c : Chip) (w : Waiter) (x0 : Nat) : (c.dropWaits w).grpOf x0 = c.grpOf x0 := rfl
@[simp] theorem Chip.grpOf_latchWaits (c : Chip) (i : Nat) (x0 : Nat) : (c.latchWaits i).grpOf x0 = c.grpOf x0 := rfl
@[simp] theorem Chip.grpOf_nocHop (c : Chip) (p k n : Nat) (x0 : Nat) : (c.nocHop p k n).grpOf x0 = c.grpOf x0 := rfl
@[simp] theorem Chip.partRun_setF (c : Chip) (b : Blk) (f : Field) (v : Nat) (x0 : Nat) : (c.setF b f v).partRun x0 = c.partRun x0 := rfl
@[simp] theorem Chip.partRun_setMem (c : Chip) (m : Mem) (x0 : Nat) : (c.setMem m).partRun x0 = c.partRun x0 := rfl
@[simp] theorem Chip.partRun_tick (c : Chip) (x0 : Nat) : (c.tick).partRun x0 = c.partRun x0 := rfl
@[simp] theorem Chip.partRun_setSeq (c : Chip) (cl k : Nat) (q : CoreSeq) (x0 : Nat) : (c.setSeq cl k q).partRun x0 = c.partRun x0 := rfl
@[simp] theorem Chip.partRun_setMe (c : Chip) (cl k : Nat) (q : Me) (x0 : Nat) : (c.setMe cl k q).partRun x0 = c.partRun x0 := rfl
@[simp] theorem Chip.partRun_setTb (c : Chip) (cl k : Nat) (q : Tb) (x0 : Nat) : (c.setTb cl k q).partRun x0 = c.partRun x0 := rfl
@[simp] theorem Chip.partRun_setCache (c : Chip) (cl k : Nat) (q : Cache) (x0 : Nat) : (c.setCache cl k q).partRun x0 = c.partRun x0 := rfl
@[simp] theorem Chip.partRun_setVe (c : Chip) (cl k : Nat) (q : Ve) (x0 : Nat) : (c.setVe cl k q).partRun x0 = c.partRun x0 := rfl
@[simp] theorem Chip.partRun_setDma (c : Chip) (cl : Nat) (q : DmaEng) (x0 : Nat) : (c.setDma cl q).partRun x0 = c.partRun x0 := rfl
@[simp] theorem Chip.partRun_setRseq (c : Chip) (cl : Nat) (q : Rseq) (x0 : Nat) : (c.setRseq cl q).partRun x0 = c.partRun x0 := rfl
@[simp] theorem Chip.partRun_setStep (c : Chip) (cl g : Nat) (q : StepRun) (x0 : Nat) : (c.setStep cl g q).partRun x0 = c.partRun x0 := rfl
@[simp] theorem Chip.partRun_setQueue (c : Chip) (n : Nat) (q : Queue) (x0 : Nat) : (c.setQueue n q).partRun x0 = c.partRun x0 := rfl
@[simp] theorem Chip.partRun_setPort (c : Chip) (p : Nat) (q : JPort) (x0 : Nat) : (c.setPort p q).partRun x0 = c.partRun x0 := rfl
@[simp] theorem Chip.partRun_setGrp (c : Chip) (g : Nat) (q : Group) (x0 : Nat) : (c.setGrp g q).partRun x0 = c.partRun x0 := rfl
@[simp] theorem Chip.partRun_setRecov (c : Chip) (q : Recov) (x0 : Nat) : (c.setRecov q).partRun x0 = c.partRun x0 := rfl
@[simp] theorem Chip.partRun_setSeqCtx (c : Chip) (p i : Nat) (q : SeqCtx) (x0 : Nat) : (c.setSeqCtx p i q).partRun x0 = c.partRun x0 := rfl
@[simp] theorem Chip.partRun_addWait (c : Chip) (i t : Nat) (w : Waiter) (x0 : Nat) : (c.addWait i t w).partRun x0 = c.partRun x0 := rfl
@[simp] theorem Chip.partRun_dropWaits (c : Chip) (w : Waiter) (x0 : Nat) : (c.dropWaits w).partRun x0 = c.partRun x0 := rfl
@[simp] theorem Chip.partRun_latchWaits (c : Chip) (i : Nat) (x0 : Nat) : (c.latchWaits i).partRun x0 = c.partRun x0 := rfl
@[simp] theorem Chip.partRun_nocHop (c : Chip) (p k n : Nat) (x0 : Nat) : (c.nocHop p k n).partRun x0 = c.partRun x0 := rfl
@[simp] theorem Chip.syncVal_setMem (c : Chip) (m : Mem) (x0 : Nat) : (c.setMem m).syncVal x0 = c.syncVal x0 := rfl
@[simp] theorem Chip.syncVal_tick (c : Chip) (x0 : Nat) : (c.tick).syncVal x0 = c.syncVal x0 := rfl
@[simp] theorem Chip.syncVal_setSeq (c : Chip) (cl k : Nat) (q : CoreSeq) (x0 : Nat) : (c.setSeq cl k q).syncVal x0 = c.syncVal x0 := rfl
@[simp] theorem Chip.syncVal_setMe (c : Chip) (cl k : Nat) (q : Me) (x0 : Nat) : (c.setMe cl k q).syncVal x0 = c.syncVal x0 := rfl
@[simp] theorem Chip.syncVal_setTb (c : Chip) (cl k : Nat) (q : Tb) (x0 : Nat) : (c.setTb cl k q).syncVal x0 = c.syncVal x0 := rfl
@[simp] theorem Chip.syncVal_setCache (c : Chip) (cl k : Nat) (q : Cache) (x0 : Nat) : (c.setCache cl k q).syncVal x0 = c.syncVal x0 := rfl
@[simp] theorem Chip.syncVal_setVe (c : Chip) (cl k : Nat) (q : Ve) (x0 : Nat) : (c.setVe cl k q).syncVal x0 = c.syncVal x0 := rfl
@[simp] theorem Chip.syncVal_setDma (c : Chip) (cl : Nat) (q : DmaEng) (x0 : Nat) : (c.setDma cl q).syncVal x0 = c.syncVal x0 := rfl
@[simp] theorem Chip.syncVal_setRseq (c : Chip) (cl : Nat) (q : Rseq) (x0 : Nat) : (c.setRseq cl q).syncVal x0 = c.syncVal x0 := rfl
@[simp] theorem Chip.syncVal_setStep (c : Chip) (cl g : Nat) (q : StepRun) (x0 : Nat) : (c.setStep cl g q).syncVal x0 = c.syncVal x0 := rfl
@[simp] theorem Chip.syncVal_setQueue (c : Chip) (n : Nat) (q : Queue) (x0 : Nat) : (c.setQueue n q).syncVal x0 = c.syncVal x0 := rfl
@[simp] theorem Chip.syncVal_setPort (c : Chip) (p : Nat) (q : JPort) (x0 : Nat) : (c.setPort p q).syncVal x0 = c.syncVal x0 := rfl
@[simp] theorem Chip.syncVal_setGrp (c : Chip) (g : Nat) (q : Group) (x0 : Nat) : (c.setGrp g q).syncVal x0 = c.syncVal x0 := rfl
@[simp] theorem Chip.syncVal_setPartRun (c : Chip) (p : Nat) (q : PartRun) (x0 : Nat) : (c.setPartRun p q).syncVal x0 = c.syncVal x0 := rfl
@[simp] theorem Chip.syncVal_setRecov (c : Chip) (q : Recov) (x0 : Nat) : (c.setRecov q).syncVal x0 = c.syncVal x0 := rfl
@[simp] theorem Chip.syncVal_setSeqCtx (c : Chip) (p i : Nat) (q : SeqCtx) (x0 : Nat) : (c.setSeqCtx p i q).syncVal x0 = c.syncVal x0 := rfl
@[simp] theorem Chip.syncVal_addWait (c : Chip) (i t : Nat) (w : Waiter) (x0 : Nat) : (c.addWait i t w).syncVal x0 = c.syncVal x0 := rfl
@[simp] theorem Chip.syncVal_dropWaits (c : Chip) (w : Waiter) (x0 : Nat) : (c.dropWaits w).syncVal x0 = c.syncVal x0 := rfl
@[simp] theorem Chip.syncVal_latchWaits (c : Chip) (i : Nat) (x0 : Nat) : (c.latchWaits i).syncVal x0 = c.syncVal x0 := rfl
@[simp] theorem Chip.syncVal_nocHop (c : Chip) (p k n : Nat) (x0 : Nat) : (c.nocHop p k n).syncVal x0 = c.syncVal x0 := rfl

end Sys2Proof.Machine
end

