-- ==== Sys2Proof/Laws/Memory.lean ====
section
/-! SUPPORT. Laws of memory: every operation keeps the canonical form, a read after a write gives what was written, and other bytes stay. -/

namespace Sys2Proof.Machine

/-! The canonical form. -/

theorem Mem.wf_nil : Mem.wf [] := by simp [Mem.wf]

/-- Keys of an insertion. -/
theorem KMap.mem_insert {α : Type} (m : KMap α) (k : Nat) (v : α) (e : Nat × α) (h : e ∈ m.insert k v) : e = (k, v) ∨ e ∈ m := by
  induction m with
  | nil => simpa [KMap.insert] using h
  | cons a r ih =>
    obtain ⟨k', v'⟩ := a
    simp only [KMap.insert] at h
    split at h
    · simpa using h
    · split at h
      · rcases List.mem_cons.mp h with h | h
        · exact Or.inl h
        · exact Or.inr (List.mem_cons_of_mem _ h)
      · rcases List.mem_cons.mp h with h | h
        · exact Or.inr (by simp [h])
        · rcases ih h with h | h
          · exact Or.inl h
          · exact Or.inr (List.mem_cons_of_mem _ h)

/-- An insertion keeps the keys rising. -/
theorem KMap.rising_insert {α : Type} (m : KMap α) (k : Nat) (v : α) (h : (m.map Prod.fst).Pairwise (· < ·)) :
    ((m.insert k v).map Prod.fst).Pairwise (· < ·) := by
  induction m with
  | nil => simp [KMap.insert]
  | cons a r ih =>
    obtain ⟨k', v'⟩ := a
    rw [List.map_cons, List.pairwise_cons] at h
    obtain ⟨h1, h2⟩ := h
    simp only [KMap.insert]
    split
    · rename_i hk
      rw [List.map_cons, List.map_cons, List.pairwise_cons, List.pairwise_cons]
      refine ⟨?_, h1, h2⟩
      intro x hx
      rcases List.mem_cons.mp hx with hx | hx
      · subst hx; exact hk
      · exact lt_trans hk (h1 x hx)
    · split
      · rename_i _ hk
        subst hk
        rw [List.map_cons, List.pairwise_cons]
        exact ⟨h1, h2⟩
      · rename_i hk1 hk2
        rw [List.map_cons, List.pairwise_cons]
        refine ⟨?_, ih h2⟩
        intro x hx
        obtain ⟨e, he, rfl⟩ := List.mem_map.mp hx
        rcases KMap.mem_insert r k v e he with he | he
        · subst he
          show k' < k
          omega
        · exact h1 _ (List.mem_map.mpr ⟨e, he, rfl⟩)

/-- A selection of entries keeps the canonical form. -/
theorem Mem.wf_filter {m : Mem} (p : Host.Cell → Bool) (h : Mem.wf m) : Mem.wf (m.filter p) := by
  refine ⟨?_, ?_⟩
  · exact h.1.sublist (List.filter_sublist.map Prod.fst)
  · intro c hc
    exact h.2 c (List.mem_filter.mp hc).1

theorem Mem.wf_write {m : Mem} (a : Nat) (b : Byte) (h : Mem.wf m) : Mem.wf (m.write a b) := by
  unfold Mem.write
  split
  · exact Mem.wf_filter _ h
  · rename_i hb
    refine ⟨KMap.rising_insert m a b h.1, ?_⟩
    intro c hc
    rcases KMap.mem_insert m a b c hc with hc | hc
    · subst hc; exact hb
    · exact h.2 c hc

theorem Mem.wf_writeN {m : Mem} (a : Nat) (bs : List Byte) (h : Mem.wf m) : Mem.wf (m.writeN a bs) := by
  induction bs generalizing m a with
  | nil => exact h
  | cons b r ih => exact ih (a + 1) (Mem.wf_write a b h)

theorem Mem.wf_writeMasked {m : Mem} (a en : Nat) (bs : List Byte) (h : Mem.wf m) : Mem.wf (m.writeMasked a en bs) := by
  induction bs generalizing m a en with
  | nil => exact h
  | cons b r ih =>
    simp only [Mem.writeMasked]
    apply ih
    split
    · exact Mem.wf_write a b h
    · exact h

theorem Mem.wf_zeroRange {m : Mem} (lo hi : Nat) (h : Mem.wf m) : Mem.wf (m.zeroRange lo hi) := Mem.wf_filter _ h

/-! Reads after writes. -/

theorem Mem.read_write (m : Mem) (a x : Nat) (b : Byte) : (m.write a b).read x = if x = a then b else m.read x := by
  unfold Mem.write Mem.read
  by_cases hb : b = 0
  · rw [if_pos hb]
    by_cases hx : x = a
    · rw [if_pos hx, hb]; simp [KMap.getD, KMap.find?_erase, hx]
    · rw [if_neg hx]; simp [KMap.getD, KMap.find?_erase, hx]
  · rw [if_neg hb]
    by_cases hx : x = a
    · rw [if_pos hx, hx, KMap.getD_insert_self]
    · rw [if_neg hx, KMap.getD_insert_of_ne _ _ _ hx]

/-- A byte below or above the written range stays. -/
theorem Mem.read_writeN_out (m : Mem) (a x : Nat) (bs : List Byte) (h : x < a ∨ a + bs.length ≤ x) : (m.writeN a bs).read x = m.read x := by
  induction bs generalizing m a with
  | nil => rfl
  | cons b r ih =>
    simp only [Mem.writeN, List.length_cons] at *
    rw [ih _ (a + 1) (by omega), Mem.read_write]
    have : x ≠ a := by omega
    simp [this]

/-- A byte within the written range reads what was written. -/
theorem Mem.read_writeN_in (m : Mem) (a : Nat) (bs : List Byte) (i : Nat) (h : i < bs.length) : (m.writeN a bs).read (a + i) = bs[i] := by
  induction bs generalizing m a i with
  | nil => simp at h
  | cons b r ih =>
    simp only [Mem.writeN]
    cases i with
    | zero => rw [Mem.read_writeN_out _ _ _ _ (by omega), Mem.read_write]; simp
    | succ j =>
      have := ih (m.write a b) (a + 1) j (by simpa using h)
      rw [show a + (j + 1) = a + 1 + j by omega, this]
      simp

theorem Mem.readN_writeN (m : Mem) (a : Nat) (bs : List Byte) : (m.writeN a bs).readN a bs.length = bs := by
  induction bs generalizing m a with
  | nil => rfl
  | cons b r ih =>
    simp only [Mem.writeN, List.length_cons, Mem.readN, ih]
    rw [Mem.read_writeN_out _ _ _ _ (by omega), Mem.read_write]
    simp

theorem Mem.read_zeroRange (m : Mem) (lo hi x : Nat) : (m.zeroRange lo hi).read x = if lo ≤ x ∧ x < hi then 0 else m.read x := by
  unfold Mem.zeroRange Mem.read
  simp only [KMap.getD, KMap.find?_keep]
  by_cases h : lo ≤ x ∧ x < hi
  · simp [h, Nat.not_lt.mpr h.1, Nat.not_le.mpr h.2]
  · have : (decide (x < lo) || decide (hi ≤ x)) = true := by
      simp; omega
    simp [h, this]

/-- A masked write leaves bytes outside its span alone. -/
theorem Mem.read_writeMasked_out (m : Mem) (a en x : Nat) (bs : List Byte) (h : x < a ∨ a + bs.length ≤ x) :
    (m.writeMasked a en bs).read x = m.read x := by
  induction bs generalizing m a en with
  | nil => rfl
  | cons b r ih =>
    simp only [Mem.writeMasked, List.length_cons] at *
    rw [ih _ (a + 1) _ (by omega)]
    split
    · rw [Mem.read_write]
      have : x ≠ a := by omega
      simp [this]
    · rfl

/-- Bytes outside a stored range stay. -/
theorem Chip.poke_read_out (c : Chip) (a x : Nat) (bs : List Byte) (h : x < a ∨ a + bs.length ≤ x) :
    (c.poke a bs).mem.read x = c.mem.read x := Mem.read_writeN_out c.mem a x bs h

theorem Chip.poke_readN (c : Chip) (a : Nat) (bs : List Byte) : (c.poke a bs).mem.readN a bs.length = bs := Mem.readN_writeN c.mem a bs

theorem State.reset_mem_wf : Mem.wf State.reset.chip.mem := Mem.wf_nil

end Sys2Proof.Machine
end

