-- ==== Sys2Proof/Laws/Ops.lean ====
section
/-! SUPPORT. What the shared operations can do, each said once: the wrappers through which every command meets the state, register fields and status
bits, reads and writes of an agent, and the beginnings of queue entries, vector instructions and messages. -/

namespace Sys2Proof.Machine

/-! The wrappers. -/

theorem State.always_goes (s : State) (f : Chip → Chip) : s.always f = s.goes (f s.chip).after := rfl

theorem State.onChip_up {s : State} (f : Chip → Chip) (h : s.up) : s.onChip f = s.goes (f s.chip) := by
  simp [State.onChip, State.goes, show s.chip.por = false from h]

theorem State.onMc_up {s : State} (f : Chip → Chip) (h : s.up) : s.onMc f = s.goes (f s.chip).after := State.onChip_up _ h

theorem State.onCluster_ready {s : State} {cl : Nat} (f : Chip → Chip) (h : s.ready cl) : s.onCluster cl f = s.goes (f s.chip) := by
  rw [State.onCluster, State.onChip_up _ h.1, if_pos h.2]

theorem State.onOtp_up {s : State} (f : Chip → Otp → Chip × Otp) (h : s.up) :
    s.onOtp f = .next { s with chip := (f s.chip s.otp).1.after, otp := (f s.chip s.otp).2 } := by
  simp [State.onOtp, show s.chip.por = false from h]

/-- While power-on reset holds the wrapped commands leave the state as it is. -/
theorem State.onChip_held {s : State} (f : Chip → Chip) (h : s.chip.por = true) : s.onChip f = .next s := by simp [State.onChip, h]
theorem State.onMc_held {s : State} (f : Chip → Chip) (h : s.chip.por = true) : s.onMc f = .next s := State.onChip_held _ h
theorem State.onCluster_held {s : State} (cl : Nat) (f : Chip → Chip) (h : s.chip.por = true) : s.onCluster cl f = .next s := State.onChip_held _ h
theorem State.onOtp_held {s : State} (f : Chip → Otp → Chip × Otp) (h : s.chip.por = true) : s.onOtp f = .next s := by simp [State.onOtp, h]

/-- What a wrapper answers, whatever it wraps: a next state with the same queue and, but for onOtp, the same one-time-programmable array. -/
theorem State.always_next (s : State) (f : Chip → Chip) : ∃ c, s.always f = s.goes c := ⟨_, rfl⟩
theorem State.onChip_next (s : State) (f : Chip → Chip) : ∃ c, s.onChip f = s.goes c := by
  cases h : s.chip.por
  · exact ⟨_, State.onChip_up f h⟩
  · exact ⟨s.chip, State.onChip_held f h⟩
theorem State.onMc_next (s : State) (f : Chip → Chip) : ∃ c, s.onMc f = s.goes c := State.onChip_next s _
theorem State.onCluster_next (s : State) (cl : Nat) (f : Chip → Chip) : ∃ c, s.onCluster cl f = s.goes c := State.onChip_next s _
theorem State.onOtp_next (s : State) (f : Chip → Otp → Chip × Otp) : ∃ c o, s.onOtp f = .next { s with chip := c, otp := o } := by
  cases h : s.chip.por
  · exact ⟨_, _, State.onOtp_up f h⟩
  · exact ⟨s.chip, s.otp, State.onOtp_held f h⟩

theorem State.goes_inj {s : State} {c d : Chip} (h : s.goes c = s.goes d) : c = d := by
  simpa [State.goes] using h

theorem State.goes_eq_next {s t : State} {c : Chip} (h : s.goes c = .next t) : t.chip = c ∧ t.otp = s.otp ∧ t.pending = s.pending := by
  simp only [State.goes, Host.Outcome.next.injEq] at h
  subst h
  exact ⟨rfl, rfl, rfl⟩

/-! Register fields and status bits. -/

theorem Chip.getF_addF_self (c : Chip) (b : Blk) (f : Field) (n : Nat) : (c.addF b f n).getF b f = (c.getF b f + n) % 2 ^ f.width := by
  simp [Chip.addF]

theorem Chip.getF_addF_of_ne (c : Chip) {b b' : Blk} {f f' : Field} (n : Nat) (h : fkey b' f' ≠ fkey b f) :
    (c.addF b f n).getF b' f' = c.getF b' f' := Chip.getF_setF_of_ne c _ h

theorem Chip.getF_satF_self (c : Chip) (b : Blk) (f : Field) (n : Nat) :
    (c.satF b f n).getF b f = min (2 ^ f.width - 1) (c.getF b f + n) := by
  have h : 0 < 2 ^ f.width := Nat.two_pow_pos _
  have h' : satNat (2 ^ f.width - 1) (c.getF b f + n) = min (2 ^ f.width - 1) (c.getF b f + n) := by
    simp only [satNat]; split <;> omega
  rw [Chip.satF, Chip.getF_setF_self, h', Nat.mod_eq_of_lt (by omega)]

theorem Chip.getF_satF_of_ne (c : Chip) {b b' : Blk} {f f' : Field} (n : Nat) (h : fkey b' f' ≠ fkey b f) :
    (c.satF b f n).getF b' f' = c.getF b' f' := Chip.getF_setF_of_ne c _ h

@[simp] theorem Chip.raiseIf_true (c : Chip) (b : Blk) (st : Status) : c.raiseIf true b st = c.raise b st := rfl
@[simp] theorem Chip.raiseIf_false (c : Chip) (b : Blk) (st : Status) : c.raiseIf false b st = c := rfl

/-- An operation that touches no field of a register leaves it alone through a list of stores. -/
theorem Chip.getF_setFs_of_ne (c : Chip) {b b' : Blk} {f' : Field} (l : List (Field × Nat)) (h : ∀ e ∈ l, fkey b' f' ≠ fkey b e.1) :
    (c.setFs b l).getF b' f' = c.getF b' f' := by
  induction l generalizing c with
  | nil => rfl
  | cons e l ih =>
    rw [Chip.setFs_cons, ih _ (fun e he => h e (List.mem_cons_of_mem _ he)), Chip.getF_setF_of_ne _ _ (h e List.mem_cons_self)]

/-! Memory. -/

theorem Chip.poke_wf {c : Chip} (a : Nat) (bs : List Byte) (h : Mem.wf c.mem) : Mem.wf (c.poke a bs).mem := Mem.wf_writeN a bs h

theorem forAll_wf {α : Type} (l : List α) (c : Chip) (f : Chip → α → Chip) (h : ∀ c a, Mem.wf c.mem → Mem.wf (f c a).mem) (hc : Mem.wf c.mem) :
    Mem.wf (forAll l c f).mem := by
  induction l generalizing c with
  | nil => exact hc
  | cons a l ih => exact ih _ (h c a hc)

@[simp] theorem Chip.setB_mem (c : Chip) (b : Blk) (f : Field) (v : Bool) : (c.setB b f v).mem = c.mem := rfl
@[simp] theorem Chip.addF_mem (c : Chip) (b : Blk) (f : Field) (n : Nat) : (c.addF b f n).mem = c.mem := rfl
@[simp] theorem Chip.satF_mem (c : Chip) (b : Blk) (f : Field) (n : Nat) : (c.satF b f n).mem = c.mem := rfl
@[simp] theorem Chip.raise_mem (c : Chip) (b : Blk) (st : Status) : (c.raise b st).mem = c.mem := rfl
@[simp] theorem Chip.raiseIf_mem (c : Chip) (p : Bool) (b : Blk) (st : Status) : (c.raiseIf p b st).mem = c.mem := by cases p <;> rfl
@[simp] theorem Chip.setFs_mem (c : Chip) (b : Blk) (l : List (Field × Nat)) : (c.setFs b l).mem = c.mem :=
  forAll_keeps Chip.mem l c _ (fun _ _ => rfl)

/-! What a request of an agent leaves alone (R300-R305). -/

/-- `d` is `c` but for registers, memory, the group engines with their losses, what MEs hold, answers sent and the count of free values: all that a read
or a write of an agent can change. -/
def Chip.Traces (c d : Chip) : Prop := ∃ r m g p l e o n,
  d = { c with regs := r, mem := m, grps := g, poison := p, losses := l, mes := e, out := o, freeCtr := n }

theorem Chip.Traces.refl (c : Chip) : c.Traces c := ⟨_, _, _, _, _, _, _, _, rfl⟩
theorem Chip.Traces.trans {c d e : Chip} (h : c.Traces d) (h' : d.Traces e) : c.Traces e := by
  obtain ⟨_, _, _, _, _, _, _, _, rfl⟩ := h
  obtain ⟨_, _, _, _, _, _, _, _, rfl⟩ := h'
  exact ⟨_, _, _, _, _, _, _, _, rfl⟩
theorem Chip.Traces.step {c d e : Chip} (h : d.Traces e) (h' : c.Traces d) : c.Traces e := h'.trans h

theorem Chip.setF_traces (c : Chip) (b : Blk) (f : Field) (v : Nat) : c.Traces (c.setF b f v) := ⟨_, _, _, _, _, _, _, _, rfl⟩
theorem Chip.setB_traces (c : Chip) (b : Blk) (f : Field) (v : Bool) : c.Traces (c.setB b f v) := ⟨_, _, _, _, _, _, _, _, rfl⟩
theorem Chip.addF_traces (c : Chip) (b : Blk) (f : Field) (n : Nat) : c.Traces (c.addF b f n) := ⟨_, _, _, _, _, _, _, _, rfl⟩
theorem Chip.satF_traces (c : Chip) (b : Blk) (f : Field) (n : Nat) : c.Traces (c.satF b f n) := ⟨_, _, _, _, _, _, _, _, rfl⟩
theorem Chip.raise_traces (c : Chip) (b : Blk) (st : Status) : c.Traces (c.raise b st) := ⟨_, _, _, _, _, _, _, _, rfl⟩
theorem Chip.setGrp_traces (c : Chip) (g : Nat) (x : Group) : c.Traces (c.setGrp g x) := ⟨_, _, _, _, _, _, _, _, rfl⟩
theorem Chip.setMem_traces (c : Chip) (m : Mem) : c.Traces (c.setMem m) := ⟨_, _, _, _, _, _, _, _, rfl⟩

/-- A loop whose every round leaves the rest alone does so. -/
theorem forAll_traces {α : Type} (l : List α) (c : Chip) (f : Chip → α → Chip) (h : ∀ (c : Chip) a, c.Traces (f c a)) : c.Traces (forAll l c f) := by
  induction l generalizing c with
  | nil => exact .refl c
  | cons a l ih => exact (h c a).trans (ih _)

theorem Chip.setFs_traces (c : Chip) (b : Blk) (l : List (Field × Nat)) : c.Traces (c.setFs b l) := forAll_traces _ _ _ (fun c _ => c.setF_traces _ _ _)

theorem Chip.noteRefusal_traces (c : Chip) (ag : Agent) (a : Nat) (code : Code) : c.Traces (c.noteRefusal ag a code) := by
  unfold Chip.noteRefusal
  repeat' split
  · exact (c.raise_traces _ _).trans (Chip.setF_traces _ _ _ _)
  · exact (c.raise_traces _ _).trans (Chip.setFs_traces _ _ _)
  · exact c.raise_traces _ _
  · exact .refl c
  · exact c.raise_traces _ _
  · exact ⟨_, _, _, _, _, _, _, _, rfl⟩
  · exact .refl c

@[simp] theorem Chip.noteRefusal_mem (c : Chip) (ag : Agent) (a : Nat) (code : Code) : (c.noteRefusal ag a code).mem = c.mem := by
  unfold Chip.noteRefusal
  repeat' split
  all_goals simp [Chip.setMe]

@[simp] theorem Chip.portWait_mem (c : Chip) (a : Nat) : (c.portWait a).mem = c.mem := by
  unfold Chip.portWait; split <;> rfl
@[simp] theorem Chip.noteSram_mem (c : Chip) (a n : Nat) : (c.noteSram a n).mem = c.mem := by
  unfold Chip.noteSram Chip.noteWords; split <;> simp
@[simp] theorem Chip.noteOpen_mem (c : Chip) (a : Nat) : (c.noteOpen a).mem = c.mem := by
  unfold Chip.noteOpen; split <;> simp
@[simp] theorem Chip.sideMark_mem (c : Chip) (a : Nat) : (c.sideMark a).mem = c.mem := by
  unfold Chip.sideMark; split
  · rfl
  · split <;> simp
@[simp] theorem Chip.setGrp_mem' (c : Chip) (g : Nat) (x : Group) : (c.setGrp g x).mem = c.mem := rfl

theorem Chip.portWait_traces (c : Chip) (a : Nat) : c.Traces (c.portWait a) := by
  unfold Chip.portWait; split <;> exact ⟨_, _, _, _, _, _, _, _, rfl⟩
theorem Chip.noteSram_traces (c : Chip) (a n : Nat) : c.Traces (c.noteSram a n) := by
  refine (Chip.portWait_traces _ a).step ?_
  unfold Chip.noteWords; split <;> exact ⟨_, _, _, _, _, _, _, _, rfl⟩
theorem Chip.noteOpen_traces (c : Chip) (a : Nat) : c.Traces (c.noteOpen a) := by
  unfold Chip.noteOpen; split <;> exact ⟨_, _, _, _, _, _, _, _, rfl⟩
theorem Chip.sideMark_traces (c : Chip) (a : Nat) : c.Traces (c.sideMark a) := by
  unfold Chip.sideMark; split
  · exact .refl c
  · split <;> exact ⟨_, _, _, _, _, _, _, _, rfl⟩

/-- A read of one access changes no byte, and nothing but what `Traces` names. -/
theorem Chip.noteFails_traces (c : Chip) (g : Nat) (l : List Nat) : c.Traces (forAll l c (fun c i => c.noteFail g i)) :=
  forAll_traces _ _ _ (fun c _ => c.setGrp_traces _ _)
theorem Chip.loseStripe_traces (c : Chip) (g m t : Nat) : c.Traces (c.loseStripe g m t) := by
  unfold Chip.loseStripe Chip.reportLoss
  exact .trans (d := { c with poison := (g, t, t) :: c.poison }) ⟨_, _, _, _, _, _, _, _, rfl⟩
    ((Chip.setFs_traces _ _ _).trans ⟨_, _, _, _, _, _, _, _, rfl⟩)
theorem Chip.rebuiltAccess_traces (c : Chip) (g t m : Nat) : c.Traces (c.rebuiltAccess g t m) :=
  (c.setGrp_traces _ _).trans ((Chip.satF_traces _ _ _ _).trans ((Chip.raise_traces _ _ _).trans ((Chip.addF_traces _ _ _ _).trans (Chip.setFs_traces _ _ _))))
theorem Chip.readAccess_traces (c : Chip) (g t m mask : Nat) : c.Traces (c.readAccess g t m mask).1 := by
  unfold Chip.readAccess
  dsimp only
  have noted (l : List Nat) := c.noteFails_traces g l
  repeat' split
  · exact .refl c
  · exact .refl c
  · exact .refl c
  · exact c.addF_traces _ _ _
  · exact (noted _).trans (Chip.rebuiltAccess_traces _ _ _ _)
  · exact (noted _).trans (Chip.loseStripe_traces _ _ _ _)
  · exact (noted _).trans (Chip.loseStripe_traces _ _ _ _)
  · exact .refl c
  · exact (c.setGrp_traces _ _).trans (Chip.rebuiltAccess_traces _ _ _ _)
  · exact (c.setGrp_traces _ _).trans ((Chip.noteFails_traces _ _ _).trans (Chip.loseStripe_traces _ _ _ _))
  · exact (c.setGrp_traces _ _).trans ((Chip.noteFails_traces _ _ _).trans (Chip.loseStripe_traces _ _ _ _))

theorem Chip.noteFails_mem (c : Chip) (g : Nat) (l : List Nat) : (forAll l c (fun c i => c.noteFail g i)).mem = c.mem :=
  forAll_keeps Chip.mem _ _ _ (fun _ _ => rfl)
@[simp] theorem Chip.noteFail_mem (c : Chip) (g i : Nat) : (c.noteFail g i).mem = c.mem := rfl
@[simp] theorem Chip.loseStripe_mem (c : Chip) (g m t : Nat) : (c.loseStripe g m t).mem = c.mem := by
  unfold Chip.loseStripe Chip.reportLoss; simp
@[simp] theorem Chip.rebuiltAccess_mem (c : Chip) (g t m : Nat) : (c.rebuiltAccess g t m).mem = c.mem := by
  unfold Chip.rebuiltAccess Chip.clearFault; simp
@[simp] theorem Chip.readAccess_mem (c : Chip) (g t m mask : Nat) : (c.readAccess g t m mask).1.mem = c.mem := by
  unfold Chip.readAccess
  dsimp only
  repeat' split
  all_goals simp only [Chip.loseStripe_mem, Chip.rebuiltAccess_mem, Chip.noteFails_mem, Chip.noteFail_mem, Chip.addF_mem]

theorem Chip.endSession_mem (c : Chip) (g : Nat) : (c.endSession g).mem = c.mem := by
  unfold Chip.endSession Chip.setCal; split <;> simp
theorem Chip.endSession_traces (c : Chip) (g : Nat) : c.Traces (c.endSession g) := by
  unfold Chip.endSession Chip.setCal; split
  · exact ((c.setGrp_traces _ _).trans (Chip.setF_traces _ _ _ _)).trans ((Chip.setF_traces _ _ _ _).trans (Chip.setB_traces _ _ _ _))
  · exact .refl c

@[simp] theorem Chip.logAccess_mem (c : Chip) (g t m : Nat) : (c.logAccess g t m).mem = c.mem := by
  unfold Chip.logAccess; split
  · exact c.endSession_mem g
  · dsimp only; split
    · simp only [Chip.addF_mem]; split <;> simp
    · rfl
theorem Chip.logAccess_traces (c : Chip) (g t m : Nat) : c.Traces (c.logAccess g t m) := by
  unfold Chip.logAccess; split
  · exact c.endSession_traces g
  · dsimp only; split
    · split <;> exact ⟨_, _, _, _, _, _, _, _, rfl⟩
    · exact .refl c

@[simp] theorem Chip.issueStripe_mem (c : Chip) (g : Nat) (b : BufWrite) : (c.issueStripe g b).mem = c.mem := by
  unfold Chip.issueStripe
  dsimp only
  rw [forAll_keeps Chip.mem _ _ _ (fun c m => by simp [Chip.clearFault]), forAll_keeps Chip.mem _ _ _ (fun c m => Chip.readAccess_mem c _ _ m _)]
  rfl
theorem Chip.issueStripe_traces (c : Chip) (g : Nat) (b : BufWrite) : c.Traces (c.issueStripe g b) := by
  unfold Chip.issueStripe
  dsimp only
  refine (forAll_traces _ _ _ (fun c m => (Chip.logAccess_traces _ _ _ _).step (c.setGrp_traces _ _))).step ?_
  exact (forAll_traces _ _ _ (fun c m => c.readAccess_traces _ _ m _)).step (c.addF_traces _ _ _)

@[simp] theorem Chip.drainBuf_mem (c : Chip) (g : Nat) : (c.drainBuf g).mem = c.mem := by
  unfold Chip.drainBuf; dsimp only
  exact (forAll_keeps Chip.mem _ _ _ (fun c b => c.issueStripe_mem g b)).trans (c.setGrp_mem' _ _)
theorem Chip.drainBuf_traces (c : Chip) (g : Nat) : c.Traces (c.drainBuf g) := by
  unfold Chip.drainBuf; dsimp only
  exact (Chip.setGrp_traces _ _ _).step ((forAll_traces _ _ _ (fun c b => c.issueStripe_traces g b)).step (c.setGrp_traces _ _))

@[simp] theorem Chip.bufWrite_mem (c : Chip) (m : MemPos) (mask : Nat) : (c.bufWrite m mask).mem = c.mem := by
  simp [Chip.bufWrite, Chip.openBank]
theorem Chip.bufWrite_traces (c : Chip) (m : MemPos) (mask : Nat) : c.Traces (c.bufWrite m mask) :=
  (Chip.drainBuf_traces _ _).step ((Chip.setGrp_traces _ _ _).step (c.setGrp_traces _ _))

@[simp] theorem Chip.storeAccess_mem (c : Chip) (a mask : Nat) : (c.storeAccess a mask).mem = c.mem := by
  unfold Chip.storeAccess; split <;> simp
theorem Chip.storeAccess_traces (c : Chip) (a mask : Nat) : c.Traces (c.storeAccess a mask) := by
  unfold Chip.storeAccess; split
  · exact .refl c
  · exact (Chip.addF_traces _ _ _ _).step (c.bufWrite_traces _ _)

/-- What a store leaves in memory: the enabled bytes, those of LPDDR6 behind their views. -/
theorem Chip.locStore_mem (c : Chip) (a en : Nat) (bs : List Byte) : (c.locStore a en bs).mem =
    if isLpddr a then bs.zipIdx.foldl (fun m x => if bit en x.2 then m.write (c.viewAddr (a + x.2)) x.1 else m) c.mem
    else c.mem.writeMasked a en bs := by
  unfold Chip.locStore
  split
  · exact forAll_keeps Chip.mem _ _ _ (fun _ _ => Chip.storeAccess_mem _ _ _)
  · rfl
theorem Chip.locStore_traces (c : Chip) (a en : Nat) (bs : List Byte) : c.Traces (c.locStore a en bs) := by
  unfold Chip.locStore
  split
  · refine (forAll_traces _ _ _ (fun c r => c.storeAccess_traces _ _)).step (.trans (d := (c.sideMark a).sideMark (a + bs.length - 1)) ?_ (Chip.setMem_traces _ _))
    exact (c.sideMark_traces a).trans (Chip.sideMark_traces _ _)
  · exact c.setMem_traces _

theorem Chip.lpFold_mem (l : List (Nat × Nat)) (s : Chip × Option (List Byte)) (f : Chip × Option (List Byte) → Nat × Nat → Chip × Option (List Byte))
    (h : ∀ s r, (f s r).1.mem = s.1.mem) : (l.foldl f s).1.mem = s.1.mem := by
  induction l generalizing s with
  | nil => rfl
  | cons r l ih => rw [List.foldl_cons, ih, h]
theorem Chip.lpFold_traces (l : List (Nat × Nat)) (s : Chip × Option (List Byte)) (f : Chip × Option (List Byte) → Nat × Nat → Chip × Option (List Byte))
    (h : ∀ (s : Chip × Option (List Byte)) r, s.1.Traces (f s r).1) : s.1.Traces (l.foldl f s).1 := by
  induction l generalizing s with
  | nil => exact .refl _
  | cons r l ih => exact (h s r).trans (ih _)

/-- A read of LPDDR6 changes no byte of it. -/
@[simp] theorem Chip.lpRead_mem (c : Chip) (a n : Nat) : (c.lpRead a n).1.mem = c.mem := by
  unfold Chip.lpRead
  have h := Chip.lpFold_mem (accessRuns a n) (c, some []) (fun (s : Chip × Option (List Byte)) r =>
    let p := s.1.memMap (s.1.viewAddr r.1)
    match (s.1.openBank p.grp p.stripe).readAccess p.grp p.stripe p.di (ones r.2 * 2 ^ p.byte) with
    | (c, some b) => (c, s.2.map (fun l => l ++ (b.drop p.byte).take r.2))
    | (c, none) => (c, none)) (fun s r => by
      dsimp only
      split <;> rename_i h <;> have h' := congrArg (fun x => x.1.mem) h <;> simp [Chip.openBank] at h' <;> simp [h'])
  split
  rename_i d bs e
  have h : d.mem = c.mem := (congrArg (fun x => x.1.mem) e).symm.trans h
  split
  · exact h
  · exact (forAll_keeps Chip.mem _ d _ (fun c r => c.addF_mem _ _ _)).trans h
theorem Chip.lpRead_traces (c : Chip) (a n : Nat) : c.Traces (c.lpRead a n).1 := by
  unfold Chip.lpRead
  have h := Chip.lpFold_traces (accessRuns a n) (c, some []) (fun (s : Chip × Option (List Byte)) r =>
    let p := s.1.memMap (s.1.viewAddr r.1)
    match (s.1.openBank p.grp p.stripe).readAccess p.grp p.stripe p.di (ones r.2 * 2 ^ p.byte) with
    | (c, some b) => (c, s.2.map (fun l => l ++ (b.drop p.byte).take r.2))
    | (c, none) => (c, none)) (fun s r => by
      dsimp only
      have h' (d : Chip) (g t m k : Nat) : d.Traces ((d.openBank g t).readAccess g t m k).1 := (Chip.readAccess_traces _ _ _ _ _).step (d.setGrp_traces _ _)
      split <;> rename_i h <;>
        have h'' := h' s.1 (s.1.memMap (s.1.viewAddr r.1)).grp (s.1.memMap (s.1.viewAddr r.1)).stripe (s.1.memMap (s.1.viewAddr r.1)).di
          (ones r.2 * 2 ^ (s.1.memMap (s.1.viewAddr r.1)).byte) <;>
        rw [h] at h'' <;> exact h'')
  split
  rename_i d bs e
  have h : c.Traces d := Eq.mp (congrArg (fun x => c.Traces x.1) e) h
  split
  · exact h
  · exact h.trans (forAll_traces _ _ _ (fun c r => c.addF_traces _ _ _))

/-! Register accesses of an engine. -/

theorem Chip.storeField_traces (c : Chip) (b : Blk) (f : Field) (v lo hi : Nat) : c.Traces (c.storeField b f v lo hi) := by
  unfold Chip.storeField; repeat' split
  all_goals exact ⟨_, _, _, _, _, _, _, _, rfl⟩
theorem Chip.storeField_mem (c : Chip) (b : Blk) (f : Field) (v lo hi : Nat) : (c.storeField b f v lo hi).mem = c.mem := by
  unfold Chip.storeField; repeat' split
  all_goals rfl
theorem Chip.raiseIf_traces (c : Chip) (p : Bool) (b : Blk) (st : Status) : c.Traces (c.raiseIf p b st) := by
  cases p
  · exact .refl c
  · exact c.raise_traces b st
theorem Chip.regStore_traces (c : Chip) (b : Blk) (d off size v : Nat) (pick : Field → Bool) : c.Traces (c.regStore b d off size v pick) := by
  unfold Chip.regStore
  exact (forAll_traces _ _ _ (fun c f => c.storeField_traces b f _ _ _)).step (c.raiseIf_traces _ _ _)
theorem Chip.regStore_mem (c : Chip) (b : Blk) (d off size v : Nat) (pick : Field → Bool) : (c.regStore b d off size v pick).mem = c.mem := by
  unfold Chip.regStore
  exact (forAll_keeps Chip.mem _ _ _ (fun _ _ => Chip.storeField_mem _ _ _ _ _ _)).trans (Chip.raiseIf_mem _ _ _ _)
theorem Chip.unmapped_traces (c : Chip) (d off : Nat) : c.Traces (c.unmapped d off) := ⟨_, _, _, _, _, _, _, _, rfl⟩

/-- An access that reaches no register leaves traces in registers and no byte of memory. -/
theorem Chip.findReg_error {c x : Chip} {d off n : Nat} (h : c.findReg d off n = .error x) : c.Traces x ∧ x.mem = c.mem := by
  have hu : c.Traces (c.unmapped d off) ∧ (c.unmapped d off).mem = c.mem := ⟨c.unmapped_traces d off, rfl⟩
  unfold Chip.findReg at h
  split at h
  · cases h; exact ⟨⟨_, _, _, _, _, _, _, _, rfl⟩, rfl⟩
  · split at h
    · cases h
      split
      · exact ⟨.refl c, rfl⟩
      · exact hu
    · split at h
      · cases h; exact hu
      · cases h

theorem plainIo_read (c : Chip) (d off n : Nat) : c.Traces (plainIo.read c d off n).1 ∧ (plainIo.read c d off n).1.mem = c.mem := by
  simp only [plainIo]
  split
  · rename_i x h; exact Chip.findReg_error h
  · exact ⟨.refl c, rfl⟩
theorem plainIo_write (c : Chip) (who : RegAgent) (d off n v : Nat) : c.Traces (plainIo.write c who d off n v) ∧
    (plainIo.write c who d off n v).mem = c.mem := by
  simp only [plainIo]
  split
  · rename_i x h; exact Chip.findReg_error h
  · exact ⟨c.regStore_traces _ _ _ _ _ _, c.regStore_mem _ _ _ _ _ _⟩

/-! Reads and writes. -/

/-- What one read can do: it changes no byte, and nothing but what `Traces` names. -/
theorem Chip.readBy_traces (c : Chip) (ag : Agent) (a n : Nat) : c.Traces (c.readBy plainIo ag a n).1 := by
  unfold Chip.readBy
  dsimp only
  split; · exact c.noteRefusal_traces ag a _
  split
  · have h := c.lpRead_traces a n
    split <;> rename_i h' <;> rw [h'] at h <;> exact h
  · split
    · exact (plainIo_read c _ _ n).1
    · exact c.noteSram_traces a n
theorem Chip.readBy_mem (c : Chip) (ag : Agent) (a n : Nat) : (c.readBy plainIo ag a n).1.mem = c.mem := by
  unfold Chip.readBy
  dsimp only
  split; · simp
  split
  · have h := c.lpRead_mem a n
    split <;> rename_i h' <;> rw [h'] at h <;> exact h
  · split
    · exact (plainIo_read c _ _ n).2
    · simp

/-- A refused request answers its code and leaves what a refusal leaves. -/
theorem Chip.readBy_refused {c : Chip} (io : RegIo) {ag : Agent} {a n : Nat} (h : c.accessCode ag false a n ≠ COMP_OK) :
    c.readBy io ag a n = (c.noteRefusal ag a (c.accessCode ag false a n), c.accessCode ag false a n, []) := by
  simp [Chip.readBy, bne_iff_ne.mpr h]

/-- A read of on-chip memory that is allowed answers the bytes there. -/
theorem Chip.readBy_sram {c : Chip} (io : RegIo) {ag : Agent} {a n : Nat} (h : c.accessCode ag false a n = COMP_OK) (hl : isLpddr a = false)
    (hr : ∀ d off, placeOf a ≠ .regs d off) : c.readBy io ag a n = (c.noteSram a n, COMP_OK, c.locBytes a n) := by
  simp only [Chip.readBy, h, bne_self_eq_false, Bool.false_eq_true, if_false, hl]

/-- A write of an agent answers the code of its checks. -/
theorem Chip.writeBy_code (c : Chip) (io : RegIo) (ag : Agent) (a en : Nat) (bs : List Byte) :
    (c.writeBy io ag a en bs).2 = c.accessCode ag true a bs.length := by
  unfold Chip.writeBy
  dsimp only
  by_cases h : c.accessCode ag true a bs.length = COMP_OK
  · simp only [h, bne_self_eq_false, Bool.false_eq_true, if_false]
    split
    · rfl
    · split <;> rfl
  · simp [bne_iff_ne.mpr h]

theorem Chip.enabled_mem (c : Chip) (ag : Agent) (d off : Nat) (bs : List Byte) (l : List (Nat × Nat)) :
    (forAll l c (fun c r => plainIo.write c (regAgent ag) d (off + r.1) r.2 (leNat ((bs.drop r.1).take r.2)))).mem = c.mem :=
  forAll_keeps Chip.mem _ _ _ (fun c _ => (plainIo_write c _ _ _ _ _).2)

/-- What a write of an agent leaves in memory: nothing when it is refused, falls in an open tile or reaches registers, else its enabled bytes. -/
theorem Chip.writeBy_mem (c : Chip) (ag : Agent) (a en : Nat) (bs : List Byte) : (c.writeBy plainIo ag a en bs).1.mem =
    if c.accessCode ag true a bs.length ≠ COMP_OK ∨ c.openTile a bs.length = true then c.mem
    else match placeOf a with
      | .regs _ _ => c.mem
      | _ => (c.locStore a en bs).mem := by
  unfold Chip.writeBy
  dsimp only
  by_cases h1 : c.accessCode ag true a bs.length = COMP_OK
  · by_cases h2 : c.openTile a bs.length = true
    · simp [h1, h2]
    · simp only [h1, h2, bne_self_eq_false, Bool.false_eq_true, ne_eq, not_true_eq_false, or_self, if_false]
      cases placeOf a
      case regs d off => exact Chip.enabled_mem c ag d off bs _
      all_goals simp
  · simp [h1, bne_iff_ne.mpr h1]
theorem Chip.writeBy_traces (c : Chip) (ag : Agent) (a en : Nat) (bs : List Byte) : c.Traces (c.writeBy plainIo ag a en bs).1 := by
  unfold Chip.writeBy
  dsimp only
  split; · exact c.noteRefusal_traces ag a _
  split; · exact c.noteOpen_traces a
  split
  · exact forAll_traces _ _ _ (fun c r => (plainIo_write c _ _ _ _ _).1)
  · exact c.locStore_traces a en bs
  · exact (Chip.noteSram_traces _ _ _).step (c.locStore_traces a en bs)

theorem Mem.wf_views {m : Mem} (l : List (Byte × Nat)) (en : Nat) (at' : Nat → Nat) (h : Mem.wf m) :
    Mem.wf (l.foldl (fun m x => if bit en x.2 then m.write (at' x.2) x.1 else m) m) := by
  induction l generalizing m with
  | nil => exact h
  | cons x l ih =>
    refine ih ?_
    dsimp only
    split
    · exact Mem.wf_write _ _ h
    · exact h

/-- A store keeps the canonical form, and so does every write of an agent. -/
theorem Chip.locStore_wf {c : Chip} (a en : Nat) (bs : List Byte) (h : Mem.wf c.mem) : Mem.wf (c.locStore a en bs).mem := by
  rw [Chip.locStore_mem]
  split
  · exact Mem.wf_views _ en (fun i => c.viewAddr (a + i)) h
  · exact Mem.wf_writeMasked _ _ _ h
theorem Chip.writeBy_wf {c : Chip} (ag : Agent) (a en : Nat) (bs : List Byte) (h : Mem.wf c.mem) : Mem.wf (c.writeBy plainIo ag a en bs).1.mem := by
  rw [Chip.writeBy_mem]
  split
  · exact h
  · split
    · exact h
    · exact Chip.locStore_wf a en bs h

/-! Queued requests (R305). -/

theorem Chip.perform_traces (c : Chip) (r : MemReq) : c.Traces (c.perform plainIo r) := by
  unfold Chip.perform
  split
  · exact (c.writeBy_traces _ _ _ _).trans ⟨_, _, _, _, _, _, _, _, rfl⟩
  · exact (c.readBy_traces _ _ _).trans ⟨_, _, _, _, _, _, _, _, rfl⟩
theorem Chip.perform_wf {c : Chip} (r : MemReq) (h : Mem.wf c.mem) : Mem.wf (c.perform plainIo r).mem := by
  unfold Chip.perform
  split
  · exact Chip.writeBy_wf _ _ _ _ h
  · show Mem.wf (c.readBy plainIo _ _ _).1.mem
    rwa [Chip.readBy_mem]

theorem Chip.serveOlder_traces (c : Chip) (a n : Nat) : c.Traces (c.serveOlder a n) := by
  unfold Chip.serveOlder
  split; · exact .refl c
  refine forAll_traces _ _ _ (fun c g => ?_)
  dsimp only
  split
  · exact .refl c
  · exact (forAll_traces _ _ _ (fun c r => c.perform_traces r)).step (c.setGrp_traces _ _)
theorem Chip.serveOlder_wf {c : Chip} (a n : Nat) (h : Mem.wf c.mem) : Mem.wf (c.serveOlder a n).mem := by
  unfold Chip.serveOlder
  split; · exact h
  refine forAll_wf _ _ _ (fun c g h => ?_) h
  dsimp only
  split
  · exact h
  · exact forAll_wf _ _ _ (fun c r h => Chip.perform_wf r h) h

/-- With nothing queued at the groups of a request, nothing is served before it. -/
theorem Chip.serveOlder_quiet {c : Chip} {a n : Nat} (h : isLpddr a = true → ∀ g ∈ c.reqGroups a n, (c.grpOf g).queue = []) : c.serveOlder a n = c := by
  unfold Chip.serveOlder
  by_cases hl : isLpddr a = true
  · rw [if_neg (by simp [hl])]
    have h := h hl
    unfold forAll
    generalize c.reqGroups a n = gs at h ⊢
    induction gs with
    | nil => rfl
    | cons g l ih =>
      rw [List.foldl_cons]
      have hg : (c.grpOf g).queue = [] := h g List.mem_cons_self
      simp only [hg, List.length_nil, Nat.zero_sub, if_true]
      exact ih (fun x hx => h x (List.mem_cons_of_mem _ hx))
  · rw [if_pos (by simp [hl])]

/-- What a read or a write of an agent can do: it leaves all but what `Traces` names, and keeps the canonical form. -/
theorem Chip.agentRead_traces (c : Chip) (ag : Agent) (a n : Nat) : c.Traces (c.agentRead ag a n).1 := by
  unfold Chip.agentRead Chip.agentReadIo
  refine (Chip.readBy_traces _ ag a n).step ?_
  split
  · exact c.serveOlder_traces a n
  · exact .refl c
theorem Chip.agentWrite_traces (c : Chip) (ag : Agent) (a en : Nat) (bs : List Byte) : c.Traces (c.agentWrite ag a en bs).1 := by
  unfold Chip.agentWrite Chip.agentWriteIo
  refine (Chip.writeBy_traces _ ag a en bs).step ?_
  split
  · exact c.serveOlder_traces _ _
  · exact .refl c
theorem Chip.agentRead_wf {c : Chip} (ag : Agent) (a n : Nat) (h : Mem.wf c.mem) : Mem.wf (c.agentRead ag a n).1.mem := by
  unfold Chip.agentRead Chip.agentReadIo
  rw [Chip.readBy_mem]
  split
  · exact Chip.serveOlder_wf a n h
  · exact h
theorem Chip.agentWrite_wf {c : Chip} (ag : Agent) (a en : Nat) (bs : List Byte) (h : Mem.wf c.mem) : Mem.wf (c.agentWrite ag a en bs).1.mem := by
  unfold Chip.agentWrite Chip.agentWriteIo
  refine Chip.writeBy_wf ag a en bs ?_
  split
  · exact Chip.serveOlder_wf _ _ h
  · exact h

/-- With nothing queued before it, a request is performed at once. -/
theorem Chip.agentRead_quiet {c : Chip} (ag : Agent) {a n : Nat} (h : isLpddr a = true → ∀ g ∈ c.reqGroups a n, (c.grpOf g).queue = []) :
    c.agentRead ag a n = c.readBy plainIo ag a n := by
  unfold Chip.agentRead Chip.agentReadIo
  rw [Chip.serveOlder_quiet h, ite_self]
theorem Chip.agentWrite_quiet {c : Chip} (ag : Agent) {a : Nat} (en : Nat) (bs : List Byte)
    (h : isLpddr a = true → ∀ g ∈ c.reqGroups a bs.length, (c.grpOf g).queue = []) : c.agentWrite ag a en bs = c.writeBy plainIo ag a en bs := by
  unfold Chip.agentWrite Chip.agentWriteIo
  rw [Chip.serveOlder_quiet h, ite_self]

theorem Chip.readAll_traces (c : Chip) (ag : Agent) (l : List (Nat × Nat)) : c.Traces (c.readAll ag l).1 := by
  induction l generalizing c with
  | nil => exact .refl c
  | cons x l ih =>
    unfold Chip.readAll
    have h := c.agentRead_traces ag x.1 x.2
    dsimp only
    split
    · exact h.trans (ih _)
    · exact h

/-! Beginnings. -/

/-- A work-queue command acts on a current entry that has its opcode and has not begun: the entry has then begun, with the code that the command gives. -/
theorem Chip.wqStart_begins {c : Chip} {n op : Nat} {e : QEntry} (f : Chip → QEntry → Chip × Option Code) (he : (c.queueOf n).cur = some e)
    (ho : Wqe.op e.bs = op) (hs : e.started = false) (hc : e.code = none) : c.wqStart n op f = match ((f c e).1.queueOf n).cur with
      | some x => (f c e).1.setQueue n { (f c e).1.queueOf n with cur := some { x with started := true, code := (f c e).2 } }
      | none => (f c e).1 := by
  rw [Chip.wqStart, he]
  exact if_neg (by simp [ho, hs, hc])

/-- On any other entry it does nothing. -/
theorem Chip.wqStart_idle {c : Chip} {n op : Nat} (f : Chip → QEntry → Chip × Option Code)
    (h : ∀ e, (c.queueOf n).cur = some e → Wqe.op e.bs ≠ op ∨ e.started = true ∨ e.code.isSome = true) : c.wqStart n op f = c := by
  unfold Chip.wqStart
  split
  · rfl
  · rename_i e he
    rcases h e he with h | h | h <;> simp [h]

/-- A vector command acts on the instruction of the context whose turn it is. -/
theorem Chip.veIssue_turn {c : Chip} {cl k t i op : Nat} (body : Chip → Nat → Nat → Chip) (hk : knownVeOp op = true) (h : c.veTurn cl k t i op) :
    c.veIssue cl k op body = body (c.veCounted cl k t) t i := by
  obtain ⟨h1, h0, h2, h3, h4⟩ := h
  subst h2
  simp only [Chip.veIssue, h1, h3, h4, hk, Nat.not_lt.mpr h0, Bool.not_true, ne_eq, not_true_eq_false, if_false, Bool.false_eq_true]
  rfl

/-- A message command acts on the message that arrives; what it leaves free is returned. -/
theorem Chip.takeMsg_arrives {c d : Chip} {p : Nat} {f : Msg → Bool} {m : Msg} (g : Chip → Msg → Chip) (h : c.arrives p f d m) :
    c.takeMsg p f g = (g d m).idleOut p 8 := by
  obtain ⟨i, x, h1, rfl, h3, h4, rfl⟩ := h
  simp only [Chip.takeMsg, h1]
  rw [if_neg (by simpa using h3), if_neg (by simpa using h4)]

end Sys2Proof.Machine
end

