-- ==== Sys2Proof/WellFormed.lean ====
section
/-! DEFINITION. Which commands are well formed: the lengths and ranges that the operand types do not fix. -/

namespace Sys2Proof

/-- A byte list of a fixed length. -/
def bytesAre (n : Nat) (bs : List Byte) : Bool := bs.length == n

/-- An agent of one of the 4 dies and, where it has one, of one of the 16 partitions. -/
def agentOk (a : Agent) : Bool :=
  decide (a.die < 4) && (match a.part with | some p => decide (p < 16) | none => true)

/-- A read fault of one of the 8 members of a group (R298). -/
def faultOk (f : AccFault) : Bool := decide (f.member < 8)

/-- The checks that a command's operands must pass. -/
def Instr.wf (i : Instr) : Bool :=
  match i with
  | .regWrite _ _ _ _ _ => true
  | .windowWrite _ _ _ _ _ => true
  | .secRegWrite _ _ _ _ => true
  | .cacheConfigWrite _ _ _ _ _ => true
  | .cacheWriteBack _ _ _ _ => true
  | .cacheInvalidate _ _ _ _ => true
  | .cacheWriteBackInvalidate _ _ _ _ => true
  | .rallyLoad _ => true
  | .rallyRun _ => true
  | .passAdmit _ _ _ => true
  | .passRetire _ _ _ => true
  | .groupSplit _ => true
  | .groupRejoin _ => true
  | .stepIssue _ _ _ _ => true
  | .planHaltComplete _ => true
  | .haltReq _ => true
  | .rseqStall _ => true
  | .stepComplete _ _ _ => true
  | .gatherPieceFetch _ _ => true
  | .programWrite _ _ _ bytes off data _ =>
    decide (128 ≤ bytes.length) && decide (bytes.length ≤ 64 + 64 * 1791) && bytes.length % 64 == 0 && decide (off.val + data.length ≤ 32768)
  | .tpStart _ _ => true
  | .tpEnd _ _ _ _ => true
  | .mma _ _ => true
  | .conv _ _ => true
  | .mmaWsh _ _ => true
  | .accStore _ _ => true
  | .sweepStart _ _ _ => true
  | .sweepVerdict _ _ _ _ fails _ _ => fails.all (fun x => decide (x < 1024))
  | .veFallbackDone _ _ _ => true
  | .accEccError _ _ _ _ fails _ => fails.all (fun l => l.all (fun x => decide (x < 1024)))
  | .tbLoad _ _ => true
  | .tbTileReady _ _ fails _ => fails.all (fun x => decide (x < 1024))
  | .spMove _ _ => true
  | .spMoveDone _ _ _ _ => true
  | .wait _ _ => true
  | .signal _ _ => true
  | .loop _ _ => true
  | .progEnd _ _ => true
  | .shelfOpen _ _ _ => true
  | .shelfClose _ _ => true
  | .shelfOpClaim _ _ => true
  | .shelfOpCommit _ _ => true
  | .shelfOpRelease _ _ => true
  | .shelfClaimGrant _ => true
  | .sramEccError _ _ => true
  | .veRun _ _ => true
  | .veRunDone _ _ _ _ _ _ => true
  | .veRequestReturn _ _ _ _ => true
  | .veWatchdogTimeout _ _ _ => true
  | .veRegEccError _ _ _ => true
  | .vadd _ _ => true
  | .vsub _ _ => true
  | .vmul _ _ => true
  | .vmax _ _ => true
  | .vmin _ _ => true
  | .vfma _ _ => true
  | .vabsneg _ _ => true
  | .vcmp _ _ => true
  | .vsel _ _ => true
  | .vbcast _ _ => true
  | .vexp2 _ _ => true
  | .vlog2 _ _ => true
  | .vrcp _ _ => true
  | .vrsqrt _ _ => true
  | .vsqrt _ _ => true
  | .vrsum _ _ => true
  | .vrmax _ _ => true
  | .vrmaxabs _ _ => true
  | .vcvt _ _ => true
  | .vdec _ _ => true
  | .vscl _ _ => true
  | .vld _ _ => true
  | .vst _ _ => true
  | .vgather _ _ => true
  | .vscatter _ _ => true
  | .vscatadd _ _ => true
  | .fence _ _ => true
  | .shclaim _ _ => true
  | .shcommit _ _ => true
  | .shrelease _ _ => true
  | .swait _ _ => true
  | .ssignal _ _ => true
  | .sadd _ _ => true
  | .ssub _ _ => true
  | .smul _ _ => true
  | .sshift _ _ => true
  | .slogic _ _ => true
  | .scmp _ _ => true
  | .smovi _ _ => true
  | .sldSst _ _ => true
  | .br _ _ => true
  | .brz _ _ => true
  | .brnz _ _ => true
  | .exit _ _ => true
  | .dmaChEnable _ _ _ => true
  | .dmaStop _ _ _ => true
  | .dmaProdWrite _ _ _ _ => true
  | .dmaDescFetch _ _ => true
  | .dmaDescStart _ _ => true
  | .dmaSlotArbitrate _ => true
  | .dmaChannelAge _ _ => true
  | .dmaSegmentAttemptEnd _ _ _ _ => true
  | .dmaAttemptTimeout _ _ _ _ _ => true
  | .dmaDescComplete _ _ => true
  | .dmaSignalFail _ _ => true
  | .dmaBufEccError _ _ _ => true
  | .wqProdWrite _ _ => true
  | .cqHeadWrite _ _ => true
  | .wqDequeue => true
  | .wqEntryComplete _ => true
  | .nop _ => true
  | .opRun _ _ => true
  | .syncSet _ => true
  | .whistle _ => true
  | .whistleDrainDone _ _ _ _ _ => true
  | .whistleStuck _ _ _ => true
  | .drain _ => true
  | .quiesceDone _ => true
  | .resume _ => true
  | .syncValueSet _ _ => true
  | .syncValueInc _ _ _ => true
  | .syncWaitMet _ => true
  | .memRead agent _ _ len faults => agentOk agent && decide (1 ≤ len.val) && faults.all faultOk
  | .memWrite agent _ _ bytes _ faults => agentOk agent && decide (1 ≤ bytes.length) && decide (bytes.length ≤ 128) && faults.all faultOk
  | .stripeBufferFlush _ _ faults => faults.all faultOk
  | .memRequestPromote _ _ => true
  | .memRefreshDue _ _ => true
  | .calSessionStart _ _ => true
  | .calSessionEnd _ _ _ => true
  | .calLogReplayDone _ => true
  | .memGrpCmdFail _ _ _ => true
  | .memGrpCmdCalNow _ _ => true
  | .memberFail _ _ _ _ => true
  | .rebuildStart _ _ => true
  | .rebuildStripe _ _ faults => faults.all faultOk
  | .portEnable _ => true
  | .portRetrain _ => true
  | .portForceDown _ => true
  | .portTrainComplete _ _ _ => true
  | .portTrainRetry _ => true
  | .portDown _ => true
  | .laneErrorLimitExceeded _ _ _ => true
  | .replayTimeout _ => true
  | .idleFlit _ bytes _ => bytesAre 256 bytes
  | .msgFlit _ bytes _ => bytesAre 256 bytes
  | .dataFlit _ bytes _ => bytesAre 256 bytes
  | .nakFlit _ bytes _ => bytesAre 256 bytes
  | .laneDropFlit _ bytes _ => bytesAre 256 bytes
  | .paramFlit _ bytes _ _ => bytesAre 256 bytes
  | .rd _ => true
  | .wr _ => true
  | .syncInc _ => true
  | .rdData _ => true
  | .wrAck _ => true
  | .syncAck _ => true
  | .refuse _ => true
  | .retry _ => true
  | .retryResendTimer _ _ => true
  | .respTimeout _ => true
  | .perstRelease => true
  | .perstAssert => true
  | .rrsTimeout => true
  | .pcieConfigRequest _ _ _ _ _ => true
  | .pcieMemRead _ _ len => decide (1 ≤ len.val)
  | .pcieMemWrite _ _ bytes => decide (1 ≤ bytes.length) && decide (bytes.length ≤ 512)
  | .flrVf _ => true
  | .flrPf => true
  | .pcieHotReset => true
  | .pcieLinkDown => true
  | .partReset _ => true
  | .partResetDone _ _ => true
  | .sliceTurn _ => true
  | .sliceGrantExpire _ => true
  | .sliceEnd _ _ _ => true
  | .seqOpen _ => true
  | .seqAppend _ => true
  | .seqClose _ => true
  | .batchStep _ _ => true
  | .batchOpDone _ _ => true
  | .layoutSwitch _ => true
  | .layoutSwitchComplete => true
  | .cabPlan _ => true
  | .cabStatic _ => true
  | .cabRelease _ => true
  | .pairingStart => true
  | .sideboardDrainDone => true
  | .catchupRetry _ => true
  | .cabSeal _ _ => true
  | .heartbeatSend => true
  | .partnerSilent _ => true
  | .lossDeclare _ => true
  | .heartbeat _ => true
  | .pair _ => true
  | .pairAck _ => true
  | .wstate _ => true
  | .drainEnd _ => true
  | .sealed _ => true
  | .memberSealed _ => true
  | .cabLost _ => true
  | .silent _ => true
  | .lost _ => true
  | .mgmtFence _ => true
  | .spareClaim _ => true
  | .spareGrant _ => true
  | .spareBusy _ => true
  | .spareFree _ => true
  | .loadDone _ _ _ => true
  | .adopted _ _ => true
  | .resumeGroup _ _ => true
  | .bootDone _ => true
  | .powerOnResetRelease _ => true
  | .bringUpStage _ _ _ _ => true
  | .computeReset => true
  | .computeResetDone _ => true
  | .flashReqAssert => true
  | .flashReqDeassert off bytes => decide (off.toNat + bytes.length ≤ 0x2000000)
  | .attReq _ nonce _ _ _ => bytesAre 32 nonce
  | .attSignatureDone _ _ _ => true
  | .attTokenGain => true
  | .ownerEnroll _ _ _ _ _ => true
  | .ownerRevoke _ _ _ _ _ => true
  | .svnCommit _ _ => true
  | .modEnRise => true
  | .inputValid => true
  | .modEnFall => true
  | .vinUndervoltage => true
  | .vinOvervoltage _ => true
  | .inputOvercurrent => true
  | .inputLow => true
  | .inputLowClear => true
  | .ref100Loss => true
  | .ref25Loss => true
  | .domainFault _ _ _ => true
  | .powerCapCheck _ _ => true
  | .sensorRefresh _ _ => true
  | .thermalPointTick _ _ => true
  | .opPointStep _ => true
  | .opPointStepDone _ => true
  | .droopDetect _ => true
  | .pldmEventRetry _ => true
  | .getTid => true
  | .setTid _ => true
  | .getPldmVersion _ => true
  | .getPldmTypes => true
  | .getPldmCommands _ => true
  | .getPdrRepositoryInfo => true
  | .getPdr _ => true
  | .getSensorReading _ => true
  | .getStateSensorReadings _ => true
  | .setEventReceiver _ => true
  | .bypass _ => true
  | .idcode _ => true
  | .samplePreload _ _ _ => true
  | .extest _ _ => true
  | .droopStretchEnd _ => true
  | .vinOvervoltageReclose => true
  | .pcieLinkUp _ speed => decide (1 ≤ speed.val)
  | .platformEventAck _ => true
  | .cacheOpDone _ _ => true
  | .trstAssert => true

end Sys2Proof
end

