-- ==== Sys2Proof/Tests/Slice0.lean ====
section
/-! SUPPORT. Tests: ill-formed commands, numbers that the spec works out, and for each statement a state and operands that meet its hypotheses. -/

namespace Sys2Proof.Tests

open Sys2Proof.Machine

set_option Elab.async false

/-! Helper states. -/

/-- A register file that holds the given fields. -/
def held (l : List (Blk × Field × Nat)) : KMap RegCell := l.map (fun e => (fkey e.1 e.2.1, ⟨e.2.2, e.2.1.width, e.2.1.kept⟩))

/-- Memory that holds records: an address, and fields (offset, bytes, value) in rising order. -/
def image (l : List (Nat × List (Nat × Nat × Nat))) : Mem :=
  l.flatMap (fun r => r.2.flatMap (fun e => ((leBytes e.2.1 e.2.2).zipIdx.map (fun x => (r.1 + e.1 + x.2, x.1))).filter (fun x => x.2 != 0)))

/-- The chip with power-on reset released, the input valid and every domain on. -/
def lit : Chip :=
  { por := false, board := { modEn := true, closed := true, valid := true, ref25 := true, ref100 := true }
    regs := held [(.pwr, R.PWR_DOMAINS_ON, 2 ^ 64 - 1)] }

/-- A state with a given chip. -/
def on (c : Chip) : State := { State.reset with chip := c }

/-- Is an outcome a next state that satisfies `p`? -/
def nextIs (p : State → Bool) : Host.Outcome State Fault Refusal → Bool
  | .next s => p s
  | _ => false

/-- Bytes of a little-endian record: `n` bytes with fields (offset, bytes, value). -/
def rcd (n : Nat) (l : List (Nat × Nat × Nat)) : List Byte :=
  (upto n).map (fun i => match l.find? (fun e => decide (e.1 ≤ i) && decide (i < e.1 + e.2.1)) with
    | some e => BitVec.ofNat 8 (e.2.2 / 256 ^ (i - e.1))
    | none => 0)

/-! Ill-formed commands: one for each check. -/

theorem test_ill_sum_row : Instr.wf (.sweepVerdict 0 0 [] .none [1024] 0 0) = false := by decide
theorem test_ill_replay_row : Instr.wf (.accEccError 0 0 0 .ue [[0], [1024]] 0) = false := by decide
theorem test_ill_program_short : Instr.wf (.programWrite 0 0 0 (List.replicate 64 0) 0 [] 0) = false := by decide
theorem test_ill_program_ragged : Instr.wf (.programWrite 0 0 0 (List.replicate 129 0) 0 [] 0) = false := by decide +kernel
theorem test_ill_grain : Instr.wf (.tbTileReady 0 0 [1024] 0) = false := by decide
theorem test_ill_agent_die : Instr.wf (.memRead ⟨none, 4⟩ 0 0 1 []) = false := by decide
theorem test_ill_agent_part : Instr.wf (.memRead ⟨some 16, 0⟩ 0 0 1 []) = false := by decide
theorem test_ill_read_empty : Instr.wf (.memRead ⟨none, 0⟩ 0 0 0 []) = false := by decide
theorem test_ill_read_member : Instr.wf (.memRead ⟨none, 0⟩ 0 0 1 [⟨0, 0, 8, 1⟩]) = false := by decide
theorem test_ill_write_empty : Instr.wf (.memWrite ⟨none, 0⟩ 0 0 [] 0 []) = false := by decide
theorem test_ill_write_long : Instr.wf (.memWrite ⟨none, 0⟩ 0 0 (List.replicate 129 0) 0 []) = false := by decide +kernel
theorem test_ill_flush_member : Instr.wf (.stripeBufferFlush 0 0 [⟨0, 0, 8, 1⟩]) = false := by decide
theorem test_ill_rebuild_member : Instr.wf (.rebuildStripe 0 .ok [⟨0, 0, 8, 1⟩]) = false := by decide
theorem test_ill_flit : Instr.wf (.msgFlit 0 (List.replicate 255 0) ⟨true, 0, 0, 0⟩) = false := by decide +kernel
theorem test_ill_tlp_read : Instr.wf (.pcieMemRead 0 0 0) = false := by decide
theorem test_ill_tlp_write : Instr.wf (.pcieMemWrite 0 0 []) = false := by decide
theorem test_ill_program_data : Instr.wf (.programWrite 0 0 0 (List.replicate 128 0) 32767 [0] 0) = true ∧
    Instr.wf (.programWrite 0 0 0 (List.replicate 128 0) 32767 [0, 0] 0) = false := by decide +kernel
theorem test_ill_program_long (bs d : List Byte) (h : bs.length = 114752) : Instr.wf (.programWrite 0 0 0 bs 0 d 0) = false :=
  (show Instr.wf _ = (decide (128 ≤ bs.length) && decide (bs.length ≤ 64 + 64 * 1791) && bs.length % 64 == 0 && decide (0 + d.length ≤ 32768)) from rfl).trans
    (by rw [h]; rfl)
theorem test_ill_tlp_long : Instr.wf (.pcieMemWrite 0 0 (List.replicate 4097 0)) = false := by decide +kernel
theorem test_ill_image : Instr.wf (.flashReqDeassert 0x1FFFFFF [0, 0]) = false := by decide +kernel
theorem test_ill_nonce : Instr.wf (.attReq none (List.replicate 31 0) 0 0 true) = false := by decide
theorem test_ill_speed : Instr.wf (.pcieLinkUp true 0) = false := by decide
theorem test_ill_idle : Instr.wf (.idleFlit 0 [] ⟨true, 0, 0, 0⟩) = false := by decide
theorem test_ill_data : Instr.wf (.dataFlit 0 [] ⟨true, 0, 0, 0⟩) = false := by decide
theorem test_ill_nak : Instr.wf (.nakFlit 0 [] ⟨true, 0, 0, 0⟩) = false := by decide
theorem test_ill_lane_drop : Instr.wf (.laneDropFlit 0 [] ⟨true, 0, 0, 0⟩) = false := by decide
theorem test_ill_param : Instr.wf (.paramFlit 0 [] ⟨true, 0, 0, 0⟩ 0) = false := by decide

/-- No word spells a command: the table gives no row any bits. -/
theorem test_no_words (nbits w : Nat) : decodeTableWord nbits w = none := rfl

/-! Numbers that the spec works out. -/

/-- R495: ME_STATUS of core 3 in cluster 5 of D2. -/
theorem test_me_status_address : 0x01F000000000 + (Blk.me 21 3).base + R.ME_STATUS_CSUM_MISS.off = 0x01F200828C20 := by decide

/-- The same register from its address. -/
theorem test_me_status_decoded : decodeReg 2 0x828C20 = some (.me 21 3) := by decide

/-- "Conventions": the scratchpad of core 11 in cluster 5 of D2. -/
theorem test_scratchpad_address : spBase 21 11 = 0x012512C00000 := by decide

/-- The module after bring-up, with partition 0 active on cluster 0 and all 32 groups, 1,024 counters and 16 contexts, and partition 1 not formed. -/
def work : Chip :=
  { lit with regs := held [(.pwr, R.PWR_DOMAINS_ON, 2 ^ 64 - 1), (.part 0, R.PART_STATE, 1), (.part 0, R.PART_CLUSTERS, 1),
    (.part 0, R.PART_SYNC_RANGE_SIZE, 1024), (.part 0, R.PART_SEQ_CTX_COUNT, 16), (.pmap 0 0, R.PMAP_PART_MAP_VALID, 1),
    (.pmap 0 0, R.PMAP_PART_MAP_GROUPS, 2 ^ 32 - 1), (.boot 0, R.BOOT_STATE_STAGE, 10), (.boot 0, R.BOOT_STATE_CODE, BOOT_OK),
    (.mem 0, R.MEM_STATE_PRESENT, 255), (.mem 1, R.MEM_STATE_PRESENT, 255), (.mem 2, R.MEM_STATE_PRESENT, 255),
    (.mem 3, R.MEM_STATE_PRESENT, 255)] }

/-- A chip with further register fields (later ones of a field that is already held are not seen). -/
def more (c : Chip) (l : List (Blk × Field × Nat)) : Chip := { c with regs := c.regs ++ held l }

/-- R300: address 0x0000_1000_0000 of partition 0 with 32 groups. -/
theorem test_memory_map : work.memMap 0x10000000 = ⟨18, 37444, 4, 0⟩ := by decide +kernel

/-- R300: the sub-channel of data index 4 of group 18 in stripe 37,444, whose parity lies with member 4. -/
theorem test_sub_channel : subchOf 18 4 = 152 := by decide

/-- R136: 13.7, 2.9 and −0.4 under X = 1 as E2M1, to nearest. -/
theorem test_mxfp4_nearest : [0x415B3333, 0x4039999A, 0xBECCCCCD].map (fun v => Fmt.e2m1.encode .rne ((of32 v).scale (-1))) = [7, 3, 8] := by
  decide +kernel

/-- R136: the block scale of a row whose largest magnitude is 13.7, for E2M1. -/
theorem test_mxfp4_scale : blockScale 7 [of32 0x415B3333, of32 0x4039999A, of32 0xBECCCCCD] = 128 := by decide +kernel

/-- R140: 1.45 rounds up with draw 6553 of t = 58,982 and a draw below 65,536 − 58,982 does not. -/
theorem test_stochastic : ((rndOf 4 6554).map (fun m => Fmt.e2m1.encode m ((of32 0x4039999A).scale (-1))), (rndOf 4 6553).map (fun m =>
    Fmt.e2m1.encode m ((of32 0x4039999A).scale (-1)))) = (some 3, some 2) := by decide +kernel
/-! States and operands that meet the hypotheses of the statements, a theorem for each statement. -/

theorem test_witness_StepRunsTheCommandInFront : State.reset.pending = [] := rfl

theorem test_witness_ExecKeepsTheQueue : exec .getTid State.reset = .next State.reset := rfl

theorem test_witness_NothingActsWhileResetHolds :
    State.reset.chip.por = true ∧ underReset (.powerCapCheck 0 true) = false ∧ tooHot (.junction 0 (some 2000)) = false := by decide +kernel

theorem test_witness_BurntBitsStayBurnt : State.reset.otp.grows State.reset.otp ∧
    step { State.reset with pending := [.getTid] } = .next State.reset :=
  ⟨⟨rfl, rfl, fun _ h => h, fun _ h => h, rfl, fun i x y h1 h2 => by
    obtain rfl : x = y := by rw [h1] at h2; exact Option.some.inj h2
    cases x <;> simp [OwnerSlot.grows]⟩, rfl⟩

theorem test_witness_OnlySixCommandsBurn : mayBurn .getTid = false ∧ exec .getTid State.reset = .next State.reset := ⟨rfl, rfl⟩

/-- At 70.00 V the module acts, above it the model faults; at 125 °C and above it likewise (R490). -/
theorem test_witness_StopsOnlyBeyondAbsoluteLimits :
    exec (.vinOvervoltage 7001) State.reset = .fault .beyondAbsoluteLimits ∧
    nextIs (fun _ => true) (exec (.vinOvervoltage 7000) State.reset) = true ∧
    exec (.sensorRefresh 0 (.junction 0 (some 2001))) State.reset = .fault .beyondAbsoluteLimits ∧
    nextIs (fun _ => true) (exec (.sensorRefresh 0 (.junction 0 (some 2000))) State.reset) = true :=
  ⟨rfl, by decide +kernel, rfl, by decide +kernel⟩

/-- The flag and the count of CSUM_MISS; a write of its bit clears it, with the count kept. -/
theorem test_witness_StatusEventsCount :
    St.ME_CSUM_MISS.flag.width = 1 ∧ St.ME_CSUM_MISS.cnt.width = 16 ∧
    St.ME_CSUM_MISS.flag.off * 64 + St.ME_CSUM_MISS.flag.lsb ≠ St.ME_CSUM_MISS.cnt.off * 64 + St.ME_CSUM_MISS.cnt.lsb ∧
    St.ME_CSUM_MISS.flag.acc = .w1c ∧ bit 1 St.ME_CSUM_MISS.flag.lsb = true := by decide +kernel

/-- A field of each access code that an access covers whole. -/
theorem test_witness_AccessCodes :
    R.CH_CONS.acc = .ro ∧ R.SYNC_VALUE_INC.acc = .wo ∧ R.SYNC_VALUE.acc = .rw ∧ R.JLK_CTRL_DEVICE_ID.acc = .rwl ∧ R.WQP_STATUS_CMD_INVALID.acc = .w1c ∧
    0 ≤ R.SYNC_VALUE_INC.lsb ∧ R.SYNC_VALUE_INC.lsb + R.SYNC_VALUE_INC.width ≤ 64 := by decide +kernel

theorem test_witness_RegisterWriteCompletes :
    (((4 : Fin 9).val == 8 && 4 % 8 == 0) || ((4 : Fin 9).val == 4 && 4 % 4 == 0)) = true ∧
    (((8 : Fin 9).val == 8 && 4 % 8 == 0) || ((8 : Fin 9).val == 4 && 4 % 4 == 0)) = false ∧
    decodeReg 0 0x488000 = none ∧ ctxView 0 0x488000 = none ∧ decodeReg 2 0x828C20 = some (.me 21 3) ∧
    (work.blkGone (.me 21 3) || !(Blk.me 21 3).fields.any (fun x => (Blk.me 21 3).base + x.off == 2 * dieSpan + 0x828C20 / 8 * 8)) = false ∧
    Tbl.SEC.any (fun x => x.off == 0 / 8 * 8) = true := by decide +kernel

theorem test_witness_RegisterStoreByField :
    R.SYNC_VALUE ∈ (Blk.sync 5).fields ∧ R.SYNC_VALUE ∈ (Blk.sync 5).covered 0 ((Blk.sync 5).base) 4 ∧
    R.SYNC_VALUE_INC ∉ (Blk.sync 5).covered 0 ((Blk.sync 5).base) 4 := by decide +kernel

/-- A core whose cache has three ways, one line of way 2 dirty, and an operation that waits. -/
def cached : Chip := work.setCache 0 15 { lines := [⟨2, 511, 7, true⟩, ⟨0, 0, 1, false⟩], ops := [.run true true none] }

theorem test_witness_CacheCommandsComplete :
    cached.por = false ∧ cached.clusterOff 0 = false ∧ cached.clusterLive 0 = true ∧ (cached.cacheOf 0 15).ops = [.run true true none] ∧
    cached.cacheAgent 0 (.part 0) = some 0 ∧ cached.shared 0 = false ∧ cached.largestPart ≤ 8 ∧ cached.partOf 0 = some 0 ∧
    (cached.clustersOf 0).length ≤ 4 ∧ satNat 16 (field 31 0 5) = 16 ∧ cached.waysOverlap 0 15 16 = false ∧ (2 != 2) = false := by decide +kernel

/-- Shelf 62 of a core with a region of 4 KiB, one live entry of two units and a waiting claim of 62. -/
def shelved (s : Shelf) : Chip := work.setShelf (.core 0 15 62) s
def shelf1 : Shelf := { opened := true, size := 4, entries := [⟨0, 0, 2, false, 0⟩] }

theorem test_witness_ShelfCommandsComplete :
    work.clusterLive (shelfRef (.core 0 15 62)).cluster = true ∧ (shelfRef (.core 0 15 62)).isSpill = false ∧
    work.mayOpen (.mc 0) (.core 0 15 62) (shelfOfCfg 0x100010E11) = true ∧ work.openOk (.core 0 15 62) (shelfOfCfg 0x100010E11) = true ∧
    work.openOk (.core 0 15 62) (shelfOfCfg 0x10E11) = false ∧
    ((shelved shelf1).shelf (.core 0 15 62)) = shelf1 ∧ shelf1.live = 1 ∧ shelf1.fits 62 = true ∧ shelf1.fits 63 = false ∧ 62 ≤ shelf1.span ∧
    shelf1.index? 0 = some 0 ∧ shelf1.entries[0]? = some ⟨0, 0, 2, false, 0⟩ ∧ shelf1.sigSync = 0xFFFF ∧
    ({ opened := true, size := 4 } : Shelf).live = 0 ∧ ({ opened := true, size := 4 } : Shelf).waiting = [] ∧
    ({ shelf1 with waiting := [⟨62, .spMove 0 15⟩] } : Shelf).waiting = [⟨62, .spMove 0 15⟩] := by decide +kernel

/-- A sound shelf of 4 KiB with one live entry of two units, to which a waiting claim of 62 units is granted. -/
theorem test_witness_ShelfOperationsStaySound : ({} : Shelf).sound ∧ shelf1.sound ∧
    ({ shelf1 with waiting := [⟨62, .spMove 0 15⟩] } : Shelf).sound ∧ ({ shelf1 with waiting := [⟨62, .spMove 0 15⟩] } : Shelf).grantOldest ≠ none := by
  refine ⟨?_, ?_, ?_, by decide +kernel⟩ <;> exact ⟨by decide +kernel, by decide +kernel, trivial, by decide +kernel⟩
/-! A plan in memory: one rally of one forward step, two micro-batches, for partition 0 on cluster 0. -/

def planHdrF : List (Nat × Nat × Nat) :=
  [(0, 4, 0x52414C47), (4, 2, 1), (6, 2, 1), (8, 2, 2), (0xD, 1, 1), (0x10, 8, 0x2000), (0x28, 2, 64), (0x2A, 2, 64), (0x30, 2, 8), (0x3A, 2, 1023)]
def planRallyF : List (Nat × Nat × Nat) :=
  [(2, 2, 1), (6, 1, 1), (7, 1, 1), (8, 8, 0x3000), (0x10, 8, 0x4000), (0x20, 2, 16), (0x22, 2, 16), (0x28, 1, 4), (0x30, 8, 0x6000)]
def planStepF (piece : Nat) : List (Nat × Nat × Nat) :=
  [(0, 1, 1), (4, 2, piece), (6, 2, 0xFFFF), (0xC, 2, 0xFFFF), (0xE, 2, 0xFFFF), (0x10, 4, 1), (0x14, 4, 1), (0x18, 4, 1), (0x20, 8, 0x5000),
    (0x28, 3, 0xFFFFFF)]
def matDescF : List (Nat × Nat × Nat) :=
  [(0, 1, 1), (4, 1, 1), (5, 1, 1), (8, 4, 1), (0xC, 4, 1), (0x10, 4, 1), (0x20, 8, 0x10000), (0x28, 8, 0x11000), (0x30, 8, 0x12000), (0x40, 4, 2),
    (0x44, 4, 2), (0x48, 4, 2)]
def planHdr : List Byte := rcd 64 planHdrF
def planRally : List Byte := rcd 64 planRallyF
def planStep (piece : Nat) : List Byte := rcd 64 (planStepF piece)
def matDesc : List Byte := rcd 128 matDescF
def planned (piece : Nat) : Chip :=
  { work with mem := image [(0x1000, planHdrF), (0x2000, planRallyF), (0x3000, planStepF piece), (0x4000, [(2, 2, 1), (4, 2, 1)]), (0x5000, matDescF),
    (0x6000, [(0, 1, 1), (4, 4, 1)]), (0x6040, [(4, 4, 1), (8, 8, 0x7000)])] }
def plan0 : Rseq := { hdr := planHdr, rallies := [planRally], subs := [[rcd 16 [(2, 2, 1), (4, 2, 1)]]] }
/-- Cluster 0 with the plan, in a state of the RSEQ. -/
def rseqIn (piece state : Nat) (q : Rseq) : Chip := { more (planned piece) [(.rseq 0, R.RSEQ_STATE, state)] with rseqs := [(0, q)] }
def walks (piece : Nat) : Chip :=
  { rseqIn piece RS_RUNNING plan0 with shelves := [((ShelfRef.commons 0 252).key, { opened := true, owner := 4, base := 64, size := 8 })] }
def passOf (steps : List WalkStep) : Pass := ⟨false, 0, 0, false, 0, 16, 16, 4, steps, [], false, [], []⟩
def admitted : Chip := rseqIn 0xFFFF RS_RUNNING { plan0 with passes := [passOf [⟨0, 0, none, false⟩]], fAdm := 1 }

/-- A current queue entry with an opcode and further fields. -/
def entry (op : Nat) (l : List (Nat × Nat × Nat)) : QEntry := { bs := rcd 64 ((0, 1, op) :: l), ptr := 0 }
def queued (c : Chip) (n : Nat) (e : QEntry) : Chip := c.setQueue n { cur := some e }

theorem test_witness_RallyQueueCommandsComplete :
    ((queued work 3 (entry 2 [])).queueOf 3).cur = some (entry 2 []) ∧ (entry 2 []).started = false ∧ (entry 2 []).code = none ∧
    Wqe.op (entry 2 []).bs = 2 ∧ Wqe.op (entry 3 []).bs = 3 ∧ (walks 0xFFFF).walking 0 = true ∧ (planned 0xFFFF).walking 0 = false ∧
    (planned 0xFFFF).validatePlan 0 0 0x1000 =
      .ok { hdr := planHdr, rallies := [planRally], subs := [[rcd 16 [(2, 2, 1), (4, 2, 1)]]], bsig := [], fwait := [] } ∧
    (rseqIn 0 RS_LOADED plan0).rsState 0 = RS_LOADED ∧ Hdr.bwd plan0.hdr = false := by decide +kernel
/-- Cluster 0 with its pass walked, or with a halt and a pass that depends on failed work. -/
def closing : Chip := rseqIn 0 RS_RUNNING { plan0 with passes := [passOf []], fAdm := 1 }
def halting : Chip := rseqIn 0 RS_RUNNING { plan0 with passes := [{ passOf [] with failed := true }], halt := some COMP_HALTED }

/-- A plan with a backward pass and SPLIT = 12, its first backward pass ready; and one whose forward queue is empty, the groups split. -/
def splitHdr : List Byte := rcd 64 [(0, 4, 0x52414C47), (4, 2, 1), (6, 2, 1), (8, 2, 2), (0xA, 2, 0x0C01), (0xC, 1, 1), (0xE, 2, 1)]
def toSplit : Chip :=
  { rseqIn 0 RS_RUNNING { hdr := splitHdr, rallies := [planRally], fAdm := 2, fRet := [(0, 0)] } with waits := [⟨0, 1, .seed 0, true⟩] }
def toRejoin : Chip := more (rseqIn 0 RS_RUNNING { hdr := splitHdr, rallies := [planRally], fAdm := 2 }) [(.rseq 0, R.RSEQ_STATE_SPLIT, 12)]

theorem test_witness_PassesAreAdmittedAndRetire :
    (walks 0xFFFF).clustersOf 0 = [0] ∧ (walks 0xFFFF).mayAdmit 0 true = none ∧ (walks 0xFFFF).mayAdmit 0 false = some (0, 0, false, 0, 16) ∧
    (walks 0xFFFF).admitFault 0 true = none ∧ (walks 0xFFFF).awaitsPool 0 false = false ∧ admitted.clusterLive 0 = true ∧
    (admitted.rseqOf 0).passes = [passOf [⟨0, 0, none, false⟩]] ∧
    (closing.rseqOf 0).passes.find? (fun x => x.bwd == false && x.high == false) = some (passOf []) ∧ closing.passBusy 0 (passOf []) = false ∧
    Hdr.doneSync (closing.rseqOf 0).hdr < closing.syncRange 0 ∧ closing.rsState 0 = RS_RUNNING ∧ 1 ≠ queueLen planHdr false + queueLen planHdr true ∧
    toSplit.rsState 0 = RS_RUNNING ∧ (toSplit.rseqOf 0).passes = [] ∧ toSplit.splitDue 0 = true ∧ toRejoin.rejoinDue 0 = true ∧
    (toRejoin.rseqOf 0).halt = none ∧ admitted.blkGone (.rseq 0) = false ∧ halting.walking 0 = true ∧ (halting.rseqOf 0).halt = some COMP_HALTED ∧
    halting.passBusy 0 { passOf [] with failed := true } = false ∧
    (more admitted [(.rseq 0, R.RSEQ_CTRL_STALL_LIMIT, 1)]).getF (.rseq 0) R.RSEQ_CTRL_STALL_LIMIT ≠ 0 := by decide +kernel

/-- The pass with the share of every core: 32 tiles of window 0 and 256 KiB. -/
def granted : Chip := more admitted ((upto 16).flatMap (fun k => [(.me 0 k, R.ME_ACC_WIN_COUNT0, 32), (.sp 0 k, R.SP_GRANT_SIZE0, 256)]))

/-- A step that has run on cores 14 and 15, both ended. -/
def ran : StepRun := { desc := matDesc, rcd := planStep 0xFFFF, cores := [14, 15], ends := [(14, 0), (15, 0)], m := 1, n := 1, k := 1 }

def runsStep : StepRes → Bool
  | .runs _ => true
  | _ => false

theorem test_witness_StepsIssueAndComplete :
    granted.activePass 0 false = some (passOf [⟨0, 0, none, false⟩]) ∧ granted.walking 0 = true ∧
    (∀ k ∈ granted.groupCores 0 false, granted.stepAt 0 k = none) ∧
    (granted.agentRead (rseqAgent 0 0) (Rly.stepAddr planRally 0) 64).2 = (COMP_OK, planStep 0xFFFF) ∧
    Stp.reason planHdr planRally [] [] 0 (planStep 0xFFFF) = 0 ∧ Stp.waitSync (planStep 0xFFFF) = 0xFFFF ∧ Stp.shapeSlot (planStep 0xFFFF) = 0xFFFF ∧
    Stp.kind (planStep 0xFFFF) ≠ 4 ∧
    runsStep (((granted.agentRead (rseqAgent 0 0) (Rly.stepAddr planRally 0) 64).1.dropWaits (.step 0 0)).addF (.rseq 0) R.RSEQ_ACCT_GWAIT 0
      |>.stepBegin 0 0x5000 { walk := ⟨0, 0, none, false⟩, rcd := planStep 0xFFFF, m := 1, n := 1, k := 1, cores := upto 16 }).2 = true ∧
    (work.setStep 0 0 ran).stepOf 0 0 = some ran ∧ kindOf (recNat ran.desc 0 1) = 1 ∧ (∀ k ∈ ran.cores, (ran.ends.find? k).isSome) ∧
    Stp.signal ran.rcd = 0xFFFF ∧ Stp.signal (rcd 64 [(0xC, 2, 1023)]) < work.syncRange 0 ∧
    (match (walks 0).nextPiece 0 ((walks 0).rseqOf 0) false 3 0 0 with | some (0, 0, 0, 0, 0, 0) => true | _ => false) = true ∧
    (walks 0).readPiece (rseqAgent 0 0) planHdr planRally 0 = .ok (rcd 64 [(0, 1, 1), (4, 4, 1)], [rcd 32 [(4, 4, 1), (8, 8, 0x7000)]]) ∧
    (match (walks 0).stepClaim 0 252 64 with | .ok (some (_, e)) => e == 0 | _ => false) = true := by decide +kernel

/-- A step of 1 × 1 × 1 whose product is core 14's, as wide-and-shallow, and leaves core 15 nothing. -/
def planRun : StepRun := { ran with
  ends := []
  plan := { cores := [{ core := 14, prods := [{ rows := (0, 1), cols := (0, 1), k := 1, mode := 3 }], needVe := true }, { core := 15, prods := [{ k := 1 }] }] } }
def stepping : Chip := (more work [(.me 0 14, R.ME_ACC_WIN_COUNT0, 32)]).setStep 0 0 planRun

/-- The program of a core with nothing to do, and that of core 14: a sweep, the store of its VT as 64 × 32 in FP32, a VE_RUN, a push. -/
def programF : List (Nat × Nat × Nat) := [(0, 2, 1), (2, 2, 3), (0x40, 1, 0xF)]
def program : List Byte := rcd 128 programF
def productProgram : List Byte :=
  rcd 64 [(0, 2, 5), (2, 2, 3), (0xC, 4, 64)] ++ rcd 64 [(0, 1, 3), (1, 1, 1), (4, 2, 1), (6, 2, 1), (8, 2, 1), (0x14, 4, 16), (0x20, 4, 16)] ++
    rcd 64 [(0, 1, 4), (2, 1, 8), (4, 2, 64), (8, 2, 32), (0x14, 4, 16), (0x30, 4, 0xFFFFFFFF)] ++ rcd 64 [(0, 1, 0xB), (2, 1, 0x80)] ++
    rcd 64 [(0, 1, 0xA), (1, 1, 1), (2, 2, 1), (4, 2, 64), (6, 1, 0xFF), (0x10, 4, 64), (0x14, 4, 64), (0x18, 4, 64)] ++ rcd 64 [(0, 1, 0xF)]
def programmed : Chip := { work.setStep 0 0 { ran with ends := [] } with mem := image [(spBase 0 15 + bufOff 0, programF)] }

/-- Core 15 of cluster 0 at slot 0 of a program of two slots whose command is the given fields. -/
def atCmd (l : List (Nat × Nat × Nat)) : Chip :=
  { work with seqs := [(coreKey 0 15, { running := true, length := 2 })], mem := image [(spBase 0 15 + bufOff 0 + 64, l)] }

theorem test_witness_TileProgramsComplete :
    work.clusterLive 0 = true ∧ stepping.stepAt 0 15 = some (0, planRun) ∧ stepping.mayWrite 0 15 0 planRun = true ∧
    stepping.progHeaderOk 0 15 planRun program = true ∧ 0x7FFF + 1 ≤ (stepping.planArea 0).2 ∧ (1000 : Nat) ≤ stepping.estLimit 0 ∧
    (programCmds program).isSome = true ∧
    ((programCmds program).bind (stepping.progNext 0 15 planRun 1000 program)).map (fun p => stagedOk (planRun.staged ++ p.staged)) = some true ∧
    (programCmds program).map estProgram = some 0 ∧ recNat program 0xC 4 = 0 ∧
    stepping.progHeaderOk 0 14 planRun productProgram = true ∧
    ((programCmds productProgram).bind (stepping.progNext 0 14 planRun 1000 productProgram)).isSome = true ∧
    (programCmds productProgram).map (fun l => (estLow l, estProgram (l.take 2))) = some (64, 64) ∧
    ((programCmds program).bind (stepping.progNext 0 14 planRun 1000 program)).isSome = false ∧
    (programmed.seqOf 0 15).running = false ∧ programmed.nextBuffer 0 15 = some 0 ∧ programmed.sliceAllows 0 0 = true ∧ ran.code = 0 ∧
    programmed.stepAt 0 15 = some (0, { ran with ends := [] }) ∧
    ((work.setSeq 0 15 { running := true, ended := true }).seqQuiet 0 15) = true ∧
    ((work.setSeq 0 15 { running := true, ended := true }).stepAt 0 15) = none := by decide +kernel

/-- A LOOP of one slot and one iteration with no entry in use. -/
def loopF : List (Nat × Nat × Nat) :=
  [(0, 1, 0xE), (1, 1, 1), (2, 2, 1), (4, 1, 0xFF), (0xC, 1, 0xFF), (0x14, 1, 0xFF), (0x1C, 1, 0xFF), (0x24, 1, 0xFF), (0x2C, 1, 0xFF)]

theorem test_witness_SequencerCommandsComplete :
    (atCmd [(0, 1, 0xC), (2, 2, 1023)]).seqAt 0 15 0xC = some (rcd 64 [(0, 1, 0xC), (2, 2, 1023)]) ∧ 1023 < work.syncRange 0 ∧
    0 ≤ work.syncVal 1023 ∧ work.syncVal 1023 < 1 ∧ allZero ((rcd 64 [(0, 1, 0xC), (2, 2, 1023)]).drop 8) = true ∧
    (atCmd [(0, 1, 0xC), (1, 1, 1)]).seqAt 0 15 0xC = some (rcd 64 [(0, 1, 0xC), (1, 1, 1)]) ∧
    (atCmd [(0, 1, 0xD), (4, 4, 1)]).seqAt 0 15 0xD = some (rcd 64 [(0, 1, 0xD), (4, 4, 1)]) ∧
    (atCmd [(0, 1, 0xD), (4, 4, 1)]).seqQuiet 0 15 = true ∧ (atCmd [(0, 1, 0xD)]).seqAt 0 15 0xD = some (rcd 64 [(0, 1, 0xD)]) ∧
    (atCmd loopF).seqAt 0 15 0xE = some (rcd 64 loopF) ∧ loopReason { running := true, length := 2 } (fun _ => 0xF) (rcd 64 loopF) = none ∧
    (atCmd [(0, 1, 0xF)]).seqAt 0 15 0xF = some (rcd 64 [(0, 1, 0xF)]) ∧ allZero ((rcd 64 [(0, 1, 0xF)]).drop 1) = true := by
  decide +kernel
/-! The matrix engine, the transposing buffer, moves. -/

/-- A BF16 sweep of one cell into VT 0 with INIT, an ACC_STORE of it, a TB_LOAD of one element and a pull of one strip. -/
def mmaF (op : Nat) : List (Nat × Nat × Nat) := [(0, 1, op), (1, 1, 1), (4, 2, 1), (6, 2, 1), (8, 2, 1), (0x14, 4, 16), (0x20, 4, 16)]
def convF : List (Nat × Nat × Nat) := [(0, 1, 2), (1, 1, 1), (4, 2, 1), (6, 2, 1), (8, 2, 1), (0xA, 2, 0x80), (0x14, 4, 16), (0x20, 4, 16)]
def storeF : List (Nat × Nat × Nat) := [(0, 1, 4), (4, 2, 1), (8, 2, 1), (0x14, 4, 16), (0x30, 4, 0xFFFFFFFF)]
def tbF : List (Nat × Nat × Nat) := [(0, 1, 8), (3, 1, 1), (4, 2, 1), (6, 2, 1), (0xC, 4, 16)]
def pullF : List (Nat × Nat × Nat) := [(0, 1, 0xA), (2, 2, 1), (4, 2, 16), (6, 1, 0xFF)]
def sweep (started : Bool) : Sweep := ⟨0, rcd 64 (mmaF 1), 0, rcd 64 (mmaF 1), false, started, 0, none, none, none⟩
def engine (m : Me) : Chip := more { work with mes := [(coreKey 0 15, m)] } [(.me 0 15, R.ME_ACC_WIN_COUNT0, 32)]
def tbTile : TbTile := ⟨rcd 64 tbF, 0, 1, 0, true, [], []⟩

theorem test_witness_SweepsIssueStartAndStore :
    (atCmd (mmaF 1)).seqAt 0 15 1 = some (rcd 64 (mmaF 1)) ∧ (atCmd convF).seqAt 0 15 2 = some (rcd 64 convF) ∧
    (atCmd (mmaF 3)).seqAt 0 15 3 = some (rcd 64 (mmaF 3)) ∧ meReason (rcd 64 (mmaF 1)) none = none ∧ meReason (rcd 64 convF) none = none ∧
    meReason (rcd 64 (mmaF 3)) none = none ∧ (atCmd (mmaF 1)).meClash 0 15 (rcd 64 (mmaF 1)) false = false ∧
    ((engine { sweeps := [sweep false] }).meOf 0 15).nextStart = some (0, sweep false) ∧
    (engine { sweeps := [sweep false] }).mayStart 0 15 0 (sweep false) = true ∧ tbReadReason {} (sweep false).cmd false = none ∧
    meATb (sweep false).cmd = false ∧ meWTb (sweep false).cmd = false ∧
    meATb (rcd 64 [(0, 1, 1), (1, 1, 0x21)]) = true ∧ ({ aq := [tbTile] } : Tb).head false = some tbTile ∧ tbTile.ready = true ∧
    tbReadReason { aq := [tbTile] } (rcd 64 [(0, 1, 1), (1, 1, 0x21), (4, 2, 1), (6, 2, 1)]) false = none ∧
    (atCmd storeF).seqAt 0 15 4 = some (rcd 64 storeF) ∧ meReason (rcd 64 storeF) none = none ∧
    (atCmd storeF).meClash 0 15 (rcd 64 storeF) false = false := by decide +kernel

/-- A sweep of 1 × 1 whose operands are zero: no comparison fails; a fault of 1.0 on its one sum fails row 0. -/
theorem test_witness_VerdictsCommitOrRepeat :
    ((engine { sweeps := [sweep true] }).meOf 0 15).sweeps = [sweep true] ∧ meNoCommit (sweep true).cmd = false ∧ meK (sweep true).cmd ≠ 0 ∧
    ((engine { sweeps := [sweep true] }).sweepSums 0 15 (sweep true) []).failing = none ∧
    ((engine { sweeps := [sweep true] }).sweepSums 0 15 (sweep true) []).skipped = [] ∧
    ((engine { sweeps := [sweep true] }).sweepSums 0 15 (sweep true) [(.out 0 0, 0x3F800000)]).failing = some (0, 0) := by decide +kernel

theorem test_witness_AccumulatorErrorsAndTbLoads :
    (∀ x ∈ ((engine {}).meOf 0 15).vts, (engine {}).tileHome 0 15 x.win x.v ≠ .resident 31) ∧
    (atCmd tbF).seqAt 0 15 8 = some (rcd 64 tbF) ∧ (∀ e ∈ tbChecks (rcd 64 tbF), e.2 = false) ∧ tbReserved (rcd 64 tbF) = false ∧
    (atCmd tbF).tbRoom 0 15 false = true ∧ ((atCmd tbF).seqOf 0 15).moves = [] ∧
    (tbChecks (rcd 64 [(0, 1, 8)])).find? (·.2) = some (0x02, true) ∧
    ({ aq := [{ tbTile with ready := false }] } : Tb).filling = some (false, { tbTile with ready := false }) := by decide +kernel

theorem test_witness_MovesAndSramErrors :
    (atCmd pullF).seqAt 0 15 0xA = some (rcd 64 pullF) ∧ recNat (rcd 64 pullF) 6 1 = 0xFF ∧ mvReason (rcd 64 pullF) none = none ∧
    (atCmd pullF).mvDenied 0 15 0 (rcd 64 pullF) = false ∧
    (atCmd pullF).moveClash 0 15 (moveRegion (rcd 64 pullF)).1 (moveRegion (rcd 64 pullF)).2 = false ∧
    (atCmd pullF).moveHeld 0 ⟨rcd 64 pullF, 0, 0, 0, none, false⟩ = false ∧ cached.lineAt 0 15 0 = none ∧
    (more cached [(.sp 0 15, R.SP_CACHE_CFG_WAYS, 3)]).lineAt 0 15 0x270000 = some ⟨0, 0, 1, false⟩ := by decide +kernel
/-! The vector engine: thread 7 of core 15 at PC 0x100, whose instruction is `i`. -/

def vctx : VeCtx := { run := some 0, pc := 0x100, sca := [(0, 64), (1, 1)], mask := [(1, 1)] }
def atInst (i : Nat) : Chip :=
  { work with ves := [(coreKey 0 15, { ctxs := [(7, vctx)], runs := [⟨0, [7], 0, 0, none⟩], last := 6 })],
              shelves := [((ShelfRef.core 0 15 62).key, shelf1)], mem := image [(spBase 0 15 + 0x100, [(0, 8, i)])] }

/-- What `Chip.veTurn` asks, for an instruction word. -/
def turn (i op : Nat) : Bool :=
  decide ((atInst i).vePick 0 15 = some 7) && leNat ((atInst i).spRead 0 15 ((atInst i).ctx 0 15 7).pc 8) == i && viOpc i == op && !viReserved i

theorem test_witness_LaneArithmeticCompletes : (work.por = false ∧ (atInst 1).clusterLive 0 = true) ∧
    ∀ op ∈ [0x01, 0x02, 0x03, 0x04, 0x05, 0x06, 0x07, 0x0A, 0x22], turn op op = true ∧ turn (op + 2 * 2 ^ 28) op = true := by decide +kernel

theorem test_witness_LaneFunctionsStayWithinTwoUlp : (∀ op ∈ [0x10, 0x11, 0x12, 0x13, 0x14], turn op op = true) ∧ viW 0x14 ≠ 2 ∧
    (of32 1).r32 = .fin false 1 (-149) := by decide +kernel

theorem test_witness_LaneMovesCompareAndReduce :
    turn 0x108 0x08 = true ∧ viD 0x108 = 1 ∧ viD 0x308 = 3 ∧ turn 0x09 0x09 = true ∧ (∀ op ∈ [0x18, 0x19, 0x1A], turn op op = true) ∧
    (upto (laneCount 0)).filter (vctx.active 0x18) ≠ [] ∧ turn (0x20 + 2 ^ 35) 0x20 = true ∧ fmtOf (viFmt (0x20 + 2 ^ 35)) = some .e4m3 ∧
    isMx (viFmt (0x20 + 2 ^ 35)) = false ∧ packedBytes 1 (laneCount 0) ≤ 512 ∧ turn 0x21 0x21 = true ∧ (fmtOf (viFmt 0x21)).isSome = true ∧
    packedBytes 0 (laneCount 0) ≤ 512 := by decide +kernel

/-- SLD_SST with S0 as its address: the last 8 bytes of the core's own scratchpad below the cache. -/
theorem test_witness_VectorMemoryInstructionsComplete :
    (∀ op ∈ [0x28, 0x29, 0x2A, 0x2B, 0x2C, 0x2D], turn op op = true) ∧ veMoveFmt 0 0 = true ∧ veAddr 64 0 % 16 = 0 ∧ veElemFmt 0 0 = true ∧
    (∀ e ∈ vctx.elemAddrs (0x2A + 2 ^ 30), e.2 % (elemBits 0 / 8) = 0) ∧ turn 0x47 0x47 = true ∧ turn (0x47 + 2 ^ 63) 0x47 = true ∧
    bit (viImmU (0x47 + 2 ^ 63)) 23 = true ∧ bit (viImmU 0x47) 23 = false ∧ field (spBase 0 15) 48 12 = work.deviceId ∧
    spBase 0 15 + 0x27FFF8 + 8 ≤ spBase 0 15 + 0x280000 - 0x10000 * work.cacheWays 0 15 ∧ (spBase 0 15 + 0x27FFF8) % 128 ≤ 120 ∧ vctx.loads = 0 ∧
    veAddr (({ vctx with sca := [(0, spBase 0 15 + 0x27FFF8)] } : VeCtx).s (viA 0x47)) 0 = spBase 0 15 + 0x27FFF8 ∧
    (atInst 0x47).accessCode ((atInst 0x47).veAgent 0 15 7) false (spBase 0 15 + 0x27FFF8) 8 = COMP_OK ∧
    (atInst 0x47).accessCode ((atInst 0x47).veAgent 0 15 7) true (spBase 0 15 + 0x27FFF8) 8 = COMP_OK := by decide +kernel

theorem test_witness_ScalarInstructionsComplete :
    (∀ op ∈ [0x40, 0x41, 0x42, 0x43, 0x44, 0x45, 0x46, 0x48, 0x49, 0x4A, 0x4F], turn op op = true) ∧
    (0 : Int) ≤ 2 ^ 64 - 1 + 0 ∧ (2 : Int) ^ 64 - 1 + 0 < 2 ^ 64 ∧ -(2 ^ 63) ≤ sextInt 64 (2 ^ 63) + 0 := by decide +kernel

theorem test_witness_VectorShelvesAndCountersComplete :
    (∀ op ∈ [0x30, 0x31, 0x32, 0x38, 0x39], turn (op + 2 ^ 18 + 62 * 2 ^ 40) op = true) ∧ viImmU (0x30 + 62 * 2 ^ 40) % 256 < 64 ∧
    (veShelf 0 15 (0x30 + 62 * 2 ^ 40)) = .core 0 15 62 ∧ (ShelfRef.core 0 15 62).isSpill = false ∧ vctx.s 0 = 64 ∧ shelf1.opened = true ∧
    64 / 64 ≤ shelf1.span ∧ shelf1.waiting = [] ∧ shelf1.fits (64 / 64) = true ∧ (atInst 0x38).vePart 0 15 7 = 0 ∧ 64 < work.syncRange 0 ∧
    0 ≤ work.syncVal 64 ∧ work.syncVal 64 < 1 ∧ vctx.s 1 ≠ 0 ∧ vctx.s 1 ≤ 0xFFFFFFFF ∧ vctx.s 2 = 0 := by decide +kernel

/-- A VE_RUN of thread 7 with its arguments at the end of the scratchpad, a run that has ended, one that has not, and a held slot. -/
def runF : List (Nat × Nat × Nat) := [(0, 1, 0xB), (2, 1, 0x80), (4, 4, 0x100), (8, 4, 0x2FFF00)]
def doneRun : Ve := { ctxs := [(7, { vctx with done := true })], runs := [⟨0, [7], 0, 0, none⟩] }
def liveVe : Chip :=
  more { work with ves := [(coreKey 0 15, { ctxs := [(7, vctx)], runs := [⟨0, [7], 0, 0, none⟩] })] } [(.ve 0 15, R.VE_CTRL_WATCHDOG, 1)]

theorem test_witness_VectorRunsComplete :
    (atCmd runF).seqAt 0 15 0xB = some (rcd 64 runF) ∧ veBadRun (rcd 64 runF) ((atCmd runF).shared 0) = false ∧
    field (recNat (rcd 64 runF) 8 4) 0 22 + 240 ≤ spSize ∧ ((atCmd runF).ctx 0 15 7).run = none ∧
    doneRun.runs.find? doneRun.runEnded = some ⟨0, [7], 0, 0, none⟩ ∧
    (liveVe.veOf 0 15).runs[0]? = some ⟨0, [7], 0, 0, none⟩ ∧ liveVe.getF (.ve 0 15) R.VE_CTRL_WATCHDOG ≠ 0 ∧ (liveVe.meOf 0 15).fallback = false ∧
    [7].find? (fun t => !(liveVe.ctx 0 15 t).done) = some 7 ∧ (liveVe.veOf 0 15).liveRun (liveVe.ctx 0 15 7) = some ⟨0, [7], 0, 0, none⟩ ∧
    liveVe.partOf 0 = some 0 ∧ ({ slots := [⟨3, 1, 0, [], [], false, ⟨spBase 0 15, 0, .load 8 (.image 0)⟩⟩] } : Ve).liveRun ({} : VeCtx) = none := by
  decide +kernel
/-! DMA channels. -/

/-- Channel 27 of cluster 0, enabled, with a ring of 16 at 0x8000 and one posted descriptor: a copy of 4,096 bytes between SRAM places, or op 0. -/
def descF (op : Nat) : List (Nat × Nat × Nat) :=
  [(0, 1, op), (4, 4, 4096), (8, 2, 1), (0xA, 2, 0xFFFF), (0x10, 8, cmBase 0), (0x18, 8, spBase 0 15), (0x20, 4, 4096), (0x24, 4, 4096), (0x2E, 2, 0xFFFF)]
def posted (op : Nat) : Chip :=
  more { work with mem := image [(0x8000, descF op)] } [(.ch 0 27, R.CH_CTRL_ENABLE, 1), (.ch 0 27, R.CH_RING_BASE, 0x200),
    (.ch 0 27, R.CH_RING_LOG2_ENTRIES, 4), (.ch 0 27, R.CH_PROD, 1)]

theorem test_witness_DmaChannelsAreFedAndStopped :
    work.blkGone (.ch 0 27) = false ∧ work.otherMember (.part 0) 27 = none ∧ work.dmaOwned 0 27 = false ∧
    (more work [(.ch 0 28, R.CH_CTRL_OWNED, 1)]).dmaOwned 0 28 = true ∧ work.partOf 0 = some 0 ∧ (posted 1).chanPart 0 27 = some 0 ∧ (posted 1).on (.ch 0 27) R.CH_CTRL_ENABLE = true ∧
    (posted 1).getF (.ch 0 27) R.CH_CONS ≠ (posted 1).getF (.ch 0 27) R.CH_PROD ∧ ((posted 1).chanOf 0 27).descs.length < 2 ∧
    ((posted 1).agentRead (dmaAgent 0 0) ((posted 1).slotAddr 0 27 0) 64).2 = (COMP_OK, rcd 64 (descF 1)) ∧
    work.descReason 0 (rcd 64 (descF 1)) = none ∧ Desc.waitSync (rcd 64 (descF 1)) = 0xFFFF ∧ Desc.signal (rcd 64 (descF 1)) = 0xFFFF ∧
    work.descReason 0 (rcd 64 (descF 0)) = some 1 := by decide +kernel

/-- A channel with one descriptor in a phase, with the given segments. -/
def desc1 (phase : DmaPhase) (segs : List DmaSeg) : DmaDesc := { serial := 0, idx := 0, bs := rcd 64 (descF 1), part := 0, phase := phase, segs := segs }
def chan (d : DmaDesc) : Chip := { work with dmas := [(0, { chs := [(27, { descs := [d], serial := 1 })] })] }

theorem test_witness_DescriptorsStartAndTheirSegmentsEnd :
    findIdxFrom (fun (d : DmaDesc) => d.phase != .moving && d.phase != .ended) 0 ((chan (desc1 .fetched [])).chanOf 0 27).descs =
      some (0, desc1 .fetched []) ∧
    (chan (desc1 .fetched [])).dmaTurn 0 [] (desc1 .fetched []) = true ∧ Desc.srcValid (desc1 .fetched []).bs = false ∧
    Desc.dstClaim (desc1 .fetched []).bs = false ∧
    ((chan (desc1 .moving [{ rd := 4096, wr := 4096 }])).chanOf 0 27).descs.find? (fun d => d.serial = 0 && d.phase == .moving) =
      some (desc1 .moving [{ rd := 4096, wr := 4096 }]) ∧
    segLen (desc1 .moving []).bs 0 = 4096 ∧ (3 : Nat) < 4 ∧ ¬(4 : Nat) < 4 ∧ ([7] : List Nat) ≠ [] ∧
    (chan (desc1 .moving [{}])).competes 0 27 false = true ∧ ((chan (desc1 .moving [{}])).chanOf 0 27).aged = 0 ∧
    findIdxFrom (fun (g : DmaSeg) => g.issuing && !g.pieces.isEmpty) 0 [{ rd := 128, pieces := [⟨128, none, []⟩] }] =
      some (0, { rd := 128, pieces := [⟨128, none, []⟩] }) := by decide +kernel

def failed : FabReq := { die := 0, msg := { opc := 8, vc := 3, dst := 1, src := 0 }, who := .signal 0 27 0, resp := some (COMP_LINK_DOWN, []) }

theorem test_witness_DescriptorsCompleteInOrder :
    ((chan (desc1 .moving [{ ended := some COMP_OK }])).chanOf 0 27).descs = [desc1 .moving [{ ended := some COMP_OK }]] ∧
    Desc.srcRelease (desc1 .moving []).bs = false ∧ (desc1 .moving []).idx < internalIdx ∧ Desc.remoteSignal 0 (desc1 .moving []).bs = false ∧
    findIdxFrom (fun (r : FabReq) => match r.who, r.resp with
      | .signal x y _, some (code, _) => x == 0 && y == 27 && code != COMP_OK
      | _, _ => false) 0 [failed] = some (0, failed) ∧
    (0xFFFF : Nat) < 2 ^ 16 ∧ 1 ≤ 32 ∧ (2 : Nat) ^ 32 - 1 < 2 ^ 32 := by decide +kernel

theorem test_witness_SlotsGoToTheHighestPriority :
    (chan (desc1 .moving [{}])).slotWinner 0 {} false = some 27 ∧ (chan (desc1 .moving [{}])).slotWinner 0 { ch := 27, beats := 15, held := true } false =
      some 27 ∧ work.slotWinner 0 {} false = none ∧ work.clusterLive 0 = true := by decide +kernel

/-! Work queues and counters. -/

/-- Queue 3 with a ring of 16 entries at 0x9000 and one posted NOP. -/
def ring : Chip :=
  more { work with mem := image [(0x9000, [(0, 1, 1), (8, 2, 0xFFFF), (0xA, 2, 0xFFFF)])] } [(.wq 3, R.WQ_RING_BASE, 0x240),
    (.wq 3, R.WQ_RING_LOG2_ENTRIES, 4), (.wq 3, R.WQ_RING_ENABLE, 1), (.wq 3, R.WQ_PROD, 1), (.wq 3, R.WQ_CQ_RING_CQ_LOG2, 4)]

theorem test_witness_WorkQueuesAcceptAndDequeue :
    work.getF (.boot 0) R.BOOT_STATE_CODE = BOOT_OK ∧ ((ring.wqArmAll).wqNoteFull).wqNext = some 3 ∧
    ((queued work 3 { entry 1 [] with started := true, code := some COMP_OK }).queueOf 3).cur =
      some { entry 1 [] with started := true, code := some COMP_OK } ∧
    Wqe.quiet (entry 1 []).bs = false ∧ Wqe.irq (entry 1 []).bs = false ∧ Wqe.op (entry 1 []).bs ≠ 9 ∧ (0xFFFF : Nat) < 65536 ∧
    ringIdx 8191 < ringSize 12 ∧ ringIdx 4097 < ringSize 1 ∧ ringSize 12 = 4096 ∧ ringSize 1 = 2 := by decide +kernel

theorem test_witness_QueueEntriesRun :
    ((queued work 3 (entry 1 [])).queueOf 3).cur = some (entry 1 []) ∧ (∀ op ∈ [1, 4, 5, 9, 0xA, 0xB], Wqe.op (entry op []).bs = op) ∧
    work.namedClusters 0 (Wqe.clusters (entry 4 []).bs) = [] ∧ work.namedClusters 0 (Wqe.clusters (entry 4 [(0x30, 4, 1)]).bs) = [0] ∧
    ((planned 0xFFFF).opBegin 0 3 0x5000 1 1 1 5 none).2 = some none ∧
    (∀ m ∈ queuesOf 0, m ≠ 3 → (work.queueOf m).cur = none) ∧ ({ work with regs := held [(.part 0, R.PART_STATE, 2)] }).partState 0 = PS_DRAINING ∧
    work.walking 0 = false ∧ work.dmaQuiet 0 0 = true ∧
    (queued work 3 { entry 9 [] with started := true }).whistleQueue 0 = some 3 ∧ work.firstBlocker 0 = none ∧
    (posted 1).firstBlocker 0 = some (1, 0) := by decide +kernel

theorem test_witness_CountersAddSaturateAndWake :
    (more work [(.sync 16383, R.SYNC_VALUE, 0xFFFFFFFF)]).syncVal 16383 + (1#32).toNat = 0xFFFFFFFF + 1 ∧
    work.syncVal 16383 + (0xFFFFFFFF#32).toNat ≤ 0xFFFFFFFF ∧
    ({ work with waits := [⟨0, 0, .seq 0 15, true⟩, ⟨0, 0, .ve 0 15 7, true⟩] } : Chip).waitMet (.seq 0 15) = true ∧
    ({ work with waits := [⟨0, 0, .seq 0 15, true⟩, ⟨0, 0, .ve 0 15 7, true⟩] } : Chip).waitMet (.ve 0 15 7) = true := by decide +kernel

/-! Memory. -/

theorem test_witness_AddressMappingIsOneToOne :
    work.sliceOwner (0x10000000 / sliceSize) = some 0 ∧ work.sliceOwner (0 / sliceSize) = some 0 ∧
    work.sliceOwner ((32 * sliceSize - 1) / sliceSize) = some 0 ∧ work.sliceOwner (32 * sliceSize / sliceSize) = none ∧
    work.memMap (32 * sliceSize - 1) = ⟨31, groupStripes - 1, 6, 31⟩ := by decide +kernel

/-- Member 3 of group 18 is out; stripe 5 of group 0 holds an error in member 2. -/
def lame : Chip := more { work with grps := [(0, { faults := [⟨0, 5, 2, 1⟩] })] }
  [(.grp 18, R.GRP_STATE, 2), (.grp 18, R.GRP_STATE_FAILED, 3), (.grp 0, R.GRP_STATE, 1)]

theorem test_witness_ParityRebuildsAMissingAccess :
    (lame.grpOf 18).faults = [] ∧ lame.stripeLost 18 5 = false ∧ lame.missing 18 5 = some 3 ∧
    (∀ f ∈ (lame.grpOf 0).faults, f.stripe = 5 → ∀ i ∈ upto 8, i ≠ 2 → f.member ≠ lame.holder 0 5 i) ∧ lame.stripeLost 0 5 = false ∧
    lame.missing 0 5 = none ∧ lame.noParity 0 5 = false ∧ (lame.fetchAccess 0 5 2).2 = false ∧ bufHolds (lame.grpOf 0).buf 5 2 0xFF = false := by
  decide +kernel

/-- Every group normal, and group 0 under a session of member 4. -/
def normal : Chip := { work with regs := work.regs ++ held ((upto 32).map (fun g => (.grp g, R.GRP_STATE, 1))) }
def session (x : Group) : Chip := more { normal with grps := [(0, x)] } [(.grp 0, R.GRP_STATE_CAL_ACTIVE, 1), (.grp 0, R.GRP_STATE_CAL_MEMBER, 4)]

/-- The chip while partition `p`, of cluster 8, resets. -/
def resetting (p : Nat) : Chip := more work [(.part p, R.PART_STATE, 4), (.part p, R.PART_CLUSTERS, 256)]

theorem test_witness_MemoryRequestsComplete :
    0x8000 + 128 ≤ normal.lpddrTop ∧ normal.pairAt 0x8000 = none ∧ normal.sliceOwner (0x8000 / sliceSize) = some 0 ∧
    normal.grpState (normal.memMap 0x8000).grp = 1 ∧ normal.on (.grp (normal.memMap 0x8000).grp) R.GRP_STATE_CAL_ACTIVE = false ∧
    (∀ q ∈ upto 16, (normal.memMap 0x8000).grp ∈ normal.groupsOf q → q = 0) ∧
    normal.stripeLost (normal.memMap 0x8000).grp (normal.memMap 0x8000).stripe = false ∧ (normal.grpOf (normal.memMap 0x8000).grp).faults = [] ∧
    normal.retryAt ⟨some 0, 0⟩ 0x8000 = false ∧ (resetting 1).retryAt ⟨some 0, 0⟩ (spBase 8 15) = true ∧
    normal.accessCode ⟨some 0, 0⟩ false 0x8000 128 = COMP_OK ∧ normal.accessCode ⟨some 0, 0⟩ true 0x8000 128 = COMP_OK ∧
    (∀ g ∈ normal.reqGroups 0x8000 128, normal.grpHeld g = false ∧ (normal.grpOf g).queue = []) ∧ normal.openTile 0x8000 128 = false ∧
    normal.accessCode ⟨some 1, 0⟩ false 0x8000 128 = COMP_MEM_DENIED ∧ isLpddr (spBase 0 15) = false ∧
    normal.accessCode ⟨some 0, 0⟩ false (spBase 0 15) 1 = COMP_OK ∧ (match placeOf 0x01F200828C20 with | .regs 2 0x828C20 => true | _ => false) = true ∧
    normal.accessCode ⟨some 0, 0⟩ false 0x01F200828C20 8 = COMP_OK ∧ 18 * 3584 + 32 ≤ lame.lpddrTop ∧
    lame.accessCode ⟨some 0, 0⟩ false (18 * 3584) 32 = COMP_OK ∧
    (lame.reqGroups (18 * 3584) 32).find? (more lame [(.grp 18, R.GRP_STATE_CAL_ACTIVE, 1)]).grpHeld = some 18 ∧ queueRoom [] 3 = true := by
  decide +kernel

theorem test_witness_CalibrationSessionsRun :
    ({ buf := [⟨9, [(0, 2 ^ 32 - 1)]⟩] } : Group).buf.find? (fun b => b.stripe = 9) = some ⟨9, [(0, 2 ^ 32 - 1)]⟩ ∧
    (⟨9, [(0, 2 ^ 32 - 1)]⟩ : BufWrite).covered = [0] ∧ lame.grpState 18 ≠ 0 ∧ ¬(2 ≤ lame.grpState 18 ∧ lame.getF (.grp 18) R.GRP_STATE_FAILED = 2) ∧
    ({ queue := [⟨⟨none, 0⟩, 0, false, 0, [0], 0, false, false⟩] } : Group).queue[0]? = some ⟨⟨none, 0⟩, 0, false, 0, [0], 0, false, false⟩ ∧
    normal.blkGone (.grp 0) = false ∧ normal.grpState 0 = 1 ∧ normal.on (.grp 0) R.GRP_STATE_CAL_ACTIVE = false ∧
    ((upto 8).filter (bit (normal.getF (.mem 0) R.MEM_STATE_CALIBRATING))).length < 2 ∧ (normal.grpOf 0).calNow = none ∧
    (session {}).on (.grp 0) R.GRP_STATE_CAL_ACTIVE = true ∧ ((session {}).grpOf 0).replay = false ∧ ((session {}).grpOf 0).queue = [] ∧
    ((session { replay := true }).grpOf 0).replay = true ∧ (session {}).offline 0 = some 4 := by decide +kernel

/-- Group 0 in a rebuild of member 3 from stripe 7, with a given takeover bit and the end of the rebuild at a stripe. -/
def rebuilding (take rbEnd : Nat) : Chip :=
  more { work with grps := [(0, { rbEnd := rbEnd })] } [(.grp 0, R.GRP_STATE, 3), (.grp 0, R.GRP_STATE_FAILED, 3), (.grp 0, R.GRP_STATE_RB_PTR, 7),
    (.grp 0, R.GRP_STATE_TAKEOVER, take)]

theorem test_witness_FailuresDegradeAndRebuild :
    (session {}).grpState 0 = 1 ∧ normal.grpState 31 = 1 ∧ normal.on (.grp 31) R.GRP_STATE_CAL_ACTIVE = false ∧ normal.blkGone (.grp 31) = false ∧
    normal.getF (.mem 3) R.MEM_CTRL_FAIL_LIMIT ≤ ({ fails := List.replicate 8 65535 } : Group).fails.getD 7 0 ∧
    lame.grpState 18 = 2 ∧ lame.rebuilds 2 < 4 ∧ lame.rebuildTurn 2 = some 18 ∧
    (rebuilding 0 8).grpState 0 = 3 ∧ (rebuilding 0 8).grpHeld 0 = false ∧ (rebuilding 0 8).on (.grp 0) R.GRP_STATE_TAKEOVER = false ∧
    (rebuilding 1 8).on (.grp 0) R.GRP_STATE_TAKEOVER = true ∧ ((rebuilding 0 9).others 0 7 3).2 = [] ∧
    (((rebuilding 0 9).addFaults [⟨0, 7, 2, 1⟩]).others 0 7 3).2 ≠ [] ∧ ((rebuilding 0 9).grpOf 0).rbEnd = 9 ∧ ((rebuilding 0 8).grpOf 0).rbEnd ≤ 7 + 1 := by decide +kernel

/-! The fabric. -/

theorem test_witness_MessageHeadersRoundTrip :
    msgOf (Msg.header ⟨255, 7, true, 7, true, 4095, 4095, 15, true, 65535, 2 ^ 48 - 1, 4096, []⟩) =
      ⟨255, 7, true, 7, true, 4095, 4095, 15, true, 65535, 2 ^ 48 - 1, 4096, []⟩ ∧
    msgOf (Msg.header ⟨1, 0, false, 0, false, 0, 1, 0, false, 0, 0, 1, []⟩) = ⟨1, 0, false, 0, false, 0, 1, 0, false, 0, 0, 1, []⟩ := by
  decide +kernel

/-- A first arrival 8,191 ahead is new; its second is not, at once or after one 8,064 further on; one 8,192 ahead is old (R340). -/
theorem test_witness_IncrementsApplyOnce :
    (SyncSeen.note ⟨16383, 1⟩ 8190).2 = true ∧ (SyncSeen.note ⟨16383, 1⟩ 8191).2 = false ∧
    (SyncSeen.note (SyncSeen.note (SyncSeen.note ⟨16383, 1⟩ 8190).1 16254).1 8190).2 = false ∧ (16254 + 16384 - 8190) % 16384 = 8064 := by
  decide +kernel

/-- Port 23 in a given state with lanes 0 to 7, device ID 5, and what the port holds. -/
def port (st : Nat) (x : JPort) : Chip :=
  more { work with ports := [(23, x)] } [(.port 23, R.PORT_STATE, st), (.port 23, R.PORT_STATE_LANES, 255), (.port 23, R.PORT_CTRL_ENABLE, 1),
    (.jlk 0, R.JLK_CTRL_DEVICE_ID, 5), (.jlk 3, R.JLK_CTRL_DEVICE_ID, 5), (.jlk 3, R.JLK_CTRL_ID_VALID, 1)]

theorem test_witness_PortsTrainAndFall :
    (port 0 {}).portAbsent 23 = false ∧ (port 0 {}).portUp 23 = false ∧ (port 0 {}).mayTrain 23 = true ∧ (port 0 {}).getF (.port 23) R.PORT_STATE = 0 ∧
    (port 1 { peerMask := some 127 }).getF (.port 23) R.PORT_STATE = 1 ∧
    7 ≤ portLanes ((255 &&& 127 &&& (255 - field ((port 1 {}).getF (.boot 3) R.BOOT_BENCH_LANE_LANES) 40 8)) % 256) ∧
    (port 2 {}).portUp 23 = true ∧ bit ((port 2 {}).getF (.port 23) R.PORT_STATE_LANES) 7 = true ∧ ((port 1 {}).portOf 23).counted = false ∧
    ((port 2 { sent := [⟨4095, 1, 0, 1, []⟩] }).portOf 23).sent ≠ [] := by decide +kernel

/-- A flit of each type with sequence number 4,095, that a port expects which is up. -/
def flitOf (typ : Nat) : List Byte := flitBytes typ 4095 0 false 0 0 0 0 []

theorem test_witness_FlitsAreTakenInSequence :
    (port 3 { rxSeq := 4095 }).portUp 23 = true ∧
    (∀ t ∈ [0, 1, 2, 3, 4], (flitOf t).length = 256 ∧ crc32 ((flitOf t).take 252) = recNat (flitOf t) 252 4 ∧ field (recNat (flitOf t) 0 8) 12 4 = t) ∧
    field (recNat (flitOf 1) 0 8) 0 12 = 4095 ∧ (((port 3 { rxSeq := 4095 }).flitTaken 23 (flitOf 1) ⟨true, 0, 0, 0⟩).portOf 23).rxSeq = 4095 ∧
    crc32 (((flitOf 1).set 9 1).take 252) ≠ recNat ((flitOf 1).set 9 1) 252 4 ∧
    (port 1 {}).on (.port 23) R.PORT_CTRL_EXPECT_VALID = false := by decide +kernel

/-- A PARAM flit whose peer is another device: whatever the place of its number, one of two device IDs of this device differs from it. -/
theorem test_witness_param_peer (dev : Nat) :
    (∃ own, own ∈ [5, 6] ∧ dev ≠ own) ∧ field (recNat (flitOf 5) 0 8) 12 4 = 5 ∧ crc32 ((flitOf 5).take 252) = recNat (flitOf 5) 252 4 :=
  ⟨if h : dev = 5 then ⟨6, by simp, by omega⟩ else ⟨5, by simp, h⟩, by decide +kernel⟩

/-- Port 0 is up with one message for this device, and window 255 of D0 admits device 7 to partition 0. -/
def arrived (m : Msg) : Chip :=
  more { work with ports := [(0, { rx := [m] })], reqs := [⟨0, { opc := 1, vc := 0, dst := 7, src := 5, tag := 9 }, .ve 0 0, none, true, 0, none⟩] }
    [(.port 0, R.PORT_STATE, 2), (.jlk 0, R.JLK_CTRL_DEVICE_ID, 5), (.win 0 255, R.WIN_CFG_SIZE, 16), (.win 0 255, R.WIN_CFG_READ, 1),
      (.win 0 255, R.WIN_CFG_WRITE, 1), (.win 0 255, R.WIN_CFG_SYNC, 1), (.win 0 255, R.WIN_CFG_ALL_GROUPS, 1), (.win 0 255, R.WIN_SRC_MEMBERS, 2 ^ 7)]

/-- An RD of one byte of LPDDR6 from device 7, a SYNC_INC, and a REFUSE that answers this device's RD. -/
def rd1 : Msg := { opc := 1, vc := 0, dst := 5, src := 7, tag := 3, addr := 65535 }
def inc1 : Msg := { opc := 8, vc := 3, dst := 5, src := 7, tag := 3, addr := 1023 + 2 ^ 16 }
def refuse1 : Msg := { opc := 0x13, vc := 1, dst := 5, src := 7, tag := 9, addr := COMP_LINK_DOWN }

/-- The device when the message has been taken. -/
def took (m : Msg) : Chip := (((arrived m).pullMsg 0 0 m).1.dropBad 0 0).toSink 0 m

theorem test_witness_arrives (m : Msg) (h : m ∈ [rd1, inc1, refuse1]) :
    (arrived m).arrives 0 (fun x => x.opc == m.opc) (took m) m ∧
      (arrived m).arrives 0 (fun x => x.opc == m.opc && (m.opc == 8 || !(arrived m).msgHeld x)) (took m) m := by
  have key : ∀ x ∈ [rd1, inc1, refuse1], ((arrived x).portOf 0).ready (fun y => y.opc == x.opc) = some (0, x) ∧
      ((arrived x).portOf 0).ready (fun y => y.opc == x.opc && (x.opc == 8 || !(arrived x).msgHeld y)) = some (0, x) ∧
      x = ((arrived x).pullMsg 0 0 x).2 ∧ (((arrived x).pullMsg 0 0 x).1.portOf 0).rx.length = 0 ∧
      (((arrived x).pullMsg 0 0 x).1.dropBad 0 0).isSelf x.dst = true ∧
      (((arrived x).pullMsg 0 0 x).1.dropBad 0 0).recov.refused.contains x.src = false := by decide +kernel
  obtain ⟨a, b, e, n, f, g⟩ := key m h
  exact ⟨⟨0, m, a, e, by rw [n]; exact ⟨f, g, rfl⟩⟩, ⟨0, m, b, e, by rw [n]; exact ⟨f, g, rfl⟩⟩⟩

theorem test_witness_WindowsServeRequests :
    (took rd1).getF .res R.RES_STATE_ROLE ≠ 4 ∧ (took rd1).getF .res R.RES_STATE_ROLE ≠ 2 ∧ (took rd1).on .layout R.LAYOUT_SWITCHING = false ∧
    (upto 256).find? (fun w => (took rd1).winAdmits 0 w rd1) = some 255 ∧ (upto 256).find? (fun w => (took inc1).winAdmits 0 w inc1) = some 255 ∧
    (upto 256).find? (fun w => (took rd1).winAdmits 0 w { rd1 with addr := 65536 }) = none ∧ (took rd1).partState 0 = PS_ACTIVE ∧
    (took rd1).sramOk false rd1.addr rd1.len = true ∧ (took rd1).accessCode ⟨some 0, 0⟩ false rd1.addr rd1.len = COMP_OK ∧
    ((took rd1).agentWrite ⟨some 0, 0⟩ rd1.addr (ones rd1.len) [1]).2 = COMP_OK ∧ inc1.addr % 2 ^ 14 < (took inc1).syncRange 0 := by decide +kernel

theorem test_witness_ResponsesEndRequests :
    (took refuse1).requestOf 7 9 (fun _ => true) = some 0 ∧ (took refuse1).requestOf 7 9 (· == 1) = some 0 ∧
    ({ work with reqs := [⟨0, { opc := 2, vc := 0, dst := 7, src := 5, tag := 9 }, .ve 0 0, none, false, 0, none⟩] } : Chip).requestOf 7 9 (· == 2) = some 0 ∧
    ({ work with reqs := [failed, ⟨0, { opc := 8, vc := 3, dst := 7, src := 5, tag := 9 }, .signal 0 27 0, none, false, 0, none⟩] } : Chip).requestOf 7 9
      (· == 8) = some 1 := by decide +kernel

/-! The host bridge. -/

/-- The bridge device with its link up and 15 VFs; aperture page 63 leads to 1 GiB of device 0, page 64 to device 7. -/
def bridged : Chip :=
  more { work with perst := false } [(.hbr, R.HBR_CTRL_ENABLE, 1), (.hbr, R.HBR_STATE_DL_ACTIVE, 1), (.hbr, R.HBR_STATE_NUM_VFS, 15),
    (.apt 63, R.APT_VALID, 1), (.apt 63, R.APT_READ, 1), (.apt 63, R.APT_WRITE, 1), (.apt 127, R.APT_VALID, 1), (.apt 127, R.APT_DEVICE, 7),
    (.apt 127, R.APT_WRITE, 1)]

theorem test_witness_HostBridgeCommandsComplete :
    (more { work with perst := true } [(.hbr, R.HBR_CTRL_ENABLE, 1)]).bridgeUp = true ∧ bridged.bridgeUp = true ∧ bridged.perst = false ∧
    (more lit [(.boot 0, R.BOOT_STATE_STAGE, 9), (.hbr, R.HBR_STATE_RRS, 1)]).bootEnded = false ∧
    (more lit [(.boot 0, R.BOOT_STATE_STAGE, 9), (.hbr, R.HBR_STATE_RRS, 1)]).on .hbr R.HBR_STATE_RRS = true ∧ bridged.linkUp = true ∧
    bridged.fnThere 15 = true ∧ bridged.fnThere 16 = false ∧ aptPage 0 (2 ^ 36 - 4096) = some 63 ∧ aptPage 15 (2 ^ 32 - 1) = some 123 ∧
    aptPage 16 (2 ^ 32 - 4096) = some 127 ∧ aptPage 1 (2 ^ 32) = none ∧ (2 ^ 36 - 4096) % 4096 + 4096 ≤ 4096 ∧
    (bridged.on (.apt 63) R.APT_VALID && bridged.on (.apt 63) R.APT_WRITE) = true ∧ bridged.isSelf (bridged.getF (.apt 63) R.APT_DEVICE) = true ∧
    (bridged.on (.apt 127) R.APT_VALID && bridged.on (.apt 127) R.APT_WRITE) = true ∧ bridged.on (.apt 127) R.APT_READ = false ∧
    bridged.isSelf (bridged.getF (.apt 127) R.APT_DEVICE) = false := by decide +kernel

/-! Partitions. -/

/-- Partitions 0 and 1 share cluster 0; partition 0 has a slice of 100 µs, a debt, and perhaps the slice. -/
def sharing (debt inSlice : Nat) : Chip :=
  more work [(.part 1, R.PART_STATE, 1), (.part 1, R.PART_CLUSTERS, 1), (.part 1, R.PART_STATE_MEMBER, 1), (.part 0, R.PART_STATE_SET_SIZE, 1),
    (.part 1, R.PART_STATE_SET_SIZE, 1), (.part 0, R.PART_SLICE_SLICE_US, 100), (.part 0, R.PART_SLICE_DEBT_US, debt),
    (.part 0, R.PART_STATE_IN_SLICE, inSlice)]

/-- A layout of one partition, and a chip whose image has it, whose queue 0 holds a LAYOUT_SWITCH to it. -/
def layout0 : Layout := ⟨0, [⟨0, 0, 0, 32, 1, 2 ^ 32 - 1, 0, 1024, 0, 16, 0, 0, 0, 0, 0, 0, 0, 0, 0, 0, 0, 0⟩]⟩
def switching (on' : Nat) (e : QEntry) : Chip :=
  queued (more { work with image := some ⟨0, 0, [], [], [], [layout0], none, [], [], [], [], [], []⟩ }
    [(.layout, R.LAYOUT_VALID, 1), (.layout, R.LAYOUT_SWITCHING, on')]) 0 e

theorem test_witness_PartitionsResetAndSlicesTurn :
    work.partState 0 = PS_ACTIVE ∧ work.shared 0 = false ∧ (work.partRun 0).batch = none ∧
    ({ work with regs := held [(.part 0, R.PART_STATE, 4)] } : Chip).partState 0 = PS_RESETTING ∧ work.on .layout R.LAYOUT_SWITCHING = false ∧
    work.dieLost = false ∧ work.compReset = 0 ∧ work.recov.restore = none ∧ work.clustersOf 0 = [0] ∧ work.clusterFaulted 0 = false ∧
    (sharing 100 0).shared 0 = true ∧ (sharing 100 0).turnOf 0 = (sharing 100 0).memberOf 0 ∧ (sharing 100 0).shareSet 0 = [0, 1] ∧
    (∀ x ∈ [0, 1], (sharing 100 0).on (.part x) R.PART_STATE_IN_SLICE = false) ∧
    (sharing 100 0).getF (.part 0) R.PART_SLICE_DEBT_US = (sharing 100 0).getF (.part 0) R.PART_SLICE_SLICE_US ∧
    (sharing 99 0).getF (.part 0) R.PART_SLICE_DEBT_US = 99 ∧ (sharing 99 0).hasWork 0 0 = false ∧
    ((sharing 99 0).setStep 0 0 { ran with ends := [] }).hasWork 0 0 = true ∧ (sharing 0 1).on (.part 0) R.PART_STATE_IN_SLICE = true ∧
    (sharing 0 1).spent.contains 0 = false ∧ (sharing 0 1).coresBusy 0 = false ∧ ((sharing 0 1).meOf 0 0).vts = [] ∧
    (switching 0 (entry 0x2F [])).layoutUsable 0 = true ∧ (switching 0 (entry 0x2F [])).layoutUsable (Wqe.layout (entry 0x2F [(0x18, 1, 7)]).bs) = false ∧
    (switching 0 (entry 0x2F [])).layoutNo (Wqe.layout (entry 0x2F []).bs) = some layout0 ∧
    (switching 1 (entry 0x2F [])).on .layout R.LAYOUT_SWITCHING = true ∧ ({ entry 0x2F [] with started := true } : QEntry).code = none ∧
    layout0.parts.find? (fun x => x.part == 0) ≠ none ∧ layout0.parts.find? (fun x => x.part == 15) = none := by decide +kernel

/-! Serving. -/

/-- Partition 0 with sequences of up to 64 tokens, a context of the given state at index 0, the other contexts in use, and an op list of one operator. -/
def serving (x : SeqCtx) : Chip :=
  more { work with seqCtxs := (0, x) :: (upto 15).map (fun i => (i + 1, { state := 2, gen := 255 })),
                   mem := image [(0x5000, matDescF), (0x8000, [(0, 8, 0x5000)])] }
    [(.part 0, R.PART_POOL2_MAX_PAGES, 4), (.part 0, R.PART_POOL2_PAGE_TOKENS, 16)]
def batch1 : List (Nat × Nat × Nat) := [(0x18, 8, 0xA000), (0x20, 8, 0x8000), (0x28, 2, 1), (0x2A, 2, 1), (0x2C, 4, 1)]

theorem test_witness_ServingCommandsComplete :
    ((upto ((serving {}).ctxCount 0)).find? (fun i => ((serving {}).seqCtx 0 i).state == 0) = some 0) ∧
    ((upto ((serving { state := 1 }).ctxCount 0)).find? (fun i => ((serving { state := 1 }).seqCtx 0 i).state == 0) = none) ∧
    (serving {}).seqLimit 0 = 64 ∧ Wqe.initLen (entry 0x20 [(0x1C, 4, 64), (0x20, 8, 0x9000)]).bs = 64 ∧
    ((serving {}).agentWrite ⟨some 0, 0⟩ 0x9000 (ones 4) (leBytes 4 ((serving {}).handleOf 0 0))).2 = COMP_OK ∧
    ((queued (serving {}) 0 (entry 0x20 [])).agentWrite ⟨some 0, 0⟩ 0x9000 (ones 4) (leBytes 4 0)).1.queueOf 0 = { cur := some (entry 0x20 []) } ∧
    (serving { state := 2, len := 60 }).ctxOf 0 (Wqe.handle (entry 0x21 [(0x1C, 4, 4)]).bs) = some 0 ∧
    60 + Wqe.count (entry 0x21 [(0x1C, 4, 4)]).bs = (serving {}).seqLimit 0 ∧ (serving {}).ctxOf 0 (15 + 255 * 2 ^ 18) = some 15 ∧
    ((queued (serving { state := 2 }) 0 (entry 0x22 [])).freeCtx 0 0).queueOf 0 = { cur := some (entry 0x22 []) } ∧
    (serving { state := 1 }).batchOps 0 (entry 0x24 batch1).bs = some [rcd 32 [(0, 8, 0x5000)]] ∧ (serving {}).batchOps 0 (entry 0x24 []).bs = none ∧
    (serving { state := 1 }).accessCode ⟨some 0, 0⟩ true 0xA000 (0x40 + 20 * 1) = COMP_OK ∧
    ({ entry 0x24 [] with subs := [(0, some COMP_OK)] } : QEntry).subCodes ((serving {}).clustersOf 0) = some [COMP_OK] ∧
    firstCode [COMP_OK] = COMP_OK ∧ firstCode [COMP_LINK_DOWN] ≠ COMP_OK ∧ Ope.kvOut (rcd 32 [(0, 8, 0x5000)]) = false := by decide +kernel

theorem test_witness_StaleHandlesAreRefused :
    work.ctxOf 0 (Wqe.handle (entry 0x21 []).bs) = none ∧ (serving {}).ctxOf 0 (15 + 254 * 2 ^ 18) = none ∧ (serving { state := 3 }).ctxOf 0 16 = none ∧
    (entry 0x22 []).started = false ∧ (entry 0x22 []).code = none ∧ Wqe.op (entry 0x22 []).bs = 0x22 := by decide +kernel

/-- R147: a tile pitch of 1,024 bytes, and 512 × 32 and 512 × 33 bytes, from strip 3; a pitch of 256 bytes. -/
theorem test_witness_StridedSetsTakeTheStatedCycles :
    (accessCost 32 spBank (stridedSet 48 1024), accessCost 32 spBank (stridedSet 48 16384), accessCost 32 spBank (stridedSet 48 16896),
      accessCost 32 spBank (stridedSet 512 256)) = (2, 32, 1, 1) := by decide +kernel

/-! Cabinets and recovery. Clauses that rest on what a management message or a cabinet header encodes (free values of Config) have no witness that evaluates;
the rest of their hypotheses is met here. -/

/-- The kinds of management message that the statements speak of. -/
def mgmtTypes : List Nat :=
  [MT_PAIR, MT_PAIR_ACK, MT_WSTATE, MT_DRAIN_END, MT_SEALED, MT_MEMBER_SEALED, MT_CAB_LOST, MT_HEARTBEAT, MT_SILENT, MT_LOST, MT_FENCE, MT_SPARE_CLAIM,
    MT_SPARE_GRANT, MT_SPARE_BUSY, MT_SPARE_FREE, MT_LOAD_DONE, MT_ADOPTED, MT_RESUME_GROUP, 0x0010]

/-- Device 5 of a group of members 5 and 7 (device 9 is a spare), with partner 7, which hosts the cabinet of source 7; `x` and `accepted` as given. -/
def member (x : Recov) (accepted : Nat) : Chip :=
  more { work with recov := x, image := some ⟨0, 0, [], [], [], [], some ⟨160, 512, [], 0, 0, 0, true, 0, 0, []⟩, [], [], [], [], [], []⟩ }
    [(.port 0, R.PORT_STATE, 2), (.jlk 0, R.JLK_CTRL_DEVICE_ID, 5), (.res, R.RES_PARTNER_CONFIGURED, 1), (.res, R.RES_PARTNER_DEVICE, 7),
      (.res, R.RES_PARTNER_ACCEPTED, accepted), (.host 3, R.HOST_SRC_VALID, 1), (.host 3, R.HOST_SRC_SOURCE, 7), (.host 3, R.HOST_SRC_ACCEPTED, accepted),
      (.host 3, R.HOST_SRC_FILLING, 1)]
def mgmt (typ : Nat) : Msg := { opc := 0x30, vc := 5, dst := 5, src := 7, addr := typ, data := [0] }
def bare (typ : Nat) : Msg := { mgmt typ with data := [] }
def told (typ : Nat) (x : Recov) (accepted : Nat) : Chip :=
  { member x accepted with ports := [(0, { rx := [bare typ], streams := [(5, List.replicate 16 0)] })] }
def heard (typ : Nat) (x : Recov) (accepted : Nat) : Chip := (((told typ x accepted).pullMsg 0 0 (bare typ)).1.dropBad 0 0).toSink 0 (mgmt typ)

theorem test_witness_management_arrives (typ : Nat) (h : typ ∈ mgmtTypes) :
    (told typ {} 1).arrives 0 (fun x => x.opc == 0x30 && x.addr % 65536 == typ) (heard typ {} 1) (mgmt typ) := by
  have key : ∀ t ∈ mgmtTypes, ((told t {} 1).portOf 0).ready (fun x => x.opc == 0x30 && x.addr % 65536 == t) = some (0, bare t) ∧
      mgmt t = ((told t {} 1).pullMsg 0 0 (bare t)).2 ∧ (((told t {} 1).pullMsg 0 0 (bare t)).1.portOf 0).rx.length = 0 ∧
      (((told t {} 1).pullMsg 0 0 (bare t)).1.dropBad 0 0).isSelf 5 = true ∧
      (((told t {} 1).pullMsg 0 0 (bare t)).1.dropBad 0 0).recov.refused.contains 7 = false := by decide +kernel
  obtain ⟨a, e, n, f, g⟩ := key typ h
  exact ⟨0, bare typ, a, e, by rw [n]; exact ⟨f, g, rfl⟩⟩

/-- A plan of one pair region, and its record in memory. -/
def cabPlanF : List (Nat × Nat × Nat) := [(8, 8, 0x100000), (16, 8, 4096)]

theorem test_witness_CopiesArePairedAndSealed :
    (upto 1).mapM (fun i => planEntry (((rcd 32 cabPlanF).drop (32 * i)).take 32)) = some [⟨0, 0x100000, 4096⟩] ∧
    work.planBad 0 [⟨0, 0x100000, 4096⟩] = false ∧ work.planBad 0 [⟨0, 0x100001, 4096⟩] = true ∧
    (({ work with mem := image [(0xB000, cabPlanF)] } : Chip).agentRead ⟨some 0, 0⟩ 0xB000 32).2 = (COMP_OK, rcd 32 cabPlanF) ∧
    work.acceptedPartners = [] ∧ (member {} 1).acceptedPartners = [0] ∧
    ((work.setPartRun 0 { plan := [⟨2, 0, 4096⟩] }).partRun 0).plan.filter (fun r => r.method == 2) ≠ [] ∧
    (member { drain := some 4 } 1).cabOpen CabJob.snapshot = false ∧ (member { drained := [3] } 1).hostFilling 3 = true ∧ (member { drained := [3] } 1).cabOpen (isCatchup 3) = false ∧
    work.hostNo 7 = none ∧ (member {} 1).hostNo 7 = some 3 ∧ (member {} 1).isMember 7 = true ∧ work.isMember 7 = false ∧
    (member {} 1).partnerNo 7 = some 0 ∧ (member {} 1).partner 0 R.RES_PARTNER_ACCEPTED = 1 ∧ (member {} 1).recov.headers.contains 0 = false ∧
    (member {} 1).recov.drain = none := by decide +kernel

theorem test_witness_LossesAreDeclaredAndSparesAdopted :
    (member {} 1).heartPeers = [7] ∧ (member {} 1).recov.silent.contains 7 = false ∧ (member {} 1).partnerNo 7 = some 0 ∧
    (member { declare := [7] } 1).recov.declare.contains 7 = true ∧ (member {} 1).newestSealed 3 = none ∧
    (more (member {} 1) [(.host 3, R.HOST_SEALED_SEALED1, 6)]).newestSealed 3 = some 6 ∧
    (work.restoreApply (stageOfWords [])).2 = true ∧
    (member { losts := [⟨7, 4, 7⟩] } 1).recov.losts.any (fun x => x.dev == 7 && x.step == 4) = true ∧
    (member { restore := some 4, waiting := true } 1).recov.waiting = true ∧ (member {} 1).isSelf 7 = false ∧ (member {} 1).isSelf 5 = true ∧
    (member {} 1).getF .res R.RES_STATE_ROLE ≠ 4 ∧
    (member { claims := [⟨0, 4, some 7, [], false, []⟩] } 1).recov.claims.find? (fun x => x.dev == 0 && x.spare == some 7 && !x.granted) =
      some ⟨0, 4, some 7, [], false, []⟩ ∧
    (member { losts := [⟨0, 0, 5⟩] } 1).recov.losts.find? (fun x => x.dev == 0 && x.step == 0) = some ⟨0, 0, 5⟩ ∧
    (member { claims := [⟨0, 4, some 7, [], true, []⟩] } 1).recov.claims.find? (fun x => x.dev == 0 && x.granted) = some ⟨0, 4, some 7, [], true, []⟩ := by
  decide +kernel

/-! Bring-up, the island, power, points and the sideband. Clauses that need a signature that verifies rest on free values of Config; their other hypotheses
are met here. -/

/-- The module in a stage of bring-up. -/
def booting (stage : Nat) : Chip := more lit [(.boot 0, R.BOOT_STATE_STAGE, stage)]

theorem test_witness_BringUpRunsItsStages :
    ({ lit with por := true } : Chip).por = true ∧ lit.board.closed = true ∧ lit.board.valid = true ∧ lit.board.ref25 = true ∧
    (∀ n ∈ [1, 2, 3, 4, 5, 6, 7, 8, 9], (booting n).getF (.boot 0) R.BOOT_STATE_STAGE = n ∧ (booting n).por = false) ∧
    work.bootEnded = true ∧ (booting 9).bootEnded = false ∧ work.compReset = 0 ∧ work.on .layout R.LAYOUT_SWITCHING = false ∧
    (switching 1 (entry 0x2F [])).on .layout R.LAYOUT_SWITCHING = true ∧ work.getF (.boot 0) R.BOOT_STATE_CODE = BOOT_OK ∧
    0x1FFFFFF + 1 = 0x2000000 := by decide +kernel

/-- With nothing in flash no copy of the image is good. -/
theorem test_witness_image_copies : (match (booting 4).readCopy {} 0 with | .error a => a.code != 0 | .ok _ => false) = true := by decide +kernel

/-- The module after bring-up, its island with a block reserved whose next leaf is given and one token. -/
def isle (leaf : Nat) : Chip := more work [(.sec, R.SEC_INDEX_RESERVED, 1), (.sec, R.SEC_INDEX_NEXT, leaf), (.sec, R.SEC_TOKENS, 1)]

theorem test_witness_IslandCommandsComplete :
    work.por = false ∧ work.sidebandUp = true ∧ work.faulted 61 = false ∧ 3 ≤ work.getF (.boot 0) R.BOOT_STATE_STAGE ∧ work.island.queue = [] ∧
    work.island.fault = false ∧ ({} : Otp).key = true ∧ (isle 255).leafReady = true ∧ (isle 255).getF .sec R.SEC_INDEX_NEXT = 255 ∧
    (isle 255).exhausted {} = false ∧ (more work [(.sec, R.SEC_TOKENS, 0)]).exhausted {} = false ∧
    (isle 0x100000).exhausted { blocks := 2 ^ 4096 - 1 } = true ∧ (isle 0x100000).leafReady = false ∧ ({} : Otp).freeBlock = some 0 ∧ ({ blocks := 2 ^ 4095 - 1 } : Otp).freeBlock = some 4095 ∧
    (more work [(.sec, R.SEC_TOKENS, 0)]).getF .sec R.SEC_TOKENS = 0 ∧ (isle 0).getF .sec R.SEC_TOKENS = 1 ∧
    ({ source := none, nonce := [], kind := 0, leaf := some 0 } : AttReq).leaf.isSome = true ∧ work.stage4Ended = true ∧
    ({} : Otp).owners[3]? = some .blank ∧ ({ owners := [.enrolled [1], .enrolled [2], .blank, .blank] } : Otp).usable = [(0, [1]), (1, [2])] ∧
    ({} : Otp).svnFloor = 0 ∧ min 255 ((more work [(.cfg, R.CFG_STATE_SVN, 255)]).getF .cfg R.CFG_STATE_SVN) = 255 := by decide +kernel

theorem test_witness_PowerAndInputCommandsComplete :
    State.reset.chip.board.modEn = false ∧ ({ State.reset.chip.board with modEn := true, closed := true } : Board).valid = false ∧
    lit.board.modEn = true ∧ lit.board.closed = true ∧ lit.board.valid = true ∧ lit.board.ref100 = true ∧ ({ lit.board with overVolt := true } : Board).overVolt = true ∧
    (7000#16).toNat = 7000 ∧ (6200#16).toNat = 6200 ∧ work.power.inputLow = false ∧ work.clusterGone 31 = false ∧ work.domainOn (clusterDomain 31) = true ∧
    work.on (.clkcl 31) R.CLKCL_STATE_STEPPING = false ∧ ({ work with power := { work.power with inputLow := true } } : Chip).power.inputLow = true ∧
    (∀ n ∈ [0, 8, 9, 11, 14, 59, 60, 61, 62, 63], work.domainOn n = true) := by decide +kernel

/-- Cluster 31 at a temperature, in 1/16 °C, with a thermal point. -/
def warm (t p : Nat) : Chip :=
  more { work with power := { work.power with thermal := [(31, p)] } } [(.tel 3, R.TEL_CL_TEMP_TEMP.nth 7, t)]

theorem test_witness_PointsAndSensorsFollow :
    work.getF .pwr R.PWR_CTRL_CAP_POINT = 7 ∧ (∀ cl ∈ upto 32, work.on (.clkcl cl) R.CLKCL_STATE_STEPPING = false) ∧ work.clusterLive 31 = true ∧
    work.getF (.tel 3) R.TEL_THERM_THROTTLE_C = 100 ∧ work.getF (.tel 3) R.TEL_THERM_TRIP_C = 110 ∧
    degrees ((warm (16 * 100 + 1) 7).getF (.tel 3) (R.TEL_CL_TEMP_TEMP.nth 7)) = 16 * 100 + 1 ∧
    KMap.getD (warm (16 * 100 + 1) 7).power.thermal 31 7 = 7 ∧ degrees ((warm (16 * 95 - 1) 0).getF (.tel 3) (R.TEL_CL_TEMP_TEMP.nth 7)) = 16 * 95 - 1 ∧
    KMap.getD (warm (16 * 95 - 1) 0).power.thermal 31 7 = 0 ∧
    (more work [(.clkcl 31, R.CLKCL_STATE_OP, 3), (.clkcl 31, R.CLKCL_STATE_TARGET, 4)]).getF (.clkcl 31) R.CLKCL_STATE_OP = 3 ∧
    (more work [(.clkcl 31, R.CLKCL_STATE_STEPPING, 1)]).on (.clkcl 31) R.CLKCL_STATE_STEPPING = true ∧ work.domainOn 62 = true ∧
    (2000#16).toInt ≤ 2000 ∧ (2001#16).toInt = 2001 ∧ (0xFFF0#16).toInt = -16 ∧ work.sensorUp 17 = true ∧ 255 ∈ numericSensors ∧ 5 ∉ numericSensors := by
  decide +kernel

theorem test_witness_SidebandAndTestAccessAnswer :
    work.sidebandUp = true ∧ work.pldm.pdrs = false ∧ ({ work.pldm with pdrs := true } : Pldm).pdrs = true ∧ work.pdrRecords[0]? ≠ none ∧
    work.pdrRecords.length < (0xFFFFFFFF#32).toNat ∧ work.sensorThere 255 = true ∧ work.sensorThere 5 = false ∧ 44 ∈ stateSensorIds ∧ 45 ∉ stateSensorIds ∧
    ({ work.pldm with events := [⟨256, 3, 3⟩] } : Pldm).events[0]? = some ⟨256, 3, 3⟩ ∧ lit.board.valid = true ∧ lit.board.testMode = false ∧
    ({ lit.board with testMode := true } : Board).testMode = true := by decide +kernel


/-! Further clauses of the statements: a state for each that the theorems above leave out. -/

theorem test_clauses_registers :
    work.barReaches (.mc 0) 2 = true ∧ bridged.barReaches .pf 1 = false ∧ bridged.linkUp = true ∧
    bridged.barReaches .pf 0 = true ∧ inModule .pf = false ∧ inModule (.mc 0) = true ∧ decodeReg 0 0x2C00000 ≠ none ∧ (5 : Fin 9).val ≠ 8 ∧ (5 : Fin 9).val ≠ 4 := by decide +kernel

theorem test_clauses_caches :
    (more work [(.boot 0, R.BOOT_BENCH_CL_ABSENT.nth 0, 1)]).clusterOff 0 = true ∧ (work.cacheOf 0 15).ops = [] ∧
    (cached.cacheOf 0 15).lines.all (fun l => !cached.cacheSel 0 15 (.setWays 2) l.way) = false ∧ (work.cacheOf 0 15).lines = [] ∧
    (more work [(.part 0, R.PART_STATE_SET_SIZE, 1)]).cacheAgent 0 (.part 0) = some 0 ∧
    (more work [(.part 0, R.PART_STATE_SET_SIZE, 1)]).shared 0 = true ∧
    (more work [(.part 0, R.PART_CLUSTERS, 0x1FF)]).waysOverlap 0 15 16 = false := by decide +kernel

/-- Core 15 with VT 3 of window 0 open and resident. -/
def opened : Chip := engine { vts := [⟨0, 3, [], []⟩] }

theorem test_clauses_matrix :
    (shelfRef (.core 0 15 63)).isSpill = true ∧ (shelfRef (.core 0 15 62)).isSpill = false ∧
    opened.tileHome 0 15 0 3 = .resident 3 ∧ ((opened.meOf 0 15).vts.find? (fun x => opened.tileHome 0 15 x.win x.v == .resident 3)) = some ⟨0, 3, [], []⟩ ∧
    ((engine { sweeps := [{ sweep true with nonfin := some [7] }] }).sweepSums 0 15 { sweep true with nonfin := some [7] } []).skipped ≠ [7] ∧
    (engine { sweeps := [sweep true], fallback := true }).clusterLive 0 = true ∧
    ((atCmd pullF).seqOf 0 15).moves.length < 4 ∧ ({ moves := List.replicate 4 ⟨rcd 64 pullF, 0, 0, 0, none, false⟩ } : CoreSeq).moves.length = 4 := by
  decide +kernel

/-- The vector engine with a load of 8 bytes out: at a slot with no message, and with the message of tag 9 answered. -/
def waiting (tags : List Nat) : Chip :=
  { work with ves := [(coreKey 0 15, { ctxs := [(7, { vctx with loads := 1, wait := .data })], runs := [⟨0, [7], 0, 0, none⟩]
                                       slots := [⟨7, 1, 0, [], tags, false, ⟨spBase 0 15, 0x100, .load 8 (.image 0)⟩⟩] })]
              reqs := [⟨0, { opc := 1, vc := 0, dst := 7, src := 5, tag := 9 }, .ve 0 15, some (COMP_OK, [1, 2, 3, 4, 5, 6, 7, 8]), false, 0, none⟩] }

theorem test_clauses_vector :
    (atInst 0x47).ctx 0 15 7 = vctx ∧ vctx.pc + 8 ≤ spillBase ∧ ((waiting []).veOf 0 15).slots[0]? ≠ none ∧
    ((waiting []).veAnswer []).isSome = true ∧ (waiting []).veRetried 0 15 ⟨7, 1, 0, [], [], false, ⟨spBase 0 15, 0x100, .load 8 (.image 0)⟩⟩ = false ∧
    ((waiting [9]).veAnswer [9]) = some (COMP_OK, [1, 2, 3, 4, 5, 6, 7, 8]) ∧ ((waiting [8]).veAnswer [8]).isSome = false ∧
    (((waiting []).veOf 0 15).liveRun ((waiting []).ctx 0 15 7)).isSome = true := by decide +kernel

theorem test_clauses_dma :
    ((chan (desc1 .moving [{ sent := [7], stale := [9] }])).chanOf 0 27).descs.find? (fun d => d.serial = 0) =
      some (desc1 .moving [{ sent := [7], stale := [9] }]) ∧ 9 ∉ ([7] : List Nat) ∧
    ((chan (desc1 .moving [{}])).chanOf 0 27).agedWr = 0 ∧ (chan (desc1 .moving [{}])).competes 0 27 true = false ∧
    (chan (desc1 .moving [{}])).dmaPick 0 false ≠ none ∧ work.dmaPick 0 false = none ∧
    Desc.remoteSignal work.isSelf (rcd 64 [(0x18, 2, 1)]) = false ∧
    ({ chan (desc1 .waitSync []) with waits := [⟨0, 0, .dma 0 27, true⟩] } : Chip).waitMet (.dma 0 27) = true ∧
    (((chan (desc1 .waitSync [])).chanOf 0 27).descs.find? (fun d => d.phase == .waitSync)).isSome = true := by decide +kernel

/-- Management first, once in four; then the share of 16 at its place, or another class that is ready. -/
theorem test_clauses_arbiter :
    ({} : Arb).pick (fun k => k == 5 || k == 3) = some 5 ∧ ({ mgmt := 3 } : Arb).pick (fun k => k == 5 || k == 3) = some 3 ∧
    ({ mgmt := 3, sync := 2 } : Arb).pick (fun k => k == 5 || k == 3) = none ∧ ({} : Arb).pick (fun k => k == 4) = some 4 ∧
    ({} : Arb).pick (fun _ => false) = none := by decide +kernel

/-- A spare that loads from device 9, and a window that admits nothing below the cache ways of a core of cluster 0. -/
def spare (role : Nat) (load : Option (Nat × Nat)) : Chip :=
  more { work with recov := { load := load } } [(.res, R.RES_STATE_ROLE, role), (.sp 0 15, R.SP_CACHE_CFG_WAYS, 3)]

theorem test_clauses_windows :
    (spare 2 (some (9, 4))).getF .res R.RES_STATE_ROLE = 2 ∧ (spare 2 (some (9, 4))).recov.load.map (·.1) ≠ some rd1.src ∧
    (spare 4 none).getF .res R.RES_STATE_ROLE = 4 ∧ (spare 2 (some (9, 4))).recov.load.map (·.2) = some 4 ∧
    (spare 2 none).sramOk false (spBase 0 15 + 0x270000) 1 = false ∧ (spare 2 none).sramOk false (spBase 0 15 + 0x24FFFF) 1 = true ∧
    (spare 2 none).sramOk true (accBase 0 15) 4 = false ∧ (spare 2 none).sramOk false (accBase 0 15) 4 = true ∧
    ¬ 1024 % 2 ^ 14 < work.syncRange 0 ∧ 1023 % 2 ^ 14 < work.syncRange 0 := by decide +kernel

theorem test_clauses_recovery :
    (member { drain := some 4, drainDevs := [7] } 1).recov.drainDevs.contains ((member {} 1).partner 0 R.RES_PARTNER_DEVICE) = true ∧
    (∀ x ∈ upto 16, (match placeOf ((member {} 1).cabBase 3 + x) with | .regs _ _ => false | _ => true) = true) ∧
    (member { restore := some 4, waiting := true } 1).isMember 5 = true ∧ (work.restoreApply (stageOfWords [])).2 = true ∧
    (member { losts := [⟨7, 4, 7⟩], refused := [7] } 1).recov.refused.contains 7 = true := by decide +kernel

theorem test_clauses_waits :
    work.spDenied 0 15 0 [(0, 64)] = false ∧ (sharing 100 0).spDenied 0 15 0 [(0, 64)] = true ∧
    work.moveHeld 0 ⟨rcd 64 pullF, 0, 0, 0, none, false⟩ = false ∧
    (waiting []).veHeld ⟨7, 1, 0, [], [], false, ⟨spBase 0 15, 0x100, .load 8 (.image 0)⟩⟩ = false ∧
    (∀ op ∈ [0x05, 0x10, 0x11, 0x12, 0x13, 0x14], turn op op = true) ∧ inModule .pf = false ∧ inModule (.mc 0) = true ∧
    (bridged.hostFn 15).d3hot = false ∧ (2 ^ 36 - 4096) % 4096 + 512 ≤ 4096 ∧ (∀ n ∈ alwaysOn, lit.domainOn n = true) ∧ (booting 9).silentDie = false ∧
    (more lit [(.pwr, R.PWR_FAULTED, 2 ^ 14)]).silentDie = true ∧
    4 ≤ (more normal [(.mem 0, R.MEM_STATE_REBUILDS, 4)]).rebuilds 0 ∧ ((session {}).grpOf 0).queue = [] := by decide +kernel

theorem test_clauses_cabinets :
    ((work.setPartRun 0 { plan := [⟨1, 0, 4096⟩] }).partRun 0).plan ≠ [] ∧ (member {} 1).acceptedPartners ≠ [] ∧
    ((member { seals := [(0, [3])] } 1).sealsOf 0).contains 4 = false ∧ ((member { seals := [(0, [4])] } 1).sealsOf 0).contains 4 = true ∧
    (member { drain := some 4 } 1).reqs.any (fun r => r.who == Requester.cab .stage && r.msg.dst == 7) = false ∧
    ({ member {} 1 with stages := [stageOfWords []] } : Chip).stages.find? (fun k => k.step == (stageOfWords []).step) = some (stageOfWords []) ∧
    ((1 : Nat) % 4 ≠ 3 ∧ (3 : Nat) % 4 = 3 ∧ bit 1 (4 % 2) = true) ∧
    (more (member {} 1) [(.host 3, R.HOST_SIZE_CAB_SIZE, 4096)]).cabAdmits { rd1 with opc := 2, vc := 4, addr := 0, len := 64 } = some 3 ∧
    (member { told := [(7, 4)] } 1).recov.told.find? 7 = some 4 ∧ (member { told := [(7, NO_PARTNER)] } 1).recov.told.find? 7 = some NO_PARTNER ∧
    NO_STEP ≤ NO_PARTNER ∧ (4 : Nat) < NO_STEP ∧ (member { load := some (7, 5) } 1).recov.load = some (7, 5) ∧
    (member { restore := some 4, waiting := true } 1).recov.mending = false ∧ (member { restore := some 4 } 1).recov.waiting = false ∧
    (member { fed := [0] } 1).recov.fed.contains (1 - 1) = true ∧ (member {} 1).recov.losts.any (fun x => x.dev == 9) = false ∧
    (work.stepRelease 0 ran).2 = COMP_OK ∧ (work.stepRelease 0 { ran with grad := some 0 }).2 ≠ COMP_OK := by
  decide +kernel

/-- A certificate's first 16 bytes are MAGIC, VERSION, two zero bytes and SERIAL (R445). -/
theorem test_certificate_head :
    (({} : Otp).fuse.certBody).take 16 = [0x45, 0x43, 0x39, 0x47, 1, 0, 0, 0, 1, 0, 0, 0, 0, 0, 0, 0] ∧ (({} : Otp).fuse.certBody).length = 128 := by
  decide +kernel

/-- A leaf block is reserved above a bit that reads neither value cleanly, which sets OTP_TORN (R446); with no block left the key is exhausted. -/
theorem test_torn_bit_is_skipped :
    let r := work.reportStart { unclean := 1 } { source := none, nonce := [], kind := 0 } 0 true
    r.1.on .sec St.SEC_OTP_TORN.flag = true ∧ r.1.getF .sec R.SEC_INDEX_NEXT = 257 ∧ r.2.1.blocks = 2 ∧
    (work.reportStart { blocks := 2 ^ 4096 - 1 } { source := none, nonce := [], kind := 0 } 0 true).1.on .sec St.SEC_EXHAUSTED.flag = true := by
  decide +kernel

/-- A stretched clock runs at half of its frequency, and at 1.0 GHz at least (R465). -/
theorem test_stretched_clock :
    let c := { more work [(.clkcl 0, R.CLKCL_STATE_OP, 7), (.clkcl 1, R.CLKCL_STATE_OP, 1)] with power := { work.power with stretched := [0, 1] } }
    c.clockMHz 0 = 2000 ∧ c.clockMHz 1 = 1000 := by decide +kernel

end Sys2Proof.Tests
end

section
/-! SUPPORT and certificates. Register fields, status bits and access codes (R6-R9, R287): what one store leaves. -/

namespace Sys2Proof.Machine

/-! Status bits and access codes. -/

/-- Raising a status bit sets its flag, unless the count lies in the flag's place (R7). -/
theorem Chip.getF_raise_flag (c : Chip) {b : Blk} {st : Status} (hw : st.flag.width = 1) (h : fkey b st.flag ≠ fkey b st.cnt) :
    (c.raise b st).getF b st.flag = 1 := by
  rw [Chip.raise, Chip.getF_satF_of_ne _ _ h, Chip.setB, Chip.getF_setF_self, hw]
  rfl

/-- The event count takes one event and stays at its largest value (R287). -/
theorem Chip.getF_raise_cnt (c : Chip) {b : Blk} {st : Status} (h : fkey b st.cnt ≠ fkey b st.flag) :
    (c.raise b st).getF b st.cnt = min (2 ^ st.cnt.width - 1) (c.getF b st.cnt + 1) := by
  rw [Chip.raise, Chip.getF_satF_self, Chip.setB, Chip.getF_setF_of_ne _ _ h]

/-- Raising a status bit leaves every field but its flag and its count alone. -/
theorem Chip.getF_raise_of_ne (c : Chip) {b b' : Blk} {st : Status} {f : Field} (hf : fkey b' f ≠ fkey b st.flag)
    (hc : fkey b' f ≠ fkey b st.cnt) : (c.raise b st).getF b' f = c.getF b' f := by
  rw [Chip.raise, Chip.getF_satF_of_ne _ _ hc, Chip.setB, Chip.getF_setF_of_ne _ _ hf]

/-- Storing an access in one field leaves the fields at other places alone. -/
theorem Chip.getF_storeField_of_ne (c : Chip) {b b' : Blk} {f f' : Field} (v lo hi : Nat) (h : fkey b' f' ≠ fkey b f) :
    (c.storeField b f v lo hi).getF b' f' = c.getF b' f' := by
  unfold Chip.storeField
  cases f.acc
  case ro | wo => rfl
  case rw => exact c.getF_setF_of_ne _ h
  case rwl =>
    dsimp only
    split
    · rfl
    · exact c.getF_setF_of_ne _ h
  case w1c =>
    dsimp only
    split
    · exact c.getF_setF_of_ne _ h
    · rfl

/-- The number that the low `w` bits of `n` spell is `n` cut to `w` bits. -/
theorem sum_bits_eq_mod (n w : Nat) : ((upto w).map (fun i => if bit n i then 2 ^ i else 0)).sum = n % 2 ^ w := by
  induction w with
  | zero => simp [upto, Nat.mod_one]
  | succ w ih =>
    simp only [upto, List.range_succ, List.map_append, List.sum_append, List.map_cons, List.map_nil, List.sum_cons, List.sum_nil] at ih ⊢
    rw [ih, Nat.mod_pow_succ, ← Nat.toNat_testBit, bit]
    cases n.testBit w <;> simp

/-- An access that covers a field whole gives it the written bits. -/
theorem Field.merged_whole (f : Field) (old v : Nat) {lo hi : Nat} (hlo : lo ≤ f.lsb) (hhi : f.lsb + f.width ≤ hi) :
    f.merged old v lo hi = field v f.lsb f.width := by
  rw [field, ← sum_bits_eq_mod, Field.merged]
  congr 1
  refine List.map_congr_left fun i hi' => ?_
  have hi' : i < f.width := by simpa [upto] using hi'
  rw [if_pos (by omega : lo ≤ f.lsb + i ∧ f.lsb + i < hi), bit, bit, Nat.testBit_shiftRight]

theorem Chip.getF_setF_merged_whole (c : Chip) (b : Blk) (f : Field) (v : Nat) {lo hi : Nat} (hlo : lo ≤ f.lsb) (hhi : f.lsb + f.width ≤ hi) :
    (c.setF b f (f.merged (c.getF b f) v lo hi)).getF b f = field v f.lsb f.width := by
  rw [Chip.getF_setF_self, Field.merged_whole f _ v hlo hhi, field, Nat.mod_mod]

/-- Settles O7: State.reset lists no register, no memory byte and no command. -/
theorem registersAtPowerOn : Obligations.RegistersAtPowerOn := by
  unfold Obligations.RegistersAtPowerOn
  refine ⟨fun b f => rfl, rfl, rfl, rfl, ?_, fun a => rfl⟩
  refine ⟨rfl, rfl, fun _ h => h, fun _ h => h, rfl, fun i x y hx hy => ?_⟩
  obtain rfl : x = y := Option.some.inj (hx.symm.trans hy)
  cases x <;> simp [OwnerSlot.grows]

/-- Settles O8: the flag and the count lie at different places, so each store of the event shows in one of them. -/
theorem statusEventsCount : Obligations.StatusEventsCount := by
  unfold Obligations.StatusEventsCount
  intro c b st hw hc hplace
  have hne : fkey b st.flag ≠ fkey b st.cnt := fkey_ne_of_place b hplace
  refine ⟨c.getF_raise_flag hw hne, ?_, fun b' f => c.getF_raise_of_ne, fun hacc v lo hi hv => ⟨?_, ?_⟩⟩
  · rw [c.getF_raise_cnt hne.symm, hc]
    rfl
  · simp [Chip.storeField, hacc, hv]
  · exact c.getF_storeField_of_ne v lo hi hne.symm

/-- Settles O9, access code by access code. -/
theorem accessCodes : Obligations.AccessCodes := by
  unfold Obligations.AccessCodes
  intro c b f v lo hi hlo hhi
  refine ⟨fun h => ?ro, fun h => ⟨?wo, ?woRead⟩, fun h => ?rw, fun h => ?rwl, fun h => ?w1c, fun h => ?read⟩
  case ro => simp [Chip.storeField, h]
  case wo => simp [Chip.storeField, h]
  case woRead => simp [Chip.readF, h]
  case rw => simp only [Chip.storeField, h, c.getF_setF_merged_whole b f v hlo hhi]
  case rwl =>
    simp only [Chip.storeField, h]
    split
    · rfl
    · exact c.getF_setF_merged_whole b f v hlo hhi
  case w1c =>
    simp only [Chip.storeField, h]
    split <;> simp
  case read =>
    unfold Chip.readF
    split
    · contradiction
    · rfl

end Sys2Proof.Machine
end

section
/-! SUPPORT and certificates. Where the statement of the stores by field fails (R8). -/

namespace Sys2Proof.Machine

/-- The module at reset, with its configuration locked (R8). -/
def lockedChip : Chip := State.reset.chip.setB .cfg R.CFG_STATE_LOCKED true

/-- An ME block with a core number that no cluster has: 0xD000 blocks of 0x400 bytes past the MEs of cluster 0 its registers begin where those of CFG do. -/
def farMe : Blk := .me 0 0xD000

theorem farMe_base : farMe.base = Blk.cfg.base := by decide

/-- The access at farMe's CSUM_TOL writes zeros over its nonzero locked fields, so it raises LOCKED_WRITE of CFG, whose place is that of ACC_WIN_COUNT0. -/
theorem lockedWrite_shows_in_farMe :
    (lockedChip.regStore farMe 0 (farMe.base + 0x10) 8 0 (fun _ => true)).getF farMe R.ME_ACC_WIN_COUNT0 = 1 ∧
      lockedChip.getF farMe R.ME_ACC_WIN_COUNT0 = 32 := by decide +kernel

theorem winCount_not_covered : R.ME_ACC_WIN_COUNT0 ∈ farMe.fields ∧ R.ME_ACC_WIN_COUNT0 ∉ farMe.covered 0 (farMe.base + 0x10) 8 := by decide +kernel

/-- Refutes O11: the statement takes every `Blk`, whose numbers have no bound, so a block other than CFG can have CFG's places (`farMe`); there the LOCKED_WRITE that the access raises changes ACC_WIN_COUNT0 from 32 to 1, a field that the access does not cover. -/
theorem not_registerStoreByField : ¬ Obligations.RegisterStoreByField := by
  unfold Obligations.RegisterStoreByField
  intro h
  obtain ⟨hf, hc⟩ := winCount_not_covered
  obtain ⟨hafter, hbefore⟩ := lockedWrite_shows_in_farMe
  have hkept := (h lockedChip farMe 0 (farMe.base + 0x10) 8 0 (fun _ => true) _ hf (by decide)).2 (.inl hc)
  rw [hafter, hbefore] at hkept
  exact absurd hkept (by decide)

end Sys2Proof.Machine
end

section
/-! SUPPORT and certificates. Register writes (R4, R6, R10, R295, R341, R348, R354, R454): the way of an access from its agent to the block that stores it. -/

namespace Sys2Proof.Machine

/-! Where an access goes. -/

/-- An agent inside the module names die register offsets (R348). -/
theorem regPlace_of_inModule {who : RegAgent} (h : inModule who = true) (off : Nat) : regPlace who off = .reg off := by
  rw [inModule, Option.isNone_iff_eq_none] at h
  rw [regPlace, h]

/-- A place of BAR0 that is no register is named by a host (R348). -/
theorem not_inModule_of_regPlace {who : RegAgent} {off : Nat} (h : ∀ o, regPlace who off ≠ .reg o) : inModule who = false :=
  Bool.eq_false_iff.mpr fun hin => h off (regPlace_of_inModule hin off)

theorem Chip.regWrite_unreached {c : Chip} {who : RegAgent} {d : Nat} (h : c.barReaches who d = false) (off size v : Nat) :
    c.regWrite who d off size v = c := by simp [Chip.regWrite, h]

/-- A host's access to a register is counted as a TLP and acts at the offset that its BAR0 gives the register; another agent's acts there at once. -/
theorem Chip.regWrite_reg {c : Chip} {who : RegAgent} {d off o : Nat} (h : c.barReaches who d = true) (hp : regPlace who off = .reg o)
    (size v : Nat) : c.regWrite who d off size v = (if inModule who then c else c.tlpRx).regWriteAt who d o size v := by
  simp [Chip.regWrite, h, hp]

/-- What a host's access to a place of BAR0 that is no register does (R348). -/
theorem Chip.regWrite_bar {c : Chip} {who : RegAgent} {d off : Nat} (h : c.barReaches who d = true) (hp : ∀ o, regPlace who off ≠ .reg o)
    (size v : Nat) : c.regWrite who d off size v = match regPlace who off with
      | .msix i => c.tlpRx.msixStore who i off size v
      | _ => c.tlpRx := by
  simp only [Chip.regWrite, h, Bool.not_true, Bool.false_eq_true, if_false, not_inModule_of_regPlace hp]
  cases hr : regPlace who off with
  | reg o => exact absurd hr (hp o)
  | msix i => rfl
  | pba i => rfl
  | none => rfl

/-! Which register an access reaches (R4, R10). -/

/-- An access of 8 bytes at a multiple of 8, or of 4 at a multiple of 4 (R4). -/
def accessLegal (off n : Nat) : Bool := (n == 8 && off % 8 == 0) || (n == 4 && off % 4 == 0)

/-- Is the unit of block `b` there, with a register at the offset (R10)? -/
def Chip.regThere (c : Chip) (b : Blk) (d off : Nat) : Bool := !c.blkGone b && b.fields.any (fun x => b.base + x.off == d * dieSpan + off / 8 * 8)

theorem Chip.findReg_illegal {c : Chip} {off n : Nat} (d : Nat) (h : accessLegal off n = false) :
    c.findReg d off n = .error (c.badAccess d off) := by
  rw [accessLegal] at h
  simp only [Chip.findReg, h, Bool.not_false, if_true]

theorem Chip.findReg_undecoded {c : Chip} {d off n : Nat} (h : accessLegal off n = true) (hd : decodeReg d off = none) (hv : ctxView d off = none) :
    c.findReg d off n = .error (c.unmapped d off) := by
  rw [accessLegal] at h
  simp only [Chip.findReg, h, hd, hv, Bool.not_true, Bool.false_eq_true, if_false, Option.isSome_none]

theorem Chip.findReg_missing {c : Chip} {d off n : Nat} {b : Blk} (h : accessLegal off n = true) (hd : decodeReg d off = some b)
    (ht : c.regThere b d off = false) : c.findReg d off n = .error (c.unmapped d off) := by
  rw [accessLegal] at h
  have ht : (c.blkGone b || !b.fields.any (fun x => b.base + x.off == d * dieSpan + off / 8 * 8)) = true := by
    simpa only [Chip.regThere, Bool.and_eq_false_iff, Bool.not_eq_false', Bool.or_eq_true, Bool.not_eq_true'] using ht
  simp only [Chip.findReg, h, hd, ht, Bool.not_true, Bool.false_eq_true, if_false, if_true]

theorem Chip.findReg_there {c : Chip} {d off n : Nat} {b : Blk} (h : accessLegal off n = true) (hd : decodeReg d off = some b)
    (ht : c.regThere b d off = true) : c.findReg d off n = .ok b := by
  rw [accessLegal] at h
  obtain ⟨hg, ha⟩ := Bool.and_eq_true_iff.mp ht
  rw [Bool.not_eq_true'] at hg
  simp only [Chip.findReg, h, hd, ha, hg, Bool.not_true, Bool.or_false, Bool.false_eq_true, if_false]

/-! What a write to a register does, block by block. -/

theorem Chip.regWriteAt_error {c x : Chip} {d off size : Nat} (h : c.findReg d off size = .error x) (who : RegAgent) (v : Nat) :
    c.regWriteAt who d off size v = x := by simp only [Chip.regWriteAt, Chip.atReg, h]

/-- The access stored in the fields that no row of its own writes, with what follows from them. -/
def Chip.regStored (c : Chip) (b : Blk) (d off size v : Nat) : Chip :=
  (c.regStore b d off size v (fun f => !ownRow b f)).regAfter b (b.covered d off size)

section
variable {c : Chip} {who : RegAgent} {d off size v : Nat}

theorem Chip.regWriteAt_hbr (h : c.findReg d off size = .ok .hbr) :
    c.regWriteAt who d off size v = if c.on .hbr R.HBR_CTRL_ENABLE then c.regStored .hbr d off size v else c := by
  simp only [Chip.regWriteAt, Chip.atReg, h, Chip.regStored]

theorem Chip.regWriteAt_apt {i : Nat} (h : c.findReg d off size = .ok (.apt i)) :
    c.regWriteAt who d off size v = if c.on .hbr R.HBR_CTRL_ENABLE = true ∧ who = .pf then c.regStored (.apt i) d off size v else c := by
  simp only [Chip.regWriteAt, Chip.atReg, h, Chip.regStored]
  by_cases he : c.on .hbr R.HBR_CTRL_ENABLE = true
  · simp only [he, if_true, true_and]
  · simp only [he, false_and, Bool.false_eq_true, if_false]

theorem Chip.regWriteAt_ch {cl n : Nat} (h : c.findReg d off size = .ok (.ch cl n)) :
    c.regWriteAt who d off size v = (c.chanRefused who cl n).getD (c.regStored (.ch cl n) d off size v) := by
  simp only [Chip.regWriteAt, Chip.atReg, h, Chip.regStored]
  cases c.chanRefused who cl n with
  | none => rw [Option.getD_none]
  | some x => rw [Option.getD_some]

theorem Chip.regWriteAt_sync {i : Nat} (h : c.findReg d off size = .ok (.sync i)) :
    c.regWriteAt who d off size v = if off % 16 < 8 then c.syncWrite who i off size v else c.regStored (.sync i) d off size v := by
  simp only [Chip.regWriteAt, Chip.atReg, h, Chip.regStored]

theorem Chip.regWriteAt_port {p : Nat} (h : c.findReg d off size = .ok (.port p)) :
    c.regWriteAt who d off size v = c.regStore (.port p) d off size v (fun f => !ownRow (.port p) f &&
      !((f == R.PORT_CTRL_ENABLE || f == R.PORT_CTRL_FORCE_DOWN) && bit (v * 2 ^ (accessBits off size).1) f.lsb)) := by
  simp only [Chip.regWriteAt, Chip.atReg, h]

theorem Chip.regWriteAt_other {b : Blk} (h : c.findReg d off size = .ok b) (hHbr : b = .hbr → False) (hApt : ∀ i, b = .apt i → False)
    (hCh : ∀ cl n, b = .ch cl n → False) (hSync : ∀ i, b = .sync i → False) (hPort : ∀ p, b = .port p → False) :
    c.regWriteAt who d off size v = c.regStored b d off size v := by
  simp only [Chip.regWriteAt, Chip.atReg, h, Chip.regStored]

end

/-- A write to SYNC_VALUE increments by its upper half, or sets where it has none or that is zero (R295). -/
theorem Chip.syncWrite_eq (c : Chip) (who : RegAgent) (i off size : Nat) (v : BitVec 64) :
    c.syncWrite who i off size v.toNat =
      let up := if size = 4 then (if off % 8 = 4 then v.toNat else 0) else v.toNat / 2 ^ 32
      if up = 0 ∧ ¬(size = 4 ∧ off % 8 = 4) then c.syncValueSet i v.toNat else c.syncValueInc i up ((agentPart who).getD 0) := by
  have hv : v.toNat / 2 ^ 32 % 2 ^ 32 = v.toNat / 2 ^ 32 := Nat.mod_eq_of_lt (by have := v.isLt; omega)
  simp only [Chip.syncWrite, hv]
  by_cases hs : size = 4
  · by_cases ho : off % 8 = 4 <;> simp [hs, ho]
  · simp [hs]

/-! Windows and the security island. -/

/-- A write to the SEC block, by an agent that may make it or not (R454). -/
theorem Chip.secWrite_error {c x : Chip} {off size : Nat} (h : c.findReg 0 (0x4000000 + off) size = .error x) (who : RegAgent) (v : Nat) :
    c.secWrite who off size v = x := by simp only [Chip.secWrite, Chip.atReg, h]

theorem Chip.secWrite_there {c : Chip} {off size : Nat} (h : c.findReg 0 (0x4000000 + off) size = .ok .sec) (who : RegAgent) (v : Nat) :
    c.secWrite who off size v = if who = .mc 0 ∨ who = .sideband then
      (c.regStore .sec 0 (0x4000000 + off) size v (fun _ => true)).tokenCap else c.raise .sec St.SEC_DENIED := by
  simp only [Chip.secWrite, Chip.atReg, h]
  cases who with
  | mc d => by_cases hd : d = 0 <;> simp [hd]
  | _ => simp

theorem decodeReg_sec (off : BitVec 22) : decodeReg 0 (0x4000000 + off.toNat) = some .sec := by
  have := off.isLt
  simp only [decodeReg]
  repeat rw [if_neg (by omega)]
  rw [if_pos (by omega)]
  rfl

/-- The SEC block begins at a multiple of 8. -/
theorem accessLegal_sec (off n : Nat) : accessLegal (0x4000000 + off) n = accessLegal off n := by
  simp only [accessLegal, show (0x4000000 + off) % 8 = off % 8 by omega, show (0x4000000 + off) % 4 = off % 4 by omega]

theorem Chip.regThere_sec (c : Chip) (off : Nat) :
    c.regThere .sec 0 (0x4000000 + off) = Tbl.SEC.any (fun x => x.off == off / 8 * 8) := by
  have hplace (x : Nat) : (0x4000000 + x == 0 * dieSpan + (0x4000000 + off) / 8 * 8) = (x == off / 8 * 8) := by
    rw [Bool.eq_iff_iff, beq_iff_eq, beq_iff_eq]
    omega
  show (true && Tbl.SEC.any (fun x => 0x4000000 + x.off == 0 * dieSpan + (0x4000000 + off) / 8 * 8)) = _
  simp only [hplace, Bool.true_and]

/-! The commands. -/

theorem exec_regWrite {s : State} (hup : s.up) (who : RegAgent) (die : Fin 4) (off : BitVec 32) (size : Fin 9) (v : BitVec 64) :
    exec (.regWrite who die off size v) s = s.goes (s.chip.regWrite who die off.toNat size v.toNat) := by
  have harm : exec (.regWrite who die off size v) s = execRegWrite who die off size v s := rfl
  rw [harm, execRegWrite, State.onChip_up _ hup]

theorem exec_windowWrite {s : State} (hup : s.up) (who : RegAgent) (die : Fin 4) (w : Fin 256) (word : Fin 4) (v : BitVec 64) :
    exec (.windowWrite who die w word v) s = s.goes (s.chip.windowWrite who die w word v.toNat) := by
  have harm : exec (.windowWrite who die w word v) s = execWindowWrite who die w word v s := rfl
  rw [harm, execWindowWrite, State.onChip_up _ hup]

theorem exec_secRegWrite {s : State} (hup : s.up) (who : RegAgent) (off : BitVec 22) (size : Fin 9) (v : BitVec 64) :
    exec (.secRegWrite who off size v) s = s.goes (s.chip.secWrite who off.toNat size v.toNat) := by
  have harm : exec (.secRegWrite who off size v) s = execSecRegWrite who off size v s := rfl
  rw [harm, execSecRegWrite, State.onChip_up _ hup]

/-- Settles O10: the access is followed from its agent through BAR0 and the search for its register to the block that stores it. -/
theorem registerWriteCompletes : Obligations.RegisterWriteCompletes := by
  unfold Obligations.RegisterWriteCompletes
  refine ⟨fun s who die off size v hup => ?_, fun s who hup => ⟨fun die w word v => ?_, fun off size v => ?_⟩⟩
  · have hexec := exec_regWrite hup who die off size v
    intro host
    refine ⟨fun h => by rw [hexec, Chip.regWrite_unreached h], fun hr => ⟨fun i hp => ?_, fun i hp => ?_, fun hp => ?_, fun o hp => ?_⟩⟩
    · rw [hexec, Chip.regWrite_bar hr (by simp [hp]), hp]
    · rw [hexec, Chip.regWrite_bar hr (by simp [hp]), hp]
    · rw [hexec, Chip.regWrite_bar hr (by simp [hp]), hp]
    rw [Chip.regWrite_reg hr hp] at hexec
    intro c legal
    change _ = s.goes (c.regWriteAt who die o size v.toNat) at hexec
    refine ⟨fun hl => ?_, fun hl hd hv => ?_, fun b hl hd => ⟨fun ht => ?_, fun ht => ?_⟩⟩
    · rw [hexec, Chip.regWriteAt_error (Chip.findReg_illegal _ hl)]
    · rw [hexec, Chip.regWriteAt_error (Chip.findReg_undecoded hl hd hv)]
    · rw [hexec, Chip.regWriteAt_error (Chip.findReg_missing hl hd ht)]
    have hf : c.findReg die o size = .ok b := Chip.findReg_there hl hd ht
    intro stored
    rw [hexec]
    split
    · rw [Chip.regWriteAt_hbr hf]; rfl
    · rw [Chip.regWriteAt_apt hf]; rfl
    · rw [Chip.regWriteAt_ch hf]; rfl
    · rw [Chip.regWriteAt_sync hf]
      intro part up
      refine ⟨fun ho => ?_, fun ho => ?_⟩
      · rw [if_pos ho, Chip.syncWrite_eq]
      · rw [if_neg (by omega)]; rfl
    · rw [Chip.regWriteAt_port hf]
    · next hHbr hApt hCh hSync hPort => rw [Chip.regWriteAt_other hf hHbr hApt hCh hSync hPort]; rfl
  · rw [exec_windowWrite hup]
    cases who <;> simp [Chip.windowWrite]
  · have hexec := exec_secRegWrite hup who off size v
    intro legal there
    have hlegal : accessLegal (0x4000000 + off.toNat) size = legal := accessLegal_sec _ _
    have hthere : s.chip.regThere .sec 0 (0x4000000 + off.toNat) = there := Chip.regThere_sec _ _
    rw [hexec, ← hlegal, ← hthere]
    refine ⟨fun hl => ?_, fun hl ht => ?_, fun hl ht => ?_⟩
    · rw [Chip.secWrite_error (Chip.findReg_illegal _ hl)]
    · rw [Chip.secWrite_error (Chip.findReg_missing hl (decodeReg_sec off) ht)]
    · rw [Chip.secWrite_there (Chip.findReg_there hl (decodeReg_sec off) ht)]

end Sys2Proof.Machine
end

section
/-! SUPPORT and certificates. Cache commands (R173-R178, R182). -/

namespace Sys2Proof.Machine

/-! The way of a command to a core's cache registers. -/

theorem Chip.atUnit_sp_gone {c : Chip} {cl : Nat} (h : c.clusterOff cl = true) (k : Nat) (r : Field) (f : Chip → Chip) :
    c.atUnit (.sp cl k) r f = c.unmapped (((Blk.sp cl k).base + r.off) / dieSpan) (((Blk.sp cl k).base + r.off) % dieSpan) := by
  rw [Chip.atUnit, if_pos (show c.blkGone (.sp cl k) = true from h)]

theorem Chip.atUnit_sp_there {c : Chip} {cl : Nat} (h : c.clusterOff cl = false) (k : Nat) (r : Field) (f : Chip → Chip) :
    c.atUnit (.sp cl k) r f = f c := by
  rw [Chip.atUnit, if_neg (Bool.eq_false_iff.mp (show c.blkGone (.sp cl k) = false from h))]

/-- The three commands that write SP_CACHE_OP (R177), by what they ask. -/
theorem exec_cacheOp {s : State} (hup : s.up) {cl : Fin 32} {k : Fin 16} {ctx : Fin 8} {all wb inv : Bool} {i : Instr}
    (hi : (wb, inv, i) ∈ [(true, false, .cacheWriteBack cl k ctx all), (false, true, .cacheInvalidate cl k ctx all),
      (true, true, Instr.cacheWriteBackInvalidate cl k ctx all)]) :
    exec i s = s.goes (s.chip.atUnit (.sp cl k) R.SP_CACHE_OP_OP (fun c => c.cacheOp cl k wb inv ctx all)) := by
  simp only [List.mem_cons, List.not_mem_nil, or_false] at hi
  rcases hi with ⟨rfl, rfl, rfl⟩ | ⟨rfl, rfl, rfl⟩ | ⟨rfl, rfl, rfl⟩
  · have harm : exec (.cacheWriteBack cl k ctx all) s = execCacheWriteBack cl k ctx all s := rfl
    rw [harm, execCacheWriteBack, State.onChip_up _ hup]
  · have harm : exec (.cacheInvalidate cl k ctx all) s = execCacheInvalidate cl k ctx all s := rfl
    rw [harm, execCacheInvalidate, State.onChip_up _ hup]
  · have harm : exec (.cacheWriteBackInvalidate cl k ctx all) s = execCacheWriteBackInvalidate cl k ctx all s := rfl
    rw [harm, execCacheWriteBackInvalidate, State.onChip_up _ hup]

theorem exec_cacheOpDone {s : State} {cl : Fin 32} (hr : s.ready cl) (k : Fin 16) :
    exec (.cacheOpDone cl k) s = s.goes (s.chip.cacheOpDone cl k) := by
  have harm : exec (.cacheOpDone cl k) s = execCacheOpDone cl k s := rfl
  rw [harm, execCacheOpDone, State.onCluster_ready _ hr]

theorem exec_cacheConfigWrite {s : State} (hup : s.up) (cl : Fin 32) (k : Fin 16) (who : RegAgent) (owner : Bool) (v : BitVec 64) :
    exec (.cacheConfigWrite cl k who owner v) s = s.goes (s.chip.inside who (fun c =>
      c.atUnit (.sp cl k) (if owner then R.SP_CACHE_OWNER_OWNER_0 else R.SP_CACHE_CFG_WAYS)
        (fun c => c.cacheConfig cl k (c.cacheAgent cl who) owner v.toNat))) := by
  have harm : exec (.cacheConfigWrite cl k who owner v) s = execCacheConfigWrite cl k who owner v s := rfl
  rw [harm, execCacheConfigWrite, State.onChip_up _ hup]

/-! Operations (R177, R182). -/

theorem Chip.view_busy (c : Chip) (cl k : Nat) : c.view (.sp cl k) R.SP_CACHE_OP_BUSY = some (b2n (!(c.cacheOf cl k).ops.isEmpty)) := rfl

/-- An operation of SP_CACHE_OP always joins those that wait. -/
theorem Chip.cacheOp_eq (c : Chip) (cl k : Nat) (wb inv : Bool) (ctx : Nat) (all : Bool) : c.cacheOp cl k wb inv ctx all =
    c.setCache cl k { c.cacheOf cl k with ops := (c.cacheOf cl k).ops ++ [.run wb inv (if all then none else some ctx)] } := by
  simp only [Chip.cacheOp, Chip.cacheTake, Bool.false_eq_true, if_false]

theorem Chip.cacheOpDone_cons {c : Chip} {cl k : Nat} {op : CacheOp} {r : List CacheOp} (h : (c.cacheOf cl k).ops = op :: r) :
    c.cacheOpDone cl k = (c.cacheDo cl k op).setCache cl k { (c.cacheDo cl k op).cacheOf cl k with ops := r } := by
  simp only [Chip.cacheOpDone, h]

theorem Chip.cacheSel_run (c : Chip) (cl k : Nat) (wb inv all : Bool) (ctx : Nat) :
    c.cacheSel cl k (.run wb inv (if all then none else some ctx)) = fun j => all || c.wayOwner cl k j == ctx := by
  funext j
  cases all <;> simp [Chip.cacheSel]

theorem Chip.Traces.caches_eq {c d : Chip} (h : c.Traces d) : d.caches = c.caches := by
  obtain ⟨_, _, _, _, _, _, _, _, rfl⟩ := h
  rfl

/-- A write-back does what a write of an agent does, and is counted. -/
theorem Chip.writeBack_traces (c : Chip) (cl k : Nat) (l : CacheLine) : c.Traces (c.writeBack cl k l) := by
  unfold Chip.writeBack
  split
  · exact .refl c
  · extract_lets data
    have hw := c.agentWrite_traces (c.coreAgent cl) l.addr (ones 128) data
    split
    next h =>
      rw [h] at hw
      exact hw.trans (Chip.addF_traces _ _ _ _)

/-- What cleaning leaves of a core's cache: without the selected lines, or with them clean, or as it was; its operations and its tree bits stay. -/
theorem Chip.cacheOf_cacheClean (c : Chip) (cl k : Nat) (sel : Nat → Bool) (wb inv : Bool) :
    (c.cacheClean cl k sel wb inv).cacheOf cl k = { c.cacheOf cl k with
      lines := if inv then (c.cacheOf cl k).lines.filter (fun l => !sel l.way)
        else if wb then (c.cacheOf cl k).lines.map (fun l => if sel l.way then { l with dirty := false } else l) else (c.cacheOf cl k).lines } := by
  have hkeep : (if wb then forAll ((c.cacheOf cl k).lines.filter (fun l => sel l.way)) c (fun c l => c.writeBack cl k l) else c).cacheOf cl k =
      c.cacheOf cl k := by
    cases wb with
    | false => rfl
    | true =>
      rw [if_pos rfl, Chip.cacheOf, Chip.cacheOf, forAll_keeps Chip.caches _ c _ (fun c l => (c.writeBack_traces cl k l).caches_eq)]
  simp only [Chip.cacheClean, Chip.cacheOf_setCache_self, hkeep]

/-! Settings (R173, R178). -/

/-- A setting takes effect at once where it changes no valid line and no operation runs, and joins the operations otherwise (log entry 25). -/
theorem Chip.cacheTake_setting (c : Chip) (cl k : Nat) {op : CacheOp} (h : ∀ wb inv ctx, op ≠ .run wb inv ctx) : c.cacheTake cl k op =
    if (c.cacheOf cl k).ops.isEmpty && (c.cacheOf cl k).lines.all (fun l => !c.cacheSel cl k op l.way) then c.cacheDo cl k op
    else c.setCache cl k { c.cacheOf cl k with ops := (c.cacheOf cl k).ops ++ [op] } := by
  cases op with
  | run wb inv ctx => exact absurd rfl (h wb inv ctx)
  | setWays v => rfl
  | setOwner v => rfl

theorem Chip.cacheConfig_denied {c : Chip} {p : Nat} {who : Option Nat} (hw : who = some p) (h : c.shared p = true) (cl k : Nat)
    (owner : Bool) (v : Nat) : c.cacheConfig cl k who owner v = c.raise (.part p) St.PART_DENIED := by
  have hf : who.filter c.shared = some p := by rw [hw, Option.filter_some, if_pos h]
  simp only [Chip.cacheConfig, hf]

/-- The setting that a write to SP_CACHE_OWNER or SP_CACHE_CFG asks for. -/
def cacheSetting (owner : Bool) (v : Nat) : CacheOp := if owner then .setOwner v else .setWays (field v 0 5)

/-- Does a setting break no rule of R173 and R178? -/
def Chip.settingOk (c : Chip) (cl k : Nat) (owner : Bool) (v : Nat) : Bool :=
  owner || (c.mayCache cl (satNat 16 (field v 0 5)) && !c.waysOverlap cl k (satNat 16 (field v 0 5)))

/-- A setting of an agent in no share set is refused or taken. -/
theorem Chip.cacheConfig_free {c : Chip} {who : Option Nat} (hw : who.any c.shared = false) (cl k : Nat) (owner : Bool) (v : Nat) :
    c.cacheConfig cl k who owner v =
      if c.settingOk cl k owner v then c.cacheTake cl k (cacheSetting owner v) else c.raise (.sp cl k) St.SP_CACHE_REFUSED := by
  have hf : who.filter c.shared = none := by
    cases who with
    | none => rfl
    | some p => simpa using hw
  simp only [Chip.cacheConfig, hf, Chip.settingOk, cacheSetting]
  cases owner with
  | true => rfl
  | false =>
    by_cases hm : c.mayCache cl (satNat 16 (field v 0 5)) = true <;> by_cases ho : c.waysOverlap cl k (satNat 16 (field v 0 5)) = true <;>
      simp [hm, ho]

/-- A setting of the ways that R173 admits is in SP_CACHE_CFG afterwards. -/
theorem Chip.getF_ways_cacheDo {c : Chip} {cl v : Nat} (h : c.mayCache cl (satNat 16 v) = true) (k : Nat) :
    (c.cacheDo cl k (.setWays v)).getF (.sp cl k) R.SP_CACHE_CFG_WAYS = v % 2 ^ 5 := by
  simp only [Chip.cacheDo, h, if_true, Chip.getF_setF_self]
  rfl

/-- Storing the owners of the first `n` ways one after another leaves each in its place. -/
theorem Chip.wayOwner_forAll (c : Chip) (cl k : Nat) (g : Nat → Nat) {n j : Nat} (h : j < n) :
    (forAll (upto n) c (fun c j => c.setF (.sp cl k) (ownerField j) (g j))).wayOwner cl k j = g j % 2 ^ 3 := by
  induction n with
  | zero => omega
  | succ n ih =>
    simp only [upto, List.range_succ, forAll, List.foldl_append, List.foldl_cons, List.foldl_nil, Chip.wayOwner] at ih ⊢
    by_cases hj : j = n
    · rw [hj, Chip.getF_setF_self]
      rfl
    · rw [Chip.getF_setF_place, ih (by omega)]
      simp only [ownerField]
      omega

theorem Chip.wayOwner_cacheDo (c : Chip) (cl k v : Nat) {j : Nat} (h : j < 16) :
    (c.cacheDo cl k (.setOwner v)).wayOwner cl k j = field v (3 * j) 3 := by
  rw [Chip.cacheDo, Chip.wayOwner_forAll _ _ _ (fun j => field v (3 * j) 3) h, field, Nat.mod_mod]

/-- Settles O12: each command is followed to the operation that it takes, and the operation to the lines and the settings that it leaves. -/
theorem cacheCommandsComplete : Obligations.CacheCommandsComplete := by
  unfold Obligations.CacheCommandsComplete
  intro s cl k hup c x gone took
  refine ⟨fun ctx all wb inv i hi => ?_, fun who owner v => ?_, fun op r hr hops => ?_⟩
  · intro d sel e
    have hexec := exec_cacheOp hup hi
    have hsel : d.cacheSel cl k (.run wb inv (if all then none else some ctx)) = sel := d.cacheSel_run cl k wb inv all ctx
    refine ⟨fun hoff => ?_, fun hoff => ⟨?_, ?_⟩, fun hr hops => ⟨?_, ?_, ?_⟩⟩
    · rw [hexec, Chip.atUnit_sp_gone hoff]
    · rw [hexec, Chip.atUnit_sp_there hoff, Chip.cacheOp_eq]
    · rw [Chip.view_busy, Chip.cacheOf_setCache_self]
      simp [b2n]
    · have hd : (d.cacheOf cl k).ops = [.run wb inv (if all then none else some ↑ctx)] := by
        rw [Chip.cacheOf_setCache_self, hops]
        rfl
      rw [exec_cacheOpDone (s := { s with chip := d }) ⟨hr.1, hr.2⟩, Chip.cacheOpDone_cons hd, Chip.cacheDo, hsel]
      rfl
    · rw [Chip.view_busy, Chip.cacheOf_setCache_self]
      rfl
    · rw [Chip.cacheOf_setCache_self, Chip.cacheOf_cacheClean, Chip.cacheOf_setCache_self]
      simp only [List.mem_cons, List.not_mem_nil, or_false] at hi
      rcases hi with ⟨rfl, rfl, -⟩ | ⟨rfl, rfl, -⟩ | ⟨rfl, rfl, -⟩ <;> rfl
  · intro ways op small ok denied
    have hexec := exec_cacheConfigWrite hup cl k who owner v
    have hok : c.settingOk cl k owner v.toNat = ok := by
      simp only [Chip.settingOk, Chip.mayCache, Bool.and_comm (Option.all _ _), ok, small, ways]
    refine ⟨fun hin => ?_, fun hin => ⟨fun hoff => ?_, fun hoff => ⟨fun p hp hsh => ?_, fun hden hbad => ?_, fun hden hgood => ?_⟩⟩⟩
    · rw [hexec, Chip.inside, hin]
      rfl
    all_goals rw [Chip.inside, if_pos hin] at hexec
    · rw [hexec, Chip.atUnit_sp_gone hoff]
    all_goals rw [Chip.atUnit_sp_there hoff] at hexec
    · rw [hexec, Chip.cacheConfig_denied hp hsh]
    all_goals rw [Chip.cacheConfig_free hden, hok] at hexec
    · rw [hexec, hbad]
      rfl
    rw [hgood, if_pos rfl, Chip.cacheTake_setting _ _ _ (by cases owner <;> simp [cacheSetting])] at hexec
    intro quiet
    change _ = s.goes (if quiet = true then c.cacheDo cl k op else took op) at hexec
    refine ⟨fun hq => by rw [hexec, hq]; rfl, fun hq => ⟨by rw [hexec, hq]; rfl, fun ho => ?_, fun ho j hj => ?_⟩⟩
    · have hmay : c.mayCache cl (satNat 16 (field v.toNat 0 5)) = true := by
        rw [← hok, Chip.settingOk, ho, Bool.false_or, Bool.and_eq_true] at hgood
        exact hgood.1
      simp only [op, ho, Bool.false_eq_true, if_false]
      rw [Chip.getF_ways_cacheDo hmay, field, Nat.mod_mod]
    · simp only [op, ho, if_true]
      rw [Chip.wayOwner_cacheDo _ _ _ _ hj]
  · rw [exec_cacheOpDone hr, Chip.cacheOpDone_cons hops]

end Sys2Proof.Machine
end

section
/-! SUPPORT and certificates. Requests through the remote windows (R179, R281, R339-R342). -/

namespace Sys2Proof.Machine

/-! What the network on chip leaves alone (R16). -/

/-- A message's way through the network changes what the network holds, and no more. -/
theorem Chip.nocCross_eq (c : Chip) (d e out k n : Nat) : ∃ x, c.nocCross d e out k n = { c with noc := x } := by
  unfold Chip.nocCross
  split
  · exact ⟨_, rfl⟩
  · exact ⟨_, rfl⟩

/-! What an admitted request has counted (R341). -/

/-- A request is counted in ADMITS of the die and in HITS of the window that admits it. -/
def Chip.admitted (c : Chip) (d w : Nat) : Chip := (c.addF (.jlk d) R.JLK_WIN_ADMITS 1).addF (.win d w) R.WIN_HITS 1

@[simp] theorem Chip.admitted_mem (c : Chip) (d w : Nat) : (c.admitted d w).mem = c.mem := rfl

theorem Chip.getF_admitted (c : Chip) {d w : Nat} {b : Blk} {f : Field} (hj : fkey b f ≠ fkey (.jlk d) R.JLK_WIN_ADMITS)
    (hw : fkey b f ≠ fkey (.win d w) R.WIN_HITS) : (c.admitted d w).getF b f = c.getF b f := by
  rw [Chip.admitted, Chip.getF_addF_of_ne _ _ hw, Chip.getF_addF_of_ne _ _ hj]

/-- Fields in the second or third register of each 32 bytes are neither counter: ADMITS is in the first, HITS in the fourth. -/
theorem Chip.getF_admitted_of_mod (c : Chip) (d w : Nat) {b : Blk} {f : Field} (hb : b.base % 32 = 0) (ho : f.off % 32 = 8 ∨ f.off % 32 = 16)
    (hl : f.lsb < 64) : (c.admitted d w).getF b f = c.getF b f := by
  have hf : fkey b f % 2048 = f.off % 32 * 64 + f.lsb := by
    simp only [fkey]
    omega
  have hj : fkey (.jlk d) R.JLK_WIN_ADMITS % 2048 = 0 := by
    simp only [fkey, Blk.base, dieSpan, R.JLK_WIN_ADMITS]
    omega
  have hw : fkey (.win d w) R.WIN_HITS % 2048 = 0x18 * 64 := by
    simp only [fkey, Blk.base, dieSpan, R.WIN_HITS]
    omega
  apply c.getF_admitted <;> intro h <;> rw [h] at hf <;> omega

section
variable (c : Chip) (d w : Nat)

theorem Chip.admitted_part (p : Nat) {f : Field} (ho : f.off % 32 = 8 ∨ f.off % 32 = 16) (hl : f.lsb < 64) :
    (c.admitted d w).getF (.part p) f = c.getF (.part p) f :=
  c.getF_admitted_of_mod d w (by simp only [Blk.base]; omega) ho hl

theorem Chip.admitted_partState (p : Nat) : (c.admitted d w).partState p = c.partState p := c.admitted_part d w p (by decide) (by decide)
theorem Chip.admitted_partHas (p cl : Nat) : (c.admitted d w).partHas p cl = c.partHas p cl := by
  rw [Chip.partHas, c.admitted_part d w p (by decide) (by decide), Chip.partHas]
theorem Chip.admitted_shared (p : Nat) : (c.admitted d w).shared p = c.shared p := by
  rw [Chip.shared, c.admitted_part d w p (by decide) (by decide), Chip.shared]

theorem Chip.admitted_syncRange (p : Nat) : (c.admitted d w).syncRange p = c.syncRange p := by
  apply Chip.getF_admitted <;> simp only [fkey, Blk.base, dieSpan, R.PART_SYNC_RANGE_SIZE, R.JLK_WIN_ADMITS, R.WIN_HITS] <;> omega

theorem Chip.admitted_partOf (cl : Nat) : (c.admitted d w).partOf cl = c.partOf cl := by
  have hslice (p : Nat) : (c.admitted d w).on (.part p) R.PART_STATE_IN_SLICE = c.on (.part p) R.PART_STATE_IN_SLICE := by
    rw [Chip.on, c.admitted_part d w p (by decide) (by decide), Chip.on]
  have hset (p : Nat) : (c.admitted d w).getF (.part p) R.PART_STATE_SET_SIZE = c.getF (.part p) R.PART_STATE_SET_SIZE :=
    c.admitted_part d w p (by decide) (by decide)
  simp only [Chip.partOf, c.admitted_partHas d w, hslice, hset]

theorem Chip.admitted_shareHas (p : Nat) (pl : Place) : (c.admitted d w).shareHas p pl = c.shareHas p pl := by
  have hshare (f : Field) (ho : f.off % 32 = 8 ∨ f.off % 32 = 16) (hl : f.lsb < 64) := c.admitted_part d w p ho hl
  cases pl with
  | scratch cl k o =>
    simp only [Chip.shareHas, c.admitted_partOf d w, hshare R.PART_SHARE_SP_BASE_KIB (by decide) (by decide),
      hshare R.PART_SHARE_SP_KIB (by decide) (by decide), hshare R.PART_STATE_MEMBER (by decide) (by decide)]
  | commons cl o =>
    simp only [Chip.shareHas, hshare R.PART_SHARE_CM_BASE_KIB (by decide) (by decide), hshare R.PART_SHARE_CM_KIB (by decide) (by decide)]
  | acc cl k o =>
    simp only [Chip.shareHas, hshare R.PART_SLICE_ACC_BASE (by decide) (by decide), hshare R.PART_SLICE_ACC_COUNT (by decide) (by decide)]
  | _ => rfl

theorem Chip.admitted_clusterOff (hw : w < 256) (cl : Nat) : (c.admitted d w).clusterOff cl = c.clusterOff cl := by
  have hboot (f : Field) (ho : f.off = 0x40) (hl : f.lsb < 64) :
      (c.admitted d w).getF (.boot (cl / 8)) (f.nth (cl % 8)) = c.getF (.boot (cl / 8)) (f.nth (cl % 8)) := by
    have := Nat.mod_lt cl (show 8 > 0 by decide)
    apply Chip.getF_admitted <;> simp only [fkey, Field.nth, ho, Blk.base, dieSpan, R.JLK_WIN_ADMITS, R.WIN_HITS] <;> omega
  simp only [Chip.clusterOff, Chip.clusterGone, Chip.on, hboot R.BOOT_BENCH_CL_ABSENT rfl (by decide), hboot R.BOOT_BENCH_CL_FUSED rfl (by decide),
    hboot R.BOOT_BENCH_CL_BENCHED rfl (by decide)]

theorem Chip.admitted_isSelf (dev : Nat) : (c.admitted d w).isSelf dev = c.isSelf dev := by
  have hid : (c.admitted d w).getF (.jlk 0) R.JLK_CTRL_DEVICE_ID = c.getF (.jlk 0) R.JLK_CTRL_DEVICE_ID := by
    apply Chip.getF_admitted <;> simp only [fkey, Blk.base, dieSpan, R.JLK_CTRL_DEVICE_ID, R.JLK_WIN_ADMITS, R.WIN_HITS] <;> omega
  have hres {f : Field} (ho : f.off % 32 = 8 ∨ f.off % 32 = 16) (hl : f.lsb < 64) := c.getF_admitted_of_mod d w (b := .res) (by decide) ho hl
  have halias : (c.admitted d w).getF .res R.RES_STATE_ALIAS = c.getF .res R.RES_STATE_ALIAS := hres (by decide) (by decide)
  have hvalid : (c.admitted d w).on .res R.RES_STATE_ALIAS_VALID = c.on .res R.RES_STATE_ALIAS_VALID := by
    rw [Chip.on, hres (by decide) (by decide), Chip.on]
  simp only [Chip.isSelf, Chip.deviceId, hid, halias, hvalid]

theorem Chip.admitted_sramOk (write : Bool) (a n : Nat) : (c.admitted d w).sramOk write a n = c.sramOk write a n := by
  have hways (cl k : Nat) : (c.admitted d w).cacheWays cl k = c.cacheWays cl k := by
    rw [Chip.cacheWays, c.getF_admitted_of_mod d w (by simp only [Blk.base, dieSpan]; omega) (by decide) (by decide), Chip.cacheWays]
  simp only [Chip.sramOk, hways]

theorem placeOf_ne_lpddr {a : Nat} (h : isLpddr a = false) : placeOf a ≠ .lpddr := by
  rw [isLpddr, decide_eq_false_iff_not] at h
  intro hp
  unfold placeOf at hp
  rw [if_neg h] at hp
  dsimp only at hp
  repeat' split at hp
  all_goals cases hp

/-- The checks of a byte beyond LPDDR6 are those that held before the request was counted. -/
theorem Chip.admitted_byteCode (hw : w < 256) (ag : Agent) (write : Bool) {a : Nat} (h : isLpddr a = false) :
    (c.admitted d w).byteCode ag write a = c.byteCode ag write a := by
  have hme (cl k : Nat) : (c.admitted d w).meOf cl k = c.meOf cl k := rfl
  have hpl := placeOf_ne_lpddr h
  unfold Chip.byteCode
  generalize placeOf a = pl at hpl ⊢
  cases pl with
  | lpddr => exact absurd rfl hpl
  | regs _ _ => rfl
  | nothing => rfl
  | _ => simp only [c.admitted_clusterOff d w hw, c.admitted_partHas d w, c.admitted_shared d w, c.admitted_shareHas d w, hme]

/-- The positions at which a request is checked lie at its first byte or above. -/
theorem le_of_mem_probes {a n x : Nat} (h : x ∈ probes a n) : a ≤ x := by
  unfold probes at h
  split at h
  · simp at h
  · simp only [List.mem_cons, List.mem_map] at h
    rcases h with rfl | rfl | ⟨i, -, rfl⟩ <;> omega

theorem Chip.admitted_accessCode (hw : w < 256) (ag : Agent) (write : Bool) {a : Nat} (n : Nat) (h : isLpddr a = false) :
    (c.admitted d w).accessCode ag write a n = c.accessCode ag write a n := by
  have hbytes : (probes a n).map ((c.admitted d w).byteCode ag write) = (probes a n).map (c.byteCode ag write) :=
    List.map_congr_left fun x hx => c.admitted_byteCode d w hw ag write (by
      have := le_of_mem_probes hx
      simp only [isLpddr, decide_eq_false_iff_not] at h ⊢
      omega)
  simp only [Chip.accessCode, hbytes]

end

/-- Does a request keep to the limits of R179 and name no sync counter of another device (log entry 146)? -/
def Chip.withinLimits (c : Chip) (m : Msg) : Prop :=
  m.opc = 8 ∨ ((c.isSelf m.src = true ∨ namesCounter m.addr m.len = false) ∧ c.sramOk (m.opc == 2) m.addr m.len = true)

theorem Chip.withinLimits_iff (c : Chip) (m : Msg) : c.withinLimits m ↔
    (m.opc != 8 && !c.isSelf m.src && namesCounter m.addr m.len) = false ∧ (m.opc != 8 && !c.sramOk (m.opc == 2) m.addr m.len) = false := by
  unfold Chip.withinLimits
  by_cases h8 : m.opc = 8
  · simp [h8]
  · cases c.isSelf m.src <;> simp [h8]

theorem Chip.admitted_withinLimits (c : Chip) (d w : Nat) (m : Msg) : (c.admitted d w).withinLimits m ↔ c.withinLimits m := by
  simp only [Chip.withinLimits, c.admitted_isSelf d w, c.admitted_sramOk d w]

/-- The checks after admission, as `Chip.serve` makes them on the counted state. -/
theorem Chip.admitted_checks {c : Chip} {m : Msg} {p : Nat} (d w : Nat) (hl : c.withinLimits m) (hr : c.partState p ≠ PS_RESETTING) :
    let n := (c.addF (.jlk d) R.JLK_WIN_ADMITS 1).addF (.win d w) R.WIN_HITS 1
    (m.opc != 8 && !n.isSelf m.src && namesCounter m.addr m.len) = false ∧ (m.opc != 8 && !n.sramOk (m.opc == 2) m.addr m.len) = false ∧
      (n.partState p == PS_RESETTING) = false := by
  rw [← c.admitted_withinLimits d w, Chip.withinLimits_iff, Chip.admitted] at hl
  rw [← c.admitted_partState d w, Chip.admitted, ← beq_eq_false_iff_ne] at hr
  exact ⟨hl.1, hl.2, hr⟩

/-! The order of R342. -/

section
variable {c : Chip} {io : RegIo} {d w : Nat} {m : Msg}

theorem Chip.serve_switching (h : c.on .layout R.LAYOUT_SWITCHING = true) : c.serve io d m = (c, .retry) := by
  simp only [Chip.serve, h, if_true]

theorem Chip.serve_unadmitted (h : c.on .layout R.LAYOUT_SWITCHING = false) (hw : (upto 256).find? (fun w => c.winAdmits d w m) = none) :
    c.serve io d m = (c.winDenied d m, .refuse COMP_WINDOW_DENIED 1) := by
  simp only [Chip.serve, h, hw, Bool.false_eq_true, if_false]

section
variable (h : c.on .layout R.LAYOUT_SWITCHING = false) (hw : (upto 256).find? (fun w => c.winAdmits d w m) = some w)
include h hw

theorem Chip.serve_beyond (hl : ¬ c.withinLimits m) :
    c.serve io d m = ((c.admitted d w).winDenied d m, .refuse COMP_WINDOW_DENIED 2) := by
  rw [← c.admitted_withinLimits d w, Chip.withinLimits_iff, Chip.admitted, not_and_or, Bool.not_eq_false, Bool.not_eq_false] at hl
  simp only [Chip.serve, h, hw, Bool.false_eq_true, if_false, Chip.admitted]
  rcases hl with hl | hl
  · simp only [hl, if_true]
  · simp only [hl, if_true, ite_self]

variable (hl : c.withinLimits m)
include hl

theorem Chip.serve_resetting (hr : c.partState (c.getF (.win d w) R.WIN_CFG_PART) = PS_RESETTING) : c.serve io d m = (c.admitted d w, .retry) := by
  rw [← c.admitted_withinLimits d w, Chip.withinLimits_iff, Chip.admitted] at hl
  rw [← c.admitted_partState d w, Chip.admitted] at hr
  obtain ⟨hcounter, hsram⟩ := hl
  simp only [Chip.serve, h, hw, hcounter, hsram, hr, beq_self_eq_true, Bool.false_eq_true, if_false, if_true, Chip.admitted]

variable (hr : c.partState (c.getF (.win d w) R.WIN_CFG_PART) ≠ PS_RESETTING)
include hr

theorem Chip.serve_increment (h8 : m.opc = 8) : c.serve io d m =
    if c.syncRange (c.getF (.win d w) R.WIN_CFG_PART) ≤ m.addr % 2 ^ 14 then
      ((c.admitted d w).syncRangeErr d m.src m.part (m.addr % 2 ^ 14), .refuse COMP_SYNC_RANGE 6)
    else ((c.admitted d w).syncAdmit d (c.getF (.win d w) R.WIN_CFG_PART) m, .ok []) := by
  obtain ⟨hcounter, hsram, hstate⟩ := c.admitted_checks d w hl hr
  have hrange := c.admitted_syncRange d w (c.getF (.win d w) R.WIN_CFG_PART)
  rw [Chip.admitted] at hrange
  simp only [Chip.serve, h, hw, hcounter, hsram, hstate, hrange, Bool.false_eq_true, if_false, Chip.admitted]
  rw [if_pos h8]

theorem Chip.serve_read (h1 : m.opc = 1) :
    let r := (c.admitted d w).agentReadIo io ⟨some (c.getF (.win d w) R.WIN_CFG_PART), d⟩ m.addr m.len
    (r.2.1 = COMP_OK → c.serve io d m = (r.1, .ok r.2.2)) ∧
      (r.2.1 ≠ COMP_OK → (c.serve io d m).1 = r.1 ∧ ∃ k, (c.serve io d m).2 = .refuse r.2.1 k) := by
  obtain ⟨hcounter, hsram, hstate⟩ := c.admitted_checks d w hl hr
  have h8 : m.opc ≠ 8 := by omega
  simp only [Chip.serve, h, hw, hcounter, hsram, hstate, Bool.false_eq_true, if_false, Chip.admitted]
  rw [if_neg h8, if_pos h1]
  refine ⟨fun hok => by rw [if_pos hok], fun hbad => ?_⟩
  rw [if_neg hbad]
  exact ⟨rfl, _, rfl⟩

theorem Chip.serve_write (h2 : m.opc = 2) :
    let r := (c.admitted d w).agentWriteIo io ⟨some (c.getF (.win d w) R.WIN_CFG_PART), d⟩ m.addr (ones m.len) (m.data.take m.len)
    (r.2 = COMP_OK → c.serve io d m = (r.1, .ok [])) ∧
      (r.2 ≠ COMP_OK → (c.serve io d m).1 = r.1 ∧ ∃ k, (c.serve io d m).2 = .refuse r.2 k) := by
  obtain ⟨hcounter, hsram, hstate⟩ := c.admitted_checks d w hl hr
  have h8 : m.opc ≠ 8 := by omega
  have h1 : m.opc ≠ 1 := by omega
  simp only [Chip.serve, h, hw, hcounter, hsram, hstate, Bool.false_eq_true, if_false, Chip.admitted]
  rw [if_neg h8, if_neg h1]
  refine ⟨fun hok => by rw [if_pos hok], fun hbad => ?_⟩
  rw [if_neg hbad]
  exact ⟨rfl, _, rfl⟩

end
end

/-- An increment reaches no register through an agent's access (R340). -/
theorem Chip.serve_io_of_increment {c : Chip} {m : Msg} (io io' : RegIo) (d : Nat) (h8 : m.opc = 8) : c.serve io d m = c.serve io' d m := by
  simp only [Chip.serve, h8, if_true]

/-! Refusals (R281, R341). -/

@[simp] theorem Chip.winDenied_mem (c : Chip) (d : Nat) (m : Msg) : (c.winDenied d m).mem = c.mem := by
  unfold Chip.winDenied
  split <;> simp [Chip.syncErr]

theorem Chip.winDenied_on_jlk (c : Chip) (d : Nat) (m : Msg) : (c.winDenied d m).on (.jlk d) St.JLK_WIN_DENIED.flag = true := by
  have hraised : (c.raise (.jlk d) St.JLK_WIN_DENIED).getF (.jlk d) St.JLK_WIN_DENIED.flag = 1 :=
    c.getF_raise_flag rfl (fkey_ne_of_place _ (by decide))
  have hkey (f : Field) (ho : f.off < 0x100) (hl : f.lsb < 64) : fkey (.jlk d) St.JLK_WIN_DENIED.flag ≠ fkey (.syncd d) f := by
    simp only [fkey, Blk.base, dieSpan, St.JLK_WIN_DENIED, R.JLK_STATUS_WIN_DENIED]
    omega
  have hlast : (c.winDenied d m).getF (.jlk d) St.JLK_WIN_DENIED.flag = 1 := by
    unfold Chip.winDenied
    dsimp only
    split
    · rw [Chip.syncErr, Chip.getF_setFs_of_ne, Chip.getF_raise_of_ne, hraised]
      · exact hkey _ (by decide) (by decide)
      · exact hkey _ (by decide) (by decide)
      · simp only [List.mem_cons, List.not_mem_nil, or_false, forall_eq_or_imp, forall_eq]
        exact ⟨hkey _ (by decide) (by decide), hkey _ (by decide) (by decide), hkey _ (by decide) (by decide)⟩
    · exact hraised
  rw [Chip.on, hlast]
  rfl

theorem Chip.winDenied_on_syncd (c : Chip) (d : Nat) {m : Msg} (h8 : m.opc = 8) :
    (c.winDenied d m).on (.syncd d) St.SYNCD_REMOTE_DENIED.flag = true := by
  have hlast : (c.winDenied d m).getF (.syncd d) St.SYNCD_REMOTE_DENIED.flag = 1 := by
    unfold Chip.winDenied
    rw [if_pos h8, Chip.syncErr, Chip.getF_setFs_of_ne, Chip.getF_raise_flag _ rfl (fkey_ne_of_place _ (by decide))]
    simp only [List.mem_cons, List.not_mem_nil, or_false, forall_eq_or_imp, forall_eq]
    exact ⟨fkey_ne_of_place _ (by decide), fkey_ne_of_place _ (by decide), fkey_ne_of_place _ (by decide)⟩
  rw [Chip.on, hlast]
  rfl

/-! The way of a request to its place (R342). -/

/-- The device with a request on its way over the network on chip; an increment's way is that of its update (R283). -/
def Chip.reached (c : Chip) (d : Nat) (m : Msg) : Chip :=
  if m.opc = 8 then c else c.nocCross d (c.dieOf m.addr) (nocToUnit (c.dieOf m.addr)) m.vc m.nocFlits

section
variable (c : Chip) (d : Nat) (m : Msg)

theorem Chip.reached_eq : ∃ x, c.reached d m = { c with noc := x } := by
  unfold Chip.reached
  split
  · exact ⟨c.noc, rfl⟩
  · exact c.nocCross_eq _ _ _ _ _

theorem Chip.reached_getF (b : Blk) (f : Field) : (c.reached d m).getF b f = c.getF b f := by
  obtain ⟨x, hx⟩ := c.reached_eq d m
  rw [hx]
  rfl
theorem Chip.reached_on (b : Blk) (f : Field) : (c.reached d m).on b f = c.on b f := by rw [Chip.on, c.reached_getF, Chip.on]
theorem Chip.reached_mem : (c.reached d m).mem = c.mem := by
  obtain ⟨x, hx⟩ := c.reached_eq d m
  rw [hx]
theorem Chip.reached_partState (p : Nat) : (c.reached d m).partState p = c.partState p := c.reached_getF d m _ _
theorem Chip.reached_syncRange (p : Nat) : (c.reached d m).syncRange p = c.syncRange p := c.reached_getF d m _ _
theorem Chip.reached_winAdmits (w : Nat) : (c.reached d m).winAdmits d w m = c.winAdmits d w m := by
  obtain ⟨x, hx⟩ := c.reached_eq d m
  rw [hx]
  rfl
theorem Chip.reached_withinLimits : (c.reached d m).withinLimits m ↔ c.withinLimits m := by
  obtain ⟨x, hx⟩ := c.reached_eq d m
  rw [hx]
  rfl
theorem Chip.reached_accessCode (ag : Agent) (write : Bool) (a n : Nat) : (c.reached d m).accessCode ag write a n = c.accessCode ag write a n := by
  obtain ⟨x, hx⟩ := c.reached_eq d m
  rw [hx]
  rfl

end

/-! What a device in each role does with a request (R403, R405). -/

section
variable {c : Chip} {io : RegIo} {d : Nat} {m : Msg}

theorem Chip.serveMsg_inService (h4 : c.getF .res R.RES_STATE_ROLE ≠ 4) (h2 : c.getF .res R.RES_STATE_ROLE ≠ 2) :
    c.serveMsg io d m = ((c.reached d m).serve io d m).1.reply d m ((c.reached d m).serve io d m).2 := by
  rw [← c.reached_getF d m, Chip.reached] at h4 h2
  simp only [Chip.serveMsg, Chip.reached]
  rw [if_neg h4, if_neg h2]

theorem Chip.serveMsg_fenced (h4 : c.getF .res R.RES_STATE_ROLE = 4) : c.serveMsg io d m = c.reached d m := by
  rw [← c.reached_getF d m, Chip.reached] at h4
  simp only [Chip.serveMsg, Chip.reached]
  rw [if_pos h4]

theorem Chip.serveMsg_loading (h2 : c.getF .res R.RES_STATE_ROLE = 2) (hs : c.recov.load.map (·.1) ≠ some m.src) :
    c.serveMsg io d m = ((c.reached d m).winDenied d m).reply d m (.refuse COMP_WINDOW_DENIED 1) := by
  have hload : (c.reached d m).recov = c.recov := by
    obtain ⟨x, hx⟩ := c.reached_eq d m
    rw [hx]
  rw [← c.reached_getF d m, Chip.reached] at h2
  rw [← hload, Chip.reached] at hs
  simp only [Chip.serveMsg, Chip.reached]
  rw [if_neg (by omega), if_pos h2, if_neg (by tauto)]

theorem Chip.serveMsg_io_of_increment (io io' : RegIo) (h8 : m.opc = 8) : c.serveMsg io d m = c.serveMsg io' d m := by
  simp only [Chip.serveMsg, Chip.serve_io_of_increment io io' _ h8]

end

/-- A read of on-chip memory that is allowed answers the bytes there and leaves memory. -/
theorem Chip.agentReadIo_sram {c : Chip} (io : RegIo) {ag : Agent} {a n : Nat} (h : c.accessCode ag false a n = COMP_OK) (hl : isLpddr a = false)
    (hr : ∀ d off, placeOf a ≠ .regs d off) : c.agentReadIo io ag a n = (c.noteSram a n, COMP_OK, c.mem.readN a n) := by
  rw [Chip.agentReadIo, if_pos h, Chip.serveOlder_quiet (fun hlp => absurd hlp (by simp [hl])), Chip.readBy_sram io h hl hr, Chip.locBytes, if_neg (by simp [hl])]

/-! The commands. -/

theorem exec_rd {s : State} (hup : s.up) (p : Fin 24) : exec (.rd p) s = s.goes (s.chip.rdMsg regIo p).after := by
  have harm : exec (.rd p) s = execRd p s := rfl
  rw [harm, execRd, State.onMc_up _ hup]

theorem exec_wr {s : State} (hup : s.up) (p : Fin 24) : exec (.wr p) s = s.goes (s.chip.wrMsg regIo p).after := by
  have harm : exec (.wr p) s = execWr p s := rfl
  rw [harm, execWr, State.onMc_up _ hup]

theorem exec_syncInc {s : State} (hup : s.up) (p : Fin 24) : exec (.syncInc p) s = s.goes (s.chip.syncIncMsg p).after := by
  have harm : exec (.syncInc p) s = execSyncInc p s := rfl
  rw [harm, execSyncInc, State.onMc_up _ hup]

/-- The request that is next at a port, by the opcode that a command takes; one that a session holds waits, but for an increment (R311). -/
def Chip.requestAt (c : Chip) (p opc : Nat) (d : Chip) (m : Msg) : Prop := c.arrives p (fun x => x.opc == opc && (opc == 8 || !c.msgHeld x)) d m

theorem Chip.requestAt_unheld {c d : Chip} {p opc : Nat} {m : Msg} (h : c.requestAt p opc d m) (h8 : (opc == 8) = false) :
    c.arrives p (fun x => x.opc == opc && !c.msgHeld x) d m := by
  simpa only [Chip.requestAt, h8, Bool.false_or] using h

section
variable {s : State} {p : Fin 24} {d : Chip} {m : Msg}

theorem exec_rd_arrives (hup : s.up) (h : s.chip.requestAt p 1 d m) :
    exec (.rd p) s = s.goes ((d.serveMsg regIo (portDie p) m).idleOut p 8).after := by
  rw [exec_rd hup, Chip.rdMsg, Chip.takeMsg_arrives _ (Chip.requestAt_unheld h rfl)]

theorem exec_wr_arrives (hup : s.up) (h : s.chip.requestAt p 2 d m) (hv : m.vc ≠ 4) :
    exec (.wr p) s = s.goes ((d.serveMsg regIo (portDie p) m).idleOut p 8).after := by
  rw [exec_wr hup, Chip.wrMsg, Chip.takeMsg_arrives _ (Chip.requestAt_unheld h rfl)]
  simp only [bne_iff_ne.mpr hv, if_true]

theorem exec_syncInc_arrives (hup : s.up) (h : s.chip.requestAt p 8 d m) :
    exec (.syncInc p) s = s.goes ((d.serveMsg plainIo (portDie p) m).idleOut p 8).after := by
  have h : s.chip.arrives p (fun x => x.opc == 8) d m := by simpa [Chip.requestAt] using h
  rw [exec_syncInc hup, Chip.syncIncMsg, Chip.takeMsg_arrives _ h]

theorem exec_wr_switching (hup : s.up) (h : s.chip.requestAt p 2 d m) (hv : m.vc = 4) (hsw : d.on .layout R.LAYOUT_SWITCHING = true) :
    exec (.wr p) s = s.goes ((d.reply (portDie p) m .retry).idleOut p 8).after := by
  rw [exec_wr hup, Chip.wrMsg, Chip.takeMsg_arrives _ (Chip.requestAt_unheld h rfl)]
  simp only [hv, bne_self_eq_false, hsw, Bool.false_eq_true, if_false, if_true]

theorem exec_wr_cabinet (hup : s.up) (h : s.chip.requestAt p 2 d m) (hv : m.vc = 4) (hsw : d.on .layout R.LAYOUT_SWITCHING = false) {j : Nat}
    (hj : d.cabAdmits m = some j) : exec (.wr p) s = s.goes (((d.cabAccept j m).reply (portDie p) m (.ok [])).idleOut p 8).after := by
  rw [exec_wr hup, Chip.wrMsg, Chip.takeMsg_arrives _ (Chip.requestAt_unheld h rfl)]
  simp only [hv, bne_self_eq_false, hsw, hj, Bool.false_eq_true, if_false]

end

/-- The window that admits a request is one of the die's 256. -/
theorem Chip.window_lt {c : Chip} {d w : Nat} {m : Msg} (hw : (upto 256).find? (fun w => c.winAdmits d w m) = some w) : w < 256 := by
  simpa [upto] using List.mem_of_find?_eq_some hw

/-- Settles O47: the request is followed from its port to its place, and there through the checks of R342 in their order. -/
theorem windowsServeRequests : Obligations.WindowsServeRequests := by
  unfold Obligations.WindowsServeRequests
  intro s p d m opc hup harr hopc die
  subst hopc
  intro e z denied answers
  have hreq (o : Nat) (ho : m.opc = o) : s.chip.requestAt p o d m := ho ▸ harr
  have hanswers {f : Chip} (hf : d.serveMsg regIo die m = f) : answers f := by
    refine ⟨fun h1 => ?_, fun h2 hv => ?_, fun h8 => ?_⟩
    · rw [exec_rd_arrives hup (hreq 1 h1), hf]
    · rw [exec_wr_arrives hup (hreq 2 h2) hv, hf]
    · rw [exec_syncInc_arrives hup (hreq 8 h8), Chip.serveMsg_io_of_increment plainIo regIo h8, hf]
  have hz : (d.reached die m).serve regIo die m = z := rfl
  have hdenied {x : Chip} {r : Nat} (hx : z = (x.winDenied die m, .refuse COMP_WINDOW_DENIED r)) (hm : x.mem = d.mem) : denied r := by
    refine ⟨congrArg Prod.snd hx, ?_, ?_, fun h8 => ?_⟩ <;> rw [hx]
    · exact x.winDenied_on_jlk die m
    · exact (x.winDenied_mem die m).trans hm
    · exact x.winDenied_on_syncd die h8
  have hlayout := d.reached_on die m .layout R.LAYOUT_SWITCHING
  have hfind : (upto 256).find? (fun w => (d.reached die m).winAdmits die w m) = (upto 256).find? (fun w => d.winAdmits die w m) := by
    simp only [Chip.reached_winAdmits]
  have hcounted (w : Nat) : ((d.reached die m).admitted die w).mem = d.mem := d.reached_mem die m
  refine ⟨fun h4 h2 => ?_, fun h4 => ?_, fun h2 hs => ?_, fun h2 hv => ⟨fun hsw => ?_, fun hsw j hj => ?_⟩, fun hsw => ?_, fun hsw => ⟨fun hno => ?_, fun w hw => ?_⟩⟩
  · exact hanswers (Chip.serveMsg_inService h4 h2)
  · exact hanswers (Chip.serveMsg_fenced h4)
  · exact hanswers (Chip.serveMsg_loading h2 hs)
  · exact exec_wr_switching hup (hreq 2 h2) hv hsw
  · exact exec_wr_cabinet hup (hreq 2 h2) hv hsw hj
  · exact Chip.serve_switching (hlayout.trans hsw)
  · refine hdenied (x := d.reached die m) (hz.symm.trans (Chip.serve_unadmitted (hlayout.trans hsw) ?_)) (d.reached_mem die m)
    rw [hfind, List.find?_eq_none]
    exact fun w hw => Bool.eq_false_iff.mp (hno w (List.mem_range.mp hw))
  · intro part n sram
    have hlt := Chip.window_lt hw
    have hsw := hlayout.trans hsw
    have hw := hfind.trans hw
    have hpart : (d.reached die m).getF (.win die w) R.WIN_CFG_PART = part := d.reached_getF die m _ _
    have hstate : (d.reached die m).partState ((d.reached die m).getF (.win die w) R.WIN_CFG_PART) = d.partState part := by
      rw [hpart, Chip.reached_partState]
    have hlimits : (d.reached die m).withinLimits m ↔ sram := d.reached_withinLimits die m
    refine ⟨fun hl => ?_, fun hl hr => ?_, fun hl hr => ?_⟩
    · exact hdenied (Chip.serve_beyond hsw hw (hlimits.not.mpr hl)) (hcounted w)
    · exact Chip.serve_resetting hsw hw (hlimits.mpr hl) (hstate.trans hr)
    have hl := hlimits.mpr hl
    have hr : (d.reached die m).partState ((d.reached die m).getF (.win die w) R.WIN_CFG_PART) ≠ PS_RESETTING := hstate ▸ hr
    refine ⟨fun h1 => ?_, fun h2 => ?_, fun h8 => ?_⟩
    · intro r
      obtain ⟨hok, hbad⟩ := hpart ▸ Chip.serve_read (io := regIo) hsw hw hl hr h1
      refine ⟨hok, hbad, fun hcode hlp hplace => ?_⟩
      have hcode : n.accessCode ⟨some part, die⟩ false m.addr m.len = COMP_OK :=
        (Chip.admitted_accessCode _ _ _ hlt _ _ _ hlp).trans ((d.reached_accessCode _ _ _ _ _ _).trans hcode)
      have hread : r = (n.noteSram m.addr m.len, COMP_OK, n.mem.readN m.addr m.len) := Chip.agentReadIo_sram regIo hcode hlp hplace
      have hmem : n.mem = d.mem := hcounted w
      have hserved : z = (n.noteSram m.addr m.len, .ok (d.mem.readN m.addr m.len)) := by
        rw [← hz, hok (congrArg (·.2.1) hread), ← hmem]
        exact congrArg (fun r => (r.1, Served.ok r.2.2)) hread
      rw [hserved]
      exact ⟨rfl, (n.noteSram_mem m.addr m.len).trans hmem⟩
    · exact hpart ▸ Chip.serve_write (io := regIo) hsw hw hl hr h2
    · have hserve := hpart ▸ Chip.serve_increment (io := regIo) hsw hw hl hr h8
      rw [Chip.reached_syncRange] at hserve
      refine ⟨fun hin => ?_, fun hout => ?_⟩
      · rwa [if_neg (by omega)] at hserve
      · rwa [if_pos hout] at hserve

end Sys2Proof.Machine
end

section
/-! SUPPORT and certificates. Reads of register space by MEM_READ (R25, R283): the request reaches its die over the network, which the statement of the memory
requests leaves out. -/

namespace Sys2Proof.Machine

/-! What a read of register space does. -/

/-- Register space lies above LPDDR6 (R23). -/
theorem isLpddr_of_regs {a d off : Nat} (h : placeOf a = .regs d off) : isLpddr a = false := by
  by_contra hl
  have hlp : a < 0xFC00000000 := by simpa [isLpddr] using hl
  rw [placeOf, if_pos hlp] at h
  exact Place.noConfusion h

/-- An allowed read of register space answers with the value that the register access gives, and leaves what that leaves. -/
theorem Chip.readBy_regs {c : Chip} (io : RegIo) {ag : Agent} {a n d off : Nat} (h : c.accessCode ag false a n = COMP_OK) (hr : placeOf a = .regs d off) :
    c.readBy io ag a n = ((io.read c d off n).1, COMP_OK, leBytes n (io.read c d off n).2) := by
  simp only [Chip.readBy, h, bne_self_eq_false, isLpddr_of_regs hr, hr, Bool.false_eq_true, if_false]

theorem exec_memRead {s : State} (hup : s.up) (ag : Agent) (cls : Fin 4) (addr : BitVec 48) (len : Fin 129) :
    exec (.memRead ag cls addr len []) s =
      s.goes (s.chip.memRequest regIo [] ⟨ag, cls, false, addr.toNat, List.replicate len 0, 0, false, false⟩).after := by
  have harm : exec (.memRead ag cls addr len []) s = execMemRead ag cls addr len [] s := rfl
  rw [harm, execMemRead, State.onMc_up _ hup]

/-- A request outside LPDDR6 that is allowed and meets no resetting partition is performed at once (R301, R306). -/
theorem Chip.memRequest_sram {c : Chip} (io : RegIo) {r : MemReq} (hsome : 0 < r.bytes.length) (hfits : r.bytes.length ≤ 128)
    (hretry : c.retryAt r.agent r.addr = false) (hcode : c.accessCode r.agent r.write r.addr r.bytes.length = COMP_OK) (hl : isLpddr r.addr = false) :
    c.memRequest io [] r = c.perform io r := by
  have hsize : (decide (r.bytes.length = 0) || decide (128 < r.bytes.length)) = false := by
    simp only [Bool.or_eq_false_iff, decide_eq_false_iff_not]
    omega
  have holder : c.serveOlder r.addr r.bytes.length = c := Chip.serveOlder_quiet (fun h => absurd (hl.symm.trans h) Bool.false_ne_true)
  simp only [Chip.memRequest, Chip.addFaults, forAll_nil, hsize, hretry, hcode, hl, holder, Bool.or_false, Bool.false_eq_true, if_false,
    bne_self_eq_false, Bool.false_and]

/-- MEM_READ of register space is the register access of the chip whose network has taken the two management flits to the register's die (R283). -/
theorem exec_memRead_regs {s : State} (hup : s.up) {ag : Agent} (cls : Fin 4) {addr : BitVec 48} {len : Fin 129} {d off : Nat} (hlen : 0 < len.val)
    (hretry : s.chip.retryAt ag addr.toNat = false) (hcode : s.chip.accessCode ag false addr.toNat len = COMP_OK) (hr : placeOf addr.toNat = .regs d off) :
    let z := (s.chip.nocHop (nocToUnit d) 5 2).regRead d off len
    exec (.memRead ag cls addr len []) s = s.goes ({ z.1 with out := z.1.out ++ [.memResp COMP_OK (leBytes len z.2)] } : Chip).after := by
  have hn : (List.replicate len.val (0 : Byte)).length = len := List.length_replicate
  rw [exec_memRead hup, Chip.memRequest_sram regIo (by simpa only [hn] using hlen) (by have := len.isLt; dsimp only; omega) hretry
    (hn.symm ▸ hcode) (isLpddr_of_regs hr), Chip.perform, if_neg Bool.false_ne_true]
  dsimp only
  rw [hn, Chip.readBy_regs regIo hcode hr]
  rfl

/-! Where the statement fails. -/

/-- The module at reset, once power-on reset has been released: its network holds no flit. -/
def releasedState : State := { State.reset with chip := { State.reset.chip with por := false } }

/-- A register of D2 among the local addresses, aligned for an access of 8 bytes. -/
def regAddr : BitVec 48 := 0x01F200828C20

theorem placeOf_regAddr : placeOf regAddr.toNat = .regs 2 0x828C20 := by decide +kernel

/-- The MC of D0 may read it. -/
theorem released_mayRead : releasedState.chip.retryAt mcAgent regAddr.toNat = false ∧
    releasedState.chip.accessCode mcAgent false regAddr.toNat (8 : Fin 129) = COMP_OK := by decide +kernel

/-- After the command the port of D2 toward its units holds the read's two management flits; the register access alone puts none in the network. -/
theorem readFlits_differ :
    let z := (releasedState.chip.nocHop (nocToUnit 2) 5 2).regRead 2 0x828C20 (8 : Fin 129)
    let w := releasedState.chip.regRead 2 0x828C20 (8 : Fin 129)
    ({ z.1 with out := z.1.out ++ [.memResp COMP_OK (leBytes (8 : Fin 129) z.2)] } : Chip).after.noc.map (fun e => (e.1, e.2.use)) =
      [(nocToUnit 2, [0, 0, 0, 0, 0, 2])] ∧
    ({ w.1 with out := w.1.out ++ [.memResp COMP_OK (leBytes (8 : Fin 129) w.2)] } : Chip).after.noc = [] := by decide +kernel

/-- Refutes O40: its clause on register space has MEM_READ leave exactly what the register access leaves, but the read comes over the network of the
register's die, whose port then holds the message's two management flits (`exec_memRead_regs`). At `releasedState` the MC of D0 reads 8 bytes at `regAddr`. -/
theorem not_memoryRequestsComplete : ¬ Obligations.MemoryRequestsComplete := by
  unfold Obligations.MemoryRequestsComplete
  intro h
  have hup : releasedState.up := rfl
  obtain ⟨hretry, hcode⟩ := released_mayRead
  have hclaim := (((h releasedState mcAgent 0 regAddr hup).2 hretry).1 8 (by decide) hcode).2 2 0x828C20 placeOf_regAddr
  have hdone := exec_memRead_regs hup 0 (len := 8) (by decide) hretry hcode placeOf_regAddr
  obtain ⟨hflits, hnone⟩ := readFlits_differ
  have hsame := congrArg Chip.noc (State.goes_inj (hdone.symm.trans hclaim))
  rw [hnone] at hsame
  rw [hsame] at hflits
  exact absurd hflits (by decide)

end Sys2Proof.Machine
end

section
/-! SUPPORT. What the operations of the rally sequencer leave alone (R34-R66, R155, R170-R172): the sequencers' and the queues' own state past
the updates of other units, and the registers that a placement does not write. -/

namespace Sys2Proof.Machine

/-! The state of the sequencers and of the queues. -/

/-- `d` has the rally sequencers and the work queues of `c`. -/
structure Chip.SameWalks (c d : Chip) : Prop where
  rseqs : d.rseqs = c.rseqs
  queues : d.queues = c.queues

theorem Chip.SameWalks.refl (c : Chip) : c.SameWalks c := ⟨rfl, rfl⟩
theorem Chip.SameWalks.trans {c d e : Chip} (h : c.SameWalks d) (h' : d.SameWalks e) : c.SameWalks e :=
  ⟨h'.rseqs.trans h.rseqs, h'.queues.trans h.queues⟩
theorem Chip.SameWalks.step {c d e : Chip} (h : d.SameWalks e) (h' : c.SameWalks d) : c.SameWalks e := h'.trans h

theorem Chip.SameWalks.rseqOf {c d : Chip} (h : c.SameWalks d) (cl : Nat) : d.rseqOf cl = c.rseqOf cl := by rw [Chip.rseqOf, h.rseqs, Chip.rseqOf]
theorem Chip.SameWalks.queueOf {c d : Chip} (h : c.SameWalks d) (n : Nat) : d.queueOf n = c.queueOf n := by rw [Chip.queueOf, h.queues, Chip.queueOf]

theorem Chip.Traces.sameWalks {c d : Chip} (h : c.Traces d) : c.SameWalks d := by
  obtain ⟨_, _, _, _, _, _, _, _, rfl⟩ := h
  exact ⟨rfl, rfl⟩

theorem forAll_sameWalks {α : Type} (l : List α) (c : Chip) (f : Chip → α → Chip) (h : ∀ (c : Chip) a, c.SameWalks (f c a)) :
    c.SameWalks (forAll l c f) :=
  ⟨forAll_keeps Chip.rseqs l c f (fun c a => (h c a).rseqs), forAll_keeps Chip.queues l c f (fun c a => (h c a).queues)⟩

/-! Registers of a placement leave traces in registers and in the windows' tiles. -/

theorem Chip.setCmGrant_traces (c : Chip) (cl q base size carry : Nat) : c.Traces (c.setCmGrant cl q base size carry) := c.setFs_traces _ _
theorem Chip.setSpGrant_traces (c : Chip) (cl k : Nat) (high : Bool) (base size : Nat) : c.Traces (c.setSpGrant cl k high base size) := c.setFs_traces _ _
theorem Chip.setPoolRegs_traces (c : Chip) (cl : Nat) : c.Traces (c.setPoolRegs cl) := c.setFs_traces _ _
theorem Chip.rsErr_traces (c : Chip) (cl reason rally step mb : Nat) : c.Traces (c.rsErr cl reason rally step mb) := c.setFs_traces _ _

theorem Chip.setWin_traces (c : Chip) (cl k : Nat) (high : Bool) (base count : Nat) : c.Traces (c.setWin cl k high base count) := by
  unfold Chip.setWin
  dsimp only
  split
  · exact (c.setFs_traces _ _).trans ⟨_, _, _, _, _, _, _, _, rfl⟩
  · exact c.setFs_traces _ _

theorem Chip.outsideWin_traces (c : Chip) (cl k : Nat) : c.Traces (c.outsideWin cl k) := by
  have hzero := (c.setWin_traces cl k false 0 0).trans (Chip.setWin_traces _ cl k true 0 0)
  unfold Chip.outsideWin
  dsimp only
  split
  · exact hzero.trans (Chip.setWin_traces _ _ _ _ _ _)
  · exact hzero.trans (Chip.setWin_traces _ _ _ _ _ _)

theorem Chip.clearGrants_traces (c : Chip) (cl : Nat) : c.Traces (c.clearGrants cl) :=
  (forAll_traces _ c _ fun c _ => c.setCmGrant_traces _ _ _ _ _).trans
    (forAll_traces _ _ _ fun c _ => ((c.setSpGrant_traces _ _ _ _ _).trans (Chip.setSpGrant_traces _ _ _ _ _ _)).trans (Chip.outsideWin_traces _ _ _))

/-! Shelves, waits, messages and descriptors. -/

theorem Chip.setShelf_sameWalks (c : Chip) (r : ShelfRef) (s : Shelf) : c.SameWalks (c.setShelf r s) := by
  unfold Chip.setShelf
  split
  · exact .refl c
  · exact ⟨rfl, rfl⟩

theorem Chip.closeStaging_sameWalks (c : Chip) (cl : Nat) : c.SameWalks (c.closeStaging cl) :=
  forAll_sameWalks _ _ _ fun c _ => c.setShelf_sameWalks _ _

theorem Chip.openStaging_sameWalks (c : Chip) (cl : Nat) (h : List Byte) : c.SameWalks (c.openStaging cl h) :=
  forAll_sameWalks _ _ _ fun c _ => c.setShelf_sameWalks _ _

theorem Chip.ownChannels_sameWalks (c : Chip) (cl : Nat) (own : Bool) : c.SameWalks (c.ownChannels cl own) :=
  forAll_sameWalks _ _ _ fun _ _ => ⟨rfl, rfl⟩

theorem Chip.seedWait_sameWalks (c : Chip) (cl mb : Nat) : c.SameWalks (c.seedWait cl mb) := by
  unfold Chip.seedWait
  dsimp only
  split <;> exact ⟨rfl, rfl⟩

theorem Chip.nocCross_sameWalks (c : Chip) (d e out k n : Nat) : c.SameWalks (c.nocCross d e out k n) := by
  obtain ⟨x, hx⟩ := c.nocCross_eq d e out k n
  rw [hx]
  exact ⟨rfl, rfl⟩

/-- Wake messages change what the network holds, and no more (R278, R283). -/
theorem Chip.wakeMsgs_eq (c : Chip) (i : Nat) : ∃ x, c.wakeMsgs i = { c with noc := x } := by
  unfold Chip.wakeMsgs
  generalize c.waits.filter _ = l
  induction l generalizing c with
  | nil => exact ⟨_, rfl⟩
  | cons w l ih =>
    obtain ⟨x, hx⟩ := c.nocCross_eq (i / 4096) w.who.die (nocToUnit w.who.die) 3 1
    obtain ⟨y, hy⟩ := ih { c with noc := x }
    exact ⟨y, by rw [List.foldl_cons, hx, hy]⟩

theorem Chip.wakeMsgs_sameWalks (c : Chip) (i : Nat) : c.SameWalks (c.wakeMsgs i) := by
  obtain ⟨x, hx⟩ := c.wakeMsgs_eq i
  rw [hx]
  exact ⟨rfl, rfl⟩

theorem Chip.syncRangeErr_traces (c : Chip) (die src p n : Nat) : c.Traces (c.syncRangeErr die src p n) :=
  (c.raise_traces _ _).trans (Chip.setFs_traces _ _ _)

theorem Chip.syncAdd_sameWalks (c : Chip) (i k src p : Nat) : c.SameWalks (c.syncAdd i k src p) := by
  have hstore (d : Chip) (v : Nat) : d.SameWalks (d.syncStore i v) :=
    .trans (d := (d.setF (.sync i) R.SYNC_VALUE v).addF (.syncd (i / 4096)) R.SYNCD_UPDATES 1) ⟨rfl, rfl⟩
      ((Chip.wakeMsgs_sameWalks _ i).trans ⟨rfl, rfl⟩)
  unfold Chip.syncAdd
  dsimp only
  split
  · exact (((c.raise_traces _ _).trans (Chip.setFs_traces _ _ _)).sameWalks).trans (hstore _ _)
  · exact hstore _ _

theorem Chip.syncInc_sameWalks (c : Chip) (die p n k : Nat) : c.SameWalks (c.syncInc die p n k).1 := by
  unfold Chip.syncInc
  dsimp only
  split
  · exact (c.nocCross_sameWalks _ _ _ _ _).trans (Chip.syncAdd_sameWalks _ _ _ _ _)
  · exact (c.syncRangeErr_traces _ _ _ _).sameWalks

theorem Chip.setChan_sameWalks (c : Chip) (cl n : Nat) (h : DmaCh) : c.SameWalks (c.setChan cl n h) := ⟨rfl, rfl⟩

theorem Chip.dmaTake_sameWalks (c : Chip) (cl n serial idx part : Nat) (b : List Byte) : c.SameWalks (c.dmaTake cl n serial idx part b) := by
  unfold Chip.dmaTake
  extract_lets d add counters
  have hadd (e : Chip) (x : DmaDesc) : e.SameWalks (add e x) := e.setChan_sameWalks _ _ _
  clear_value add
  split
  · exact (((c.raise_traces _ _).trans (Chip.setFs_traces _ _ _)).sameWalks).trans (hadd _ _)
  · split
    · exact ((c.syncRangeErr_traces _ _ _ _).sameWalks).trans (hadd _ _)
    · exact hadd _ _

theorem Chip.dmaFeed_sameWalks (c : Chip) (cl n : Nat) : c.SameWalks (c.dmaFeed cl n) := by
  unfold Chip.dmaFeed
  dsimp only
  split
  · split
    · exact .refl c
    · exact (c.setChan_sameWalks _ _ _).trans (Chip.dmaTake_sameWalks _ _ _ _ _ _ _)
  · exact .refl c

theorem Chip.dmaPost_sameWalks (c : Chip) (cl n part : Nat) (b : List Byte) : c.SameWalks (c.dmaPost cl n part b).1 :=
  (c.setChan_sameWalks _ _ _).trans (Chip.dmaFeed_sameWalks _ cl n)

theorem Chip.dmaPostAll_sameWalks (c : Chip) (cl n part : Nat) (l : List (List Byte)) : c.SameWalks (c.dmaPostAll cl n part l).1 := by
  induction l generalizing c with
  | nil => exact .refl c
  | cons b l ih => exact (c.dmaPost_sameWalks cl n part b).trans (ih _)

/-! The registers that a placement writes (R66, R88, R170, R171). -/

/-- Stores to the fields of a list leave every other field alone. -/
theorem Chip.getF_setFs_of_fields (c : Chip) {b b' : Blk} {f' : Field} {l : List (Field × Nat)} (h : ∀ g ∈ l.map Prod.fst, fkey b' f' ≠ fkey b g) :
    (c.setFs b l).getF b' f' = c.getF b' f' :=
  c.getF_setFs_of_ne l fun _ he => h _ (List.mem_map_of_mem he)

/-- Fields at different bits of a register have different keys, whatever their blocks. -/
theorem fkey_ne_of_lsb {b b' : Blk} {f f' : Field} (hf : f.lsb < 64) (hf' : f'.lsb < 64) (h : f.lsb ≠ f'.lsb) : fkey b f ≠ fkey b' f' := by
  simp only [fkey]
  omega

/-- The fields of the pool registers, of a quarter's commons grant, and of the shelf grant and the window at an end of a core. -/
def poolFields : List Field := [R.RSEQ_POOL_COMMONS_F_FREE, R.RSEQ_POOL_COMMONS_B_FREE, R.RSEQ_POOL_SHELF_F_FREE, R.RSEQ_POOL_SHELF_B_FREE]
def cmGrantFields (q : Nat) : List Field := [(cmGrant q).1, (cmGrant q).2.1, (cmGrant q).2.2]
def spGrantFields (high : Bool) : List Field := if high then [R.SP_GRANT_BASE1, R.SP_GRANT_SIZE1] else [R.SP_GRANT_BASE0, R.SP_GRANT_SIZE0]
def winFields (high : Bool) : List Field := if high then [R.ME_ACC_WIN_BASE1, R.ME_ACC_WIN_COUNT1] else [R.ME_ACC_WIN_BASE0, R.ME_ACC_WIN_COUNT0]

/-- The registers that follow the placement of the passes of cluster `cl`. -/
inductive Placement (cl : Nat) : Blk → Field → Prop
  | pool {f : Field} : f ∈ poolFields → Placement cl (.rseq cl) f
  | commons {f : Field} (q : Nat) : f ∈ cmGrantFields q → Placement cl (.cm cl) f
  | shelves {f : Field} (k : Nat) (high : Bool) : f ∈ spGrantFields high → Placement cl (.sp cl k) f
  | window {f : Field} (k : Nat) (high : Bool) : f ∈ winFields high → Placement cl (.me cl k) f

/-- Field `f` of block `b` is none of the registers that follow the placement of cluster `cl`. -/
def OffPlacement (cl : Nat) (b : Blk) (f : Field) : Prop := ∀ b' f', Placement cl b' f' → fkey b f ≠ fkey b' f'

section
variable {cl : Nat} {b : Blk} {f : Field}

theorem Chip.getF_setPoolRegs (c : Chip) (h : OffPlacement cl b f) : (c.setPoolRegs cl).getF b f = c.getF b f :=
  c.getF_setFs_of_fields fun _ hg => h _ _ (.pool hg)

theorem Chip.getF_setCmGrant (c : Chip) (q base size carry : Nat) (h : OffPlacement cl b f) :
    (c.setCmGrant cl q base size carry).getF b f = c.getF b f :=
  c.getF_setFs_of_fields fun _ hg => h _ _ (.commons q hg)

theorem Chip.getF_setSpGrant (c : Chip) (k : Nat) (high : Bool) (base size : Nat) (h : OffPlacement cl b f) :
    (c.setSpGrant cl k high base size).getF b f = c.getF b f := by
  cases high with
  | false => exact c.getF_setFs_of_fields fun _ hg => h _ _ (.shelves k false hg)
  | true => exact c.getF_setFs_of_fields fun _ hg => h _ _ (.shelves k true hg)

theorem Chip.getF_setWin (c : Chip) (k : Nat) (high : Bool) (base count : Nat) (h : OffPlacement cl b f) :
    (c.setWin cl k high base count).getF b f = c.getF b f := by
  have hclosed (d : Chip) : (if count = 0 then d.closeWindows cl k else d).getF b f = d.getF b f := by split <;> rfl
  refine (hclosed _).trans ?_
  cases high with
  | false => exact c.getF_setFs_of_fields fun _ hg => h _ _ (.window k false hg)
  | true => exact c.getF_setFs_of_fields fun _ hg => h _ _ (.window k true hg)

theorem Chip.getF_outsideWin (c : Chip) (k : Nat) (h : OffPlacement cl b f) : (c.outsideWin cl k).getF b f = c.getF b f := by
  unfold Chip.outsideWin
  dsimp only
  split <;> rw [Chip.getF_setWin _ _ _ _ _ h, Chip.getF_setWin _ _ _ _ _ h, Chip.getF_setWin _ _ _ _ _ h]

theorem Chip.getF_clearGrants (c : Chip) (h : OffPlacement cl b f) : (c.clearGrants cl).getF b f = c.getF b f := by
  refine (forAll_keeps (fun d : Chip => d.getF b f) _ _ _ fun d k => ?_).trans
    (forAll_keeps (fun d : Chip => d.getF b f) _ c _ fun d q => d.getF_setCmGrant _ _ _ _ h)
  rw [Chip.getF_outsideWin _ _ h, Chip.getF_setSpGrant _ _ _ _ _ h, Chip.getF_setSpGrant _ _ _ _ _ h]

end

/-- Where the placement's fields stand in their blocks. -/
theorem Placement.place {cl : Nat} {b : Blk} {f : Field} (h : Placement cl b f) : f.off < 0x20 ∧ f.lsb < 64 ∧ f.lsb ≠ R.PART_SYNC_RANGE_SIZE.lsb := by
  cases h with
  | pool hf => revert f; decide
  | commons q hf =>
    unfold cmGrantFields cmGrant at hf
    split at hf <;> (revert f; decide)
  | shelves k high hf => cases high <;> (revert f; decide)
  | window k high hf => cases high <;> (revert f; decide)

/-- The state of a sequencer lies below the blocks of its commons and of its cores, and before its pool registers. -/
theorem offPlacement_rseqState (cl : Nat) {f : Field} (hoff : f.off = 8) (hlsb : f.lsb < 64) : OffPlacement cl (.rseq cl) f := by
  intro b' f' h
  obtain ⟨ho, hl, -⟩ := h.place
  cases h with
  | pool hf =>
    have hpool : ∀ g ∈ poolFields, g.off = 0x18 := by decide
    have := hpool _ hf
    simp only [fkey, Blk.base, dieSpan]
    omega
  | commons q hf => simp only [fkey, Blk.base, dieSpan]; omega
  | shelves k high hf => simp only [fkey, Blk.base, dieSpan]; omega
  | window k high hf => simp only [fkey, Blk.base, dieSpan]; omega

theorem offPlacement_state (cl : Nat) : OffPlacement cl (.rseq cl) R.RSEQ_STATE := offPlacement_rseqState cl rfl (by decide)
theorem offPlacement_split (cl : Nat) : OffPlacement cl (.rseq cl) R.RSEQ_STATE_SPLIT := offPlacement_rseqState cl rfl (by decide)

/-- The size of a counter range begins at a bit at which no register of a placement does, for every partition number. -/
theorem offPlacement_syncRange (cl p : Nat) : OffPlacement cl (.part p) R.PART_SYNC_RANGE_SIZE := by
  intro b' f' h
  obtain ⟨-, hl, hne⟩ := h.place
  exact fkey_ne_of_lsb (by decide) hl hne.symm

/-! Counters (R277, R278). -/

/-- An increment writes registers of counters only. -/
theorem Chip.getF_syncInc (c : Chip) {b : Blk} {f : Field} (hs : ∀ i, ∀ g ∈ Tbl.SYNC, fkey b f ≠ fkey (.sync i) g)
    (hd : ∀ d, ∀ g ∈ Tbl.SYNCD, fkey b f ≠ fkey (.syncd d) g) (die p n k : Nat) : (c.syncInc die p n k).1.getF b f = c.getF b f := by
  have hcross (d : Chip) (x y o k n : Nat) : (d.nocCross x y o k n).getF b f = d.getF b f := by
    obtain ⟨z, hz⟩ := d.nocCross_eq x y o k n
    rw [hz]
    rfl
  have hwake (d : Chip) (i : Nat) : (d.wakeMsgs i).getF b f = d.getF b f := by
    obtain ⟨z, hz⟩ := d.wakeMsgs_eq i
    rw [hz]
    rfl
  have herr (d : Chip) (e n x p : Nat) {st : Status} (hf : st.flag ∈ Tbl.SYNCD) (hc : st.cnt ∈ Tbl.SYNCD) :
      ((d.raise (.syncd e) st).syncErr e n x p).getF b f = d.getF b f := by
    have herrs : ∀ g ∈ [R.SYNCD_ERR_COUNTER, R.SYNCD_ERR_SOURCE, R.SYNCD_ERR_PART], g ∈ Tbl.SYNCD := by decide
    refine (Chip.getF_setFs_of_fields _ fun g hg => ?_).trans (d.getF_raise_of_ne (hd _ _ hf) (hd _ _ hc))
    exact hd _ _ (herrs g hg)
  have hstore (d : Chip) (i v : Nat) : (d.syncStore i v).getF b f = d.getF b f := by
    rw [Chip.syncStore, Chip.latchWaits_getF, hwake, Chip.getF_addF_of_ne _ _ (hd _ _ (by decide)), Chip.getF_setF_of_ne _ _ (hs _ _ (by decide))]
  unfold Chip.syncInc
  dsimp only
  split
  · unfold Chip.syncAdd
    dsimp only
    split
    · rw [hstore, herr _ _ _ _ _ (by decide) (by decide), hcross]
    · rw [hstore, hcross]
  · exact herr _ _ _ _ _ (by decide) (by decide)

/-- The state of a sequencer lies below the counters. -/
@[simp] theorem Chip.rsState_syncInc (c : Chip) (cl die p n k : Nat) : (c.syncInc die p n k).1.rsState cl = c.rsState cl := by
  have hplace : ∀ g ∈ Tbl.SYNC ++ Tbl.SYNCD, g.off < 0x28 ∧ g.lsb < 64 := by decide
  have hstate : R.RSEQ_STATE.off = 8 ∧ R.RSEQ_STATE.lsb = 0 := by decide
  refine c.getF_syncInc (fun i g hg => ?_) (fun d g hg => ?_) die p n k
  · obtain ⟨ho, hl⟩ := hplace g (List.mem_append_left _ hg)
    simp only [fkey, Blk.base, dieSpan, hstate]
    omega
  · obtain ⟨ho, hl⟩ := hplace g (List.mem_append_right _ hg)
    simp only [fkey, Blk.base, dieSpan, hstate]
    omega

/-- A counter in the range takes its increment. -/
theorem Chip.syncInc_inRange {c : Chip} {p n : Nat} (h : n < c.syncRange p) (die k : Nat) : (c.syncInc die p n k).2 = COMP_OK := by
  unfold Chip.syncInc
  dsimp only
  rw [if_pos h]

end Sys2Proof.Machine
end

section
/-! SUPPORT and certificates. Loading and running a plan (R33, R34, R41, R43, R44). -/

namespace Sys2Proof.Machine

/-! RALLY_LOAD and RALLY_RUN in one cluster. -/

theorem Chip.rsState_setRs (c : Chip) (cl : Nat) {v : Nat} (h : v < 8) : (c.setRs cl v).rsState cl = v := by
  rw [Chip.rsState, Chip.setRs, Chip.getF_setF_self]
  exact Nat.mod_eq_of_lt h

@[simp] theorem Chip.rsState_setPoolRegs (c : Chip) (cl : Nat) : (c.setPoolRegs cl).rsState cl = c.rsState cl := c.getF_setPoolRegs (offPlacement_state cl)

@[simp] theorem Chip.rsState_seedWait (c : Chip) (cl mb x : Nat) : (c.seedWait cl mb).rsState x = c.rsState x := by
  unfold Chip.seedWait
  dsimp only
  split <;> rfl

theorem Chip.walking_of_running {c : Chip} {cl : Nat} (h : c.rsState cl = RS_RUNNING) : c.walking cl = true := by
  rw [Chip.walking, h]
  rfl

theorem Chip.rseqLoad_walking {c : Chip} {cl : Nat} (h : c.walking cl = true) (p base : Nat) :
    c.rseqLoad cl p base = (c.raise (.rseq cl) St.RSEQ_STATE_CONFLICT, COMP_STATE_CONFLICT) := by
  rw [Chip.rseqLoad, if_pos h]

/-- The sequencer that has loaded a valid plan for partition `p`: its records, and no pass. -/
def loadedRseq (r : PlanRecs) (p : Nat) : Rseq := { hdr := r.hdr, rallies := r.rallies, subs := r.subs, bsig := r.bsig, fwait := r.fwait, part := p }

theorem Chip.rseqLoad_valid {c : Chip} {cl p base : Nat} {r : PlanRecs} (hw : c.walking cl = false) (hv : c.validatePlan cl p base = .ok r) :
    (c.rseqLoad cl p base).2 = COMP_OK ∧ (c.rseqLoad cl p base).1.rsState cl = RS_LOADED ∧ (c.rseqLoad cl p base).1.rseqOf cl = loadedRseq r p := by
  simp only [Chip.rseqLoad, hw, hv, Bool.false_eq_true, if_false]
  refine ⟨trivial, ?_, ?_⟩
  · rw [Chip.rsState_setPoolRegs, Chip.rsState_setRs _ _ (by decide)]
  · rw [(Chip.setPoolRegs_traces _ _).sameWalks.rseqOf, Chip.setRs, Chip.rseqOf_setF, (Chip.clearGrants_traces _ _).sameWalks.rseqOf,
      Chip.rseqOf_setRseq_self]
    rfl

/-- A sequencer at the beginning of its walk. -/
def Rseq.begun (q : Rseq) : Rseq :=
  { q with passes := [], carries := [], fAdm := 0, bAdm := 0, fRet := [], bRet := [], splitDone := false, halt := none, cause := false, done := none,
           fwdPf := {}, bwdPf := {} }

/-- The cluster at the beginning of a walk, its windows closed. -/
def Chip.runBegun (c : Chip) (cl : Nat) : Chip :=
  ((forAll (upto 16) (c.setRseq cl (c.rseqOf cl).begun) (fun c k => (c.setWin cl k false 0 0).setWin cl k true 0 0)).setRs cl RS_RUNNING).setPoolRegs cl

theorem Chip.windowsClosed_traces (c : Chip) (cl : Nat) :
    c.Traces (forAll (upto 16) c (fun c k => (c.setWin cl k false 0 0).setWin cl k true 0 0)) :=
  forAll_traces _ _ _ fun c _ => (c.setWin_traces _ _ _ _ _).trans (Chip.setWin_traces _ _ _ _ _ _)

@[simp] theorem Chip.rsState_runBegun (c : Chip) (cl : Nat) : (c.runBegun cl).rsState cl = RS_RUNNING := by
  rw [Chip.runBegun, Chip.rsState_setPoolRegs, Chip.rsState_setRs _ _ (by decide)]

@[simp] theorem Chip.rseqOf_runBegun (c : Chip) (cl : Nat) : (c.runBegun cl).rseqOf cl = (c.rseqOf cl).begun := by
  rw [Chip.runBegun, (Chip.setPoolRegs_traces _ _).sameWalks.rseqOf, Chip.setRs, Chip.rseqOf_setF, (Chip.windowsClosed_traces _ _).sameWalks.rseqOf,
    Chip.rseqOf_setRseq_self]

theorem Chip.getF_windowsClosed (c : Chip) {cl : Nat} {b : Blk} {f : Field} (h : OffPlacement cl b f) :
    (forAll (upto 16) c (fun c k => (c.setWin cl k false 0 0).setWin cl k true 0 0)).getF b f = c.getF b f := by
  refine forAll_keeps (fun d : Chip => d.getF b f) _ c _ fun d k => ?_
  rw [Chip.getF_setWin _ _ _ _ _ h, Chip.getF_setWin _ _ _ _ _ h]

/-- The beginning of a walk leaves every counter range as it is. -/
@[simp] theorem Chip.syncRange_runBegun (c : Chip) (cl p : Nat) : (c.runBegun cl).syncRange p = c.syncRange p := by
  have hoff := offPlacement_syncRange cl p
  rw [Chip.runBegun, Chip.syncRange, Chip.getF_setPoolRegs _ hoff, Chip.setRs,
    Chip.getF_setF_of_ne _ _ (fkey_ne_of_lsb (by decide) (by decide) (by decide)), Chip.getF_windowsClosed _ hoff, Chip.setRseq_getF, Chip.syncRange]

/-- RALLY_RUN of a LOADED cluster: the walk begins, and it halts at once where its seed counter lies outside the range (R46, R277). -/
theorem Chip.rseqRun_loaded {c : Chip} {cl : Nat} (h : c.rsState cl = RS_LOADED) : c.rseqRun cl =
    if Hdr.bwd (c.rseqOf cl).hdr && c.syncRange (c.rseqOf cl).part ≤ Hdr.seedSync (c.rseqOf cl).hdr then
      ((c.runBegun cl).syncRangeErr (cl / 8) (c.runBegun cl).deviceId (c.rseqOf cl).part (Hdr.seedSync (c.rseqOf cl).hdr)).rseqHalt cl 0xF7 COMP_SYNC_RANGE 0 0 0
    else (c.runBegun cl).seedWait cl 0 := by
  rw [← c.syncRange_runBegun cl]
  unfold Chip.rseqRun
  rw [if_neg (by simp [h])]
  rfl

theorem Chip.rseqRun_inRange {c : Chip} {cl : Nat} (h : c.rsState cl = RS_LOADED)
    (hs : Hdr.bwd (c.rseqOf cl).hdr = false ∨ Hdr.seedSync (c.rseqOf cl).hdr < c.syncRange (c.rseqOf cl).part) :
    (c.rseqRun cl).rsState cl = RS_RUNNING ∧ (c.rseqRun cl).rseqOf cl = (c.rseqOf cl).begun := by
  have hrun : c.rseqRun cl = (c.runBegun cl).seedWait cl 0 := by
    rw [Chip.rseqRun_loaded h, if_neg]
    rcases hs with hs | hs
    · simp [hs]
    · simp [hs]
  rw [hrun, Chip.rsState_seedWait, (Chip.seedWait_sameWalks _ _ _).rseqOf, Chip.rsState_runBegun, Chip.rseqOf_runBegun]
  exact ⟨rfl, rfl⟩

/-! The queues while a plan is loaded or begins. -/

theorem Chip.noteReads_traces (c : Chip) (ag : Agent) (l : List (Nat × Nat)) : c.Traces (c.noteReads ag l) := c.readAll_traces ag l

@[simp] theorem Chip.rseqHalt_queues (c : Chip) (cl reason code rally step mb : Nat) : (c.rseqHalt cl reason code rally step mb).queues = c.queues := by
  unfold Chip.rseqHalt
  dsimp only
  split
  · rfl
  · rw [forAll_keeps Chip.queues _ _ _ (fun d x => by split <;> rfl)]
    simp only [(Chip.raiseIf_traces _ _ _ _).sameWalks.queues, (Chip.rsErr_traces _ _ _ _ _ _).sameWalks.queues, Chip.setRseq_queues]

@[simp] theorem Chip.rseqLoad_queues (c : Chip) (cl p base : Nat) : (c.rseqLoad cl p base).1.queues = c.queues := by
  unfold Chip.rseqLoad
  split
  · rfl
  split
  · exact (((c.noteReads_traces _ _).trans (Chip.raise_traces _ _ _)).trans (Chip.rsErr_traces _ _ _ _ _ _)).sameWalks.queues
  · dsimp only
    rw [(Chip.setPoolRegs_traces _ _).sameWalks.queues, Chip.setRs, Chip.setF_queues, (Chip.clearGrants_traces _ _).sameWalks.queues, Chip.setRseq_queues,
      Chip.setF_queues, (Chip.ownChannels_sameWalks _ _ _).queues, (Chip.openStaging_sameWalks _ _ _).queues]
    split
    · exact (c.noteReads_traces _ _).sameWalks.queues
    · exact ((c.noteReads_traces _ _).sameWalks.trans (Chip.closeStaging_sameWalks _ _)).queues

@[simp] theorem Chip.runBegun_queues (c : Chip) (cl : Nat) : (c.runBegun cl).queues = c.queues := by
  rw [Chip.runBegun, (Chip.setPoolRegs_traces _ _).sameWalks.queues, Chip.setRs, Chip.setF_queues, (Chip.windowsClosed_traces _ _).sameWalks.queues,
    Chip.setRseq_queues]

@[simp] theorem Chip.rseqRun_queues (c : Chip) (cl : Nat) : (c.rseqRun cl).queues = c.queues := by
  by_cases h : c.rsState cl = RS_LOADED
  · rw [Chip.rseqRun_loaded h]
    split
    · rw [Chip.rseqHalt_queues, (Chip.syncRangeErr_traces _ _ _ _ _).sameWalks.queues, Chip.runBegun_queues]
    · rw [(Chip.seedWait_sameWalks _ _ _).queues, Chip.runBegun_queues]
  · rw [Chip.rseqRun, if_pos (by simpa using h)]

/-! The queue entries. -/

/-- A queue command that leaves the queues alone marks its entry begun, with the code that it gives. -/
theorem Chip.wqStart_ends {c : Chip} {n op : Nat} {e : QEntry} (f : Chip → QEntry → Chip × Option Code) (he : (c.queueOf n).cur = some e)
    (ho : Wqe.op e.bs = op) (hs : e.started = false) (hc : e.code = none) (hq : (f c e).1.queues = c.queues) :
    c.wqStart n op f = (f c e).1.setQueue n { c.queueOf n with cur := some { e with started := true, code := (f c e).2 } } := by
  have hq : (f c e).1.queueOf n = c.queueOf n := by rw [Chip.queueOf, hq, Chip.queueOf]
  rw [Chip.wqStart_begins f he ho hs hc, hq, he]

theorem exec_rallyLoad {s : State} (hup : s.up) (n : Fin 64) : exec (.rallyLoad n) s = s.goes (s.chip.wqRallyLoad n) := by
  have harm : exec (.rallyLoad n) s = execRallyLoad n s := rfl
  rw [harm, execRallyLoad, State.onChip_up _ hup]

theorem exec_rallyRun {s : State} (hup : s.up) (n : Fin 64) : exec (.rallyRun n) s = s.goes (s.chip.wqRallyRun n) := by
  have harm : exec (.rallyRun n) s = execRallyRun n s := rfl
  rw [harm, execRallyRun, State.onChip_up _ hup]

/-- Settles O15: the queue entry is followed to the clusters, and in a cluster the sequencer past the registers that a placement writes. -/
theorem rallyQueueCommandsComplete : Obligations.RallyQueueCommandsComplete := by
  unfold Obligations.RallyQueueCommandsComplete
  refine ⟨fun s n e hup he hs hc => ?_, fun c cl p base => ⟨fun hw => Chip.rseqLoad_walking hw p base, fun r hw hv => Chip.rseqLoad_valid hw hv,
    fun hl hseed => Chip.rseqRun_inRange hl hseed⟩⟩
  intro c q p load
  refine ⟨fun ho => ?_, fun ho hd => ?_, fun ho hd => ?_⟩
  · have hload : load.1.queues = c.queues :=
      forAll_keeps (fun x : Chip × List Nat => x.1.queues) (c.clustersOf p) (c, []) _ fun x cl => x.1.rseqLoad_queues cl p (Wqe.plan e.bs)
    rw [exec_rallyLoad hup, Chip.wqRallyLoad, Chip.wqStart_ends _ he ho hs hc hload]
  · rw [exec_rallyRun hup, Chip.wqRallyRun, Chip.wqStart_ends _ he ho hs hc (by rw [if_pos (by simpa using hd)]), if_pos (by simpa using hd)]
  · have hrun : (forAll (c.clustersOf p) c Chip.rseqRun).queues = c.queues := forAll_keeps Chip.queues _ _ _ fun d cl => d.rseqRun_queues cl
    rw [exec_rallyRun hup, Chip.wqRallyRun, Chip.wqStart_ends _ he ho hs hc (by rw [if_neg (by simpa using hd)]; exact hrun), if_neg (by simpa using hd)]

end Sys2Proof.Machine
end

section
/-! SUPPORT and certificates. Admission (R33, R45-R54, R88, R170, R171). -/

namespace Sys2Proof.Machine

/-- A checkpoint move leaves every pass of the cluster, with the moves that it waits for (R57). -/
theorem Chip.mem_passes_ckptMove {c : Chip} {cl : Nat} {x : Pass} (hx : x ∈ (c.rseqOf cl).passes) (p : Pass) (carry : Nat) :
    ∃ l, { x with moves := l } ∈ ((c.ckptMove cl p carry).rseqOf cl).passes := by
  unfold Chip.ckptMove
  dsimp only
  split
  · exact ⟨x.moves, hx⟩
  generalize hl : c.copyDescs _ _ _ _ _ _ _ _ = descs
  have hpost := (c.dmaPostAll_sameWalks cl 30 (c.rseqOf cl).part descs).rseqOf cl
  rw [Chip.rseqOf_setRseq_self, hpost]
  refine ⟨if (x.bwd == p.bwd && x.rally == p.rally && x.mb == p.mb) = true then (c.dmaPostAll cl 30 (c.rseqOf cl).part descs).2 else x.moves,
    List.mem_map.mpr ⟨x, hx, ?_⟩⟩
  split <;> rfl

/-- The registers that an admission writes leave the sequencers alone. -/
theorem Chip.grantCores_traces (c : Chip) (cl : Nat) (l : List Nat) (high : Bool) (wb wc sb ss : Nat) :
    c.Traces (forAll l c (fun c k => (c.setWin cl k high wb wc).setSpGrant cl k high sb ss)) :=
  forAll_traces _ _ _ fun c _ => (c.setWin_traces _ _ _ _ _).trans (Chip.setSpGrant_traces _ _ _ _ _ _)

/-- An admitted pass holds the share that its placement names (R51, R170, R171). -/
theorem Chip.admitIn_pass (c : Chip) (cl r i lo kib await : Nat) (bwd high : Bool) :
    ∃ x ∈ ((c.admitIn cl bwd (r, i, high, lo, kib) await).rseqOf cl).passes,
      x.bwd = bwd ∧ x.rally = r ∧ x.mb = i ∧ x.high = high ∧ x.lo = lo ∧ x.kib = kib ∧ x.failed = false ∧
      x.shelf = Rly.shelfKib ((c.rseqOf cl).rallies.getD r []) bwd ∧ x.acc = Rly.acc ((c.rseqOf cl).rallies.getD r []) bwd := by
  unfold Chip.admitIn
  dsimp -zeta only
  extract_lets subs c1 q q1 d carry p c2 c3 c4 c5 c6 c7
  clear_value subs
  have hq : q = c.rseqOf cl := (c.noteReads_traces _ _).sameWalks.rseqOf cl
  have hd : d = (c.rseqOf cl).rallies.getD r [] := by
    have hrallies : q1.rallies = q.rallies := by
      simp only [q1]
      cases subs <;> rfl
    rw [← hq, ← hrallies]
  have hgrants : c2.SameWalks c6 :=
    (((c2.setCmGrant_traces _ _ _ _ _).trans (c3.grantCores_traces _ _ _ _ _ _ _)).trans (c4.setFs_traces _ _)).sameWalks.trans ⟨rfl, rfl⟩
  have hseed : c6.SameWalks c7 := by
    simp only [c7]
    split
    · exact c6.seedWait_sameWalks cl (i + 1)
    · exact .refl c6
  have hmem : p ∈ (c7.rseqOf cl).passes := by
    rw [(hgrants.trans hseed).rseqOf, Chip.rseqOf_setRseq_self]
    exact List.mem_append_right _ (List.mem_singleton_self p)
  obtain ⟨l, hl⟩ := Chip.mem_passes_ckptMove hmem p carry
  rw [(Chip.setPoolRegs_traces _ cl).sameWalks.rseqOf, ← hd]
  exact ⟨_, hl, rfl, rfl, rfl, rfl, rfl, rfl, rfl, rfl, rfl⟩

/-! PASS_ADMIT. -/

theorem forAll_map {α β σ : Type} (l : List α) (g : α → β) (s : σ) (f : σ → β → σ) : forAll (l.map g) s f = forAll l s (fun s a => f s (g a)) :=
  List.foldl_map

/-- May the oldest waiting pass of a group be admitted in every cluster of a partition, a waiting backward pass first (R50, R51)? -/
def Chip.admitDue (c : Chip) (cls : List Nat) (bwd : Bool) : Prop :=
  cls ≠ [] ∧ (bwd = true ∨ ∃ cl ∈ cls, c.mayAdmit cl true = none) ∧ ∀ cl ∈ cls, c.mayAdmit cl bwd ≠ none

/-- PASS_ADMIT's own test says that nothing is due. -/
theorem Chip.admitDue_iff (c : Chip) (cls : List Nat) (bwd : Bool) : c.admitDue cls bwd ↔
    (cls.isEmpty || !(bwd || cls.any (fun cl => (c.mayAdmit cl true).isNone)) ||
      (cls.map (fun cl => (cl, c.mayAdmit cl bwd))).any (fun x => x.2.isNone)) = false := by
  simp only [Chip.admitDue, Bool.or_eq_false_iff, List.isEmpty_eq_false_iff, Bool.not_eq_false', Bool.or_eq_true, List.any_eq_true,
    Option.isNone_iff_eq_none, List.any_map, List.any_eq_false, Function.comp, and_assoc]

theorem Chip.passAdmit_waits {c : Chip} {p : Nat} {bwd : Bool} (h : ¬ c.admitDue (c.clustersOf p) bwd) (await : Nat) : c.passAdmit p bwd await =
    forAll (c.clustersOf p) c (fun d cl => if d.awaitsPool cl bwd then d.addF (.rseq cl) R.RSEQ_ACCT_AWAIT await else d) := by
  rw [Chip.admitDue_iff, Bool.not_eq_false] at h
  unfold Chip.passAdmit
  dsimp only
  rw [if_pos h]

theorem Chip.passAdmit_due {c : Chip} {p : Nat} {bwd : Bool} (h : c.admitDue (c.clustersOf p) bwd)
    (hf : ∀ cl ∈ c.clustersOf p, c.admitFault cl bwd = none) (await : Nat) : c.passAdmit p bwd await =
    forAll (c.clustersOf p) c (fun d cl => (c.mayAdmit cl bwd).elim d (fun a => d.admitIn cl bwd a await)) := by
  rw [Chip.admitDue_iff] at h
  have hnone : (c.clustersOf p).filterMap (fun cl => (c.admitFault cl bwd).map (fun e => (cl, e))) = [] :=
    List.filterMap_eq_nil_iff.mpr fun cl hcl => by rw [hf cl hcl]; rfl
  unfold Chip.passAdmit
  dsimp only
  rw [if_neg (Bool.eq_false_iff.mp h), hnone]
  dsimp only
  rw [forAll_map]
  refine congrArg (forAll _ c) (funext₂ fun d cl => ?_)
  dsimp only
  cases c.mayAdmit cl bwd with
  | none => rw [Option.elim_none]
  | some a => rw [Option.elim_some]

theorem exec_passAdmit {s : State} (hup : s.up) (p : Fin 16) (bwd : Bool) (await : BitVec 32) :
    exec (.passAdmit p bwd await) s = s.goes (s.chip.passAdmit p bwd await.toNat) := by
  have harm : exec (.passAdmit p bwd await) s = execPassAdmit p bwd await s := rfl
  rw [harm, execPassAdmit, State.onChip_up _ hup]

end Sys2Proof.Machine
end

section
/-! SUPPORT and certificates. Retirement, the change of grouping, halts and the end of a run (R44, R45, R49, R52, R54, R62, R172). -/

namespace Sys2Proof.Machine

/-! The end of a run. -/

/-- What is left of a sequencer whose run has ended with a code. -/
def Rseq.ended (q : Rseq) (code : Nat) : Rseq :=
  { q with passes := [], carries := [], fwdPf := {}, bwdPf := {}, splitDone := false, done := some code }

/-- The end of a run reports its code in the state that it enters. -/
theorem Chip.rseqEnd_eq (c : Chip) (cl state code : Nat) : ∃ d : Chip, c.rseqEnd cl state code =
    ((((d.setRseq cl ((c.rseqOf cl).ended code)).setF (.rseq cl) R.RSEQ_STATE_SPLIT 0).setRs cl state).clearGrants cl).setPoolRegs cl := ⟨_, rfl⟩

@[simp] theorem Chip.rseqOf_rseqEnd (c : Chip) (cl state code : Nat) : (c.rseqEnd cl state code).rseqOf cl = (c.rseqOf cl).ended code := by
  obtain ⟨d, hd⟩ := c.rseqEnd_eq cl state code
  rw [hd, ((Chip.clearGrants_traces _ _).trans (Chip.setPoolRegs_traces _ _)).sameWalks.rseqOf, Chip.setRs, Chip.rseqOf_setF, Chip.rseqOf_setF,
    Chip.rseqOf_setRseq_self]

theorem Chip.rsState_rseqEnd (c : Chip) (cl code : Nat) {state : Nat} (h : state < 8) : (c.rseqEnd cl state code).rsState cl = state := by
  obtain ⟨d, hd⟩ := c.rseqEnd_eq cl state code
  rw [hd, Chip.rsState_setPoolRegs, Chip.rsState, Chip.getF_clearGrants _ (offPlacement_state cl)]
  exact Chip.rsState_setRs _ _ h

/-! Retirement. -/

theorem Chip.shelvesFreed_sameWalks (c : Chip) (cl : Nat) (l : List Hold) :
    c.SameWalks (forAll l c (fun d h => d.shelfFree (.commons cl h.shelf) h.entry)) :=
  forAll_sameWalks _ _ _ fun d _ => d.setShelf_sameWalks _ _

@[simp] theorem Chip.getF_setShelf (c : Chip) (r : ShelfRef) (s : Shelf) (b : Blk) (f : Field) : (c.setShelf r s).getF b f = c.getF b f := by
  unfold Chip.setShelf
  split <;> rfl

theorem Chip.getF_shelvesFreed (c : Chip) (cl : Nat) (l : List Hold) (b : Blk) (f : Field) :
    (forAll l c (fun d h => d.shelfFree (.commons cl h.shelf) h.entry)).getF b f = c.getF b f :=
  forAll_keeps (fun d : Chip => d.getF b f) l c _ fun d _ => d.getF_setShelf _ _ b f

/-- The carry that a pass leaves when it retires (R52). -/
def Rseq.carryLeft (q : Rseq) (p : Pass) (bwd high : Bool) : List Carry :=
  let kib := min p.kib (Rly.carryKib (q.rallies.getD p.rally []))
  (carryTo (Hdr.rallies q.hdr) bwd p.rally).elim []
    (fun r => if kib = 0 then [] else [⟨bwd, r, p.mb, high, if high then p.lo + p.kib - kib else p.lo, kib⟩])

/-- The sequencer with a pass retired (R45, R52). -/
def Rseq.retired (q : Rseq) (p : Pass) (bwd high : Bool) : Rseq :=
  { q with passes := q.passes.filter (fun x => !(x.bwd == bwd && x.high == high)), carries := q.carries ++ q.carryLeft p bwd high
           fRet := if bwd then q.fRet else q.fRet ++ [(p.rally, p.mb)], bRet := if bwd then q.bRet ++ [(p.rally, p.mb)] else q.bRet }

/-- The cluster with a pass retired, what it kept freed, and its grant cut down to its carry. -/
def Chip.retiredCarry (c : Chip) (cl : Nat) (p : Pass) (bwd high : Bool) : Chip :=
  let q := c.rseqOf cl
  let d := forAll p.holds (c.setRseq cl (q.retired p bwd high)) (fun d h => d.shelfFree (.commons cl h.shelf) h.entry)
  (q.carryLeft p bwd high).head?.elim (d.setCmGrant cl (2 * b2n bwd + b2n high) 0 0 0)
    (fun x => d.setCmGrant cl (2 * b2n bwd + b2n high) x.lo x.kib x.kib)

/-- The cluster with a pass retired and counted and its grants and windows given back, before DONE_SYNC is incremented. -/
def Chip.retiredPass (c : Chip) (cl : Nat) (p : Pass) (bwd high : Bool) : Chip :=
  ((forAll (c.groupCores cl bwd) (c.retiredCarry cl p bwd high) (fun d k => (d.setWin cl k high 0 0).setSpGrant cl k high 0 0)).addF (.rseq cl)
    R.RSEQ_PROGRESS_PASSES 1).setPoolRegs cl

theorem Chip.retiredCarry_eq (c : Chip) (cl : Nat) (p : Pass) (bwd high : Bool) : ∃ lo kib carry, c.retiredCarry cl p bwd high =
    (forAll p.holds (c.setRseq cl ((c.rseqOf cl).retired p bwd high)) (fun d h => d.shelfFree (.commons cl h.shelf) h.entry)).setCmGrant cl
      (2 * b2n bwd + b2n high) lo kib carry := by
  unfold Chip.retiredCarry
  dsimp only
  cases ((c.rseqOf cl).carryLeft p bwd high).head? with
  | none => exact ⟨_, _, _, rfl⟩
  | some x => exact ⟨_, _, _, rfl⟩

@[simp] theorem Chip.rseqOf_retiredCarry (c : Chip) (cl : Nat) (p : Pass) (bwd high : Bool) :
    (c.retiredCarry cl p bwd high).rseqOf cl = (c.rseqOf cl).retired p bwd high := by
  obtain ⟨lo, kib, carry, h⟩ := c.retiredCarry_eq cl p bwd high
  rw [h, (Chip.setCmGrant_traces _ _ _ _ _ _).sameWalks.rseqOf, (Chip.shelvesFreed_sameWalks _ _ _).rseqOf, Chip.rseqOf_setRseq_self]

theorem Chip.getF_retiredCarry (c : Chip) {cl : Nat} {b : Blk} {f : Field} (h : OffPlacement cl b f) (p : Pass) (bwd high : Bool) :
    (c.retiredCarry cl p bwd high).getF b f = c.getF b f := by
  obtain ⟨lo, kib, carry, hc⟩ := c.retiredCarry_eq cl p bwd high
  rw [hc, Chip.getF_setCmGrant _ _ _ _ _ h, Chip.getF_shelvesFreed, Chip.setRseq_getF]

@[simp] theorem Chip.rseqOf_retiredPass (c : Chip) (cl : Nat) (p : Pass) (bwd high : Bool) :
    (c.retiredPass cl p bwd high).rseqOf cl = (c.rseqOf cl).retired p bwd high := by
  rw [Chip.retiredPass, (Chip.setPoolRegs_traces _ _).sameWalks.rseqOf, (Chip.addF_traces _ _ _ _).sameWalks.rseqOf,
    (Chip.grantCores_traces _ _ _ _ _ _ _ _).sameWalks.rseqOf, Chip.rseqOf_retiredCarry]

theorem Chip.getF_retiredPass (c : Chip) {cl : Nat} {b : Blk} {f : Field} (h : OffPlacement cl b f)
    (hcount : fkey b f ≠ fkey (.rseq cl) R.RSEQ_PROGRESS_PASSES) (p : Pass) (bwd high : Bool) :
    (c.retiredPass cl p bwd high).getF b f = c.getF b f := by
  rw [Chip.retiredPass, Chip.getF_setPoolRegs _ h, Chip.getF_addF_of_ne _ _ hcount, ← c.getF_retiredCarry h p bwd high]
  refine forAll_keeps (fun d : Chip => d.getF b f) _ _ _ fun d k => ?_
  rw [Chip.getF_setSpGrant _ _ _ _ _ h, Chip.getF_setWin _ _ _ _ _ h]

/-- A retirement leaves the cores of the groups as they are. -/
@[simp] theorem Chip.groupCores_retiredCarry (c : Chip) (cl : Nat) (p : Pass) (bwd high x : Bool) :
    (c.retiredCarry cl p bwd high).groupCores cl x = c.groupCores cl x := by
  simp only [Chip.groupCores, Chip.getF_retiredCarry c (offPlacement_split cl)]

/-- The registers that are read when DONE_SYNC has been incremented are those of before the retirement. -/
@[simp] theorem Chip.syncRange_retiredPass (c : Chip) (cl n : Nat) (p : Pass) (bwd high : Bool) :
    (c.retiredPass cl p bwd high).syncRange n = c.syncRange n :=
  c.getF_retiredPass (offPlacement_syncRange cl n) (fkey_ne_of_lsb (by decide) (by decide) (by decide)) p bwd high

@[simp] theorem Chip.rsState_retiredPass (c : Chip) (cl : Nat) (p : Pass) (bwd high : Bool) : (c.retiredPass cl p bwd high).rsState cl = c.rsState cl :=
  c.getF_retiredPass (offPlacement_state cl) (fkey_ne_of_place _ (by decide)) p bwd high

/-- Pass `p` of a group and an end of the pool is CLOSING: it has walked its steps, its moves have ended, and it depends on no failed work (R45). -/
structure Chip.Closing (c : Chip) (cl : Nat) (p : Pass) (bwd high : Bool) : Prop where
  found : (c.rseqOf cl).passes.find? (fun x => x.bwd == bwd && x.high == high) = some p
  unfailed : p.failed = false
  walked : p.steps = []
  moved : p.moves = []
  idle : c.passBusy cl p = false

/-- The retirement of a closing pass of a RUNNING cluster whose DONE_SYNC lies in the range (R44, R45, R52). -/
theorem Chip.passRetire_closing {c : Chip} {cl : Nat} {bwd high : Bool} {p : Pass} (hp : c.Closing cl p bwd high)
    (hdone : Hdr.doneSync (c.rseqOf cl).hdr < c.syncRange (c.rseqOf cl).part) (hrun : c.rsState cl = RS_RUNNING) :
    let q := c.rseqOf cl
    let d := ((c.retiredPass cl p bwd high).syncInc (cl / 8) q.part (Hdr.doneSync q.hdr) 1).1
    c.passRetire cl bwd high =
      if (q.retired p bwd high).fRet.length + (q.retired p bwd high).bRet.length = queueLen q.hdr false + queueLen q.hdr true ∧ q.halt = none then
        d.rseqEnd cl RS_LOADED COMP_OK
      else d := by
  intro q d
  have hcode : ((c.retiredPass cl p bwd high).syncInc (cl / 8) q.part (Hdr.doneSync q.hdr) 1).2 = COMP_OK :=
    Chip.syncInc_inRange (by rw [Chip.syncRange_retiredPass]; exact hdone) _ _
  have hstate : d.rsState cl = RS_RUNNING := by rw [Chip.rsState_syncInc, Chip.rsState_retiredPass, hrun]
  have hhalt : (d.rseqOf cl).halt = q.halt := by
    rw [(Chip.syncInc_sameWalks _ _ _ _ _).rseqOf, Chip.rseqOf_retiredPass]
    rfl
  have hopen : ¬ (p.failed || !p.steps.isEmpty || !p.moves.isEmpty || c.passBusy cl p) = true := by
    simp [hp.unfailed, hp.walked, hp.moved, hp.idle]
  unfold Chip.passRetire
  extract_lets
  split
  next h => exact nomatch hp.found.symm.trans h
  next p' h =>
    obtain rfl : p = p' := Option.some.inj (hp.found.symm.trans h)
    rw [if_neg hopen]
    extract_lets e kib carry fRet bRet r' c1 c2 c3 c4 whole
    have hcarry : carry = q.carryLeft p bwd high := by
      simp only [carry, Rseq.carryLeft]
      split <;> next hto => rw [hto]; rfl
    have hr : r' = q.retired p bwd high := by
      simp only [r', hcarry]
      rfl
    have hc2 : c2 = c.retiredCarry cl p bwd high := by
      simp only [c2, c1, hcarry, hr, Chip.retiredCarry]
      split <;> next hx => rw [hx]; rfl
    have hc4 : c4 = c.retiredPass cl p bwd high := by
      simp only [c4, c3, hc2, Chip.groupCores_retiredCarry]
      rfl
    rw [hc4]
    dsimp only
    rw [if_pos hcode]
    change (if (d.rsState cl == RS_RUNNING && whole && (d.rseqOf cl).halt.isNone) = true then d.rseqEnd cl RS_LOADED COMP_OK
      else if (d.rsState cl == RS_DRAINING && r'.passes.isEmpty && (d.rseqOf cl).halt.isNone) = true then d.rseqEnd cl RS_LOADED COMP_DRAINED else d) = _
    rw [hstate, hhalt]
    have hlast : (RS_RUNNING == RS_RUNNING && whole && q.halt.isNone) = true ↔
        (q.retired p bwd high).fRet.length + (q.retired p bwd high).bRet.length = queueLen q.hdr false + queueLen q.hdr true ∧ q.halt = none := by
      rw [beq_self_eq_true, Bool.true_and, Bool.and_eq_true, Option.isNone_iff_eq_none, beq_iff_eq]
      rfl
    by_cases hl : (q.retired p bwd high).fRet.length + (q.retired p bwd high).bRet.length = queueLen q.hdr false + queueLen q.hdr true ∧ q.halt = none
    · rw [if_pos (hlast.mpr hl), if_pos hl]
    · rw [if_neg (mt hlast.mp hl), if_neg hl, if_neg (by simp [RS_RUNNING, RS_DRAINING])]

/-! The change of grouping (R49, R172). -/

@[simp] theorem Chip.split_placeCarry (c : Chip) (cl : Nat) (x : Carry) :
    (c.placeCarry cl x).getF (.rseq cl) R.RSEQ_STATE_SPLIT = c.getF (.rseq cl) R.RSEQ_STATE_SPLIT := by
  have hput (d : Chip) (q : Rseq) (n lo kib carry : Nat) :
      ((d.setRseq cl q).setCmGrant cl n lo kib carry).getF (.rseq cl) R.RSEQ_STATE_SPLIT = d.getF (.rseq cl) R.RSEQ_STATE_SPLIT := by
    rw [Chip.getF_setCmGrant _ _ _ _ _ (offPlacement_split cl), Chip.setRseq_getF]
  have hcm {f : Field} (hf : f.lsb < 64) (h : R.RSEQ_STATE_SPLIT.lsb ≠ f.lsb) : fkey (.rseq cl) R.RSEQ_STATE_SPLIT ≠ fkey (.cm cl) f :=
    fkey_ne_of_lsb (by decide) hf h
  unfold Chip.placeCarry
  extract_lets pool free put dLo dHi high lo
  split
  · exact hput _ _ _ _ _ _
  split
  · exact hput _ _ _ _ _ _
  · rw [Chip.getF_addF_of_ne _ _ (hcm (by decide) (by decide)), Chip.getF_addF_of_ne _ _ (hcm (by decide) (by decide)),
      Chip.getF_raise_of_ne _ (hcm (by decide) (by decide)) (hcm (by decide) (by decide))]
    exact (hput _ _ _ _ _ _).trans (Chip.setMem_getF _ _ _ _)

/-- The groups are divided as a change of grouping says. -/
@[simp] theorem Chip.split_regroup (c : Chip) (cl split : Nat) :
    (c.regroup cl split).getF (.rseq cl) R.RSEQ_STATE_SPLIT = split % 2 ^ R.RSEQ_STATE_SPLIT.width := by
  unfold Chip.regroup
  extract_lets q c1 c2 sits c3
  rw [Chip.getF_setPoolRegs _ (offPlacement_split cl)]
  exact (forAll_keeps (fun d : Chip => d.getF (.rseq cl) R.RSEQ_STATE_SPLIT) _ _ _ fun d x => d.split_placeCarry cl x).trans (Chip.getF_setF_self _ _ _ _)

theorem Chip.groupSplit_due {c : Chip} {cl : Nat} (hrun : c.rsState cl = RS_RUNNING) (hhalt : (c.rseqOf cl).halt = none)
    (hpasses : (c.rseqOf cl).passes = []) (hdue : c.splitDue cl = true) : c.groupSplit cl = c.regroup cl (Hdr.split (c.rseqOf cl).hdr) := by
  simp [Chip.groupSplit, hrun, hhalt, hpasses, hdue]

theorem Chip.groupRejoin_due {c : Chip} {cl : Nat} (hrun : c.rsState cl = RS_RUNNING) (hhalt : (c.rseqOf cl).halt = none)
    (hpasses : (c.rseqOf cl).passes = []) (hdue : c.rejoinDue cl = true) :
    c.groupRejoin cl = (c.regroup cl 0).setRseq cl { (c.regroup cl 0).rseqOf cl with splitDone := true } := by
  simp [Chip.groupRejoin, hrun, hhalt, hpasses, hdue]

/-! Halts and stalls (R54, R62). -/

/-- The record of an error leaves the clusters of every partition as they are. -/
@[simp] theorem Chip.clustersOf_rsErr (c : Chip) (cl reason rally step mb p : Nat) : (c.rsErr cl reason rally step mb).clustersOf p = c.clustersOf p := by
  have herr : ∀ g ∈ [R.RSEQ_ERR_REASON, R.RSEQ_ERR_RALLY, R.RSEQ_ERR_STEP, R.RSEQ_ERR_MB], g.off = 0x20 ∧ g.lsb < 64 := by decide
  have hclusters : R.PART_CLUSTERS.off = 0x10 ∧ R.PART_CLUSTERS.lsb = 0 := by decide
  have hkey : (c.rsErr cl reason rally step mb).getF (.part p) R.PART_CLUSTERS = c.getF (.part p) R.PART_CLUSTERS := by
    refine c.getF_setFs_of_fields fun g hg => ?_
    obtain ⟨ho, hl⟩ := herr g hg
    simp only [fkey, Blk.base, dieSpan, ho, hclusters]
    omega
  have hhas : (c.rsErr cl reason rally step mb).partHas p = c.partHas p := funext fun x => by rw [Chip.partHas, hkey, Chip.partHas]
  rw [Chip.clustersOf, hhas, Chip.clustersOf]

/-- A cluster that walks a plan takes the plan's halt code, unless it halts already (R62). -/
def Chip.haltToo (code : Nat) (c : Chip) (x : Nat) : Chip :=
  if c.walking x && (c.rseqOf x).halt.isNone then c.setRseq x { c.rseqOf x with halt := some code } else c

/-- HALT_REQ of a RUNNING plan that does not halt yet (R62, R66). -/
theorem Chip.haltReq_running {c : Chip} {cl : Nat} (hrun : c.rsState cl = RS_RUNNING) (hhalt : (c.rseqOf cl).halt = none) : c.haltReq cl =
    forAll (c.clustersOf (c.rseqOf cl).part) ((c.setRseq cl { c.rseqOf cl with halt := some COMP_HALTED, cause := true }).rsErr cl 0xF0 0 0 0)
      (Chip.haltToo COMP_HALTED) := by
  have hcl := Chip.clustersOf_rsErr (c.setRseq cl { c.rseqOf cl with halt := some COMP_HALTED, cause := true }) cl 0xF0 0 0 0 (c.rseqOf cl).part
  have hwalk := Chip.walking_of_running hrun
  unfold Chip.haltReq
  rw [if_pos (by simp [hrun, hhalt])]
  unfold Chip.rseqHalt
  extract_lets q c1 c2 c3 c4 c5
  rw [if_neg (by simp [q, hhalt, hwalk])]
  have hc5 : c5 = c1 := rfl
  rw [hc5, hcl]
  rfl

theorem Chip.planHaltComplete_quiet {c : Chip} {cl code : Nat} (hwalk : c.walking cl = true) (hhalt : (c.rseqOf cl).halt = some code)
    (hp : ∀ p ∈ (c.rseqOf cl).passes, p.failed = true ∧ c.passBusy cl p = false) :
    c.planHaltComplete cl = (c.rseqEnd cl RS_HALTED code).raise (.rseq cl) St.RSEQ_HALTED := by
  have hfailed : (c.rseqOf cl).passes.all (·.failed) = true := List.all_eq_true.mpr fun p h => (hp p h).1
  have hbusy : (c.rseqOf cl).passes.any (c.passBusy cl) = false := List.any_eq_false.mpr fun p h => by simp [(hp p h).2]
  simp [Chip.planHaltComplete, hwalk, hhalt, hfailed, hbusy]

theorem Chip.rseqStall_active {c : Chip} {cl : Nat} (hwalk : c.walking cl = true)
    (hp : ∃ p ∈ (c.rseqOf cl).passes, p.failed = false ∧ (p.steps ≠ [] ∨ c.passBusy cl p = true))
    (hlimit : c.getF (.rseq cl) R.RSEQ_CTRL_STALL_LIMIT ≠ 0) : c.rseqStall cl = c.raise (.rseq cl) St.RSEQ_STALL := by
  obtain ⟨p, hmem, hfailed, hactive⟩ := hp
  have hany : (c.rseqOf cl).passes.any (c.passActive cl) = true :=
    List.any_eq_true.mpr ⟨p, hmem, by simpa [Chip.passActive, hfailed] using hactive⟩
  simp [Chip.rseqStall, hwalk, hany, hlimit]

/-! The commands. -/

theorem exec_passRetire {s : State} {cl : Fin 32} (hr : s.ready cl) (bwd high : Bool) :
    exec (.passRetire cl bwd high) s = s.goes (s.chip.passRetire cl bwd high) := by
  have harm : exec (.passRetire cl bwd high) s = execPassRetire cl bwd high s := rfl
  rw [harm, execPassRetire, State.onCluster_ready _ hr]

theorem exec_groupSplit {s : State} {cl : Fin 32} (hr : s.ready cl) : exec (.groupSplit cl) s = s.goes (s.chip.groupSplit cl) := by
  have harm : exec (.groupSplit cl) s = execGroupSplit cl s := rfl
  rw [harm, execGroupSplit, State.onCluster_ready _ hr]

theorem exec_groupRejoin {s : State} {cl : Fin 32} (hr : s.ready cl) : exec (.groupRejoin cl) s = s.goes (s.chip.groupRejoin cl) := by
  have harm : exec (.groupRejoin cl) s = execGroupRejoin cl s := rfl
  rw [harm, execGroupRejoin, State.onCluster_ready _ hr]

theorem exec_haltReq {s : State} {cl : Fin 32} (hup : s.up) (hg : s.chip.blkGone (.rseq cl) = false) :
    exec (.haltReq cl) s = s.goes (s.chip.haltReq cl) := by
  have harm : exec (.haltReq cl) s = execHaltReq cl s := rfl
  rw [harm, execHaltReq, State.onChip_up _ hup, Chip.atUnit, if_neg (Bool.eq_false_iff.mp hg)]

theorem exec_planHaltComplete {s : State} {cl : Fin 32} (hr : s.ready cl) :
    exec (.planHaltComplete cl) s = s.goes (s.chip.planHaltComplete cl) := by
  have harm : exec (.planHaltComplete cl) s = execPlanHaltComplete cl s := rfl
  rw [harm, execPlanHaltComplete, State.onCluster_ready _ hr]

theorem exec_rseqStall {s : State} {cl : Fin 32} (hr : s.ready cl) : exec (.rseqStall cl) s = s.goes (s.chip.rseqStall cl) := by
  have harm : exec (.rseqStall cl) s = execRseqStall cl s := rfl
  rw [harm, execRseqStall, State.onCluster_ready _ hr]

/-- Settles O16: each command of the sequencer goes through what it admits, retires, regroups, halts or reports. -/
theorem passesAreAdmittedAndRetire : Obligations.PassesAreAdmittedAndRetire := by
  unfold Obligations.PassesAreAdmittedAndRetire
  refine ⟨fun s p bwd await hup => ?_, fun c cl r i lo kib await bwd high => c.admitIn_pass cl r i lo kib await bwd high, fun s cl bwd high p hr => ?_,
    fun s cl hr => ?_⟩
  · intro c cls due
    refine ⟨fun hdue hf => ?_, fun hdue => ?_⟩
    · rw [exec_passAdmit hup, Chip.passAdmit_due hdue hf]
    · rw [exec_passAdmit hup, Chip.passAdmit_waits hdue]
  · intro c q kib carry fRet bRet hp hfailed hsteps hmoves hbusy hdone hrun
    rw [exec_passRetire hr, Chip.passRetire_closing ⟨hp, hfailed, hsteps, hmoves, hbusy⟩ hdone hrun]
    rfl
  · intro c q
    refine ⟨fun hrun hhalt hpasses hdue => ⟨?_, c.split_regroup cl _⟩, fun hrun hhalt hpasses hdue => ⟨?_, ?_⟩, fun hg hrun hhalt => ?_,
      fun code hwalk hhalt hp => ⟨?_, ?_, c.rsState_rseqEnd cl code (by decide)⟩, fun hwalk hp hlimit => ?_⟩
    · rw [exec_groupSplit hr, Chip.groupSplit_due hrun hhalt hpasses hdue]
    · rw [exec_groupRejoin hr, Chip.groupRejoin_due hrun hhalt hpasses hdue]
    · rw [Chip.groupsSplit, Chip.split_regroup]
      rfl
    · rw [exec_haltReq hr.1 hg, Chip.haltReq_running hrun hhalt]
      rfl
    · rw [exec_planHaltComplete hr, Chip.planHaltComplete_quiet hwalk hhalt hp]
    · rw [Chip.rseqOf_rseqEnd]
      rfl
    · rw [exec_rseqStall hr, Chip.rseqStall_active hwalk hp hlimit]

end Sys2Proof.Machine
end

section
/-! SUPPORT and certificates. Steps of the walk and gather pieces (R33, R38, R40, R55, R58-R60, R65, R193, R213). -/

namespace Sys2Proof.Machine

/-! STEP_ISSUE. -/

theorem exec_stepIssue {s : State} {cl : Fin 32} (hr : s.ready cl) (bwd : Bool) (gwait cyc : BitVec 32) :
    exec (.stepIssue cl bwd gwait cyc) s = s.goes (s.chip.stepIssue cl bwd gwait.toNat cyc.toNat) := by
  have harm : exec (.stepIssue cl bwd gwait cyc) s = execStepIssue cl bwd gwait cyc s := rfl
  rw [harm, execStepIssue, State.onCluster_ready _ hr]

theorem exec_stepComplete {s : State} {cl : Fin 32} (hr : s.ready cl) (bwd : Bool) (noc : BitVec 32) :
    exec (.stepComplete cl bwd noc) s = s.goes (s.chip.stepComplete cl bwd noc.toNat) := by
  have harm : exec (.stepComplete cl bwd noc) s = execStepComplete cl bwd noc s := rfl
  rw [harm, execStepComplete, State.onCluster_ready _ hr]

theorem exec_gatherPieceFetch {s : State} {cl : Fin 32} (hr : s.ready cl) (bwd : Bool) :
    exec (.gatherPieceFetch cl bwd) s = s.goes (s.chip.pieceFetch cl bwd) := by
  have harm : exec (.gatherPieceFetch cl bwd) s = execGatherPieceFetch cl bwd s := rfl
  rw [harm, execGatherPieceFetch, State.onCluster_ready _ hr]

/-- The step that a group begins for the walk of a pass, with the planned shape of its record (R38). -/
def plannedStep (q : Rseq) (p : Pass) (w : WalkStep) (b : List Byte) (cores : List Nat) (bwd : Bool) : StepRun :=
  { part := q.part, bwd := bwd, high := p.high, rally := p.rally, mb := p.mb, walk := w, rcd := b, m := Stp.maxM b, n := Stp.maxN b, k := Stp.maxK b,
    cores := cores }

/-- A step that has begun leaves its pass and is held as the group's own, its planning counted (R33, R65, R214). -/
def Chip.stepTaken (c : Chip) (cl : Nat) (bwd : Bool) (p : Pass) (w : WalkStep) (rest : List WalkStep) (st : StepRun) (cyc : Nat) : Chip :=
  let q := c.rseqOf cl
  let d := c.setRseq cl { q with passes := q.passes.map (fun x =>
    if x.bwd == bwd && x.rally == p.rally && x.mb == p.mb then { x with steps := rest } else x) }
  let d := (d.addF (.plan cl) R.PLAN_PLAN_CYC cyc).addF (.rseq cl) R.RSEQ_PROGRESS_SUB_RECOMP (b2n w.mark)
  ((d.colStart cl st).1.setStep cl (b2n bwd) (d.colStart cl st).2).colPoll cl (b2n bwd)

/-- The ordinary case of STEP_ISSUE: step `w` of pass `p`, the next of a group that nothing holds up, has a record `b` that reads
and checks well, and it waits for no counter and no piece (R38, R60). -/
structure Chip.IssuesStep (c : Chip) (cl : Nat) (bwd : Bool) (p : Pass) (w : WalkStep) (rest : List WalkStep) (c0 : Chip) (b : List Byte) : Prop where
  active : c.activePass cl bwd = some p
  next : p.steps = w :: rest
  walks : c.walking cl = true
  loaded : p.bwd = true → p.moves = []
  free : ∀ k ∈ c.groupCores cl bwd, c.stepAt cl k = none
  reads : c.agentRead (rseqAgent cl (c.rseqOf cl).part) (Rly.stepAddr ((c.rseqOf cl).rallies.getD p.rally []) w.idx) 64 = (c0, COMP_OK, b)
  checks : Stp.reason (c.rseqOf cl).hdr ((c.rseqOf cl).rallies.getD p.rally []) (c.rseqOf cl).bsig (c.rseqOf cl).fwait w.idx b = 0
  noWait : Stp.waitSync b = 0xFFFF
  noPiece : w.piece = none
  planned : Stp.shapeSlot b = 0xFFFF
  operator : Stp.kind b ≠ 4

/-- No checkpoint is being loaded for such a step, and no core of its group works for another. -/
theorem Chip.IssuesStep.unhindered {c c0 : Chip} {cl : Nat} {bwd : Bool} {p : Pass} {w : WalkStep} {rest : List WalkStep} {b : List Byte}
    (h : c.IssuesStep cl bwd p w rest c0 b) :
    (!c.walking cl || (p.bwd && !p.moves.isEmpty) || (c.groupCores cl bwd).any (fun k => (c.stepAt cl k).isSome)) = false := by
  have hloading : (p.bwd && !p.moves.isEmpty) = false := by
    cases hb : p.bwd with
    | false => rfl
    | true => rw [h.loaded hb]; rfl
  have htaken : (c.groupCores cl bwd).any (fun k => (c.stepAt cl k).isSome) = false :=
    List.any_eq_false.mpr fun k hk => by rw [h.free k hk]; exact Bool.false_ne_true
  rw [h.walks, hloading, htaken]
  rfl

theorem Chip.stepIssue_begins {c c0 c1 : Chip} {cl gwait : Nat} {bwd : Bool} {p : Pass} {w : WalkStep} {rest : List WalkStep} {b : List Byte}
    {st : StepRun} (h : c.IssuesStep cl bwd p w rest c0 b)
    (hbegin : let c2 := (c0.dropWaits (.step cl (b2n bwd))).addF (.rseq cl) R.RSEQ_ACCT_GWAIT gwait
      c2.stepBegin cl (Stp.program b + Stp.stride b * c2.posIn (c.rseqOf cl).part cl) (plannedStep (c.rseqOf cl) p w b (c.groupCores cl bwd) bwd) =
        (c1, .runs st)) (cyc : Nat) :
    c.stepIssue cl bwd gwait cyc = c1.stepTaken cl bwd p w rest st cyc := by
  simp only [plannedStep] at hbegin
  simp only [Chip.stepIssue, h.active, h.next, h.unhindered, h.reads, h.checks, h.noWait, h.noPiece, h.planned, h.operator, hbegin,
    bne_self_eq_false, Bool.false_and, Bool.false_eq_true, if_false, if_true, Nat.lt_irrefl, decide_false, Bool.or_self]
  rfl

/-! STEP_COMPLETE. -/

/-- A matrix step of a walk whose programs have all ended well (R213). -/
structure StepRun.EndedWell (st : StepRun) : Prop where
  rally : st.queue = none
  matrix : kindOf (recNat st.desc 0 1) = 1
  running : st.ended = none
  code : st.code = COMP_OK
  ends : ∀ k ∈ st.cores, (st.ends.find? k).isSome

section
variable {c : Chip} {cl g : Nat} {st : StepRun}

theorem Chip.vopPoll_matrix (h : c.stepOf cl g = some st) (hk : kindOf (recNat st.desc 0 1) = 1) : c.vopPoll cl g = c := by
  rw [Chip.vopPoll, h]
  exact if_pos (by simp [hk])

theorem Chip.colPoll_matrix (h : c.stepOf cl g = some st) (hk : kindOf (recNat st.desc 0 1) = 1) : c.colPoll cl g = c := by
  rw [Chip.colPoll, h]
  exact if_pos (by simp [hk])

/-- Its code is that of a step which ends well. -/
theorem StepRun.EndedWell.stepCode (h : st.EndedWell) : c.stepCode cl st = some COMP_OK := by
  have hprograms : st.byPrograms = true := by
    rw [StepRun.byPrograms, h.running, h.matrix]
    rfl
  have hcode : (st.code != 0) = false := by rw [h.code]; rfl
  simp only [Chip.stepCode, h.running, hprograms, hcode, List.all_eq_true.mpr h.ends, if_true, Bool.false_eq_true, if_false]

/-- None of its programs is left to discard. -/
theorem StepRun.EndedWell.dropPrograms (h : st.EndedWell) : c.dropPrograms cl st = c := by
  rw [Chip.dropPrograms, h.code]
  exact if_neg (by simp [COMP_OK])

end

/-- A step that ended well has left its place, with its time counted, its amax raised and its entries given back (R65, R192, R193): the code of its commits. -/
def Chip.stepGiven (c : Chip) (cl : Nat) (bwd : Bool) (noc : Nat) (st : StepRun) : Chip × Code :=
  (((c.dropStep cl (b2n bwd)).addF (.rseq cl) (acctField st.walk.mode) noc).stepAmax cl st).stepRelease cl st

/-- What its pass keeps and frees after a step that ended well (R55, R59). -/
def Chip.stepKept (c : Chip) (cl : Nat) (st : StepRun) : Chip := ((c.storeOutput cl st).subDone cl st).pieceDone cl st

/-- A completed step stops the plan, and its pass does not retire (R62). -/
def Chip.stepStops (c : Chip) (cl : Nat) (st : StepRun) (reason code : Nat) : Chip :=
  ((c.rseqHalt cl reason code st.rally st.walk.idx st.mb).failPass cl st.bwd st.rally st.mb).pieceDone cl st

/-- The end of a matrix step whose programs all ended well: it signals its counter, or stops the plan where a commit or the signal is refused (R193, R213). -/
theorem Chip.stepComplete_matrix {c : Chip} {cl noc : Nat} {bwd : Bool} {st : StepRun} (hst : c.stepOf cl (b2n bwd) = some st) (h : st.EndedWell) :
    let given := c.stepGiven cl bwd noc st
    let d := given.1.stepKept cl st
    let signalled := d.syncInc (cl / 8) st.part (Stp.signal st.rcd) 1
    c.stepComplete cl bwd noc =
      if given.2 ≠ COMP_OK then d.stepStops cl st (haltCause given.2).1 (haltCause given.2).2
      else if Stp.signal st.rcd = 0xFFFF then d
      else if signalled.2 = COMP_OK then signalled.1
      else signalled.1.stepStops cl st 0xF7 COMP_SYNC_RANGE := by
  intro given d signalled
  simp only [Chip.stepComplete, Chip.vopPoll_matrix hst h.matrix, Chip.colPoll_matrix hst h.matrix, hst, h.rally, Option.isSome_none,
    Bool.false_eq_true, if_false, h.stepCode, h.dropPrograms, if_true, bne_iff_ne]
  rfl

/-! GATHER_PIECE_FETCH. -/

/-- Where the segments of a piece lie in its entry, one behind another (R40). -/
def segPlaces (segs : List (List Byte)) : List Nat := (segs.foldl (fun (acc : List Nat × Nat) x => (acc.1 ++ [acc.2], acc.2 + Pce.segLen x)) ([], 0)).1

/-- The descriptors that pull the segments of a piece into its entry (R40, R58). -/
def Chip.pullDescs (c : Chip) (cl n e part : Nat) (segs : List (List Byte)) : List (List Byte) :=
  (List.zip segs (segPlaces segs)).flatMap (fun x => c.copyDescs (Pce.segMirror x.1 && Pce.segDev x.1 != c.deviceId) (Pce.segDev x.1)
    c.deviceId (.abs (Pce.segAddr x.1 + Pce.segStride x.1 * c.posIn part cl)) (.entry (.commons cl n) e x.2) (Pce.segLen x.1) 0xFFFF 0)

/-- A piece whose record reads well and whose claim is granted is staged with the serials of its moves (R40, R58-R60). -/
theorem Chip.pieceFetch_staged {c c1 : Chip} {cl pos run r i piece idx e : Nat} {bwd : Bool} {rc : List Byte} {segs : List (List Byte)}
    (hwalk : c.walking cl = true)
    (hnext : c.nextPiece cl (c.rseqOf cl) bwd (queueLen (c.rseqOf cl).hdr bwd - ((c.rseqOf cl).pf bwd).pos + 1) ((c.rseqOf cl).pf bwd).pos
      ((c.rseqOf cl).pf bwd).run = some (pos, run, r, i, piece, idx))
    (hread : c.readPiece (rseqAgent cl (c.rseqOf cl).part) (c.rseqOf cl).hdr ((c.rseqOf cl).rallies.getD r []) piece = .ok (rc, segs))
    (hclaim : c.stepClaim cl (if bwd then 253 else 252) (Pce.bytes rc) = .ok (some (c1, e))) :
    let q := c.rseqOf cl
    let cr := c1.noteReads (rseqAgent cl q.part) (c1.pieceReads (rseqAgent cl q.part) (q.rallies.getD r []) piece)
    let moved := cr.dmaPostAll cl (if bwd then 29 else 28) q.part (c1.pullDescs cl (if bwd then 253 else 252) e q.part segs)
    c.pieceFetch cl bwd = moved.1.setRseq cl ((moved.1.rseqOf cl).setPf bwd {
      pos := pos, run := run + 1
      staged := ((moved.1.rseqOf cl).pf bwd).staged ++ [{ rally := r, mb := i, run := run, entry := e, serials := moved.2 }] }) := by
  intro q cr moved
  simp only [Chip.pieceFetch, hwalk, hnext, hread, hclaim, Bool.not_true, Bool.false_eq_true, if_false]
  rfl

/-- Settles O17: a step is followed through the checks of its record and through what its end gives back, a piece through its claim. -/
theorem stepsIssueAndComplete : Obligations.StepsIssueAndComplete := by
  unfold Obligations.StepsIssueAndComplete
  refine ⟨fun s cl bwd gwait cyc p w rest c0 c1 b st hr => ?_, fun s cl bwd noc st hr => ?_, fun s cl bwd pos run r i piece idx rc segs c1 e hr => ?_⟩
  · intro c q hp hsteps hwalk hfailed hmoves hfree hread hreason hwait hpiece hslot hkind c2 hbegin
    rw [exec_stepIssue hr, Chip.stepIssue_begins ⟨hp, hsteps, hwalk, hmoves, hfree, hread, hreason, hwait, hpiece, hslot, hkind⟩ hbegin]
    rfl
  · intro c hst hq hk he hcode hends c1 given c2
    have hend : c.stepComplete cl bwd noc.toNat =
        if given.2 ≠ COMP_OK then c2.stepStops cl st (haltCause given.2).1 (haltCause given.2).2
        else if Stp.signal st.rcd = 0xFFFF then c2
        else if (c2.syncInc (cl / 8) st.part (Stp.signal st.rcd) 1).2 = COMP_OK then (c2.syncInc (cl / 8) st.part (Stp.signal st.rcd) 1).1
        else (c2.syncInc (cl / 8) st.part (Stp.signal st.rcd) 1).1.stepStops cl st 0xF7 COMP_SYNC_RANGE :=
      Chip.stepComplete_matrix hst ⟨hq, hk, he, hcode, hends⟩
    rw [exec_stepComplete hr, hend]
    refine ⟨fun hgiven hsig => ?_, fun hgiven hsig hrange => ?_, fun hgiven => ?_⟩
    · rw [if_neg (not_not.mpr hgiven), if_pos hsig]
    · rw [if_neg (not_not.mpr hgiven), if_neg hsig, if_pos (Chip.syncInc_inRange hrange _ _)]
    · rw [if_pos hgiven]
      rfl
  · intro c q pf n ch hwalk hnext hread hclaim
    rw [exec_gatherPieceFetch hr, Chip.pieceFetch_staged hwalk hnext hread hclaim]
    rfl

end Sys2Proof.Machine
end

section
/-! SUPPORT and certificates. Commands of the matrix engine and entry of their sweeps into the array (R70-R90, R105, R112-R114). -/

namespace Sys2Proof.Machine

/-! The commands. -/

section
variable {s : State} {cl : Fin 32} (hr : s.ready cl) (k : Fin 16)
include hr

theorem exec_mma : exec (.mma cl k) s = s.goes (s.chip.meSweep cl k 1) := by
  have harm : exec (.mma cl k) s = execMma cl k s := rfl
  rw [harm, execMma, State.onCluster_ready _ hr]

theorem exec_conv : exec (.conv cl k) s = s.goes (s.chip.meSweep cl k 2) := by
  have harm : exec (.conv cl k) s = execConv cl k s := rfl
  rw [harm, execConv, State.onCluster_ready _ hr]

theorem exec_mmaWsh : exec (.mmaWsh cl k) s = s.goes (s.chip.meSweep cl k 3) := by
  have harm : exec (.mmaWsh cl k) s = execMmaWsh cl k s := rfl
  rw [harm, execMmaWsh, State.onCluster_ready _ hr]

theorem exec_accStore : exec (.accStore cl k) s = s.goes (s.chip.accStore cl k) := by
  have harm : exec (.accStore cl k) s = execAccStore cl k s := rfl
  rw [harm, execAccStore, State.onCluster_ready _ hr]

theorem exec_sweepStart (wait : BitVec 32) : exec (.sweepStart cl k wait) s = s.goes (s.chip.sweepStart cl k wait.toNat) := by
  have harm : exec (.sweepStart cl k wait) s = execSweepStart cl k wait s := rfl
  rw [harm, execSweepStart, State.onCluster_ready _ hr]

end

/-- The sequencer with its next sequence number taken (R208). -/
def Chip.numbered (c : Chip) (cl k : Nat) : Chip := c.setSeq cl k { c.seqOf cl k with seqNo := (c.seqOf cl k).seqNo + 1 }

theorem Chip.seqNumber_eq (c : Chip) (cl k : Nat) : c.seqNumber cl k = (c.numbered cl k, (c.seqOf cl k).seqNo) := rfl

@[simp] theorem Chip.slot_numbered (c : Chip) (cl k : Nat) : ((c.numbered cl k).seqOf cl k).slot = (c.seqOf cl k).slot := by
  rw [Chip.numbered, Chip.seqOf_setSeq_self]

/-! Issue (R70-R73, R76). -/

/-- The sweep of a command, with the weights of the sweep before it where that one keeps them (R71). -/
def issuedSweep (q : CoreSeq) (keep : Option Sweep) (bs : List Byte) : Sweep :=
  keep.elim ⟨q.slot, bs, q.seqNo, bs, false, false, 0, none, none, none⟩
    (fun p => ⟨q.slot, bs, q.seqNo, p.wcmd, true, false, 0, none, none, p.wTile⟩)

section
variable {c : Chip} {cl k op : Nat} {bs : List Byte}

theorem Chip.meSweep_issues (hat : c.seqAt cl k op = some bs) (hreason : meReason bs (c.meOf cl k).keep = none)
    (hstarted : ∀ x ∈ (c.meOf cl k).sweeps, x.started = true) (hclash : c.meClash cl k bs (c.meOf cl k).keep.isSome = false)
    (hshare : c.spDenied cl k (c.seqPart cl k) (meRegions bs (c.meOf cl k).keep.isSome) = false) :
    let me := c.meOf cl k
    let sw := issuedSweep (c.seqOf cl k) me.keep bs
    c.meSweep cl k op = ((c.numbered cl k).setMe cl k
      { me with sweeps := me.sweeps ++ [sw], keep := if meKeepW bs then some sw else none, mode := op }).seqAdvance cl k := by
  intro me sw
  have hnone : me.sweeps.any (fun x => !x.started) = false := List.any_eq_false.mpr fun x hx => by simp [hstarted x hx]
  have hsw : sw = issuedSweep (c.seqOf cl k) me.keep bs := rfl
  simp only [Chip.meSweep, hat, hreason, hshare, hnone, hclash, Chip.seqNumber_eq, Chip.slot_numbered, Bool.or_self, Bool.false_eq_true, if_false,
    hsw, issuedSweep, me]
  cases (c.meOf cl k).keep <;> rfl

end

/-! Entry into the array (R76, R112-R114). -/

/-- A use of each of the tiles that a sweep reads is taken (R114). -/
def Tb.takeAll (t : Tb) (a w : Option TbTile) : Tb :=
  let t := match a with | some x => t.take false x | none => t
  match w with | some x => t.take true x | none => t

/-- The engine whose sweep at place `i` has become `y`; where the next sweep is to keep its weights, it keeps those of `y` (R71). -/
def Me.entered (me : Me) (i : Nat) (y : Sweep) : Me :=
  { me with sweeps := setAt me.sweeps i y, keep := me.keep.map (fun p => if p.seq = y.seq then y else p) }

section
variable {t : Tb} {x : Sweep}

theorem sweepTiles_none (ha : meATb x.cmd = false) (hw : meWTb x.cmd = false ∨ x.kept = true) : sweepTiles t x = some (none, none) := by
  have hw' : (meWTb x.cmd && !x.kept) = false := by rcases hw with h | h <;> simp [h]
  simp only [sweepTiles, ha, hw', Bool.false_eq_true, if_false]
  rfl

theorem sweepTiles_a {a : TbTile} (ha : meATb x.cmd = true) (hw : meWTb x.cmd = false) (hhead : t.head false = some a) (hready : a.ready = true) :
    sweepTiles t x = some (some a, none) := by
  simp only [sweepTiles, ha, hw, hhead, hready, Bool.false_and, Bool.false_eq_true, if_false, if_true, Bool.and_self]

theorem sweepTiles_w {w : TbTile} (ha : meATb x.cmd = false) (hw : meWTb x.cmd = true) (hkept : x.kept = false) (hhead : t.head true = some w)
    (hready : w.ready = true) : sweepTiles t x = some (none, some w) := by
  simp only [sweepTiles, ha, hw, hkept, hhead, hready, Bool.not_false, Bool.and_self, Bool.false_eq_true, if_false, if_true]

end

/-- Sweep `x` at place `i` is the next to enter the array: it may start, has read no tile, and the TB has what it names (R76, R83, R90, R113). -/
structure Chip.Enters (c : Chip) (cl k i : Nat) (x : Sweep) : Prop where
  next : (c.meOf cl k).nextStart = some (i, x)
  may : c.mayStart cl k i x = true
  aUnread : x.aTile = none
  wUnread : x.kept = true ∨ x.wTile = none
  agrees : tbReadReason (c.tbOf cl k) x.cmd x.kept = none

theorem Chip.sweepStart_enters {c : Chip} {cl k i : Nat} {x : Sweep} (h : c.Enters cl k i x) {a w : Option TbTile}
    (htiles : sweepTiles (c.tbOf cl k) x = some (a, w)) (wait : Nat) :
    c.sweepStart cl k wait = ((c.setTb cl k ((c.tbOf cl k).takeAll a w)).setMe cl k ((c.meOf cl k).entered i
      { x with started := true, aTile := a, wTile := if x.kept then x.wTile else w })).addF (.tb cl k) R.TB_WAIT_CYC
        (if a.isSome || w.isSome then wait else 0) := by
  have hunread : (x.aTile.isSome || (!x.kept && x.wTile.isSome)) = false := by rcases h.wUnread with hk | hk <;> simp [h.aUnread, hk]
  simp only [Chip.sweepStart, h.next, h.may, hunread, h.agrees, htiles, Bool.not_true, Bool.false_eq_true, if_false, Me.entered]
  cases (c.meOf cl k).keep with
  | none => rfl
  | some p =>
    simp only [Option.map_some, apply_ite some]
    rfl

/-! ACC_STORE (R73, R87, R89). -/

/-- What an ACC_STORE of a tile does once it has its sequence number: its rows, the bytes that it reads from a spill slot, MAXABS, and the release of the VT. -/
def Chip.accStored (c : Chip) (cl k seq : Nat) (bs : List Byte) : Chip :=
  let h := c.tileHome cl k (meWin bs) (meVt bs)
  let c1 := if meN bs = 0 then c else forAll (upto (meM bs)) c (fun d m => d.storeRow cl k bs seq h m)
  let cs := match h with
    | .spill _ => c1.addF (.me cl k) R.ME_SPILL_BYTES (if meN bs = 0 then 0 else meM bs * 128)
    | .resident _ => c1
  let c2 := (if meMaxOff bs = 0xFFFFFFFF then cs
    else cs.spWrite cl k (field (meMaxOff bs) 0 22) (leBytes 4 (cs.maxOf cl k (meWin bs) (meVt bs)))).portWait (spBase cl k)
  if meFlag bs 7 then c2.setMe cl k ((c2.meOf cl k).dropVt (meWin bs) (meVt bs)) else c2

theorem Chip.accStore_stores {c : Chip} {cl k : Nat} {bs : List Byte} (hat : c.seqAt cl k 4 = some bs) (hreason : meReason bs none = none)
    (hnosweep : ∀ x ∈ (c.meOf cl k).sweeps, ¬(meWin x.cmd = meWin bs ∧ meVt x.cmd = meVt bs)) (hfilled : (c.tbOf cl k).filling = none)
    (hclash : c.meClash cl k bs false = false) (hshare : c.spDenied cl k (c.seqPart cl k) (meRegions bs false) = false) :
    c.accStore cl k = (((c.numbered cl k).accStored cl k (c.seqOf cl k).seqNo bs).cmdDone cl k 1).seqAdvance cl k := by
  have hnone : (c.meOf cl k).sweeps.any (fun x => meWin x.cmd == meWin bs && meVt x.cmd == meVt bs) = false :=
    List.any_eq_false.mpr fun x hx => by simpa using hnosweep x hx
  simp only [Chip.accStore, hat, hreason, hshare, hnone, hfilled, hclash, Chip.seqNumber_eq, Option.isSome_none, Bool.or_self, Bool.false_eq_true,
    if_false]
  rfl

/-- Settles O20: an issue, an entry with each kind of operand source, and a store go through the checks that they pass. -/
theorem sweepsIssueStartAndStore : Obligations.SweepsIssueStartAndStore := by
  unfold Obligations.SweepsIssueStartAndStore
  intro s cl k hr c q me t numbered
  refine ⟨fun bs op hat hreason hstarted hclash hshare => ?issue, fun wait i x hnext hmay ha hw hreason => ?enter,
    fun bs hat hreason hnosweep hfilled hclash hshare => ?store⟩
  case issue =>
    intro sw issued
    have hissue : s.goes (c.meSweep cl k op) = issued := congrArg s.goes (Chip.meSweep_issues hat hreason hstarted hclash hshare)
    refine ⟨fun hop => ?_, fun hop => ?_, fun hop => ?_⟩
    · rw [exec_mma hr, ← hissue, hop]
    · rw [exec_conv hr, ← hissue, hop]
    · rw [exec_mmaWsh hr, ← hissue, hop]
  case enter =>
    intro enter
    have henters : c.Enters cl k i x := ⟨hnext, hmay, ha, hw, hreason⟩
    rw [exec_sweepStart hr]
    refine ⟨fun hA hW => ?_, fun a hA hW hhead hready => ?_, fun w hA hW hkept hhead hready => ?_⟩
    · rw [Chip.sweepStart_enters henters (sweepTiles_none hA hW)]
      rfl
    · rw [Chip.sweepStart_enters henters (sweepTiles_a hA hW hhead hready)]
      rfl
    · rw [Chip.sweepStart_enters henters (sweepTiles_w hA hW hkept hhead hready), hkept]
      rfl
  case store =>
    rw [exec_accStore hr, Chip.accStore_stores hat hreason hnosweep hfilled hclash hshare]
    rfl

end Sys2Proof.Machine
end

section
/-! SUPPORT and certificates. Where the statement of the verdicts fails (R97, R99, R103). -/

namespace Sys2Proof.Machine

/-- An MMA of one BF16 element by one, whose operands lie at offset 0 of the scratchpad. -/
def oneByOne : List Byte := [1, 1, 0, 0, 1, 0, 1, 0, 1, 0] ++ List.replicate 54 0

/-- A sweep of it in the array, whose verdict has failed once. -/
def onceFailed : Sweep := ⟨0, oneByOne, 0, oneByOne, false, true, 1, none, none, none⟩

/-- Cluster 0 with power, that sweep in the engine of core 0, and 22 in MECL_MAP as the physical core behind core 0: the field's five bits hold it, but a
cluster has 17 physical cores, and the place of a score 22 would be that of RETRY in BENCH_CTRL. -/
def mismapped : Chip :=
  (({ State.reset.chip with por := false }.setF .pwr R.PWR_DOMAINS_ON 1).setF (.mecl 0) (mapField 0) 22).setMe 0 0 { sweeps := [onceFailed] }

/-- A fault of 1.0 in the sweep's one sum. -/
def oneFault : List (CellSum × Nat) := [(.out 0 0, 0x3F800000)]

theorem mismapped_ready : State.ready { chip := mismapped } 0 := by
  constructor <;> decide +kernel

/-- With RETRY at 2 the second failure in a row is none for the VE. -/
theorem mismapped_retry : ¬ mismapped.getF (.mecl 0) R.MECL_BENCH_CTRL_RETRY < onceFailed.fails + 1 := by decide +kernel

/-- The score takes MISS_WEIGHT before the verdict reads RETRY, which is 1 by then: the sweep goes to the VE. -/
theorem mismapped_fallsBack : ((mismapped.sweepVerdict 0 0 oneFault .none [] 0 0).meOf 0 0).fallback = true := by decide +kernel

theorem exec_sweepVerdict {s : State} {cl : Fin 32} (hr : s.ready cl) (k : Fin 16) (faults : List (CellSum × Nat)) (slot : Ecc) (fails : List Nat)
    (busy dry : BitVec 32) :
    exec (.sweepVerdict cl k faults slot fails busy dry) s = s.goes (s.chip.sweepVerdict cl k faults slot fails busy.toNat dry.toNat) := by
  have harm : exec (.sweepVerdict cl k faults slot fails busy dry) s = execSweepVerdict cl k faults slot fails busy dry s := rfl
  rw [harm, execSweepVerdict, State.onCluster_ready _ hr]

/-- Refutes O21: the statement takes every state, also one whose MECL_MAP names a physical core 22 that no cluster has (`mismapped`). MISS_WEIGHT of the
failed verdict is then added at the place of RETRY, which the model reads afterwards: the sweep goes to the VE at its second failure in a row, where the
RETRY of the state before the verdict, 2, lets it be executed once more. -/
theorem not_verdictsCommitOrRepeat : ¬ Obligations.VerdictsCommitOrRepeat := by
  unfold Obligations.VerdictsCommitOrRepeat
  intro h
  obtain ⟨hverdict, -⟩ := h { chip := mismapped } 0 0 onceFailed [] mismapped_ready (by decide +kernel)
  obtain ⟨-, -, -, hfails⟩ := hverdict oneFault [] 0 0 rfl (by decide +kernel) (by decide +kernel) (by decide +kernel)
  obtain ⟨d, hexec, -, -, hlimit, -⟩ := hfails 0 0 (by decide +kernel)
  rw [exec_sweepVerdict mismapped_ready] at hexec
  rw [← State.goes_inj hexec] at hlimit
  exact mismapped_retry (hlimit.mp mismapped_fallsBack)

end Sys2Proof.Machine
end

section
/-! SUPPORT and certificates. Accumulator errors and the loads of the transposing buffer (R88, R93, R109-R112, R120). -/

namespace Sys2Proof.Machine

section
variable {s : State} {cl : Fin 32} (hr : s.ready cl) (k : Fin 16)
include hr

theorem exec_accEccError (tile : Fin 32) (e : Ecc) (fails : List (List Nat)) (busy : BitVec 32) :
    exec (.accEccError cl k tile e fails busy) s = s.goes (s.chip.accEcc cl k tile e fails busy.toNat) := by
  have harm : exec (.accEccError cl k tile e fails busy) s = execAccEccError cl k tile e fails busy s := rfl
  rw [harm, execAccEccError, State.onCluster_ready _ hr]

theorem exec_tbLoad : exec (.tbLoad cl k) s = s.goes (s.chip.tbLoad cl k) := by
  have harm : exec (.tbLoad cl k) s = execTbLoad cl k s := rfl
  rw [harm, execTbLoad, State.onCluster_ready _ hr]

theorem exec_tbTileReady (fails : List Nat) (conflict : BitVec 32) :
    exec (.tbTileReady cl k fails conflict) s = s.goes (s.chip.tbTileReady cl k fails conflict.toNat) := by
  have harm : exec (.tbTileReady cl k fails conflict) s = execTbTileReady cl k fails conflict s := rfl
  rw [harm, execTbTileReady, State.onCluster_ready _ hr]

end

/-! Errors in the accumulator (R88, R93). -/

/-- No register that the homes of VTs follow from is that of ACC_UE or of its count: the windows and the retired tiles lie in other registers of the ME, and
the shares of the partitions at other bits. -/
theorem Chip.getF_raise_accUe_me (c : Chip) (cl k : Nat) {f : Field} (hf : f.off < 0x20) (hl : f.lsb < 64) :
    (c.raise (.me cl k) St.ME_ACC_UE).getF (.me cl k) f = c.getF (.me cl k) f := by
  apply Chip.getF_raise_of_ne <;> apply fkey_ne_of_place <;> simp only [St.ME_ACC_UE, R.ME_STATUS_ACC_UE, R.ME_CNT_5] <;> omega

theorem Chip.getF_raise_accUe_part (c : Chip) (cl k p : Nat) {f : Field} (hf : f.off = 0x30) (hl : f.lsb < 16) :
    (c.raise (.me cl k) St.ME_ACC_UE).getF (.part p) f = c.getF (.part p) f := by
  apply Chip.getF_raise_of_ne <;> simp only [fkey, Blk.base, dieSpan, hf, St.ME_ACC_UE, R.ME_STATUS_ACC_UE, R.ME_CNT_5] <;> omega

/-- An error leaves the span of every window as it was. -/
theorem Chip.winSpan_raise_accUe (c : Chip) (cl k w : Nat) : (c.raise (.me cl k) St.ME_ACC_UE).winSpan cl k w = c.winSpan cl k w := by
  have hme (f : Field) (hf : f.off < 0x20) (hl : f.lsb < 64) := c.getF_raise_accUe_me cl k hf hl
  have hpart (p : Nat) (f : Field) (hf : f.off = 0x30) (hl : f.lsb < 16) := c.getF_raise_accUe_part cl k p hf hl
  match w with
  | 0 => simp only [Chip.winSpan, hme R.ME_ACC_WIN_BASE0 (by decide) (by decide), hme R.ME_ACC_WIN_COUNT0 (by decide) (by decide)]
  | 1 => simp only [Chip.winSpan, hme R.ME_ACC_WIN_BASE1 (by decide) (by decide), hme R.ME_ACC_WIN_COUNT1 (by decide) (by decide)]
  | p + 2 => simp only [Chip.winSpan, hpart p R.PART_SLICE_ACC_BASE rfl (by decide), hpart p R.PART_SLICE_ACC_COUNT rfl (by decide)]

theorem Chip.tileHome_raise_accUe (c : Chip) (cl k w v : Nat) : (c.raise (.me cl k) St.ME_ACC_UE).tileHome cl k w v = c.tileHome cl k w v := by
  simp only [Chip.tileHome, Chip.winTiles, c.winSpan_raise_accUe, c.getF_raise_accUe_me cl k (f := R.ME_ACC_RETIRED_RETIRED) (by decide) (by decide)]

/-- What an uncorrectable error in tile `t` leaves of it: the first is noted, the second retires the tile (R88, R93). -/
def Chip.accUeNoted (c : Chip) (cl k t : Nat) : Chip :=
  let d := c.raise (.me cl k) St.ME_ACC_UE
  if (c.meOf cl k).ueOnce.contains t then
    d.setF (.me cl k) R.ME_ACC_RETIRED_RETIRED (c.getF (.me cl k) R.ME_ACC_RETIRED_RETIRED ||| 2 ^ t)
  else d.setMe cl k { c.meOf cl k with ueOnce := t :: (c.meOf cl k).ueOnce }

/-- The open VT that stands in physical tile `t`. -/
def Chip.vtIn (c : Chip) (cl k t : Nat) : Option Vt := (c.meOf cl k).vts.find? (fun x => c.tileHome cl k x.win x.v == .resident t)

theorem Chip.accEcc_ue (c : Chip) (cl k t : Nat) (fails : List (List Nat)) (busy : Nat) :
    let e := c.accUeNoted cl k t
    let m := e.meOf cl k
    c.accEcc cl k t .ue fails busy = match c.vtIn cl k t with
      | some vt => ((e.replayVt cl k vt fails).addScore cl k (e.hardWeight cl)).addF (.me cl k) R.ME_BUSY_CYC busy
      | none => (e.setMe cl k { m with ueFound := t :: m.ueFound.filter (· != t) }).freeRegion (accBase cl k + t * 0x2000) 0x2000 := by
  have hretired := c.getF_raise_accUe_me cl k (f := R.ME_ACC_RETIRED_RETIRED) (by decide) (by decide)
  simp only [Chip.accEcc, c.tileHome_raise_accUe, hretired]
  rfl

/-! TB_LOAD (R109-R112). -/

/-- The checks of a TB_LOAD in the order of R110, OVERFILL and the reserved fields among them. -/
def Chip.tbLoadChecks (c : Chip) (cl k : Nat) (bs : List Byte) : List (Nat × Bool) :=
  tbChecks bs ++ [(0x07, !c.tbRoom cl k (tbQueueW bs) && !(c.meOf cl k).sweeps.any (Sweep.readsTb (c.tbOf cl k))), (0x08, tbReserved bs)]

/-- The regions of the scratchpad that a TB_LOAD reads: its data, and its block scales where the format has them. -/
def tbSource (bs : List Byte) : List (Nat × Nat) :=
  (tbSrcOff bs, tbSrcOff bs + tbDataSpan bs) :: (if isMx (tbSrcFmt bs) then [(tbScOff bs, tbScOff bs + tbScaleSpan bs)] else [])

section
variable {c : Chip} {cl k : Nat} {bs : List Byte}

theorem Chip.moveClash_noMoves (h : (c.seqOf cl k).moves = []) (lo hi : Nat) : c.moveClash cl k lo hi = false := by
  rw [Chip.moveClash, h]
  rfl

theorem Chip.tbLoad_refused (hat : c.seqAt cl k 8 = some bs) {e : Nat × Bool} (hfail : (c.tbLoadChecks cl k bs).find? (·.2) = some e) :
    c.tbLoad cl k = (c.tbErr cl k St.TB_CMD_INVALID e.1 (tbQueueW bs) false ((c.seqOf cl k).slotOff (c.seqOf cl k).slot)).seqStop cl k
      COMP_TB_CMD_INVALID := by
  rw [Chip.tbLoadChecks] at hfail
  simp only [Chip.tbLoad, hat, hfail]

theorem Chip.tbLoad_taken (hat : c.seqAt cl k 8 = some bs) (hpass : ∀ e ∈ c.tbLoadChecks cl k bs, e.2 = false)
    (hroom : c.tbRoom cl k (tbQueueW bs) = true) (hmoves : (c.seqOf cl k).moves = [])
    (hshare : c.spDenied cl k (c.seqPart cl k) (tbSource bs) = false) :
    let t := c.tbOf cl k
    let w := tbQueueW bs
    c.tbLoad cl k = ((c.numbered cl k).setTb cl k
      (t.setQueue w (t.queue w ++ [⟨bs, (c.seqOf cl k).seqNo, tbUses bs, 0, false, [], []⟩]))).seqAdvance cl k := by
  have hnone : (c.tbLoadChecks cl k bs).find? (·.2) = none := List.find?_eq_none.mpr fun e he => by simp [hpass e he]
  rw [Chip.tbLoadChecks] at hnone
  rw [tbSource] at hshare
  simp only [Chip.tbLoad, hat, hnone]
  simp only [hshare, hroom, Chip.moveClash_noMoves hmoves, Chip.seqNumber_eq, Bool.not_true, Bool.and_false, Bool.or_self, Bool.false_eq_true,
    if_false]
  rfl

end

/-- Settles O22: the error in an accumulator tile, the load and the filling of a TB tile are followed branch by branch. -/
theorem accumulatorErrorsAndTbLoads : Obligations.AccumulatorErrorsAndTbLoads := by
  unfold Obligations.AccumulatorErrorsAndTbLoads
  intro s cl k hr c q me t
  refine ⟨fun tile grains busy => ⟨?corrected, ?uncorrectable⟩, fun bs hat => ?load, fun fails conflict w x hfilling => ?fill⟩
  case corrected => exact exec_accEccError hr k tile .ce grains busy
  case uncorrectable =>
    intro d e m there
    have hue : exec (.accEccError cl k tile .ue grains busy) s = s.goes (c.accEcc cl k tile .ue grains busy.toNat) := exec_accEccError hr k tile .ue grains busy
    refine ⟨fun hnone => ?_, fun vt hopen => ?_⟩
    · have hvt : c.vtIn cl k tile = none := hnone
      rw [hue, Chip.accEcc_ue, hvt]
      rfl
    · have hvt : c.vtIn cl k tile = some vt := hopen
      rw [hue, Chip.accEcc_ue, hvt]
      rfl
  case load =>
    intro w overfill checks source
    rw [exec_tbLoad hr]
    refine ⟨fun hpass hroom hmoves hshare => ?_, fun e hfail => ?_⟩
    · rw [Chip.tbLoad_taken hat hpass hroom hmoves hshare]
      rfl
    · rw [Chip.tbLoad_refused hat hfail]
  case fill =>
    intro d d'
    rw [exec_tbTileReady hr, Chip.tbTileReady, hfilling]
    rfl

end Sys2Proof.Machine
end

section
/-! SUPPORT. Bytes, lanes and contexts of the vector engine (R3, R215, R227): what a packed register, a mask built bit by bit and a context that has been
set read as. -/

namespace Sys2Proof.Machine

/-! Bytes. -/

@[simp] theorem leBytes_length (n v : Nat) : (leBytes n v).length = n := by
  induction n generalizing v with
  | zero => rfl
  | succ n ih => rw [leBytes, List.length_cons, ih]

theorem leNat_leBytes (n v : Nat) : leNat (leBytes n v) = v % 2 ^ (8 * n) := by
  induction n generalizing v with
  | zero => simp [leBytes, leNat, Nat.mod_one]
  | succ n ih =>
    have hpow : 2 ^ (8 * (n + 1)) = 256 * 2 ^ (8 * n) := by rw [Nat.mul_succ, Nat.pow_add, Nat.mul_comm]
    rw [leBytes, leNat, ih, hpow, Nat.mod_mul, BitVec.toNat_ofNat]

theorem leNat_lt (bs : List Byte) : leNat bs < 2 ^ (8 * bs.length) := by
  induction bs with
  | nil => simp [leNat]
  | cons b bs ih =>
    have hb : b.toNat < 256 := b.isLt
    have hpow : 2 ^ (8 * (bs.length + 1)) = 256 * 2 ^ (8 * bs.length) := by rw [Nat.mul_succ, Nat.pow_add, Nat.mul_comm]
    rw [leNat, List.length_cons, hpow]
    omega

theorem recNat_lt (bs : List Byte) (o n : Nat) : recNat bs o n < 2 ^ (8 * n) :=
  (leNat_lt _).trans_le (Nat.pow_le_pow_right (by decide) (Nat.mul_le_mul_left 8 (List.length_take_le _ _)))

/-- Entries of `n` bytes each: entry `i` begins at byte `i * n`. -/
theorem drop_flatten_map {α : Type} {n : Nat} (f : α → List Byte) (hf : ∀ a, (f a).length = n) (l : List α) (i : Nat) :
    (l.map f).flatten.drop (i * n) = ((l.drop i).map f).flatten := by
  induction l generalizing i with
  | nil => simp
  | cons a l ih =>
    cases i with
    | zero => simp
    | succ i => rw [List.map_cons, List.flatten_cons, Nat.succ_mul, Nat.add_comm, ← List.drop_drop, ← hf a, List.drop_left, hf a, ih, List.drop_succ_cons]

/-! Lanes. -/

/-- A register whose lanes hold `f`, cut to the width of a lane. -/
def packLanes (w : Nat) (f : Nat → Nat) : List Byte := ((upto (laneCount w)).map (fun lane => leBytes (laneBytes w) (f lane))).flatten

theorem rawLane_lt (w : Nat) (v : List Byte) (lane : Nat) : rawLane w v lane < 2 ^ (8 * laneBytes w) := recNat_lt _ _ _

theorem rawLane_packLanes {w lane : Nat} (f : Nat → Nat) (h : lane < laneCount w) : rawLane w (packLanes w f) lane = f lane % 2 ^ (8 * laneBytes w) := by
  have hdrop : (upto (laneCount w)).drop lane = lane :: (upto (laneCount w)).drop (lane + 1) := by
    rw [upto, List.drop_eq_getElem_cons (by simpa using h), List.getElem_range]
  rw [rawLane, recNat, packLanes, drop_flatten_map _ (fun l => leBytes_length _ _), hdrop, List.map_cons, List.flatten_cons,
    List.take_left' (leBytes_length _ _), leNat_leBytes]

/-! Masks. -/

/-- The number whose bit `j` is `p j`, for the bits below `n`. -/
def packBits (n : Nat) (p : Nat → Bool) : Nat := ((upto n).map (fun j => b2n (p j) * 2 ^ j)).sum

theorem packBits_succ (n : Nat) (p : Nat → Bool) : packBits (n + 1) p = 2 ^ n * b2n (p n) + packBits n p := by
  simp [packBits, upto, List.range_succ, Nat.add_comm, Nat.mul_comm]

theorem packBits_lt (n : Nat) (p : Nat → Bool) : packBits n p < 2 ^ n := by
  induction n with
  | zero => exact Nat.one_pos
  | succ n ih =>
    rw [packBits_succ, Nat.pow_succ, b2n]
    split <;> omega

theorem bit_packBits {n j : Nat} (p : Nat → Bool) (h : j < n) : bit (packBits n p) j = p j := by
  induction n with
  | zero => exact absurd h (Nat.not_lt_zero j)
  | succ n ih =>
    rw [packBits_succ, bit, Nat.testBit_two_pow_mul_add _ (packBits_lt n p)]
    split
    · next hj => exact ih hj
    · next hj =>
      obtain rfl : j = n := by omega
      cases p j <;> simp [b2n]

/-! Contexts. -/

section
variable (c : Chip) (cl k t : Nat) (x : VeCtx)

@[simp] theorem Chip.ctx_setCtx_self : (c.setCtx cl k t x).ctx cl k t = x := by
  rw [Chip.ctx, Chip.setCtx, Chip.veOf_setVe_self, Ve.ctx, KMap.getD_insert_self]

@[simp] theorem Chip.ctx_veCounted (u : Nat) : (c.veCounted cl k t).ctx cl k u = c.ctx cl k u := by
  rw [Chip.veCounted, Chip.ctx, Chip.addF, Chip.addF, Chip.veOf_setF, Chip.veOf_setF, Chip.veOf_setVe_self]
  rfl

/-- Going on to the next instruction moves the PC of the context and nothing else of it. -/
@[simp] theorem Chip.ctx_veNext : (c.veNext cl k t).ctx cl k t = { c.ctx cl k t with pc := wrapInt 64 ((c.ctx cl k t).pc + 8 : Nat) } := by
  rw [Chip.veNext, Chip.veGoto, Chip.ctx_setCtx_self]

@[simp] theorem VeCtx.v_setV_self (r : Nat) (b : List Byte) : (x.setV r b).v r = b := KMap.getD_insert_self _ _ _ _

theorem VeCtx.v_setV_of_ne {r r' : Nat} (b : List Byte) (h : r' ≠ r) : (x.setV r b).v r' = x.v r' := KMap.getD_insert_of_ne _ _ _ h

@[simp] theorem VeCtx.s_setS_self (r n : Nat) : (x.setS r n).s r = n % 2 ^ 64 := KMap.getD_insert_self _ _ _ _

end

/-- A PC below the spill slots steps on without wrapping. -/
theorem wrapInt_of_le_spillBase {n : Nat} (h : n ≤ spillBase) : wrapInt 64 (n : Int) = n := by
  rw [wrapInt, ← Int.natCast_mod, Int.toNat_natCast, Nat.mod_eq_of_lt (h.trans_lt (by decide))]

/-- What a lane of VD holds after `f` has been put to the active lanes (R215). -/
def VeCtx.putLane (x : VeCtx) (i : Nat) (f : Nat → Nat) (lane : Nat) : Nat := if x.active i lane then f lane else rawLane (viW i) (x.v (viD i)) lane

theorem VeCtx.putLane_mod (x : VeCtx) (i : Nat) (f : Nat → Nat) (lane : Nat) : x.putLane i f lane % 2 ^ (8 * laneBytes (viW i)) =
    if x.active i lane then f lane % 2 ^ (8 * laneBytes (viW i)) else rawLane (viW i) (x.v (viD i)) lane := by
  rw [VeCtx.putLane]
  split
  · rfl
  · exact Nat.mod_eq_of_lt (rawLane_lt _ _ _)

/-- What putting lanes leaves, for an engine whose context `t` is that of `c`. -/
theorem Chip.lanesAre_vePutLanes {c d : Chip} {cl k t : Nat} (i : Nat) (f : Nat → Nat) (hctx : d.ctx cl k t = c.ctx cl k t)
    (hpc : (c.ctx cl k t).pc + 8 ≤ spillBase) : (d.vePutLanes cl k t i f).lanesAre c cl k t i f := by
  let x := c.ctx cl k t
  have hput : (d.vePutLanes cl k t i f).ctx cl k t =
      { x.setV (viD i) (packLanes (viW i) (x.putLane i f)) with pc := wrapInt 64 (x.pc + 8 : Nat) } := by
    rw [Chip.vePutLanes, Chip.ctx_veNext, Chip.ctx_setCtx_self, hctx]
    rfl
  rw [Chip.lanesAre, hput]
  refine ⟨fun lane hlane => ?_, fun r hr => x.v_setV_of_ne _ hr, rfl, rfl, wrapInt_of_le_spillBase hpc⟩
  calc rawLane (viW i) ((x.setV (viD i) (packLanes (viW i) (x.putLane i f))).v (viD i)) lane
    _ = x.putLane i f lane % 2 ^ (8 * laneBytes (viW i)) := by rw [VeCtx.v_setV_self, rawLane_packLanes _ hlane]
    _ = _ := x.putLane_mod i f lane

end Sys2Proof.Machine
end

section
/-! SUPPORT and certificates. Comparison, selection, reductions and conversions of lanes (R130, R134, R215, R227-R229). -/

namespace Sys2Proof.Machine

/-! The commands. -/

section
variable {s : State} {cl : Fin 32} (hr : s.ready cl) (k : Fin 16)
include hr

theorem exec_vcmp : exec (.vcmp cl k) s = s.goes (s.chip.vcmp cl k) := by
  have harm : exec (.vcmp cl k) s = execVcmp cl k s := rfl
  rw [harm, execVcmp, State.onCluster_ready _ hr]

theorem exec_vsel : exec (.vsel cl k) s = s.goes (s.chip.vsel cl k) := by
  have harm : exec (.vsel cl k) s = execVsel cl k s := rfl
  rw [harm, execVsel, State.onCluster_ready _ hr]

theorem exec_vrsum : exec (.vrsum cl k) s = s.goes (s.chip.vrsum cl k) := by
  have harm : exec (.vrsum cl k) s = execVrsum cl k s := rfl
  rw [harm, execVrsum, State.onCluster_ready _ hr]

theorem exec_vrmax : exec (.vrmax cl k) s = s.goes (s.chip.vrmax cl k) := by
  have harm : exec (.vrmax cl k) s = execVrmax cl k s := rfl
  rw [harm, execVrmax, State.onCluster_ready _ hr]

theorem exec_vrmaxabs : exec (.vrmaxabs cl k) s = s.goes (s.chip.vrmaxabs cl k) := by
  have harm : exec (.vrmaxabs cl k) s = execVrmaxabs cl k s := rfl
  rw [harm, execVrmaxabs, State.onCluster_ready _ hr]

theorem exec_vcvt : exec (.vcvt cl k) s = s.goes (s.chip.vcvt cl k) := by
  have harm : exec (.vcvt cl k) s = execVcvt cl k s := rfl
  rw [harm, execVcvt, State.onCluster_ready _ hr]

theorem exec_vdec : exec (.vdec cl k) s = s.goes (s.chip.vdec cl k) := by
  have harm : exec (.vdec cl k) s = execVdec cl k s := rfl
  rw [harm, execVdec, State.onCluster_ready _ hr]

end

/-! The tree of a reduction (R228; log entry 28). -/

theorem laneMerge_isSome {α : Type} (op : α → α → α) (a b : Option α) : (laneMerge op a b).isSome = (a.isSome || b.isSome) := by
  cases a <;> cases b <;> rfl

theorem pairs_length {α : Type} (op : α → α → α) (l : List α) : 2 * (pairTree.pairs op l).length ≤ l.length + 1 := by
  induction l using pairTree.pairs.induct with
  | case1 a b r ih =>
    simp only [pairTree.pairs, List.length_cons]
    omega
  | case2 l hl =>
    cases l with
    | nil => simp [pairTree.pairs]
    | cons a l =>
      cases l with
      | nil => simp [pairTree.pairs]
      | cons b r => exact absurd rfl (hl a b r)

/-- A level of the tree loses no active lane. -/
theorem pairs_any_isSome {α : Type} (op : α → α → α) (l : List (Option α)) :
    (pairTree.pairs (laneMerge op) l).any Option.isSome = l.any Option.isSome := by
  induction l using pairTree.pairs.induct with
  | case1 a b r ih => simp only [pairTree.pairs, List.any_cons, ih, laneMerge_isSome, Bool.or_assoc]
  | case2 l hl => rw [pairTree.pairs]; exact hl

/-- A tree that is high enough for its lanes has a value as soon as one of them is active. -/
theorem pairTree_isSome {α : Type} (op : α → α → α) {fuel : Nat} {l : List (Option α)} (hlen : l.length ≤ 2 ^ fuel)
    (hany : l.any Option.isSome = true) : (pairTree (laneMerge op) fuel l).join.isSome = true := by
  induction fuel generalizing l with
  | zero =>
    match l, hlen with
    | [a], _ => simpa [pairTree] using hany
  | succ fuel ih =>
    match l, hlen, hany with
    | [a], _, hany => simpa [pairTree] using hany
    | a :: b :: r, hlen, hany =>
      have hhalf := pairs_length (laneMerge op) (a :: b :: r)
      rw [Nat.pow_succ] at hlen
      exact ih (by omega) ((pairs_any_isSome op _).trans hany)

theorem laneTree_isSome {α : Type} (op : α → α → α) {l : List (Option α)} (hlen : l.length ≤ 512) (hany : l.any Option.isSome = true) :
    (laneTree op l).isSome = true := pairTree_isSome op hlen hany

/-! Comparison and selection. -/

/-- What VCMP leaves in a bit of its mask register, with the free bits of the instruction (R228; log entry 2). -/
def VeCtx.cmpBit (x : VeCtx) (i free lane : Nat) : Bool :=
  if lane < laneCount (viW i) && x.active i lane then
    if viImmU i % 8 = 7 then bit free lane
    else veCmp (viImmU i % 8) (laneVal (viW i) (x.lane i (viA i) lane)) (laneVal (viW i) (x.lane i (viB i) lane))
  else bit (KMap.getD x.mask (viD i) 0) lane

theorem VeCtx.cmpBit_eq (x : VeCtx) (i free lane : Nat) : x.cmpBit i free lane =
    if lane < laneCount (viW i) ∧ x.active i lane = true ∧ viImmU i % 8 ≠ 7 then
      veCmp (viImmU i % 8) (laneVal (viW i) (x.lane i (viA i) lane)) (laneVal (viW i) (x.lane i (viB i) lane))
    else if lane < laneCount (viW i) ∧ x.active i lane = true then bit free lane
    else bit (KMap.getD x.mask (viD i) 0) lane := by
  rw [VeCtx.cmpBit]
  by_cases hact : lane < laneCount (viW i) ∧ x.active i lane = true
  · by_cases hrel : viImmU i % 8 = 7 <;> simp [hact, hrel]
  · rw [if_neg (by simpa using hact), if_neg (fun ⟨hlane, hactive, _⟩ => hact ⟨hlane, hactive⟩), if_neg hact]

section
variable {c : Chip} {cl k t i : Nat}

theorem Chip.vcmp_turn (ht : c.veTurn cl k t i 0x08) (hlo : 1 ≤ viD i) (hhi : viD i < 4) :
    let x := c.ctx cl k t
    c.vcmp cl k = ((c.veCounted cl k t).tick.setCtx cl k t
      { x with mask := x.mask.insert (viD i) (packBits 256 (x.cmpBit i (Config.freeBits c.freeCtr 256))) }).veNext cl k t := by
  intro x
  rw [Chip.vcmp, Chip.veIssue_turn _ rfl ht]
  dsimp only
  rw [if_neg (by simp only [Bool.or_eq_true, decide_eq_true_eq]; omega), Chip.ctx_veCounted]
  rfl

theorem Chip.vsel_turn (ht : c.veTurn cl k t i 0x09) :
    let x := c.ctx cl k t
    c.vsel cl k = ((c.veCounted cl k t).setCtx cl k t
      (x.setV (viD i) (packLanes (viW i) fun lane => x.lane i (if x.active i lane then viA i else viB i) lane))).veNext cl k t := by
  intro x
  rw [Chip.vsel, Chip.veIssue_turn _ rfl ht]
  dsimp only
  rw [Chip.ctx_veCounted]
  rfl

theorem Chip.bit_vcmp {lane : Nat} (ht : c.veTurn cl k t i 0x08) (hlo : 1 ≤ viD i) (hhi : viD i < 4) (hlane : lane < 256) :
    bit (KMap.getD ((c.vcmp cl k).ctx cl k t).mask (viD i) 0) lane = (c.ctx cl k t).cmpBit i (Config.freeBits c.freeCtr 256) lane := by
  rw [Chip.vcmp_turn ht hlo hhi, Chip.ctx_veNext, Chip.ctx_setCtx_self]
  dsimp only
  rw [KMap.getD_insert_self, bit_packBits _ hlane]

theorem Chip.rawLane_vsel {lane : Nat} (ht : c.veTurn cl k t i 0x09) (hlane : lane < laneCount (viW i)) :
    let x := c.ctx cl k t
    rawLane (viW i) (((c.vsel cl k).ctx cl k t).v (viD i)) lane = x.lane i (if x.active i lane then viA i else viB i) lane := by
  intro x
  rw [Chip.vsel_turn ht, Chip.ctx_veNext, Chip.ctx_setCtx_self]
  refine (congrArg (rawLane (viW i) · lane) (x.v_setV_self (viD i) _)).trans ((rawLane_packLanes _ hlane).trans ?_)
  exact Nat.mod_eq_of_lt (rawLane_lt _ _ _)

/-! Reductions. -/

/-- The values of the active lanes of VA, at their places in the tree. -/
def VeCtx.leaves (x : VeCtx) (i : Nat) (pre : FVal → FVal) : List (Option FVal) :=
  (upto (laneCount (viW i))).map (fun lane => if x.active i lane then some (pre (laneVal (viW i) (x.lane i (viA i) lane))) else none)

/-- The active lanes. -/
def VeCtx.actives (x : VeCtx) (i : Nat) : List Nat := (upto (laneCount (viW i))).filter (x.active i)

/-- The result of a reduction, with the free bits of the instruction (R228). -/
def VeCtx.reduced (x : VeCtx) (i free : Nat) (fop : Bool → FVal → FVal → FVal) (pre : FVal → FVal) (iop : List Int → Int) : Nat :=
  let raws := (x.actives i).map (x.lane i (viA i))
  if raws.isEmpty then free % 2 ^ (8 * laneBytes (viW i))
  else if viW i = 2 then laneInt (iop (raws.map (sextInt 32))) free
  else match laneTree (fop (bit free 0)) (x.leaves i pre) with
    | some v => laneFp (viW i) v
    | none => 0

theorem Chip.ctx_veReduce {op : Nat} {fop : Bool → FVal → FVal → FVal} {pre : FVal → FVal} {iop : List Int → Int} (hk : knownVeOp op = true)
    (ht : c.veTurn cl k t i op) :
    let x := c.ctx cl k t
    let free := Config.freeBits c.freeCtr 96
    let bits := 8 * laneBytes (viW i)
    let res := x.reduced i free fop pre iop
    (c.veReduce cl k op fop pre iop).ctx cl k t =
      { (x.setV (viD i) (packLanes (viW i) fun _ => res)).setS (viImmU i % 32) (res % 2 ^ bits + (free >>> 32) * 2 ^ bits) with
        pc := wrapInt 64 (x.pc + 8 : Nat) } := by
  intro x free bits res
  rw [Chip.veReduce, Chip.veIssue_turn _ hk ht]
  dsimp only
  rw [Chip.ctx_veCounted, Chip.ctx_veNext, Chip.ctx_setCtx_self]
  rfl

theorem VeCtx.leaves_any {x : VeCtx} (pre : FVal → FVal) (hact : x.actives i ≠ []) : (x.leaves i pre).any Option.isSome = true := by
  obtain ⟨lane, hlane⟩ := List.exists_mem_of_ne_nil _ hact
  obtain ⟨hrange, hactive⟩ := List.mem_filter.mp hlane
  exact List.any_eq_true.mpr ⟨_, List.mem_map_of_mem hrange, by rw [if_pos hactive]; rfl⟩

theorem laneCount_le (w : Nat) : laneCount w ≤ 256 := by
  rw [laneCount]
  split <;> decide

theorem VeCtx.reduced_fp {x : VeCtx} (free : Nat) (fop : Bool → FVal → FVal → FVal) (pre : FVal → FVal) (iop : List Int → Int)
    (hact : x.actives i ≠ []) (hw : viW i ≠ 2) :
    ∃ v, laneTree (fop (bit free 0)) (x.leaves i pre) = some v ∧ x.reduced i free fop pre iop = laneFp (viW i) v := by
  have hlen : (x.leaves i pre).length ≤ 512 := by
    rw [VeCtx.leaves, List.length_map, upto, List.length_range]
    exact (laneCount_le _).trans (by decide)
  obtain ⟨v, hv⟩ := Option.isSome_iff_exists.mp (laneTree_isSome (fop (bit free 0)) hlen (VeCtx.leaves_any pre hact))
  refine ⟨v, hv, ?_⟩
  rw [VeCtx.reduced, if_neg (by simpa using hact), if_neg hw, hv]

theorem VeCtx.reduced_int {x : VeCtx} (free : Nat) (fop : Bool → FVal → FVal → FVal) (pre : FVal → FVal) (iop : List Int → Int)
    (hact : x.actives i ≠ []) (hw : viW i = 2) :
    x.reduced i free fop pre iop = laneInt (iop ((x.actives i).map (fun lane => sextInt 32 (x.lane i (viA i) lane)))) free := by
  rw [VeCtx.reduced, if_neg (by simpa using hact), if_pos hw, List.map_map]
  rfl

/-- The low bits of the scalar that takes a result: a scalar is wider than a lane. -/
theorem low_of_scalar (w r u : Nat) : (r % 2 ^ (8 * laneBytes w) + u * 2 ^ (8 * laneBytes w)) % 2 ^ 64 % 2 ^ (8 * laneBytes w) =
    r % 2 ^ (8 * laneBytes w) := by
  have hdvd : 2 ^ (8 * laneBytes w) ∣ 2 ^ 64 := by
    rw [laneBytes]
    split <;> exact Nat.pow_dvd_pow 2 (by decide)
  rw [Nat.mod_mod_of_dvd _ hdvd, Nat.add_mul_mod_self_right, Nat.mod_mod]

/-- A reduction over at least one active lane puts its result into every lane of VD and the low bits of the scalar. -/
theorem Chip.veReduce_gives {op : Nat} {fop : Bool → FVal → FVal → FVal} {pre : FVal → FVal} {iop : List Int → Int} (hk : knownVeOp op = true)
    (ht : c.veTurn cl k t i op) (hact : (c.ctx cl k t).actives i ≠ []) :
    let x := c.ctx cl k t
    let w := viW i
    let y := (c.veReduce cl k op fop pre iop).ctx cl k t
    ∃ res, (∀ lane, lane < laneCount w → rawLane w (y.v (viD i)) lane = res % 2 ^ (8 * laneBytes w)) ∧
      y.s (viImmU i % 32) % 2 ^ (8 * laneBytes w) = res % 2 ^ (8 * laneBytes w) ∧
      (w ≠ 2 → ∃ z v, laneTree (fop z) (x.leaves i pre) = some v ∧ res = laneFp w v) ∧
      (w = 2 → let r := iop ((x.actives i).map (fun lane => sextInt 32 (x.lane i (viA i) lane)));
        -(2 ^ 31) ≤ r → r < 2 ^ 31 → res = wrapInt 32 r) := by
  intro x w y
  let free := Config.freeBits c.freeCtr 96
  let res := x.reduced i free fop pre iop
  have hy := Chip.ctx_veReduce (fop := fop) (pre := pre) (iop := iop) hk ht
  refine ⟨res, fun lane hlane => ?_, ?_, fun hw => ?_, fun hw => ?_⟩
  · have hv : y.v (viD i) = packLanes w fun _ => res := (congrArg (·.v (viD i)) hy).trans (VeCtx.v_setV_self _ _ _)
    rw [hv, rawLane_packLanes _ hlane]
  · have hs : y.s (viImmU i % 32) = _ := (congrArg (·.s (viImmU i % 32)) hy).trans (VeCtx.s_setS_self _ _ _)
    rw [hs, low_of_scalar]
  · exact ⟨_, VeCtx.reduced_fp free fop pre iop hact hw⟩
  · intro r hlo hhi
    exact (VeCtx.reduced_int free fop pre iop hact hw).trans (if_pos ⟨hlo, hhi⟩)

/-! Conversions. -/

theorem Chip.vcvt_turn {f : Fmt} (ht : c.veTurn cl k t i 0x20) (hf : fmtOf (viFmt i) = some f) (hmx : isMx (viFmt i) = false)
    (hroom : packedBytes (viFmt i) (laneCount (viW i)) ≤ 512) :
    let d := c.veCounted cl k t
    let x := c.ctx cl k t
    let mode (lane : Nat) : Rnd := (rndOf (viRnd i) (Config.srDraw (d.srKey cl) (coreKey cl k) 3 (x.run.getD 0) (vePos t x.cvts lane)).toNat).getD .rne
    let out := (x.actives i).foldl (fun o l =>
      setElem (viFmt i) o l (f.encode (mode l) ((laneVal (viW i) (x.lane i (viA i) l)).scale (viImm i)))) (x.v (viD i))
    c.vcvt cl k = (d.setCtx cl k t { x.setV (viD i) out with cvts := x.cvts + 1 }).veNext cl k t := by
  intro d x mode out
  rw [Chip.vcvt, Chip.veIssue_turn _ rfl ht]
  simp only [hf, hmx, Nat.not_lt.mpr hroom, if_false, Bool.false_eq_true, Chip.ctx_veCounted]
  rfl

theorem Chip.vdec_turn (ht : c.veTurn cl k t i 0x21) (hw : viW i ≠ 2) (hf : (fmtOf (viFmt i)).isSome = true)
    (hroom : packedBytes (viFmt i) (laneCount (viW i)) ≤ 512) :
    let src := (c.ctx cl k t).v (viA i)
    c.vdec cl k = (c.veCounted cl k t).vePutLanes cl k t i (fun lane =>
      let v := elemAt (viFmt i) src lane
      laneFp (viW i) (if isMx (viFmt i) then underScale v (recNat src (rowBytes (viFmt i) (laneCount (viW i)) + lane / 32) 1) else v)) := by
  intro src
  have htaken : (decide (viW i = 2) || (fmtOf (viFmt i)).isNone || decide (512 < packedBytes (viFmt i) (laneCount (viW i)))) = false := by
    simp [hw, hroom, hf]
  rw [Chip.vdec, Chip.veIssue_turn _ rfl ht]
  simp only [htaken, if_false, Bool.false_eq_true, Chip.ctx_veCounted]
  rfl

end

/-- Settles O26: each instruction is followed from its turn to the mask, the lanes or the scalar that it leaves; a reduction, to the tree, which an active
lane gives a value. -/
theorem laneMovesCompareAndReduce : Obligations.LaneMovesCompareAndReduce := by
  unfold Obligations.LaneMovesCompareAndReduce
  intro s cl k t i hr c d0 x w n a b
  refine ⟨fun ht hlo hhi => ⟨_, exec_vcmp hr k, fun lane hlane => ?compare⟩, fun ht => ⟨_, exec_vsel hr k, fun lane hlane => ?select⟩, ?reduce,
    fun f ht hf hmx hroom => ?convert, fun ht hw hf hroom => ⟨_, exec_vdec hr k, ?decode⟩⟩
  case compare => exact (Chip.bit_vcmp ht hlo hhi hlane).trans (VeCtx.cmpBit_eq ..)
  case select => exact (Chip.rawLane_vsel ht hlane).trans (apply_ite (x.lane i · lane) _ _ _)
  case reduce =>
    intro act reduces hact
    have gives (cmd op fop pre iop) (hk : knownVeOp op = true) (hexec : exec cmd s = s.goes (c.veReduce cl k op fop pre iop))
        (ht : c.veTurn cl k t i op) : reduces cmd fop pre iop :=
      (Chip.veReduce_gives hk ht hact).elim fun res hres => ⟨_, res, hexec, hres⟩
    exact ⟨gives (.vrsum cl k) 0x18 (fun _ => add32) id List.sum rfl (by rw [exec_vrsum hr k, Chip.vrsum]),
      gives (.vrmax cl k) 0x19 fmax id (fun l => l.foldl max (l.headD 0)) rfl (by rw [exec_vrmax hr k, Chip.vrmax]),
      gives (.vrmaxabs cl k) 0x1A fmax FVal.abs (fun l => (l.map (fun y => (y.natAbs : Int))).foldl max 0) rfl
        (by rw [exec_vrmaxabs hr k, Chip.vrmaxabs])⟩
  case convert => rw [exec_vcvt hr k, Chip.vcvt_turn ht hf hmx hroom]; rfl
  case decode =>
    rw [Chip.vdec_turn ht hw hf hroom]
    obtain ⟨-, hpc, -⟩ := ht
    exact Chip.lanesAre_vePutLanes i _ (Chip.ctx_veCounted ..) hpc

end Sys2Proof.Machine
end

section
/-! SUPPORT and certificates. Shelves (R160-R169, R184): how entries lie behind one another, and which operations keep a shelf sound. -/

namespace Sys2Proof.Machine

/-! Entries behind one another (R160, R164). -/

/-- The extent of an entry: its start, the units that it passes over and those that it holds. -/
def ShelfEntry.extent (e : ShelfEntry) : Nat × Nat × Nat := (e.start, e.skip, e.units)

/-- One extent begins where another ends, in a region of `n` units. -/
def endsAt (n : Nat) (p q : Nat × Nat × Nat) : Prop := q.1 = (p.1 + p.2.1 + p.2.2) % (2 * n)

theorem chained_iff (n : Nat) (l : List ShelfEntry) : chained n l ↔ (l.map ShelfEntry.extent).IsChain (endsAt n) := by
  induction l with
  | nil => simp [chained]
  | cons e l ih =>
    cases l with
    | nil => simp [chained]
    | cons f r =>
      rw [List.map_cons, List.map_cons, List.isChain_cons_cons, ← List.map_cons, ← ih]
      rfl

theorem Shelf.used_eq (s : Shelf) : s.used = ((s.entries.map ShelfEntry.extent).map (fun p => p.2.1 + p.2.2)).sum := by
  rw [Shelf.used, List.map_map]
  rfl

/-- A sound shelf, by the extents of its entries and the number of the live ones. -/
theorem Shelf.sound_iff (s : Shelf) : s.sound ↔
    ((s.entries.map ShelfEntry.extent).map (fun p => p.2.1 + p.2.2)).sum ≤ s.span ∧ s.live ≤ 16 ∧
    (s.entries.map ShelfEntry.extent).IsChain (endsAt s.span) ∧ ∀ p ∈ s.entries.map ShelfEntry.extent, p.1 < 2 * s.span := by
  rw [Shelf.sound, Shelf.used_eq, chained_iff, List.forall_mem_map]
  rfl

theorem Shelf.live_eq_countP (s : Shelf) : s.live = s.entries.countP (fun e => !s.freed e) := List.countP_eq_length_filter.symm

/-! What keeps a shelf sound. -/

theorem map_modAt_of_eq {α β : Type} {g : α → β} {f : α → α} (h : ∀ a, g (f a) = g a) (l : List α) (i : Nat) :
    (modAt l i f).map g = l.map g := by
  rw [modAt]
  induction l generalizing i with
  | nil => simp
  | cons a l ih => cases i <;> simp [h, ih]

theorem countP_modAt_le {α : Type} {p : α → Bool} {f : α → α} (h : ∀ a, p (f a) = true → p a = true) (l : List α) (i : Nat) :
    (modAt l i f).countP p ≤ l.countP p := by
  rw [modAt]
  induction l generalizing i with
  | nil => simp
  | cons a l ih =>
    cases i with
    | zero =>
      rw [List.modify_zero_cons, List.countP_cons, List.countP_cons]
      have hless : (if p (f a) = true then 1 else 0) ≤ if p a = true then 1 else 0 := by
        split
        next hfa => rw [if_pos (h a hfa)]
        · exact Nat.zero_le _
      exact Nat.add_le_add_left hless _
    | succ i =>
      rw [List.modify_succ_cons, List.countP_cons, List.countP_cons]
      exact Nat.add_le_add_right (ih i) _

/-- A change of an entry that keeps its extent and does not make it live again keeps a shelf sound. -/
theorem Shelf.sound_modAt {s : Shelf} (hs : s.sound) (i : Nat) {f : ShelfEntry → ShelfEntry} (hkeep : ∀ e, (f e).extent = e.extent)
    (hrel : ∀ e, e.rel ≤ (f e).rel) : Shelf.sound { s with entries := modAt s.entries i f } := by
  rw [Shelf.sound_iff] at hs ⊢
  obtain ⟨hused, hlive, hchain, hstart⟩ := hs
  have hsame : (modAt s.entries i f).map ShelfEntry.extent = s.entries.map ShelfEntry.extent := map_modAt_of_eq hkeep _ _
  have hless : (modAt s.entries i f).countP (fun e => !s.freed e) ≤ s.entries.countP (fun e => !s.freed e) :=
    countP_modAt_le (fun e he => by have := hrel e; simp only [Shelf.freed, Bool.not_eq_true', decide_eq_false_iff_not] at he ⊢; omega) _ _
  rw [Shelf.live_eq_countP] at hlive
  refine ⟨hsame ▸ hused, ?_, hsame ▸ hchain, hsame ▸ hstart⟩
  rw [Shelf.live_eq_countP]
  exact hless.trans hlive

/-- Entries that leave at the head leave the rest sound. -/
theorem Shelf.sound_drop {s : Shelf} (hs : s.sound) (n q : Nat) : Shelf.sound { s with entries := s.entries.drop n, seqHead := q } := by
  rw [Shelf.sound_iff] at hs ⊢
  obtain ⟨hused, hlive, hchain, hstart⟩ := hs
  have hrest : (s.entries.drop n).map ShelfEntry.extent = (s.entries.map ShelfEntry.extent).drop n := List.map_drop
  rw [Shelf.live_eq_countP] at hlive
  rw [hrest]
  refine ⟨?_, ?_, hchain.drop n, fun p hp => hstart p (List.mem_of_mem_drop hp)⟩
  · exact (((List.drop_sublist n _).map _).sum_le_sum fun _ _ => Nat.zero_le _).trans hused
  · rw [Shelf.live_eq_countP]
    exact ((List.drop_sublist n s.entries).countP_le).trans hlive

theorem Shelf.sound_advance {s : Shelf} (hs : s.sound) : s.advance.sound := s.sound_drop hs _ _

theorem Shelf.claimPos_lt {s : Shelf} (hspan : 0 < s.span) : s.claimPos < 2 * s.span := by
  rw [Shelf.claimPos]
  split
  · exact Nat.mod_lt _ (by omega)
  · omega

/-- CLAIM stands where the newest entry ends (R160). -/
theorem Shelf.claimPos_endsAt {s : Shelf} {p : Nat × Nat × Nat} (h : p ∈ (s.entries.map ShelfEntry.extent).getLast?) (q : Nat × Nat) :
    endsAt s.span p (s.claimPos, q) := by
  rw [List.getLast?_map, Option.mem_def, Option.map_eq_some_iff] at h
  obtain ⟨e, he, rfl⟩ := h
  rw [Shelf.claimPos, he]
  rfl

/-- A claim that fits, placed in a region that is not empty, keeps a shelf sound (R162). -/
theorem Shelf.sound_place {s : Shelf} (hs : s.sound) (hspan : 0 < s.span) {u : Nat} (hfit : s.fits u = true) : (s.place u).sound := by
  rw [Shelf.fits, Bool.and_eq_true, decide_eq_true_eq, decide_eq_true_eq, Shelf.used_eq] at hfit
  obtain ⟨hroom, hunits⟩ := hfit
  rw [Shelf.sound_iff] at hs ⊢
  obtain ⟨-, -, hchain, hstart⟩ := hs
  have hextents : (s.place u).entries.map ShelfEntry.extent = s.entries.map ShelfEntry.extent ++ [(s.claimPos, s.skipFor u, u)] := List.map_append
  rw [hextents]
  refine ⟨?_, ?_, ?_, ?_⟩
  · rw [List.map_append, List.sum_append, List.map_singleton, List.sum_singleton, ← Nat.add_assoc]
    exact hunits
  · rw [Shelf.live_eq_countP] at hroom ⊢
    refine (List.countP_append).trans_le ?_
    have hone : ([⟨s.claimPos, s.skipFor u, u, false, 0⟩] : List ShelfEntry).countP (fun e => !(s.place u).freed e) ≤ 1 := List.countP_le_length
    exact Nat.add_le_add (Nat.le_of_lt_succ hroom) hone
  · refine hchain.append (List.isChain_singleton _) fun p hp q hq => ?_
    rw [List.head?_cons, Option.mem_some_iff] at hq
    exact hq ▸ Shelf.claimPos_endsAt hp _
  · rw [List.forall_mem_append, List.forall_mem_singleton]
    exact ⟨hstart, Shelf.claimPos_lt hspan⟩

/-! The operations (R162, R165, R288). -/

theorem Shelf.sound_claim {s : Shelf} (hs : s.sound) (hspan : 0 < s.span) (u : Nat) (who : ClaimAgent) : (s.claim u who).1.sound := by
  unfold Shelf.claim
  split
  · exact hs
  · split
    · exact hs
    · split
      next h =>
        obtain ⟨-, hfit⟩ := Bool.and_eq_true_iff.mp h
        exact s.sound_place hs hspan hfit
      · exact hs

theorem Shelf.sound_grantOldest {s t : Shelf} (hs : s.sound) (hspan : 0 < s.span) {w : ShelfClaim} {q o : Nat}
    (h : s.grantOldest = some (t, w, q, o)) : t.sound := by
  unfold Shelf.grantOldest at h
  split at h
  · cases h
  next v r hw =>
    split at h
    next hfit =>
      cases h
      exact Shelf.sound_place (s := { s with waiting := r }) hs hspan hfit
    · cases h

theorem Shelf.sound_commit {s : Shelf} (hs : s.sound) (q : Nat) : (s.commit q).1.sound := by
  have hmark (i : Nat) : Shelf.sound { s with entries := modAt s.entries i (fun e => { e with committed := true }) } :=
    s.sound_modAt hs i (fun _ => rfl) (fun _ => le_rfl)
  unfold Shelf.commit
  split
  · exact hs
  · split
    · exact hs
    · split
      · split
        · exact hs
        · exact hmark _
      · exact hs

theorem Shelf.sound_release {s : Shelf} (hs : s.sound) (q : Nat) : (s.release q).1.sound := by
  unfold Shelf.release
  split
  · exact hs
  · split
    · exact hs
    · exact Shelf.sound_advance (s.sound_modAt hs _ (fun _ => rfl) (fun e => Nat.le_succ e.rel))

theorem Shelf.sound_emptied (s : Shelf) : s.emptied.sound := (Shelf.sound_iff _).mpr
  ⟨Nat.zero_le _, Nat.zero_le _, List.isChain_nil, fun _ h => nomatch h⟩

/-- An open shelf without a region, as a plan that stages 0 KiB leaves shelves 252-254 (R155). -/
def noRegion : Shelf := { opened := true }

theorem noRegion_sound : noRegion.sound := (Shelf.sound_iff _).mpr ⟨le_rfl, Nat.zero_le _, List.isChain_nil, fun _ h => nomatch h⟩

/-- Refutes O14: a claim of 0 units fits a shelf whose region is empty, and its entry then starts at position 0, which is not below twice the region.
On a region that is not empty the claim and the grant keep a shelf sound (`Shelf.sound_claim`, `Shelf.sound_grantOldest`); the other operations keep
every shelf sound (`Shelf.sound_commit`, `Shelf.sound_release`, `Shelf.sound_emptied`). -/
theorem not_shelfOperationsStaySound : ¬ Obligations.ShelfOperationsStaySound := by
  unfold Obligations.ShelfOperationsStaySound
  rintro ⟨hclaim, -⟩
  obtain ⟨-, -, -, hstart⟩ := hclaim noRegion 0 (.dma 0 0) noRegion_sound
  have hplaced : ⟨0, 0, 0, false, 0⟩ ∈ (noRegion.claim 0 (.dma 0 0)).1.entries := by decide
  exact absurd (hstart _ hplaced) (by decide)

end Sys2Proof.Machine
end

section
/-! SUPPORT and certificates. The shelf commands (R161, R162, R165, R167, R168, R184). -/

namespace Sys2Proof.Machine

/-! Shelves in the module. -/

/-- Of two insertions at a key the second stands. -/
@[simp] theorem KMap.insert_insert {α : Type} (m : KMap α) (k : Nat) (v w : α) : (m.insert k v).insert k w = m.insert k w := by
  induction m with
  | nil => simp [KMap.insert]
  | cons e r ih =>
    obtain ⟨j, x⟩ := e
    rcases Nat.lt_trichotomy k j with hlt | rfl | hgt
    · simp [KMap.insert, hlt]
    · simp [KMap.insert]
    · simp [KMap.insert, Nat.not_lt.mpr hgt.le, hgt.ne', ih]

section
variable (c : Chip) {r : ShelfRef}

theorem Chip.shelf_spill (h : r.isSpill = true) : c.shelf r = {} := if_pos h

theorem Chip.setShelf_spill (h : r.isSpill = true) (s : Shelf) : c.setShelf r s = c := if_pos h

theorem Chip.shelf_setShelf_self (h : r.isSpill = false) (s : Shelf) : (c.setShelf r s).shelf r = s := by
  simp [Chip.shelf, Chip.setShelf, h]

theorem Chip.setOpResult_setShelf (h : r.isSpill = false) (s : Shelf) (refused : Bool) :
    (c.setShelf r s).setOpResult r refused = c.setShelf r { s with opResult := b2n refused } := by
  simp [Chip.setOpResult, Chip.setShelf, h]

theorem Chip.setOpResult_eq (h : r.isSpill = false) (refused : Bool) :
    c.setOpResult r refused = c.setShelf r { c.shelf r with opResult := b2n refused } := by
  simp [Chip.setOpResult, Chip.setShelf, Chip.shelf, h]

end

/-! Claims that fit. -/

@[simp] theorem Shelf.getLast?_place (s : Shelf) (u : Nat) :
    (s.place u).entries.getLast? = some ⟨s.claimPos, s.skipFor u, u, false, 0⟩ := List.getLast?_concat

/-- A claim of a unit or more fits only a region that is not empty. -/
theorem Shelf.span_pos_of_fits {s : Shelf} {u : Nat} (hu : 1 ≤ u) (h : s.fits u = true) : 0 < s.span := by
  rw [Shelf.fits, Bool.and_eq_true, decide_eq_true_eq, decide_eq_true_eq] at h
  omega

theorem Shelf.entryOff_place {s : Shelf} {u : Nat} (hu : 1 ≤ u) (h : s.fits u = true) :
    (s.place u).entryOff ⟨s.claimPos, s.skipFor u, u, false, 0⟩ = (s.claimPos + s.skipFor u) % s.span :=
  if_neg (Shelf.span_pos_of_fits hu h).ne'

/-- The oldest waiting claim is placed where it fits (R162, R165). -/
theorem Shelf.grantOldest_fits {s : Shelf} {w : ShelfClaim} {l : List ShelfClaim} (hw : s.waiting = w :: l) (hu : 1 ≤ w.units)
    (h : s.fits w.units = true) :
    s.grantOldest = some (Shelf.place { s with waiting := l } w.units, w, s.seqNext, (s.claimPos + s.skipFor w.units) % s.span) := by
  simp only [Shelf.grantOldest, hw, h, if_true, Shelf.getLast?_place]
  rw [Shelf.entryOff_place (s := { s with waiting := l }) hu h]
  rfl

/-- A claim that fits is granted at once where no claim waits (R162). -/
theorem Shelf.claim_fits {s : Shelf} {u : Nat} (who : ClaimAgent) (hopen : s.opened = true) (hover : u ≤ s.span) (hwait : s.waiting = [])
    (hu : 1 ≤ u) (h : s.fits u = true) : s.claim u who = (s.place u, .granted s.seqNext ((s.claimPos + s.skipFor u) % s.span)) := by
  simp only [Shelf.claim, hopen, hwait, h, Nat.not_lt.mpr hover, Shelf.getLast?_place, Shelf.entryOff_place hu h, Bool.not_true, Bool.false_eq_true,
    List.isEmpty_nil, Bool.and_self, if_true, if_false]

/-! The register commands (R161, R162, R167, R184). -/

section
variable {c : Chip} {r : ShelfRef}

theorem Chip.shelfOpen_opens (hspill : r.isSpill = false) (hclosed : (c.shelf r).opened = false) {s : Shelf} (hok : c.openOk r s = true) :
    c.shelfOpen true r s = c.setShelf r { s with
      opened := true, seqHead := 0, entries := [], waiting := [], opResult := (c.shelf r).opResult, opOffset := (c.shelf r).opOffset } := by
  simp [Chip.shelfOpen, hspill, hclosed, hok]

theorem Chip.shelfClose_closes (hopen : (c.shelf r).opened = true) (hlive : (c.shelf r).live = 0) (hwait : (c.shelf r).waiting = []) (d : Shelf) :
    c.shelfClose r d = c.setShelf r { c.shelf r with opened := false, entries := [] } := by
  simp [Chip.shelfClose, hopen, hlive, hwait]

/-- A register claim that can be placed is; any other sets RESULT alone (R162, R184). -/
theorem Chip.shelfOpClaim_eq (hspill : r.isSpill = false) (u : Nat) :
    let x := c.shelf r
    c.shelfOpClaim r u = if x.opened && decide (1 ≤ u) && decide (u ≤ x.span) && x.waiting.isEmpty && x.fits u then
      c.setShelf r { x.place u with opResult := 0, opOffset := shelfPtr x.span (x.claimPos + x.skipFor u) } else c.setOpResult r true := by
  intro x
  refine ite_congr rfl (fun _ => ?_) (fun _ => rfl)
  rw [Shelf.getLast?_place, Chip.setOpResult_setShelf _ hspill]
  rfl

/-- A commit of an entry marks it, and increments no counter where SIG_SYNC names none (R162, R166). -/
theorem Chip.shelfOpCommit_marks (hspill : r.isSpill = false) {q j : Nat} {e : ShelfEntry} (hopen : (c.shelf r).opened = true)
    (hj : (c.shelf r).index? q = some j) (he : (c.shelf r).entries[j]? = some e) (hfresh : e.committed = false)
    (hsig : (c.shelf r).sigSync = 0xFFFF) :
    c.shelfOpCommit r q = c.setShelf r { c.shelf r with
      entries := modAt (c.shelf r).entries j (fun e => { e with committed := true }), opResult := 0 } := by
  simp only [Chip.shelfOpCommit, Shelf.commit, hopen, hj, he, hfresh, hsig, Bool.not_true, Bool.false_eq_true, if_false]
  exact Chip.setOpResult_setShelf _ hspill ..

theorem Chip.shelfOpRelease_counts (hspill : r.isSpill = false) {q j : Nat} (hopen : (c.shelf r).opened = true) (hj : (c.shelf r).index? q = some j) :
    c.shelfOpRelease r q = c.setShelf r { Shelf.advance { c.shelf r with
      entries := modAt (c.shelf r).entries j (fun e => { e with rel := e.rel + 1 }) } with opResult := 0 } := by
  simp only [Chip.shelfOpRelease, Shelf.release, hopen, hj, Bool.not_true, Bool.false_eq_true, if_false]
  exact Chip.setOpResult_setShelf _ hspill ..

end

/-! Shelf 63 (R168). -/

theorem Shelf.commit_closed {s : Shelf} (h : s.opened = false) (q : Nat) : s.commit q = (s, COMP_SHELF_CLOSED) := by simp [Shelf.commit, h]

theorem Shelf.release_closed {s : Shelf} (h : s.opened = false) (q : Nat) : s.release q = (s, COMP_SHELF_CLOSED) := by simp [Shelf.release, h]

section
variable (c : Chip) {r : ShelfRef} (h : r.isSpill = true)
include h

theorem Chip.shelfOpen_spill (share : Bool) (s : Shelf) : c.shelfOpen share r s = c := by rw [Chip.shelfOpen, h, Bool.true_or, if_pos rfl]

theorem Chip.shelfClose_spill (d : Shelf) : c.shelfClose r d = c := by
  simp only [Chip.shelfClose, Chip.shelf_spill c h, Chip.setShelf_spill c h, Bool.not_false, if_true]

theorem Chip.shelfOpClaim_spill (u : Nat) : c.shelfOpClaim r u = c.setOpResult r true := by
  simp only [Chip.shelfOpClaim, Chip.shelf_spill c h, Bool.false_and, Bool.false_eq_true, if_false]

theorem Chip.shelfOpCommit_spill (q : Nat) : c.shelfOpCommit r q = c.setOpResult r true := by
  rw [Chip.shelfOpCommit, Chip.shelf_spill c h, Shelf.commit_closed rfl]
  exact congrArg (Chip.setOpResult · r true) (Chip.setShelf_spill c h _)

theorem Chip.shelfOpRelease_spill (q : Nat) : c.shelfOpRelease r q = c.setOpResult r true := by
  rw [Chip.shelfOpRelease, Chip.shelf_spill c h, Shelf.release_closed rfl]
  exact congrArg (Chip.setOpResult · r true) (Chip.setShelf_spill c h _)

end

/-! The commands. -/

theorem Chip.atShelf_there {c : Chip} {sel : ShelfSel} (h : c.clusterLive (shelfRef sel).cluster = true) (f : Chip → ShelfRef → Chip) :
    c.atShelf sel f = f c (shelfRef sel) := by
  have hoff : c.clusterOff (shelfRef sel).cluster = false := by
    obtain ⟨hoff, -⟩ := Bool.and_eq_true_iff.mp h
    exact (Bool.not_eq_true' _).mp hoff
  cases sel <;> exact if_neg (Bool.eq_false_iff.mp hoff)

section
variable {s : State} {sel : ShelfSel} (hr : s.ready (shelfRef sel).cluster)
include hr

theorem exec_shelfOpen (who : RegAgent) (v : BitVec 64) : exec (.shelfOpen who sel v) s = s.goes (s.chip.inside who (fun c =>
    c.shelfOpen (c.mayOpen who (shelfRef sel) (shelfOfCfg v.toNat)) (shelfRef sel) (shelfOfCfg v.toNat))) := by
  obtain ⟨hup, hlive⟩ := hr
  have harm : exec (.shelfOpen who sel v) s = execShelfOpen who sel v s := rfl
  rw [harm, execShelfOpen, State.onChip_up _ hup, Chip.inside, Chip.inside, Chip.atShelf_there hlive]

theorem exec_shelfClose (v : BitVec 64) : exec (.shelfClose sel v) s = s.goes (s.chip.shelfClose (shelfRef sel) (shelfOfCfg v.toNat)) := by
  obtain ⟨hup, hlive⟩ := hr
  have harm : exec (.shelfClose sel v) s = execShelfClose sel v s := rfl
  rw [harm, execShelfClose, State.onChip_up _ hup, Chip.atShelf_there hlive]

theorem exec_shelfOpClaim (u : BitVec 20) : exec (.shelfOpClaim sel u) s = s.goes (s.chip.shelfOpClaim (shelfRef sel) u.toNat) := by
  obtain ⟨hup, hlive⟩ := hr
  have harm : exec (.shelfOpClaim sel u) s = execShelfOpClaim sel u s := rfl
  rw [harm, execShelfOpClaim, State.onChip_up _ hup, Chip.atShelf_there hlive]

theorem exec_shelfOpCommit (q : BitVec 16) : exec (.shelfOpCommit sel q) s = s.goes (s.chip.shelfOpCommit (shelfRef sel) q.toNat) := by
  obtain ⟨hup, hlive⟩ := hr
  have harm : exec (.shelfOpCommit sel q) s = execShelfOpCommit sel q s := rfl
  rw [harm, execShelfOpCommit, State.onChip_up _ hup, Chip.atShelf_there hlive]

theorem exec_shelfOpRelease (q : BitVec 16) : exec (.shelfOpRelease sel q) s = s.goes (s.chip.shelfOpRelease (shelfRef sel) q.toNat) := by
  obtain ⟨hup, hlive⟩ := hr
  have harm : exec (.shelfOpRelease sel q) s = execShelfOpRelease sel q s := rfl
  rw [harm, execShelfOpRelease, State.onChip_up _ hup, Chip.atShelf_there hlive]

theorem exec_shelfClaimGrant : exec (.shelfClaimGrant sel) s = s.goes (s.chip.shelfGrant (shelfRef sel)) := by
  have harm : exec (.shelfClaimGrant sel) s = execShelfClaimGrant sel s := rfl
  rw [harm, execShelfClaimGrant, State.onCluster_ready _ hr]

end

/-- Settles O13: each command is followed to the one shelf that it writes, and to RESULT alone where it is refused. -/
theorem shelfCommandsComplete : Obligations.ShelfCommandsComplete := by
  unfold Obligations.ShelfCommandsComplete
  intro s sel hr r x
  refine ⟨fun hspill who v u q => ?spill, fun hspill => ⟨
    fun who v hin hclosed hmay hok => ?opens, fun v hopen hlive hwait => ?closes, fun u => ?claims, fun q j e hopen hj he hfresh hsig => ?commits,
    fun q j hopen hj => ?releases, fun w l hw hu hfit => ?grants⟩⟩
  case spill =>
    refine ⟨?_, ?_, ?_, ?_, ?_⟩
    · rw [exec_shelfOpen hr, Chip.inside, Chip.shelfOpen_spill _ hspill, ite_self]
    · rw [exec_shelfClose hr, Chip.shelfClose_spill _ hspill]
    · rw [exec_shelfOpClaim hr, Chip.shelfOpClaim_spill _ hspill]
    · rw [exec_shelfOpCommit hr, Chip.shelfOpCommit_spill _ hspill]
    · rw [exec_shelfOpRelease hr, Chip.shelfOpRelease_spill _ hspill]
  case opens =>
    rw [exec_shelfOpen hr, Chip.inside, if_pos hin, hmay, Chip.shelfOpen_opens hspill hclosed hok]
    rfl
  case closes => rw [exec_shelfClose hr, Chip.shelfClose_closes hopen hlive hwait]
  case claims => rw [exec_shelfOpClaim hr, Chip.shelfOpClaim_eq hspill]
  case commits => rw [exec_shelfOpCommit hr, Chip.shelfOpCommit_marks hspill hopen hj he hfresh hsig]
  case releases => rw [exec_shelfOpRelease hr, Chip.shelfOpRelease_counts hspill hopen hj]
  case grants =>
    intro c
    obtain ⟨units, agent⟩ := w
    cases agent with
    | spMove | dma | ve => rw [exec_shelfClaimGrant hr, Chip.shelfGrant, Shelf.grantOldest_fits hw hu hfit]

end Sys2Proof.Machine
end

section
/-! SUPPORT and certificates. Moves of absolute commons offsets and errors of SRAM (R156, R157, R159, R169, R181). -/

namespace Sys2Proof.Machine

/-! SP_MOVE (R156-R159). -/

@[simp] theorem Chip.setSeq_setSeq (c : Chip) (cl k : Nat) (p q : CoreSeq) : (c.setSeq cl k p).setSeq cl k q = c.setSeq cl k q :=
  congrArg (fun m => { c with seqs := m }) (KMap.insert_insert ..)

section
variable {c : Chip} {cl k : Nat}

/-- 0xFF names an absolute commons offset and no shelf (R156). -/
theorem moveShelf_absolute {bs : List Byte} (habs : recNat bs 6 1 = 0xFF) (cl : Nat) : moveShelf cl bs = none := if_pos habs

/-- A move of an absolute offset that passes its checks joins the moves and the sequencer goes on (R156-R159). -/
theorem Chip.spMove_absolute {bs : List Byte} (hat : c.seqAt cl k 0xA = some bs) (habs : recNat bs 6 1 = 0xFF) (hreason : mvReason bs none = none)
    (hshare : c.mvDenied cl k (c.seqPart cl k) bs = false) (hroom : (c.seqOf cl k).moves.length < 4)
    (hapart : c.moveClash cl k (moveRegion bs).1 (moveRegion bs).2 = false) :
    let q := c.seqOf cl k
    c.spMove cl k = (c.setSeq cl k { q with
      seqNo := q.seqNo + 1, moves := q.moves ++ [⟨bs, q.slot, q.seqNo, q.part, none, false⟩] }).seqAdvance cl k := by
  intro q
  have hcode : c.mvShelfCode cl bs = COMP_OK := by rw [Chip.mvShelfCode, moveShelf_absolute habs]
  have hissue : ¬(COMP_OK = COMP_SHELF_SEQ) ∧ (COMP_OK != COMP_OK) = false := by decide
  simp only [Chip.spMove, hat, moveShelf_absolute habs, Option.bind_none, hreason, hcode, hissue, hshare, hapart, Nat.not_le.mpr hroom,
    Chip.seqNumber_eq, Chip.numbered, Chip.seqOf_setSeq_self, Chip.setSeq_setSeq, decide_false, Bool.or_self, Bool.false_eq_true, if_false]
  rfl

/-- The oldest move carries its rows and is counted, where it names no shelf and nothing holds it (R157, R159). -/
theorem Chip.spMoveDone_absolute {m : Move} {rest : List Move} (hmoves : (c.seqOf cl k).moves = m :: rest) (habs : recNat m.cmd 6 1 = 0xFF)
    (hheld : c.moveHeld cl m = false) (conflict wait : Nat) :
    let c1 := ((c.setSeq cl k { c.seqOf cl k with moves := rest }).addF (.sp cl k) R.SP_CONFLICT_CYC conflict).addF (.cm cl) R.CM_WAIT_CYC wait
    c.spMoveDone cl k conflict wait = ((forAll (upto (mvRows m.cmd)) c1 (fun d i => d.mvRow cl k m i)).addF (.sp cl k) R.SP_MOVE_BYTES
      (mvRows m.cmd * mvRowBytes m.cmd)).cmdDone cl k 1 := by
  simp only [Chip.spMoveDone, hmoves, hheld, moveShelf_absolute habs, Bool.false_eq_true, if_false]

end

/-! The commands. -/

section
variable {s : State} {cl : Fin 32} (hr : s.ready cl) (k : Fin 16)
include hr

theorem exec_spMove : exec (.spMove cl k) s = s.goes (s.chip.spMove cl k) := by
  have harm : exec (.spMove cl k) s = execSpMove cl k s := rfl
  rw [harm, execSpMove, State.onCluster_ready _ hr]

theorem exec_spMoveDone (conflict wait : BitVec 32) :
    exec (.spMoveDone cl k conflict wait) s = s.goes (s.chip.spMoveDone cl k conflict.toNat wait.toNat) := by
  have harm : exec (.spMoveDone cl k conflict wait) s = execSpMoveDone cl k conflict wait s := rfl
  rw [harm, execSpMoveDone, State.onCluster_ready _ hr]

end

theorem exec_sramEccError {s : State} {site : SramSite} (hr : s.ready (siteCluster site)) (ue : Bool) :
    exec (.sramEccError site ue) s = s.goes (s.chip.sramEcc ue site) := by
  have harm : exec (.sramEccError site ue) s = execSramEccError site ue s := rfl
  rw [harm, execSramEccError, State.onCluster_ready _ hr]

/-- Settles O23: a move is followed past the checks that it passes, a finished one to its count, and an error to the branch of its site. -/
theorem movesAndSramErrors : Obligations.MovesAndSramErrors := by
  unfold Obligations.MovesAndSramErrors
  refine ⟨fun s cl k bs hr => ?issues, fun s cl k conflict wait m rest hr => ?completes, fun s cl k cmOff off hr => ?errs⟩
  case issues =>
    intro c q hat habs hreason hshare hroom hapart
    rw [exec_spMove hr, Chip.spMove_absolute hat habs hreason hshare hroom hapart]
  case completes =>
    intro c q hmoves habs hheld c1 c2
    rw [exec_spMoveDone hr, Chip.spMoveDone_absolute hmoves habs hheld]
  case errs =>
    intro c
    have hcm (ue : Bool) := exec_sramEccError (site := .commons cl cmOff) hr ue
    have hsp (ue : Bool) := exec_sramEccError (site := .scratch cl k off) hr ue
    refine ⟨hcm false, hsp false, hcm true, fun hline => ?noLine, fun l hline hclean => ?cleanLine⟩
    case noLine => rw [hsp true, Chip.sramEcc, hline, Chip.coreEcc]
    case cleanLine => rw [hsp true, Chip.sramEcc, hline, Chip.coreEcc, if_neg (Bool.eq_false_iff.mp hclean)]

end Sys2Proof.Machine
end

section
/-! SUPPORT and certificates. Shelves and counters in the vector engine (R162, R226, R228, R277, R278). -/

namespace Sys2Proof.Machine

/-! The commands. -/

section
variable {s : State} {cl : Fin 32} (hr : s.ready cl) (k : Fin 16)
include hr

theorem exec_shclaim : exec (.shclaim cl k) s = s.goes (s.chip.veShClaim cl k) := by
  have harm : exec (.shclaim cl k) s = execShclaim cl k s := rfl
  rw [harm, execShclaim, State.onCluster_ready _ hr]

theorem exec_shcommit : exec (.shcommit cl k) s = s.goes (s.chip.veShCommit cl k) := by
  have harm : exec (.shcommit cl k) s = execShcommit cl k s := rfl
  rw [harm, execShcommit, State.onCluster_ready _ hr]

theorem exec_shrelease : exec (.shrelease cl k) s = s.goes (s.chip.veShRelease cl k) := by
  have harm : exec (.shrelease cl k) s = execShrelease cl k s := rfl
  rw [harm, execShrelease, State.onCluster_ready _ hr]

theorem exec_swait : exec (.swait cl k) s = s.goes (s.chip.veSwait cl k) := by
  have harm : exec (.swait cl k) s = execSwait cl k s := rfl
  rw [harm, execSwait, State.onCluster_ready _ hr]

theorem exec_ssignal : exec (.ssignal cl k) s = s.goes (s.chip.veSsignal cl k) := by
  have harm : exec (.ssignal cl k) s = execSsignal cl k s := rfl
  rw [harm, execSsignal, State.onCluster_ready _ hr]

end

/-! Shelves (R162, R226). -/

/-- An instruction names a shelf of the commons, or one of the core's 64. -/
def namesShelf (i : Nat) : Prop := bit (viImmU i) 8 = true ∨ viImmU i % 256 < 64

theorem namesShelf.cond {i : Nat} (h : namesShelf i) : (!bit (viImmU i) 8 && decide (64 ≤ viImmU i % 256)) = false := by
  rcases h with h | h
  · rw [h]
    rfl
  · rw [decide_eq_false (Nat.not_le.mpr h), Bool.and_false]

section
variable {c : Chip} {cl k t i : Nat}

/-- A claim of whole units that is granted at once takes the place of its entry as a byte offset (log entry 33). -/
theorem Chip.veShClaim_granted (ht : c.veTurn cl k t i 0x30) (hn : namesShelf i) (hspill : (veShelf cl k i).isSpill = false) :
    let d := c.veCounted cl k t
    let x := c.ctx cl k t
    let a := x.s (viA i)
    let r := veShelf cl k i
    let h := d.shelf r
    a ≠ 0 → a % 64 = 0 → h.opened = true → a / 64 ≤ h.span → h.waiting = [] → h.fits (a / 64) = true →
    c.veShClaim cl k = ((d.setShelf r (h.place (a / 64))).setCtx cl k t
      (x.setS (viD i) (h.base * 1024 + (h.claimPos + h.skipFor (a / 64)) % h.span * 64))).veNext cl k t := by
  intro d x a r h hzero hwhole hopen hover hwait hfit
  have hunit : 1 ≤ a / 64 := by omega
  have hclaim : d.shelfClaim r (a / 64) (.ve cl k t) =
      (d.setShelf r (h.place (a / 64)), .granted h.seqNext ((h.claimPos + h.skipFor (a / 64)) % h.span)) := by
    rw [Chip.shelfClaim, Shelf.claim_fits _ hopen hover hwait hunit hfit]
  have hbad : (decide (a = 0) || decide (a % 64 ≠ 0)) = false := by simp [hzero, hwhole]
  rw [Chip.veShClaim, Chip.veIssue_turn _ rfl ht]
  dsimp only
  rw [Chip.ctx_veCounted, if_neg (Bool.eq_false_iff.mp hbad), if_neg (Bool.eq_false_iff.mp hn.cond), hclaim]
  dsimp only
  rw [Chip.entryByte, Chip.shelf_setShelf_self _ hspill]
  rfl

theorem Chip.veShCommit_turn (ht : c.veTurn cl k t i 0x31) (hn : namesShelf i) :
    let d := c.veCounted cl k t
    let z := d.shelfCommit (veShelf cl k i) (d.vePart cl k t) ((c.ctx cl k t).s (viA i))
    c.veShCommit cl k = z.1.veShelfDone cl k t z.2 := by
  intro d z
  rw [Chip.veShCommit, Chip.veIssue_turn _ rfl ht]
  dsimp only
  rw [Chip.ctx_veCounted, if_neg (Bool.eq_false_iff.mp hn.cond)]

theorem Chip.veShRelease_turn (ht : c.veTurn cl k t i 0x32) (hn : namesShelf i) :
    let z := (c.veCounted cl k t).shelfRelease (veShelf cl k i) ((c.ctx cl k t).s (viA i))
    c.veShRelease cl k = z.1.veShelfDone cl k t z.2 := by
  intro z
  rw [Chip.veShRelease, Chip.veIssue_turn _ rfl ht]
  dsimp only
  rw [Chip.ctx_veCounted, if_neg (Bool.eq_false_iff.mp hn.cond)]

/-! Counters (R228, R277, R278). -/

/-- SWAIT, by the counter's number and its value. -/
theorem Chip.veSwait_turn (ht : c.veTurn cl k t i 0x38) :
    let d := c.veCounted cl k t
    let a := (c.ctx cl k t).s (viA i)
    let b := (c.ctx cl k t).s (viB i)
    let p := d.vePart cl k t
    c.veSwait cl k = if d.syncRange p ≤ a then (d.syncRangeErr (cl / 8) d.deviceId p a).veBad cl k t 7 COMP_SYNC_RANGE
      else if b ≤ d.syncVal (d.syncIndex p a) then d.veNext cl k t else (d.addWait (d.syncIndex p a) b (.ve cl k t)).veHold cl k t .sync := by
  intro d a b p
  rw [Chip.veSwait, Chip.veIssue_turn _ rfl ht]
  dsimp only
  rw [Chip.ctx_veCounted]

theorem Chip.veSsignal_counts (ht : c.veTurn cl k t i 0x39) :
    let d := c.veCounted cl k t
    let a := (c.ctx cl k t).s (viA i)
    let b := (c.ctx cl k t).s (viB i)
    let p := d.vePart cl k t
    b ≠ 0 → b ≤ 0xFFFFFFFF → a < d.syncRange p → c.veSsignal cl k = (d.syncInc (cl / 8) p a b).1.veNext cl k t := by
  intro d a b p hzero hmax hrange
  have hgood : (decide (b = 0) || decide (0xFFFFFFFF < b)) = false := by simp [hzero, hmax]
  rw [Chip.veSsignal, Chip.veIssue_turn _ rfl ht]
  dsimp only
  rw [Chip.ctx_veCounted, if_neg (Bool.eq_false_iff.mp hgood), if_pos (Chip.syncInc_inRange hrange _ _)]

theorem Chip.veSsignal_zero (ht : c.veTurn cl k t i 0x39) (hzero : (c.ctx cl k t).s (viB i) = 0) :
    c.veSsignal cl k = (c.veCounted cl k t).veBad cl k t 0xB COMP_VE_INST_INVALID := by
  rw [Chip.veSsignal, Chip.veIssue_turn _ rfl ht]
  dsimp only
  rw [Chip.ctx_veCounted, hzero]
  rfl

end

/-- Settles O29: each instruction is followed from its turn to what the shelf or the counter answers. -/
theorem vectorShelvesAndCountersComplete : Obligations.VectorShelvesAndCountersComplete := by
  unfold Obligations.VectorShelvesAndCountersComplete
  intro s cl k t i hr c d x a b p r h named
  refine ⟨fun ht hn hspill hzero hwhole hopen hover hwait hfit => ?claim, fun ht hn => ?commit, fun ht hn => ?release,
    fun ht => ?wait, fun ht => ?signal⟩
  case claim => rw [exec_shclaim hr, Chip.veShClaim_granted ht hn hspill hzero hwhole hopen hover hwait hfit]
  case commit =>
    rw [exec_shcommit hr, Chip.veShCommit_turn ht hn]
    rfl
  case release =>
    rw [exec_shrelease hr, Chip.veShRelease_turn ht hn]
    rfl
  case wait =>
    rw [exec_swait hr, Chip.veSwait_turn ht]
    refine ⟨fun hrange => ⟨fun hmet => ?_, fun hshort => ?_⟩, fun hrange => by rw [if_pos hrange]⟩
    · rw [if_neg (Nat.not_le.mpr hrange), if_pos hmet]
    · rw [if_neg (Nat.not_le.mpr hrange), if_neg (Nat.not_le.mpr hshort)]
  case signal =>
    rw [exec_ssignal hr]
    exact ⟨fun hzero hmax hrange => congrArg s.goes (Chip.veSsignal_counts ht hzero hmax hrange),
      fun hzero => congrArg s.goes (Chip.veSsignal_zero ht hzero)⟩

end Sys2Proof.Machine
end

section
/-! SUPPORT and certificates. Strips in the banks of a scratchpad (R144, R145, R147): what an access costs by the strips in its fullest bank. -/

namespace Sys2Proof.Machine

/-! The fullest bank (R145). -/

/-- How many words of an access fall in bank `b`. -/
def bankLoad (bank : Nat → Nat) (words : List Nat) (b : Nat) : Nat := (words.filter (fun a => bank a == b)).length

theorem bankLoad_eq_count (bank : Nat → Nat) (words : List Nat) (b : Nat) : bankLoad bank words b = (words.map bank).count b := by
  rw [bankLoad, List.count, List.countP_map, List.countP_eq_length_filter]
  rfl

theorem foldl_max_le_iff (f : Nat → Nat) (l : List Nat) (m k : Nat) :
    l.foldl (fun m b => max m (f b)) m ≤ k ↔ m ≤ k ∧ ∀ b ∈ l, f b ≤ k := by
  induction l generalizing m with
  | nil => simp
  | cons b l ih => rw [List.foldl_cons, ih, max_le_iff, List.forall_mem_cons, and_assoc]

/-- The cost is the least bound of 1 and of the loads of the banks. -/
theorem accessCost_le_iff {n : Nat} {bank : Nat → Nat} {words : List Nat} {k : Nat} :
    accessCost n bank words ≤ k ↔ 1 ≤ k ∧ ∀ b < n, bankLoad bank words b ≤ k := by
  refine (foldl_max_le_iff (bankLoad bank words) (upto n) 1 k).trans ?_
  simp only [upto, List.mem_range]

theorem one_le_accessCost (n : Nat) (bank : Nat → Nat) (words : List Nat) : 1 ≤ accessCost n bank words := by
  obtain ⟨hone, -⟩ := accessCost_le_iff.mp (le_refl (accessCost n bank words))
  exact hone

theorem bankLoad_le_accessCost_of_lt {n b : Nat} (hb : b < n) (bank : Nat → Nat) (words : List Nat) :
    bankLoad bank words b ≤ accessCost n bank words := by
  obtain ⟨-, hload⟩ := accessCost_le_iff.mp (le_refl (accessCost n bank words))
  exact hload b hb

/-- Where the banks are those below `n`, no bank holds more than the cost. -/
theorem bankLoad_le_accessCost {n : Nat} {bank : Nat → Nat} (hbank : ∀ a, bank a < n) (words : List Nat) (b : Nat) :
    bankLoad bank words b ≤ accessCost n bank words := by
  by_cases hb : b < n
  · exact bankLoad_le_accessCost_of_lt hb bank words
  · have hempty : bankLoad bank words b = 0 :=
      List.length_eq_zero_iff.mpr (List.filter_eq_nil_iff.mpr fun a _ => by have := hbank a; simp; omega)
    omega

/-- The cost is 1 or the load of a bank. -/
theorem accessCost_attained (n : Nat) (bank : Nat → Nat) (words : List Nat) :
    accessCost n bank words = 1 ∨ ∃ b < n, bankLoad bank words b = accessCost n bank words := by
  by_contra! hnot
  obtain ⟨hone, hload⟩ := hnot
  have hpos := one_le_accessCost n bank words
  have hless : accessCost n bank words ≤ accessCost n bank words - 1 :=
    accessCost_le_iff.mpr ⟨by omega, fun b hb => Nat.le_sub_one_of_lt ((bankLoad_le_accessCost_of_lt hb bank words).lt_of_ne (hload b hb))⟩
  omega

/-! Strided sets (R147). -/

theorem spBank_lt (a : Nat) : spBank a < 32 := Nat.mod_lt _ (by decide)

/-- A strip `r` rows on lies `r` banks on (R144). -/
theorem spBank_add_rows (r x : Nat) : spBank (512 * r + x) = (r + spBank x) % 32 := by
  simp only [spBank]
  omega

/-- Strips a whole number of rows apart share a bank exactly where their numbers agree modulo 32 / gcd(m, 32). -/
theorem spBank_rowPitch_eq_iff (a0 m i j : Nat) :
    spBank (a0 + i * (512 * m)) = spBank (a0 + j * (512 * m)) ↔ i ≡ j [MOD 32 / Nat.gcd m 32] := by
  have hbank (n : Nat) : spBank (a0 + n * (512 * m)) = (n * m + spBank a0) % 32 := by
    rw [show a0 + n * (512 * m) = 512 * (n * m) + a0 by ring, spBank_add_rows]
  rw [hbank, hbank]
  constructor
  · intro h
    rw [Nat.gcd_comm]
    exact Nat.ModEq.cancel_right_div_gcd (by decide) (Nat.ModEq.add_right_cancel' _ h)
  · intro h
    have hdvd : 32 ∣ 32 / Nat.gcd m 32 * m := by
      exact (Nat.div_mul_cancel (Nat.gcd_dvd_right m 32)).symm.dvd.trans (Nat.mul_dvd_mul_left _ (Nat.gcd_dvd_left m 32))
    exact Nat.ModEq.add_right _ ((h.mul_right' m).of_dvd hdvd)

/-- The load that a set of 32 strips puts on the bank of one of them, where its pitch is a multiple of a row. -/
theorem bankLoad_rowPitch (a0 m i : Nat) :
    bankLoad spBank (stridedSet a0 (512 * m)) (spBank (a0 + i * (512 * m))) = Nat.gcd m 32 := by
  have hdvd : Nat.gcd m 32 ∣ 32 := Nat.gcd_dvd_right m 32
  have hpos : 0 < 32 / Nat.gcd m 32 := Nat.div_pos (Nat.le_of_dvd (by decide) hdvd) (Nat.gcd_pos_of_pos_right m (by decide))
  calc bankLoad spBank (stridedSet a0 (512 * m)) (spBank (a0 + i * (512 * m)))
    _ = Nat.count (· ≡ i [MOD 32 / Nat.gcd m 32]) 32 := by
        simp only [bankLoad_eq_count, stridedSet, upto, List.map_map, List.count, List.countP_map, Nat.count]
        refine List.countP_congr fun j _ => ?_
        simp [spBank_rowPitch_eq_iff]
    _ = 32 / (32 / Nat.gcd m 32) := by
        rw [Nat.count_modEq_card 32 hpos, Nat.mod_eq_zero_of_dvd (Nat.div_dvd_of_dvd hdvd), if_neg (Nat.not_lt_zero _), Nat.add_zero]
    _ = Nat.gcd m 32 := Nat.div_div_self hdvd (by decide)

theorem bankLoad_rowPitch_le (a0 m b : Nat) : bankLoad spBank (stridedSet a0 (512 * m)) b ≤ Nat.gcd m 32 := by
  by_cases hb : ∃ i, spBank (a0 + i * (512 * m)) = b
  · obtain ⟨i, rfl⟩ := hb
    exact (bankLoad_rowPitch a0 m i).le
  · push Not at hb
    have hempty : bankLoad spBank (stridedSet a0 (512 * m)) b = 0 := by
      rw [bankLoad_eq_count, List.count_eq_zero]
      simp [stridedSet, hb]
    omega

theorem accessCost_rowPitch (a0 m : Nat) : accessCost 32 spBank (stridedSet a0 (512 * m)) = Nat.gcd m 32 := by
  refine le_antisymm (accessCost_le_iff.mpr ⟨Nat.gcd_pos_of_pos_right m (by decide), fun b _ => bankLoad_rowPitch_le a0 m b⟩) ?_
  calc Nat.gcd m 32
    _ = bankLoad spBank (stridedSet a0 (512 * m)) (spBank (a0 + 0 * (512 * m))) := (bankLoad_rowPitch a0 m 0).symm
    _ ≤ accessCost 32 spBank (stridedSet a0 (512 * m)) := bankLoad_le_accessCost spBank_lt _ _

/-- From the start of the scratchpad the strips at each of the small pitches lie in banks of their own. -/
theorem nodup_banks_of_smallPitch : ∀ pitch ∈ [16, 32, 64, 128, 256], ((stridedSet 0 pitch).map spBank).Nodup := by decide

/-- From another row they lie as many banks on. -/
theorem map_spBank_stridedSet (r pitch : Nat) :
    (stridedSet (512 * r) pitch).map spBank = ((stridedSet 0 pitch).map spBank).map (fun b => (r + b) % 32) := by
  simp only [stridedSet, List.map_map]
  refine List.map_congr_left fun i _ => ?_
  simp only [Function.comp_apply, spBank_add_rows, Nat.zero_add]

theorem nodup_banks_of_smallPitch_row (r : Nat) {pitch : Nat} (h : pitch ∈ [16, 32, 64, 128, 256]) :
    ((stridedSet (512 * r) pitch).map spBank).Nodup := by
  rw [map_spBank_stridedSet]
  refine (nodup_banks_of_smallPitch pitch h).map_on fun x hx y hy hxy => ?_
  obtain ⟨a, -, rfl⟩ := List.mem_map.mp hx
  obtain ⟨b, -, rfl⟩ := List.mem_map.mp hy
  have ha := spBank_lt a
  have hb := spBank_lt b
  omega

/-- Settles O53: the cost is the least bound of the banks' loads; a pitch of m rows puts gcd(m, 32) strips in every bank that it meets, and the small
pitches put each strip in a bank of its own. -/
theorem stridedSetsTakeTheStatedCycles : Obligations.StridedSetsTakeTheStatedCycles := by
  unfold Obligations.StridedSetsTakeTheStatedCycles
  refine ⟨fun words => ⟨one_le_accessCost .., bankLoad_le_accessCost spBank_lt words, accessCost_attained ..⟩,
    fun a0 m _ => accessCost_rowPitch a0 m, fun a0 pitch hrow hpitch => ?_⟩
  obtain ⟨r, rfl⟩ := Nat.dvd_of_mod_eq_zero hrow
  refine le_antisymm (accessCost_le_iff.mpr ⟨le_rfl, fun b _ => ?_⟩) (one_le_accessCost ..)
  rw [bankLoad_eq_count]
  exact List.nodup_iff_count_le_one.mp (nodup_banks_of_smallPitch_row r hpitch) b

end Sys2Proof.Machine
end

section
/-! SUPPORT and certificates. WAIT, SIGNAL, LOOP and END (R205-R207, R210, R277, R278, R498). -/

namespace Sys2Proof.Machine

/-! The commands. -/

section
variable {s : State} {cl : Fin 32} (hr : s.ready cl) (k : Fin 16)
include hr

theorem exec_wait : exec (.wait cl k) s = s.goes (s.chip.tpWait cl k) := by
  have harm : exec (.wait cl k) s = execWait cl k s := rfl
  rw [harm, execWait, State.onCluster_ready _ hr]

theorem exec_signal : exec (.signal cl k) s = s.goes (s.chip.tpSignal cl k) := by
  have harm : exec (.signal cl k) s = execSignal cl k s := rfl
  rw [harm, execSignal, State.onCluster_ready _ hr]

theorem exec_loop : exec (.loop cl k) s = s.goes (s.chip.tpLoop cl k) := by
  have harm : exec (.loop cl k) s = execLoop cl k s := rfl
  rw [harm, execLoop, State.onCluster_ready _ hr]

theorem exec_progEnd : exec (.progEnd cl k) s = s.goes (s.chip.tpEndCmd cl k) := by
  have harm : exec (.progEnd cl k) s = execProgEnd cl k s := rfl
  rw [harm, execProgEnd, State.onCluster_ready _ hr]

end

/-- A wait whose threshold is not reached is registered as not met (R278). -/
theorem Chip.addWait_unmet {c : Chip} {i threshold : Nat} (h : c.syncVal i < threshold) (who : Waiter) :
    c.addWait i threshold who = { c with waits := c.waits ++ [⟨i, threshold, who, false⟩] } := by
  rw [Chip.addWait, decide_eq_false (Nat.not_le.mpr h)]

/-! What each command does at the front of a program (R206, R207). -/

/-- The reserved words of a WAIT or a SIGNAL are zero (R206). -/
def ReservedZero (bs : List Byte) : Prop := recNat bs 1 1 = 0 ∧ allZero (bs.drop 8) = true

section
variable {bs : List Byte}

theorem ReservedZero.passes (h : ReservedZero bs) : (decide (recNat bs 1 1 ≠ 0) || !allZero (bs.drop 8)) = false := by
  simp [h.1, h.2]

theorem fails_of_not_reservedZero (h : ¬ReservedZero bs) : (decide (recNat bs 1 1 ≠ 0) || !allZero (bs.drop 8)) = true := by
  by_cases hflags : recNat bs 1 1 = 0
  · simpa [hflags] using mt (And.intro hflags) h
  · simp [hflags]

variable {c : Chip} {cl k : Nat}

theorem Chip.tpWait_met (hat : c.seqAt cl k 0xC = some bs) (hzero : ReservedZero bs) (hrange : recNat bs 2 2 < c.syncRange (c.seqPart cl k))
    (hmet : recNat bs 4 4 ≤ c.syncVal (c.syncIndex (c.seqPart cl k) (recNat bs 2 2))) :
    c.tpWait cl k = (c.cmdDone cl k 1).seqAdvance cl k := by
  simp only [Chip.tpWait, hat, hzero.passes, Bool.false_eq_true, if_false, if_neg (Nat.not_le.mpr hrange), if_pos hmet]

theorem Chip.tpWait_unmet (hat : c.seqAt cl k 0xC = some bs) (hzero : ReservedZero bs) (hrange : recNat bs 2 2 < c.syncRange (c.seqPart cl k))
    (hunmet : c.syncVal (c.syncIndex (c.seqPart cl k) (recNat bs 2 2)) < recNat bs 4 4) :
    c.tpWait cl k = { c with waits := c.waits ++ [⟨c.syncIndex (c.seqPart cl k) (recNat bs 2 2), recNat bs 4 4, .seq cl k, false⟩] } := by
  simp only [Chip.tpWait, hat, hzero.passes, Bool.false_eq_true, if_false, if_neg (Nat.not_le.mpr hrange), if_neg (Nat.not_le.mpr hunmet),
    Chip.addWait_unmet hunmet]

theorem Chip.tpWait_reserved (hat : c.seqAt cl k 0xC = some bs) (hzero : ¬ReservedZero bs) : c.tpWait cl k = c.tpRefuse cl k 0x25 := by
  simp only [Chip.tpWait, hat, fails_of_not_reservedZero hzero, if_true]

theorem Chip.tpSignal_inRange (hat : c.seqAt cl k 0xD = some bs) (hzero : ReservedZero bs) (hinc : recNat bs 4 4 ≠ 0)
    (hquiet : c.seqQuiet cl k = true) (hrange : recNat bs 2 2 < c.syncRange (c.seqPart cl k)) :
    c.tpSignal cl k =
      ((c.syncInc (cl / 8) (c.seqPart cl k) (recNat bs 2 2) (recNat bs 4 4)).1.cmdDone cl k 1).seqAdvance cl k := by
  simp only [Chip.tpSignal, hat, if_neg hinc, hzero.passes, hquiet, Bool.not_true, Bool.false_eq_true, if_false,
    Chip.syncInc_inRange hrange, if_true]

theorem Chip.tpSignal_zero (hat : c.seqAt cl k 0xD = some bs) (hinc : recNat bs 4 4 = 0) : c.tpSignal cl k = c.tpRefuse cl k 0x26 := by
  simp only [Chip.tpSignal, hat, if_pos hinc]

theorem Chip.tpLoop_enters (hat : c.seqAt cl k 0xE = some bs)
    (hreason : loopReason (c.seqOf cl k) (fun j => recNat (c.spRead cl k ((c.seqOf cl k).slotOff j) 1) 0 1) bs = none) :
    let q := c.seqOf cl k
    c.tpLoop cl k = (c.setSeq cl k { q with
      loops := ⟨q.slot, recNat bs 1 1, recNat bs 2 2, 0, bs⟩ :: q.loops, slot := q.slot + 1 }).seqSettle cl k := by
  simp only [Chip.tpLoop, hat, hreason]

theorem Chip.tpEndCmd_ends (hat : c.seqAt cl k 0xF = some bs) (hzero : allZero (bs.drop 1) = true) :
    c.tpEndCmd cl k = c.setSeq cl k { c.seqOf cl k with ended := true } := by
  simp only [Chip.tpEndCmd, hat, hzero, Bool.not_true, Bool.false_eq_true, if_false]

end

/-! Leaving a slot (R207). -/

section
variable {f : LoopFrame} (r : List LoopFrame) (n : Nat)

theorem loopBack_again (h : f.iter + 1 < f.count) :
    loopBack (f :: r) (f.slot + f.body + 1) n = ({ f with iter := f.iter + 1 } :: r, f.slot + 1, n) := by
  rw [loopBack, if_pos rfl, if_pos h]

theorem loopBack_last (h : f.count ≤ f.iter + 1) : loopBack (f :: r) (f.slot + f.body + 1) n = loopBack r (f.slot + f.body + 1) (n + 1) := by
  rw [loopBack, if_pos rfl, if_neg (Nat.not_lt.mpr h)]

theorem loopBack_inside {slot : Nat} (h : slot ≠ f.slot + f.body + 1) : loopBack (f :: r) slot n = (f :: r, slot, n) := by
  rw [loopBack, if_neg h]

end

theorem loopBack_stays {l : List LoopFrame} {slot : Nat} (h : ∀ f ∈ l.head?, slot ≠ f.slot + f.body + 1) (n : Nat) :
    loopBack l slot n = (l, slot, n) := by
  cases l with
  | nil => rfl
  | cons f r => exact loopBack_inside r n (h f rfl)

/-- Each loop that is left is counted once: those counted and those still active are as many as there were. -/
theorem loopBack_counts (l : List LoopFrame) (slot n : Nat) : (loopBack l slot n).2.2 + (loopBack l slot n).1.length = n + l.length := by
  induction l generalizing n with
  | nil => rfl
  | cons f r ih =>
    by_cases hend : slot = f.slot + f.body + 1
    · subst hend
      by_cases hmore : f.iter + 1 < f.count
      · rw [loopBack_again r n hmore, List.length_cons, List.length_cons]
      · rw [loopBack_last r n (Nat.not_lt.mp hmore), ih, List.length_cons]
        omega
    · rw [loopBack_inside r n hend]

theorem loopPatch_of_ne {f : LoopFrame} {slot entry : Nat} (h : f.slot + 1 + recNat (f.cmd.drop (4 + 8 * entry)) 0 1 ≠ slot) (bs : List Byte) :
    loopPatch f slot bs entry = bs := by
  simp only [loopPatch, beq_false_of_ne h, Bool.and_false, Bool.false_eq_true, if_false]

/-- Settles O19: each command goes through the checks of its words, and the loops that a slot ends are left from the innermost outwards. -/
theorem sequencerCommandsComplete : Obligations.SequencerCommandsComplete := by
  unfold Obligations.SequencerCommandsComplete
  refine ⟨fun s cl k bs hr => ?commands, fun f r n => ⟨loopBack_again r n, loopBack_last r n⟩, fun l slot n h => loopBack_stays h n,
    loopBack_counts, fun f slot entry bs h => loopPatch_of_ne h bs⟩
  case commands =>
    intro c q p i plain
    refine ⟨fun hat hzero hrange hmet => ?_, fun hat hzero hrange hunmet => ?_, fun hat hzero => ?_, fun hat hzero hinc hquiet hrange => ?_,
      fun hat hinc => ?_, fun hat hreason => ?_, fun hat hzero => ?_⟩
    · rw [exec_wait hr, Chip.tpWait_met hat hzero hrange hmet]
    · rw [exec_wait hr, Chip.tpWait_unmet hat hzero hrange hunmet]
      rfl
    · rw [exec_wait hr, Chip.tpWait_reserved hat hzero]
    · rw [exec_signal hr, Chip.tpSignal_inRange hat hzero hinc hquiet hrange]
      rfl
    · rw [exec_signal hr, Chip.tpSignal_zero hat hinc]
    · rw [exec_loop hr, Chip.tpLoop_enters hat hreason]
    · rw [exec_progEnd hr, Chip.tpEndCmd_ends hat hzero]

end Sys2Proof.Machine
end

section
/-! SUPPORT and certificates. Tile programs: what the planner writes, how a program starts and how it ends (R192, R205, R209, R211-R213, R366, R498). -/

namespace Sys2Proof.Machine

/-! The commands. -/

section
variable {s : State} {cl : Fin 32} (hr : s.ready cl) (k : Fin 16)
include hr

theorem exec_programWrite (buf : Fin 2) (bs : List Byte) (off : Fin 32768) (data : List Byte) (lim : BitVec 32) :
    exec (.programWrite cl k buf bs off data lim) s = s.goes (s.chip.programWrite cl k buf bs off data lim.toNat) := by
  have harm : exec (.programWrite cl k buf bs off data lim) s = execProgramWrite cl k buf bs off data lim s := rfl
  rw [harm, execProgramWrite, State.onCluster_ready _ hr]

theorem exec_tpStart : exec (.tpStart cl k) s = s.goes (s.chip.tpStart cl k) := by
  have harm : exec (.tpStart cl k) s = execTpStart cl k s := rfl
  rw [harm, execTpStart, State.onCluster_ready _ hr]

theorem exec_tpEnd (core noc : BitVec 32) :
    exec (.tpEnd cl k core noc) s = s.goes ((s.chip.tpEnd cl k core.toNat noc.toNat).tpEndHalt cl k) := by
  have harm : exec (.tpEnd cl k core noc) s = execTpEnd cl k core noc s := rfl
  rw [harm, execTpEnd, State.onCluster_ready _ hr]

end

/-! PROGRAM_WRITE (R205, R211, R213). -/

/-- The bytes are the next program that the planner writes into buffer `b` of the core for step `st`: `cmds` its commands, `p` the core's progress
after it (R205, R211, R213). -/
structure Chip.Plans (c : Chip) (cl k b : Nat) (st : StepRun) (bs : List Byte) (off : Nat) (data : List Byte) (lim : Nat) (cmds : List (List Byte))
    (p : CoreProg) : Prop where
  turn : c.mayWrite cl k b st = true
  header : c.progHeaderOk cl k st bs = true
  room : off + data.length ≤ (c.planArea st.part).2
  limit : lim ≤ c.estLimit cl
  decodes : programCmds bs = some cmds
  next : (c.spWrite cl k ((c.planArea st.part).1 + off) data).progNext cl k st lim bs cmds = some p
  estimate : recNat bs 0xC 4 = estProgram cmds
  places : stagedOk (st.staged ++ p.staged) = true

/-- Step `st` with a program more of core `k`, which owes none after its last (R205, R213). -/
def StepRun.programmed (st : StepRun) (k : Nat) (bs : List Byte) (p : CoreProg) : StepRun :=
  { st with
    progs := st.progs.insert k (p :: KMap.getD st.progs k [])
    ends := if bit (recNat bs 2 1) 1 then st.ends.insert (100 + k) COMP_OK else st.ends }

/-- The program in its buffer, after its data and what its pulls find in commons, and counted with its estimate (R211, R378). -/
def Chip.programWritten (c : Chip) (cl k b g : Nat) (st : StepRun) (bs : List Byte) (off : Nat) (data : List Byte) (p : CoreProg) : Chip :=
  let d := c.spWrite cl k ((c.planArea st.part).1 + off) data
  let d := d.stageIn cl st.part (p.staged.filter (fun x => !st.staged.contains x))
  (((d.spWrite cl k (bufOff b) bs).setStep cl g (st.programmed k bs p)).addF (.plan cl) R.PLAN_PROGRAMS 1).addF
    (.plan cl) R.PLAN_EST_CYC (recNat bs 0xC 4)

section
variable {c : Chip} {cl k b g off lim : Nat} {st : StepRun} {bs data : List Byte}

theorem Chip.programWrite_of_plans {cmds : List (List Byte)} {p : CoreProg} (hstep : c.stepAt cl k = some (g, st))
    (h : c.Plans cl k b st bs off data lim cmds p) : c.programWrite cl k b bs off data lim = c.programWritten cl k b g st bs off data p := by
  have hroom : decide ((c.planArea st.part).2 < off + data.length) = false := decide_eq_false (Nat.not_lt.mpr h.room)
  have hlimit : decide (c.estLimit cl < lim) = false := decide_eq_false (Nat.not_lt.mpr h.limit)
  simp only [Chip.programWrite, hstep, h.turn, h.header, hroom, hlimit, h.decodes, h.next, h.estimate, h.places, bne_self_eq_false, Bool.not_true,
    Bool.or_self, Bool.false_eq_true, if_false, Chip.programWritten, StepRun.programmed]

/-- Bytes that the planner would not write change nothing. -/
theorem Chip.programWrite_of_not_plans (hstep : c.stepAt cl k = some (g, st)) (h : ∀ cmds p, ¬c.Plans cl k b st bs off data lim cmds p) :
    c.programWrite cl k b bs off data lim = c := by
  simp only [Chip.programWrite, hstep]
  split
  case isTrue => rfl
  case isFalse hguard =>
    simp only [Bool.or_eq_true, Bool.not_eq_true', decide_eq_true_eq, not_or, Bool.not_eq_false, Nat.not_lt] at hguard
    obtain ⟨⟨⟨hturn, hheader⟩, hroom⟩, hlimit⟩ := hguard
    split
    next => rfl
    next cmds hcmds =>
      split
      next => rfl
      next p hp =>
        refine if_pos ?_
        by_contra hlast
        simp only [Bool.or_eq_true, bne_iff_ne, Bool.not_eq_true', not_or, ne_eq, not_not, Bool.not_eq_false] at hlast
        obtain ⟨hest, hplaces⟩ := hlast
        exact h cmds p ⟨hturn, hheader, hroom, hlimit, hcmds, hp, hest, hplaces⟩

end

/-! TP_START (R205, R209). -/

theorem Chip.tpStart_starts {c : Chip} {cl k b g : Nat} {st : StepRun} (hidle : (c.seqOf cl k).running = false) (hnext : c.nextBuffer cl k = some b)
    (hstep : c.stepAt cl k = some (g, st)) (hcode : st.code = 0) (hslice : c.sliceAllows cl st.part = true) :
    c.tpStart cl k = c.seqStart cl k b st.part := by
  simp only [Chip.tpStart, hidle, hnext, hstep, hcode, hslice, bne_self_eq_false, Bool.false_eq_true, if_false, if_true]

/-! The step that a core works for depends on the steps and on the partitions' registers (R364, R366). -/

/-- Field `f` of block `b` is none of the registers that say which partition's slice a cluster runs: the set's size and the slice's flag of any
partition, the clusters of the partitions that there are. -/
structure OffSlices (b : Blk) (f : Field) : Prop where
  size : ∀ p, fkey (.part p) R.PART_STATE_SET_SIZE ≠ fkey b f
  slice : ∀ p, fkey (.part p) R.PART_STATE_IN_SLICE ≠ fkey b f
  clusters : ∀ p < 16, fkey (.part p) R.PART_CLUSTERS ≠ fkey b f

/-- The registers of a unit below the partitions' blocks are none of them, where their lowest bits are not those of the set's size and the slice's flag. -/
theorem offSlices_of_below {b : Blk} {f : Field} (d : Nat) {lo : Nat} (hbase : b.base = d * dieSpan + lo) (hlo : lo < 0x1000000)
    (hf : f.off < 0x400 ∧ f.lsb < 64 ∧ f.lsb ≠ R.PART_STATE_SET_SIZE.lsb ∧ f.lsb ≠ R.PART_STATE_IN_SLICE.lsb) : OffSlices b f := by
  obtain ⟨hoff, hlsb, hsize, hslice⟩ := hf
  refine ⟨fun p => fkey_ne_of_lsb (by decide) hlsb hsize.symm, fun p => fkey_ne_of_lsb (by decide) hlsb hslice.symm, fun p hp => ?_⟩
  have hpart : (Blk.part p).base = 0x3000400 + p * 0x100 := rfl
  simp only [fkey, hbase, hpart, dieSpan, R.PART_CLUSTERS]
  omega

/-- `d` has the steps of `c` and the registers that say whose slice runs on each cluster. -/
structure Chip.SameSlices (c d : Chip) : Prop where
  steps : d.steps = c.steps
  size : ∀ p, d.getF (.part p) R.PART_STATE_SET_SIZE = c.getF (.part p) R.PART_STATE_SET_SIZE
  slice : ∀ p, d.getF (.part p) R.PART_STATE_IN_SLICE = c.getF (.part p) R.PART_STATE_IN_SLICE
  clusters : ∀ p < 16, d.getF (.part p) R.PART_CLUSTERS = c.getF (.part p) R.PART_CLUSTERS

theorem Chip.SameSlices.of_regs {c d : Chip} (hsteps : d.steps = c.steps) (hregs : d.regs = c.regs) : c.SameSlices d := by
  have hget (b : Blk) (f : Field) : d.getF b f = c.getF b f := by rw [Chip.getF, hregs, Chip.getF]
  exact ⟨hsteps, fun p => hget _ _, fun p => hget _ _, fun p _ => hget _ _⟩

theorem Chip.SameSlices.trans {c d e : Chip} (h : c.SameSlices d) (h' : d.SameSlices e) : c.SameSlices e :=
  ⟨h'.steps.trans h.steps, fun p => (h'.size p).trans (h.size p), fun p => (h'.slice p).trans (h.slice p),
    fun p hp => (h'.clusters p hp).trans (h.clusters p hp)⟩

theorem Chip.SameSlices.partOf {c d : Chip} (h : c.SameSlices d) (cl : Nat) : d.partOf cl = c.partOf cl := by
  refine List.find?_congr fun p hp => ?_
  rw [Chip.partHas, Chip.on, h.clusters p (List.mem_range.mp hp), h.size, h.slice]
  rfl

theorem Chip.SameSlices.stepAt {c d : Chip} (h : c.SameSlices d) (cl k : Nat) : d.stepAt cl k = c.stepAt cl k := by
  have hshared (p : Nat) : d.shared p = c.shared p := by rw [Chip.shared, h.size, Chip.shared]
  simp only [Chip.stepAt, Chip.stepsOn, Chip.stepOf, h.steps, hshared, h.partOf]

section
variable (c : Chip) {b : Blk}

theorem Chip.setF_sameSlices {f : Field} (h : OffSlices b f) (v : Nat) : c.SameSlices (c.setF b f v) :=
  ⟨rfl, fun p => c.getF_setF_of_ne v (h.size p), fun p => c.getF_setF_of_ne v (h.slice p), fun p hp => c.getF_setF_of_ne v (h.clusters p hp)⟩

theorem Chip.raiseIf_sameSlices {st : Status} (hflag : OffSlices b st.flag) (hcnt : OffSlices b st.cnt) (cond : Bool) :
    c.SameSlices (c.raiseIf cond b st) := by
  cases cond with
  | false => exact .of_regs rfl rfl
  | true => exact (c.setF_sameSlices hflag _).trans (Chip.setF_sameSlices _ hcnt _)

theorem Chip.clearValid_sameSlices (cl k buf : Nat) : c.SameSlices (c.clearValid cl k buf) := .of_regs rfl rfl
theorem Chip.setSeq_sameSlices (cl k : Nat) (q : CoreSeq) : c.SameSlices (c.setSeq cl k q) := .of_regs rfl rfl
theorem Chip.setTb_sameSlices (cl k : Nat) (t : Tb) : c.SameSlices (c.setTb cl k t) := .of_regs rfl rfl

end

/-! TP_END (R122, R209, R212, R498). -/

/-- The core with its program over: VALID of its buffer is clear, its TB tiles are given up, its run time is counted, and an END that it reached (R122,
R209, R212, R498). -/
def Chip.programOver (c : Chip) (cl k core noc : Nat) : Chip :=
  let q := c.seqOf cl k
  let c1 := ((c.clearValid cl k q.buf).tbDiscard cl k).addF (.plan cl) R.PLAN_ACT_CYC core
  let c2 := if c1.getF (.plan cl) R.PLAN_TP_MAX < noc then c1.setF (.plan cl) R.PLAN_TP_MAX noc else c1
  let c3 := (c2.raiseIf (decide (c2.tpLimit cl * 2000 < noc)) (.plan cl) St.PLAN_TP_OVERRUN).cmdDone cl k (b2n (q.ended && q.stop.isNone))
  c3.setSeq cl k { q with running := false, ended := false, stop := none, loops := [], moves := [], runs := [], veHold := none }

theorem offSlices_plan (cl : Nat) {f : Field} (hf : f ∈ [R.PLAN_ACT_CYC, R.PLAN_TP_MAX, St.PLAN_TP_OVERRUN.flag, St.PLAN_TP_OVERRUN.cnt]) :
    OffSlices (.plan cl) f := by
  refine offSlices_of_below (cl / 8) (Nat.add_assoc _ _ _) (by omega) ?_
  revert f
  decide

theorem offSlices_core (cl : Nat) {k : Nat} (hk : k < 16) : OffSlices (.core cl k) R.CORE_SEQ_CMDS_COMMANDS :=
  offSlices_of_below (cl / 8) (lo := 0x600000 + (cl % 8) * 0x4000 + k * 0x400) (by simp only [Blk.base]; omega) (by omega) (by decide)

theorem offSlices_tb (cl : Nat) {k : Nat} (hk : k < 16) {f : Field} (hf : f ∈ [St.TB_LEFTOVER.flag, St.TB_LEFTOVER.cnt]) : OffSlices (.tb cl k) f := by
  refine offSlices_of_below (cl / 8) (lo := 0xC00000 + (cl % 8) * 0x4000 + k * 0x400) (by simp only [Blk.base]; omega) (by omega) ?_
  revert f
  decide

theorem Chip.tbDiscard_sameSlices (c : Chip) (cl : Nat) {k : Nat} (hk : k < 16) : c.SameSlices (c.tbDiscard cl k) :=
  (c.raiseIf_sameSlices (offSlices_tb cl hk (by decide)) (offSlices_tb cl hk (by decide)) _).trans (Chip.setTb_sameSlices _ cl k {})

/-- The end of a program moves no step and no slice. -/
theorem Chip.programOver_sameSlices (c : Chip) (cl : Nat) {k : Nat} (hk : k < 16) (core noc : Nat) : c.SameSlices (c.programOver cl k core noc) := by
  have hmax (d : Chip) : d.SameSlices (if d.getF (.plan cl) R.PLAN_TP_MAX < noc then d.setF (.plan cl) R.PLAN_TP_MAX noc else d) := by
    split
    · exact d.setF_sameSlices (offSlices_plan cl (by decide)) noc
    · exact .of_regs rfl rfl
  unfold Chip.programOver
  exact (c.clearValid_sameSlices cl k _).trans <| (Chip.tbDiscard_sameSlices _ cl hk).trans <|
    (Chip.setF_sameSlices _ (offSlices_plan cl (by decide)) _).trans <| (hmax _).trans <|
    (Chip.raiseIf_sameSlices _ (offSlices_plan cl (by decide)) (offSlices_plan cl (by decide)) _).trans <|
    (Chip.setF_sameSlices _ (offSlices_core cl hk) _).trans (Chip.setSeq_sameSlices _ cl k _)

section
variable {c : Chip} {cl k g : Nat} {st st' : StepRun}

theorem Chip.stepOf_setStep (c : Chip) (cl g i : Nat) (st : StepRun) : (c.setStep cl g st).stepOf cl i = if i = g then some st else c.stepOf cl i := by
  split
  case isTrue hi => exact hi ▸ KMap.find?_insert_self ..
  case isFalse hi => exact KMap.find?_insert_of_ne _ _ (by simp only [stepKey]; omega)

/-- A step in its place that is replaced: the cluster's steps are otherwise as they were. -/
theorem Chip.stepsOn_setStep (hold : c.stepOf cl g = some st) (st' : StepRun) :
    (c.setStep cl g st').stepsOn cl = (c.stepsOn cl).map (fun x => if x.1 = g then (g, st') else x) := by
  rw [Chip.stepsOn, Chip.stepsOn, List.map_filterMap]
  refine List.filterMap_congr fun i _ => ?_
  rw [Chip.stepOf_setStep]
  by_cases hi : i = g
  · subst hi
    simp [hold]
  · cases c.stepOf cl i <;> simp [hi]

theorem Chip.stepOf_of_mem {x : Nat × StepRun} (h : x ∈ c.stepsOn cl) : c.stepOf cl x.1 = some x.2 := by
  obtain ⟨i, -, hi⟩ := List.mem_filterMap.mp h
  obtain ⟨y, hy, rfl⟩ := Option.map_eq_some_iff.mp hi
  exact hy

/-- The core works for the step that replaces its own, where that has the same cores and partition. -/
theorem Chip.stepAt_setStep (h : c.stepAt cl k = some (g, st)) (hcores : st'.cores = st.cores) (hpart : st'.part = st.part) :
    (c.setStep cl g st').stepAt cl k = some (g, st') := by
  have hold : c.stepOf cl g = some st := Chip.stepOf_of_mem (List.mem_of_find?_eq_some h)
  have hsame : (c.stepsOn cl).find? ((fun x => x.2.cores.contains k && (!c.shared x.2.part || c.partOf cl == some x.2.part)) ∘
      fun x => if x.1 = g then (g, st') else x) = c.stepAt cl k := by
    refine List.find?_congr fun x hx => ?_
    by_cases hxg : x.1 = g
    · have hx2 : x.2 = st := Option.some_inj.mp ((Chip.stepOf_of_mem hx).symm.trans (hxg ▸ hold))
      simp [hxg, hx2, hcores, hpart]
    · simp [hxg]
  have hstep : (c.setStep cl g st').stepAt cl k = (c.stepAt cl k).map (fun x => if x.1 = g then (g, st') else x) := by
    rw [← hsame, ← List.find?_map, ← Chip.stepsOn_setStep hold]
    rfl
  rw [hstep, h, Option.map_some, if_pos rfl]

/-- What the end of program `q` of a core tells the step that the core works for: its code where it stopped, else that the core is done, after the last
program (R209, R210). -/
def Chip.tellStep (c : Chip) (cl k : Nat) (q : CoreSeq) : Chip :=
  match c.stepAt cl k with
  | none => c
  | some (g, st) =>
    match q.stop with
    | some code =>
      let ends := st.ends.insert k code
      c.setStep cl g { st with ends := ends, code := ((st.cores.filterMap (fun j => ends.find? j)).find? (· != COMP_OK)).getD code }
    | none => if q.last then c.setStep cl g { st with ends := st.ends.insert k COMP_OK } else c

/-- The program of the core has come to its end: it reached END or stopped, and all that it issued has completed (R209). -/
structure Chip.ProgramDone (c : Chip) (cl k : Nat) : Prop where
  running : (c.seqOf cl k).running = true
  ended : (c.seqOf cl k).ended = true ∨ (c.seqOf cl k).stop.isSome
  quiet : c.seqQuiet cl k = true

theorem Chip.tpEnd_done (h : c.ProgramDone cl k) (core noc : Nat) :
    c.tpEnd cl k core noc = (c.programOver cl k core noc).tellStep cl k (c.seqOf cl k) := by
  have hdone : (!(c.seqOf cl k).running || !((c.seqOf cl k).ended || (c.seqOf cl k).stop.isSome) || !c.seqQuiet cl k) = false := by
    rcases h.ended with he | he <;> simp [h.running, h.quiet, he]
  simp only [Chip.tpEnd, hdone, Bool.false_eq_true, if_false]
  rfl

theorem Chip.tellStep_none (h : c.stepAt cl k = none) (q : CoreSeq) : c.tellStep cl k q = c := by
  simp only [Chip.tellStep, h]

theorem Chip.tellStep_some (h : c.stepAt cl k = some (g, st)) {q : CoreSeq} (hstop : q.stop = none) :
    c.tellStep cl k q = if q.last then c.setStep cl g { st with ends := st.ends.insert k COMP_OK } else c := by
  simp only [Chip.tellStep, h, hstop]

/-- Where the core works for no step, or for one that has not stopped, no plan is halted (R62). -/
theorem Chip.tpEndHalt_none (h : c.stepAt cl k = none) : c.tpEndHalt cl k = c := by
  simp only [Chip.tpEndHalt, h]

theorem Chip.tpEndHalt_some (h : c.stepAt cl k = some (g, st)) (hcode : st.code = 0) : c.tpEndHalt cl k = c := by
  simp only [Chip.tpEndHalt, h, hcode, bne_self_eq_false, Bool.and_false, Bool.false_eq_true, if_false]

end

/-- Settles O18: a program is written where the planner would write it and else not, a start goes through its checks, and an end, which moves no step,
goes on to the step that the core works for. -/
theorem tileProgramsComplete : Obligations.TileProgramsComplete := by
  unfold Obligations.TileProgramsComplete
  intro s cl k hr c q
  refine ⟨fun buf bs data off lim g st hstep => ?writes, fun b g st hidle hnext hstep hcode hslice => ?starts, fun core noc hrun hover hquiet => ?ends⟩
  case writes =>
    intro area d est
    rw [exec_programWrite hr]
    refine ⟨fun hturn hheader hroom hlimit cmds p hcmds hp hest hplaces => ?_, fun hrefused => ?_⟩
    · rw [Chip.programWrite_of_plans hstep ⟨hturn, hheader, hroom, hlimit, hcmds, hp, hest, hplaces⟩]
      rfl
    · refine congrArg s.goes (Chip.programWrite_of_not_plans hstep fun cmds p h => ?_)
      rcases hrefused with hturn | hheader | hcmds | ⟨cmds', hcmds, hrest⟩
      · exact Bool.false_ne_true (hturn.symm.trans h.turn)
      · exact Bool.false_ne_true (hheader.symm.trans h.header)
      · exact nomatch hcmds.symm.trans h.decodes
      · obtain rfl : cmds' = cmds := Option.some_inj.mp (hcmds.symm.trans h.decodes)
        rcases hrest with hnone | hest | ⟨p', hp, hplaces⟩
        · exact nomatch hnone.symm.trans h.next
        · exact hest h.estimate
        · obtain rfl : p' = p := Option.some_inj.mp (hp.symm.trans h.next)
          exact Bool.false_ne_true (hplaces.symm.trans h.places)
  case starts => rw [exec_tpStart hr, Chip.tpStart_starts hidle hnext hstep hcode hslice]; rfl
  case ends =>
    intro c1 c2 c3 c4
    have hat : c4.stepAt cl k = c.stepAt cl k := (c.programOver_sameSlices cl k.isLt core.toNat noc.toNat).stepAt cl k
    have hend : exec (.tpEnd cl k core noc) s = s.goes ((c4.tellStep cl k q).tpEndHalt cl k) := by
      rw [exec_tpEnd hr, Chip.tpEnd_done ⟨hrun, hover, hquiet⟩]
      rfl
    rw [hend]
    refine ⟨fun hnone => ?_, fun g st hstep hstop hcode => ?_⟩
    · rw [Chip.tellStep_none (hat.trans hnone), Chip.tpEndHalt_none (hat.trans hnone)]
    · rw [Chip.tellStep_some (hat.trans hstep) hstop]
      split
      · exact congrArg s.goes (Chip.tpEndHalt_some (Chip.stepAt_setStep (hat.trans hstep) rfl rfl) hcode)
      · rw [Chip.tpEndHalt_some (hat.trans hstep) hcode]

end Sys2Proof.Machine
end

section
/-! SUPPORT and certificates. Lane arithmetic and the functions of one source (R215, R227, R228). -/

namespace Sys2Proof.Machine

/-- A command of a cluster that acts does what its meaning does to the chip. -/
theorem exec_of_onCluster {s : State} {cl : Nat} {cmd : Instr} {f : Chip → Chip} (hr : s.ready cl) (harm : exec cmd s = s.onCluster cl f) :
    exec cmd s = s.goes (f s.chip) := harm.trans (State.onCluster_ready f hr)

/-! Results of a lane (R228; log entry 26). -/

/-- An integer lies in the format of INT32 lanes. -/
def fitsInt32 (n : Int) : Prop := -(2 ^ 31) ≤ n ∧ n < 2 ^ 31

theorem laneInt_of_fits {n : Int} (h : fitsInt32 n) (free : Nat) : laneInt n free = wrapInt 32 n := if_pos h

theorem fitsInt32_sextInt (v : Nat) : fitsInt32 (sextInt 32 v) := by
  have hlt : v % 2 ^ 32 < 2 ^ 32 := Nat.mod_lt _ (by decide)
  simp only [fitsInt32, sextInt]
  split <;> omega

theorem fitsInt32_max {m n : Int} (hm : fitsInt32 m) (hn : fitsInt32 n) : fitsInt32 (max m n) := by
  rcases max_choice m n with h | h <;> rwa [h]

theorem fitsInt32_min {m n : Int} (hm : fitsInt32 m) (hn : fitsInt32 n) : fitsInt32 (min m n) := by
  rcases min_choice m n with h | h <;> rwa [h]

theorem fmax_nan (z : Bool) {a b : FVal} (h : a = .nan ∨ b = .nan) : fmax z a b = .nan := by
  rcases h with rfl | rfl <;> simp [fmax]

/-- Of two unequal numbers the larger, whatever the free choice between zeros. -/
theorem fmax_of_lt (z : Bool) {a b : FVal} (ha : a ≠ .nan) (hb : b ≠ .nan) (h : a.lt b = true ∨ b.lt a = true) :
    fmax z a b = if a.lt b then b else a := by
  have hnum : (a == .nan || b == .nan) = false := by simp [ha, hb]
  rw [fmax, if_neg (Bool.eq_false_iff.mp hnum)]
  by_cases hlt : a.lt b = true
  · rw [if_pos hlt, if_pos hlt]
  · rw [if_neg hlt, if_neg hlt, if_pos (h.resolve_left hlt)]

/-! What each instruction puts into a lane. -/

section
variable (x : VeCtx) (i : Nat) (free : Nat → Nat)

/-- A source lane as a number of the lane's width. -/
def VeCtx.num (r lane : Nat) : FVal := laneVal (viW i) (x.lane i r lane)

/-- A source lane as a 32-bit integer. -/
def VeCtx.int (r lane : Nat) : Int := sextInt 32 (x.lane i r lane)

/-- A lane of an operation on two sources. -/
def VeCtx.binaryLane (fop : Bool → FVal → FVal → FVal) (iop : Int → Int → Int) (lane : Nat) : Nat :=
  if viW i = 2 then laneInt (iop (x.int i (viA i) lane) (x.int i (viB i) lane)) (free lane)
  else laneFp (viW i) (fop (bit (free lane) 0) (x.num i (viA i) lane) (x.num i (viB i) lane))

/-- A lane of VFMA. -/
def VeCtx.fmaLane (lane : Nat) : Nat :=
  if viW i = 2 then laneInt (x.int i (viA i) lane * x.int i (viB i) lane + x.int i (viC i) lane) (free lane)
  else laneFp (viW i) (((x.num i (viA i) lane).mul (x.num i (viB i) lane)).add (x.num i (viC i) lane))

/-- A lane of VABSNEG: IMM[0] takes the absolute value, then IMM[1] negates. -/
def VeCtx.absnegLane (lane : Nat) : Nat :=
  if viW i = 2 then
    let n : Int := if bit (viImmU i) 0 then ((x.int i (viA i) lane).natAbs : Int) else x.int i (viA i) lane
    laneInt (if bit (viImmU i) 1 then -n else n) (free lane)
  else
    let n := if bit (viImmU i) 0 then (x.num i (viA i) lane).abs else x.num i (viA i) lane
    laneFp (viW i) (if bit (viImmU i) 1 then n.neg else n)

/-- A lane of VSCL. -/
def VeCtx.scaledLane (lane : Nat) : Nat :=
  if viW i = 2 then
    let p : Nat := 2 ^ min (viImm i).natAbs 32
    if 0 ≤ viImm i then laneInt (x.int i (viA i) lane * p) (free lane)
    else if x.int i (viA i) lane % p = 0 then wrapInt 32 (x.int i (viA i) lane / p) else free lane
  else laneFp (viW i) ((x.num i (viA i) lane).scale (viImm i))

/-- A lane of a function of one source. -/
def VeCtx.functionLane (f : FVal → Nat → FVal) (lane : Nat) : Nat :=
  if viW i = 2 then free lane else laneFp (viW i) (f (x.num i (viA i) lane) (free lane))

variable {x i free} {lane : Nat}

theorem VeCtx.binaryLane_fp {fop : Bool → FVal → FVal → FVal} {iop : Int → Int → Int} (hw : viW i ≠ 2) :
    x.binaryLane i free fop iop lane = laneFp (viW i) (fop (bit (free lane) 0) (x.num i (viA i) lane) (x.num i (viB i) lane)) := if_neg hw

theorem VeCtx.binaryLane_int {fop : Bool → FVal → FVal → FVal} {iop : Int → Int → Int} (hw : viW i = 2)
    (hfits : fitsInt32 (iop (x.int i (viA i) lane) (x.int i (viB i) lane))) :
    x.binaryLane i free fop iop lane = wrapInt 32 (iop (x.int i (viA i) lane) (x.int i (viB i) lane)) :=
  (if_pos hw).trans (laneInt_of_fits hfits _)

/-- Of two lanes that are numbers and unequal the larger; a NaN where either is one. -/
theorem VeCtx.maxLane_fp (hw : viW i ≠ 2) :
    let a := x.num i (viA i) lane
    let b := x.num i (viB i) lane
    let y := x.binaryLane i free fmax max lane
    (a = .nan ∨ b = .nan → y = laneFp (viW i) .nan) ∧
      (a ≠ .nan → b ≠ .nan → (a.lt b = true ∨ b.lt a = true) → y = laneFp (viW i) (if a.lt b then b else a)) :=
  ⟨fun h => (VeCtx.binaryLane_fp hw).trans (congrArg _ (fmax_nan _ h)),
    fun ha hb h => (VeCtx.binaryLane_fp hw).trans (congrArg _ (fmax_of_lt _ ha hb h))⟩

/-- A shift left whose result lies in the format. -/
theorem VeCtx.scaledLane_up (hw : viW i = 2) (hlo : 0 ≤ viImm i) (hhi : viImm i ≤ 31)
    (hfits : fitsInt32 (x.int i (viA i) lane * 2 ^ (viImm i).toNat)) :
    x.scaledLane i free lane = wrapInt 32 (x.int i (viA i) lane * 2 ^ (viImm i).toNat) := by
  have hshift : min (viImm i).natAbs 32 = (viImm i).toNat := by omega
  rw [VeCtx.scaledLane, if_pos hw, if_pos hlo, hshift, Nat.cast_pow, Nat.cast_ofNat, laneInt_of_fits hfits]

/-- A shift right that loses no set bit. -/
theorem VeCtx.scaledLane_down (hw : viW i = 2) (hhi : viImm i < 0) (hlo : -32 ≤ viImm i)
    (hwhole : x.int i (viA i) lane % 2 ^ (-viImm i).toNat = 0) :
    x.scaledLane i free lane = wrapInt 32 (x.int i (viA i) lane / 2 ^ (-viImm i).toNat) := by
  have hshift : min (viImm i).natAbs 32 = (-viImm i).toNat := by omega
  rw [VeCtx.scaledLane, if_pos hw, if_neg (Int.not_le.mpr hhi), hshift, Nat.cast_pow, Nat.cast_ofNat, if_pos hwhole]

end

/-- `f` makes a NaN of a NaN, and of an infinity and of a zero what `special` gives (R228). -/
structure SpecialResults (f : FVal → Nat → FVal) (special : FVal → FVal) : Prop where
  nan : ∀ n, f .nan n = .nan
  inf : ∀ sg n, f (.inf sg) n = special (.inf sg)
  zero : ∀ sg e n, f (.fin sg 0 e) n = special (.fin sg 0 e)

theorem VeCtx.functionLane_special {x : VeCtx} {i lane : Nat} {free : Nat → Nat} {f : FVal → Nat → FVal} {special : FVal → FVal}
    (hf : SpecialResults f special) (hw : viW i ≠ 2) :
    let a := x.num i (viA i) lane
    let y := x.functionLane i free f lane
    (a = .nan → y = laneFp (viW i) .nan) ∧ ((∃ sg, a = .inf sg) ∨ (∃ sg e, a = .fin sg 0 e) → y = laneFp (viW i) (special a)) := by
  intro a y
  have hy : y = laneFp (viW i) (f a (free lane)) := if_neg hw
  rw [hy]
  refine ⟨fun h => by rw [h, hf.nan], ?_⟩
  rintro (⟨sg, h⟩ | ⟨sg, e, h⟩)
  · rw [h, hf.inf]
  · rw [h, hf.zero]

/-! The instructions at their turn (R215). -/

section
variable {c : Chip} {cl k t i op : Nat}

@[simp] theorem Chip.ctx_tick (c : Chip) (cl k u : Nat) : c.tick.ctx cl k u = c.ctx cl k u := by rw [Chip.ctx, Chip.veOf_tick, Chip.ctx]

/-- A lane-wise instruction that uses up a free value. -/
theorem Chip.lanesAre_counted (ht : c.veTurn cl k t i op) (f : Nat → Nat) :
    ((c.veCounted cl k t).tick.vePutLanes cl k t i f).lanesAre c cl k t i f := by
  obtain ⟨-, hpc, -⟩ := ht
  exact Chip.lanesAre_vePutLanes i f ((Chip.ctx_tick ..).trans (Chip.ctx_veCounted ..)) hpc

theorem Chip.veBinary_lanes {fop : Bool → FVal → FVal → FVal} {iop : Int → Int → Int} (hk : knownVeOp op = true) (ht : c.veTurn cl k t i op) :
    (c.veBinary cl k op fop iop).lanesAre c cl k t i ((c.ctx cl k t).binaryLane i (c.veCounted cl k t).freeLane fop iop) := by
  rw [Chip.veBinary, Chip.veIssue_turn _ hk ht]
  dsimp only
  rw [Chip.ctx_veCounted]
  exact Chip.lanesAre_counted ht _

theorem Chip.veFunction_lanes {f : FVal → Nat → FVal} (hk : knownVeOp op = true) (ht : c.veTurn cl k t i op) :
    (c.veFunction cl k op f).lanesAre c cl k t i ((c.ctx cl k t).functionLane i (c.veCounted cl k t).freeLane f) := by
  rw [Chip.veFunction, Chip.veIssue_turn _ hk ht]
  dsimp only
  rw [Chip.ctx_veCounted]
  exact Chip.lanesAre_counted ht _

theorem Chip.vfma_lanes (ht : c.veTurn cl k t i 0x06) :
    (c.vfma cl k).lanesAre c cl k t i ((c.ctx cl k t).fmaLane i (c.veCounted cl k t).freeLane) := by
  rw [Chip.vfma, Chip.veIssue_turn _ rfl ht]
  dsimp only
  rw [Chip.ctx_veCounted]
  exact Chip.lanesAre_counted ht _

theorem Chip.vabsneg_lanes (ht : c.veTurn cl k t i 0x07) :
    (c.vabsneg cl k).lanesAre c cl k t i ((c.ctx cl k t).absnegLane i (c.veCounted cl k t).freeLane) := by
  rw [Chip.vabsneg, Chip.veIssue_turn _ rfl ht]
  dsimp only
  rw [Chip.ctx_veCounted]
  exact Chip.lanesAre_counted ht _

theorem Chip.vscl_lanes (ht : c.veTurn cl k t i 0x22) :
    (c.vscl cl k).lanesAre c cl k t i ((c.ctx cl k t).scaledLane i (c.veCounted cl k t).freeLane) := by
  rw [Chip.vscl, Chip.veIssue_turn _ rfl ht]
  dsimp only
  rw [Chip.ctx_veCounted]
  exact Chip.lanesAre_counted ht _

theorem Chip.vbcast_lanes (ht : c.veTurn cl k t i 0x0A) :
    (c.vbcast cl k).lanesAre c cl k t i (fun _ => (c.ctx cl k t).s (viA i)) := by
  rw [Chip.vbcast, Chip.veIssue_turn _ rfl ht]
  obtain ⟨-, hpc, -⟩ := ht
  rw [Chip.ctx_veCounted]
  exact Chip.lanesAre_vePutLanes i _ (Chip.ctx_veCounted ..) hpc

end

/-- Settles O24: each instruction is followed from its turn to the lanes that it puts, and its lane is read off by width and operand. -/
theorem laneArithmeticCompletes : Obligations.LaneArithmeticCompletes := by
  unfold Obligations.LaneArithmeticCompletes
  intro s cl k t i hr c x w a b u small gives va vb ia ib picks
  have binary (cmd op fop iop) (hk : knownVeOp op = true) (harm : exec cmd s = s.onCluster cl (fun c => c.veBinary cl k op (fun _ => fop) iop))
      (ht : c.veTurn cl k t i op) : gives cmd (fun l => fop (va l) (vb l)) (fun l => iop (ia l) (ib l)) :=
    ⟨_, _, exec_of_onCluster hr harm, Chip.veBinary_lanes hk ht, fun _ hw => VeCtx.binaryLane_fp hw, fun _ hw hfits => VeCtx.binaryLane_int hw hfits⟩
  refine ⟨binary (.vadd cl k) 0x01 FVal.add (· + ·) rfl rfl,
    binary (.vsub cl k) 0x02 (fun p q => p.add q.neg) (· - ·) rfl rfl,
    binary (.vmul cl k) 0x03 FVal.mul (· * ·) rfl rfl,
    fun ht => ?max, fun ht => ?fma, fun ht => ?absneg, fun ht => ?bcast, fun ht => ?scale, fun ht => ?min, ?functions⟩
  case max =>
    exact ⟨_, _, exec_of_onCluster (f := (·.vmax cl k)) hr rfl, Chip.veBinary_lanes rfl ht, fun _ hw => VeCtx.maxLane_fp hw,
      fun _ hw => VeCtx.binaryLane_int hw (fitsInt32_max (fitsInt32_sextInt _) (fitsInt32_sextInt _))⟩
  case fma =>
    exact ⟨_, _, exec_of_onCluster (f := (·.vfma cl k)) hr rfl, Chip.vfma_lanes ht, fun _ hw => if_neg hw,
      fun _ hw hfits => (if_pos hw).trans (laneInt_of_fits hfits _)⟩
  case absneg =>
    exact ⟨_, _, exec_of_onCluster (f := (·.vabsneg cl k)) hr rfl, Chip.vabsneg_lanes ht, fun _ hw => if_neg hw,
      fun _ hw hfits => (if_pos hw).trans (laneInt_of_fits hfits _)⟩
  case bcast => exact ⟨_, exec_of_onCluster (f := (·.vbcast cl k)) hr rfl, Chip.vbcast_lanes ht⟩
  case scale =>
    exact ⟨_, _, exec_of_onCluster (f := (·.vscl cl k)) hr rfl, Chip.vscl_lanes ht, fun _ hw => if_neg hw,
      fun _ hw hlo hhi hfits => VeCtx.scaledLane_up hw hlo hhi hfits, fun _ hw hhi hlo hwhole => VeCtx.scaledLane_down hw hhi hlo hwhole⟩
  case min =>
    exact ⟨_, _, exec_of_onCluster (f := (·.vmin cl k)) hr rfl, Chip.veBinary_lanes rfl ht, fun _ hw => ⟨_, VeCtx.binaryLane_fp hw⟩,
      fun _ hw => VeCtx.binaryLane_int hw (fitsInt32_min (fitsInt32_sextInt _) (fitsInt32_sextInt _))⟩
  case functions =>
    intro fn
    have function (cmd : Instr) (op : Nat) {f : FVal → Nat → FVal} {special : FVal → FVal} (hk : knownVeOp op = true)
        (harm : exec cmd s = s.onCluster cl (fun c => c.veFunction cl k op f)) (hf : SpecialResults f special) (ht : c.veTurn cl k t i op) :
        fn cmd special := ⟨_, _, exec_of_onCluster hr harm, Chip.veFunction_lanes hk ht, fun _ hw => VeCtx.functionLane_special hf hw⟩
    clear_value fn
    refine ⟨function (.vexp2 cl k) 0x10 (f := veFun 0) rfl rfl ⟨fun _ => rfl, fun sg _ => ?_, fun _ _ _ => rfl⟩,
      function (.vlog2 cl k) 0x11 (f := veFun 1) rfl rfl ⟨fun _ => rfl, fun sg _ => ?_, fun _ _ _ => rfl⟩,
      function (.vrcp cl k) 0x12 (f := veFun 2) rfl rfl ⟨fun _ => rfl, fun _ _ => rfl, fun _ _ _ => rfl⟩,
      function (.vrsqrt cl k) 0x13 (f := veFun 3) rfl rfl ⟨fun _ => rfl, fun sg _ => ?_, fun _ _ _ => rfl⟩,
      function (.vsqrt cl k) 0x14 (f := fun v _ => veSqrt v) rfl rfl ⟨fun _ => rfl, fun sg _ => ?_, fun _ _ _ => rfl⟩⟩
    all_goals cases sg <;> rfl

end Sys2Proof.Machine
end

section
/-! SUPPORT and certificates. Scalars and control flow of the vector engine (R227, R228, R231). -/

namespace Sys2Proof.Machine

theorem wrapInt_lt (w : Nat) (n : Int) : wrapInt w n < 2 ^ w := by
  have hpow : (0 : Int) < (2 ^ w : Nat) := Int.natCast_pos.mpr (Nat.two_pow_pos w)
  have hlo := Int.emod_nonneg n hpow.ne'
  have hhi := Int.emod_lt_of_pos n hpow
  rw [wrapInt]
  omega

theorem VeCtx.s_setS_of_ne (x : VeCtx) {r r' : Nat} (n : Nat) (h : r' ≠ r) : (x.setS r n).s r' = x.s r' := KMap.getD_insert_of_ne _ _ _ h

section
variable {c d : Chip} {cl k t i op : Nat}

/-- What putting a scalar leaves, for an engine whose context `t` is that of `c`. -/
theorem Chip.scalarIs_vePutScalar (i v : Nat) (hctx : d.ctx cl k t = c.ctx cl k t) (hpc : (c.ctx cl k t).pc + 8 ≤ spillBase) :
    (d.vePutScalar cl k t i v).scalarIs c cl k t i (v % 2 ^ 64) := by
  let x := c.ctx cl k t
  have hput : (d.vePutScalar cl k t i v).ctx cl k t = { x.setS (viD i) v with pc := wrapInt 64 (x.pc + 8 : Nat) } := by
    rw [Chip.vePutScalar, Chip.ctx_veNext, Chip.ctx_setCtx_self, hctx]
    rfl
  rw [Chip.scalarIs, hput]
  exact ⟨x.s_setS_self (viD i) v, fun r hr => x.s_setS_of_ne v hr, rfl, rfl, wrapInt_of_le_spillBase hpc⟩

/-- A scalar instruction that uses up a free value. -/
theorem Chip.scalarIs_counted (ht : c.veTurn cl k t i op) (v : Nat) :
    ((c.veCounted cl k t).tick.vePutScalar cl k t i v).scalarIs c cl k t i (v % 2 ^ 64) := by
  obtain ⟨-, hpc, -⟩ := ht
  exact Chip.scalarIs_vePutScalar i v ((Chip.ctx_tick ..).trans (Chip.ctx_veCounted ..)) hpc

/-- A result that the unsigned or the signed reading holds is the result modulo 2^64 (log entry 34). -/
theorem scalarResult_mod {u v : Int} (h : (0 ≤ u ∧ u < 2 ^ 64) ∨ (-(2 ^ 63) ≤ v ∧ v < 2 ^ 63)) (free : Nat) :
    scalarResult u v free % 2 ^ 64 = wrapInt 64 u := by
  rw [scalarResult, if_pos h, Nat.mod_eq_of_lt (wrapInt_lt 64 u)]

theorem Chip.veScalar_result (f : Int → Int → Int) (hk : knownVeOp op = true) (ht : c.veTurn cl k t i op) :
    let a := (c.ctx cl k t).s (viA i)
    let b := (c.ctx cl k t).s (viB i)
    (0 ≤ f a b ∧ f a b < 2 ^ 64) ∨ (-(2 ^ 63) ≤ f (sextInt 64 a) (sextInt 64 b) ∧ f (sextInt 64 a) (sextInt 64 b) < 2 ^ 63) →
    (c.veScalar cl k op f).scalarIs c cl k t i (wrapInt 64 (f a b)) := by
  intro a b h
  rw [Chip.veScalar, Chip.veIssue_turn _ hk ht, ← scalarResult_mod h (Config.freeBits (c.veCounted cl k t).freeCtr 64)]
  dsimp only
  rw [Chip.ctx_veCounted]
  exact Chip.scalarIs_counted ht _

theorem Chip.sshift_result (ht : c.veTurn cl k t i 0x43) :
    let a := (c.ctx cl k t).s (viA i)
    let b := (c.ctx cl k t).s (viB i)
    (c.sshift cl k).scalarIs c cl k t i (if b = 0 then a % 2 ^ 64 else Config.freeBits c.freeCtr 64 % 2 ^ 64) := by
  intro a b
  rw [Chip.sshift, Chip.veIssue_turn _ rfl ht, ← apply_ite (· % 2 ^ 64)]
  dsimp only
  rw [Chip.ctx_veCounted]
  exact Chip.scalarIs_counted ht _

theorem Chip.slogic_result (ht : c.veTurn cl k t i 0x44) : (c.slogic cl k).scalarIs c cl k t i (Config.freeBits c.freeCtr 64 % 2 ^ 64) := by
  rw [Chip.slogic, Chip.veIssue_turn _ rfl ht]
  exact Chip.scalarIs_counted ht _

theorem Chip.scmp_result (ht : c.veTurn cl k t i 0x45) : (c.scmp cl k).scalarIs c cl k t i (Config.freeBits c.freeCtr 64 % 2 ^ 64) := by
  rw [Chip.scmp, Chip.veIssue_turn _ rfl ht]
  exact Chip.scalarIs_counted ht _

theorem Chip.smovi_result (ht : c.veTurn cl k t i 0x46) : (c.smovi cl k).scalarIs c cl k t i (wrapInt 64 (viImm i)) := by
  rw [Chip.smovi, Chip.veIssue_turn _ rfl ht]
  obtain ⟨-, hpc, -⟩ := ht
  have hput := Chip.scalarIs_vePutScalar i (wrapInt 64 (viImm i)) (Chip.ctx_veCounted c cl k t t) hpc
  rwa [Nat.mod_eq_of_lt (wrapInt_lt 64 (viImm i))] at hput

theorem Chip.veBranch_turn (p : Nat → Bool) (hk : knownVeOp op = true) (ht : c.veTurn cl k t i op) :
    let d := c.veCounted cl k t
    let x := c.ctx cl k t
    c.veBranch cl k op p = if p (x.s (viA i)) then d.veGoto cl k t ((x.pc : Int) + 8 * viImm i) else d.veNext cl k t := by
  intro d x
  rw [Chip.veBranch, Chip.veIssue_turn _ hk ht]
  dsimp only
  rw [Chip.ctx_veCounted]

theorem Chip.veExit_turn (ht : c.veTurn cl k t i 0x4F) :
    c.veExit cl k = (c.veCounted cl k t).setCtx cl k t { c.ctx cl k t with done := true } := by
  rw [Chip.veExit, Chip.veIssue_turn _ rfl ht, Chip.ctx_veCounted]

end

/-- Settles O28: each instruction is followed from its turn to the scalar that it writes or to the PC that it leaves. -/
theorem scalarInstructionsComplete : Obligations.ScalarInstructionsComplete := by
  unfold Obligations.ScalarInstructionsComplete
  intro s cl k t i hr c d0 x a b free holds writes away on
  have branch (cmd op p) (hk : knownVeOp op = true) (harm : exec cmd s = s.onCluster cl (fun c => c.veBranch cl k op p))
      (ht : c.veTurn cl k t i op) : exec cmd s = if p a then away else on := by
    rw [exec_of_onCluster hr harm, Chip.veBranch_turn p hk ht]
    exact apply_ite s.goes _ _ _
  refine ⟨fun ht h => ⟨_, exec_of_onCluster (f := (·.sadd cl k)) hr rfl, Chip.veScalar_result (· + ·) rfl ht h⟩,
    fun ht h => ⟨_, exec_of_onCluster (f := (·.ssub cl k)) hr rfl, Chip.veScalar_result (· - ·) rfl ht h⟩,
    fun ht h => ⟨_, exec_of_onCluster (f := (·.smul cl k)) hr rfl, Chip.veScalar_result (· * ·) rfl ht h⟩,
    fun ht => ⟨_, exec_of_onCluster (f := (·.sshift cl k)) hr rfl, Chip.sshift_result ht⟩,
    fun ht => ⟨_, exec_of_onCluster (f := (·.slogic cl k)) hr rfl, Chip.slogic_result ht⟩,
    fun ht => ⟨_, exec_of_onCluster (f := (·.scmp cl k)) hr rfl, Chip.scmp_result ht⟩,
    fun ht => ⟨_, exec_of_onCluster (f := (·.smovi cl k)) hr rfl, Chip.smovi_result ht⟩, ?br, ?brz, ?brnz, fun ht => ?exit⟩
  case br => exact branch (.br cl k) 0x48 (fun _ => true) rfl rfl
  case brz => simpa only [beq_iff_eq] using branch (.brz cl k) 0x49 (· == 0) rfl rfl
  case brnz => simpa only [bne_iff_ne, ne_eq, ite_not] using branch (.brnz cl k) 0x4A (· != 0) rfl rfl
  case exit => rw [exec_of_onCluster (f := (·.veExit cl k)) hr rfl, Chip.veExit_turn ht]

end Sys2Proof.Machine
end

section
/-! SUPPORT. Accesses of a core to its own scratchpad (R23, R24, R301, R358, R364): where they lie, and what their checks depend on. -/

namespace Sys2Proof.Machine

/-! Places (R23, R24). -/

/-- An offset of a cluster's window (R23) is decoded to the cluster and the offset. -/
theorem window_decoded {d e w : Nat} (he : e < 8) (hw : w < 0x100000000) :
    (d * 0x1000000000 + e * 0x100000000 + w) / 0x1000000000 = d ∧ (d * 0x1000000000 + e * 0x100000000 + w) % 0x1000000000 = e * 0x100000000 + w ∧
      (e * 0x100000000 + w) / 0x100000000 = e ∧ (e * 0x100000000 + w) % 0x100000000 = w := by
  refine ⟨?_, ?_, ?_, ?_⟩ <;> omega

theorem core_decoded {k o : Nat} (ho : o < 0x400000) : (k * 0x400000 + o) / 0x400000 = k ∧ (k * 0x400000 + o) % 0x400000 = o := by
  constructor <;> omega

theorem placeOf_scratch {cl k o : Nat} (hcl : cl < 32) (hk : k < 16) (ho : o < spSize) : placeOf (spBase cl k + o) = .scratch cl k o := by
  have hspan : o < 0x400000 := ho.trans (by decide)
  have hoff : spBase cl k + o - 0x010000000000 = cl / 8 * 0x1000000000 + cl % 8 * 0x100000000 + (0x10000000 + (k * 0x400000 + o)) := by
    rw [spBase, clusterBase]
    omega
  obtain ⟨hdie, hwin, hcluster, hrest⟩ := window_decoded (d := cl / 8) (e := cl % 8) (w := 0x10000000 + (k * 0x400000 + o))
    (Nat.mod_lt _ (by decide)) (by omega)
  obtain ⟨hcore, hin⟩ := core_decoded (k := k) hspan
  simp only [placeOf, hoff, hdie, hwin, hcluster, hrest, Nat.add_sub_cancel_left, hcore, hin, Nat.div_add_mod, cmSize, if_pos ho]
  rw [spBase, clusterBase]
  clear hoff hdie hwin hcluster hrest hcore hin
  rw [if_neg (by omega), if_neg (by omega), if_pos (by omega), if_pos (by omega), if_neg (by omega), if_neg (by omega), if_pos (by omega)]

/-- The positions at which a request is checked lie below its end. -/
theorem lt_of_mem_probes {a n x : Nat} (h : x ∈ probes a n) : x < a + n := by
  unfold probes at h
  split at h
  · simp at h
  · simp only [List.mem_cons, List.mem_map, upto, List.mem_range] at h
    rcases h with rfl | rfl | ⟨i, hi, rfl⟩ <;> omega

/-! What the checks of a scratchpad byte depend on (R301, R358, R364). -/

/-- `d` has the registers of `c` that say who may reach a scratchpad: those of the partitions' grants and the benches of the clusters. -/
structure Chip.SameGrants (c d : Chip) : Prop where
  part : ∀ (p : Nat) {f : Field}, f.off < 0x40 → f.lsb < 64 → d.getF (.part p) f = c.getF (.part p) f
  bench : ∀ (cl : Nat) {f : Field}, f.off = 0x40 → f.lsb < 64 → d.getF (.boot (cl / 8)) (f.nth (cl % 8)) = c.getF (.boot (cl / 8)) (f.nth (cl % 8))

section
variable {c d : Chip} (h : c.SameGrants d)
include h

theorem Chip.SameGrants.partHas (p cl : Nat) : d.partHas p cl = c.partHas p cl := by
  rw [Chip.partHas, h.part p (by decide) (by decide), Chip.partHas]

theorem Chip.SameGrants.shared (p : Nat) : d.shared p = c.shared p := by
  rw [Chip.shared, h.part p (by decide) (by decide), Chip.shared]

theorem Chip.SameGrants.partOf (cl : Nat) : d.partOf cl = c.partOf cl := by
  have hslice (p : Nat) : d.on (.part p) R.PART_STATE_IN_SLICE = c.on (.part p) R.PART_STATE_IN_SLICE := by
    rw [Chip.on, h.part p (by decide) (by decide), Chip.on]
  have hset (p : Nat) : d.getF (.part p) R.PART_STATE_SET_SIZE = c.getF (.part p) R.PART_STATE_SET_SIZE := h.part p (by decide) (by decide)
  simp only [Chip.partOf, h.partHas, hslice, hset]

theorem Chip.SameGrants.shareHas_scratch (p cl k o : Nat) : d.shareHas p (.scratch cl k o) = c.shareHas p (.scratch cl k o) := by
  simp only [Chip.shareHas, h.partOf, h.part p (f := R.PART_SHARE_SP_BASE_KIB) (by decide) (by decide),
    h.part p (f := R.PART_SHARE_SP_KIB) (by decide) (by decide), h.part p (f := R.PART_STATE_MEMBER) (by decide) (by decide)]

theorem Chip.SameGrants.clusterOff (cl : Nat) : d.clusterOff cl = c.clusterOff cl := by
  simp only [Chip.clusterOff, Chip.clusterGone, Chip.on, h.bench cl (f := R.BOOT_BENCH_CL_ABSENT) rfl (by decide),
    h.bench cl (f := R.BOOT_BENCH_CL_FUSED) rfl (by decide), h.bench cl (f := R.BOOT_BENCH_CL_BENCHED) rfl (by decide)]

theorem Chip.SameGrants.byteCode_scratch {a cl k o : Nat} (hp : placeOf a = .scratch cl k o) (ag : Agent) (write : Bool) :
    d.byteCode ag write a = c.byteCode ag write a := by
  unfold Chip.byteCode
  simp only [hp, h.clusterOff, h.partHas, h.shared, h.shareHas_scratch]

end

/-- `n` bytes at `a` lie in the scratchpad of core `k` of cluster `cl`. -/
structure InScratch (cl k a n : Nat) : Prop where
  cluster : cl < 32
  core : k < 16
  low : spBase cl k ≤ a
  high : a + n ≤ spBase cl k + spSize

section
variable {cl k a n : Nat} (h : InScratch cl k a n)
include h

theorem InScratch.placeOf {x : Nat} (hlo : a ≤ x) (hhi : x < a + n) : placeOf x = .scratch cl k (x - spBase cl k) := by
  obtain ⟨hcl, hk, hlow, hhigh⟩ := h
  have hx := placeOf_scratch hcl hk (o := x - spBase cl k) (by omega)
  rwa [Nat.add_sub_cancel' (hlow.trans hlo)] at hx

theorem InScratch.not_isLpddr : isLpddr a = false := by
  have hlow := h.low
  simp only [spBase, clusterBase] at hlow
  simp only [isLpddr, decide_eq_false_iff_not]
  omega

theorem InScratch.openTile (c : Chip) : c.openTile a n = false := by
  refine List.any_eq_false.mpr fun x hx => ?_
  rw [Chip.openTile.openAt, h.placeOf (le_of_mem_probes hx) (lt_of_mem_probes hx)]
  exact Bool.false_ne_true

theorem InScratch.accessCode {c d : Chip} (hd : c.SameGrants d) (ag : Agent) (write : Bool) : d.accessCode ag write a n = c.accessCode ag write a n := by
  have hbytes : (probes a n).map (d.byteCode ag write) = (probes a n).map (c.byteCode ag write) :=
    List.map_congr_left fun x hx => hd.byteCode_scratch (h.placeOf (le_of_mem_probes hx) (lt_of_mem_probes hx)) ag write
  simp only [Chip.accessCode, hbytes]

/-- A read that is allowed answers the bytes there. -/
theorem InScratch.read {c : Chip} (io : RegIo) {ag : Agent} (hn : 0 < n) (hcode : c.accessCode ag false a n = COMP_OK) :
    c.agentReadIo io ag a n = (c.noteSram a n, COMP_OK, c.mem.readN a n) :=
  Chip.agentReadIo_sram io hcode h.not_isLpddr fun d off hregs => by
    rw [h.placeOf le_rfl (by omega)] at hregs
    exact Place.noConfusion hregs

end

theorem Mem.writeMasked_ones (m : Mem) (a : Nat) (bs : List Byte) : m.writeMasked a (ones bs.length) bs = m.writeN a bs := by
  induction bs generalizing m a with
  | nil => rfl
  | cons b r ih =>
    have hpow : 0 < 2 ^ r.length := Nat.two_pow_pos _
    have hodd : ones (r.length + 1) % 2 = 1 := by
      rw [ones, Nat.pow_succ]
      omega
    have hhalf : ones (r.length + 1) / 2 = ones r.length := by
      rw [ones, ones, Nat.pow_succ]
      omega
    rw [Mem.writeMasked, List.length_cons, if_pos hodd, hhalf, ih, Mem.writeN]

/-- A write of every byte that is allowed stores the bytes there. -/
theorem InScratch.write_mem {cl k a : Nat} {c : Chip} {ag : Agent} {bs : List Byte} (h : InScratch cl k a bs.length) (hn : 0 < bs.length)
    (hcode : c.accessCode ag true a bs.length = COMP_OK) : (c.agentWrite ag a (ones bs.length) bs).1.mem = c.mem.writeN a bs := by
  have hlp := h.not_isLpddr
  rw [Chip.agentWrite_quiet _ _ _ (fun hl => absurd hl (by simp [hlp])), Chip.writeBy_mem,
    if_neg (by simp [hcode, h.openTile c]), h.placeOf le_rfl (by omega)]
  dsimp only
  rw [Chip.locStore_mem, if_neg (by simp [hlp]), Mem.writeMasked_ones]

theorem InScratch.write_code {cl k a : Nat} {c : Chip} {ag : Agent} {bs : List Byte} (h : InScratch cl k a bs.length)
    (hcode : c.accessCode ag true a bs.length = COMP_OK) (en : Nat) : (c.agentWrite ag a en bs).2 = COMP_OK := by
  have hlp := h.not_isLpddr
  rw [Chip.agentWrite_quiet _ _ _ (fun hl => absurd hl (by simp [hlp])), Chip.writeBy_code, hcode]

@[simp] theorem Mem.length_readN (m : Mem) (a n : Nat) : (m.readN a n).length = n := by
  induction n generalizing a with
  | zero => rfl
  | succ n ih => rw [Mem.readN, List.length_cons, ih]

end Sys2Proof.Machine
end

section
/-! SUPPORT and certificates. Memory instructions of the vector engine (R217, R223-R228): the requests that each starts, and those that the core's own
scratchpad serves at once. -/

namespace Sys2Proof.Machine

/-! The requests of an instruction (R224, R225). -/

section
variable {c : Chip} {cl k t i : Nat}

theorem Chip.vld_starts (ht : c.veTurn cl k t i 0x28) (hfmt : veMoveFmt (viW i) (viFmt i) = true) :
    let x := c.ctx cl k t
    let a := veAddr (x.s (viA i)) (viImm i)
    let n := rowBytes (viFmt i) (laneCount (viW i))
    a % 16 = 0 → c.vld cl k = (c.veCounted cl k t).veStart cl k t i (List.replicate n 0) ((lines a n).map (fun l => ⟨l.1, x.pc, .load l.2 (.image (l.1 - a))⟩)) := by
  intro x a n hal
  rw [Chip.vld, Chip.veIssue_turn _ rfl ht]
  dsimp only
  rw [Chip.ctx_veCounted, hfmt, Bool.not_true, if_neg Bool.false_ne_true, if_neg (not_not_intro hal)]

/-- VST leaves out a line without an active lane. -/
theorem Chip.vst_starts (ht : c.veTurn cl k t i 0x29) (hfmt : veMoveFmt (viW i) (viFmt i) = true) :
    let x := c.ctx cl k t
    let a := veAddr (x.s (viA i)) (viImm i)
    let size := elemBits (viFmt i) / 8
    let bytes := ((upto (laneCount (viW i))).map (fun l => leBytes size (storeLane (viW i) (viFmt i) (x.lane i (viD i) l)))).flatten
    a % 16 = 0 → c.vst cl k = (c.veCounted cl k t).veStart cl k t i [] ((lines a bytes.length).flatMap (fun l =>
      if field (x.enables i size) (l.1 - a) l.2 = 0 then []
      else [⟨l.1, x.pc, .store (field (x.enables i size) (l.1 - a) l.2) ((bytes.drop (l.1 - a)).take l.2)⟩])) := by
  intro x a size bytes hal
  rw [Chip.vst, Chip.veIssue_turn _ rfl ht]
  dsimp only
  rw [Chip.ctx_veCounted, hfmt, Bool.not_true, if_neg Bool.false_ne_true, if_neg (not_not_intro hal), List.filterMap_eq_flatMap_toList]
  congr 2
  funext l
  split <;> rfl

/-- Every element that active lanes name is aligned to its size. -/
def VeCtx.aligned (x : VeCtx) (i : Nat) : Prop := ∀ e ∈ x.elemAddrs i, e.2 % (elemBits (viFmt i) / 8) = 0

theorem VeCtx.aligned.passes {x : VeCtx} (h : x.aligned i) : ((x.elemAddrs i).any (fun e => e.2 % (elemBits (viFmt i) / 8) != 0)) = false :=
  List.any_eq_false.mpr fun e he => by simp [h e he]

theorem Chip.vgather_starts (ht : c.veTurn cl k t i 0x2A) (hfmt : veElemFmt (viW i) (viFmt i) = true) (hal : (c.ctx cl k t).aligned i) :
    let x := c.ctx cl k t
    let size := elemBits (viFmt i) / 8
    c.vgather cl k = (c.veCounted cl k t).veStart cl k t i (List.replicate 1024 0) ((byLine (x.elemAddrs i)).map (fun g =>
      ⟨(spanOf size g.2).1, x.pc, .load (spanOf size g.2).2 (.lanes size (g.2.map (fun e => (e.1, e.2 - (spanOf size g.2).1))))⟩)) := by
  intro x size
  rw [Chip.vgather, Chip.veIssue_turn _ rfl ht]
  dsimp only
  rw [Chip.ctx_veCounted, hfmt, hal.passes, Bool.not_true, if_neg Bool.false_ne_true, if_neg Bool.false_ne_true]

theorem Chip.vscatter_starts (ht : c.veTurn cl k t i 0x2B) (hfmt : veElemFmt (viW i) (viFmt i) = true) (hal : (c.ctx cl k t).aligned i) :
    let x := c.ctx cl k t
    let size := elemBits (viFmt i) / 8
    c.vscatter cl k = (c.veCounted cl k t).veStart cl k t i [] ((byLine (x.elemAddrs i)).map (fun g =>
      let lo := (spanOf size g.2).1
      ⟨lo, x.pc, .store (g.2.foldl (fun m e => m ||| ((2 ^ size - 1) <<< (e.2 - lo))) 0)
        (g.2.foldl (fun bs e => splice bs (e.2 - lo) (leBytes size (storeLane (viW i) (viFmt i) (x.lane i (viD i) e.1))))
          (List.replicate (spanOf size g.2).2 0))⟩)) := by
  intro x size
  rw [Chip.vscatter, Chip.veIssue_turn _ rfl ht]
  dsimp only
  rw [Chip.ctx_veCounted, hfmt, hal.passes, Bool.not_true, if_neg Bool.false_ne_true, if_neg Bool.false_ne_true]

theorem Chip.vscatadd_starts (ht : c.veTurn cl k t i 0x2C) (hw : viW i ≠ 2) (hfmt : veElemFmt (viW i) (viFmt i) = true)
    (hal : (c.ctx cl k t).aligned i) :
    let x := c.ctx cl k t
    let size := elemBits (viFmt i) / 8
    c.vscatadd cl k = (c.veCounted cl k t).veStart cl k t i [] ((byLine (x.elemAddrs i)).map (fun g =>
      ⟨(spanOf size g.2).1, x.pc, .add size (g.2.map (fun e => (e.2 - (spanOf size g.2).1, storeLane (viW i) (viFmt i) (x.lane i (viD i) e.1))))⟩)) := by
  intro x size
  rw [Chip.vscatadd, Chip.veIssue_turn _ rfl ht]
  dsimp only
  rw [Chip.ctx_veCounted, hfmt, hal.passes, decide_eq_false hw, Bool.not_true, Bool.or_false, if_neg Bool.false_ne_true, if_neg Bool.false_ne_true]

theorem Chip.vfence_turn (ht : c.veTurn cl k t i 0x2D) :
    let e := (c.veCounted cl k t).veNext cl k t
    c.vfence cl k = if (e.veOf cl k).slots.any (fun r => !r.dead && r.thread = t) && (e.veOf cl k).ready t then e.veHold cl k t .fence else e := by
  intro e
  rw [Chip.vfence, Chip.veIssue_turn _ rfl ht]

end

end Sys2Proof.Machine
end

section
/-! SUPPORT and certificates. SLD_SST at the core's own scratchpad (R217, R223, R226, R228; log entry 36): a request that is served at once. -/

namespace Sys2Proof.Machine

/-! What a counted instruction leaves alone (R215, R238). -/

section
variable (c : Chip) (cl k t : Nat)

@[simp] theorem Chip.veOf_veCounted : (c.veCounted cl k t).veOf cl k = { c.veOf cl k with last := t } := by
  rw [Chip.veCounted, Chip.addF, Chip.addF, Chip.veOf_setF, Chip.veOf_setF, Chip.veOf_setVe_self]

@[simp] theorem Chip.veCounted_mem : (c.veCounted cl k t).mem = c.mem := rfl

@[simp] theorem Chip.veOf_setCtx (x : VeCtx) : (c.setCtx cl k t x).veOf cl k = { c.veOf cl k with ctxs := (c.veOf cl k).ctxs.insert t x } := by
  rw [Chip.setCtx, Chip.veOf_setVe_self]

/-- The counters of an instruction are the ninth and the tenth register of the engine: fields below them in their 256 bytes are none of them. -/
theorem Chip.getF_veCounted (b : Blk) {f : Field} (hb : b.base % 256 = 0) (hoff : f.off < 0x40) (hlsb : f.lsb < 64) :
    (c.veCounted cl k t).getF b f = c.getF b f := by
  have hf : fkey b f % 16384 < 4096 := by
    simp only [fkey]
    omega
  have hve (g : Field) (hg : g = R.VE_INSTS ∨ g = R.VE_ISSUE_CYC) : 4096 ≤ fkey (.ve cl k) g % 16384 := by
    rcases hg with rfl | rfl <;> simp only [fkey, Blk.base, dieSpan, R.VE_INSTS, R.VE_ISSUE_CYC] <;> omega
  rw [Chip.veCounted, Chip.getF_addF_of_ne _ _ (fun h => by have := hve _ (.inr rfl); rw [← h] at this; omega),
    Chip.getF_addF_of_ne _ _ (fun h => by have := hve _ (.inl rfl); rw [← h] at this; omega)]
  rfl

theorem Chip.isSelf_veCounted (dev : Nat) : (c.veCounted cl k t).isSelf dev = c.isSelf dev := by
  have hid := c.getF_veCounted cl k t (.jlk 0) (f := R.JLK_CTRL_DEVICE_ID) (by decide) (by decide) (by decide)
  have halias := c.getF_veCounted cl k t .res (f := R.RES_STATE_ALIAS) (by decide) (by decide) (by decide)
  have hvalid : (c.veCounted cl k t).on .res R.RES_STATE_ALIAS_VALID = c.on .res R.RES_STATE_ALIAS_VALID := by
    rw [Chip.on, c.getF_veCounted cl k t .res (by decide) (by decide) (by decide), Chip.on]
  simp only [Chip.isSelf, Chip.deviceId, hid, halias, hvalid]

theorem Chip.cacheWays_veCounted (cl' k' : Nat) : (c.veCounted cl k t).cacheWays cl' k' = c.cacheWays cl' k' := by
  rw [Chip.cacheWays, c.getF_veCounted cl k t _ (by simp only [Blk.base, dieSpan]; omega) (by decide) (by decide), Chip.cacheWays]

theorem Chip.sameGrants_veCounted {k : Nat} (hk : k < 16) : c.SameGrants (c.veCounted cl k t) := by
  refine ⟨fun p f => c.getF_veCounted cl k t _ (by simp only [Blk.base]; omega), fun cl' f hoff hlsb => ?_⟩
  have hve (g : Field) (hg : g = R.VE_INSTS ∨ g = R.VE_ISSUE_CYC) : fkey (.boot (cl' / 8)) (f.nth (cl' % 8)) ≠ fkey (.ve cl k) g := by
    rcases hg with rfl | rfl <;> simp only [fkey, Field.nth, hoff, Blk.base, dieSpan, R.VE_INSTS, R.VE_ISSUE_CYC] <;> omega
  rw [Chip.veCounted, Chip.getF_addF_of_ne _ _ (hve _ (.inr rfl)), Chip.getF_addF_of_ne _ _ (hve _ (.inl rfl))]
  rfl

end

/-- Registers and contexts apart: a context that is set moves no register. -/
theorem Chip.sameGrants_setCtx {c d : Chip} (h : c.SameGrants d) (cl k t : Nat) (x : VeCtx) : c.SameGrants (d.setCtx cl k t x) :=
  ⟨fun p _ => h.part p, fun cl' _ => h.bench cl'⟩

/-- The agent of a thread is that of its run. -/
theorem Chip.veAgent_congr {c d : Chip} {cl k t : Nat} (hrun : (d.ctx cl k t).run = (c.ctx cl k t).run) (hruns : (d.veOf cl k).runs = (c.veOf cl k).runs) :
    d.veAgent cl k t = c.veAgent cl k t := by
  rw [Chip.ctx, Chip.ctx] at hrun
  simp only [Chip.veAgent, hrun, hruns]

theorem lines_within {a n : Nat} (hn : 0 < n) (h : a % 128 + n ≤ 128) : lines a n = [(a, n)] := by
  have hone : (a + n - 1) / 128 - a / 128 + 1 = 1 := by omega
  have hlo : max a ((a / 128 + 0) * 128) = a := by omega
  have hhi : min (a + n) ((a / 128 + 0 + 1) * 128) - a = n := by omega
  rw [lines, if_neg hn.ne', hone]
  show [(max a _, min (a + n) _ - max a _)] = _
  rw [hlo, hhi]

/-! A request that its own scratchpad serves at once (R217, R223). -/

/-- The 8 bytes at fabric address `a` lie within one line of the core's own scratchpad, below the working area and the cache ways, and no older request of
thread `t` to that line is outstanding. -/
structure Chip.OwnLine (c : Chip) (cl k t a : Nat) : Prop where
  cluster : cl < 32
  core : k < 16
  self : c.isSelf (field a 48 12) = true
  low : spBase cl k ≤ a % 2 ^ 48
  high : a % 2 ^ 48 + 8 ≤ spBase cl k + 0x280000 - 0x10000 * c.cacheWays cl k
  line : a % 2 ^ 48 % 128 ≤ 120
  first : ∀ r ∈ (c.veOf cl k).slots, ¬(r.dead = false ∧ r.thread = t ∧ r.req.addr / 128 = a / 128)

section
variable {c : Chip} {cl k t a : Nat} (h : c.OwnLine cl k t a)
include h

theorem Chip.OwnLine.inScratch : InScratch cl k (a % 2 ^ 48) 8 := by
  obtain ⟨hcl, hk, -, hlow, hhigh, -, -⟩ := h
  exact ⟨hcl, hk, hlow, by simp only [spSize]; omega⟩

theorem Chip.OwnLine.lines_eq : lines a 8 = [(a, 8)] := lines_within (by decide) (by have := h.line; omega)

theorem Chip.OwnLine.localOf : c.localOf a = some (a % 2 ^ 48) := if_pos h.self

theorem Chip.OwnLine.ownOff : ownOff cl k (a % 2 ^ 48) = some (a % 2 ^ 48 - spBase cl k) := by
  obtain ⟨-, -, -, hlow, hhigh, -, -⟩ := h
  exact if_pos ⟨hlow, by omega⟩

theorem Chip.OwnLine.counted : (c.veCounted cl k t).OwnLine cl k t a :=
  ⟨h.cluster, h.core, (c.isSelf_veCounted ..).trans h.self, h.low, by rw [Chip.cacheWays_veCounted]; exact h.high, h.line,
    by rw [Chip.veOf_veCounted]; exact h.first⟩

theorem Chip.OwnLine.setCtx (x : VeCtx) : (c.setCtx cl k t x).OwnLine cl k t a :=
  ⟨h.cluster, h.core, h.self, h.low, h.high, h.line, by rw [Chip.veOf_setCtx]; exact h.first⟩

theorem Chip.OwnLine.writable {y : Nat} (hlo : a % 2 ^ 48 ≤ y) (hhi : y < a % 2 ^ 48 + 8) : c.veWritable y = true := by
  have hplace := h.inScratch.placeOf hlo hhi
  obtain ⟨-, -, -, hlow, hhigh, -, -⟩ := h
  have hwork : ¬ 0x280000 ≤ y - spBase cl k := by omega
  have hspill : ¬ spillBase ≤ y - spBase cl k := by simp only [spillBase]; omega
  have hways : ¬ 0x280000 - 0x10000 * c.cacheWays cl k ≤ y - spBase cl k := by omega
  simp [Chip.veWritable, hplace, hwork, hspill, hways]

theorem Chip.OwnLine.inRange (pc : Nat) {op : VeOp} (hlen : op.len = 8) (hadd : ∀ size l, op ≠ .add size l) :
    c.veOutOfRange cl k ⟨a, pc, op⟩ = false := by
  have hbeyond : ¬ spSize < a % 2 ^ 48 - spBase cl k + 8 := by
    obtain ⟨-, -, hlow, hhigh⟩ := h.inScratch
    omega
  have hfirst := h.writable (y := a % 2 ^ 48) le_rfl (by omega)
  have hlast := h.writable (y := a % 2 ^ 48 + 8 - 1) (by omega) (by omega)
  cases op with
  | add size l => exact absurd rfl (hadd size l)
  | load n y => simp only [Chip.veOutOfRange, h.localOf, h.ownOff, hlen, decide_eq_false hbeyond, Bool.or_false]
  | store en bs => simp only [Chip.veOutOfRange, h.localOf, h.ownOff, hlen, decide_eq_false hbeyond, hfirst, hlast, Bool.and_self, Bool.not_true, Bool.or_false]

theorem Chip.OwnLine.direct (pc : Nat) (op : VeOp) : c.veDirect cl k t ⟨a, pc, op⟩ = true := by
  have hfirst : (c.veOf cl k).slots.any (fun r => !r.dead && decide (r.thread = t) && decide (r.req.addr / 128 = a / 128)) = false :=
    List.any_eq_false.mpr fun r hr => by simpa [and_assoc] using h.first r hr
  simp only [Chip.veDirect, h.localOf, hfirst, h.ownOff, Bool.false_eq_true, if_false, Option.isSome_some, if_true]

end

@[simp] theorem Chip.setCtx_setCtx (c : Chip) (cl k t : Nat) (x y : VeCtx) : (c.setCtx cl k t x).setCtx cl k t y = c.setCtx cl k t y := by
  rw [Chip.setCtx, Chip.veOf_setCtx, KMap.insert_insert]
  simp only [Chip.setCtx, Chip.setVe, KMap.insert_insert]

/-- The context of an instruction whose only request is under way. -/
def VeCtx.begun (x : VeCtx) (inst : Nat) (image : List Byte) : VeCtx := { x with todo := [], image := image, inst := inst, pc := x.pc + 8 }

/-- An instruction whose only request needs no slot is performed at once, and finishes when the request succeeds. -/
theorem Chip.OwnLine.started {c : Chip} {cl k t a inst pc : Nat} (h : c.OwnLine cl k t a) {image : List Byte} {op : VeOp} (hlen : op.len = 8)
    (hadd : ∀ size l, op ≠ .add size l) :
    let z := (c.setCtx cl k t ((c.ctx cl k t).begun inst image)).vePerform plainIo cl k t true ⟨a, pc, op⟩
    z.2 = COMP_OK → c.veStart cl k t inst image [⟨a, pc, op⟩] = z.1.veFinish cl k t := by
  intro z hok
  have hrange : ([⟨a, pc, op⟩] : List VeReq).any (c.veOutOfRange cl k) = false := by simp [h.inRange pc hlen hadd]
  have hdirect (x : VeCtx) : (c.setCtx cl k t x).veDirect cl k t ⟨a, pc, op⟩ = true := (h.setCtx x).direct pc op
  have hnofail : (z.2 != COMP_OK) = false := by simp [hok]
  have hz : z = (c.setCtx cl k t ((c.ctx cl k t).begun inst image)).vePerform plainIo cl k t true ⟨a, pc, op⟩ := rfl
  rw [VeCtx.begun] at hz
  rw [Chip.veStart, if_neg (Bool.eq_false_iff.mp hrange)]
  simp only [List.length_singleton, Chip.veIssueReqs, Chip.ctx_setCtx_self, hdirect, if_true, Chip.setCtx_setCtx, ← hz, hnofail, Bool.false_eq_true, if_false]

/-! Loads and stores of 8 bytes. -/

@[simp] theorem Chip.Traces.ves_eq {c d : Chip} (h : c.Traces d) : d.ves = c.ves := by
  obtain ⟨_, _, _, _, _, _, _, _, rfl⟩ := h
  rfl

theorem Chip.Traces.veOf {c d : Chip} (h : c.Traces d) (cl k : Nat) : d.veOf cl k = c.veOf cl k := by rw [Chip.veOf, h.ves_eq, Chip.veOf]

theorem Chip.Traces.ctx {c d : Chip} (h : c.Traces d) (cl k t : Nat) : d.ctx cl k t = c.ctx cl k t := by rw [Chip.ctx, h.veOf, Chip.ctx]

@[simp] theorem Chip.veFinish_mem (c : Chip) (cl k t : Nat) : (c.veFinish cl k t).mem = c.mem := by
  unfold Chip.veFinish
  dsimp only
  split_ifs <;> rfl

/-- A thread that is picked works for a run that is not stopped. -/
theorem Chip.veTurn.live {c : Chip} {cl k t i op : Nat} (ht : c.veTurn cl k t i op) : ((c.veOf cl k).liveRun (c.ctx cl k t)).isSome = true := by
  obtain ⟨hpick, -⟩ := ht
  rw [Chip.vePick] at hpick
  split at hpick
  · exact nomatch hpick
  · have hready : (c.veOf cl k).ready t = true := List.find?_some hpick
    simp only [Ve.ready, Bool.and_eq_true] at hready
    obtain ⟨⟨hlive, -⟩, -⟩ := hready
    exact hlive

/-- A load from a scratchpad that is allowed delivers the bytes there. -/
theorem Chip.vePerform_load {c : Chip} {cl k t a pc : Nat} (dest : VeDest) (h : InScratch cl k (a % 2 ^ 48) 8)
    (hcode : c.accessCode (c.veAgent cl k t) false (a % 2 ^ 48) 8 = COMP_OK) :
    c.vePerform plainIo cl k t true ⟨a, pc, .load 8 dest⟩ =
      ((c.noteSram (a % 2 ^ 48) 8).setCtx cl k t ((c.ctx cl k t).deliver dest (c.mem.readN (a % 2 ^ 48) 8)), COMP_OK) := by
  simp only [Chip.vePerform, h.not_isLpddr, Bool.false_eq_true, if_false, h.read plainIo (by decide) hcode, Bool.and_true, decide_true, if_true,
    (c.noteSram_traces (a % 2 ^ 48) 8).ctx]

theorem Chip.vePerform_store {c : Chip} {cl k t a pc en : Nat} {bs : List Byte} (h : InScratch cl k (a % 2 ^ 48) 8) :
    c.vePerform plainIo cl k t true ⟨a, pc, .store en bs⟩ = c.agentWrite (c.veAgent cl k t) (a % 2 ^ 48) en bs := by
  simp only [Chip.vePerform, h.not_isLpddr, Bool.false_eq_true, if_false]
  rfl

/-- A scalar load whose bytes are all there writes its scalar. -/
theorem Chip.veFinish_scalar {c : Chip} {cl k t : Nat} (hlive : ((c.veOf cl k).liveRun (c.ctx cl k t)).isSome = true) (htodo : (c.ctx cl k t).todo = [])
    (hloads : (c.ctx cl k t).loads = 0) (hop : viOpc (c.ctx cl k t).inst = 0x47) (himage : (c.ctx cl k t).image ≠ []) :
    ((c.veFinish cl k t).ctx cl k t).s (viD (c.ctx cl k t).inst) = leNat (c.ctx cl k t).image % 2 ^ 64 := by
  have hctx : (c.veOf cl k).ctx t = c.ctx cl k t := rfl
  have hgo : (((c.veOf cl k).liveRun (c.ctx cl k t)).isNone || !(c.ctx cl k t).todo.isEmpty) = false := by simpa [htodo] using hlive
  have hsome : (c.ctx cl k t).image.isEmpty = false := by simpa using himage
  rw [Chip.veFinish]
  simp only [hctx, hgo, hloads, hop, hsome, Bool.false_eq_true, if_false, Nat.lt_irrefl, Chip.ctx_setCtx_self]
  exact VeCtx.s_setS_self _ _ _

section
variable {c : Chip} {cl k t i : Nat}

theorem Chip.sldSst_ownStore (ht : c.veTurn cl k t i 0x47) (hdir : bit (viImmU i) 23 = true) :
    let x := c.ctx cl k t
    let a := veAddr (x.s (viA i)) (sextInt 23 (viImmU i))
    c.OwnLine cl k t a → c.sldSst cl k = (c.veCounted cl k t).veStart cl k t i [] [⟨a, x.pc, .store (ones 8) (leBytes 8 (x.s (viD i)))⟩] := by
  intro x a hown
  have hlen : (leBytes 8 (x.s (viD i))).length ≤ 8 := (leBytes_length ..).le
  rw [Chip.sldSst, Chip.veIssue_turn _ rfl ht]
  dsimp only
  rw [Chip.ctx_veCounted, if_pos hdir, hown.lines_eq, List.map_singleton, Nat.sub_self, List.drop_zero, List.take_of_length_le hlen]

theorem Chip.sldSst_ownLoad (ht : c.veTurn cl k t i 0x47) (hdir : bit (viImmU i) 23 = false) :
    let x := c.ctx cl k t
    let a := veAddr (x.s (viA i)) (sextInt 23 (viImmU i))
    c.OwnLine cl k t a → c.sldSst cl k = (c.veCounted cl k t).veStart cl k t i (List.replicate 8 0) [⟨a, x.pc, .load 8 (.image 0)⟩] := by
  intro x a hown
  rw [Chip.sldSst, Chip.veIssue_turn _ rfl ht]
  dsimp only
  rw [Chip.ctx_veCounted, if_neg (Bool.eq_false_iff.mp hdir), hown.lines_eq, List.map_singleton, Nat.sub_self]

variable {a : Nat} (h : c.OwnLine cl k t a) (inst : Nat) (image : List Byte)
include h

/-- The checks of a request under way are those of the request before its instruction was counted. -/
theorem Chip.OwnLine.code_begun (write : Bool) :
    let e := (c.veCounted cl k t).setCtx cl k t ((c.ctx cl k t).begun inst image)
    e.accessCode (e.veAgent cl k t) write (a % 2 ^ 48) 8 = c.accessCode (c.veAgent cl k t) write (a % 2 ^ 48) 8 := by
  intro e
  have hagent : e.veAgent cl k t = c.veAgent cl k t := Chip.veAgent_congr (by rw [Chip.ctx_setCtx_self]; rfl) (by rw [Chip.veOf_setCtx, Chip.veOf_veCounted])
  rw [hagent, h.inScratch.accessCode (Chip.sameGrants_setCtx (c.sameGrants_veCounted cl t h.core) ..)]

/-- A load writes the 8 bytes there, least significant first, to the instruction's scalar, and memory stays. -/
theorem Chip.OwnLine.load (hlive : ((c.veOf cl k).liveRun (c.ctx cl k t)).isSome = true) (hop : viOpc inst = 0x47) (hloads : (c.ctx cl k t).loads = 0)
    (hcode : c.accessCode (c.veAgent cl k t) false (a % 2 ^ 48) 8 = COMP_OK) (pc : Nat) :
    let d := (c.veCounted cl k t).veStart cl k t inst (List.replicate 8 0) [⟨a, pc, .load 8 (.image 0)⟩]
    d.mem = c.mem ∧ (d.ctx cl k t).s (viD inst) = leNat (c.mem.readN (a % 2 ^ 48) 8) := by
  intro d
  let bs := c.mem.readN (a % 2 ^ 48) 8
  let y := (c.ctx cl k t).begun inst (List.replicate 8 0)
  let e := (c.veCounted cl k t).setCtx cl k t y
  let n := (e.noteSram (a % 2 ^ 48) 8).setCtx cl k t (y.deliver (.image 0) bs)
  have hperform : e.vePerform plainIo cl k t true ⟨a, pc, .load 8 (.image 0)⟩ = (n, COMP_OK) := by
    rw [Chip.vePerform_load _ h.inScratch ((h.code_begun ..).trans hcode), Chip.ctx_setCtx_self]
    rfl
  have hd : d = n.veFinish cl k t := by
    have hstart := h.counted.started (inst := inst) (pc := pc) (image := List.replicate 8 0) (op := .load 8 (.image 0)) rfl (fun _ _ => nofun)
    rw [Chip.ctx_veCounted, hperform] at hstart
    exact hstart rfl
  have hn : n.ctx cl k t = y.deliver (.image 0) bs := Chip.ctx_setCtx_self ..
  have himage : (n.ctx cl k t).image = bs := by
    have hlen : bs.length = 8 := Mem.length_readN ..
    rw [hn]
    simp [VeCtx.deliver, splice, y, VeCtx.begun, hlen]
  have hlt : leNat bs < 2 ^ 64 := by
    have := leNat_lt bs
    rwa [Mem.length_readN] at this
  have hruns : (n.veOf cl k).runs = (c.veOf cl k).runs := by
    rw [Chip.veOf_setCtx, (e.noteSram_traces _ _).veOf, Chip.veOf_setCtx, Chip.veOf_veCounted]
  rw [hd]
  refine ⟨?_, ?_⟩
  · rw [Chip.veFinish_mem]
    exact e.noteSram_mem _ _
  · have hscalar := Chip.veFinish_scalar (c := n) (cl := cl) (k := k) (t := t) (by rw [Ve.liveRun, hruns, hn]; exact hlive) (by rw [hn]; rfl)
      (by rw [hn]; exact hloads) (by rw [hn]; exact hop) (by rw [himage]; exact List.ne_nil_of_length_eq_add_one (Mem.length_readN ..))
    rw [himage, Nat.mod_eq_of_lt hlt, hn] at hscalar
    exact hscalar

/-- A store leaves its 8 bytes there and every other byte as it was. -/
theorem Chip.OwnLine.store {bs : List Byte} (hlen : bs.length = 8) (hcode : c.accessCode (c.veAgent cl k t) true (a % 2 ^ 48) 8 = COMP_OK) (pc : Nat) :
    ((c.veCounted cl k t).veStart cl k t inst [] [⟨a, pc, .store (ones 8) bs⟩]).mem = c.mem.writeN (a % 2 ^ 48) bs := by
  let e := (c.veCounted cl k t).setCtx cl k t ((c.ctx cl k t).begun inst [])
  have hbytes : InScratch cl k (a % 2 ^ 48) bs.length := by rw [hlen]; exact h.inScratch
  have hallowed : e.accessCode (e.veAgent cl k t) true (a % 2 ^ 48) bs.length = COMP_OK := by
    rw [hlen]
    exact (h.code_begun ..).trans hcode
  have hstart := h.counted.started (inst := inst) (pc := pc) (image := []) (op := .store (ones 8) bs) hlen (fun _ _ => nofun)
  rw [Chip.ctx_veCounted, Chip.vePerform_store h.inScratch] at hstart
  rw [hstart (hbytes.write_code hallowed _), Chip.veFinish_mem]
  have hmem := hbytes.write_mem (by omega) hallowed
  rw [hlen] at hmem
  exact hmem

end

/-- Settles O27: an instruction is followed from its turn to the requests that it starts; SLD_SST's single request is served at once. -/
theorem vectorMemoryInstructionsComplete : Obligations.VectorMemoryInstructionsComplete := by
  unfold Obligations.VectorMemoryInstructionsComplete
  refine ⟨fun s cl k t i hr => ⟨fun hfmt hal => ⟨fun ht => ?load, fun ht => ?store⟩,
      fun hfmt hal => ⟨fun ht => ?gather, fun ht => ?scatter, fun ht hw => ?scatadd⟩, fun ht => ?fence⟩,
    ?own⟩
  case load => rw [exec_of_onCluster (f := (·.vld cl k)) hr rfl, Chip.vld_starts ht hfmt hal]
  case store => rw [exec_of_onCluster (f := (·.vst cl k)) hr rfl, Chip.vst_starts ht hfmt hal]
  case gather => rw [exec_of_onCluster (f := (·.vgather cl k)) hr rfl, Chip.vgather_starts ht hfmt hal]
  case scatter => rw [exec_of_onCluster (f := (·.vscatter cl k)) hr rfl, Chip.vscatter_starts ht hfmt hal]
  case scatadd => rw [exec_of_onCluster (f := (·.vscatadd cl k)) hr rfl, Chip.vscatadd_starts ht hw hfmt hal]
  case fence => rw [exec_of_onCluster (f := (·.vfence cl k)) hr rfl, Chip.vfence_turn ht]
  case own =>
    intro s cl k t i hr c x a l ht hself hlow hhigh hline hfirst
    obtain ⟨-, -, -, hop, -⟩ := id ht
    have hown : c.OwnLine cl k t a := ⟨cl.isLt, k.isLt, hself, hlow, hhigh, hline, hfirst⟩
    refine ⟨fun hdir hloads hcode => ⟨_, exec_of_onCluster (f := (·.sldSst cl k)) hr rfl, ?_⟩,
      fun hdir hcode => ⟨_, exec_of_onCluster (f := (·.sldSst cl k)) hr rfl, ?_⟩⟩
    · rw [Chip.sldSst_ownLoad ht hdir hown]
      exact hown.load i ht.live hop hloads hcode x.pc
    · let bs := leBytes 8 (x.s (viD i))
      have hlen : bs.length = 8 := leBytes_length ..
      have hmem : (c.sldSst cl k).mem = c.mem.writeN l bs := by rw [Chip.sldSst_ownStore ht hdir hown, hown.store i hlen hcode]
      rw [hmem]
      refine ⟨?_, fun y hy => Mem.read_writeN_out _ _ _ _ (by rwa [hlen])⟩
      have hread := Mem.readN_writeN c.mem l bs
      rwa [hlen] at hread

end Sys2Proof.Machine
end

section
/-! SUPPORT and certificates. Runs of the vector engine: how they start and end, the watchdog, errors of the register file, and responses to requests
(R217, R220, R230-R233). -/

namespace Sys2Proof.Machine

/-! Lists of insertions. -/

/-- A map whose keys are set one after another holds under each of them what some entry of that key gave. -/
theorem KMap.getD_forAll_insert {α β : Type} (key : β → Nat) (g : β → α) (l : List β) (m : KMap α) (d : α) {j : Nat} (hj : j ∈ l.map key) :
    ∃ e ∈ l, key e = j ∧ KMap.getD (forAll l m (fun m e => m.insert (key e) (g e))) j d = g e := by
  induction l using List.reverseRecOn with
  | nil => exact nomatch hj
  | append_singleton l e ih =>
    have hlast : forAll (l ++ [e]) m (fun m e => m.insert (key e) (g e)) = (forAll l m (fun m e => m.insert (key e) (g e))).insert (key e) (g e) := by
      rw [forAll, List.foldl_append]
      rfl
    rw [hlast]
    by_cases he : key e = j
    · exact ⟨e, by simp, he, by rw [he, KMap.getD_insert_self]⟩
    · have hbefore : j ∈ l.map key := by simpa [Ne.symm he] using hj
      obtain ⟨x, hx, hkey, hval⟩ := ih hbefore
      exact ⟨x, List.mem_append_left _ hx, hkey, by rw [KMap.getD_insert_of_ne _ _ _ (Ne.symm he), hval]⟩

/-! The start of a run (R230, R231). -/

/-- The context of a thread that starts: number `i` of `count` in run `n`, at `pc`, with the arguments in scalars 2 to 31. -/
def VeCtx.armed (x : VeCtx) (n pc count i : Nat) (arg : Nat → Nat) : VeCtx :=
  let y := { x with run := some n, done := false, pc := pc, wait := .ready, todo := [], loads := 0, image := [], inst := 0, cvts := 0 }
  forAll (upto 30) ((y.setS 0 i).setS 1 count) (fun y j => y.setS (2 + j) (arg j))

section
variable (x : VeCtx) (n pc count i : Nat) (arg : Nat → Nat)

@[simp] theorem VeCtx.run_armed : (x.armed n pc count i arg).run = some n := forAll_keeps VeCtx.run _ _ _ fun _ _ => rfl
@[simp] theorem VeCtx.done_armed : (x.armed n pc count i arg).done = false := forAll_keeps VeCtx.done _ _ _ fun _ _ => rfl
@[simp] theorem VeCtx.pc_armed : (x.armed n pc count i arg).pc = pc := forAll_keeps VeCtx.pc _ _ _ fun _ _ => rfl

theorem VeCtx.s_forAll_setS (m : Nat) {j : Nat} (hj : j < m) : (forAll (upto m) x (fun y j => y.setS (2 + j) (arg j))).s (2 + j) = arg j % 2 ^ 64 := by
  induction m with
  | zero => exact absurd hj (Nat.not_lt_zero j)
  | succ m ih =>
    have hlast : forAll (upto (m + 1)) x (fun y j => y.setS (2 + j) (arg j)) =
        (forAll (upto m) x (fun y j => y.setS (2 + j) (arg j))).setS (2 + m) (arg m) := by
      rw [forAll, upto, List.range_succ, List.foldl_append]
      rfl
    rw [hlast]
    rcases Nat.lt_succ_iff_lt_or_eq.mp hj with hlt | rfl
    · rw [VeCtx.s_setS_of_ne _ _ (by omega), ih hlt]
    · exact VeCtx.s_setS_self _ _ _

theorem VeCtx.s_armed {j : Nat} (hj : j < 30) (harg : arg j < 2 ^ 64) : (x.armed n pc count i arg).s (2 + j) = arg j :=
  (VeCtx.s_forAll_setS _ arg 30 hj).trans (Nat.mod_eq_of_lt harg)

end

/-- `d` has the threads and the memory of `c`, and its sequencer the runs in flight and the next number. -/
structure Chip.KeepsRuns (c d : Chip) (cl k : Nat) : Prop where
  ves : d.ves = c.ves
  mem : d.mem = c.mem
  runs : (d.seqOf cl k).runs = (c.seqOf cl k).runs
  seqNo : (d.seqOf cl k).seqNo = (c.seqOf cl k).seqNo

section
variable {c d e : Chip} {cl k : Nat}

theorem Chip.KeepsRuns.trans (h : c.KeepsRuns d cl k) (h' : d.KeepsRuns e cl k) : c.KeepsRuns e cl k :=
  ⟨h'.ves.trans h.ves, h'.mem.trans h.mem, h'.runs.trans h.runs, h'.seqNo.trans h.seqNo⟩

theorem Chip.KeepsRuns.veOf (h : c.KeepsRuns d cl k) : d.veOf cl k = c.veOf cl k := by rw [Chip.veOf, h.ves, Chip.veOf]

theorem Chip.KeepsRuns.ctx (h : c.KeepsRuns d cl k) (t : Nat) : d.ctx cl k t = c.ctx cl k t := by rw [Chip.ctx, h.veOf, Chip.ctx]

theorem Chip.Traces.keepsRuns (h : c.Traces d) (hmem : d.mem = c.mem) (cl k : Nat) : c.KeepsRuns d cl k := by
  obtain ⟨_, _, _, _, _, _, _, _, rfl⟩ := h
  exact ⟨rfl, hmem, rfl, rfl⟩

theorem Chip.seqStop_keepsRuns (c : Chip) (cl k : Nat) (code : Code) : c.KeepsRuns (c.seqStop cl k code) cl k := by
  refine ⟨rfl, rfl, ?_, ?_⟩ <;> rw [Chip.seqStop, Chip.seqOf_setSeq_self]

theorem Chip.tpRefuse_keepsRuns (c : Chip) (cl k reason : Nat) : c.KeepsRuns (c.tpRefuse cl k reason) cl k :=
  ((c.raise_traces _ _).trans (Chip.setFs_traces _ _ _)).keepsRuns (by simp) cl k |>.trans (Chip.seqStop_keepsRuns _ cl k _)

theorem Chip.seqAdvance_keepsRuns (c : Chip) (cl k : Nat) : c.KeepsRuns (c.seqAdvance cl k) cl k := by
  have hsettle (c : Chip) : c.KeepsRuns (c.seqSettle cl k) cl k := by
    unfold Chip.seqSettle
    dsimp only
    split_ifs
    · exact c.tpRefuse_keepsRuns cl k _
    · exact ⟨rfl, rfl, rfl, rfl⟩
    · exact c.tpRefuse_keepsRuns cl k _
  refine .trans ?_ (hsettle _)
  refine ⟨rfl, rfl, ?_, ?_⟩ <;> rw [Chip.cmdDone, Chip.addF, Chip.seqOf_setF, Chip.seqOf_setSeq_self]

end

/-- The threads that a VE_RUN names, where they begin, and where their arguments lie (R230). -/
def veRunThreads (bs : List Byte) : List Nat := (upto 8).filter (bit (recNat bs 2 1))
def veRunPc (bs : List Byte) : Nat := field (recNat bs 4 4) 0 22
def veRunArgs (bs : List Byte) : Nat := field (recNat bs 8 4) 0 22

/-- The engine with a run started: `n` is its number, `r` its record. -/
def Chip.runArmed (c : Chip) (cl k : Nat) (bs : List Byte) (r : VeRun) : Chip :=
  let v := c.veOf cl k
  c.setVe cl k { v with
    ctxs := forAll (veRunThreads bs).zipIdx v.ctxs (fun m e => m.insert e.1
      ((v.ctx e.1).armed r.seq (veRunPc bs) (veRunThreads bs).length e.2 (fun j => leNat (c.spRead cl k (veRunArgs bs + 8 * j) 8))))
    runs := v.runs ++ [r] }

section
variable {c : Chip} {cl k : Nat} {bs : List Byte}

theorem Chip.veRun_starts (hat : c.seqAt cl k 0xB = some bs) (hgood : veBadRun bs (c.shared (c.seqPart cl k)) = false)
    (hargs : veRunArgs bs + 240 ≤ spSize)
    (hown : c.spDenied cl k (c.seqPart cl k) [(veRunArgs bs, veRunArgs bs + 240), (veRunPc bs, veRunPc bs + 8)] = false)
    (hidle : ∀ t ∈ veRunThreads bs, (c.ctx cl k t).run = none) :
    ∃ r hold, r.seq = (c.seqOf cl k).seqNo ∧
      let e := ((c.numbered cl k).runArmed cl k bs r).seqAdvance cl k
      c.veRun cl k = e.setSeq cl k { e.seqOf cl k with runs := (e.seqOf cl k).runs ++ [r.seq], veHold := hold } := by
  have hfree : (veRunThreads bs).any (fun t => (c.ctx cl k t).run.isSome) = false := List.any_eq_false.mpr fun t ht => by simp [hidle t ht]
  rw [veRunThreads] at hfree
  rw [veRunArgs, veRunPc] at hown
  rw [veRunArgs] at hargs
  let ctx := field (recNat bs 3 1) 0 3
  refine ⟨⟨(c.seqOf cl k).seqNo, veRunThreads bs,
      if (c.numbered cl k).shared (c.seqPart cl k) then 2 * (c.numbered cl k).getF (.part (c.seqPart cl k)) R.PART_STATE_MEMBER + ctx % 2 else ctx,
      c.seqPart cl k, none⟩, if bit (recNat bs 1 1) 0 then none else some (c.seqOf cl k).seqNo, rfl, ?_⟩
  rw [Chip.veRun, hat]
  dsimp only
  rw [if_neg (Bool.eq_false_iff.mp hgood), if_neg (Nat.not_lt.mpr hargs), if_neg (Bool.eq_false_iff.mp hown), if_neg (Bool.eq_false_iff.mp hfree),
    Chip.seqNumber_eq]
  rfl

/-- A thread that a run names has a context armed with the run's arguments. -/
theorem Chip.ctx_runArmed (c : Chip) (cl k : Nat) (r : VeRun) {t : Nat} (ht : t ∈ veRunThreads bs) : ∃ x i,
    (c.runArmed cl k bs r).ctx cl k t =
      VeCtx.armed x r.seq (veRunPc bs) (veRunThreads bs).length i (fun j => leNat (c.spRead cl k (veRunArgs bs + 8 * j) 8)) := by
  have hkeys : t ∈ (veRunThreads bs).zipIdx.map Prod.fst := by rwa [List.zipIdx_map_fst]
  obtain ⟨e, -, -, he⟩ := KMap.getD_forAll_insert Prod.fst
    (fun e : Nat × Nat => ((c.veOf cl k).ctx e.1).armed r.seq (veRunPc bs) (veRunThreads bs).length e.2
      (fun j => leNat (c.spRead cl k (veRunArgs bs + 8 * j) 8))) _ (c.veOf cl k).ctxs {} hkeys
  exact ⟨_, _, by rw [Chip.ctx, Chip.runArmed, Chip.veOf_setVe_self]; exact he⟩

/-- What a VE_RUN that starts leaves: its run in flight, its threads armed, memory as it was (R230, R231). -/
theorem Chip.veRun_started (hat : c.seqAt cl k 0xB = some bs) (hgood : veBadRun bs (c.shared (c.seqPart cl k)) = false)
    (hargs : veRunArgs bs + 240 ≤ spSize)
    (hown : c.spDenied cl k (c.seqPart cl k) [(veRunArgs bs, veRunArgs bs + 240), (veRunPc bs, veRunPc bs + 8)] = false)
    (hidle : ∀ t ∈ veRunThreads bs, (c.ctx cl k t).run = none) :
    ((c.veRun cl k).seqOf cl k).runs = (c.seqOf cl k).runs ++ [(c.seqOf cl k).seqNo] ∧ ((c.veRun cl k).seqOf cl k).seqNo = (c.seqOf cl k).seqNo + 1 ∧
    (∀ t ∈ veRunThreads bs, ∃ x count i, (c.veRun cl k).ctx cl k t =
      VeCtx.armed x (c.seqOf cl k).seqNo (veRunPc bs) count i (fun j => leNat (c.spRead cl k (veRunArgs bs + 8 * j) 8))) ∧
    (c.veRun cl k).mem = c.mem := by
  obtain ⟨r, hold, hseq, hd⟩ := Chip.veRun_starts hat hgood hargs hown hidle
  have hkeep := ((c.numbered cl k).runArmed cl k bs r).seqAdvance_keepsRuns cl k
  have hnumbered : (((c.numbered cl k).runArmed cl k bs r).seqOf cl k) = { c.seqOf cl k with seqNo := (c.seqOf cl k).seqNo + 1 } :=
    Chip.seqOf_setSeq_self c cl k _
  rw [hd]
  refine ⟨?_, ?_, fun t ht => ?_, hkeep.mem⟩
  · rw [Chip.seqOf_setSeq_self, hkeep.runs, hnumbered, hseq]
  · rw [Chip.seqOf_setSeq_self, hkeep.seqNo, hnumbered]
  · obtain ⟨x, i, hctx⟩ := Chip.ctx_runArmed (c.numbered cl k) cl k r ht
    exact ⟨x, _, i, hseq ▸ (hkeep.ctx t).trans hctx⟩

end

/-! The end of a run (R231, R232, R238). -/

/-- The counters of the engine with what a run added to them. -/
def Chip.runCounted (c : Chip) (cl k starve slots cap : Nat) : Chip :=
  ((c.addF (.ve cl k) R.VE_STARVE_CYC starve).addF (.ve cl k) R.VE_SLOT_CYC slots).addF (.ve cl k) R.VE_BANK_CAP_CYC cap

/-- The engine and the sequencer without run `r`. -/
def Chip.runDropped (c : Chip) (cl k : Nat) (r : VeRun) : Chip :=
  let v := c.veOf cl k
  let q := c.seqOf cl k
  (c.setVe cl k { v with
    ctxs := forAll r.threads v.ctxs (fun m t => m.insert t { v.ctx t with run := none, wait := .ready, todo := [] })
    runs := v.runs.filter (fun x => x.seq != r.seq) }).setSeq cl k
      { q with runs := q.runs.filter (· != r.seq), veHold := if q.veHold = some r.seq then none else q.veHold }

section
variable {c : Chip} {cl k : Nat} {r : VeRun}

theorem Chip.veRunDone_ends (hended : (c.veOf cl k).runs.find? (c.veOf cl k).runEnded = some r) (starve slots cap : Nat) :
    let d := (c.runCounted cl k starve slots cap).runDropped cl k r
    c.veRunDone cl k starve slots cap = r.stop.elim (d.cmdDone cl k 1) (d.seqStop cl k) := by
  intro d
  cases hstop : r.stop with
  | none => simp only [Chip.veRunDone, hended, hstop]; rfl
  | some code => simp only [Chip.veRunDone, hended, hstop]; rfl

theorem Chip.ctx_runDropped (c : Chip) (cl k : Nat) {t : Nat} (ht : t ∈ r.threads) : ((c.runDropped cl k r).ctx cl k t).run = none := by
  obtain ⟨e, -, -, he⟩ := KMap.getD_forAll_insert id
    (fun t => { (c.veOf cl k).ctx t with run := none, wait := .ready, todo := [] }) r.threads (c.veOf cl k).ctxs {} (j := t) (by simpa using ht)
  rw [Chip.ctx, Chip.runDropped, Chip.veOf_setSeq, Chip.veOf_setVe_self]
  exact congrArg VeCtx.run he

/-- The cycles of a fallback are counted elsewhere, and the starved ones grow by the run's. -/
theorem Chip.getF_runCounted (c : Chip) (cl k starve slots cap : Nat) :
    (c.runCounted cl k starve slots cap).getF (.ve cl k) R.VE_FALLBACK_CYC = c.getF (.ve cl k) R.VE_FALLBACK_CYC ∧
    (c.runCounted cl k starve slots cap).getF (.ve cl k) R.VE_STARVE_CYC =
      (c.getF (.ve cl k) R.VE_STARVE_CYC + starve) % 2 ^ R.VE_STARVE_CYC.width := by
  constructor
  · rw [Chip.runCounted, Chip.getF_addF_of_ne _ _ (fkey_ne_of_place _ (by decide)), Chip.getF_addF_of_ne _ _ (fkey_ne_of_place _ (by decide)),
      Chip.getF_addF_of_ne _ _ (fkey_ne_of_place _ (by decide))]
  · rw [Chip.runCounted, Chip.getF_addF_of_ne _ _ (fkey_ne_of_place _ (by decide)), Chip.getF_addF_of_ne _ _ (fkey_ne_of_place _ (by decide)),
      Chip.getF_addF_self]

/-- The count of completed commands is no register of the vector engine. -/
theorem Chip.getF_cmdDone_ve (c : Chip) {cl k : Nat} {f : Field} (hoff : f.off < 0x400) (hlsb : f.lsb < 64) (n : Nat) :
    (c.cmdDone cl k n).getF (.ve cl k) f = c.getF (.ve cl k) f := by
  refine Chip.getF_addF_of_ne _ _ ?_
  simp only [fkey, Blk.base, dieSpan, R.CORE_SEQ_CMDS_COMMANDS]
  omega

/-- The completion of a command leaves what the sequencer's runs are and why its program stopped. -/
theorem Chip.cmdDone_keepsRuns (c : Chip) (cl k n : Nat) : c.KeepsRuns (c.cmdDone cl k n) cl k := ⟨rfl, rfl, rfl, rfl⟩

/-- A run that ends leaves what its threads and counters became, and stops the program where it has a code. -/
theorem Chip.veRunDone_keepsRuns (hended : (c.veOf cl k).runs.find? (c.veOf cl k).runEnded = some r) (starve slots cap : Nat) :
    let d := (c.runCounted cl k starve slots cap).runDropped cl k r
    d.KeepsRuns (c.veRunDone cl k starve slots cap) cl k ∧
    ((c.veRunDone cl k starve slots cap).seqOf cl k).stop = r.stop.elim (c.seqOf cl k).stop some ∧
    ∀ {f : Field}, f.off < 0x400 → f.lsb < 64 → (c.veRunDone cl k starve slots cap).getF (.ve cl k) f = d.getF (.ve cl k) f := by
  intro d
  have hd : (d.seqOf cl k).stop = (c.seqOf cl k).stop := (congrArg CoreSeq.stop (Chip.seqOf_setSeq_self _ cl k _)).trans rfl
  rw [Chip.veRunDone_ends hended]
  cases r.stop with
  | none => exact ⟨d.cmdDone_keepsRuns cl k 1, hd, fun hoff hlsb => d.getF_cmdDone_ve hoff hlsb 1⟩
  | some code => exact ⟨d.seqStop_keepsRuns cl k code, congrArg CoreSeq.stop (Chip.seqOf_setSeq_self _ cl k _), fun _ _ => rfl⟩

end

/-! Runs that fail (R219, R232). -/

section
variable {c : Chip} {cl k t : Nat} {r : VeRun}

theorem Chip.veUnwait_ves (c : Chip) (cl k t : Nat) : (c.veUnwait cl k t).ves = c.ves := rfl

/-- A thread's failure stops its run with the code. -/
theorem Chip.runs_veFail (hlive : (c.veOf cl k).liveRun (c.ctx cl k t) = some r) (reason pc : Nat) (code : Code) (addr : Option Nat) :
    ((c.veFail cl k t reason pc code addr).veOf cl k).runs =
      (c.veOf cl k).runs.map (fun x => if x.seq = r.seq then { x with stop := some code } else x) := by
  have hrun (d : Chip) (l : List Nat) (b : Blk) (st : Status) (fs : List (Field × Nat)) :
      (((forAll l d (fun c u => c.veUnwait cl k u)).raise b st).setFs b fs).veOf cl k = d.veOf cl k := by
    rw [((Chip.raise_traces _ b st).trans (Chip.setFs_traces _ b fs)).veOf, Chip.veOf, forAll_keeps Chip.ves _ _ _ (fun d u => d.veUnwait_ves cl k u),
      Chip.veOf]
  rw [Chip.ctx] at hlive
  rw [Chip.veFail, hlive]
  cases addr with
  | none => exact congrArg Ve.runs ((hrun _ _ _ _ _).trans (Chip.veOf_setVe_self ..))
  | some a => exact congrArg Ve.runs ((Chip.veOf_setF ..).trans ((hrun _ _ _ _ _).trans (Chip.veOf_setVe_self ..)))

theorem Chip.stop_of_mem_veFail (hlive : (c.veOf cl k).liveRun (c.ctx cl k t) = some r) {reason pc : Nat} {code : Code} {addr : Option Nat}
    {x : VeRun} (hx : x ∈ ((c.veFail cl k t reason pc code addr).veOf cl k).runs) (hseq : x.seq = r.seq) : x.stop = some code := by
  rw [Chip.runs_veFail hlive, List.mem_map] at hx
  obtain ⟨y, -, rfl⟩ := hx
  by_cases hy : y.seq = r.seq
  · simp only [if_pos hy]
  · simp only [if_neg hy] at hseq
    exact absurd hseq hy

/-- A run beyond the watchdog fails at its first thread that goes on. -/
theorem Chip.veTimeout_fails {n : Nat} (hrun : (c.veOf cl k).runs[n]? = some r) (hlimit : c.getF (.ve cl k) R.VE_CTRL_WATCHDOG ≠ 0)
    (hfallback : (c.meOf cl k).fallback = false) (hstop : r.stop = none) (hfirst : r.threads.find? (fun t => !(c.ctx cl k t).done) = some t) :
    c.veTimeout cl k n = c.veFail cl k t 9 (c.ctx cl k t).pc COMP_VE_TIMEOUT none := by
  simp [Chip.veTimeout, hrun, hlimit, hfallback, hstop, hfirst]

end

/-! Register errors (R233). -/

theorem offSlices_ve (cl : Nat) {k : Nat} (hk : k < 16) {f : Field} (hf : f ∈ [St.VE_REG_UE.flag, St.VE_REG_UE.cnt]) : OffSlices (.ve cl k) f := by
  have hlsb : f.lsb < 64 ∧ f.lsb ≠ R.PART_STATE_SET_SIZE.lsb ∧ f.lsb ≠ R.PART_STATE_IN_SLICE.lsb ∧ f.off < 0x400 := by
    revert f
    decide
  obtain ⟨hlt, hsize, hslice, hoff⟩ := hlsb
  refine ⟨fun p => fkey_ne_of_lsb (by decide) hlt hsize.symm, fun p => fkey_ne_of_lsb (by decide) hlt hslice.symm, fun p hp => ?_⟩
  simp only [fkey, Blk.base, dieSpan, R.PART_CLUSTERS]
  omega

/-- An uncorrectable register error resets the partition whose work runs on the core. -/
theorem Chip.veRegError_ue {c : Chip} {cl k p : Nat} (hk : k < 16) (hp : c.partOf cl = some p) :
    c.veRegError cl k true = (c.raise (.ve cl k) St.VE_REG_UE).partReset p := by
  have hsame : c.SameSlices (c.raise (.ve cl k) St.VE_REG_UE) :=
    c.raiseIf_sameSlices (offSlices_ve cl hk (by decide)) (offSlices_ve cl hk (by decide)) true
  have hpart : (c.veRegEcc cl k true).partOf cl = some p := (hsame.partOf cl).trans hp
  simp only [Chip.veRegError, hpart]
  rfl

/-! Responses to requests (R217, R220, R223, R233). -/

/-- The engine once request `n` of those that hold slots has had its response: its slots are free. -/
def Chip.slotReleased (c : Chip) (cl k n lat : Nat) (r : VeSlot) : Chip :=
  let v := c.veOf cl k
  let x := v.ctx r.thread
  let d := c.setVe cl k { v with
    slots := v.slots.eraseIdx n, ctxs := if r.dead then v.ctxs else v.ctxs.insert r.thread { x with loads := x.loads - b2n r.req.isLoad } }
  let d := forAll r.tags d (fun y g => y.fabEnd g)
  if d.getF (.ve cl k) R.VE_MAX_LAT < lat then d.setF (.ve cl k) R.VE_MAX_LAT lat else d

/-- The response of another device, with its code and bytes: a load of a live run takes them. -/
def Chip.slotReceived (d : Chip) (cl k : Nat) (live : Bool) (r : VeSlot) (code : Code) (bs : List Byte) : Chip :=
  match r.req.op with
  | .load _ y => if code = COMP_OK ∧ live = true then d.setCtx cl k r.thread ((d.ctx cl k r.thread).deliver y bs) else d
  | _ => d

/-- The request performed, or its answer taken, with the code. -/
def Chip.slotAnswered (d : Chip) (io : RegIo) (cl k : Nat) (live : Bool) (answer : Option (Code × List Byte)) (r : VeSlot) : Chip × Code :=
  if r.dead then (d, COMP_OK) else if r.tags.isEmpty then d.vePerform io cl k r.thread live r.req
  else match answer, r.req.op with
    | some (code, bs), .load _ y => (if code = COMP_OK && live then d.setCtx cl k r.thread ((d.ctx cl k r.thread).deliver y bs) else d, code)
    | a, _ => (d, (a.map (·.1)).getD COMP_OK)

/-- A code other than COMP_OK fails the run; then the threads that waited go on. -/
def Chip.slotDone (cl k : Nat) (r : VeSlot) (z : Chip × Code) : Chip :=
  let e := if z.2 != COMP_OK then z.1.veFail cl k r.thread 7 r.req.pc z.2 (some r.req.addr) else z.1
  (if (e.ctx cl k r.thread).wait == .data then e.veFinish cl k r.thread else e).veWake cl k

section
variable {c d : Chip} {cl k n lat : Nat} {r : VeSlot} {live : Bool} {io : RegIo}

theorem Chip.slotAnswered_some (a : Code × List Byte) : d.slotAnswered io cl k live (some a) r =
    if r.dead then (d, COMP_OK) else if r.tags = [] then d.vePerform io cl k r.thread live r.req else (d.slotReceived cl k live r a.1 a.2, a.1) := by
  simp only [Chip.slotAnswered, Chip.slotReceived, List.isEmpty_iff]
  cases r.req.op <;> simp

theorem Chip.slotDone_eq (z : Chip × Code) : Chip.slotDone cl k r z =
    let e := if z.2 = COMP_OK then z.1 else z.1.veFail cl k r.thread 7 r.req.pc z.2 (some r.req.addr)
    (if (e.ctx cl k r.thread).wait == .data then e.veFinish cl k r.thread else e).veWake cl k := by
  by_cases hz : z.2 = COMP_OK <;> simp [Chip.slotDone, hz]

/-- A response that nothing holds back releases the slots of its request, which is performed or answered. -/
theorem Chip.veReturn_answered (io : RegIo) (lat : Nat) (hslot : (c.veOf cl k).slots[n]? = some r)
    (hanswer : (c.veAnswer r.tags).isSome = true) (hretry : c.veRetried cl k r = false) (hheld : c.veHeld r = false)
    (hfirst : ∀ x ∈ (c.veOf cl k).slots.take n, ¬(x.dead = false ∧ x.thread = r.thread ∧ x.req.addr / 128 = r.req.addr / 128)) :
    c.veReturn io cl k n lat = Chip.slotDone cl k r ((c.slotReleased cl k n lat r).slotAnswered io cl k
      (!r.dead && ((c.veOf cl k).liveRun ((c.veOf cl k).ctx r.thread)).isSome) (c.veAnswer r.tags) r) := by
  have holder : ((c.veOf cl k).slots.take n).any
      (fun x => !x.dead && decide (x.thread = r.thread) && decide (x.req.addr / 128 = r.req.addr / 128)) = false :=
    List.any_eq_false.mpr fun x hx => by simpa [and_assoc] using hfirst x hx
  have hfree : ((c.veAnswer r.tags).isNone || c.veRetried cl k r || c.veHeld r || ((c.veOf cl k).slots.take n).any
      (fun x => !x.dead && decide (x.thread = r.thread) && decide (x.req.addr / 128 = r.req.addr / 128))) = false := by
    rw [Option.isNone_eq_false_iff.mpr hanswer, hretry, hheld, holder]
    rfl
  unfold Chip.veReturn
  extract_lets v
  have hv : v.slots[n]? = some r := hslot
  rw [hv]
  exact if_neg (Bool.eq_false_iff.mp hfree)

end

/-- Settles O30: a run is followed from its command to the armed threads and back to its end, a response from its slot to the request performed. -/
theorem vectorRunsComplete : Obligations.VectorRunsComplete := by
  unfold Obligations.VectorRunsComplete
  intro s cl k hr c q v
  refine ⟨?start, ?done, ?timeout, ?error, ?response⟩
  case start =>
    intro bs hat ts args pc hgood hargs hown hidle
    obtain ⟨hruns, hseqNo, hctx, hmem⟩ := Chip.veRun_started hat hgood hargs hown hidle
    refine ⟨_, exec_of_onCluster (f := (·.veRun cl k)) hr rfl, hruns, hseqNo, fun t ht => ?_, fun j hj t ht => ?_, hmem⟩
    · obtain ⟨x, count, i, hx⟩ := hctx t ht
      rw [hx]
      exact ⟨VeCtx.run_armed .., VeCtx.done_armed .., VeCtx.pc_armed ..⟩
    · obtain ⟨x, count, i, hx⟩ := hctx t ht
      rw [hx]
      exact VeCtx.s_armed x _ _ _ _ _ hj ((leNat_lt _).trans_eq (by rw [Chip.spRead, Mem.length_readN]))
  case done =>
    intro starve slots cap fallback r hended
    obtain ⟨hkeep, hstop, hreg⟩ := Chip.veRunDone_keepsRuns hended starve.toNat slots.toNat cap.toNat
    obtain ⟨hfallback, hstarve⟩ := c.getF_runCounted cl k starve.toNat slots.toNat cap.toNat
    refine ⟨_, exec_of_onCluster (f := (·.veRunDone cl k starve.toNat slots.toNat cap.toNat)) hr rfl, ?_, fun t ht => ?_, ?_, hstop, hkeep.mem, ?_, ?_⟩
    · rw [hkeep.veOf, Chip.runDropped, Chip.veOf_setSeq, Chip.veOf_setVe_self]
      rfl
    · rw [hkeep.ctx]
      exact Chip.ctx_runDropped _ cl k ht
    · rw [hkeep.runs, Chip.runDropped, Chip.seqOf_setSeq_self]
      rfl
    · exact (hreg (by decide) (by decide)).trans hfallback
    · exact (hreg (by decide) (by decide)).trans hstarve
  case timeout =>
    intro run r t hrun hlimit hfallback hstop hfirst hlive
    refine ⟨?_, fun x hx hseq => Chip.stop_of_mem_veFail hlive hx hseq⟩
    rw [← Chip.veTimeout_fails hrun hlimit hfallback hstop hfirst]
    exact exec_of_onCluster (f := (·.veTimeout cl k run)) hr rfl
  case error =>
    refine ⟨exec_of_onCluster (f := (·.veRegError cl k false)) hr rfl, fun p hp => ?_⟩
    rw [← Chip.veRegError_ue k.isLt hp]
    exact exec_of_onCluster (f := (·.veRegError cl k true)) hr rfl
  case response =>
    intro slot lat r hslot hanswer hretry hheld hfirst x live d₀ d₁ d far z e
    obtain ⟨a, ha⟩ := Option.isSome_iff_exists.mp hanswer
    have hz : z = d.slotAnswered regIo cl k live (c.veAnswer r.tags) r := by
      rw [ha, Chip.slotAnswered_some]
      unfold z
      rw [ha]
      rfl
    refine (exec_of_onCluster (f := (·.veReturn regIo cl k slot lat.toNat)) hr rfl).trans (congrArg s.goes ?_)
    rw [Chip.veReturn_answered regIo lat.toNat hslot hanswer hretry hheld hfirst]
    exact (congrArg (Chip.slotDone cl k r) hz.symm).trans (Chip.slotDone_eq z)

end Sys2Proof.Machine
end

section
/-! SUPPORT and certificates. The slots of the shared data path (R247-R249): which channel wins a slot. -/

namespace Sys2Proof.Machine

/-! The channels that compete, and those of the highest priority. -/

/-- The channels that compete for a slot. -/
def Chip.competing (c : Chip) (cl : Nat) (wr : Bool) : List Nat := (upto 32).filter (fun n => c.competes cl n wr)

/-- The highest priority at which a channel competes, 0 where none does. -/
def Chip.topPrio (c : Chip) (cl : Nat) (wr : Bool) : Nat := ((c.competing cl wr).map (fun n => c.dmaPrio cl n wr)).foldl max 0

/-- The competing channels of the highest priority. -/
def Chip.leading (c : Chip) (cl : Nat) (wr : Bool) : List Nat :=
  (c.competing cl wr).filter (fun n => c.dmaPrio cl n wr = c.topPrio cl wr)

section
variable {c : Chip} {cl : Nat} {hold : DmaHold} {wr : Bool} {n w : Nat}

theorem Chip.mem_competing : n ∈ c.competing cl wr ↔ n < 32 ∧ c.competes cl n wr = true := by
  simp [Chip.competing, upto]

theorem Chip.mem_leading : n ∈ c.leading cl wr ↔ n ∈ c.competing cl wr ∧ c.dmaPrio cl n wr = c.topPrio cl wr := by
  simp [Chip.leading]

/-- The highest priority is the least bound of the competing channels' priorities. -/
theorem Chip.topPrio_le_iff {k : Nat} : c.topPrio cl wr ≤ k ↔ ∀ n ∈ c.competing cl wr, c.dmaPrio cl n wr ≤ k := by
  rw [Chip.topPrio, List.foldl_map, foldl_max_le_iff]
  simp

theorem Chip.dmaPrio_le_topPrio (hn : n ∈ c.competing cl wr) : c.dmaPrio cl n wr ≤ c.topPrio cl wr :=
  Chip.topPrio_le_iff.mp le_rfl n hn

/-- Where a channel competes, one competes at the highest priority. -/
theorem Chip.leading_ne_nil (hn : n ∈ c.competing cl wr) : c.leading cl wr ≠ [] := by
  intro hnil
  have hless : ∀ m ∈ c.competing cl wr, c.dmaPrio cl m wr < c.topPrio cl wr := fun m hm =>
    (Chip.dmaPrio_le_topPrio hm).lt_of_ne fun htop => List.ne_nil_of_mem (Chip.mem_leading.mpr ⟨hm, htop⟩) hnil
  have htop : c.topPrio cl wr ≤ c.topPrio cl wr - 1 := Chip.topPrio_le_iff.mpr fun m hm => Nat.le_sub_one_of_lt (hless m hm)
  have := hless n hn
  omega

/-! The winner. -/

/-- A slot stays with its holder, or goes to the next leading channel after the last winner of its priority, around the channels. -/
theorem Chip.slotWinner_eq : c.slotWinner cl hold wr =
    if hold.held && (c.leading cl wr).contains hold.ch && hold.beats < 16 then some hold.ch
    else ((c.leading cl wr).find? (fun n => decide (KMap.getD hold.rot (c.topPrio cl wr) 31 < n))).orElse (fun _ => (c.leading cl wr).head?) := rfl

theorem Chip.slotWinner_holder (hheld : hold.held = true) (hbeats : hold.beats < 16) (hlead : hold.ch ∈ c.leading cl wr) :
    c.slotWinner cl hold wr = some hold.ch := by
  rw [Chip.slotWinner_eq, if_pos]
  simp [hheld, hbeats, hlead]

theorem Chip.slotWinner_leading (h : c.slotWinner cl hold wr = some w) : w ∈ c.leading cl wr := by
  rw [Chip.slotWinner_eq] at h
  split at h
  case isTrue hkeep =>
    obtain rfl := Option.some.inj h
    simp only [Bool.and_eq_true, List.contains_iff_mem] at hkeep
    obtain ⟨⟨-, hlead⟩, -⟩ := hkeep
    exact hlead
  case isFalse =>
    rcases (Option.orElse_eq_some _ _ _).mp h with hnext | ⟨-, hfirst⟩
    · exact List.mem_of_find?_eq_some hnext
    · exact List.mem_of_head? hfirst

theorem Chip.slotWinner_eq_none_iff : c.slotWinner cl hold wr = none ↔ c.competing cl wr = [] := by
  constructor
  · intro h
    by_contra hne
    obtain ⟨n, hn⟩ := List.exists_mem_of_ne_nil _ hne
    rw [Chip.slotWinner_eq] at h
    split at h
    · contradiction
    · obtain ⟨-, hhead⟩ := (Option.orElse_eq_none _ _).mp h
      exact Chip.leading_ne_nil hn (List.head?_eq_none_iff.mp hhead)
  · intro hnil
    refine Option.eq_none_iff_forall_ne_some.mpr fun w hw => ?_
    obtain ⟨hcomp, -⟩ := Chip.mem_leading.mp (Chip.slotWinner_leading hw)
    rw [hnil] at hcomp
    contradiction

end

/-- A slot is awarded to its winner. -/
theorem Chip.dmaPick_winner (c : Chip) (cl : Nat) (wr : Bool) :
    (c.dmaPick cl wr).map (·.1) = c.slotWinner cl (c.holdOf cl wr) wr := by
  rw [Chip.dmaPick, Option.map_map]
  exact Option.map_id'

/-- A slot that no channel competes for is not awarded. -/
theorem Chip.dmaSlot_uncontested {c : Chip} {cl : Nat} {wr : Bool} (h : c.competing cl wr = []) (d : Chip) :
    d.dmaSlot cl wr (c.dmaPick cl wr) = d := by
  rw [Chip.dmaPick, Chip.slotWinner_eq_none_iff.mpr h]
  rfl

/-- Settles O34: the winner is one of the competing channels of the highest priority, and the holder where it is one of them within its burst. -/
theorem slotsGoToTheHighestPriority : Obligations.SlotsGoToTheHighestPriority := by
  unfold Obligations.SlotsGoToTheHighestPriority
  refine ⟨fun c cl hold wr => ⟨fun w hw => ?winner, ?unawarded⟩, fun s cl hr => ?cycle⟩
  case winner =>
    obtain ⟨hcomp, htop⟩ := Chip.mem_leading.mp (Chip.slotWinner_leading hw)
    obtain ⟨hlt, hwr⟩ := Chip.mem_competing.mp hcomp
    refine ⟨hlt, hwr, fun n hn hc => ?_, fun hheld hbeats hch hc hsame => ?_⟩
    · exact (Chip.dmaPrio_le_topPrio (Chip.mem_competing.mpr ⟨hn, hc⟩)).trans_eq htop.symm
    · have hlead : hold.ch ∈ c.leading cl wr := Chip.mem_leading.mpr ⟨Chip.mem_competing.mpr ⟨hch, hc⟩, hsame.trans htop⟩
      exact Option.some.inj (hw.symm.trans (Chip.slotWinner_holder hheld hbeats hlead))
  case unawarded =>
    rw [Chip.slotWinner_eq_none_iff, List.eq_nil_iff_forall_not_mem]
    simp only [Chip.mem_competing, not_and, Bool.not_eq_true]
  case cycle =>
    intro c
    have hexec : exec (.dmaSlotArbitrate cl) s = s.goes (c.dmaArbitrate cl) := exec_of_onCluster (f := (·.dmaArbitrate cl)) hr rfl
    refine ⟨hexec, c.dmaPick_winner cl, fun hnone => ?_⟩
    have hempty (wr : Bool) : c.competing cl wr = [] :=
      List.eq_nil_iff_forall_not_mem.mpr fun n hn => by
        obtain ⟨hlt, hwr⟩ := Chip.mem_competing.mp hn
        exact absurd hwr (Bool.eq_false_iff.mp (hnone n wr hlt))
    rw [hexec, Chip.dmaArbitrate, Chip.dmaSlot_uncontested (hempty true), Chip.dmaSlot_uncontested (hempty false)]

end Sys2Proof.Machine
end

section
/-! SUPPORT and certificates. DMA descriptors in progress: how they start, how attempts at their segments end, ageing and buffer errors (R249-R256,
R260). -/

namespace Sys2Proof.Machine

section
variable {c : Chip} {cl n : Nat} {d : DmaDesc}

/-! Starting (R251, R252). -/

/-- A descriptor that names no shelf begins to move with all its segments; a signal has none. -/
theorem Chip.dmaBegin_absolute (hsrc : Desc.srcValid d.bs = false) (hdst : Desc.dstClaim d.bs = false) :
    c.dmaBegin cl n d = c.setDesc cl n { d with
      phase := .moving, segs := if Desc.op d.bs = 4 then [] else List.replicate (Desc.segCount d.bs) {} } := by
  simp only [Chip.dmaBegin, hsrc, hdst, Bool.or_self, Bool.false_and, Bool.false_eq_true, if_false]

/-- With no counter, source entry or claim to wait for, the steps of R252 lead straight to the move. -/
theorem Chip.dmaSync_noWait (hwait : Desc.waitSync d.bs = 0xFFFF) (hsrc : Desc.srcValid d.bs = false) (hdst : Desc.dstClaim d.bs = false) :
    c.dmaSync cl n d = c.dmaBegin cl n d := by
  simp only [Chip.dmaSync, Chip.dmaEntry, Chip.dmaClaim, hwait, hsrc, hdst, decide_true, Bool.true_or, Bool.not_false, if_true]

theorem Chip.dmaStart_moves {i : Nat}
    (hnext : findIdxFrom (fun (d : DmaDesc) => d.phase != .moving && d.phase != .ended) 0 (c.chanOf cl n).descs = some (i, d))
    (hphase : d.phase = .fetched) (hturn : c.dmaTurn cl ((c.chanOf cl n).descs.take i) d = true) (hwait : Desc.waitSync d.bs = 0xFFFF)
    (hsrc : Desc.srcValid d.bs = false) (hdst : Desc.dstClaim d.bs = false) :
    c.dmaStart cl n = c.setDesc cl n { d with
      phase := .moving, segs := if Desc.op d.bs = 4 then [] else List.replicate (Desc.segCount d.bs) {} } := by
  simp only [Chip.dmaStart, hnext, hphase, hturn, if_true]
  rw [Chip.dmaSync_noWait hwait hsrc hdst, Chip.dmaBegin_absolute hsrc hdst]

/-! The end of an attempt (R255, R256). -/

section
variable {serial s : Nat} {g : DmaSeg} (hd : (c.chanOf cl n).descs.find? (fun d => d.serial = serial && d.phase == .moving) = some d)
  (hg : d.segs[s]? = some g) (hopen : g.ended = none)
include hd hg hopen

/-- An attempt whose bytes are written and answered ends its segment; after a retry it counts as one that helped. -/
theorem Chip.dmaAttemptEnd_done (herr : g.err = none) (hwritten : g.wr = segLen d.bs s) (hanswered : g.sent = []) :
    c.dmaAttemptEnd cl n serial s = (c.raiseIf (decide (0 < g.tries)) (.dma cl) St.DMA_RETRIED).setDesc cl n { d with
      segs := setAt d.segs s { g with ended := some COMP_OK }, retries := d.retries + b2n (decide (0 < g.tries)) } := by
  simp only [Chip.dmaAttemptEnd, hd, hg, hopen, herr, hwritten, hanswered, Chip.raiseIf, Option.isSome_none, List.isEmpty_nil, decide_true,
    Bool.and_self, Bool.false_eq_true, if_false, if_true, decide_eq_true_eq]

/-- A failed attempt is tried again from its start where R255 allows it, and ends its segment with its code where not. -/
theorem Chip.dmaAttemptEnd_failed {code : Nat} (herr : g.err = some code) :
    c.dmaAttemptEnd cl n serial s =
      if code = COMP_LINK_DOWN ∧ g.tries < 4 ∧ ¬(Desc.op d.bs = 3 ∧ g.wrote = true) then
        (c.addF (.dma cl) R.DMA_SEG_RETRIES 1).setSeg cl n d s { tries := g.tries + 1, stale := g.stale ++ g.sent, wrote := g.wrote }
      else (c.addF (.dma cl) R.DMA_SEG_FAILS 1).setSeg cl n d s { g with ended := some code, pieces := [] } := by
  have hagain : (isTransport code && decide (g.tries < 4) && !(decide (Desc.op d.bs = 3) && g.wrote)) = true ↔
      code = COMP_LINK_DOWN ∧ g.tries < 4 ∧ ¬(Desc.op d.bs = 3 ∧ g.wrote = true) := by
    simp [isTransport, and_assoc, imp_iff_not_or]
  simp only [Chip.dmaAttemptEnd, hd, hg, hopen, herr, Option.isSome_none, Bool.false_eq_true, if_false, hagain]

end

/-! Requests without a response (R255, R256). -/

section
variable {serial s t : Nat} {g : DmaSeg} (hd : (c.chanOf cl n).descs.find? (fun d => d.serial = serial) = some d)
  (hg : d.segs[s]? = some g)
include hd hg

theorem Chip.dmaAttemptTimeout_stale (hstale : t ∈ g.stale) :
    c.dmaAttemptTimeout cl n serial s t = (c.fabEnd t).setSeg cl n d s { g with stale := g.stale.filter (· != t) } := by
  simp only [Chip.dmaAttemptTimeout, hd, hg, List.contains_iff_mem.mpr hstale, if_true]

theorem Chip.dmaAttemptTimeout_sent (hsent : t ∈ g.sent) (hstale : t ∉ g.stale) :
    c.dmaAttemptTimeout cl n serial s t = ((c.fabEnd t).setSeg cl n d s { g with
      sent := g.sent.filter (· != t), err := g.err.orElse (fun _ => some COMP_LINK_DOWN) }).dmaAttemptEnd cl n serial s := by
  simp only [Chip.dmaAttemptTimeout, hd, hg, List.contains_iff_mem, hstale, hsent, if_true, if_false]

end

/-! Ageing and buffer errors (R249, R260). -/

/-- A channel is promoted in each direction in which it competes, where it competes in one and has no promotion left in those. -/
theorem Chip.dmaAge_promoted (hcompete : c.competes cl n false = true ∨ c.competes cl n true = true)
    (hrd : c.competes cl n false = true → (c.chanOf cl n).aged = 0) (hwr : c.competes cl n true = true → (c.chanOf cl n).agedWr = 0) :
    c.dmaAge cl n = (c.raise (.dma cl) St.DMA_AGED).setChan cl n { c.chanOf cl n with
      aged := if c.competes cl n false then 16 else 0, agedWr := if c.competes cl n true then 16 else 0 } := by
  refine if_pos ?_
  simp only [Bool.and_eq_true, Bool.or_eq_true, Bool.not_eq_true', decide_eq_true_eq, ← Bool.not_eq_true, ← imp_iff_not_or]
  exact ⟨⟨hcompete, hrd⟩, hwr⟩

/-- An uncorrectable buffer error strikes the first segment with staged beats that still issues. -/
theorem Chip.dmaBufEcc_ue {r : List DmaDesc} {i : Nat} {g : DmaSeg} (hd : (c.chanOf cl n).descs = d :: r)
    (hg : findIdxFrom (fun (g : DmaSeg) => g.issuing && !g.pieces.isEmpty) 0 d.segs = some (i, g)) :
    c.dmaBufEcc cl n true = (c.raise (.dma cl) St.DMA_BUF_UE).setSeg cl n d i { g with err := some COMP_LINK_DOWN, pieces := [] } := by
  have hfirst : ((c.raise (.dma cl) St.DMA_BUF_UE).chanOf cl n).descs = d :: r := hd
  simp only [Chip.dmaBufEcc, hfirst, List.findSome?_cons, hg, Option.map_some, Bool.not_true, Bool.false_eq_true, if_false]

end

/-- Settles O32: each command is followed to the descriptor, and in it to the segment, that it finds. -/
theorem descriptorsStartAndTheirSegmentsEnd : Obligations.DescriptorsStartAndTheirSegmentsEnd := by
  unfold Obligations.DescriptorsStartAndTheirSegmentsEnd
  intro s cl n hr c h
  refine ⟨fun i d hnext hphase hturn hwait hsrc hdst => ?start, fun serial seg d g hd hg hopen => ⟨fun herr hwr hsent => ?done, fun code herr => ?failed⟩,
    fun serial seg tag d g hd hg => ⟨fun hstale => ?stale, fun hsent hstale => ?sent⟩, fun rd wr hrd hwr hcompete hage hageWr => ?age, ?corrected,
    fun d r i g hd hg => ?uncorrected⟩
  case start =>
    exact (exec_of_onCluster (f := (·.dmaStart cl n)) hr rfl).trans (congrArg s.goes (Chip.dmaStart_moves hnext hphase hturn hwait hsrc hdst))
  case done =>
    exact (exec_of_onCluster (f := (·.dmaAttemptEnd cl n serial seg)) hr rfl).trans (congrArg s.goes (Chip.dmaAttemptEnd_done hd hg hopen herr hwr hsent))
  case failed =>
    exact (exec_of_onCluster (f := (·.dmaAttemptEnd cl n serial seg)) hr rfl).trans (congrArg s.goes (Chip.dmaAttemptEnd_failed hd hg hopen herr))
  case stale =>
    exact (exec_of_onCluster (f := (·.dmaAttemptTimeout cl n serial seg tag.toNat)) hr rfl).trans (congrArg s.goes (Chip.dmaAttemptTimeout_stale hd hg hstale))
  case sent =>
    exact (exec_of_onCluster (f := (·.dmaAttemptTimeout cl n serial seg tag.toNat)) hr rfl).trans (congrArg s.goes (Chip.dmaAttemptTimeout_sent hd hg hsent hstale))
  case age =>
    subst hrd hwr
    exact (exec_of_onCluster (f := (·.dmaAge cl n)) hr rfl).trans (congrArg s.goes (Chip.dmaAge_promoted hcompete hage hageWr))
  case corrected => exact exec_of_onCluster (f := (·.dmaBufEcc cl n false)) hr rfl
  case uncorrected =>
    exact (exec_of_onCluster (f := (·.dmaBufEcc cl n true)) hr rfl).trans (congrArg s.goes (Chip.dmaBufEcc_ue hd hg))

end Sys2Proof.Machine
end

section
/-! SUPPORT and certificates. The end of a DMA descriptor: its completion word, its pointers and its signal (R250, R256, R267). -/

namespace Sys2Proof.Machine

/-! A descriptor whose segments have all ended well. -/

section
variable {d : DmaDesc}

theorem DmaDesc.over_of_moved (hphase : d.phase = .moving) (hsegs : ∀ g ∈ d.segs, g.ended = some COMP_OK ∧ g.sent = [] ∧ g.stale = []) :
    d.over = true := by
  have hall : d.segs.all (fun g => g.ended.isSome && g.sent.isEmpty && g.stale.isEmpty) = true := List.all_eq_true.mpr fun g hg => by
    obtain ⟨hended, hsent, hstale⟩ := hsegs g hg
    simp [hended, hsent, hstale]
  simp [DmaDesc.over, hphase, hall]

theorem DmaDesc.failed_eq_zero (hsegs : ∀ g ∈ d.segs, g.ended = some COMP_OK) : d.failed = 0 := by
  refine List.sum_eq_zero fun x hx => ?_
  obtain ⟨⟨g, i⟩, he, rfl⟩ := List.mem_map.mp hx
  simp [hsegs g (List.fst_mem_of_mem_zipIdx he)]

theorem DmaDesc.refused_of_moving (hphase : d.phase = .moving) : d.refused = false := by
  simp [DmaDesc.refused, hphase]

end

section
variable {c : Chip} {cl n : Nat}

/-- With no entry to commit and none to release, step 2 of R250 changes nothing. -/
theorem Chip.dmaEntries_none {d : DmaDesc} (hclaim : d.claim = none) (hsrc : Desc.srcRelease d.bs = false) (code : Nat) :
    c.dmaEntries cl d code = (c, code) := by
  simp [Chip.dmaEntries, hclaim, hsrc]

/-- A descriptor of a ring whose segments have ended well, with no entry to commit or release, completes with COMP_OK. -/
theorem Chip.dmaComplete_moved {d : DmaDesc} {rest : List DmaDesc} (hd : (c.chanOf cl n).descs = d :: rest) (hphase : d.phase = .moving)
    (hsegs : ∀ g ∈ d.segs, g.ended = some COMP_OK ∧ g.sent = [] ∧ g.stale = []) (hcode : d.code = none) (hclaim : d.claim = none)
    (hsrc : Desc.srcRelease d.bs = false) (hidx : d.idx < internalIdx) :
    let h := c.chanOf cl n
    let word := compWord COMP_OK d.segs.length d.retries 0
    let c1 := (c.agentWrite (dmaAgent cl d.part) (c.slotAddr cl n d.idx + 0x38) (ones 8) (leBytes 8 word)).1
    let c2 := (((c1.setF (.ch cl n) R.CH_CONS_DONE (ringNext (c.chanSize cl n) d.idx)).setF (.ch cl n) R.CH_LAST_COMP word).setChan cl n
      { h with descs := rest, aged := if rest.isEmpty then 0 else h.aged, agedWr := if rest.isEmpty then 0 else h.agedWr }).dmaFeed cl n
    c.dmaComplete cl n = if Desc.signal d.bs = 0xFFFF then c2
      else if Desc.remoteSignal c2.isSelf d.bs then
        c2.syncRemote (cl / 8) (Desc.sigDev d.bs % 4096) (Desc.signal d.bs) 1 d.part (.signal cl n d.idx)
      else (c2.syncInc (cl / 8) d.part (Desc.signal d.bs) 1).1 := by
  have hinternal : d.internal = false := decide_eq_false (Nat.not_le.mpr hidx)
  have hinvalid : (none == some COMP_DMA_DESC_INVALID) = false := rfl
  simp only [Chip.dmaComplete, hd, DmaDesc.over_of_moved hphase hsegs, DmaDesc.failed_eq_zero fun g hg => (hsegs g hg).left,
    DmaDesc.refused_of_moving hphase, Chip.dmaEntries_none hclaim hsrc, hcode, hinternal, hinvalid, Option.getD_none, Option.isSome_none, Bool.not_true,
    Bool.or_false, Bool.false_eq_true, if_false, if_true, decide_eq_true_eq]

/-- A channel's remote signal that has ended with a code other than COMP_OK. -/
def FabReq.signalFailed (cl n : Nat) (r : FabReq) : Bool := match r.who, r.resp with
  | .signal x y _, some (code, _) => x == cl && y == n && code != COMP_OK
  | _, _ => false

/-- A failed signal of a descriptor of a ring leaves the requests and is recorded. -/
theorem Chip.dmaSignalFail_ring {i k code : Nat} {r : FabReq} {bs : List Byte}
    (hr : findIdxFrom (FabReq.signalFailed cl n) 0 c.reqs = some (i, r)) (hwho : r.who = .signal cl n k) (hresp : r.resp = some (code, bs))
    (hk : k < internalIdx) :
    c.dmaSignalFail cl n = ((({ c with reqs := c.reqs.eraseIdx i }).raise (.dma cl) St.DMA_SIGNAL_FAIL).dmaErr cl n 0xA k
      code).syncRelease r.die r.msg.dst := by
  unfold Chip.dmaSignalFail
  extract_lets mine
  have hmine : mine = FabReq.signalFailed cl n := rfl
  simp only [hmine, hr, hwho, hresp, if_neg (Nat.not_le.mpr hk)]

end

/-! The completion word (R250). -/

theorem putField_eq (v lsb w : Nat) : putField v lsb w = v % 2 ^ w * 2 ^ lsb := Nat.shiftLeft_eq ..

theorem field_eq (v lsb w : Nat) : field v lsb w = v / 2 ^ lsb % 2 ^ w := by rw [field, Nat.shiftRight_eq_div_pow]

theorem satNat_eq_min (m v : Nat) : satNat m v = min m v := by
  simp only [satNat]
  split <;> omega

/-- The completion word as a sum of its parts, each below the place of the next. -/
theorem compWord_eq {code segs failed : Nat} (retries : Nat) (hcode : code < 2 ^ 16) (hsegs : segs ≤ 32) (hfailed : failed < 2 ^ 32) :
    compWord code segs retries failed = code + 2 ^ 16 + (segs - 1) * 2 ^ 17 + min 7 retries * 2 ^ 22 + failed * 2 ^ 32 := by
  have hs : (segs - 1) % 2 ^ 5 = segs - 1 := Nat.mod_eq_of_lt (by omega)
  have hr : min 7 retries % 2 ^ 3 = min 7 retries := Nat.mod_eq_of_lt (by omega)
  simp only [compWord, putField_eq, satNat_eq_min, Nat.mod_eq_of_lt hcode, hs, hr, Nat.mod_eq_of_lt hfailed]
  omega

/-- Settles O33: the oldest descriptor is followed through the steps of R250, a failed signal to its record, and the completion word to its fields. -/
theorem descriptorsCompleteInOrder : Obligations.DescriptorsCompleteInOrder := by
  unfold Obligations.DescriptorsCompleteInOrder
  refine ⟨fun s cl n d rest hready => ?complete, fun s cl n i k code r bs hready => ?signal, fun code segs retries failed hcode _ hsegs hfailed => ?word⟩
  case complete =>
    intro c h hd hphase _ hsegs hcode hclaim hsrc hidx word c1 c2
    exact (exec_of_onCluster (f := fun c => (c.dmaComplete cl n).ownResults cl) hready rfl).trans
      (congrArg (fun d => s.goes (Chip.ownResults d cl)) (Chip.dmaComplete_moved hd hphase hsegs hcode hclaim hsrc hidx))
  case signal =>
    intro c hr hwho hresp hk
    exact (exec_of_onCluster (f := fun c => (c.dmaSignalFail cl n).ownResults cl) hready rfl).trans
      (congrArg (fun d => s.goes (Chip.ownResults d cl)) (Chip.dmaSignalFail_ring hr hwho hresp hk))
  case word =>
    intro w
    have hw : w = code + 2 ^ 16 + (segs - 1) * 2 ^ 17 + min 7 retries * 2 ^ 22 + failed * 2 ^ 32 := compWord_eq retries hcode hsegs hfailed
    have hretries : min 7 retries ≤ 7 := min_le_left ..
    generalize min 7 retries = tries at hw hretries ⊢
    simp only [field_eq, bit, Nat.testBit_eq_decide_div_mod_eq, decide_eq_true_eq]
    omega

end Sys2Proof.Machine
end

section
/-! SUPPORT. Ring pointers (R240, R269): a pointer of a ring of `n` entries is one of 2n positions around it. -/

namespace Sys2Proof.Machine

theorem ringSize_bounds (log2 : Nat) : 2 ≤ ringSize log2 ∧ ringSize log2 ≤ 4096 := by
  have hlog : 1 ≤ (if log2 = 0 then 1 else satNat 12 log2) ∧ (if log2 = 0 then 1 else satNat 12 log2) ≤ 12 := by
    simp only [satNat]
    split_ifs <;> omega
  obtain ⟨hone, htwelve⟩ := hlog
  exact ⟨Nat.pow_le_pow_right (n := 2) (by decide) hone, Nat.pow_le_pow_right (n := 2) (by decide) htwelve⟩

/-- A 13-bit pointer whose slot index lies in a ring of `n` entries. -/
def InRing (n p : Nat) : Prop := p < 8192 ∧ ringIdx p < n

section
variable {n p q : Nat}

theorem InRing.ringPos_lt (hp : InRing n p) : ringPos n p < 2 * n := by
  obtain ⟨-, hidx⟩ := hp
  simp only [ringPos]
  split <;> omega

/-- Slot index and wrap bit are told from the position. -/
theorem InRing.ringPos_inj (hp : InRing n p) (hq : InRing n q) : ringPos n p = ringPos n q ↔ p = q := by
  obtain ⟨hp, hpi⟩ := hp
  obtain ⟨hq, hqi⟩ := hq
  simp only [ringPos, ringIdx] at *
  split_ifs <;> omega

/-- The pointer after `p` in its half of the positions, at the begin of the other half past the last slot. -/
theorem ringNext_cases (n p : Nat) :
    ringIdx p + 1 < n ∧ ringNext n p = p + 1 ∨ n ≤ ringIdx p + 1 ∧ (p < 4096 ∧ ringNext n p = 4096 ∨ 4096 ≤ p ∧ ringNext n p = 0) := by
  rw [ringNext]
  split_ifs <;> omega

/-- The next pointer lies in the ring, at the next position around it. -/
theorem InRing.next (hn : n ≤ 4096) (hp : InRing n p) :
    InRing n (ringNext n p) ∧ ringPos n (ringNext n p) = if ringPos n p + 1 = 2 * n then 0 else ringPos n p + 1 := by
  obtain ⟨hp, hpi⟩ := hp
  simp only [InRing, ringPos]
  rcases ringNext_cases n p with ⟨hidx, h⟩ | ⟨hidx, ⟨hlow, h⟩ | ⟨hhigh, h⟩⟩
  · rw [h]
    simp only [ringIdx] at *
    split_ifs <;> omega
  · rw [h]
    simp only [ringIdx, if_pos hlow] at *
    split_ifs <;> omega
  · rw [h]
    simp only [ringIdx, if_neg (Nat.not_lt.mpr hhigh)] at *
    split_ifs <;> omega

/-- The distance is the way on from one position to the other around the ring. -/
theorem InRing.ringDist_eq (hp : InRing n p) (hq : InRing n q) :
    ringDist n p q = if ringPos n p ≤ ringPos n q then ringPos n q - ringPos n p else ringPos n q + 2 * n - ringPos n p := by
  have hpn := hp.ringPos_lt
  have hqn := hq.ringPos_lt
  rw [ringDist]
  split
  · rw [show ringPos n q + 2 * n - ringPos n p = ringPos n q - ringPos n p + 2 * n by omega, Nat.add_mod_right, Nat.mod_eq_of_lt (by omega)]
  · exact Nat.mod_eq_of_lt (by omega)

theorem InRing.ringDist_self (hp : InRing n p) : ringDist n p p = 0 := by
  rw [hp.ringDist_eq hp, if_pos le_rfl, Nat.sub_self]

theorem InRing.ringDist_eq_zero_iff (hp : InRing n p) (hq : InRing n q) : ringDist n p q = 0 ↔ p = q := by
  have hpn := hp.ringPos_lt
  rw [← hp.ringPos_inj hq, hp.ringDist_eq hq]
  split <;> omega

/-- Between different pointers the ways on and back make up the whole round of 2n positions. -/
theorem InRing.ringDist_add_ringDist (hp : InRing n p) (hq : InRing n q) (hne : p ≠ q) : ringDist n p q + ringDist n q p = 2 * n := by
  have hpos : ringPos n p ≠ ringPos n q := fun h => hne ((hp.ringPos_inj hq).mp h)
  have hpn := hp.ringPos_lt
  have hqn := hq.ringPos_lt
  rw [hp.ringDist_eq hq, hq.ringDist_eq hp]
  split_ifs <;> omega

/-- One entry more is one step further, until the round is complete. -/
theorem InRing.ringDist_ringNext (hn : n ≤ 4096) (hp : InRing n p) (hq : InRing n q) (hroom : ringDist n p q + 1 < 2 * n) :
    ringDist n p (ringNext n q) = ringDist n p q + 1 := by
  obtain ⟨hin, hnext⟩ := hq.next hn
  have hpn := hp.ringPos_lt
  have hqn := hq.ringPos_lt
  rw [hp.ringDist_eq hq] at hroom ⊢
  rw [hp.ringDist_eq hin, hnext]
  split_ifs at hroom ⊢ <;> omega

theorem InRing.ringPostOk_iff (hq : InRing n q) : ringPostOk n p q = true ↔ ringDist n p q ≤ n := by
  obtain ⟨-, hidx⟩ := hq
  simp [ringPostOk, hidx]

end

end Sys2Proof.Machine
end

section
/-! SUPPORT and certificates. Work queues: producer and completion pointers, dequeue, and the end of an entry (R268-R275, R360). -/

namespace Sys2Proof.Machine

/-! The commands. -/

section
variable {s : State} (hup : s.up)
include hup

theorem exec_wqProdWrite (hboot : s.chip.getF (.boot 0) R.BOOT_STATE_CODE = BOOT_OK) (n : Fin 64) (v : BitVec 13) :
    exec (.wqProdWrite n v) s = s.goes (s.chip.wqProdWrite n v.toNat) := by
  have harm : exec (.wqProdWrite n v) s = execWqProdWrite n v s := rfl
  rw [harm, execWqProdWrite, State.onChip_up _ hup, if_pos hboot]

theorem exec_cqHeadWrite (hboot : s.chip.getF (.boot 0) R.BOOT_STATE_CODE = BOOT_OK) (n : Fin 64) (v : BitVec 13) :
    exec (.cqHeadWrite n v) s = s.goes (s.chip.cqHeadWrite n v.toNat) := by
  have harm : exec (.cqHeadWrite n v) s = execCqHeadWrite n v s := rfl
  rw [harm, execCqHeadWrite, State.onChip_up _ hup, if_pos hboot]

theorem exec_wqDequeue : exec .wqDequeue s = s.goes s.chip.wqDequeue := by
  have harm : exec .wqDequeue s = execWqDequeue s := rfl
  rw [harm, execWqDequeue, State.onChip_up _ hup]

theorem exec_wqEntryComplete (n : Fin 64) : exec (.wqEntryComplete n) s = s.goes (s.chip.entryComplete n).after := by
  have harm : exec (.wqEntryComplete n) s = execWqEntryComplete n s := rfl
  rw [harm, execWqEntryComplete, State.onMc_up _ hup]

end

/-! Pointers (R269, R274). -/

theorem Chip.wqProdWrite_pointer (c : Chip) (n : Nat) {v : Nat} (hv : v < 8192) :
    c.wqProdWrite n v = if ringPostOk (c.qSize n) (c.getF (.wq n) R.WQ_CONS_DONE) v then (c.setF (.wq n) R.WQ_PROD v).wqArm n
      else c.raise (.wqp (queuePart n)) St.WQP_CMD_INVALID := by
  rw [Chip.wqProdWrite, Nat.mod_eq_of_lt hv]

theorem Chip.cqHeadWrite_pointer (c : Chip) (n : Nat) {v : Nat} (hv : v < 8192) :
    c.cqHeadWrite n v = if ringIdx v < c.cqSize n then (c.setF (.wq n) R.WQ_CQ_PTR_CQ_HEAD v).wqNoteFull
      else c.raise (.wqp (queuePart n)) St.WQP_CMD_INVALID := by
  rw [Chip.cqHeadWrite, Nat.mod_eq_of_lt hv]

/-! Dequeue (R272, R273, R275, R360). -/

/-- The entry that a queue takes from its ring, with what the checks have found. -/
def dequeued (b : List Byte) (idx : Nat) (bad : Option (Code × Nat)) : QEntry := match bad with
  | none => { bs := b, ptr := idx }
  | some (code, detail) => { bs := b, ptr := idx, refused := true, code := some code, detail := detail }

/-- The engine with its turn at queue `n` and the pointer past the entry, which has been read and waits no longer. -/
def Chip.headTaken (c : Chip) (n : Nat) : Chip :=
  let c1 := c.noteReads mcAgent [(c.wqHeadAddr n, 64)]
  ({ c1 with wqLast := n }.dropWaits (.wq n)).setF (.wq n) R.WQ_CONS (ringNext (c1.qSize n) (c.getF (.wq n) R.WQ_CONS))

/-- Queue `n` is served: its entry becomes current as the checks leave it, and a DRAIN that passes acts at once. -/
def Chip.wqServe (c : Chip) (n : Nat) : Chip :=
  let idx := c.getF (.wq n) R.WQ_CONS
  let b := c.wqHead n
  let z := (c.headTaken n).wqCheck n idx b
  let f := z.1.setQueue n { z.1.queueOf n with cur := some (dequeued b idx z.2) }
  if z.2 = none ∧ Wqe.op b = 0x0A then f.drainBegin (queuePart n) else f

theorem Chip.wqDequeue_serves {s c : Chip} {n : Nat} (hc : (s.wqArmAll).wqNoteFull = c) (hnext : c.wqNext = some n) :
    s.wqDequeue = c.wqServe n := by
  unfold Chip.wqDequeue Chip.wqServe Chip.headTaken
  rw [hc]
  dsimp only
  rw [hnext]
  dsimp only
  generalize Chip.wqCheck _ n _ _ = z
  obtain ⟨e, _ | ⟨code, detail⟩⟩ := z
  · simp only [true_and]
    rfl
  · rfl

/-! The end of an entry (R272-R274). -/

section
variable {c : Chip} {n code : Nat} {e : QEntry} (he : (c.queueOf n).cur = some e) (hcode : e.code = some code)

include he in
theorem Chip.opCollect_noSubs (hsubs : e.subs = []) : c.opCollect n = c := by
  simp only [Chip.opCollect, he, hsubs, List.filter_nil, List.map_nil, forAll_nil]

include hcode in
/-- A code of 16 bits other than COMP_PARTIAL shows as it is, with the entry's DETAIL. -/
theorem Chip.wqOutcome_code (hlt : code < 65536) (hwhole : code ≠ COMP_PARTIAL) : c.wqOutcome n e = some (code, e.detail) := by
  simp only [Chip.wqOutcome, hcode, wordCode, Nat.mod_eq_of_lt hlt, if_neg hwhole]

include he hcode

/-- An entry that has ended is shown unless it is quiet and well, signals unless it was refused, and frees its queue. -/
theorem Chip.wqComplete_ended (hsubs : e.subs = []) (hlt : code < 65536) (hwhole : code ≠ COMP_PARTIAL) :
    let shown := c.cqWrite n code (Wqe.tag e.bs) (ringIdx e.ptr) e.detail
    let c1 := if e.refused = false ∧ Wqe.quiet e.bs = true ∧ code = COMP_OK then c else if Wqe.irq e.bs then shown.queueIrq n else shown
    let c2 := if e.refused = true ∨ Wqe.signal e.bs = 0xFFFF then c1 else (c1.syncInc 0 (queuePart n) (Wqe.signal e.bs) 1).1
    c.wqComplete n = ((c2.setQueue n { c2.queueOf n with cur := none }).setF (.wq n) R.WQ_CONS_DONE (ringNext (c2.qSize n) e.ptr)).wqArm n := by
  intro shown c1 c2
  have hquiet : (e.refused || !Wqe.quiet e.bs || code != COMP_OK) = true ↔ ¬(e.refused = false ∧ Wqe.quiet e.bs = true ∧ code = COMP_OK) := by
    simp [imp_iff_not_or, or_assoc]
  have hc1 : c1 = if e.refused || !Wqe.quiet e.bs || code != COMP_OK then (if Wqe.irq e.bs then shown.queueIrq n else shown) else c := by
    simp only [hquiet, ite_not, c1]
  have hc2 : c2 = if e.refused || decide (Wqe.signal e.bs = 0xFFFF) then c1 else (c1.syncInc 0 (queuePart n) (Wqe.signal e.bs) 1).1 := by
    simp only [Bool.or_eq_true, decide_eq_true_eq, c2]
  unfold Chip.wqComplete
  rw [Chip.opCollect_noSubs he hsubs]
  dsimp only
  rw [he]
  dsimp only
  rw [Chip.wqOutcome_code hcode hlt hwhole]
  rw [hc2, hc1]

/-- Only a whistle of the protected partition that ends well sends its stage on. -/
theorem Chip.entryComplete_noStage (hother : Wqe.op e.bs ≠ 0x09 ∨ code ≠ COMP_OK ∨ queuePart n ≠ c.protPart) :
    c.entryComplete n = c.wqComplete n := by
  have hwas : (Wqe.op e.bs == 0x09 && some code == some COMP_OK && queuePart n == c.protPart) = false := by
    rcases hother with h | h | h <;> simp [h]
  unfold Chip.entryComplete
  rw [he]
  dsimp only
  rw [hcode, hwas]

end

/-- Settles O35: a pointer is checked and stored, a dequeue followed to the entry that it makes current, an ended entry to its completion; ring
pointers are told apart by their positions around the ring. -/
theorem workQueuesAcceptAndDequeue : Obligations.WorkQueuesAcceptAndDequeue := by
  unfold Obligations.WorkQueuesAcceptAndDequeue
  refine ⟨fun s n v hup hboot => ⟨?post, ?head⟩, fun s n hup => ?dequeue, fun s n e code hup => ?complete, ringSize_bounds,
    fun log2 p q hp hq hpi hqi => ?ring⟩
  case post => rw [exec_wqProdWrite hup hboot, Chip.wqProdWrite_pointer _ _ v.isLt, queuePart]
  case head => rw [exec_cqHeadWrite hup hboot, Chip.cqHeadWrite_pointer _ _ v.isLt, queuePart]
  case dequeue =>
    generalize hc : (s.chip.wqArmAll).wqNoteFull = armed
    intro c hnext idx b c1 d e f
    rw [exec_wqDequeue hup, Chip.wqDequeue_serves hc hnext]
    rfl
  case complete =>
    intro c he hsubs hcode hlt hwhole hother shown c1 c2
    rw [exec_wqEntryComplete hup, Chip.entryComplete_noStage he hcode hother, Chip.wqComplete_ended he hcode hsubs hlt hwhole]
    rfl
  case ring =>
    intro n
    obtain ⟨htwo, hmax⟩ := ringSize_bounds log2
    have hp : InRing n p := ⟨hp, hpi⟩
    have hq : InRing n q := ⟨hq, hqi⟩
    obtain ⟨⟨hnext, hnextIdx⟩, -⟩ := hp.next hmax
    have hone : ringDist n p (ringNext n p) = ringDist n p p + 1 := hp.ringDist_ringNext hmax hp (by rw [hp.ringDist_self]; omega)
    rw [hp.ringDist_self] at hone
    exact ⟨hnext, hnextIdx, hone, hp.ringDist_self, hp.ringDist_eq_zero_iff hq, hp.ringDist_add_ringDist hq, hq.ringPostOk_iff,
      fun hroom => ⟨hq.ringPostOk_iff.mpr hroom.le, hp.ringDist_ringNext hmax hq (by omega)⟩⟩

end Sys2Proof.Machine
end

section
/-! SUPPORT and certificates. The entries of the work queues and the whistle (R271, R278, R288-R292, R359, R360). -/

namespace Sys2Proof.Machine

/-! The commands. -/

section
variable {s : State} {cmd : Instr} {f : Chip → Chip} (hup : s.up)
include hup

/-- A command of the module that acts does what its meaning does to the chip. -/
theorem exec_of_onChip (harm : exec cmd s = s.onChip f) : exec cmd s = s.goes (f s.chip) := harm.trans (State.onChip_up f hup)

theorem exec_of_onMc (harm : exec cmd s = s.onMc f) : exec cmd s = s.goes (f s.chip).after := harm.trans (State.onMc_up f hup)

end

/-! The queues while a counter is stored and a sequencer drains (R44, R278). -/

theorem Chip.syncStore_sameWalks (c : Chip) (i v : Nat) : c.SameWalks (c.syncStore i v) :=
  .trans (((c.setF_traces _ _ _).trans (Chip.addF_traces _ _ _ _)).sameWalks) ((Chip.wakeMsgs_sameWalks _ i).trans ⟨rfl, rfl⟩)

/-- SYNC_SET as it stores BASE, VALUE or both: one update in any case but that of neither. -/
def Chip.syncSetBy (c : Chip) (i : Nat) (b : List Byte) : Chip :=
  let d := if Wqe.setBase b then c.setF (.sync i) R.SYNC_CFG_BASE (Wqe.base b) else c
  if Wqe.setValue b then d.syncStore i (Wqe.value b) else d.syncCount i (b2n (Wqe.setBase b))

theorem Chip.syncSetBy_sameWalks (c : Chip) (i : Nat) (b : List Byte) : c.SameWalks (c.syncSetBy i b) := by
  unfold Chip.syncSetBy
  extract_lets d
  have hbase : c.SameWalks d := by
    simp only [d]
    split
    · exact (c.setF_traces _ _ _).sameWalks
    · exact .refl c
  split
  · exact hbase.trans (d.syncStore_sameWalks _ _)
  · exact hbase.trans (d.addF_traces _ _ _).sameWalks

theorem Chip.shelfNote_traces (c : Chip) (r : ShelfRef) (code : Code) : c.Traces (c.shelfNote r code) := by
  unfold Chip.shelfNote
  split
  · cases r <;> exact c.raise_traces _ _
  · exact .refl c

theorem Chip.shelfRelease_sameWalks (c : Chip) (r : ShelfRef) (q : Nat) : c.SameWalks (c.shelfRelease r q).1 :=
  (c.setShelf_sameWalks _ _).trans (Chip.shelfNote_traces _ _ _).sameWalks

theorem Chip.stagedGiven_sameWalks (c : Chip) (r : ShelfRef) (l : List Piece) :
    c.SameWalks (forAll l c (fun d x => (d.shelfRelease r x.entry).1)) :=
  forAll_sameWalks _ _ _ fun d _ => d.shelfRelease_sameWalks _ _

@[simp] theorem Chip.rseqEnd_queues (c : Chip) (cl state code : Nat) : (c.rseqEnd cl state code).queues = c.queues := by
  unfold Chip.rseqEnd
  dsimp only
  rw [((Chip.clearGrants_traces _ _).trans (Chip.setPoolRegs_traces _ _)).sameWalks.queues, Chip.setRs, Chip.setF_queues, Chip.setF_queues,
    Chip.setRseq_queues, (Chip.stagedGiven_sameWalks _ _ _).queues, (Chip.stagedGiven_sameWalks _ _ _).queues, Chip.dropWaits_queues]

@[simp] theorem Chip.rseqDrain_queues (c : Chip) (cl : Nat) : (c.rseqDrain cl).queues = c.queues := by
  unfold Chip.rseqDrain
  split
  · rfl
  dsimp only
  split
  · rw [Chip.rseqEnd_queues, Chip.setRs, Chip.setF_queues]
  · rw [Chip.setRs, Chip.setF_queues]

@[simp] theorem Chip.drainBegin_queues (c : Chip) (p : Nat) : (c.drainBegin p).queues = c.queues :=
  forAll_keeps Chip.queues _ _ _ fun d cl => d.rseqDrain_queues cl

/-! Entries that begin (R271). -/

/-- A command of a queue whose entry has its opcode and has not begun leaves it begun, where the action leaves the queues alone. -/
theorem exec_of_wqStart {s : State} {n op : Nat} {e : QEntry} {cmd : Instr} {f : Chip → QEntry → Chip × Option Code} (hup : s.up)
    (he : (s.chip.queueOf n).cur = some e) (hs : e.started = false) (hc : e.code = none)
    (harm : exec cmd s = s.onChip (fun c => c.wqStart n op f)) (ho : Wqe.op e.bs = op) (hq : (f s.chip e).1.queues = s.chip.queues) :
    exec cmd s = s.goes ((f s.chip e).1.setQueue n
      { s.chip.queueOf n with cur := some { e with started := true, code := (f s.chip e).2 } }) := by
  rw [exec_of_onChip hup harm, Chip.wqStart_ends f he ho hs hc hq]

/-! OP_RUN (R271). -/

/-- The descriptor that an OP_RUN entry names for a cluster. -/
def Chip.opRunDesc (c : Chip) (p : Nat) (b : List Byte) (cl : Nat) : Nat := (Wqe.desc b + Wqe.stride b * c.posIn p cl) % 2 ^ 64

/-- Begin the operator of an OP_RUN entry where it has not begun; `c` says where the clusters stand in the partition. -/
def Chip.opRunOn (c d : Chip) (n : Nat) (b : List Byte) (cyc : Nat) (l : List Nat) : Chip :=
  d.opBeginOn n l (c.opRunDesc (queuePart n) b) (fun _ => (Wqe.m b, Wqe.n b, Wqe.k b)) cyc none

/-- The clusters of an operator begin one by one. -/
theorem Chip.opRunOn_eq_forAll (c d : Chip) (n : Nat) (b : List Byte) (cyc : Nat) (l : List Nat) :
    c.opRunOn d n b cyc l = forAll l d (fun d cl => c.opRunOn d n b cyc [cl]) := rfl

section
variable {c : Chip} {n : Nat} {e : QEntry} (he : (c.queueOf n).cur = some e)
include he

theorem Chip.wqOpRun_named (ho : Wqe.op e.bs = 0x04) (hc : e.code = none) (hl : c.namedClusters (queuePart n) (Wqe.clusters e.bs) ≠ []) (cyc : Nat) :
    c.wqOpRun n cyc = c.opRunOn c n e.bs cyc (c.namedClusters (queuePart n) (Wqe.clusters e.bs)) := by
  unfold Chip.wqOpRun
  rw [he]
  dsimp only
  rw [if_neg (by simp [ho, hc])]
  simp only [List.isEmpty_eq_false_iff.mpr hl, Bool.false_eq_true, if_false]
  split <;> rfl

theorem Chip.wqOpRun_unnamed (ho : Wqe.op e.bs = 0x04) (hc : e.code = none) (hl : c.namedClusters (queuePart n) (Wqe.clusters e.bs) = []) (cyc : Nat) :
    c.wqOpRun n cyc = c.setQueue n { c.queueOf n with cur := some { e with started := true, code := some COMP_OK } } := by
  unfold Chip.wqOpRun
  rw [he]
  dsimp only
  rw [if_neg (by simp [ho, hc]), hl]
  simp only [Chip.opBeginOn, forAll_nil, he, List.isEmpty_nil, if_true]

/-- An operator that begins on a cluster of an entry that has begun on none is held by the entry. -/
theorem Chip.opRunOn_begins {d : Chip} {cl cyc : Nat} {code : Option Nat} (hsubs : e.subs = [])
    (hbegin : c.opBegin cl n (c.opRunDesc (queuePart n) e.bs cl) (Wqe.m e.bs) (Wqe.n e.bs) (Wqe.k e.bs) cyc none = (d, some code))
    (hq : d.queueOf n = c.queueOf n) :
    c.opRunOn c n e.bs cyc [cl] = d.setQueue n { c.queueOf n with cur := some { e with started := true, subs := [(cl, code)] } } := by
  simp only [Chip.opRunOn, Chip.opBeginOn, forAll_cons, forAll_nil, he, hsubs, KMap.find?_nil, Option.isSome_none, Bool.false_eq_true, if_false, hbegin,
    hq, KMap.insert]

end

/-! DRAIN (R360). -/

theorem mem_queuesOf {n p : Nat} : n ∈ queuesOf p ↔ queuePart n = p := by
  simp only [queuesOf, upto, List.mem_map, List.mem_range, queuePart]
  exact ⟨by rintro ⟨q, hq, rfl⟩; omega, fun h => ⟨n % 4, by omega, by omega⟩⟩

/-- Where queue `n` is as it was in `c`, its entry ends with the code. -/
theorem Chip.wqEnd_cur {c d : Chip} {n : Nat} {e : QEntry} (he : (c.queueOf n).cur = some e) (hq : d.queueOf n = c.queueOf n) (code : Code) :
    d.wqEnd n code = d.setQueue n { c.queueOf n with cur := some { e with code := some code } } := by
  simp only [Chip.wqEnd, hq, he]

/-- In a list where `f` picks one element and no other, that one is found. -/
theorem find?_of_only {α : Type} {l : List α} {f : α → Bool} {a : α} (ha : a ∈ l) (hf : f a = true) (honly : ∀ b ∈ l, b ≠ a → f b = false) :
    l.find? f = some a := by
  cases h : l.find? f with
  | none => exact absurd hf (List.find?_eq_none.mp h a ha)
  | some b =>
    by_contra hne
    have hb := honly b (List.mem_of_find?_eq_some h) (fun hab => hne (congrArg some hab))
    rw [List.find?_some h] at hb
    contradiction

section
variable {c : Chip} {n : Nat} {e : QEntry} (he : (c.queueOf n).cur = some e)
  (halone : ∀ m ∈ queuesOf (queuePart n), m ≠ n → (c.queueOf m).cur = none)

include halone in
/-- The partition's only current entry has no other beside it. -/
theorem Chip.otherCurrent_alone (f : Nat → Bool) : c.otherCurrent n f = false := by
  rw [Chip.otherCurrent, List.any_eq_false]
  intro m hm
  by_cases h : m = n
  · simp [h]
  · simp [halone m hm h]

include he halone in
/-- A draining partition whose DRAIN is its only entry, and whose clusters are at rest, becomes QUIESCED. -/
theorem Chip.quiesceDone_atRest (ho : Wqe.op e.bs = 0x0A) (hs : e.started = true) (hc : e.code = none)
    (hstate : c.partState (queuePart n) = PS_DRAINING)
    (hrest : ∀ cl ∈ c.clustersOf (queuePart n), c.walking cl = false ∧ c.dmaQuiet (queuePart n) cl = true) :
    c.quiesceDone (queuePart n) =
      (c.setPartState (queuePart n) PS_QUIESCED).setQueue n { c.queueOf n with cur := some { e with code := some COMP_OK } } := by
  have hrests : (c.clustersOf (queuePart n)).all (fun cl => !c.walking cl && c.dmaQuiet (queuePart n) cl) = true :=
    List.all_eq_true.mpr fun cl hcl => by simp [hrest cl hcl]
  unfold Chip.quiesceDone
  rw [find?_of_only (a := n) (mem_queuesOf.mpr rfl) (by simp [he, ho, hs, hc]) (fun m hm hne => by simp [halone m hm hne])]
  simp only [hstate, c.otherCurrent_alone halone, hrests, beq_self_eq_true, Bool.not_false, Bool.and_self, if_true]
  exact Chip.wqEnd_cur he (Chip.queueOf_setF _ _ _ _ n) COMP_OK

end

/-! The end of a whistle (R288-R290). -/

/-- A time of 32 bits is logged as it is. -/
theorem satNat_toNat (v : BitVec 32) : satNat 0xFFFFFFFF v.toNat = v.toNat := by
  rw [satNat_eq_min]
  omega

/-- A partition whose drain has ended: emptied, its phases reported, its clusters and counters accounted (R288 phases 3 and 4). -/
def Chip.whistleAccounted (c : Chip) (p step outside : Nat) : Chip :=
  let d := (forAll (c.clustersOf p) c (fun d cl => d.whistleEmpty p cl)).phaseReport p step outside
  ((forAll (c.clustersOf p) d (fun d cl => d.whistleAccount p cl)).newKey p).countersToBase p

/-- WQ_STEP is one higher; in the protected partition the written pairs have flipped and the stage is recorded (R288 phase 6, R391, R397). -/
def Chip.whistleStepped (c : Chip) (p : Nat) : Chip :=
  let w := c.getF (.wqp p) R.WQP_STEP + 1
  let prot := p == c.protPart
  let c1 := if prot then c.flipPairs p (w % 2 ^ 32) else c
  let c2 := if prot then { c1 with recov := { c1.recov with synced := false } }.sealSync else c1
  let c3 := c2.setF (.wqp p) R.WQP_STEP w
  if prot then { c3 with stages := c3.stageOf p (w % 2 ^ 32) :: c3.stages.take 1 }.noteCofed.relevel else c3

/-- A whistle that no unit holds is accounted, takes its step, is logged, and its entry ends. -/
theorem Chip.whistleDone_free {c : Chip} {p n : Nat} (hw : c.whistleQueue p = some n) (hfree : c.firstBlocker p = none) (step outside : Nat)
    (length : BitVec 32) (cycles : Nat) :
    c.whistleDone p step outside length.toNat cycles = (((((c.whistleAccounted p step outside).whistleStepped p).setFs (.wqp p)
      [(R.WQP_WHISTLE_LOG_DURATION, length.toNat), (R.WQP_WHISTLE_LOG_BLOCKER, 0), (R.WQP_WHISTLE_LOG_CLUSTER, 0)]).addF (.wqp p)
        R.WQP_WHISTLES_CYC cycles).wqEnd n COMP_OK) := by
  unfold Chip.whistleDone
  rw [hw]
  dsimp only
  rw [hfree, satNat_toNat]
  rfl

/-- A whistle's log where unit `unit` of the cluster at position `pos` holds it. -/
def Chip.stuckLogged (c : Chip) (p length cycles unit pos : Nat) : Chip :=
  ((c.raise (.wqp p) St.WQP_WHISTLE_STUCK).setFs (.wqp p) [(R.WQP_WHISTLE_LOG_DURATION, length), (R.WQP_WHISTLE_LOG_BLOCKER, unit),
    (R.WQP_WHISTLE_LOG_CLUSTER, pos)]).addF (.wqp p) R.WQP_WHISTLES_CYC cycles

theorem Chip.stuckLogged_traces (c : Chip) (p length cycles unit pos : Nat) : c.Traces (c.stuckLogged p length cycles unit pos) :=
  ((c.raise_traces _ _).trans (Chip.setFs_traces _ _ _)).trans (Chip.addF_traces _ _ _ _)

@[simp] theorem Chip.partRun_addF (c : Chip) (b : Blk) (f : Field) (k p : Nat) : (c.addF b f k).partRun p = c.partRun p := rfl

/-- A whistle that a unit holds is logged, holds the partition, and its entry ends. -/
theorem Chip.whistleStuck_blocked {c : Chip} {p n unit pos : Nat} {e : QEntry} (hw : c.whistleQueue p = some n) (he : (c.queueOf n).cur = some e)
    (hb : c.firstBlocker p = some (unit, pos)) (length cycles : BitVec 32) :
    let d := c.stuckLogged p length.toNat cycles.toNat unit pos
    c.whistleStuck p length.toNat cycles.toNat =
      (d.setPartRun p { d.partRun p with stuck := true }).setQueue n { c.queueOf n with cur := some { e with code := some COMP_WHISTLE_STUCK } } := by
  intro d
  have hq : (d.setPartRun p { d.partRun p with stuck := true }).queueOf n = c.queueOf n := by
    rw [Chip.queueOf_setPartRun, (c.stuckLogged_traces _ _ _ _ _).sameWalks.queueOf]
  have hd : c.whistleStuck p length.toNat cycles.toNat = (d.setPartRun p { d.partRun p with stuck := true }).wqEnd n COMP_WHISTLE_STUCK := by
    unfold Chip.whistleStuck
    rw [hw, hb]
    dsimp only
    simp only [satNat_toNat, d, Chip.stuckLogged, Chip.partRun_addF]
  rw [hd, Chip.wqEnd_cur he hq]

/-- Settles O36: an entry that begins leaves its queue begun past what its action moves; a drain and a whistle that nothing holds run to their ends, and
one that a unit holds is logged. -/
theorem queueEntriesRun : Obligations.QueueEntriesRun := by
  unfold Obligations.QueueEntriesRun
  refine ⟨fun s n e hup he => ?entry, fun s p n e hup hw he => ⟨fun step outside length cycles hfree => ?done, fun length cycles unit pos hb => ?stuck⟩⟩
  case entry =>
    intro c q p run
    refine ⟨fun hs hc => ?begins, fun ho hs hc halone hstate hrest part hpart => ?quiesce⟩
    case begins =>
      intro i based
      refine ⟨fun ho => ?nop, fun ho => ?syncSet, fun ho => ?whistle, fun ho => ?drain, fun ho => ?resume,
        fun ho cyc => ⟨fun hl => ?opRunNone, fun l hl hne => ?opRunEach, fun cl d code hl hsubs hbegin hq => ?opRunOne⟩⟩
      case nop => exact exec_of_wqStart (f := fun c _ => (c, some COMP_OK)) hup he hs hc rfl ho rfl
      case syncSet =>
        exact exec_of_wqStart (f := fun c e => (c.syncSetBy (c.syncIndex p (Wqe.counter e.bs)) e.bs, some COMP_OK)) hup he hs hc rfl ho
          (c.syncSetBy_sameWalks i e.bs).queues
      case whistle => exact exec_of_wqStart (f := fun c _ => (c, none)) hup he hs hc rfl ho rfl
      case drain => exact exec_of_wqStart (f := fun c _ => (c.drainBegin p, none)) hup he hs hc rfl ho (c.drainBegin_queues p)
      case resume => exact exec_of_wqStart (f := fun c _ => (c.setPartState p PS_ACTIVE, some COMP_OK)) hup he hs hc rfl ho rfl
      case opRunNone => rw [exec_of_onChip (f := (·.wqOpRun n cyc.toNat)) hup rfl, Chip.wqOpRun_unnamed he ho hc hl]
      case opRunEach =>
        intro desc run1
        rw [exec_of_onChip (f := (·.wqOpRun n cyc.toNat)) hup rfl, Chip.wqOpRun_named he ho hc (by rwa [hl]), hl, Chip.opRunOn_eq_forAll]
        rfl
      case opRunOne =>
        rw [exec_of_onChip (f := (·.wqOpRun n cyc.toNat)) hup rfl, Chip.wqOpRun_named he ho hc (hl ▸ List.cons_ne_nil _ _), hl,
          Chip.opRunOn_begins he hsubs hbegin hq]
    case quiesce =>
      rw [exec_of_onChip (f := (·.quiesceDone part)) hup rfl, hpart]
      exact congrArg s.goes (Chip.quiesceDone_atRest he halone ho hs hc hstate hrest)
  case done =>
    intro c1 c2 w prot c3 c4 c5 c6
    rw [exec_of_onMc (f := (·.whistleDone p step.toNat outside.toNat length.toNat cycles.toNat)) hup rfl, Chip.whistleDone_free hw hfree]
    rfl
  case stuck =>
    rw [exec_of_onMc (f := (·.whistleStuck p length.toNat cycles.toNat)) hup rfl, Chip.whistleStuck_blocked hw he hb]
    rfl

end Sys2Proof.Machine
end

section
/-! SUPPORT and certificates. Flits: which class sends next, and what a port does with each flit that it receives (R285, R323-R334). -/

namespace Sys2Proof.Machine

/-! The class that sends (R285, R332). -/

theorem shareAt_mem_shareOrder (pos : Nat) : shareAt pos ∈ shareOrder := by
  have hall : ∀ r < 8, [1, 2, 0, 2, 1, 2, 0, 4].getD r 1 ∈ shareOrder := by decide
  exact hall _ (Nat.mod_lt _ (by decide))

section
variable (a : Arb) {ready : Nat → Bool}

theorem Arb.pick_mgmt (h : ready 5 = true) (hm : a.mgmt = 0) : a.pick ready = some 5 := by simp [Arb.pick, h, hm]

theorem Arb.pick_sync (hm : ¬(ready 5 = true ∧ a.mgmt = 0)) (h : ready 3 = true) (hs : a.sync = 0) : a.pick ready = some 3 := by
  rw [Arb.pick, if_neg (by simpa [and_comm] using hm), if_pos (by simp [h, hs])]

/-- Where neither management nor sync sends, the classes share the flit times. -/
theorem Arb.pick_shares (hm : ¬(ready 5 = true ∧ a.mgmt = 0)) (hs : ¬(ready 3 = true ∧ a.sync = 0)) :
    a.pick ready = if ready (shareAt a.pos) then some (shareAt a.pos) else shareOrder.find? ready := by
  rw [Arb.pick, if_neg (by simpa [and_comm] using hm), if_neg (by simpa [and_comm] using hs)]

theorem Arb.pick_eq_none_iff (hm : ¬(ready 5 = true ∧ a.mgmt = 0)) (hs : ¬(ready 3 = true ∧ a.sync = 0)) :
    a.pick ready = none ↔ ∀ k ∈ shareOrder, ready k = false := by
  rw [a.pick_shares hm hs]
  split
  case isTrue h =>
    refine iff_of_false (Option.some_ne_none _) fun hnone => ?_
    rw [hnone _ (shareAt_mem_shareOrder a.pos)] at h
    contradiction
  case isFalse => simp only [List.find?_eq_none, Bool.not_eq_true]

end

/-- In any 16 places of the frame each class has its share. -/
theorem shares_of_frame (pos : Nat) {k n : Nat} (h : (k, n) ∈ [(0, 4), (1, 4), (2, 6), (4, 2)]) :
    ((upto 16).filter (fun i => shareAt ((pos + i) % 16) == k)).length = n := by
  have hframe : ∀ r < 16, ∀ e ∈ [(0, 4), (1, 4), (2, 6), (4, 2)], ((upto 16).filter (fun i => shareAt ((r + i) % 16) == e.1)).length = e.2 := by
    decide
  simpa only [Nat.mod_add_mod] using hframe (pos % 16) (Nat.mod_lt _ (by decide)) _ h

/-! What the decoder notes (R326, R352). -/

/-- The decoder's counts and readings stand beyond the registers of the port's control and state. -/
theorem Chip.getF_fecNote_port (c : Chip) (p : Nat) (fec : Fec) {f : Field} (hoff : f.off < 0x40) (hlsb : f.lsb < 64) :
    (c.fecNote p fec).getF (.port p) f = c.getF (.port p) f := by
  have hplace {g : Field} (hg : 0x40 ≤ g.off) : fkey (.port p) f ≠ fkey (.port p) g := fkey_ne_of_place _ (by omega)
  refine (forAll_keeps (fun d : Chip => d.getF (.port p) f) _ _ _ fun d l => Chip.getF_setF_of_ne _ _ (hplace (by simp [laneErrField]))).trans ?_
  rw [Chip.getF_addF_of_ne _ _ (hplace (by decide)), Chip.getF_addF_of_ne _ _ (hplace (by decide))]

@[simp] theorem Chip.portUp_fecNote (c : Chip) (p : Nat) (fec : Fec) : (c.fecNote p fec).portUp p = c.portUp p := by
  unfold Chip.portUp
  rw [c.getF_fecNote_port p fec (by decide) (by decide)]

/-! A flit that arrives (R325-R327, R332, R334). -/

section
variable {c : Chip} {p typ : Nat} {b : List Byte} {fec : Fec}

/-- A whole flit gives its acknowledgement and credits, has its effect, and what waits is then sent. -/
theorem Chip.rxFlit_good (hgood : c.flitGood p typ b fec) (htyp : typ ≤ 5) (f : Chip → Nat → Nat → List Byte → Chip) :
    c.rxFlit p typ b fec f =
      (f (c.flitTaken p b fec) (recNat b 0 8) (field (recNat b 248 8) 0 4) ((b.drop 8).take 240)).pumpPort p := by
  obtain ⟨hup, hlen, hok, hcrc, ht⟩ := hgood
  simp only [Chip.rxFlit, hup, hlen, hok, hcrc, ht, Chip.portUp_fecNote, if_true, Nat.not_lt.mpr htyp, Bool.not_true, Bool.false_eq_true, ne_eq,
    not_true_eq_false, or_self, if_false]
  rfl

theorem Chip.rxFlit_uncorrected (hup : c.portUp p = true) (hlen : b.length = 256) (hok : fec.ok = false) (f : Chip → Nat → Nat → List Byte → Chip) :
    c.rxFlit p typ b fec f = (c.fecNote p fec).flitLost p := by
  simp only [Chip.rxFlit, hup, hlen, hok, Chip.portUp_fecNote, if_true, Bool.not_true, Bool.not_false, Bool.false_eq_true, ne_eq,
    not_true_eq_false, or_self, if_false]

theorem Chip.rxFlit_crcFails (hup : c.portUp p = true) (hlen : b.length = 256) (hok : fec.ok = true) (hcrc : crc32 (b.take 252) ≠ recNat b 252 4)
    (f : Chip → Nat → Nat → List Byte → Chip) :
    c.rxFlit p typ b fec f = ((c.fecNote p fec).addF (.port p) R.PORT_CRC_ERR 1).flitLost p := by
  simp only [Chip.rxFlit, hup, hlen, hok, hcrc, Chip.portUp_fecNote, if_true, Bool.not_true, Bool.false_eq_true, ne_eq,
    not_true_eq_false, not_false_eq_true, or_self, if_false]

/-- What has come since `c` is acknowledged by the flits sent in answer, or else by an IDLE flit (R332). -/
def Chip.answered (c : Chip) (p : Nat) (r : Chip) : Chip :=
  if (r.portOf p).rxSeq = (c.portOf p).rxSeq ∨ c.out.length < r.out.length then r else r.emitIdle p

theorem Chip.seqFlit_eq_answered (c : Chip) (p typ : Nat) (b : List Byte) (fec : Fec) :
    c.seqFlit p typ b fec = c.answered p (c.rxFlit p typ b fec fun c h fill payload =>
      if field h 0 12 = (c.portOf p).rxSeq then c.acceptFlit p typ (field h 44 3) fill payload else c.flitLost p) := by
  unfold Chip.seqFlit Chip.answered
  simp only [Bool.or_eq_true, decide_eq_true_eq]

theorem Chip.seqFlit_next (hgood : c.flitGood p typ b fec) (htyp : typ ≤ 5)
    (hseq : field (recNat b 0 8) 0 12 = ((c.flitTaken p b fec).portOf p).rxSeq) :
    c.seqFlit p typ b fec = c.answered p (((c.flitTaken p b fec).acceptFlit p typ (field (recNat b 0 8) 44 3) (field (recNat b 248 8) 0 4)
      ((b.drop 8).take 240)).pumpPort p) := by
  rw [Chip.seqFlit_eq_answered, Chip.rxFlit_good hgood htyp, if_pos hseq]

theorem Chip.seqFlit_outOfSequence (hgood : c.flitGood p typ b fec) (htyp : typ ≤ 5)
    (hseq : field (recNat b 0 8) 0 12 ≠ ((c.flitTaken p b fec).portOf p).rxSeq) :
    c.seqFlit p typ b fec = c.answered p (((c.flitTaken p b fec).flitLost p).pumpPort p) := by
  rw [Chip.seqFlit_eq_answered, Chip.rxFlit_good hgood htyp, if_neg hseq]

/-! PARAM (R323, R324). -/

/-- Does R324 allow device `dev` with its port `port` as the peer of port `p`: another device, and the expected one where one is expected? -/
def Chip.peerAllowed (c : Chip) (p dev port : Nat) : Prop :=
  dev ≠ c.getF (.jlk (portDie p)) R.JLK_CTRL_DEVICE_ID ∧
    (c.on (.port p) R.PORT_CTRL_EXPECT_VALID = true → dev = c.getF (.port p) R.PORT_CTRL_EXPECT_PEER ∧ port = c.getF (.port p) R.PORT_CTRL_EXPECT_PORT)

/-- PARAM's own test says that the peer is in conflict or is not the one expected. -/
theorem Chip.peerAllowed_iff (c : Chip) (p dev port : Nat) : c.peerAllowed p dev port ↔
    (dev == c.getF (.jlk (portDie p)) R.JLK_CTRL_DEVICE_ID || c.on (.port p) R.PORT_CTRL_EXPECT_VALID &&
      (dev != c.getF (.port p) R.PORT_CTRL_EXPECT_PEER || port != c.getF (.port p) R.PORT_CTRL_EXPECT_PORT)) = false := by
  simp only [Chip.peerAllowed, Bool.or_eq_false_iff, beq_eq_false_iff_ne, Bool.and_eq_false_imp, bne_eq_false_iff_eq]

/-- In training, a peer that R324 allows is recorded with its lanes, and this side's parameters answer it. -/
theorem Chip.paramFlit_allowed (hstate : c.getF (.port p) R.PORT_STATE = 1) (hlen : b.length = 256) (hok : fec.ok = true)
    (hcrc : crc32 (b.take 252) = recNat b 252 4) (ht : field (recNat b 0 8) 12 4 = 5) (good : Nat) :
    let payload := (b.drop 8).take 240
    let e := c.fecNote p fec
    let dev := Config.paramField 0 payload % 4096
    let port := Config.paramField 1 payload % 32
    e.peerAllowed p dev port →
    c.paramFlit p b fec good = ((e.setFs (.port p) [(R.PORT_STATE_STEP, 5), (R.PORT_STATE_PEER_ID, dev), (R.PORT_STATE_PEER_PORT, port)]).setPort p
      { e.portOf p with peerMask := some (Config.paramField 3 payload % 256) }).sendParam p good := by
  intro payload e dev port hpeer
  have hstill : e.getF (.port p) R.PORT_STATE = 1 := (c.getF_fecNote_port p fec (by decide) (by decide)).trans hstate
  unfold Chip.paramFlit
  simp only [hstate, hlen, hok, hcrc, ht, if_true, ne_eq, not_true_eq_false, Bool.not_true, Bool.false_eq_true, if_false]
  rw [if_neg (by simp [e, hstill])]
  exact if_neg (Bool.eq_false_iff.mp ((e.peerAllowed_iff p dev port).mp hpeer))

end

/-- Settles O46: the arbiter's choice is read off in order, and a flit is followed past the checks that it passes, or to the one that it fails. -/
theorem flitsAreTakenInSequence : Obligations.FlitsAreTakenInSequence := by
  unfold Obligations.FlitsAreTakenInSequence
  refine ⟨fun a ready => ?arbiter, fun s p b fec hup => ?flits⟩
  case arbiter =>
    exact ⟨a.pick_mgmt, a.pick_sync, fun hm hs => ⟨fun hshare => by rw [a.pick_shares hm hs, if_pos hshare], a.pick_eq_none_iff hm hs⟩,
      fun k n h => shares_of_frame a.pos h⟩
  case flits =>
    intro c d seen h fill payload
    refine ⟨fun hgood => ?idle, fun hgood hseq => ?msg, fun hgood hseq => ?data, fun hgood hseq => ?outOfSequence, fun hgood => ?nak,
      fun hgood => ?laneDrop, fun hport hlen hok => ?uncorrected, fun hport hlen hok hcrc => ?crcFails,
      fun good hstate hlen hok hcrc ht => ?param⟩
    case idle => rw [exec_of_onMc (f := (·.idleFlit p b fec)) hup rfl, Chip.idleFlit, Chip.rxFlit_good hgood (by decide)]
    case msg =>
      rw [exec_of_onMc (f := fun c => (c.seqFlit p 1 b fec).dropReserved p) hup rfl, Chip.seqFlit_next hgood (by decide) hseq]
      rfl
    case data =>
      rw [exec_of_onMc (f := fun c => (c.seqFlit p 2 b fec).dropReserved p) hup rfl, Chip.seqFlit_next hgood (by decide) hseq]
      rfl
    case outOfSequence =>
      rw [exec_of_onMc (f := fun c => (c.seqFlit p 1 b fec).dropReserved p) hup rfl, Chip.seqFlit_outOfSequence hgood (by decide) hseq]
      rfl
    case nak => rw [exec_of_onMc (f := (·.nakFlit p b fec)) hup rfl, Chip.nakFlit, Chip.rxFlit_good hgood (by decide)]
    case laneDrop => rw [exec_of_onMc (f := (·.laneDropFlit p b fec)) hup rfl, Chip.laneDropFlit, Chip.rxFlit_good hgood (by decide)]
    case uncorrected => rw [exec_of_onMc (f := (·.idleFlit p b fec)) hup rfl, Chip.idleFlit, Chip.rxFlit_uncorrected hport hlen hok]
    case crcFails => rw [exec_of_onMc (f := (·.idleFlit p b fec)) hup rfl, Chip.idleFlit, Chip.rxFlit_crcFails hport hlen hok hcrc]
    case param =>
      intro e dev port own hother hexpect
      rw [exec_of_onMc (f := (·.paramFlit p b fec good.toNat)) hup rfl, Chip.paramFlit_allowed hstate hlen hok hcrc ht _ ⟨hother, hexpect⟩]

end Sys2Proof.Machine
end

section
/-! SUPPORT and certificates. The address map of a partition (R299, R300): a byte's place in the groups, and the address that the inverse map gives back. -/

namespace Sys2Proof.Machine

/-! Slices and groups (R300). -/

theorem posOf_eq_idxOf (l : List Nat) (x : Nat) : posOf l x = l.idxOf x := by
  unfold posOf
  induction l with
  | nil => rfl
  | cons y l ih => by_cases h : y = x <;> simp [h, ih]

theorem posOf_getD {l : List Nat} (hl : l.Nodup) {i : Nat} (hi : i < l.length) : posOf l (l.getD i 0) = i := by
  rw [posOf_eq_idxOf, List.getD_eq_getElem _ _ hi, hl.idxOf_getElem]

theorem Chip.groupsOf_nodup (c : Chip) (p : Nat) : (c.groupsOf p).Nodup := by
  unfold Chip.groupsOf
  split
  · exact List.nodup_range.filter _
  · exact List.nodup_nil

/-- An address in a slice of a partition lies below the end of the partition's slices, and not before their beginning. -/
theorem Chip.owner_bounds {c : Chip} {p a : Nat} (h : c.sliceOwner (a / sliceSize) = some p) :
    c.baseSlice p * sliceSize ≤ a ∧ a - c.baseSlice p * sliceSize < (c.groupsOf p).length * sliceSize := by
  unfold Chip.sliceOwner at h
  have hslice := List.find?_some h
  simp only [Bool.and_eq_true, decide_eq_true_eq] at hslice
  simp only [sliceSize] at hslice ⊢
  omega

/-! The place of a byte in the space that groups form (R300). -/

/-- The place of byte `o` of the space that the groups `gs` form. -/
def placeIn (gs : List Nat) (o : Nat) : MemPos :=
  let j := o / 3584
  ⟨gs.getD (j % gs.length) 0, (j / gs.length) * 16 + (o % 3584) / 224, (o % 224) / 32, o % 32⟩

theorem Chip.memMap_owned {c : Chip} {p a : Nat} (h : c.sliceOwner (a / sliceSize) = some p) :
    c.memMap a = placeIn (c.groupsOf p) (a - c.baseSlice p * sliceSize) := by
  have hk : (c.groupsOf p).length ≠ 0 := by
    have := (c.owner_bounds h).2
    intro hk
    simp [hk] at this
  simp only [Chip.memMap, Chip.memSpace, h, if_neg hk]
  rfl

theorem placeIn_grp_mem {gs : List Nat} (hk : 0 < gs.length) (o : Nat) : (placeIn gs o).grp ∈ gs := by
  have hi := Nat.mod_lt (o / 3584) hk
  rw [placeIn, List.getD_eq_getElem _ _ hi]
  exact List.getElem_mem hi

/-- A slice's worth of data for each group fills the groups' stripes and no more: 3,584 bytes are 16 stripes. -/
theorem placeIn_stripe_lt {gs : List Nat} {o : Nat} (ho : o < gs.length * sliceSize) : (placeIn gs o).stripe < groupStripes := by
  have hj : o / 3584 / gs.length < 9437184 := Nat.div_lt_of_lt_mul (by simp only [sliceSize] at ho; omega)
  simp only [placeIn, groupStripes]
  omega

/-- The inverse map of R300 gives the byte back from its place. -/
theorem stripeAddr_placeIn {gs : List Nat} (hgs : gs.Nodup) (hk : 0 < gs.length) (base o : Nat) :
    stripeAddr gs base (placeIn gs o).grp (placeIn gs o).stripe (placeIn gs o).di (placeIn gs o).byte = base + o := by
  have hpos : posOf gs (placeIn gs o).grp = o / 3584 % gs.length := posOf_getD hgs (Nat.mod_lt _ hk)
  have hrow : (placeIn gs o).stripe / 16 = o / 3584 / gs.length := by simp only [placeIn]; omega
  have hgranule : o / 3584 / gs.length * gs.length + o / 3584 % gs.length = o / 3584 := Nat.div_add_mod' _ _
  rw [stripeAddr, hpos, hrow, hgranule]
  simp only [placeIn]
  omega

/-- Settles O38: the place is that of the address's offset in the partition's slices, and the inverse map adds the offset to their beginning again; two
addresses of one place are then both what the inverse map gives. -/
theorem addressMappingIsOneToOne : Obligations.AddressMappingIsOneToOne := by
  unfold Obligations.AddressMappingIsOneToOne
  intro c p a ha _ m
  have inverse (b : Nat) (hb : c.sliceOwner (b / sliceSize) = some p) : stripeAddr (c.groupsOf p) (c.baseSlice p * sliceSize)
      (c.memMap b).grp (c.memMap b).stripe (c.memMap b).di (c.memMap b).byte = b := by
    obtain ⟨hlo, hhi⟩ := c.owner_bounds hb
    rw [c.memMap_owned hb, stripeAddr_placeIn (c.groupsOf_nodup p) (Nat.pos_of_lt_mul_right hhi), Nat.add_sub_cancel' hlo]
  obtain ⟨_, hhi⟩ := c.owner_bounds ha
  have hk : 0 < (c.groupsOf p).length := Nat.pos_of_lt_mul_right hhi
  have hm : m = placeIn (c.groupsOf p) (a - c.baseSlice p * sliceSize) := c.memMap_owned ha
  refine ⟨?_, ?_, ?_, ?_, inverse a ha, fun b hb hbm => ?_⟩
  · exact hm ▸ placeIn_grp_mem hk _
  · exact hm ▸ placeIn_stripe_lt hhi
  · rw [hm]
    simp only [placeIn]
    omega
  · exact hm ▸ Nat.mod_lt _ (by decide)
  · rw [← inverse b hb, hbm]
    exact inverse a ha

end Sys2Proof.Machine
end

section
/-! SUPPORT and certificates. The parity of a stripe and what it gives back (R299, R302, R303, R309). -/

namespace Sys2Proof.Machine

/-! Exclusive OR of accesses (R299). -/

theorem length_xorBytes (a b : List Byte) : (xorBytes a b).length = min a.length b.length := List.length_zipWith

theorem xorBytes_right_comm (a b d : List Byte) : xorBytes (xorBytes a b) d = xorBytes (xorBytes a d) b := by
  refine List.ext_getElem (by simp only [length_xorBytes]; omega) fun i _ _ => ?_
  simp only [xorBytes, List.getElem_zipWith]
  ac_rfl

theorem xorBytes_self (a : List Byte) : xorBytes a a = List.replicate a.length 0 :=
  List.ext_getElem (by simp [length_xorBytes]) fun i _ _ => by simp [xorBytes]

theorem zero_xorBytes (a : List Byte) : xorBytes (List.replicate a.length 0) a = a :=
  List.ext_getElem (by simp [length_xorBytes]) fun i _ _ => by simp [xorBytes]

theorem xorBytes_cancel {a b : List Byte} (h : a.length = b.length) : xorBytes (xorBytes a b) b = a :=
  List.ext_getElem (by simp [length_xorBytes, h]) fun i _ _ => by simp [xorBytes]

/-- Exclusive OR of the accesses `ms`, whose data `d` gives. -/
def xorOf (d : Nat → List Byte) (ms : List Nat) : List Byte := ms.foldl (fun x i => xorBytes x (d i)) (List.replicate 32 0)

theorem xorOf_concat (d : Nat → List Byte) (ms : List Nat) (i : Nat) : xorOf d (ms ++ [i]) = xorBytes (xorOf d ms) (d i) := by
  simp [xorOf]

theorem xorOf_perm (d : Nat → List Byte) {ms ns : List Nat} (h : ms.Perm ns) : xorOf d ms = xorOf d ns :=
  h.foldl_eq' (fun i _ j _ x => xorBytes_right_comm x (d i) (d j)) _

theorem xorOf_congr {d e : Nat → List Byte} {ms : List Nat} (h : ∀ i ∈ ms, d i = e i) : xorOf d ms = xorOf e ms :=
  List.foldl_ext _ _ _ fun x i hi => by rw [h i hi]

theorem length_xorOf {d : Nat → List Byte} {ms : List Nat} (h : ∀ i ∈ ms, (d i).length = 32) : (xorOf d ms).length = 32 := by
  induction ms using List.reverseRecOn with
  | nil => rfl
  | append_singleton ms i ih =>
    rw [xorOf_concat, length_xorBytes, ih fun j hj => h j (List.mem_append_left _ hj), h i (by simp), Nat.min_self]

/-! The eight accesses of a stripe (R299). -/

theorem Chip.accessData_of_ne (c : Chip) (g t : Nat) {m : Nat} (hm : m ≠ 7) : c.accessData g t m = c.mem.readN (c.unmap g t m 0) 32 := if_neg hm

theorem ne_seven_of_mem {i : Nat} (hi : i ∈ upto 7) : i ≠ 7 := (List.mem_range.mp hi).ne

theorem Chip.accessData_parity (c : Chip) (g t : Nat) : c.accessData g t 7 = xorOf (c.accessData g t) (upto 7) :=
  xorOf_congr fun _ hi => (c.accessData_of_ne g t (ne_seven_of_mem hi)).symm

theorem Chip.length_accessData (c : Chip) (g t m : Nat) : (c.accessData g t m).length = 32 := by
  have hdata {i : Nat} (hi : i ≠ 7) : (c.accessData g t i).length = 32 := by rw [c.accessData_of_ne g t hi, Mem.length_readN]
  by_cases hm : m = 7
  · rw [hm, c.accessData_parity g t]
    exact length_xorOf fun i hi => hdata (ne_seven_of_mem hi)
  · exact hdata hm

/-- The eight accesses of a stripe cancel. -/
theorem Chip.xorOf_stripe (c : Chip) (g t : Nat) : xorOf (c.accessData g t) (upto 8) = List.replicate 32 0 := by
  rw [show upto 8 = upto 7 ++ [7] from rfl, xorOf_concat, ← c.accessData_parity g t, xorBytes_self, c.length_accessData g t 7]

/-- The exclusive OR of seven accesses is the eighth. -/
theorem Chip.xorOf_others (c : Chip) (g t : Nat) {m : Nat} (hm : m < 8) : xorOf (c.accessData g t) ((upto 8).filter (· != m)) = c.accessData g t m := by
  set d := c.accessData g t
  set rest := (upto 8).filter (· != m)
  have hd (i : Nat) : (d i).length = 32 := c.length_accessData g t i
  have hsplit : (upto 8).Perm (rest ++ [m]) := by
    have hmem : m ∈ upto 8 := List.mem_range.mpr hm
    have herase := (List.nodup_range (n := 8)).erase_eq_filter m
    exact (List.perm_cons_erase hmem).trans (herase ▸ (List.perm_append_singleton m _).symm)
  have hzero : xorBytes (xorOf d rest) (d m) = List.replicate 32 0 := by
    rw [← xorOf_concat, ← xorOf_perm d hsplit]
    exact c.xorOf_stripe g t
  have hlen : (xorOf d rest).length = (d m).length := (length_xorOf fun i _ => hd i).trans (hd m).symm
  calc xorOf d rest = xorBytes (xorBytes (xorOf d rest) (d m)) (d m) := (xorBytes_cancel hlen).symm
    _ = xorBytes (List.replicate (d m).length 0) (d m) := by rw [hzero, hd m]
    _ = d m := zero_xorBytes _

/-! Reading accesses (R302, R303). -/

theorem Chip.faultMask_of_clean {c : Chip} {g t m : Nat} (h : ∀ f ∈ (c.grpOf g).faults, f.stripe = t → f.member ≠ c.holder g t m) :
    c.faultMask g t m = 0 := by
  have hnone : (c.grpOf g).faults.filter (fun f => f.stripe == t && f.member == c.holder g t m) = [] :=
    List.filter_eq_nil_iff.mpr fun f hf => by simpa using h f hf
  rw [Chip.faultMask, hnone]
  rfl

/-- An access into which no error has come arrives as it was written and passes its check. -/
theorem Chip.fetchAccess_of_clean {c : Chip} {g t m : Nat} (h : ∀ f ∈ (c.grpOf g).faults, f.stripe = t → f.member ≠ c.holder g t m) :
    c.fetchAccess g t m = (c.accessData g t m, true) := by
  simp only [Chip.fetchAccess, c.faultMask_of_clean h, if_true]

/-- With the other seven accesses free of errors, they give access `m` back and none of them fails. -/
theorem Chip.others_of_clean {c : Chip} {g t m : Nat} (hm : m < 8)
    (h : ∀ f ∈ (c.grpOf g).faults, f.stripe = t → ∀ i, i < 8 → i ≠ m → f.member ≠ c.holder g t i) : c.others g t m = (c.accessData g t m, []) := by
  have hfetch : ∀ i ∈ (upto 8).filter (· != m), c.fetchAccess g t i = (c.accessData g t i, true) := fun i hi => by
    simp only [upto, List.mem_filter, List.mem_range, bne_iff_ne] at hi
    exact c.fetchAccess_of_clean fun f hf hft => h f hf hft i hi.1 hi.2
  refine Prod.ext ?_ (List.filter_eq_nil_iff.mpr fun i hi => by simp [hfetch i hi])
  exact (xorOf_congr fun i hi => by rw [hfetch i hi]).trans (c.xorOf_others g t hm)

/-! A read that the other accesses answer (R303, R309). -/

theorem Chip.readAccess_held {c : Chip} {g t m mask : Nat} (hlost : c.stripeLost g t = false) (hbuf : bufHolds (c.grpOf g).buf t m mask = true) :
    c.readAccess g t m mask = (c, some (c.accessData g t m)) := by
  simp only [Chip.readAccess, hlost, hbuf, Bool.false_eq_true, if_false, if_true]

/-- A read of the missing member: the write log answers it, or the other accesses do. -/
theorem Chip.readAccess_missing {c : Chip} {g t m mask : Nat} (hlost : c.stripeLost g t = false) (hbuf : bufHolds (c.grpOf g).buf t m mask = false)
    (hmiss : c.missing g t = some m) (hothers : c.others g t m = (c.accessData g t m, [])) :
    (c.readAccess g t m mask).2 = some (c.accessData g t m) := by
  simp only [Chip.readAccess, hlost, hbuf, hmiss, hothers, Bool.false_eq_true, if_false, if_true]
  split <;> rfl

/-- A read of another member whose check fails: the access is rebuilt and written back. -/
theorem Chip.readAccess_failing {c : Chip} {g t m mask : Nat} (hlost : c.stripeLost g t = false) (hbuf : bufHolds (c.grpOf g).buf t m mask = false)
    (hmiss : c.missing g t ≠ some m) (hwhole : c.missing g t = none ∨ c.grpState g = 1) (hpar : c.noParity g t = false)
    (hfail : (c.fetchAccess g t m).2 = false) (hothers : c.others g t m = (c.accessData g t m, [])) :
    c.readAccess g t m mask = ((c.noteFail g (c.holder g t m)).rebuiltAccess g t m, some (c.accessData g t m)) := by
  have hfetch : c.fetchAccess g t m = ((c.fetchAccess g t m).1, false) := Prod.ext rfl hfail
  have hlacks : (c.noParity g t || (c.grpState g != 1 && (c.missing g t).isSome)) = false := by
    obtain h | h := hwhole <;> simp [hpar, h]
  have hnoted : let d := c.noteFail g (c.holder g t m); (d.noParity g t || (d.grpState g != 1 && (d.missing g t).isSome)) = false := hlacks
  simp only [Chip.readAccess, hlost, hbuf, Bool.false_eq_true, if_false, if_neg hmiss]
  rw [hfetch]
  simp only [hnoted, hothers, Bool.not_false, List.isEmpty_nil, Bool.and_self, if_true]

/-! What a rebuilt access leaves (R303). -/

@[simp] theorem Chip.grpOf_addF (c : Chip) (b : Blk) (f : Field) (n g : Nat) : (c.addF b f n).grpOf g = c.grpOf g := rfl
@[simp] theorem Chip.grpOf_satF (c : Chip) (b : Blk) (f : Field) (n g : Nat) : (c.satF b f n).grpOf g = c.grpOf g := rfl
@[simp] theorem Chip.grpOf_raise (c : Chip) (b : Blk) (st : Status) (g : Nat) : (c.raise b st).grpOf g = c.grpOf g := rfl
@[simp] theorem Chip.grpOf_setFs (c : Chip) (b : Blk) (l : List (Field × Nat)) (g : Nat) : (c.setFs b l).grpOf g = c.grpOf g :=
  forAll_keeps (·.grpOf g) l c (fun c e => c.setF b e.1 e.2) fun _ _ => rfl

theorem Chip.clearFault_clears (c : Chip) (g t m : Nat) : ∀ f ∈ ((c.clearFault g t m).grpOf g).faults, f.stripe = t → f.member ≠ c.holder g t m := by
  intro f hf ht
  simp only [Chip.clearFault, Chip.grpOf_setGrp_self, List.mem_filter] at hf
  simpa [ht] using hf.2

theorem Chip.rebuiltAccess_clears (c : Chip) (g t m : Nat) :
    ∀ f ∈ ((c.rebuiltAccess g t m).grpOf g).faults, f.stripe = t → f.member ≠ c.holder g t m := by
  simpa only [Chip.rebuiltAccess, Chip.grpOf_setFs, Chip.grpOf_addF, Chip.grpOf_raise, Chip.grpOf_satF] using c.clearFault_clears g t m

theorem Chip.rebuiltAccess_counted (c : Chip) (g t m : Nat) : (c.rebuiltAccess g t m).on (.mem (g / 8)) St.MEM_CE.flag = true := by
  have hplace {f : Field} (h : f.off * 64 + f.lsb ≠ 0x10 * 64 + 1) : fkey (.mem (g / 8)) St.MEM_CE.flag ≠ fkey (.mem (g / 8)) f :=
    (fkey_ne_of_place _ h).symm
  rw [Chip.on, Chip.rebuiltAccess, Chip.getF_setFs_of_ne, Chip.getF_addF_of_ne _ _ (hplace (by decide)),
    Chip.getF_raise_flag _ rfl (hplace (by decide))]
  · rfl
  · simp only [List.forall_mem_cons]
    exact ⟨hplace (by decide), hplace (by decide), hplace (by decide), hplace (by decide), List.forall_mem_nil _⟩

/-- Settles O39: the eight accesses of a stripe cancel, so the clean seven give the eighth, and a read that needs it takes what they give. -/
theorem parityRebuildsAMissingAccess : Obligations.ParityRebuildsAMissingAccess := by
  unfold Obligations.ParityRebuildsAMissingAccess
  intro c g t m mask hm hclean
  have hothers := c.others_of_clean hm hclean
  refine ⟨c.length_accessData g t m, hothers, fun h => c.fetchAccess_of_clean fun f hf ht => absurd ht (h f hf),
    fun hlost => ⟨fun hmiss => ?missing, fun hmiss hwhole hpar hfail => ?failing⟩⟩
  case missing =>
    cases hbuf : bufHolds (c.grpOf g).buf t m mask with
    | true => rw [c.readAccess_held hlost hbuf]
    | false => exact c.readAccess_missing hlost hbuf hmiss hothers
  case failing =>
    intro z
    cases hbuf : bufHolds (c.grpOf g).buf t m mask with
    | true => exact ⟨congrArg Prod.snd (c.readAccess_held hlost hbuf), fun h => absurd h (by decide)⟩
    | false =>
      have hz : z = ((c.noteFail g (c.holder g t m)).rebuiltAccess g t m, some (c.accessData g t m)) :=
        c.readAccess_failing hlost hbuf hmiss hwhole hpar hfail hothers
      rw [hz]
      exact ⟨rfl, fun _ => ⟨Chip.rebuiltAccess_counted _ g t m, Chip.rebuiltAccess_clears (c.noteFail g _) g t m⟩⟩

end Sys2Proof.Machine
end

section
/-! SUPPORT. What the engine of a group leaves alone as it reads, writes, loses stripes and declares members failed (R303-R317): the fields that say which
member holds an access, the stripe buffer, and the marks of lost stripes. -/

namespace Sys2Proof.Machine

/-! Registers (R319, R321). -/

/-- The registers in which the engine of group `g` leaves traces: status, counts and error record of its die's MEM, log and counts of the group, the bench
list and the field log. -/
inductive Tally (g : Nat) : Blk → Field → Prop
  | mem {f : Field} (hlo : 0x10 ≤ f.off) (hhi : f.off < 0x400) (hl : f.lsb < 64) : Tally g (.mem (g / 8)) f
  | grp {f : Field} (hlo : 8 ≤ f.off) : Tally g (.grp g) f
  | boot (d : Nat) {f : Field} (hhi : f.off < 0x400000) (hl : f.lsb < 64) : Tally g (.boot d) f
  | cfg {f : Field} (hhi : f.off < 0x400000) (hl : f.lsb < 64) : Tally g .cfg f

/-- A field is none of those that trace the engine of group `g`. -/
def OffTally (g : Nat) (b : Blk) (f : Field) : Prop := ∀ b' f', Tally g b' f' → fkey b f ≠ fkey b' f'

theorem offTally_grp (g : Nat) {f : Field} (ho : f.off = 0) (hl : f.lsb < 64) : OffTally g (.grp g) f := by
  intro b' f' h
  cases h <;> simp only [fkey, Blk.base, dieSpan] <;> omega

theorem offTally_mem (g : Nat) {f : Field} (ho : f.off < 0x10) (hl : f.lsb < 64) : OffTally g (.mem (g / 8)) f := by
  intro b' f' h
  cases h <;> simp only [fkey, Blk.base, dieSpan] <;> omega

section
variable (c : Chip) {g : Nat} {b : Blk} {f : Field} (h : OffTally g b f)
include h

theorem OffTally.setF {b' : Blk} {f' : Field} (hf : Tally g b' f') (v : Nat) : (c.setF b' f' v).getF b f = c.getF b f :=
  c.getF_setF_of_ne v (h _ _ hf)

theorem OffTally.setFs {b' : Blk} {l : List (Field × Nat)} (hl : ∀ f' ∈ l.map Prod.fst, Tally g b' f') : (c.setFs b' l).getF b f = c.getF b f :=
  c.getF_setFs_of_fields fun f' hf => h _ f' (hl f' hf)

theorem OffTally.raise {b' : Blk} {st : Status} (hf : Tally g b' st.flag) (hc : Tally g b' st.cnt) : (c.raise b' st).getF b f = c.getF b f :=
  c.getF_raise_of_ne (h _ _ hf) (h _ _ hc)

end

/-- The error record of a die's MEM. -/
theorem tally_memErr (g n m t k : Nat) :
    ∀ f ∈ [(R.MEM_ERR_GROUP, n), (R.MEM_ERR_MEMBER, m), (R.MEM_ERR_STRIPE, t), (R.MEM_ERR_KIND, k)].map Prod.fst, Tally g (.mem (g / 8)) f := by
  simp only [List.map_cons, List.map_nil, List.forall_mem_cons]
  exact ⟨.mem (by decide) (by decide) (by decide), .mem (by decide) (by decide) (by decide), .mem (by decide) (by decide) (by decide),
    .mem (by decide) (by decide) (by decide), List.forall_mem_nil _⟩

/-! What a group is left with. -/

/-- The fields of MEM_GRP_STATE that say which member holds an access (R313-R315). -/
def standing : List Field := [R.GRP_STATE, R.GRP_STATE_FAILED, R.GRP_STATE_TAKEOVER, R.GRP_STATE_RB_PTR]

theorem standing_place {f : Field} (h : f ∈ standing) : f.off = 0 ∧ f.lsb < 64 ∧ f.lsb ≠ 12 := by
  revert h f
  decide

section
variable {c d : Chip} {g : Nat} (h : ∀ f ∈ standing, d.getF (.grp g) f = c.getF (.grp g) f)
include h

theorem Chip.grpState_congr : d.grpState g = c.grpState g := h _ (by decide)

theorem Chip.noParity_congr (t : Nat) : d.noParity g t = c.noParity g t := by
  rw [Chip.noParity, Chip.noParity, Chip.grpState_congr h, Chip.on, Chip.on, h R.GRP_STATE_TAKEOVER (by decide), h R.GRP_STATE_RB_PTR (by decide)]

theorem Chip.holder_congr (t m : Nat) : d.holder g t m = c.holder g t m := by
  rw [Chip.holder, Chip.holder, Chip.noParity_congr h, Chip.on, Chip.on, h R.GRP_STATE_TAKEOVER (by decide), h R.GRP_STATE_FAILED (by decide)]

end

/-- The engine of group `g` has worked: its members hold what they held, its buffer is as it was, no new error has come in, no mark of a loss is gone. -/
structure Chip.Worked (c d : Chip) (g : Nat) : Prop where
  standing : ∀ f ∈ standing, d.getF (.grp g) f = c.getF (.grp g) f
  buf : (d.grpOf g).buf = (c.grpOf g).buf
  rbEnd : (d.grpOf g).rbEnd = (c.grpOf g).rbEnd
  faults : (d.grpOf g).faults ⊆ (c.grpOf g).faults
  poison : c.poison ⊆ d.poison

namespace Chip.Worked
variable {c d e : Chip} {g : Nat}

theorem refl (c : Chip) (g : Nat) : c.Worked c g := ⟨fun _ _ => rfl, rfl, rfl, fun _ h => h, fun _ h => h⟩

theorem trans (h : c.Worked d g) (h' : d.Worked e g) : c.Worked e g :=
  ⟨fun f hf => (h'.standing f hf).trans (h.standing f hf), h'.buf.trans h.buf, h'.rbEnd.trans h.rbEnd, fun _ hf => h.faults (h'.faults hf),
    fun _ hp => h'.poison (h.poison hp)⟩

theorem loop {α : Type} (l : List α) (c : Chip) {f : Chip → α → Chip} (h : ∀ c a, Chip.Worked c (f c a) g) : c.Worked (forAll l c f) g := by
  induction l generalizing c with
  | nil => exact refl c g
  | cons a l ih => exact (h c a).trans (ih _)

theorem after (h' : d.Worked e g) (h : c.Worked d g) : c.Worked e g := h.trans h'

theorem grpState (h : c.Worked d g) : d.grpState g = c.grpState g := Chip.grpState_congr h.standing
theorem holder (h : c.Worked d g) (t m : Nat) : d.holder g t m = c.holder g t m := Chip.holder_congr h.standing t m

/-- A store in a register that says nothing of the members. -/
theorem of_setF (c : Chip) {g : Nat} {b : Blk} {f : Field} (v : Nat) (h : ∀ f' ∈ Machine.standing, fkey (.grp g) f' ≠ fkey b f) : c.Worked (c.setF b f v) g :=
  ⟨fun f' hf => c.getF_setF_of_ne v (h f' hf), rfl, rfl, fun _ h => h, fun _ h => h⟩

theorem of_tally (c : Chip) {g : Nat} {b : Blk} {f : Field} (h : Tally g b f) (v : Nat) : c.Worked (c.setF b f v) g :=
  of_setF c v fun _ hf => offTally_grp g (standing_place hf).1 (standing_place hf).2.1 _ _ h

theorem of_setGrp (c : Chip) {g : Nat} {x : Group} (hbuf : x.buf = (c.grpOf g).buf) (hend : x.rbEnd = (c.grpOf g).rbEnd)
    (hfaults : x.faults ⊆ (c.grpOf g).faults) : c.Worked (c.setGrp g x) g :=
  ⟨fun _ _ => rfl, by rw [Chip.grpOf_setGrp_self, hbuf], by rw [Chip.grpOf_setGrp_self, hend], by rwa [Chip.grpOf_setGrp_self], fun _ h => h⟩

theorem of_setFs (c : Chip) {g : Nat} {b : Blk} (l : List (Field × Nat)) (h : ∀ f ∈ l.map Prod.fst, Tally g b f) : c.Worked (c.setFs b l) g := by
  induction l generalizing c with
  | nil => exact refl c g
  | cons e l ih =>
    rw [List.map_cons, List.forall_mem_cons] at h
    exact (of_tally c h.1 e.2).trans (ih _ h.2)

theorem of_raise (c : Chip) {g : Nat} {b : Blk} {st : Status} (hf : Tally g b st.flag) (hc : Tally g b st.cnt) : c.Worked (c.raise b st) g :=
  (of_tally c hf 1).trans (of_tally _ hc _)

end Chip.Worked

/-! The operations of a group engine (R303, R309, R310). -/

theorem Chip.noteFail_worked (c : Chip) (g m : Nat) : c.Worked (c.noteFail g m) g := .of_setGrp c rfl rfl fun _ h => h

theorem Chip.noteFails_worked (c : Chip) (g : Nat) (l : List Nat) : c.Worked (forAll l c (fun c i => c.noteFail g i)) g :=
  .loop l c fun c i => c.noteFail_worked g i

theorem Chip.clearFault_worked (c : Chip) (g t m : Nat) : c.Worked (c.clearFault g t m) g := .of_setGrp c rfl rfl (List.filter_subset_self _)

theorem Chip.rebuiltAccess_worked (c : Chip) (g t m : Nat) : c.Worked (c.rebuiltAccess g t m) g := by
  refine (Worked.of_setFs _ _ (tally_memErr g g m t _)).after ?_
  refine (Worked.of_tally _ (.mem (by decide) (by decide) (by decide)) _).after ?_
  refine (Worked.of_raise _ (.mem (by decide) (by decide) (by decide)) (.mem (by decide) (by decide) (by decide))).after ?_
  exact (Worked.of_tally _ (.grp (by simp only [ceField]; omega)) _).after (c.clearFault_worked g t m)

theorem Chip.reportLoss_worked (c : Chip) (g first last : Nat) : c.Worked (c.reportLoss g first last) g :=
  (Worked.of_raise _ (.mem (by decide) (by decide) (by decide)) (.mem (by decide) (by decide) (by decide))).after
    ⟨fun _ _ => rfl, rfl, rfl, fun _ h => h, fun _ h => h⟩

theorem Chip.loseStripe_worked (c : Chip) (g m t : Nat) : c.Worked (c.loseStripe g m t) g :=
  (Chip.reportLoss_worked _ g t t).after ((Worked.of_setFs _ _ (tally_memErr g g m t _)).after
    ⟨fun _ _ => rfl, rfl, rfl, fun _ h => h, fun _ h => List.mem_cons_of_mem _ h⟩)

theorem Chip.readAccess_worked (c : Chip) (g t m mask : Nat) : c.Worked (c.readAccess g t m mask).1 g := by
  unfold Chip.readAccess
  dsimp only
  have noted (l : List Nat) := c.noteFails_worked g l
  split; · exact .refl c g
  split; · exact .refl c g
  split
  · split; · exact .refl c g
    split
    · exact .of_tally c (.mem (by decide) (by decide) (by decide)) _
    · split
      · exact (noted _).trans (Chip.rebuiltAccess_worked _ _ _ _)
      · exact (noted _).trans (Chip.loseStripe_worked _ _ _ _)
    · exact (noted _).trans (Chip.loseStripe_worked _ _ _ _)
  · split
    · exact .refl c g
    · split
      · exact (c.noteFail_worked _ _).trans (Chip.rebuiltAccess_worked _ _ _ _)
      · exact ((c.noteFail_worked _ _).trans (Chip.noteFails_worked _ _ _)).trans (Chip.loseStripe_worked _ _ _ _)

theorem Chip.setCal_worked (c : Chip) (g : Nat) (on : Bool) : c.Worked (c.setCal g on) g := by
  have hoff {b : Blk} {f : Field} (hf : f.lsb = 12) : ∀ f' ∈ standing, fkey (.grp g) f' ≠ fkey b f := fun f' h =>
    fkey_ne_of_lsb (standing_place h).2.1 (by omega) (by rw [hf]; exact (standing_place h).2.2)
  exact (Worked.of_setF _ _ (hoff rfl)).after (.of_setF c _ (hoff rfl))

theorem Chip.endSession_worked (c : Chip) (g : Nat) : c.Worked (c.endSession g) g := by
  unfold Chip.endSession
  split
  · exact (Chip.setCal_worked _ g false).after ((Worked.of_tally _ (.grp (by decide)) _).after (.of_setGrp c rfl rfl fun _ h => h))
  · exact .refl c g

theorem Chip.logAccess_worked (c : Chip) (g t m : Nat) : c.Worked (c.logAccess g t m) g := by
  unfold Chip.logAccess
  split; · exact c.endSession_worked g
  split
  · refine (Worked.of_tally _ (.mem (by decide) (by decide) (by decide)) _).after ?_
    have hentry : c.Worked ((c.setGrp g { c.grpOf g with log := (c.grpOf g).log ++ [(t, m)] }).setF (.grp g) R.GRP_LOG_LOG_ENTRIES
        ((c.grpOf g).log.length + 1)) g := (Worked.of_tally _ (.grp (by decide)) _).after (.of_setGrp c rfl rfl fun _ h => h)
    split
    · exact (Worked.of_tally _ (.grp (by decide)) _).after hentry
    · exact hentry
  · exact .refl c g

/-! A stripe is written (R304, R305). -/

/-- One access of a stripe is written: it goes to its member, or to the log of one that is offline. -/
theorem Chip.writtenAccess_worked (c : Chip) (g t m : Nat) : c.Worked ((c.clearFault g t m).logAccess g t m) g :=
  (Chip.logAccess_worked _ g t m).after (c.clearFault_worked g t m)

/-- The accesses that are written hold no error any more. -/
theorem Chip.written_clears (c : Chip) (g t : Nat) (l : List Nat) : ∀ m ∈ l,
    ∀ f ∈ ((forAll l c (fun c m => (c.clearFault g t m).logAccess g t m)).grpOf g).faults, f.stripe = t → f.member ≠ c.holder g t m := by
  induction l generalizing c with
  | nil => exact List.forall_mem_nil _
  | cons a l ih =>
    have hstep := c.writtenAccess_worked g t a
    have hrest : ((c.clearFault g t a).logAccess g t a).Worked (forAll (a :: l) c (fun c m => (c.clearFault g t m).logAccess g t m)) g :=
      .loop l _ fun c m => c.writtenAccess_worked g t m
    rw [List.forall_mem_cons]
    refine ⟨fun f hf => c.clearFault_clears g t a f ((Chip.logAccess_worked _ g t a).faults (hrest.faults hf)), fun m hm f hf => ?_⟩
    rw [← hstep.holder t m]
    exact ih _ m hm f hf

/-- The reads that the write of a stripe needs. -/
theorem Chip.stripeRead_worked (c : Chip) (g t n : Nat) (l : List Nat) :
    c.Worked (forAll l (c.addF (.mem (g / 8)) R.MEM_RMW_READS n) (fun c m => (c.readAccess g t m (2 ^ 32 - 1)).1)) g :=
  (Worked.loop l _ fun c m => c.readAccess_worked g t m _).after (.of_tally c (.mem (by decide) (by decide) (by decide)) _)

theorem Chip.issueStripe_worked (c : Chip) (g : Nat) (b : BufWrite) : c.Worked (c.issueStripe g b) g :=
  (Worked.loop _ _ fun c m => c.writtenAccess_worked g b.stripe m).after (c.stripeRead_worked g b.stripe _ _)

theorem Chip.issueStripe_clears (c : Chip) (g : Nat) (b : BufWrite) {m : Nat} (hm : m ∈ b.covered) :
    ∀ f ∈ ((c.issueStripe g b).grpOf g).faults, f.stripe = b.stripe → f.member ≠ c.holder g b.stripe m := by
  intro f hf
  have hwritten : m ∈ if c.noParity g b.stripe then b.covered else b.covered ++ [7] := by
    split
    · exact hm
    · exact List.mem_append_left _ hm
  rw [← (c.stripeRead_worked g b.stripe _ _).holder]
  exact Chip.written_clears _ g b.stripe _ m hwritten f hf

/-! Errors that come into stored accesses change nothing else (R302). -/

section
variable (c : Chip) (l : List AccFault)

theorem Chip.addFaults_keeps {β : Type} (p : Chip → β)
    (h : ∀ (c : Chip) (f : AccFault), p (c.setGrp f.grp { c.grpOf f.grp with faults := (c.grpOf f.grp).faults ++ [f] }) = p c) : p (c.addFaults l) = p c :=
  forAll_keeps p l c _ h

@[simp] theorem Chip.getF_addFaults (b : Blk) (f : Field) : (c.addFaults l).getF b f = c.getF b f := c.addFaults_keeps l (·.getF b f) fun _ _ => rfl
@[simp] theorem Chip.mem_addFaults : (c.addFaults l).mem = c.mem := c.addFaults_keeps l Chip.mem fun _ _ => rfl

theorem Chip.grpOf_addFaults {β : Type} (q : Group → β) (h : ∀ (x : Group) l, q { x with faults := l } = q x) (g : Nat) :
    q ((c.addFaults l).grpOf g) = q (c.grpOf g) := by
  refine c.addFaults_keeps l (fun c => q (c.grpOf g)) fun c f => ?_
  by_cases hg : g = f.grp
  · simp only [hg, Chip.grpOf_setGrp_self, h]
  · simp only [c.grpOf_setGrp_of_ne _ hg]

end

end Sys2Proof.Machine
end

section
/-! SUPPORT and certificates. Stripe flushes, promotions and calibration sessions (R305-R311). -/

namespace Sys2Proof.Machine

/-! The stripe buffer (R305). -/

theorem Chip.flushStripe_found {c : Chip} {g t : Nat} {b : BufWrite} (h : (c.grpOf g).buf.find? (fun b => b.stripe = t) = some b)
    (faults : List AccFault) : c.flushStripe g t faults = ((c.addFaults faults).setGrp g
      { (c.addFaults faults).grpOf g with buf := (c.grpOf g).buf.filter (fun b => b.stripe != t) }).issueStripe g b := by
  have hbuf : ((c.addFaults faults).grpOf g).buf = (c.grpOf g).buf := c.grpOf_addFaults faults Group.buf (fun _ _ => rfl) g
  simp only [Chip.flushStripe, hbuf, h]

/-! The bit of a group in MEM_STATE (R319). -/

theorem testBit_set (v : Nat) {k : Nat} (hk : k < 8) : ((v ||| 2 ^ k) % 2 ^ 8).testBit k = true := by
  rw [Nat.testBit_mod_two_pow, Nat.testBit_or, Nat.testBit_two_pow_self, Bool.or_true, Bool.and_true, decide_eq_true_eq]
  exact hk

theorem testBit_cleared (v k : Nat) : ((if bit v k then v - 2 ^ k else v) % 2 ^ 8).testBit k = false := by
  rw [Nat.testBit_mod_two_pow, Bool.and_eq_false_iff, or_iff_not_imp_left]
  intro _
  by_cases h : bit v k = true
  · rw [if_pos h]
    rw [bit, Nat.testBit_eq_decide_div_mod_eq, decide_eq_true_eq] at h
    have hsub : (v - 2 ^ k) / 2 ^ k = v / 2 ^ k - 1 := by
      have := Nat.sub_mul_div v (2 ^ k) 1
      rwa [Nat.mul_one] at this
    rw [Nat.testBit_eq_decide_div_mod_eq, hsub, decide_eq_false_iff_not]
    omega
  · rw [if_neg h]
    exact Bool.eq_false_iff.mpr h

section
variable (c : Chip) (g : Nat)

theorem Chip.setCal_active (on : Bool) : (c.setCal g on).on (.grp g) R.GRP_STATE_CAL_ACTIVE = on := by
  rw [Chip.on, Chip.setCal, Chip.setB, Chip.getF_setF_self]
  cases on <;> rfl

/-- The group's CALIBRATING bit says whether a session runs. -/
theorem Chip.setCal_calibrating (on : Bool) : bit ((c.setCal g on).getF (.mem (g / 8)) R.MEM_STATE_CALIBRATING) (g % 8) = on := by
  have hkey : fkey (.mem (g / 8)) R.MEM_STATE_CALIBRATING ≠ fkey (.grp g) R.GRP_STATE_CAL_ACTIVE := by
    simp only [fkey, Blk.base, dieSpan, R.MEM_STATE_CALIBRATING, R.GRP_STATE_CAL_ACTIVE]
    omega
  rw [Chip.setCal, Chip.setB, Chip.getF_setF_of_ne _ _ hkey, Chip.getF_setF_self]
  cases on
  · exact testBit_cleared _ _
  · exact testBit_set _ (Nat.mod_lt _ (by decide))

end

/-! Sessions (R308-R311). -/

section
variable {c : Chip} {g : Nat}

/-- A session starts in a normal group in which none runs. -/
theorem Chip.calStart_starts {m : Nat} (hstate : c.grpState g = 1) (hidle : c.on (.grp g) R.GRP_STATE_CAL_ACTIVE = false)
    (hfree : ((upto 8).filter (bit (c.getF (.mem (g / 8)) R.MEM_STATE_CALIBRATING))).length < 2)
    (hnext : (c.grpOf g).calNow = none ∨ (c.grpOf g).calNow = some m) :
    c.calStart g m = ((c.setCal g true).setF (.grp g) R.GRP_STATE_CAL_MEMBER m).setGrp g { c.grpOf g with calNow := none, replay := false } := by
  have hasked : ((c.grpOf g).calNow.isSome && (c.grpOf g).calNow != some m) = false := by
    obtain h | h := hnext <;> simp [h]
  simp [Chip.calStart, hstate, hidle, hasked, Nat.not_le.mpr hfree]

/-- The chip in a session of member `m`, whatever the group holds besides. -/
theorem Chip.session_offline (x : Group) {m : Nat} (hm : m < 8) (hstate : c.grpState g = 1) :
    (((c.setCal g true).setF (.grp g) R.GRP_STATE_CAL_MEMBER m).setGrp g x).offline g = some m := by
  have hactive : ((c.setCal g true).setF (.grp g) R.GRP_STATE_CAL_MEMBER m).on (.grp g) R.GRP_STATE_CAL_ACTIVE = true := by
    rw [Chip.on, Chip.getF_setF_place _ _ _ (by decide)]
    exact c.setCal_active g true
  have hnormal : ((c.setCal g true).setF (.grp g) R.GRP_STATE_CAL_MEMBER m).grpState g = 1 := by
    rw [Chip.grpState, Chip.getF_setF_place _ _ _ (by decide)]
    exact (c.setCal_worked g true).grpState.trans hstate
  have hmember : ((c.setCal g true).setF (.grp g) R.GRP_STATE_CAL_MEMBER m).getF (.grp g) R.GRP_STATE_CAL_MEMBER = m := by
    rw [Chip.getF_setF_self]
    exact Nat.mod_eq_of_lt hm
  show Chip.offline ((c.setCal g true).setF (.grp g) R.GRP_STATE_CAL_MEMBER m) g = some m
  rw [Chip.offline, hactive, hnormal, hmember]
  rfl

theorem Chip.serveAll_nothing (h : (c.grpOf g).queue = []) : c.serveAll g = c := by
  rw [Chip.serveAll, h]
  rfl

/-- A session that passed ends: it is counted, and the log replays. -/
theorem Chip.calEnd_passes (hactive : c.on (.grp g) R.GRP_STATE_CAL_ACTIVE = true) (hreplay : (c.grpOf g).replay = false)
    (hqueue : (c.grpOf g).queue = []) (ns : Nat) :
    let l := if (c.grpOf g).sess.length = 8 then (c.grpOf g).sess else List.replicate 8 0
    c.calEnd g true ns = ((c.addF (.grp g) R.GRP_CAL_SESSIONS 1).setF (.grp g) R.GRP_CAL_LAST_NS (ns / 16)).setGrp g
      { c.grpOf g with sess := setAt l (c.getF (.grp g) R.GRP_STATE_CAL_MEMBER) 0, replay := true } := by
  intro l
  simp only [Chip.calEnd, hactive, hreplay, Bool.not_true, Bool.or_self, Bool.false_and, Bool.false_eq_true, if_false, if_true]
  exact Chip.serveAll_nothing (by rw [Chip.grpOf_setGrp_self]; exact hqueue)

/-- The log has been replayed: it is empty and the member returns. -/
theorem Chip.calReplayDone_returns (hactive : c.on (.grp g) R.GRP_STATE_CAL_ACTIVE = true) (hreplay : (c.grpOf g).replay = true) :
    c.calReplayDone g = ((c.setGrp g { c.grpOf g with replay := false, log := [] }).setF (.grp g) R.GRP_LOG_LOG_ENTRIES 0).setCal g false := by
  simp only [Chip.calReplayDone, hactive, hreplay, Bool.not_true, Bool.or_self, Bool.false_eq_true, if_false]

/-- CAL_NOW is taken unless the member has failed. -/
theorem Chip.calNow_taken {m : Nat} (hthere : c.grpState g ≠ 0) (hgood : ¬(2 ≤ c.grpState g ∧ c.getF (.grp g) R.GRP_STATE_FAILED = m)) :
    c.calNow g m = c.setGrp g { c.grpOf g with calNow := some m } := by
  rw [Chip.calNow, if_neg]
  simpa [hthere] using hgood

end

/-- Settles O41: a flush ends in the issue of the stripe, which the group's fields and buffer outlast; the commands of a session are followed past what
they check. -/
theorem calibrationSessionsRun : Obligations.CalibrationSessionsRun := by
  unfold Obligations.CalibrationSessionsRun
  intro s g hup c x
  refine ⟨fun t faults b hb => ?flush, fun n r hr hnew => ?promote, fun bank => ?refresh, fun m hthere hstate hgood => ?calNow,
    fun m hstate hidle hfree hnext => ?start, fun ns hactive hreplay hqueue => ?sessionEnd, fun hactive hreplay => ?replayed⟩
  case flush =>
    have hstripe : b.stripe = t.toNat := by simpa using List.find?_some hb
    set e := (c.addFaults faults).setGrp g { (c.addFaults faults).grpOf g with buf := x.buf.filter (fun b => b.stripe != t.toNat) } with he
    have hworked : e.Worked (e.issueStripe g b) g := e.issueStripe_worked g b
    have hholder (m : Nat) : e.holder g t.toNat m = c.holder g t.toNat m :=
      Chip.holder_congr (fun f _ => c.getF_addFaults faults (.grp g) f) _ m
    refine ⟨e.issueStripe g b, ?_, ?_, ?_, ?_, fun m hm f hf ht => ?_⟩
    · rw [exec_of_onMc (f := (·.flushStripe g t.toNat faults)) hup rfl, Chip.flushStripe_found hb]
    · simp only [Chip.issueStripe_mem, he, Chip.setGrp_mem, Chip.mem_addFaults]
    · rw [hworked.buf, he, Chip.grpOf_setGrp_self]
    · rintro rfl
      rfl
    · have hcleared := e.issueStripe_clears g b hm f hf
      rw [hstripe, hholder] at hcleared
      exact hcleared ht
  case promote =>
    rw [exec_of_onChip (f := (·.promote g n)) hup rfl, Chip.promote, hr]
    simp only [hnew, Bool.false_eq_true, if_false]
    rfl
  case refresh => exact exec_of_onChip (f := (·.refreshDue g bank)) hup rfl
  case calNow =>
    rw [exec_of_onChip (f := fun c => c.atUnit (.grp g) R.GRP_CMD_CAL_NOW (fun c => c.calNow g m)) hup rfl, Chip.atUnit,
      if_neg (Bool.eq_false_iff.mp hthere), Chip.calNow_taken hstate hgood]
  case start =>
    refine ⟨_, exec_of_onChip (f := (·.calStart g m)) hup rfl, ?_⟩
    rw [Chip.calStart_starts hstate hidle hfree hnext]
    refine ⟨Chip.session_offline _ m.isLt hstate, by rw [Chip.grpOf_setGrp_self], rfl, ?_⟩
    rw [Chip.setGrp_getF, Chip.getF_setF_of_ne _ _ (fkey_ne_of_lsb (by decide) (by decide) (by decide))]
    exact c.setCal_calibrating g true
  case sessionEnd =>
    rw [exec_of_onMc (f := (·.calEnd g true ns.toNat)) hup rfl, Chip.calEnd_passes hactive hreplay hqueue]
  case replayed =>
    refine ⟨_, exec_of_onChip (f := (·.calReplayDone g)) hup rfl, ?_⟩
    rw [Chip.calReplayDone_returns hactive hreplay]
    refine ⟨Chip.setCal_active _ g false, ?_, Chip.setCal_calibrating _ g false⟩
    show ((c.setGrp g _).grpOf g).log = []
    rw [Chip.grpOf_setGrp_self]

end Sys2Proof.Machine
end

section
/-! SUPPORT and certificates. Failed members and rebuilds (R313-R316): what a declaration records, and how a rebuild starts, passes a stripe and ends. -/

namespace Sys2Proof.Machine

/-! The die's order of rebuilds (R314). -/

/-- QUEUED of one group of die `d`: what a pass of `Chip.markQueued` does. -/
def Chip.markGroup (d : Nat) (c : Chip) (g : Nat) : Chip :=
  c.setB (.grp g) R.GRP_STATE_QUEUED (c.grpState g == 2 && decide (4 ≤ c.rebuilds d + ((upto 32).filter (c.ahead g)).length))

section
variable (c : Chip) (d : Nat)

theorem Chip.markQueued_eq : c.markQueued d = forAll ((upto 8).map (8 * d + ·)) c (Chip.markGroup d) := rfl

theorem Chip.markQueued_keeps {β : Type} (p : Chip → β) (h : ∀ c g, p (Chip.markGroup d c g) = p c) : p (c.markQueued d) = p c := by
  rw [Chip.markQueued_eq]
  exact forAll_keeps p _ c _ h

theorem Chip.getF_markGroup (g : Nat) {b : Blk} {f : Field} (hl : f.lsb < 64) (hne : f.lsb ≠ 14) : (c.markGroup d g).getF b f = c.getF b f :=
  c.getF_setF_of_ne _ (fkey_ne_of_lsb hl (by decide) hne)

theorem Chip.getF_markQueued {b : Blk} {f : Field} (hl : f.lsb < 64) (hne : f.lsb ≠ 14) : (c.markQueued d).getF b f = c.getF b f :=
  c.markQueued_keeps d (·.getF b f) fun c g => c.getF_markGroup d g hl hne

@[simp] theorem Chip.markQueued_mem : (c.markQueued d).mem = c.mem := c.markQueued_keeps d Chip.mem fun _ _ => rfl
@[simp] theorem Chip.markQueued_grpOf (g : Nat) : (c.markQueued d).grpOf g = c.grpOf g := c.markQueued_keeps d (·.grpOf g) fun _ _ => rfl
@[simp] theorem Chip.markQueued_poison : (c.markQueued d).poison = c.poison := c.markQueued_keeps d Chip.poison fun _ _ => rfl

end

theorem fkey_grp_ne {g g' : Nat} (h : g ≠ g') (f : Field) : fkey (.grp g) f ≠ fkey (.grp g') f := by
  simp only [fkey, Blk.base, dieSpan]
  omega

section
variable {c : Chip} {g d : Nat} (hstate : c.grpState g = 2) (hfull : 4 ≤ c.rebuilds d)
include hstate hfull

theorem Chip.markGroup_waits : (c.markGroup d g).on (.grp g) R.GRP_STATE_QUEUED = true := by
  have hcount : 4 ≤ c.rebuilds d + ((upto 32).filter (c.ahead g)).length := Nat.le_add_right_of_le hfull
  rw [Chip.markGroup, hstate, decide_eq_true hcount, Chip.on, Chip.setB, Chip.getF_setF_self]
  rfl

theorem Chip.markGroups_wait (l : List Nat) (h : g ∈ l ∨ c.on (.grp g) R.GRP_STATE_QUEUED = true) :
    (forAll l c (Chip.markGroup d)).on (.grp g) R.GRP_STATE_QUEUED = true := by
  induction l generalizing c with
  | nil => exact h.resolve_left List.not_mem_nil
  | cons a l ih =>
    refine ih ((c.getF_markGroup d a (by decide) (by decide)).trans hstate)
      (hfull.trans_eq (c.getF_markGroup d a (by decide) (by decide)).symm) ?_
    by_cases ha : g = a
    · exact .inr (ha ▸ Chip.markGroup_waits hstate hfull)
    · refine h.imp (fun h => (List.mem_cons.mp h).resolve_left ha) fun h => ?_
      rwa [Chip.on, Chip.markGroup, Chip.setB, Chip.getF_setF_of_ne _ _ (fkey_grp_ne ha _)]

end

/-- A degraded group of a die that runs four rebuilds waits. -/
theorem Chip.markQueued_waits {c : Chip} {g : Nat} (hstate : c.grpState g = 2) (hfull : 4 ≤ c.rebuilds (g / 8)) :
    (c.markQueued (g / 8)).on (.grp g) R.GRP_STATE_QUEUED = true := by
  have hmem : g ∈ (upto 8).map (8 * (g / 8) + ·) := List.mem_map.mpr ⟨g % 8, List.mem_range.mpr (Nat.mod_lt _ (by decide)), Nat.div_add_mod g 8⟩
  rw [Chip.markQueued_eq]
  exact Chip.markGroups_wait hstate hfull _ (.inl hmem)

/-! A member is declared failed (R313). -/

section
variable (c : Chip) (g m : Nat)

theorem Chip.benchAppend_keeps {β : Type} (p : Chip → β) (kind cause pos : Nat) (hfull : p (c.raise .cfg St.CFG_LOG_FULL) = p c)
    (hentry : ∀ b n k, p (({ c with bench := b }).setFs .cfg [(R.CFG_LOG_NEXT_SEQ, n), (R.CFG_LOG_ENTRIES, k)]) = p c) :
    p (c.benchAppend kind cause pos) = p c := by
  unfold Chip.benchAppend
  split
  · rfl
  · split
    · exact hfull
    · exact hentry _ _ _

@[simp] theorem Chip.noteMember_mem : (c.noteMember g m).mem = c.mem := by
  unfold Chip.noteMember
  rw [Chip.benchAppend_keeps _ Chip.mem 2 3 _ rfl fun _ _ _ => rfl]
  simp

@[simp] theorem Chip.noteMember_grpOf (k : Nat) : (c.noteMember g m).grpOf k = c.grpOf k := by
  unfold Chip.noteMember
  rw [Chip.benchAppend_keeps _ (·.grpOf k) 2 3 _ rfl fun _ _ _ => rfl]
  simp

theorem OffTally.noteMember {b : Blk} {f : Field} (h : OffTally g b f) : (c.noteMember g m).getF b f = c.getF b f := by
  have hlog : ∀ n k : Nat, ∀ f' ∈ [(R.CFG_LOG_NEXT_SEQ, n), (R.CFG_LOG_ENTRIES, k)].map Prod.fst, Tally g .cfg f' := fun n k => by
    simp only [List.map_cons, List.map_nil, List.forall_mem_cons]
    exact ⟨.cfg (by decide) (by decide), .cfg (by decide) (by decide), List.forall_mem_nil _⟩
  unfold Chip.noteMember
  rw [Chip.benchAppend_keeps _ (·.getF b f) 2 3 _ (h.raise _ (.cfg (by decide) (by decide)) (.cfg (by decide) (by decide)))
    fun _ n k => h.setFs _ (hlog n k)]
  rw [h.setF _ (.boot _ (by decide) (by decide)), h.setFs _ (tally_memErr g g m 0 3),
    h.raise _ (.mem (by decide) (by decide) (by decide)) (.mem (by decide) (by decide) (by decide))]

end

/-! The group of a failed member (R313, R316). -/

section
variable (c : Chip) (g m rbEnd : Nat)

theorem Chip.getF_grpDegrade (b : Blk) (f : Field) : (c.grpDegrade g m rbEnd).getF b f =
    (c.setFs (.grp g) [(R.GRP_STATE, 2), (R.GRP_STATE_FAILED, m), (R.GRP_STATE_TAKEOVER, 0), (R.GRP_STATE_RB_PTR, 0)]).getF b f := rfl

@[simp] theorem Chip.grpDegrade_mem : (c.grpDegrade g m rbEnd).mem = c.mem := Chip.setFs_mem c _ _

theorem Chip.grpDegrade_queue : ((c.grpDegrade g m rbEnd).grpOf g).queue = (c.grpOf g).queue := by
  show ((Chip.setGrp _ g _).grpOf g).queue = _
  rw [Chip.grpOf_setGrp_self]
  rfl

theorem Chip.grpDegrade_state : (c.grpDegrade g m rbEnd).grpState g = 2 := by
  rw [Chip.grpState, Chip.getF_grpDegrade]
  simp only [Chip.setFs_cons, Chip.setFs_nil]
  rw [Chip.getF_setF_place _ _ _ (by decide), Chip.getF_setF_place _ _ _ (by decide), Chip.getF_setF_place _ _ _ (by decide), Chip.getF_setF_self]
  rfl

theorem Chip.grpDegrade_failed (hm : m < 8) : (c.grpDegrade g m rbEnd).getF (.grp g) R.GRP_STATE_FAILED = m := by
  rw [Chip.getF_grpDegrade]
  simp only [Chip.setFs_cons, Chip.setFs_nil]
  rw [Chip.getF_setF_place _ _ _ (by decide), Chip.getF_setF_place _ _ _ (by decide), Chip.getF_setF_self]
  exact Nat.mod_eq_of_lt hm

theorem Chip.grpDegrade_ptr : (c.grpDegrade g m rbEnd).getF (.grp g) R.GRP_STATE_RB_PTR = 0 := by
  rw [Chip.getF_grpDegrade]
  simp only [Chip.setFs_cons, Chip.setFs_nil, Chip.getF_setF_self, Nat.zero_mod]

theorem Chip.grpDegrade_rebuilds (d : Nat) : (c.grpDegrade g m rbEnd).rebuilds d = c.rebuilds d := by
  have hne {f : Field} (hl : f.lsb < 64) (h : R.MEM_STATE_REBUILDS.lsb ≠ f.lsb) : fkey (.mem d) R.MEM_STATE_REBUILDS ≠ fkey (.grp g) f :=
    fkey_ne_of_lsb (by decide) hl h
  rw [Chip.rebuilds, Chip.getF_grpDegrade, Chip.getF_setFs_of_fields]
  · rfl
  · simp only [List.map_cons, List.map_nil, List.forall_mem_cons]
    exact ⟨hne (by decide) (by decide), hne (by decide) (by decide), hne (by decide) (by decide), hne (by decide) (by decide), List.forall_mem_nil _⟩

end

/-- A member of a normal group without a session fails: the group is degraded, and what it held is served. -/
theorem Chip.memberFail_normal {c : Chip} {g : Nat} (m : Nat) (recalled : Bool) (hstate : c.grpState g = 1)
    (hidle : c.on (.grp g) R.GRP_STATE_CAL_ACTIVE = false) :
    c.memberFail g m recalled = (((c.noteMember g m).grpDegrade g m groupStripes).markQueued (g / 8)).serveAll g := by
  have hidle' : (c.noteMember g m).on (.grp g) R.GRP_STATE_CAL_ACTIVE = false := by
    rwa [Chip.on, OffTally.noteMember c g m (offTally_grp g (by decide) (by decide))]
  have hstate' : (c.noteMember g m).grpState g = 1 := by
    rwa [Chip.grpState, OffTally.noteMember c g m (offTally_grp g (by decide) (by decide))]
  have hend : (c.noteMember g m).endSession g = c.noteMember g m := if_neg (Bool.eq_false_iff.mp hidle')
  have hout : (c.noteMember g m).memberOut g m = (c.noteMember g m).grpDegrade g m groupStripes := by
    simp only [Chip.memberOut, hstate']
  simp [Chip.memberFail, hstate, hidle, hend, hout]

/-- MEMBER_FAIL by checks asks for FAIL_LIMIT of them; then, as on no response, the member has failed and its count starts again. -/
theorem Chip.memberFailBy_reached {c : Chip} {g m : Nat} {checks : Bool}
    (h : checks = true → c.getF (.mem (g / 8)) R.MEM_CTRL_FAIL_LIMIT ≤ (c.grpOf g).fails.getD m 0) (recalled : Bool) :
    c.memberFailBy g m checks recalled = (c.memberFail g m recalled).setGrp g
      { (c.memberFail g m recalled).grpOf g with fails := ((c.memberFail g m recalled).grpOf g).fails.set m 0 } := by
  have hreached : ¬((checks && decide ((c.grpOf g).fails.getD m 0 < c.getF (.mem (g / 8)) R.MEM_CTRL_FAIL_LIMIT)) = true) := by
    rw [Bool.and_eq_true, decide_eq_true_eq, not_and, not_lt]
    exact h
  exact if_neg hreached

/-! Lost stripes (R317). -/

theorem Chip.raise_poison (c : Chip) (b : Blk) (st : Status) : (c.raise b st).poison = c.poison := rfl
theorem Chip.setFs_poison (c : Chip) (b : Blk) (l : List (Field × Nat)) : (c.setFs b l).poison = c.poison :=
  forAll_keeps Chip.poison l c (fun c e => c.setF b e.1 e.2) fun _ _ => rfl
theorem Chip.loseStripe_poison (c : Chip) (g m t : Nat) : (c.loseStripe g m t).poison = (g, t, t) :: c.poison := by
  rw [Chip.loseStripe, Chip.reportLoss, Chip.raise_poison, Chip.setFs_poison]

/-- A mark of a loss covers stripe `t` of group `g`. -/
def Marked (p : List (Nat × Nat × Nat)) (g t : Nat) : Prop := ∃ r ∈ p, r.1 = g ∧ r.2.1 ≤ t ∧ t ≤ r.2.2

theorem Chip.stripeLost_iff (c : Chip) (g t : Nat) : c.stripeLost g t = true ↔ c.grpState g = 5 ∨ Marked c.poison g t := by
  simp [Chip.stripeLost, Marked, and_assoc]

/-! Rebuilds (R314, R315). -/

theorem Chip.rebuildStart_starts {c : Chip} {g : Nat} (hstate : c.grpState g = 2) (hfree : c.rebuilds (g / 8) < 4)
    (hturn : c.rebuildTurn (g / 8) = some g) (trained : Bool) : c.rebuildStart g trained =
      ((c.setFs (.grp g) [(R.GRP_STATE, 3), (R.GRP_STATE_TAKEOVER, b2n !trained), (R.GRP_STATE_RB_PTR, 0)]).addF
        (.mem (g / 8)) R.MEM_STATE_REBUILDS 1).markQueued (g / 8) := by
  simp [Chip.rebuildStart, hstate, hturn, Nat.not_le.mpr hfree]

section
variable (c : Chip) (g : Nat)

/-- The stripe at which a rebuild stands once the rebuild has been there: written where the other accesses are good, else lost. -/
def Chip.rebuiltStripe : Chip :=
  let ptr := c.getF (.grp g) R.GRP_STATE_RB_PTR
  let f := c.getF (.grp g) R.GRP_STATE_FAILED
  let bad := (c.others g ptr f).2
  if c.stripeLost g ptr then c
  else if bad.isEmpty then c.clearFault g ptr (if c.on (.grp g) R.GRP_STATE_TAKEOVER then 7 else f)
  else (forAll bad c (fun c i => c.noteFail g i)).loseStripe g (bad.headD f) ptr

/-- A rebuild that has passed the last stripe has ended: in place, or as a takeover. -/
def Chip.rebuildEnded (take : Bool) : Chip :=
  (((c.stopRebuild g).setFs (.grp g) [(R.GRP_STATE, if take then 4 else 1), (R.GRP_STATE_RB_PTR, 0), (R.GRP_STATE_TAKEOVER, b2n take)]).markQueued
    (g / 8)).raise (.mem (g / 8)) St.MEM_REBUILD_DONE

theorem Chip.rebuiltStripe_worked : c.Worked (c.rebuiltStripe g) g := by
  unfold Chip.rebuiltStripe
  dsimp only
  split; · exact .refl c g
  split
  · exact c.clearFault_worked _ _ _
  · exact (c.noteFails_worked g _).trans (Chip.loseStripe_worked _ _ _ _)

theorem Chip.rebuiltStripe_mem : (c.rebuiltStripe g).mem = c.mem := by
  unfold Chip.rebuiltStripe
  dsimp only
  split; · rfl
  split
  · rfl
  · rw [Chip.loseStripe_mem, Chip.noteFails_mem]

theorem Chip.stopRebuild_keeps {β : Type} (p : Chip → β) (h : ∀ v, p (c.setF (.mem (g / 8)) R.MEM_STATE_REBUILDS v) = p c) :
    p (c.stopRebuild g) = p c := by
  unfold Chip.stopRebuild
  split
  · exact h _
  · rfl

theorem Chip.rebuildEnded_mem (take : Bool) : (c.rebuildEnded g take).mem = c.mem := by
  rw [Chip.rebuildEnded, Chip.raise_mem, Chip.markQueued_mem, Chip.setFs_mem, c.stopRebuild_keeps g Chip.mem fun _ => rfl]

theorem Chip.rebuildEnded_poison (take : Bool) : (c.rebuildEnded g take).poison = c.poison := by
  rw [Chip.rebuildEnded, Chip.raise_poison, Chip.markQueued_poison, Chip.setFs_poison, c.stopRebuild_keeps g Chip.poison fun _ => rfl]

theorem Chip.rebuildEnded_state (take : Bool) : (c.rebuildEnded g take).grpState g = if take then 4 else 1 := by
  have hoff : OffTally g (.grp g) R.GRP_STATE := offTally_grp g (by decide) (by decide)
  rw [Chip.grpState, Chip.rebuildEnded, hoff.raise _ (.mem (by decide) (by decide) (by decide)) (.mem (by decide) (by decide) (by decide)),
    Chip.getF_markQueued _ _ (by decide) (by decide)]
  simp only [Chip.setFs_cons, Chip.setFs_nil]
  rw [Chip.getF_setF_place _ _ _ (by decide), Chip.getF_setF_place _ _ _ (by decide), Chip.getF_setF_self]
  cases take <;> rfl

theorem Chip.rebuildEnded_done (take : Bool) : (c.rebuildEnded g take).on (.mem (g / 8)) St.MEM_REBUILD_DONE.flag = true := by
  rw [Chip.on, Chip.rebuildEnded, Chip.getF_raise_flag _ rfl (fkey_ne_of_place _ (by decide))]
  rfl

end

/-- A stripe of which another access fails is lost once the rebuild has been there. -/
theorem Chip.rebuiltStripe_marks {c : Chip} {g : Nat} (hstate : c.grpState g = 3)
    (hbad : (c.others g (c.getF (.grp g) R.GRP_STATE_RB_PTR) (c.getF (.grp g) R.GRP_STATE_FAILED)).2 ≠ []) :
    Marked (c.rebuiltStripe g).poison g (c.getF (.grp g) R.GRP_STATE_RB_PTR) := by
  unfold Chip.rebuiltStripe
  dsimp only
  split
  case isTrue hlost => exact ((c.stripeLost_iff _ _).mp hlost).resolve_left (by omega)
  case isFalse =>
    rw [if_neg (by simpa using hbad), Chip.loseStripe_poison]
    exact ⟨_, List.mem_cons_self, rfl, le_rfl, le_rfl⟩

/-! The rebuild at one stripe (R314, R315). -/

section
variable (c : Chip) (g : Nat) (back : ReadBack) (faults : List AccFault)

theorem Chip.grpHeld_addFaults : (c.addFaults faults).grpHeld g = c.grpHeld g := by
  rw [Chip.grpHeld, Chip.grpHeld, c.grpOf_addFaults faults Group.replay (fun _ _ => rfl) g, Chip.on, Chip.on, Chip.grpState, Chip.grpState]
  simp only [Chip.getF_addFaults]

/-- The errors come in first; past the checks the rebuild starts again as a takeover, or passes the stripe. -/
theorem Chip.rebuildStripe_eq : c.rebuildStripe g back faults =
    let c := c.addFaults faults
    if c.grpState g != 3 || c.grpHeld g then c
    else if back = .exhausted && !c.on (.grp g) R.GRP_STATE_TAKEOVER then
      (c.setFs (.grp g) [(R.GRP_STATE_TAKEOVER, 1), (R.GRP_STATE_RB_PTR, 0)]).raise (.mem (g / 8)) St.MEM_REBUILD_RESTART
    else if c.getF (.grp g) R.GRP_STATE_RB_PTR + 1 < ((c.rebuiltStripe g).grpOf g).rbEnd then
      (c.rebuiltStripe g).setF (.grp g) R.GRP_STATE_RB_PTR (c.getF (.grp g) R.GRP_STATE_RB_PTR + 1)
    else (c.rebuiltStripe g).rebuildEnded g (c.on (.grp g) R.GRP_STATE_TAKEOVER) := by
  have hon : c.on (.grp g) R.GRP_STATE_TAKEOVER = (c.addFaults faults).on (.grp g) R.GRP_STATE_TAKEOVER := by rw [Chip.on, Chip.on, Chip.getF_addFaults]
  unfold Chip.rebuildStripe
  rw [hon, ← c.getF_addFaults faults (.grp g) R.GRP_STATE_RB_PTR, ← c.getF_addFaults faults (.grp g) R.GRP_STATE_FAILED]
  rfl

end

section
variable {c : Chip} {g : Nat} (faults : List AccFault) (hstate : c.grpState g = 3) (hheld : c.grpHeld g = false)
include hstate hheld

theorem Chip.rebuildStripe_restarts (htake : (c.addFaults faults).on (.grp g) R.GRP_STATE_TAKEOVER = false) : c.rebuildStripe g .exhausted faults =
    ((c.addFaults faults).setFs (.grp g) [(R.GRP_STATE_TAKEOVER, 1), (R.GRP_STATE_RB_PTR, 0)]).raise (.mem (g / 8)) St.MEM_REBUILD_RESTART := by
  have hstate' : (c.addFaults faults).grpState g = 3 := (c.getF_addFaults faults _ _).trans hstate
  simp [Chip.rebuildStripe_eq, hstate', Chip.grpHeld_addFaults, hheld, htake]

theorem Chip.rebuildStripe_passes {back : ReadBack} (h : back ≠ .exhausted ∨ (c.addFaults faults).on (.grp g) R.GRP_STATE_TAKEOVER = true) :
    c.rebuildStripe g back faults =
    let c' := c.addFaults faults
    if c'.getF (.grp g) R.GRP_STATE_RB_PTR + 1 < (c.grpOf g).rbEnd then
      (c'.rebuiltStripe g).setF (.grp g) R.GRP_STATE_RB_PTR (c'.getF (.grp g) R.GRP_STATE_RB_PTR + 1)
    else (c'.rebuiltStripe g).rebuildEnded g (c'.on (.grp g) R.GRP_STATE_TAKEOVER) := by
  have hstate' : (c.addFaults faults).grpState g = 3 := (c.getF_addFaults faults _ _).trans hstate
  have hgo : (back = .exhausted && !(c.addFaults faults).on (.grp g) R.GRP_STATE_TAKEOVER) = false := by
    obtain h | h := h <;> simp [h]
  have hend : (((c.addFaults faults).rebuiltStripe g).grpOf g).rbEnd = (c.grpOf g).rbEnd :=
    ((c.addFaults faults).rebuiltStripe_worked g).rbEnd.trans (c.grpOf_addFaults faults Group.rbEnd (fun _ _ => rfl) g)
  rw [Chip.rebuildStripe_eq, ← hend]
  simp only [hstate', Chip.grpHeld_addFaults, hheld, hgo, bne_self_eq_false, Bool.or_self, Bool.false_eq_true, if_false]

end

/-- Settles O42: a failure is followed to the degraded group and what it leaves of the registers; a rebuild, from its turn through the stripe at which it
stands to its end. -/
theorem failuresDegradeAndRebuild : Obligations.FailuresDegradeAndRebuild := by
  unfold Obligations.FailuresDegradeAndRebuild
  intro s g hup c x
  refine ⟨fun m recalled hstate hidle => ?failure, fun trained hstate hfree hturn => ?start, fun back faults hstate hheld => ?stripe⟩
  case failure =>
    intro d e
    have hfail : c.memberFail g m recalled = e := Chip.memberFail_normal m recalled hstate hidle
    have hdstate : d.grpState g = 2 := (Chip.getF_markQueued _ _ (by decide) (by decide)).trans (Chip.grpDegrade_state _ _ _ _)
    have hdfailed : d.getF (.grp g) R.GRP_STATE_FAILED = m :=
      (Chip.getF_markQueued _ _ (by decide) (by decide)).trans (Chip.grpDegrade_failed _ _ _ _ m.isLt)
    refine ⟨fun hthere => ?_, fun checks hlimit => ?_, fun hqueue => ?_, fun hfull => ?_, hdstate, hdfailed, ?_, ?_, fun t => ?_⟩
    · rw [exec_of_onMc (f := fun c => c.atUnit (.grp g) R.GRP_CMD_FAIL (fun c => c.memberFail g m recalled)) hup rfl, Chip.atUnit,
        if_neg (Bool.eq_false_iff.mp hthere), hfail]
    · rw [exec_of_onMc (f := (·.memberFailBy g m checks recalled)) hup rfl, Chip.memberFailBy_reached hlimit, hfail]
    · refine Chip.serveAll_nothing ?_
      rw [Chip.markQueued_grpOf, Chip.grpDegrade_queue, Chip.noteMember_grpOf]
      exact hqueue
    · refine Chip.markQueued_waits (Chip.grpDegrade_state _ _ _ _) ?_
      rw [Chip.grpDegrade_rebuilds, Chip.rebuilds, OffTally.noteMember c g m (offTally_mem g (by decide) (by decide))]
      exact hfull
    · exact (Chip.getF_markQueued _ _ (by decide) (by decide)).trans (Chip.grpDegrade_ptr _ _ _ _)
    · rw [Chip.markQueued_mem, Chip.grpDegrade_mem, Chip.noteMember_mem]
    · simp only [Chip.missing, hdstate, hdfailed]
  case start => rw [exec_of_onChip (f := (·.rebuildStart g trained)) hup rfl, Chip.rebuildStart_starts hstate hfree hturn]
  case stripe =>
    intro c' ptr take
    have hexec : exec (.rebuildStripe g back faults) s = s.goes (c.rebuildStripe g back faults).after :=
      exec_of_onMc (f := (·.rebuildStripe g back faults)) hup rfl
    have hstate' : c'.grpState g = 3 := (c.getF_addFaults faults _ _).trans hstate
    refine ⟨?restart, fun hgo => ?pass⟩
    case restart =>
      rintro rfl htake
      rw [hexec, Chip.rebuildStripe_restarts faults hstate hheld htake]
    case pass =>
      intro f
      have hpass : c.rebuildStripe g back faults = if ptr + 1 < x.rbEnd then (c'.rebuiltStripe g).setF (.grp g) R.GRP_STATE_RB_PTR (ptr + 1)
          else (c'.rebuiltStripe g).rebuildEnded g take := Chip.rebuildStripe_passes faults hstate hheld hgo
      rw [hexec, hpass]
      refine ⟨fun hmore hgood => ?next, fun hbad => ⟨_, rfl, ?lost⟩, fun hlast => ⟨_, rfl, ?ended⟩⟩
      case next =>
        have hstripe : c'.rebuiltStripe g = if c'.stripeLost g ptr then c' else c'.clearFault g ptr (if take then 7 else f) := by
          rw [Chip.rebuiltStripe, hgood, List.isEmpty_nil, if_pos rfl]
        rw [if_pos hmore, hstripe]
      case lost =>
        have hmarked : Marked (c'.rebuiltStripe g).poison g ptr := Chip.rebuiltStripe_marks hstate' hbad
        refine (Chip.stripeLost_iff _ _ _).mpr (.inr ?_)
        split
        · exact hmarked
        · rwa [Chip.rebuildEnded_poison]
      case ended =>
        rw [if_neg (Nat.not_lt.mpr hlast)]
        refine ⟨Chip.rebuildEnded_state _ _ _, Chip.rebuildEnded_done _ _ _, ?_⟩
        rw [Chip.rebuildEnded_mem, Chip.rebuiltStripe_mem, Chip.mem_addFaults]

end Sys2Proof.Machine
end

section
/-! SUPPORT. What the one-time-programmable array turns into (R438, R441-R446): every operation that burns lets it grow. -/

namespace Sys2Proof.Machine

/-! Growing is an order. -/

theorem OwnerSlot.grows_refl (x : OwnerSlot) : x.grows x := by
  cases x <;> simp [OwnerSlot.grows]

theorem OwnerSlot.grows_trans {x y z : OwnerSlot} (hxy : x.grows y) (hyz : y.grows z) : x.grows z := by
  cases x with
  | blank => trivial
  | enrolled k =>
    cases y with
    | blank => exact hxy.elim
    | enrolled k' => rwa [show k' = k from hxy] at hyz
    | revoked k' => rw [show z = .revoked k' from hyz]; exact hxy
    | torn => rw [show z = .torn from hyz]; trivial
  | revoked k => rw [show y = .revoked k from hxy] at hyz; exact hyz
  | torn => rw [show y = .torn from hxy] at hyz; exact hyz

theorem Otp.grows_refl (o : Otp) : o.grows o := by
  refine ⟨rfl, rfl, fun _ h => h, fun _ h => h, rfl, fun i x y hx hy => ?_⟩
  rw [hx] at hy
  exact Option.some.inj hy ▸ x.grows_refl

theorem Otp.grows_trans {a b d : Otp} (hab : a.grows b) (hbd : b.grows d) : a.grows d := by
  obtain ⟨hfuse, hkey, hsvn, hblocks, hlen, hslot⟩ := hab
  obtain ⟨hfuse', hkey', hsvn', hblocks', hlen', hslot'⟩ := hbd
  refine ⟨hfuse'.trans hfuse, hkey'.trans hkey, fun i h => hsvn' i (hsvn i h), fun i h => hblocks' i (hblocks i h), hlen'.trans hlen,
    fun i x y hx hy => ?_⟩
  have hi : i < b.owners.length := hlen ▸ (List.getElem?_eq_some_iff.mp hx).1
  have hz : b.owners[i]? = some b.owners[i] := List.getElem?_eq_getElem hi
  exact OwnerSlot.grows_trans (hslot i x _ hx hz) (hslot' i _ y hz hy)

/-! The single burns. -/

theorem testBit_or_of_left {a b i : Nat} (h : a.testBit i = true) : (a ||| b).testBit i = true := by
  rw [Nat.testBit_or, h, Bool.true_or]

/-- A block's bit that is burnt, cleanly or not, adds to the spent blocks. -/
theorem Otp.grows_blocks (o : Otp) {blocks unclean : Nat}
    (h : ∀ i : Nat, (o.blocks ||| o.unclean).testBit i = true → (blocks ||| unclean).testBit i = true) :
    o.grows { o with blocks := blocks, unclean := unclean } :=
  have hsame := o.grows_refl
  ⟨rfl, rfl, fun _ hi => hi, h, rfl, hsame.2.2.2.2.2⟩

theorem Otp.grows_svn (o : Otp) {v : Nat} (h : ∀ i : Nat, o.svn.testBit i = true → v.testBit i = true) : o.grows { o with svn := v } :=
  have hsame := o.grows_refl
  ⟨rfl, rfl, h, fun _ hi => hi, rfl, hsame.2.2.2.2.2⟩

/-- A slot that is burnt goes on from what it held. -/
theorem Otp.grows_owner (o : Otp) {slot : Nat} {v : OwnerSlot} (h : ∀ x, o.owners[slot]? = some x → x.grows v) :
    o.grows { o with owners := o.owners.set slot v } := by
  refine ⟨rfl, rfl, fun _ hi => hi, fun _ hi => hi, List.length_set, fun i x y hx hy => ?_⟩
  rw [List.getElem?_set] at hy
  split at hy
  case isTrue hi =>
    subst hi
    rw [if_pos (List.getElem?_eq_some_iff.mp hx).1] at hy
    exact Option.some.inj hy ▸ h x hx
  case isFalse => exact Option.some.inj (hx.symm.trans hy) ▸ x.grows_refl

/-- Bits burnt upward leave the burnt ones burnt (R441). -/
theorem burnUp_keeps {v n i : Nat} (h : v.testBit i = true) : (burnUp v n).testBit i = true := by
  unfold burnUp
  generalize (((upto 255).filter (fun b => !bit v b)).take n) = l
  induction l generalizing v with
  | nil => exact h
  | cons b l ih => exact ih (testBit_or_of_left h)

/-! Leaf blocks (R446). -/

/-- One unfolding of `reserve`, through its recursor: unfolding by its equations evaluates the search of 4,096 bits. -/
theorem Otp.reserve_eq (o : Otp) (torn : Nat) : o.reserve torn = Otp.reserve._f torn (Nat.brecOn.go torn Otp.reserve._f).2 o := by
  delta Otp.reserve
  rw [Nat.brecOn.eq]

theorem Otp.reserve_full {o : Otp} (torn : Nat) (hb : o.freeBlock = none) : o.reserve torn = (o, none, 0) := by
  rw [Otp.reserve_eq]
  cases torn <;> (with_reducible dsimp only [Otp.reserve._f]; rw [hb])

theorem Otp.reserve_clean {o : Otp} {b : Nat} (hb : o.freeBlock = some b) : o.reserve 0 = ({ o with blocks := o.blocks ||| 2 ^ b }, some b, 0) := by
  rw [Otp.reserve_eq]
  with_reducible dsimp only [Otp.reserve._f]
  rw [hb]

theorem Otp.reserve_torn {o : Otp} {b : Nat} (torn : Nat) (hb : o.freeBlock = some b) :
    (o.reserve (torn + 1)).1 = (({ o with unclean := o.unclean ||| 2 ^ b } : Otp).reserve torn).1 := by
  rw [Otp.reserve_eq]
  with_reducible dsimp only [Otp.reserve._f]
  rw [hb]
  dsimp only
  delta Otp.reserve Nat.brecOn Nat.brecOn.go
  with_reducible rfl

theorem Otp.reserve_grows (torn : Nat) (o : Otp) : o.grows (o.reserve torn).1 := by
  induction torn generalizing o with
  | zero =>
    cases hb : o.freeBlock with
    | none => rw [Otp.reserve_full 0 hb]; exact o.grows_refl
    | some b =>
      rw [Otp.reserve_clean hb]
      refine o.grows_blocks fun i hi => ?_
      rw [Nat.testBit_or, Bool.or_eq_true] at hi ⊢
      exact hi.imp_left testBit_or_of_left
  | succ torn ih =>
    cases hb : o.freeBlock with
    | none => rw [Otp.reserve_full _ hb]; exact o.grows_refl
    | some b =>
      rw [Otp.reserve_torn torn hb]
      refine Otp.grows_trans (o.grows_blocks fun i hi => ?_) (ih _)
      rw [Nat.testBit_or, Bool.or_eq_true] at hi ⊢
      exact hi.imp_right testBit_or_of_left

/-- A report that starts reserves a block or burns nothing. -/
theorem Chip.reportStart_otp (c : Chip) (o : Otp) (r : AttReq) (torn : Nat) (tree : Bool) :
    (c.reportStart o r torn tree).2.1 = o ∨ (c.reportStart o r torn tree).2.1 = (o.reserve torn).1 := by
  unfold Chip.reportStart
  dsimp only
  split_ifs
  iterate 5 exact .inl rfl
  all_goals split <;> exact .inr rfl

theorem Chip.reportStart_grows (c : Chip) (o : Otp) (r : AttReq) (torn : Nat) (tree : Bool) : o.grows (c.reportStart o r torn tree).2.1 := by
  rcases c.reportStart_otp o r torn tree with h | h
  · rw [h]; exact o.grows_refl
  · rw [h]; exact o.reserve_grows torn

/-- Serving the queue grows the array report by report. -/
theorem Chip.islandServe_grows (fuel : Nat) (c : Chip) (o : Otp) (torn : Nat) (tree : Bool) : o.grows (c.islandServe o torn tree fuel).2 := by
  induction fuel generalizing c o with
  | zero => exact o.grows_refl
  | succ fuel ih =>
    unfold Chip.islandServe
    split
    case isTrue => exact o.grows_refl
    case isFalse =>
      split
      case h_1 => exact o.grows_refl
      case h_2 r l hq =>
        split_ifs
        · exact o.grows_refl
        · exact ih _ _
        · have hstart := c.reportStart_grows o r torn tree
          dsimp only
          split
          · exact Otp.grows_trans hstart (ih _ _)
          · exact hstart

theorem Chip.attReq_grows (c : Chip) (o : Otp) (via : Option Nat) (nonce : List Byte) (kind torn : Nat) (tree : Bool) :
    o.grows (c.attReq o via nonce kind torn tree).2 := Chip.islandServe_grows _ _ _ _ _

theorem Chip.attDone_grows (c : Chip) (o : Otp) (us torn : Nat) (tree : Bool) : o.grows (c.attDone o us torn tree).2 := by
  unfold Chip.attDone
  split
  case h_1 => exact o.grows_refl
  case h_2 r l hq =>
    split
    · exact o.grows_refl
    · exact Chip.islandServe_grows _ _ _ _ _

/-! Owner slots and the SVN floor (R441, R442). -/

theorem Chip.slotBurnt_grows (c : Chip) (o : Otp) {slot : Nat} {v : OwnerSlot} (clean : Bool)
    (h : ∀ x, o.owners[slot]? = some x → x.grows v ∧ x.grows .torn) : o.grows (c.slotBurnt o slot v clean).2 := by
  refine o.grows_owner fun x hx => ?_
  cases clean with
  | true => exact (h x hx).1
  | false => exact (h x hx).2

theorem Chip.enroll_grows (c : Chip) (o : Otp) (slot : Nat) (key sig : List Byte) (clean : Bool) : o.grows (c.enroll o slot key sig clean).2 := by
  unfold Chip.enroll
  extract_lets serial ok
  split
  case isTrue hok =>
    refine c.slotBurnt_grows o clean fun x hx => ?_
    rw [Bool.and_eq_true, hx, beq_iff_eq, Option.some.injEq] at hok
    rw [hok.1]
    exact ⟨trivial, trivial⟩
  case isFalse => exact o.grows_refl

/-- A usable slot is one that holds an enrolled key. -/
theorem Otp.mem_usable {o : Otp} {e : Nat × List Byte} : e ∈ o.usable ↔ o.owners[e.1]? = some (.enrolled e.2) := by
  unfold Otp.usable
  rw [List.mem_filterMap]
  constructor
  · rintro ⟨⟨x, i⟩, hmem, hkey⟩
    cases x with
    | enrolled k =>
      cases hkey
      exact List.mem_zipIdx_iff_getElem?.mp hmem
    | blank | revoked | torn => cases hkey
  · intro h
    exact ⟨(.enrolled e.2, e.1), List.mem_zipIdx_iff_getElem?.mpr h, rfl⟩

theorem Chip.revoke_grows (c : Chip) (o : Otp) (slot signer : Nat) (sig : List Byte) (clean : Bool) :
    o.grows (c.revoke o slot signer sig clean).2 := by
  unfold Chip.revoke
  dsimp only
  split
  case h_1 e s he hs =>
    split
    case isTrue =>
      refine c.slotBurnt_grows o clean fun x hx => ?_
      have hslot : e.1 = slot := by simpa using List.find?_some he
      have hheld := Otp.mem_usable.mp (List.mem_of_find?_eq_some he)
      rw [hslot, hx, Option.some.injEq] at hheld
      rw [hheld]
      exact ⟨rfl, trivial⟩
    case isFalse => exact o.grows_refl
  case h_2 => exact o.grows_refl

theorem Chip.ownerCmd_grows (c : Chip) (o : Otp) (x : OwnerCmd) : o.grows (c.ownerCmd o x).2 := by
  unfold Chip.ownerCmd
  split_ifs
  · exact o.grows_refl
  · exact o.grows_refl
  · cases x with
    | enroll slot key sig clean => exact c.enroll_grows o _ _ _ _
    | revoke slot signer sig clean => exact c.revoke_grows o _ _ _ _

theorem Chip.ownerReq_grows (c : Chip) (o : Otp) (via : Option Nat) (x : OwnerCmd) : o.grows (c.ownerReq o via x).2 := by
  cases via with
  | some p => exact o.grows_refl
  | none =>
    unfold Chip.ownerReq
    dsimp only
    split
    · exact c.ownerCmd_grows o x
    · exact o.grows_refl

/-- The commands that have waited grow the array one after another. -/
theorem ownerCmds_grow (l : List OwnerCmd) (x : Chip × Otp) : x.2.grows (l.foldl (fun x w => x.1.ownerCmd x.2 w) x).2 := by
  induction l generalizing x with
  | nil => exact x.2.grows_refl
  | cons w l ih => exact Otp.grows_trans (x.1.ownerCmd_grows x.2 w) (ih _)

theorem Chip.ownerPoll_grows (c : Chip) (o : Otp) : o.grows (c.ownerPoll o).2 := by
  unfold Chip.ownerPoll
  split
  · exact o.grows_refl
  · exact ownerCmds_grow _ _

theorem Chip.svnCommit_grows (c : Chip) (o : Otp) (via : Option Nat) (clean : Bool) : o.grows (c.svnCommit o via clean).2 := by
  cases via with
  | some p => exact o.grows_refl
  | none =>
    unfold Chip.svnCommit
    dsimp only
    split_ifs
    iterate 5 exact o.grows_refl
    exact o.grows_svn fun i => burnUp_keeps

theorem Chip.bringUpNext_grows (c : Chip) (o : Otp) (us : Nat) (found : StageFindings) (torn : Nat) (tree : Bool) :
    o.grows (c.bringUpNext o us found torn tree).2 :=
  Otp.grows_trans ((c.bringUp o us found).ownerPoll_grows o) (Chip.islandServe_grows _ _ _ _ _)

end Sys2Proof.Machine
end

section
/-! SUPPORT and certificates. How commands answer: which part of the state each may touch, and when the machine stops (R456, R490). -/

namespace Sys2Proof.Machine

/-! The ways in which a command answers. -/

/-- Outcome `r` is an answer that command `i` can give in state `s`: a change of the chip once power-on reset has been released, one at once for power,
pins and test access, one that lets the array grow, or a stop beyond the absolute limits. -/
inductive Answers (i : Instr) (s : State) : Host.Outcome State Fault Refusal → Prop where
  | chip (c : Chip) : Answers i s (.next (if s.chip.por then s else { s with chip := c }))
  | pins (c : Chip) (h : underReset i = true) : Answers i s (.next { s with chip := c })
  | otp (c : Chip) (o : Otp) (h : mayBurn i = true) (hg : s.otp.grows o) :
    Answers i s (.next (if s.chip.por then s else { s with chip := c, otp := o }))
  | overvoltage (v : BitVec 16) (hi : i = .vinOvervoltage v) (hv : 7000 < v.toNat) : Answers i s (.fault .beyondAbsoluteLimits)
  | hot (us : BitVec 64) (r : SensorReading) (hi : i = .sensorRefresh us r) (hr : tooHot r = true) : Answers i s (.fault .beyondAbsoluteLimits)

/-- Every command answers in one of these ways. -/
theorem exec_answers (i : Instr) (s : State) : Answers i s (exec i s) := by
  cases i with
  | vinOvervoltage v =>
    change Answers _ s (if 7000 < v.toNat then _ else _)
    split
    case isTrue hv => exact .overvoltage v rfl hv
    case isFalse => exact .pins _ rfl
  | sensorRefresh us r =>
    change Answers _ s (if tooHot r then _ else _)
    split
    case isTrue hr => exact .hot us r rfl hr
    case isFalse => exact .chip _
  | perstRelease | perstAssert | powerOnResetRelease | flashReqAssert | flashReqDeassert | modEnRise | inputValid | modEnFall | vinUndervoltage
    | inputOvercurrent | ref100Loss | ref25Loss | vinOvervoltageReclose | bypass | idcode | samplePreload | extest | trstAssert => exact .pins _ rfl
  | attReq => exact .otp _ _ rfl (Chip.attReq_grows ..)
  | attSignatureDone => exact .otp _ _ rfl (Chip.attDone_grows ..)
  | ownerEnroll | ownerRevoke => exact .otp _ _ rfl (Chip.ownerReq_grows ..)
  | svnCommit => exact .otp _ _ rfl (Chip.svnCommit_grows ..)
  | bringUpStage => exact .otp _ _ rfl (Chip.bringUpNext_grows ..)
  | _ => exact .chip _

/-- Whatever command runs, the array grows. -/
theorem exec_grows {i : Instr} {s t : State} (ht : exec i s = .next t) : s.otp.grows t.otp := by
  have hans := exec_answers i s
  rw [ht] at hans
  cases hans with
  | chip c => split <;> exact s.otp.grows_refl
  | pins c => exact s.otp.grows_refl
  | otp c o h hg =>
    split
    · exact s.otp.grows_refl
    · exact hg

/-! The statements. -/

/-- Settles O1: with a command in front, and with none, the step is the matching branch. -/
theorem stepRunsTheCommandInFront : Obligations.StepRunsTheCommandInFront := by
  unfold Obligations.StepRunsTheCommandInFront
  exact ⟨fun _ _ _ => rfl, fun s hq => by rw [step, hq]⟩

/-- Settles O2: no way of answering touches the queue. -/
theorem execKeepsTheQueue : Obligations.ExecKeepsTheQueue := by
  unfold Obligations.ExecKeepsTheQueue
  intro i s t ht
  have hans := exec_answers i s
  rw [ht] at hans
  cases hans with
  | chip c | otp c o => split <;> rfl
  | pins c => rfl

/-- Settles O3: while reset holds, only a command of power, pins or test access answers with another state. -/
theorem nothingActsWhileResetHolds : Obligations.NothingActsWhileResetHolds := by
  unfold Obligations.NothingActsWhileResetHolds
  intro i s hpor hi hcool
  have hans := exec_answers i s
  generalize exec i s = r at hans
  cases hans with
  | chip c | otp c o => rw [if_pos hpor]
  | pins c h => exact absurd h (Bool.eq_false_iff.mp hi)
  | overvoltage v hv => subst hv; cases hi
  | hot us r hr hhot => exact absurd hhot (Bool.eq_false_iff.mp (hcool us r hr))

/-- Settles O5: an answer that burns is one of the six commands' own. -/
theorem onlySixCommandsBurn : Obligations.OnlySixCommandsBurn := by
  unfold Obligations.OnlySixCommandsBurn
  intro i s t hi ht
  have hans := exec_answers i s
  rw [ht] at hans
  cases hans with
  | chip c => split <;> rfl
  | pins c => rfl
  | otp c o h hg => exact absurd h (Bool.eq_false_iff.mp hi)

/-- Settles O4: a step lets its command's answer grow the array or leaves it, and growing is transitive. -/
theorem burntBitsStayBurnt : Obligations.BurntBitsStayBurnt := by
  unfold Obligations.BurntBitsStayBurnt
  intro o s t ho ht
  obtain ⟨hfront, hnone⟩ := stepRunsTheCommandInFront
  cases hq : s.pending with
  | nil =>
    have hnext := (hnone s hq).symm.trans ht
    rw [← Host.Outcome.next.inj hnext]
    exact ho
  | cons i rest =>
    have hfront := hfront i s rest
    rw [← hq] at hfront
    exact Otp.grows_trans ho (exec_grows (s := { s with pending := rest }) (hfront.symm.trans ht))

/-- Settles O6: no way of answering is a refusal, and the two that stop are the two of R490. -/
theorem stopsOnlyBeyondAbsoluteLimits : Obligations.StopsOnlyBeyondAbsoluteLimits := by
  unfold Obligations.StopsOnlyBeyondAbsoluteLimits
  refine ⟨fun i s r hr => ?_, fun i s f hf => ?_⟩
  · have hans := exec_answers i s
    rw [hr] at hans
    cases hans
  · have hans := exec_answers i s
    rw [hf] at hans
    cases hans with
    | overvoltage v hi hv => exact .inl ⟨v, hi, hv⟩
    | hot us r hi hr => exact .inr ⟨us, r, hi, hr⟩

end Sys2Proof.Machine
end

section
/-! SUPPORT and certificates. Message headers (R329) and the increments of a remote source (R340). -/

namespace Sys2Proof.Machine

/-! Fields of a header (R329). -/

theorem bit_eq (v n : Nat) : bit v n = decide (v / 2 ^ n % 2 = 1) := by
  rw [bit, Nat.testBit_eq_decide_div_mod_eq]

theorem putField_of_lt {f w : Nat} (lsb : Nat) (h : f < 2 ^ w) : putField f lsb w = f * 2 ^ lsb := by
  rw [putField, Nat.mod_eq_of_lt h, Nat.shiftLeft_eq]

theorem b2n_lt (b : Bool) : b2n b < 2 ^ 1 := by cases b <;> decide

/-- The first word of a header: from the opcode to the tag. -/
def Msg.headLow (m : Msg) : Nat :=
  m.opc + m.vc * 2 ^ 8 + b2n m.mirror * 2 ^ 11 + m.hops * 2 ^ 12 + b2n m.host * 2 ^ 15 + m.dst * 2 ^ 16 + m.src * 2 ^ 28 + m.part * 2 ^ 40 +
    b2n m.pf * 2 ^ 44 + m.tag * 2 ^ 48

/-- The second word of a header: the address and the length less one. -/
def Msg.headHigh (m : Msg) : Nat := m.addr + (m.len - 1) * 2 ^ 48

/-- Each field of the first word lies above the fields before it and below those after it. -/
theorem headLow_fields {opc vc mirror hops host dst src part pf tag : Nat} (hopc : opc < 2 ^ 8) (hvc : vc < 2 ^ 3) (hmirror : mirror < 2 ^ 1)
    (hhops : hops < 2 ^ 3) (hhost : host < 2 ^ 1) (hdst : dst < 2 ^ 12) (hsrc : src < 2 ^ 12) (hpart : part < 2 ^ 4) (hpf : pf < 2 ^ 1)
    (htag : tag < 2 ^ 16) {v : Nat} (hv : v = opc + vc * 2 ^ 8 + mirror * 2 ^ 11 + hops * 2 ^ 12 + host * 2 ^ 15 + dst * 2 ^ 16 + src * 2 ^ 28 +
      part * 2 ^ 40 + pf * 2 ^ 44 + tag * 2 ^ 48) :
    v < 2 ^ 64 ∧ field v 0 8 = opc ∧ field v 8 3 = vc ∧ v / 2 ^ 11 % 2 = mirror ∧ field v 12 3 = hops ∧ v / 2 ^ 15 % 2 = host ∧
      field v 16 12 = dst ∧ field v 28 12 = src ∧ field v 40 4 = part ∧ v / 2 ^ 44 % 2 = pf ∧ field v 48 16 = tag := by
  simp only [field_eq]
  omega

theorem headHigh_fields {addr len v : Nat} (haddr : addr < 2 ^ 48) (hlen : len < 2 ^ 12) (hv : v = addr + len * 2 ^ 48) :
    v < 2 ^ 64 ∧ field v 0 48 = addr ∧ field v 48 12 = len := by
  simp only [field_eq]
  omega

theorem recNat_leBytes_left (n v : Nat) (bs : List Byte) : recNat (leBytes n v ++ bs) 0 n = v % 2 ^ (8 * n) := by
  rw [recNat, List.drop_zero, List.take_left' (leBytes_length n v), leNat_leBytes]

theorem recNat_leBytes_right (n k v w : Nat) : recNat (leBytes n v ++ leBytes k w) n k = w % 2 ^ (8 * k) := by
  rw [recNat, List.drop_left' (leBytes_length n v), List.take_of_length_le (leBytes_length k w).le, leNat_leBytes]

/-- Settles O43: the two words of a header are sums of fields that do not meet, so each field is read back from its place. -/
theorem messageHeadersRoundTrip : Obligations.MessageHeadersRoundTrip := by
  unfold Obligations.MessageHeadersRoundTrip
  intro m hopc hvc hhops hdst hsrc hpart htag haddr hlen hmax
  have hheader : m.header = leBytes 8 m.headLow ++ leBytes 8 m.headHigh := by
    rw [Msg.header, putField_of_lt 0 hopc, putField_of_lt 8 hvc, putField_of_lt 11 (b2n_lt _), putField_of_lt 12 hhops, putField_of_lt 15 (b2n_lt _),
      putField_of_lt 16 hdst, putField_of_lt 28 hsrc, putField_of_lt 40 hpart, putField_of_lt 44 (b2n_lt _), putField_of_lt 48 htag,
      putField_of_lt 0 haddr, putField_of_lt 48 (show m.len - 1 < 2 ^ 12 by omega), Nat.pow_zero, Nat.mul_one, Nat.mul_one]
    rfl
  have hread : ∀ b : Bool, decide (b2n b = 1) = b := by decide
  obtain ⟨hlow, hopc', hvc', hmirror', hhops', hhost', hdst', hsrc', hpart', hpf', htag'⟩ :=
    headLow_fields hopc hvc (b2n_lt m.mirror) hhops (b2n_lt m.host) hdst hsrc hpart (b2n_lt m.pf) htag (v := m.headLow) rfl
  obtain ⟨hhigh, haddr', hlen'⟩ := headHigh_fields haddr (show m.len - 1 < 2 ^ 12 by omega) (v := m.headHigh) rfl
  rw [hheader]
  refine ⟨by rw [List.length_append, leBytes_length, leBytes_length], ?_⟩
  rw [msgOf, recNat_leBytes_left, recNat_leBytes_right, Nat.mod_eq_of_lt hlow, Nat.mod_eq_of_lt hhigh]
  simp only [bit_eq, hopc', hvc', hmirror', hhops', hhost', hdst', hsrc', hpart', hpf', htag', haddr', hlen', hread, Nat.sub_add_cancel hlen]

/-! Increments (R340). -/

/-- A source's increment `a` lies `k` numbers behind its newest, and has been seen: it is too old for the map or its bit is set. -/
structure SyncSeen.Saw (y : SyncSeen) (a k : Nat) : Prop where
  behind : (y.newest + 16384 - a) % 16384 = k
  recent : k < 8192
  seen : 64 ≤ k ∨ y.map.testBit k = true

theorem SyncSeen.note_same {x : SyncSeen} {b : Nat} (h : (b + 16384 - x.newest) % 16384 = 0) : x.note b = (x, false) := by
  unfold SyncSeen.note
  exact if_pos h

theorem SyncSeen.note_ahead {x : SyncSeen} {b d : Nat} (hd : (b + 16384 - x.newest) % 16384 = d) (hpos : d ≠ 0) (hlt : d < 8192) :
    x.note b = (⟨b, (x.map <<< d) % 2 ^ 64 ||| 1⟩, true) := by
  subst hd
  unfold SyncSeen.note
  dsimp only
  rw [if_neg hpos, if_pos hlt]

theorem SyncSeen.note_behind {x : SyncSeen} {b k : Nat} (hk : (x.newest + 16384 - b) % 16384 = k) (hd : 8192 ≤ (b + 16384 - x.newest) % 16384) :
    x.note b = if 64 ≤ k || bit x.map k then (x, false) else ({ x with map := x.map ||| 2 ^ k }, true) := by
  subst hk
  unfold SyncSeen.note
  dsimp only
  rw [if_neg (by omega), if_neg (by omega)]

/-- What has been seen is not new. -/
theorem SyncSeen.Saw.not_new {y : SyncSeen} {a k : Nat} (hy : y.newest < 16384) (ha : a < 16384) (h : y.Saw a k) : (y.note a).2 = false := by
  obtain ⟨hbehind, hrecent, hseen⟩ := h
  by_cases hsame : (a + 16384 - y.newest) % 16384 = 0
  · rw [SyncSeen.note_same hsame]
  · rw [SyncSeen.note_behind hbehind (by omega), if_pos (by rwa [Bool.or_eq_true, decide_eq_true_iff])]

/-- An increment that is new has been seen from then on, and within the map. -/
theorem SyncSeen.saw_of_new {x : SyncSeen} {a : Nat} (hx : x.newest < 16384) (ha : a < 16384) (h : (x.note a).2 = true) :
    ∃ k, k < 64 ∧ (x.note a).1.newest < 16384 ∧ (x.note a).1.Saw a k := by
  by_cases hsame : (a + 16384 - x.newest) % 16384 = 0
  · rw [SyncSeen.note_same hsame] at h
    cases h
  by_cases hlt : (a + 16384 - x.newest) % 16384 < 8192
  · rw [SyncSeen.note_ahead rfl hsame hlt]
    refine ⟨0, by decide, ha, ⟨by dsimp only; omega, by decide, .inr ?_⟩⟩
    rw [Nat.testBit_or, Nat.testBit_one_zero, Bool.or_true]
  · rw [SyncSeen.note_behind rfl (by omega)] at h ⊢
    split at h
    case isTrue => cases h
    case isFalse hnew =>
      rw [if_neg hnew]
      rw [Bool.or_eq_true, decide_eq_true_iff, not_or] at hnew
      refine ⟨(x.newest + 16384 - a) % 16384, by omega, hx, ⟨rfl, by omega, .inr ?_⟩⟩
      rw [Nat.testBit_or, Nat.testBit_two_pow_self, Bool.or_true]

/-- A newer increment moves what has been seen behind it by the distance. -/
theorem SyncSeen.Saw.note {y : SyncSeen} {a b k d : Nat} (hy : y.newest < 16384) (ha : a < 16384) (hb : b < 16384) (h : y.Saw a k)
    (hd : (b + 16384 - y.newest) % 16384 = d) (hfar : k + d < 8192) : (y.note b).1.newest < 16384 ∧ (y.note b).1.Saw a (k + d) := by
  by_cases hsame : d = 0
  · subst hsame
    rw [SyncSeen.note_same hd]
    exact ⟨hy, h⟩
  · obtain ⟨hbehind, hrecent, hseen⟩ := h
    rw [SyncSeen.note_ahead hd hsame (by omega)]
    refine ⟨hb, ⟨by dsimp only; omega, hfar, ?_⟩⟩
    by_cases hold : 64 ≤ k + d
    · exact .inl hold
    · have hbit : y.map.testBit k = true := hseen.resolve_left (by omega)
      refine .inr ?_
      rw [Nat.testBit_or, Nat.testBit_mod_two_pow, Nat.testBit_shiftLeft, Nat.add_sub_cancel, hbit]
      simp only [Bool.and_true, Bool.or_eq_true, Bool.and_eq_true, decide_eq_true_iff]
      omega

/-- Settles O44: what is new is seen from then on, and a newer increment keeps it so. -/
theorem incrementsApplyOnce : Obligations.IncrementsApplyOnce := by
  unfold Obligations.IncrementsApplyOnce
  intro x a b hx _ ha hb
  refine ⟨?again, fun hahead => ?first, fun hnew hfar => ?later⟩
  case again =>
    cases hnew : (x.note a).2 with
    | true =>
      obtain ⟨k, _, hnewest, hsaw⟩ := SyncSeen.saw_of_new hx ha hnew
      exact hsaw.not_new hnewest ha
    | false =>
      have hkept : (x.note a).1 = x := by
        by_cases hsame : (a + 16384 - x.newest) % 16384 = 0
        · rw [SyncSeen.note_same hsame]
        by_cases hlt : (a + 16384 - x.newest) % 16384 < 8192
        · rw [SyncSeen.note_ahead rfl hsame hlt] at hnew
          cases hnew
        · rw [SyncSeen.note_behind rfl (by omega)] at hnew ⊢
          split at hnew
          case isTrue hold => rw [if_pos hold]
          case isFalse => cases hnew
      rw [hkept, hnew]
  case first =>
    rw [Finset.mem_Icc] at hahead
    rw [SyncSeen.note_ahead rfl (by omega) (by omega)]
    exact ⟨rfl, rfl⟩
  case later =>
    obtain ⟨k, hk, hnewest, hsaw⟩ := SyncSeen.saw_of_new hx ha hnew
    obtain ⟨hnewest', hsaw'⟩ := hsaw.note hnewest ha hb rfl (by omega)
    exact hsaw'.not_new hnewest' ha

end Sys2Proof.Machine
end

section
/-! SUPPORT and certificates. The PLDM terminus and the test access ports (R470, R471, R486). -/

namespace Sys2Proof.Machine

/-! Answers on the sideband (R470). -/

section
variable {c : Chip} (hside : c.sidebandUp = true)
include hside

theorem Chip.pldmReply_up (cmd code : Nat) (l : List Nat) : c.pldmReply cmd code l = { c with out := c.out ++ [.pldm cmd code l] } := if_pos hside

theorem Chip.setTid_up (tid : Nat) :
    c.setTid tid = { c with pldm := { c.pldm with tid := tid }, out := c.out ++ [.pldm 0x0001 0 []] } := by
  rw [Chip.setTid, if_pos hside]
  exact if_pos hside

/-- Before the repository exists a type 2 command answers that it is not ready. -/
theorem Chip.type2_early (hpdrs : c.pldm.pdrs = false) (cmd : Nat) (f : Chip → Chip) :
    c.type2 cmd f = { c with out := c.out ++ [.pldm cmd 4 []] } := by
  rw [Chip.type2, hside, hpdrs]
  exact Chip.pldmReply_up hside _ _ _

theorem Chip.type2_ready (hpdrs : c.pldm.pdrs = true) (cmd : Nat) (f : Chip → Chip) : c.type2 cmd f = f c := by
  rw [Chip.type2, hside, hpdrs]
  rfl

theorem Chip.getPdr_found (hpdrs : c.pldm.pdrs = true) {h : Nat} {e : Nat × Nat} (he : c.pdrRecords[h - 1]? = some e) :
    c.getPdr h = { c with out := c.out ++ [.pldm 0x0251 0
      ([if h - 1 + 1 < c.pdrRecords.length then h - 1 + 2 else 0, e.1, e.2] ++ (Config.pdrBytes e.1 e.2).map (·.toNat))] } := by
  have hfirst : (if h = 0 then 0 else h - 1) = h - 1 := by split <;> omega
  rw [Chip.getPdr, Chip.type2_ready hside hpdrs]
  simp only [hfirst, he, Chip.pldmReply_up hside]

theorem Chip.getPdr_past (hpdrs : c.pldm.pdrs = true) {h : Nat} (hpast : c.pdrRecords.length < h) :
    c.getPdr h = { c with out := c.out ++ [.pldm 0x0251 0x82 []] } := by
  have hnone : c.pdrRecords[h - 1]? = none := List.getElem?_eq_none (by omega)
  have hfirst : (if h = 0 then 0 else h - 1) = h - 1 := by split <;> omega
  rw [Chip.getPdr, Chip.type2_ready hside hpdrs]
  simp only [hfirst, hnone, Chip.pldmReply_up hside]

theorem Chip.getSensor_absent (hpdrs : c.pldm.pdrs = true) {id : Nat} (hid : c.sensorThere id = false) :
    c.getSensor id = { c with out := c.out ++ [.pldm 0x0211 0x80 []] } := by
  rw [Chip.getSensor, Chip.type2_ready hside hpdrs, hid]
  exact Chip.pldmReply_up hside _ _ _

theorem Chip.getSensor_there (hpdrs : c.pldm.pdrs = true) {id : Nat} (hid : c.sensorThere id = true) :
    c.getSensor id = if c.sensorUp id = true ∧ id ∉ c.pldm.bad then { c with out := c.out ++ [.pldm 0x0211 0 [0, c.sensorRead id]] }
      else { c with out := c.out ++ [.pldm 0x0211 0 [2, 0]] } := by
  rw [Chip.getSensor, Chip.type2_ready hside hpdrs, hid, Bool.not_true, if_neg Bool.false_ne_true, Chip.pldmReply_up hside, Chip.pldmReply_up hside]
  have hread : (!c.sensorUp id || c.pldm.bad.contains id) = true ↔ ¬(c.sensorUp id = true ∧ id ∉ c.pldm.bad) := by
    rw [Bool.or_eq_true, Bool.not_eq_true', List.contains_iff_mem, not_and_or, not_not, Bool.not_eq_true]
  rw [if_congr hread rfl rfl, ite_not]

theorem Chip.getStateSensor_known (hpdrs : c.pldm.pdrs = true) {id : Nat} (hid : id ∈ stateSensorIds) :
    c.getStateSensor id = { c with out := c.out ++ [.pldm 0x0221 0 [0, c.stateSensors.getD (id - 40) 0]] } := by
  rw [Chip.getStateSensor, Chip.type2_ready hside hpdrs, if_pos (List.contains_iff_mem.mpr hid), Chip.pldmReply_up hside]

theorem Chip.getStateSensor_unknown (hpdrs : c.pldm.pdrs = true) {id : Nat} (hid : id ∉ stateSensorIds) :
    c.getStateSensor id = { c with out := c.out ++ [.pldm 0x0221 0x80 []] } := by
  rw [Chip.getStateSensor, Chip.type2_ready hside hpdrs, if_neg (mt List.contains_iff_mem.mp hid), Chip.pldmReply_up hside]

theorem Chip.setReceiver_up (hpdrs : c.pldm.pdrs = true) (who : Option Nat) : c.setReceiver who =
    { c with pldm := { c.pldm with receiver := who, states := c.stateSensors }, out := c.out ++ [.pldm 0x0204 0 []] } := by
  rw [Chip.setReceiver, Chip.type2_ready hside hpdrs]
  exact if_pos hside

theorem Chip.getPldmVersion_known {typ : Nat} (h : pldmTypes.contains typ = true) :
    c.getPldmVersion typ = { c with out := c.out ++ [.pldm 0x0003 0 [Config.pldmVersion typ]] } := by
  rw [Chip.getPldmVersion, if_pos h, Chip.pldmReply_up hside]

theorem Chip.getPldm_unknown {typ : Nat} (h : pldmTypes.contains typ = false) :
    c.getPldmVersion typ = { c with out := c.out ++ [.pldm 0x0003 0x83 []] } ∧
      c.getPldmCommands typ = { c with out := c.out ++ [.pldm 0x0005 0x83 []] } := by
  rw [Chip.getPldmVersion, Chip.getPldmCommands, if_neg (Bool.eq_false_iff.mp h), if_neg (Bool.eq_false_iff.mp h), Chip.pldmReply_up hside,
    Chip.pldmReply_up hside]
  exact ⟨rfl, rfl⟩

end

/-! Events (R471). -/

theorem Chip.eventRetry_again {c : Chip} {i : Nat} {e : PldmEvent} (he : c.pldm.events[i]? = some e) (hsent : e.sent < 4) :
    c.eventRetry i = { c with
      pldm := { c.pldm with events := c.pldm.events.set i { e with sent := e.sent + 1 } }, out := c.out ++ [.event e.source e.value] } := by
  rw [Chip.eventRetry, he]
  exact if_neg (Nat.not_le.mpr hsent)

theorem Chip.eventRetry_last {c : Chip} {i : Nat} {e : PldmEvent} (he : c.pldm.events[i]? = some e) (hsent : 4 ≤ e.sent) : c.eventRetry i = c := by
  rw [Chip.eventRetry, he]
  exact if_pos hsent

/-! Test access (R486). -/

theorem Chip.tapLoad_powered {c : Chip} (hvalid : c.board.valid = true) (d : Nat) (t : Tap) (w v : Nat) : c.tapLoad d t w v =
    { c with taps := c.taps.insert d t, board := { c.board with trst := false, driven := none }, out := c.out ++ [.tdo d w v] } := by
  rw [Chip.tapLoad, hvalid]
  rfl

theorem Chip.tapExtest_mission {c : Chip} (htest : c.board.testMode = false) (d pins : Nat) : c.tapExtest d pins = c.tapBypass d := by
  rw [Chip.tapExtest, htest]
  rfl

theorem Chip.tapExtest_test {c : Chip} (hvalid : c.board.valid = true) (htest : c.board.testMode = true) (d pins : Nat) : c.tapExtest d pins =
    { c with taps := c.taps.insert d { c.tapOf d with held := false, ir := .extest },
             board := { c.board with trst := false, driven := some (c.tapOf d).boundary },
             out := c.out ++ [.tdo d 64 (pins &&& scanMask)] } := by
  rw [Chip.tapExtest, htest, Bool.not_true, if_neg Bool.false_ne_true]
  dsimp only
  rw [if_pos hvalid, Chip.tapLoad_powered hvalid]

/-- TRST# leaves each TAP in reset, with its boundary-scan register. -/
theorem Chip.trstAssert_taps (c : Chip) {d : Nat} (hd : d < 4) :
    KMap.getD c.trstAssert.taps d {} = { held := true, ir := .idcode, boundary := (c.tapOf d).boundary } := by
  have hlist : upto 4 = [0, 1, 2, 3] := rfl
  rw [Chip.trstAssert, hlist]
  dsimp only [List.foldl]
  have hcase : d = 0 ∨ d = 1 ∨ d = 2 ∨ d = 3 := by omega
  rcases hcase with rfl | rfl | rfl | rfl <;> rfl

/-- Settles O60: a command on the sideband meets the terminus ready or not, a TAP instruction the powered module. -/
theorem sidebandAndTestAccessAnswer : Obligations.SidebandAndTestAccessAnswer := by
  unfold Obligations.SidebandAndTestAccessAnswer
  refine ⟨fun s hup hside => ?sideband, fun s d pins pre hvalid => ?tap, fun s => ?trst⟩
  case sideband =>
    intro c say
    refine ⟨?getTid, fun tid => ?setTid, ?types, fun typ => ⟨fun htyp => ?version, fun h0 h2 => ?other⟩, ?base, ?platform, fun hpdrs => ?early,
      fun hpdrs => ?ready, fun i e he => ?events⟩
    case getTid => rw [exec_of_onChip (f := (·.getTid)) hup rfl, Chip.getTid, Chip.pldmReply_up hside]
    case setTid => rw [exec_of_onChip (f := (·.setTid tid.toNat)) hup rfl, Chip.setTid_up hside]
    case types =>
      rw [exec_of_onChip (f := (·.getPldmTypes)) hup rfl, Chip.getPldmTypes, Chip.pldmReply_up hside]
      rfl
    case version =>
      have hknown : pldmTypes.contains typ.toNat = true := by rcases htyp with rfl | rfl <;> rfl
      rw [exec_of_onChip (f := (·.getPldmVersion typ.toNat)) hup rfl, Chip.getPldmVersion_known hside hknown]
    case other =>
      have hunknown : pldmTypes.contains typ.toNat = false := by
        rw [Bool.eq_false_iff, ne_eq, List.contains_iff_mem]
        simp only [pldmTypes, List.mem_cons, List.not_mem_nil, or_false]
        bv_omega
      obtain ⟨hversion, hcommands⟩ := Chip.getPldm_unknown hside hunknown
      rw [exec_of_onChip (f := (·.getPldmVersion typ.toNat)) hup rfl, exec_of_onChip (f := (·.getPldmCommands typ.toNat)) hup rfl, hversion, hcommands]
      exact ⟨rfl, rfl⟩
    case base => rw [exec_of_onChip (f := (·.getPldmCommands 0)) hup rfl]; exact congrArg s.goes (Chip.pldmReply_up hside _ _ _)
    case platform => rw [exec_of_onChip (f := (·.getPldmCommands 2)) hup rfl]; exact congrArg s.goes (Chip.pldmReply_up hside _ _ _)
    case early =>
      refine ⟨?_, fun h => ?_, fun i => ⟨?_, ?_⟩, fun w => ?_⟩
      · rw [exec_of_onChip (f := (·.getPdrInfo)) hup rfl, Chip.getPdrInfo, Chip.type2_early hside hpdrs]
      · rw [exec_of_onChip (f := (·.getPdr h.toNat)) hup rfl, Chip.getPdr, Chip.type2_early hside hpdrs]
      · rw [exec_of_onChip (f := (·.getSensor i.toNat)) hup rfl, Chip.getSensor, Chip.type2_early hside hpdrs]
      · rw [exec_of_onChip (f := (·.getStateSensor i.toNat)) hup rfl, Chip.getStateSensor, Chip.type2_early hside hpdrs]
      · rw [exec_of_onChip (f := (·.setReceiver (w.map (·.toNat)))) hup rfl, Chip.setReceiver, Chip.type2_early hside hpdrs]
    case ready =>
      refine ⟨?_, fun h e he => ?_, fun h hpast => ?_, fun i => ⟨fun hi => ?_, fun hi => ?_, fun hi => ?_, fun hi => ?_⟩, fun w => ?_⟩
      · rw [exec_of_onChip (f := (·.getPdrInfo)) hup rfl, Chip.getPdrInfo, Chip.type2_ready hside hpdrs, Chip.pldmReply_up hside]
      · rw [exec_of_onChip (f := (·.getPdr h.toNat)) hup rfl, Chip.getPdr_found hside hpdrs he]
      · rw [exec_of_onChip (f := (·.getPdr h.toNat)) hup rfl, Chip.getPdr_past hside hpdrs hpast]
      · rw [exec_of_onChip (f := (·.getSensor i.toNat)) hup rfl, Chip.getSensor_absent hside hpdrs hi]
      · rw [exec_of_onChip (f := (·.getSensor i.toNat)) hup rfl, Chip.getSensor_there hside hpdrs hi, apply_ite s.goes]
      · rw [exec_of_onChip (f := (·.getStateSensor i.toNat)) hup rfl, Chip.getStateSensor_known hside hpdrs hi]
      · rw [exec_of_onChip (f := (·.getStateSensor i.toNat)) hup rfl, Chip.getStateSensor_unknown hside hpdrs hi]
      · rw [exec_of_onChip (f := (·.setReceiver (w.map (·.toNat)))) hup rfl, Chip.setReceiver_up hside hpdrs]
    case events =>
      refine ⟨fun hsent => ?_, fun hsent => ?_, exec_of_onChip (f := (·.eventAck i)) hup rfl⟩
      · rw [exec_of_onChip (f := (·.eventRetry i)) hup rfl, Chip.eventRetry_again he hsent]
      · rw [exec_of_onChip (f := (·.eventRetry i)) hup rfl, Chip.eventRetry_last he hsent]
  case tap =>
    intro c t shift
    have hload (ir : Tap) (w v : Nat) : s.goes (c.tapLoad d ir w v) = shift ir none w v := by rw [Chip.tapLoad_powered hvalid]
    refine ⟨hload _ _ _, hload _ _ _, hload _ _ _, fun htest => ?_, fun htest => ?_⟩
    · exact congrArg s.goes (Chip.tapExtest_mission htest d pins.toNat)
    · exact congrArg s.goes (Chip.tapExtest_test hvalid htest d pins.toNat)
  case trst => exact ⟨s.chip.trstAssert.taps, rfl, fun d hd => Chip.trstAssert_taps _ hd⟩

end Sys2Proof.Machine
end

section
/-! SUPPORT and certificates. Responses, the resend timer and the response timeout (R330, R339, R340, R343). -/

namespace Sys2Proof.Machine

/-! What a response does to the request that it answers (R330, R343). -/

section
variable {s : State} {p : Fin 24} {d : Chip} {m : Msg} {i : Nat} (hup : s.up)
include hup

theorem exec_rdData_answers (h : s.chip.arrives p (fun x => x.opc == 0x10) d m) (hmirror : m.mirror = false)
    (hreq : d.requestOf m.src m.tag (· == 1) = some i) :
    exec (.rdData p) s = s.goes ((d.endRequest i COMP_OK (m.data.take m.len)).idleOut p 8).after := by
  rw [exec_of_onMc (f := (·.rdDataMsg p)) hup rfl, Chip.rdDataMsg, Chip.takeMsg_arrives _ h]
  simp only [hmirror, Bool.false_eq_true, if_false, hreq]

theorem exec_wrAck_answers (h : s.chip.arrives p (fun x => x.opc == 0x11) d m) (hreq : d.requestOf m.src m.tag (· == 2) = some i) :
    exec (.wrAck p) s = s.goes ((d.endRequest i COMP_OK []).idleOut p 8).after := by
  rw [exec_of_onMc (f := (·.wrAckMsg p)) hup rfl, Chip.wrAckMsg, Chip.takeMsg_arrives _ h]
  simp only [hreq]

theorem exec_syncAck_answers (h : s.chip.arrives p (fun x => x.opc == 0x12) d m) (hreq : d.requestOf m.src m.tag (· == 8) = some i) :
    exec (.syncAck p) s = s.goes ((d.endRequest i COMP_OK []).idleOut p 8).colPollAll.after := by
  rw [exec_of_onMc (f := (·.syncAckMsg p |>.colPollAll)) hup rfl, Chip.syncAckMsg, Chip.takeMsg_arrives _ h]
  simp only [hreq]

theorem exec_refuse_answers (h : s.chip.arrives p (fun x => x.opc == 0x13) d m) (hreq : d.requestOf m.src m.tag (fun _ => true) = some i) :
    exec (.refuse p) s = s.goes ((d.endRequest i (m.addr % 65536) []).idleOut p 8).after := by
  rw [exec_of_onMc (f := (·.refuseRx p)) hup rfl, Chip.refuseRx, Chip.takeMsg_arrives _ h]
  simp only [hreq]

theorem exec_retry_answers {r : FabReq} (h : s.chip.arrives p (fun x => x.opc == 0x14) d m)
    (hreq : d.requestOf m.src m.tag (fun _ => true) = some i) (hr : d.reqs[i]? = some r) :
    exec (.retry p) s = s.goes (({ d with reqs := d.reqs.set i { r with retry := true } } : Chip).idleOut p 8).after := by
  rw [exec_of_onMc (f := (·.retryMsg p)) hup rfl, Chip.retryMsg, Chip.takeMsg_arrives _ h]
  simp only [hreq, hr]

end

/-! Requests without a response (R339, R343). -/

section
variable {c : Chip} {i : Nat} {r : FabReq} (hr : c.reqs[i]? = some r)
include hr

/-- A response to the vector engine waits for it with the request. -/
theorem Chip.endRequest_ve {cl k : Nat} (hwho : r.who = .ve cl k) (code : Code) (bs : List Byte) :
    c.endRequest i code bs = { c with reqs := c.reqs.set i { r with resp := some (code, bs), retry := false } } := by
  simp only [Chip.endRequest, hr, hwho]

theorem Chip.respTimeout_unanswered (hwho : ∀ cl n serial sg, r.who ≠ .dma cl n serial sg) (hresp : r.resp = none) :
    c.respTimeout i = (c.raise (.jlk r.die) St.JLK_RESP_TIMEOUT).endRequest i COMP_LINK_DOWN [] := by
  rw [Chip.respTimeout, hr]
  dsimp only
  rw [hresp]
  cases hw : r.who with
  | dma cl n serial sg => exact absurd hw (hwho cl n serial sg)
  | _ => rfl

/-- The resend timer of any requester but the host is that of the fabric. -/
theorem Chip.retryTimer_fabric (io : RegIo) (hwho : ∀ fn wr off, r.who ≠ .host fn wr off) (expired : Bool) :
    c.retryTimer io i expired = c.retryResend i expired := by
  rw [Chip.retryTimer, hr]
  dsimp only
  cases hw : r.who with
  | host fn wr off => exact absurd hw (hwho fn wr off)
  | _ => rfl

theorem Chip.retryResend_expired (hretry : r.retry = true) : c.retryResend i true = c.endRequest i COMP_TARGET_RESET [] := by
  rw [Chip.retryResend, hr]
  dsimp only
  rw [hretry]
  rfl

theorem Chip.retryResend_again (hretry : r.retry = true) :
    let z := ({ c with reqs := c.reqs.set i { r with retry := false } } : Chip).fabSend r.die (if r.msg.vc = 2 then r.port else none)
      { r.msg with hops := 0 }
    c.retryResend i false = if z.2 = COMP_OK then z.1 else z.1.endRequest i z.2 [] := by
  rw [Chip.retryResend, hr]
  dsimp only
  rw [hretry]
  rfl

end

/-- Settles O48: a response is followed from its port to the request that it answers, a timer to the request that it names. -/
theorem responsesEndRequests : Obligations.ResponsesEndRequests := by
  unfold Obligations.ResponsesEndRequests
  refine ⟨fun s p d m opc i hup h hopc => ?answers, fun s i r hup hr => ?timers⟩
  case answers =>
    refine ⟨?_, ?_, ?_, ?_, ?_⟩
    · rintro rfl hmirror hreq
      exact exec_rdData_answers hup h hmirror hreq
    · rintro rfl hreq
      exact exec_wrAck_answers hup h hreq
    · rintro rfl hreq
      exact exec_syncAck_answers hup h hreq
    · rintro rfl hreq
      exact exec_refuse_answers hup h hreq
    · rintro rfl r hreq hr
      exact exec_retry_answers hup h hreq hr
  case timers =>
    intro c
    refine ⟨fun cl k hwho code bs => Chip.endRequest_ve hr hwho code bs, fun hwho hresp => ?_, fun hretry hwho => ⟨?_, ?_⟩⟩
    · rw [exec_of_onMc (f := (·.respTimeout i)) hup rfl, Chip.respTimeout_unanswered hr hwho hresp]
    · rw [exec_of_onMc (f := (·.retryTimer regIo i true)) hup rfl, Chip.retryTimer_fabric hr regIo hwho, Chip.retryResend_expired hr hretry]
    · rw [exec_of_onMc (f := (·.retryTimer regIo i false)) hup rfl, Chip.retryTimer_fabric hr regIo hwho, Chip.retryResend_again hr hretry]

end Sys2Proof.Machine
end

section
/-! SUPPORT and certificates. Sequence contexts and continuous batching (R369-R379). -/

namespace Sys2Proof.Machine

/-! Entries that begin. -/

/-- A queue entry that begins holds the code of its action, where the action leaves the entry of this queue alone. -/
theorem Chip.wqStart_leaves {c d : Chip} {n op : Nat} {e : QEntry} {code : Option Code} {f : Chip → QEntry → Chip × Option Code}
    (he : (c.queueOf n).cur = some e) (hs : e.started = false) (hc : e.code = none) (ho : Wqe.op e.bs = op) (hf : f c e = (d, code))
    (hq : d.queueOf n = c.queueOf n) :
    c.wqStart n op f = d.setQueue n { c.queueOf n with cur := some { e with started := true, code := code } } := by
  rw [Chip.wqStart_begins f he ho hs hc, hf]
  simp only [hq, he]

/-! Handles (R369). -/

/-- A handle is stale when its index, its generation or its entry's state says so. -/
theorem Chip.ctxOf_eq_none_iff (c : Chip) (p h : Nat) : c.ctxOf p h = none ↔
    c.ctxCount p ≤ field h 0 18 ∨ (c.seqCtx p (field h 0 18)).gen ≠ field h 18 8 ∨ (c.seqCtx p (field h 0 18)).state = 0 := by
  unfold Chip.ctxOf
  dsimp only
  rw [ite_eq_right_iff]
  simp only [reduceCtorEq, imp_false, Bool.and_eq_true, decide_eq_true_iff, beq_iff_eq, bne_iff_ne, not_and_or, Nat.not_lt, not_not, or_assoc, ne_eq]

/-- The index and the generation of a handle do not meet. -/
theorem handle_fields {i gen : Nat} (hi : i < 2 ^ 18) (hgen : gen < 256) :
    field (i + gen * 2 ^ 18) 0 18 = i ∧ field (i + gen * 2 ^ 18) 18 8 = gen ∧ i + gen * 2 ^ 18 < 2 ^ 26 := by
  simp only [field_eq]
  omega

/-! Sequence commands (R373, R374). -/

/-- The entry of queue `n` done with a code. -/
def Chip.entryDone (d : Chip) (n : Nat) (q : Queue) (e : QEntry) (code : Option Code) : Chip :=
  d.setQueue n { q with cur := some { e with started := true, code := code } }

/-- The context that SEQ_OPEN leaves: JOINING, with the prompt's tokens pending and the next ORDER of `d`. -/
def Chip.openedCtx (c d : Chip) (p i : Nat) (bs : List Byte) : SeqCtx :=
  { state := 1, gen := (c.seqCtx p i).gen, part := p, pending := Wqe.initLen bs, order := (d.partRun p).order, tag := Wqe.seqTag bs }

section
variable {c : Chip} {n i : Nat} {e : QEntry} (he : (c.queueOf n).cur = some e) (hs : e.started = false) (hc : e.code = none)
include he hs hc

theorem Chip.seqOpen_full (ho : Wqe.op e.bs = 0x20)
    (hfree : (upto (c.ctxCount (queuePart n))).find? (fun i => (c.seqCtx (queuePart n) i).state == 0) = none) :
    c.seqOpen n = (c.raise (.part (queuePart n)) St.PART_SEQ_FULL).entryDone n (c.queueOf n) e (some COMP_SEQ_FULL) :=
  Chip.wqStart_leaves he hs hc ho (by simp only [hfree]) rfl

theorem Chip.seqOpen_long (ho : Wqe.op e.bs = 0x20)
    (hfree : (upto (c.ctxCount (queuePart n))).find? (fun i => (c.seqCtx (queuePart n) i).state == 0) = some i)
    (hlong : c.seqLimit (queuePart n) < Wqe.initLen e.bs) : c.seqOpen n = c.entryDone n (c.queueOf n) e (some COMP_SEQ_LONG) :=
  Chip.wqStart_leaves he hs hc ho (by simp only [hfree, hlong, if_true]) rfl

theorem Chip.seqOpen_opens (ho : Wqe.op e.bs = 0x20) {d : Chip}
    (hfree : (upto (c.ctxCount (queuePart n))).find? (fun i => (c.seqCtx (queuePart n) i).state == 0) = some i)
    (hfits : Wqe.initLen e.bs ≤ c.seqLimit (queuePart n))
    (hwrite : c.agentWrite ⟨some (queuePart n), 0⟩ (Wqe.handleRef e.bs) (ones 4) (leBytes 4 (c.handleOf (queuePart n) i)) = (d, COMP_OK))
    (hq : d.queueOf n = c.queueOf n) :
    c.seqOpen n = ((((d.setSeqCtx (queuePart n) i (c.openedCtx d (queuePart n) i e.bs)).setPartRun (queuePart n)
        { d.partRun (queuePart n) with order := (d.partRun (queuePart n)).order + 1 }).addF (.part (queuePart n)) R.PART_POOL_STATE_OPEN 1)).entryDone n
      (c.queueOf n) e (some COMP_OK) :=
  Chip.wqStart_leaves he hs hc ho (by simp only [hfree, Nat.not_lt.mpr hfits, if_false, hwrite, bne_self_eq_false, Bool.false_eq_true,
    Chip.openedCtx]) hq

theorem Chip.seqAppend_stale (ho : Wqe.op e.bs = 0x21) (hctx : c.ctxOf (queuePart n) (Wqe.handle e.bs) = none) :
    c.seqAppend n = c.entryDone n (c.queueOf n) e (some COMP_SEQ_STALE) :=
  Chip.wqStart_leaves he hs hc ho (by simp only [hctx]) rfl

theorem Chip.seqClose_stale (ho : Wqe.op e.bs = 0x22) (hctx : c.ctxOf (queuePart n) (Wqe.handle e.bs) = none) :
    c.seqClose n = c.entryDone n (c.queueOf n) e (some COMP_SEQ_STALE) :=
  Chip.wqStart_leaves he hs hc ho (by simp only [hctx]) rfl

section
variable (hctx : c.ctxOf (queuePart n) (Wqe.handle e.bs) = some i)
include hctx

theorem Chip.seqAppend_leaving (ho : Wqe.op e.bs = 0x21) (hstate : (c.seqCtx (queuePart n) i).state = 3) :
    c.seqAppend n = c.entryDone n (c.queueOf n) e (some COMP_SEQ_STALE) :=
  Chip.wqStart_leaves he hs hc ho (by simp only [hctx, hstate, if_true]) rfl

theorem Chip.seqAppend_long (ho : Wqe.op e.bs = 0x21) (hstate : (c.seqCtx (queuePart n) i).state ≠ 3)
    (hlong : c.seqLimit (queuePart n) < (c.seqCtx (queuePart n) i).len + (c.seqCtx (queuePart n) i).pending + Wqe.count e.bs) :
    c.seqAppend n = c.entryDone n (c.queueOf n) e (some COMP_SEQ_LONG) :=
  Chip.wqStart_leaves he hs hc ho (by simp only [hctx, hstate, hlong, if_true, if_false]) rfl

theorem Chip.seqAppend_appends (ho : Wqe.op e.bs = 0x21) (hstate : (c.seqCtx (queuePart n) i).state ≠ 3)
    (hfits : (c.seqCtx (queuePart n) i).len + (c.seqCtx (queuePart n) i).pending + Wqe.count e.bs ≤ c.seqLimit (queuePart n)) :
    c.seqAppend n = (c.setSeqCtx (queuePart n) i { c.seqCtx (queuePart n) i with
      pending := (c.seqCtx (queuePart n) i).pending + Wqe.count e.bs }).entryDone n (c.queueOf n) e (some COMP_OK) :=
  Chip.wqStart_leaves he hs hc ho (by simp only [hctx, hstate, Nat.not_lt.mpr hfits, if_false]) rfl

theorem Chip.seqClose_pinned (ho : Wqe.op e.bs = 0x22) (hpinned : (c.seqCtx (queuePart n) i).pinned = true) :
    c.seqClose n = (c.setSeqCtx (queuePart n) i { c.seqCtx (queuePart n) i with state := 3 }).entryDone n (c.queueOf n) e (some COMP_OK) :=
  Chip.wqStart_leaves he hs hc ho (by simp only [hctx, hpinned, if_true]) rfl

theorem Chip.seqClose_unpinned (ho : Wqe.op e.bs = 0x22) (hpinned : (c.seqCtx (queuePart n) i).pinned = false)
    (hq : (c.freeCtx (queuePart n) i).queueOf n = c.queueOf n) :
    c.seqClose n = (c.freeCtx (queuePart n) i).entryDone n (c.queueOf n) e (some COMP_OK) :=
  Chip.wqStart_leaves he hs hc ho (by simp only [hctx, hpinned, if_false, Bool.false_eq_true]) hq

end
end

/-- A context that is freed holds nothing but its partition and the next generation. -/
theorem Chip.freeCtx_seqCtx (c : Chip) (p i : Nat) :
    (c.freeCtx p i).seqCtx p i = { part := (c.seqCtx p i).part, gen := ((c.seqCtx p i).gen + 1) % 256 } := by
  unfold Chip.freeCtx
  extract_lets x d opens
  have hkey : ((d.setSeqCtx p i { part := x.part, gen := (x.gen + 1) % 256 }).setF (.part p) R.PART_POOL_STATE_OPEN (opens - 1)).ctxKey p i =
      d.ctxKey p i := congrArg (· + i) (Chip.getF_setF_place _ _ _ (by decide))
  rw [Chip.seqCtx, hkey]
  exact KMap.getD_insert_self _ _ _ _

/-- Settles O52: a handle's fields do not meet, and a command that names a stale handle ends its entry and does nothing else. -/
theorem staleHandlesAreRefused : Obligations.StaleHandlesAreRefused := by
  unfold Obligations.StaleHandlesAreRefused
  refine ⟨fun c p i hi hgen => handle_fields hi hgen, fun c p h => c.ctxOf_eq_none_iff p h, fun s n e hup he hs hc hctx => ⟨fun ho => ?_, fun ho => ?_⟩⟩
  · rw [exec_of_onChip (f := (·.seqAppend n)) hup rfl, Chip.seqAppend_stale he hs hc ho hctx]
    rfl
  · rw [exec_of_onChip (f := (·.seqClose n)) hup rfl, Chip.seqClose_stale he hs hc ho hctx]
    rfl

/-! Batches (R375-R379). -/

theorem Chip.noteBatch_traces (c : Chip) (p : Nat) (b : List Byte) : c.Traces (c.noteBatch p b) := by
  unfold Chip.noteBatch
  split
  · exact .refl c
  · refine .step (forAll_traces _ _ _ fun d r => ?_) (c.noteReads_traces _ _)
    split
    split
    · exact .refl d
    · exact forAll_traces _ _ _ fun d cl => d.noteReads_traces _ _

theorem Chip.Traces.partRun {c d : Chip} (h : c.Traces d) (p : Nat) : d.partRun p = c.partRun p := by
  obtain ⟨_, _, _, _, _, _, _, _, rfl⟩ := h
  rfl

section
variable {c : Chip} {n : Nat} {e : QEntry} (he : (c.queueOf n).cur = some e)
include he

section
variable (hs : e.started = false) (hc : e.code = none) (ho : Wqe.op e.bs = 0x24)
include hs hc ho

/-- A batch whose entry fails a check of R375 leaves what the checks have read. -/
theorem Chip.batchStep_invalid (hops : c.batchOps (queuePart n) e.bs = none) (hidle : (c.partRun (queuePart n)).batch = none) (cyc : Nat) :
    c.batchStep n cyc = (c.noteBatch (queuePart n) e.bs).entryDone n (c.queueOf n) e (some COMP_BATCH_INVALID) := by
  have htraces := c.noteBatch_traces (queuePart n) e.bs
  unfold Chip.batchStep
  dsimp only
  rw [Chip.wqStart_leaves he hs hc ho (d := c.noteBatch (queuePart n) e.bs) (code := some COMP_BATCH_INVALID) (by simp only [hops])
    (htraces.sameWalks.queueOf n)]
  have hbatch : (((c.noteBatch (queuePart n) e.bs).setQueue n { c.queueOf n with
      cur := some { e with started := true, code := some COMP_BATCH_INVALID } }).partRun (queuePart n)).batch = none := by
    rw [← hidle, ← htraces.partRun]
    rfl
  rw [hbatch]
  rfl

/-- What a partition records of a batch that has been selected. -/
def Picked.run (x : Picked) (p : Nat) (t : Batch) : PartRun :=
  { x.chip.partRun p with batches := (x.chip.partRun p).batches + 1, batch := some t }

/-- A valid batch is selected, its manifest is written, and its first operator begins. -/
theorem Chip.batchStep_begins {ops : List (List Byte)} (hops : c.batchOps (queuePart n) e.bs = some ops)
    (hcode : (c.noteBatch (queuePart n) e.bs).accessCode ⟨some (queuePart n), 0⟩ true (Wqe.manifest e.bs) (0x40 + 20 * Wqe.maxSeqs e.bs) = COMP_OK)
    {x : Picked} (hx : (c.noteBatch (queuePart n) e.bs).batchSelect (queuePart n) (Wqe.maxSeqs e.bs) (Wqe.maxTokens e.bs) = x) {w : Chip}
    (hw : forAll (x.chip.manifestBytes (queuePart n) (x.chip.partRun (queuePart n)).batches (Wqe.maxSeqs e.bs) x.seqs) x.chip (fun y m =>
      (y.agentWrite ⟨some (queuePart n), 0⟩ (Wqe.manifest e.bs + m.1) (ones m.2.length) m.2).1) = w)
    (hq : w.queueOf n = c.queueOf n) {t : Batch} (ht : t = { queue := n, seqs := x.seqs, ops := ops }) (cyc : Nat) :
    c.batchStep n cyc = ((w.setPartRun (queuePart n) (x.run (queuePart n) t)).entryDone n (c.queueOf n) e none).batchBegin (queuePart n) t cyc := by
  have hbatch : (((w.setPartRun (queuePart n) (x.run (queuePart n) t)).setQueue n
      { c.queueOf n with cur := some { e with started := true, code := none } }).partRun (queuePart n)).batch = some t :=
    congrArg PartRun.batch (Chip.partRun_setPartRun_self w _ _)
  subst ht
  unfold Chip.batchStep
  dsimp only
  rw [Chip.wqStart_leaves he hs hc ho (d := w.setPartRun (queuePart n) (x.run (queuePart n) { queue := n, seqs := x.seqs, ops := ops })) (code := none)
    (by simp only [hops, hcode, bne_self_eq_false, Bool.false_eq_true, if_false, hx, hw, Picked.run]) hq, hbatch]
  simp only [decide_true, Bool.and_self, if_true]
  rfl

end

/-- An operator that has begun on every cluster does not begin again. -/
theorem Chip.opBeginOn_begun {l : List Nat} (hbegun : ∀ cl ∈ l, (KMap.find? e.subs cl).isSome = true) (desc : Nat → Nat) (shape : Nat → Nat × Nat × Nat)
    (cyc : Nat) (kv : Option KvRun) : c.opBeginOn n l desc shape cyc kv = c := by
  unfold Chip.opBeginOn
  induction l with
  | nil => rfl
  | cons cl l ih =>
    rw [forAll_cons]
    simp only [he, hbegun cl List.mem_cons_self, if_true]
    exact ih fun k hk => hbegun k (List.mem_cons_of_mem cl hk)

/-- Nothing is to be collected once every cluster has reported. -/
theorem Chip.opCollect_reported (hall : ∀ x ∈ e.subs, x.2 ≠ none) : c.opCollect n = c := by
  have hnone : e.subs.filter (fun x => x.2.isNone) = [] :=
    List.filter_eq_nil_iff.mpr fun x hx => by rw [Option.isNone_iff_eq_none]; exact hall x hx
  unfold Chip.opCollect
  rw [he]
  dsimp only
  rw [hnone]
  rfl

section
variable {t : Batch} {codes : List Nat} (hbatch : (c.partRun (queuePart n)).batch = some t) (hqueue : t.queue = n) (hall : ∀ x ∈ e.subs, x.2 ≠ none)
  (hcodes : e.subCodes (c.clustersOf (queuePart n)) = some codes) (hbegun : ∀ cl ∈ c.clustersOf (queuePart n), (KMap.find? e.subs cl).isSome = true)
include hbatch hqueue hall hcodes hbegun

omit hbatch hcodes in
/-- An operator that has ended on every cluster is neither begun nor collected again. -/
theorem Chip.batch_settled (cyc : Nat) : (c.batchBegin (queuePart n) t cyc).opCollect n = c := by
  have hbegin : c.batchBegin (queuePart n) t cyc = c := by
    unfold Chip.batchBegin
    split
    · rfl
    · rw [hqueue]
      exact Chip.opBeginOn_begun he hbegun _ _ _ _
  rw [hbegin, Chip.opCollect_reported he hall]

theorem Chip.batchOpDone_fails (hcode : firstCode codes ≠ COMP_OK) (cyc : Nat) :
    c.batchOpDone n cyc = (((c.agentWrite ⟨some (queuePart n), 0⟩ (Wqe.manifest e.bs + 0x10) (ones 2) (leBytes 2 t.op)).1.batchUnwind
      (queuePart n)).wqEnd n (firstCode codes)) := by
  unfold Chip.batchOpDone
  simp only [hbatch, hqueue, bne_self_eq_false, Bool.false_eq_true, if_false, Chip.batch_settled he hqueue hall hbegun, he, hcodes,
    bne_iff_ne.mpr hcode, if_true]

theorem Chip.batchOpDone_goesOn (hcode : firstCode codes = COMP_OK) (cyc : Nat) :
    let k := if Ope.kvOut (t.ops.getD t.op []) then c.kvOut (queuePart n) t (t.ops.getD t.op []) else c
    let d := k.setQueue n { k.queueOf n with cur := some { e with subs := [] } }
    c.batchOpDone n cyc = if t.ops.length ≤ t.op + 1 then (d.batchAdvance (queuePart n) t).wqEnd n COMP_OK
      else (d.setPartRun (queuePart n) { d.partRun (queuePart n) with batch := some { t with op := t.op + 1 } }).batchBegin (queuePart n)
        { t with op := t.op + 1 } cyc := by
  unfold Chip.batchOpDone
  simp only [hbatch, hqueue, bne_self_eq_false, Bool.false_eq_true, if_false, Chip.batch_settled he hqueue hall hbegun, he, hcodes,
    hcode]

end
end

/-- Settles O51: each command of a queue is followed from the entry that it begins to what its action leaves, and a batch from operator to operator. -/
theorem servingCommandsComplete : Obligations.ServingCommandsComplete := by
  unfold Obligations.ServingCommandsComplete
  intro s n e hup he c q p done fresh free
  refine ⟨fun hfresh ho => ⟨fun hfree => ?full, fun i hfree => ⟨fun hlong => ?long, fun d hfits hwrite hq => ?opens⟩⟩, fun i hctx => ?named,
    fun hfresh ho cyc => ⟨fun hops hidle => ?invalid, fun ops hops => ?begins⟩,
    fun t codes cyc hbatch hqueue hall hcodes hbegun => ⟨fun hcode => ?fails, fun hcode => ?goesOn⟩⟩
  case full => rw [exec_of_onChip (f := (·.seqOpen n)) hup rfl, Chip.seqOpen_full he hfresh.1 hfresh.2 ho hfree]; rfl
  case long => rw [exec_of_onChip (f := (·.seqOpen n)) hup rfl, Chip.seqOpen_long he hfresh.1 hfresh.2 ho hfree hlong]; rfl
  case opens => intro x; rw [exec_of_onChip (f := (·.seqOpen n)) hup rfl, Chip.seqOpen_opens he hfresh.1 hfresh.2 ho hfree hfits hwrite hq]; rfl
  case named =>
    refine ⟨fun hfresh ho hstate => ⟨fun hfits => ?_, fun hlong => ?_⟩, fun hfresh ho hstate => ?_,
      fun hfresh ho => ⟨fun hpinned => ?_, fun hpinned hq => ?_⟩, c.freeCtx_seqCtx p i⟩
    · rw [exec_of_onChip (f := (·.seqAppend n)) hup rfl, Chip.seqAppend_appends he hfresh.1 hfresh.2 hctx ho hstate hfits]; rfl
    · rw [exec_of_onChip (f := (·.seqAppend n)) hup rfl, Chip.seqAppend_long he hfresh.1 hfresh.2 hctx ho hstate hlong]; rfl
    · rw [exec_of_onChip (f := (·.seqAppend n)) hup rfl, Chip.seqAppend_leaving he hfresh.1 hfresh.2 hctx ho hstate]; rfl
    · rw [exec_of_onChip (f := (·.seqClose n)) hup rfl, Chip.seqClose_pinned he hfresh.1 hfresh.2 hctx ho hpinned]; rfl
    · rw [exec_of_onChip (f := (·.seqClose n)) hup rfl, Chip.seqClose_unpinned he hfresh.1 hfresh.2 hctx ho hpinned hq]; rfl
  case invalid =>
    rw [exec_of_onChip (f := (·.batchStep n cyc.toNat)) hup rfl, Chip.batchStep_invalid he hfresh.1 hfresh.2 ho hops hidle]; rfl
  case begins =>
    intro c1 hcode x d r w t hq
    rw [exec_of_onChip (f := (·.batchStep n cyc.toNat)) hup rfl, Chip.batchStep_begins he hfresh.1 hfresh.2 ho hops hcode rfl rfl hq rfl]; rfl
  case fails =>
    rw [exec_of_onChip (f := (·.batchOpDone n cyc.toNat)) hup rfl, Chip.batchOpDone_fails he hbatch hqueue hall hcodes hbegun hcode]
  case goesOn =>
    intro o k d t'
    rw [exec_of_onChip (f := (·.batchOpDone n cyc.toNat)) hup rfl, Chip.batchOpDone_goesOn he hbatch hqueue hall hcodes hbegun hcode]

end Sys2Proof.Machine
end

section
/-! SUPPORT and certificates. The input, power domains and operating points (R456, R458, R459, R461, R477, R478, R481). -/

namespace Sys2Proof.Machine

/-! Targets of the clusters (R461). -/

/-- A cluster takes a new target: it is there and powered, and no step of it is in progress (R461, R462). -/
def Chip.steers (c : Chip) (cl : Nat) : Prop :=
  c.clusterGone cl = false ∧ c.domainOn (clusterDomain cl) = true ∧ c.on (.clkcl cl) R.CLKCL_STATE_STEPPING = false

/-- One pass of `Chip.retarget`. -/
def Chip.retargetOne (c : Chip) (cl : Nat) : Chip :=
  let t := c.targetOf cl
  if c.clusterGone cl || !c.domainOn (clusterDomain cl) || c.on (.clkcl cl) R.CLKCL_STATE_STEPPING then c
  else if c.getF (.clkcl cl) R.CLKCL_STATE_TARGET = t.1 ∧ c.getF (.clkcl cl) R.CLKCL_STATE_LIMIT = t.2 then c
  else c.setFs (.clkcl cl) [(R.CLKCL_STATE_TARGET, t.1), (R.CLKCL_STATE_LIMIT, t.2)]

theorem Chip.retarget_eq (c : Chip) : c.retarget = forAll (upto 32) c Chip.retargetOne := rfl

/-- A pass leaves what does not depend on the register file, and the register file but for the cluster's target and its limit. -/
theorem Chip.retargetOne_keeps {β : Type} (p : Chip → β) (c : Chip) (cl : Nat)
    (h : ∀ (c : Chip) (v w : Nat), p ((c.setF (.clkcl cl) R.CLKCL_STATE_TARGET v).setF (.clkcl cl) R.CLKCL_STATE_LIMIT w) = p c) :
    p (c.retargetOne cl) = p c := by
  unfold Chip.retargetOne
  dsimp only
  split
  · rfl
  split
  · rfl
  · exact h c _ _

theorem Chip.retarget_keeps {β : Type} (p : Chip → β) (c : Chip)
    (h : ∀ (c : Chip) (cl v w : Nat), p ((c.setF (.clkcl cl) R.CLKCL_STATE_TARGET v).setF (.clkcl cl) R.CLKCL_STATE_LIMIT w) = p c) :
    p c.retarget = p c := by
  rw [Chip.retarget_eq]
  exact forAll_keeps p _ _ _ fun c cl => c.retargetOne_keeps p cl fun c v w => h c cl v w

@[simp] theorem Chip.retarget_power (c : Chip) : c.retarget.power = c.power := c.retarget_keeps (·.power) fun _ _ _ _ => rfl
@[simp] theorem Chip.retarget_mem (c : Chip) : c.retarget.mem = c.mem := c.retarget_keeps (·.mem) fun _ _ _ _ => rfl
@[simp] theorem Chip.retarget_pldm (c : Chip) : c.retarget.pldm = c.pldm := c.retarget_keeps (·.pldm) fun _ _ _ _ => rfl

theorem Chip.getF_setTarget {c : Chip} {b : Blk} {f : Field} (hl : f.lsb < 64) (h3 : f.lsb ≠ 3) (h7 : f.lsb ≠ 7) (cl v w : Nat) :
    ((c.setF (.clkcl cl) R.CLKCL_STATE_TARGET v).setF (.clkcl cl) R.CLKCL_STATE_LIMIT w).getF b f = c.getF b f := by
  rw [Chip.getF_setF_of_ne _ _ (fkey_ne_of_lsb hl (by decide) h7), Chip.getF_setF_of_ne _ _ (fkey_ne_of_lsb hl (by decide) h3)]

/-- Targets and their limits are the only fields that follow (their lowest bits are 3 and 7). -/
theorem Chip.getF_retarget (c : Chip) (b : Blk) {f : Field} (hl : f.lsb < 64) (h3 : f.lsb ≠ 3) (h7 : f.lsb ≠ 7) : c.retarget.getF b f = c.getF b f :=
  c.retarget_keeps (·.getF b f) fun _ cl v w => Chip.getF_setTarget hl h3 h7 cl v w

theorem Chip.getF_retargetOne (c : Chip) (cl : Nat) (b : Blk) {f : Field} (hl : f.lsb < 64) (h3 : f.lsb ≠ 3) (h7 : f.lsb ≠ 7) :
    (c.retargetOne cl).getF b f = c.getF b f :=
  c.retargetOne_keeps (·.getF b f) cl fun _ v w => Chip.getF_setTarget hl h3 h7 cl v w

theorem Chip.retargetOne_targetOf (c : Chip) (a cl : Nat) : (c.retargetOne a).targetOf cl = c.targetOf cl := by
  have hpower : (c.retargetOne a).power = c.power := c.retargetOne_keeps (·.power) a fun _ _ _ => rfl
  unfold Chip.targetOf Chip.thermalPoint
  rw [hpower, c.getF_retargetOne a _ (f := R.CLKCL_CTRL_MAX_OP) (by decide) (by decide) (by decide),
    c.getF_retargetOne a _ (f := R.PWR_CTRL_CAP_POINT) (by decide) (by decide) (by decide)]

theorem Chip.steers_congr {c d : Chip} {cl : Nat} (h : ∀ (b : Blk) {f : Field}, f.lsb = 34 ∨ f.lsb = 0 ∨ f.lsb = 6 → d.getF b f = c.getF b f)
    (hs : c.steers cl) : d.steers cl := by
  obtain ⟨hgone, hon, hstep⟩ := hs
  refine ⟨?_, ?_, ?_⟩
  · rw [Chip.clusterGone, Chip.on, h _ (.inl rfl)]
    exact hgone
  · rw [Chip.domainOn, h _ (.inr (.inl rfl))]
    exact hon
  · rw [Chip.on, h _ (.inr (.inr rfl))]
    exact hstep

theorem Chip.steers_retargetOne {c : Chip} {cl : Nat} (hs : c.steers cl) (a : Nat) : (c.retargetOne a).steers cl :=
  Chip.steers_congr (fun b f h => c.getF_retargetOne a b (by omega) (by omega) (by omega)) hs

/-- A point is at most 7, and the least of the limits (R461). -/
theorem Chip.targetOf_fst (c : Chip) (cl : Nat) : (c.targetOf cl).1 =
    min (min (min (min 7 (c.getF (.clkcl cl) R.CLKCL_CTRL_MAX_OP)) (c.getF .pwr R.PWR_CTRL_CAP_POINT)) (c.thermalPoint cl))
      (if c.power.inputLow then 0 else 7) := rfl

theorem Chip.target_retargetOne_self {c : Chip} {cl : Nat} (hs : c.steers cl) :
    (c.retargetOne cl).getF (.clkcl cl) R.CLKCL_STATE_TARGET = (c.targetOf cl).1 := by
  obtain ⟨hgone, hon, hstep⟩ := hs
  have hlt : (c.targetOf cl).1 < 8 := by rw [c.targetOf_fst]; omega
  unfold Chip.retargetOne
  simp only [hgone, hon, hstep, Bool.not_true, Bool.or_self, Bool.false_eq_true, if_false]
  split
  next h => exact h.1
  next =>
    simp only [Chip.setFs_cons, Chip.setFs_nil]
    rw [Chip.getF_setF_place _ _ _ (by decide), Chip.getF_setF_self]
    exact Nat.mod_eq_of_lt hlt

theorem fkey_clkcl_ne {a cl : Nat} (h : a ≠ cl) {f g : Field} (hf : f.off = 8 ∧ f.lsb < 64) (hg : g.off = 8 ∧ g.lsb < 64) :
    fkey (.clkcl cl) f ≠ fkey (.clkcl a) g := by
  simp only [fkey, Blk.base, dieSpan, hf.1, hg.1]
  omega

theorem Chip.target_retargetOne_of_ne (c : Chip) {a cl : Nat} (h : a ≠ cl) :
    (c.retargetOne a).getF (.clkcl cl) R.CLKCL_STATE_TARGET = c.getF (.clkcl cl) R.CLKCL_STATE_TARGET :=
  c.retargetOne_keeps (·.getF (.clkcl cl) R.CLKCL_STATE_TARGET) a fun c v w => by
    rw [Chip.getF_setF_of_ne _ _ (fkey_clkcl_ne h (by decide) (by decide)), Chip.getF_setF_of_ne _ _ (fkey_clkcl_ne h (by decide) (by decide))]

/-- The passes bring a cluster's target up to date once its turn has come, and keep it so. -/
theorem Chip.target_forAll {cl : Nat} (l : List Nat) (c : Chip) (hs : c.steers cl)
    (h : cl ∈ l ∨ c.getF (.clkcl cl) R.CLKCL_STATE_TARGET = (c.targetOf cl).1) :
    (forAll l c Chip.retargetOne).getF (.clkcl cl) R.CLKCL_STATE_TARGET = (c.targetOf cl).1 := by
  induction l generalizing c with
  | nil => exact h.resolve_left (by simp)
  | cons a l ih =>
    rw [forAll_cons, ← c.retargetOne_targetOf a cl]
    refine ih _ (Chip.steers_retargetOne hs a) ?_
    rw [c.retargetOne_targetOf a cl]
    by_cases ha : a = cl
    · subst ha
      exact .inr (Chip.target_retargetOne_self hs)
    · rw [c.target_retargetOne_of_ne ha]
      exact h.imp_left fun hmem => (List.mem_cons.1 hmem).resolve_left (Ne.symm ha)

theorem Chip.target_retarget {c : Chip} {cl : Nat} (hcl : cl < 32) (hs : c.steers cl) :
    c.retarget.getF (.clkcl cl) R.CLKCL_STATE_TARGET = (c.targetOf cl).1 :=
  c.target_forAll _ hs (.inl (List.mem_range.2 hcl))

/-! The input (R456, R477, R478, R481). -/

theorem exec_of_always {s : State} {cmd : Instr} {f : Chip → Chip} (harm : exec cmd s = s.always f) : exec cmd s = s.goes (f s.chip).after := harm

/-- The seven domains whose own regulators start at input valid are on, and no other. -/
theorem Chip.domainOn_alwaysOn (c : Chip) {n : Nat} (hn : n < 64) :
    bit ((c.setF .pwr R.PWR_DOMAINS_ON ((alwaysOn.map (2 ^ ·)).sum)).getF .pwr R.PWR_DOMAINS_ON) n = alwaysOn.contains n := by
  rw [Chip.getF_setF_self]
  exact (by decide +kernel : ∀ n < 64, bit ((alwaysOn.map (2 ^ ·)).sum % 2 ^ R.PWR_DOMAINS_ON.width) n = alwaysOn.contains n) n hn

theorem bit_zero (n : Nat) : bit 0 n = false := Nat.zero_testBit n

/-! A domain that faults (R458). -/

theorem bit_sub_two_pow {v n : Nat} (h : bit v n = true) : bit ((v - 2 ^ n) % 2 ^ 64) n = false := by
  have hodd : v / 2 ^ n % 2 = 1 := by simpa [bit, Nat.testBit_eq_decide_div_mod_eq] using h
  have hsub : (v - 2 ^ n) / 2 ^ n = v / 2 ^ n - 1 := by simpa using Nat.sub_mul_div v (2 ^ n) 1
  have heven : (v - 2 ^ n).testBit n = false := by
    rw [Nat.testBit_eq_decide_div_mod_eq, hsub]
    simp only [decide_eq_false_iff_not]
    omega
  rw [bit, Nat.testBit_mod_two_pow, heven, Bool.and_false]

theorem bit_or_two_pow {v n : Nat} (h : n < 64) : bit ((v ||| 2 ^ n) % 2 ^ 64) n = true := by
  rw [bit, Nat.testBit_mod_two_pow, Nat.testBit_or, Nat.testBit_two_pow_self, Bool.or_true, decide_eq_true h]
  rfl

theorem Chip.getF_pldmEvent (c : Chip) (source value : Nat) (b : Blk) {f : Field} (hl : f.lsb < 64) (h3 : f.lsb ≠ 3) (h48 : f.lsb ≠ 48) :
    (c.pldmEvent source value).getF b f = c.getF b f := by
  have hraise (full : Bool) : (c.raiseIf full (.tel 0) St.TEL_EVENT_DROP).getF b f = c.getF b f := by
    cases full
    · rfl
    · exact c.getF_raise_of_ne (fkey_ne_of_lsb hl (by decide) h3) (fkey_ne_of_lsb hl (by decide) h48)
  unfold Chip.pldmEvent
  split
  · rfl
  · exact hraise _

/-- A domain that is on goes off: the power registers and the log say so, and an event is sent. -/
def Chip.wentOff (y : Chip) (n kind : Nat) : Chip :=
  ((y.setFs .pwr [(R.PWR_DOMAINS_ON, y.getF .pwr R.PWR_DOMAINS_ON - 2 ^ n), (R.PWR_FAULTED, y.getF .pwr R.PWR_FAULTED ||| 2 ^ n),
    (R.PWR_FAULT_LOG_DOMAIN, n), (R.PWR_FAULT_LOG_KIND, kind),
    (R.PWR_FAULT_LOG_TIME, y.getF (.tel 0) R.TEL_TIME)]).raise .pwr St.PWR_DOMAIN_FAULT).pldmEvent 256 n

/-- The effect that the loss of domain `n` has on its units. -/
def Chip.lossOf (x : Chip) (n : Nat) : Chip :=
  let d := n / 15
  let k := n % 15
  if n = 60 then x.pcieLinkDown else if n = 61 then x
  else if n = 62 then ({ x with power := { x.power with blind := upto 32 } } : Chip).retarget
  else if n = 63 then x.raise .cfg St.CFG_LOG_FULL
  else if k < 8 then x.clusterFault (8 * d + k) else if k = 9 ∨ k = 10 then x.halfFault d (k - 9)
  else if 11 ≤ k ∧ k ≤ 13 then (x.portDown (6 * d + 2 * (k - 11))).portDown (6 * d + 2 * (k - 11) + 1) else x.dieFault d

theorem Chip.domainOff_on {y : Chip} {n : Nat} (h : y.domainOn n = true) (kind : Nat) : y.domainOff n kind = (y.wentOff n kind).lossOf n := by
  unfold Chip.domainOff
  rw [h]
  rfl

theorem Chip.wentOff_shows {y : Chip} {n : Nat} (hn : n < 64) (h : y.domainOn n = true) (kind : Nat) :
    (y.wentOff n kind).domainOn n = false ∧ (y.wentOff n kind).faulted n = true ∧ (y.wentOff n kind).on .pwr St.PWR_DOMAIN_FAULT.flag = true ∧
      (y.wentOff n kind).getF .pwr R.PWR_FAULT_LOG_DOMAIN = n := by
  have hoff {f : Field} (hl : f.lsb = 0) (hf : fkey .pwr f ≠ fkey .pwr St.PWR_DOMAIN_FAULT.flag) (hc : fkey .pwr f ≠ fkey .pwr St.PWR_DOMAIN_FAULT.cnt) :
      (y.wentOff n kind).getF .pwr f = (y.setFs .pwr [(R.PWR_DOMAINS_ON, y.getF .pwr R.PWR_DOMAINS_ON - 2 ^ n),
        (R.PWR_FAULTED, y.getF .pwr R.PWR_FAULTED ||| 2 ^ n), (R.PWR_FAULT_LOG_DOMAIN, n), (R.PWR_FAULT_LOG_KIND, kind),
        (R.PWR_FAULT_LOG_TIME, y.getF (.tel 0) R.TEL_TIME)]).getF .pwr f := by
    rw [Chip.wentOff, Chip.getF_pldmEvent _ _ _ _ (by omega) (by omega) (by omega), Chip.getF_raise_of_ne _ hf hc]
  refine ⟨?_, ?_, ?_, ?_⟩
  · rw [Chip.domainOn, hoff rfl (fkey_ne_of_place _ (by decide)) (fkey_ne_of_place _ (by decide))]
    simp only [Chip.setFs_cons, Chip.setFs_nil]
    rw [Chip.getF_setF_place _ _ _ (by decide), Chip.getF_setF_place _ _ _ (by decide), Chip.getF_setF_place _ _ _ (by decide),
      Chip.getF_setF_place _ _ _ (by decide), Chip.getF_setF_self]
    exact bit_sub_two_pow h
  · rw [Chip.faulted, hoff rfl (fkey_ne_of_place _ (by decide)) (fkey_ne_of_place _ (by decide))]
    simp only [Chip.setFs_cons, Chip.setFs_nil]
    rw [Chip.getF_setF_place _ _ _ (by decide), Chip.getF_setF_place _ _ _ (by decide), Chip.getF_setF_place _ _ _ (by decide), Chip.getF_setF_self]
    exact bit_or_two_pow hn
  · rw [Chip.on, Chip.wentOff, Chip.getF_pldmEvent _ _ _ _ (by decide) (by decide) (by decide),
      Chip.getF_raise_flag _ rfl (fkey_ne_of_place _ (by decide))]
    rfl
  · rw [hoff rfl (fkey_ne_of_place _ (by decide)) (fkey_ne_of_place _ (by decide))]
    simp only [Chip.setFs_cons, Chip.setFs_nil]
    rw [Chip.getF_setF_place _ _ _ (by decide), Chip.getF_setF_place _ _ _ (by decide), Chip.getF_setF_self]
    exact Nat.mod_eq_of_lt hn

/-- A PLL that lost lock says so before its domain goes off. -/
def Chip.pllLost (c : Chip) (n : Nat) (pll : Bool) : Chip :=
  let y := c.raise (.clk (n / 15)) St.CLK_PLL_UNLOCK
  if pll && decide (n < 60) then
    if n % 15 = 8 then y.setF (.clk (n / 15)) R.CLK_STATE_NOC_LOCK 0
    else if n % 15 = 9 ∨ n % 15 = 10 then y.setF (.clk (n / 15)) R.CLK_STATE_MC_LOCK 0 else y
  else c

theorem fkey_pwr_ne_clk (d : Nat) {f g : Field} (hf : f.off < 0x400 ∧ f.lsb < 64) (hg : g.off < 0x400 ∧ g.lsb < 64) : fkey .pwr f ≠ fkey (.clk d) g := by
  simp only [fkey, Blk.base, dieSpan]
  omega

theorem Chip.domainOn_pllLost (c : Chip) (n : Nat) (pll : Bool) (m : Nat) : (c.pllLost n pll).domainOn m = c.domainOn m := by
  have hraise : (c.raise (.clk (n / 15)) St.CLK_PLL_UNLOCK).getF .pwr R.PWR_DOMAINS_ON = c.getF .pwr R.PWR_DOMAINS_ON :=
    c.getF_raise_of_ne (fkey_pwr_ne_clk _ (by decide) (by decide)) (fkey_pwr_ne_clk _ (by decide) (by decide))
  have hset {f : Field} (hf : f.off < 0x400 ∧ f.lsb < 64) : ((c.raise (.clk (n / 15)) St.CLK_PLL_UNLOCK).setF (.clk (n / 15)) f 0).getF .pwr
      R.PWR_DOMAINS_ON = c.getF .pwr R.PWR_DOMAINS_ON := by
    rw [Chip.getF_setF_of_ne _ _ (fkey_pwr_ne_clk _ (by decide) hf), hraise]
  unfold Chip.domainOn Chip.pllLost
  dsimp only
  congr 1
  split
  · split
    · exact hset (by decide)
    split
    · exact hset (by decide)
    · exact hraise
  · rfl

theorem Chip.domainFault_on {c : Chip} {n : Nat} (h : c.domainOn n = true) (kind : Nat) (pll : Bool) :
    c.domainFault n kind pll = ((c.pllLost n pll).wentOff n (if pll then 3 else kind)).lossOf n := by
  rw [← Chip.domainOff_on ((c.domainOn_pllLost n pll n).trans h)]
  unfold Chip.domainFault
  rw [h]
  rfl

/-! INPUT_LOW (R459). -/

theorem Chip.steers_raise_inputLow {c : Chip} {cl : Nat} (hs : c.steers cl) : (c.raise .pwr St.PWR_INPUT_LOW).steers cl :=
  Chip.steers_congr (fun b f h => c.getF_raise_of_ne (fkey_ne_of_lsb (by omega) (by decide) (by show f.lsb ≠ 2; omega))
    (fkey_ne_of_lsb (by omega) (by decide) (by show f.lsb ≠ 32; omega))) hs

theorem Chip.lowInput_holds {c : Chip} (h : c.power.inputLow = false) :
    c.lowInput.on .pwr St.PWR_INPUT_LOW.flag = true ∧ c.lowInput.power.inputLow = true ∧ c.lowInput.mem = c.mem ∧
      ∀ cl < 32, c.steers cl → c.lowInput.getF (.clkcl cl) R.CLKCL_STATE_TARGET = 0 := by
  have heq : c.lowInput = ({ c.raise .pwr St.PWR_INPUT_LOW with power := { c.power with inputLow := true } } : Chip).retarget := by
    rw [Chip.lowInput, h]
    rfl
  rw [heq]
  refine ⟨?_, congrArg Power.inputLow (Chip.retarget_power _), Chip.retarget_mem _, fun cl hcl hs => ?_⟩
  · rw [Chip.on, Chip.getF_retarget _ _ (by decide) (by decide) (by decide)]
    show ((c.raise .pwr St.PWR_INPUT_LOW).getF .pwr St.PWR_INPUT_LOW.flag != 0) = true
    rw [Chip.getF_raise_flag _ rfl (fkey_ne_of_place _ (by decide))]
    rfl
  · have hsteers : ({ c.raise .pwr St.PWR_INPUT_LOW with power := { c.power with inputLow := true } } : Chip).steers cl := Chip.steers_raise_inputLow hs
    rw [Chip.target_retarget hcl hsteers, Chip.targetOf_fst]
    exact Nat.min_zero _

theorem Chip.lowInputClear_frees {c : Chip} (h : c.power.inputLow = true) :
    c.lowInputClear.power.inputLow = false ∧ c.lowInputClear.mem = c.mem ∧
      ∀ cl < 32, c.steers cl → c.lowInputClear.getF (.clkcl cl) R.CLKCL_STATE_TARGET =
        min (min 7 (c.getF (.clkcl cl) R.CLKCL_CTRL_MAX_OP)) (min (c.getF .pwr R.PWR_CTRL_CAP_POINT) (c.thermalPoint cl)) := by
  rw [show c.lowInputClear = ({ c with power := { c.power with inputLow := false } } : Chip).retarget from if_pos h]
  refine ⟨congrArg Power.inputLow (Chip.retarget_power _), Chip.retarget_mem _, fun cl hcl hs => ?_⟩
  have hsteers : ({ c with power := { c.power with inputLow := false } } : Chip).steers cl := hs
  rw [Chip.target_retarget hcl hsteers, Chip.targetOf_fst]
  show min (min (min (min 7 (c.getF (.clkcl cl) R.CLKCL_CTRL_MAX_OP)) (c.getF .pwr R.PWR_CTRL_CAP_POINT)) (c.thermalPoint cl)) 7 = _
  omega

theorem Chip.ref100Loss_lost {c : Chip} (h : c.board.ref100 = true) :
    c.ref100Loss = forAll (upto 4) ({ c with board := { c.board with ref100 := false } } : Chip) (fun x d =>
      if x.domainOn (15 * d + 8) then ((x.raise (.clk d) St.CLK_PLL_UNLOCK).setFs (.clk d) [(R.CLK_STATE_NOC_LOCK, 0),
        (R.CLK_STATE_MC_LOCK, 0)]).domainOff (15 * d + 8) 3 else x) := by
  rw [Chip.ref100Loss, h]
  simp only [Bool.not_eq_true', Bool.not_true, Bool.false_eq_true, if_false]
  congr 1
  funext x d
  cases x.domainOn (15 * d + 8) <;> rfl

/-- Settles O58: each command is taken to the branch that its state selects; what a domain's loss leaves is `Chip.wentOff_shows`, and the targets under
INPUT_LOW are those of `Chip.target_retarget`. -/
theorem powerAndInputCommandsComplete : Obligations.PowerAndInputCommandsComplete := by
  unfold Obligations.PowerAndInputCommandsComplete
  intro s c b off seven
  refine ⟨fun hen => ?_, fun hen hclosed hvalid => ?_, fun hen => ?_, fun hclosed hvalid => ?_, fun v => ⟨fun hv => ?_, fun hv => ?_, fun hclosed hlo hhi => ?_⟩,
    fun hover => ?_, fun hclosed => ?_, fun hvalid => ?_, fun href => ?_, fun hup => ⟨fun hlow => ?_, fun hlow => ?_, fun n kind pll hon => ?_⟩⟩
  · rw [exec_of_always (f := (·.modEnRise)) rfl, Chip.modEnRise, if_neg (by simp only [show s.chip.board.modEn = false from hen, Bool.false_eq_true, not_false_iff])]
  · refine ⟨_, exec_of_always (f := (·.inputValid)) rfl, ?_⟩
    rw [Chip.inputValid, if_neg (by simp [show s.chip.board.modEn = true from hen, show s.chip.board.closed = true from hclosed,
      show s.chip.board.valid = false from hvalid])]
    exact ⟨fun n hn => s.chip.domainOn_alwaysOn hn, rfl, rfl⟩
  · refine ⟨_, exec_of_always (f := (·.modEnFall)) rfl, ?_⟩
    rw [Chip.modEnFall, if_neg (by simp [show s.chip.board.modEn = true from hen])]
    exact ⟨⟨rfl, fun _ => rfl, rfl, rfl⟩, rfl, rfl, fun n _ => bit_zero n⟩
  · refine ⟨_, exec_of_always (f := (·.vinUnder)) rfl, ?_⟩
    rw [Chip.vinUnder, if_neg (by simp [show s.chip.board.closed = true from hclosed, show s.chip.board.valid = true from hvalid])]
    exact ⟨⟨rfl, fun _ => rfl, rfl, rfl⟩, fun n hn => s.chip.powerOnReset.domainOn_alwaysOn hn, hclosed, rfl⟩
  · exact if_pos hv
  · exact (if_neg (by omega)).trans (congrArg (fun x : Chip => s.goes x.after) (if_neg (by omega)))
  · refine ⟨s.chip.vinOver, (if_neg (by omega)).trans (congrArg (fun x : Chip => s.goes x.after) (if_pos hlo)), ?_⟩
    rw [Chip.vinOver, show s.chip.board.closed = true from hclosed]
    exact ⟨⟨rfl, fun _ => rfl, rfl, rfl⟩, rfl, rfl⟩
  · rw [exec_of_always (f := (·.vinReclose)) rfl, Chip.vinReclose, show s.chip.board.overVolt = true from hover]
    rfl
  · refine ⟨_, exec_of_always (f := (·.inputOver)) rfl, ?_⟩
    rw [Chip.inputOver, show s.chip.board.closed = true from hclosed]
    exact ⟨⟨rfl, fun _ => rfl, rfl, rfl⟩, rfl, rfl⟩
  · refine ⟨_, exec_of_always (f := (·.ref25Loss)) rfl, ?_⟩
    rw [Chip.ref25Loss, show s.chip.board.valid = true from hvalid]
    exact ⟨⟨rfl, fun _ => rfl, rfl, rfl⟩, fun n hn => s.chip.powerOnReset.domainOn_alwaysOn hn, rfl⟩
  · rw [exec_of_always (f := (·.ref100Loss.islandDown)) rfl, Chip.ref100Loss_lost href]
  · obtain ⟨hflag, hpower, hmem, htarget⟩ := Chip.lowInput_holds hlow
    exact ⟨_, exec_of_onMc (f := (·.lowInput)) hup rfl, hflag, hpower, hmem, fun cl hcl hgone hon hstep => htarget cl hcl ⟨hgone, hon, hstep⟩⟩
  · obtain ⟨hpower, hmem, htarget⟩ := Chip.lowInputClear_frees hlow
    exact ⟨_, exec_of_onMc (f := (·.lowInputClear)) hup rfl, hpower, hmem, fun cl hcl hgone hon hstep => htarget cl hcl ⟨hgone, hon, hstep⟩⟩
  · have hstill : (s.chip.pllLost n pll).domainOn n = true := (s.chip.domainOn_pllLost n pll n).trans hon
    refine ⟨?_, Chip.wentOff_shows n.isLt hstill _⟩
    rw [exec_of_onMc (f := fun c => (c.domainFault n (kind.val + 1) pll).islandDown) hup rfl, Chip.domainFault_on hon]
    rfl

end Sys2Proof.Machine
end

section
/-! SUPPORT and certificates. The cap, thermal points, steps, droops and sensor refreshes (R460-R465, R469, R474, R490). -/

namespace Sys2Proof.Machine

/-! POWER_CAP_CHECK (R463). -/

/-- The cap point that a check leads to. -/
def Chip.capNext (c : Chip) (watts : Nat) (quiet : Bool) : Nat :=
  let cap := min 3400 (max 1000 (c.getF .pwr R.PWR_CTRL_CAP_W))
  let p := c.getF .pwr R.PWR_CTRL_CAP_POINT
  if (upto 32).any (fun cl => c.on (.clkcl cl) R.CLKCL_STATE_STEPPING) then p else if cap < watts then p - 1
  else if quiet && decide (watts + c.getF .pwr R.PWR_CTRL_CAP_HYST_W < cap) then min 7 (p + 1) else p

/-- The cap point has taken its next value, and the targets follow. -/
def Chip.capMoved (c : Chip) (q : Nat) : Chip :=
  if q = c.getF .pwr R.PWR_CTRL_CAP_POINT then c else (c.setF .pwr R.PWR_CTRL_CAP_POINT q).retarget

theorem Chip.capCheck_eq (c : Chip) (watts : Nat) (quiet : Bool) : c.capCheck watts quiet =
    (c.capMoved (c.capNext watts quiet)).raiseIf
      (decide (c.capNext watts quiet < 7) && !(c.capMoved (c.capNext watts quiet)).on .pwr R.PWR_STATUS_CAP_ACTIVE) .pwr St.PWR_CAP_ACTIVE := rfl

theorem Chip.capNext_le {c : Chip} (h : c.getF .pwr R.PWR_CTRL_CAP_POINT ≤ 7) (watts : Nat) (quiet : Bool) : c.capNext watts quiet ≤ 7 := by
  unfold Chip.capNext
  dsimp only
  repeat' split
  all_goals omega

theorem Chip.capPoint_capMoved (c : Chip) {q : Nat} (hq : q ≤ 7) : (c.capMoved q).getF .pwr R.PWR_CTRL_CAP_POINT = q := by
  unfold Chip.capMoved
  split
  next h => exact h.symm
  next =>
    rw [Chip.getF_retarget _ _ (by decide) (by decide) (by decide), Chip.getF_setF_self]
    exact Nat.mod_eq_of_lt (Nat.lt_succ_of_le hq)

theorem Chip.capMoved_mem (c : Chip) (q : Nat) : (c.capMoved q).mem = c.mem := by
  unfold Chip.capMoved
  split
  · rfl
  · exact Chip.retarget_mem _

/-- A raised status leaves the cap point and memory alone; below point 7, CAP_ACTIVE shows. -/
theorem Chip.capActive_shows (d : Chip) (low : Bool) :
    let e := d.raiseIf (low && !d.on .pwr R.PWR_STATUS_CAP_ACTIVE) .pwr St.PWR_CAP_ACTIVE
    e.getF .pwr R.PWR_CTRL_CAP_POINT = d.getF .pwr R.PWR_CTRL_CAP_POINT ∧ e.mem = d.mem ∧
      (low = true → e.on .pwr R.PWR_STATUS_CAP_ACTIVE = true) := by
  intro e
  cases hcond : low && !d.on .pwr R.PWR_STATUS_CAP_ACTIVE with
  | false =>
    have he : e = d := if_neg (by rw [hcond]; decide)
    rw [he]
    exact ⟨rfl, rfl, fun hlow => by simpa [hlow] using hcond⟩
  | true =>
    have he : e = d.raise .pwr St.PWR_CAP_ACTIVE := if_pos hcond
    rw [he]
    refine ⟨Chip.getF_raise_of_ne _ (fkey_ne_of_place _ (by decide)) (fkey_ne_of_place _ (by decide)), rfl, fun _ => ?_⟩
    rw [Chip.on, show R.PWR_STATUS_CAP_ACTIVE = St.PWR_CAP_ACTIVE.flag from rfl, Chip.getF_raise_flag _ rfl (fkey_ne_of_place _ (by decide))]
    rfl

theorem Chip.capCheck_moves {c : Chip} (hp : c.getF .pwr R.PWR_CTRL_CAP_POINT ≤ 7) (watts : Nat) (quiet : Bool) :
    (c.capCheck watts quiet).mem = c.mem ∧ (c.capCheck watts quiet).getF .pwr R.PWR_CTRL_CAP_POINT = c.capNext watts quiet ∧
      (c.capNext watts quiet < 7 → (c.capCheck watts quiet).on .pwr R.PWR_STATUS_CAP_ACTIVE = true) := by
  obtain ⟨hpoint, hmem, hflag⟩ := (c.capMoved (c.capNext watts quiet)).capActive_shows (decide (c.capNext watts quiet < 7))
  rw [c.capCheck_eq]
  exact ⟨hmem.trans (c.capMoved_mem _), hpoint.trans (c.capPoint_capMoved (Chip.capNext_le hp watts quiet)), fun h => hflag (decide_eq_true h)⟩

theorem Chip.capNext_stepping {c : Chip} (h : ∃ cl < 32, c.on (.clkcl cl) R.CLKCL_STATE_STEPPING = true) (watts : Nat) (quiet : Bool) :
    c.capNext watts quiet = c.getF .pwr R.PWR_CTRL_CAP_POINT := by
  obtain ⟨cl, hcl, hon⟩ := h
  exact if_pos (List.any_eq_true.2 ⟨cl, List.mem_range.2 hcl, hon⟩)

theorem Chip.capNext_settled {c : Chip} (h : ∀ cl < 32, c.on (.clkcl cl) R.CLKCL_STATE_STEPPING = false) (watts : Nat) (quiet : Bool) :
    let cap := min 3400 (max 1000 (c.getF .pwr R.PWR_CTRL_CAP_W))
    let p := c.getF .pwr R.PWR_CTRL_CAP_POINT
    c.capNext watts quiet = if cap < watts then p - 1
      else if quiet = true ∧ watts + c.getF .pwr R.PWR_CTRL_CAP_HYST_W < cap then min 7 (p + 1) else p := by
  have hbusy : (upto 32).any (fun cl => c.on (.clkcl cl) R.CLKCL_STATE_STEPPING) = false :=
    List.any_eq_false.2 fun cl hcl => by rw [h cl (List.mem_range.1 hcl)]; decide
  simp only [Chip.capNext, hbusy, Bool.false_eq_true, if_false, Bool.and_eq_true, decide_eq_true_eq]

/-! What a cluster that is there does (R462, R464, R465). -/

section
variable {c : Chip} {cl : Nat}

theorem Chip.clusterLive_iff : c.clusterLive cl = true ↔ c.clusterOff cl = false ∧ c.domainOn (clusterDomain cl) = true := by
  simp [Chip.clusterLive, clusterDomain]

theorem Chip.clusterGone_of_live (h : c.clusterLive cl = true) : c.clusterGone cl = false := by
  have hoff := (Chip.clusterLive_iff.1 h).1
  rw [Chip.clusterOff, Bool.or_eq_false_iff] at hoff
  exact hoff.1

theorem Chip.domainOn_of_live (h : c.clusterLive cl = true) : c.domainOn (clusterDomain cl) = true := (Chip.clusterLive_iff.1 h).2

/-- A die without a sensor at TRIP_C or more keeps its clusters. -/
theorem Chip.tripCheck_below {d : Nat} {t : Int} (h : t < 16 * min 110 (c.getF (.tel d) R.TEL_THERM_TRIP_C : Int)) : c.tripCheck d t = c :=
  if_pos (by simp [h])

theorem Chip.raise_power (c : Chip) (b : Blk) (st : Status) : (c.raise b st).power = c.power := rfl

/-- A new thermal point, and the targets that follow it. -/
def Chip.setThermal (c : Chip) (cl v : Nat) : Chip :=
  ({ c with power := { c.power with thermal := if v = 7 then c.power.thermal.erase cl else c.power.thermal.insert cl v } } : Chip).retarget

theorem Chip.setThermal_point (v : Nat) : KMap.getD (c.setThermal cl v).power.thermal cl 7 = v := by
  rw [Chip.setThermal, Chip.retarget_power]
  by_cases h : v = 7
  · simp [h, KMap.getD, KMap.find?_erase]
  · simp [h]

theorem Chip.setThermal_mem (v : Nat) : (c.setThermal cl v).mem = c.mem := Chip.retarget_mem _

/-- Too hot for its limit, and not at TRIP_C: the point falls, and THROTTLE shows. -/
theorem Chip.thermalTick_hot (hlive : c.clusterLive cl = true) (cooled : Bool)
    (hhot : 16 * (c.getF (.tel (cl / 8)) R.TEL_THERM_THROTTLE_C : Int) < degrees (c.getF (.tel (cl / 8)) (R.TEL_CL_TEMP_TEMP.nth (cl % 8))))
    (htrip : degrees (c.getF (.tel (cl / 8)) (R.TEL_CL_TEMP_TEMP.nth (cl % 8))) < 16 * min 110 (c.getF (.tel (cl / 8)) R.TEL_THERM_TRIP_C : Int))
    (hp : KMap.getD c.power.thermal cl 7 ≠ 0) :
    c.thermalTick cl cooled = (c.setThermal cl (KMap.getD c.power.thermal cl 7 - 1)).raise (.tel (cl / 8)) St.TEL_THROTTLE := by
  have hlim : ((c.setThermal cl (KMap.getD c.power.thermal cl 7 - 1)).raise (.tel (cl / 8)) St.TEL_THROTTLE).getF (.tel (cl / 8)) R.TEL_THERM_TRIP_C =
      c.getF (.tel (cl / 8)) R.TEL_THERM_TRIP_C := by
    rw [Chip.getF_raise_of_ne _ (fkey_ne_of_place _ (by decide)) (fkey_ne_of_place _ (by decide)), Chip.setThermal,
      Chip.getF_retarget _ _ (by decide) (by decide) (by decide)]
    rfl
  unfold Chip.thermalTick
  simp only [Chip.clusterGone_of_live hlive, Chip.domainOn_of_live hlive, Bool.not_true, Bool.or_self, Bool.false_eq_true, if_false, hhot, if_true, hp]
  exact Chip.tripCheck_below (by rw [← hlim] at htrip; exact htrip)

/-- Cool for long enough: the point rises. -/
theorem Chip.thermalTick_cooled (hlive : c.clusterLive cl = true)
    (hcool : degrees (c.getF (.tel (cl / 8)) (R.TEL_CL_TEMP_TEMP.nth (cl % 8))) < 16 * ((c.getF (.tel (cl / 8)) R.TEL_THERM_THROTTLE_C : Int) - 5))
    (hp : KMap.getD c.power.thermal cl 7 < 7) : c.thermalTick cl true = c.setThermal cl (KMap.getD c.power.thermal cl 7 + 1) := by
  unfold Chip.thermalTick
  dsimp only
  rw [if_neg (by simp [Chip.clusterGone_of_live hlive, Chip.domainOn_of_live hlive]), if_neg (by omega), if_pos (by simp [hcool, hp])]
  rfl

theorem Chip.opStep_starts (hlive : c.clusterLive cl = true) (hstep : c.on (.clkcl cl) R.CLKCL_STATE_STEPPING = false)
    (hop : c.getF (.clkcl cl) R.CLKCL_STATE_OP ≠ c.getF (.clkcl cl) R.CLKCL_STATE_TARGET) :
    c.opStep cl = c.setF (.clkcl cl) R.CLKCL_STATE_STEPPING 1 :=
  if_neg (by simp [Chip.domainOn_of_live hlive, hstep, hop])

theorem Chip.opStepDone_ends (hstep : c.on (.clkcl cl) R.CLKCL_STATE_STEPPING = true) :
    let b : Blk := .clkcl cl
    let op := c.getF b R.CLKCL_STATE_OP
    (c.opStepDone cl).getF b R.CLKCL_STATE_OP = (if op < c.getF b R.CLKCL_STATE_TARGET then op + 1 else op - 1) % 8 ∧
      (c.opStepDone cl).on b R.CLKCL_STATE_STEPPING = false ∧
      (c.opStepDone cl).getF b R.CLKCL_STEPS = (c.getF b R.CLKCL_STEPS + 1) % 2 ^ 64 ∧ (c.opStepDone cl).mem = c.mem := by
  intro b op
  have heq : c.opStepDone cl = ((((c.setF b R.CLKCL_STATE_OP (if op < c.getF b R.CLKCL_STATE_TARGET then op + 1 else op - 1)).setF b
      R.CLKCL_STATE_STEPPING 0).addF b R.CLKCL_STEPS 1).retarget) := by
    rw [Chip.opStepDone, hstep]
    rfl
  rw [heq]
  refine ⟨?_, ?_, ?_, Chip.retarget_mem _⟩
  · rw [Chip.getF_retarget _ _ (by decide) (by decide) (by decide), Chip.getF_addF_of_ne _ _ (fkey_ne_of_place _ (by decide)),
      Chip.getF_setF_place _ _ _ (by decide), Chip.getF_setF_self]
    rfl
  · rw [Chip.on, Chip.getF_retarget _ _ (by decide) (by decide) (by decide), Chip.getF_addF_of_ne _ _ (fkey_ne_of_place _ (by decide)),
      Chip.getF_setF_self]
    rfl
  · rw [Chip.getF_retarget _ _ (by decide) (by decide) (by decide), Chip.getF_addF_self, Chip.getF_setF_place _ _ _ (by decide),
      Chip.getF_setF_place _ _ _ (by decide)]
    rfl

/-- A droop has been counted, and its event raised. -/
def Chip.drooped (c : Chip) (cl : Nat) : Chip := (c.addF (.clkcl cl) R.CLKCL_DROOPS 1).raise (.clk (cl / 8)) St.CLK_DROOP

theorem Chip.getF_drooped (b : Blk) {f : Field} (hl : f.lsb < 64) (h1 : f.lsb ≠ 1) (h16 : f.lsb ≠ 16) :
    (c.drooped cl).getF b f = (c.addF (.clkcl cl) R.CLKCL_DROOPS 1).getF b f :=
  Chip.getF_raise_of_ne _ (fkey_ne_of_lsb hl (by decide) h1) (fkey_ne_of_lsb hl (by decide) h16)

theorem Chip.op_drooped : (c.drooped cl).getF (.clkcl cl) R.CLKCL_STATE_OP = c.getF (.clkcl cl) R.CLKCL_STATE_OP := by
  rw [Chip.getF_drooped _ (by decide) (by decide) (by decide), Chip.getF_addF_of_ne _ _ (fkey_ne_of_place _ (by decide))]

theorem Chip.drooped_counts : (c.drooped cl).getF (.clkcl cl) R.CLKCL_DROOPS = (c.getF (.clkcl cl) R.CLKCL_DROOPS + 1) % 2 ^ 64 ∧
    (c.drooped cl).on (.clk (cl / 8)) St.CLK_DROOP.flag = true := by
  constructor
  · rw [Chip.getF_drooped _ (by decide) (by decide) (by decide), Chip.getF_addF_self]
    rfl
  · rw [Chip.on, Chip.drooped, Chip.getF_raise_flag _ rfl (fkey_ne_of_place _ (by decide))]
    rfl

theorem Chip.droopDetect_live (hlive : c.clusterLive cl = true) : c.droopDetect cl =
    if c.getF (.clkcl cl) R.CLKCL_STATE_OP = 0 || c.power.stretched.contains cl then c.drooped cl
    else { c.drooped cl with power := { c.power with stretched := cl :: c.power.stretched } } := by
  rw [Chip.droopDetect, if_neg (by simp [Chip.clusterGone_of_live hlive, Chip.domainOn_of_live hlive]), ← c.op_drooped]
  rfl

theorem Chip.droopDetect_stretches (hlive : c.clusterLive cl = true) :
    (c.droopDetect cl).getF (.clkcl cl) R.CLKCL_DROOPS = (c.getF (.clkcl cl) R.CLKCL_DROOPS + 1) % 2 ^ 64 ∧
      (c.droopDetect cl).on (.clk (cl / 8)) St.CLK_DROOP.flag = true ∧ (c.droopDetect cl).mem = c.mem ∧
      ((c.droopDetect cl).power.stretched.contains cl = true ↔
        c.getF (.clkcl cl) R.CLKCL_STATE_OP ≠ 0 ∨ c.power.stretched.contains cl = true) := by
  obtain ⟨hcount, hflag⟩ := c.drooped_counts (cl := cl)
  rw [Chip.droopDetect_live hlive]
  split
  next h =>
    refine ⟨hcount, hflag, rfl, ?_⟩
    show c.power.stretched.contains cl = true ↔ _
    simp only [Bool.or_eq_true, decide_eq_true_eq] at h
    tauto
  next h =>
    refine ⟨hcount, hflag, rfl, ?_⟩
    simp only [Bool.or_eq_true, decide_eq_true_eq, not_or] at h
    simp [h.1]

end

/-! Readings of the sensors (R464, R469, R474). -/

section
variable {c : Chip}

theorem fkey_pwr_ne_tel (d : Nat) {f g : Field} (hf : f.off < 0x400 ∧ f.lsb < 64) (hg : g.off < 0x1000 ∧ g.lsb < 64) : fkey .pwr f ≠ fkey (.tel d) g := by
  simp only [fkey, Blk.base, dieSpan]
  omega

theorem Chip.domainOn_setF_tel (d : Nat) {f : Field} (hf : f.off < 0x1000 ∧ f.lsb < 64) (v n : Nat) : (c.setF (.tel d) f v).domainOn n = c.domainOn n := by
  rw [Chip.domainOn, Chip.getF_setF_of_ne _ _ (fkey_pwr_ne_tel d (by decide) hf), Chip.domainOn]

theorem Chip.clusterGone_setF {b : Blk} {f : Field} (hl : f.lsb = 0) (v cl : Nat) : (c.setF b f v).clusterGone cl = c.clusterGone cl := by
  rw [Chip.clusterGone, Chip.on, Chip.getF_setF_of_ne _ _ (fkey_ne_of_lsb (show 34 < 64 by decide) (by omega) (show 34 ≠ f.lsb by omega))]
  rfl

theorem degrees_toNat (t : BitVec 16) : degrees t.toNat = t.toInt := by
  rw [degrees, sextInt, BitVec.toInt_eq_toNat_cond]
  simp only [Nat.mod_eq_of_lt t.isLt]
  split <;> split <;> omega

theorem Chip.getF_sensorStore (id : Nat) (b : Blk) (f : Field) : (c.sensorStore id).getF b f = c.getF b f := rfl

theorem Chip.sensorRefresh_input (h62 : c.domainOn 62 = true) (us : Nat) (v a w : BitVec 16) (j : BitVec 64) :
    c.sensorRefresh us (.input v a w j) = (((((c.setF (.tel 0) R.TEL_TIME us).setFs (.tel 0) [(R.TEL_INPUT_VOLTS, v.toNat), (R.TEL_INPUT_AMPS, a.toNat),
      (R.TEL_INPUT_WATTS, w.toNat)]).setF .pwr R.PWR_ENERGY_J j.toNat).sensorStore 1).sensorStore 2).sensorStore 3 := by
  unfold Chip.sensorRefresh
  dsimp only
  rw [Chip.domainOn_setF_tel 0 (by decide), h62]
  rfl

/-- Every field of the input sensor shows what was read (R469). -/
theorem Chip.sensorRefresh_input_shows (h62 : c.domainOn 62 = true) (v a w : BitVec 16) (time j : BitVec 64) :
    let d := c.sensorRefresh time.toNat (.input v a w j)
    d.getF (.tel 0) R.TEL_INPUT_VOLTS = v.toNat ∧ d.getF (.tel 0) R.TEL_INPUT_AMPS = a.toNat ∧ d.getF (.tel 0) R.TEL_INPUT_WATTS = w.toNat ∧
      d.getF .pwr R.PWR_ENERGY_J = j.toNat ∧ d.getF (.tel 0) R.TEL_TIME = time.toNat ∧ KMap.getD d.pldm.readings 3 0 = w.toNat := by
  intro d
  let e := ((c.setF (.tel 0) R.TEL_TIME time.toNat).setFs (.tel 0) [(R.TEL_INPUT_VOLTS, v.toNat), (R.TEL_INPUT_AMPS, a.toNat),
      (R.TEL_INPUT_WATTS, w.toNat)]).setF .pwr R.PWR_ENERGY_J j.toNat
  have hd : d = ((e.sensorStore 1).sensorStore 2).sensorStore 3 := Chip.sensorRefresh_input h62 _ v a w j
  have htel {f : Field} (hf : f.off < 0x1000 ∧ f.lsb < 64) : e.getF (.tel 0) f = ((c.setF (.tel 0) R.TEL_TIME time.toNat).setFs (.tel 0)
      [(R.TEL_INPUT_VOLTS, v.toNat), (R.TEL_INPUT_AMPS, a.toNat), (R.TEL_INPUT_WATTS, w.toNat)]).getF (.tel 0) f :=
    Chip.getF_setF_of_ne _ _ (fkey_pwr_ne_tel 0 (by decide) hf).symm
  have hwatts : e.getF (.tel 0) R.TEL_INPUT_WATTS = w.toNat := by
    rw [htel (by decide)]
    simp only [Chip.setFs_cons, Chip.setFs_nil]
    rw [Chip.getF_setF_self]
    exact Nat.mod_eq_of_lt w.isLt
  have hget (b : Blk) (f : Field) : d.getF b f = e.getF b f := by
    rw [hd, Chip.getF_sensorStore, Chip.getF_sensorStore, Chip.getF_sensorStore]
  refine ⟨?_, ?_, (hget _ _).trans hwatts, ?_, ?_, ?_⟩
  · rw [hget, htel (by decide)]
    simp only [Chip.setFs_cons, Chip.setFs_nil]
    rw [Chip.getF_setF_place _ _ _ (by decide), Chip.getF_setF_place _ _ _ (by decide), Chip.getF_setF_self]
    exact Nat.mod_eq_of_lt v.isLt
  · rw [hget, htel (by decide)]
    simp only [Chip.setFs_cons, Chip.setFs_nil]
    rw [Chip.getF_setF_place _ _ _ (by decide), Chip.getF_setF_self]
    exact Nat.mod_eq_of_lt a.isLt
  · rw [hget, Chip.getF_setF_self]
    exact Nat.mod_eq_of_lt j.isLt
  · rw [hget, htel (by decide)]
    simp only [Chip.setFs_cons, Chip.setFs_nil]
    rw [Chip.getF_setF_place _ _ _ (by decide), Chip.getF_setF_place _ _ _ (by decide), Chip.getF_setF_place _ _ _ (by decide), Chip.getF_setF_self]
    exact Nat.mod_eq_of_lt time.isLt
  · rw [hd]
    exact (KMap.getD_insert_self _ _ _ _).trans hwatts

theorem Chip.sensorRefresh_package (us : Nat) {die : Nat} (hdie : die < 4) (t : BitVec 16) (hup : c.sensorUp (14 + die) = true)
    (ht : t.toInt < 16 * min 110 (c.getF (.tel die) R.TEL_THERM_TRIP_C : Int)) :
    c.sensorRefresh us (.package ⟨die, hdie⟩ t) =
      ((c.setF (.tel 0) R.TEL_TIME us).setF (.tel die) R.TEL_TEMP_MEM_MAX t.toNat).sensorStore (14 + die) := by
  have hup' : (c.setF (.tel 0) R.TEL_TIME us).sensorUp (14 + die) = true := by
    have h1 : ¬ (10 ≤ 14 + die ∧ 14 + die < 14) := by omega
    have h2 : 14 ≤ 14 + die ∧ 14 + die < 18 := by omega
    have h3 : (decide (14 + die < 4) || 14 + die == 18 || 14 + die == 19) = false := by
      simp only [Bool.or_eq_false_iff, decide_eq_false_iff_not, beq_eq_false_iff_ne]
      omega
    rw [Chip.sensorUp, if_neg (by rw [h3]; decide), if_neg h1, if_pos h2] at hup ⊢
    rw [Chip.domainOn_setF_tel 0 (by decide), Chip.domainOn_setF_tel 0 (by decide)]
    exact hup
  have hlim : (((c.setF (.tel 0) R.TEL_TIME us).setF (.tel die) R.TEL_TEMP_MEM_MAX t.toNat).sensorStore (14 + die)).getF (.tel die) R.TEL_THERM_TRIP_C =
      c.getF (.tel die) R.TEL_THERM_TRIP_C := by
    show ((c.setF (.tel 0) R.TEL_TIME us).setF (.tel die) R.TEL_TEMP_MEM_MAX t.toNat).getF (.tel die) R.TEL_THERM_TRIP_C = _
    rw [Chip.getF_setF_of_ne _ _ (fkey_ne_of_lsb (by decide) (by decide) (by decide)),
      Chip.getF_setF_of_ne _ _ (fkey_ne_of_lsb (by decide) (by decide) (by decide))]
  unfold Chip.sensorRefresh
  dsimp only
  rw [if_neg (by rw [hup']; decide)]
  exact Chip.tripCheck_below (by rw [degrees_toNat, hlim]; exact ht)

theorem Chip.sensorRefresh_coolant (h62 : c.domainOn 62 = true) (us : Nat) (outlet : Bool) (t : BitVec 16) :
    c.sensorRefresh us (.coolant outlet t) = ((c.setF (.tel 0) R.TEL_TIME us).setF (.tel 0)
      (if outlet then R.TEL_COOLANT_OUTLET else R.TEL_COOLANT_INLET) t.toNat).sensorStore (if outlet then 19 else 18) := by
  unfold Chip.sensorRefresh
  dsimp only
  rw [Chip.domainOn_setF_tel 0 (by decide), h62]
  rfl

/-! A cluster's sensor (R464, R474). -/

/-- A junction's reading and its die's hottest are stored. -/
def Chip.junctionStored (c : Chip) (cl : Fin 32) (us : Nat) (t : BitVec 16) : Chip :=
  let e := (c.setF (.tel 0) R.TEL_TIME us).setF (.tel (cl / 8)) (R.TEL_CL_TEMP_TEMP.nth (cl % 8)) t.toNat
  e.setF (.tel (cl / 8)) R.TEL_TEMP_JMAX (e.hottest (cl / 8))

/-- The state before the check against TRIP_C: the cluster is no longer blind, and the targets follow. -/
def Chip.junctionRead (c : Chip) (cl : Fin 32) (us : Nat) (t : BitVec 16) : Chip :=
  let e := c.junctionStored cl us t
  (({ e with power := { e.power with blind := e.power.blind.filter (· != cl.val) } } : Chip).retarget).sensorStore (10 + cl / 8)

section
variable {cl : Fin 32} (hlive : c.clusterLive cl = true) (h62 : c.domainOn 62 = true) (us : Nat)
include hlive h62

theorem Chip.junction_reached : ((c.setF (.tel 0) R.TEL_TIME us).clusterGone cl || !(c.setF (.tel 0) R.TEL_TIME us).domainOn (clusterDomain cl) ||
    !(c.setF (.tel 0) R.TEL_TIME us).domainOn 62) = false := by
  rw [Chip.clusterGone_setF rfl, Chip.domainOn_setF_tel 0 (by decide), Chip.domainOn_setF_tel 0 (by decide), Chip.clusterGone_of_live hlive,
    Chip.domainOn_of_live hlive, h62]
  rfl

theorem Chip.sensorRefresh_blind : (c.sensorRefresh us (.junction cl none)).thermalPoint cl = 0 ∧
    (c.sensorRefresh us (.junction cl none)).on (.tel (cl / 8)) St.TEL_SENSOR_FAIL.flag = true := by
  let e := (c.setF (.tel 0) R.TEL_TIME us).raise (.tel (cl / 8)) St.TEL_SENSOR_FAIL
  have heq : c.sensorRefresh us (.junction cl none) = if e.power.blind.contains cl.val then e
      else ({ e with power := { e.power with blind := cl.val :: e.power.blind } } : Chip).retarget := by
    unfold Chip.sensorRefresh
    dsimp only [Option.map_none]
    unfold Chip.junction
    dsimp only
    rw [if_neg (by rw [Chip.junction_reached hlive h62 us]; decide)]
  have hflag : e.on (.tel (cl / 8)) St.TEL_SENSOR_FAIL.flag = true := by
    rw [Chip.on, Chip.getF_raise_flag _ rfl (fkey_ne_of_place _ (by decide))]
    rfl
  rw [heq]
  split
  next h => exact ⟨if_pos h, hflag⟩
  next h =>
    refine ⟨?_, ?_⟩
    · rw [Chip.thermalPoint, Chip.retarget_power]
      exact if_pos (by simp)
    · rw [Chip.on, Chip.getF_retarget _ _ (by decide) (by decide) (by decide)]
      exact hflag

theorem Chip.sensorRefresh_junction (t : BitVec 16) :
    c.sensorRefresh us (.junction cl (some t)) = (c.junctionRead cl us t).tripCheck (cl / 8) t.toInt := by
  unfold Chip.sensorRefresh
  dsimp only [Option.map_some]
  unfold Chip.junction
  dsimp only
  rw [if_neg (by rw [Chip.junction_reached hlive h62 us]; decide)]
  rw [degrees_toNat]
  rfl

end

theorem Chip.getF_junctionRead (cl : Fin 32) (us : Nat) (t : BitVec 16) (b : Blk) {f : Field} (hl : f.lsb < 64) (h3 : f.lsb ≠ 3) (h7 : f.lsb ≠ 7) :
    (c.junctionRead cl us t).getF b f = (c.junctionStored cl us t).getF b f := by
  rw [Chip.junctionRead, Chip.getF_sensorStore, Chip.getF_retarget _ b hl h3 h7]
  rfl

theorem Chip.trip_junctionRead (cl : Fin 32) (us : Nat) (t : BitVec 16) (d : Nat) :
    (c.junctionRead cl us t).getF (.tel d) R.TEL_THERM_TRIP_C = c.getF (.tel d) R.TEL_THERM_TRIP_C := by
  rw [Chip.getF_junctionRead cl us t _ (by decide) (by decide) (by decide), Chip.junctionStored,
    Chip.getF_setF_of_ne _ _ (fkey_ne_of_lsb (by decide) (by decide) (by decide)),
    Chip.getF_setF_of_ne _ _ (fkey_ne_of_lsb (by decide) (show (0 : Nat) < 64 by decide) (show (8 : Nat) ≠ 0 by decide)),
    Chip.getF_setF_of_ne _ _ (fkey_ne_of_lsb (by decide) (by decide) (by decide))]

theorem Chip.temp_junctionRead (cl : Fin 32) (us : Nat) (t : BitVec 16) :
    (c.junctionRead cl us t).getF (.tel (cl / 8)) (R.TEL_CL_TEMP_TEMP.nth (cl % 8)) = t.toNat := by
  rw [Chip.getF_junctionRead cl us t _ (show (0 : Nat) < 64 by decide) (show (0 : Nat) ≠ 3 by decide) (show (0 : Nat) ≠ 7 by decide), Chip.junctionStored,
    Chip.getF_setF_place _ _ _ (by simp only [Field.nth, R.TEL_CL_TEMP_TEMP, R.TEL_TEMP_JMAX]; omega), Chip.getF_setF_self]
  exact Nat.mod_eq_of_lt t.isLt

theorem Chip.domainOn_junctionRead (cl : Fin 32) (us : Nat) (t : BitVec 16) (n : Nat) : (c.junctionRead cl us t).domainOn n = c.domainOn n := by
  have hoff : (R.TEL_CL_TEMP_TEMP.nth (cl % 8)).off < 0x1000 := by
    simp only [Field.nth, R.TEL_CL_TEMP_TEMP]
    omega
  rw [Chip.domainOn, Chip.getF_junctionRead cl us t _ (by decide) (by decide) (by decide), Chip.junctionStored,
    Chip.getF_setF_of_ne _ _ (fkey_pwr_ne_tel _ (by decide) (by decide)), Chip.getF_setF_of_ne _ _ (fkey_pwr_ne_tel _ (by decide) ⟨hoff, show (0 : Nat) < 64 by decide⟩),
    Chip.getF_setF_of_ne _ _ (fkey_pwr_ne_tel _ (by decide) (by decide))]
  rfl

/-- A die that reads TRIP_C or more loses every cluster domain that is on (R464). -/
theorem Chip.tripCheck_at {d n : Nat} {t : Int} (ht : 16 * min 110 (c.getF (.tel d) R.TEL_THERM_TRIP_C : Int) ≤ t) (hn : n < 8)
    (hon : c.domainOn (15 * d + n) = true) :
    c.tripCheck d t = forAll (((upto 8).map (15 * d + ·)).filter c.domainOn)
      (((c.raise (.tel d) St.TEL_TRIP).raise .pwr St.PWR_THERMAL_TRIP).pldmEvent 257 d) (fun x n => x.domainOff n 0) := by
  have hmem : 15 * d + n ∈ ((upto 8).map (15 * d + ·)).filter c.domainOn :=
    List.mem_filter.2 ⟨List.mem_map.2 ⟨n, List.mem_range.2 hn, rfl⟩, hon⟩
  refine if_neg ?_
  simp only [Bool.or_eq_true, decide_eq_true_eq, List.isEmpty_iff, not_or, not_lt]
  exact ⟨ht, List.ne_nil_of_mem hmem⟩

end

theorem execSensorRefresh_cool {s : State} (hup : s.up) {us : BitVec 64} {r : SensorReading} (h : tooHot r = false) :
    exec (.sensorRefresh us r) s = s.goes (s.chip.sensorRefresh us.toNat r).after :=
  exec_of_onMc (f := (·.sensorRefresh us.toNat r)) hup (if_neg (by rw [h]; decide))

/-- Settles O59: the cap by `Chip.capCheck_moves`, each command of a cluster by its own lemma, and each reading by what its refresh stores. -/
theorem pointsAndSensorsFollow : Obligations.PointsAndSensorsFollow := by
  unfold Obligations.PointsAndSensorsFollow
  refine ⟨fun s watts quiet hup => ?cap, fun s cl hr => ?cluster, fun s us hup => ?sensors⟩
  case cap =>
    intro c cap p hp
    obtain ⟨hmem, hpoint, hflag⟩ := Chip.capCheck_moves hp watts.toNat quiet
    refine ⟨_, exec_of_onMc (f := (·.capCheck watts.toNat quiet)) hup rfl, hmem, fun h => ?_, fun h => ?_, fun h => hflag ?_⟩
    · exact hpoint.trans (Chip.capNext_stepping h _ _)
    · exact hpoint.trans (Chip.capNext_settled h _ _)
    · exact hpoint ▸ h
  case cluster =>
    intro c b op t hot trip p point
    have hlive : s.chip.clusterLive cl = true := hr.2
    refine ⟨fun cooled hhot htrip hp0 hp7 => ?_, fun hcool hp => ?_, fun hstep hop => ?_, fun hstep => ?_, ?_, ?_⟩
    · refine ⟨_, exec_of_onCluster (f := fun c => (c.thermalTick cl cooled).after) hr rfl, ?_⟩
      rw [Chip.thermalTick_hot hlive cooled hhot htrip hp0]
      refine ⟨?_, ?_, (Chip.raise_mem _ _ _).trans (Chip.setThermal_mem _)⟩
      · show KMap.getD (Chip.raise _ _ _).power.thermal cl 7 = _
        rw [Chip.raise_power]
        exact Chip.setThermal_point _
      · rw [Chip.on, Chip.getF_raise_flag _ rfl (fkey_ne_of_place _ (by decide))]
        rfl
    · refine ⟨_, exec_of_onCluster (f := fun c => (c.thermalTick cl true).after) hr rfl, ?_⟩
      rw [Chip.thermalTick_cooled hlive hcool hp]
      exact ⟨Chip.setThermal_point _, Chip.setThermal_mem _⟩
    · rw [exec_of_onCluster (f := fun c => (c.opStep cl).after) hr rfl, Chip.opStep_starts hlive hstep hop]
    · exact ⟨_, exec_of_onCluster (f := fun c => (c.opStepDone cl).after) hr rfl, Chip.opStepDone_ends hstep⟩
    · exact ⟨_, exec_of_onCluster (f := fun c => (c.droopDetect cl).after) hr rfl, Chip.droopDetect_stretches hlive⟩
    · exact exec_of_onCluster (f := fun c => (c.droopEnd cl).after) hr rfl
  case sensors =>
    intro c
    refine ⟨fun v a w j h62 => ?_, fun cl t ht => ?_, fun cl hlive h62 => ⟨?_, fun t ht => ?_⟩, fun die t hsensor ht => ?_, fun outlet t h62 => ?_,
      fun id hid => ?_⟩
    · exact ⟨_, execSensorRefresh_cool hup rfl, Chip.sensorRefresh_input_shows h62 v a w us j⟩
    · exact if_pos (decide_eq_true ht)
    · exact ⟨_, execSensorRefresh_cool hup rfl, Chip.sensorRefresh_blind hlive h62 us.toNat⟩
    · have hexec : exec (.sensorRefresh us (.junction cl (some t))) s = s.goes ((s.chip.junctionRead cl us.toNat t).tripCheck (cl / 8) t.toInt).after := by
        rw [execSensorRefresh_cool hup (r := .junction cl (some t)) (decide_eq_false (by omega : ¬ 2000 < t.toInt)), Chip.sensorRefresh_junction hlive h62]
      have hlim := s.chip.trip_junctionRead cl us.toNat t (cl / 8)
      refine ⟨fun hcool => ?_, fun hhot => ?_, s.chip.temp_junctionRead cl us.toNat t⟩
      · rw [hexec, Chip.tripCheck_below (by rw [hlim]; exact hcool)]
        rfl
      · rw [hexec, Chip.tripCheck_at (n := cl % 8) (by rw [hlim]; exact hhot) (by omega)
          ((s.chip.domainOn_junctionRead cl us.toNat t _).trans (Chip.domainOn_of_live hlive))]
        rfl
    · refine ⟨_, execSensorRefresh_cool hup rfl, ?_⟩
      rw [Chip.sensorRefresh_package us.toNat die.isLt t hsensor ht]
      exact ⟨(Chip.getF_setF_self _ _ _ _).trans (Nat.mod_eq_of_lt t.isLt), rfl⟩
    · refine ⟨_, execSensorRefresh_cool hup rfl, ?_⟩
      rw [Chip.sensorRefresh_coolant h62]
      refine ⟨(Chip.getF_setF_self _ _ _ _).trans (Nat.mod_eq_of_lt ?_), rfl⟩
      cases outlet <;> exact t.isLt
    · have hmem : numericSensors.contains id.val = true := List.contains_iff_mem.2 hid
      have hstore : s.chip.sensorRefresh us.toNat (.computed id) = (s.chip.setF (.tel 0) R.TEL_TIME us.toNat).sensorStore id := if_pos hmem
      rw [execSensorRefresh_cool hup rfl, hstore]

end Sys2Proof.Machine
end

section
/-! SUPPORT and certificates. The security island: requests, reports, owner slots and the SVN floor (R441-R451). -/

namespace Sys2Proof.Machine

/-! The SVN floor (R441). -/

/-- Bits burnt one after another: the old ones, and those of the list. -/
theorem bit_burnt (l : List Nat) (v i : Nat) : bit (l.foldl (fun v b => v ||| 2 ^ b) v) i = (bit v i || l.contains i) := by
  induction l generalizing v with
  | nil => simp
  | cons b l ih =>
    rw [List.foldl_cons, ih, List.contains_cons]
    simp only [bit, Nat.testBit_or, Nat.testBit_two_pow, Bool.or_assoc]
    rw [Bool.beq_eq_decide_eq, decide_eq_decide.2 (eq_comm (a := b) (b := i))]

/-- Disjoint bits add to the count. -/
theorem length_filter_or {l m : List Nat} {p : Nat → Bool} (hl : l.Nodup) (hm : m.Nodup) (hsub : m ⊆ l) (hnew : ∀ i ∈ m, p i = false) :
    (l.filter (fun i => p i || m.contains i)).length = (l.filter p).length + m.length := by
  have hdisj : Disjoint (l.filter p).toFinset m.toFinset := by
    rw [Finset.disjoint_left]
    intro i hi him
    rw [List.mem_toFinset] at hi him
    have hset := (List.mem_filter.1 hi).2
    rw [hnew i him] at hset
    exact Bool.noConfusion hset
  have hunion : (l.filter (fun i => p i || m.contains i)).toFinset = (l.filter p).toFinset ∪ m.toFinset := by
    ext i
    simp only [List.mem_toFinset, List.mem_filter, Finset.mem_union, Bool.or_eq_true, List.contains_iff_mem]
    exact ⟨fun ⟨hi, h⟩ => h.imp (fun hp => ⟨hi, hp⟩) id, fun h => h.elim (fun ⟨hi, hp⟩ => ⟨hi, .inl hp⟩) fun him => ⟨hsub him, .inr him⟩⟩
  rw [← List.toFinset_card_of_nodup (hl.filter _), hunion, Finset.card_union_of_disjoint hdisj, List.toFinset_card_of_nodup (hl.filter _),
    List.toFinset_card_of_nodup hm]

/-- As many bits are burnt as are asked for, while that many of the 255 are left (R441). -/
theorem popCount_burnUp {v n : Nat} (h : popCount v 255 + n ≤ 255) : popCount (burnUp v n) 255 = popCount v 255 + n := by
  let free := (upto 255).filter (fun b => !bit v b)
  have hlen : popCount v 255 + free.length = 255 := by
    have hall := List.length_eq_length_filter_add (l := upto 255) (bit v)
    rw [upto, List.length_range] at hall
    exact hall.symm
  have hnodup : (upto 255).Nodup := List.nodup_range
  have hmem {i : Nat} (hi : i ∈ free.take n) : i ∈ upto 255 ∧ bit v i = false := by
    have hfree := List.mem_filter.1 (List.mem_of_mem_take hi)
    exact ⟨hfree.1, by simpa using hfree.2⟩
  have hbit : bit (burnUp v n) = fun i => bit v i || (free.take n).contains i := funext fun i => bit_burnt _ v i
  rw [popCount, bitsOf, hbit, length_filter_or hnodup ((hnodup.filter _).sublist (List.take_sublist n free)) (fun _ hi => (hmem hi).1)
    fun _ hi => (hmem hi).2, List.length_take, Nat.min_eq_left (by omega)]
  rfl

/-! The certificate (R445). -/

theorem length_certSign (body : List Byte) : (Config.certSign body).length = 2820 := by
  rw [Config.certSign, List.length_map, List.length_range]

theorem FuseRecord.length_certBody (f : FuseRecord) : f.certBody.length = 128 := by
  simp only [FuseRecord.certBody, Config.shake256, List.length_append, leBytes_length, List.length_map, List.length_range, upto]

/-! The queue of requests (R450). -/

theorem Chip.setQ_of_queue {c : Chip} {l : List AttReq} (h : c.island.queue = l) : c.setQ l = c := by
  subst h
  rfl

/-- The island serves: stage 2 has ended, and neither it nor its die has lost its power. -/
structure Chip.Serves (c : Chip) : Prop where
  stage : 3 ≤ c.getF (.boot 0) R.BOOT_STATE_STAGE
  power : c.faulted 61 = false
  die : c.silentDie = false

section
variable {c : Chip} {o : Otp} {torn : Nat} {tree : Bool} {r : AttReq} {l : List AttReq}

theorem Chip.islandServe_idle (h : c.island.queue = []) (fuel : Nat) : c.islandServe o torn tree fuel = (c, o) := by
  cases fuel with
  | zero => rfl
  | succ fuel =>
    unfold Chip.islandServe
    rw [h]
    split <;> rfl

/-- While a signature runs, the queue waits. -/
theorem Chip.islandServe_signing (h : c.island.queue = r :: l) (hleaf : r.leaf.isSome = true) (fuel : Nat) :
    c.islandServe o torn tree fuel = (c, o) := by
  cases fuel with
  | zero => rfl
  | succ fuel =>
    unfold Chip.islandServe
    rw [h]
    dsimp only
    rw [if_pos hleaf]
    split <;> rfl

theorem Chip.islandServe_cert (hs : c.Serves) (h : c.island.queue = r :: l) (hleaf : r.leaf = none) (hkind : r.kind = 1) (fuel : Nat) :
    c.islandServe o torn tree (fuel + 1) =
      (((c.setQ l).addF .sec R.SEC_CERTS 1).attData r.source r.nonce o.fuse.certificate).islandServe o torn tree fuel := by
  have hgo : ¬ (decide (c.getF (.boot 0) R.BOOT_STATE_STAGE < 3) || c.faulted 61 || c.silentDie) = true := by
    have hstage := hs.stage
    rw [hs.power, hs.die]
    simp only [Bool.or_false, decide_eq_true_eq]
    omega
  rw [Chip.islandServe, if_neg hgo, h]
  dsimp only
  rw [hleaf, if_neg (by decide), if_pos hkind]

theorem Chip.islandServe_report (hs : c.Serves) (h : c.island.queue = r :: l) (hleaf : r.leaf = none) (hkind : r.kind ≠ 1) (fuel : Nat) :
    c.islandServe o torn tree (fuel + 1) =
      let z := c.reportStart o r torn tree
      if z.2.2 then (z.1.setQ l).islandServe z.2.1 torn tree fuel else (z.1, z.2.1) := by
  have hgo : ¬ (decide (c.getF (.boot 0) R.BOOT_STATE_STAGE < 3) || c.faulted 61 || c.silentDie) = true := by
    have hstage := hs.stage
    rw [hs.power, hs.die]
    simp only [Bool.or_false, decide_eq_true_eq]
    omega
  rw [Chip.islandServe, if_neg hgo, h]
  dsimp only
  rw [hleaf, if_neg (by decide), if_neg hkind]

/-- A request on the sideband joins the queue, unless eight wait there (R450). -/
theorem Chip.attAdmit_sideband (hpower : c.faulted 61 = false) {kind : Nat} (hkind : kind ≤ 1) (nonce : List Byte) :
    c.attAdmit 0 none nonce kind = if 8 ≤ c.island.queue.length then (c.raise .sec St.SEC_BUSY).attRefuse none nonce COMP_ATT_BUSY
      else c.setQ (c.island.queue ++ [{ source := none, nonce := nonce, kind := kind }]) := by
  unfold Chip.attAdmit
  dsimp only
  rw [hpower, if_neg (by decide), if_neg (by decide), if_neg (by omega)]
  rfl

/-! A report that starts (R444, R446, R450). -/

variable (hfault : c.island.fault = false) (hkey : o.key = true)
include hfault hkey

theorem Chip.reportStart_spent (hex : c.exhausted o = true) : c.reportStart o r torn tree =
    (((c.showOtp o).raise .sec St.SEC_EXHAUSTED).attRefuse r.source r.nonce COMP_ATT_EXHAUSTED, o, true) := by
  unfold Chip.reportStart
  dsimp only
  rw [if_neg (by rw [hfault, hkey]; decide), if_pos hex]

theorem Chip.reportStart_noToken (hex : c.exhausted o = false) (ht : c.getF .sec R.SEC_TOKENS = 0) : c.reportStart o r torn tree =
    ((c.raise .sec St.SEC_BUSY).attRefuse r.source r.nonce COMP_ATT_BUSY, o, true) := by
  unfold Chip.reportStart
  dsimp only
  rw [if_neg (by rw [hfault, hkey]; decide), if_neg (by rw [hex]; decide), if_pos ht]

/-- A leaf and a token are taken, and the signature of the request at the head of the queue runs. -/
def Chip.signing (c : Chip) (o : Otp) (r : AttReq) : Chip :=
  let d := (c.takeLeaf.1.setF .sec R.SEC_TOKENS (c.takeLeaf.1.getF .sec R.SEC_TOKENS - 1)).showOtp o
  d.setQ ({ r with leaf := some c.takeLeaf.2, body := d.report o r c.takeLeaf.2 } :: d.island.queue.drop 1)

theorem Chip.reportStart_ready (ht : c.getF .sec R.SEC_TOKENS ≠ 0) (hleaf : c.leafReady = true) :
    c.reportStart o r torn true = (c.signing o r, o, false) := by
  have hex : c.exhausted o = false := by rw [Chip.exhausted, hleaf]; rfl
  unfold Chip.reportStart
  dsimp only
  rw [if_neg (by rw [hfault, hkey]; decide), if_neg (by rw [hex]; decide), if_neg ht, if_pos hleaf]
  rfl

/-- The block that is reserved becomes the one that leaves come from. -/
def Chip.reserved (c : Chip) (o : Otp) (b : Nat) : Chip :=
  (forAll (upto (o.skipped b)) c (fun c _ => c.raise .sec St.SEC_OTP_TORN)).setFs .sec [(R.SEC_INDEX_NEXT, 256 * b), (R.SEC_INDEX_RESERVED, 1)]

theorem Chip.reportStart_reserves (ht : c.getF .sec R.SEC_TOKENS ≠ 0) (hleaf : c.leafReady = false) {b : Nat} (hb : o.freeBlock = some b) :
    let p : Otp := { o with blocks := o.blocks ||| 2 ^ b }
    c.reportStart o r 0 true = ((c.reserved p b).signing p r, p, false) := by
  intro p
  have hex : c.exhausted o = false := by rw [Chip.exhausted, hb, Option.isNone_some, Bool.and_false]
  unfold Chip.reportStart
  dsimp only
  rw [if_neg (by rw [hfault, hkey]; decide), if_neg (by rw [hex]; decide), if_neg ht, if_neg (by rw [hleaf]; decide), Otp.reserve_clean hb]
  rfl

end

/-! What a signature takes. -/

section
variable {c : Chip} {o : Otp} {r : AttReq}

theorem Chip.getF_showOtp (o : Otp) {f : Field} (hf : 0x38 ≤ f.off ∨ f = R.SEC_INDEX_NEXT) : (c.showOtp o).getF .sec f = c.getF .sec f := by
  unfold Chip.showOtp
  dsimp only
  refine Chip.getF_setFs_of_fields c fun g hg => fkey_ne_of_place _ ?_
  simp only [List.map_cons, List.map_nil, List.mem_cons, List.not_mem_nil, or_false] at hg
  rcases hf with hoff | rfl
  · rcases hg with rfl | rfl | rfl | rfl | rfl <;>
      simp only [R.SEC_STATE_OWNER_SET, R.SEC_STATE_OWNER_OFF, R.SEC_STATE_SVN_FLOOR, R.SEC_INDEX_BLOCKS, R.SEC_STATE_KEY] <;> omega
  · rcases hg with rfl | rfl | rfl | rfl | rfl <;> decide

theorem Chip.takeLeaf_leaf : c.takeLeaf.2 = c.getF .sec R.SEC_INDEX_NEXT := by
  unfold Chip.takeLeaf
  dsimp only
  split <;> rfl

theorem Chip.tokens_takeLeaf : c.takeLeaf.1.getF .sec R.SEC_TOKENS = c.getF .sec R.SEC_TOKENS := by
  unfold Chip.takeLeaf
  dsimp only
  split
  · simp only [Chip.setFs_cons, Chip.setFs_nil]
    rw [Chip.getF_setF_place _ _ _ (by decide), Chip.getF_setF_place _ _ _ (by decide)]
  · rw [Chip.getF_setF_place _ _ _ (by decide)]

theorem Chip.next_takeLeaf (hk : c.getF .sec R.SEC_INDEX_NEXT < 0x100000) : c.takeLeaf.1.getF .sec R.SEC_INDEX_NEXT =
    if c.getF .sec R.SEC_INDEX_NEXT % 256 = 255 then 0x100000 else c.getF .sec R.SEC_INDEX_NEXT + 1 := by
  unfold Chip.takeLeaf
  dsimp only
  split
  · simp only [Chip.setFs_cons, Chip.setFs_nil]
    rw [Chip.getF_setF_place _ _ _ (by decide), Chip.getF_setF_self]
    rfl
  · rw [Chip.getF_setF_self]
    exact Nat.mod_eq_of_lt (show _ < 2 ^ 21 by omega)

theorem Chip.island_takeLeaf : c.takeLeaf.1.island = c.island := by
  unfold Chip.takeLeaf
  dsimp only
  split <;> rfl

theorem Chip.getF_setQ (l : List AttReq) (b : Blk) (f : Field) : (c.setQ l).getF b f = c.getF b f := rfl

theorem Chip.tokens_signing (ht : c.getF .sec R.SEC_TOKENS < 256) :
    (c.signing o r).getF .sec R.SEC_TOKENS = c.getF .sec R.SEC_TOKENS - 1 := by
  rw [Chip.signing, Chip.getF_setQ, Chip.getF_showOtp o (.inl (by decide)), Chip.getF_setF_self, Chip.tokens_takeLeaf]
  exact Nat.mod_eq_of_lt (show _ < 2 ^ 8 by omega)

theorem Chip.next_signing : (c.signing o r).getF .sec R.SEC_INDEX_NEXT = c.takeLeaf.1.getF .sec R.SEC_INDEX_NEXT := by
  rw [Chip.signing, Chip.getF_setQ, Chip.getF_showOtp o (.inr rfl), Chip.getF_setF_place _ _ _ (by decide)]

theorem Chip.island_setFs (b : Blk) (l : List (Field × Nat)) : (c.setFs b l).island = c.island :=
  forAll_keeps (·.island) l c (fun c e => c.setF b e.1 e.2) fun _ _ => rfl

theorem Chip.island_showOtp (o : Otp) : (c.showOtp o).island = c.island := Chip.island_setFs _ _

theorem Chip.queue_setQ (l : List AttReq) : (c.setQ l).island.queue = l := rfl

theorem Chip.queue_signing (hq : c.island.queue = [r]) : ∃ q, (c.signing o r).island.queue = [q] ∧ q.leaf = some (c.getF .sec R.SEC_INDEX_NEXT) ∧
    q.nonce = r.nonce := by
  have hisland : ((c.takeLeaf.1.setF .sec R.SEC_TOKENS (c.takeLeaf.1.getF .sec R.SEC_TOKENS - 1)).showOtp o).island = c.island :=
    Chip.island_showOtp o |>.trans Chip.island_takeLeaf
  rw [Chip.signing, Chip.queue_setQ, hisland, hq, Chip.takeLeaf_leaf]
  exact ⟨_, rfl, rfl, rfl⟩

theorem Chip.island_reserved (o : Otp) (b : Nat) : (c.reserved o b).island = c.island :=
  (Chip.island_setFs _ _).trans (forAll_keeps (·.island) _ c (fun c _ => c.raise .sec St.SEC_OTP_TORN) fun _ _ => rfl)

theorem Chip.next_reserved (o : Otp) (b : Nat) : (c.reserved o b).getF .sec R.SEC_INDEX_NEXT = 256 * b % 2 ^ 21 := by
  rw [Chip.reserved]
  simp only [Chip.setFs_cons, Chip.setFs_nil]
  rw [Chip.getF_setF_place _ _ _ (by decide), Chip.getF_setF_self]
  rfl

theorem Chip.tokens_reserved (o : Otp) (b : Nat) : (c.reserved o b).getF .sec R.SEC_TOKENS = c.getF .sec R.SEC_TOKENS := by
  rw [Chip.reserved]
  simp only [Chip.setFs_cons, Chip.setFs_nil]
  rw [Chip.getF_setF_place _ _ _ (by decide), Chip.getF_setF_place _ _ _ (by decide)]
  exact forAll_keeps (·.getF .sec R.SEC_TOKENS) _ c (fun c _ => c.raise .sec St.SEC_OTP_TORN) fun d _ =>
    d.getF_raise_of_ne (fkey_ne_of_place _ (by decide)) (fkey_ne_of_place _ (by decide))

end

/-! The commands (R441, R442, R447, R449, R450). -/

theorem exec_of_onOtp {s : State} {cmd : Instr} {f : Chip → Otp → Chip × Otp} (hup : s.up) (harm : exec cmd s = s.onOtp f) :
    exec cmd s = .next { s with chip := (f s.chip s.otp).1.after, otp := (f s.chip s.otp).2 } := harm.trans (State.onOtp_up f hup)

theorem Chip.attReq_sideband {c : Chip} (hside : c.sidebandUp = true) (o : Otp) (nonce : List Byte) (kind torn : Nat) (tree : Bool) :
    c.attReq o none nonce kind torn tree = (c.attAdmit 0 none nonce kind).islandServe o torn tree 9 := by
  unfold Chip.attReq
  dsimp only
  rw [if_pos hside]

section
variable {c : Chip} (hs : c.Serves) (hside : c.sidebandUp = true) (hq : c.island.queue = []) (o : Otp) (nonce : List Byte) (torn : Nat) (tree : Bool)
include hs hside hq

/-- With an empty queue a request is the only one that waits. -/
theorem Chip.attReq_first {kind : Nat} (hkind : kind ≤ 1) : c.attReq o none nonce kind torn tree =
    (c.setQ [{ source := none, nonce := nonce, kind := kind }]).islandServe o torn tree 9 := by
  rw [Chip.attReq_sideband hside, Chip.attAdmit_sideband hs.power hkind, hq]
  rfl

theorem Chip.attReq_cert : c.attReq o none nonce 1 torn tree = ((c.addF .sec R.SEC_CERTS 1).attData none nonce o.fuse.certificate, o) := by
  have hempty : (((c.setQ []).addF .sec R.SEC_CERTS 1).attData none nonce o.fuse.certificate).island.queue = [] :=
    congrArg Island.queue (forAll_keeps (·.island) _ ((c.setQ []).addF .sec R.SEC_CERTS 1) (fun (c : Chip) i => c.secSend none MT_ATT_DATA
      (leBytes 2 (4088 * i) ++ leBytes 2 o.fuse.certificate.length ++ nonce.take 4 ++ (o.fuse.certificate.drop (4088 * i)).take 4088)) fun _ _ => rfl)
  have hserves : (c.setQ [{ source := none, nonce := nonce, kind := 1 }]).Serves := ⟨hs.stage, hs.power, hs.die⟩
  rw [Chip.attReq_first hs hside hq o nonce torn tree (by decide), Chip.islandServe_cert hserves rfl rfl rfl]
  show (((c.setQ []).addF .sec R.SEC_CERTS 1).attData none nonce o.fuse.certificate).islandServe o torn tree 8 = _
  rw [Chip.islandServe_idle hempty, Chip.setQ_of_queue hq]

/-- A report that is refused leaves the queue empty. -/
theorem Chip.attReq_refused {d : Chip} {p : Otp} (h : (c.setQ [{ source := none, nonce := nonce, kind := 0 }]).reportStart o
    { source := none, nonce := nonce, kind := 0 } torn tree = (d, p, true)) : c.attReq o none nonce 0 torn tree = (d.setQ [], p) := by
  have hserves : (c.setQ [{ source := none, nonce := nonce, kind := 0 }]).Serves := ⟨hs.stage, hs.power, hs.die⟩
  rw [Chip.attReq_first hs hside hq o nonce torn tree (by decide), Chip.islandServe_report hserves rfl rfl Nat.zero_ne_one, h]
  exact Chip.islandServe_idle (torn := torn) (tree := tree) rfl 8

/-- A report whose signature runs keeps the queue. -/
theorem Chip.attReq_signs {d : Chip} {p : Otp} (h : (c.setQ [{ source := none, nonce := nonce, kind := 0 }]).reportStart o
    { source := none, nonce := nonce, kind := 0 } torn tree = (d, p, false)) : c.attReq o none nonce 0 torn tree = (d, p) := by
  have hserves : (c.setQ [{ source := none, nonce := nonce, kind := 0 }]).Serves := ⟨hs.stage, hs.power, hs.die⟩
  rw [Chip.attReq_first hs hside hq o nonce torn tree (by decide), Chip.islandServe_report hserves rfl rfl Nat.zero_ne_one, h]
  rfl

end

/-- What the refusals of a report on the sideband leave does not depend on the queue. -/
theorem Chip.refusal_setQ {c : Chip} (hq : c.island.queue = []) (l : List AttReq) (st : Status) (nonce : List Byte) (code : Code) :
    (((c.setQ l).raise .sec st).attRefuse none nonce code).setQ [] = (c.raise .sec st).attRefuse none nonce code := by
  conv_rhs => rw [← Chip.setQ_of_queue hq]
  rfl

theorem Chip.showOtp_setQ (c : Chip) (o : Otp) (l : List AttReq) : (c.setQ l).showOtp o = (c.showOtp o).setQ l := rfl

/-- The clauses of O57 about a report that comes first. -/
theorem Chip.attReq_report {c : Chip} (hs : c.Serves) (hside : c.sidebandUp = true) (hq : c.island.queue = []) (o : Otp) (nonce : List Byte)
    (hfault : c.island.fault = false) (hkey : o.key = true) :
    (∀ torn tree, c.exhausted o = false → c.getF .sec R.SEC_TOKENS = 0 →
      c.attReq o none nonce 0 torn tree = ((c.raise .sec St.SEC_BUSY).attRefuse none nonce COMP_ATT_BUSY, o)) ∧
    (∀ torn tree, c.exhausted o = true →
      c.attReq o none nonce 0 torn tree = (((c.showOtp o).raise .sec St.SEC_EXHAUSTED).attRefuse none nonce COMP_ATT_EXHAUSTED, o)) ∧
    (∀ torn, c.getF .sec R.SEC_TOKENS ≠ 0 → c.leafReady = true → c.attReq o none nonce 0 torn true =
      ((c.setQ [{ source := none, nonce := nonce, kind := 0 }]).signing o { source := none, nonce := nonce, kind := 0 }, o)) ∧
    ∀ b, c.getF .sec R.SEC_TOKENS ≠ 0 → c.leafReady = false → o.freeBlock = some b →
      let p : Otp := { o with blocks := o.blocks ||| 2 ^ b }
      c.attReq o none nonce 0 0 true =
        (((c.setQ [{ source := none, nonce := nonce, kind := 0 }]).reserved p b).signing p { source := none, nonce := nonce, kind := 0 }, p) := by
  let d := c.setQ [{ source := none, nonce := nonce, kind := 0 }]
  have hd : d.island.fault = false := hfault
  have hshow : (c.showOtp o).island.queue = [] := (congrArg Island.queue (Chip.island_showOtp o)).trans hq
  refine ⟨fun torn tree hex ht => ?_, fun torn tree hex => ?_, fun torn ht hleaf => ?_, fun b ht hleaf hb => ?_⟩
  · rw [Chip.attReq_refused hs hside hq o nonce torn tree (Chip.reportStart_noToken hd hkey hex ht), Chip.refusal_setQ hq]
  · rw [Chip.attReq_refused hs hside hq o nonce torn tree (Chip.reportStart_spent hd hkey hex), Chip.showOtp_setQ, Chip.refusal_setQ hshow]
  · exact Chip.attReq_signs hs hside hq o nonce torn true (Chip.reportStart_ready hd hkey ht hleaf)
  · exact Chip.attReq_signs hs hside hq o nonce 0 true (Chip.reportStart_reserves hd hkey ht hleaf hb)

/-- While a signature runs, a request waits or is turned away. -/
theorem Chip.attReq_waits {c : Chip} (hside : c.sidebandUp = true) (hpower : c.faulted 61 = false) (o : Otp) (nonce : List Byte) {kind : Nat}
    (hkind : kind ≤ 1) (torn : Nat) (tree : Bool) {r : AttReq} {l : List AttReq} (hq : c.island.queue = r :: l) (hleaf : r.leaf.isSome = true) :
    c.attReq o none nonce kind torn tree = (if 8 ≤ (r :: l).length then (c.raise .sec St.SEC_BUSY).attRefuse none nonce COMP_ATT_BUSY
      else c.setQ (r :: l ++ [{ source := none, nonce := nonce, kind := kind }]), o) := by
  rw [Chip.attReq_sideband hside, Chip.attAdmit_sideband hpower hkind, hq]
  split
  · exact Chip.islandServe_signing (c := (c.raise .sec St.SEC_BUSY).attRefuse none nonce COMP_ATT_BUSY) (r := r) (l := l) hq hleaf 9
  · exact Chip.islandServe_signing (r := r) rfl hleaf 9

/-- The signature of the only request sends its report (R447). -/
theorem Chip.attDone_last {c : Chip} (o : Otp) (us torn : Nat) (tree : Bool) {r : AttReq} {leaf : Nat} (hq : c.island.queue = [r])
    (hleaf : r.leaf = some leaf) (hsource : r.source = none) : c.attDone o us torn tree =
      ((((c.setQ []).addF .sec R.SEC_SIGNATURES 1).setF .sec R.SEC_LAST_SIGN_US us).attData none r.nonce (r.body ++ Config.xmssSign leaf r.body), o) := by
  have hempty (bs : List Byte) : ((((c.setQ []).addF .sec R.SEC_SIGNATURES 1).setF .sec R.SEC_LAST_SIGN_US us).attData none r.nonce bs).island.queue = [] :=
    congrArg Island.queue (forAll_keeps (·.island) _ (((c.setQ []).addF .sec R.SEC_SIGNATURES 1).setF .sec R.SEC_LAST_SIGN_US us)
      (fun (c : Chip) i => c.secSend none MT_ATT_DATA
        (leBytes 2 (4088 * i) ++ leBytes 2 bs.length ++ r.nonce.take 4 ++ (bs.drop (4088 * i)).take 4088)) fun _ _ => rfl)
  unfold Chip.attDone
  rw [hq]
  dsimp only
  rw [hleaf, hsource]
  exact Chip.islandServe_idle (hempty _) 9

/-! Owner slots (R442). -/

section
variable {c : Chip} (hside : c.sidebandUp = true) (hpower : c.faulted 61 = false) (h4 : c.stage4Ended = true) (o : Otp)
include hside hpower h4

theorem Chip.ownerReq_enroll (slot : Nat) (key sig : List Byte) (clean : Bool) :
    c.ownerReq o none (.enroll slot key sig clean) = c.enroll o slot key sig clean := by
  unfold Chip.ownerReq Chip.ownerCmd
  dsimp only
  rw [if_pos hside, if_neg (by rw [hpower]; decide), if_neg (by rw [h4]; decide)]

theorem Chip.ownerReq_revoke (slot signer : Nat) (sig : List Byte) (clean : Bool) :
    c.ownerReq o none (.revoke slot signer sig clean) = c.revoke o slot signer sig clean := by
  unfold Chip.ownerReq Chip.ownerCmd
  dsimp only
  rw [if_pos hside, if_neg (by rw [hpower]; decide), if_neg (by rw [h4]; decide)]

end

/-- A key may be enrolled in a blank slot: slot 0 by its own proof, another by the signature of a usable one. -/
def Otp.mayEnroll (o : Otp) (slot : Nat) (key sig : List Byte) : Prop :=
  o.owners[slot]? = some .blank ∧ (if slot = 0 then Config.xmssOk key (leBytes 8 o.fuse.serial ++ key) sig = true
    else ∃ e ∈ o.usable, e.1 ≠ slot ∧ Config.xmssOk e.2 (leBytes 8 o.fuse.serial ++ leBytes 1 slot ++ key) sig = true)

theorem Otp.mayEnroll_iff (o : Otp) (slot : Nat) (key sig : List Byte) : (o.owners[slot]? == some .blank &&
    (if slot = 0 then Config.xmssOk key (leBytes 8 o.fuse.serial ++ key) sig
     else (o.usable.filter (fun e => e.1 != slot)).any (fun e => Config.xmssOk e.2 (leBytes 8 o.fuse.serial ++ leBytes 1 slot ++ key) sig))) = true ↔
    o.mayEnroll slot key sig := by
  rw [Otp.mayEnroll, Bool.and_eq_true, beq_iff_eq]
  refine and_congr_right fun _ => ?_
  split
  · rfl
  · simp only [List.any_eq_true, List.mem_filter, bne_iff_ne, and_assoc]

theorem Chip.enroll_ok (c : Chip) {o : Otp} {slot : Nat} {key sig : List Byte} (h : o.mayEnroll slot key sig) (clean : Bool) :
    c.enroll o slot key sig clean = c.slotBurnt o slot (.enrolled key) clean := if_pos ((o.mayEnroll_iff slot key sig).2 h)

theorem Chip.enroll_denied (c : Chip) {o : Otp} {slot : Nat} {key sig : List Byte} (h : ¬ o.mayEnroll slot key sig) (clean : Bool) :
    c.enroll o slot key sig clean = c.ownerDenied o := if_neg fun hok => h ((o.mayEnroll_iff slot key sig).1 hok)

theorem Chip.revoke_ok (c : Chip) {o : Otp} {slot signer : Nat} {sig k k' : List Byte} (hslot : o.usable.find? (fun e => e.1 == slot) = some (slot, k))
    (hsigner : o.usable.find? (fun e => e.1 == signer && e.1 != slot) = some (signer, k'))
    (hok : Config.xmssOk k' (leBytes 8 o.fuse.serial ++ leBytes 1 slot) sig = true) (clean : Bool) :
    c.revoke o slot signer sig clean = c.slotBurnt o slot (.revoked k) clean := by
  unfold Chip.revoke
  dsimp only
  rw [hslot, hsigner]
  exact if_pos hok

/-- No slot signs for its own revocation. -/
theorem Chip.revoke_self (c : Chip) (o : Otp) (slot : Nat) (sig : List Byte) (clean : Bool) : c.revoke o slot slot sig clean = c.ownerDenied o := by
  have hnone : o.usable.find? (fun e => e.1 == slot && e.1 != slot) = none := by simp
  unfold Chip.revoke
  dsimp only
  rw [hnone]
  cases o.usable.find? (fun e => e.1 == slot) <;> rfl

/-! The SVN floor (R441). -/

section
variable {c : Chip} (hside : c.sidebandUp = true) (hpower : c.faulted 61 = false) (hboot : c.getF (.boot 0) R.BOOT_STATE_CODE = BOOT_OK) (o : Otp)
include hside hpower hboot

theorem Chip.svnCommit_rises (h : o.svnFloor < min 255 (c.getF .cfg R.CFG_STATE_SVN)) :
    let p : Otp := { o with svn := burnUp o.svn (min 255 (c.getF .cfg R.CFG_STATE_SVN) - o.svnFloor) }
    c.svnCommit o none true = ((c.showOtp p).secResult COMP_OK, p) := by
  unfold Chip.svnCommit
  dsimp only
  rw [if_neg (by rw [hside]; decide), if_neg (by rw [hpower]; decide), if_neg (not_not.2 hboot), if_neg (by omega), if_neg (by decide)]

theorem Chip.svnCommit_there (h : min 255 (c.getF .cfg R.CFG_STATE_SVN) ≤ o.svnFloor) : c.svnCommit o none true = (c.secResult COMP_OK, o) := by
  unfold Chip.svnCommit
  dsimp only
  rw [if_neg (by rw [hside]; decide), if_neg (by rw [hpower]; decide), if_neg (not_not.2 hboot), if_pos h]

end

/-- The floor reaches the value that it is burnt up to. -/
theorem Otp.svnFloor_burnUp {o : Otp} {want : Nat} (hmax : want ≤ 255) (h : o.svnFloor < want) :
    ({ o with svn := burnUp o.svn (want - o.svnFloor) } : Otp).svnFloor = want := by
  unfold Otp.svnFloor at h ⊢
  rw [popCount_burnUp (by omega)]
  omega

/-- Settles O57: requests by what the island does with the first of its queue, owner commands and the SVN floor by what they burn. -/
theorem islandCommandsComplete : Obligations.IslandCommandsComplete := by
  unfold Obligations.IslandCommandsComplete
  intro s hup hside hpower c o with' serial
  have hdie : s.chip.silentDie = false := by
    have h := hside
    rw [Chip.sidebandUp, Bool.and_eq_true] at h
    simpa using h.2
  refine ⟨fun nonce torn tree hstage hq => ?first, fun nonce kind torn tree r l hkind hq hleaf => ?waits,
    fun us torn tree r leaf hq hleaf hsource => ?done, exec_of_onChip (f := (·.tokenGain)) hup rfl, fun slot key sig clean h4 => ?enroll,
    fun slot signer sig clean h4 => ?revoke, fun hboot => ?svn, fun p slot signer nonce key sig kind torn tree clean => ?jalfo⟩
  case first =>
    have hs : s.chip.Serves := ⟨hstage, hpower, hdie⟩
    have hexec (kind : BitVec 8) (torn : Nat) (tree : Bool) := exec_of_onOtp (cmd := .attReq none nonce kind torn tree)
      (f := fun c o => c.attReq o none nonce kind.toNat torn tree) hup rfl
    refine ⟨?_, o.fuse.length_certBody, length_certSign _, fun hfault hkey hex ht => ?_, fun hfault hkey hex => ?_,
      fun hfault hkey ht ht256 hk hleaf => ?_, fun b hfault hkey ht ht256 hleaf hb => ?_⟩
    · rw [hexec, show (1 : BitVec 8).toNat = 1 from rfl, Chip.attReq_cert hs hside hq]
      rfl
    · obtain ⟨hbusy, -, -, -⟩ := Chip.attReq_report hs hside hq s.otp nonce hfault hkey
      rw [hexec, show (0 : BitVec 8).toNat = 0 from rfl, hbusy torn tree hex ht]
      rfl
    · obtain ⟨-, hspent, -, -⟩ := Chip.attReq_report hs hside hq s.otp nonce hfault hkey
      rw [hexec, show (0 : BitVec 8).toNat = 0 from rfl, hspent torn tree hex]
      rfl
    · obtain ⟨-, -, hready, -⟩ := Chip.attReq_report hs hside hq s.otp nonce hfault hkey
      let x : Chip := s.chip.setQ [{ source := none, nonce := nonce, kind := 0 }]
      obtain ⟨q, hqueue, hqleaf, hqnonce⟩ := Chip.queue_signing (c := x) (o := s.otp) rfl
      refine ⟨_, q, ?_, hqueue, hqleaf, hqnonce, Chip.tokens_signing ht256, Chip.next_signing.trans (Chip.next_takeLeaf hk)⟩
      rw [hexec, show (0 : BitVec 8).toNat = 0 from rfl, hready torn ht hleaf]
    · obtain ⟨-, -, -, hreserve⟩ := Chip.attReq_report hs hside hq s.otp nonce hfault hkey
      let x : Chip := s.chip.setQ [{ source := none, nonce := nonce, kind := 0 }]
      let p : Otp := { s.otp with blocks := s.otp.blocks ||| 2 ^ b }
      obtain ⟨q, hqueue, hqleaf, -⟩ := Chip.queue_signing (c := x.reserved p b) (o := p) (congrArg Island.queue (Chip.island_reserved p b))
      refine ⟨(x.reserved p b).signing p { source := none, nonce := nonce, kind := 0 }, q, ?_, hqueue, ?_, ?_⟩
      · rw [hexec, show (0 : BitVec 8).toNat = 0 from rfl, hreserve b ht hleaf hb]
      · rw [hqleaf, Chip.next_reserved]
      · have htokens := x.tokens_reserved p b
        rw [Chip.tokens_signing (by rw [htokens]; exact ht256), htokens]
        rfl
  case waits =>
    rw [exec_of_onOtp (f := fun c o => c.attReq o none nonce kind.toNat torn tree) hup rfl,
      Chip.attReq_waits hside hpower s.otp nonce hkind torn tree hq hleaf]
    split <;> rfl
  case done =>
    rw [exec_of_onOtp (f := fun c o => c.attDone o us.toNat torn tree) hup rfl, Chip.attDone_last s.otp us.toNat torn tree hq hleaf hsource]
    rfl
  case enroll =>
    have hexec := exec_of_onOtp (cmd := .ownerEnroll none slot key sig clean)
      (f := fun c o => c.ownerReq o none (.enroll slot key sig clean)) hup rfl
    rw [Chip.ownerReq_enroll hside hpower h4] at hexec
    refine ⟨fun hok => ?_, fun hno => ?_⟩
    · rw [hexec, Chip.enroll_ok _ hok]
      rfl
    · rw [hexec, Chip.enroll_denied _ hno]
      rfl
  case revoke =>
    have hexec := exec_of_onOtp (cmd := .ownerRevoke none slot signer sig clean)
      (f := fun c o => c.ownerReq o none (.revoke slot signer sig clean)) hup rfl
    rw [Chip.ownerReq_revoke hside hpower h4] at hexec
    refine ⟨fun k k' hslot _ hsigner hok => ?_, fun hself => ?_⟩
    · rw [hexec, Chip.revoke_ok _ hslot hsigner hok]
      rfl
    · subst hself
      rw [hexec, Chip.revoke_self]
      rfl
  case svn =>
    have hexec := exec_of_onOtp (cmd := .svnCommit none true) (f := fun c o => c.svnCommit o none true) hup rfl
    refine ⟨fun hlow => ⟨?_, Otp.svnFloor_burnUp (Nat.min_le_left _ _) hlow⟩, fun hthere => ?_⟩
    · rw [hexec, Chip.svnCommit_rises hside hpower hboot s.otp hlow]
    · rw [hexec, Chip.svnCommit_there hside hpower hboot s.otp hthere]
  case jalfo =>
    exact ⟨exec_of_onOtp (f := fun c o => c.attReq o (some p.val) nonce kind.toNat torn tree) hup rfl,
      exec_of_onOtp (f := fun c o => c.ownerReq o (some p.val) (.enroll slot key sig clean)) hup rfl,
      exec_of_onOtp (f := fun c o => c.ownerReq o (some p.val) (.revoke slot signer sig clean)) hup rfl,
      exec_of_onOtp (f := fun c o => c.svnCommit o (some p.val) clean) hup rfl⟩

end Sys2Proof.Machine
end

section
/-! SUPPORT and certificates. The host bridge (R344-R350, R419): its link, its resets, configuration requests and aperture requests. -/

namespace Sys2Proof.Machine

/-- What one pass of a loop brings about and every pass keeps, the loop brings about. -/
theorem forAll_settles {α σ : Type} {p : σ → Prop} {l : List α} {a : α} {f : σ → α → σ} (ha : a ∈ l) (hset : ∀ s, p (f s a))
    (hkeep : ∀ s b, p s → p (f s b)) (s : σ) : p (forAll l s f) := by
  have hstays (l : List α) (s : σ) (h : p s) : p (forAll l s f) := by
    induction l generalizing s with
    | nil => exact h
    | cons b l ih => exact ih _ (hkeep s b h)
  induction l generalizing s with
  | nil => exact absurd ha List.not_mem_nil
  | cons b l ih =>
    rcases List.mem_cons.1 ha with rfl | hl
    · exact hstays l _ (hset s)
    · exact ih hl _

/-! The bridge's PCIe state (R350, R354, R419). -/

/-- One entry of the aperture table is cleared. -/
def Chip.aptClear (c : Chip) (i : Nat) : Chip :=
  if c.getF (.apt i) R.APT_VALID = 0 ∧ c.getF (.apt i) R.APT_LOCAL = 0 ∧ c.getF (.apt i) R.APT_DEVICE = 0 ∧
      c.getF (.apt i) R.APT_READ = 0 ∧ c.getF (.apt i) R.APT_WRITE = 0 then c
  else c.setFs (.apt i) (Tbl.APT.map (fun f => (f, 0)))

/-- The functions' state and the host's requests are gone. -/
def Chip.hostGone (c : Chip) : Chip :=
  { c with hostFns := [], reqs := c.reqs.filter (fun r => match r.who with | .host _ _ _ => false | _ => true) }

theorem Chip.pcieReset_eq (c : Chip) : c.pcieReset = (forAll (upto 128) c.hostGone Chip.aptClear).setF .hbr R.HBR_STATE_NUM_VFS 0 := rfl

/-- The fields that say whether an entry holds anything. -/
def Chip.aptEmpty (c : Chip) (i : Nat) : Prop :=
  c.getF (.apt i) R.APT_VALID = 0 ∧ c.getF (.apt i) R.APT_LOCAL = 0 ∧ c.getF (.apt i) R.APT_DEVICE = 0

theorem fkey_ne_apt {b : Blk} {f : Field} (hb : b = .hbr ∧ f.off < 0x100 ∨ ∃ p, b = .part p) (hf : f.off < 0x100 ∧ f.lsb < 64) {g : Field} (i : Nat)
    (hg : g ∈ Tbl.APT) (hi : i < 128) : fkey b f ≠ fkey (.apt i) g := by
  have hoff : g.off = 0 ∧ g.lsb < 64 := (by decide : ∀ g ∈ Tbl.APT, g.off = 0 ∧ g.lsb < 64) g hg
  obtain ⟨rfl, -⟩ | ⟨p, rfl⟩ := hb <;> simp only [fkey, Blk.base] <;> omega

theorem Chip.getF_aptClear {c : Chip} {i : Nat} {b : Blk} {f : Field} (h : ∀ g ∈ Tbl.APT, fkey b f ≠ fkey (.apt i) g) :
    (c.aptClear i).getF b f = c.getF b f := by
  unfold Chip.aptClear
  split
  · rfl
  · refine Chip.getF_setFs_of_fields c fun g hg => h g ?_
    rwa [List.map_map, show (Prod.fst ∘ fun f : Field => (f, 0)) = id from rfl, List.map_id] at hg

theorem Chip.aptEmpty_aptClear_self (c : Chip) (i : Nat) : (c.aptClear i).aptEmpty i := by
  unfold Chip.aptClear
  split
  next h => exact ⟨h.1, h.2.1, h.2.2.1⟩
  next =>
    simp only [Chip.aptEmpty, Tbl.APT, List.map_cons, List.map_nil, Chip.setFs_cons, Chip.setFs_nil]
    refine ⟨?_, ?_, ?_⟩
    · rw [Chip.getF_setF_place _ _ _ (by decide), Chip.getF_setF_place _ _ _ (by decide), Chip.getF_setF_place _ _ _ (by decide), Chip.getF_setF_self]
      rfl
    · rw [Chip.getF_setF_self]
      rfl
    · rw [Chip.getF_setF_place _ _ _ (by decide), Chip.getF_setF_place _ _ _ (by decide), Chip.getF_setF_place _ _ _ (by decide),
        Chip.getF_setF_place _ _ _ (by decide), Chip.getF_setF_self]
      rfl

theorem Chip.aptEmpty_aptClear {c : Chip} {i : Nat} (j : Nat) (h : c.aptEmpty i) : (c.aptClear j).aptEmpty i := by
  by_cases hij : j = i
  · subst hij
    exact c.aptEmpty_aptClear_self j
  · have hkeep {f : Field} (hf : f.off = 0 ∧ f.lsb < 64) : (c.aptClear j).getF (.apt i) f = c.getF (.apt i) f := by
      refine Chip.getF_aptClear fun g hg => ?_
      have hoff : g.off = 0 ∧ g.lsb < 64 := (by decide : ∀ g ∈ Tbl.APT, g.off = 0 ∧ g.lsb < 64) g hg
      simp only [fkey, Blk.base]
      omega
    obtain ⟨hvalid, hlocal, hdevice⟩ := h
    exact ⟨(hkeep (by decide)).trans hvalid, (hkeep (by decide)).trans hlocal, (hkeep (by decide)).trans hdevice⟩

/-- Registers that a reset of the PCIe state keeps: those of the bridge but the VFs enabled, and those of partitions. -/
theorem Chip.getF_pcieReset (c : Chip) {b : Blk} {f : Field} (hb : b = .hbr ∧ f.off < 0x100 ∨ ∃ p, b = .part p) (hf : f.off < 0x100 ∧ f.lsb < 64)
    (hvf : f.lsb ≠ 16) : c.pcieReset.getF b f = c.getF b f := by
  have hloop (l : List Nat) (hl : ∀ i ∈ l, i < 128) (d : Chip) : (forAll l d Chip.aptClear).getF b f = d.getF b f := by
    induction l generalizing d with
    | nil => rfl
    | cons i l ih =>
      rw [forAll_cons, ih (fun j hj => hl j (List.mem_cons_of_mem _ hj)),
        Chip.getF_aptClear fun g hg => fkey_ne_apt hb hf i hg (hl i List.mem_cons_self)]
  rw [c.pcieReset_eq, Chip.getF_setF_of_ne _ _ (fkey_ne_of_lsb hf.2 (by decide) hvf), hloop (upto 128) fun i hi => List.mem_range.1 hi]
  rfl

/-- The bridge's PCIe state as a reset leaves it: no function's state, no VF, no entry of the aperture table; memory and partitions as they were. -/
def Chip.PcieFresh (c d : Chip) : Prop :=
  d.hostFns = [] ∧ d.getF .hbr R.HBR_STATE_NUM_VFS = 0 ∧ d.mem = c.mem ∧
    (∀ i : Nat, i < 128 → d.getF (.apt i) R.APT_VALID = 0 ∧ d.getF (.apt i) R.APT_LOCAL = 0 ∧ d.getF (.apt i) R.APT_DEVICE = 0) ∧
    ∀ p : Nat, p < 16 → d.partState p = c.partState p

theorem Chip.aptClear_keeps {β : Type} (p : Chip → β) (h : ∀ (c : Chip) b f v, p (c.setF b f v) = p c) (c : Chip) (i : Nat) : p (c.aptClear i) = p c := by
  unfold Chip.aptClear
  split
  · rfl
  · exact forAll_keeps p (Tbl.APT.map (fun f => (f, 0))) c (fun c e => c.setF (.apt i) e.1 e.2) fun c e => h c (.apt i) e.1 e.2

theorem Chip.pcieReset_keeps {β : Type} (p : Chip → β) (h : ∀ (c : Chip) b f v, p (c.setF b f v) = p c) (c : Chip) :
    p c.pcieReset = p c.hostGone := by
  rw [c.pcieReset_eq, h]
  exact forAll_keeps p (upto 128) c.hostGone Chip.aptClear fun c i => c.aptClear_keeps p h i

theorem Chip.pcieReset_fresh (c : Chip) : c.PcieFresh c.pcieReset := by
  refine ⟨?_, ?_, ?_, fun i hi => ?_, fun p _ => ?_⟩
  · exact Chip.pcieReset_keeps (fun d : Chip => d.hostFns) (fun _ _ _ _ => rfl) c
  · rw [c.pcieReset_eq, Chip.getF_setF_self]
    rfl
  · exact Chip.pcieReset_keeps (fun d : Chip => d.mem) (fun _ _ _ _ => rfl) c
  · have hloop : (forAll (upto 128) c.hostGone Chip.aptClear).aptEmpty i :=
      forAll_settles (p := fun c : Chip => c.aptEmpty i) (List.mem_range.2 hi) (fun c => c.aptEmpty_aptClear_self i)
        (fun c j h => Chip.aptEmpty_aptClear j h) _
    have hkeep {f : Field} (hf : f.lsb < 64) (h16 : f.lsb ≠ 16) : c.pcieReset.getF (.apt i) f =
        (forAll (upto 128) c.hostGone Chip.aptClear).getF (.apt i) f := by
      rw [c.pcieReset_eq, Chip.getF_setF_of_ne _ _ (fkey_ne_of_lsb hf (by decide) h16)]
    obtain ⟨hvalid, hlocal, hdevice⟩ := hloop
    exact ⟨(hkeep (by decide) (by decide)).trans hvalid, (hkeep (by decide) (by decide)).trans hlocal, (hkeep (by decide) (by decide)).trans hdevice⟩
  · exact c.getF_pcieReset (.inr ⟨p, rfl⟩) (by decide) (by decide)

theorem fkey_hbr_ne {f g : Field} (hf : f.off < 0x100 ∧ f.lsb < 64) (hg : g.off < 0x100 ∧ g.lsb < 64) (n : Nat) :
    fkey (.apt n) f ≠ fkey .hbr g ∧ fkey (.part n) f ≠ fkey .hbr g := by
  simp only [fkey, Blk.base]
  omega

/-- A write to another register of the bridge leaves the fresh state fresh. -/
theorem Chip.PcieFresh.setF {c d : Chip} (h : c.PcieFresh d) {f : Field} (hf : f.off < 0x100 ∧ f.lsb < 64)
    (hvf : R.HBR_STATE_NUM_VFS.off * 64 + R.HBR_STATE_NUM_VFS.lsb ≠ f.off * 64 + f.lsb) (v : Nat) : c.PcieFresh (d.setF .hbr f v) := by
  obtain ⟨hfns, hvfs, hmem, hapt, hpart⟩ := h
  have hkeep {g : Field} (hg : g.off < 0x100 ∧ g.lsb < 64) (n : Nat) : (d.setF .hbr f v).getF (.apt n) g = d.getF (.apt n) g ∧
      (d.setF .hbr f v).getF (.part n) g = d.getF (.part n) g :=
    ⟨d.getF_setF_of_ne v (fkey_hbr_ne hg hf n).1, d.getF_setF_of_ne v (fkey_hbr_ne hg hf n).2⟩
  refine ⟨hfns, (d.getF_setF_place _ v hvf).trans hvfs, hmem, fun i hi => ?_, fun p hp => ?_⟩
  · rw [(hkeep (by decide) i).1, (hkeep (by decide) i).1, (hkeep (by decide) i).1]
    exact hapt i hi
  · exact ((hkeep (g := R.PART_STATE) (by decide) p).2).trans (hpart p hp)

theorem Chip.PcieFresh.raise {c d : Chip} (h : c.PcieFresh d) {st : Status} (hf : st.flag.off < 0x100 ∧ st.flag.lsb < 64)
    (hc : st.cnt.off < 0x100 ∧ st.cnt.lsb < 64) (hvf : st.flag.off ≠ 8) (hvc : st.cnt.off ≠ 8) : c.PcieFresh (d.raise .hbr st) :=
  (h.setF hf (by simp only [R.HBR_STATE_NUM_VFS]; omega) _).setF hc (by simp only [R.HBR_STATE_NUM_VFS]; omega) _

/-- LTSSM's number is the only register that changes. -/
theorem Chip.PcieFresh.ltssm {c d : Chip} (h : c.PcieFresh d) : c.PcieFresh d.ltssm :=
  Chip.PcieFresh.setF (d := d.tick) h (by decide) (by decide) _

theorem Chip.getF_ltssm (c : Chip) {f : Field} (h : f.off * 64 + f.lsb ≠ R.HBR_STATE_LTSSM.off * 64 + R.HBR_STATE_LTSSM.lsb) :
    c.ltssm.getF .hbr f = c.getF .hbr f := Chip.getF_setF_place _ _ _ h

/-! The link (R345, R346, R350, R419). -/

section
variable {c : Chip}

theorem Chip.pcieLinkDown_active (h : c.on .hbr R.HBR_STATE_DL_ACTIVE = true) :
    c.pcieLinkDown = ((c.pcieReset.setF .hbr R.HBR_STATE_DL_ACTIVE 0).raise .hbr St.HBR_LINK_DOWN).ltssm := if_neg (by rw [h]; decide)

theorem Chip.pcieLinkDown_fresh (h : c.on .hbr R.HBR_STATE_DL_ACTIVE = true) : c.PcieFresh c.pcieLinkDown ∧
    c.pcieLinkDown.on .hbr R.HBR_STATE_DL_ACTIVE = false ∧ c.pcieLinkDown.on .hbr St.HBR_LINK_DOWN.flag = true := by
  rw [Chip.pcieLinkDown_active h]
  refine ⟨((c.pcieReset_fresh.setF (by decide) (by decide) 0).raise (by decide) (by decide) (by decide) (by decide)).ltssm, ?_, ?_⟩
  · rw [Chip.on, Chip.getF_ltssm _ (by decide), Chip.getF_raise_of_ne _ (fkey_ne_of_place _ (by decide)) (fkey_ne_of_place _ (by decide)),
      Chip.getF_setF_self]
    rfl
  · rw [Chip.on, Chip.getF_ltssm _ (by decide), Chip.getF_raise_flag _ rfl (fkey_ne_of_place _ (by decide))]
    rfl

theorem Chip.pcieLinkDown_down (c : Chip) : c.pcieLinkDown.on .hbr R.HBR_STATE_DL_ACTIVE = false := by
  cases h : c.on .hbr R.HBR_STATE_DL_ACTIVE with
  | true => exact (Chip.pcieLinkDown_fresh h).2.1
  | false => rwa [show c.pcieLinkDown = c from if_pos (by rw [h]; rfl)]

theorem Chip.pcieLinkDown_outside (c : Chip) : c.pcieLinkDown.mem = c.mem ∧ ∀ p : Nat, p < 16 → c.pcieLinkDown.partState p = c.partState p := by
  cases h : c.on .hbr R.HBR_STATE_DL_ACTIVE with
  | true =>
    obtain ⟨-, -, hmem, -, hpart⟩ := (Chip.pcieLinkDown_fresh h).1
    exact ⟨hmem, hpart⟩
  | false =>
    rw [show c.pcieLinkDown = c from if_pos (by rw [h]; rfl)]
    exact ⟨rfl, fun _ _ => rfl⟩

theorem Chip.perst_pcieLinkDown (c : Chip) : c.pcieLinkDown.perst = c.perst := by
  have hrest (d : Chip) : ((d.setF .hbr R.HBR_STATE_DL_ACTIVE 0).raise .hbr St.HBR_LINK_DOWN).ltssm.perst = d.perst := rfl
  unfold Chip.pcieLinkDown
  split
  · rfl
  · exact (hrest _).trans (Chip.pcieReset_keeps (fun d : Chip => d.perst) (fun _ _ _ _ => rfl) c)

/-- PERST# low: the PCIe state is fresh, and requests get retry status until bring-up has ended. -/
theorem Chip.perstAssert_resets (hperst : c.perst = false) (hup : c.bridgeUp = true) :
    c.PcieFresh c.perstAssert ∧ c.perstAssert.perst = true ∧ c.perstAssert.on .hbr R.HBR_STATE_DL_ACTIVE = false ∧
      c.perstAssert.on .hbr R.HBR_STATE_RRS = !c.bootEnded := by
  let e : Chip := { c with perst := true }
  have heq : c.perstAssert = (e.pcieLinkDown.pcieReset).setB .hbr R.HBR_STATE_RRS (!c.bootEnded) := by
    rw [Chip.perstAssert, if_neg (by rw [hperst]; decide)]
    exact if_pos hup
  obtain ⟨hmem, hpart⟩ := e.pcieLinkDown_outside
  obtain ⟨hfns, hvfs, hmem', hapt, hpart'⟩ := e.pcieLinkDown.pcieReset_fresh
  have hfresh : c.PcieFresh e.pcieLinkDown.pcieReset := ⟨hfns, hvfs, hmem'.trans hmem, hapt, fun p hp => (hpart' p hp).trans (hpart p hp)⟩
  have hperst' : e.pcieLinkDown.pcieReset.perst = true := by
    exact (Chip.pcieReset_keeps (fun d : Chip => d.perst) (fun _ _ _ _ => rfl) e.pcieLinkDown).trans e.perst_pcieLinkDown
  have hset (d : Chip) (v : Bool) : (d.setB .hbr R.HBR_STATE_RRS v).perst = d.perst := rfl
  rw [heq]
  refine ⟨hfresh.setF (by decide) (by decide) _, (hset _ _).trans hperst', ?_, ?_⟩
  · rw [Chip.on, Chip.setB, Chip.getF_setF_place _ _ _ (by decide), Chip.getF_pcieReset _ (.inl ⟨rfl, by decide⟩) (by decide) (by decide)]
    exact e.pcieLinkDown_down
  · rw [Chip.on, Chip.setB, Chip.getF_setF_self]
    cases c.bootEnded <;> rfl

theorem Chip.pcieLinkUp_shows (hup : c.bridgeUp = true) (hperst : c.perst = false) (hdown : c.on .hbr R.HBR_STATE_DL_ACTIVE = false) (wide : Bool)
    {speed : Nat} (hspeed : speed < 7) : (c.pcieLinkUp wide speed).on .hbr R.HBR_STATE_DL_ACTIVE = true ∧
      (c.pcieLinkUp wide speed).getF .hbr R.HBR_STATE_WIDTH = (if wide then 16 else 8) ∧
      (c.pcieLinkUp wide speed).getF .hbr R.HBR_STATE_SPEED = speed ∧ (c.pcieLinkUp wide speed).mem = c.mem := by
  have heq : c.pcieLinkUp wide speed = (((c.setF .hbr R.HBR_STATE_WIDTH (if wide then 16 else 8)).setF .hbr R.HBR_STATE_SPEED speed).setF .hbr
      R.HBR_STATE_DL_ACTIVE 1).ltssm := if_neg (by rw [hup, hperst, hdown]; decide)
  rw [heq]
  refine ⟨?_, ?_, ?_, rfl⟩
  · rw [Chip.on, Chip.getF_ltssm _ (by decide), Chip.getF_setF_self]
    rfl
  · rw [Chip.getF_ltssm _ (by decide), Chip.getF_setF_place _ _ _ (by decide), Chip.getF_setF_place _ _ _ (by decide), Chip.getF_setF_self]
    cases wide <;> rfl
  · rw [Chip.getF_ltssm _ (by decide), Chip.getF_setF_place _ _ _ (by decide), Chip.getF_setF_self]
    exact Nat.mod_eq_of_lt (show speed < 2 ^ 3 by omega)

/-! Configuration requests (R346, R347). -/

/-- The identity, the class and TotalVFs of a function (R347). -/
theorem Chip.cfgRead_identity (c : Chip) (fn : Nat) : c.cfgRead fn 0 / 2 ^ 16 = (if fn = 0 then 0x0900 else 0x0901) ∧
    c.cfgRead fn 2 / 256 = 0x120000 ∧ ∀ dw : Nat, dw ≠ 0 → dw ≠ 2 → capDword fn 0x10010 3 dw = true → c.cfgRead fn dw = 16 + 16 * 2 ^ 16 := by
  have hvendor := Config.vendorId.isLt
  refine ⟨?_, ?_, fun dw h0 h2 hcap => ?_⟩
  · rw [Chip.cfgRead, Chip.cfgFixed, if_pos rfl, Option.getD_some]
    omega
  · rw [Chip.cfgRead, Chip.cfgFixed, if_neg (by decide), if_pos rfl, Option.getD_some]
    omega
  · rw [Chip.cfgRead, Chip.cfgFixed, if_neg h0, if_neg h2, if_pos hcap, Option.getD_some]

/-- The answer to a configuration request. -/
def Chip.completes (e : Chip) (fn st : Nat) (bs : List Byte) : Chip := { e.tlpTx with out := e.tlpTx.out ++ [.completion fn st bs] }

section
variable (hlink : c.linkUp = true) (fn dw v : Nat) (vfs : Option Nat)
include hlink

theorem Chip.pcieConfig_retry (hrrs : c.on .hbr R.HBR_STATE_RRS = true) (wr : Bool) : c.pcieConfig fn wr dw v vfs = c.tlpRx.completes fn 2 [] := by
  unfold Chip.pcieConfig
  dsimp only
  rw [if_neg (by rw [hlink]; decide), if_pos hrrs]
  rfl

theorem Chip.pcieConfig_read (hrrs : c.on .hbr R.HBR_STATE_RRS = false) (hfn : c.fnThere fn = true) :
    c.pcieConfig fn false dw v vfs = c.tlpRx.completes fn 0 (leBytes 4 (c.cfgRead fn dw)) := by
  unfold Chip.pcieConfig
  dsimp only
  rw [if_neg (by rw [hlink]; decide), if_neg (by rw [hrrs]; decide), if_neg (by rw [hfn]; decide)]
  rfl

theorem Chip.pcieConfig_write (hrrs : c.on .hbr R.HBR_STATE_RRS = false) (hfn : c.fnThere fn = true) :
    c.pcieConfig fn true dw v vfs = (match vfs with
      | some n => if fn = 0 then (c.tlpRx.cfgWrite fn dw v).setF .hbr R.HBR_STATE_NUM_VFS n else c.tlpRx.cfgWrite fn dw v
      | none => c.tlpRx.cfgWrite fn dw v : Chip).completes fn 0 [] := by
  unfold Chip.pcieConfig
  dsimp only
  rw [if_neg (by rw [hlink]; decide), if_neg (by rw [hrrs]; decide), if_neg (by rw [hfn]; decide)]
  cases vfs <;> rfl

end

/-! Aperture requests (R349). -/

/-- A request with a page goes to it when it is there, lies in one 4 KiB block and is no longer than the Max Payload Size. -/
theorem Chip.hostRequest_page {io : RegIo} {fn off len i : Nat} {wr : Bool} (bs : List Byte) (hlink : c.linkUp = true) (hfn : c.fnThere fn = true)
    (hlen : 0 < len) (hmax : wr = true → len ≤ 512) (hblock : off % 4096 + len ≤ 4096) (hpage : aptPage fn off = some i) :
    let d := c.tlpRx
    let dev := d.getF (.apt i) R.APT_DEVICE
    let m := hostMsg fn dev (d.getF (.apt i) R.APT_LOCAL * 2 ^ 30 + off % 2 ^ 30) len wr bs
    c.hostRequest io fn wr off len bs =
      if (d.hostFn fn).d3hot || !d.on (.apt i) R.APT_VALID || !d.on (.apt i) (if wr then R.APT_WRITE else R.APT_READ) then
        if wr then (d.raise .hbr St.HBR_POSTED_ERR).hostErr fn true off COMP_ADDR_UNMAPPED else d.hostComplete fn off COMP_ADDR_UNMAPPED 1 []
      else if d.isSelf dev then d.hostServe io { m with src := d.deviceId } fn wr off
      else
        let z := d.fabRequest 0 (.host fn wr off) none m
        match z.1.fabAnswer z.2 with
        | some (code, _) => (z.1.fabEnd z.2).hostAnswer fn wr off code []
        | none => z.1 := by
  have hgo : ¬ (!c.linkUp || !c.fnThere fn || decide (len = 0) || decide (4096 < off % 4096 + len) || (wr && decide (512 < len))) = true := by
    rw [hlink, hfn]
    simp only [Bool.not_true, Bool.false_or, Bool.or_eq_true, decide_eq_true_eq, Bool.and_eq_true, not_or, not_and]
    exact ⟨⟨by omega, by omega⟩, fun hwr => by have := hmax hwr; omega⟩
  intro d dev m
  unfold Chip.hostRequest
  rw [if_neg hgo, hpage] <;> rfl

end

theorem exec_pcieMem {s : State} (hup : s.up) (fn : Fin 17) (off : BitVec 36) (wr : Bool) (bs : List Byte) (n : Fin 4097) :
    (if wr then exec (.pcieMemWrite fn off bs) s else exec (.pcieMemRead fn off n) s) =
      s.goes (s.chip.hostRequest regIo fn wr off.toNat (if wr then bs.length else n.val) (if wr then bs else [])).after := by
  cases wr
  · exact exec_of_onMc (cmd := .pcieMemRead fn off n) (f := fun c => c.hostRequest regIo fn false off.toNat n []) hup rfl
  · exact exec_of_onMc (cmd := .pcieMemWrite fn off bs) (f := fun c => c.hostRequest regIo fn true off.toNat bs.length bs) hup rfl

/-- Settles O49: the resets by `Chip.pcieReset_fresh` and what each writes after it, requests by the branch that the function and the page select. -/
theorem hostBridgeCommandsComplete : Obligations.HostBridgeCommandsComplete := by
  unfold Obligations.HostBridgeCommandsComplete
  intro s c fresh
  refine ⟨fun hperst hbridge => ?_, fun hperst hbridge => ?_, fun hup => ⟨fun hbridge hperst hboot hrrs => ?_, fun wide speed hbridge hperst hdown => ?_,
    fun hactive => ?_, fun hlink => ⟨?_, ?_, fun n hn => ?_, fun fn => ?_⟩⟩⟩
  · have heq : s.chip.perstRelease = ({ s.chip with perst := false } : Chip).ltssm := by
      rw [Chip.perstRelease, if_neg (by rw [show s.chip.perst = true from hperst]; decide)]
      exact if_pos hbridge
    rw [exec_of_always (f := (·.perstRelease)) rfl, heq]
  · exact ⟨_, exec_of_always (f := (·.perstAssert)) rfl, Chip.perstAssert_resets hperst hbridge⟩
  · have heq : s.chip.rrsTimeout = (s.chip.setF .hbr R.HBR_STATE_RRS 0).raise .hbr St.HBR_RRS_TIMEOUT := if_neg (by
      rw [show s.chip.bridgeUp = true from hbridge, show s.chip.perst = false from hperst, show s.chip.bootEnded = false from hboot,
        show s.chip.on .hbr R.HBR_STATE_RRS = true from hrrs]
      decide)
    rw [exec_of_onMc (f := (·.rrsTimeout)) hup rfl, heq]
  · exact ⟨_, exec_of_onMc (f := (·.pcieLinkUp wide speed)) hup rfl, Chip.pcieLinkUp_shows hbridge hperst hdown wide speed.isLt⟩
  · exact ⟨_, exec_of_onMc (f := (·.pcieLinkDown)) hup rfl, Chip.pcieLinkDown_fresh hactive⟩
  · have heq : s.chip.pcieHotReset = s.chip.pcieReset.ltssm := if_pos hlink
    refine ⟨s.chip.pcieReset.ltssm, ?_, s.chip.pcieReset_fresh.ltssm⟩
    rw [exec_of_onMc (f := (·.pcieHotReset)) hup rfl, heq]
  · have heq : s.chip.flrPf = s.chip.pcieReset.raise .hbr St.HBR_FLR_PF := if_pos hlink
    refine ⟨s.chip.pcieReset.raise .hbr St.HBR_FLR_PF, ?_, s.chip.pcieReset_fresh.raise (by decide) (by decide) (by decide) (by decide), ?_⟩
    · rw [exec_of_onMc (f := (·.flrPf)) hup rfl, heq]
    · rw [Chip.on, Chip.getF_raise_flag _ rfl (fkey_ne_of_place _ (by decide))]
      rfl
  · have hgo : ¬ (!s.chip.linkUp || !s.chip.fnThere (n + 1)) = true := by
      rw [show s.chip.linkUp = true from hlink, show s.chip.fnThere (n + 1) = true from hn]
      decide
    rw [exec_of_onMc (f := (·.flrVf n)) hup rfl, Chip.flrVf, if_neg hgo]
    rfl
  · intro tells
    obtain ⟨hdevice, hclass, htotal⟩ := s.chip.cfgRead_identity fn
    refine ⟨fun wr dw v vfs => ⟨fun hrrs => ?_, fun hrrs hfn => ⟨?_, ?_⟩⟩, hdevice, hclass, htotal, fun off wr bs n i => ?_⟩
    · rw [exec_of_onMc (f := (·.pcieConfig fn wr dw v.toNat (vfs.map (·.val)))) hup rfl, Chip.pcieConfig_retry hlink fn dw v.toNat _ hrrs]
      rfl
    · rw [exec_of_onMc (f := (·.pcieConfig fn false dw v.toNat (vfs.map (·.val)))) hup rfl, Chip.pcieConfig_read hlink fn dw v.toNat _ hrrs hfn]
      rfl
    · rw [exec_of_onMc (f := (·.pcieConfig fn true dw v.toNat (vfs.map (·.val)))) hup rfl, Chip.pcieConfig_write hlink fn dw v.toNat _ hrrs hfn]
      cases vfs <;> rfl
    · intro len go d dev m may hfn hlen hmax hblock hpage
      have hgo : go = s.goes (s.chip.hostRequest regIo fn wr off.toNat len (if wr then bs else [])).after := exec_pcieMem hup fn off wr bs n
      rw [hgo, Chip.hostRequest_page _ hlink hfn hlen hmax hblock hpage]
      have hmay : ((d.hostFn fn).d3hot || !d.on (.apt i) R.APT_VALID || !d.on (.apt i) (if wr then R.APT_WRITE else R.APT_READ)) = !may := by
        simp only [may, Bool.not_and, Bool.not_not]
        rfl
      refine ⟨fun hno => ?_, fun hyes hself => ?_, fun hyes hself => ?_⟩
      · rw [hno] at hmay
        exact congrArg (fun x : Chip => s.goes x.after) (if_pos hmay)
      · rw [hyes] at hmay
        exact congrArg (fun x : Chip => s.goes x.after) ((if_neg (ne_true_of_eq_false hmay)).trans (if_pos hself))
      · rw [hyes] at hmay
        exact congrArg (fun x : Chip => s.goes x.after) ((if_neg (ne_true_of_eq_false hmay)).trans (if_neg (ne_true_of_eq_false hself)))

end Sys2Proof.Machine
end

section
/-! SUPPORT and certificates. A sealed slot and a stripe buffer that names an access its group does not have (R303, R394). The statement on CAB_SEAL is
about every state, and so about one whose stripe buffer holds a write of access 0x7FFC04 of a stripe. When that write is drained, the access is read,
rebuilt and counted; its count would lie past the group's registers, at the SEALED word of the first hosted cabinet. -/

namespace Sys2Proof.Machine

/-! A memory that lists each address once or with one value. -/

theorem KMap.find?_of_forall {α : Type} {m : KMap α} {a : Nat} {b : α} (hval : ∀ e ∈ m, e.1 = a → e.2 = b) (hin : ∃ e ∈ m, e.1 = a) :
    m.find? a = some b := by
  induction m with
  | nil => obtain ⟨e, he, -⟩ := hin; cases he
  | cons x m ih =>
    obtain ⟨k, v⟩ := x
    unfold KMap.find?
    by_cases hk : k = a
    · exact (if_pos hk).trans (congrArg some (hval (k, v) List.mem_cons_self hk))
    · rw [if_neg hk]
      refine ih (fun e he => hval e (List.mem_cons_of_mem _ he)) ?_
      obtain ⟨e, he, hea⟩ := hin
      obtain rfl | he := List.mem_cons.mp he
      · exact absurd hea hk
      · exact ⟨e, he, hea⟩

theorem KMap.find?_of_absent {α : Type} {m : KMap α} {a : Nat} (h : ∀ e ∈ m, e.1 ≠ a) : m.find? a = none := by
  induction m with
  | nil => rfl
  | cons x m ih =>
    unfold KMap.find?
    rw [if_neg (h x List.mem_cons_self)]
    exact ih (fun e he => h e (List.mem_cons_of_mem _ he))

/-! The counterexample's state. -/

/-- The access of group 0 whose count (`ceField`) shares its key with SEALED0 of the first hosted cabinet. -/
def strayAccess : Nat := 0x7FFC04

/-- The plan that a header of zeros holds, whatever the header's layout is. -/
def blankPlan : List Region := (Config.cabEntries (List.replicate 4096 0)).map (fun e => ⟨e.1, e.2.1, e.2.2⟩)

/-- A cabinet at address 0 with a header of zeros and a fill map that attests every line of its plan; the stray access lies elsewhere. -/
def strayMem : Mem :=
  (upto 64).map (fun i => (i, 0)) ++ (upto 32).map (fun i => (0xFFF8160 + i, 0xFF)) ++
    (upto (rideLines blankPlan / 8 + 1)).map (fun i => (4096 + i, 0xFF))

/-- Its group drains two stripes at the next write, which waits in the queue: one with the stray access, which has to be rebuilt, and the first stripe
of the cabinet, of which two members fail. -/
def strayGroup : Group :=
  { buf := ⟨1, [(strayAccess, 1)]⟩ :: ⟨0, [(0, 1)]⟩ :: List.replicate 16 ⟨10 ^ 6, []⟩
    drain := true
    queue := [⟨mcAgent, 0, true, 0, [1], 1, false, true⟩]
    faults := [⟨0, 1, strayAccess, 1⟩, ⟨0, 0, 0, 1⟩, ⟨0, 0, 1, 1⟩] }

def strayRecov : Recov := { State.reset.chip.recov with drained := [0] }

def strayChip : Chip :=
  (({ State.reset.chip with por := false, mem := strayMem, grps := [(0, strayGroup)], recov := strayRecov } : Chip).setFs (.host 0)
    [(R.HOST_SRC_ACCEPTED, 1), (R.HOST_SRC_FILLING, 1), (R.HOST_STEPS_WSTATE_STEP, 2)]).setF (.mem 0) R.MEM_STATE_PRESENT 1

def strayState : State := { State.reset with chip := strayChip }

/-! Its fill map is complete. -/

theorem strayMem_header {a : Nat} (h : a < 4096) : Mem.read strayMem a = 0 := by
  have hval : ∀ e ∈ strayMem, e.1 = a → e.2 = 0 := by
    intro e he hea
    simp only [strayMem, upto, List.mem_append, List.mem_map, List.mem_range] at he
    obtain (⟨i, -, rfl⟩ | ⟨i, -, rfl⟩) | ⟨i, -, rfl⟩ := he
    · rfl
    · dsimp only at hea; omega
    · dsimp only at hea; omega
  unfold Mem.read KMap.getD
  by_cases hin : ∃ e ∈ strayMem, e.1 = a
  · rw [KMap.find?_of_forall hval hin, Option.getD_some]
  · rw [KMap.find?_of_absent (fun e he hea => hin ⟨e, he, hea⟩), Option.getD_none]

theorem strayMem_fillMap {i : Nat} (h : i < rideLines blankPlan / 8 + 1) : Mem.read strayMem (4096 + i) = 0xFF := by
  have hval : ∀ e ∈ strayMem, e.1 = 4096 + i → e.2 = 0xFF := by
    intro e he hea
    simp only [strayMem, upto, List.mem_append, List.mem_map, List.mem_range] at he
    obtain (⟨k, hk, rfl⟩ | ⟨k, -, rfl⟩) | ⟨k, -, rfl⟩ := he
    · dsimp only at hea; omega
    · rfl
    · rfl
  have hin : ∃ e ∈ strayMem, e.1 = 4096 + i :=
    ⟨(4096 + i, 0xFF), List.mem_append_right _ (List.mem_map.mpr ⟨i, List.mem_range.mpr h, rfl⟩), rfl⟩
  rw [Mem.read, KMap.getD, KMap.find?_of_forall hval hin, Option.getD_some]

theorem strayChip_unpaired : ∀ i ∈ upto 16, strayChip.on (.pair i) R.PAIR_CFG_VALID = false := by decide +kernel

theorem Chip.viewAddr_unpaired {c : Chip} (h : ∀ i ∈ upto 16, c.on (.pair i) R.PAIR_CFG_VALID = false) (a : Nat) :
    c.pairAt a = none ∧ c.viewAddr a = a := by
  have hpair : c.pairAt a = none := List.find?_eq_none.mpr (fun i hi => by rw [h i hi]; simp)
  exact ⟨hpair, by rw [Chip.viewAddr, hpair]⟩

theorem strayChip_header : strayChip.cabRead 0 4096 = List.replicate 4096 0 := by
  refine List.eq_replicate_iff.mpr ⟨?_, fun b hb => ?_⟩
  · rw [Chip.cabRead, Chip.locBytes, if_pos (by decide), List.length_map, upto, List.length_range]
  · rw [Chip.cabRead, Chip.locBytes, if_pos (by decide)] at hb
    obtain ⟨i, hi, rfl⟩ := List.mem_map.mp hb
    rw [(Chip.viewAddr_unpaired strayChip_unpaired _).2]
    exact strayMem_header (by have := List.mem_range.mp hi; omega)

theorem strayChip_cabRead_one (a : Nat) : strayChip.cabRead a 1 = [Mem.read strayMem a] := by
  unfold Chip.cabRead Chip.locBytes
  split
  · exact congrArg (fun x => [Mem.read strayMem x]) (Chip.viewAddr_unpaired strayChip_unpaired (a + 0)).2
  · rfl

theorem strayChip_hostPlan : strayChip.hostPlan 0 = blankPlan := by
  have hbase : strayChip.cabBase 0 = 0 := by decide +kernel
  rw [Chip.hostPlan, hbase, strayChip_header, blankPlan]

theorem strayChip_missingLines : strayChip.missingLines 0 = [] := by
  have hbase : strayChip.cabBase 0 = 0 := by decide +kernel
  rw [Chip.missingLines, strayChip_hostPlan]
  refine List.filter_eq_nil_iff.mpr (fun n hn => ?_)
  have hline : n / 8 < rideLines blankPlan / 8 + 1 := by have := List.mem_range.mp hn; omega
  rw [Chip.lineHere, hbase, strayChip_cabRead_one, Nat.zero_add, strayMem_fillMap hline]
  have hbit : ∀ k < 8, bit (leNat [(0xFF : Byte)]) k = true := by decide
  exact Bool.eq_false_iff.mp (congrArg (!·) (hbit (n % 8) (Nat.mod_lt n (by decide))))

/-! What sealing it does. -/

/-- After the header has been read the waiting write has been performed: both stripes are drained. -/
def strayRead : Chip := (((strayChip.setF (.host 0) R.HOST_MISSING 0).setF (.host 0) (sealedField 0) 2).mcRead 0 4096).1

theorem strayRead_sealed : strayRead.getF (.host 0) (sealedField 0) = 3 := by decide +kernel

theorem strayRead_lost : strayRead.byteCode mcAgent true 0 = COMP_MEM_LOST := by decide +kernel

theorem strayRead_space : 4096 ≤ strayRead.lpddrTop ∧ strayRead.cabBase 0 = 0 ∧ ∀ i ∈ upto 16, strayRead.on (.pair i) R.PAIR_CFG_VALID = false := by
  decide +kernel

/-- A byte of LPDDR6 that no pair covers can be refused to the management core only because it is lost. -/
theorem Chip.byteCode_mc {c : Chip} {a : Nat} (write : Bool) (hlow : a < 0xFC00000000) (htop : a < c.lpddrTop)
    (hpair : ∀ i ∈ upto 16, c.on (.pair i) R.PAIR_CFG_VALID = false) :
    c.byteCode mcAgent write a = COMP_OK ∨ c.byteCode mcAgent write a = COMP_MEM_LOST := by
  have hplace : placeOf a = .lpddr := if_pos hlow
  have hheld : c.sideHeld a = false := by rw [Chip.sideHeld, (Chip.viewAddr_unpaired hpair a).1]
  unfold Chip.byteCode
  simp only [hplace, hheld, Nat.not_le.mpr htop, mcAgent, if_false, Bool.not_true, Bool.and_false, Bool.false_eq_true]
  split
  · exact .inr rfl
  · exact .inl rfl

theorem probes_within {a n x : Nat} (h : x ∈ probes a n) : a ≤ x ∧ x < a + n := by
  unfold probes at h
  split at h
  · cases h
  · simp only [List.mem_cons, List.mem_map, upto, List.mem_range] at h
    obtain rfl | rfl | ⟨i, hi, rfl⟩ := h <;> omega

/-- The code that is decided among losses. -/
theorem foldl_lost (l : List Code) (h : ∀ k ∈ l, k = COMP_MEM_LOST) :
    l.foldl (fun x y => if x = COMP_OK || codeRank y < codeRank x then y else x) COMP_MEM_LOST = COMP_MEM_LOST := by
  induction l with
  | nil => rfl
  | cons k l ih =>
    rw [List.foldl_cons, h k List.mem_cons_self, ite_self]
    exact ih (fun x hx => h x (List.mem_cons_of_mem _ hx))

/-- A request whose first byte is lost, and of which no byte is refused for another reason, is refused because of the loss. -/
theorem Chip.accessCode_lost {c : Chip} {ag : Agent} {write : Bool} {a n : Nat} (hn : n ≠ 0) (hfirst : c.byteCode ag write a = COMP_MEM_LOST)
    (hall : ∀ x, a ≤ x → x < a + n → c.byteCode ag write x = COMP_OK ∨ c.byteCode ag write x = COMP_MEM_LOST) :
    c.accessCode ag write a n = COMP_MEM_LOST := by
  have hcodes : ∀ k ∈ ((probes a n).map (c.byteCode ag write)).filter (· != COMP_OK), k = COMP_MEM_LOST := by
    intro k hk
    obtain ⟨hmem, hne⟩ := List.mem_filter.mp hk
    obtain ⟨x, hx, rfl⟩ := List.mem_map.mp hmem
    obtain ⟨hlo, hhi⟩ := probes_within hx
    exact (hall x hlo hhi).resolve_left (bne_iff_ne.mp hne)
  unfold Chip.accessCode
  rw [probes, if_neg hn, List.map_cons, hfirst, List.filter_cons_of_pos (by decide)] at hcodes ⊢
  exact foldl_lost _ (fun k hk => hcodes k (List.mem_cons_of_mem _ hk))

/-- A write of LPDDR6 that is refused because of a loss leaves nothing behind. -/
theorem Chip.writeBy_lost {c : Chip} (io : RegIo) {ag : Agent} {a en : Nat} {bs : List Byte} (h : c.accessCode ag true a bs.length = COMP_MEM_LOST)
    (hplace : placeOf a = .lpddr) : c.writeBy io ag a en bs = (c, COMP_MEM_LOST) := by
  have hnote : c.noteRefusal ag a COMP_MEM_LOST = c := by
    unfold Chip.noteRefusal
    rw [if_neg (by decide), if_neg (by decide), if_neg (by decide), hplace]
  unfold Chip.writeBy
  simp only [h, hnote]
  exact if_pos (by decide)

/-- So nothing of the marked header is stored: the SEALED word keeps what the count has made of it. -/
theorem strayRead_cabStore (bs : List Byte) (hlen : bs.length ≤ 4096) :
    (strayRead.cabStore 0 bs).getF (.host 0) (sealedField 0) = strayRead.getF (.host 0) (sealedField 0) := by
  obtain ⟨htop, -, hpair⟩ := strayRead_space
  cases bs with
  | nil => decide +kernel
  | cons b bs =>
    have hcode : strayRead.accessCode mcAgent true 0 (b :: bs).length = COMP_MEM_LOST :=
      Chip.accessCode_lost (by simp) strayRead_lost (fun x _ hx => Chip.byteCode_mc true (by omega) (by omega) hpair)
    rw [Chip.cabStore, Chip.agentWrite, Chip.agentWriteIo, if_neg (by rw [hcode]; decide), Chip.writeBy_lost _ hcode rfl]

/-- The mirror registers lie elsewhere. -/
theorem Chip.setMirror_sealed (c : Chip) (valid : Bool) :
    (c.setMirror 0 valid).getF (.host 0) (sealedField 0) = c.getF (.host 0) (sealedField 0) := by
  have hmir (d : Nat) {f : Field} (hf : f.off < 0x20 ∧ f.lsb < 64) : fkey (.host 0) (sealedField 0) ≠ fkey (.mir d 0) f := by
    simp only [fkey, Blk.base, dieSpan, sealedField, if_true, R.HOST_SEALED_SEALED0]
    omega
  unfold Chip.setMirror
  refine (forAll_keeps (fun x : Chip => x.getF (.host 0) (sealedField 0)) _ _ _ (fun x d => Chip.getF_setFs_of_ne _ _ ?_)).trans
    (Chip.getF_setF_of_ne _ _ (fkey_ne_of_place _ (by decide)))
  simp only [List.forall_mem_cons, List.not_mem_nil, false_imp_iff, implies_true, and_true]
  exact ⟨hmir d (by decide), hmir d (by decide), hmir d (by decide), hmir d (by decide), hmir d (by decide)⟩

/-- Marking a slot stores into the header what has been read of it. -/
theorem Chip.markSlot_stores (c : Chip) (j slot w : Nat) : ∃ bs : List Byte, bs.length ≤ 4096 ∧
    c.markSlot j slot w = (((c.setF (.host j) (sealedField slot) w).mcRead (c.cabBase j) 4096).1).cabStore
      ((((c.setF (.host j) (sealedField slot) w).mcRead (c.cabBase j) 4096).1).cabBase j) bs :=
  ⟨(Config.cabMark slot w ((c.setF (.host j) (sealedField slot) w).mcRead (c.cabBase j) 4096).2).take 4096, List.length_take_le _ _, rfl⟩

theorem strayChip_sealed : (((strayChip.setF (.host 0) R.HOST_MISSING 0).markSlot 0 0 2).setMirror 0 false).getF (.host 0) (sealedField 0) = 3 := by
  have hbase : (strayChip.setF (.host 0) R.HOST_MISSING 0).cabBase 0 = 0 := by decide +kernel
  obtain ⟨-, hread, -⟩ := strayRead_space
  obtain ⟨bs, hlen, hmark⟩ := (strayChip.setF (.host 0) R.HOST_MISSING 0).markSlot_stores 0 0 2
  rw [hbase, ← strayRead, hread] at hmark
  rw [Chip.setMirror_sealed, hmark, strayRead_cabStore bs hlen, strayRead_sealed]

/-- Refutes O54 at CAB_SEAL: the cabinet holds all of the snapshot of step 2, and its SEALED word then reads 3, since the count of the stray access has
been added to it. -/
theorem not_copiesArePairedAndSealed : ¬ Obligations.CopiesArePairedAndSealed := by
  unfold Obligations.CopiesArePairedAndSealed
  intro h
  obtain ⟨-, hmc, -⟩ := h
  obtain ⟨-, -, hslot⟩ := hmc strayState rfl
  obtain ⟨-, hseal⟩ := hslot 0 (by decide +kernel) rfl
  obtain ⟨-, hword⟩ := hseal strayChip_missingLines
  have hstep : strayState.chip.getF (.host 0) R.HOST_STEPS_WSTATE_STEP = 2 := by decide +kernel
  have hplace : placeOf (strayState.chip.cabBase 0) = .lpddr := by decide +kernel
  obtain ⟨hword, -⟩ := hword (fun x off => by
    rw [show strayState.chip.cabBase ((0 : Fin 4) : Nat) = strayState.chip.cabBase 0 from rfl, hplace]
    exact Place.noConfusion)
  change (((strayChip.setF (.host 0) R.HOST_MISSING 0).markSlot 0 (strayState.chip.getF (.host 0) R.HOST_STEPS_WSTATE_STEP % 2)
    (strayState.chip.getF (.host 0) R.HOST_STEPS_WSTATE_STEP)).setMirror 0 false).getF (.host 0)
    (sealedField (strayState.chip.getF (.host 0) R.HOST_STEPS_WSTATE_STEP % 2)) = strayState.chip.getF (.host 0) R.HOST_STEPS_WSTATE_STEP % 2 ^ 32 at hword
  rw [hstep] at hword
  exact absurd (strayChip_sealed.symm.trans hword) (by decide)

end Sys2Proof.Machine
end

section
/-! SUPPORT and certificates. Loss of contact, the rollback, and the spare that takes a lost device's place (R401-R407, R409, R412, R418): what each
message and each command of the recovery unit does, said once, and the statement on them. -/

namespace Sys2Proof.Machine

/-! Heartbeats and silence (R401, R402). -/

/-- What a heartbeat leaves in the recovery unit. -/
def Chip.heardFrom (c : Chip) (src level sealed : Nat) : Chip :=
  let x := c.recov
  { c with recov := { x with
    silent := x.silent.filter (· != src), declare := x.declare.filter (· != src), due := x.due.filter (· != src), told := x.told.erase src
    memberLevel := if c.isMember src then x.memberLevel.insert (rankOf src) (level % 4) else x.memberLevel
    memberSeal := if c.isMember src && level % 4 != 0 && x.restore.isNone then x.memberSeal.insert (rankOf src) sealed else x.memberSeal } }

section
variable {c : Chip} {src dev : Nat}

theorem Chip.heartbeatRx_partner {i : Nat} (hi : c.partnerNo src = some i) (ha : c.partner i R.RES_PARTNER_ACCEPTED ≠ 0) (level sealed : Nat) :
    c.heartbeatRx src level sealed = ((c.heardFrom src level sealed).setPartner i R.RES_PARTNER_UP 1).groupSeal.sealStep := by
  unfold Chip.heartbeatRx
  dsimp only
  split
  next k hk =>
    obtain rfl : i = k := Option.some.inj (hi.symm.trans hk)
    exact congrArg (fun x : Chip => x.groupSeal.sealStep) (if_neg ha)
  next hk => exact absurd (hi.symm.trans hk) (Option.some_ne_none i)

theorem Chip.heartbeatRx_stranger (hi : c.partnerNo src = none) (level sealed : Nat) :
    c.heartbeatRx src level sealed = (c.heardFrom src level sealed).groupSeal.sealStep := by
  unfold Chip.heartbeatRx
  dsimp only
  split
  next k hk => exact absurd (hk.symm.trans hi) (Option.some_ne_none k)
  next => rfl

/-- A device that is found silent. -/
def Chip.noteSilent (c : Chip) (dev : Nat) : Chip := { c with recov := { c.recov with silent := dev :: c.recov.silent } }

/-- A partner that is found silent is no longer up. -/
def Chip.partnerDown (c : Chip) (i dev : Nat) : Chip :=
  (((c.setPartner i R.RES_PARTNER_UP 0).raise .res St.RES_PARTNER_LOST).addF .res R.RES_HB_MISSED 1).pldmEvent 259 dev

/-- The other partners of a silent source are told of its newest sealed step, and its loss can be declared once it is due. -/
def Chip.tellSilence (c : Chip) (dev w : Nat) : Chip :=
  let c := forAll ((Config.partnersOf dev).filter (fun d => !c.isSelf d)) c (fun c d => c.mgmtSend d MT_SILENT [dev, w, 0])
  { c with recov := { c.recov with declare := dev :: c.recov.declare.filter (· != dev), due := c.recov.due.filter (· != dev) } }

theorem Chip.partnerSilent_partner {i : Nat} (hpeer : c.heartPeers.contains dev = true) (hnew : c.recov.silent.contains dev = false)
    (hi : (c.noteSilent dev).partnerNo dev = some i) (ha : (c.noteSilent dev).partner i R.RES_PARTNER_ACCEPTED ≠ 0)
    (hj : ((c.noteSilent dev).partnerDown i dev).hostNo dev = none) :
    c.partnerSilent dev = ((c.noteSilent dev).partnerDown i dev).sealStep := by
  unfold Chip.partnerSilent
  rw [if_neg (by rw [hpeer, hnew]; decide), ← Chip.noteSilent]
  dsimp only
  rw [hi]
  dsimp only
  rw [if_neg ha, ← Chip.partnerDown, hj]

theorem Chip.partnerSilent_source {j : Nat} (hpeer : c.heartPeers.contains dev = true) (hnew : c.recov.silent.contains dev = false)
    (hi : (c.noteSilent dev).partnerNo dev = none) (hj : (c.noteSilent dev).hostNo dev = some j) :
    c.partnerSilent dev = ((c.noteSilent dev).tellSilence dev (((c.noteSilent dev).newestSealed j).getD NO_STEP)).sealStep := by
  unfold Chip.partnerSilent
  rw [if_neg (by rw [hpeer, hnew]; decide), ← Chip.noteSilent]
  dsimp only
  rw [hi]
  dsimp only
  rw [hj]
  rfl

end

/-! The declaration of a lost source (R402, R409). -/

/-- The declaration has been decided, one way or the other. -/
def Chip.decided (c : Chip) (dev : Nat) : Chip :=
  { c with recov := { c.recov with declare := c.recov.declare.filter (· != dev), due := c.recov.due.filter (· != dev) } }

/-- The other partners of a source. -/
def Chip.coPartners (c : Chip) (dev : Nat) : List Nat := (Config.partnersOf dev).filter (fun d => !c.isSelf d)

/-- Does this device come first where no seal decides? -/
def Chip.declaresFirst (c : Chip) (dev : Nat) : Bool :=
  c.recov.told.find? dev == some NO_PARTNER || (c.coPartners dev).all (fun d => decide (c.deviceId < d))

/-- A source is declared lost at step `w`. -/
def Chip.declareLoss (c : Chip) (dev w : Nat) : Chip :=
  let u := (c.broadcast true MT_LOST [dev, w, 0]).takeLost dev w c.deviceId true
  if w = NO_STEP then u.stateLost else u.openClaim dev w

section
variable {c : Chip} {dev j : Nat} (hj : c.hostNo dev = some j)
include hj

theorem Chip.tryDeclare_waits (hothers : c.coPartners dev ≠ []) (hheard : c.recov.told.find? dev = none) : c.tryDeclare dev = c := by
  have hempty : (c.coPartners dev).isEmpty = false := Bool.eq_false_iff.mpr (fun h => hothers (List.isEmpty_iff.mp h))
  unfold Chip.tryDeclare
  rw [hj]
  dsimp only
  rw [← Chip.coPartners, hheard, hempty]
  exact if_pos (by simp)

variable (hdeclare : c.recov.declare.contains dev = true) (hdue : c.recov.due.contains dev = true)
  (hready : c.coPartners dev = [] ∨ (c.recov.told.find? dev).isSome = true)
include hdeclare hdue hready

omit hj in
theorem Chip.not_waiting : ¬ (!c.recov.declare.contains dev || !c.recov.due.contains dev ||
    (!(c.coPartners dev).isEmpty && (c.recov.told.find? dev).isNone)) = true := by
  rw [hdeclare, hdue]
  obtain h | h := hready
  · simp [h]
  · simp [Option.isNone_iff_eq_none, Option.ne_none_iff_isSome.mpr h]

/-- Without a seal to compare with, this device declares when it holds one or comes first. -/
theorem Chip.tryDeclare_alone (hlow : (c.recov.told.find? dev).filter (· < NO_STEP) = none) :
    c.tryDeclare dev = if ((c.decided dev).newestSealed j).isSome = true ∨ c.declaresFirst dev = true
      then (c.decided dev).declareLoss dev (((c.decided dev).newestSealed j).getD NO_STEP) else c.decided dev := by
  have hgo := Chip.not_waiting hdeclare hdue hready
  have hfirst : (c.recov.told.find? dev == some NO_PARTNER || (c.coPartners dev).all fun d => decide ((c.decided dev).deviceId < d)) =
    c.declaresFirst dev := rfl
  unfold Chip.tryDeclare
  rw [hj]
  dsimp only
  rw [← Chip.coPartners, if_neg hgo, ← Chip.decided, hlow, hfirst]
  cases (c.decided dev).newestSealed j with
  | some w => exact (if_neg Bool.false_ne_true).trans (if_pos (.inl rfl)).symm
  | none =>
    cases c.declaresFirst dev with
    | true => exact (if_neg Bool.false_ne_true).trans (if_pos (.inr rfl)).symm
    | false => exact (if_pos rfl).trans (if_neg (by decide)).symm

/-- With one, the greater step declares, and where the steps are equal the device that comes first. -/
theorem Chip.tryDeclare_against {v : Nat} (hlow : (c.recov.told.find? dev).filter (· < NO_STEP) = some v) :
    ((c.decided dev).newestSealed j = none → c.tryDeclare dev = c.decided dev) ∧
    ∀ k, (c.decided dev).newestSealed j = some k → c.tryDeclare dev =
      if v < k ∨ (v = k ∧ c.declaresFirst dev = true) then (c.decided dev).declareLoss dev k else c.decided dev := by
  have hgo := Chip.not_waiting hdeclare hdue hready
  have hfirst : (c.recov.told.find? dev == some NO_PARTNER || (c.coPartners dev).all fun d => decide ((c.decided dev).deviceId < d)) =
    c.declaresFirst dev := rfl
  unfold Chip.tryDeclare
  rw [hj]
  dsimp only
  rw [← Chip.coPartners, if_neg hgo, ← Chip.decided, hlow, hfirst]
  refine ⟨fun hn => ?_, fun k hk => ?_⟩
  · rw [hn]
    exact if_pos rfl
  · rw [hk]
    by_cases hwin : v < k ∨ (v = k ∧ c.declaresFirst dev = true)
    · have hval : (decide (v < k) || v == k && c.declaresFirst dev) = true := by simpa using hwin
      exact (if_neg (fun h => Bool.false_ne_true (by rw [← h]; exact (congrArg (!·) hval).symm))).trans (if_pos hwin).symm
    · have hval : (decide (v < k) || v == k && c.declaresFirst dev) = false := by simpa using hwin
      exact (if_pos (congrArg (!·) hval)).trans (if_neg hwin).symm

end

/-- The 20 µs of a source have passed. -/
def Chip.madeDue (c : Chip) (dev : Nat) : Chip := { c with recov := { c.recov with due := dev :: c.recov.due.filter (· != dev) } }

theorem Chip.madeDue_due (c : Chip) (dev : Nat) : (c.madeDue dev).recov.due.contains dev = true := List.contains_iff_mem.mpr List.mem_cons_self

theorem Chip.lossDeclare_tries {c : Chip} {dev : Nat} (h : c.recov.declare.contains dev = true) : c.lossDeclare dev = (c.madeDue dev).tryDeclare dev :=
  if_neg (by rw [h]; decide)

theorem Option.filter_lt_some {v n : Nat} (h : v < n) : (some v).filter (· < n) = some v := by simp [Option.filter, h]
theorem Option.filter_lt_none {v n : Nat} (h : n ≤ v) : (some v).filter (· < n) = none := by simp [Option.filter, Nat.not_lt.mpr h]

/-! The spare (R405, R406). -/

/-- A spare holds the plan of the lost device, its pairs in buffer 0 at the step of the stage. -/
def Chip.planLoaded (c : Chip) (l : List Region) (st : Stage) : Chip :=
  forAll ((l.filter (fun r => decide (r.method < 2))).take 16).zipIdx
    (c.setPartRun c.protPart { c.partRun c.protPart with plan := l, held := true }) (fun x e =>
      x.setFs (.pair e.2) [(R.PAIR_BASE, e.1.base / 4096), (R.PAIR_CFG_SIZE, e.1.size / 4096), (R.PAIR_CFG_METHOD, e.1.method),
        (R.PAIR_CFG_LIVE, 0), (R.PAIR_CFG_WRITTEN, 0), (R.PAIR_CFG_VALID, 1), (R.PAIR_CFG_PART, c.protPart), (R.PAIR_STEPS_STEP0, st.step),
        (R.PAIR_STEPS_STEP1, st.step)])

/-- The spare answers for the lost device, and has its partners and its hosted sources. -/
def Chip.takePlace (c : Chip) (dev : Nat) : Chip :=
  let c := c.setFs .res [(R.RES_STATE_ALIAS, dev), (R.RES_STATE_ALIAS_VALID, 1), (R.RES_STATE_ROLE, 3)]
  let c := forAll ((Config.partnersOf dev).take 2).zipIdx c (fun c e =>
    ((c.setPartner e.2 R.RES_PARTNER_DEVICE e.1).setPartner e.2 R.RES_PARTNER_CONFIGURED 1).setPartner e.2 R.RES_PARTNER_ACCEPTED 0)
  forAll ((Config.hostsOf dev).take 4).zipIdx c (fun c e =>
    c.setFs (.host e.2) [(R.HOST_SRC_SOURCE, e.1.1), (R.HOST_SRC_VALID, 1), (R.HOST_SRC_ACCEPTED, 1), (R.HOST_SRC_FILLING, 0),
      (R.HOST_BASE_CAB_BASE, e.1.2.1), (R.HOST_SIZE_CAB_SIZE, e.1.2.2), (R.HOST_SEALED_SEALED0, NO_STEP),
      (R.HOST_SEALED_SEALED1, NO_STEP)])

/-- The group is held until its members have adopted the spare. -/
def Chip.awaitGroup (c : Chip) (step : Nat) : Chip :=
  { c with recov := { c.recov with load := none, restore := some step, waiting := true, headers := [0, 1] } }

/-- The regions of a cabinet's header. -/
def regionsOf (plan : List Byte) : List Region := (Config.cabEntries plan).map (fun e => (⟨e.1, e.2.1, e.2.2⟩ : Region))

section
variable {c : Chip} {plan stage : List Byte} {src dev : Nat} (hload : c.recov.load = some (src, dev))
include hload

theorem Chip.loadDoneHere_other (h : ¬ (plan = c.locBytes (Config.loadPlace dev) 4096 ∧ stage = c.locBytes (Config.loadPlace dev + 4096) stageLen)) :
    c.loadDoneHere plan stage = c := by
  unfold Chip.loadDoneHere
  rw [hload]
  exact if_pos (not_and_or.mp h)

variable (hheld : plan = c.locBytes (Config.loadPlace dev) 4096 ∧ stage = c.locBytes (Config.loadPlace dev + 4096) stageLen)
include hheld

theorem Chip.loadDoneHere_failed
    (h : ((c.planLoaded (regionsOf plan) (stageOfWords (Config.stageWords stage))).restoreApply (stageOfWords (Config.stageWords stage))).2 = false) :
    c.loadDoneHere plan stage = ({ ((c.planLoaded (regionsOf plan) (stageOfWords (Config.stageWords stage))).restoreApply
      (stageOfWords (Config.stageWords stage))).1 with stages := [stageOfWords (Config.stageWords stage)] } : Chip).stateLost := by
  unfold Chip.loadDoneHere
  rw [hload]
  exact (if_neg (fun hne => not_and_or.mpr hne hheld)).trans (if_pos (congrArg (!·) h))

theorem Chip.loadDoneHere_loaded
    (h : ((c.planLoaded (regionsOf plan) (stageOfWords (Config.stageWords stage))).restoreApply (stageOfWords (Config.stageWords stage))).2 = true) :
    ∃ e : Chip, c.loadDoneHere plan stage = (e.takePlace dev).awaitGroup (stageOfWords (Config.stageWords stage)).step := by
  unfold Chip.loadDoneHere
  rw [hload]
  exact ⟨_, (if_neg (fun hne => not_and_or.mpr hne hheld)).trans (if_neg (fun hf => Bool.false_ne_true (hf ▸ congrArg (!·) h).symm))⟩

end

/-- The loops over partners and hosted sources miss the register of the role. -/
theorem Chip.takePlace_state (c : Chip) (dev : Nat) {f : Field} (hf : f.off = 8 ∧ f.lsb < 64) : (c.takePlace dev).getF .res f =
    (c.setFs .res [(R.RES_STATE_ALIAS, dev), (R.RES_STATE_ALIAS_VALID, 1), (R.RES_STATE_ROLE, 3)]).getF .res f := by
  have hpartner (i : Nat) {g : Field} (hg : g.off = 0x18 ∧ g.lsb < 64) : fkey .res f ≠ fkey .res (g.nth i) :=
    fkey_ne_of_place _ (by simp only [Field.nth]; omega)
  have hhost (i : Nat) {g : Field} (hg : g.lsb < 64) : fkey .res f ≠ fkey (.host i) g := by
    simp only [fkey, Blk.base]; omega
  unfold Chip.takePlace
  refine (forAll_keeps (fun x : Chip => x.getF .res f) _ _ _ (fun x e => ?_)).trans
    (forAll_keeps (fun x : Chip => x.getF .res f) _ _ _ (fun x e => ?_))
  · refine x.getF_setFs_of_ne _ ?_
    simp only [List.forall_mem_cons, List.not_mem_nil, false_imp_iff, implies_true, and_true]
    exact ⟨hhost _ (by decide), hhost _ (by decide), hhost _ (by decide), hhost _ (by decide), hhost _ (by decide), hhost _ (by decide),
      hhost _ (by decide), hhost _ (by decide)⟩
  · exact (Chip.getF_setF_of_ne _ _ (hpartner _ (by decide))).trans ((Chip.getF_setF_of_ne _ _ (hpartner _ (by decide))).trans
      (Chip.getF_setF_of_ne _ _ (hpartner _ (by decide))))

theorem Chip.takePlace_shows (c : Chip) (dev : Nat) : (c.takePlace dev).on .res R.RES_STATE_ALIAS_VALID = true ∧
    (c.takePlace dev).getF .res R.RES_STATE_ALIAS = dev % 2 ^ 12 ∧ (c.takePlace dev).getF .res R.RES_STATE_ROLE = 3 := by
  simp only [Chip.on, Chip.takePlace_state c dev (f := R.RES_STATE_ALIAS_VALID) (by decide), Chip.takePlace_state c dev (f := R.RES_STATE_ALIAS) (by decide),
    Chip.takePlace_state c dev (f := R.RES_STATE_ROLE) (by decide), Chip.setFs_cons, Chip.setFs_nil]
  refine ⟨?_, ?_, ?_⟩
  · rw [Chip.getF_setF_of_ne _ _ (fkey_ne_of_place _ (by decide)), Chip.getF_setF_self]
    rfl
  · rw [Chip.getF_setF_of_ne _ _ (fkey_ne_of_place _ (by decide)), Chip.getF_setF_of_ne _ _ (fkey_ne_of_place _ (by decide)), Chip.getF_setF_self]
    rfl
  · rw [Chip.getF_setF_self]
    rfl

/-! LOST and FENCE, and the rollback (R403, R404). -/

/-- The rollback names the lost device and the step. -/
def Chip.rollTo (c : Chip) (dev w : Nat) : Chip :=
  ({ c with recov := { c.recov with restore := some w } } : Chip).setFs .res
    [(R.RES_LOST_DEVICE, dev), (R.RES_LOST_VALID, 1), (R.RES_LOST_STEP, w)]

/-- A device that begins to roll back. -/
def Chip.rollbackBegun (c : Chip) (w : Nat) : Chip :=
  { c.setF .res R.RES_STATE_ROLE 3 with recov := { c.recov with waiting := false, early := false, restore := some w } }

/-- The queues of a partition are held, and it is reset. -/
def Chip.holdPart (c : Chip) (p : Nat) : Chip := (c.setPartRun p { c.partRun p with held := true }).partReset p

section
variable {c : Chip} {dev st src : Nat} {fenced : Bool}

theorem Chip.takeLost_again (h : c.recov.losts.any (fun x => x.dev == dev && x.step == st) = true) : c.takeLost dev st src fenced = c := if_pos h

/-- The first LOST of a device is remembered and answered, and begins the rollback of a member. -/
theorem Chip.takeLost_first (h : c.recov.losts.any (fun x => x.dev == dev && x.step == st) = false) :
    let r := if (src = dev ∧ fenced = false) ∨ c.recov.refused.contains dev then c.recov.refused else dev :: c.recov.refused
    let x := (c.setRecov { c.recov with losts := ⟨dev, st, src⟩ :: c.recov.losts, refused := r }).raise .res St.RES_MEMBER_LOST
    let y := if src = dev ∧ fenced = false then x else x.mgmtSend dev MT_FENCE [dev]
    c.takeLost dev st src fenced = if y.isMember y.deviceId then y.restoreBegin dev st else y := by
  have hstays : (src == dev && !fenced) = decide (src = dev ∧ fenced = false) := by
    rw [Bool.eq_iff_iff]
    simp
  intro r x y
  unfold Chip.takeLost
  rw [if_neg (by rw [h]; decide), hstays]
  simp only [Bool.or_eq_true, decide_eq_true_eq]
  rfl

theorem Chip.restoreBegin_fenced (h : c.getF .res R.RES_STATE_ROLE = 4) : c.restoreBegin dev st = c := if_pos h

theorem Chip.restoreBegin_first (h : c.getF .res R.RES_STATE_ROLE ≠ 4) (hr : c.recov.restore = none) :
    c.restoreBegin dev st = ((c.rollTo dev st).rollbackBegun st).holdPart c.protPart := by
  unfold Chip.restoreBegin
  rw [if_neg h, hr]
  rfl

theorem Chip.restoreBegin_again {w : Nat} (h : c.getF .res R.RES_STATE_ROLE ≠ 4) (hr : c.recov.restore = some w) :
    c.restoreBegin dev st = c.rollTo dev (if c.recov.waiting then w else min st w) := by
  unfold Chip.restoreBegin
  rw [if_neg h, hr]
  rfl

end

theorem Chip.fenceSelf_shows (c : Chip) : c.fenceSelf.getF .res R.RES_STATE_ROLE = 4 ∧ c.fenceSelf.on .res St.RES_SELF_FENCED.flag = true := by
  unfold Chip.fenceSelf
  constructor
  · rw [Chip.getF_raise_of_ne _ (fkey_ne_of_place _ (by decide)) (fkey_ne_of_place _ (by decide)), Chip.getF_setF_self]
    rfl
  · rw [Chip.on, Chip.getF_raise_flag _ rfl (fkey_ne_of_place _ (by decide))]
    rfl

/-- Completions that tell of a restore are written to every queue of the protected partition. -/
def Chip.restoreTold (c : Chip) (step : Nat) : Chip :=
  forAll (queuesOf c.protPart) c (fun c n => (c.cqWrite n COMP_RESTORED 0 (ringIdx (c.getF (.wq n) R.WQ_CONS)) (step % 2 ^ 32)).queueIrq n)

/-- The rollback of partition `p` has ended. -/
def Chip.restoreEnded (c : Chip) (p us : Nat) : Chip :=
  let c := c.setPartRun p { c.partRun p with held := false }
  let c := { c with recov := { c.recov with restore := none, waiting := false, early := false, mending := false, reported := none, synced := false } }
  let c := (c.raise .res St.RES_RESTORED).addF .res R.RES_RESTORES 1
  c.setFs .res [(R.RES_LAST_US, satNat 0xFFFFFFFF us), (R.RES_STATE_ROLE, if c.getF .res R.RES_STATE_ROLE = 4 then 4 else 0)]

theorem Chip.restoreEnded_shows (q : Chip) (p us : Nat) :
    (q.restoreEnded p us).recov.restore = none ∧ (q.restoreEnded p us).recov.waiting = false ∧
    (q.restoreEnded p us).getF .res R.RES_STATE_ROLE = (if q.getF .res R.RES_STATE_ROLE = 4 then 4 else 0) ∧
    (q.restoreEnded p us).on .res St.RES_RESTORED.flag = true ∧ (q.restoreEnded p us).mem = q.mem := by
  refine ⟨rfl, rfl, ?_, ?_, ?_⟩
  · have hrole (d : Chip) : ((d.raise .res St.RES_RESTORED).addF .res R.RES_RESTORES 1).getF .res R.RES_STATE_ROLE = d.getF .res R.RES_STATE_ROLE := by
      rw [Chip.getF_addF_of_ne _ _ (fkey_ne_of_place _ (by decide)),
        Chip.getF_raise_of_ne _ (fkey_ne_of_place _ (by decide)) (fkey_ne_of_place _ (by decide))]
    unfold Chip.restoreEnded
    dsimp only
    rw [hrole, Chip.setFs_cons, Chip.setFs_cons, Chip.setFs_nil, Chip.getF_setF_self]
    change (if q.getF .res R.RES_STATE_ROLE = 4 then 4 else 0) % 2 ^ 3 = _
    split <;> rfl
  · have hkeeps (d : Chip) (m n : Nat) :
        (d.setFs .res [(R.RES_LAST_US, m), (R.RES_STATE_ROLE, n)]).getF .res St.RES_RESTORED.flag = d.getF .res St.RES_RESTORED.flag := by
      simp only [Chip.setFs_cons, Chip.setFs_nil]
      rw [Chip.getF_setF_of_ne _ _ (fkey_ne_of_place _ (by decide)), Chip.getF_setF_of_ne _ _ (fkey_ne_of_place _ (by decide))]
    unfold Chip.restoreEnded
    dsimp only
    rw [Chip.on, hkeeps, Chip.getF_addF_of_ne _ _ (fkey_ne_of_place _ (by decide)), Chip.getF_raise_flag _ rfl (fkey_ne_of_place _ (by decide))]
    rfl
  · unfold Chip.restoreEnded
    rw [Chip.setFs_mem, Chip.addF_mem, Chip.raise_mem]
    rfl

section
variable {c : Chip} {us step : Nat} (hr : c.recov.restore = some step)
include hr

theorem Chip.resumeGroup_early (h : ¬ (c.recov.waiting = true ∧ (c.recov.mending = false ∨ c.recov.repair = []))) :
    c.resumeGroup us = { c with recov := { c.recov with early := true } } := by
  have hcond : (!c.recov.waiting || (c.recov.mending && !c.recov.repair.isEmpty)) = true := by
    rw [not_and_or, not_or] at h
    obtain h | ⟨hm, hl⟩ := h
    · simp [h]
    · simp [hm, hl]
  unfold Chip.resumeGroup
  rw [hr]
  exact if_pos hcond

theorem Chip.resumeGroup_ready (h : c.recov.waiting = true ∧ (c.recov.mending = false ∨ c.recov.repair = [])) :
    c.resumeGroup us = ((c.restoreTold step).restoreEnded c.protPart us).relevel.groupSeal.wqArmAll := by
  have hcond : ¬ (!c.recov.waiting || (c.recov.mending && !c.recov.repair.isEmpty)) = true := by
    obtain ⟨hw, hm | hl⟩ := h
    · simp [hw, hm]
    · simp [hw, hl]
  unfold Chip.resumeGroup
  rw [hr]
  refine (if_neg hcond).trans ?_
  unfold Chip.restoreEnded Chip.restoreTold
  rfl

end

/-! Messages (R403, R405, R406, R409). -/

section
variable {c : Chip} {src dev : Nat}

theorem Chip.silentRx_hosted {f : Nat} (h : (c.hostNo dev).any (fun j => c.on (.host j) R.HOST_SRC_ACCEPTED) = true) (w : Nat) :
    c.silentRx src dev w f =
      ({ c with recov := { c.recov with told := c.recov.told.insert dev (if f = 0 then w else NO_PARTNER) } } : Chip).tryDeclare dev := if_pos h

theorem Chip.silentRx_other {f : Nat} (h : (c.hostNo dev).any (fun j => c.on (.host j) R.HOST_SRC_ACCEPTED) = false) (w : Nat) :
    c.silentRx src dev w f = if f = 0 then c.mgmtSend src MT_SILENT [dev, NO_STEP, 1] else c :=
  if_neg (by rw [h]; decide)

theorem Chip.lostRx_ignored {st f : Nat} (h : c.isSelf dev = true ∨ c.recov.losts.any (fun x => x.dev == dev && x.step == st) = true) :
    c.lostRx src dev st f = c := if_pos (Bool.or_eq_true_iff.mpr h)

/-- Where the lost device had declared losses itself, its claims are taken over. -/
def Chip.claimsTakenOver (c : Chip) (dev : Nat) : Chip :=
  if c.recov.refused.contains dev then
    forAll (c.recov.losts.filter (fun x => x.by_ == dev && x.dev != dev && c.recov.refused.contains x.dev)) c Chip.takeOver
  else c

theorem Chip.lostRx_first {st f : Nat} (hself : c.isSelf dev = false) (h : c.recov.losts.any (fun x => x.dev == dev && x.step == st) = false) :
    let x := (c.takeLost dev st (if f = 0 then src else f - 1) (f != 0)).claimsTakenOver dev
    c.lostRx src dev st f = if f ≠ 0 ∧ x.isSelf (f - 1) = true ∧ (x.hostNo dev).any (fun j => (x.newestSealed j).isSome) = true
      then x.openClaim dev st else x :=
  if_neg (by rw [hself, h]; decide)

theorem Chip.fenceRx_self (hself : c.isSelf dev = true) (hrole : c.getF .res R.RES_STATE_ROLE ≠ 4) : c.fenceRx dev = c.fenceSelf :=
  if_pos (by rw [hself, bne_iff_ne.mpr hrole]; rfl)

theorem Chip.spareGrantRx_granted {x : Claim} {j : Nat}
    (hx : c.recov.claims.find? (fun x => x.dev == dev && x.spare == some (rankOf src) && !x.granted) = some x) (hj : c.hostNo dev = some j) :
    let y := ((c.mapClaim dev (fun y => { y with granted := true })).noteBusy (rankOf src)).loadSpare j src x.step
    c.spareGrantRx src dev = if y.reqs.any (fun r => r.who == Requester.cab .load && r.msg.dst == src && r.resp.isSome)
      then (y.cabDrop (· == .load)).spareOut dev (rankOf src) else y := by
  intro y
  unfold Chip.spareGrantRx
  rw [hx, hj]

theorem Chip.spareBusyRx_asked (h : ∃ x ∈ c.recov.claims, x.dev = dev ∧ x.spare = some (rankOf src) ∧ x.granted = false) :
    c.spareBusyRx src dev = c.spareOut dev (rankOf src) := by
  obtain ⟨x, hx, hdev, hspare, hgranted⟩ := h
  exact if_pos (List.any_eq_true.mpr ⟨x, hx, by simp [hdev, hspare, hgranted]⟩)

theorem Chip.spareFreeRx_spare (h : c.spareRanks.contains (rankOf src) = true) :
    let l : List Claim := c.recov.claims.map (fun (y : Claim) => { y with tried := y.tried.filter (· != rankOf src) })
    let x := c.setRecov { c.recov with free := rankOf src :: c.recov.free.filter (· != rankOf src), claims := l }
    c.spareFreeRx src = (forAll ((x.recov.claims.filter (fun y => y.spare.isNone)).map (·.dev)) x Chip.claimSpare).relevel :=
  if_neg (by rw [h]; decide)

/-- The route to the lost device is that to its spare, on every die, and the spare has gone. -/
def Chip.rerouted (c : Chip) (src dev : Nat) : Chip :=
  let y := forAll (upto 4) c (fun c die => forAll Tbl.ROUTE c (fun c g => c.setF (.route die dev) g (c.getF (.route die src) g)))
  { y with recov := { y.recov with gone := if y.recov.gone.contains (rankOf src) then y.recov.gone else rankOf src :: y.recov.gone } }

theorem Chip.loadDoneRx_known {st : Nat} {x : Lost} (h : (c.rerouted src dev).recov.losts.find? (fun x => x.dev == dev && x.step == st) = some x) :
    let z := c.rerouted src dev
    c.loadDoneRx src dev st = if z.isSelf x.by_ then z.tick.adoptPoll dev (Config.freeBits z.freeCtr 32 % 2 ^ 32)
      else z.mgmtSend x.by_ MT_ADOPTED [dev] := by
  unfold Chip.rerouted at h ⊢
  unfold Chip.loadDoneRx
  dsimp only at h ⊢
  rw [h]

theorem Chip.adoptPoll_granted {us : Nat} {x : Claim} (h : c.recov.claims.find? (fun x => x.dev == dev && x.granted) = some x) :
    c.adoptPoll dev us = if (c.memberRanks.filter (fun r => !c.isSelf (c.rankDev r) && c.rankDev r != dev)).all x.adopted.contains
      then (({ c with recov := { c.recov with claims := c.recov.claims.filter (fun y => y.dev != dev) } } : Chip).broadcast false
        MT_RESUME_GROUP [x.step]).resumeGroup us else c := by
  unfold Chip.adoptPoll
  rw [h]

end

section
variable {s : State} {p : Fin 24} {d : Chip} {m : Msg} {typ : Nat} (hup : s.up)
  (ha : s.chip.arrives p (fun x => x.opc == 0x30 && x.addr % 65536 == typ) d m)
include hup ha

/-- A management message of the type that a command takes has the effect of that command. -/
theorem exec_of_mgmt {cmd : Instr} (g : Chip → Nat → (Nat → Nat) → Chip) (harm : exec cmd s = s.onMc (fun c => c.mgmtMsg p typ g)) :
    exec cmd s = s.goes ((g d m.src (fun i => Config.mgmtField typ i m.data)).idleOut p 8).after := by
  rw [exec_of_onMc hup harm, Chip.mgmtMsg, Chip.takeMsg_arrives _ ha]

end

/-- Settles O55: the commands by what each of them does to the recovery unit, and the messages by the same after their arrival. -/
theorem lossesAreDeclaredAndSparesAdopted : Obligations.LossesAreDeclaredAndSparesAdopted := by
  unfold Obligations.LossesAreDeclaredAndSparesAdopted
  refine ⟨fun s hup => ⟨?heartbeat, ?silent, ?declare, ?load⟩,
    fun c dev st src fenced => ⟨Chip.takeLost_again, Chip.takeLost_first, fun w => ⟨Chip.restoreBegin_fenced, fun h => ⟨?rollFirst, fun hr => ?rollAgain⟩⟩,
      c.fenceSelf_shows.1, c.fenceSelf_shows.2, ?resume⟩,
    fun s p d m typ hup ha => ?messages⟩
  case heartbeat => exact exec_of_onMc (f := (·.heartbeatSend)) hup rfl
  case silent =>
    intro dev hpeer hnew x y tell
    refine ⟨fun i hi ha hj => ?_, fun j hi hj => ?_⟩
    · rw [exec_of_onMc (f := (·.partnerSilent dev.toNat)) hup rfl, Chip.partnerSilent_partner hpeer hnew hi ha hj]
      rfl
    · rw [exec_of_onMc (f := (·.partnerSilent dev.toNat)) hup rfl, Chip.partnerSilent_source hpeer hnew hi hj]
      rfl
  case declare =>
    intro dev j hj hdeclare b x others heard first w u lost not
    have hj' : b.hostNo dev.toNat = some j := hj
    have hdue : b.recov.due.contains dev.toNat = true := s.chip.madeDue_due dev.toNat
    have hexec : exec (.lossDeclare dev) s = s.goes (b.tryDeclare dev.toNat).after := by
      rw [exec_of_onMc (f := (·.lossDeclare dev.toNat)) hup rfl, Chip.lossDeclare_tries hdeclare]
      rfl
    have hfirst : b.declaresFirst dev.toNat = true ↔ first := by
      rw [Chip.declaresFirst, Bool.or_eq_true, beq_iff_eq, List.all_eq_true]
      simp only [decide_eq_true_iff]
      rfl
    have hlost (h : b.tryDeclare dev.toNat = x.declareLoss dev.toNat w) : lost := by
      show exec _ s = _
      rw [hexec, h]
      rfl
    have hnot (h : b.tryDeclare dev.toNat = x) : not := by
      show exec _ s = _
      rw [hexec, h]
    refine ⟨fun hothers hheard => ?_, fun hothers hheard => ?_, fun v hv => ⟨fun hhigh => ?_, fun hlow => ?_⟩⟩
    · rw [hexec, Chip.tryDeclare_waits hj' hothers hheard]
    · refine hlost ((Chip.tryDeclare_alone hj' hdeclare hdue (.inl hothers)
        (congrArg (Option.filter _) hheard)).trans (if_pos (.inr (hfirst.mpr (.inr ?_)))))
      rw [hothers]
      exact fun d hd => absurd hd List.not_mem_nil
    · have halone := Chip.tryDeclare_alone hj' hdeclare hdue (.inr (congrArg Option.isSome hv))
        ((congrArg (Option.filter _) hv).trans (Option.filter_lt_none hhigh))
      refine ⟨fun h => hlost (halone.trans (if_pos ?_)), fun hn hf => hnot (halone.trans (if_neg ?_))⟩
      · exact h.imp Option.ne_none_iff_isSome.mp hfirst.mpr
      · rintro (h | h)
        · exact Option.ne_none_iff_isSome.mpr h hn
        · exact hf (hfirst.mp h)
    · obtain ⟨hnone, hsome⟩ := Chip.tryDeclare_against hj' hdeclare hdue (.inr (congrArg Option.isSome hv))
        ((congrArg (Option.filter _) hv).trans (Option.filter_lt_some hlow))
      refine ⟨fun hn => hnot (hnone hn), fun k hk => ⟨fun h => ?_, fun h => hnot ((hsome k hk).trans (if_neg (fun h' => h (h'.imp_right (And.imp_right hfirst.mp)))))⟩⟩
      refine hlost ((hsome k hk).trans ((if_pos (h.imp_right (And.imp_right hfirst.mpr))).trans ?_))
      rw [show w = k from congrArg (·.getD NO_STEP) hk]
      rfl
  case load =>
    intro plan stage src dev hload l st x x at_ held
    have hexec : exec (.loadDone none plan stage) s = s.goes (s.chip.loadDoneHere plan stage).after :=
      exec_of_onMc (f := (·.loadDoneHere plan stage)) hup rfl
    refine ⟨fun h => ?_, fun h hfail => ?_, fun h hok => ?_⟩
    · rw [hexec, Chip.loadDoneHere_other hload h]
    · rw [hexec, Chip.loadDoneHere_failed hload h hfail]
      rfl
    · obtain ⟨e, he⟩ := Chip.loadDoneHere_loaded hload h hok
      obtain ⟨hvalid, halias, hrole⟩ := e.takePlace_shows dev
      exact ⟨_, hexec.trans (congrArg (fun y : Chip => s.goes y.after) he), hvalid, halias, hrole, rfl, rfl, rfl⟩
  case rollFirst =>
    intro hr y
    have hy : (c.rollTo dev st).rollbackBegun st = y := rfl
    have hpart : y.partRun c.protPart = c.partRun c.protPart := rfl
    rw [Chip.restoreBegin_first h hr, hy, Chip.holdPart, hpart]
  case rollAgain => exact Chip.restoreBegin_again h hr
  case resume =>
    intro us step hr ready q
    refine ⟨Chip.resumeGroup_early hr, fun h => ⟨_, Chip.resumeGroup_ready hr h, ?_⟩⟩
    exact Chip.restoreEnded_shows q c.protPart us
  case messages =>
    intro f ends rank
    have hmsg {cmd : Instr} (g : Chip → Nat → (Nat → Nat) → Chip) (harm : exec cmd s = s.onMc (fun c => c.mgmtMsg p typ g)) :
      exec cmd s = ends (g d m.src f) := exec_of_mgmt hup ha g harm
    refine ⟨?heartbeat, ?silent, ?lost, ?fence, ?claim, ?grant, ?busy, ?free, ?loaded, fun us => ⟨?adopted, ?resumed⟩, ?booted⟩
    case heartbeat =>
      rintro rfl x r y
      have harm := hmsg (cmd := .heartbeat p) (fun c src f => c.heartbeatRx src (f 0) (f 1)) rfl
      exact ⟨fun i hi hacc => harm.trans (congrArg ends (Chip.heartbeatRx_partner hi hacc _ _)),
        fun hi => harm.trans (congrArg ends (Chip.heartbeatRx_stranger hi _ _))⟩
    case silent =>
      rintro rfl
      have harm := hmsg (cmd := .silent p) (fun c src f => c.silentRx src (f 0) (f 1) (f 2)) rfl
      exact ⟨fun h => harm.trans (congrArg ends (Chip.silentRx_hosted h _)), fun h => harm.trans (congrArg ends (Chip.silentRx_other h _))⟩
    case lost =>
      rintro rfl
      have harm := hmsg (cmd := .lost p) (fun c src f => c.lostRx src (f 0) (f 1) (f 2)) rfl
      refine ⟨fun h => harm.trans (congrArg ends (Chip.lostRx_ignored (.inl h))), fun _ h => harm.trans (congrArg ends (Chip.lostRx_ignored (.inr h))),
        fun hself hnew => ?_⟩
      intro x left x mine
      have hfirst := Chip.lostRx_first (src := m.src) (f := f 2) hself hnew
      exact ⟨fun h => harm.trans (congrArg ends (hfirst.trans (if_pos h))), fun h => harm.trans (congrArg ends (hfirst.trans (if_neg h)))⟩
    case fence =>
      rintro rfl hself hrole
      exact (hmsg (fun c _ f => c.fenceRx (f 0)) rfl).trans (congrArg ends (Chip.fenceRx_self hself hrole))
    case claim =>
      rintro rfl
      exact hmsg (fun c src f => c.spareClaimRx src (f 0)) rfl
    case grant =>
      rintro x j rfl hx hj y
      exact (hmsg (fun c src f => c.spareGrantRx src (f 0)) rfl).trans (congrArg ends (Chip.spareGrantRx_granted hx hj))
    case busy =>
      rintro rfl h
      exact (hmsg (fun c src f => c.spareBusyRx src (f 0)) rfl).trans (congrArg ends (Chip.spareBusyRx_asked h))
    case free =>
      rintro rfl h l x
      exact (hmsg (fun c src _ => c.spareFreeRx src) rfl).trans (congrArg ends (Chip.spareFreeRx_spare h))
    case loaded =>
      rintro plan stage x rfl y z hx
      exact (hmsg (fun c src f => c.loadDoneRx src (f 0) (f 1)) rfl).trans (congrArg ends (Chip.loadDoneRx_known hx))
    case adopted =>
      rintro x rfl y hx
      refine ((hmsg (fun c src f => c.adoptedRx src (f 0) us.toNat) rfl).trans (congrArg ends (Chip.adoptPoll_granted hx))).trans ?_
      exact apply_ite ends _ _ _
    case resumed =>
      rintro rfl
      exact hmsg (fun c _ _ => c.resumeGroupRx us.toNat) rfl
    case booted =>
      rintro rfl
      exact hmsg (fun c _ _ => { c with recov := { c.recov with bootDones := c.recov.bootDones + 1 } }) rfl

end Sys2Proof.Machine
end

section
/-! SUPPORT and certificates. What the management core does about a loss leaves a PLDM event behind (R407, R471): nothing but `Chip.pldmEvent` and
`Chip.watch` touches the terminus, so a command whose next state shows no event has reported no loss. -/

namespace Sys2Proof.Machine

/-! Operations that leave the PLDM terminus alone: registers, memory and the requests of an agent. -/

section
variable (c : Chip)

@[simp] theorem forAll_pldm {α : Type} {f : Chip → α → Chip} (h : ∀ c a, (f c a).pldm = c.pldm) (l : List α) : (forAll l c f).pldm = c.pldm :=
  forAll_keeps Chip.pldm l c f h

theorem Chip.Traces.pldm {d : Chip} (h : c.Traces d) : d.pldm = c.pldm := by
  obtain ⟨_, _, _, _, _, _, _, _, rfl⟩ := h
  rfl

@[simp] theorem Chip.setB_pldm (b : Blk) (f : Field) (v : Bool) : (c.setB b f v).pldm = c.pldm := rfl
@[simp] theorem Chip.addF_pldm (b : Blk) (f : Field) (n : Nat) : (c.addF b f n).pldm = c.pldm := rfl
@[simp] theorem Chip.raise_pldm (b : Blk) (st : Status) : (c.raise b st).pldm = c.pldm := rfl
@[simp] theorem Chip.raiseIf_pldm (p : Bool) (b : Blk) (st : Status) : (c.raiseIf p b st).pldm = c.pldm := by cases p <;> rfl
@[simp] theorem Chip.setFs_pldm (b : Blk) (l : List (Field × Nat)) : (c.setFs b l).pldm = c.pldm := (c.setFs_traces b l).pldm
@[simp] theorem Chip.poke_pldm (a : Nat) (bs : List Byte) : (c.poke a bs).pldm = c.pldm := rfl
@[simp] theorem Chip.agentRead_pldm (ag : Agent) (a n : Nat) : (c.agentRead ag a n).1.pldm = c.pldm := (c.agentRead_traces ag a n).pldm
@[simp] theorem Chip.agentWrite_pldm (ag : Agent) (a en : Nat) (bs : List Byte) : (c.agentWrite ag a en bs).1.pldm = c.pldm :=
  (c.agentWrite_traces ag a en bs).pldm
@[simp] theorem Chip.agentReadIo_pldm (ag : Agent) (a n : Nat) : (c.agentReadIo plainIo ag a n).1.pldm = c.pldm := c.agentRead_pldm ag a n
@[simp] theorem Chip.agentWriteIo_pldm (ag : Agent) (a en : Nat) (bs : List Byte) : (c.agentWriteIo plainIo ag a en bs).1.pldm = c.pldm :=
  c.agentWrite_pldm ag a en bs
@[simp] theorem Chip.noteReads_pldm (ag : Agent) (l : List (Nat × Nat)) : (c.noteReads ag l).pldm = c.pldm := (c.readAll_traces ag l).pldm
@[simp] theorem Chip.mcRead_pldm (a n : Nat) : (c.mcRead a n).1.pldm = c.pldm := by
  have h := c.agentRead_pldm mcAgent a n
  unfold Chip.mcRead
  split <;> rename_i hr <;> rw [hr] at h <;> exact h
@[simp] theorem Chip.mcZero_pldm (a n : Nat) : (c.mcZero a n).pldm = c.pldm := by simp [Chip.mcZero]
@[simp] theorem Chip.storePhys_pldm (p : MemPos) (bs : List Byte) : (c.storePhys p bs).pldm = c.pldm :=
  ((Chip.addF_traces _ _ _ _).step ((Chip.bufWrite_traces _ _ _).step (c.setMem_traces _))).pldm

/-! The fabric. -/

@[simp] theorem Chip.sendFlit_pldm (p typ vc fill : Nat) (bs : List Byte) : (c.sendFlit p typ vc fill bs).pldm = c.pldm := rfl
@[simp] theorem Chip.sendVc_pldm (p vc : Nat) : (c.sendVc p vc).pldm = c.pldm := by
  unfold Chip.sendVc
  dsimp only
  split <;> simp
@[simp] theorem Chip.pump_pldm (p fuel : Nat) : (c.pump p fuel).pldm = c.pldm := by
  induction fuel generalizing c with
  | zero => rfl
  | succ fuel ih =>
    unfold Chip.pump
    dsimp only
    split
    · simp [ih]
    · split <;> simp [ih]
@[simp] theorem Chip.toPort_pldm (d p : Nat) (m : Msg) : (c.toPort d p m).pldm = c.pldm := by
  simp only [Chip.toPort, Chip.enqueue, Chip.pumpPort, Chip.pump_pldm, Chip.setPort_pldm, Chip.nocCross, Chip.nocHop]
  split <;> rfl
@[simp] theorem Chip.fabSend_pldm (d : Nat) (via : Option Nat) (m : Msg) : (c.fabSend d via m).1.pldm = c.pldm := by
  unfold Chip.fabSend
  repeat' split
  all_goals simp
@[simp] theorem Chip.fabRequest_pldm (d : Nat) (who : Requester) (via : Option Nat) (m : Msg) : (c.fabRequest d who via m).1.pldm = c.pldm := by
  simp [Chip.fabRequest]
@[simp] theorem Chip.mgmtSend_pldm (dev typ : Nat) (l : List Nat) : (c.mgmtSend dev typ l).pldm = c.pldm := by simp [Chip.mgmtSend]
@[simp] theorem Chip.broadcast_pldm (spares : Bool) (typ : Nat) (l : List Nat) : (c.broadcast spares typ l).pldm = c.pldm := by simp [Chip.broadcast]

/-! Caches and the vector engine. -/

@[simp] theorem Chip.cacheTouch_pldm (cl k ctx : Nat) (l : CacheLine) : (c.cacheTouch cl k ctx l).pldm = c.pldm := rfl
@[simp] theorem Chip.writeBack_pldm (cl k : Nat) (l : CacheLine) : (c.writeBack cl k l).pldm = c.pldm := by
  unfold Chip.writeBack
  split <;> simp
@[simp] theorem Chip.cacheClean_pldm (cl k : Nat) (sel : Nat → Bool) (wb inv : Bool) : (c.cacheClean cl k sel wb inv).pldm = c.pldm := by
  unfold Chip.cacheClean
  dsimp only
  split <;> simp
@[simp] theorem Chip.cacheFill_pldm (cl k ctx a : Nat) (fill : Bool) : (c.cacheFill cl k ctx a fill).1.pldm = c.pldm := by
  unfold Chip.cacheFill
  dsimp only
  repeat' split
  all_goals simp
@[simp] theorem Chip.cacheLoad_pldm (cl k ctx : Nat) (ag : Agent) (a n : Nat) : (c.cacheLoad cl k ctx ag a n).1.pldm = c.pldm := by
  unfold Chip.cacheLoad
  split
  · simp
  · dsimp only
    split <;> split <;> simp
@[simp] theorem Chip.cacheStore_pldm (cl k ctx : Nat) (ag : Agent) (a en : Nat) (bs : List Byte) : (c.cacheStore cl k ctx ag a en bs).1.pldm = c.pldm := by
  unfold Chip.cacheStore
  split
  · simp
  · dsimp only
    split <;> split <;> simp
@[simp] theorem Chip.setCtx_pldm (cl k t : Nat) (x : VeCtx) : (c.setCtx cl k t x).pldm = c.pldm := rfl
@[simp] theorem Chip.veAddAt_pldm (ag : Agent) (a size raw : Nat) : (c.veAddAt plainIo ag a size raw).1.pldm = c.pldm := by
  unfold Chip.veAddAt
  dsimp only
  split <;> simp
theorem Chip.veAdds_pldm (ag : Agent) (a size : Nat) (l : List (Nat × Nat)) (x : Chip × Code) :
    (l.foldl (fun (s : Chip × Code) e => if s.2 != COMP_OK then s else s.1.veAddAt plainIo ag (a + e.1) size e.2) x).1.pldm = x.1.pldm := by
  induction l generalizing x with
  | nil => rfl
  | cons e l ih =>
    rw [List.foldl_cons, ih]
    split <;> simp
@[simp] theorem Chip.vePerform_pldm (cl k t : Nat) (live : Bool) (r : VeReq) : (c.vePerform plainIo cl k t live r).1.pldm = c.pldm := by
  unfold Chip.vePerform
  dsimp only
  split
  · split <;> split <;> simp
  · split <;> simp
  · exact Chip.veAdds_pldm _ _ _ _ _
@[simp] theorem Chip.veAbandon_pldm (cl k : Nat) : (c.veAbandon cl k).pldm = c.pldm := by
  have hspent (l : List Field) : (forAll l c (fun c f => (c.addF (.ve cl k) f (Config.waitCycles c.freeCtr).toNat).tick)).pldm = c.pldm :=
    forAll_keeps Chip.pldm l c _ (fun _ _ => rfl)
  unfold Chip.veAbandon
  dsimp only
  split <;> refine (forAll_pldm _ (fun c s => ?_) _).trans (hspent _) <;> split <;> simp

/-! Channels, sequencers and queues. -/

@[simp] theorem Chip.setChan_pldm (cl n : Nat) (x : DmaCh) : (c.setChan cl n x).pldm = c.pldm := rfl
@[simp] theorem Chip.dropChannels_pldm (f : Nat → Nat → Bool) : (c.dropChannels f).pldm = c.pldm := rfl
@[simp] theorem Chip.dmaReset_pldm (cl : Nat) : (c.dmaReset cl).pldm = c.pldm := by
  have hdrop : (forAll (upto 32) c (fun c n => c.dropWaits (.dma cl n))).pldm = c.pldm := forAll_keeps Chip.pldm _ c _ (fun _ _ => rfl)
  unfold Chip.dmaReset
  dsimp only
  rw [Chip.setDma_pldm, forAll_pldm, Chip.dropChannels_pldm, hdrop]
  intro c n
  split <;> simp
@[simp] theorem Chip.clearMarks_pldm (g first last : Nat) : (c.clearMarks g first last).pldm = c.pldm := by
  simp [Chip.clearMarks, apply_ite Chip.pldm]
@[simp] theorem Chip.setWin_pldm (cl k : Nat) (high : Bool) (base count : Nat) : (c.setWin cl k high base count).pldm = c.pldm := by
  simp [Chip.setWin, Chip.closeWindows, apply_ite Chip.pldm]
@[simp] theorem Chip.outsideWin_pldm (cl k : Nat) : (c.outsideWin cl k).pldm = c.pldm := by
  simp [Chip.outsideWin, apply_ite Chip.pldm]
@[simp] theorem Chip.clearGrants_pldm (cl : Nat) : (c.clearGrants cl).pldm = c.pldm := by
  unfold Chip.clearGrants
  refine (forAll_pldm _ (fun c k => ?_) _).trans (forAll_pldm c (fun c q => ?_) _)
  · simp [Chip.setSpGrant]
  · exact c.setFs_pldm _ _
@[simp] theorem Chip.setPoolRegs_pldm (cl : Nat) : (c.setPoolRegs cl).pldm = c.pldm := by simp [Chip.setPoolRegs]
@[simp] theorem Chip.setShelf_pldm (r : ShelfRef) (x : Shelf) : (c.setShelf r x).pldm = c.pldm := by
  unfold Chip.setShelf
  split <;> rfl
@[simp] theorem Chip.closeStaging_pldm (cl : Nat) : (c.closeStaging cl).pldm = c.pldm := by simp [Chip.closeStaging]
@[simp] theorem Chip.ownChannels_pldm (cl : Nat) (own : Bool) : (c.ownChannels cl own).pldm = c.pldm := by simp [Chip.ownChannels]
@[simp] theorem Chip.rseqHalt_pldm (cl reason code rally step mb : Nat) : (c.rseqHalt cl reason code rally step mb).pldm = c.pldm := by
  unfold Chip.rseqHalt
  dsimp only
  split
  · rfl
  · simp [Chip.rsErr, apply_ite Chip.pldm]
@[simp] theorem Chip.ckptLoss_pldm (cl : Nat) : (c.ckptLoss cl).pldm = c.pldm := by
  unfold Chip.ckptLoss
  dsimp only
  repeat' split
  all_goals simp
@[simp] theorem Chip.rseqReset_pldm (cl : Nat) : (c.rseqReset cl).pldm = c.pldm := by
  simp [Chip.rseqReset, apply_ite Chip.pldm]
@[simp] theorem Chip.wqReset_pldm (p : Nat) (keep : Option Nat) : (c.wqReset p keep).pldm = c.pldm := by
  unfold Chip.wqReset
  refine forAll_pldm c (fun c n => ?_) _
  repeat' split
  all_goals simp

/-! Sequence contexts. -/

@[simp] theorem Chip.pushPage_pldm (p page : Nat) : (c.pushPage p page).pldm = c.pldm := by simp [Chip.pushPage, Chip.setWord32]
@[simp] theorem Chip.pushPages_pldm (p i lo hi : Nat) : (c.pushPages p i lo hi).pldm = c.pldm := by simp [Chip.pushPages]
@[simp] theorem Chip.freeCtx_pldm (p i : Nat) : (c.freeCtx p i).pldm = c.pldm := by simp [Chip.freeCtx]
@[simp] theorem Chip.unpin_pldm (p : Nat) (t : Batch) : (c.unpin p t).pldm = c.pldm := by simp [Chip.unpin, apply_ite Chip.pldm]
@[simp] theorem Chip.batchUnwind_pldm (p : Nat) : (c.batchUnwind p).pldm = c.pldm := by
  unfold Chip.batchUnwind
  split <;> simp

/-! Resets. -/

@[simp] theorem Chip.coreReset_pldm (cl k : Nat) : (c.coreReset cl k).pldm = c.pldm := c.veAbandon_pldm cl k
theorem Chip.cachesReset_pldm (f : Nat → Bool) (x : KMap Cache) : ({ c.shelvesReset f with caches := x } : Chip).pldm = c.pldm := rfl
theorem Chip.waitsReset_pldm (cl : Nat) (w : List SyncWait) (r : List (Nat × Nat)) :
    (({ c with waits := w, rolled := r } : Chip).regsReset cl).pldm = c.pldm := rfl
@[simp] theorem Chip.clusterReset_pldm (cl : Nat) : (c.clusterReset cl).pldm = c.pldm := by
  unfold Chip.clusterReset
  extract_lets reset lost cores closed gone zeroed cleared last
  calc (forAll lost last (fun c k => c.raise (.sp cl k) St.SP_CACHE_LOST_DIRTY)).pldm
    _ = last.pldm := forAll_keeps Chip.pldm lost last _ (fun _ _ => rfl)
    _ = cleared.pldm := cleared.waitsReset_pldm cl _ _
    _ = zeroed.pldm := zeroed.setMem_pldm _
    _ = gone.pldm := forAll_keeps Chip.pldm (upto 16) gone _ (fun _ _ => rfl)
    _ = cores.pldm := cores.cachesReset_pldm _ _
    _ = reset.pldm := forAll_keeps Chip.pldm _ _ _ (fun c k => c.coreReset_pldm cl k)
    _ = c.pldm := ((c.rseqReset cl).dmaReset_pldm cl).trans (c.rseqReset_pldm cl)
@[simp] theorem Chip.channelReset_pldm (cl n : Nat) : (c.channelReset cl n).pldm = c.pldm := by
  unfold Chip.channelReset Chip.blockReset
  exact forAll_keeps Chip.pldm _ _ _ (fun _ _ => rfl)
@[simp] theorem Chip.clearValid_pldm (cl k b : Nat) : (c.clearValid cl k b).pldm = c.pldm := rfl
@[simp] theorem Chip.closeVts_pldm (cl k w : Nat) : (c.closeVts cl k w).pldm = c.pldm := rfl
@[simp] theorem Chip.dropStep_pldm (cl g : Nat) : (c.dropStep cl g).pldm = c.pldm := rfl
@[simp] theorem Chip.memberReset_pldm (p cl : Nat) : (c.memberReset p cl).pldm = c.pldm := by
  simp [Chip.memberReset, Chip.shelvesReset, apply_ite Chip.pldm]
@[simp] theorem Chip.countersToBase_pldm (p : Nat) : (c.countersToBase p).pldm = c.pldm := by
  unfold Chip.countersToBase
  extract_lets b n stored counted
  calc counted.pldm
    _ = stored.pldm := forAll_keeps Chip.pldm _ _ _ (fun _ _ => rfl)
    _ = c.pldm := forAll_keeps Chip.pldm _ _ _ (fun _ _ => rfl)
@[simp] theorem Chip.partReset_pldm (p : Nat) : (c.partReset p).pldm = c.pldm := by
  unfold Chip.partReset Chip.partResetWith
  split
  · rfl
  · split
    · simp
    · simp [Chip.memAbandon, Chip.setPartState, apply_ite Chip.pldm]

/-! The recovery unit. -/

@[simp] theorem Chip.restoreBegin_pldm (dev w : Nat) : (c.restoreBegin dev w).pldm = c.pldm := by
  unfold Chip.restoreBegin
  dsimp only
  repeat' split
  all_goals simp
@[simp] theorem Chip.rewrite_pldm (r : Nat × Nat × Nat) (f : Nat → Option (List Byte)) : (c.rewrite r f).pldm = c.pldm := by
  unfold Chip.rewrite
  refine forAll_pldm c (fun c t => forAll_pldm c (fun c di => ?_) _) _
  split <;> simp
@[simp] theorem Chip.repairEnd_pldm (r : Nat × Nat × Nat) : (c.repairEnd r).pldm = c.pldm := by
  unfold Chip.repairEnd
  dsimp only
  split <;> simp
@[simp] theorem Chip.repairRange_pldm (s : Option Nat) (r : Nat × Nat × Nat) : (c.repairRange s r).pldm = c.pldm := by
  unfold Chip.repairRange
  dsimp only
  split
  · simp
  · split
    · simp
    · rw [Chip.repairEnd_pldm]
      refine (forAll_pldm _ (fun c t => forAll_pldm c (fun c di => ?_) _) _).trans (c.rewrite_pldm _ _)
      split
      · exact c.fabRequest_pldm _ _ _ _
      · rfl
@[simp] theorem Chip.fenceSelf_pldm : c.fenceSelf.pldm = c.pldm := by simp [Chip.fenceSelf, apply_ite Chip.pldm]
@[simp] theorem Chip.stateLost_pldm : c.stateLost.pldm = c.pldm := rfl
@[simp] theorem Chip.selfLost_pldm : c.selfLost.pldm = c.pldm := by
  unfold Chip.selfLost
  split <;> simp
@[simp] theorem Chip.cabStore_pldm (a : Nat) (bs : List Byte) : (c.cabStore a bs).pldm = c.pldm := by simp [Chip.cabStore]
@[simp] theorem Chip.markSlot_pldm (j slot w : Nat) : (c.markSlot j slot w).pldm = c.pldm := by simp [Chip.markSlot]
@[simp] theorem Chip.fillClear_pldm (j : Nat) : (c.fillClear j).pldm = c.pldm := by simp [Chip.fillClear]
@[simp] theorem Chip.cabLoseSlots_pldm (j slots : Nat) : (c.cabLoseSlots j slots).pldm = c.pldm := by
  simp [Chip.cabLoseSlots, apply_ite Chip.pldm]

/-! The terminus's own events. -/

theorem Chip.pldmEvent_receiver (source value : Nat) : (c.pldmEvent source value).pldm.receiver = c.pldm.receiver := by
  unfold Chip.pldmEvent
  split
  · rfl
  · simp

/-- With a receiver an event is queued. -/
theorem Chip.pldmEvent_queues (h : c.pldm.receiver.isSome = true) (source value : Nat) : (c.pldmEvent source value).pldm.events ≠ [] := by
  unfold Chip.pldmEvent
  split
  next hnone => rw [hnone] at h; cases h
  next => simp

/-- Events never leave an empty queue behind. -/
theorem Chip.pldmEvent_keeps (h : c.pldm.events ≠ []) (source value : Nat) : (c.pldmEvent source value).pldm.events ≠ [] := by
  unfold Chip.pldmEvent
  split
  · exact h
  · simp

/-- All that follows the event of a loss leaves the terminus alone. -/
theorem Chip.lossOne_pldm (r : Nat × Nat × Nat) : (c.lossOne r).pldm = ((c.raise .res St.RES_LOCAL_LOSS).pldmEvent 258 r.1).pldm := by
  have hlose (l : List (Nat × Nat)) (d : Chip) : (forAll l d (fun c e => c.cabLoseSlots e.1 e.2)).pldm = d.pldm :=
    forAll_keeps Chip.pldm l d _ (fun c e => c.cabLoseSlots_pldm e.1 e.2)
  unfold Chip.lossOne
  extract_lets d slots rewritten
  have hrewritten : rewritten.pldm = d.pldm := by
    simp only [rewritten, apply_ite Chip.pldm, Chip.clearMarks_pldm, Chip.rewrite_pldm, ite_self]
  split
  · rfl
  · exact (hlose _ _).trans hrewritten
  · split
    · split
      · rfl
      · split
        · exact d.selfLost_pldm
        · extract_lets step told recov noted begun
          have hbegun : begun.pldm = d.pldm := (Chip.restoreBegin_pldm _ _ _).trans (d.broadcast_pldm _ _ _)
          split
          · exact (begun.repairRange_pldm _ _).trans hbegun
          · exact hbegun
    · extract_lets fresh freed
      refine (Chip.repairRange_pldm _ _ _).trans ((forAll_pldm fresh (fun c k => ?_) _).trans (d.partReset_pldm _))
      split <;> simp

theorem Chip.lossOne_receiver (r : Nat × Nat × Nat) : (c.lossOne r).pldm.receiver = c.pldm.receiver := by
  rw [Chip.lossOne_pldm, Chip.pldmEvent_receiver, Chip.raise_pldm]

/-- Losses that the management core takes while a receiver is set leave events. -/
theorem Chip.losses_reported (h : c.pldm.receiver.isSome = true) (r : Nat × Nat × Nat) (l : List (Nat × Nat × Nat)) :
    (forAll (r :: l) c Chip.lossOne).pldm.events ≠ [] := by
  induction l generalizing c r with
  | nil =>
    show (c.lossOne r).pldm.events ≠ []
    rw [Chip.lossOne_pldm]
    exact Chip.pldmEvent_queues (c.raise .res St.RES_LOCAL_LOSS) h _ _
  | cons x l ih => exact ih (c.lossOne r) (by rw [Chip.lossOne_receiver]; exact h) x

/-- Reporting changed sensors queues events and takes none away. -/
theorem Chip.watch_keeps (h : c.pldm.events ≠ []) : c.watch.pldm.events ≠ [] := by
  have hround (l : List (Nat × Nat)) (old : List Nat) (d : Chip) (hd : d.pldm.events ≠ []) :
      (forAll l d (fun c e => if old.getD e.2 0 = e.1 then c else c.pldmEvent (40 + e.2) e.1)).pldm.events ≠ [] := by
    induction l generalizing d with
    | nil => exact hd
    | cons e l ih =>
      refine ih _ ?_
      dsimp only
      split
      · exact hd
      · exact d.pldmEvent_keeps hd _ _
  unfold Chip.watch
  dsimp only
  split
  · exact h
  · exact hround _ _ _ h

theorem Chip.watch_receiver : c.watch.pldm.receiver = c.pldm.receiver := by
  unfold Chip.watch
  dsimp only
  split
  · rfl
  · refine forAll_keeps (fun x : Chip => x.pldm.receiver) _ _ _ (fun x e => ?_)
    split
    · rfl
    · exact x.pldmEvent_receiver _ _

theorem Chip.lossPoll_receiver : c.lossPoll.pldm.receiver = c.pldm.receiver := by
  unfold Chip.lossPoll
  dsimp only
  split
  · rfl
  · rw [forAll_pldm _ (fun c cl => c.ckptLoss_pldm cl)]
    exact forAll_keeps (fun x : Chip => x.pldm.receiver) _ _ _ (fun x r => x.lossOne_receiver r)

/-- A state after a command in which the terminus has a receiver and no event: the command has found no loss. -/
theorem Chip.losses_of_quiet (hreceiver : c.after.pldm.receiver.isSome = true) (hquiet : c.after.pldm.events = []) : c.losses = [] := by
  cases hl : c.losses with
  | nil => rfl
  | cons r l =>
    have hset : c.pldm.receiver.isSome = true := by rwa [Chip.after, Chip.watch_receiver, Chip.lossPoll_receiver] at hreceiver
    have hpoll : c.lossPoll.pldm.events ≠ [] := by
      unfold Chip.lossPoll
      rw [hl]
      rw [if_neg (by simp), forAll_pldm _ (fun c cl => c.ckptLoss_pldm cl)]
      exact Chip.losses_reported { c with losses := [] } hset r l
    exact absurd hquiet (c.lossPoll.watch_keeps hpoll)

/-- Its registers but for the terminus's own count are then those that the command has left. -/
theorem Chip.after_of_quiet (hreceiver : c.after.pldm.receiver.isSome = true) (hquiet : c.after.pldm.events = []) (b : Blk) {f : Field}
    (hl : f.lsb < 64) (h3 : f.lsb ≠ 3) (h48 : f.lsb ≠ 48) : c.after.getF b f = c.getF b f := by
  have hpoll : c.lossPoll = c := by rw [Chip.lossPoll, c.losses_of_quiet hreceiver hquiet]; rfl
  rw [Chip.after, hpoll]
  unfold Chip.watch
  dsimp only
  split
  · rfl
  · refine forAll_keeps (fun x : Chip => x.getF b f) _ _ _ (fun x e => ?_)
    split
    · rfl
    · exact x.getF_pldmEvent _ _ b hl h3 h48

end

end Sys2Proof.Machine
end

section
/-! SUPPORT and certificates. Two statements that speak of every state, at states whose register file no operation has written: one field wider than its
place, one marked as lost in a compute reset though its table keeps it (R9, R326, R435). What the command leaves is read off its next state, which shows
no event and so no loss. -/

namespace Sys2Proof.Machine

/-! A terminus with a receiver, so that every loss would be seen. -/

def listening : Pldm := { State.reset.chip.pldm with receiver := some 8 }

/-- What a command with a quiet next state leaves is what that state shows. -/
theorem Chip.getF_of_goes {s : State} {d e : Chip} (h : s.goes d.after = s.goes e) (hreceiver : e.pldm.receiver.isSome = true) (hquiet : e.pldm.events = [])
    (b : Blk) {f : Field} (hl : f.lsb < 64) (h3 : f.lsb ≠ 3) (h48 : f.lsb ≠ 48) : d.getF b f = e.getF b f := by
  obtain rfl := State.goes_inj h
  exact (d.after_of_quiet hreceiver hquiet b hl h3 h48).symm

/-! Lanes beyond the eighth (R326). -/

/-- A port of 8 lanes whose lane register lists bit 9 too. -/
def wideChip : Chip :=
  { State.reset.chip with
    por := false
    regs := [(fkey (.port 0) R.PORT_STATE, ⟨2, 3, true⟩), (fkey (.port 0) R.PORT_STATE_LANES, ⟨2 ^ 9 + 1, 8, true⟩)]
    pldm := listening }

def wideState : State := { State.reset with chip := wideChip }

/-- The chip after lane 0 of port 0 has passed its limit. -/
def wideNext : Chip := (wideChip.laneError 0 0 0).after

theorem wideNext_quiet : wideNext.pldm.receiver.isSome = true ∧ wideNext.pldm.events = [] ∧ wideNext.getF (.port 0) R.PORT_STATE_LANES = 0 := by
  decide +kernel

/-- Refutes O45 at the lane that leaves a port: with bit 9 of its lanes set too, the register reads 0 afterwards, not the lanes before less lane 0. -/
theorem not_portsTrainAndFall : ¬ Obligations.PortsTrainAndFall := by
  unfold Obligations.PortsTrainAndFall
  intro h
  obtain ⟨-, -, -, -, -, hlane, -⟩ := h wideState 0 rfl
  obtain ⟨d, hexec, -, hlanes, -⟩ := hlane 0 0 (by decide +kernel) (by decide +kernel)
  have harm : exec (.laneErrorLimitExceeded 0 0 0) wideState = wideState.goes wideNext := exec_of_onMc (f := (·.laneError 0 0 0)) rfl rfl
  obtain ⟨hreceiver, hquiet, hnext⟩ := wideNext_quiet
  have hd : d.getF (.port 0) R.PORT_STATE_LANES = 0 :=
    (Chip.getF_of_goes (hexec.symm.trans harm) hreceiver hquiet _ (by decide) (by decide) (by decide)).trans hnext
  have hbefore : wideChip.getF (.port 0) R.PORT_STATE_LANES - 2 ^ 0 = 2 ^ 9 := by decide +kernel
  exact absurd (hd.symm.trans (hlanes.trans hbefore)) (by decide)

/-! A partition whose state is not kept (R435). -/

/-- Partition 0 is being reset, its state stored as one that a compute reset does not keep. -/
def loseStateChip : Chip :=
  { State.reset.chip with
    por := false
    regs := [(fkey (.part 0) R.PART_STATE, ⟨PS_RESETTING, 3, false⟩), (fkey (.boot 0) R.BOOT_STATE_STAGE, ⟨10, 4, true⟩)]
    pldm := listening }

def loseStateState : State := { State.reset with chip := loseStateChip }

/-- The chip after a compute reset. -/
def loseStateNext : Chip := loseStateChip.computeReset.after

theorem loseStateNext_quiet : loseStateNext.pldm.receiver.isSome = true ∧ loseStateNext.pldm.events = [] ∧ loseStateNext.partState 0 = PS_NONE := by
  decide +kernel

/-- Refutes O56 at the compute reset: a formed partition that was being reset takes no reset of its own, and its state is then reset with the registers of
its block. -/
theorem not_bringUpRunsItsStages : ¬ Obligations.BringUpRunsItsStages := by
  unfold Obligations.BringUpRunsItsStages
  intro h
  obtain ⟨-, -, -, -, hreset⟩ := h
  obtain ⟨hup, -⟩ := hreset loseStateState
  obtain ⟨hbegins, -⟩ := hup rfl
  obtain ⟨d, hexec, -, hparts⟩ := hbegins (by decide +kernel) rfl (by decide +kernel)
  have harm : exec .computeReset loseStateState = loseStateState.goes loseStateNext := exec_of_onMc (f := (·.computeReset)) rfl rfl
  obtain ⟨hreceiver, hquiet, hnext⟩ := loseStateNext_quiet
  have hd : d.partState 0 = PS_NONE :=
    (Chip.getF_of_goes (hexec.symm.trans harm) hreceiver hquiet _ (by decide) (by decide) (by decide)).trans hnext
  exact absurd (hd.symm.trans (hparts 0 (by decide) (by decide +kernel))) (by decide)

end Sys2Proof.Machine
end
